-- ==== Sys2Proof/Word.lean ====
section
/-!
DEFINITION. The word types of the machine (R9, R25).
-/

namespace Sys2Proof

/-- A byte of memory. -/
abbrev Byte := BitVec 8

/-- A 32-bit register or instruction word. -/
abbrev Word := BitVec 32

/-- A 64-bit value: a register pair (R32), an address, a stamp. -/
abbrev Dword := BitVec 64

end Sys2Proof
end

