-- ==== Sys2Proof/Syntax.lean ====
section
/-!
DEFINITION. The instruction syntax of the Brixor B9: one constructor per row of the opcode table, the
rows without an encoding (the device's own operations and events, spec/95) among them.
-/

namespace Sys2Proof

/-- An operand of an instruction word (R70): a vector register, a scalar register, the zero code 0x7C (as a
destination it discards), the lane index 0x7D, or the literal words that code 0x7E takes (low word first). -/
inductive Opnd where
  | v (n : Nat)
  | s (n : Nat)
  | zero
  | lane
  | lit (x : BitVec 64)
  deriving DecidableEq, Repr

/-- The engine classes of a clause header (R63). -/
inductive Cls where
  | alu | xfn | mem | mtx | win | sync | ctl | sys
  deriving DecidableEq, Repr

/-- The element formats of R124, in the order of their codes. -/
inductive Fmt where
  | f32 | f64 | f16 | bf16 | e4m3 | e5m2 | e3m2 | e2m3 | e2m1 | e8m0 | i8 | n8 | i4 | n4 | i16 | n16
  deriving DecidableEq, Repr

/-- The rounding modes of R40, in the order of their codes (R125). -/
inductive Rnd where
  | rn | rz | rp | rm
  deriving DecidableEq, Repr

/-- The conditions of ICMP (R117). -/
inductive ICond where
  | eq | ne | ltI | leI | ltN | leN | tst | tz
  deriving DecidableEq, Repr

/-- The conditions of FCMP (R128). -/
inductive FCond where
  | eq32 | ne32 | lt32 | le32 | eq64 | ne64 | lt64 | le64
  deriving DecidableEq, Repr

/-- The modes of SHFL (R149). -/
inductive ShflMode where
  | idx | up | down | xor
  deriving DecidableEq, Repr

/-- The modes of VOTE (R150). -/
inductive VoteMode where
  | all | any | uni
  deriving DecidableEq, Repr

/-- The operators of LRED (R151). -/
inductive LredOp where
  | f32 | f64 | smx | i32
  deriving DecidableEq, Repr

/-- The float formats of CVTI (R131). -/
inductive FFmt where
  | f32 | f64 | f16 | bf16
  deriving DecidableEq, Repr

/-- The integer types of CVTI (R131). -/
inductive IntTy where
  | i8 | n8 | i16 | n16 | i32 | n32 | i64 | n64
  deriving DecidableEq, Repr

/-- The quantised element types of QZP and DQ (R125). -/
inductive QTy where
  | i8 | n8 | i4 | n4
  deriving DecidableEq, Repr

/-- The access types of the load and store mould (R257). -/
inductive MemTy where
  | n8 | i8 | n16 | i16 | b32 | n64
  deriving DecidableEq, Repr

/-- The operators of ATOM (R263). -/
inductive Aop where
  | add | and | or | xor | exch | min | max
  deriving DecidableEq, Repr

/-- The access types of ATOM (R263). -/
inductive ATy where
  | i32 | n32 | i64 | n64
  deriving DecidableEq, Repr

/-- The ordering kinds of atomics (R262). -/
inductive MOrd where
  | rlx | acq | rel | ar
  deriving DecidableEq, Repr

/-- The memory scopes (R74, R232). -/
inductive Scope where
  | core | clu | die | dev | pod
  deriving DecidableEq, Repr

/-- The kinds of FENCE (R266). -/
inductive FenceKind where
  | acq | rel | ar | full
  deriving DecidableEq, Repr

/-- The outstanding-operation counters (R63, R180). -/
inductive Ctr where
  | st | mx | gx | ct
  deriving DecidableEq, Repr

/-- The element formats of MSTORE (R316). -/
inductive SFmt where
  | f32 | f16 | bf16 | e4m3 | e5m2
  deriving DecidableEq, Repr

/-- The descriptor sources of WBIND (R268). -/
inductive WFrom where
  | reg | spad | glob
  deriving DecidableEq, Repr

/-- What a request from another device asks (R425, R430, R433): offsets count from the grant window's base. `unsubscribe`
and `retire` say that a slot's or a team's subscriptions are over (R344, R346); `treeFailed` and `treeStat` tell and ask the
root's meeting place an element's state (R329, R333). -/
inductive RemoteOp where
  | load (off len : Nat)
  | store (off : Nat) (bytes : List Byte)
  | atomic (off : Nat) (o : Aop) (t : ATy) (x : BitVec 64)
  | cas (off : Nat) (w64 : Bool) (cmp new : BitVec 64)
  | subscribe (off slot team : Nat)
  | unsubscribe (off slot team : Nat)
  | retire (team : Nat)
  | node (handle elem epoch leaves op level index : Nat) (value : BitVec 64)
  | root (handle elem seq : Nat) (value : BitVec 64)
  | treeFailed (handle elem epoch cause : Nat)
  | treeStat (handle elem : Nat)
  deriving DecidableEq, Repr

/-- A request that arrives over the fabric: source device, context and incarnation, the target context and the
target incarnation it carries, its sequence number, its grant token and what it asks (R427, R428, R430). -/
structure RemoteReq where
  dev : Nat
  sctx : Nat
  sinc : Nat
  tctx : Nat
  tinc : Nat
  seq : Nat
  token : BitVec 64
  op : RemoteOp
  deriving DecidableEq, Repr

/-- The answers a source gets to a request (R427, R428, R432). -/
inductive AckKind where
  | done (old : BitVec 64)
  | data (bytes : List Byte)
  | refused
  | bad
  | reset
  deriving DecidableEq, Repr

/-- An answer that arrives at this device: for which of its requests, the target's incarnation, and what it says. -/
structure RemoteAck where
  id : Nat
  inc : Nat
  kind : AckKind
  deriving DecidableEq, Repr

/-- A flit at a relay: its two ends and its payload (R423). -/
structure Flit where
  src : Nat
  dst : Nat
  req : RemoteReq
  deriving DecidableEq, Repr

/-- One constructor per row of the opcode table. Instruction words carry their decoded fields; the unencoded
rows carry what identifies the thing they happen to. -/
inductive Instr where
  /-- MOV (R107). Copies source a into destination d. -/
  | mov (d : Opnd) (a : Opnd) (g : Nat)
  /-- MOVI (R107). Writes the sign-extended 11-bit immediate into d; unguarded. -/
  | movi (d : Opnd) (i : Nat)
  /-- SEL (R108). Writes a or b into d, per thread, according to predicate q. -/
  | sel (d : Opnd) (a : Opnd) (b : Opnd) (q : Nat)
  /-- ADD (R109). Writes (a + b) mod 2^32 into d. -/
  | add (d : Opnd) (a : Opnd) (b : Opnd) (g : Nat)
  /-- SUB (R109). Writes (a - b) mod 2^32 into d. -/
  | sub (d : Opnd) (a : Opnd) (b : Opnd) (g : Nat)
  /-- MUL (R109). Writes the low 32 bits of a × b into d. -/
  | mul (d : Opnd) (a : Opnd) (b : Opnd) (g : Nat)
  /-- MULH_I32 (R109). Writes the high 32 bits of the signed product of a and b into d. -/
  | mulhI32 (d : Opnd) (a : Opnd) (b : Opnd) (g : Nat)
  /-- MULH_N32 (R109). Writes the high 32 bits of the unsigned product of a and b into d. -/
  | mulhN32 (d : Opnd) (a : Opnd) (b : Opnd) (g : Nat)
  /-- MAD (R111). Adds a × b to d modulo 2^32. -/
  | mad (d : Opnd) (a : Opnd) (b : Opnd) (g : Nat)
  /-- MADW_I32 (R111). Adds the signed 64-bit product of a and b to the pair d. -/
  | madwI32 (d : Opnd) (a : Opnd) (b : Opnd) (g : Nat)
  /-- MADW_N32 (R111). Adds the unsigned 64-bit product of a and b to the pair d. -/
  | madwN32 (d : Opnd) (a : Opnd) (b : Opnd) (g : Nat)
  /-- MIN_I32 (R109). Writes the signed minimum of a and b into d. -/
  | minI32 (d : Opnd) (a : Opnd) (b : Opnd) (g : Nat)
  /-- MIN_N32 (R109). Writes the unsigned minimum of a and b into d. -/
  | minN32 (d : Opnd) (a : Opnd) (b : Opnd) (g : Nat)
  /-- MAX_I32 (R109). Writes the signed maximum of a and b into d. -/
  | maxI32 (d : Opnd) (a : Opnd) (b : Opnd) (g : Nat)
  /-- MAX_N32 (R109). Writes the unsigned maximum of a and b into d. -/
  | maxN32 (d : Opnd) (a : Opnd) (b : Opnd) (g : Nat)
  /-- ABS (R109). Writes the absolute value of a into d, wrapping at 0x8000_0000. -/
  | abs (d : Opnd) (a : Opnd) (g : Nat)
  /-- NEG (R109). Writes (0 - a) mod 2^32 into d. -/
  | neg (d : Opnd) (a : Opnd) (g : Nat)
  /-- AND (R109). Writes a AND b into d. -/
  | and (d : Opnd) (a : Opnd) (b : Opnd) (g : Nat)
  /-- OR (R109). Writes a OR b into d. -/
  | or (d : Opnd) (a : Opnd) (b : Opnd) (g : Nat)
  /-- XOR (R109). Writes a XOR b into d. -/
  | xor (d : Opnd) (a : Opnd) (b : Opnd) (g : Nat)
  /-- ANDN (R109). Writes a AND NOT b into d. -/
  | andn (d : Opnd) (a : Opnd) (b : Opnd) (g : Nat)
  /-- NOT (R109). Writes the bitwise inverse of a into d. -/
  | not (d : Opnd) (a : Opnd) (g : Nat)
  /-- SHL (R110). Shifts a left by the unsigned count b, giving 0 for counts of 32 or more. -/
  | shl (d : Opnd) (a : Opnd) (b : Opnd) (g : Nat)
  /-- SHR (R110). Shifts a logically right by the unsigned count b. -/
  | shr (d : Opnd) (a : Opnd) (b : Opnd) (g : Nat)
  /-- SAR (R110). Shifts a arithmetically right by the unsigned count b. -/
  | sar (d : Opnd) (a : Opnd) (b : Opnd) (g : Nat)
  /-- ROL (R110). Rotates a left by b mod 32. -/
  | rol (d : Opnd) (a : Opnd) (b : Opnd) (g : Nat)
  /-- POPC (R109). Writes the number of 1 bits of a into d. -/
  | popc (d : Opnd) (a : Opnd) (g : Nat)
  /-- CLZ (R109). Writes the count of leading zero bits of a into d. -/
  | clz (d : Opnd) (a : Opnd) (g : Nat)
  /-- CTZ (R109). Writes the count of trailing zero bits of a into d. -/
  | ctz (d : Opnd) (a : Opnd) (g : Nat)
  /-- BREV (R109). Writes the bit-reversed a into d. -/
  | brev (d : Opnd) (a : Opnd) (g : Nat)
  /-- BFX_I32 (R113). Extracts a sign-extended bit field from a at the position and width in b. -/
  | bfxI32 (d : Opnd) (a : Opnd) (b : Opnd) (g : Nat)
  /-- BFX_N32 (R113). Extracts a zero-extended bit field from a at the position and width in b. -/
  | bfxN32 (d : Opnd) (a : Opnd) (b : Opnd) (g : Nat)
  /-- BFI (R113). Inserts the low bits of a into d at the position and width in b. -/
  | bfi (d : Opnd) (a : Opnd) (b : Opnd) (g : Nat)
  /-- PERM (R114). Builds four bytes from the bytes of a and b under the selector held in d. -/
  | perm (d : Opnd) (a : Opnd) (b : Opnd) (g : Nat)
  /-- ADDI (R112). Adds the sign-extended immediate to a. -/
  | addi (d : Opnd) (a : Opnd) (i : Nat)
  /-- ANDI (R112). ANDs a with the sign-extended immediate. -/
  | andi (d : Opnd) (a : Opnd) (i : Nat)
  /-- ORI (R112). ORs a with the zero-extended immediate. -/
  | ori (d : Opnd) (a : Opnd) (i : Nat)
  /-- XORI (R112). XORs a with the zero-extended immediate. -/
  | xori (d : Opnd) (a : Opnd) (i : Nat)
  /-- SHLI (R112). Shifts a left by an immediate count from 0 to 31. -/
  | shli (d : Opnd) (a : Opnd) (i : Nat)
  /-- SHRI (R112). Shifts a logically right by an immediate count. -/
  | shri (d : Opnd) (a : Opnd) (i : Nat)
  /-- SARI (R112). Shifts a arithmetically right by an immediate count. -/
  | sari (d : Opnd) (a : Opnd) (i : Nat)
  /-- LEA (R116). Forms a 64-bit address from a base pair and a shifted, extended 32-bit index; unguarded. -/
  | lea (d : Opnd) (a : Opnd) (b : Opnd) (sh : Nat) (sx : Bool)
  /-- ADD64 (R115). Adds two 64-bit pairs modulo 2^64. -/
  | add64 (d : Opnd) (a : Opnd) (b : Opnd) (g : Nat)
  /-- SUB64 (R115). Subtracts two 64-bit pairs modulo 2^64. -/
  | sub64 (d : Opnd) (a : Opnd) (b : Opnd) (g : Nat)
  /-- SHL64 (R115). Shifts a 64-bit pair left by a 32-bit count. -/
  | shl64 (d : Opnd) (a : Opnd) (b : Opnd) (g : Nat)
  /-- ICMP (R117). Compares a with b under condition CND and writes predicate pd. -/
  | icmp (p : Nat) (c : ICond) (a : Opnd) (b : Opnd) (g : Nat)
  /-- PAND (R118). Writes the AND of two optionally inverted predicates. -/
  | pand (p : Nat) (a : Nat) (b : Nat) (na : Bool) (nb : Bool) (g : Nat)
  /-- POR (R118). Writes the OR of two optionally inverted predicates. -/
  | por (p : Nat) (a : Nat) (b : Nat) (na : Bool) (nb : Bool) (g : Nat)
  /-- PXOR (R118). Writes the XOR of two optionally inverted predicates. -/
  | pxor (p : Nat) (a : Nat) (b : Nat) (na : Bool) (nb : Bool) (g : Nat)
  /-- PNOT (R118). Writes the inverse of predicate pa. -/
  | pnot (p : Nat) (a : Nat) (g : Nat)
  /-- P2V (R119). Packs p0 to p15 into register d. -/
  | p2v (d : Opnd) (g : Nat)
  /-- V2P (R119). Sets predicates p1 to p15 from a where the mask b has a 1. -/
  | v2p (a : Opnd) (b : Opnd) (g : Nat)
  /-- SHFL (R149). Gives each participant the value of a from a source lane chosen by mode and b. -/
  | shfl (d : Opnd) (a : Opnd) (b : Opnd) (m : ShflMode)
  /-- VOTE (R150). Evaluates an all, any or uniform vote of a predicate across the participants. -/
  | vote (p : Nat) (a : Nat) (na : Bool) (m : VoteMode) (g : Nat)
  /-- BALLOT (R150). Writes a 64-bit mask of the lanes whose predicate is true. -/
  | ballot (d : Opnd) (a : Nat) (na : Bool) (g : Nat)
  /-- LMATCH (R150). Writes a 64-bit mask of the lanes whose a equals this thread's a. -/
  | lmatch (d : Opnd) (a : Opnd) (g : Nat)
  /-- LRED (R151). Reduces the participants' values over their supplied indices in canonical tree order. -/
  | lred (d : Opnd) (a : Opnd) (b : Opnd) (o : LredOp)
  /-- FADD (R126). Writes the FP32 sum of a and b rounded to nearest even. -/
  | fadd (d : Opnd) (a : Opnd) (b : Opnd) (g : Nat)
  /-- FSUB (R126). Writes the FP32 difference a - b. -/
  | fsub (d : Opnd) (a : Opnd) (b : Opnd) (g : Nat)
  /-- FMUL (R126). Writes the FP32 product of a and b. -/
  | fmul (d : Opnd) (a : Opnd) (b : Opnd) (g : Nat)
  /-- FFMA (R127). Writes the fused FP32 value a × b + d, rounded once. -/
  | ffma (d : Opnd) (a : Opnd) (b : Opnd) (g : Nat)
  /-- FFMS (R127). Writes the fused FP32 value d - a × b, rounded once. -/
  | ffms (d : Opnd) (a : Opnd) (b : Opnd) (g : Nat)
  /-- FMIN (R126). Writes the smaller of two FP32 values, -0 below +0. -/
  | fmin (d : Opnd) (a : Opnd) (b : Opnd) (g : Nat)
  /-- FMAX (R126). Writes the larger of two FP32 values. -/
  | fmax (d : Opnd) (a : Opnd) (b : Opnd) (g : Nat)
  /-- FCMP (R128). Compares two FP32 or FP64 values under IEEE rules and writes predicate pd. -/
  | fcmp (p : Nat) (c : FCond) (a : Opnd) (b : Opnd) (g : Nat)
  /-- FCLASS (R129). Writes a one-hot class of the raw code of a. -/
  | fclass (d : Opnd) (a : Opnd) (f : Fmt) (g : Nat)
  /-- HADD2_F16 (R126). Adds two packed FP16 pairs half by half. -/
  | hadd2F16 (d : Opnd) (a : Opnd) (b : Opnd) (g : Nat)
  /-- HADD2_BF16 (R126). Adds two packed BF16 pairs half by half. -/
  | hadd2Bf16 (d : Opnd) (a : Opnd) (b : Opnd) (g : Nat)
  /-- HMUL2_F16 (R126). Multiplies two packed FP16 pairs half by half. -/
  | hmul2F16 (d : Opnd) (a : Opnd) (b : Opnd) (g : Nat)
  /-- HMUL2_BF16 (R126). Multiplies two packed BF16 pairs half by half. -/
  | hmul2Bf16 (d : Opnd) (a : Opnd) (b : Opnd) (g : Nat)
  /-- HFMA2_F16 (R127). Fused multiply-add on packed FP16 halves. -/
  | hfma2F16 (d : Opnd) (a : Opnd) (b : Opnd) (g : Nat)
  /-- HFMA2_BF16 (R127). Fused multiply-add on packed BF16 halves. -/
  | hfma2Bf16 (d : Opnd) (a : Opnd) (b : Opnd) (g : Nat)
  /-- DADD (R126). Writes the FP64 sum of two pairs. -/
  | dadd (d : Opnd) (a : Opnd) (b : Opnd) (g : Nat)
  /-- DMUL (R126). Writes the FP64 product of two pairs. -/
  | dmul (d : Opnd) (a : Opnd) (b : Opnd) (g : Nat)
  /-- DFMA (R127). Writes the fused FP64 value a × b + d. -/
  | dfma (d : Opnd) (a : Opnd) (b : Opnd) (g : Nat)
  /-- CVT (R130). Converts one value from format ST to format DT with rounding and saturation. -/
  | cvt (d : Opnd) (a : Opnd) (df : Fmt) (sf : Fmt) (r : Rnd) (sat : Bool)
  /-- CVTI_F2I (R131). Converts a float to an integer type with clamping. -/
  | cvtiF2i (d : Opnd) (a : Opnd) (f : FFmt) (i : IntTy) (r : Rnd)
  /-- CVTI_I2F (R131). Converts an integer to a float format. -/
  | cvtiI2f (d : Opnd) (a : Opnd) (f : FFmt) (i : IntTy) (r : Rnd)
  /-- PACK (R132). Converts a and writes it into one element position of d. -/
  | pack (d : Opnd) (a : Opnd) (df : Fmt) (pos : Nat) (r : Rnd) (sat : Bool)
  /-- UNPK (R133). Reads one packed element of a and widens it into d. -/
  | unpk (d : Opnd) (a : Opnd) (sf : Fmt) (pos : Nat)
  /-- SPLIT6 (R134). Converts sixteen FP6 codes from the packed six-bit form to plane form. -/
  | split6 (d : Opnd) (a : Opnd) (g : Nat)
  /-- JOIN6 (R134). Converts sixteen FP6 codes from plane form to the packed six-bit form. -/
  | join6 (d : Opnd) (a : Opnd) (g : Nat)
  /-- QZP_REC (R135). Builds a group record of scale and zero point from a group's minimum and maximum. -/
  | qzpRec (d : Opnd) (a : Opnd) (b : Opnd) (i : QTy)
  /-- QZP_Q (R135). Quantises an FP32 value with a group record. -/
  | qzpQ (d : Opnd) (a : Opnd) (b : Opnd) (i : QTy)
  /-- DQ (R136). Dequantises one integer element with a group record. -/
  | dq (d : Opnd) (a : Opnd) (b : Opnd) (i : QTy)
  /-- AMAX (R137). Writes the larger absolute value of two FP32 values. -/
  | amax (d : Opnd) (a : Opnd) (b : Opnd) (g : Nat)
  /-- SCALEX (R138). Computes the E8M0 scale code for an absolute maximum and a target format. -/
  | scalex (d : Opnd) (a : Opnd) (t : Fmt) (g : Nat)
  /-- SCACC (R139). Applies two scales to a and adds the result into d with one rounding. -/
  | scacc (d : Opnd) (a : Opnd) (b : Opnd) (f16 : Bool)
  /-- FRCP (R140). Writes an approximate FP32 reciprocal of a. -/
  | frcp (d : Opnd) (a : Opnd) (g : Nat)
  /-- FRSQ (R140). Writes an approximate FP32 reciprocal square root of a. -/
  | frsq (d : Opnd) (a : Opnd) (g : Nat)
  /-- FSQRT (R140). Writes the correctly rounded FP32 square root of a. -/
  | fsqrt (d : Opnd) (a : Opnd) (g : Nat)
  /-- FEXP2 (R140). Writes an approximate FP32 value of 2^a. -/
  | fexp2 (d : Opnd) (a : Opnd) (g : Nat)
  /-- FLOG2 (R140). Writes an approximate FP32 base-2 logarithm of a. -/
  | flog2 (d : Opnd) (a : Opnd) (g : Nat)
  /-- FSIN (R140). Writes an approximate FP32 sine of a. -/
  | fsin (d : Opnd) (a : Opnd) (g : Nat)
  /-- FCOS (R140). Writes an approximate FP32 cosine of a. -/
  | fcos (d : Opnd) (a : Opnd) (g : Nat)
  /-- FTANH (R140). Writes an approximate FP32 hyperbolic tangent of a. -/
  | ftanh (d : Opnd) (a : Opnd) (g : Nat)
  /-- OSMX (R142). Forms a softmax leaf state from a logit, or combines two softmax states. -/
  | osmx (d : Opnd) (a : Opnd) (b : Opnd) (g : Nat)
  /-- OSMN (R143). Normalises a base-2 logit against a softmax state. -/
  | osmn (d : Opnd) (a : Opnd) (b : Opnd) (g : Nat)
  /-- LD (R259). Loads from a global address into d, marking it empty until the value lands. -/
  | ld (d : Opnd) (a : Opnd) (b : Opnd) (t : MemTy) (acq : Bool)
  /-- ST (R259). Stores d to a global address, counted on ctr.st. -/
  | st (d : Opnd) (a : Opnd) (b : Opnd) (t : MemTy) (rel : Bool)
  /-- LDS (R259). Loads from the team's scratchpad share, waiting on absent or arriving windows. -/
  | lds (d : Opnd) (a : Opnd) (b : Opnd) (t : MemTy)
  /-- STS (R259). Stores d to the team's scratchpad share. -/
  | sts (d : Opnd) (a : Opnd) (b : Opnd) (t : MemTy)
  /-- LDW (R259). Loads from the context's weight-store region on the core's die. -/
  | ldw (d : Opnd) (a : Opnd) (b : Opnd) (t : MemTy)
  /-- GLD (R261). Gathers one element per participant from a scalar base plus a per-thread index. -/
  | gld (d : Opnd) (base : Nat) (sz : Nat) (sx : Bool) (b : Opnd) (sp : Bool) (iw : Bool) (sh : Nat)
  /-- GST (R261). Scatters one element per participant to a scalar base plus a per-thread index. -/
  | gst (d : Opnd) (base : Nat) (sz : Nat) (sx : Bool) (b : Opnd) (sp : Bool) (iw : Bool) (sh : Nat)
  /-- ATOM (R263). Performs one atomic read-modify-write at the location's home. -/
  | atom (d : Opnd) (p : Opnd) (nr : Bool) (o : Aop) (t : ATy) (r : MOrd) (g : Nat)
  /-- CAS (R264). Compares and swaps a 32- or 64-bit location at its home. -/
  | cas (d : Opnd) (p : Opnd) (w64 : Bool) (r : MOrd) (g : Nat)
  /-- CONTRIB (R332). Contributes a value under a trig label to an element of a sum tree. -/
  | contrib (e : Opnd) (a : Opnd) (b : Opnd) (g : Nat)
  /-- TSTAT (R333). Reads the state, cause and epoch of a tree element. -/
  | tstat (d : Opnd) (a : Opnd) (b : Opnd) (g : Nat)
  /-- SLOAD (R342). Subscribes a scratchpad slot to a 128-byte global line. -/
  | sload (p : Nat) (ring : Bool) (a : Opnd) (b : Opnd) (g : Nat)
  /-- SPOLL (R343). Takes or peeks a value from a standing-load slot as one acquire. -/
  | spoll (d : Opnd) (a : Opnd) (b : Opnd) (w64 : Bool) (peek : Bool)
  /-- UNSUB (R344). Withdraws the subscription of a slot. -/
  | unsub (b : Opnd) (g : Nat)
  /-- PREF (R265). Issues a non-faulting prefetch of the line holding an address. -/
  | pref (a : Opnd) (b : Opnd)
  /-- FENCE (R266). Performs an acquire, release, acquire-release or full fence at a scope and delivers held ctr.st errors. -/
  | fence (sc : Scope) (k : FenceKind) (g : Nat)
  /-- MRSV (R305). Reserves a free matrix engine for the team. -/
  | mrsv (d : Opnd) (p : Nat) (g : Nat)
  /-- MREL (R306). Releases a reservation once its issued operations complete. -/
  | mrel (res : Nat) (g : Nat)
  /-- MINIT (R307). Opens an accumulation sequence with origin, span and initial values C. -/
  | minit (res : Nat) (acc : Nat) (spad : Bool) (a : Opnd) (b : Opnd) (g : Nat)
  /-- MMA (R310). Signs a convergence register for a dense matrix tile, issuing at the last signature. -/
  | mma (k : Nat) (h : Nat) (a : Opnd) (b : Opnd)
  /-- MMAS (R296). Signs for a seeded-sparse matrix tile, issuing at the last signature. -/
  | mmas (k : Nat) (h : Nat) (a : Opnd) (b : Opnd)
  /-- GMMA (R311). Signs a shared convergence register of a guided pair for a joint tile with one B fetch. -/
  | gmma (k : Nat) (h : Nat) (a : Opnd) (b : Opnd)
  /-- MGUIDE (R314). Combines a finished accumulator pair with a guidance weight into the even accumulator. -/
  | mguide (res : Nat) (acc : Nat) (a : Opnd) (g : Nat)
  /-- MFIN (R313). Collapses an accumulator's tree stack and adds C once. -/
  | mfin (res : Nat) (acc : Nat) (g : Nat)
  /-- MDRAIN_REG (R315). Drains finished accumulator values into registers of each participant. -/
  | mdrainReg (res : Nat) (acc : Nat) (a : Opnd) (col : Nat) (rowb : Nat) (g : Nat)
  /-- MDRAIN_SPAD (R315). Writes finished accumulator values to scratchpad as FP32. -/
  | mdrainSpad (res : Nat) (acc : Nat) (a : Opnd) (g : Nat)
  /-- MDRAIN_TREE (R315). Contributes an open accumulator's pending nodes as labelled tree partials. -/
  | mdrainTree (res : Nat) (acc : Nat) (a : Opnd) (g : Nat)
  /-- MSTORE (R316). Converts and writes a finished accumulator to scratchpad or global memory. -/
  | mstore (res : Nat) (acc : Nat) (f : SFmt) (glob : Bool) (a : Opnd) (g : Nat)
  /-- MSTAT_ACC (R317). Reads an accumulator's state image after earlier operations on it. -/
  | mstatAcc (d : Opnd) (res : Nat) (acc : Nat) (g : Nat)
  /-- MSTAT_ENG (R317). Reads a reservation's B-fetch count and engine information. -/
  | mstatEng (d : Opnd) (res : Nat) (acc : Nat) (g : Nat)
  /-- WBIND (R268). Checks a region descriptor and writes it into a region-table entry. -/
  | wbind (e : Nat) (a : Opnd) (f : WFrom) (g : Nat)
  /-- WUNB (R269). Unbinds a region-table entry, stamping arriving destinations orphaned. -/
  | wunb (e : Nat) (g : Nat)
  /-- TOUCH (R270). Starts a window fill if the copy queue has room and reports the outcome. -/
  | touch (e : Nat) (p : Nat) (g : Nat)
  /-- WSTAT (R271). Samples the state of the group's destination of an entry. -/
  | wstat (e : Nat) (d : Opnd) (g : Nat)
  /-- WFLUSH (R272). Queues a write-back of the group's destination to the entry's source. -/
  | wflush (e : Nat) (g : Nat)
  /-- REFORM (R194). Files each participant into a fold by group and next program counter. -/
  | reform (g : Nat)
  /-- YIELD (R195). Resets the unit's waiting time and moves it behind the group's other units. -/
  | yield (g : Nat)
  /-- ELECT (R196). Elects the lowest-lane participant and returns the participant count. -/
  | elect (d : Opnd) (p : Nat) (g : Nat)
  /-- ARRIVE (R197). Arrives once at a barrier and returns its phase token. -/
  | arrive (d : Opnd) (b : Nat) (g : Nat)
  /-- ARRIVE_COUNT (R197). Arrives at a barrier with an explicit count. -/
  | arriveCount (d : Opnd) (a : Opnd) (b : Nat) (g : Nat)
  /-- ARRIVE_EXPECT (R197). Sets a barrier's expected arrival count explicitly. -/
  | arriveExpect (d : Opnd) (a : Opnd) (b : Nat) (g : Nat)
  /-- BWAIT (R198). Holds each participant until a given phase of a barrier has completed. -/
  | bwait (a : Opnd) (b : Nat) (g : Nat)
  /-- BSYNC (R199). Arrives once at a barrier and waits on that arrival's phase. -/
  | bsync (b : Nat) (g : Nat)
  /-- KDECL (R202). Declares a convergence register's member range. -/
  | kdecl (k : Nat) (a : Opnd) (b : Opnd) (g : Nat)
  /-- SIGN (R203). Records one signature per participant on a convergence register. -/
  | sign (k : Nat) (p : Nat) (g : Nat)
  /-- WAITC (R204). Holds each participant until a counter is at or below a threshold, then delivers held errors. -/
  | waitc (c : Ctr) (th : Nat) (g : Nat)
  /-- MWAIT (R205). Waits for a 64-bit stamp to reach a sequence or an error status, as an acquire. -/
  | mwait (d : Opnd) (a : Opnd) (b : Opnd) (sp : Bool)
  /-- BRA (R154). Branches to a target relative to the clause header after checking it. -/
  | bra (g : Nat) (off : Nat)
  /-- BRX (R154). Branches to the 64-bit address in a pair after checking it. -/
  | brx (a : Opnd) (g : Nat)
  /-- CALL (R155). Pushes a return address and branches relative to the clause header. -/
  | call (g : Nat) (off : Nat)
  /-- CALLX (R155). Pushes a return address and branches to the address in a pair. -/
  | callx (a : Opnd) (g : Nat)
  /-- RET (R155). Pops the call stack and returns. -/
  | ret (g : Nat)
  /-- EXIT (R156). Ends the thread once its four counters reach zero. -/
  | exit (g : Nat)
  /-- TRAP (R157). Vectors the thread to the trap handler with a software code. -/
  | trap (c : Nat) (g : Nat)
  /-- ENTER (R158). Pushes a region identifier onto the region stack. -/
  | enter (c : Nat) (g : Nat)
  /-- LEAVE (R158). Pops the region stack, checking the identifier. -/
  | leave (c : Nat) (g : Nat)
  /-- BKPT (R159). Stops the thread with a debug record when breakpoints are enabled. -/
  | bkpt (c : Nat) (g : Nat)
  /-- NOP (R83). Does nothing. -/
  | nop
  /-- SRD (R410). Reads a special register into d. -/
  | srd (d : Opnd) (n : Nat) (g : Nat)
  /-- SWR (R410). Writes a special register under its access code. -/
  | swr (a : Opnd) (n : Nat) (g : Nat)
  /-- ERET (R411). Leaves handler or save mode and resumes at sr.resume. -/
  | eret
  /-- SVRF (R413). Writes one block of thread, group, team or accumulator state to memory. -/
  | svrf (blk : Nat) (a : Opnd) (b : Opnd) (g : Nat)
  /-- LDRF (R413). Loads one block of saved state. -/
  | ldrf (blk : Nat) (a : Opnd) (b : Opnd) (g : Nat)
  /-- SVWIN_WIN (R415). Saves a window destination, parking it if arriving. -/
  | svwinWin (e : Nat) (a : Opnd)
  /-- SVWIN_SLOT (R415). Saves and parks a standing-load slot. -/
  | svwinSlot (e : Nat) (a : Opnd) (b : Opnd)
  /-- LDWIN_WIN (R415). Restores a saved window destination, waiting for a parked stamp. -/
  | ldwinWin (e : Nat) (a : Opnd)
  /-- LDWIN_SLOT (R347). Restores a slot, refilling it from its parking line. -/
  | ldwinSlot (e : Nat) (a : Opnd) (b : Opnd)
  /-- TLBI (R416). Removes translations of the context and completes when none can be used. -/
  | tlbi (page : Bool) (a : Opnd) (b : Opnd) (g : Nat)
  /-- GRANT (R417). Issues a grant token for a window of the grant window table. -/
  | grant (d : Opnd) (a : Opnd) (b : Opnd) (g : Nat)
  /-- HALT_THREAD (R412). Ends the thread without waiting for its counters. -/
  | haltThread
  /-- HALT_GROUP (R412). Ends every thread of the group. -/
  | haltGroup
  /-- HALT_KERNEL (R412). Ends every team of the launch with stamp status 10. -/
  | haltKernel
  /-- HALT_PARK (R412). In save mode, waits for ctr.st to drain and parks the thread. -/
  | haltPark
  /-- MARK (R418). Writes a mark record into the context's trace when enabled. -/
  | mark (c : Nat) (g : Nat)
  /-- REP (R77). Prefix that repeats the next instruction with stepped operand fields. -/
  | rep (cnt : Nat) (step : Nat)
  /-- SCOPE (R76). Prefix that replaces the memory scope of the next instruction. -/
  | scope (sc : Scope)
  /-- CLAUSE_ISSUE (R84). Fetches, checks and begins issuing a clause to an issue unit. -/
  | clauseIssue
  /-- FOLD_AGE_LIMIT (R172). A fold reaches the fold age limit A and must form an issue group. -/
  | foldAgeLimit (core : Nat) (fold : Nat)
  /-- FOLD_FORM (R172). A full or aged fold forms a new issue group on the least-loaded datapath. -/
  | foldForm (core : Nat) (fold : Nat)
  /-- UNIT_EXPIRED (R187). A runnable unit's waiting time reaches Q/2 and it is chosen first. -/
  | unitExpired (u : Nat)
  /-- BWAIT_RELEASE (R198). A thread held on a barrier phase resumes after the phase completes. -/
  | bwaitRelease (u : Nat)
  /-- MWAIT_WAKE (R205). A satisfying stamp value becomes visible and MWAIT completes. -/
  | mwaitWake (u : Nat)
  /-- LOAD_VALUE_LANDS (R182). A long-latency fill lands, making its register full, or failed on error. -/
  | loadValueLands (op : Nat)
  /-- STORE_PERFORMED (R246). A store or atomic is performed at its home slice. -/
  | storePerformed (op : Nat)
  /-- COUNTED_OP_COMPLETE (R180). A counted operation completes and decrements its counter. -/
  | countedOpComplete (op : Nat)
  /-- PERSISTENT_REQUEST (R212). An L1 miss lacking tokens for 256 clk becomes a persistent request at the home. -/
  | persistentRequest (core : Nat) (line : Nat)
  /-- FILL_ENTERS_QUEUE (R220). A waiting fill enters the copy queue, takes SEQ and makes destinations arriving. -/
  | fillEntersQueue (job : Nat)
  /-- FILL_BEAT_LANDS (R221). Bytes of a window fill land in each arriving destination or its shadow. -/
  | fillBeatLands (job : Nat) (off : Nat)
  /-- FILL_STAMP_WRITE (R222). After every byte of a destination is performed its stamp is written. -/
  | fillStampWrite (job : Nat) (dest : Nat)
  /-- FLUSH_BEGIN (R225). A queued window flush begins once its destination is present. -/
  | flushBegin (job : Nat)
  /-- FLUSH_COMPLETE (R225). A flush's writes are performed and its stamp is written. -/
  | flushComplete (job : Nat)
  /-- WS_REFRESH_SLOT (R228). The refresh frame advances to the next slot and its bank group becomes unavailable. -/
  | wsRefreshSlot (die : Nat)
  /-- WS_REFRESH_BUSY_END (R229). A bank group's 1.2 µs unavailability ends and waiting reads proceed. -/
  | wsRefreshBusyEnd (die : Nat)
  /-- WS_EMERGENCY_REFRESH (R229). Die temperature demands extra refresh and the emergency counter rises. -/
  | wsEmergencyRefresh (die : Nat)
  /-- WS_FRAME_KIND_CHANGE (R228). The device changes a die's refresh frame kind while no team is placed there. -/
  | wsFrameKindChange (die : Nat)
  /-- MATRIX_OP_START (R285). An issued matrix operation takes its engine once its operands are present. -/
  | matrixOpStart (eng : Nat)
  /-- MATRIX_OP_COMPLETE (R285). A matrix operation pushes its nodes and decrements the issuer's ctr.mx. -/
  | matrixOpComplete (eng : Nat)
  /-- PAIR_WINDOW_CLOSE (R299). The 4,096 clk pair window closes and a complete half issues alone. -/
  | pairWindowClose (grp : Nat) (k : Nat)
  /-- ENGINE_FENCE (R277). A failing matrix engine is fenced and its accumulators fail. -/
  | engineFence (eng : Nat)
  /-- RICK_NODE_ARRIVAL (R325). A tree node arrives at a rick and pairs, passes up, is held or forwarded. -/
  | rickNodeArrival (node : Nat)
  /-- TREE_STAMP_WRITE (R329). After the root is performed the element's stamp is written. -/
  | treeStampWrite (elem : Nat)
  /-- CORE_RICK_TIMEOUT (R326). A node held 64 clk in a core rick is forwarded toward its meeting place. -/
  | coreRickTimeout (node : Nat)
  /-- PORT_RICK_TIMEOUT (R326). A node held 256 clk in a port rick is forwarded on its way. -/
  | portRickTimeout (node : Nat)
  /-- NODE_WAIT_TIMEOUT (R328). A back-pressured node waiting 1 ms fails its element with cause 2. -/
  | nodeWaitTimeout (node : Nat)
  /-- PUSH_SEND (R341). The home sends a merged push of a subscribed line to every subscriber. -/
  | pushSend (line : Nat)
  /-- PUSH_LANDS (R340). A push lands in a slot, or in a parked slot's parking line. -/
  | pushLands (push : Nat)
  /-- SLOAD_ANSWER (R342). The home's answer to a subscription request arrives and sets pd. -/
  | sloadAnswer (req : Nat)
  /-- SLOAD_FILL_LANDS (R342). The initial fill of a subscription lands in the slot and ctr.gx decrements. -/
  | sloadFillLands (req : Nat)
  /-- UNSUB_ACK_LANDS (R344). The home's unsubscribe acknowledgement lands and the slot goes idle. -/
  | unsubAckLands (req : Nat)
  /-- SUBSCRIPTION_GRANT_EXPIRY (R345). A peer subscription's grant expires and the slot ends with CAUSE 2. -/
  | subscriptionGrantExpiry (sub : Nat)
  /-- PUSH_UNDELIVERABLE (R345). A push undeliverable for 2 ms ends subscriptions to that device with CAUSE 3. -/
  | pushUndeliverable (dev : Nat)
  /-- QUEUE_TAIL_NOTIFY (R374). A push on a watched queue tail makes the queue ready. -/
  | queueTailNotify (ctx : Nat) (q : Nat)
  /-- QUEUE_TAIL_POLL (R374). An unwatched queue tail is read every 1 µs. -/
  | queueTailPoll (ctx : Nat) (q : Nat)
  /-- LAUNCH_RECORD_COPY (R375). The dispatcher copies and checks one launch record from a ready queue. -/
  | launchRecordCopy (ctx : Nat) (q : Nat)
  /-- TEAM_PLACE (R383). The dispatcher places one team, all or nothing, on a cluster. -/
  | teamPlace (launch : Nat)
  /-- PLACEMENT_STARVATION (R384). A team waiting 1 ms blocks further placement on its best cluster. -/
  | placementStarvation (launch : Nat)
  /-- PRIORITY_PREEMPT (R384). A team waiting 20 µs causes lower-priority teams on a cluster to be pre-empted. -/
  | priorityPreempt (launch : Nat) (cluster : Nat)
  /-- TIME_SLICE_EXPIRY (R403). A context's time slice ends while another context waits and its teams are pre-empted. -/
  | timeSliceExpiry (ctx : Nat) (cluster : Nat)
  /-- PREEMPTION_TRAP (R403). A thread takes the CLASS 0 trap into the save routine. -/
  | preemptionTrap (t : Nat)
  /-- PARK_TIMEOUT (R404). A team not parked within 2 ms has its launch ended. -/
  | parkTimeout (team : Nat)
  /-- LAUNCH_COMPLETE (R379). After retirement and write-back the launch's completion stamp is written. -/
  | launchComplete (launch : Nat)
  /-- RANGE_PREFETCH (R381). The dispatcher prefetches PF ranges once preceding launches are placed. -/
  | rangePrefetch (launch : Nat)
  /-- DEAD_RANGE_DISCARD (R381). After the stamp, DEAD ranges are dropped from the L2 without write-back. -/
  | deadRangeDiscard (launch : Nat)
  /-- WEIGHT_STORE_LOAD (R382). A weight-store load record copies bytes into the region on each named die. -/
  | weightStoreLoad (launch : Nat)
  /-- CONTROL_QUEUE_NOTIFY (R435). A new control-queue tail causes the device to perform the next command. -/
  | controlQueueNotify
  /-- UNIT_STOP (R441). A unit reaches its next stop point and stops with a STOP packet. -/
  | unitStop (u : Nat)
  /-- TRACE_WRITTEN_FLUSH (R444). WRITTEN is advanced at most 64 µs after the last packet. -/
  | traceWrittenFlush (ctx : Nat)
  /-- REMOTE_RETRANSMIT (R427). An unacknowledged request is sent again at doubling intervals. -/
  | remoteRetransmit (req : Nat)
  /-- REMOTE_GIVE_UP (R429). A request unacknowledged for 2 ms is given up with an unknown outcome. -/
  | remoteGiveUp (req : Nat)
  /-- RELAY_DISCARD (R423). A flit staged 1.5 ms at a relay is discarded. -/
  | relayDiscard (flit : Nat)
  /-- INGRESS_BLOCK_END (R432). The 1 s block of a device after a MAC-failure flood ends. -/
  | ingressBlockEnd (dev : Nat)
  /-- CREATE (R390). Creates a context from a context descriptor. -/
  | create (ctx : Nat) (arg0 : Nat)
  /-- DESTROY (R390). Ends every launch of a context and removes all its state. -/
  | destroy (ctx : Nat)
  /-- QENABLE (R390). Enables a launch queue and reads its descriptor. -/
  | qenable (ctx : Nat) (arg0 : Nat)
  /-- QDISABLE (R390). Disables a launch queue, leaving copied launches running. -/
  | qdisable (ctx : Nat) (arg0 : Nat)
  /-- TLBI_COMMAND (R390). Removes translations of a context as TLBI does. -/
  | tlbiCommand (ctx : Nat) (arg0 : Nat) (arg1 : Nat)
  /-- SUSPEND (R390). Pre-empts every team of a context and places none until RESUME. -/
  | suspend (ctx : Nat)
  /-- RESUME (R390). Permits placement of a suspended context again. -/
  | resume (ctx : Nat)
  /-- ENDLAUNCH (R390). Ends an in-flight launch as HALT.kernel does. -/
  | endlaunch (ctx : Nat) (arg0 : Nat) (arg1 : Nat)
  /-- SETSAVE (R390). Sets or removes the device's save-routine entry. -/
  | setsave (arg0 : Nat)
  /-- DEBUG (R439). Copies and applies a debug descriptor, or disables debug channels. -/
  | debugCmd (ctx : Nat) (arg0 : Nat)
  /-- STOP (R439). Stops every unit of a launch at its next stop point. -/
  | stop (ctx : Nat) (arg0 : Nat) (arg1 : Nat)
  /-- CONT (R443). Releases a launch's stopped units, optionally for one step. -/
  | cont (ctx : Nat) (arg0 : Nat) (arg1 : Nat)
  /-- DUMP (R453). Stops a context, cuts a copy-on-write snapshot and writes thread state. -/
  | dump (ctx : Nat) (arg0 : Nat) (arg1 : Nat)
  /-- DUMPEND (R439). Ends a context's dump and frees its copies. -/
  | dumpend (ctx : Nat)
  /-- EZERO (R449). Writes a context's energy image and zeroes its counter. -/
  | ezero (ctx : Nat) (arg0 : Nat)
  /-- ATTEST (R485). Writes a signed attestation report and then the command stamp. -/
  | attest (arg0 : Nat) (arg1 : Nat)
  /-- PLIMIT (R486). Sets the module power limit. -/
  | plimit (arg0 : Nat)
  /-- REGISTER_WRITE (R435). A host write to a BAR 0 control register without behaviour of its own. -/
  | registerWrite (off : Nat) (x : BitVec 64)
  /-- FCTL_COMMIT (R435). A write of 1 to COMMIT fixes the accepted features or sets ERR. -/
  | fctlCommit
  /-- CQCTL_WRITE (R435). A write to CQCTL enables or disables service of the control queue. -/
  | cqctlWrite (x : BitVec 64)
  /-- PODNUM_WRITE (R421). The first write after COMMIT sets the pod device number and starts link training. -/
  | podnumWrite (x : BitVec 64)
  /-- GKGEN_ADVANCE (R435). A write of 1 advances the grant-key generation. -/
  | gkgenAdvance
  /-- RCVCTL_START (R483). Erases the inactive firmware slot and clears FAIL. -/
  | rcvctlStart
  /-- RCVDATA_WRITE (R483). Appends 8 bytes of a firmware image to the inactive slot. -/
  | rcvdataWrite (x : BitVec 64)
  /-- RCVCTL_DONE (R483). Starts verification of the staged firmware image. -/
  | rcvctlDone
  /-- FIRMWARE_VERIFY_DONE (R483). Verification ends, setting the slot generation or FAIL. -/
  | firmwareVerifyDone
  /-- HOST_WRITE (R251). A posted host write through BAR 2 is performed as a release at .dev. -/
  | hostWrite (addr : Nat) (bytes : List Byte)
  /-- HOST_READ (R434). A host read through BAR 2 returns data or a Completer Abort. -/
  | hostRead (addr : Nat) (len : Nat)
  /-- FABRIC_LINK_UP (R421). The fibre links finish training and STATUS.FABRIC rises. -/
  | fabricLinkUp
  /-- ROTOR_DWELL (R422). Each rotor switch advances to its next matching at a dwell boundary. -/
  | rotorDwell
  /-- REMOTE_REQUEST_INGRESS (R432). A fabric request arrives at the target, is grant-checked and deduplicated. -/
  | remoteRequestIngress (req : RemoteReq)
  /-- REMOTE_ACK_ARRIVAL (R427). An acknowledgement or reset notice for a sequenced request arrives at the source. -/
  | remoteAckArrival (ack : RemoteAck)
  /-- RELAY_STAGE (R423). A relay receives, stages or refuses a two-hop flit. -/
  | relayStage (flit : Flit)
  /-- FLIT_CRC_RETRY (R478). A flit failing its CRC is sent again by the link. -/
  | flitCrcRetry (fibre : Nat)
  /-- WAVELENGTH_REPLACE (R478). A failing wavelength is replaced by a spare at the next guard interval. -/
  | wavelengthReplace (fibre : Nat) (wave : Nat)
  /-- CORE_FENCE (R467). A core with an uncorrectable control error is fenced. -/
  | coreFence (core : Nat)
  /-- SLICE_FENCE (R471). A failing L2 slice is fenced and a stand-in serves its homes. -/
  | sliceFence (slice : Nat)
  /-- CHANNEL_RETIRE_MARK (R467). An HBM channel is marked for retirement after repeated errors. -/
  | channelRetireMark (chan : Nat)
  /-- REPAIR_POINT (R472). The device moves homes, brings spares into service and resumes placement. -/
  | repairPoint
  /-- REPAIR_PREEMPT (R472). Teams not retired 10 ms into a repair point are pre-empted. -/
  | repairPreempt
  /-- DEVICE_RESET (R481). A reset runs the boot ROM, firmware verification and built-in test. -/
  | deviceReset
  /-- THERMAL_TRIP (R488). Overtemperature ends every launch and powers the compute dies down. -/
  | thermalTrip
  /-- CLOCK_THROTTLE (R487). Excess power or coolant temperature lowers the arithmetic clock by a step. -/
  | clockThrottle (reason : Nat)
  /-- CLOCK_RESTORE (R487). After 10 ms without excess the clock is raised again. -/
  | clockRestore
  /-- HEALTH_BLOCK_UPDATE (R479). Firmware rewrites the health block every 100 ms or after an event. -/
  | healthBlockUpdate
  /-- POWER_BLOCK_UPDATE (R489). Firmware rewrites the power block every 10 ms. -/
  | powerBlockUpdate
  /-- ENERGY_TICK (R451). Every 1,024 clk each resident context is charged its static share. -/
  | energyTick
  /-- POWER_LOSS (R474). The module's supply is lost, possibly in the middle of a write of a repair-map copy or of a firmware slot. -/
  | powerLoss
  deriving DecidableEq, Repr

end Sys2Proof
end

