-- ==== Sys2Proof/WellFormed.lean ====
section
/-!
DEFINITION. Which instructions are well-formed: the checks a word's own bits decide (R69, R70, and the format
and code limits that each entry states). Register limits that depend on the thread's allocation are R71's and
belong to the machine.
-/

namespace Sys2Proof

/-- A destination code (R70): a register, or 0x7C. -/
def Opnd.isDst : Opnd → Bool
  | .v n => decide (n < 96)
  | .s n => decide (n < 28)
  | .zero => true
  | .lane => false
  | .lit _ => false

/-- A source code whose operand takes `k` literal words (R65, R70). -/
def Opnd.isSrc (k : Nat) : Opnd → Bool
  | .v n => decide (n < 96)
  | .s n => decide (n < 28)
  | .zero => true
  | .lane => true
  | .lit x => decide (x.toNat < 2 ^ (32 * k))

/-- A register code, as group fields accept it (R70). -/
def Opnd.isReg : Opnd → Bool
  | .v n => decide (n < 96)
  | .s n => decide (n < 28)
  | .zero => false
  | .lane => false
  | .lit _ => false

/-- A scalar register code. -/
def Opnd.isSReg : Opnd → Bool
  | .s n => decide (n < 28)
  | _ => false

/-- What the six-bit pair field of ATOM and CAS can name (R262). -/
def Opnd.isPair6 : Opnd → Bool
  | .v n => decide (n < 96 ∧ n % 2 = 0)
  | .s n => decide (n < 28 ∧ n % 2 = 0)
  | .lit _ => true
  | .zero => false
  | .lane => false

/-- Registers an operand of this format takes (R16, R32): a pair for 64-bit formats. -/
def Fmt.words : Fmt → Nat
  | .f64 => 2
  | _ => 1

/-- As `Fmt.words`, for CVTI. -/
def FFmt.words : FFmt → Nat
  | .f64 => 2
  | _ => 1

/-- As `Fmt.words`, for the integer types of CVTI (R131). -/
def IntTy.words : IntTy → Nat
  | .i64 => 2
  | .n64 => 2
  | _ => 1

/-- Registers the a operand of LRED takes (R151). -/
def LredOp.words : LredOp → Nat
  | .f64 => 2
  | .smx => 2
  | _ => 1

/-- Registers the operands of FCMP take (R128). -/
def FCond.words : FCond → Nat
  | .eq64 => 2
  | .ne64 => 2
  | .lt64 => 2
  | .le64 => 2
  | _ => 1

/-- Registers a load or store type takes (R257). -/
def MemTy.words : MemTy → Nat
  | .n64 => 2
  | _ => 1

/-- Registers an atomic's type takes (R263). -/
def ATy.words : ATy → Nat
  | .i64 => 2
  | .n64 => 2
  | _ => 1

/-- The types a store accepts (R257). -/
def MemTy.storeOk : MemTy → Bool
  | .i8 => false
  | .i16 => false
  | _ => true

/-- What CVT accepts (R130): ST codes 0 to 9, DT codes 0 to 8, SAT only where it has an effect. -/
def Fmt.cvtOk (dt st : Fmt) (sat : Bool) : Bool :=
  (match st with
    | .f32 | .f64 | .f16 | .bf16 | .e4m3 | .e5m2 | .e3m2 | .e2m3 | .e2m1 | .e8m0 => true
    | _ => false) &&
  (match dt with
    | .f32 | .f64 | .f16 | .bf16 | .e5m2 => true
    | .e4m3 | .e3m2 | .e2m3 | .e2m1 => !sat
    | _ => false)

/-- What PACK accepts (R132). -/
def Fmt.packOk (dt : Fmt) (pos : Nat) (r : Rnd) (sat : Bool) : Bool :=
  match dt with
  | .f16 | .bf16 => decide (pos < 2)
  | .i16 | .n16 => decide (pos < 2) && !sat
  | .e4m3 => decide (pos < 4) && !sat
  | .e5m2 => decide (pos < 4)
  | .i8 | .n8 => decide (pos < 4) && decide (r = .rn) && !sat
  | .e2m1 => decide (pos < 8) && !sat
  | .i4 | .n4 => decide (pos < 8) && decide (r = .rn) && !sat
  | .f32 | .f64 | .e3m2 | .e2m3 | .e8m0 => false

/-- What UNPK accepts (R133). -/
def Fmt.unpkOk (st : Fmt) (pos : Nat) : Bool :=
  match st with
  | .f32 | .f64 => false
  | .f16 | .bf16 | .i16 | .n16 => decide (pos < 2)
  | .e4m3 | .e5m2 | .e3m2 | .e2m3 | .e8m0 | .i8 | .n8 => decide (pos < 4)
  | .e2m1 | .i4 | .n4 => decide (pos < 8)

/-- What FCLASS accepts (R129). -/
def Fmt.fclassOk : Fmt → Bool
  | .f32 | .f64 | .f16 | .bf16 | .e4m3 => true
  | _ => false

/-- The targets of SCALEX (R138). -/
def Fmt.scalexOk : Fmt → Bool
  | .e4m3 | .e5m2 | .e3m2 | .e2m3 | .e2m1 => true
  | _ => false

/-- The operand kind that WBIND's descriptor source asks for (R268). -/
def WFrom.srcOk : WFrom → Opnd → Bool
  | .reg, a => a.isReg
  | .spad, a => a.isSrc 1
  | .glob, a => a.isSrc 2

/-- The special registers that exist (R408, R449). -/
def srKnown (n : Nat) : Bool :=
  decide (n ≤ 0x16) && decide (n ≠ 0x17) || decide (0x18 ≤ n ∧ n ≤ 0x1B) || decide (0x20 ≤ n ∧ n ≤ 0x30)

/-- The special registers that have a field software may write (R164, R199, R409): sr.mode, and with privilege
sr.repcount, sr.bsync, sr.resume, sr.hs0 to sr.hs3 and sr.frec0 to sr.frec15. -/
def srWritable (n : Nat) : Bool :=
  decide (n = 8 ∨ n = 9 ∨ n = 0x12 ∨ n = 0x14 ∨ (0x18 ≤ n ∧ n ≤ 0x1B) ∨ (0x20 ≤ n ∧ n ≤ 0x2F))

/-- A well-formed instruction: every field within what its entry accepts. The unencoded rows carry no bits. -/
def Instr.wf : Instr → Bool
  | .mov d a g | .abs d a g | .neg d a g | .not d a g | .popc d a g | .clz d a g | .ctz d a g | .brev d a g
    | .lmatch d a g | .frcp d a g | .frsq d a g | .fsqrt d a g | .fexp2 d a g | .flog2 d a g | .fsin d a g
    | .fcos d a g | .ftanh d a g =>
      d.isDst && a.isSrc 1 && decide (g < 16)
  | .movi d i => d.isDst && decide (i < 2048)
  | .sel d a b q => d.isDst && a.isSrc 1 && b.isSrc 1 && decide (q < 16)
  | .add d a b g | .sub d a b g | .mul d a b g | .mulhI32 d a b g | .mulhN32 d a b g | .mad d a b g
    | .madwI32 d a b g | .madwN32 d a b g | .minI32 d a b g | .minN32 d a b g | .maxI32 d a b g | .maxN32 d a b g
    | .and d a b g | .or d a b g | .xor d a b g | .andn d a b g | .shl d a b g | .shr d a b g | .sar d a b g
    | .rol d a b g | .bfxI32 d a b g | .bfxN32 d a b g | .bfi d a b g | .perm d a b g | .fadd d a b g | .fsub d a b g
    | .fmul d a b g | .ffma d a b g | .ffms d a b g | .fmin d a b g | .fmax d a b g | .hadd2F16 d a b g
    | .hadd2Bf16 d a b g | .hmul2F16 d a b g | .hmul2Bf16 d a b g | .hfma2F16 d a b g | .hfma2Bf16 d a b g
    | .amax d a b g | .tstat d a b g | .grant d a b g =>
      d.isDst && a.isSrc 1 && b.isSrc 1 && decide (g < 16)
  | .addi d a i | .andi d a i | .ori d a i | .xori d a i => d.isDst && a.isSrc 1 && decide (i < 2048)
  | .shli d a i | .shri d a i | .sari d a i => d.isDst && a.isSrc 1 && decide (i < 32)
  | .lea d a b sh _ => d.isDst && a.isSrc 2 && b.isSrc 1 && decide (sh < 8)
  | .add64 d a b g | .sub64 d a b g | .dadd d a b g | .dmul d a b g | .dfma d a b g =>
      d.isDst && a.isSrc 2 && b.isSrc 2 && decide (g < 16)
  | .shl64 d a b g => d.isDst && a.isSrc 2 && b.isSrc 1 && decide (g < 16)
  | .icmp p _ a b g => decide (p < 16) && a.isSrc 1 && b.isSrc 1 && decide (g < 16)
  | .pand p a b _ _ g | .por p a b _ _ g | .pxor p a b _ _ g =>
      decide (p < 16) && decide (a < 16) && decide (b < 16) && decide (g < 16)
  | .pnot p a g | .vote p a _ _ g => decide (p < 16) && decide (a < 16) && decide (g < 16)
  | .p2v d g => d.isDst && decide (g < 16)
  | .v2p a b g => a.isSrc 1 && b.isSrc 1 && decide (g < 16)
  | .shfl d a b _ | .qzpRec d a b _ | .qzpQ d a b _ | .dq d a b _ | .scacc d a b _ | .lds d a b _ | .ldw d a b _
    | .spoll d a b _ _ =>
      d.isDst && a.isSrc 1 && b.isSrc 1
  | .ballot d a _ g => d.isDst && decide (a < 16) && decide (g < 16)
  | .lred d a b o => d.isDst && a.isSrc o.words && b.isSrc 1
  | .fcmp p c a b g => decide (p < 16) && a.isSrc c.words && b.isSrc c.words && decide (g < 16)
  | .fclass d a f g => d.isDst && a.isSrc f.words && decide (g < 16) && decide (f.fclassOk)
  | .cvt d a df sf _ sat => d.isDst && a.isSrc sf.words && decide (Fmt.cvtOk df sf sat)
  | .cvtiF2i d a f _ _ => d.isDst && a.isSrc f.words
  | .cvtiI2f d a _ i _ => d.isDst && a.isSrc i.words
  | .pack d a df pos r sat => d.isDst && a.isSrc 1 && decide (pos < 8) && decide (Fmt.packOk df pos r sat)
  | .unpk d a sf pos => d.isDst && a.isSrc 1 && decide (pos < 8) && decide (Fmt.unpkOk sf pos)
  | .split6 d a g | .join6 d a g => d.isReg && a.isReg && decide (g < 16)
  | .scalex d a t g => d.isDst && a.isSrc 1 && decide (g < 16) && decide (t.scalexOk)
  | .osmx d a b g => d.isDst && a.isSrc (if b = .zero then 1 else 2) && b.isSrc 2 && decide (g < 16)
  | .osmn d a b g => d.isDst && a.isSrc 1 && b.isSrc 2 && decide (g < 16)
  | .ld d a b _ _ => d.isDst && a.isSrc 2 && b.isSrc 1
  | .st d a b t _ => d.isSrc t.words && a.isSrc 2 && b.isSrc 1 && decide (t.storeOk)
  | .sts d a b t => d.isSrc t.words && a.isSrc 1 && b.isSrc 1 && decide (t.storeOk)
  | .gld d base sz _ b sp _ sh =>
      (if sp = true then d.isSrc 1 else d.isDst) && decide (base < 16) && decide (sz < 4) && b.isSrc 1 && decide (sh < 4) && decide (base < 14)
  | .gst d base sz _ b sp _ sh =>
      d.isSrc (if sz = 3 ∧ sp = false then 2 else 1) && decide (base < 16) && decide (sz < 4) && b.isSrc 1 && decide (sh < 4) && decide (base < 14)
  | .atom d p nr _ t _ g => (if nr = true then d.isSrc t.words else d.isDst) && p.isPair6 && decide (g < 16)
  | .cas d p _ _ g => d.isDst && p.isPair6 && decide (g < 16)
  | .contrib e a b g => e.isSrc 1 && a.isSrc 2 && b.isSrc 2 && decide (g < 16)
  | .sload p _ a b g => decide (p < 16) && a.isSrc 2 && b.isSrc 1 && decide (g < 16)
  | .unsub b g => b.isSrc 1 && decide (g < 16)
  | .pref a b => a.isSrc 2 && b.isSrc 1
  | .fence _ _ g | .reform g | .yield g | .ret g | .exit g => decide (g < 16)
  | .mrsv d p g | .elect d p g => d.isDst && decide (p < 16) && decide (g < 16)
  | .mrel res g => decide (res < 16) && decide (g < 16)
  | .minit res acc _ a b g => decide (res < 16) && decide (acc < 4) && a.isSrc 2 && b.isSrc 1 && decide (g < 16)
  | .mma k h a b | .mmas k h a b | .gmma k h a b =>
      decide (k < 16) && decide (h < 16) && a.isSrc 1 && b.isSrc 1 && decide (h < 14)
  | .mguide res acc a g =>
      decide (res < 16) && decide (acc < 4) && a.isSReg && decide (g < 16) && decide (acc = 0 ∨ acc = 2)
  | .mfin res acc g => decide (res < 16) && decide (acc < 4) && decide (g < 16)
  | .mdrainReg res acc a col rowb g =>
      decide (res < 16) && decide (acc < 4) && a.isReg && decide (col < 4) && decide (rowb < 4) && decide (g < 16) && decide (col < 3)
  | .mdrainSpad res acc a g | .mdrainTree res acc a g | .mstore res acc _ _ a g =>
      decide (res < 16) && decide (acc < 4) && a.isReg && decide (g < 16)
  | .mstatAcc d res acc g | .mstatEng d res acc g => d.isDst && decide (res < 16) && decide (acc < 4) && decide (g < 16)
  | .wbind e a f g => decide (e < 64) && f.srcOk a && decide (g < 16)
  | .wunb e g | .wflush e g => decide (e < 64) && decide (g < 16)
  | .touch e p g => decide (e < 64) && decide (p < 16) && decide (g < 16)
  | .wstat e d g => decide (e < 64) && d.isDst && decide (g < 16)
  | .arrive d b g => d.isDst && decide (b < 16) && decide (g < 16)
  | .arriveCount d a b g | .arriveExpect d a b g => d.isDst && a.isSrc 1 && decide (b < 16) && decide (g < 16)
  | .bwait a b g => a.isSrc 1 && decide (b < 16) && decide (g < 16)
  | .bsync b g => decide (b < 16) && decide (g < 16)
  | .kdecl k a b g => decide (k < 16) && a.isSrc 1 && b.isSrc 1 && decide (g < 16)
  | .sign k p g => decide (k < 16) && decide (p < 16) && decide (g < 16)
  | .waitc _ th g => decide (th < 64) && decide (g < 16)
  | .mwait d a b sp => d.isDst && a.isSrc (if sp then 1 else 2) && b.isSrc 2
  | .bra g off | .call g off => decide (g < 16) && decide (off < 2097152)
  | .brx a g | .callx a g => a.isSrc 2 && decide (g < 16)
  | .trap c g | .leave c g | .bkpt c g | .mark c g => decide (c < 65536) && decide (g < 16)
  | .enter c g => decide (c < 65536) && decide (g < 16) && decide (c ≠ 0xFFFF)
  | .srd d n g => d.isDst && decide (n < 1024) && decide (g < 16) && decide (srKnown n)
  | .swr a n g => a.isSrc (if n = 20 then 2 else 1) && decide (n < 1024) && decide (g < 16) && decide (srWritable n)
  | .svrf blk a b g | .ldrf blk a b g =>
      decide (blk < 8) && a.isSrc 2 && b.isSrc 1 && decide (g < 16) && decide (blk < 7 ∧ (blk = 6 ∨ b = .zero))
  | .svwinWin e a | .ldwinWin e a => decide (e < 64) && a.isSrc 2
  | .svwinSlot e a b | .ldwinSlot e a b => decide (e < 64) && a.isSrc 2 && b.isSrc 1
  | .tlbi page a b g =>
      a.isSrc (if page then 2 else 1) && b.isSrc 1 && decide (g < 16) && decide (page = true ∨ (a = .zero ∧ b = .zero))
  | .rep cnt step => decide (cnt < 64) && decide (step < 8)
  | _ => true

end Sys2Proof
end

