-- ==== Sys2Proof/Decode.lean ====
section
/-!
DEFINITION. Decoding: from the class of a clause and a word's bits to an instruction or a named rejection, total
on any bits (R63 to R71, R83); after it the encoder, written from the same encoding tables.
-/

namespace Sys2Proof

/-- Why a word is no instruction; each is the illegal-instruction trap of R84 stage 5. -/
inductive Reject where
  /-- The opcode is not assigned in its class (R83). -/
  | unassigned
  /-- A reserved bit or an unused operand field breaks R69, or a code its entry does not accept. -/
  | reserved
  /-- An operand code that its field does not accept (R70). -/
  | operand
  /-- A literal is missing: the clause's division (R65) rules it out before a word is decoded. -/
  | literals
  deriving DecidableEq, Repr

/-- Bits [lo + n - 1 : lo] of a word (R9). -/
def fld (w lo n : Nat) : Nat := w / 2 ^ lo % 2 ^ n

/-- Bit `lo` of a word. -/
def bitAt (w lo : Nat) : Bool := fld w lo 1 == 1

/-- A field's code, or the rejection of a code its entry does not accept. -/
def need {α : Type} : Option α → Except Reject α
  | some x => .ok x
  | none => .error .reserved

/-- A Boolean as one bit. -/
def bitOf (b : Bool) : Nat := if b then 1 else 0

/-- The codes of Cls (R63). -/
def Cls.code : Cls → Nat
  | .alu => 0
  | .xfn => 1
  | .mem => 2
  | .mtx => 3
  | .win => 4
  | .sync => 5
  | .ctl => 6
  | .sys => 7

/-- The Cls of a code (R63). -/
def Cls.ofCode : Nat → Option Cls
  | 0 => some .alu
  | 1 => some .xfn
  | 2 => some .mem
  | 3 => some .mtx
  | 4 => some .win
  | 5 => some .sync
  | 6 => some .ctl
  | 7 => some .sys
  | _ => none

/-- The codes of Fmt (R124). -/
def Fmt.code : Fmt → Nat
  | .f32 => 0
  | .f64 => 1
  | .f16 => 2
  | .bf16 => 3
  | .e4m3 => 4
  | .e5m2 => 5
  | .e3m2 => 6
  | .e2m3 => 7
  | .e2m1 => 8
  | .e8m0 => 9
  | .i8 => 10
  | .n8 => 11
  | .i4 => 12
  | .n4 => 13
  | .i16 => 14
  | .n16 => 15

/-- The Fmt of a code (R124). -/
def Fmt.ofCode : Nat → Option Fmt
  | 0 => some .f32
  | 1 => some .f64
  | 2 => some .f16
  | 3 => some .bf16
  | 4 => some .e4m3
  | 5 => some .e5m2
  | 6 => some .e3m2
  | 7 => some .e2m3
  | 8 => some .e2m1
  | 9 => some .e8m0
  | 10 => some .i8
  | 11 => some .n8
  | 12 => some .i4
  | 13 => some .n4
  | 14 => some .i16
  | 15 => some .n16
  | _ => none

/-- The codes of Rnd (R125). -/
def Rnd.code : Rnd → Nat
  | .rn => 0
  | .rz => 1
  | .rp => 2
  | .rm => 3

/-- The Rnd of a code (R125). -/
def Rnd.ofCode : Nat → Option Rnd
  | 0 => some .rn
  | 1 => some .rz
  | 2 => some .rp
  | 3 => some .rm
  | _ => none

/-- The codes of ICond (R117). -/
def ICond.code : ICond → Nat
  | .eq => 0
  | .ne => 1
  | .ltI => 2
  | .leI => 3
  | .ltN => 4
  | .leN => 5
  | .tst => 6
  | .tz => 7

/-- The ICond of a code (R117). -/
def ICond.ofCode : Nat → Option ICond
  | 0 => some .eq
  | 1 => some .ne
  | 2 => some .ltI
  | 3 => some .leI
  | 4 => some .ltN
  | 5 => some .leN
  | 6 => some .tst
  | 7 => some .tz
  | _ => none

/-- The codes of FCond (R128). -/
def FCond.code : FCond → Nat
  | .eq32 => 0
  | .ne32 => 1
  | .lt32 => 2
  | .le32 => 3
  | .eq64 => 4
  | .ne64 => 5
  | .lt64 => 6
  | .le64 => 7

/-- The FCond of a code (R128). -/
def FCond.ofCode : Nat → Option FCond
  | 0 => some .eq32
  | 1 => some .ne32
  | 2 => some .lt32
  | 3 => some .le32
  | 4 => some .eq64
  | 5 => some .ne64
  | 6 => some .lt64
  | 7 => some .le64
  | _ => none

/-- The codes of ShflMode (R149). -/
def ShflMode.code : ShflMode → Nat
  | .idx => 0
  | .up => 1
  | .down => 2
  | .xor => 3

/-- The ShflMode of a code (R149). -/
def ShflMode.ofCode : Nat → Option ShflMode
  | 0 => some .idx
  | 1 => some .up
  | 2 => some .down
  | 3 => some .xor
  | _ => none

/-- The codes of VoteMode (R150). -/
def VoteMode.code : VoteMode → Nat
  | .all => 0
  | .any => 1
  | .uni => 2

/-- The VoteMode of a code (R150). -/
def VoteMode.ofCode : Nat → Option VoteMode
  | 0 => some .all
  | 1 => some .any
  | 2 => some .uni
  | _ => none

/-- The codes of LredOp (R151). -/
def LredOp.code : LredOp → Nat
  | .f32 => 0
  | .f64 => 1
  | .smx => 2
  | .i32 => 3

/-- The LredOp of a code (R151). -/
def LredOp.ofCode : Nat → Option LredOp
  | 0 => some .f32
  | 1 => some .f64
  | 2 => some .smx
  | 3 => some .i32
  | _ => none

/-- The codes of FFmt (R131). -/
def FFmt.code : FFmt → Nat
  | .f32 => 0
  | .f64 => 1
  | .f16 => 2
  | .bf16 => 3

/-- The FFmt of a code (R131). -/
def FFmt.ofCode : Nat → Option FFmt
  | 0 => some .f32
  | 1 => some .f64
  | 2 => some .f16
  | 3 => some .bf16
  | _ => none

/-- The codes of IntTy (R131). -/
def IntTy.code : IntTy → Nat
  | .i8 => 0
  | .n8 => 1
  | .i16 => 2
  | .n16 => 3
  | .i32 => 4
  | .n32 => 5
  | .i64 => 6
  | .n64 => 7

/-- The IntTy of a code (R131). -/
def IntTy.ofCode : Nat → Option IntTy
  | 0 => some .i8
  | 1 => some .n8
  | 2 => some .i16
  | 3 => some .n16
  | 4 => some .i32
  | 5 => some .n32
  | 6 => some .i64
  | 7 => some .n64
  | _ => none

/-- The codes of QTy (R125). -/
def QTy.code : QTy → Nat
  | .i8 => 0
  | .n8 => 1
  | .i4 => 2
  | .n4 => 3

/-- The QTy of a code (R125). -/
def QTy.ofCode : Nat → Option QTy
  | 0 => some .i8
  | 1 => some .n8
  | 2 => some .i4
  | 3 => some .n4
  | _ => none

/-- The codes of MemTy (R257). -/
def MemTy.code : MemTy → Nat
  | .n8 => 0
  | .i8 => 1
  | .n16 => 2
  | .i16 => 3
  | .b32 => 4
  | .n64 => 5

/-- The MemTy of a code (R257). -/
def MemTy.ofCode : Nat → Option MemTy
  | 0 => some .n8
  | 1 => some .i8
  | 2 => some .n16
  | 3 => some .i16
  | 4 => some .b32
  | 5 => some .n64
  | _ => none

/-- The codes of Aop (R263). -/
def Aop.code : Aop → Nat
  | .add => 0
  | .and => 1
  | .or => 2
  | .xor => 3
  | .exch => 4
  | .min => 5
  | .max => 6

/-- The Aop of a code (R263). -/
def Aop.ofCode : Nat → Option Aop
  | 0 => some .add
  | 1 => some .and
  | 2 => some .or
  | 3 => some .xor
  | 4 => some .exch
  | 5 => some .min
  | 6 => some .max
  | _ => none

/-- The codes of ATy (R263). -/
def ATy.code : ATy → Nat
  | .i32 => 0
  | .n32 => 1
  | .i64 => 2
  | .n64 => 3

/-- The ATy of a code (R263). -/
def ATy.ofCode : Nat → Option ATy
  | 0 => some .i32
  | 1 => some .n32
  | 2 => some .i64
  | 3 => some .n64
  | _ => none

/-- The codes of MOrd (R262). -/
def MOrd.code : MOrd → Nat
  | .rlx => 0
  | .acq => 1
  | .rel => 2
  | .ar => 3

/-- The MOrd of a code (R262). -/
def MOrd.ofCode : Nat → Option MOrd
  | 0 => some .rlx
  | 1 => some .acq
  | 2 => some .rel
  | 3 => some .ar
  | _ => none

/-- The codes of Scope (R74). -/
def Scope.code : Scope → Nat
  | .core => 0
  | .clu => 1
  | .die => 2
  | .dev => 3
  | .pod => 4

/-- The Scope of a code (R74). -/
def Scope.ofCode : Nat → Option Scope
  | 0 => some .core
  | 1 => some .clu
  | 2 => some .die
  | 3 => some .dev
  | 4 => some .pod
  | _ => none

/-- The codes of FenceKind (R266). -/
def FenceKind.code : FenceKind → Nat
  | .acq => 0
  | .rel => 1
  | .ar => 2
  | .full => 3

/-- The FenceKind of a code (R266). -/
def FenceKind.ofCode : Nat → Option FenceKind
  | 0 => some .acq
  | 1 => some .rel
  | 2 => some .ar
  | 3 => some .full
  | _ => none

/-- The codes of Ctr (R63). -/
def Ctr.code : Ctr → Nat
  | .st => 0
  | .mx => 1
  | .gx => 2
  | .ct => 3

/-- The Ctr of a code (R63). -/
def Ctr.ofCode : Nat → Option Ctr
  | 0 => some .st
  | 1 => some .mx
  | 2 => some .gx
  | 3 => some .ct
  | _ => none

/-- The codes of SFmt (R316). -/
def SFmt.code : SFmt → Nat
  | .f32 => 0
  | .f16 => 1
  | .bf16 => 2
  | .e4m3 => 3
  | .e5m2 => 4

/-- The SFmt of a code (R316). -/
def SFmt.ofCode : Nat → Option SFmt
  | 0 => some .f32
  | 1 => some .f16
  | 2 => some .bf16
  | 3 => some .e4m3
  | 4 => some .e5m2
  | _ => none

/-- The codes of WFrom (R268). -/
def WFrom.code : WFrom → Nat
  | .reg => 0
  | .spad => 1
  | .glob => 2

/-- The WFrom of a code (R268). -/
def WFrom.ofCode : Nat → Option WFrom
  | 0 => some .reg
  | 1 => some .spad
  | 2 => some .glob
  | _ => none

/-- The seven-bit operand code (R70). -/
def Opnd.code : Opnd → Nat
  | .v n => n
  | .s n => 96 + n
  | .zero => 124
  | .lane => 125
  | .lit _ => 126

/-- The `k` literal words an operand takes, low word first (R65). -/
def Opnd.lits (k : Nat) : Opnd → List Word
  | .lit x => if k = 1 then [x.setWidth 32] else [x.setWidth 32, (x >>> 32).setWidth 32]
  | _ => []

/-- A 64-bit value from its two words, low word first (R32). -/
def pairOf (lo hi : Word) : Dword := hi ++ lo

/-- A source field of `k` literal words: its operand and the literal words left (R65, R70). -/
def srcOf (k c : Nat) (ls : List Word) : Except Reject (Opnd × List Word) :=
  if c < 96 then .ok (.v c, ls)
  else if c < 124 then .ok (.s (c - 96), ls)
  else if c = 124 then .ok (.zero, ls)
  else if c = 125 then .ok (.lane, ls)
  else if c = 126 then
    if k = 1 then
      match ls with
      | x :: r => .ok (.lit (x.setWidth 64), r)
      | [] => .error .literals
    else
      match ls with
      | x :: y :: r => .ok (.lit (pairOf x y), r)
      | _ => .error .literals
  else .error .operand

/-- A destination field (R70). -/
def dstOf (c : Nat) : Except Reject Opnd :=
  if c < 96 then .ok (.v c)
  else if c < 124 then .ok (.s (c - 96))
  else if c = 124 then .ok .zero
  else .error .operand

/-- A field that names a register or a group of registers (R70). -/
def regOf (c : Nat) : Except Reject Opnd :=
  if c < 96 then .ok (.v c) else if c < 124 then .ok (.s (c - 96)) else .error .operand

/-- A field that must hold an s register code (R314). -/
def sregOf (c : Nat) : Except Reject Opnd :=
  if 96 ≤ c ∧ c < 124 then .ok (.s (c - 96)) else .error .operand

/-- The six-bit pair field of ATOM and CAS (R262). -/
def pair6Of (c : Nat) (ls : List Word) : Except Reject (Opnd × List Word) :=
  if c < 48 then .ok (.v (2 * c), ls)
  else if c < 62 then .ok (.s (2 * (c - 48)), ls)
  else if c = 63 then
    match ls with
    | x :: y :: r => .ok (.lit (pairOf x y), r)
    | _ => .error .literals
  else .error .operand

/-- The six-bit code of an ATOM or CAS address (R262). -/
def Opnd.code6 : Opnd → Nat
  | .v n => n / 2
  | .s n => 48 + n / 2
  | _ => 63

/-- The descriptor source field of WBIND (R268). -/
def wbindOf (f : WFrom) (c : Nat) (ls : List Word) : Except Reject (Opnd × List Word) :=
  match f with
  | .reg => (regOf c).map fun a => (a, ls)
  | .spad => srcOf 1 c ls
  | .glob => srcOf 2 c ls

/-- The literal words WBIND's descriptor source takes. -/
def wbindWords : WFrom → Nat
  | .glob => 2
  | _ => 1

/-- A three-operand word with a guard in [3:0] (R68): `ka` and `kb` are the literal words of its sources. -/
def decRRR (mk : Opnd → Opnd → Opnd → Nat → Instr) (ka kb w : Nat) (ls : List Word) :
    Except Reject (Instr × List Word) := do
  let d ← dstOf (fld w 18 7)
  let (a, ls) ← srcOf ka (fld w 11 7) ls
  let (b, ls) ← srcOf kb (fld w 4 7) ls
  .ok (mk d a b (fld w 0 4), ls)

/-- A unary word: b is unused and must hold 0x7C (R69, R109, R140). -/
def decUn (mk : Opnd → Opnd → Nat → Instr) (w : Nat) (ls : List Word) : Except Reject (Instr × List Word) :=
  if fld w 4 7 = 124 then do
    let d ← dstOf (fld w 18 7)
    let (a, ls) ← srcOf 1 (fld w 11 7) ls
    .ok (mk d a (fld w 0 4), ls)
  else .error .reserved

/-- An immediate word (R68). -/
def decRI (mk : Opnd → Opnd → Nat → Instr) (w : Nat) (ls : List Word) : Except Reject (Instr × List Word) := do
  let d ← dstOf (fld w 18 7)
  let (a, ls) ← srcOf 1 (fld w 11 7) ls
  .ok (mk d a (fld w 0 11), ls)

/-- A word whose only field is its guard. -/
def decG (mk : Nat → Instr) (w : Nat) (ls : List Word) : Except Reject (Instr × List Word) :=
  if fld w 4 21 = 0 then .ok (mk (fld w 0 4), ls) else .error .reserved

/-- A word with CODE in [19:4] and a guard (R153, R407). -/
def decCode (mk : Nat → Nat → Instr) (w : Nat) (ls : List Word) : Except Reject (Instr × List Word) :=
  if fld w 20 5 = 0 then .ok (mk (fld w 4 16) (fld w 0 4), ls) else .error .reserved

/-- The words of class alu (R83). -/
def decAlu (op w : Nat) (ls : List Word) : Except Reject (Instr × List Word) :=
  match op with
  | 0x00 => decUn .mov w ls
  | 0x01 =>
    if fld w 11 7 = 124 then do
        let d ← dstOf (fld w 18 7)
        .ok (.movi d (fld w 0 11), ls)
    else .error .reserved
  | 0x02 =>
    do
      let d ← dstOf (fld w 18 7)
      let (a, ls) ← srcOf 1 (fld w 11 7) ls
      let (b, ls) ← srcOf 1 (fld w 4 7) ls
      .ok (.sel d a b (fld w 0 4), ls)
  | 0x08 => decRRR .add 1 1 w ls
  | 0x09 => decRRR .sub 1 1 w ls
  | 0x0A => decRRR .mul 1 1 w ls
  | 0x0B => decRRR .mulhI32 1 1 w ls
  | 0x0C => decRRR .mulhN32 1 1 w ls
  | 0x0D => decRRR .mad 1 1 w ls
  | 0x0E => decRRR .madwI32 1 1 w ls
  | 0x0F => decRRR .madwN32 1 1 w ls
  | 0x10 => decRRR .minI32 1 1 w ls
  | 0x11 => decRRR .minN32 1 1 w ls
  | 0x12 => decRRR .maxI32 1 1 w ls
  | 0x13 => decRRR .maxN32 1 1 w ls
  | 0x14 => decUn .abs w ls
  | 0x15 => decUn .neg w ls
  | 0x18 => decRRR .and 1 1 w ls
  | 0x19 => decRRR .or 1 1 w ls
  | 0x1A => decRRR .xor 1 1 w ls
  | 0x1B => decRRR .andn 1 1 w ls
  | 0x1C => decUn .not w ls
  | 0x1D => decRRR .shl 1 1 w ls
  | 0x1E => decRRR .shr 1 1 w ls
  | 0x1F => decRRR .sar 1 1 w ls
  | 0x20 => decRRR .rol 1 1 w ls
  | 0x28 => decUn .popc w ls
  | 0x29 => decUn .clz w ls
  | 0x2A => decUn .ctz w ls
  | 0x2B => decUn .brev w ls
  | 0x2C => decRRR .bfxI32 1 1 w ls
  | 0x2D => decRRR .bfxN32 1 1 w ls
  | 0x2E => decRRR .bfi 1 1 w ls
  | 0x2F => decRRR .perm 1 1 w ls
  | 0x30 => decRI .addi w ls
  | 0x31 => decRI .andi w ls
  | 0x32 => decRI .ori w ls
  | 0x33 => decRI .xori w ls
  | 0x34 =>
    if fld w 5 6 = 0 then do
        let d ← dstOf (fld w 18 7)
        let (a, ls) ← srcOf 1 (fld w 11 7) ls
        .ok (.shli d a (fld w 0 5), ls)
    else .error .reserved
  | 0x35 =>
    if fld w 5 6 = 0 then do
        let d ← dstOf (fld w 18 7)
        let (a, ls) ← srcOf 1 (fld w 11 7) ls
        .ok (.shri d a (fld w 0 5), ls)
    else .error .reserved
  | 0x36 =>
    if fld w 5 6 = 0 then do
        let d ← dstOf (fld w 18 7)
        let (a, ls) ← srcOf 1 (fld w 11 7) ls
        .ok (.sari d a (fld w 0 5), ls)
    else .error .reserved
  | 0x38 =>
    do
      let d ← dstOf (fld w 18 7)
      let (a, ls) ← srcOf 2 (fld w 11 7) ls
      let (b, ls) ← srcOf 1 (fld w 4 7) ls
      .ok (.lea d a b (fld w 1 3) (bitAt w 0), ls)
  | 0x39 => decRRR .add64 2 2 w ls
  | 0x3A => decRRR .sub64 2 2 w ls
  | 0x3B => decRRR .shl64 2 1 w ls
  | 0x40 =>
    do
      let c ← need (ICond.ofCode (fld w 18 3))
      let (a, ls) ← srcOf 1 (fld w 11 7) ls
      let (b, ls) ← srcOf 1 (fld w 4 7) ls
      .ok (.icmp (fld w 21 4) c a b (fld w 0 4), ls)
  | 0x41 =>
    if fld w 4 7 = 0 then .ok (.pand (fld w 21 4) (fld w 17 4) (fld w 13 4) (bitAt w 12) (bitAt w 11) (fld w 0 4), ls)
    else .error .reserved
  | 0x42 =>
    if fld w 4 7 = 0 then .ok (.por (fld w 21 4) (fld w 17 4) (fld w 13 4) (bitAt w 12) (bitAt w 11) (fld w 0 4), ls)
    else .error .reserved
  | 0x43 =>
    if fld w 4 7 = 0 then .ok (.pxor (fld w 21 4) (fld w 17 4) (fld w 13 4) (bitAt w 12) (bitAt w 11) (fld w 0 4), ls)
    else .error .reserved
  | 0x44 =>
    if fld w 4 13 = 0 then .ok (.pnot (fld w 21 4) (fld w 17 4) (fld w 0 4), ls)
    else .error .reserved
  | 0x45 =>
    if fld w 4 14 = 15996 then do
        let d ← dstOf (fld w 18 7)
        .ok (.p2v d (fld w 0 4), ls)
    else .error .reserved
  | 0x46 =>
    if fld w 18 7 = 124 then do
        let (a, ls) ← srcOf 1 (fld w 11 7) ls
        let (b, ls) ← srcOf 1 (fld w 4 7) ls
        .ok (.v2p a b (fld w 0 4), ls)
    else .error .reserved
  | 0x48 =>
    if fld w 0 2 = 0 then do
        let m ← need (ShflMode.ofCode (fld w 2 2))
        let d ← dstOf (fld w 18 7)
        let (a, ls) ← srcOf 1 (fld w 11 7) ls
        let (b, ls) ← srcOf 1 (fld w 4 7) ls
        .ok (.shfl d a b m, ls)
    else .error .reserved
  | 0x49 =>
    if fld w 4 10 = 0 then do
        let m ← need (VoteMode.ofCode (fld w 14 2))
        .ok (.vote (fld w 21 4) (fld w 17 4) (bitAt w 16) m (fld w 0 4), ls)
    else .error .reserved
  | 0x4A =>
    if fld w 4 9 = 0 then do
        let d ← dstOf (fld w 18 7)
        .ok (.ballot d (fld w 14 4) (bitAt w 13) (fld w 0 4), ls)
    else .error .reserved
  | 0x4B => decUn .lmatch w ls
  | 0x4C =>
    if fld w 0 2 = 0 then do
        let o ← need (LredOp.ofCode (fld w 2 2))
        let d ← dstOf (fld w 18 7)
        let (a, ls) ← srcOf o.words (fld w 11 7) ls
        let (b, ls) ← srcOf 1 (fld w 4 7) ls
        .ok (.lred d a b o, ls)
    else .error .reserved
  | _ => .error .unassigned

/-- The words of class xfn (R83). -/
def decXfn (op w : Nat) (ls : List Word) : Except Reject (Instr × List Word) :=
  match op with
  | 0x00 => decRRR .fadd 1 1 w ls
  | 0x01 => decRRR .fsub 1 1 w ls
  | 0x02 => decRRR .fmul 1 1 w ls
  | 0x03 => decRRR .ffma 1 1 w ls
  | 0x04 => decRRR .ffms 1 1 w ls
  | 0x05 => decRRR .fmin 1 1 w ls
  | 0x06 => decRRR .fmax 1 1 w ls
  | 0x07 =>
    do
      let c ← need (FCond.ofCode (fld w 18 3))
      let (a, ls) ← srcOf c.words (fld w 11 7) ls
      let (b, ls) ← srcOf c.words (fld w 4 7) ls
      .ok (.fcmp (fld w 21 4) c a b (fld w 0 4), ls)
  | 0x08 =>
    if fld w 4 3 = 0 then do
        let f ← need (Fmt.ofCode (fld w 7 4))
        let d ← dstOf (fld w 18 7)
        let (a, ls) ← srcOf f.words (fld w 11 7) ls
        if f.fclassOk then .ok (.fclass d a f (fld w 0 4), ls) else .error .reserved
    else .error .reserved
  | 0x10 => decRRR .hadd2F16 1 1 w ls
  | 0x11 => decRRR .hadd2Bf16 1 1 w ls
  | 0x12 => decRRR .hmul2F16 1 1 w ls
  | 0x13 => decRRR .hmul2Bf16 1 1 w ls
  | 0x14 => decRRR .hfma2F16 1 1 w ls
  | 0x15 => decRRR .hfma2Bf16 1 1 w ls
  | 0x18 => decRRR .dadd 2 2 w ls
  | 0x19 => decRRR .dmul 2 2 w ls
  | 0x1A => decRRR .dfma 2 2 w ls
  | 0x20 =>
    do
      let df ← need (Fmt.ofCode (fld w 7 4))
      let sf ← need (Fmt.ofCode (fld w 3 4))
      let r ← need (Rnd.ofCode (fld w 1 2))
      let d ← dstOf (fld w 18 7)
      let (a, ls) ← srcOf sf.words (fld w 11 7) ls
      if Fmt.cvtOk df sf (bitAt w 0) then .ok (.cvt d a df sf r (bitAt w 0), ls) else .error .reserved
  | 0x21 =>
    if fld w 0 3 = 0 ∧ fld w 10 1 = 0 then do
        let f ← need (FFmt.ofCode (fld w 8 2))
        let i ← need (IntTy.ofCode (fld w 5 3))
        let r ← need (Rnd.ofCode (fld w 3 2))
        let d ← dstOf (fld w 18 7)
        let (a, ls) ← srcOf f.words (fld w 11 7) ls
        .ok (.cvtiF2i d a f i r, ls)
    else if fld w 0 3 = 0 ∧ fld w 10 1 = 1 then do
        let f ← need (FFmt.ofCode (fld w 8 2))
        let i ← need (IntTy.ofCode (fld w 5 3))
        let r ← need (Rnd.ofCode (fld w 3 2))
        let d ← dstOf (fld w 18 7)
        let (a, ls) ← srcOf i.words (fld w 11 7) ls
        .ok (.cvtiI2f d a f i r, ls)
    else .error .reserved
  | 0x22 =>
    if fld w 0 1 = 0 then do
        let df ← need (Fmt.ofCode (fld w 7 4))
        let r ← need (Rnd.ofCode (fld w 2 2))
        let d ← dstOf (fld w 18 7)
        let (a, ls) ← srcOf 1 (fld w 11 7) ls
        if Fmt.packOk df (fld w 4 3) r (bitAt w 1) then .ok (.pack d a df (fld w 4 3) r (bitAt w 1), ls) else .error .reserved
    else .error .reserved
  | 0x23 =>
    if fld w 0 4 = 0 then do
        let sf ← need (Fmt.ofCode (fld w 7 4))
        let d ← dstOf (fld w 18 7)
        let (a, ls) ← srcOf 1 (fld w 11 7) ls
        if Fmt.unpkOk sf (fld w 4 3) then .ok (.unpk d a sf (fld w 4 3), ls) else .error .reserved
    else .error .reserved
  | 0x24 =>
    if fld w 4 7 = 0 then do
        let d ← regOf (fld w 18 7)
        let a ← regOf (fld w 11 7)
        .ok (.split6 d a (fld w 0 4), ls)
    else .error .reserved
  | 0x25 =>
    if fld w 4 7 = 0 then do
        let d ← regOf (fld w 18 7)
        let a ← regOf (fld w 11 7)
        .ok (.join6 d a (fld w 0 4), ls)
    else .error .reserved
  | 0x26 =>
    if fld w 0 2 = 0 then do
        let i ← need (QTy.ofCode (fld w 2 2))
        let d ← dstOf (fld w 18 7)
        let (a, ls) ← srcOf 1 (fld w 11 7) ls
        let (b, ls) ← srcOf 1 (fld w 4 7) ls
        .ok (.qzpRec d a b i, ls)
    else if fld w 0 2 = 2 then do
        let i ← need (QTy.ofCode (fld w 2 2))
        let d ← dstOf (fld w 18 7)
        let (a, ls) ← srcOf 1 (fld w 11 7) ls
        let (b, ls) ← srcOf 1 (fld w 4 7) ls
        .ok (.qzpQ d a b i, ls)
    else .error .reserved
  | 0x27 =>
    if fld w 0 2 = 0 then do
        let i ← need (QTy.ofCode (fld w 2 2))
        let d ← dstOf (fld w 18 7)
        let (a, ls) ← srcOf 1 (fld w 11 7) ls
        let (b, ls) ← srcOf 1 (fld w 4 7) ls
        .ok (.dq d a b i, ls)
    else .error .reserved
  | 0x28 => decRRR .amax 1 1 w ls
  | 0x29 =>
    if fld w 4 3 = 0 then do
        let t ← need (Fmt.ofCode (fld w 7 4))
        let d ← dstOf (fld w 18 7)
        let (a, ls) ← srcOf 1 (fld w 11 7) ls
        if t.scalexOk then .ok (.scalex d a t (fld w 0 4), ls) else .error .reserved
    else .error .reserved
  | 0x2A =>
    if fld w 1 3 = 0 then do
        let d ← dstOf (fld w 18 7)
        let (a, ls) ← srcOf 1 (fld w 11 7) ls
        let (b, ls) ← srcOf 1 (fld w 4 7) ls
        .ok (.scacc d a b (bitAt w 0), ls)
    else .error .reserved
  | 0x30 => decUn .frcp w ls
  | 0x31 => decUn .frsq w ls
  | 0x32 => decUn .fsqrt w ls
  | 0x33 => decUn .fexp2 w ls
  | 0x34 => decUn .flog2 w ls
  | 0x35 => decUn .fsin w ls
  | 0x36 => decUn .fcos w ls
  | 0x37 => decUn .ftanh w ls
  | 0x38 =>
    do
      let d ← dstOf (fld w 18 7)
      let (a, ls) ← srcOf (if fld w 4 7 = 124 then 1 else 2) (fld w 11 7) ls
      let (b, ls) ← srcOf 2 (fld w 4 7) ls
      .ok (.osmx d a b (fld w 0 4), ls)
  | 0x39 => decRRR .osmn 1 2 w ls
  | _ => .error .unassigned

/-- The words of class mem (R83). -/
def decMem (op w : Nat) (ls : List Word) : Except Reject (Instr × List Word) :=
  match op with
  | 0x00 =>
    do
      let t ← need (MemTy.ofCode (fld w 1 3))
      let d ← dstOf (fld w 18 7)
      let (a, ls) ← srcOf 2 (fld w 11 7) ls
      let (b, ls) ← srcOf 1 (fld w 4 7) ls
      .ok (.ld d a b t (bitAt w 0), ls)
  | 0x01 =>
    do
      let t ← need (MemTy.ofCode (fld w 1 3))
      let (d, ls) ← srcOf t.words (fld w 18 7) ls
      let (a, ls) ← srcOf 2 (fld w 11 7) ls
      let (b, ls) ← srcOf 1 (fld w 4 7) ls
      if t.storeOk then .ok (.st d a b t (bitAt w 0), ls) else .error .reserved
  | 0x02 =>
    if fld w 0 1 = 0 then do
        let t ← need (MemTy.ofCode (fld w 1 3))
        let d ← dstOf (fld w 18 7)
        let (a, ls) ← srcOf 1 (fld w 11 7) ls
        let (b, ls) ← srcOf 1 (fld w 4 7) ls
        .ok (.lds d a b t, ls)
    else .error .reserved
  | 0x03 =>
    if fld w 0 1 = 0 then do
        let t ← need (MemTy.ofCode (fld w 1 3))
        let (d, ls) ← srcOf t.words (fld w 18 7) ls
        let (a, ls) ← srcOf 1 (fld w 11 7) ls
        let (b, ls) ← srcOf 1 (fld w 4 7) ls
        if t.storeOk then .ok (.sts d a b t, ls) else .error .reserved
    else .error .reserved
  | 0x04 =>
    if fld w 0 1 = 0 then do
        let t ← need (MemTy.ofCode (fld w 1 3))
        let d ← dstOf (fld w 18 7)
        let (a, ls) ← srcOf 1 (fld w 11 7) ls
        let (b, ls) ← srcOf 1 (fld w 4 7) ls
        .ok (.ldw d a b t, ls)
    else .error .reserved
  | 0x05 =>
    do
      let (d, ls) ← if fld w 3 1 = 1 then srcOf 1 (fld w 18 7) ls else (dstOf (fld w 18 7)).map fun x => (x, ls)
      let (b, ls) ← srcOf 1 (fld w 4 7) ls
      if (fld w 14 4) < 14 then .ok (.gld d (fld w 14 4) (fld w 12 2) (bitAt w 11) b (bitAt w 3) (bitAt w 2) (fld w 0 2), ls) else .error .reserved
  | 0x06 =>
    do
      let (d, ls) ← srcOf (if fld w 12 2 = 3 ∧ fld w 3 1 = 0 then 2 else 1) (fld w 18 7) ls
      let (b, ls) ← srcOf 1 (fld w 4 7) ls
      if (fld w 14 4) < 14 then .ok (.gst d (fld w 14 4) (fld w 12 2) (bitAt w 11) b (bitAt w 3) (bitAt w 2) (fld w 0 2), ls) else .error .reserved
  | 0x08 =>
    do
      let o ← need (Aop.ofCode (fld w 8 3))
      let t ← need (ATy.ofCode (fld w 6 2))
      let r ← need (MOrd.ofCode (fld w 4 2))
      let (d, ls) ← if fld w 11 1 = 1 then srcOf t.words (fld w 18 7) ls else (dstOf (fld w 18 7)).map fun x => (x, ls)
      let (p, ls) ← pair6Of (fld w 12 6) ls
      .ok (.atom d p (bitAt w 11) o t r (fld w 0 4), ls)
  | 0x09 =>
    if fld w 7 5 = 0 then do
        let r ← need (MOrd.ofCode (fld w 4 2))
        let d ← dstOf (fld w 18 7)
        let (p, ls) ← pair6Of (fld w 12 6) ls
        .ok (.cas d p (bitAt w 6) r (fld w 0 4), ls)
    else .error .reserved
  | 0x0A =>
    do
      let (e, ls) ← srcOf 1 (fld w 18 7) ls
      let (a, ls) ← srcOf 2 (fld w 11 7) ls
      let (b, ls) ← srcOf 2 (fld w 4 7) ls
      .ok (.contrib e a b (fld w 0 4), ls)
  | 0x0B => decRRR .tstat 1 1 w ls
  | 0x10 =>
    if fld w 18 2 = 0 then do
        let (a, ls) ← srcOf 2 (fld w 11 7) ls
        let (b, ls) ← srcOf 1 (fld w 4 7) ls
        .ok (.sload (fld w 21 4) (bitAt w 20) a b (fld w 0 4), ls)
    else .error .reserved
  | 0x11 =>
    if fld w 0 2 = 0 then do
        let d ← dstOf (fld w 18 7)
        let (a, ls) ← srcOf 1 (fld w 11 7) ls
        let (b, ls) ← srcOf 1 (fld w 4 7) ls
        .ok (.spoll d a b (bitAt w 3) (bitAt w 2), ls)
    else .error .reserved
  | 0x12 =>
    if fld w 11 14 = 0 then do
        let (b, ls) ← srcOf 1 (fld w 4 7) ls
        .ok (.unsub b (fld w 0 4), ls)
    else .error .reserved
  | 0x18 =>
    if fld w 0 4 = 0 ∧ fld w 18 7 = 124 then do
        let (a, ls) ← srcOf 2 (fld w 11 7) ls
        let (b, ls) ← srcOf 1 (fld w 4 7) ls
        .ok (.pref a b, ls)
    else .error .reserved
  | 0x19 =>
    if fld w 4 2 = 0 ∧ fld w 11 14 = 0 then do
        let sc ← need (Scope.ofCode (fld w 8 3))
        let k ← need (FenceKind.ofCode (fld w 6 2))
        .ok (.fence sc k (fld w 0 4), ls)
    else .error .reserved
  | _ => .error .unassigned

/-- The words of class mtx (R83). -/
def decMtx (op w : Nat) (ls : List Word) : Except Reject (Instr × List Word) :=
  match op with
  | 0x00 =>
    if fld w 4 10 = 0 then do
        let d ← dstOf (fld w 18 7)
        .ok (.mrsv d (fld w 14 4) (fld w 0 4), ls)
    else .error .reserved
  | 0x01 =>
    if fld w 4 17 = 0 then .ok (.mrel (fld w 21 4) (fld w 0 4), ls)
    else .error .reserved
  | 0x02 =>
    do
      let (a, ls) ← srcOf 2 (fld w 11 7) ls
      let (b, ls) ← srcOf 1 (fld w 4 7) ls
      .ok (.minit (fld w 21 4) (fld w 19 2) (bitAt w 18) a b (fld w 0 4), ls)
  | 0x08 =>
    if fld w 0 3 = 0 then do
        let (a, ls) ← srcOf 1 (fld w 10 7) ls
        let (b, ls) ← srcOf 1 (fld w 3 7) ls
        if (fld w 17 4) < 14 then .ok (.mma (fld w 21 4) (fld w 17 4) a b, ls) else .error .reserved
    else .error .reserved
  | 0x09 =>
    if fld w 0 3 = 0 then do
        let (a, ls) ← srcOf 1 (fld w 10 7) ls
        let (b, ls) ← srcOf 1 (fld w 3 7) ls
        if (fld w 17 4) < 14 then .ok (.mmas (fld w 21 4) (fld w 17 4) a b, ls) else .error .reserved
    else .error .reserved
  | 0x0A =>
    if fld w 0 3 = 0 then do
        let (a, ls) ← srcOf 1 (fld w 10 7) ls
        let (b, ls) ← srcOf 1 (fld w 3 7) ls
        if (fld w 17 4) < 14 then .ok (.gmma (fld w 21 4) (fld w 17 4) a b, ls) else .error .reserved
    else .error .reserved
  | 0x0B =>
    if fld w 4 7 = 0 ∧ fld w 18 1 = 0 then do
        let a ← sregOf (fld w 11 7)
        if (fld w 19 2) = 0 ∨ (fld w 19 2) = 2 then .ok (.mguide (fld w 21 4) (fld w 19 2) a (fld w 0 4), ls) else .error .reserved
    else .error .reserved
  | 0x10 =>
    if fld w 4 15 = 0 then .ok (.mfin (fld w 21 4) (fld w 19 2) (fld w 0 4), ls)
    else .error .reserved
  | 0x11 =>
    if fld w 4 2 = 0 ∧ fld w 17 2 = 0 then do
        let a ← regOf (fld w 10 7)
        if (fld w 8 2) < 3 then .ok (.mdrainReg (fld w 21 4) (fld w 19 2) a (fld w 8 2) (fld w 6 2) (fld w 0 4), ls) else .error .reserved
    else if fld w 4 6 = 0 ∧ fld w 17 2 = 1 then do
        let a ← regOf (fld w 10 7)
        .ok (.mdrainSpad (fld w 21 4) (fld w 19 2) a (fld w 0 4), ls)
    else if fld w 4 6 = 0 ∧ fld w 17 2 = 2 then do
        let a ← regOf (fld w 10 7)
        .ok (.mdrainTree (fld w 21 4) (fld w 19 2) a (fld w 0 4), ls)
    else .error .reserved
  | 0x12 =>
    if fld w 4 4 = 0 then do
        let f ← need (SFmt.ofCode (fld w 16 3))
        let a ← regOf (fld w 8 7)
        .ok (.mstore (fld w 21 4) (fld w 19 2) f (bitAt w 15) a (fld w 0 4), ls)
    else .error .reserved
  | 0x18 =>
    if fld w 4 8 = 0 then do
        let d ← dstOf (fld w 18 7)
        .ok (.mstatAcc d (fld w 14 4) (fld w 12 2) (fld w 0 4), ls)
    else if fld w 4 8 = 64 then do
        let d ← dstOf (fld w 18 7)
        .ok (.mstatEng d (fld w 14 4) (fld w 12 2) (fld w 0 4), ls)
    else .error .reserved
  | _ => .error .unassigned

/-- The words of class win (R83). -/
def decWin (op w : Nat) (ls : List Word) : Except Reject (Instr × List Word) :=
  match op with
  | 0x00 =>
    if fld w 4 5 = 0 ∧ fld w 18 1 = 0 then do
        let f ← need (WFrom.ofCode (fld w 9 2))
        let (a, ls) ← wbindOf f (fld w 11 7) ls
        .ok (.wbind (fld w 19 6) a f (fld w 0 4), ls)
    else .error .reserved
  | 0x01 =>
    if fld w 4 15 = 0 then .ok (.wunb (fld w 19 6) (fld w 0 4), ls)
    else .error .reserved
  | 0x02 =>
    if fld w 4 10 = 0 ∧ fld w 18 1 = 0 then .ok (.touch (fld w 19 6) (fld w 14 4) (fld w 0 4), ls)
    else .error .reserved
  | 0x03 =>
    if fld w 4 7 = 0 ∧ fld w 18 1 = 0 then do
        let d ← dstOf (fld w 11 7)
        .ok (.wstat (fld w 19 6) d (fld w 0 4), ls)
    else .error .reserved
  | 0x04 =>
    if fld w 4 15 = 0 then .ok (.wflush (fld w 19 6) (fld w 0 4), ls)
    else .error .reserved
  | _ => .error .unassigned

/-- The words of class sync (R83). -/
def decSync (op w : Nat) (ls : List Word) : Except Reject (Instr × List Word) :=
  match op with
  | 0x00 => decG .reform w ls
  | 0x01 => decG .yield w ls
  | 0x02 =>
    if fld w 4 10 = 0 then do
        let d ← dstOf (fld w 18 7)
        .ok (.elect d (fld w 14 4) (fld w 0 4), ls)
    else .error .reserved
  | 0x08 =>
    if fld w 4 3 = 0 ∧ fld w 11 7 = 124 then do
        let d ← dstOf (fld w 18 7)
        .ok (.arrive d (fld w 7 4) (fld w 0 4), ls)
    else if fld w 4 3 = 2 then do
        let d ← dstOf (fld w 18 7)
        let (a, ls) ← srcOf 1 (fld w 11 7) ls
        .ok (.arriveCount d a (fld w 7 4) (fld w 0 4), ls)
    else if fld w 4 3 = 4 then do
        let d ← dstOf (fld w 18 7)
        let (a, ls) ← srcOf 1 (fld w 11 7) ls
        .ok (.arriveExpect d a (fld w 7 4) (fld w 0 4), ls)
    else .error .reserved
  | 0x09 =>
    if fld w 4 3 = 0 ∧ fld w 18 7 = 0 then do
        let (a, ls) ← srcOf 1 (fld w 11 7) ls
        .ok (.bwait a (fld w 7 4) (fld w 0 4), ls)
    else .error .reserved
  | 0x0A =>
    if fld w 4 3 = 0 ∧ fld w 11 14 = 0 then .ok (.bsync (fld w 7 4) (fld w 0 4), ls)
    else .error .reserved
  | 0x10 =>
    if fld w 18 3 = 0 then do
        let (a, ls) ← srcOf 1 (fld w 11 7) ls
        let (b, ls) ← srcOf 1 (fld w 4 7) ls
        .ok (.kdecl (fld w 21 4) a b (fld w 0 4), ls)
    else .error .reserved
  | 0x11 =>
    if fld w 4 13 = 0 then .ok (.sign (fld w 21 4) (fld w 17 4) (fld w 0 4), ls)
    else .error .reserved
  | 0x18 =>
    if fld w 4 13 = 0 then do
        let c ← need (Ctr.ofCode (fld w 23 2))
        .ok (.waitc c (fld w 17 6) (fld w 0 4), ls)
    else .error .reserved
  | 0x19 =>
    if fld w 0 3 = 0 then do
        let d ← dstOf (fld w 18 7)
        let (a, ls) ← srcOf (if fld w 3 1 = 1 then 1 else 2) (fld w 11 7) ls
        let (b, ls) ← srcOf 2 (fld w 4 7) ls
        .ok (.mwait d a b (bitAt w 3), ls)
    else .error .reserved
  | _ => .error .unassigned

/-- The words of class ctl (R83). -/
def decCtl (op w : Nat) (ls : List Word) : Except Reject (Instr × List Word) :=
  match op with
  | 0x60 =>
    .ok (.bra (fld w 21 4) (fld w 0 21), ls)
  | 0x61 =>
    if fld w 4 7 = 0 ∧ fld w 18 7 = 0 then do
        let (a, ls) ← srcOf 2 (fld w 11 7) ls
        .ok (.brx a (fld w 0 4), ls)
    else .error .reserved
  | 0x62 =>
    .ok (.call (fld w 21 4) (fld w 0 21), ls)
  | 0x63 =>
    if fld w 4 7 = 0 ∧ fld w 18 7 = 0 then do
        let (a, ls) ← srcOf 2 (fld w 11 7) ls
        .ok (.callx a (fld w 0 4), ls)
    else .error .reserved
  | 0x64 => decG .ret w ls
  | 0x65 => decG .exit w ls
  | 0x66 => decCode .trap w ls
  | 0x67 =>
    if fld w 20 5 = 0 then if (fld w 4 16) ≠ 0xFFFF then .ok (.enter (fld w 4 16) (fld w 0 4), ls) else .error .reserved
    else .error .reserved
  | 0x68 => decCode .leave w ls
  | 0x69 => decCode .bkpt w ls
  | 0x6A =>
    if fld w 0 25 = 0 then .ok (.nop, ls)
    else .error .reserved
  | _ => .error .unassigned

/-- The words of class sys (R83). -/
def decSys (op w : Nat) (ls : List Word) : Except Reject (Instr × List Word) :=
  match op with
  | 0x00 =>
    if fld w 4 4 = 0 then do
        let d ← dstOf (fld w 18 7)
        if srKnown (fld w 8 10) then .ok (.srd d (fld w 8 10) (fld w 0 4), ls) else .error .reserved
    else .error .reserved
  | 0x01 =>
    if fld w 4 4 = 0 then do
        let (a, ls) ← srcOf (if fld w 8 10 = 20 then 2 else 1) (fld w 18 7) ls
        if srWritable (fld w 8 10) then .ok (.swr a (fld w 8 10) (fld w 0 4), ls) else .error .reserved
    else .error .reserved
  | 0x02 =>
    if fld w 0 25 = 0 then .ok (.eret, ls)
    else .error .reserved
  | 0x08 =>
    if fld w 18 4 = 0 then do
        let (a, ls) ← srcOf 2 (fld w 11 7) ls
        let (b, ls) ← srcOf 1 (fld w 4 7) ls
        if (fld w 22 3) < 7 ∧ ((fld w 22 3) = 6 ∨ b = .zero) then .ok (.svrf (fld w 22 3) a b (fld w 0 4), ls) else .error .reserved
    else .error .reserved
  | 0x09 =>
    if fld w 18 4 = 0 then do
        let (a, ls) ← srcOf 2 (fld w 11 7) ls
        let (b, ls) ← srcOf 1 (fld w 4 7) ls
        if (fld w 22 3) < 7 ∧ ((fld w 22 3) = 6 ∨ b = .zero) then .ok (.ldrf (fld w 22 3) a b (fld w 0 4), ls) else .error .reserved
    else .error .reserved
  | 0x0A =>
    if fld w 0 10 = 992 ∧ fld w 23 2 = 0 then do
        let (a, ls) ← srcOf 2 (fld w 10 7) ls
        .ok (.svwinWin (fld w 17 6) a, ls)
    else if fld w 0 3 = 0 ∧ fld w 23 2 = 1 then do
        let (a, ls) ← srcOf 2 (fld w 10 7) ls
        let (b, ls) ← srcOf 1 (fld w 3 7) ls
        .ok (.svwinSlot (fld w 17 6) a b, ls)
    else .error .reserved
  | 0x0B =>
    if fld w 0 10 = 992 ∧ fld w 23 2 = 0 then do
        let (a, ls) ← srcOf 2 (fld w 10 7) ls
        .ok (.ldwinWin (fld w 17 6) a, ls)
    else if fld w 0 3 = 0 ∧ fld w 23 2 = 1 then do
        let (a, ls) ← srcOf 2 (fld w 10 7) ls
        let (b, ls) ← srcOf 1 (fld w 3 7) ls
        .ok (.ldwinSlot (fld w 17 6) a b, ls)
    else .error .reserved
  | 0x10 =>
    if fld w 18 5 = 0 then do
        let _ ← need (if fld w 24 1 = 0 then some () else none)
        let (a, ls) ← srcOf (if fld w 23 1 = 1 then 2 else 1) (fld w 11 7) ls
        let (b, ls) ← srcOf 1 (fld w 4 7) ls
        if (bitAt w 23) = true ∨ (a = .zero ∧ b = .zero) then .ok (.tlbi (bitAt w 23) a b (fld w 0 4), ls) else .error .reserved
    else .error .reserved
  | 0x11 => decRRR .grant 1 1 w ls
  | 0x12 =>
    if fld w 0 25 = 0 then .ok (.haltThread, ls)
    else if fld w 0 25 = 8388608 then .ok (.haltGroup, ls)
    else if fld w 0 25 = 16777216 then .ok (.haltKernel, ls)
    else if fld w 0 25 = 25165824 then .ok (.haltPark, ls)
    else .error .reserved
  | 0x13 => decCode .mark w ls
  | _ => .error .unassigned

/-- A prefix word (R74). -/
def decPrefix (w : Nat) (ls : List Word) : Except Reject (Instr × List Word) :=
  if fld w 22 3 = 0 then
    if fld w 0 13 = 0 then .ok (.rep (fld w 16 6) (fld w 13 3), ls) else .error .reserved
  else if fld w 22 3 = 1 then
    if fld w 0 19 = 0 then do
      let sc ← need (Scope.ofCode (fld w 19 3))
      .ok (.scope sc, ls)
    else .error .reserved
  else .error .reserved

/-- Decodes the word `w` of a clause of class `c`; `ls` are the literal words still to be handed out, and what is
left of them comes back. Codes 0x60 to 0x6F are ctl words in every class, 0x7F is a prefix in every class (R66). -/
def decodeWord (c : Cls) (w : Nat) (ls : List Word) : Except Reject (Instr × List Word) :=
  let op := fld w 25 7
  if op = 0x7F then decPrefix w ls
  else if 0x60 ≤ op ∧ op < 0x70 then decCtl op w ls
  else
    match c with
    | .alu => decAlu op w ls
    | .xfn => decXfn op w ls
    | .mem => decMem op w ls
    | .mtx => decMtx op w ls
    | .win => decWin op w ls
    | .sync => decSync op w ls
    | .ctl => .error .unassigned
    | .sys => decSys op w ls

/-- The literal words that a seven-bit operand field takes: `k` where it holds 0x7E (R65). -/
def litAt (w at_ k : Nat) : Nat := if fld w at_ 7 = 0x7E then k else 0

/-- The literal words of an X-format word whose fields d, a and b are so many words wide, 0 for a field that is none. -/
def litX (w d a b : Nat) : Nat := litAt w 18 d + litAt w 11 a + litAt w 4 b

/-- Whether a number lies in one of some ranges. -/
def inRanges (n : Nat) (l : List (Nat × Nat)) : Bool := l.any fun r => decide (r.1 ≤ n) && decide (n ≤ r.2)

/-- The literal words of an alu word (file 05). -/
def litAlu (op w : Nat) : Nat :=
  if inRanges op [(0x0E, 0x0F), (0x4B, 0x4B)] then litX w 2 1 1
  else if inRanges op [(0x01, 0x01), (0x30, 0x36)] then litX w 1 1 0
  else if inRanges op [(0x38, 0x38), (0x3B, 0x3B)] then litX w 2 2 1
  else if inRanges op [(0x39, 0x3A)] then litX w 2 2 2
  else if op = 0x40 then litX w 0 1 1
  else if op = 0x4A then litX w 2 0 0
  else if op = 0x4C then (if inRanges (fld w 2 2) [(1, 2)] then litX w 2 2 1 else litX w 1 1 1)
  else if inRanges op [(0x00, 0x02), (0x08, 0x15), (0x18, 0x20), (0x28, 0x2F), (0x45, 0x46), (0x48, 0x48)] then litX w 1 1 1
  else 0

/-- The words of CVTI's two fields (R131): a pair for a 64-bit integer or FP64. -/
def litCvti (w : Nat) : Nat :=
  let int := if 6 ≤ fld w 5 3 then 2 else 1
  let flt := if fld w 8 2 = 1 then 2 else 1
  if fld w 10 1 = 0 then litX w int flt 0 else litX w flt int 0

/-- The literal words of an xfn word (file 06). -/
def litXfn (op w : Nat) : Nat :=
  let two := fun (x : Bool) => if x then 2 else 1
  match op with
  | 0x07 => litX w 0 (two (4 ≤ fld w 18 3)) (two (4 ≤ fld w 18 3))
  | 0x08 => litX w 1 (two (fld w 7 4 = 1)) 0
  | 0x20 => litX w (two (fld w 7 4 = 1)) (two (fld w 3 4 = 1)) 0
  | 0x21 => litCvti w
  | 0x38 => litX w 2 (two (fld w 4 7 ≠ 124)) 2
  | 0x39 => litX w 1 1 2
  | op =>
    if inRanges op [(0x18, 0x1A)] then litX w 2 2 2
    else if inRanges op [(0x22, 0x23), (0x29, 0x29)] then litX w 1 1 0
    else if inRanges op [(0x00, 0x06), (0x10, 0x15), (0x26, 0x2A), (0x30, 0x37)] then litX w 1 1 1
    else 0

/-- The literal words of a mem word (files 12, 15 and 16). The address field of ATOM and CAS has six bits (R262). -/
def litMem (op w : Nat) : Nat :=
  let val := if fld w 1 3 = 5 then 2 else 1
  let pair := if fld w 12 6 = 63 then 2 else 0
  match op with
  | 0x00 | 0x01 => litX w val 2 1
  | 0x02 | 0x03 | 0x04 => litX w val 1 1
  | 0x05 | 0x06 => litX w (if fld w 12 2 = 3 ∧ fld w 3 1 = 0 then 2 else 1) 0 1
  | 0x08 => litX w (if 2 ≤ fld w 6 2 then 2 else 1) 0 0 + pair
  | 0x09 => litX w (fld w 6 1 + 1) 0 0 + pair
  | 0x0A => litX w 1 2 2
  | 0x0B => litX w 2 1 1
  | 0x10 => litX w 0 2 1
  | 0x11 => litX w (fld w 3 1 + 1) 1 1
  | 0x12 => litX w 0 0 1
  | 0x18 => litX w 1 2 1
  | _ => 0

/-- The literal words of a mtx word (file 14). The descriptors of MDRAIN and MSTORE begin with a pair. -/
def litMtx (op w : Nat) : Nat :=
  match op with
  | 0x00 => litX w 1 0 0
  | 0x02 => litX w 0 2 1
  | 0x08 | 0x09 | 0x0A => litAt w 10 1 + litAt w 3 1
  | 0x0B => litX w 0 1 0
  | 0x11 => if inRanges (fld w 17 2) [(1, 2)] then litAt w 10 2 else 0
  | 0x12 => litAt w 8 2
  | 0x18 => litX w 2 0 0
  | _ => 0

/-- The literal words of a sync word (file 09). -/
def litSync (op w : Nat) : Nat :=
  match op with
  | 0x02 => litX w 1 0 0
  | 0x08 => litX w 1 1 0
  | 0x09 => litX w 0 1 0
  | 0x10 => litX w 0 1 1
  | 0x19 => litX w 2 (2 - fld w 3 1) 2
  | _ => 0

/-- The literal words of a sys word (file 21). -/
def litSys (op w : Nat) : Nat :=
  match op with
  | 0x00 => litX w (if [14, 20, 21, 48].contains (fld w 8 10) then 2 else 1) 0 0
  | 0x01 => litX w (if fld w 8 10 = 20 then 2 else 1) 0 0
  | 0x08 | 0x09 => litX w 0 2 1
  | 0x0A | 0x0B => litAt w 10 2 + litAt w 3 1
  | 0x10 => litX w 0 (fld w 23 1 + 1) 1
  | 0x11 => litX w 2 1 1
  | _ => 0

/-- The literal words of a win word (R268, R270): WBIND's descriptor and TOUCH's offset. -/
def litWin (op w : Nat) : Nat :=
  match op with
  | 0x00 => if inRanges (fld w 9 2) [(1, 2)] then litX w 0 (fld w 9 2) 0 else 0
  | 0x03 => litX w 0 1 0
  | _ => 0

/-- How many literal words a word of a clause of class `c` consumes (R65). -/
def litCount (c : Cls) (w : Nat) : Nat :=
  let op := fld w 25 7
  if op = 0x7F then 0
  else if inRanges op [(0x60, 0x6F)] then (if op = 0x61 ∨ op = 0x63 then litX w 0 2 0 else 0)
  else
    match c with
    | .alu => litAlu op w
    | .xfn => litXfn op w
    | .mem => litMem op w
    | .mtx => litMtx op w
    | .sync => litSync op w
    | .sys => litSys op w
    | .win => litWin op w
    | .ctl => 0

/-- An encoded instruction: the class its clause must have, its word, and its literal words. -/
structure Enc where
  cls : Cls
  word : Nat
  lits : List Word
  deriving DecidableEq, Repr

/-- A word from the bits its row fixes and its fields, each a low bit and a value. -/
def encWord (fixed : Nat) (fs : List (Nat × Nat)) : Nat := fs.foldr (fun f n => n + f.2 * 2 ^ f.1) fixed

/-- The words of a three-operand instruction (R68). -/
def encRRR (c : Cls) (op ka kb : Nat) (d a b : Opnd) (g : Nat) : Option Enc :=
  some ⟨c, op * 2 ^ 25 + d.code * 2 ^ 18 + a.code * 2 ^ 11 + b.code * 2 ^ 4 + g, a.lits ka ++ b.lits kb⟩

/-- The words of a unary instruction, 0x7C in its unused b field (R69). -/
def encUn (c : Cls) (op : Nat) (d a : Opnd) (g : Nat) : Option Enc :=
  some ⟨c, op * 2 ^ 25 + d.code * 2 ^ 18 + a.code * 2 ^ 11 + 124 * 2 ^ 4 + g, a.lits 1⟩

/-- The words of an immediate instruction (R68). -/
def encRI (c : Cls) (op : Nat) (d a : Opnd) (i : Nat) : Option Enc :=
  some ⟨c, op * 2 ^ 25 + d.code * 2 ^ 18 + a.code * 2 ^ 11 + i, a.lits 1⟩

/-- The words of an instruction with a code in [19:4], or none, and a guard. -/
def encCode (c : Cls) (op k g : Nat) : Option Enc :=
  some ⟨c, op * 2 ^ 25 + k * 2 ^ 4 + g, []⟩

/-- The words of an instruction, from the encoding tables of the entries; none for the unencoded rows. A prefix
goes into a clause of any class; `encode` names the class of a clause it can stand in. -/
def encode : Instr → Option Enc
  | .mov d a g => encUn .alu 0x00 d a g
  | .movi d i =>
    some ⟨.alu, encWord 0x0203E000 [(18, d.code), (0, i)], []⟩
  | .sel d a b q =>
    some ⟨.alu, encWord 0x04000000 [(18, d.code), (11, a.code), (4, b.code), (0, q)], a.lits 1 ++ b.lits 1⟩
  | .add d a b g => encRRR .alu 0x08 1 1 d a b g
  | .sub d a b g => encRRR .alu 0x09 1 1 d a b g
  | .mul d a b g => encRRR .alu 0x0A 1 1 d a b g
  | .mulhI32 d a b g => encRRR .alu 0x0B 1 1 d a b g
  | .mulhN32 d a b g => encRRR .alu 0x0C 1 1 d a b g
  | .mad d a b g => encRRR .alu 0x0D 1 1 d a b g
  | .madwI32 d a b g => encRRR .alu 0x0E 1 1 d a b g
  | .madwN32 d a b g => encRRR .alu 0x0F 1 1 d a b g
  | .minI32 d a b g => encRRR .alu 0x10 1 1 d a b g
  | .minN32 d a b g => encRRR .alu 0x11 1 1 d a b g
  | .maxI32 d a b g => encRRR .alu 0x12 1 1 d a b g
  | .maxN32 d a b g => encRRR .alu 0x13 1 1 d a b g
  | .abs d a g => encUn .alu 0x14 d a g
  | .neg d a g => encUn .alu 0x15 d a g
  | .and d a b g => encRRR .alu 0x18 1 1 d a b g
  | .or d a b g => encRRR .alu 0x19 1 1 d a b g
  | .xor d a b g => encRRR .alu 0x1A 1 1 d a b g
  | .andn d a b g => encRRR .alu 0x1B 1 1 d a b g
  | .not d a g => encUn .alu 0x1C d a g
  | .shl d a b g => encRRR .alu 0x1D 1 1 d a b g
  | .shr d a b g => encRRR .alu 0x1E 1 1 d a b g
  | .sar d a b g => encRRR .alu 0x1F 1 1 d a b g
  | .rol d a b g => encRRR .alu 0x20 1 1 d a b g
  | .popc d a g => encUn .alu 0x28 d a g
  | .clz d a g => encUn .alu 0x29 d a g
  | .ctz d a g => encUn .alu 0x2A d a g
  | .brev d a g => encUn .alu 0x2B d a g
  | .bfxI32 d a b g => encRRR .alu 0x2C 1 1 d a b g
  | .bfxN32 d a b g => encRRR .alu 0x2D 1 1 d a b g
  | .bfi d a b g => encRRR .alu 0x2E 1 1 d a b g
  | .perm d a b g => encRRR .alu 0x2F 1 1 d a b g
  | .addi d a i => encRI .alu 0x30 d a i
  | .andi d a i => encRI .alu 0x31 d a i
  | .ori d a i => encRI .alu 0x32 d a i
  | .xori d a i => encRI .alu 0x33 d a i
  | .shli d a i =>
    some ⟨.alu, encWord 0x68000000 [(18, d.code), (11, a.code), (0, i)], a.lits 1⟩
  | .shri d a i =>
    some ⟨.alu, encWord 0x6A000000 [(18, d.code), (11, a.code), (0, i)], a.lits 1⟩
  | .sari d a i =>
    some ⟨.alu, encWord 0x6C000000 [(18, d.code), (11, a.code), (0, i)], a.lits 1⟩
  | .lea d a b sh sx =>
    some ⟨.alu, encWord 0x70000000 [(18, d.code), (11, a.code), (4, b.code), (1, sh), (0, bitOf sx)], a.lits 2 ++ b.lits 1⟩
  | .add64 d a b g => encRRR .alu 0x39 2 2 d a b g
  | .sub64 d a b g => encRRR .alu 0x3A 2 2 d a b g
  | .shl64 d a b g => encRRR .alu 0x3B 2 1 d a b g
  | .icmp p c a b g =>
    some ⟨.alu, encWord 0x80000000 [(21, p), (18, c.code), (11, a.code), (4, b.code), (0, g)], a.lits 1 ++ b.lits 1⟩
  | .pand p a b na nb g =>
    some ⟨.alu, encWord 0x82000000 [(21, p), (17, a), (13, b), (12, bitOf na), (11, bitOf nb), (0, g)], []⟩
  | .por p a b na nb g =>
    some ⟨.alu, encWord 0x84000000 [(21, p), (17, a), (13, b), (12, bitOf na), (11, bitOf nb), (0, g)], []⟩
  | .pxor p a b na nb g =>
    some ⟨.alu, encWord 0x86000000 [(21, p), (17, a), (13, b), (12, bitOf na), (11, bitOf nb), (0, g)], []⟩
  | .pnot p a g =>
    some ⟨.alu, encWord 0x88000000 [(21, p), (17, a), (0, g)], []⟩
  | .p2v d g =>
    some ⟨.alu, encWord 0x8A03E7C0 [(18, d.code), (0, g)], []⟩
  | .v2p a b g =>
    some ⟨.alu, encWord 0x8DF00000 [(11, a.code), (4, b.code), (0, g)], a.lits 1 ++ b.lits 1⟩
  | .shfl d a b m =>
    some ⟨.alu, encWord 0x90000000 [(18, d.code), (11, a.code), (4, b.code), (2, m.code)], a.lits 1 ++ b.lits 1⟩
  | .vote p a na m g =>
    some ⟨.alu, encWord 0x92000000 [(21, p), (17, a), (16, bitOf na), (14, m.code), (0, g)], []⟩
  | .ballot d a na g =>
    some ⟨.alu, encWord 0x94000000 [(18, d.code), (14, a), (13, bitOf na), (0, g)], []⟩
  | .lmatch d a g => encUn .alu 0x4B d a g
  | .lred d a b o =>
    some ⟨.alu, encWord 0x98000000 [(18, d.code), (11, a.code), (4, b.code), (2, o.code)], a.lits o.words ++ b.lits 1⟩
  | .fadd d a b g => encRRR .xfn 0x00 1 1 d a b g
  | .fsub d a b g => encRRR .xfn 0x01 1 1 d a b g
  | .fmul d a b g => encRRR .xfn 0x02 1 1 d a b g
  | .ffma d a b g => encRRR .xfn 0x03 1 1 d a b g
  | .ffms d a b g => encRRR .xfn 0x04 1 1 d a b g
  | .fmin d a b g => encRRR .xfn 0x05 1 1 d a b g
  | .fmax d a b g => encRRR .xfn 0x06 1 1 d a b g
  | .fcmp p c a b g =>
    some ⟨.xfn, encWord 0x0E000000 [(21, p), (18, c.code), (11, a.code), (4, b.code), (0, g)], a.lits c.words ++ b.lits c.words⟩
  | .fclass d a f g =>
    some ⟨.xfn, encWord 0x10000000 [(18, d.code), (11, a.code), (7, f.code), (0, g)], a.lits f.words⟩
  | .hadd2F16 d a b g => encRRR .xfn 0x10 1 1 d a b g
  | .hadd2Bf16 d a b g => encRRR .xfn 0x11 1 1 d a b g
  | .hmul2F16 d a b g => encRRR .xfn 0x12 1 1 d a b g
  | .hmul2Bf16 d a b g => encRRR .xfn 0x13 1 1 d a b g
  | .hfma2F16 d a b g => encRRR .xfn 0x14 1 1 d a b g
  | .hfma2Bf16 d a b g => encRRR .xfn 0x15 1 1 d a b g
  | .dadd d a b g => encRRR .xfn 0x18 2 2 d a b g
  | .dmul d a b g => encRRR .xfn 0x19 2 2 d a b g
  | .dfma d a b g => encRRR .xfn 0x1A 2 2 d a b g
  | .cvt d a df sf r sat =>
    some ⟨.xfn, encWord 0x40000000 [(18, d.code), (11, a.code), (7, df.code), (3, sf.code), (1, r.code), (0, bitOf sat)], a.lits sf.words⟩
  | .cvtiF2i d a f i r =>
    some ⟨.xfn, encWord 0x42000000 [(18, d.code), (11, a.code), (8, f.code), (5, i.code), (3, r.code)], a.lits f.words⟩
  | .cvtiI2f d a f i r =>
    some ⟨.xfn, encWord 0x42000400 [(18, d.code), (11, a.code), (8, f.code), (5, i.code), (3, r.code)], a.lits i.words⟩
  | .pack d a df pos r sat =>
    some ⟨.xfn, encWord 0x44000000 [(18, d.code), (11, a.code), (7, df.code), (4, pos), (2, r.code), (1, bitOf sat)], a.lits 1⟩
  | .unpk d a sf pos =>
    some ⟨.xfn, encWord 0x46000000 [(18, d.code), (11, a.code), (7, sf.code), (4, pos)], a.lits 1⟩
  | .split6 d a g =>
    some ⟨.xfn, encWord 0x48000000 [(18, d.code), (11, a.code), (0, g)], []⟩
  | .join6 d a g =>
    some ⟨.xfn, encWord 0x4A000000 [(18, d.code), (11, a.code), (0, g)], []⟩
  | .qzpRec d a b i =>
    some ⟨.xfn, encWord 0x4C000000 [(18, d.code), (11, a.code), (4, b.code), (2, i.code)], a.lits 1 ++ b.lits 1⟩
  | .qzpQ d a b i =>
    some ⟨.xfn, encWord 0x4C000002 [(18, d.code), (11, a.code), (4, b.code), (2, i.code)], a.lits 1 ++ b.lits 1⟩
  | .dq d a b i =>
    some ⟨.xfn, encWord 0x4E000000 [(18, d.code), (11, a.code), (4, b.code), (2, i.code)], a.lits 1 ++ b.lits 1⟩
  | .amax d a b g => encRRR .xfn 0x28 1 1 d a b g
  | .scalex d a t g =>
    some ⟨.xfn, encWord 0x52000000 [(18, d.code), (11, a.code), (7, t.code), (0, g)], a.lits 1⟩
  | .scacc d a b f16 =>
    some ⟨.xfn, encWord 0x54000000 [(18, d.code), (11, a.code), (4, b.code), (0, bitOf f16)], a.lits 1 ++ b.lits 1⟩
  | .frcp d a g => encUn .xfn 0x30 d a g
  | .frsq d a g => encUn .xfn 0x31 d a g
  | .fsqrt d a g => encUn .xfn 0x32 d a g
  | .fexp2 d a g => encUn .xfn 0x33 d a g
  | .flog2 d a g => encUn .xfn 0x34 d a g
  | .fsin d a g => encUn .xfn 0x35 d a g
  | .fcos d a g => encUn .xfn 0x36 d a g
  | .ftanh d a g => encUn .xfn 0x37 d a g
  | .osmx d a b g =>
    some ⟨.xfn, encWord 0x70000000 [(18, d.code), (11, a.code), (4, b.code), (0, g)], a.lits (if b = .zero then 1 else 2) ++ b.lits 2⟩
  | .osmn d a b g => encRRR .xfn 0x39 1 2 d a b g
  | .ld d a b t acq =>
    some ⟨.mem, encWord 0x00000000 [(18, d.code), (11, a.code), (4, b.code), (1, t.code), (0, bitOf acq)], a.lits 2 ++ b.lits 1⟩
  | .st d a b t rel =>
    some ⟨.mem, encWord 0x02000000 [(18, d.code), (11, a.code), (4, b.code), (1, t.code), (0, bitOf rel)], d.lits t.words ++ a.lits 2 ++ b.lits 1⟩
  | .lds d a b t =>
    some ⟨.mem, encWord 0x04000000 [(18, d.code), (11, a.code), (4, b.code), (1, t.code)], a.lits 1 ++ b.lits 1⟩
  | .sts d a b t =>
    some ⟨.mem, encWord 0x06000000 [(18, d.code), (11, a.code), (4, b.code), (1, t.code)], d.lits t.words ++ a.lits 1 ++ b.lits 1⟩
  | .ldw d a b t =>
    some ⟨.mem, encWord 0x08000000 [(18, d.code), (11, a.code), (4, b.code), (1, t.code)], a.lits 1 ++ b.lits 1⟩
  | .gld d base sz sx b sp iw sh =>
    some ⟨.mem, encWord 0x0A000000 [(18, d.code), (14, base), (12, sz), (11, bitOf sx), (4, b.code), (3, bitOf sp), (2, bitOf iw), (0, sh)], d.lits 1 ++ b.lits 1⟩
  | .gst d base sz sx b sp iw sh =>
    some ⟨.mem, encWord 0x0C000000 [(18, d.code), (14, base), (12, sz), (11, bitOf sx), (4, b.code), (3, bitOf sp), (2, bitOf iw), (0, sh)], d.lits (if sz = 3 ∧ sp = false then 2 else 1) ++ b.lits 1⟩
  | .atom d p nr o t r g =>
    some ⟨.mem, encWord 0x10000000 [(18, d.code), (12, p.code6), (11, bitOf nr), (8, o.code), (6, t.code), (4, r.code), (0, g)], d.lits t.words ++ p.lits 2⟩
  | .cas d p w64 r g =>
    some ⟨.mem, encWord 0x12000000 [(18, d.code), (12, p.code6), (6, bitOf w64), (4, r.code), (0, g)], p.lits 2⟩
  | .contrib e a b g =>
    some ⟨.mem, encWord 0x14000000 [(18, e.code), (11, a.code), (4, b.code), (0, g)], e.lits 1 ++ a.lits 2 ++ b.lits 2⟩
  | .tstat d a b g => encRRR .mem 0x0B 1 1 d a b g
  | .sload p ring a b g =>
    some ⟨.mem, encWord 0x20000000 [(21, p), (20, bitOf ring), (11, a.code), (4, b.code), (0, g)], a.lits 2 ++ b.lits 1⟩
  | .spoll d a b w64 peek =>
    some ⟨.mem, encWord 0x22000000 [(18, d.code), (11, a.code), (4, b.code), (3, bitOf w64), (2, bitOf peek)], a.lits 1 ++ b.lits 1⟩
  | .unsub b g =>
    some ⟨.mem, encWord 0x24000000 [(4, b.code), (0, g)], b.lits 1⟩
  | .pref a b =>
    some ⟨.mem, encWord 0x31F00000 [(11, a.code), (4, b.code)], a.lits 2 ++ b.lits 1⟩
  | .fence sc k g =>
    some ⟨.mem, encWord 0x32000000 [(8, sc.code), (6, k.code), (0, g)], []⟩
  | .mrsv d p g =>
    some ⟨.mtx, encWord 0x00000000 [(18, d.code), (14, p), (0, g)], []⟩
  | .mrel res g =>
    some ⟨.mtx, encWord 0x02000000 [(21, res), (0, g)], []⟩
  | .minit res acc spad a b g =>
    some ⟨.mtx, encWord 0x04000000 [(21, res), (19, acc), (18, bitOf spad), (11, a.code), (4, b.code), (0, g)], a.lits 2 ++ b.lits 1⟩
  | .mma k h a b =>
    some ⟨.mtx, encWord 0x10000000 [(21, k), (17, h), (10, a.code), (3, b.code)], a.lits 1 ++ b.lits 1⟩
  | .mmas k h a b =>
    some ⟨.mtx, encWord 0x12000000 [(21, k), (17, h), (10, a.code), (3, b.code)], a.lits 1 ++ b.lits 1⟩
  | .gmma k h a b =>
    some ⟨.mtx, encWord 0x14000000 [(21, k), (17, h), (10, a.code), (3, b.code)], a.lits 1 ++ b.lits 1⟩
  | .mguide res acc a g =>
    some ⟨.mtx, encWord 0x16000000 [(21, res), (19, acc), (11, a.code), (0, g)], []⟩
  | .mfin res acc g =>
    some ⟨.mtx, encWord 0x20000000 [(21, res), (19, acc), (0, g)], []⟩
  | .mdrainReg res acc a col rowb g =>
    some ⟨.mtx, encWord 0x22000000 [(21, res), (19, acc), (10, a.code), (8, col), (6, rowb), (0, g)], []⟩
  | .mdrainSpad res acc a g =>
    some ⟨.mtx, encWord 0x22020000 [(21, res), (19, acc), (10, a.code), (0, g)], []⟩
  | .mdrainTree res acc a g =>
    some ⟨.mtx, encWord 0x22040000 [(21, res), (19, acc), (10, a.code), (0, g)], []⟩
  | .mstore res acc f glob a g =>
    some ⟨.mtx, encWord 0x24000000 [(21, res), (19, acc), (16, f.code), (15, bitOf glob), (8, a.code), (0, g)], []⟩
  | .mstatAcc d res acc g =>
    some ⟨.mtx, encWord 0x30000000 [(18, d.code), (14, res), (12, acc), (0, g)], []⟩
  | .mstatEng d res acc g =>
    some ⟨.mtx, encWord 0x30000400 [(18, d.code), (14, res), (12, acc), (0, g)], []⟩
  | .wbind e a f g =>
    some ⟨.win, encWord 0x00000000 [(19, e), (11, a.code), (9, f.code), (0, g)], a.lits (wbindWords f)⟩
  | .wunb e g =>
    some ⟨.win, encWord 0x02000000 [(19, e), (0, g)], []⟩
  | .touch e p g =>
    some ⟨.win, encWord 0x04000000 [(19, e), (14, p), (0, g)], []⟩
  | .wstat e d g =>
    some ⟨.win, encWord 0x06000000 [(19, e), (11, d.code), (0, g)], []⟩
  | .wflush e g =>
    some ⟨.win, encWord 0x08000000 [(19, e), (0, g)], []⟩
  | .reform g => encCode .sync 0x00 0 g
  | .yield g => encCode .sync 0x01 0 g
  | .elect d p g =>
    some ⟨.sync, encWord 0x04000000 [(18, d.code), (14, p), (0, g)], []⟩
  | .arrive d b g =>
    some ⟨.sync, encWord 0x1003E000 [(18, d.code), (7, b), (0, g)], []⟩
  | .arriveCount d a b g =>
    some ⟨.sync, encWord 0x10000020 [(18, d.code), (11, a.code), (7, b), (0, g)], a.lits 1⟩
  | .arriveExpect d a b g =>
    some ⟨.sync, encWord 0x10000040 [(18, d.code), (11, a.code), (7, b), (0, g)], a.lits 1⟩
  | .bwait a b g =>
    some ⟨.sync, encWord 0x12000000 [(11, a.code), (7, b), (0, g)], a.lits 1⟩
  | .bsync b g =>
    some ⟨.sync, encWord 0x14000000 [(7, b), (0, g)], []⟩
  | .kdecl k a b g =>
    some ⟨.sync, encWord 0x20000000 [(21, k), (11, a.code), (4, b.code), (0, g)], a.lits 1 ++ b.lits 1⟩
  | .sign k p g =>
    some ⟨.sync, encWord 0x22000000 [(21, k), (17, p), (0, g)], []⟩
  | .waitc c th g =>
    some ⟨.sync, encWord 0x30000000 [(23, c.code), (17, th), (0, g)], []⟩
  | .mwait d a b sp =>
    some ⟨.sync, encWord 0x32000000 [(18, d.code), (11, a.code), (4, b.code), (3, bitOf sp)], a.lits (if sp then 1 else 2) ++ b.lits 2⟩
  | .bra g off =>
    some ⟨.ctl, encWord 0xC0000000 [(21, g), (0, off)], []⟩
  | .brx a g =>
    some ⟨.ctl, encWord 0xC2000000 [(11, a.code), (0, g)], a.lits 2⟩
  | .call g off =>
    some ⟨.ctl, encWord 0xC4000000 [(21, g), (0, off)], []⟩
  | .callx a g =>
    some ⟨.ctl, encWord 0xC6000000 [(11, a.code), (0, g)], a.lits 2⟩
  | .ret g => encCode .ctl 0x64 0 g
  | .exit g => encCode .ctl 0x65 0 g
  | .trap c g => encCode .ctl 0x66 c g
  | .enter c g =>
    some ⟨.ctl, encWord 0xCE000000 [(4, c), (0, g)], []⟩
  | .leave c g => encCode .ctl 0x68 c g
  | .bkpt c g => encCode .ctl 0x69 c g
  | .nop =>
    some ⟨.ctl, encWord 0xD4000000 [], []⟩
  | .srd d n g =>
    some ⟨.sys, encWord 0x00000000 [(18, d.code), (8, n), (0, g)], []⟩
  | .swr a n g =>
    some ⟨.sys, encWord 0x02000000 [(18, a.code), (8, n), (0, g)], a.lits (if n = 20 then 2 else 1)⟩
  | .eret =>
    some ⟨.sys, encWord 0x04000000 [], []⟩
  | .svrf blk a b g =>
    some ⟨.sys, encWord 0x10000000 [(22, blk), (11, a.code), (4, b.code), (0, g)], a.lits 2 ++ b.lits 1⟩
  | .ldrf blk a b g =>
    some ⟨.sys, encWord 0x12000000 [(22, blk), (11, a.code), (4, b.code), (0, g)], a.lits 2 ++ b.lits 1⟩
  | .svwinWin e a =>
    some ⟨.sys, encWord 0x140003E0 [(17, e), (10, a.code)], a.lits 2⟩
  | .svwinSlot e a b =>
    some ⟨.sys, encWord 0x14800000 [(17, e), (10, a.code), (3, b.code)], a.lits 2 ++ b.lits 1⟩
  | .ldwinWin e a =>
    some ⟨.sys, encWord 0x160003E0 [(17, e), (10, a.code)], a.lits 2⟩
  | .ldwinSlot e a b =>
    some ⟨.sys, encWord 0x16800000 [(17, e), (10, a.code), (3, b.code)], a.lits 2 ++ b.lits 1⟩
  | .tlbi page a b g =>
    some ⟨.sys, encWord 0x20000000 [(23, bitOf page), (11, a.code), (4, b.code), (0, g)], a.lits (if page then 2 else 1) ++ b.lits 1⟩
  | .grant d a b g => encRRR .sys 0x11 1 1 d a b g
  | .haltThread =>
    some ⟨.sys, encWord 0x24000000 [], []⟩
  | .haltGroup =>
    some ⟨.sys, encWord 0x24800000 [], []⟩
  | .haltKernel =>
    some ⟨.sys, encWord 0x25000000 [], []⟩
  | .haltPark =>
    some ⟨.sys, encWord 0x25800000 [], []⟩
  | .mark c g => encCode .sys 0x13 c g
  | .rep cnt step => some ⟨.alu, 0xFE000000 + cnt * 2 ^ 16 + step * 2 ^ 13, []⟩
  | .scope sc => some ⟨.mem, 0xFE400000 + sc.code * 2 ^ 19, []⟩
  | _ => none

/-- The bits that the opcode table fixes in an instruction's row, seven in most. It is asked of decoded words only. -/
def fixedBits : Instr → Nat
  | .pack .. | .lds .. | .sts .. | .ldw .. => 8
  | .shfl .. | .lred .. | .qzpRec .. | .qzpQ .. | .dq .. | .sload .. | .spoll .. => 9
  | .fclass .. | .scalex .. | .scacc .. | .mma .. | .mmas .. | .gmma .. | .arriveCount .. | .arriveExpect ..
    | .kdecl .. | .mwait .. => 10
  | .cvtiF2i .. | .cvtiI2f .. | .unpk .. | .mdrainReg .. | .mstore .. | .srd .. | .swr .. | .svrf .. | .ldrf .. => 11
  | .cas .. | .trap .. | .enter .. | .leave .. | .bkpt .. | .svwinSlot .. | .ldwinSlot .. | .tlbi .. | .mark .. => 12
  | .shli .. | .shri .. | .sari .. | .wbind .. => 13
  | .mov .. | .movi .. | .abs .. | .neg .. | .not .. | .popc .. | .clz .. | .ctz .. | .brev .. | .pand .. | .por ..
    | .pxor .. | .v2p .. | .lmatch .. | .split6 .. | .join6 .. | .frcp .. | .frsq .. | .fsqrt .. | .fexp2 ..
    | .flog2 .. | .fsin .. | .fcos .. | .ftanh .. => 14
  | .mguide .. | .mdrainSpad .. | .mdrainTree .. | .mstatAcc .. | .mstatEng .. | .wstat .. => 15
  | .ballot .. => 16
  | .vote .. | .mrsv .. | .elect .. | .arrive .. | .bwait .. => 17
  | .pref .. | .touch .. => 18
  | .svwinWin .. | .ldwinWin .. => 19
  | .pnot .. | .sign .. | .waitc .. => 20
  | .p2v .. | .unsub .. | .brx .. | .callx .. => 21
  | .mfin .. | .wunb .. | .wflush .. => 22
  | .fence .. | .rep .. => 23
  | .mrel .. | .bsync .. => 24
  | .reform .. | .yield .. | .ret .. | .exit .. => 28
  | .scope .. => 29
  | .nop | .eret | .haltThread | .haltGroup | .haltKernel | .haltPark => 32
  | _ => 7

/-- The literal words of a table word: the bits above the first 32, four bytes each, zero where there are none. -/
def tableLits (w : Nat) : List Word :=
  (List.range 14).map fun k => BitVec.ofNat 32 (w / 2 ^ (32 * (k + 1)))

/-- Keeps the candidate whose row fixes more bits, the earlier one on a tie. -/
def moreFixed (x y : Option (Cls × Instr)) : Option (Cls × Instr) :=
  match x, y with
  | some a, some b => if fixedBits a.2 < fixedBits b.2 then some b else some a
  | some a, none => some a
  | none, y => y

/-- What a word is as an instruction of class `c`. -/
def asClass (w : Nat) (c : Cls) : Option (Cls × Instr) :=
  match decodeWord c (w % 2 ^ 32) (tableLits w) with
  | .ok (i, _) => some (if 0x60 ≤ fld w 25 7 ∧ fld w 25 7 < 0x70 then .ctl else c, i)
  | _ => none

/-- DESIGN CHOICE (log 5). A word alone does not say the class its clause has (R66). Among the classes in which
the word is an instruction, this takes the one whose table row fixes the most bits, the earliest class of R63 on a
tie. A REP stands before an xfn word and a SCOPE before a mem word here, the classes in which a zero word is an
instruction that the prefix may precede. -/
def decodeClassed (w : Nat) : Option (Cls × Instr) :=
  if fld w 25 7 = 0x7F then (if fld w 22 3 = 0 then asClass w .xfn else asClass w .mem)
  else
    [Cls.alu, .xfn, .mem, .mtx, .win, .sync, .ctl, .sys].foldl (fun x c => moreFixed x (asClass w c)) none

/-- The instruction the decoder reads from the bits of an opcode-table word. -/
def decodeTableWord (_nbits w : Nat) : Option Instr :=
  (decodeClassed w).map fun x => x.2

end Sys2Proof
end

