-- ==== Sys2Proof/Config.lean ====
section
/-!
DEFINITION. The free values: what the spec leaves open. Each is an opaque constant, applied to the operands it
depends on or to the counter `fresh` of State, so that nothing can be proved of its value (log 2). `choice` picks
among outcomes that the spec allows; it is applied to the counter, a salt that keeps choices of one step apart,
and the number of outcomes.
-/

namespace Sys2Proof.Config

/-- A free choice: which of several allowed outcomes comes about (R82, R213, R224, R237, R381, R396). -/
opaque choice : Nat → Nat → Nat

/-- A free word (a result that the spec does not state). -/
opaque freeWord : Nat → Nat → Word

/-- A free byte. -/
opaque freeByte : Nat → Nat → Byte

/-- The fixed hash that gives a line its home slice (R211). -/
opaque homeHash : Nat → Nat

/-- The fixed hash that gives a tree node its meeting place (R323). -/
opaque treeHash : Nat → Nat → Nat → Nat → Nat

/-- The grant key of an incarnation and a key generation, which the device never reveals (R431). -/
opaque grantKey : Nat → Nat → List Byte

/-- What a special function returns within its bound (R140, R141): the function's opcode and its operand give a
number that picks one of the allowed results. -/
opaque special : Nat → Nat → Nat

/-- The bytes of the part's cryptographic values (R481 to R485): which value, and the bytes it is computed from. -/
opaque digest : Nat → List Byte → List Byte

/-- Whether an image's signature and key digest verify (R481). -/
opaque imageVerifies : List Byte → Bool

/-- Whether a site passes built-in test (R475): the reset's number, the kind of site and the site. -/
opaque siteFails : Nat → Nat → Nat → Bool

/-- The level that served a line, 0 to 7 as SAMPLE packets code it (R448, R450). -/
opaque levelOf : Nat → Nat → Nat

/-- Measurements that firmware reports (R448, R489): which one, and when. -/
opaque measured : Nat → Nat → Nat

end Sys2Proof.Config
end

