-- ==== Sys2Proof/Machine/State.lean ====
section
/-!
DEFINITION. The state of a Brixor B9 module as plain data, its value right after reset, and the reasons a step can
stop. Threads, groups, teams, launches and issue units are named by their position in the lists that hold them;
an entry is never removed, so a name stays good. Cores are numbered 36 × die + 6 × cluster + core, clusters
6 × die + cluster, datapaths and engines 4 × core + their number, slices 48 × die + slice.
-/

namespace Sys2Proof.Machine

/-- The one stop of the machine itself. -/
inductive Fault where
  /-- `step` raises it when the agenda, the model's own list of the world's choices, names an instruction word as an
  event. Safe: no hardware does that, and an agenda of events never meets it. -/
  | notAnEvent
  deriving DecidableEq, Repr

/-- Why an instruction has no meaning here. -/
inductive Refusal where
  /-- `exec` answers it for an instruction that has no meaning yet. Safe: nothing follows from it. -/
  | notModelled (mnemonic : String)
  deriving DecidableEq, Repr

/-- What a failure leaves behind for the fault that reports it (R182, R398): class, code, address of the failed
access, its ACCESS byte, and the address of the word that issued it. -/
structure Failure where
  cls : Nat
  code : Nat
  addr : Dword
  access : Nat
  pc : Dword
  deriving DecidableEq, Repr

/-- An error held on a counter (R181), with the number of the operation that failed, which says how old its issue is. -/
structure HeldError where
  ctr : Ctr
  fail : Failure
  id : Nat
  deriving DecidableEq, Repr

/-- A register: its value, or empty with the number of the operation that will fill it, or failed (R182). -/
inductive Reg where
  | full (x : Word)
  | empty (op : Nat)
  | failed (f : Failure)
  deriving DecidableEq, Repr

/-- A counted operation of a thread that has not completed (R180): its counter, its number, and how many operations the
thread has issued on that counter since (R64, R246). -/
structure Counted where
  ctr : Ctr
  id : Nat
  later : Nat := 0
  deriving DecidableEq, Repr

/-- Whether a thread still runs (R156, R404). -/
inductive Life where
  | live
  | exited
  | parked
  deriving DecidableEq, Repr

/-- A thread (R161, R164, R199, R409). `resuming` says that it goes on in the middle of a REP (R78), `repMode` is sr.mode as
sampled at repeat 0 of its program's REP and `handlerMode` the same of a handler's (R43), `failures` what the last LDRF of
block 3 said of failed registers (R414),
`counted` its counted operations under way, `since` the clk from which its waiting time counts and `waits` whether R186
held it when its unit last looked at its word, `preempt` the code of a pre-emption trap it has yet to
take, 0 for none (R403), `stopped` whether a debugger holds it at its stop point (R441), `ask` the cause and BKPT code of a stop that
it has yet to make and `step` whether it is in a step, while it is in no unit (R441, R443), `tiled` whether it has issued a tile since
its last `WAITC mx, 0` (R443), `saved` the number of operations started when its block 3 was last saved (R414). The call and region stacks hold their top first. -/
structure Thread where
  group : Nat
  idx : Nat
  core : Nat
  v : List Reg
  preds : BitVec 16 := 1
  calls : List Dword := []
  regions : List (BitVec 16) := []
  rdepth : Nat := 0
  mode : Word := 0
  repcount : Nat := 0
  resuming : Bool := false
  repMode : Word := 0
  handlerMode : Word := 0
  bsync : Word := 0
  hmode : Nat := 0
  resume : Dword := 0
  hs : List Word := List.replicate 4 0
  frec : List Word := List.replicate 16 0
  st : Nat := 0
  mx : Nat := 0
  gx : Nat := 0
  ct : Nat := 0
  counted : List Counted := []
  held : List HeldError := []
  since : Nat := 0
  waits : Bool := false
  life : Life := .live
  preempt : Nat := 0
  stopped : Bool := false
  ask : Option (Nat × Nat) := none
  step : Bool := false
  tiled : Bool := false
  saved : Nat := 0
  failures : List (Nat × Failure) := []
  deriving DecidableEq, Repr

/-- A barrier (R176). -/
structure Barrier where
  phase : BitVec 16 := 0
  explicit : Bool := false
  expect : Nat := 0
  count : Nat := 0
  deriving DecidableEq, Repr

/-- What the first signature of a round records (R309): the opcode (0 for SIGN, 1 MMA, 2 MMAS, 3 GMMA), the header
number, the two operand fields and the shape fields of the header. -/
structure Round where
  op : Nat
  h : Nat
  a : Opnd
  b : Opnd
  shape : Nat
  deriving DecidableEq, Repr

/-- One recorded signature: the half (0 conditional or unpaired, 1 unconditional), the member's position, the
signing thread, the address of its word, and the rows it supplied of A and of B (R287, R309). -/
structure Signature where
  half : Nat
  member : Nat
  thread : Nat
  pc : Dword
  rowsA : List Word
  rowsB : List Word
  deriving DecidableEq, Repr

/-- A convergence register (R178): declared or idle, its members, the signatures still awaited, the signatures
made (oldest first), the record of each half's round, the halves that have issued or dropped out (R299, R311), the clk from
which the pair window runs, what it ran before its team was last placed, and the half that was complete when it opened (R299). A register k8 to k15 of a guided pair is held in the conditional half. -/
structure Conv where
  declared : Bool := false
  lo : Nat := 0
  n : Nat := 0
  left : Nat := 0
  signed : List Signature := []
  rounds : List (Nat × Round) := []
  doneHalves : List Nat := []
  window : Option Nat := none
  ran : Nat := 0
  first : Nat := 0
  deriving DecidableEq, Repr

/-- A group (R162, R163): its team, index in the team, T, v budget and role, its scalar registers, barriers and
convergence registers. -/
structure Group where
  team : Nat
  idx : Nat
  nthreads : Nat
  budget : Nat
  consumer : Bool
  s : List Reg := List.replicate 28 (.full 0)
  bars : List Barrier := []
  convs : List Conv := List.replicate 16 {}
  deriving DecidableEq, Repr

/-- The state of a window destination (R218), `parked` after SVWIN (R415): the image's address. -/
inductive DestState where
  | unbound
  | absent
  | arriving
  | present
  | parked (image : Dword)
  deriving DecidableEq, Repr

/-- A window destination: its state, the offsets of the bytes of the fill under way that have landed, and the number of
that fill. -/
structure Dest where
  state : DestState := .unbound
  landed : List Nat := []
  job : Nat := 0
  deriving DecidableEq, Repr

/-- A region-table entry (R216): the 64 descriptor bytes as two halves of 256 bits, SEQ, and its destinations. -/
structure Entry where
  desc : BitVec 512 := 0
  seq : Nat := 0
  dests : List Dest := []
  deriving DecidableEq, Repr

/-- The state image of an accumulator without SUSP (R278). STATE: 0 idle, 1 open, 2 finished, 3 failed. `labels` holds
the level and index of each pending node, top first; PEND is their number. -/
structure AccImage where
  state : Nat := 0
  psplit : Bool := false
  tail : Bool := false
  span : Nat := 0
  labels : List (Nat × Nat) := []
  next : Nat := 0
  origin : Word := 0
  deriving DecidableEq, Repr

/-- A pending node of a tree stack (R281): level, index and one value for each of the 64 × 48 elements. -/
structure StackNode where
  level : Nat
  index : Nat
  vals : List Word
  deriving DecidableEq, Repr

/-- An accumulator (R278): its image now, the image that every issued operation will leave (R302), the suspension
flag, the word C or D of each element (none listed: all zero), and the tree stack, top first. -/
structure Accum where
  now : AccImage := {}
  ahead : AccImage := {}
  susp : Bool := false
  base : List Word := []
  stack : List StackNode := []
  deriving DecidableEq, Repr

/-- A reservation (R275, R276, R298): the engine it holds, if it is held, whether its MREL has issued, the B-fetch
count and the four accumulators. -/
structure Resv where
  held : Bool := false
  releasing : Bool := false
  eng : Nat := 0
  bfetch : Word := 0
  accs : List Accum := List.replicate 4 {}
  deriving DecidableEq, Repr

/-- How far a team has come (R383, R403 to R405). -/
inductive TeamLife where
  | waiting
  | placed
  | saving
  | parked
  | retired
  deriving DecidableEq, Repr

/-- A team (R162, R208): its launch, index in the grid, cluster and cores, share, region table, reservations, the
wall time at which it was placed, was pre-empted or was parked, the pre-emption code it is being saved for, the wall time of the first
pre-emption trap of its threads (R403, R404), and the clk from which its windows and timers stand still (R441). -/
structure Team where
  launch : Nat
  idx : Nat
  life : TeamLife := .waiting
  cluster : Nat := 0
  cores : List Nat := []
  base : Nat := 0
  size : Nat := 0
  entries : List Entry := List.replicate 64 {}
  resvs : List Resv := List.replicate 16 {}
  since : Nat := 0
  code : Nat := 0
  trapped : Option Nat := none
  pausedAt : Nat := 0
  deriving DecidableEq, Repr

/-- A declared range of a launch (R376). -/
structure Range where
  base : Nat
  len : Nat
  rd : Bool
  wr : Bool
  sw : Bool
  dead : Bool
  pf : Bool
  deriving DecidableEq, Repr

/-- A launch record in use (R376, R377), with the defaults resolved. -/
structure LaunchRec where
  entry : Dword := 0
  kind : Nat := 0
  prio : Nat := 0
  width : Nat := 16
  paired : Bool := false
  progress : Bool := false
  check : Bool := false
  irq : Bool := false
  regp : Nat := 0
  regc : Nat := 0
  np : Nat := 0
  nc : Nat := 0
  eclass : Nat := 0
  quantum : Nat := 256
  foldage : Nat := 64
  threads : Nat := 1
  teams : Nat := 1
  scratch : Nat := 0
  spillBase : Dword := 0
  spillSize : Nat := 0
  done : Dword := 0
  afterEn : Bool := false
  afterQ : Nat := 0
  afterIdx : Nat := 0
  trees : List Nat := []
  ranges : List Range := []
  wsDst : Nat := 0
  wsDies : List Nat := []
  wsLen : Nat := 0
  deriving DecidableEq, Repr

/-- A launch in flight or finished (R375, R379): its context, queue and record index, its record, the teams placed
so far, the status its end will carry, whether its stamp is written, whether its first team has been placed, whether
prefetch was done, the wall time from which its next team has waited, the code bytes in memory when its first team was
placed (R82), and the cluster that is kept for its next team and the one on which that team has had others pre-empted (R384). -/
structure Launch where
  ctx : Nat
  queue : Nat
  index : Nat
  record : LaunchRec
  teams : List Nat := []
  ended : Bool := false
  finished : Bool := false
  begun : Bool := false
  prefetched : Nat := 0
  since : Nat := 0
  began : Nat := 0
  block : Option Nat := none
  hit : Option Nat := none
  deriving DecidableEq, Repr

/-- A launch queue (R373, R374). `watched` is the physical line of its tail while the dispatcher watches it. -/
structure Queue where
  enabled : Bool := false
  ring : Dword := 0
  tailAt : Dword := 0
  headAt : Dword := 0
  log2n : Nat := 3
  vec : Nat := 0
  head : Nat := 0
  tail : Nat := 0
  watched : Option Nat := none
  deriving DecidableEq, Repr

/-- A sampled access that has not completed (R448): its batch, unit and eclass, the clk of its issue, and the first and
last bytes of its packet. -/
structure Sampled where
  batch : Nat
  unit : Nat
  eclass : Nat
  clk : Nat
  head : List Byte
  tail : List Byte
  deriving DecidableEq, Repr

/-- The debug descriptor in force (R440) and the trace writer's position: bytes of packets placed in the current
page, bytes dropped since, the page sequence, the units that have a packet in the page, how much WRITTEN has taken in, and the wall
time of the last packet. -/
structure Debug where
  ring : Nat
  pages : Nat
  ptrs : Nat
  itrace : Bool
  dtrace : Bool
  sample : Bool
  regbrk : Bool
  slog2 : Nat
  scope : Nat
  vec : Nat
  irq : Bool
  regids : List Nat
  watch : List (Nat × Nat)
  open_ : Bool := false
  pos : Nat := 0
  written : Nat := 0
  seq : Nat := 0
  lost : Nat := 0
  units : List Nat := []
  flushed : Nat := 0
  last : Nat := 0
  samples : List (Nat × Nat) := []
  pending : List Sampled := []
  deriving DecidableEq, Repr

/-- A dump in progress (R453, R454): its area, the granules of the set not yet copied, the copies made as (granule, copy
address), the granules lost, where the next copy goes, where the copy list lies, and whether its thread state is written. -/
structure Dump where
  area : Nat
  size : Nat
  root : Nat
  cut : Nat
  granules : List Nat
  copies : List (Nat × Nat)
  lost : List Nat
  next : Nat
  listAt : Nat
  complete : Bool := false
  deriving DecidableEq, Repr

/-- A context (R389, R372, R374, R390, R440, R449, R453). `wsreg` holds (base, size) of each die's weight-store
region; `energy` is its energy counter in units of 2^−15 × 16 pJ, and `partials` are the sums that cores hold for it and `leaving` the
clusters on which teams of it have parked since another context was last placed there (R452). -/
structure Context where
  num : Nat
  root : Nat := 0
  dispatch : Dword := 0
  handler : Dword := 0
  saveArea : Dword := 0
  saveSize : Dword := 0
  fqRing : Dword := 0
  fqCtl : Dword := 0
  fqLog2n : Nat := 4
  bkpt : Bool := false
  sys : Bool := false
  fqIrq : Bool := false
  fqVec : Nat := 0
  slice : Nat := 0
  peerTab : Dword := 0
  peerCount : Nat := 0
  gwTab : Dword := 0
  gwCount : Nat := 0
  wsreg : List (Nat × Nat) := [(0, 0), (0, 0), (0, 0), (0, 0)]
  treeTab : Dword := 0
  treeCount : Nat := 0
  queues : List Queue := List.replicate 64 {}
  suspended : Bool := false
  contained : Bool := false
  debug : Option Debug := none
  dump : Option Dump := none
  energy : Nat := 0
  sat : Bool := false
  partials : List (Nat × Nat) := []
  leaving : List Nat := []
  deriving DecidableEq, Repr

/-- A REP under way (R77): its count, its STEP bits, the repeat to come, and the word index of the prefix. -/
structure Rep where
  cnt : Nat
  step : Nat
  k : Nat
  at_ : Nat
  deriving DecidableEq, Repr

/-- An issue unit (R169): its core, datapath and group, the (lane, thread) pairs in ascending lane, the address of
its clause header, the index of its next word, the clause in force (header first, none when it must be fetched),
whether the header wait has been passed, prefixes under way, age stamp (R386), clk of expiry (R187), whether it
found its next word blocked, and debugger state: stopped, a stop asked (with its cause), stepping (R441 to R443).
`packet` is the clk of its last trace packet, `issued` the words of the clause issued, `instrs` the instruction
words of the clause in force (R65), `slot` its slot of its datapath (R187, R445), `rank` its issue-group index at placement
or the number of the fold that formed it (R386). -/
structure IssueUnit where
  live : Bool := true
  core : Nat
  dp : Nat
  group : Nat
  lanes : List (Nat × Nat)
  hdr : Dword
  idx : Nat := 0
  words : List Word := []
  waited : Bool := false
  rep : Option Rep := none
  scope : Option Scope := none
  stamp : Nat := 0
  expired : Option Nat := none
  blocked : Bool := false
  stopped : Bool := false
  stopAsk : Option Nat := none
  stepping : Bool := false
  bkptCode : Nat := 0
  fold : Nat := 255
  packet : Nat := 0
  issued : Nat := 0
  instrs : Nat := 0
  slot : Nat := 0
  rank : Nat := 0
  deriving DecidableEq, Repr

/-- A fold in use (R171): its core and number, its key (group, and header with word index), its threads in order, the
clk of its first and of its last filing, its order of opening, and whether a thread in it waits at the header again (R85). -/
structure Fold where
  core : Nat
  num : Nat
  group : Nat
  hdr : Dword
  idx : Nat
  rewait : Bool
  threads : List Nat
  since : Nat
  last : Nat
  order : Nat
  deriving DecidableEq, Repr

/-- Where bytes lie: device physical memory, a cluster's scratchpad (cluster × 2^24 + offset), a die's weight store
(die × 2^31 + offset), or a peer window (peer-table index and offset). -/
inductive Place where
  | mem (pa : Nat)
  | spad (a : Nat)
  | ws (a : Nat)
  | peer (entry off : Nat)
  deriving DecidableEq, Repr

/-- What an operation in flight still has to do (R180, R182, R246). -/
inductive OpKind where
  /-- A value or failure on its way to a register of so many words (0: the access only); `ctr` if it is counted. -/
  | fill (dst : Opnd) (words : Nat) (val : Except Failure Dword) (ctr : Option Ctr)
  /-- A load that has not been performed (R231, R239): where its value goes, as for `fill` or to a scratchpad address, the
  place and bytes that it reads, its scope, and the queued stores of its core that it sees (R238). -/
  | load (dst : Opnd) (words : Nat) (at_ : Place) (len : Nat) (sext : Bool) (ctr : Option Ctr) (sc : Scope)
      (spad : Option Nat) (view : List Nat)
  /-- A scratchpad read that waits for bytes of arriving windows (R219): address, bytes, sign extension, and the queued stores
  that it sees. -/
  | wait (dst : Opnd) (words : Nat) (addr len : Nat) (sext : Bool) (view : List Nat)
  /-- A store: its bytes, whether the core sees it (R238), and whether it counts on ctr.st. -/
  | store (at_ : Place) (bytes : List Byte) (shown : Bool) (counted : Bool)
  /-- An atomic (R263, R264): operator 7 is compare-and-swap with comparand `c`; `ret` if it returns into `dst`, `acq`
  the scope of its acquire. -/
  | atomic (at_ : Place) (aop : Nat) (ty : ATy) (x c : Dword) (dst : Opnd) (ret : Bool) (acq : Option Scope)
  /-- A take of SPOLL that waits for the slot's fill (R343): slot, element, whether it is 8 bytes, and whether it only
  peeks. -/
  | take (dst : Opnd) (words : Nat) (slot elem : Nat) (w64 peek : Bool)
  /-- A gathered element on its way to the scratchpad (R261). -/
  | gather (val : Except Failure (List Byte)) (at_ : Nat)
  /-- A performed counted operation that has yet to decrement its counter, with its error (R181). -/
  | done (ctr : Ctr) (err : Option Failure)
  /-- A flush or MSTORE whose writes have gone to other devices (R225, R246): the requests that have no answer yet, each with
  the virtual address that it writes, the first error, its counter, and the stamp it ends with as (scratchpad address, SEQ). -/
  | parts (reqs : List (Nat × Nat)) (err : Option Failure) (ctr : Ctr) (stamp : Option (Nat × Nat))
  /-- A request to another device, by its number in the fabric's tables: where a returned value goes (a register, or
  for a gather a scratchpad address), where in the answer its bytes begin (R236), their number and sign extension, the counter it counts on, and the scope of its
  acquire. -/
  | remote (req : Nat) (dst : Opnd) (words skip len : Nat) (sext : Bool) (ctr : Option Ctr) (spad : Option Nat)
      (acq : Option Scope)
  deriving DecidableEq, Repr

/-- An operation in flight: its number, the batch (one issue) it belongs to, thread, core, issuing word, work, and the
virtual address that it accesses; `elem` marks an element of a gather or scatter, an event of its own (R261), `since` is the
clk of its issue (R212), `lines` are the lines of device memory that it has written besides a store's own (R246), `moves` the
lines that it is charged for at its completion, as (space, line) (R450), and `got` the bytes of parked destinations that a waiting
read has received, with their share addresses (R463). -/
structure Op where
  id : Nat
  batch : Nat
  thread : Nat
  core : Nat
  pc : Dword
  kind : OpKind
  va : Nat := 0
  elem : Bool := false
  since : Nat := 0
  lines : List Nat := []
  moves : List (Nat × Nat) := []
  got : List (Nat × Byte) := []
  deriving DecidableEq, Repr

/-- A fill or flush of a cluster's copy engine (R220 to R225): its number, team, cluster and share, entry, SEQ and
descriptor as it was bound, the destination of a flush, the thread whose counter it holds, the issuing word, how far
it has come, the parked destinations that its beats go on to as (destination, image, landed offsets) (R415), the
touched offsets that a fill fetches first (R219), the offsets that a flush has written, and the lines that it has moved, as (space,
line) with a window's lines told apart by destination (R450). -/
structure Job where
  id : Nat
  team : Nat
  cluster : Nat
  base : Nat
  size : Nat
  entry : Nat
  seq : Nat
  desc : BitVec 512
  flush : Option Nat
  starter : Option Nat
  pc : Dword
  queued : Bool
  begun : Bool
  shadows : List (Nat × Dword × List Nat) := []
  first : List Nat := []
  wrote : List Nat := []
  moved : List (Nat × Nat) := []
  deriving DecidableEq, Repr

/-- What an engine operation does (R303). A tile carries its opcode (1 MMA, 2 MMAS, 3 joint GMMA), the header words read
at issue, its target accumulators, the descriptor words and register rows of its operands (a second A for the
unconditional half of a joint GMMA), and how many blocks it has pushed. `taken` waits until the tree nodes of a drain,
numbered from `lo` up to `hi`, have been taken (R304). -/
inductive MKind where
  | init (origin : Word) (span : Nat) (c : Except Nat Word)
  | tile (op : Nat) (hdr0 chunk seed : Word) (accs : List Nat) (aDesc bDesc : List Word) (aDesc2 : List Word)
      (rowsA rowsA2 rowsB : List Word) (blocks : Nat)
  | guide (w : Word)
  | fin
  | drainReg (thread : Nat) (d row col : Nat)
  | drainSpad (base pitch : Nat)
  | drainTree (handle elem : Nat)
  | taken (lo hi : Nat)
  | store (f : SFmt) (glob : Bool) (base : Dword) (pitch : Nat) (flush : Bool)
  | stat (thread : Nat) (d : Opnd)
  | rel
  deriving DecidableEq, Repr

/-- An operation in an engine's queue (R285): its number, engine, team, reservation, accumulator, charged thread,
issuing word, whether it has started, the fault that suspends it (R293) and whether that has been delivered, the
entries whose fills its operands wait for, the failure of such a fill (R223), and the bytes that a store or drain has
written (R237). -/
structure MOp where
  id : Nat
  eng : Nat
  team : Nat
  res : Nat
  acc : Nat
  thread : Nat
  pc : Dword
  kind : MKind
  started : Bool := false
  susp : Option Failure := none
  told : Bool := false
  waits : List Nat := []
  doomed : Option Failure := none
  wrote : List Nat := []
  deriving DecidableEq, Repr

/-- A tree set in its current epoch (R320, R321): its launch and the fields of its descriptor. -/
structure TreeSet where
  ctx : Nat
  handle : Nat
  launch : Nat
  seq : Nat
  root : Dword
  stamp : Dword
  leaves : Nat
  op : Nat
  dshift : Nat
  bcast : Bool
  elems : Nat
  devs : List (Dword × Nat)
  deriving DecidableEq, Repr

/-- The state of a tree element that is no longer as it began (R329): STATE as TSTAT codes it, and the cause. `stamped`
says whether its stamp has been written. -/
structure Elem where
  ctx : Nat
  handle : Nat
  elem : Nat
  seq : Nat
  state : Nat
  cause : Nat
  stamped : Bool
  status : Nat
  deriving DecidableEq, Repr

/-- Where a tree node stands (R322, R325 to R328): on its way to a core rick, held in one, on its way to a slice or to a
port, in a port rick, in a slice rick, in a spill slot (its physical address), in a spill slot that a store has overwritten
(R327), waiting at its slice for want of room, or spilled there until its epoch begins. -/
inductive NodePlace where
  | toCore (core : Nat)
  | coreRick (core : Nat)
  | toSlice (slice : Nat)
  | toPort (port : Nat)
  | portRick (port : Nat)
  | sliceRick (slice : Nat)
  | spill (slice pa : Nat)
  | corrupt (slice : Nat)
  | waiting (slice : Nat)
  | early (slice : Nat)
  deriving DecidableEq, Repr

/-- A tree node (R322, R325). `epoch` is the whole SEQ of its tree, `leaves` and `op` its sender's LEAVES and OP, `origin` the thread and
word of a contribution that has not been taken yet, and `drain` marks a drained partial that has not (R304). -/
structure TreeNode where
  id : Nat
  ctx : Nat
  handle : Nat
  elem : Nat
  epoch : Nat
  leaves : Nat
  op : Nat
  level : Nat
  index : Nat
  value : Dword
  place : NodePlace
  since : Nat
  origin : Option (Nat × Dword)
  drain : Bool := false
  deriving DecidableEq, Repr

/-- A subscription (R336): the line, who subscribes and the slot's share-relative address; `dev` and `token` for a
subscriber on another device. `start` is the SEQ of its fill: a push of a lower number is not for it (R249). -/
structure Sub where
  id : Nat
  line : Nat
  ctx : Nat
  team : Nat
  slot : Nat
  dev : Option Nat
  token : Dword
  start : Nat
  deriving DecidableEq, Repr

/-- A push or notice on its way to a slot (R341, R345): a line with its number, UNSUB on its way to the home and its
acknowledgement, or the end of the subscription with its STATE and CAUSE. -/
inductive PushBody where
  | data (seq : Nat) (bytes : List Byte)
  | fill (seq : Nat) (bytes : List Byte) (state : Nat)
  | bad (state cause : Nat)
  | unsub
  | ack
  | final (state cause : Nat)
  deriving DecidableEq, Repr

/-- A push in flight: its number, subscription, team and slot, the thread whose counter it settles, and the wall time at which it was
sent (R345). -/
structure Push where
  id : Nat
  sub : Nat
  team : Nat
  slot : Nat
  dev : Option Nat
  body : PushBody
  thread : Option Nat
  pc : Dword
  addr : Dword
  err : Option Failure
  since : Nat := 0
  deriving DecidableEq, Repr

/-- A subscribed line with writes not yet pushed (R341): the line and the number of its last write. -/
structure Dirty where
  line : Nat
  seq : Nat
  since : Nat
  deriving DecidableEq, Repr

/-- Who waits for the answer to a request to another device that is no access of its own (R230, R425): a beat of a fill, by its job and
offset; an operand of a matrix operation, by the peer-table entry and offset; a part of what a word of a thread reads; a request of
SLOAD; or UNSUB's message, by its number. -/
inductive Reader where
  | beat (job off : Nat)
  | operand (op entry off : Nat)
  | word (thread part : Nat)
  | sload (req : Nat)
  | unsub (push : Nat)
  deriving DecidableEq, Repr

/-- Such a read: its request, its reader, and the answer once it has come: bytes, or a class and code. -/
structure PeerRead where
  req : Nat
  who : Reader
  ans : Option (Except (Nat × Nat) (List Byte))
  deriving DecidableEq, Repr

/-- A request of SLOAD for which the thread still waits (R342): its number, which its fill shares, thread, word, line,
address, team, slot, and the answer once it is known. -/
structure SloadReq where
  id : Nat
  thread : Nat
  pc : Dword
  line : Place
  va : Dword
  team : Nat
  slot : Nat
  answer : Option Bool
  deriving DecidableEq, Repr

/-- A parked slot (R347, R415): its team and slot, the image's address, and the pushes its parking line took. -/
structure ParkedSlot where
  team : Nat
  slot : Nat
  image : Dword
  count : Nat
  deriving DecidableEq, Repr

/-- A line that an L1 holds as a visitor line (R213). -/
structure Visitor where
  core : Nat
  line : Nat
  bytes : List Byte
  deriving DecidableEq, Repr

/-- A translation that a TLB holds (R395, R396): the context, the first 4 KiB page of the leaf and how many it maps, where it
begins, and its permissions. -/
structure TlbEntry where
  ctx : Nat
  page : Nat
  pages : Nat
  place : Place
  perms : Nat
  deriving DecidableEq, Repr

/-- A shadow record of the checking mode (R254). -/
structure Shadow where
  line : Nat
  launch : Nat
  team : Nat
  flushed : Bool
  deriving DecidableEq, Repr

/-- A die: the origin and kind of its refresh frame, a change of kind it waits to make (R228), and the bank group that
extra refresh holds with the wall time at which that ends (R229). -/
structure Die where
  hot : Bool := false
  wantHot : Option Bool := none
  origin : Nat := 0
  frames : Nat := 0
  slot : Nat := 0
  busy : Bool := true
  extra : Option (Nat × Nat) := none
  counts : List Nat := List.replicate 11 0
  deriving DecidableEq, Repr

/-- The repair map's word on a site (R474). -/
inductive Site where
  | inService
  | spare
  | retired
  | replacement (forSite : Nat)
  deriving DecidableEq, Repr

/-- The repair map (R474): the generation, the core sites (7 per cluster), slice sites (50 per die), channel sites
(34 per stack), wavelengths (68 per fibre), and how often each engine site was fenced. -/
structure RepairMap where
  gen : Nat := 0
  cores : List Site := []
  slices : List Site := []
  channels : List Site := []
  waves : List Site := []
  fences : List (Nat × Nat) := []
  retiredEngines : List Nat := []
  deriving DecidableEq, Repr

/-- What is out of order in the module since reset (R467, R471, R473, R477, R478): the site that serves each logical core
(none listed: site 7 × cluster + core in the cluster), core sites that have failed, fenced or missing cores and engines
(logical), the site that serves each logical slice (none listed: 50 × die + slice in the die), slice sites that have
failed, fenced slices with their stand-ins, the slices that the spill areas are not cut over (R327), channels marked for retirement, channels replaced since reset, wavelengths that have failed as (fibre,
wavelength), the wall time from which a repair point is wanted, whether it is under way, the lost-line log, how often the
health block was updated, when last, and whether a fence, repair point or lost line asks for an update at once (R479), and
how often the power block was (R489), and the engine sites fenced since reset, one for each time (R474). -/
structure Health where
  coreSite : List Nat := []
  badCores : List Nat := []
  fencedCores : List Nat := []
  fencedEngines : List Nat := []
  sliceSite : List Nat := []
  badSlices : List Nat := []
  fencedSlices : List (Nat × Nat) := []
  cut : List Nat := []
  marked : List Nat := []
  goneChannels : List Nat := []
  waves : List (Nat × Nat) := []
  repair : Option Nat := none
  draining : Bool := false
  log : List Nat := []
  logged : Nat := 0
  gen : Nat := 0
  genAt : Nat := 0
  stale : Bool := false
  powerGen : Nat := 0
  fencedSites : List Nat := []
  deriving DecidableEq, Repr

/-- An L2 slice: the 48-bit write counter (R337) and its count of spilled entries is the nodes' own places. -/
structure Slice where
  count : Nat := 0
  deriving DecidableEq, Repr

/-- The control registers of BAR 0 (R435) that hold a value of their own, and the control queue's position. -/
structure Bar0 where
  foffer : BitVec 256 := 0x7F
  faccept : BitVec 256 := 0
  ferr : Bool := false
  committed : Bool := false
  fabricUp : Bool := false
  booted : Bool := true
  cqRing : Dword := 0
  cqTail : Dword := 0
  cqCtl : Dword := 0
  podnum : Option (BitVec 12) := none
  gkgen : BitVec 4 := 0
  rcvBusy : Bool := false
  rcvFail : Bool := false
  rcvOpen : Bool := false
  cqNext : Nat := 0
  deriving DecidableEq, Repr

/-- A request to another device that has no acknowledgement yet (R427): its number, the sending context, the target
device and context, its sequence number (none for a load), its token, what it asks, when it was first sent, how often again, and the
rotor and the device that its flit was last sent to (R423). -/
structure Outgoing where
  id : Nat
  ctx : Nat
  dev : Nat
  tctx : Nat
  seq : Option Nat
  inc : Nat
  token : Dword
  op : RemoteOp
  since : Nat
  tries : Nat
  way : Nat × Nat := (0, 0)
  deriving DecidableEq, Repr

/-- What a target keeps of a source (R427, R428): device, context, incarnation, H, the numbers performed above
H − 4,096, and the values its atomics returned. -/
structure SourceRec where
  dev : Nat
  ctx : Nat
  inc : Nat
  high : Nat
  done : List Nat
  olds : List (Nat × Dword)
  deriving DecidableEq, Repr

/-- The fabric port (R421 to R432). -/
structure Fabric where
  dwell : Nat := 0
  incarnation : Nat := 0
  seqs : List (Nat × Nat × Nat) := []
  targetIncs : List (Nat × Nat) := []
  out : List Outgoing := []
  sources : List SourceRec := []
  acks : List RemoteAck := []
  staged : List (Nat × Flit) := []
  stale : Nat := 0
  macFails : List (Nat × Nat) := []
  blocked : List (Nat × Nat) := []
  rotorsOut : List Nat := []
  resent : Nat := 0
  deriving DecidableEq, Repr

/-- A firmware slot (R482, R483): its generation and image. No image with a generation other than 0 stands for the image of
manufacture, which boots (log 6). -/
structure FwSlot where
  gen : Nat := 0
  image : List Byte := []
  deriving DecidableEq, Repr

/-- Non-volatile storage and what firmware keeps (R474, R481 to R489): the firmware slots, the one in use since the last
reset, the rollback counter, the running SVN, the two copies of the repair map with whether each is valid, the power limit,
the clock in sixteenths, when it was last lowered, the reasons for slowing it, the wall time spent below full clock, and whether a thermal trip has
stopped the device. -/
structure Firmware where
  slots : List FwSlot := [{ gen := 1 }, { gen := 0 }]
  inUse : Nat := 0
  rollback : Nat := 1
  svn : Nat := 1
  maps : List (RepairMap × Bool) := []
  limit : Nat := 3200
  clock : Nat := 16
  slowed : Nat := 0
  reasons : Nat := 0
  slow : Nat := 0
  tripped : Bool := false
  deriving DecidableEq, Repr

/-- A host read answered (R434): the bytes, or an abort. -/
structure HostAnswer where
  addr : Nat
  data : Option (List Byte)
  deriving DecidableEq, Repr

/-- An error of a storage class (R468): one that its code corrects (die, counter of R479), or an uncorrectable one in a v
register (thread, register), a 32-byte word of HBM, a line newer than HBM, an 8-byte word of a scratchpad, a 32-byte word of
a weight store, an accumulator (team, reservation, number), a rick or spill entry, or a subscription entry. -/
inductive Spoil where
  | corrected (die counter : Nat)
  | register (t n : Nat)
  | hbm (word : Nat)
  | line (line : Nat)
  | spad (word : Nat)
  | weights (word : Nat)
  | accumulator (team res acc : Nat)
  | node (id : Nat)
  | entry (id : Nat)
  deriving DecidableEq, Repr

/-- What comes about next, from the agenda: an event of the opcode table, the turn of a datapath, or an error of a storage
class. -/
inductive Todo where
  | event (i : Instr)
  | turn (dp : Nat)
  | spoil (x : Spoil)
  deriving DecidableEq, Repr

/-- An agenda item: so many clk pass, then this comes about. -/
structure Item where
  dt : Nat
  todo : Todo
  deriving DecidableEq, Repr

/-- What a saved group image has no room for (R413): the number that the image carries, the bytes of each convergence register
past its own, and the failures of failed scalar registers. -/
structure SavedConvs where
  id : Nat
  tails : List (List Byte)
  fails : List (Nat × Failure)
  deriving DecidableEq, Repr

/-- The memory layer: device memory, scratchpads and weight stores as cells in canonical form, the code words that
read uncorrectable (32, 8 and 32 bytes each, by number), the lost lines with the slice that records them, the lines of its own
die of which a core's L1 holds a token, as (core, line), the longest held first (R212), visitor lines, TLB entries, shadow records, for each byte of a discarded range the other value it may read as (R381), the values
that words of device memory had before writes to them, each with the number of the last write that replaced it (R82, R381),
how many writes there were, and the persistent requests as (line, core), oldest first (R212). -/
structure Storage where
  mem : List Host.Cell := []
  spad : List Host.Cell := []
  ws : List Host.Cell := []
  badMem : List Nat := []
  badSpad : List Nat := []
  badWs : List Nat := []
  lost : List (Nat × Nat) := []
  held : List (Nat × Nat) := []
  visitors : List Visitor := []
  tlb : List TlbEntry := []
  shadow : List Shadow := []
  dead : List (Nat × Byte) := []
  past : List (Nat × Word × Nat) := []
  writes : Nat := 0
  persistent : List (Nat × Nat) := []
  deriving DecidableEq, Repr

/-- Work in flight (R180, R220, R285, R325, R341, R342). -/
structure Flight where
  ops : List Op := []
  jobs : List Job := []
  mops : List MOp := []
  nodes : List TreeNode := []
  sets : List TreeSet := []
  elems : List Elem := []
  subs : List Sub := []
  pushes : List Push := []
  dirty : List Dirty := []
  reqs : List SloadReq := []
  reads : List PeerRead := []
  parkedSlots : List ParkedSlot := []
  convImages : List SavedConvs := []
  deriving DecidableEq, Repr

/-- The whole machine. `clk` is sr.clk; `wall` is wall time since reset in units of 1 / 6,486,480 ns, of which every
clock step is a whole number (R5, R487). `msi` lists the messages sent, as (vector,
address, data); `msix` is the MSI-X table's bytes (R434, R437); `ticks` counts the ticks of 1,024 clk that have been charged (R451); `copyTurn` is the first launch queue, as 64 × context +
queue, that the dispatcher's round robin asks next (R375). The last seven fields are the model's own bookkeeping (log 1, log 2): what
the world chooses next, the work under way that has yet to move in this clk, the unit at issue, the datapaths that have
issued in this clk (R387), the core of each group formed in it (R172), the next number to give, and the counter the free
values are applied to. -/
structure State where
  clk : Nat := 0
  wall : Nat := 0
  threads : List Thread := []
  groups : List Group := []
  teams : List Team := []
  launches : List Launch := []
  units : List IssueUnit := []
  folds : List Fold := []
  ctxs : List Context := []
  sto : Storage := {}
  fly : Flight := {}
  dies : List Die := List.replicate 4 {}
  slices : List Slice := List.replicate 192 {}
  health : Health := {}
  bar0 : Bar0 := {}
  fabric : Fabric := {}
  fw : Firmware := {}
  saveEntry : Option Dword := none
  msi : List (Nat × Nat × Nat) := []
  msix : List Host.Cell := []
  msixPending : List Nat := []
  hostReads : List HostAnswer := []
  ticks : Nat := 0
  copyTurn : Nat := 0
  agenda : List Item := []
  work : List Instr := []
  cur : Nat := 0
  taken : List Nat := []
  formed : List Nat := []
  nextId : Nat := 0
  fresh : Nat := 0
  deriving DecidableEq, Repr

/-- A list of cells in canonical form: addresses strictly rising, and no cell that holds 0, the value an unlisted
address reads as (log 3). -/
def cellsWf : List Host.Cell → Bool
  | [] => true
  | [c] => decide (c.2 ≠ 0)
  | c :: d :: r => decide (c.2 ≠ 0) && decide (c.1 < d.1) && cellsWf (d :: r)

/-- The three memories are in canonical form. -/
def Memory.wf (m : Storage) : Bool := cellsWf m.mem && cellsWf m.spad && cellsWf m.ws

/-- The machine right after reset (R6): no context, launch or team exists, the counters and control registers are
zero, and the boot has succeeded (log 6). -/
def State.reset : State := {}

end Sys2Proof.Machine
end

