-- ==== Sys2Proof/Machine/Base.lean ====
section
/-!
DEFINITION. Plain helpers: lists by position, bytes and words, cells in canonical form, the parts of State by name,
and the passing of time.
-/

namespace Sys2Proof.Machine

/-! Lists by position. -/

/-- Applies `f` to each entry with its position, counted from `k`. -/
def mapFrom {α β : Type} (f : Nat → α → β) (k : Nat) : List α → List β
  | [] => []
  | x :: r => f k x :: mapFrom f (k + 1) r

/-- Changes the entry at a position; a position past the end changes nothing. -/
def upd {α : Type} (l : List α) (n : Nat) (f : α → α) : List α :=
  match l, n with
  | [], _ => []
  | x :: r, 0 => f x :: r
  | x :: r, k + 1 => x :: upd r k f

/-- The entry that a list of pairs has for a key. -/
def look {α : Type} (l : List (Nat × α)) (k : Nat) : Option α :=
  match l with
  | [] => none
  | x :: r => if x.1 = k then some x.2 else look r k

/-- Sets the entry for a key. -/
def put {α : Type} (l : List (Nat × α)) (k : Nat) (a : α) : List (Nat × α) :=
  match l with
  | [] => [(k, a)]
  | x :: r => if x.1 = k then (k, a) :: r else x :: put r k a

/-- The position of the first entry that satisfies `p`, counted from `k`. -/
def posFrom {α : Type} (p : α → Bool) (k : Nat) : List α → Option Nat
  | [] => none
  | x :: r => if p x then some k else posFrom p (k + 1) r

/-- The position of the first entry that satisfies `p`. -/
def pos {α : Type} (p : α → Bool) (l : List α) : Option Nat := posFrom p 0 l

/-- The positions of the entries that satisfy `p`, counted from `k`. -/
def allPosFrom {α : Type} (p : α → Bool) (k : Nat) : List α → List Nat
  | [] => []
  | x :: r => if p x then k :: allPosFrom p (k + 1) r else allPosFrom p (k + 1) r

/-- The positions of the entries that satisfy `p`. -/
def allPos {α : Type} (p : α → Bool) (l : List α) : List Nat := allPosFrom p 0 l

/-- Inserts by a key, before equal keys. -/
def insertBy {α : Type} (key : α → Nat) (x : α) : List α → List α
  | [] => [x]
  | y :: r => if key x ≤ key y then x :: y :: r else y :: insertBy key x r

/-- Sorts by a key; entries of equal keys keep their order. -/
def sortBy {α : Type} (key : α → Nat) : List α → List α
  | [] => []
  | x :: r => insertBy key x (sortBy key r)

/-- The entry with the least key, the first of equals. -/
def leastBy {α : Type} (key : α → Nat) : List α → Option α
  | [] => none
  | x :: r =>
    match leastBy key r with
    | none => some x
    | some y => if key y < key x then some y else some x

/-- The list without repeats, first occurrences kept. -/
def dedup (l : List Nat) : List Nat :=
  l.foldl (fun acc x => if acc.contains x then acc else acc ++ [x]) []

/-! Bytes and words. -/

/-- The number that bytes spell, least significant first (R9). -/
def bytesVal : List Byte → Nat
  | [] => 0
  | b :: r => b.toNat + 256 * bytesVal r

/-- The `n` low bytes of a number, least significant first. -/
def valBytes (n x : Nat) : List Byte :=
  match n with
  | 0 => []
  | k + 1 => BitVec.ofNat 8 x :: valBytes k (x / 256)

/-- The bytes of words, each in four bytes. -/
def wordBytes (ws : List Word) : List Byte := (ws.map fun w => valBytes 4 w.toNat).flatten

/-- The words that bytes spell; bytes past the last whole word are dropped. -/
def bytesWords : List Byte → List Word
  | a :: b :: c :: d :: r => BitVec.ofNat 32 (bytesVal [a, b, c, d]) :: bytesWords r
  | _ => []

/-- `len` bits of a number from bit `lo`. -/
def bits (x lo len : Nat) : Nat := x / 2 ^ lo % 2 ^ len

/-- One bit of a number. -/
def bit (x lo : Nat) : Bool := x / 2 ^ lo % 2 == 1

/-- A Boolean as 0 or 1. -/
def b2n (b : Bool) : Nat := if b then 1 else 0

/-- A field that grows to at most `m`. -/
def satAdd (m a b : Nat) : Nat := min m (a + b)

/-- `n` copies of zero bytes. -/
def zeros (n : Nat) : List Byte := List.replicate n 0

/-! Cells. -/

/-- The byte at an address; an unlisted address reads 0 (log 3). -/
def cellGet : List Host.Cell → Nat → Byte
  | [], _ => 0
  | c :: r, a => if c.1 = a then c.2 else cellGet r a

/-- Writes a byte and keeps the canonical form. -/
def cellSet : List Host.Cell → Nat → Byte → List Host.Cell
  | [], a, x => if x = 0 then [] else [(a, x)]
  | c :: r, a, x =>
    if c.1 < a then c :: cellSet r a x
    else if c.1 = a then (if x = 0 then r else (a, x) :: r)
    else (if x = 0 then c :: r else (a, x) :: c :: r)

/-- `n` bytes from an address. -/
def readCells (m : List Host.Cell) (a n : Nat) : List Byte := (List.range n).map fun i => cellGet m (a + i)

/-- Writes bytes from an address on. -/
def writeCells (m : List Host.Cell) (a : Nat) : List Byte → List Host.Cell
  | [] => m
  | b :: r => writeCells (cellSet m a b) (a + 1) r

/-- Zeroes `n` bytes from an address. -/
def clearCells (m : List Host.Cell) (a n : Nat) : List Host.Cell :=
  m.filter fun c => decide (c.1 < a) || decide (a + n ≤ c.1)

/-! Parts of State by name. -/

/-- What stands in for a thread that does not exist. -/
def Thread.gone : Thread := { group := 0, idx := 0, core := 0, v := [], life := .exited }

/-- What stands in for a group that does not exist. -/
def Group.gone : Group := { team := 0, idx := 0, nthreads := 0, budget := 0, consumer := false }

/-- What stands in for a team that does not exist. -/
def Team.gone : Team := { launch := 0, idx := 0, life := .retired }

/-- What stands in for a launch that does not exist. -/
def Launch.gone : Launch := { ctx := 0, queue := 0, index := 0, record := {}, finished := true }

/-- What stands in for a context that does not exist. -/
def Context.gone : Context := { num := 64 }

/-- What stands in for an issue unit that does not exist. -/
def IssueUnit.gone : IssueUnit := { live := false, core := 0, dp := 0, group := 0, lanes := [], hdr := 0 }

/-- A thread by name. -/
def State.thr (s : State) (t : Nat) : Thread := (s.threads[t]?).getD .gone

/-- A group by name. -/
def State.grp (s : State) (g : Nat) : Group := (s.groups[g]?).getD .gone

/-- A team by name. -/
def State.team (s : State) (m : Nat) : Team := (s.teams[m]?).getD .gone

/-- A launch by name. -/
def State.launch (s : State) (l : Nat) : Launch := (s.launches[l]?).getD .gone

/-- A context by its number. -/
def State.ctx (s : State) (c : Nat) : Context := (s.ctxs.find? fun x => x.num == c).getD .gone

/-- An issue unit by name. -/
def State.unitAt (s : State) (u : Nat) : IssueUnit := (s.units[u]?).getD .gone

/-- The unit at issue. -/
def State.unit (s : State) : IssueUnit := s.unitAt s.cur

/-- The team of a thread. -/
def State.teamOf (s : State) (t : Nat) : Nat := (s.grp (s.thr t).group).team

/-- The launch of a thread. -/
def State.launchOf (s : State) (t : Nat) : Launch := s.launch (s.team (s.teamOf t)).launch

/-- The context of a thread. -/
def State.ctxOf (s : State) (t : Nat) : Context := s.ctx (s.launchOf t).ctx

/-- Changes a thread. -/
def State.updThr (s : State) (t : Nat) (f : Thread → Thread) : State := { s with threads := upd s.threads t f }

/-- Changes a group. -/
def State.updGrp (s : State) (g : Nat) (f : Group → Group) : State := { s with groups := upd s.groups g f }

/-- Changes a team. -/
def State.updTeam (s : State) (m : Nat) (f : Team → Team) : State := { s with teams := upd s.teams m f }

/-- Changes a launch. -/
def State.updLaunch (s : State) (l : Nat) (f : Launch → Launch) : State := { s with launches := upd s.launches l f }

/-- Changes a context. -/
def State.updCtx (s : State) (c : Nat) (f : Context → Context) : State :=
  { s with ctxs := s.ctxs.map fun x => if x.num = c then f x else x }

/-- Changes an issue unit. -/
def State.updUnit (s : State) (u : Nat) (f : IssueUnit → IssueUnit) : State := { s with units := upd s.units u f }

/-- Changes the memory layer. -/
def State.updSto (s : State) (f : Storage → Storage) : State := { s with sto := f s.sto }

/-- Changes the work in flight. -/
def State.updFly (s : State) (f : Flight → Flight) : State := { s with fly := f s.fly }

/-- Takes a number for a new operation, node or push. -/
def State.takeId (s : State) : State := { s with nextId := s.nextId + 1 }

/-- Takes a new index for free values. -/
def State.bump (s : State) : State := { s with fresh := s.fresh + 1 }

/-- A free choice among `n` outcomes, with a salt that keeps choices of one step apart. -/
def State.pick (s : State) (salt n : Nat) : Nat := Config.choice s.fresh salt % n

/-- The counter of a thread (R180). -/
def Thread.ctr (t : Thread) : Ctr → Nat
  | .st => t.st
  | .mx => t.mx
  | .gx => t.gx
  | .ct => t.ct

/-- Changes a counter of a thread. -/
def Thread.setCtr (t : Thread) (c : Ctr) (n : Nat) : Thread :=
  match c with
  | .st => { t with st := n }
  | .mx => { t with mx := n }
  | .gx => { t with gx := n }
  | .ct => { t with ct := n }

/-- One more counted operation, by its number (R180). -/
def Thread.incCtr (t : Thread) (c : Ctr) (id : Nat) : Thread :=
  { t.setCtr c (t.ctr c + 1) with
    counted := (t.counted.map fun x => if x.ctr = c then { x with later := x.later + 1 } else x) ++ [⟨c, id, 0⟩] }

/-- One counted operation fewer (R180). -/
def Thread.decCtr (t : Thread) (c : Ctr) (id : Nat) : Thread :=
  { t.setCtr c (t.ctr c - 1) with counted := t.counted.filter fun x => !(x.ctr == c && x.id == id) }

/-- Whether every operation counted on `c` is complete but for some of the `n` most recent (R64, R246); 63 asks for nothing
(R204). -/
def Thread.recentOnly (t : Thread) (c : Ctr) (n : Nat) : Bool :=
  decide (63 ≤ n) || t.counted.all fun x => x.ctr != c || decide (x.later < n)

/-- The value of a register; an empty or failed one delivers none, and 0 stands in. -/
def Reg.word : Reg → Word
  | .full x => x
  | .empty _ => 0
  | .failed _ => 0

/-- Whether a register is full. -/
def Reg.isFull : Reg → Bool
  | .full _ => true
  | .empty _ => false
  | .failed _ => false

/-- The failure of a failed register. -/
def Reg.failure : Reg → Option Failure
  | .failed f => some f
  | _ => none

/-- Whether a register waits for a fill. -/
def Reg.isEmpty : Reg → Bool
  | .empty _ => true
  | _ => false

/-- A v register of a thread. -/
def Thread.reg (t : Thread) (n : Nat) : Reg := (t.v[n]?).getD (.full 0)

/-- An s register of a group. -/
def Group.reg (g : Group) (n : Nat) : Reg := (g.s[n]?).getD (.full 0)

/-- A barrier of a group (R176). -/
def Group.bar (g : Group) (b : Nat) : Barrier := (g.bars[b]?).getD {}

/-- A 64-bit value from two words, low word first (R32). -/
def dwordOf (lo hi : Word) : Dword := hi ++ lo

/-- The low word of a 64-bit value. -/
def lo32 (x : Dword) : Word := x.setWidth 32

/-- The high word of a 64-bit value. -/
def hi32 (x : Dword) : Word := (x >>> 32).setWidth 32

/-- The other half's group of a guided pair (R175). -/
def Group.pairOf (g : Group) : Nat := if g.idx % 2 = 0 then g.idx + 1 else g.idx - 1

/-- The groups of a team, by name. -/
def State.groupsOf (s : State) (m : Nat) : List Nat := allPos (fun g => g.team == m) s.groups

/-- The group of a team with an index. -/
def State.groupAt (s : State) (m idx : Nat) : Nat :=
  (pos (fun g => g.team == m && g.idx == idx) s.groups).getD s.groups.length

/-- The threads of a team, by name. -/
def State.threadsOf (s : State) (m : Nat) : List Nat := allPos (fun t => (s.grp t.group).team == m) s.threads

/-- The threads of a group, by name. -/
def State.threadsIn (s : State) (g : Nat) : List Nat := allPos (fun t => t.group == g) s.threads

/-- Units of `wall` that a clk lasts at a clock step of sixteenths (R5, R487): 4 / 9 ns × 16 / step. -/
def wallPerClk (step : Nat) : Nat := 46126080 / max step 1

/-- Units of `wall` in a nanosecond. -/
def wallNs : Nat := 6486480

/-- Lets clk pass; time below full clock is counted (R489). -/
def State.tick (s : State) (dt : Nat) : State :=
  let w := dt * wallPerClk s.fw.clock
  { s with clk := s.clk + dt, wall := s.wall + w,
           fw := { s.fw with slow := if s.fw.clock < 16 then s.fw.slow + w else s.fw.slow } }

/-- Milliseconds since reset (R435). -/
def State.tms (s : State) : Nat := s.wall / (wallNs * 1000000)

/-- The channels in service (R473, R477): 384 in full service, fewer where the repair map has withdrawn some. -/
def State.channelsInService (s : State) : Nat :=
  match s.fw.maps with
  | [] => 384
  | m :: _ => if m.1.channels = [] then 384 else
      (m.1.channels.filter fun c => match c with | .inService => true | .replacement _ => true | _ => false).length

/-- HBM capacity in bytes (R477). -/
def State.capacity (s : State) : Nat := s.channelsInService * 1610612736

/-- Whether a range of device physical memory meets a range reserved for firmware (R397). -/
def State.reserved (s : State) (pa len : Nat) : Bool :=
  decide (pa < 2 ^ 20) || (decide (s.capacity - 2 ^ 32 < pa + len) && decide (pa < s.capacity))

/-- The logical slices in service (R211, R323, R471): a fenced slice is served by its stand-in. -/
def State.standIn (s : State) (k : Nat) : Nat := (look s.health.fencedSlices k).getD k

/-- The slices that the spill areas are cut over (R327, R471, R472). -/
def State.sliceCount (s : State) : Nat := 192 - s.health.cut.length

/-- The position of a slice among those. -/
def State.sliceRank (s : State) (k : Nat) : Nat := ((List.range k).filter fun i => !s.health.cut.contains i).length

/-- Whether a feature has been accepted (R435, R436). -/
def State.feature (s : State) (k : Nat) : Bool := s.bar0.committed && s.bar0.faccept.getLsbD k

/-- The home slice of a line (R211). -/
def State.homeOf (s : State) (line : Nat) : Nat := s.standIn (Config.homeHash line % 192)

/-- The die of a core. -/
def dieOfCore (core : Nat) : Nat := core / 36

/-- The cluster of a core. -/
def clusterOfCore (core : Nat) : Nat := core / 6

/-- Whether a team holds slots: it is placed, or being saved. -/
def Team.holds (t : Team) : Bool := t.life == .placed || t.life == .saving

/-- The clk that the pair window of a register has run: before its team was last placed, and since (R299). -/
def State.windowAge (s : State) (c : Conv) : Nat := (c.window.map fun w => c.ran + (s.clk - w)).getD 0

/-- Whether the pair window of a register is over (R299). -/
def State.windowOver (s : State) (c : Conv) : Bool := c.window.isSome && decide (4096 ≤ s.windowAge c)

end Sys2Proof.Machine
end

