-- ==== Sys2Proof/Machine/Mem.lean ====
section
/-!
DEFINITION. The memory layer (file 10, file 11) and translation (R393 to R397): reads and writes of the three
memories with their uncorrectable words and lost lines (R468, R469), page walks, TLBs, the store queues of the
cores (R238), visitor lines (R213), push numbering (R337), dump copies (R453) and the checking mode (R254).
-/

namespace Sys2Proof.Machine

/-- A place some bytes further on. -/
def Place.add (p : Place) (n : Nat) : Place :=
  match p with
  | .mem a => .mem (a + n)
  | .spad a => .spad (a + n)
  | .ws a => .ws (a + n)
  | .peer e o => .peer e (o + n)

/-- The numbers of the blocks of `size` bytes that a range touches. -/
def blocksOf (size a len : Nat) : List Nat :=
  if len = 0 then [] else (List.range ((a + len - 1) / size - a / size + 1)).map fun i => a / size + i

/-- The blocks of `size` bytes that a range covers whole. -/
def wholeBlocks (size a len : Nat) : List Nat :=
  (blocksOf size a len).filter fun k => decide (a ≤ k * size) && decide (k * size + size ≤ a + len)

/-! Reads. -/

/-- Whether a read of device memory meets uncorrectable data, a lost line, or no memory at all (R468, R469, R477). -/
def State.memBad (s : State) (pa len : Nat) : Bool :=
  decide (s.capacity < pa + len) ||
  (blocksOf 32 pa len).any (fun k => s.sto.badMem.contains k) ||
  (blocksOf 128 pa len).any (fun k => (s.sto.lost.map Prod.fst).contains k)

/-- A byte of device memory; a byte of a discarded range reads as one of its values (R381). -/
def State.memByte (s : State) (a : Nat) : Byte :=
  match look s.sto.dead a with
  | none => cellGet s.sto.mem a
  | some x => if s.pick a 2 = 0 then x else cellGet s.sto.mem a

/-- Bytes of device memory. -/
def State.memBytes (s : State) (pa n : Nat) : List Byte := (List.range n).map fun i => s.memByte (pa + i)

/-- Bytes of device memory, none where they read uncorrectable. -/
def State.readPhys (s : State) (pa n : Nat) : Option (List Byte) :=
  if s.memBad pa n then none else some (s.memBytes pa n)

/-- Whether a read of a scratchpad meets an uncorrectable word (R468). -/
def State.spadBad (s : State) (a len : Nat) : Bool := (blocksOf 8 a len).any fun k => s.sto.badSpad.contains k

/-- Whether a read of a weight store meets an uncorrectable word (R468). -/
def State.wsBad (s : State) (a len : Nat) : Bool := (blocksOf 32 a len).any fun k => s.sto.badWs.contains k

/-- The bank group of a byte of a weight store (R227): bits 15 to 12 of the offset, as region bases are multiples of
64 KiB. -/
def wsGroup (a : Nat) : Nat := bits a 12 4

/-- Whether a byte of a weight store lies in a bank group that is unavailable: the one of the frame's slot, or one that
extra refresh holds (R227 to R229). -/
def State.wsHeld (s : State) (a : Nat) : Bool :=
  let d : Die := (s.dies[a / 2 ^ 31]?).getD {}
  (d.busy && d.slot == wsGroup a) ||
  (match d.extra with | some x => x.1 == wsGroup a && decide (s.wall < x.2) | none => false)

/-! Translation (R393 to R397). -/

/-- A leaf that a walk reaches: where the walked address lies, its permissions, 1 read, 2 write, 4 fetch, and the bytes that it or
its contiguous group maps (R393, R395). -/
structure Leaf where
  place : Place
  perms : Nat
  size : Nat
  deriving DecidableEq, Repr

/-- The bytes that a leaf of a level maps (R393). -/
def pageSize (level : Nat) : Nat := 4096 * 512 ^ level

/-- Whether a valid entry of a level is malformed on its own (R394). -/
def badEntry (level e : Nat) : Bool :=
  let leaf := bit e 5
  let step := 512 ^ level
  decide (bits e 57 7 ≠ 0) || decide (bits e 8 4 ≠ 0) || bit e 1 ||
  (decide (level = 0) && !leaf) || (decide (3 ≤ level) && leaf) ||
  (!leaf && (bit e 7 || bit e 6)) || (decide (level = 2) && leaf && bit e 6) ||
  (leaf && decide (0 < level) && decide ((if bit e 7 then bits e 12 28 else bits e 12 45) % step ≠ 0))

/-- Whether a contiguous group is bad (R395): `es` are its entries, in order. -/
def badGroup (level : Nat) (es : List Nat) : Bool :=
  let first := es.headD 0
  let step := 512 ^ level
  decide (bits first 12 45 % (es.length * step) ≠ 0) ||
  (mapFrom (fun j e => !bit e 0 || badEntry level e || decide (bits e 0 12 ≠ bits first 0 12) ||
    decide (bits e 12 45 ≠ bits first 12 45 + j * step)) 0 es).any id

/-- What a leaf entry gives for a page (R394, R395, R397). -/
def State.leafOf (s : State) (c : Context) (va level table e : Nat) : Except (Nat × Nat) Leaf :=
  let size := pageSize level
  let n := if level = 0 then 16 else 32
  let page := if bit e 6 then n * size else size
  let i := bits va (12 + 9 * level) 9
  let grp := (List.range n).map fun j => s.readPhys (table + 8 * (i / n * n + j)) 8
  if bit e 6 && grp.any (fun x => x.isNone) then .error (5, 6)
  else if bit e 6 && badGroup level (grp.map fun x => bytesVal (x.getD [])) then .error (4, 3)
  else if bit e 7 then
    if bits e 40 17 < c.peerCount && s.feature 2 then
      .ok ⟨.peer (bits e 40 17) (bits e 12 28 * 4096 + va % size), bits e 2 3, page⟩
    else .error (4, 3)
  else if s.reserved (bits e 12 45 * 4096 / page * page) page then .error (4, 3)
  else .ok ⟨.mem (bits e 12 45 * 4096 + va % size), bits e 2 3, page⟩

/-- The walk from a level's table down (R393). -/
def State.walkFrom (s : State) (c : Context) (va : Nat) : Nat → Nat → Except (Nat × Nat) Leaf
  | 0, table =>
    let at_ := table + 8 * bits va 12 9
    if s.reserved at_ 8 then .error (4, 3)
    else
      match s.readPhys at_ 8 with
      | none => .error (5, 6)
      | some bs =>
        let e := bytesVal bs
        if !bit e 0 then .error (4, 1)
        else if badEntry 0 e then .error (4, 3)
        else s.leafOf c va 0 table e
  | k + 1, table =>
    let at_ := table + 8 * bits va (12 + 9 * (k + 1)) 9
    if s.reserved at_ 8 then .error (4, 3)
    else
      match s.readPhys at_ 8 with
      | none => .error (5, 6)
      | some bs =>
        let e := bytesVal bs
        if !bit e 0 then .error (4, 1)
        else if badEntry (k + 1) e then .error (4, 3)
        else if bit e 5 then s.leafOf c va (k + 1) table e
        else s.walkFrom c va k (bits e 12 45 * 4096)

/-- What the page tables say now of the 4 KiB page that holds an address. -/
def State.walkPage (s : State) (c : Context) (va : Nat) : Except (Nat × Nat) Leaf :=
  s.walkFrom c (va / 4096 * 4096) 4 c.root

/-- Whether a TLB entry translates a 4 KiB page of a context. -/
def TlbEntry.covers (e : TlbEntry) (ctx page : Nat) : Bool :=
  e.ctx == ctx && decide (e.page ≤ page) && decide (page < e.page + e.pages)

/-- What the TLBs hold for the 4 KiB page of an address. -/
def State.pageHeld (s : State) (c : Context) (va : Nat) : List Leaf :=
  (s.sto.tlb.filter fun e => e.covers c.num (va / 4096)).map fun e =>
    ⟨e.place.add ((va / 4096 - e.page) * 4096), e.perms, e.pages * 4096⟩

/-- Whether two leaves translate an address alike. -/
def Leaf.same (x y : Leaf) : Bool := x.place == y.place && x.perms == y.perms

/-- The translations that an access may use (R396): the tables' present one, and any other that a TLB still holds. -/
def State.pageChoices (s : State) (c : Context) (va : Nat) : List (Except (Nat × Nat) Leaf) :=
  let now := s.walkPage c va
  let held := s.pageHeld c va
  let held := match now with
    | .ok l => held.filter fun (x : Leaf) => !x.same l
    | .error _ => held
  now :: held.map .ok

/-- The translation of an address for an access: 1 read, 2 write, 3 read-modify-write, 4 fetch. The error is a
class and code (R396). -/
def State.xlate (s : State) (c : Context) (va need : Nat) : Except (Nat × Nat) Place :=
  if 2 ^ 57 ≤ va then .error (4, 4)
  else
    let cs := s.pageChoices c va
    let one := if cs.length = 1 then cs.headD (.error (4, 1)) else (cs[s.pick va cs.length]?).getD (.error (4, 1))
    match one with
    | .error x => .error x
    | .ok l => if l.perms &&& need = need then .ok (l.place.add (va % 4096)) else .error (4, 2)

/-- The TLBs hold the present translation of an address from now on, for all that its leaf maps (R395). -/
def State.noteTlb (s : State) (c : Context) (va : Nat) : State :=
  match s.walkPage c va with
  | .error _ => s
  | .ok l =>
    if (s.pageHeld c va).any l.same then s
    else
      let base := va / l.size * l.size
      match s.walkPage c base with
      | .ok b => s.updSto fun m => { m with tlb := m.tlb ++ [⟨c.num, base / 4096, l.size / 4096, b.place, b.perms⟩] }
      | .error _ => s

/-- The same for several addresses. -/
def State.noteTlbs (s : State) (c : Context) (vas : List Nat) : State :=
  (vas.map fun a => a / 4096 * 4096).eraseDups.foldl (fun s a => s.noteTlb c a) s

/-- The physical pieces of a virtual range, page by page. Peer pages do not serve the device's own accesses. -/
def State.pieces (s : State) (c : Context) (need : Nat) : Nat → Nat → Nat → Except (Nat × Nat × Nat) (List (Nat × Nat))
  | 0, _, _ => .ok []
  | fuel + 1, va, n =>
    if n = 0 then .ok []
    else
      let k := min n (4096 - va % 4096)
      match s.xlate c va need with
      | .error x => .error (x.1, x.2, va)
      | .ok (.mem pa) =>
        match s.pieces c need fuel (va + k) (n - k) with
        | .ok r => .ok ((pa, k) :: r)
        | .error x => .error x
      | .ok _ => .error (4, 3, va)

/-- Bytes at a virtual address, read by the device itself (R492). The error is a class, a code and an address. -/
def State.vread (s : State) (c : Context) (va n : Nat) : Except (Nat × Nat × Nat) (List Byte) :=
  match s.pieces c 1 (n / 4096 + 2) va n with
  | .error x => .error x
  | .ok ps =>
    if ps.any fun p => s.memBad p.1 p.2 then .error (5, 6, va)
    else .ok (ps.map fun p => s.memBytes p.1 p.2).flatten

/-! Writes. -/

/-- The status of a dump's header (R454): 0 in progress, 1 complete, 2 complete with lost granules. -/
def Dump.status (d : Dump) : Nat := if !d.complete then 0 else if d.lost = [] then 1 else 2

/-- A dump once a granule of its set has been dealt with (R453): it is copied where the area has room, and is lost otherwise. -/
def Dump.without (d : Dump) (g : Nat) : Dump :=
  let e := { d with granules := d.granules.filter (· ≠ g) }
  if d.next + 65536 ≤ d.area + d.size then { e with copies := d.copies ++ [(g, d.next)], next := d.next + 65536 }
  else { e with lost := d.lost ++ [g] }

/-- Where a dump puts the entry of its copy list for the next granule, none where the area has no room for it (R454). -/
def Dump.entryAt (d : Dump) : Option Nat :=
  let a := d.listAt + 16 * (d.copies.length + d.lost.length)
  if a + 16 ≤ d.area + d.size then some a else none

/-- The granules that a dump writes when it deals with one: those of its copy, of its entry and of its header. -/
def Dump.writesIn (d : Dump) : List Nat :=
  (if d.next + 65536 ≤ d.area + d.size then blocksOf 65536 d.next 65536 else []) ++
    (d.entryAt.elim [] fun a => blocksOf 65536 a 16) ++ [d.area / 65536]

/-- How many entries a dump's copy list has: as many as fit into the area (R454). -/
def Dump.entries (d : Dump) : Nat := min (d.copies.length + d.lost.length) ((d.area + d.size - d.listAt) / 16)

/-- A dump's header as far as it changes: its status and the number of its copy entries (R454). -/
def dumpHead (mem : List Host.Cell) (d : Dump) : List Host.Cell :=
  writeCells (writeCells mem d.area (valBytes 8 d.status)) (d.area + 40) (valBytes 8 d.entries)

/-- The entry of a dump's copy list for a granule (R454): state 1 copied, 2 lost. -/
def listCopy (mem : List Host.Cell) (d : Dump) (g copy state : Nat) : List Host.Cell :=
  match d.entryAt with
  | some a => writeCells mem a (valBytes 8 (g * 65536) ++ valBytes 8 (copy + state))
  | none => mem

/-- The contents of a granule. -/
def granuleCells (mem : List Host.Cell) (g : Nat) : List Host.Cell :=
  mem.filter fun c => decide (g * 65536 ≤ c.1) && decide (c.1 < g * 65536 + 65536)

/-- Copies a granule with these contents into the dump area, or marks it lost (R453). -/
def copyGranule (mem : List Host.Cell) (d : Dump) (g : Nat) (cells : List Host.Cell) : List Host.Cell :=
  if d.next + 65536 ≤ d.area + d.size then
    listCopy (cells.foldl (fun m c => cellSet m (d.next + (c.1 - g * 65536)) c.2) (clearCells mem d.next 65536)) d g d.next 1
  else listCopy mem d g 0 2

/-- Makes the copies of a granule that dumps under way need before a write of it, each preceded by the copies that its own writes
need (R453). `fuel` bounds how many of those follow from one another. -/
def State.dumpCopies : Nat → State → Nat → State
  | 0, s, _ => s
  | fuel + 1, s, g =>
    s.ctxs.foldl (fun s c =>
      match (s.ctx c.num).dump with
      | none => s
      | some d =>
        if d.granules.contains g then
          let s1 := { s with ctxs := s.ctxs.map fun (x : Context) => if x.num = c.num then { x with dump := some (d.without g) } else x }
          let s2 := d.writesIn.foldl (fun s h => s.dumpCopies fuel h) s1
          s2.updSto fun m => { m with
            mem := dumpHead (copyGranule m.mem d g (granuleCells s.sto.mem g)) (((s2.ctx c.num).dump).getD d) }
        else s) s

/-- The copies that every dump under way makes before a write of a granule (R453). -/
def State.dumpCopy (s : State) (g : Nat) : State :=
  s.dumpCopies (((s.ctxs.filterMap Context.dump).map fun d => d.granules.length).foldl (· + ·) 1) g

/-- Whether a line has a subscription or a dispatcher's watch (R336, R374). -/
def State.subscribed (s : State) (line : Nat) : Bool :=
  s.fly.subs.any (fun x => x.line == line) ||
  s.ctxs.any fun c => c.queues.any fun q => q.watched == some line

/-- Numbers a write on a subscribed line and notes that a push is due (R337, R341). -/
def State.number (s : State) (line : Nat) : State :=
  if s.subscribed line then
    let k := s.homeOf line
    let seq := (((s.slices[k]?).getD {}).count + 1) % 2 ^ 48
    let dirty := if s.fly.dirty.any (fun d => d.line == line)
      then s.fly.dirty.map fun d => if d.line = line then { d with seq := seq } else d
      else s.fly.dirty ++ [⟨line, seq, s.clk⟩]
    { s with slices := upd s.slices k (fun x => { x with count := seq }), fly := { s.fly with dirty := dirty } }
  else s

/-- The number of the last counted write at a line's home slice (R337). -/
def State.lineSeq (s : State) (line : Nat) : Nat := ((s.slices[s.homeOf line]?).getD {}).count

/-- Removes subscriptions. -/
def State.dropSub (s : State) (p : Sub → Bool) : State :=
  s.updFly fun f => { f with subs := f.subs.filter fun x => !p x }

/-- A store over a spill slot corrupts the entry (R327). -/
def spoilSpill (pa len : Nat) (x : TreeNode) : TreeNode :=
  match x.place with
  | .spill k at_ => if at_ < pa + len ∧ pa < at_ + 32 then { x with place := .corrupt k } else x
  | _ => x

/-- The word values of device memory that a write of bytes replaces. -/
def replaced (m : List Host.Cell) (pa : Nat) (bs : List Byte) : List (Nat × Word) :=
  let near := m.filter fun c => decide (pa ≤ c.1 + 4) && decide (c.1 < pa + bs.length + 4)
  let after := writeCells near pa bs
  (blocksOf 4 pa bs.length).filterMap fun k =>
    let old := readCells near (4 * k) 4
    if readCells after (4 * k) 4 = old then none else some (k, BitVec.ofNat 32 (bytesVal old))

/-- The values that words had, once those that the n-th write replaces are among them. -/
def pastWith (past : List (Nat × Word × Nat)) (n : Nat) (l : List (Nat × Word)) : List (Nat × Word × Nat) :=
  l.map (fun x => (x.1, x.2, n)) ++ past.filter fun y => !l.contains (y.1, y.2.1)

/-- Writes bytes of device memory, all as one write at each home (R234): dump copies first, then the bytes. A word
or line that the write covers whole is readable again (R468, R469), the tokens of its lines are back at their homes (R212), and
the write is numbered (R337). -/
def State.writePhys (s : State) (pa : Nat) (bs : List Byte) : State :=
  if s.capacity < pa + bs.length then s
  else
    let s := (blocksOf 65536 pa bs.length).foldl State.dumpCopy s
    let s := s.updSto fun m => { m with
      mem := writeCells m.mem pa bs,
      held := m.held.filter (fun x => !(blocksOf 128 pa bs.length).contains x.2),
      badMem := m.badMem.filter (fun k => !(wholeBlocks 32 pa bs.length).contains k),
      lost := m.lost.filter (fun x => !(wholeBlocks 128 pa bs.length).contains x.1),
      dead := m.dead.filter (fun x => decide (x.1 < pa) || decide (pa + bs.length ≤ x.1)),
      past := pastWith m.past m.writes (replaced m.mem pa bs),
      writes := m.writes + 1 }
    let s := s.updFly fun f => { f with nodes := f.nodes.map (spoilSpill pa bs.length) }
    (blocksOf 128 pa bs.length).foldl State.number s

/-- Writes bytes of a scratchpad (R468). -/
def State.writeSpad (s : State) (a : Nat) (bs : List Byte) : State :=
  s.updSto fun m => { m with
    spad := writeCells m.spad a bs,
    badSpad := m.badSpad.filter (fun k => !(wholeBlocks 8 a bs.length).contains k) }

/-- Writes bytes at a place of this device. -/
def State.writeAt (s : State) (p : Place) (bs : List Byte) : State :=
  match p with
  | .mem a => s.writePhys a bs
  | .spad a => s.writeSpad a bs
  | .ws _ => s
  | .peer _ _ => s

/-- Writes bytes at a virtual address, by the device itself (R492): none where a piece does not translate. -/
def State.vwrite (s : State) (c : Context) (va : Nat) (bs : List Byte) : Option State :=
  match s.pieces c 2 (bs.length / 4096 + 2) va bs.length with
  | .error _ => none
  | .ok ps => some (ps.foldl (fun r p => (r.1.writePhys p.1 (r.2.take p.2), r.2.drop p.2)) (s, bs)).1

/-! The store queues (R238) and visitor lines (R213). -/

/-- The byte that a queued store holds for a place. -/
def storeByte (at_ : Place) (bytes : List Byte) (p : Place) : Option Byte :=
  match at_, p with
  | .mem a, .mem q => if a ≤ q then bytes[q - a]? else none
  | .spad a, .spad q => if a ≤ q then bytes[q - a]? else none
  | _, _ => none

/-- Whether two ranges meet. -/
def meets (a n b m : Nat) : Bool := decide (a < b + m) && decide (b < a + n) && decide (0 < n) && decide (0 < m)

/-- Whether two ranges of places share a byte. -/
def Place.meets (p : Place) (n : Nat) (q : Place) (m : Nat) : Bool :=
  match p, q with
  | .mem a, .mem b => Sys2Proof.Machine.meets a n b m
  | .spad a, .spad b => Sys2Proof.Machine.meets a n b m
  | _, _ => false

/-- The queued stores to a range that a thread of a core sees: those that the core sees, and its own (R238). -/
def State.viewOf (s : State) (core t : Nat) (p : Place) (n : Nat) : List Nat :=
  (s.fly.ops.filter fun o =>
    match o.kind with
    | .store at_ bytes shown _ => o.core == core && (shown || o.thread == t) && at_.meets bytes.length p n
    | _ => false).map Op.id

/-- A byte as it is seen through some queued stores: the latest of them, else the byte given. -/
def State.overlay (s : State) (view : List Nat) (p : Place) (b : Byte) : Byte :=
  s.fly.ops.foldl (fun b o =>
    match o.kind with
    | .store at_ bytes _ _ => if view.contains o.id then (storeByte at_ bytes p).getD b else b
    | _ => b) b

/-- The copy of a line that a core's L1 holds as a visitor line (R213). -/
def State.visitor (s : State) (core line : Nat) : Option (List Byte) :=
  (s.sto.visitors.find? fun v => v.core == core && v.line == line).map fun v => v.bytes

/-- The visitor copy that a load of scope .core, .clu or .die is served from, if it is: a stale one may serve it or
not (R213, R233). -/
def State.servedBy (s : State) (core line : Nat) (sc : Scope) : Option (List Byte) :=
  match sc with
  | .dev => none
  | .pod => none
  | _ =>
    match s.visitor core line with
    | none => none
    | some bs => if bs = s.memBytes (line * 128) 128 then none else if s.pick line 2 = 0 then some bs else none

/-- A core's L1 holds a token of a line of its own die from now on; it holds 2,048 lines (R212, R5). -/
def State.noteToken (s : State) (core line : Nat) : State :=
  if s.homeOf line / 48 = dieOfCore core then
    let others := s.sto.held.filter fun x => x != (core, line)
    let mine := others.filter fun x => x.1 == core
    s.updSto fun m => { m with held := (others.filter fun x => decide (mine.length < 2048) || mine.head? != some x) ++ [(core, line)] }
  else s

/-- Whether an access of a core to a line hits its L1. -/
def State.hits (s : State) (core line : Nat) : Bool :=
  s.sto.held.contains (core, line) || s.sto.visitors.any fun v => v.core == core && v.line == line

/-- After a load: a line homed on another die is held as a visitor line (R213) when the scope is .core, .clu or .die; a
load at .dev or .pod leaves no older copy behind, so that the thread's reads agree with coherence (R234). -/
def State.noteVisitor (s : State) (core line : Nat) (sc : Scope) : State :=
  let drop := s.updSto fun m => { m with visitors := m.visitors.filter fun v => !(v.core == core && v.line == line) }
  match sc with
  | .dev => drop
  | .pod => drop
  | _ =>
    if (s.servedBy core line sc).isSome then s
    else
      let others := s.sto.visitors.filter fun v => !(v.core == core && v.line == line)
      if s.homeOf line / 48 = dieOfCore core then s
      else s.updSto fun m => { m with visitors := others ++ [⟨core, line, s.memBytes (line * 128) 128⟩] }

/-- An acquire of scope .clu or wider discards the visitor lines of the core's L1 (R240). -/
def State.acquire (s : State) (core : Nat) (sc : Scope) : State :=
  match sc with
  | .core => s
  | _ => s.updSto fun m => { m with visitors := m.visitors.filter fun v => v.core ≠ core }

/-- The bytes at a place of this device as they are seen through some queued stores, or none where they are
uncorrectable. -/
def State.seenWith (s : State) (view : List Nat) (core : Nat) (p : Place) (n : Nat) (sc : Scope) : Option (List Byte) :=
  match p with
  | .mem pa =>
    if s.memBad pa n then none
    else
      let base := match s.servedBy core (pa / 128) sc with
        | some line => (line.drop (pa % 128)).take n
        | none => s.memBytes pa n
      some (mapFrom (fun i b => s.overlay view (.mem (pa + i)) b) 0 base)
  | .spad a =>
    if s.spadBad a n then none
    else some (mapFrom (fun i b => s.overlay view (.spad (a + i)) b) 0 (readCells s.sto.spad a n))
  | .ws a => if s.wsBad a n then none else some (readCells s.sto.ws a n)
  | .peer _ _ => none

/-- The bytes that a thread reads at a place of this device now. -/
def State.seen (s : State) (core t : Nat) (p : Place) (n : Nat) (sc : Scope) : Option (List Byte) :=
  s.seenWith (s.viewOf core t p n) core p n sc

/-- A store updates the core's own copy of a visitor line (R213). -/
def State.patchVisitor (s : State) (core pa : Nat) (bs : List Byte) : State :=
  s.updSto fun m => { m with visitors := m.visitors.map fun v =>
    if v.core = core then
      { v with bytes := mapFrom (fun i b =>
          let a := v.line * 128 + i
          if pa ≤ a then (bs[a - pa]?).getD b else b) 0 v.bytes }
    else v }

/-! The checking mode (R254). -/

/-- Whether an address lies in a software-managed range of a launch in the checking mode. -/
def managed (r : LaunchRec) (va : Nat) : Bool :=
  r.check && r.ranges.any fun x => x.sw && decide (x.base ≤ va / 128 * 128 + 127) && decide (va / 128 * 128 < x.base + x.len)

/-- Whether the dispatcher keeps a shadow record of a line that a team accesses: its launch declares it so, or another did and
it was written since. A read or write of the line counts whichever launch makes it: DEDUCED (log 51). -/
def State.tracked (s : State) (m va pa : Nat) : Bool :=
  managed (s.launch (s.team m).launch).record va || s.sto.shadow.any fun x => x.line == pa / 128

/-- A write of a managed line by a team sets its shadow record. -/
def State.shadowWrite (s : State) (m va pa : Nat) : State :=
  let l := (s.team m).launch
  if s.tracked m va pa then
    s.updSto fun st =>
      { st with shadow := st.shadow.filter (fun x => x.line ≠ pa / 128) ++ [⟨pa / 128, l, m, false⟩] }
  else s

/-- A release of scope .dev or wider by a team flushes the lines it wrote. -/
def State.shadowRelease (s : State) (m : Nat) (sc : Scope) : State :=
  match sc with
  | .dev | .pod => s.updSto fun st => { st with shadow := st.shadow.map fun x =>
      if x.team = m then { x with flushed := true } else x }
  | _ => s

/-- The recorded writer that a read of a line by a team finds unflushed, if any. -/
def State.unflushed (s : State) (m pa : Nat) : Option Shadow :=
  s.sto.shadow.find? fun x => x.line == pa / 128 && !x.flushed && decide (x.team ≠ m)

end Sys2Proof.Machine
end

