-- ==== Sys2Proof/Machine/Records.lean ====
section
/-!
DEFINITION. What the device itself writes for software to find: fault records (R398), the fault queue (R402), MSI-X
messages (R437), stamps (R222, R379), and trace packets (R444 to R448).
-/

namespace Sys2Proof.Machine

/-! MSI-X (R434, R437). -/

/-- Sends a message on a vector, or sets its pending bit where the vector is masked. -/
def State.sendMsi (s : State) (vec : Nat) : State :=
  let at_ := vec % 2048 * 16
  if bit (bytesVal (readCells s.msix (at_ + 12) 4)) 0 then
    { s with msixPending := if s.msixPending.contains vec then s.msixPending else s.msixPending ++ [vec] }
  else { s with msi := s.msi ++ [(vec, bytesVal (readCells s.msix at_ 8), bytesVal (readCells s.msix (at_ + 8) 4))] }

/-! Faults (R398, R399). -/

/-- A precise fault of a word in one thread: class and code, the address of the failed access with its ACCESS byte,
AUX, the address that PC names where it is not the word's own (R293, R398), and the resume point where it is not the
word itself (R157). -/
structure Trap where
  cls : Nat
  code : Nat
  addr : Dword := 0
  access : Nat := 0
  aux : Dword := 0
  pc : Option Dword := none
  resume : Option Dword := none
  deriving DecidableEq, Repr

/-- The failure that an operation holds when it ends as a trap would. -/
def Trap.failure (f : Trap) (pc : Dword) : Failure := ⟨f.cls, f.code, f.addr, f.access, pc⟩

/-- The fault of a read of a register that a failure left failed (R182, R398). -/
def Failure.readTrap (f : Failure) : Trap :=
  { cls := f.cls, code := f.code, addr := f.addr, access := f.access, aux := f.pc ||| 0x8000000000000000 }

/-! Fault records (R398). -/

/-- What a fault record says. -/
structure FaultInfo where
  pc : Dword := 0
  addr : Dword := 0
  resume : Dword := 0
  thread : Nat := 0
  group : Nat := 0
  context : Nat := 0
  cls : Nat := 0
  access : Nat := 0
  team : Nat := 0
  code : Nat := 0
  rep : Nat := 0
  region : List (BitVec 16) := []
  time : Nat := 0
  aux : Dword := 0
  deriving DecidableEq, Repr

/-- The top three region-stack entries, 0xFFFF below the bottom (R158, R398). -/
def topRegions (l : List (BitVec 16)) : List (BitVec 16) := (l ++ List.replicate 3 0xFFFF).take 3

/-- The 64 bytes of a fault record (R398). -/
def FaultInfo.bytes (f : FaultInfo) : List Byte :=
  valBytes 8 f.pc.toNat ++ valBytes 8 f.addr.toNat ++ valBytes 8 f.resume.toNat ++ valBytes 4 f.thread ++
  valBytes 1 f.group ++ valBytes 1 f.context ++ valBytes 1 f.cls ++ valBytes 1 f.access ++
  valBytes 4 f.team ++ valBytes 2 f.code ++ valBytes 1 f.rep ++ [0] ++
  ((topRegions f.region).map fun r => valBytes 2 r.toNat).flatten ++ zeros 2 ++
  valBytes 8 f.time ++ valBytes 8 f.aux.toNat

/-- The sixteen words of a fault record (R409). -/
def FaultInfo.words (f : FaultInfo) : List Word := bytesWords f.bytes

/-- Writes an asynchronous record to a context's fault queue (R402): the entry, then TAIL; a full ring drops the
record and counts it; a ring or control word that cannot be written loses it (R492). -/
def State.fqWrite (s : State) (c : Context) (f : FaultInfo) : State :=
  match s.vread c c.fqCtl.toNat 24 with
  | .error _ => s
  | .ok ctl =>
    let tail := bytesVal (ctl.take 8)
    let head := bytesVal ((ctl.drop 8).take 8)
    if (tail + 2 ^ 64 - head) % 2 ^ 64 = 2 ^ c.fqLog2n then
      let dropped := bytesVal (ctl.drop 16)
      (s.vwrite c (c.fqCtl.toNat + 16) (valBytes 8 (dropped + 1))).getD s
    else
      match s.vwrite c (c.fqRing.toNat + 64 * (tail % 2 ^ c.fqLog2n)) f.bytes with
      | none => s
      | some s =>
        match s.vwrite c c.fqCtl.toNat (valBytes 8 (tail + 1)) with
        | none => s
        | some s => if c.fqIrq then s.sendMsi c.fqVec else s

/-- A record of CLASS 12 (R398, R399). -/
def State.fq12 (s : State) (ctx code : Nat) (addr aux : Nat) : State :=
  s.fqWrite (s.ctx ctx)
    { cls := 12, code := code, addr := BitVec.ofNat 64 addr, aux := BitVec.ofNat 64 aux, context := ctx, time := s.clk }

/-- What a record says of a thread. -/
def State.infoOf (s : State) (t : Nat) : FaultInfo :=
  let x := s.thr t
  let g := s.grp x.group
  { thread := x.idx, group := g.idx, context := (s.launchOf t).ctx, team := (s.team g.team).idx,
    region := x.regions, rep := x.repcount, resume := x.resume, time := s.clk }

/-- A register that waits for an operation takes what the operation brings (R182, R183). -/
def Reg.land (r : Reg) (id : Nat) (x : Reg) : Reg := if r = .empty id then x else r

/-- What an operation brings lands in those registers from the n-th on that still wait for it. -/
def landList (rs : List Reg) (n id : Nat) (xs : List Reg) : List Reg :=
  mapFrom (fun i r =>
    if i < n then r
    else
      match xs[i - n]? with
      | some x => r.land id x
      | none => r) 0 rs

/-- What an operation brings lands in registers of a thread or in scalar ones of its group (R163, R182). -/
def State.landRegs (s : State) (t id : Nat) (d : Opnd) (xs : List Reg) : State :=
  match d with
  | .v n => s.updThr t fun x => { x with v := landList x.v n id xs }
  | .s n => s.updGrp (s.thr t).group fun g => { g with s := landList g.s n id xs }
  | _ => s

/-- CLASS × 256 + CODE of a failure, as records give it: the codes of CLASS 10 are those of an engine failure, spill exhaustion and an
unknown outcome as they stand (R398, R414). -/
def Failure.both (f : Failure) : Nat := if f.cls = 10 then f.code else f.cls * 256 + f.code

/-- An error of a thread that can no longer take it goes to the fault queue (R181, R412): CLASS 12 code 8. -/
def State.lostError (s : State) (t : Nat) (h : HeldError) : State :=
  let ctr := match h.ctr with | .st => 0 | .mx => 1 | .gx => 2 | .ct => 3
  s.fqWrite (s.ctxOf t) { s.infoOf t with
    cls := 12, code := 8, pc := h.fail.pc, addr := h.fail.addr, access := h.fail.access,
    aux := BitVec.ofNat 64 (ctr + 256 * h.fail.both) }

/-! Stamps. -/

/-- The eight bytes of a stamp (R222, R379): status and sequence. -/
def stampBytes (status seq : Nat) : List Byte := valBytes 8 (status % 4 * 2 ^ 62 + seq % 2 ^ 62)

/-- Writes a stamp at a virtual address of a context, or records that it could not be written (R492): kind 1 a
completion stamp, 2 a tree stamp, 3 an energy image. -/
def State.writeStamp (s : State) (c : Context) (va kind : Nat) (bs : List Byte) : State :=
  match s.vwrite c va bs with
  | some s => s
  | none => s.fq12 c.num 10 va kind

/-! Energy (R449, R450, R452). -/

/-- All that a context's counter and the cores' partial sums hold, in units of 16 pJ × 2^−15. -/
def Context.total (c : Context) : Nat := (c.partials.map Prod.snd).foldl (· + ·) c.energy

/-- Charges units of 16 pJ × 2^−15 to a context on a core (R449): a charge that would pass the top leaves the counter there
and sets SAT, and nothing changes a saturated counter. -/
def Context.charge (c : Context) (core n : Nat) : Context :=
  if c.sat then c
  else if 2 ^ 63 ≤ c.total + n then { c with energy := 2 ^ 63 - 1, sat := true, partials := [] }
  else { c with partials := put c.partials core ((look c.partials core).getD 0 + n) }

/-- Charges units of 16 pJ to a context on a core. -/
def State.charge (s : State) (ctx core units : Nat) : State := s.updCtx ctx fun c => c.charge core (units * 32768)

/-- The image of an energy counter (R449): FRAC, SAT and COUNT. -/
def energyBits (e : Nat) (sat : Bool) : Nat := e / 32768 % 2 ^ 48 + b2n sat * 2 ^ 48 + e % 32768 * 2 ^ 49

/-- What a read of a context's counter gives: every charge. -/
def Context.energyImage (c : Context) : Nat := energyBits c.total c.sat

/-- The partial sums of cores are added into the counter (R452, R459). -/
def Context.addPartials (c : Context) (p : Nat → Bool) : Context :=
  { c with energy := ((c.partials.filter fun x => p x.1).map Prod.snd).foldl (· + ·) c.energy,
           partials := c.partials.filter fun x => !p x.1 }

/-- The counter that an image holds (R449); what cores still hold stays theirs (R452, R459). -/
def Context.withImage (c : Context) (w : Nat) : Context :=
  c.partials.foldl (fun c x => c.charge x.1 x.2)
    { c with energy := bits w 0 48 * 32768 + bits w 49 15, sat := bit w 48, partials := [] }

/-- The partial sums of cores that satisfy `p` are added into a context's counter, and the image of that is written at
SAVEAREA + 8 (R452, R459). -/
def State.writeEnergy (s : State) (ctx : Nat) (p : Nat → Bool) : State :=
  let s1 := s.updCtx ctx fun c => c.addPartials p
  let x := s1.ctx ctx
  s1.writeStamp x (x.saveArea.toNat + 8) 3 (valBytes 8 (energyBits x.energy x.sat))

/-- A context whose teams hold no slots has one placed: its counter is loaded from the image (R459). An image that cannot be
read leaves the counter as it is (log 32). -/
def State.loadEnergy (s : State) (ctx : Nat) : State :=
  let x := s.ctx ctx
  if s.teams.any fun (t : Team) => t.holds && (s.launch t.launch).ctx == ctx then s
  else
    match s.vread x (x.saveArea.toNat + 8) 8 with
    | .ok bs => s.updCtx ctx fun c => c.withImage (bytesVal bs)
    | .error _ => s

/-- Whether a context has a team on a core. -/
def State.residesOn (s : State) (ctx core : Nat) : Bool :=
  s.teams.any fun (t : Team) => t.holds && t.cores.contains core && (s.launch t.launch).ctx == ctx

/-- A team that held slots holds them no longer: where it was its context's last on one of its cores, the partial sums of the cores
that the context has left are added and the image is written (R459). -/
def State.leaveCores (s : State) (m : Nat) : State :=
  let x := s.team m
  let c := (s.launch x.launch).ctx
  if x.cores.all (s.residesOn c) then s else s.writeEnergy c fun k => !s.residesOn c k

/-- The charge of a line served at a level, as SAMPLE packets code levels (R448, R450). -/
def lineUnits : Nat → Nat
  | 0 => 6
  | 1 => 4
  | 2 => 12
  | 3 => 32
  | 4 => 48
  | 5 => 160
  | 6 => 20
  | _ => 64

/-- The charge of a line moved in a space: 1 scratchpad, 2 weight store, 3 global memory, 4 a peer window. The level that
served a global line, and the hops to a peer, are free choices. -/
def State.lineCharge (s : State) (space line : Nat) : Nat :=
  match space with
  | 1 => lineUnits 0
  | 2 => lineUnits 6
  | 3 => ([4, 12, 32, 48, 160, 176][Config.levelOf s.fresh line % 6]?).getD 4
  | _ => 64 * (1 + Config.levelOf s.fresh line % 2)

/-- Charges the lines that an access moved, each once (R450). -/
def State.chargeLines (s : State) (ctx core : Nat) (ls : List (Nat × Nat)) : State :=
  if ls = [] then s
  else s.charge ctx core ((ls.eraseDups.map fun x => s.lineCharge x.1 x.2).foldl (· + ·) 0)

/-! The trace ring (R444, R445). -/

/-- Whether the trace writes a page now: a page is free. -/
def State.pageFree (s : State) (d : Debug) : Bool :=
  decide (d.written + 4096 - bytesVal (s.memBytes (d.ptrs + 8) 8) ≤ 4096 * d.pages)

/-- The PSYNC packet (R445). -/
def psync (eclass seq clk : Nat) : List Byte := [1] ++ valBytes 1 eclass ++ zeros 2 ++ valBytes 4 seq ++ valBytes 8 clk

/-- Writes bytes at the trace's position. -/
def State.traceBytes (s : State) (d : Debug) (bs : List Byte) : State :=
  s.writePhys (d.ring + (d.written + d.pos) % (4096 * d.pages)) bs

/-- Sets a context's debug descriptor. -/
def State.setDebug (s : State) (ctx : Nat) (d : Debug) : State := s.updCtx ctx fun c => { c with debug := some d }

/-- Ends the current page with PAD and advances WRITTEN (R444). -/
def State.closePage (s : State) (ctx : Nat) (d : Debug) : State × Debug :=
  if d.open_ then
    let s := s.traceBytes d (zeros (4096 - d.pos))
    let d := { d with
      written := d.written + 4096, pos := 0, open_ := false, units := [], seq := (d.seq + 1) % 2 ^ 32 }
    let s := s.writePhys d.ptrs (valBytes 8 d.written)
    (s.setDebug ctx d, d)
  else (s, d)

/-- Makes room for a packet of `n` bytes: a page that has it, opened with PSYNC and, after drops, LOST (R444). The
answer says whether there is room. -/
def State.traceRoom (s : State) (ctx : Nat) (d : Debug) (n eclass : Nat) : State × Debug × Bool :=
  let r := if d.open_ && decide (4096 < d.pos + n) then s.closePage ctx d else (s, d)
  let s := r.1
  let d := r.2
  if d.open_ then (s, d, true)
  else if s.pageFree d then
    let s := s.traceBytes d (psync eclass d.seq s.clk)
    let d := { d with open_ := true, pos := 16, units := [] }
    if d.lost = 0 then (s.setDebug ctx d, d, true)
    else
      let s := s.traceBytes d ([0x0A] ++ zeros 7 ++ valBytes 8 d.lost)
      let d := { d with pos := 32, lost := 0 }
      (s.setDebug ctx d, d, true)
  else (s, d, false)

/-- The lowest slot of a datapath that none of its units has. -/
def State.freeSlot (s : State) (core dp : Nat) : Nat :=
  ((List.range (s.units.length + 1)).find? fun k =>
    !(s.units.any fun x => x.live && x.core == core && x.dp == dp && x.slot == k)).getD 0

/-- New issue units, each in the lowest free slot of its datapath: DESIGN CHOICE, as R187 and R445 give slots and no rule of
assignment (log 48). -/
def State.enroll (s : State) (us : List IssueUnit) : State :=
  us.foldl (fun s u => { s with units := s.units ++ [{ u with slot := s.freeSlot u.core u.dp }] }) s

/-- The 32-bit identifier of a unit (R445). -/
def State.unitId (s : State) (u : Nat) : Nat :=
  let x := s.unitAt u
  x.dp + x.slot % 2048 * 4 + x.core % 6 * 2 ^ 13 + x.core / 6 % 6 * 2 ^ 16 + x.core / 36 * 2 ^ 19

/-- The mask of a unit's lanes. -/
def IssueUnit.mask (x : IssueUnit) : Nat := x.lanes.foldl (fun m p => m ||| 2 ^ p.1) 0

/-- The USYNC packet of a unit (R445). -/
def State.usync (s : State) (u : Nat) : List Byte :=
  let x := s.unitAt u
  let low := s.thr ((x.lanes.head?).getD (0, s.threads.length)).2
  [2] ++ valBytes 1 x.fold ++ zeros 2 ++ valBytes 4 (s.unitId u) ++ valBytes 8 (x.hdr.toNat + 4 * x.idx) ++
  valBytes 8 x.mask ++ ((topRegions low.regions).map fun r => valBytes 2 r.toNat).flatten ++
  valBytes 1 (s.grp x.group).idx ++ [0]

/-- The units of a packet that have no packet yet in the trace's page (R445). -/
def Debug.fresh (d : Debug) (u : Option Nat) : List Nat := u.toList.filter fun k => !d.units.contains k

/-- Writes a packet, of a unit or of none, into a context's trace, with the unit's USYNC first where its page has none yet;
with no room the packet is dropped and counted (R444 to R446). -/
def State.trace (s : State) (ctx : Nat) (u : Option Nat) (eclass : Nat) (packet : List Byte) : State :=
  match (s.ctx ctx).debug with
  | none => s
  | some d =>
    match s.traceRoom ctx d (packet.length + 32 * (d.fresh u).length) eclass with
    | (s, d, false) => s.setDebug ctx { d with lost := d.lost + packet.length }
    | (s, d, true) =>
      let bs := ((d.fresh u).map s.usync).flatten ++ packet
      let s := s.traceBytes d bs
      let d := { d with pos := d.pos + bs.length, units := d.units ++ d.fresh u, last := s.wall }
      let s := s.setDebug ctx d
      if d.pos = 4096 then (s.closePage ctx d).1 else s

end Sys2Proof.Machine
end

