-- ==== Sys2Proof/Machine/Debug.lean ====
section
/-!
DEFINITION. What a debugger sees of units: CLAUSE packets (R445, R446), samples and watched stores (R447, R448), and
stops (R441, R442), with the pausing of a stopped team's pair windows.
-/

namespace Sys2Proof.Machine

/-- The launch that a unit belongs to. -/
def State.launchOfUnit (s : State) (u : Nat) : Launch := s.launch (s.team (s.grp (s.unitAt u).group).team).launch

/-- Writes a packet of a unit into its context's trace. -/
def State.unitTrace (s : State) (u : Nat) (packet : List Byte) : State :=
  let l := s.launchOfUnit u
  (s.trace l.ctx (some u) l.record.eclass packet).updUnit u fun x => { x with packet := s.clk }

/-- The CLAUSE packet of the clause that the unit at issue ends, `n` of its words issued, with TARGET after an indirect
transfer (R445, R446). -/
def State.clauseTrace (s : State) (ending n : Nat) (target : Dword) : State :=
  match (s.ctx (s.launchOfUnit s.cur).ctx).debug with
  | none => s
  | some d =>
    if d.itrace && s.unit.live then
      let dt := if d.units.contains s.cur then min 65535 (s.clk - s.unit.packet) else 0
      let s := s.unitTrace s.cur
        ([3] ++ valBytes 1 (min 15 n + 16 * ending) ++ valBytes 2 dt ++ valBytes 4 (s.unitId s.cur))
      if ending = 2 then
        s.unitTrace s.cur ([4] ++ zeros 3 ++ valBytes 4 (s.unitId s.cur) ++ valBytes 8 target.toNat)
      else s
    else s

/-- A unit of the trace is to open with a USYNC again (R446). -/
def State.untraced (s : State) (u : Nat) : State :=
  s.updCtx (s.launchOfUnit u).ctx fun c => { c with debug := (c.debug).map fun d => { d with units := d.units.filter (· ≠ u) } }

/-! Samples (R448). -/

/-- The level that served an access of a space (1 scratchpad, 2 weight store, 3 global memory, 4 a peer window), as SAMPLE packets
code it; which one served a global access is a free choice (R448). -/
def levelCode (space batch : Nat) : Nat :=
  match space with
  | 1 => 0
  | 2 => 6
  | 3 => 1 + Config.levelOf 1 batch % 5
  | _ => 7

/-- Counts a memory access of the unit at issue and marks every 2^SLOG2-th of its core for a packet: `batch` names it,
`lanes` took part, `sectors` were touched, and it is to a space. The lane whose data returned last is one of those that took
part. -/
def State.sample (s : State) (batch space : Nat) (lanes : List (Nat × Nat)) (sectors : Nat) : State :=
  let l := s.launchOfUnit s.cur
  match (s.ctx l.ctx).debug with
  | none => s
  | some d =>
    if d.sample then
      let n := (look d.samples s.unit.core).getD 0 + 1
      let d := { d with samples := put d.samples s.unit.core n }
      let low := s.thr ((lanes.head?).getD (0, s.threads.length)).2
      let x : Sampled :=
        { batch := batch, unit := s.cur, eclass := l.record.eclass, clk := s.clk,
          head := [8] ++ valBytes 1 lanes.length ++ valBytes 1 sectors ++ valBytes 1 (Config.measured 3 batch) ++
            valBytes 4 (s.unitId s.cur) ++ valBytes 8 (s.unit.hdr.toNat + 4 * s.unit.idx) ++
            valBytes 8 (Config.measured 4 batch) ++
            valBytes 1 (((lanes[Config.measured 5 batch % lanes.length]?).map Prod.fst).getD 0) ++
            valBytes 1 (levelCode space batch),
          tail := zeros 4 ++ ((topRegions low.regions).map fun r => valBytes 2 r.toNat).flatten ++ zeros 2 ++
            valBytes 8 s.clk }
      s.setDebug l.ctx (if n % 2 ^ d.slog2 = 0 then { d with pending := d.pending ++ [x] } else d)
    else s

/-- A sampled access has completed when no operation of its batch is left: its packet is written. -/
def State.sampled (s : State) (batch : Nat) : State :=
  if s.fly.ops.any fun o => o.batch == batch then s
  else
    s.ctxs.foldl (fun (s : State) (c : Context) =>
      match c.debug with
      | none => s
      | some d =>
        match d.pending.find? fun x => x.batch == batch with
        | none => s
        | some x =>
          let s := s.setDebug c.num { d with pending := d.pending.filter fun y => y.batch ≠ batch }
          s.trace c.num (some x.unit) x.eclass (x.head ++ valBytes 2 (min 65535 (s.clk - x.clk)) ++ x.tail)) s

/-! Watched stores (R447). -/

/-- Logs an element that a store or atomic of a thread wrote: its context address, size, old and new bytes and the
issuing word. -/
def State.watched (s : State) (t : Nat) (pc : Dword) (va : Nat) (old new : List Byte) : State :=
  let c := s.ctxOf t
  match c.debug with
  | none => s
  | some d =>
    let meets := d.watch.any fun r => decide (va < r.1 + r.2) && decide (r.1 < va + new.length)
    if d.dtrace && meets then
      let x := s.thr t
      let g := s.grp x.group
      s.trace c.num none (s.launchOf t).record.eclass
        ([7] ++ valBytes 1 new.length ++ valBytes 1 g.idx ++ [0] ++ valBytes 4 (s.team g.team).idx ++ valBytes 4 x.idx ++
          zeros 4 ++ valBytes 8 va ++ valBytes 8 (bytesVal old) ++ valBytes 8 (bytesVal new) ++ valBytes 8 pc.toNat)
    else s

/-! Stops (R441, R442). -/

/-- Whether a team's pair windows and fairness timers stand still: from the first pre-emption trap of its threads on, while it is
parked, and while it has a stopped thread (R189, R299, R403, R441). -/
def State.paused (s : State) (m : Nat) : Bool :=
  let t := s.team m
  (t.life == .saving && t.trapped.isSome) || t.life == .parked ||
  (s.threads.any fun (x : Thread) => x.stopped && x.life == .live && (s.grp x.group).team == m)

/-- Changes the state and keeps the pair windows and waiting times of a team right when it is paused or goes on by that: what they
have run is kept, and they run on from the change (R299, R441). -/
def State.pausing (s : State) (m : Nat) (f : State → State) : State :=
  let before := s.paused m
  let s := f s
  if before = s.paused m then s
  else
    let at_ := (s.team m).pausedAt
    let wait := fun (t : Thread) => if before then t.since + (s.clk - max t.since at_) else t.since
    ({ s with
      groups := s.groups.map fun (g : Group) =>
        if g.team = m then
          { g with convs := g.convs.map fun (c : Conv) =>
            { c with ran := if before then c.ran else s.windowAge c, window := c.window.map fun _ => s.clk } }
        else g,
      threads := s.threads.map fun (t : Thread) => if (s.grp t.group).team = m then { t with since := wait t } else t } : State)
      |>.updTeam m fun t => { t with pausedAt := s.clk }

/-- Asks the units of the groups that satisfy `p` to stop at their next stop points; threads in folds do so once they have formed a
unit. A thread whose team is being saved or is parked stops where it resumes (R441). -/
def State.stopOthers (s : State) (p : Nat → Bool) : State :=
  let away := fun (g : Nat) => let m := s.team (s.grp g).team; m.life == .saving || m.life == .parked
  let filed := (s.folds.filter fun f => p f.group).flatMap Fold.threads
  { s with
    units := s.units.map fun (u : IssueUnit) =>
      if u.live && !u.stopped && u.stopAsk.isNone && p u.group && !away u.group then { u with stopAsk := some 3 } else u,
    threads := mapFrom (fun k (t : Thread) =>
      if p t.group && away t.group && t.life != .exited then { t with stopped := true }
      else if filed.contains k then { t with ask := t.ask.or (some (3, 0)) }
      else t) 0 s.threads }

/-- The unit at issue is to stop by its own event, with a cause and a BKPT code, and the other units of its STOPSCOPE
with it (R441). Of two BKPTs before one stop point the code of the last is reported, and a region break does not take the place of
a BKPT: DESIGN CHOICE, as R159 and R442 give one code and one cause (log 52). -/
def State.ownStop (s : State) (cause code : Nat) : State :=
  let g := s.unit.group
  let m := (s.grp g).team
  let l := (s.team m).launch
  match (s.ctx (s.launch l).ctx).debug with
  | none => s
  | some d =>
    let s := s.updUnit s.cur fun u =>
      if u.stopAsk = some 1 ∧ cause ≠ 1 then u else { u with stopAsk := some cause, bkptCode := code }
    match d.scope with
    | 0 => s
    | 1 => s.stopOthers fun x => x == g
    | 2 => s.stopOthers fun x => (s.grp x).team == m
    | _ => s.stopOthers fun x => (s.team (s.grp x).team).launch == l

/-- Whether region breakpoints stop a unit of this context at an identifier (R441). -/
def Context.breaksAt (c : Context) (id : Nat) : Bool :=
  match c.debug with
  | none => false
  | some d => d.regbrk && d.regids.contains id && decide (id ≠ 0xFFFF)

/-- Whether a unit stands at a stop point (R441): a clause header, or the word behind an ENTER or LEAVE. -/
def IssueUnit.atStop (u : IssueUnit) : Bool :=
  if u.words = [] then decide (u.idx = 0)
  else
    decide (2 ≤ u.idx) &&
      (let op := bits ((u.words[u.idx - 1]?).getD 0).toNat 25 7
       op == 0x67 || op == 0x68)

/-- The STOP packet of a unit (R442, R445). Its ctr.mx reads 1 or more until the thread's `WAITC mx, 0` (R443). -/
def State.stopPacket (s : State) (u cause : Nat) : List Byte :=
  let x := s.unitAt u
  let g := s.grp x.group
  let low := s.thr ((x.lanes.head?).getD (0, s.threads.length)).2
  [9] ++ valBytes 1 cause ++ valBytes 2 (if cause = 1 then x.bkptCode else 0) ++ valBytes 4 (s.unitId u) ++
    valBytes 4 (s.team g.team).idx ++ valBytes 1 g.idx ++ zeros 3 ++ valBytes 8 (x.hdr.toNat + 4 * x.idx) ++
    valBytes 8 x.mask ++ valBytes 1 low.st ++ valBytes 1 (max low.mx (b2n low.tiled)) ++ valBytes 1 low.gx ++ valBytes 1 low.ct ++
    ((topRegions low.regions).map fun r => valBytes 2 r.toNat).flatten ++ zeros 6

/-- A unit stops: its STOP packet is written, with an interrupt when DIRQ asks for one, and its threads are held with
sr.resume at the stop point. A handler's or save routine's sr.resume stays, since its ERET needs it (log 14). -/
def State.stopNow (s : State) (u cause : Nat) : State :=
  let x := s.unitAt u
  let l := s.launchOfUnit u
  let lost := fun (s : State) => (((s.ctx l.ctx).debug).map Debug.lost).getD 0
  let s1 := s.unitTrace u (s.stopPacket u cause)
  let s2 := match (s1.ctx l.ctx).debug with
    | some d => if d.irq && decide (lost s1 ≤ lost s) then s1.sendMsi d.vec else s1
    | none => s1
  s2.pausing (s.grp x.group).team fun s =>
    (s.updUnit u fun x => { x with stopped := true, stopAsk := none, blocked := false }) |> fun s =>
      { s with threads := mapFrom (fun t (y : Thread) =>
          if x.lanes.any fun p => p.2 == t then
            { y with stopped := true, resume := if y.hmode = 0 then
                x.hdr ||| BitVec.ofNat 64 (x.idx % 16 * 2 ^ 57) else y.resume }
          else y) 0 s.threads }

end Sys2Proof.Machine
end

