-- ==== Sys2Proof/Machine/Flags.lean ====
section
/-!
DEFINITION. Arithmetic on values, without state: the floating-point formats (R16 to R24), rounding, flushing,
special values and narrowing (R40 to R51), the canonical tree (R52 to R55), the leaf chunk (R57 to R59), softmax
states (R61, R62), and the flag computations, which on this machine are the sticky bits NV and SU of sr.mode and
the predicates that comparisons write.
-/

namespace Sys2Proof.Machine

/-! Formats. -/

/-- A floating-point format (R17, R18): exponent and fraction bits, bias, infinities, and its NaN codes (0 none,
1 the code with all bits below the sign set, 2 as IEEE 754). -/
structure FloatFmt where
  eb : Nat
  fb : Nat
  bias : Nat
  inf : Bool
  nan : Nat
  deriving DecidableEq, Repr

/-- The formats of R18. -/
def fp64 : FloatFmt := ⟨11, 52, 1023, true, 2⟩
/-- FP32 (R18). -/
def fp32 : FloatFmt := ⟨8, 23, 127, true, 2⟩
/-- FP16 (R18). -/
def fp16 : FloatFmt := ⟨5, 10, 15, true, 2⟩
/-- BF16 (R18). -/
def bf16 : FloatFmt := ⟨8, 7, 127, true, 2⟩
/-- E5M2 (R18). -/
def e5m2 : FloatFmt := ⟨5, 2, 15, true, 2⟩
/-- E4M3 (R18). -/
def e4m3 : FloatFmt := ⟨4, 3, 7, false, 1⟩
/-- E3M2 (R18). -/
def e3m2 : FloatFmt := ⟨3, 2, 3, false, 0⟩
/-- E2M3 (R18). -/
def e2m3 : FloatFmt := ⟨2, 3, 1, false, 0⟩
/-- E2M1 (R18). -/
def e2m1 : FloatFmt := ⟨2, 1, 1, false, 0⟩

/-- The bits of a code. -/
def FloatFmt.width (F : FloatFmt) : Nat := 1 + F.eb + F.fb

/-- The largest finite code without its sign (R19). -/
def FloatFmt.maxCode (F : FloatFmt) : Nat :=
  match F.nan with
  | 0 => 2 ^ (F.eb + F.fb) - 1
  | 1 => 2 ^ (F.eb + F.fb) - 2
  | _ => (2 ^ F.eb - 1) * 2 ^ F.fb - 1

/-- The flush classes of R16, as the index of their bits in sr.mode (R42): 0 the 8-bit and narrower class, 1 the
16-bit class, 2 FP32, 3 FP64. -/
def Fmt.cls : Fmt → Nat
  | .f64 => 3
  | .f32 => 2
  | .f16 => 1
  | .bf16 => 1
  | _ => 0

/-- The floating-point format of a suffix; E8M0 and the integer formats have none and stand as FP32 here. -/
def Fmt.float : Fmt → FloatFmt
  | .f64 => fp64
  | .f16 => fp16
  | .bf16 => bf16
  | .e4m3 => e4m3
  | .e5m2 => e5m2
  | .e3m2 => e3m2
  | .e2m3 => e2m3
  | .e2m1 => e2m1
  | _ => fp32

/-- The suffix of a CVTI format. -/
def FFmt.fmt : FFmt → Fmt
  | .f32 => .f32
  | .f64 => .f64
  | .f16 => .f16
  | .bf16 => .bf16

/-- The input flush bit of a class in sr.mode (R42). -/
def flushIn (mode : Word) (cls : Nat) : Bool := mode.getLsbD cls

/-- The result flush bit of a class in sr.mode (R42). -/
def flushOut (mode : Word) (cls : Nat) : Bool := mode.getLsbD (4 + cls)

/-- The sticky bit SU (R42). -/
def stickySU : Word := 0x100

/-- The sticky bit NV (R42). -/
def stickyNV : Word := 0x200

/-! Values. -/

/-- A value: a NaN with its sign and its fraction, aligned at the top of 52 bits; an infinity; or the finite number
(−1)^s × m × 2^e. -/
inductive Val where
  | nan (s : Bool) (frac : Nat)
  | inf (s : Bool)
  | fin (s : Bool) (m : Nat) (e : Int)
  deriving DecidableEq, Repr

/-- The canonical NaN (R19). -/
def Val.canonical : Val := .nan false (2 ^ 51)

/-- Whether a value is a NaN. -/
def Val.isNan : Val → Bool
  | .nan _ _ => true
  | _ => false

/-- Whether a value is an infinity. -/
def Val.isInf : Val → Bool
  | .inf _ => true
  | _ => false

/-- The sign of a value. -/
def Val.sign : Val → Bool
  | .nan s _ => s
  | .inf s => s
  | .fin s _ _ => s

/-- Whether a value is a zero. -/
def Val.isZero : Val → Bool
  | .fin _ m _ => m == 0
  | _ => false

/-- The value of a code (R17, R18); with `flush`, a subnormal is a zero of its sign (R44). -/
def decodeF (F : FloatFmt) (flush : Bool) (x : Nat) : Val :=
  let s := x / 2 ^ (F.eb + F.fb) % 2 == 1
  let e := x / 2 ^ F.fb % 2 ^ F.eb
  let f := x % 2 ^ F.fb
  if F.nan = 2 ∧ e = 2 ^ F.eb - 1 then (if f = 0 then .inf s else .nan s (f * 2 ^ (52 - F.fb)))
  else if F.nan = 1 ∧ x % 2 ^ (F.eb + F.fb) = 2 ^ (F.eb + F.fb) - 1 then .nan s (f * 2 ^ (52 - F.fb))
  else if e = 0 then (if flush then .fin s 0 0 else .fin s f (1 - (F.bias : Int) - F.fb))
  else .fin s (2 ^ F.fb + f) ((e : Int) - F.bias - F.fb)

/-- The value of an E8M0 code (R24). -/
def decodeE8 (x : Nat) : Val := if x % 256 = 255 then .canonical else .fin false 1 ((x % 256 : Nat) - (127 : Int))

/-- Whether a remainder of `half` × 2 rounds a magnitude up (R40): `odd` is the kept part's last bit, `more` whether
anything nonzero lies below the remainder. -/
def roundsUp (r : Rnd) (s odd : Bool) (rem half : Nat) (more : Bool) : Bool :=
  match r with
  | .rn => decide (half < rem) || (rem == half && (more || odd))
  | .rz => false
  | .rp => !s && (decide (rem ≠ 0) || more)
  | .rm => s && (decide (rem ≠ 0) || more)

/-- m × 2^e, with something nonzero below when `more`, rounded to a multiple of 2^q, as the multiple. -/
def roundAt (r : Rnd) (s : Bool) (m : Nat) (e q : Int) (more : Bool) : Nat :=
  if q ≤ e then m * 2 ^ (e - q).toNat
  else
    let k := (q - e).toNat
    let kept := m / 2 ^ k
    kept + (if roundsUp r s (kept % 2 == 1) (m % 2 ^ k) (2 ^ (k - 1)) more then 1 else 0)

/-- A code with its sign. -/
def FloatFmt.signed (F : FloatFmt) (s : Bool) (code : Nat) : Nat := code + (if s then 2 ^ (F.eb + F.fb) else 0)

/-- The code that an overflow gives (R41, R50). -/
def overflowF (F : FloatFmt) (r : Rnd) (sat s : Bool) : Nat :=
  let infCode := F.maxCode + 1
  if !F.inf || sat then F.maxCode
  else
    match r with
    | .rn => infCode
    | .rz => F.maxCode
    | .rp => if s then F.maxCode else infCode
    | .rm => if s then infCode else F.maxCode

/-- A finite magnitude rounded once into a format (R41, R50), with R45's flush of the result. -/
def roundF (F : FloatFmt) (r : Rnd) (sat flush s : Bool) (m : Nat) (e : Int) (more : Bool) : Nat :=
  if m = 0 ∧ more = false then F.signed s 0
  else
    let emin : Int := 1 - F.bias
    let q := max ((Nat.log2 m : Int) + e) emin - F.fb
    let k := roundAt r s m e q more
    let code := ((q + F.fb + F.bias - 1).toNat) * 2 ^ F.fb + k
    if F.maxCode < code then F.signed s (overflowF F r sat s)
    else if flush && decide (code < 2 ^ F.fb) then F.signed s 0
    else F.signed s code

/-- The code of a value in a format (R41, R45, R47, R50). -/
def encodeF (F : FloatFmt) (r : Rnd) (sat flush : Bool) (v : Val) : Nat :=
  match v with
  | .nan s f =>
    match F.nan with
    | 0 => 0
    | 1 => F.signed s (F.maxCode + 1)
    | _ => F.signed s ((2 ^ F.eb - 1) * 2 ^ F.fb + (f / 2 ^ (52 - F.fb) ||| 2 ^ (F.fb - 1)))
  | .inf s => if F.inf && !sat then F.signed s (F.maxCode + 1) else F.signed s F.maxCode
  | .fin s m e => roundF F r sat flush s m e false

/-! Exact operations, with the NaN, infinity and zero rules of R47 to R49. -/

/-- The first NaN among the inputs, quieted when it is encoded (R47). -/
def firstNan (vs : List Val) : Option Val := vs.find? Val.isNan

/-- A signed integer from a sign and a magnitude. -/
def signedInt (s : Bool) (m : Nat) : Int := if s then -(m : Int) else m

/-- The exact sum of finite values and infinities (R48, R49). -/
def addV (r : Rnd) (a b : Val) : Val :=
  match a, b with
  | .nan s f, _ => .nan s f
  | _, .nan s f => .nan s f
  | .inf s, .inf t => if s = t then .inf s else .canonical
  | .inf s, .fin _ _ _ => .inf s
  | .fin _ _ _, .inf t => .inf t
  | .fin s m e, .fin t n g =>
    let q := min e g
    let x := signedInt s (m * 2 ^ (e - q).toNat) + signedInt t (n * 2 ^ (g - q).toNat)
    if x = 0 then .fin (if s = t then s else r == .rm) 0 0
    else .fin (decide (x < 0)) x.natAbs q

/-- The value with the other sign; a NaN keeps its own (R47). -/
def negV : Val → Val
  | .nan s f => .nan s f
  | .inf s => .inf (!s)
  | .fin s m e => .fin (!s) m e

/-- The exact product (R47 to R49). -/
def mulV (a b : Val) : Val :=
  match a, b with
  | .nan s f, _ => .nan s f
  | _, .nan s f => .nan s f
  | .inf s, .inf t => .inf (s != t)
  | .inf s, .fin t m _ => if m = 0 then .canonical else .inf (s != t)
  | .fin s m _, .inf t => if m = 0 then .canonical else .inf (s != t)
  | .fin s m e, .fin t n g => .fin (s != t) (m * n) (e + g)

/-- a × b + c in the NaN order a, b, c (R47, R127). -/
def fmaV (r : Rnd) (a b c : Val) : Val :=
  match firstNan [a, b, c] with
  | some n => n
  | none => addV r (mulV a b) c

/-- c − a × b in the NaN order a, b, c; a NaN is not negated (R47, R127). -/
def fmsV (r : Rnd) (a b c : Val) : Val :=
  match firstNan [a, b, c] with
  | some n => n
  | none =>
    match mulV a b with
    | .nan s f => .nan s f
    | p => addV r c (negV p)

/-- The code of a quotient rounded once to nearest even; zero divisors and infinities as IEEE 754 (R143). -/
def divF (F : FloatFmt) (flush : Bool) (a b : Val) : Nat :=
  match a, b with
  | .nan s f, _ => encodeF F .rn false flush (.nan s f)
  | _, .nan s f => encodeF F .rn false flush (.nan s f)
  | .inf _, .inf _ => encodeF F .rn false flush .canonical
  | .inf s, .fin t _ _ => encodeF F .rn false flush (.inf (s != t))
  | .fin s _ _, .inf t => encodeF F .rn false flush (.fin (s != t) 0 0)
  | .fin s m e, .fin t n g =>
    if n = 0 then (if m = 0 then encodeF F .rn false flush .canonical else encodeF F .rn false flush (.inf (s != t)))
    else
      let k := 128 + Nat.log2 n
      let q := m * 2 ^ k / n
      roundF F .rn false flush (s != t) q (e - g - k) (decide (m * 2 ^ k % n ≠ 0))

/-- Three-way comparison of values that are no NaNs: negative, zero or positive as the first is below, equal to or
above the second; −0 equals +0 (R128). -/
def cmpV (a b : Val) : Int :=
  match a, b with
  | .inf s, .inf t => if s = t then 0 else if s then -1 else 1
  | .inf s, _ => if s then -1 else 1
  | _, .inf t => if t then 1 else -1
  | .fin s m e, .fin t n g =>
    let q := min e g
    signedInt s (m * 2 ^ (e - q).toNat) - signedInt t (n * 2 ^ (g - q).toNat)
  | _, _ => 0

/-- The smaller of two values, −0 below +0, or the first NaN (R126). -/
def minV (a b : Val) : Val :=
  match firstNan [a, b] with
  | some n => n
  | none => if cmpV a b < 0 then a else if cmpV b a < 0 then b else if a.sign then a else b

/-- The larger of two values, −0 below +0, or the first NaN (R126). -/
def maxV (a b : Val) : Val :=
  match firstNan [a, b] with
  | some n => n
  | none => if cmpV a b < 0 then b else if cmpV b a < 0 then a else if a.sign then b else a

/-- The value without its sign; a NaN keeps its own (R137). -/
def absV : Val → Val
  | .nan s f => .nan s f
  | .inf _ => .inf false
  | .fin _ m e => .fin false m e

/-- What FCMP writes (R128). -/
def FCond.holds (c : FCond) (a b : Val) : Bool :=
  let un := a.isNan || b.isNan
  match c with
  | .eq32 | .eq64 => !un && decide (cmpV a b = 0)
  | .ne32 | .ne64 => un || decide (cmpV a b ≠ 0)
  | .lt32 | .lt64 => !un && decide (cmpV a b < 0)
  | .le32 | .le64 => !un && decide (cmpV a b ≤ 0)

/-- The class bit of a code (R129). -/
def classF (F : FloatFmt) (x : Nat) : Word :=
  let e := x / 2 ^ F.fb % 2 ^ F.eb
  match decodeF F false x with
  | .nan _ f => if F.nan = 1 ∨ f / 2 ^ 51 % 2 = 1 then 2 else 1
  | .inf s => if s then 4 else 0x200
  | .fin s m _ =>
    if m = 0 then (if s then 0x20 else 0x40)
    else if e = 0 then (if s then 0x10 else 0x80)
    else if s then 8 else 0x100

/-- A finite value rounded to an integer (R50, R131). -/
def roundInt (r : Rnd) (s : Bool) (m : Nat) (e : Int) (more : Bool) : Int := signedInt s (roundAt r s m e 0 more)

/-- The exact quotient of finite values rounded to the nearest even integer (R135). -/
def divInt (a b : Val) : Int :=
  match a, b with
  | .fin s m e, .fin t n g =>
    if n = 0 then 0
    else
      let k : Int := e - g
      let num := m * 2 ^ k.toNat
      let den := n * 2 ^ (-k).toNat
      let q := num * 4 / den
      roundInt .rn (s != t) q (-2) (decide (num * 4 % den ≠ 0))
  | _, _ => 0

/-- An integer held within bounds (R50). -/
def clampInt (lo hi x : Int) : Int := max lo (min hi x)

/-- The value of an integer. -/
def intVal (x : Int) : Val := .fin (decide (x < 0)) x.natAbs 0

/-! Scale exponents (R51). -/

/-- The largest exponent of a target (R51). -/
def emaxOf : Fmt → Int
  | .e4m3 => 8
  | .e5m2 => 15
  | .e3m2 => 4
  | _ => 2

/-- SCALEX (R51): the code, and whether it clamped. -/
def scaleExp (t : Fmt) (a : Val) : Nat × Bool :=
  match a with
  | .nan _ _ => (255, false)
  | .inf _ => (255, false)
  | .fin _ m e =>
    if m = 0 then (0, false)
    else
      let x := (Nat.log2 m : Int) + e - emaxOf t + 127
      if x < 0 then (0, true) else (x.toNat, false)

/-! Trees (R52 to R55). -/

/-- FP32 addition at a tree node or in MFIN (R46, R54, R60). -/
def treeAdd (F : FloatFmt) (a b : Nat) : Nat :=
  let x := decodeF F false a
  let y := decodeF F false b
  if x.isNan || y.isNan then encodeF F .rn false false .canonical else encodeF F .rn false false (addV .rn x y)

/-- FP32 addition of words as a tree node does it. -/
def fl32 (a b : Word) : Word := BitVec.ofNat 32 (treeAdd fp32 a.toNat b.toNat)

/-- FP64 addition as a tree node does it. -/
def fl64 (a b : Dword) : Dword := BitVec.ofNat 64 (treeAdd fp64 a.toNat b.toNat)

/-- The empty softmax state (R61): s in the low word, e in the high word. -/
def smEmpty : Dword := 0x8000000000000000

/-- The NaN softmax state (R61). -/
def smNan : Dword := 0x7FC00000

/-- How a state is classified (R61): 0 NaN, 1 empty, 2 ordinary. -/
def smClass (x : Dword) : Nat :=
  if (decodeF fp32 false (x.toNat % 2 ^ 32)).isNan then 0 else if x.toNat / 2 ^ 32 = 2 ^ 31 then 1 else 2

/-- An FP32 value times a power of two. A product below 2^−800 stands as 2^−1000 of its sign: beside any FP32 value
it rounds as the exact product does. -/
def scaleV (v : Val) (k : Int) : Val :=
  match v with
  | .fin s m e => if m = 0 then .fin s 0 0 else if k < -1000 then .fin s 1 (-1000) else .fin s m (e + k)
  | v => v

/-- The combination of softmax states (R62). -/
def smCombine (x y : Dword) : Dword :=
  if smClass x = 0 ∨ smClass y = 0 then smNan
  else if smClass x = 1 then y
  else if smClass y = 1 then x
  else
    let e1 := (x >>> 32 |>.setWidth 32 : Word).toInt
    let e2 := (y >>> 32 |>.setWidth 32 : Word).toInt
    let e := max e1 e2
    let v := addV .rn (scaleV (decodeF fp32 false (x.toNat % 2 ^ 32)) (e1 - e))
      (scaleV (decodeF fp32 false (y.toNat % 2 ^ 32)) (e2 - e))
    if v.isNan then smNan
    else BitVec.ofInt 32 e ++ BitVec.ofNat 32 (encodeF fp32 .rn false false v)

/-- The operator of a tree (R54): 0 FP32 addition, 1 FP64 addition, 2 softmax state. -/
def treeOp (op : Nat) (a b : Dword) : Dword :=
  match op with
  | 0 => BitVec.ofNat 64 (treeAdd fp32 (a.toNat % 2 ^ 32) (b.toNat % 2 ^ 32))
  | 1 => fl64 a b
  | _ => smCombine a b

/-- The smallest L with 2^L ≥ n (R52). -/
def treeHeight (n : Nat) : Nat := if n ≤ 1 then 0 else Nat.log2 (n - 1) + 1

/-- The value of a subtree of level `l` over the leaves given from index 0, absent ones `none` (R53, R151). -/
def treeFold {α : Type} (op : α → α → α) : Nat → List (Option α) → Option α
  | 0, xs => (xs.head?).join
  | l + 1, xs =>
    match treeFold op l (xs.take (2 ^ l)), treeFold op l (xs.drop (2 ^ l)) with
    | none, y => y
    | some x, none => some x
    | some x, some y => some (op x y)

/-! The leaf chunk (R57 to R59). -/

/-- The exponent of a nonzero finite value: floor of the logarithm of its magnitude. -/
def expV : Val → Int
  | .fin _ m e => (Nat.log2 m : Int) + e
  | _ => 0

/-- A product truncated towards zero to a multiple of 2^u, as the multiple (R57). -/
def truncAt (u : Int) : Val → Int
  | .fin s m e => signedInt s (if u ≤ e then m * 2 ^ (e - u).toNat else m / 2 ^ (u - e).toNat)
  | _ => 0

/-- The value of a floating-point chunk from its exact products (R57, R58): `w` is 24 or 39. -/
def chunkF (w : Nat) (ps : List Val) : Word :=
  if ps.any Val.isNan || (ps.any (fun p => p == .inf false) && ps.any (fun p => p == .inf true)) then 0x7FC00000
  else if ps.any (fun p => p == .inf false) then 0x7F800000
  else if ps.any (fun p => p == .inf true) then 0xFF800000
  else
    let nz := ps.filter fun p => !p.isZero
    match nz with
    | [] => if ps.all Val.sign then 0x80000000 else 0
    | p :: r =>
      let e := r.foldl (fun e q => max e (expV q)) (expV p)
      let u := e - (w - 1 : Int)
      let sum := ps.foldl (fun x q => x + truncAt u q) 0
      if sum = 0 then 0
      else BitVec.ofNat 32 (roundF fp32 .rn false false (decide (sum < 0)) sum.natAbs u false)

/-- The value of an integer chunk from its exact products (R59). -/
def chunkI (ps : List Int) : Word :=
  BitVec.ofNat 32 (encodeF fp32 .rn false false (intVal (ps.foldl (· + ·) 0)))

/-- The guided combination of R300. -/
def guided (w c u : Word) : Word :=
  let cv := decodeF fp32 false c.toNat
  let uv := decodeF fp32 false u.toNat
  let diff := match firstNan [cv, uv] with
    | some n => n
    | none => addV .rn cv (negV uv)
  let d := decodeF fp32 false (encodeF fp32 .rn false false diff)
  BitVec.ofNat 32 (encodeF fp32 .rn false false (fmaV .rn (decodeF fp32 false w.toNat) d uv))

end Sys2Proof.Machine
end

