-- ==== Sys2Proof/Machine/Remote.lean ====
section
/-!
DEFINITION. Requests to other devices (R425 to R430): the peer table, sequence numbers, and the requests that have no
acknowledgement yet. What the fabric then does with a request is the world's: the events of REMOTE_ACK_ARRIVAL,
REMOTE_RETRANSMIT and REMOTE_GIVE_UP say it.
-/

namespace Sys2Proof.Machine

/-- An entry of a context's peer table (R430): token, target device and target context. -/
def State.peerOf (s : State) (c : Context) (entry : Nat) : Option (Dword × Nat × Nat) :=
  if entry < c.peerCount then
    match s.vread c (c.peerTab.toNat + 16 * entry) 16 with
    | .error _ => none
    | .ok bs => some (BitVec.ofNat 64 (bytesVal (bs.take 8)), bytesVal ((bs.drop 8).take 2) % 4096,
        bytesVal ((bs.drop 10).take 1) % 64)
  else none

/-- The next sequence number of a context towards a device (R427). -/
def State.nextSeq (s : State) (ctx dev : Nat) : Nat :=
  match s.fabric.seqs.find? fun x => x.1 == ctx && x.2.1 == dev with
  | none => 1
  | some x => x.2.2

/-- The target incarnation that requests to a device carry (R428). -/
def State.targetInc (s : State) (dev : Nat) : Nat := (look s.fabric.targetIncs dev).getD 0

/-- Whether a request changes state at the target, and so carries a sequence number (R427). -/
def sequenced : RemoteOp → Bool
  | .load _ _ => false
  | .subscribe _ _ _ => false
  | .treeStat _ _ => false
  | _ => true

/-! Routes (R421, R423). -/

/-- This device's pod number (R421). -/
def State.pod (s : State) : Nat := (s.bar0.podnum.map BitVec.toNat).getD 0

/-- The devices that a flit may go to first on its way from one device to another (R423): the other one itself in the same row or column,
else the relay (r1, c2), and for a retry also (r2, c1). -/
def firstHops (src dst : Nat) (again : Bool) : List Nat :=
  if src / 64 = dst / 64 ∨ src % 64 = dst % 64 then [dst]
  else (src / 64 * 64 + dst % 64) :: (if again then [dst / 64 * 64 + src % 64] else [])

/-- The ways of a flit from this device: a rotor in service of its row or column, and the device that it goes to on it. -/
def State.ways (s : State) (dst : Nat) (again : Bool) : List (Nat × Nat) :=
  (firstHops s.pod dst again).flatMap fun h =>
    ((List.range 32).map fun j => (if h / 64 = s.pod / 64 then j else 32 + j, h)).filter fun w => !s.fabric.rotorsOut.contains w.1

/-- A way of a flit by a free choice: a retry takes another one than the last, where there is one (R423, R427). -/
def State.wayFor (s : State) (dst : Nat) (last : Option (Nat × Nat)) : Nat × Nat :=
  let l := (s.ways dst last.isSome).filter fun w => last != some w
  (l[s.pick (2 ^ 41) l.length]?).getD (last.getD (0, dst))

/-- Whether the ingress drops all traffic of a device for now (R432). -/
def State.dropsFrom (s : State) (dev : Nat) : Bool := s.fabric.blocked.any fun b => b.1 == dev

/-! Requests. -/

/-- Sends a request; its number is `nextId` as it stood (R427, R428). -/
def State.ask (s : State) (ctx dev tctx : Nat) (token : Dword) (op : RemoteOp) : State :=
  let seq := s.nextSeq ctx dev
  let o : Outgoing := { id := s.nextId, ctx := ctx, dev := dev, tctx := tctx,
                        seq := (if sequenced op then some seq else none), inc := s.targetInc dev, token := token,
                        op := op, since := s.wall, tries := 0, way := s.wayFor dev none }
  let seqs := if sequenced op then
      s.fabric.seqs.filter (fun x => !(x.1 == ctx && x.2.1 == dev)) ++ [(ctx, dev, seq + 1)]
    else s.fabric.seqs
  { s with fabric := { s.fabric with out := s.fabric.out ++ [o], seqs := seqs } }.takeId

/-- A request of a thread to a peer window, none where the peer-table entry cannot be read; its number is `nextId` as it
stood. -/
def State.askPeer (s : State) (t entry : Nat) (op : RemoteOp) : Option State :=
  (s.peerOf (s.ctxOf t) entry).map fun p => s.ask (s.launchOf t).ctx p.2.1 p.2.2 p.1 op

/-- Writes runs of bytes, each given with its virtual address, for a context: locally at once, at a peer by requests, which
the answer lists with their addresses. -/
def State.writeRuns (s : State) (c : Context) (rs : List (Nat × Place × List Byte)) : State × List (Nat × Nat) :=
  rs.foldl (fun x r =>
    match r.2.1 with
    | .peer e off =>
      match s.peerOf c e with
      | none => x
      | some q => (x.1.ask c.num q.2.1 q.2.2 q.1 (.store off r.2.2), x.2 ++ [(x.1.nextId, r.1)])
    | p => (x.1.writeAt p r.2.2, x.2)) (s, [])

/-- The addresses at which a range begins or enters a block of `size` bytes. -/
def blockStarts (size va len : Nat) : List Nat :=
  (List.range ((va % size + len + size - 1) / size)).map fun i => if i = 0 then va else (va / size + i) * size

/-- The pieces of a range of a context's addresses, each with its bytes and place: page by page, and line by line in a peer
window. -/
def State.spans (s : State) (c : Context) (va len need : Nat) : List (Nat × Nat × Place) :=
  (blockStarts 4096 va len).flatMap fun x =>
    let n := min (va + len) ((x / 4096 + 1) * 4096) - x
    match s.xlate c x need with
    | .ok (.peer e o) =>
      (blockStarts 128 x n).map fun y => (y, min (x + n) ((y / 128 + 1) * 128) - y, .peer e (o + (y - x)))
    | .ok q => [(x, n, q)]
    | .error _ => []

/-- Writes bytes of a range for a context, where it translates; the answer lists the requests to other devices. -/
def State.putRange (s : State) (c : Context) (va : Nat) (bs : List Byte) : State × List (Nat × Nat) :=
  s.writeRuns c ((s.spans c va bs.length 2).map fun x => (x.1, x.2.2, (bs.drop (x.1 - va)).take x.2.1))

/-- The same, of bytes for whose answers nothing waits. -/
def State.vput (s : State) (c : Context) (va : Nat) (bs : List Byte) : State := (s.putRange c va bs).1

/-! Reads of peer windows by engines and words (R230). -/

/-- The answer that a reader has, if it has come. -/
def State.peerAnswer (s : State) (who : Reader) : Option (Except (Nat × Nat) (List Byte)) :=
  (s.fly.reads.find? fun r => r.who == who).bind PeerRead.ans

/-- Sends a request whose answer someone waits for, unless it is under way; one whose peer-table entry cannot be read is refused. -/
def State.askFor (s : State) (ctx : Nat) (who : Reader) (entry : Nat) (op : RemoteOp) : State :=
  if s.fly.reads.any fun r => r.who == who then s
  else
    match s.peerOf (s.ctx ctx) entry with
    | none => s.updFly fun f => { f with reads := f.reads ++ [⟨s.nextId, who, some (.error (5, 5))⟩] }
    | some q => (s.ask ctx q.2.1 q.2.2 q.1 op).updFly fun f => { f with reads := f.reads ++ [⟨s.nextId, who, none⟩] }

/-- Sends a reader's request, unless it is under way. -/
def State.readPeer (s : State) (ctx : Nat) (who : Reader) (entry off len : Nat) : State := s.askFor ctx who entry (.load off len)

/-- A reader is done with its answer. -/
def State.dropRead (s : State) (who : Reader) : State :=
  s.updFly fun f => { f with reads := f.reads.filter fun r => r.who ≠ who }

/-- A matrix operation is done with what it has read. -/
def State.dropReads (s : State) (op : Nat) : State :=
  s.updFly fun f => { f with reads := f.reads.filter fun r =>
    match r.who with | .operand o _ _ => o != op | _ => true }

/-- Consecutive bytes of one line gathered into runs. -/
def runsOf : List (Place × Byte) → List (Place × List Byte)
  | [] => []
  | (p, b) :: r =>
    match runsOf r with
    | [] => [(p, [b])]
    | (q, bs) :: rest =>
      let inLine := match q with
        | .mem a => a % 128 != 0
        | .spad a => a % 128 != 0
        | .ws _ => false
        | .peer _ o => o % 128 != 0
      if p.add 1 = q ∧ inLine = true then (p, b :: bs) :: rest else (p, [b]) :: (q, bs) :: rest

/-- The same of bytes given with their virtual addresses. -/
def runsAt (l : List (Nat × Place × Byte)) : List (Nat × Place × List Byte) :=
  (runsOf (l.map Prod.snd)).map fun r => (((l.find? fun x => x.2.1 == r.1).map Prod.fst).getD 0, r)

end Sys2Proof.Machine
end

