-- ==== Sys2Proof/Machine/Trees.lean ====
section
/-!
DEFINITION. Sum trees (file 15): labels and meeting places, the arrival of nodes at ricks, spill, back-pressure,
roots, element states and stamps. A node pairs by `treeOp` once, at the first rick where both siblings stand.
-/

namespace Sys2Proof.Machine

/-- The tree set of a context under a handle, in its current epoch (R321). -/
def State.treeSet (s : State) (ctx handle : Nat) : Option TreeSet :=
  s.fly.sets.find? fun x => x.ctx == ctx && x.handle == handle

/-- The state of an element in an epoch: STATE as TSTAT codes it (2 while open) and the cause (R329, R333). -/
def State.elemState (s : State) (ctx handle elem seq : Nat) : Nat × Nat :=
  match s.fly.elems.find? fun x => x.ctx == ctx && x.handle == handle && x.elem == elem && x.seq == seq with
  | none => (2, 0)
  | some x => (x.state, x.cause)

/-- The word that TSTAT reads (R333). -/
def elemWord (t : TreeSet) (x : Nat × Nat) : Dword := BitVec.ofNat 64 (x.1 * 2 ^ 62 + x.2 * 2 ^ 58 + t.seq % 2 ^ 48)

/-- The bytes of a root (R320). -/
def rootBytes (op : Nat) (v : Dword) : List Byte := valBytes (if op = 0 then 4 else 8) v.toNat

/-- The largest level of a tree (R52). -/
def TreeSet.top (t : TreeSet) : Nat := treeHeight t.leaves

/-- Whether a label is out of range (R56). -/
def labelBad (leaves level index : Nat) : Bool :=
  decide (treeHeight leaves < level) || decide (38 < level) || decide (leaves ≤ index * 2 ^ level)

/-- The home slice of a node's meeting place (R323). -/
def State.nodeSlice (s : State) (handle elem level index : Nat) : Nat :=
  s.standIn (Config.treeHash handle elem level index % 192)

/-- The device list entry that a node meets on (R323): the grant and the device number, none for this device. -/
def State.nodeHome (s : State) (t : TreeSet) (level index : Nat) : Option (Dword × Nat) :=
  match t.devs[((index * 2 ^ level) >>> t.dshift) % max t.devs.length 1]? with
  | none => none
  | some d => if s.bar0.podnum = some (BitVec.ofNat 12 d.2) then none else some d

/-- The label whose meeting place a node goes to (R323): its parent's, and the root's own. -/
def TreeSet.goal (t : TreeSet) (x : TreeNode) : Nat × Nat :=
  if x.level = t.top then (x.level, x.index) else (x.level + 1, x.index / 2)

/-- The other device that a node goes to, none when that is this one (R323). -/
def State.goalHome (s : State) (t : TreeSet) (x : TreeNode) : Option (Dword × Nat) :=
  s.nodeHome t (t.goal x).1 (t.goal x).2

/-- The slice that a node goes to on its home device (R323). -/
def State.goalSlice (s : State) (t : TreeSet) (x : TreeNode) : Nat :=
  s.nodeSlice x.handle x.elem (t.goal x).1 (t.goal x).2

/-- Whether a node's label equals another's, or one covers the other (R330). -/
def overlaps (a b : TreeNode) : Bool :=
  if a.level ≤ b.level then a.index >>> (b.level - a.level) == b.index
  else b.index >>> (a.level - b.level) == a.index

/-- Whether two nodes belong to one element and epoch. -/
def sameElem (a b : TreeNode) : Bool :=
  a.ctx == b.ctx && a.handle == b.handle && a.elem == b.elem && a.epoch == b.epoch

/-- Whether an entry stands at a rick, or in the spill part of a slice (R325, R327). -/
def standsAt (p q : NodePlace) : Bool :=
  match p, q with
  | .coreRick a, .coreRick b => a == b
  | .portRick a, .portRick b => a == b
  | .sliceRick a, .sliceRick b => a == b
  | .sliceRick a, .spill b _ => a == b
  | .sliceRick a, .corrupt b => a == b
  | .sliceRick a, .waiting b => a == b
  | _, _ => false

/-- The contribution that a node carries completes, with an error or without (R332). -/
def State.settle (s : State) (x : TreeNode) (err : Option Failure) : State :=
  match x.origin with
  | none => s
  | some (t, pc) =>
    let o : Op := { id := x.id, batch := x.id, thread := t, core := (s.thr t).core, pc := pc, kind := .done .ct err }
    s.updFly fun f => { f with ops := f.ops ++ [o] }

/-- Sets the state of an element (R329); its stamp, if one is due, is still to be written. -/
def State.setElem (s : State) (x : TreeNode) (state cause status : Nat) (stamped : Bool) : State :=
  s.updFly fun f =>
    let rest := f.elems.filter fun y =>
      !(y.ctx == x.ctx && y.handle == x.handle && y.elem == x.elem && y.seq == x.epoch)
    { f with elems := rest ++ [⟨x.ctx, x.handle, x.elem, x.epoch, state, cause, stamped, status⟩] }

/-- Drops the entries of an element; contributions and drained partials not yet taken stay until they arrive. -/
def State.dropElem (s : State) (x : TreeNode) : State :=
  s.updFly fun f => { f with nodes := f.nodes.filter fun y => !(sameElem x y) || y.origin.isSome || y.drain }

/-- An open element fails with a cause, and what is held of it is dropped (R329). Its state is held at the root's meeting place;
where that is on another device, the device is told. -/
def State.failElem (s : State) (x : TreeNode) (cause : Nat) : State :=
  match (s.treeSet x.ctx x.handle).bind fun t => s.nodeHome t t.top 0 with
  | none => (if (s.elemState x.ctx x.handle x.elem x.epoch).1 = 2 then s.setElem x 1 cause 1 false else s).dropElem x
  | some d => (s.ask x.ctx d.2 x.ctx d.1 (.treeFailed x.handle x.elem (x.epoch % 256) cause)).dropElem x

/-- Sends the root to every other device of the list (R329, R427). -/
def State.broadcast (s : State) (t : TreeSet) (x : TreeNode) : State :=
  t.devs.foldl (fun s d =>
    if s.bar0.podnum = some (BitVec.ofNat 12 d.2) then s
    else s.ask t.ctx d.2 t.ctx d.1 (.root t.handle x.elem t.seq x.value)) s

/-- The root forms (R329): it is written as one write, the element is complete and its stamp due; where ROOT cannot
be written, the element fails with cause 7. A node of the element that is left over is an extra copy (R330). -/
def State.writeRoot (s : State) (t : TreeSet) (x : TreeNode) : State :=
  let z := if t.op = 0 then 4 else 8
  match s.vwrite (s.ctx t.ctx) (t.root.toNat + x.elem * z) (rootBytes t.op x.value) with
  | none => s.failElem x 7
  | some s =>
    let extra := s.fly.nodes.any fun y => sameElem x y && y.origin.isNone
    let s := (s.setElem x 0 (if extra then 1 else 0) 0 false).dropElem x
    if t.bcast then s.broadcast t x else s

/-- A node held at a rick (R325): its contribution has been taken. -/
def State.hold (s : State) (x : TreeNode) (p : NodePlace) : State :=
  let s := s.settle x none
  s.updFly fun f => { f with nodes := f.nodes ++ [{ x with place := p, origin := none, drain := false, since := s.clk }] }

/-- A node goes on towards its meeting place (R325, R326, R433): to its slice, or to a port of the fabric's choice. -/
def State.sendOn (s : State) (t : TreeSet) (x : TreeNode) : State :=
  let p := match s.goalHome t x with
    | some _ => NodePlace.toPort (s.pick x.id 64)
    | none => NodePlace.toSlice (s.goalSlice t x)
  s.updFly fun f => { f with nodes := f.nodes ++ [{ x with place := p, since := s.clk }] }

/-- A node is refused by its port (R332, R433): a contribution that has not been taken yet ends in an error, any other node leaves a
record. -/
def State.refuseNode (s : State) (x : TreeNode) : State :=
  let s1 := s.settle x (x.origin.map fun o => ⟨5, 5, 0, 0, o.2⟩)
  if x.origin.isSome then s1 else s1.fq12 x.ctx 6 0 0

/-- A node leaves its port (R326, R433): over the fabric, where the list entry's grant has the write right, or for its slice. -/
def State.leavePort (s : State) (t : TreeSet) (x : TreeNode) : State :=
  match s.goalHome t x with
  | some d =>
    if d.1.getLsbD 37 then
      (s.settle x none).ask x.ctx d.2 x.ctx d.1 (.node x.handle x.elem (x.epoch % 256) x.leaves x.op x.level x.index x.value)
    else s.refuseNode x
  | none => s.sendOn t x

/-- A node goes on from a rick towards its meeting place. -/
def State.goOn (s : State) (t : TreeSet) (p : NodePlace) (x : TreeNode) : State :=
  match p with
  | .portRick _ => s.leavePort t x
  | _ => s.sendOn t x

/-- The first free slot of some spill slots (R327): none where one before it does not translate, as if all were taken (R492). -/
def State.spillFree (s : State) (c : Context) : List Nat → Option Nat
  | [] => none
  | va :: r =>
    match s.xlate c va 2 with
    | .ok (.mem pa) =>
      if s.fly.nodes.any fun y => (match y.place with | .spill _ a => a == pa | _ => false) then s.spillFree c r else some pa
    | _ => none

/-- The physical address of a free spill slot for a node at a slice, if one of its sixteen is free (R327). -/
def State.spillSlot (s : State) (x : TreeNode) (k : Nat) : Option Nat :=
  match s.treeSet x.ctx x.handle with
  | none => none
  | some t =>
    let r := (s.launch t.launch).record
    let part := r.spillSize / s.sliceCount / 32
    if part = 0 then none
    else
      let h := Config.treeHash x.handle x.elem x.level x.index
      let base := r.spillBase.toNat + s.sliceRank k * (part * 32)
      s.spillFree (s.ctx x.ctx) ((List.range 16).map fun i => base + (h + i) % part * 32)

/-- A node that fails to pair at its slice (R326 to R328): held in the slice rick, in a spill slot, or waiting. -/
def State.holdAtSlice (s : State) (x : TreeNode) (k : Nat) : State :=
  let used := (s.fly.nodes.filter fun y => y.place == .sliceRick k).length
  if used < 4096 then s.hold x (.sliceRick k)
  else
    match s.spillSlot x k with
    | some pa => s.hold x (.spill k pa)
    | none => s.updFly fun f => { f with nodes := f.nodes ++ [{ x with place := .waiting k, since := s.wall }] }

/-- Takes a node from where it stands. -/
def State.liftNode (s : State) (x : TreeNode) : State :=
  s.updFly fun f => { f with nodes := f.nodes.filter fun y => y.id ≠ x.id }

/-- The entries of a rick, oldest first. -/
def State.rickNodes (s : State) (p : NodePlace) : List TreeNode := s.fly.nodes.filter fun y => y.place == p

/-- Whether a node in a core rick waits behind others at its slice (R328). -/
def State.behind (s : State) (t : TreeSet) (x : TreeNode) : Bool :=
  (s.goalHome t x).isNone && s.rickNodes (.waiting (s.goalSlice t x)) != []

/-- A node that fails to pair in a core rick is held there, once the oldest of a full rick has made room (R326). Where that
one waits behind its slice, the arriving node goes on without having been taken (R328). -/
def State.holdAtCore (s : State) (t : TreeSet) (x : TreeNode) (core : Nat) : State :=
  match (s.rickNodes (.coreRick core)).head?, decide ((s.rickNodes (.coreRick core)).length < 512) with
  | some y, false =>
    match s.treeSet y.ctx y.handle with
    | none => (s.liftNode y).hold x (.coreRick core)
    | some u => if s.behind u y then s.sendOn t x else ((s.liftNode y).sendOn u y).hold x (.coreRick core)
  | _, _ => s.hold x (.coreRick core)

/-- A node that fails to pair in a port rick is held there, once the oldest of a full rick has made room (R326). -/
def State.holdAtPort (s : State) (x : TreeNode) (port : Nat) : State :=
  match (s.rickNodes (.portRick port)).head?, decide ((s.rickNodes (.portRick port)).length < 1024) with
  | some y, false =>
    let s1 := s.liftNode y
    ((s.treeSet y.ctx y.handle).elim s1 fun u => s1.leavePort u y).hold x (.portRick port)
  | _, _ => s.hold x (.portRick port)

/-- Whether an entry of a spill table can no longer be read: it was overwritten, or it is uncorrectable (R327, R329). -/
def State.unreadable (s : State) (p : NodePlace) : Bool :=
  match p with
  | .corrupt _ => true
  | .spill _ pa => s.memBad pa 32
  | _ => false

/-- Whether a place is the slice that a node goes to. -/
def State.atGoal (s : State) (t : TreeSet) (x : TreeNode) (p : NodePlace) : Bool :=
  (s.goalHome t x).isNone && (match p with | .sliceRick k => s.goalSlice t x == k | _ => false)

/-- A node that fails to pair at a rick is held there, or goes on towards its meeting place (R325, R326). -/
def State.restAt (s : State) (t : TreeSet) (p : NodePlace) (x : TreeNode) : State :=
  match p with
  | .coreRick c => s.holdAtCore t x c
  | .portRick q => s.holdAtPort x q
  | .sliceRick k => if s.atGoal t x p then s.holdAtSlice x k else s.sendOn t x
  | _ => s.hold x p

/-- R325 at a rick: the node pairs as often as it can, passes up unchanged where its sibling covers no leaf, and then stays
or goes on; at its meeting place the root is written. `fuel` bounds the levels. -/
def State.rick (s : State) (t : TreeSet) (p : NodePlace) : Nat → TreeNode → State
  | 0, x => s.settle x none
  | fuel + 1, x =>
    if x.level = t.top then (if s.atGoal t x p then (s.settle x none).writeRoot t x else s.goOn t p x)
    else
      let sib := x.index ^^^ 1
      if t.leaves ≤ sib * 2 ^ x.level then s.rick t p fuel { x with level := x.level + 1, index := x.index / 2 }
      else
        match s.fly.nodes.find? fun y =>
            sameElem x y && standsAt p y.place && y.level == x.level && y.index == sib with
        | some y =>
          let s1 := (s.liftNode y).settle x none
          if s1.unreadable y.place then s1.failElem x 4
          else
            let v := if x.index % 2 = 0 then treeOp t.op x.value y.value else treeOp t.op y.value x.value
            (s1.settle y none).rick t p fuel
              { x with level := x.level + 1, index := x.index / 2, value := v, origin := none, drain := false }
        | none => s.restAt t p x

/-- Whether a node of another epoch than the current one stays held (R322): while no launch of the handle is in flight, or
while it is one ahead. -/
def State.early (s : State) (x : TreeNode) : Bool :=
  match s.treeSet x.ctx x.handle with
  | none => true
  | some t => x.epoch != t.seq && ((s.launch t.launch).finished || x.epoch == (t.seq + 1) % 2 ^ 48)

/-- Whether a node is bound for another device, which judges its epoch (R322). -/
def State.bound (s : State) (t : TreeSet) (x : TreeNode) : Bool := (s.goalHome t x).isSome

/-- A node arrives at a rick (R322, R325, R329, R330): an early one is held, a stale one is discarded, where this is the device it is
bound for; LEAVES and OP must agree; nodes of a complete or failed element are discarded; a label that overlaps an entry fails the
element. -/
def State.arriveAt (s : State) (x : TreeNode) (p : NodePlace) : State :=
  match s.treeSet x.ctx x.handle with
  | none => s.hold x (.early (s.nodeSlice x.handle x.elem x.level x.index))
  | some t =>
    if s.early x && !s.bound t x then s.hold x (.early (s.goalSlice t x))
    else if x.epoch ≠ t.seq && !s.bound t x then
      (s.settle x none).fqWrite (s.ctx x.ctx) { cls := 12, code := 2, context := x.ctx, time := s.clk }
    else
      match s.elemState x.ctx x.handle x.elem x.epoch with
      | (0, _) =>
        (s.settle x none).updFly fun f => { f with elems := f.elems.map fun y =>
          if y.ctx = x.ctx ∧ y.handle = x.handle ∧ y.elem = x.elem ∧ y.seq = x.epoch then { y with cause := 1 } else y }
      | (1, _) => s.settle x none
      | _ =>
        if x.leaves ≠ t.leaves ∨ x.op ≠ t.op then (s.settle x none).failElem x 6
        else if s.fly.nodes.any fun y => sameElem x y && standsAt p y.place && overlaps x y then
          (s.settle x none).failElem x 1
        else s.rick t p 40 x

/-- A contribution, or a drained partial, leaves for the core rick of its core (R315, R332). -/
def State.contribute (s : State) (t : TreeSet) (core elem level index : Nat) (v : Dword)
    (origin : Option (Nat × Dword)) : State :=
  let x : TreeNode := ⟨s.nextId, t.ctx, t.handle, elem, t.seq, t.leaves, t.op, level, index, v, .toCore core, s.clk, origin, origin.isNone⟩
  (s.updFly fun f => { f with nodes := f.nodes ++ [x] }).takeId

/-- A tree set's launch retires (R329, R330): the elements that are still open, and whose root this device writes, fail
with cause 3, and one record names how many; a complete one of which a node is left had an extra copy. Those nodes are
discarded; nodes on their way to another device's root go on. -/
def State.closeTree (s : State) (t : TreeSet) : State :=
  if (s.nodeHome t t.top 0).isSome then s
  else
    let ours := fun (y : TreeNode) => y.ctx == t.ctx && y.handle == t.handle && y.epoch == t.seq
    let left := dedup ((s.fly.nodes.filter ours).map TreeNode.elem)
    let open_ := (List.range t.elems).filter fun e => (s.elemState t.ctx t.handle e t.seq).1 == 2
    let s1 := s.updFly fun f => { f with
      nodes := f.nodes.filter fun y => !ours y,
      elems := f.elems.map fun y =>
        if y.ctx == t.ctx && y.handle == t.handle && y.seq == t.seq && y.state == 0 && left.contains y.elem
        then { y with cause := 1 } else y }
    if open_ = [] then s1
    else
      let s2 := open_.foldl (fun s e =>
        let s := s.updFly fun f => { f with elems := f.elems ++ [⟨t.ctx, t.handle, e, t.seq, 1, 3, true, 2⟩] }
        s.writeStamp (s.ctx t.ctx) (t.stamp.toNat + 8 * e) 2 (stampBytes 2 t.seq)) s1
      s2.fq12 t.ctx 5 (t.handle % 2 ^ 20) (open_.length % 2 ^ 25)

/-- The tree sets of a launch close as it retires. -/
def State.closeTrees (s : State) (l : Nat) : State :=
  (s.fly.sets.filter fun t => t.launch == l).foldl State.closeTree s

end Sys2Proof.Machine
end

