-- ==== Sys2Proof/Machine/Windows.lean ====
section
/-!
DEFINITION. Windows and the copy engine (R216 to R225): region descriptors and their checks, fills, flushes, stamps,
first touches, unbinding, and the parked destinations of R415. A beat is one aligned 8-byte word of the window, the
width of a scratchpad bank (log 7).
-/

namespace Sys2Proof.Machine

/-! Descriptors (R216, R217). -/

/-- The fields of a region descriptor (R216). -/
structure Region where
  src : Nat
  win : Nat
  stampA : Nat
  ext : List Nat
  str : List Int
  mcast : Nat
  fmt : Nat
  kind : Nat
  ndim : Nat
  mstep : Nat
  deriving DecidableEq, Repr

/-- A signed 64-bit number. -/
def int64 (x : Nat) : Int := (BitVec.ofNat 64 x).toInt

/-- Reads a descriptor (R216). -/
def region (d : BitVec 512) : Region :=
  let n := d.toNat
  { src := bits n 0 64, win := bits n 64 32, stampA := bits n 96 32,
    ext := [bits n 128 32, bits n 160 32, bits n 192 32, bits n 224 32],
    str := [int64 (bits n 256 64), int64 (bits n 320 64), int64 (bits n 384 64)],
    mcast := bits n 448 16, fmt := bits n 464 4, kind := bits n 468 2, ndim := bits n 472 3, mstep := bits n 480 32 }

/-- The bits of an element of a format, by its code (R124). -/
def fmtBits (f : Nat) : Nat :=
  match f with
  | 0 => 32
  | 1 => 64
  | 2 => 16
  | 3 => 16
  | 8 => 4
  | 12 => 4
  | 13 => 4
  | 14 => 16
  | 15 => 16
  | _ => 8

/-- The window size Z (R216). -/
def Region.size (r : Region) : Nat := r.ext.foldl (· * ·) 1 * fmtBits r.fmt / 8

/-- The destinations of an entry (R218): the group it belongs to, its window and its stamp. -/
def Region.dests (r : Region) : List (Option Nat × Nat × Nat) :=
  if r.mcast = 0 then [(none, r.win, r.stampA)]
  else mapFrom (fun i g => (some g, r.win + i * r.mstep, r.stampA + 8 * i)) 0
    ((List.range 16).filter fun g => bit r.mcast g)

/-- Whether a descriptor fails the checks of R217 for a share of `s` bytes and a team of `groups` groups. -/
def regionBad (d : BitVec 512) (s groups : Nat) : Bool :=
  let n := d.toNat
  let r := region d
  let z := r.size
  let ds := r.dests
  decide (1 < r.kind) || decide (bits n 470 2 ≠ 0) || decide (bits n 475 5 ≠ 0) || decide (2 ^ 12 ≤ r.mcast) ||
  decide (2 ^ 24 ≤ r.win) || decide (2 ^ 24 ≤ r.stampA) ||
  decide ((if r.kind = 0 then 2 ^ 57 else 2 ^ 24) ≤ r.src) ||
  decide (r.fmt = 6) || decide (r.fmt = 7) || decide (r.ndim = 0) || decide (4 < r.ndim) ||
  r.ext.any (fun e => decide (e = 0) || decide (2 ^ 24 < e)) ||
  (r.ext.drop r.ndim).any (fun e => decide (e ≠ 1)) ||
  decide (r.win % 256 ≠ 0) || decide (r.stampA % 8 ≠ 0) || decide (r.mstep % 256 ≠ 0) ||
  (decide (fmtBits r.fmt = 4) && decide (r.ext.headD 0 % 2 ≠ 0)) ||
  (decide (r.mcast = 0) && decide (r.mstep ≠ 0)) || (decide (r.mcast ≠ 0) && decide (r.mstep < z)) ||
  ds.any (fun x => decide (s < x.2.1 + z) || decide (s < x.2.2 + 8)) ||
  ds.any (fun x => ds.any fun y => meets x.2.1 z y.2.2 8) ||
  decide (2 ^ 21 < z) || ds.any (fun x => decide (groups ≤ x.1.getD 0))

/-- The source address of a byte of the tile (R216): dimension 0 is dense, the others step by their strides. -/
def Region.srcOf (r : Region) (off : Nat) : Nat :=
  let row := max 1 (r.ext.headD 1 * fmtBits r.fmt / 8)
  let e1 := max 1 (r.ext.getD 1 1)
  let e2 := max 1 (r.ext.getD 2 1)
  let k := off / row
  let d := (k % e1 : Nat) * r.str.getD 0 0 + (k / e1 % e2 : Nat) * r.str.getD 1 0 + (k / e1 / e2 : Nat) * r.str.getD 2 0
  (((r.src + off % row : Nat) : Int) + d) % (2 ^ 64 : Int) |>.toNat

/-- The cluster address of a share-relative one (R208). -/
def Team.addr (m : Team) (a : Nat) : Nat := m.cluster * 2 ^ 24 + m.base + a

/-- The cluster address of a share-relative one, as the share lay when the job began. -/
def Job.addr (j : Job) (a : Nat) : Nat := j.cluster * 2 ^ 24 + j.base + a

/-- The index of the destination that serves a group, and whether the group is outside the multicast set (R271). -/
def destOf (r : Region) (g : Nat) : Nat × Bool :=
  if r.mcast = 0 then (0, false)
  else
    match pos (fun x : Option Nat × Nat × Nat => x.1 == some g) r.dests with
    | some i => (i, false)
    | none => (0, true)

/-! Jobs. -/

/-- Whether a cluster's copy engine has no place left (R220). -/
def State.copyFull (s : State) (cluster : Nat) : Bool :=
  decide (32 ≤ (s.fly.jobs.filter fun j => j.queued && j.cluster == cluster).length)

/-- Changes an entry of a team's region table. -/
def State.updEntry (s : State) (m e : Nat) (f : Entry → Entry) : State :=
  s.updTeam m fun t => { t with entries := upd t.entries e f }

/-- An entry of a team's region table. -/
def State.entry (s : State) (m e : Nat) : Entry := ((s.team m).entries[e]?).getD {}

/-- A list with those of others that it lacks. -/
def addMoved (l ls : List (Nat × Nat)) : List (Nat × Nat) := l ++ (ls.filter fun x => !l.contains x).eraseDups

/-- A counted operation has been performed: its counter will fall by one, with the error it holds, and the lines that it has moved
are charged then (R180, R181, R450). -/
def State.finish (s : State) (id t : Nat) (pc : Dword) (c : Ctr) (moved : List (Nat × Nat)) (err : Option Failure) : State :=
  s.updFly fun f => { f with ops := f.ops ++ [
    { id := id, batch := id, thread := t, core := (s.thr t).core, pc := pc, kind := .done c err, moves := moved }] }

/-- More writes of a counted operation have been made, to `lines` of device memory, or have gone to other devices; it is performed
once each has its answer (R246), and its stamp, as (scratchpad address, SEQ), is written then. It has moved lines (R450). -/
def State.finishParts (s : State) (id t : Nat) (pc : Dword) (c : Ctr) (stamp : Option (Nat × Nat)) (reqs : List (Nat × Nat))
    (lines : List Nat) (moved : List (Nat × Nat)) (err : Option Failure) : State :=
  let more := fun (o : Op) =>
    match o.kind with
    | .parts rs e c st =>
      if o.id = id then
        { o with kind := .parts (rs ++ reqs) (e.or err) c st, lines := dedup (o.lines ++ lines), moves := addMoved o.moves moved }
      else o
    | _ => o
  let ops := s.fly.ops
  let known := ops.any fun o => o.id == id
  s.updFly fun f => { f with
    ops := if known then ops.map more else ops ++ [
      { id := id, batch := id, thread := t, core := (s.thr t).core, pc := pc, kind := .parts reqs err c stamp, lines := lines,
        moves := moved }] }

/-- Every answer of such an operation has come: its stamp is written, and it is performed. -/
def State.partsDone (s : State) (o : Op) : State :=
  match o.kind with
  | .parts [] err c stamp =>
    if s.fly.jobs.any (fun j => j.id == o.id) || s.fly.mops.any (fun x => x.id == o.id) then s
    else
    let s1 := match stamp with
      | some x => s.writeSpad x.1 (stampBytes (if err.isSome then 1 else 0) x.2)
      | none => s
    s1.updFly fun f => { f with ops := f.ops.map fun x => if x.id = o.id then { x with kind := .done c err } else x }
  | _ => s

/-- The line that a byte of a tile lies in outside the window, as it is charged (R450). -/
def State.tileLine (s : State) (j : Job) (off : Nat) : Nat × Nat :=
  let r := region j.desc
  let a := r.srcOf off
  if r.kind = 1 then (1, a / 128)
  else
    match s.walkPage (s.ctx (s.launch (s.team j.team).launch).ctx) a with
    | .ok l => (match l.place with | .peer _ _ => 4 | _ => 3, a / 128)
    | .error _ => (3, a / 128)

/-- The lines that bytes of a tile move with those of its windows, each window's told apart by its destination's index (R450). -/
def State.tileLines (s : State) (j : Job) (offs dests : List Nat) : List (Nat × Nat) :=
  addMoved [] (offs.map (s.tileLine j) ++ dests.flatMap fun i => offs.map fun o => (1, (i + 1) * 2 ^ 24 + o / 128))

/-- A fill or flush has moved lines. -/
def State.jobMoved (s : State) (id : Nat) (ls : List (Nat × Nat)) : State :=
  s.updFly fun f => { f with jobs := f.jobs.map fun x => if x.id = id then { x with moved := addMoved x.moved ls } else x }

/-- A job leaves the copy engine, and the counted operation it stands for is performed. The lines that it has moved are charged: with
that operation, or now to the touching team, on its first core (R450). -/
def State.endJob (s : State) (j : Job) (err : Option Failure) : State :=
  let moved := ((s.fly.jobs.find? fun x => x.id == j.id).getD j).moved
  let s := s.updFly fun f => { f with jobs := f.jobs.filter fun x => x.id ≠ j.id }
  match j.starter with
  | none => let t := s.team j.team; s.chargeLines (s.launch t.launch).ctx (t.cores.headD 0) moved
  | some t => s.finish j.id t j.pc (if j.flush.isSome then .st else .gx) moved err

/-- Whether a destination takes the bytes of a job. -/
def Dest.takes (d : Dest) (j : Job) : Bool := d.state == .arriving && d.job == j.id

/-- The fill of an entry, waiting or under way; one that serves parked destinations only is none of it. -/
def State.fillOf (s : State) (m e : Nat) : Option Job :=
  s.fly.jobs.find? fun j => j.team == m && j.entry == e && j.flush.isNone &&
    (!j.queued || (s.entry m e).dests.any fun d => d.takes j)

/-- A waiting fill enters the copy queue: SEQ := SEQ + 1 and every destination becomes arriving (R218, R220). -/
def State.enterQueue (s : State) (j : Job) : State :=
  let seq := (s.entry j.team j.entry).seq + 1
  let s := s.updEntry j.team j.entry fun e =>
    { e with seq := seq, dests := e.dests.map fun _ => { state := .arriving, landed := [], job := j.id } }
  s.updFly fun f => { f with jobs := f.jobs.map fun x =>
    if x.id = j.id then { x with queued := true, begun := true, seq := seq } else x }

/-- A new fill of an entry, at once in the queue where there is room (R219, R220). -/
def State.newFill (s : State) (m e : Nat) (starter : Option Nat) (first : List Nat) (pc : Dword) : State :=
  let t := s.team m
  let j : Job := { id := s.nextId, team := m, cluster := t.cluster, base := t.base, size := t.size, entry := e,
                   seq := 0, desc := (s.entry m e).desc, flush := none, starter := starter, pc := pc,
                   queued := false, begun := false, first := first }
  let full := s.copyFull t.cluster
  let s := (s.updFly fun f => { f with jobs := f.jobs ++ [j] }).takeId
  if full then s else s.enterQueue j

/-- A first touch of an absent entry at window offsets (R219): starts its fill unless one is waiting already, which then
fetches those bytes first too. -/
def State.firstTouch (s : State) (m e : Nat) (offs : List Nat) (pc : Dword) : State :=
  match s.fillOf m e with
  | some j => s.updFly fun f => { f with jobs := f.jobs.map fun x =>
      if x.id = j.id then { x with first := x.first ++ offs } else x }
  | none => s.newFill m e none offs pc

/-! What a read of the share meets (R219). -/

/-- The bound destinations of a team whose windows meet a range: entry, destination, and window offsets read. -/
def State.coverings (s : State) (m a len : Nat) : List (Nat × Dest × List Nat) :=
  (mapFrom (fun e (x : Entry) =>
    let r := region x.desc
    let z := r.size
    ((x.dests.zip r.dests).filter fun p => p.1.state ≠ .unbound && meets p.2.2.1 z a len).map fun p =>
      (e, p.1, ((List.range len).filter fun i => decide (p.2.2.1 ≤ a + i) && decide (a + i < p.2.2.1 + z)).map
        fun i => a + i - p.2.2.1)) 0 (s.team m).entries).flatten

/-- The entries whose destinations a read finds absent. -/
def State.absentIn (s : State) (m a len : Nat) : List Nat :=
  dedup (((s.coverings m a len).filter fun x => x.2.1.state == .absent).map fun x => x.1)

/-- The window offsets at which a read touches an absent entry. -/
def State.touchedIn (s : State) (m e a len : Nat) : List Nat :=
  (((s.coverings m a len).filter fun x => x.1 == e && x.2.1.state == .absent).map fun x => x.2.2).flatten

/-- The entries whose destinations are arriving without all the bytes that a read needs. -/
def State.arrivingIn (s : State) (m a len : Nat) : List Nat :=
  dedup (((s.coverings m a len).filter fun x =>
    x.2.1.state == .arriving && !(x.2.2.all fun o => x.2.1.landed.contains o)).map fun x => x.1)

/-- Whether a read needs bytes of parked destinations that a fill has yet to bring (R415, R463). -/
def State.parkedLacks (s : State) (p : Job → Bool) (m a len : Nat) : Bool :=
  (s.coverings m a len).any fun x =>
    match x.2.1.state with
    | .parked im => s.fly.jobs.any fun j => p j && j.team == m && j.entry == x.1 &&
        j.shadows.any fun y => y.2.1 == im && !(x.2.2.all fun o => y.2.2.contains o)
    | _ => false

/-- Whether a read of the share waits for bytes of a window (R219, R463). -/
def State.mustWait (s : State) (m a len : Nat) : Bool :=
  decide (s.absentIn m a len ≠ []) || decide (s.arrivingIn m a len ≠ []) || s.parkedLacks (fun _ => true) m a len

/-- The first touches of a read. -/
def State.touchAll (s : State) (m a len : Nat) (pc : Dword) : State :=
  (s.absentIn m a len).foldl (fun r e => r.firstTouch m e (s.touchedIn m e a len) pc) s

/-! Fills. -/

/-- What a fill finds at a source byte: the byte, a wait for bytes of a peer window (entry, offset), which come by a
request (R230), or the failure of R223. -/
inductive Source where
  | byte (b : Byte)
  | away (entry off : Nat)
  | bad (f : Failure)
  deriving DecidableEq, Repr

/-- The source byte of a fill. A peer's byte is the one that the answer to the beat's request holds. -/
def State.sourceByte (s : State) (j : Job) (off : Nat) : Source :=
  let r := region j.desc
  let a := r.srcOf off
  let c := s.ctx (s.launch (s.team j.team).launch).ctx
  let fail := fun (x : Nat × Nat) => Failure.mk x.1 x.2 (BitVec.ofNat 64 a) 1 j.pc
  if r.kind = 1 then
    if j.size < a + 1 then .bad (fail (5, 2))
    else if s.spadBad (j.addr a) 1 then .bad (fail (5, 6))
    else .byte (cellGet s.sto.spad (j.addr a))
  else
    match s.xlate c a 1 with
    | .error x => .bad (fail x)
    | .ok (.mem pa) => if s.memBad pa 1 then .bad (fail (5, 6)) else .byte (s.memByte pa)
    | .ok (.peer e k) =>
      match s.peerAnswer (.beat j.id off) with
      | none => .away e k
      | some (.ok bs) => .byte (bs.headD 0)
      | some (.error x) => .bad (fail x)
    | .ok _ => .bad (fail (4, 3))

/-- A `wait` of a team's thread that depends on bytes of a fill that did not land becomes a failed fill (R223). `ours` says whether the
fill serves destinations of the region table. -/
def failWait (s : State) (j : Job) (ours : Bool) (f : Failure) (o : Op) : Op :=
  match o.kind with
  | .wait dst words a len _ _ =>
    if s.teamOf o.thread == j.team && ((ours && (s.arrivingIn j.team a len).contains j.entry) ||
        s.parkedLacks (fun x => x.id == j.id) j.team a len) then
      { o with kind := .fill dst words (.error { f with pc := o.pc }) none }
    else o
  | _ => o

/-- The flushes that waited for a fill that fails are not performed: each writes its stamp of status 01 (R225). -/
def State.failFlushes (s : State) (m e : Nat) : State :=
  (s.fly.jobs.filter fun j => j.team == m && j.entry == e && !j.begun).foldl (fun s j =>
    match j.flush.bind fun i => (region j.desc).dests[i]? with
    | some p => (s.writeSpad (j.addr p.2.2) (stampBytes 1 j.seq)).endJob j none
    | none => s) s

/-- Whether a fill serves destinations of the region table, not parked ones only. -/
def State.serves (s : State) (j : Job) : Bool := (s.entry j.team j.entry).dests.any fun d => d.takes j

/-- A fill fails (R223): every arriving destination gets the stamp of status 01 and is absent again, parked ones get
theirs in the image, and what waited on the missing bytes of this fill fails. -/
def State.failFill (s : State) (j : Job) (f : Failure) : State :=
  let c := s.ctx (s.launch (s.team j.team).launch).ctx
  let ds := (s.entry j.team j.entry).dests.zip (region j.desc).dests
  let ours := s.serves j
  let s := s.updFly fun x => { x with
    ops := s.fly.ops.map (failWait s j ours f),
    mops := x.mops.map fun o =>
      if ours ∧ o.team = j.team ∧ o.waits.contains j.entry then { o with doomed := some f } else o }
  let s := ds.foldl (fun s p =>
    if p.1.takes j then s.writeSpad (j.addr p.2.2.2) (stampBytes 1 j.seq) else s) s
  let gone := fun (d : Dest) => if d.takes j then ({ state := .absent } : Dest) else d
  let s := s.updEntry j.team j.entry fun e => { e with dests := e.dests.map gone }
  let s := j.shadows.foldl (fun s x => s.vput c x.2.1.toNat (stampBytes 1 j.seq)) s
  (if ours then s.failFlushes j.team j.entry else s).endJob j (some f)

/-- Whether every byte of an arriving destination has landed. -/
def landedAll (z : Nat) (l : List Nat) : Bool := decide (z ≤ l.length)

/-- Adds the offsets of a beat to those that have landed. -/
def addLanded (l os : List Nat) : List Nat := l ++ os.filter fun o => !l.contains o

/-- Whether a destination of a fill still lacks a byte. -/
def State.lacks (s : State) (j : Job) (off : Nat) : Bool :=
  ((s.entry j.team j.entry).dests.any fun d => d.takes j && !d.landed.contains off) ||
  j.shadows.any fun x => !x.2.2.contains off

/-- Of some offsets not yet done, those that a transfer performs now: each byte is an event of its own, so which come
together is a free choice (R237), and so is the one that always comes. -/
def State.someOf (s : State) (l : List Nat) : List Nat :=
  let must := l[s.pick (2 ^ 40) l.length]?
  l.filter fun o => must == some o || s.pick o 2 == 0

/-- A read that waits for bytes of a parked destination receives one as it lands in the image (R463). -/
def State.give (s : State) (m a : Nat) (b : Byte) : State :=
  s.updFly fun f => { f with ops := f.ops.map fun o =>
    match o.kind with
    | .wait _ _ x n _ _ => if s.teamOf o.thread = m ∧ x ≤ a ∧ a < x + n then { o with got := (a, b) :: o.got } else o
    | _ => o }

/-- A byte of a fill lands in each arriving destination and in each parked one (R221, R415). -/
def State.landByte (s : State) (j : Job) (off : Nat) (b : Byte) : State :=
  let c := s.ctx (s.launch (s.team j.team).launch).ctx
  let ds := (s.entry j.team j.entry).dests.zip (region j.desc).dests
  let s := ds.foldl (fun s p => if p.1.takes j then s.writeSpad (j.addr (p.2.2.1 + off)) [b] else s) s
  let landed := fun (d : Dest) => if d.takes j then { d with landed := addLanded d.landed [off] } else d
  let s := s.updEntry j.team j.entry fun e => { e with dests := e.dests.map landed }
  j.shadows.foldl (fun s x =>
    (s.vput c (x.2.1.toNat + 256 + off) [b]).give j.team ((((region j.desc).dests[x.1]?).elim 0 fun d => d.2.1) + off) b) s

/-- Bytes of a fill's beat land, the touched ones of its window before any other (R219, R221, R237), or the fill fails, or requests for a peer's bytes go out. -/
def State.beat (s : State) (j : Job) (off : Nat) : State :=
  let r := region j.desc
  let early := j.first.any fun o => s.lacks j o
  let os := s.someOf (((List.range 8).map fun i => off / 8 * 8 + i).filter fun o =>
    decide (o < r.size) && s.lacks j o && (!early || j.first.contains o))
  let xs := os.map fun o => (o, s.sourceByte j o)
  match xs.findSome? fun x => match x.2 with | .bad f => some f | _ => none with
  | some f => s.failFill j f
  | none =>
    let ctx := (s.launch (s.team j.team).launch).ctx
    let s1 := xs.foldl (fun s x =>
      match x.2 with
      | .byte b => (s.landByte j x.1 b).dropRead (.beat j.id x.1)
      | .away e k => s.readPeer ctx (.beat j.id x.1) e k 1
      | .bad _ => s) s
    let got := xs.filterMap fun x => match x.2 with | .byte _ => some x.1 | _ => none
    let into := (allPos (fun (d : Dest) => d.takes j) (s.entry j.team j.entry).dests) ++ j.shadows.map Prod.fst
    let s2 := (s1.jobMoved j.id (s.tileLines j got into)).noteTlbs (s.ctx ctx) (if r.kind = 1 then [] else os.map r.srcOf)
    s2.updFly fun f => { f with jobs := f.jobs.map fun x =>
      if x.id = j.id then { x with shadows := x.shadows.map fun y => (y.1, y.2.1, addLanded y.2.2 got) } else x }

/-- The fill ends once no destination is left to it. -/
def State.settleFill (s : State) (id : Nat) : State :=
  match s.fly.jobs.find? fun j => j.id == id with
  | none => s
  | some j =>
    if (s.entry j.team j.entry).dests.any (fun d => d.takes j) || j.shadows ≠ [] then s
    else s.endJob j none

/-- The stamp of a destination whose bytes have all landed (R222). -/
def State.stampDest (s : State) (j : Job) (i : Nat) : State :=
  let r := region j.desc
  let c := s.ctx (s.launch (s.team j.team).launch).ctx
  match j.shadows.find? fun x => x.1 == i with
  | some x =>
    if landedAll r.size x.2.2 then
      let s := s.vput c x.2.1.toNat (stampBytes 0 j.seq)
      (s.updFly fun f => { f with jobs := f.jobs.map fun y =>
        if y.id = j.id then { y with shadows := y.shadows.filter fun z => z.1 ≠ i } else y }).settleFill j.id
    else s
  | none =>
    match (s.entry j.team j.entry).dests[i]?, r.dests[i]? with
    | some d, some p =>
      if d.takes j && landedAll r.size d.landed then
        let s := s.writeSpad (j.addr p.2.2) (stampBytes 0 j.seq)
        (s.updEntry j.team j.entry fun e => { e with dests := upd e.dests i fun _ => { state := .present } }).settleFill j.id
      else s
    | _, _ => s

/-! Unbinding. -/

/-- A queued flush of some destinations that has not begun is dropped without error (R225). -/
def State.dropFlushes (s : State) (m e : Nat) (p : Nat → Bool) : State :=
  (s.fly.jobs.filter fun j => j.team == m && j.entry == e && !j.begun && (j.flush.map p).getD false).foldl
    (fun s j => s.endJob j none) s

/-- A fill has lost destinations of the region table: it goes on for those that are left, and for parked ones. -/
def State.dropFill (s : State) (j : Job) : State :=
  let ds := (s.entry j.team j.entry).dests
  if j.queued then s.settleFill j.id
  else if ds.any fun d => d.state == .absent then s
  else s.endJob j none

/-- The orphaned-delivery record of a dropped destination (R218, R399). -/
def State.orphan (s : State) (m : Nat) (g : Option Nat) : State :=
  let t := s.team m
  let ctx := (s.launch t.launch).ctx
  s.fqWrite (s.ctx ctx) { cls := 12, code := 1, context := ctx, team := t.idx, group := g.getD 0, time := s.clk }

/-- Unbinds those destinations of an entry whose index satisfies `p` (R218, R221, R269): by the program, arriving ones get the stamp
of status 10; at retirement, parking or by the save routine, each arriving one leaves a record and no stamp. The destinations
become `next`, and the others complete. -/
def State.unbindOf (s : State) (m e : Nat) (program : Bool) (next : DestState) (p : Nat → Bool) : State :=
  let x := s.entry m e
  let t := s.team m
  let ds := (mapFrom Prod.mk 0 (x.dests.zip (region x.desc).dests)).filter fun y => p y.1 && y.2.1.state == .arriving
  let s1 := ds.foldl (fun s y =>
    if program then s.writeSpad (t.addr y.2.2.2.2) (stampBytes 2 x.seq) else s.orphan m y.2.2.1) s
  let s2 := s1.updEntry m e fun x => { x with dests := mapFrom (fun i d => if p i then { state := next } else d) 0 x.dests }
  ((s.fillOf m e).elim s2 s2.dropFill).dropFlushes m e p

/-- Unbinds an entry, all its destinations alike. -/
def State.unbind (s : State) (m e : Nat) (program : Bool) (next : DestState) : State :=
  s.unbindOf m e program next fun _ => true

/-- The destinations of a retiring team that SVWIN has parked are dropped: later beats land nowhere, with a record for
each (R218). -/
def State.dropParked (s : State) (m : Nat) : State :=
  (s.fly.jobs.filter fun j => j.team == m && j.shadows ≠ []).foldl (fun s j =>
    (j.shadows.foldl (fun s x => s.orphan m (((region j.desc).dests[x.1]?).bind fun d => d.1)) s).endJob j none) s

/-- Every entry of a team is unbound, at its retirement or parking (R218). -/
def State.unbindAll (s : State) (m : Nat) : State :=
  (List.range 64).foldl (fun s e => s.unbind m e false .unbound) s

/-- The windows of a group that is ended alone (R401, R412) lose their deliveries (R221's cases): an arriving destination of its own
is unbound with a record, and the others complete. DEDUCED: R218 names the team's retirement (log 53). -/
def State.unbindGroup (s : State) (g : Nat) : State :=
  let x := s.grp g
  (List.range 64).foldl (fun s e =>
    let y := s.entry x.team e
    let own := fun i => ((region y.desc).dests[i]?).elim false fun d => d.1 == some x.idx
    if y.dests.any fun d => d.state == .arriving then s.unbindOf x.team e false .unbound fun i =>
      own i && ((y.dests[i]?).getD {}).state == .arriving
    else s) s

/-! Flushes (R225). -/

/-- The lines of device memory that places lie in. -/
def memLines (l : List Place) : List Nat :=
  (l.filterMap fun q => match q with | .mem a => some (a / 128) | _ => none).eraseDups

/-- Writes bytes of a flush, at the offsets given, through the strides: what it leaves with the requests sent, and the first
failure; where there is one, a byte that translates is written or not by a free choice (log 9). The lines of device memory that
it writes are the second component. -/
def State.flushBytes (s : State) (j : Job) (win : Nat) (os : List Nat) :
    (State × List (Nat × Nat)) × List Nat × Option Failure :=
  let r := region j.desc
  let c := s.ctx (s.launch (s.team j.team).launch).ctx
  let place := fun o =>
    let a := r.srcOf o
    let fail := fun (x : Nat × Nat) => Failure.mk x.1 x.2 (BitVec.ofNat 64 a) 2 j.pc
    if r.kind = 1 then if j.size < a + 1 then Except.error (fail (5, 2)) else .ok (Place.spad (j.addr a))
    else
      match s.xlate c a 2 with
      | .error x => .error (fail x)
      | .ok (.peer e k) => if (s.peerOf c e).isSome then .ok (.peer e k) else .error (fail (5, 5))
      | .ok p => .ok p
  let ps := os.map fun o => (o, place o)
  let bad := ps.findSome? fun p => match p.2 with | .error f => some f | .ok _ => none
  let kept := ps.filterMap fun p =>
    match p.2 with
    | .error _ => none
    | .ok q => if bad.isNone || s.pick p.1 2 == 0 then some (r.srcOf p.1, q, cellGet s.sto.spad (j.addr win + p.1)) else none
  (s.writeRuns c (runsAt kept), memLines (kept.map fun x => x.2.1), bad)

/-- A flush leaves the shadow records of the lines it writes flushed (R254). -/
def State.flushShadow (s : State) (j : Job) : State :=
  let r := region j.desc
  let c := s.ctx (s.launch (s.team j.team).launch).ctx
  let vas := if r.kind = 1 then [] else (List.range r.size).map r.srcOf
  let lines := (vas.filterMap fun a =>
    match s.xlate c a 2 with
    | .ok (.mem pa) => if s.tracked j.team a pa then some (pa / 128) else none
    | _ => none).eraseDups
  lines.foldl (fun s l => s.updSto fun st =>
    { st with shadow := st.shadow.filter (fun x => x.line ≠ l) ++ [⟨l, (s.team j.team).launch, j.team, true⟩] }) s

/-- A begun flush goes on: some of its bytes are written (R237); once all are, or one has failed, its stamp follows when
every other device has answered (R222, R225). Memory that reads uncorrectable fails it. -/
def State.doFlush (s : State) (j : Job) (dest : Nat) : State :=
  match (region j.desc).dests[dest]? with
  | none => s.endJob j none
  | some p =>
    let z := (region j.desc).size
    let stamp := some (j.addr p.2.2, j.seq)
    let leave := fun (s : State) => s.updFly fun f => { f with jobs := f.jobs.filter fun x => x.id ≠ j.id }
    let t := j.starter.getD s.threads.length
    if s.spadBad (j.addr p.2.1) z then
      (leave s).finishParts j.id t j.pc .st stamp [] [] [] (some ⟨5, 6, BitVec.ofNat 64 p.2.1, 1, j.pc⟩)
    else
      let os := s.someOf ((List.range z).filter fun o => !j.wrote.contains o)
      let c := s.ctx (s.launch (s.team j.team).launch).ctx
      let s0 := (if j.wrote = [] then s.flushShadow j else s).noteTlbs c
        (if (region j.desc).kind = 1 then [] else os.map (region j.desc).srcOf)
      let r := s0.flushBytes j p.2.1 os
      let wrote := j.wrote ++ os
      let moved := s.tileLines j os [dest]
      if r.2.2.isSome || decide (z ≤ wrote.length) then
        (leave r.1.1).finishParts j.id t j.pc .st stamp r.1.2 r.2.1 moved r.2.2
      else
        (r.1.1.finishParts j.id t j.pc .st stamp r.1.2 r.2.1 moved none).updFly fun f => { f with jobs := f.jobs.map fun x =>
          if x.id = j.id then { x with wrote := wrote } else x }

end Sys2Proof.Machine
end

