-- ==== Sys2Proof/Machine/Matrix.lean ====
section
/-!
DEFINITION. The matrix engines (files 13 and 14): headers and shapes, operand descriptors and their checks, the
generator of seeded sparsity, issue, the engine queues, chunk values, tree stacks, and what each operation does when
it completes. Every element of an accumulator is element 48 × row + column of its lists.
-/

namespace Sys2Proof.Machine

/-! Headers and shapes (R284, R297, R308, R310). -/

/-- The fields of an operand header (R308). -/
structure MHdr where
  asrc : Nat
  bsrc : Nat
  af : Nat
  bf : Nat
  res : Nat
  acc : Nat
  gs : Nat
  pat : Nat
  kv : Nat
  deriving DecidableEq, Repr

/-- Reads a header word (R308). -/
def mhdr (w : Word) : MHdr :=
  let n := w.toNat
  ⟨bits n 30 2, bits n 28 2, bits n 24 4, bits n 20 4, bits n 16 4, bits n 14 2, bits n 12 2, bits n 9 3, bits n 0 9⟩

/-- The shape fields of a header: ASRC, BSRC, AFMT, BFMT and PAT (R308). -/
def shapeOf (w : Word) : Nat := bits w.toNat 20 12 * 8 + bits w.toNat 9 3

/-- A header word with the shape fields that a round's first signature recorded (R309). -/
def withShape (w : Word) (shape : Nat) : Word :=
  (w &&& 0x000FF1FF) ||| BitVec.ofNat 32 (shape / 8 * 2 ^ 20 + shape % 8 * 2 ^ 9)

/-- A row of R284: the logical depth, q, the leaf's width w (0 for exact integer leaves), and the elements that a row
of A keeps. -/
structure Shape where
  depth : Nat
  q : Nat
  w : Nat
  kept : Nat
  deriving DecidableEq, Repr

/-- Whether a format code is an 8-bit or FP6 floating-point one. -/
def isFloat8 (f : Nat) : Bool := decide (4 ≤ f) && decide (f ≤ 7)

/-- The dense row of R284 for a pairing. -/
def pairing (a b : Nat) : Option Shape :=
  let i8 := fun f => decide (f = 10) || decide (f = 11)
  let i4 := fun f => decide (f = 12) || decide (f = 13)
  if a = 8 ∧ b = 8 then some ⟨128, 8, 24, 128⟩
  else if (isFloat8 a || decide (a = 8)) && (isFloat8 b || decide (b = 8)) then some ⟨64, 4, 24, 64⟩
  else if i4 a && i4 b then some ⟨128, 8, 0, 128⟩
  else if (i8 a || i4 a) && (i8 b || i4 b) then some ⟨64, 4, 0, 64⟩
  else if a = b ∧ (a = 2 ∨ a = 3) then some ⟨32, 2, 39, 32⟩
  else none

/-- The shape of a header for an opcode (1 MMA, 2 MMAS, 3 GMMA), if it is a row of R284 (R297, R310). -/
def MHdr.shape (h : MHdr) (op : Nat) : Option Shape :=
  if h.asrc = 3 then none
  else
    match pairing h.af h.bf with
    | none => none
    | some p =>
      if op = 2 then
        if p.w = 24 ∧ 1 ≤ h.pat ∧ h.pat ≤ 3 then
          some ⟨2 * p.depth, 2 * p.q, p.w, if h.pat = 2 then p.depth / 2 else p.depth⟩
        else none
      else if h.pat = 0 then some p
      else none

/-- The group size G, 0 for none (R308). -/
def MHdr.group (h : MHdr) : Nat := if h.gs = 0 then 0 else 16 * 2 ^ h.gs

/-- The groups of a tile (R295): 1 when it is not split. -/
def MHdr.split (h : MHdr) (p : Shape) : Nat := if h.group ≠ 0 ∧ h.group < p.depth then p.depth / h.group else 1

/-- Whether the issue-time rules of R310 fail. -/
def MHdr.bad (h : MHdr) (op : Nat) (p : Shape) : Bool :=
  let t := h.split p
  (decide (h.gs ≠ 0) && (decide (p.w ≠ 0) || op == 3)) || decide (p.depth < h.kv) ||
  decide (h.acc % t ≠ 0) || decide (4 < h.acc + t) || (op == 3 && decide (h.acc % 2 ≠ 0))

/-- The valid depth (R308). -/
def MHdr.valid (h : MHdr) (p : Shape) : Nat := if h.kv = 0 then p.depth else h.kv

/-- A chunk block that a tile delivers: its accumulator, its first chunk counted from the tile's, q′, the chunks that
are present, and which A it uses (R280, R295). -/
structure Block where
  acc : Nat
  off : Nat
  q : Nat
  r : Nat
  half : Nat
  deriving DecidableEq, Repr

/-- The blocks of a tile, one for each target accumulator: two for a joint GMMA, one for each group under a split; one at
or beyond the valid depth has no chunk (R295, R298, R310). -/
def MHdr.targets (h : MHdr) (op : Nat) (p : Shape) (accs : List Nat) : List Block :=
  let r := (h.valid p + 15) / 16
  if h.split p = 1 then
    mapFrom (fun i a => ⟨a, 0, p.q, r, if op = 3 then i else 0⟩) 0 accs
  else
    let q := h.group / 16
    mapFrom (fun u a => Block.mk a (u * q) q (min q (r - u * q)) 0) 0 accs

/-- The blocks that a tile delivers (R295). -/
def MHdr.blocks (h : MHdr) (op : Nat) (p : Shape) (accs : List Nat) : List Block :=
  (h.targets op p accs).filter fun b => decide (0 < b.r)

/-! Operands (R287 to R291). -/

/-- The bits of an element of an operand's main plane: FP6 keeps four there (R38). -/
def planeBits (f : Nat) : Nat := if f = 6 ∨ f = 7 then 4 else fmtBits f

/-- The bytes of a row's main plane. -/
def rowBytes (f n : Nat) : Nat := n * planeBits f / 8

/-- The bytes of a row's upper plane: none but for FP6 (R38). -/
def upperBytes (f n : Nat) : Nat := if f = 6 ∨ f = 7 then n / 4 else 0

/-- The registers that a row fills (R287). -/
def rowWords (f n : Nat) : Nat := (rowBytes f n + upperBytes f n + 3) / 4

/-- The codes of a row of n elements from its planes (R31, R36, R38). -/
def rowCodes (f n : Nat) (main upper : List Byte) : List Nat :=
  let m := bytesVal main
  let u := bytesVal upper
  (List.range n).map fun k =>
    if f = 6 ∨ f = 7 then bits m (4 * k) 4 + 16 * bits u (2 * k) 2 else bits m (fmtBits f * k) (fmtBits f)

/-- An operand in memory: where it lies (1 scratchpad, 2 weight store, 3 global), its base, pitch and companion offset,
its rotation code, and its rows, elements and format. -/
structure MOpnd where
  space : Nat
  base : Nat
  pitch : Nat
  tp : Nat
  rot : Nat
  rows : Nat
  n : Nat
  fmt : Nat
  records : Nat
  deriving DecidableEq, Repr

/-- Whether a format code is an integer one. -/
def isInt (f : Nat) : Bool := decide (10 ≤ f)

/-- Reads the descriptor words of an operand (R288, R289). `records` is the group records of a row. -/
def mopnd (space : Nat) (ws : List Word) (rows n fmt records : Nat) : MOpnd :=
  let w0 := (ws.getD 0 0).toNat
  let w1 := (ws.getD 1 0).toNat
  let w2 := (ws.getD 2 0).toNat
  match space with
  | 1 => ⟨1, bits w0 0 24, bits w1 0 16, 256 * bits w1 16 16, bits w0 24 3, rows, n, fmt, records⟩
  | 2 => ⟨2, bits w0 0 31, bits w1 0 16, 256 * bits w1 16 16, 0, rows, n, fmt, records⟩
  | _ => ⟨3, w0 + 2 ^ 32 * w1, bits w2 0 16, 256 * bits w2 16 16, 0, rows, n, fmt, records⟩

/-- Where byte b of row i lies (R210, R288). -/
def MOpnd.at_ (o : MOpnd) (i b : Nat) : Nat :=
  o.base + i * o.pitch + (b / 16 ^^^ i % 2 ^ o.rot) * 16 + b % 16

/-- The byte ranges that an operand's rows touch: main planes in pieces of 16 bytes, upper planes, records (R290). -/
def MOpnd.ranges (o : MOpnd) : List (Nat × Nat) :=
  let rb := rowBytes o.fmt o.n
  let ub := upperBytes o.fmt o.n
  let main := ((List.range o.rows).map fun i =>
    (List.range ((rb + 15) / 16)).map fun k => (o.at_ i (16 * k), min 16 (rb - 16 * k))).flatten
  let upper := if ub = 0 then [] else (List.range o.rows).map fun i => (o.base + o.tp + i * o.pitch / 2, ub)
  let recs := if isInt o.fmt && decide (o.tp ≠ 0) then
      [(o.base + o.tp, (if o.n = 48 then 48 else o.rows) * o.records * 4)] else []
  main ++ upper ++ recs

/-- The least power of two that is not below a plane's size, at most 256 (R39). -/
def planeAlign (n : Nat) : Nat := if n ≤ 1 then 1 else min 256 (2 ^ (Nat.log2 (n - 1) + 1))

/-- Whether a descriptor fails R288 to R290: the operand-descriptor fault; also a global base with bits [63:57] set, for which R207
gives a translation fault: DESIGN CHOICE, as R291 lists the same bits (log 52). The last condition is a record array (TPITCH
not 0) under a header that names no group size: the spec gives it no fate. DESIGN CHOICE (log 18, unsafe): it is this
fault. -/
def MOpnd.bad (o : MOpnd) (ws : List Word) : Bool :=
  let w0 := (ws.getD 0 0).toNat
  (o.space == 1 && (decide (2 ^ 27 ≤ w0) || decide (5 < o.rot))) ||
  (o.space == 2 && decide (2 ^ 31 ≤ w0)) ||
  (o.space == 3 && decide (2 ^ 57 ≤ o.base)) ||
  decide (o.base % 16 ≠ 0) || decide (o.pitch % 16 ≠ 0) || decide (o.pitch < rowBytes o.fmt o.n) ||
  decide (o.pitch % (16 * 2 ^ o.rot) ≠ 0) ||
  (upperBytes o.fmt o.n != 0 && decide (o.pitch % 32 ≠ 0)) ||
  (upperBytes o.fmt o.n == 0 && !isInt o.fmt && decide (o.tp ≠ 0)) ||
  (isInt o.fmt && decide (o.tp ≠ 0) && decide (o.records = 0))

/-- Whether an FP6 plane (R39) or a group record array (R30) is misaligned: the misaligned-operand fault. R291 makes an
alignment of R288 to R290 the operand-descriptor fault; which of the two a base takes that fails both is left open.
DESIGN CHOICE (log 17, unsafe): the misaligned-operand fault, which R30 and R39 name for their arrays, comes first. -/
def MOpnd.misaligned (o : MOpnd) : Bool :=
  (upperBytes o.fmt o.n != 0 &&
    (decide (o.base % planeAlign (rowBytes o.fmt o.n) ≠ 0) ||
      decide ((o.base + o.tp) % planeAlign (upperBytes o.fmt o.n) ≠ 0))) ||
  (isInt o.fmt && decide (o.tp ≠ 0) && decide ((o.base + o.tp) % 16 ≠ 0))

/-- The checks of R291 for one operand. ADDR of a misaligned upper plane or record array is the operand's base: DESIGN CHOICE, as
R398 says no more than the fault address (log 17). -/
def State.checkOpnd (s : State) (m : Nat) (die : Nat) (o : MOpnd) (ws : List Word) : Option Trap :=
  let t := s.team m
  let region := ((s.ctx (s.launch t.launch).ctx).wsreg[die]?).getD (0, 0)
  if o.misaligned then some { cls := 5, code := 1, addr := BitVec.ofNat 64 o.base, access := 9 }
  else if o.bad ws then some { cls := 8, code := 8 }
  else if o.space = 1 ∧ (o.ranges.any fun r => decide (t.size < r.1 + r.2)) = true then
    some { cls := 5, code := 2, addr := BitVec.ofNat 64 o.base, access := 9 }
  else if o.space = 2 ∧ (o.ranges.any fun r => decide (region.2 < r.1 + r.2)) = true then
    some { cls := 5, code := 3, addr := BitVec.ofNat 64 o.base, access := 9 }
  else none

/-- What a fetch answers: bytes, a wait for bytes of a peer window (entry, offset, length), or a failure that suspends
the operation (R293) or one that ends it (R294). `later`: a bank group is unavailable (R229). -/
inductive Fetched (α : Type) where
  | got (x : α)
  | wait (entry off len : Nat)
  | later
  | suspend (f : Failure)
  | dead (f : Failure)
  deriving DecidableEq, Repr

/-- Bytes of an operand. A peer's bytes come by a request (R230). -/
def State.fetchBytes (s : State) (o : MOp) (space a n : Nat) : Fetched (List Byte) :=
  let t := s.team o.team
  let c := s.ctx (s.launch t.launch).ctx
  let die := dieOfCore (o.eng / 4)
  let fail := fun (x : Nat × Nat) => Failure.mk x.1 x.2 (BitVec.ofNat 64 a) 9 o.pc
  match space with
  | 1 => if s.spadBad (t.addr a) n then .dead (fail (5, 6)) else .got (readCells s.sto.spad (t.addr a) n)
  | 2 =>
    let base := die * 2 ^ 31 + ((c.wsreg[die]?).getD (0, 0)).1
    if s.wsHeld (base + a) then .later
    else if s.wsBad (base + a) n then .dead (fail (5, 6)) else .got (readCells s.sto.ws (base + a) n)
  | _ =>
    match s.xlate c a 1 with
    | .error (5, k) => .dead (fail (5, k))
    | .error x => .suspend (fail x)
    | .ok (.mem pa) => if s.memBad pa n then .dead (fail (5, 6)) else .got (s.memBytes pa n)
    | .ok (.peer e off) =>
      match s.peerAnswer (.operand o.id e off) with
      | none => if (s.peerOf c e).isSome then .wait e off n else .suspend (fail (5, 5))
      | some (.ok bs) => .got (bs.take n)
      | some (.error (5, 6)) => .dead (fail (5, 6))
      | some (.error x) => .suspend (fail x)
    | .ok _ => .suspend (fail (4, 3))

/-- What follows a fetch, once it has answered. -/
def Fetched.andThen {α β : Type} (x : Fetched α) (f : α → Fetched β) : Fetched β :=
  match x with
  | .got a => f a
  | .wait e a n => .wait e a n
  | .later => .later
  | .suspend y => .suspend y
  | .dead y => .dead y

/-- A chain of fetches, the first one that has not answered winning. -/
def fetchAll {α : Type} : List (Fetched α) → Fetched (List α)
  | [] => .got []
  | x :: r => x.andThen fun a => (fetchAll r).andThen fun l => .got (a :: l)

/-- Pieces of an operand, each with whether it is needed. -/
def State.fetchRange (s : State) (o : MOp) (space : Nat) (ps : List (Nat × Nat × Bool)) : Fetched (List Byte) :=
  (fetchAll (ps.map fun p => if p.2.2 then s.fetchBytes o space p.1 p.2.1 else .got (zeros p.2.1))).andThen fun xs =>
    .got xs.flatten

/-- The codes of elements `lo` up to `hi` of row i of an operand in memory (R288 to R290); pieces that hold none of them
are not read, and count as 0. -/
def State.fetchRow (s : State) (op : MOp) (o : MOpnd) (lo hi i : Nat) : Fetched (List Nat) :=
  let rb := rowBytes o.fmt o.n
  let ub := upperBytes o.fmt o.n
  let need := fun (total at_ len : Nat) => decide (at_ * o.n < hi * total) && decide (lo * total < (at_ + len) * o.n)
  let main := (List.range ((rb + 15) / 16)).map fun k => (o.at_ i (16 * k), min 16 (rb - 16 * k), need rb (16 * k) 16)
  let a := o.base + o.tp + i * o.pitch / 2
  let upper := (List.range ((ub + 3) / 4)).map fun k => (a + 4 * k, min 4 (ub - 4 * k), need ub (4 * k) 4)
  (s.fetchRange op o.space main).andThen fun m =>
    (s.fetchRange op o.space upper).andThen fun u => .got (rowCodes o.fmt o.n m u)

/-- The codes of row i of a register operand (R287): rows supplied by no member are zero. -/
def regRow (ws : List Word) (f n i : Nat) : List Nat :=
  let k := rowWords f n
  let bs := wordBytes ((ws.drop (i * k)).take k)
  rowCodes f n (bs.take (rowBytes f n)) (bs.drop (rowBytes f n))

/-- The zero point that a group record gives a code's type (R28). -/
def zeroPoint (f : Nat) (rec_ : Nat) : Int :=
  match f with
  | 10 => (BitVec.ofNat 8 (bits rec_ 16 8)).toInt
  | 11 => (bits rec_ 16 8 : Nat)
  | 12 => (BitVec.ofNat 4 (bits rec_ 16 4)).toInt
  | _ => (bits rec_ 16 4 : Nat)

/-- The integer of a code (R25). -/
def intCode (f x : Nat) : Int :=
  match f with
  | 10 => (BitVec.ofNat 8 x).toInt
  | 12 => (BitVec.ofNat 4 x).toInt
  | _ => (x : Int)

/-- The floating-point format of a code of R124. -/
def floatCode (f : Nat) : FloatFmt :=
  match f with
  | 2 => fp16
  | 3 => bf16
  | 4 => e4m3
  | 5 => e5m2
  | 6 => e3m2
  | 7 => e2m3
  | _ => e2m1

/-! Seeded sparsity (R296). -/

/-- The generator's word for a seed, a row and a chunk (R296). -/
def sparseWord (seed i c : Nat) : Nat :=
  let x := seed ^^^ (i * 0x6A3D5C91 % 2 ^ 32) ^^^ (c * 0x2F48B1E7 % 2 ^ 32)
  let x := x ^^^ (x >>> 15)
  let x := x * 0x4D2B97A3 % 2 ^ 32
  x ^^^ (x >>> 13)

/-- The k-subsets of the positions from `lo` up, `len` of them, in lexicographic order. -/
def subsets : Nat → Nat → Nat → List (List Nat)
  | _, _, 0 => [[]]
  | _, 0, _ + 1 => []
  | lo, len + 1, k + 1 => ((subsets (lo + 1) len k).map fun r => lo :: r) ++ subsets (lo + 1) len (k + 1)

/-- The positions that a pattern keeps in a chunk (R296). -/
def keptAt (pat seed i c : Nat) : List Nat :=
  let x := sparseWord seed i c
  match pat with
  | 1 => ((List.range 4).map fun h => (((subsets 0 4 2)[bits x (8 * h) 8 % 6]?).getD []).map fun p => 4 * h + p).flatten
  | 2 => (List.range 4).map fun h => 4 * h + bits x (8 * h) 8 % 4
  | _ => ((List.range 2).map fun h => (((subsets 0 8 4)[bits x (16 * h) 16 % 70]?).getD []).map fun p => 8 * h + p).flatten

/-- The logical positions of a chunk with the index of the kept element of the row that stands there (R57, R297). -/
def slotsOf (pat seed i c k : Nat) : List (Option Nat) :=
  if pat = 0 then (List.range 16).map fun p => some (16 * k + p)
  else
    let keep := keptAt pat seed i c
    let per := keep.length
    (List.range 16).map fun p => (pos (fun q => q == p) keep).map fun j => per * k + j

/-! Chunk values and tree stacks. -/

/-- What a tile multiplies: codes of A by row, codes of B by row, zero points by row or column and group. -/
structure TileData where
  a : List (List Nat)
  b : List (List Nat)
  za : List Int
  zb : List Int
  deriving DecidableEq, Repr

/-- The value of chunk k of the tile for element (i, j) (R57 to R59, R295, R296). -/
def chunkOf (h : MHdr) (p : Shape) (seed c : Nat) (d : TileData) (i j k : Nat) : Word :=
  let kv := h.valid p
  let row := (d.a[i]?).getD []
  let slots := slotsOf h.pat seed i ((c + k) % 2 ^ 32) k
  if p.w = 0 then
    let g := if h.group = 0 then 0 else 16 * k / h.group
    let per := max 1 (if h.group = 0 then 1 else p.depth / h.group)
    let za := (d.za[i * per + g]?).getD 0
    let zb := (d.zb[j * per + g]?).getD 0
    chunkI (mapFrom (fun q (x : Option Nat) =>
      match x with
      | some n =>
        if 16 * k + q < kv then
          (intCode h.af ((row[n]?).getD 0) - za) * (intCode h.bf ((((d.b[16 * k + q]?).getD [])[j]?).getD 0) - zb)
        else 0
      | none => 0) 0 slots)
  else
    chunkF p.w (mapFrom (fun q (x : Option Nat) =>
      match x with
      | some n =>
        if 16 * k + q < kv then
          mulV (decodeF (floatCode h.af) false ((row[n]?).getD 0))
            (decodeF (floatCode h.bf) false ((((d.b[16 * k + q]?).getD [])[j]?).getD 0))
        else .fin false 0 0
      | none => .fin false 0 0) 0 slots)

/-- The node of a block for every element (R281). -/
def blockVals (h : MHdr) (p : Shape) (seed c : Nat) (d : TileData) (b : Block) : List Word :=
  (List.range 3072).map fun e =>
    (treeFold fl32 (Nat.log2 b.q) ((List.range b.r).map fun k =>
      some (chunkOf h p seed c d (e / 48) (e % 48) (b.off + k)))).getD 0

/-- Pushes a node on a tree stack (R281). `fuel` bounds the levels. -/
def pushNode : Nat → List StackNode → StackNode → List StackNode
  | 0, st, x => x :: st
  | fuel + 1, st, x =>
    match st with
    | [] => [x]
    | y :: r =>
      if y.level = x.level ∧ y.index + 1 = x.index ∧ x.index % 2 = 1 then
        pushNode fuel r ⟨x.level + 1, x.index / 2, (y.vals.zip x.vals).map fun v => fl32 v.1 v.2⟩
      else x :: st

/-- The root of a tree stack for every element (R282): the rightmost node passes up unchanged. -/
def rootVals : Nat → List StackNode → List Word
  | 0, _ => List.replicate 3072 0
  | fuel + 1, st =>
    match st with
    | [] => List.replicate 3072 0
    | [x] => x.vals
    | b :: a :: r => rootVals fuel (⟨a.level + 1, a.index / 2, (a.vals.zip b.vals).map fun v => fl32 v.1 v.2⟩ :: r)

/-- Pushes a label on the labels of a tree stack (R281). `fuel` bounds the levels. -/
def pushLabel : Nat → List (Nat × Nat) → Nat × Nat → List (Nat × Nat)
  | 0, st, x => x :: st
  | fuel + 1, st, x =>
    match st with
    | [] => [x]
    | y :: r => if y.1 = x.1 ∧ y.2 + 1 = x.2 ∧ x.2 % 2 = 1 then pushLabel fuel r (x.1 + 1, x.2 / 2) else x :: st

/-- The image of an accumulator after a block (R280, R281). -/
def AccImage.take (x : AccImage) (b : Block) : AccImage :=
  { x with
    tail := x.tail || decide (b.r < b.q),
    labels := pushLabel 12 x.labels (Nat.log2 b.q, (x.origin.toNat + x.next) / b.q),
    next := x.next + b.r }

/-- Whether a target fails R280. -/
def AccImage.refuses (x : AccImage) (c : Nat) (b : Block) : Bool :=
  decide (x.state ≠ 1) || x.tail || decide (c + b.off ≠ x.origin.toNat + x.next) ||
  decide ((c + b.off) % b.q ≠ 0) || decide (x.span < Nat.log2 b.q) || decide (2 ^ x.span < x.next + b.r)

/-- The 64-bit state image (R278). -/
def Accum.image (a : Accum) (x : AccImage) : Dword :=
  BitVec.ofNat 64 (x.state * 2 ^ 62 + b2n x.psplit * 2 ^ 61 + b2n x.tail * 2 ^ 60 + b2n a.susp * 2 ^ 59 +
    x.span * 2 ^ 55 + x.labels.length * 2 ^ 51 + x.next * 2 ^ 40 + x.origin.toNat)

/-! Reservations and accumulators by name. -/

/-- A reservation of a team. -/
def Team.resv (t : Team) (r : Nat) : Resv := (t.resvs[r]?).getD {}

/-- An accumulator of a reservation. -/
def Resv.accum (r : Resv) (k : Nat) : Accum := (r.accs[k]?).getD {}

/-- Changes a reservation. -/
def State.updResv (s : State) (m r : Nat) (f : Resv → Resv) : State :=
  s.updTeam m fun t => { t with resvs := upd t.resvs r f }

/-- Changes an accumulator. -/
def State.updAccum (s : State) (m r k : Nat) (f : Accum → Accum) : State :=
  s.updResv m r fun x => { x with accs := upd x.accs k f }

/-- Whether an engine has been fenced (R277). -/
def State.engineFenced (s : State) (eng : Nat) : Bool := s.health.fencedEngines.contains eng

/-- Whether an engine is free for MRSV (R275). -/
def State.engineFree (s : State) (eng : Nat) : Bool :=
  !s.engineFenced eng && !(s.teams.any fun t => t.resvs.any fun r => r.held && r.eng == eng)

/-- The check of a reservation that an instruction names (R302): held, its MREL not issued, its engine not fenced. -/
def State.resvTrap (s : State) (m r : Nat) (fenceOk : Bool) : Option Trap :=
  let x := (s.team m).resv r
  if !x.held || x.releasing then some { cls := 8, code := 1 }
  else if s.engineFenced x.eng && !fenceOk then some { cls := 8, code := 2 }
  else none

/-- The accumulators that an operation acts on. -/
def MOp.targets (o : MOp) : List Nat :=
  match o.kind with
  | .tile _ _ _ _ accs _ _ _ _ _ _ _ => accs
  | .guide _ => [o.acc, o.acc + 1]
  | .rel => []
  | _ => [o.acc]

/-- An operation of an accumulator that is suspended (R293). -/
def State.suspended (s : State) (m r k : Nat) : Option MOp :=
  s.fly.mops.find? fun o => o.team == m && o.res == r && o.susp.isSome && o.targets.contains k

/-- The failure that a failed accumulator passes on (R302): engine failure where its engine is fenced, uncorrectable
data else. -/
def State.accFailure (s : State) (o : MOp) : Failure :=
  if s.engineFenced o.eng then ⟨10, 0x0B01, 0, 9, o.pc⟩ else ⟨5, 6, 0, 9, o.pc⟩

/-- An accumulator fails (R279): its values are lost. What later operations will find follows from the MINITs that
have issued already. -/
def State.failAcc (s : State) (m r k : Nat) : State :=
  let pending := s.fly.mops.any fun o => o.team == m && o.res == r && o.acc == k &&
    (match o.kind with | .init _ _ _ => true | _ => false)
  s.updAccum m r k fun a => { a with
    now := { a.now with state := 3, labels := [] }, ahead := if pending then a.ahead else { a.ahead with state := 3, labels := [] },
    susp := false, base := [], stack := [] }

/-- Adds an operation to the queue of a reservation's engine; its number is `nextId` as it stood. -/
def State.enqueue (s : State) (m r k t : Nat) (pc : Dword) (kind : MKind) : State :=
  let o : MOp := { id := s.nextId, eng := ((s.team m).resv r).eng, team := m, res := r, acc := k, thread := t, pc := pc,
                   kind := kind }
  (s.updFly fun f => { f with mops := f.mops ++ [o] }).takeId

/-! Issue of a tile (R309 to R312). -/

/-- What an issue is made from: the opcode, the header's number, the targets' half (0 even or joint, 1 odd), and for A and B the group whose
scalar registers name descriptors, the operand fields, and the rows that members supplied. -/
structure Issue where
  op : Nat
  h : Nat
  joint : Bool
  half : Nat
  h0 : Word
  chunk : Word
  seed : Word
  aGroup : Nat
  aOpnd : Opnd
  aGroup2 : Nat
  aOpnd2 : Opnd
  bGroup : Nat
  bOpnd : Opnd
  rowsA : List Word
  rowsA2 : List Word
  rowsB : List Word
  deriving DecidableEq, Repr

/-- The descriptor words that an operand field names (R308). -/
def State.descWords (s : State) (g : Nat) (o : Opnd) (n : Nat) : List Word :=
  match o with
  | .s k => (List.range n).map fun i => ((s.grp g).reg (k + i)).word
  | _ => []

/-- The space code of an operand source: A has no weight store (R308). -/
def spaceA (src : Nat) : Nat := if src = 2 then 3 else src

/-- The descriptor words of a space. -/
def descLen (space : Nat) : Nat := if space = 3 then 3 else if space = 0 then 0 else 2

/-- The target accumulators of an issue (R310, R311). -/
def Issue.accs (x : Issue) (h : MHdr) (p : Shape) : List Nat :=
  if x.op = 3 then (if x.joint then [h.acc, h.acc + 1] else [h.acc + x.half])
  else (List.range (h.split p)).map fun u => h.acc + u

/-- Issues a tile for a team, or answers the fault of the first check that fails, in the order of R309; the issue is
charged (R450). -/
def State.issueTile (s : State) (m issuer : Nat) (pc : Dword) (x : Issue) : Except Trap State :=
  let h := mhdr x.h0
  match s.resvTrap m h.res false with
  | some f => .error f
  | none =>
    match h.shape x.op with
    | none => .error { cls := 8, code := 4 }
    | some p =>
      if h.bad x.op p then .error { cls := 8, code := 4 }
      else
        let rv := (s.team m).resv h.res
        let die := dieOfCore (rv.eng / 4)
        let per := if h.group = 0 then 0 else max 1 (p.depth / h.group)
        let sa := spaceA h.asrc
        let wa := s.descWords x.aGroup x.aOpnd (descLen sa)
        let wa2 := s.descWords x.aGroup2 x.aOpnd2 (descLen sa)
        let wb := s.descWords x.bGroup x.bOpnd (descLen h.bsrc)
        let oa := fun ws => mopnd sa ws 64 p.kept h.af per
        let ob := mopnd h.bsrc wb p.depth 48 h.bf per
        let ca := if sa = 0 then none else s.checkOpnd m die (oa wa) wa
        let ca2 := if sa = 0 || !x.joint then none else s.checkOpnd m die (oa wa2) wa2
        let cb := if h.bsrc = 0 then none else s.checkOpnd m die ob wb
        match (ca.or ca2).or cb with
        | some f => .error f
        | none =>
          let accs := x.accs h p
          let bs := h.blocks x.op p accs
          if (h.targets x.op p accs).any fun b => ((rv.accum b.acc).ahead).refuses x.chunk.toNat b then .error { cls := 8, code := 7 }
          else
            let s := s.updResv m h.res fun r => { r with
              bfetch := (if h.bsrc = 0 then r.bfetch else r.bfetch + 1),
              accs := mapFrom (fun k a =>
                match bs.find? fun b => b.acc == k with
                | some b => { a with ahead := a.ahead.take b }
                | none => a) 0 r.accs }
            let s := (s.updThr issuer fun t => { t.incCtr .mx s.nextId with tiled := true }).charge
              (s.launch (s.team m).launch).ctx (s.thr issuer).core (if x.joint then 1100 else 600)
            .ok (s.enqueue m h.res (accs.headD 0) issuer pc
              (.tile (if x.joint then 3 else if x.op = 2 then 2 else 1) x.h0 x.chunk x.seed accs wa wb wa2
                x.rowsA x.rowsA2 x.rowsB 0))

/-! Running an operation. -/

/-- How a tile ended: all blocks pushed, suspended, waiting for a peer's bytes (entry, offset, length), or failed for
good. -/
inductive RunEnd where
  | done
  | waits (entry off len : Nat)
  | later
  | suspended (f : Failure)
  | dead (f : Failure)
  deriving DecidableEq, Repr

/-- The codes of rows `r0` up to `r1` of an operand, in each of them elements `lo` up to `hi`; the others count as none. -/
def State.operandRows (s : State) (op : MOp) (space : Nat) (ws rows : List Word) (h n f per r0 r1 lo hi : Nat) :
    Fetched (List (List Nat)) :=
  if space = 0 then .got ((List.range h).map fun i => regRow rows f n i)
  else fetchAll ((List.range h).map fun i =>
    if r0 ≤ i ∧ i < r1 then s.fetchRow op (mopnd space ws h n f per) lo hi i else .got [])

/-- The zero points of an operand for groups `g0` up to `g1`: one for each row or column and group (R28, R290, R295). -/
def State.operandZeros (s : State) (op : MOp) (space : Nat) (ws : List Word) (f per lines g0 g1 : Nat) : Fetched (List Int) :=
  let o := mopnd space ws 0 0 f per
  if space = 0 ∨ isInt f = false ∨ o.tp = 0 then .got []
  else
    (fetchAll ((List.range (lines * per)).map fun k =>
        if g0 ≤ k % per ∧ k % per < g1 then s.fetchBytes op space (o.base + o.tp + 4 * k) 4 else .got (zeros 4))).andThen
      fun xs => .got (xs.map fun b => zeroPoint f (bytesVal b))

/-- Whether a fetch ends its operation (R294). -/
def Fetched.ends {α : Type} (x : Fetched α) : Option Failure :=
  match x with
  | .dead f => some f
  | _ => none

/-- What a tile multiplies for one of its blocks, fetched anew: under a split the elements and records of its group only
(R293, R295). -/
def State.tileData (s : State) (op : MOp) (h : MHdr) (p : Shape) (b : Block) (aDesc bDesc : List Word)
    (rowsA rowsB : List Word) : Fetched TileData :=
  let per := if h.group = 0 then 0 else max 1 (p.depth / h.group)
  let whole := h.split p = 1
  let lo := if whole then 0 else 16 * b.off
  let hi := fun (n : Nat) => if whole then n else 16 * (b.off + b.q)
  let g0 := if whole then 0 else b.off / b.q
  let g1 := if whole then per else b.off / b.q + 1
  let a := s.operandRows op (spaceA h.asrc) aDesc rowsA 64 p.kept h.af per 0 64 lo (hi p.kept)
  let bb := s.operandRows op h.bsrc bDesc rowsB p.depth 48 h.bf per lo (hi p.depth) 0 48
  let za := s.operandZeros op (spaceA h.asrc) aDesc h.af per 64 g0 g1
  let zb := s.operandZeros op h.bsrc bDesc h.bf per 48 g0 g1
  match ((a.ends.or bb.ends).or za.ends).or zb.ends with
  | some f => .dead f
  | none => a.andThen fun a => bb.andThen fun b => za.andThen fun za => zb.andThen fun zb => .got ⟨a, b, za, zb⟩

/-- Sets how many blocks an operation has pushed. -/
def State.setBlocks (s : State) (id n : Nat) : State :=
  s.updFly fun f => { f with mops := f.mops.map fun o =>
    if o.id = id then
      { o with kind := match o.kind with
          | .tile op h0 c sd accs a b a2 ra ra2 rb _ => .tile op h0 c sd accs a b a2 ra ra2 rb n
          | k => k }
    else o }

/-- Runs the blocks of a tile that have not been pushed, in order (R281, R293, R294, R310). -/
def State.runBlocks (s : State) (o : MOp) (h : MHdr) (p : Shape) (chunk seed : Word) (aDesc bDesc aDesc2 : List Word)
    (rowsA rowsA2 rowsB : List Word) : List (Nat × Block) → State × RunEnd
  | [] => (s, .done)
  | (n, b) :: rest =>
    let two := b.half = 1
    match s.tileData o h p b (if two then aDesc2 else aDesc) bDesc (if two then rowsA2 else rowsA) rowsB with
    | .suspend f => (s, .suspended f)
    | .wait e a n => (s, .waits e a n)
    | .later => (s, .later)
    | .dead f => (s, .dead f)
    | .got d =>
      let a := ((s.team o.team).resv o.res).accum b.acc
      if a.now.state ≠ 1 then (s, .dead (s.accFailure o))
      else
        let l := Nat.log2 b.q
        let node : StackNode := ⟨l, (chunk.toNat + b.off) / b.q, blockVals h p seed.toNat chunk.toNat d b⟩
        let s := s.updAccum o.team o.res b.acc fun a => { a with stack := pushNode 12 a.stack node, now := a.now.take b }
        (s.setBlocks o.id (n + 1)).runBlocks o h p chunk seed aDesc bDesc aDesc2 rowsA rowsA2 rowsB rest

/-- Runs a tile. -/
def State.runTile (s : State) (o : MOp) : State × RunEnd :=
  match o.kind with
  | .tile op h0 chunk seed accs a b a2 ra ra2 rb n =>
    let h := mhdr h0
    match h.shape op with
    | none => (s, .done)
    | some p => s.runBlocks o h p chunk seed a b a2 ra ra2 rb ((mapFrom Prod.mk 0 (h.blocks op p accs)).drop n)
  | _ => (s, .done)

/-- The scratchpad ranges that an operation's operands read (R219, R288, R307). -/
def MOp.spadRanges (o : MOp) : List (Nat × Nat) :=
  match o.kind with
  | .init _ _ (.error base) => (List.range 768).map fun k => (base + 16 * k, 16)
  | .tile op h0 _ _ _ a b a2 _ _ _ _ =>
    let h := mhdr h0
    match h.shape op with
    | none => []
    | some p =>
      let per := if h.group = 0 then 0 else max 1 (p.depth / h.group)
      let ra := fun ws => (mopnd 1 ws 64 p.kept h.af per).ranges
      (if h.asrc = 1 then ra a ++ (if op = 3 then ra a2 else []) else []) ++
      (if h.bsrc = 1 then (mopnd 1 b p.depth 48 h.bf per).ranges else [])
  | _ => []

/-- Changes an operation of an engine's queue. -/
def State.updMop (s : State) (id : Nat) (f : MOp → MOp) : State :=
  s.updFly fun x => { x with mops := x.mops.map fun o => if o.id = id then f o else o }

/-- An operation leaves its engine. -/
def State.dropMop (s : State) (id : Nat) : State :=
  s.updFly fun f => { f with mops := f.mops.filter fun o => o.id ≠ id }

/-- The element converted as MSTORE writes it (R316). -/
def storeBytes (f : SFmt) (flush : Bool) (w : Word) : List Byte :=
  let v := decodeF fp32 false w.toNat
  match f with
  | .f32 => valBytes 4 (encodeF fp32 .rn false flush v)
  | .f16 => valBytes 2 (encodeF fp16 .rn false flush v)
  | .bf16 => valBytes 2 (encodeF bf16 .rn false flush v)
  | .e4m3 => valBytes 1 (encodeF e4m3 .rn false flush v)
  | .e5m2 => valBytes 1 (encodeF e5m2 .rn false flush v)

/-- The ranges of bytes that an operation reads or writes outside its accumulators, with their spaces (R288, R307, R315, R316). -/
def MOp.ranges (o : MOp) : List (Nat × Nat × Nat) :=
  match o.kind with
  | .init _ _ (.error base) => [(1, base, 12288)]
  | .tile op h0 _ _ _ a b a2 _ _ _ _ =>
    let h := mhdr h0
    match h.shape op with
    | none => []
    | some p =>
      let per := if h.group = 0 then 0 else max 1 (p.depth / h.group)
      let ra := fun ws =>
        if h.asrc = 0 then [] else (mopnd (spaceA h.asrc) ws 64 p.kept h.af per).ranges.map fun r => (spaceA h.asrc, r)
      ra a ++ (if op = 3 then ra a2 else []) ++
        (if h.bsrc = 0 then [] else (mopnd h.bsrc b p.depth 48 h.bf per).ranges.map fun r => (h.bsrc, r))
  | .drainSpad base pitch => (List.range 64).map fun i => (1, base + i * pitch, 192)
  | .store f glob base pitch _ =>
    (List.range 64).map fun i => (if glob then 3 else 1, base.toNat + i * pitch, 48 * (storeBytes f false 0).length)
  | _ => []

/-- The lines that an operation moves, as they are charged (R450). -/
def State.mopLines (s : State) (o : MOp) : List (Nat × Nat) :=
  let c := s.ctx (s.launch (s.team o.team).launch).ctx
  addMoved [] (o.ranges.flatMap fun r => (blocksOf 128 r.2.1 r.2.2).map fun k =>
    if r.1 < 3 then (r.1, k)
    else
      match s.walkPage c (128 * k) with
      | .ok l => (match l.place with | .peer _ _ => 4 | _ => 3, k)
      | .error _ => (3, k))

/-- The addresses of global memory that an operation uses, at which the TLBs hold its translations (R395). -/
def MOp.globals (o : MOp) : List Nat :=
  o.ranges.flatMap fun r => if r.1 < 3 then [] else [r.2.1, r.2.1 + r.2.2 - 1]

/-- An operation completes, counted on ctr.mx of its thread, with an error or without, and the lines that it has moved are charged
(R304, R450). One of which part has been written already ends with that part (R237, R277). -/
def State.endMop (s : State) (o : MOp) (err : Option Failure) : State :=
  let c := s.ctx (s.launch (s.team o.team).launch).ctx
  let moved := if err.isSome then [] else s.mopLines o
  let s1 := (s.dropMop o.id).noteTlbs c o.globals
  if s.fly.ops.any fun x => x.id == o.id then s1.finishParts o.id o.thread o.pc .mx none [] [] moved err
  else s1.finish o.id o.thread o.pc .mx moved err

/-- An operation fails for good: its targets fail and its error is held (R294). -/
def State.killMop (s : State) (o : MOp) (f : Failure) : State :=
  (o.targets.foldl (fun s k => s.failAcc o.team o.res k) (s.dropMop o.id)).endMop o (some f)

/-- Whether writes of an operation have gone to other devices that have not answered (R246). -/
def State.awaits (s : State) (id : Nat) : Bool :=
  s.fly.ops.any fun o => o.id == id && (match o.kind with | .parts rs _ _ _ => decide (rs ≠ []) | _ => false)

/-- An operation is suspended on an operand fault; one whose thread has exited is discarded, as no handler can resume it (R293). -/
def State.suspendMop (s : State) (o : MOp) (f : Failure) : State :=
  if (s.thr o.thread).life = .exited then o.targets.foldl (fun s k => s.failAcc o.team o.res k) (s.dropMop o.id)
  else
  let s := s.updMop o.id fun x => { x with susp := some f, told := false, started := false }
  o.targets.foldl (fun s k => s.updAccum o.team o.res k fun a => { a with susp := true }) s

/-- The oldest operation of an engine. -/
def State.headMop (s : State) (eng : Nat) : Option MOp := s.fly.mops.find? fun o => o.eng == eng

/-- An element's value in an accumulator: the word C or D. -/
def Accum.val (a : Accum) (e : Nat) : Word := (a.base[e]?).getD 0

/-- The bytes of row i that MSTORE writes. -/
def Accum.storeRow (a : Accum) (f : SFmt) (flush : Bool) (i : Nat) : List Byte :=
  ((List.range 48).map fun j => storeBytes f flush (a.val (48 * i + j))).flatten

/-- MSTORE to global memory (R316): the bytes at some of its 64 rows' positions, each as its address translates; after a
failure any subset of the other bytes has been written, by a free choice (log 9). The lines of device memory that it writes are the
second component. -/
def State.storeGlobal (s : State) (o : MOp) (cells : List (Nat × Byte)) :
    (State × List (Nat × Nat)) × List Nat × Option Failure :=
  let c := s.ctx (s.launch (s.team o.team).launch).ctx
  let place := fun va =>
    match s.xlate c va 2 with
    | .error x => Except.error (Failure.mk x.1 x.2 (BitVec.ofNat 64 va) 10 o.pc)
    | .ok (.peer e k) =>
      if (s.peerOf c e).isSome then .ok (Place.peer e k) else .error ⟨5, 5, BitVec.ofNat 64 va, 10, o.pc⟩
    | .ok p => .ok p
  let ps := cells.map fun x => (place x.1, x)
  let bad := ps.findSome? fun p => match p.1 with | .error f => some f | .ok _ => none
  let kept := ps.filterMap fun p =>
    match p.1 with
    | .error _ => none
    | .ok q => if bad.isNone || s.pick p.2.1 2 == 0 then some (p.2.1, q, p.2.2) else none
  let lines := (kept.filterMap fun p => match p.2.1 with | .mem pa => some (p.1 / 128, pa / 128) | _ => none).eraseDups
  let s1 := lines.foldl (fun s x => s.shadowWrite o.team (128 * x.1) (128 * x.2)) s
  (s1.writeRuns c (runsAt kept), memLines (kept.map fun x => x.2.1), bad)

/-- The bytes of a tile of rows at a base and pitch, with their addresses. -/
def tileCells (base pitch : Nat) (rows : List (List Byte)) : List (Nat × Byte) :=
  (mapFrom (fun i bs => mapFrom (fun k b => (base + i * pitch + k, b)) 0 bs) 0 rows).flatten

/-- A store or drain of a tile goes on: some of the bytes not yet written (R237). The answer lists them, and says whether
they are the last. -/
def State.tilePart (s : State) (o : MOp) (cells : List (Nat × Byte)) : List Nat × List (Nat × Byte) × Bool :=
  let ks := s.someOf ((List.range cells.length).filter fun k => !o.wrote.contains k)
  (o.wrote ++ ks, ks.filterMap fun k => cells[k]?, decide (cells.length ≤ o.wrote.length + ks.length))

/-- Bytes written to the team's share. -/
def State.writeShare (s : State) (m : Nat) (cells : List (Nat × Byte)) : State :=
  (runsOf (cells.map fun x => (Place.spad ((s.team m).addr x.1), x.2))).foldl (fun s r => s.writeAt r.1 r.2) s

/-- What an operation that has started does when it completes (R304, R307, R310 to R317). An accumulator that failed
after the operation issued makes it end with the failure (R302). An MSTORE keeps its engine until every write is answered, so that
an MREL behind it comes after (R276). -/
def State.completeMop (s : State) (o : MOp) : State :=
  let rv := (s.team o.team).resv o.res
  let a := rv.accum o.acc
  let fenced := s.engineFenced o.eng
  match o.doomed with
  | some f => s.killMop o { f with pc := o.pc }
  | none =>
    match o.kind with
    | .init origin span c =>
      let later := s.fly.mops.any fun x => x.id != o.id && x.team == o.team && x.res == o.res && x.acc == o.acc &&
        (match x.kind with | .init _ _ _ => true | _ => false)
      let x : AccImage := { state := 1, span := span, origin := origin, psplit := !later && a.ahead.psplit }
      let open_ := fun ws => (s.updAccum o.team o.res o.acc fun a => { a with
        now := x, susp := false, stack := [], base := ws }).endMop o none
      match c with
      | .ok w => open_ (List.replicate 3072 w)
      | .error base =>
        if s.spadBad ((s.team o.team).addr base) 12288 then s.killMop o ⟨5, 6, BitVec.ofNat 64 base, 9, o.pc⟩
        else open_ (bytesWords (readCells s.sto.spad ((s.team o.team).addr base) 12288))
    | .tile _ _ _ _ _ _ _ _ _ _ _ _ =>
      match s.runTile o with
      | (s, .done) => (s.dropReads o.id).endMop o none
      | (s, .suspended f) => (s.dropReads o.id).suspendMop o f
      | (s, .later) => s
      | (s, .waits e a n) => s.readPeer (s.launch (s.team o.team).launch).ctx (.operand o.id e a) e a n
      | (s, .dead f) => (s.dropReads o.id).killMop o f
    | .guide w =>
      let b := rv.accum (o.acc + 1)
      if fenced || a.now.state != 2 || b.now.state != 2 then s.endMop o (some (s.accFailure o))
      else (s.updAccum o.team o.res o.acc fun a => { a with
        base := (List.range 3072).map fun e => guided w (a.val e) (b.val e) }).endMop o none
    | .fin =>
      if fenced || a.now.state != 1 then s.endMop o (some (s.accFailure o))
      else
        let root := rootVals 12 a.stack
        (s.updAccum o.team o.res o.acc fun a => { a with
          base := (List.range 3072).map fun e => fl32 (a.val e) ((root[e]?).getD 0), stack := [],
          now := { a.now with state := 2, labels := [] } }).endMop o none
    | .drainReg t d row col =>
      let xs := (List.range 16).map fun k =>
        if fenced || a.now.state != 2 then Reg.failed (s.accFailure o) else .full (a.val (48 * row + 16 * col + k))
      (s.landRegs t o.id (.v d) xs).dropMop o.id
    | .drainSpad base pitch =>
      if fenced || a.now.state != 2 then s.endMop o (some (s.accFailure o))
      else
        let x := s.tilePart o (tileCells base pitch ((List.range 64).map fun i =>
          wordBytes ((List.range 48).map fun j => a.val (48 * i + j))))
        let s1 := s.writeShare o.team x.2.1
        if x.2.2 then s1.endMop o none else s1.updMop o.id fun y => { y with wrote := x.1 }
    | .drainTree handle elem =>
      match s.treeSet (s.launch (s.team o.team).launch).ctx handle with
      | none => s.endMop o (some (s.accFailure o))
      | some ts =>
        if fenced || a.now.state != 1 then s.endMop o (some (s.accFailure o))
        else
          let lo := s.nextId
          let s := a.stack.foldl (fun s nd =>
            (mapFrom Prod.mk 0 nd.vals).foldl (fun s p =>
              s.contribute ts (o.eng / 4) (elem + p.1) nd.level nd.index (BitVec.ofNat 64 p.2.toNat) none) s) s
          let s := s.updAccum o.team o.res o.acc fun a => { a with
            stack := [], base := [], now := { a.now with state := 0, labels := [] } }
          s.updMop o.id fun x => { x with kind := .taken lo s.nextId }
    | .taken lo hi =>
      if s.fly.nodes.any fun n => decide (lo ≤ n.id) && decide (n.id < hi) && n.drain then s
      else s.endMop o none
    | .store f glob base pitch flush =>
      if fenced || a.now.state != 2 then s.endMop o (some (s.accFailure o))
      else
        let x := s.tilePart o (tileCells base.toNat pitch ((List.range 64).map fun i => a.storeRow f flush i))
        if glob then
          let r := s.storeGlobal o x.2.1
          let moved := s.mopLines o
          let s1 := (r.1.1.noteTlbs (s.ctx (s.launch (s.team o.team).launch).ctx) o.globals).finishParts o.id o.thread o.pc .mx none
            r.1.2 r.2.1 (if x.2.2 then moved else []) r.2.2
          let wrote := if r.2.2.isSome then List.range 12288 else x.1
          if (x.2.2 || r.2.2.isSome) && !s1.awaits o.id then s1.dropMop o.id
          else s1.updMop o.id fun y => { y with wrote := wrote }
        else
          let s1 := s.writeShare o.team x.2.1
          if x.2.2 then s1.endMop o none else s1.updMop o.id fun y => { y with wrote := x.1 }
    | .stat t d =>
      let w := a.image a.now
      (s.landRegs t o.id d [.full (lo32 w), .full (hi32 w)]).dropMop o.id
    | .rel => (s.updResv o.team o.res fun _ => {}).endMop o none

/-- The oldest operation of an engine takes the engine, once its operands are present (R219, R285, R293). -/
def State.startMop (s : State) (eng : Nat) : State :=
  match s.headMop eng with
  | none => s
  | some o =>
    if o.started || o.susp.isSome then s
    else if o.doomed.isSome then s.updMop o.id fun x => { x with started := true }
    else
      let rs := o.spadRanges
      let absent := dedup (rs.map fun r => s.absentIn o.team r.1 r.2).flatten
      let s1 := absent.foldl (fun r e =>
        r.firstTouch o.team e (rs.map fun x => s.touchedIn o.team e x.1 x.2).flatten o.pc) s
      let waits := dedup (rs.map fun r => s1.absentIn o.team r.1 r.2 ++ s1.arrivingIn o.team r.1 r.2).flatten
      if waits ≠ [] then s1.updMop o.id fun x => { x with waits := waits }
      else
        match s1.runTile o with
        | (s2, .suspended f) => (s2.dropReads o.id).suspendMop o f
        | _ => s1.updMop o.id fun x => { x with started := true, waits := [] }

/-- What a thread that resumes through ERET lets go on: its suspended operations whose fault it has taken (R293). -/
def State.unsuspend (s : State) (t : Nat) : State :=
  (s.fly.mops.filter fun o => o.thread == t && o.susp.isSome && o.told).foldl (fun s o =>
    let s := s.updMop o.id fun x => { x with susp := none, told := false }
    o.targets.foldl (fun s k => s.updAccum o.team o.res k fun a => { a with susp := false }) s) s

/-- A suspended operation is discarded with its thread, and its accumulators fail (R293). -/
def State.discardSuspended (s : State) (t : Nat) : State :=
  (s.fly.mops.filter fun o => o.thread == t && o.susp.isSome).foldl (fun s o =>
    o.targets.foldl (fun s k => s.failAcc o.team o.res k) (s.dropMop o.id)) s

/-- Every reservation of a parked team is released (R404); its suspended operations stay, on no engine. -/
def State.freeResvs (s : State) (m : Nat) : State :=
  let s := s.updFly fun f => { f with mops :=
    (f.mops.filter fun o => o.team ≠ m || o.susp.isSome).map fun o =>
      if o.team = m then { o with eng := 2 ^ 32 } else o }
  s.updTeam m fun t => { t with resvs := List.replicate 16 {} }

/-- A reservation that a retiring team holds is released as MREL would: once every operation already issued to it has
completed (R174, R276). A suspended one has no thread left to resume it, and is discarded (R293). -/
def State.relAtEnd (s : State) (m : Nat) : State :=
  let s := (s.fly.mops.filter fun o => o.team == m && o.susp.isSome).foldl (fun s o =>
    o.targets.foldl (fun s k => s.failAcc o.team o.res k) (s.dropMop o.id)) s
  (List.range 16).foldl (fun s r =>
    if !((s.team m).resv r).held then s
    else if s.fly.mops.any (fun o => o.team == m && o.res == r) then
      (s.updResv m r fun x => { x with releasing := true })
    else s.updResv m r fun _ => {}) s

/-- The last operation of a reservation that its retired team held has completed: it is released. -/
def State.settleResv (s : State) (m r : Nat) : State :=
  if (s.team m).life = .retired && ((s.team m).resv r).held && !(s.fly.mops.any fun o => o.team == m && o.res == r) then
    s.updResv m r fun _ => {}
  else s

end Sys2Proof.Machine
end

