-- ==== Sys2Proof/Machine/Exit.lean ====
section
/-!
DEFINITION. Barriers (R176, R177), convergence registers and the issue of the operation they hold (R178, R179, R298,
R299, R309, R311, R312), the exit of threads (R156, R412), and the end of teams, groups and launches (R174, R404).
-/

namespace Sys2Proof.Machine

/-! Barriers (R177). -/

/-- A barrier whose phase completes when COUNT has reached EXPECT. -/
def Barrier.settle (b : Barrier) : Barrier :=
  if b.expect ≤ b.count then { b with phase := b.phase + 1, count := 0 } else b

/-- An arrival of c; none where it would take COUNT past EXPECT. -/
def Barrier.arrive (b : Barrier) (c : Nat) : Option Barrier :=
  if c = 0 then some b
  else if b.expect < b.count + c then none
  else some { b with count := b.count + c }.settle

/-- An explicit set of EXPECT. -/
def Barrier.setExpect (b : Barrier) (e : Nat) : Barrier := { b with expect := e, explicit := true }.settle

/-- The exit of a thread of the group: with MODE 0 it lowers EXPECT; at 0 the barrier is no longer used. -/
def Barrier.exit (b : Barrier) : Barrier :=
  if b.explicit then b
  else if b.expect ≤ 1 then { b with expect := 0 }
  else { b with expect := b.expect - 1 }.settle

/-- Whether a wait for a phase is over. -/
def Barrier.passed (b : Barrier) (ph : BitVec 16) : Bool :=
  let d := (b.phase - ph).toNat
  decide (1 ≤ d) && decide (d ≤ 32767)

/-- Changes a barrier of a group. -/
def State.updBar (s : State) (g b : Nat) (f : Barrier → Barrier) : State :=
  s.updGrp g fun x => { x with bars := upd x.bars b f }

/-! Convergence registers. -/

/-- The half that a group is of its pair: 1 the unconditional one (R175). -/
def Group.half (g : Group) : Nat := g.idx % 2

/-- Whether a group's launch is paired. -/
def State.pairedGroup (s : State) (g : Nat) : Bool := (s.launch (s.team (s.grp g).team).launch).record.paired

/-- The group that holds a convergence register for a group: the conditional half for a shared one (R175). -/
def State.convOwner (s : State) (g k : Nat) : Nat :=
  if s.pairedGroup g && decide (8 ≤ k) then
    let x := s.grp g
    if x.half = 0 then g else s.groupAt x.team x.pairOf
  else g

/-- Whether a register is shared by a pair. -/
def State.convShared (s : State) (g k : Nat) : Bool := s.pairedGroup g && decide (8 ≤ k)

/-- A convergence register as its owner holds it. -/
def State.conv (s : State) (owner k : Nat) : Conv := ((s.grp owner).convs[k]?).getD {}

/-- Changes a convergence register. -/
def State.updConv (s : State) (owner k : Nat) (f : Conv → Conv) : State :=
  s.updGrp owner fun g => { g with convs := upd g.convs k f }

/-- The group of a half of the register that `owner` holds. -/
def State.halfGroup (s : State) (owner half : Nat) : Nat :=
  if half = 0 then owner else s.groupAt (s.grp owner).team (s.grp owner).pairOf

/-- Whether a thread index is a member (R178). -/
def Conv.member (c : Conv) (t : Nat) : Bool := decide (c.lo ≤ t) && decide (t < c.lo + c.n)

/-- Whether a member of a half has signed. -/
def Conv.hasSigned (c : Conv) (half member : Nat) : Bool :=
  c.signed.any fun x => x.half == half && x.member == member

/-- Whether every member of a half has signed or has exited without signing. -/
def State.halfDone (s : State) (owner k half : Nat) : Bool :=
  let c := s.conv owner k
  (s.threadsIn (s.halfGroup owner half)).all fun t =>
    let x := s.thr t
    !c.member x.idx || c.hasSigned half (x.idx - c.lo) || x.life == .exited

/-- The rows that the members of a half supplied: zero where one supplied none (R287, R310). -/
def Conv.rows (c : Conv) (half each : Nat) (pick : Signature → List Word) : List Word :=
  ((List.range c.n).map fun j =>
    match c.signed.find? fun x => x.half == half && x.member == j with
    | some x => pick x
    | none => List.replicate each 0).flatten

/-- The registers that a member supplies for an operand of `h` rows of `n` elements (R287). -/
def memberWords (c : Conv) (h f n : Nat) : Nat := h / max c.n 1 * rowWords f n

/-- The record of a half's round: GMMA keeps one for each half, any other operation one (R309). -/
def Conv.round (c : Conv) (half : Nat) : Option Round := look c.rounds half

/-- What a register is issued with for a half, or for both: the shape as the first signature recorded it, the rest as it
stands (R309, R311). -/
def State.issueOf (s : State) (owner k half : Nat) (joint : Bool) : Option Issue :=
  let c := s.conv owner k
  match c.round half with
  | none => none
  | some r =>
    let g := s.halfGroup owner half
    let h0 := withShape ((s.grp g).reg (2 * r.h)).word r.shape
    let h := mhdr h0
    match h.shape r.op with
    | none => none
    | some p =>
      let wa := memberWords c 64 h.af p.kept
      let wb := memberWords c p.depth h.bf 48
      let r2 := (c.round 1).getD r
      some { op := r.op, h := r.h, joint := joint, half := half, h0 := h0, chunk := ((s.grp g).reg (2 * r.h + 1)).word,
             seed := (if r.op = 2 then ((s.grp g).reg (2 * r.h + 2)).word else 0),
             aGroup := g, aOpnd := r.a, aGroup2 := s.halfGroup owner 1, aOpnd2 := r2.a, bGroup := g, bOpnd := r.b,
             rowsA := (if h.asrc = 0 then c.rows half wa Signature.rowsA else []),
             rowsA2 := (if joint && h.asrc == 0 then c.rows 1 wa Signature.rowsA else []),
             rowsB := (if h.bsrc = 0 then c.rows half wb Signature.rowsB else []) }

/-- A register returned to idle. -/
def Conv.idle : Conv := {}

/-- Sets PSPLIT on the pair that a half's header names (R299). -/
def State.setSplit (s : State) (owner k half : Nat) : State :=
  match (s.conv owner k).round half with
  | none => s
  | some r =>
    let g := s.halfGroup owner half
    let h := mhdr ((s.grp g).reg (2 * r.h)).word
    let m := (s.grp owner).team
    [h.acc, h.acc + 1].foldl (fun s a => s.updAccum m h.res a fun x => { x with
      now := { x.now with psplit := true }, ahead := { x.ahead with psplit := true } }) s

/-- Issues what a register holds for a half alone (R299). -/
def State.issueHalf (s : State) (owner k half issuer : Nat) (pc : Dword) (split : Bool) : Except Trap State :=
  match s.issueOf owner k half false with
  | none => .ok s
  | some x =>
    match s.issueTile (s.grp owner).team issuer pc x with
    | .error f => .error f
    | .ok s1 => .ok (if split then s1.setSplit owner k half else s1)

/-- The halves of a register that carry signatures and have not issued. -/
def Conv.openHalves (c : Conv) : List Nat :=
  [0, 1].filter fun h => c.signed.any (fun x => x.half == h) && !c.doneHalves.contains h

/-- Whether the round on a register is a GMMA. -/
def Conv.isPair (c : Conv) : Bool := c.rounds.any fun r => r.2.op == 3

/-- Whether the round carries a matrix operation. -/
def Conv.carries (c : Conv) : Bool := c.rounds.any fun r => r.2.op != 0

/-- The issues that a register whose SIGNED has reached 0 makes. -/
def State.issuesOf (s : State) (owner k : Nat) : List Issue :=
  let c := s.conv owner k
  if c.isPair then
    match c.openHalves with
    | [] => []
    | [h] => (s.issueOf owner k h false).toList
    | _ => (s.issueOf owner k 0 true).toList
  else if c.carries then (s.issueOf owner k 0 false).toList
  else []

/-- The scalar registers that an issue reads: the header, and the descriptors of its operands (R309). -/
def State.issueRegs (s : State) (x : Issue) : List Reg :=
  let h := mhdr x.h0
  let take := fun (g : Nat) (o : Opnd) (n : Nat) =>
    match o with
    | .s k => (List.range n).map fun i => (s.grp g).reg (k + i)
    | _ => []
  take x.bGroup (.s (2 * x.h)) (if x.op = 2 then 3 else 2) ++ take x.aGroup x.aOpnd (descLen (spaceA h.asrc)) ++
    (if x.joint then take x.aGroup2 x.aOpnd2 (descLen (spaceA h.asrc)) else []) ++ take x.bGroup x.bOpnd (descLen h.bsrc)

/-- The failure of a scalar register that an issue reads. -/
def State.issueFailed (s : State) (x : Issue) : Option Failure := (s.issueRegs x).findSome? Reg.failure

/-- Whether a scalar register that an issue reads is empty. -/
def State.issueEmpty (s : State) (x : Issue) : Bool :=
  (s.issueRegs x).any Reg.isEmpty

/-- Whether an issue that no word makes must wait: for a scalar register, or for a suspended target (R182, R293). -/
def State.issueWaits (s : State) (m : Nat) (x : Issue) : Bool :=
  let h := mhdr x.h0
  s.issueEmpty x ||
  (match h.shape x.op with
    | none => false
    | some q => (x.accs h q).any fun k => (s.suspended m h.res k).isSome)

/-- A register whose SIGNED has reached 0 issues what it holds and is idle (R179, R298, R299, R311). -/
def State.convIssue (s : State) (owner k issuer : Nat) (pc : Dword) : Except Trap State :=
  let c := s.conv owner k
  let idle := fun s : State => s.updConv owner k fun _ => Conv.idle
  if c.isPair then
    match c.openHalves with
    | [] => .ok (idle s)
    | [h] => (s.issueHalf owner k h issuer pc true).map idle
    | _ =>
      match s.issueOf owner k 0 true with
      | none => .ok (idle s)
      | some x => (s.issueTile (s.grp owner).team issuer pc x).map idle
  else if c.carries then (s.issueHalf owner k 0 issuer pc false).map idle
  else .ok (idle s)

/-- The pair window opens once every member of one half has signed (R299). -/
def State.openWindow (s : State) (owner k : Nat) : State :=
  let c := s.conv owner k
  match c.openHalves.find? fun h => s.halfDone owner k h with
  | some h =>
    if c.isPair && c.window.isNone && c.doneHalves.isEmpty then
      s.updConv owner k fun c => { c with window := some s.clk, ran := 0, first := h }
    else s
  | none => s

/-- Whether the pair window of a register has run its time: what it had run where its team stands still (R299). -/
def State.windowShut (s : State) (m : Nat) (c : Conv) : Bool :=
  if s.paused m then c.window.isSome && decide (4096 ≤ c.ran) else s.windowOver c

/-- Holds an error for a thread on ctr.mx, or sends it to the fault queue when the thread has exited (R312). -/
def State.holdError (s : State) (t : Nat) (h : HeldError) : State :=
  match (s.thr t).life with
  | .exited => s.lostError t h
  | _ => s.updThr t fun x => { x with held := x.held ++ [h] }

/-- The thread that issues where no word does: the one whose signature was recorded last (R312). -/
def Conv.lastSigner (c : Conv) (halves : List Nat) : Option Signature :=
  (c.signed.filter fun x => halves.contains x.half).getLast?

/-- The pair window of a register closes: the half that was complete issues alone; it waits while it cannot (R299, R312). -/
def State.closeWindow (s : State) (owner k : Nat) : State :=
  let c := s.conv owner k
  let h := c.first
  match c.lastSigner (c.openHalves.filter (· == h)) with
  | none => s.updConv owner k fun c => { c with window := none }
  | some x =>
    let ys := (s.issueOf owner k h false).toList
    let close := fun s : State => s.updConv owner k fun c => { c with doneHalves := c.doneHalves ++ [h], window := none }
    let fail := fun (f : Failure) => (close s).holdError x.thread ⟨.mx, f, s.nextId⟩
    if decide (63 ≤ (s.thr x.thread).mx) || ys.any (s.issueWaits (s.grp owner).team) then s
    else
      match ys.findSome? s.issueFailed with
      | some f => fail (f.readTrap.failure x.pc)
      | none =>
        match s.issueHalf owner k h x.thread x.pc true with
        | .ok s => close s
        | .error f => fail (f.failure x.pc)

/-- The issue of a complete register without a signing word (R312), after its pair window has closed where that is over (R299): a
failure returns it to idle and is held on ctr.mx of the issuer. It waits while the issuer's counter is full. -/
def State.soloIssue (s : State) (owner k : Nat) : State :=
  let m := (s.grp owner).team
  let s := if s.windowShut m (s.conv owner k) then s.closeWindow owner k else s
  let c := s.conv owner k
  if s.windowShut m c then s
  else
    match c.lastSigner c.openHalves with
    | none => s.updConv owner k fun _ => Conv.idle
    | some x =>
      let xs := s.issuesOf owner k
      let fail := fun (f : Failure) => (s.updConv owner k fun _ => Conv.idle).holdError x.thread ⟨.mx, f, s.nextId⟩
      if c.carries && decide (63 ≤ (s.thr x.thread).mx) then s
      else
        match xs.findSome? s.issueFailed with
        | some f => fail (f.readTrap.failure x.pc)
        | none =>
          if xs.any (s.issueWaits m) then s
          else
            match s.convIssue owner k x.thread x.pc with
            | .ok s => s
            | .error f => fail (f.failure x.pc)

/-- An unsigned member exits (R179): SIGNED falls, and the register issues when it reaches 0. -/
def State.convExit (s : State) (t owner k half : Nat) : State :=
  let c := s.conv owner k
  let i := (s.thr t).idx
  if c.declared && c.member i && !c.hasSigned half (i - c.lo) then
    let s := s.updConv owner k fun c => { c with left := c.left - 1 }
    if c.left ≤ 1 then s.soloIssue owner k else s.openWindow owner k
  else s

/-! Threads. -/

/-- A thread leaves its issue unit and any fold (R85, R156). -/
def State.leaveUnit (s : State) (t : Nat) : State :=
  { s with
    units := s.units.map fun u =>
      if u.lanes.any fun p => p.2 == t then
        { u with lanes := u.lanes.filter (fun p => p.2 ≠ t), live := u.lanes.any fun p => p.2 != t }
      else u,
    folds := (s.folds.map fun f => { f with threads := f.threads.filter (· ≠ t) }).filter fun f => f.threads ≠ [] }

/-- Every subscription of a team's slots is removed, with the pushes on their way, at its retirement (R346). At parking
those of parked slots stay (R347, R404), as do the requests of SLOAD; what else was on its way completes (R404). The home of a peer line
is told, as by UNSUB. -/
def State.dropSubs (s : State) (m : Nat) (park : Bool) : State :=
  let kept := fun slot => park && s.fly.parkedSlots.any fun p => p.team == m && p.slot == slot
  let gone := fun (p : Push) => p.dev.isNone && p.team == m && !kept p.slot
  let settle := fun (s : State) (p : Push) =>
    p.thread.elim s fun t => s.updThr t fun x =>
      x.decCtr (match p.body with | .unsub => .st | .ack => .st | _ => .gx) p.id
  let tell := fun (s : State) (x : Sub) =>
    match s.peerOf (s.ctx x.ctx) ((x.line - 2 ^ 60) / 2 ^ 40) with
    | some q => s.ask x.ctx q.2.1 q.2.2 q.1 (.unsubscribe (x.line % 2 ^ 40 * 128) x.slot m)
    | none => s
  let ended := fun (x : Sub) => x.dev.isNone && x.team == m && !kept x.slot
  let s1 := if park then (s.fly.pushes.filter gone).foldl settle s else s
  let s2 := s1.updFly fun f => { f with
    subs := f.subs.filter fun x => !ended x,
    pushes := f.pushes.filter fun x => !gone x,
    reqs := f.reqs.filter fun x => park || x.team ≠ m,
    parkedSlots := f.parkedSlots.filter fun x => park || x.team ≠ m }
  (s.fly.subs.filter fun x => ended x && decide (2 ^ 60 ≤ x.line)).foldl tell s2

/-- A team retires (R174): its windows are unbound, its reservations and subscriptions released. -/
def State.retireTeam (s : State) (m : Nat) : State :=
  ((((s.unbindAll m).dropParked m).relAtEnd m).dropSubs m false).updTeam m fun t => { t with life := .retired }

/-- A team is parked (R404): its share, engines and slots are released, and the destinations that still arrive are
dropped with a record. -/
def State.parkTeam (s : State) (m : Nat) : State :=
  let count := fun (t : Team) => t.resvs.map fun r => { ({} : Resv) with held := r.held }
  let held := count (s.team m)
  let x := s.team m
  let s := (((s.unbindAll m).freeResvs m).dropSubs m true).updCtx (s.launch x.launch).ctx fun c => { c with
    leaving := if x.code = 0 then c.leaving else dedup (x.cluster :: c.leaving) }
  s.updTeam m fun t => { t with
    life := .parked, since := s.wall, entries := List.replicate 64 {},
    resvs := held.map fun r => { r with eng := 2 ^ 32 } }

/-- What becomes of a team once a thread of it has exited or parked (R174, R404). -/
def State.checkTeam (s : State) (m : Nat) : State :=
  let ts := (s.threadsOf m).map s.thr
  match (s.team m).life with
  | .placed => if ts.all fun t => t.life == .exited then (s.retireTeam m).leaveCores m else s
  | .saving =>
    if ts.all fun t => t.life == .exited then (s.retireTeam m).leaveCores m
    else if ts.all fun t => t.life != .live then (s.parkTeam m).leaveCores m
    else s
  | _ => s

/-- A thread ends: it leaves its unit, and barriers and convergence registers of its group take notice (R156, R177,
R179). -/
def State.endThread (s : State) (t : Nat) : State :=
  let g := (s.thr t).group
  let s := (s.leaveUnit t).updThr t fun x => { x with life := .exited }
  let s := s.updGrp g fun x => { x with bars := x.bars.map Barrier.exit }
  let half := if s.pairedGroup g then (s.grp g).half else 0
  let s := (List.range 16).foldl (fun s k =>
    s.convExit t (s.convOwner g k) k (if s.convShared g k then half else 0)) s
  s.checkTeam (s.grp g).team

/-- A thread is ended without waiting for its counters: what it holds undelivered goes to the fault queue (R412). -/
def State.haltThread (s : State) (t : Nat) : State :=
  match (s.thr t).life with
  | .exited => s
  | _ =>
    let s := (s.thr t).held.foldl (fun s h => s.lostError t h) s
    let s := (s.updThr t fun x => { x with held := [] }).discardSuspended t
    s.endThread t

/-- Every thread of a group is ended (R412), and the group's destinations that still arrive are unbound (R221; log 53). -/
def State.haltGroup (s : State) (g : Nat) : State := (s.threadsIn g).foldl State.haltThread (s.unbindGroup g)

/-- A team is ended as HALT.kernel ends it; one that waits is retired as it stands. -/
def State.endTeam (s : State) (m : Nat) : State :=
  match (s.team m).life with
  | .retired => s
  | .waiting => s.updTeam m fun t => { t with life := .retired }
  | .parked =>
    let s := (s.threadsOf m).foldl (fun s t =>
      ((s.thr t).held.foldl (fun s h => s.lostError t h) s |>.updThr t fun x => { x with held := [] }).discardSuspended t) s
    let s := { s with threads := s.threads.map fun (t : Thread) =>
      if (s.grp t.group).team = m then { t with life := .exited } else t }
    s.retireTeam m
  | _ => (s.threadsOf m).foldl State.haltThread s

/-- A launch is ended: every team of it, and its stamp will carry status 10 (R379, R412). -/
def State.endLaunch (s : State) (l : Nat) : State :=
  let s := s.updLaunch l fun x => { x with ended := true }
  (allPos (fun t : Team => t.launch == l) s.teams).foldl State.endTeam s

end Sys2Proof.Machine
end

