-- ==== Sys2Proof/Machine/Ops.lean ====
section
/-!
DEFINITION. How a word is performed: operands and their checks (R69 to R73, R77, R104, R182), blocking (R169), taking an
exception (R400, R401) and returning from one (R411), moving on to the next word, repeat or clause (R78, R81, R85),
splitting by program counter (R152), folds (R171), and fetching and checking a clause (R63 to R67, R81 to R84). Every
instruction word of the opcode table is one `Work` given to `run`.
-/

namespace Sys2Proof.Machine

/-! Operands. -/

/-- One operand of a word: its code, its registers, the alignment its first register needs, whether the word reads and
writes it, the STEP bit that moves it under REP (4 d, 2 a, 1 b, 0 none), whether it names a group that only v registers
may form (R70), whether only the lowest-lane participant's is used (R267, R302), whether it must be an s register, and
whether it must be a register or literal words (R331). -/
structure Use where
  o : Opnd
  n : Nat := 1
  align : Nat := 1
  rd : Bool := false
  wr : Bool := false
  step : Nat := 0
  vOnly : Bool := false
  low : Bool := false
  sOnly : Bool := false
  regOnly : Bool := false
  deriving DecidableEq, Repr

/-- An operand code some registers further on (R77). A step past v95 or s27 stays in its register file, so that R71 refuses it:
DESIGN CHOICE, as R77 steps the code, which would then name another register or none (log 52). -/
def opndPlus (o : Opnd) (k : Nat) : Opnd :=
  match o with
  | .v n => .v (n + k)
  | .s n => .s (n + k)
  | o => o

/-- The operand that a field names at a repeat of the REP under way (R77). -/
def Use.atRep (u : Use) (r : Option Rep) (k : Nat) : Opnd :=
  match r with
  | none => u.o
  | some r => if r.step &&& u.step ≠ 0 then opndPlus u.o (k * (if u.n = 2 then 2 else 1)) else u.o

/-- The operand that a field names now. -/
def Use.now (u : Use) (r : Option Rep) : Opnd := u.atRep r ((r.map Rep.k).getD 0)

/-- Whether registers named by a field break R71 for a v budget. -/
def opndBad (o : Opnd) (n align : Nat) (vOnly : Bool) (budget : Nat) : Bool :=
  match o with
  | .v k => decide (budget < k + n) || decide (96 < k + n) || decide (k % align ≠ 0)
  | .s k => vOnly || decide (28 < k + n) || decide (k % align ≠ 0)
  | _ => false

/-- Whether an operand breaks R71, in any repeat of the REP under way (R77). -/
def Use.bad (u : Use) (r : Option Rep) (budget : Nat) : Bool :=
  (u.sOnly && (match u.o with | .v _ => true | _ => false)) ||
  (u.regOnly && (match u.o with | .zero => true | .lane => true | _ => false)) || opndBad (u.now r) u.n u.align u.vOnly budget ||
  opndBad (u.atRep r ((r.map fun x => x.cnt - 1).getD 0)) u.n u.align u.vOnly budget

/-- The registers that a field names, as a thread sees them. -/
def State.regsOf (s : State) (t : Nat) (o : Opnd) (n : Nat) : List Reg :=
  match o with
  | .v k => (List.range n).map fun i => (s.thr t).reg (k + i)
  | .s k => (List.range n).map fun i => (s.grp (s.thr t).group).reg (k + i)
  | _ => []

/-- What an operand does to a thread's issue: it is ready, it stalls the unit, it holds the thread as R186 lists (which
stalls the unit too), or it traps. -/
inductive Status where
  | ready
  | stall
  | hold
  | trap (f : Trap)
  deriving DecidableEq, Repr

/-- Whether a unit stalls. -/
def Status.stalls : Status → Bool
  | .stall => true
  | .hold => true
  | _ => false

/-- A wait that R186 does not list. -/
def Status.plain : Status → Status
  | .hold => .stall
  | x => x

/-- The state of one operand for a thread (R104, R182, R183). `eb` is the word's EMPTY bit. -/
def State.useStatus (s : State) (t : Nat) (eb : Bool) (u : Use) : Status :=
  let rs := s.regsOf t (u.now s.unit.rep) u.n
  if u.rd then
    match rs.findSome? Reg.failure with
    | some f => .trap f.readTrap
    | none => if rs.any Reg.isEmpty then (if eb then .trap { cls := 5, code := 7 } else .hold) else .ready
  else if u.wr && rs.any Reg.isEmpty then .stall
  else .ready

/-- The first trap among operand states. -/
def firstTrap (l : List Status) : Option Trap :=
  l.findSome? fun x => match x with | .trap f => some f | _ => none

/-- The 32-bit value of a source (R70). -/
def State.src (s : State) (p : Nat × Nat) (o : Opnd) : Word :=
  match o with
  | .v n => ((s.thr p.2).reg n).word
  | .s n => ((s.grp (s.thr p.2).group).reg n).word
  | .zero => 0
  | .lane => BitVec.ofNat 32 p.1
  | .lit x => x.setWidth 32

/-- The 64-bit value of a source (R32, R70). -/
def State.src64 (s : State) (p : Nat × Nat) (o : Opnd) : Dword :=
  match o with
  | .v n => dwordOf ((s.thr p.2).reg n).word ((s.thr p.2).reg (n + 1)).word
  | .s n => dwordOf ((s.grp (s.thr p.2).group).reg n).word ((s.grp (s.thr p.2).group).reg (n + 1)).word
  | .zero => 0
  | .lane => BitVec.ofNat 64 p.1
  | .lit x => x

/-- A field's operand at the repeat under way. -/
def State.stepped (s : State) (bit n : Nat) (o : Opnd) : Opnd :=
  ({ o := o, n := n, step := bit } : Use).now s.unit.rep

/-! Results. -/

/-- Registers from the n-th on become full with values. -/
def setRegs (rs : List Reg) (n : Nat) (ws : List Word) : List Reg :=
  mapFrom (fun i r =>
    if i < n then r
    else
      match ws[i - n]? with
      | some w => .full w
      | none => r) 0 rs

/-- Changes each participant's thread. -/
def State.each (s : State) (ok : List (Nat × Nat)) (f : Nat × Nat → Thread → Thread) : State :=
  { s with threads := mapFrom (fun t x =>
      match ok.find? fun p => p.2 == t with
      | some p => f p x
      | none => x) 0 s.threads }

/-- Writes a destination: each participant's own v registers, or the s registers once with the value of the lowest lane
(R72); code 0x7C discards (R70). Group state is written at issue, also where a group spreads over cores and R167 lets an
access take up to 48 clk: accesses from different cores then come in the order of issue, DESIGN CHOICE (log 22). -/
def State.putDst (s : State) (ok : List (Nat × Nat)) (d : Opnd) (f : Nat × Nat → List Word) : State :=
  match d with
  | .v n => s.each ok fun p x => { x with v := setRegs x.v n (f p) }
  | .s n =>
    match ok.head? with
    | some p => s.updGrp (s.thr p.2).group fun g => { g with s := setRegs g.s n (f p) }
    | none => s
  | _ => s

/-- Marks a destination empty for an operation on its way, its number told by the participant (R163, R182). -/
def State.emptyDst (s : State) (ok : List (Nat × Nat)) (d : Opnd) (n : Nat) (id : Nat × Nat → Nat) : State :=
  let mark := fun (rs : List Reg) (k i : Nat) =>
    mapFrom (fun j r => if k ≤ j ∧ j < k + n then Reg.empty i else r) 0 rs
  match d with
  | .v k => s.each ok fun p x => { x with v := mark x.v k (id p) }
  | .s k =>
    match ok.head? with
    | some p => s.updGrp (s.thr p.2).group fun g => { g with s := mark g.s k (id p) }
    | none => s
  | _ => s

/-- Sets one predicate of sixteen; a write to p0 is discarded (R73). -/
def setPred (ps : BitVec 16) (q : Nat) (x : Bool) : BitVec 16 :=
  if q = 0 then ps
  else if x then ps ||| BitVec.ofNat 16 (2 ^ q)
  else ps &&& ~~~BitVec.ofNat 16 (2 ^ q)

/-- Writes a predicate of each participant. -/
def State.putPred (s : State) (ok : List (Nat × Nat)) (q : Nat) (f : Nat × Nat → Bool) : State :=
  s.each ok fun p x => { x with preds := setPred x.preds q (f p) }

/-- The flush bits that a thread's instruction uses: sampled at repeat 0 under REP (R43). A handler's own REP has a sample of
its own, so that the one of the REP it interrupts is kept. -/
def State.modeOf (s : State) (t : Nat) : Word :=
  let x := s.thr t
  match s.unit.rep with
  | none => x.mode
  | some _ => if x.hmode = 0 then x.repMode else x.handlerMode

/-! Words and addresses. -/

/-- The address of a word of a clause. -/
def wordAddr (hdr : Dword) (idx : Nat) : Dword := hdr + BitVec.ofNat 64 (4 * idx)

/-- The address of the word at issue. -/
def State.pc (s : State) : Dword := wordAddr s.unit.hdr s.unit.idx

/-- A resume point: the word index over the header's address (R409). -/
def resumeOf (hdr : Dword) (idx : Nat) : Dword := hdr ||| BitVec.ofNat 64 (idx % 16 * 2 ^ 57)

/-- The header word of the clause in force. -/
def IssueUnit.header (u : IssueUnit) : Word := u.words.headD 0

/-- N of the clause in force (R63). -/
def IssueUnit.size (u : IssueUnit) : Nat := bits u.header.toNat 28 4

/-- The address behind the clause in force (R81). -/
def IssueUnit.after (u : IssueUnit) : Dword := wordAddr u.hdr (u.size + 1)

/-- A word of code: its value now, or one that it has had since the launch's first team was placed; where these differ, any
of them, by a free choice (R82). The error is a class and a code (R81, R396). -/
def State.fetchWord (s : State) (l : Nat) (va : Nat) : Except (Nat × Nat) Word :=
  let x := s.launch l
  match s.xlate (s.ctx x.ctx) va 4 with
  | .error (5, k) => .error (5, k)
  | .error _ => .error (2, 7)
  | .ok (.mem pa) =>
    if s.memBad pa 4 then .error (5, 6)
    else
      let now := BitVec.ofNat 32 (bytesVal (s.memBytes pa 4))
      match (s.sto.past.filter fun y => y.1 == pa / 4 && decide (x.began ≤ y.2.2)).map fun y => y.2.1 with
      | [] => .ok now
      | old => .ok (((now :: old)[s.pick va (old.length + 1)]?).getD now)
  | .ok _ => .error (2, 7)

/-- Whether an address fails the checks of R79 and R154 as a target. A target whose code word, or whose page-table entry,
reads uncorrectable is a bad one: DEDUCED, as R79 names mapping and E only (log 21). -/
def State.targetBad (s : State) (l : Nat) (t : Dword) : Bool :=
  decide (t.toNat % 4 ≠ 0) || decide (2 ^ 57 ≤ t.toNat) ||
  (match s.fetchWord l t.toNat with
    | .ok w => !w.getLsbD 24
    | .error _ => true)

/-! Taking an exception (R398 to R401). -/

/-- Threads leave their unit and go on together at an address, in a mode, each with its fault record and resume point. The
lanes, core, datapath and age stamp stay. -/
def State.vector (s : State) (ps : List ((Nat × Nat) × FaultInfo)) (mode : Nat) (target : Dword) (stopAsk : Option Nat) : State :=
  let u := s.unit
  let s := ps.foldl (fun s x => (s.leaveUnit x.1.2).updThr x.1.2 fun y => { y with
    frec := x.2.words, resume := x.2.resume, hmode := mode, repcount := x.2.rep, resuming := false }) s
  s.enroll [
    { core := u.core, dp := u.dp, group := u.group, lanes := ps.map Prod.fst, hdr := target, stamp := u.stamp, rank := u.rank,
      stopAsk := stopAsk, bkptCode := u.bkptCode }]

/-- A double fault (R401): the record of CLASS 11 names the second fault, RESUME stays the first's, and the group is
ended. -/
def State.doubleFault (s : State) (t : Nat) (info : FaultInfo) : State :=
  let g := (s.thr t).group
  let s := s.fqWrite (s.ctxOf t) { info with cls := 11, code := info.cls, aux := 0, resume := (s.thr t).resume }
  s.haltGroup g

/-- The repeat at which a thread joins a REP of `c` (R78): one that resumed at the prefix goes on in the middle. -/
def Thread.joinAt (x : Thread) (c : Nat) : Nat := if x.resuming && x.repcount != 0 then c - min c x.repcount else 0

/-- The repeats that a thread still has when a fault meets the REP under way (R78). -/
def State.repLeft (s : State) (t : Nat) : Nat :=
  match s.unit.rep with
  | some r => if r.k < (s.thr t).joinAt r.cnt then (s.thr t).repcount else r.cnt - r.k
  | none => (s.thr t).repcount

/-- Where a thread resumes after a fault of the word at issue: that word, or its REP prefix (R78, R400). -/
def State.resumeHere (s : State) : Dword :=
  match s.unit.rep with
  | some r => resumeOf s.unit.hdr r.at_
  | none => resumeOf s.unit.hdr s.unit.idx

/-- Takes a precise fault in a thread (R400): in a program, the record is written, sr.resume set, sr.hmode becomes 1 and
the thread goes on at HANDLER; in a handler or the save routine, and where HANDLER is no clause header with E = 1, it is
a double fault (R401). -/
def State.takeTrap (s : State) (p : Nat × Nat) (f : Trap) : State :=
  let x := s.thr p.2
  let info : FaultInfo := { s.infoOf p.2 with
    pc := f.pc.getD s.pc, addr := f.addr, access := f.access, cls := f.cls, code := f.code, aux := f.aux,
    rep := s.repLeft p.2, resume := f.resume.getD s.resumeHere }
  if x.hmode = 0 then
    let h := (s.ctxOf p.2).handler
    if s.targetBad (s.team (s.teamOf p.2)).launch h then
      let s := s.updThr p.2 fun x => { x with resume := info.resume, hmode := 1 }
      (s.doubleFault p.2 { info with cls := 2, code := 1, pc := h, addr := h, access := 0, aux := 0 }).leaveUnit p.2
    else s.vector [(p, info)] 1 h (s.unit.stopAsk.or (if s.unit.stepping then some 5 else none))
  else s.doubleFault p.2 info

/-- Takes the faults of several threads of the unit at issue, in lane order. -/
def State.takeTraps (s : State) (l : List ((Nat × Nat) × Trap)) : State :=
  l.foldl (fun s x => s.takeTrap x.1 x.2) s

/-! Moving on. -/

/-- The unit finds its word blocked (R169), and these of its threads held as R186 lists; the waiting time of one that was
and no longer is starts now. -/
def State.block (s : State) (held : List Nat) : State :=
  (s.updUnit s.cur fun u => { u with blocked := true }).each s.unit.lanes fun p x =>
    { x with since := if x.waits && !held.contains p.2 then s.clk else x.since, waits := held.contains p.2 }

/-- A word has issued: the waiting times of the unit's threads start anew and it is no longer expired (R186, R387). -/
def State.issued (s : State) : State :=
  let more := match s.unit.rep with | some r => decide (r.k + 1 < r.cnt) | none => false
  let s1 := s.updUnit s.cur fun u => { u with
    expired := none, blocked := false, issued := if more then u.issued else u.issued + 1 }
  s1.each s.unit.lanes fun _ x => { x with since := s.clk, waits := false }

/-- A unit that goes on at a clause header; one that was stepping is to stop there (R443). -/
def IssueUnit.goto (u : IssueUnit) (hdr : Dword) : IssueUnit :=
  { u with
    hdr := hdr, idx := 0, words := [], waited := false, rep := none, scope := none, issued := 0, stepping := false,
    stopAsk := if u.stepping && u.stopAsk.isNone then some 4 else u.stopAsk }

/-- The unit at issue goes on at its next word, or behind its clause (R81). -/
def State.nextWord (s : State) : State :=
  if s.unit.instrs ≤ s.unit.idx then
    (s.clauseTrace 0 s.unit.issued 0).updUnit s.cur fun u => u.goto u.after
  else s.updUnit s.cur fun u => { u with idx := u.idx + 1 }

/-- The unit goes on after an instruction: the next repeat, or the next word with the prefixes spent; sr.repcount is
cleared when a REP ends (R78, R81). -/
def State.advance (s : State) : State :=
  match s.unit.rep with
  | none => (s.updUnit s.cur fun u => { u with scope := none }).nextWord
  | some r =>
    if r.k + 1 < r.cnt then s.updUnit s.cur fun u => { u with rep := some { r with k := r.k + 1 } }
    else
      ((s.updUnit s.cur fun u => { u with rep := none, scope := none }).each s.unit.lanes
        fun _ x => { x with repcount := 0, resuming := false }).nextWord

/-- The parts of a unit by where they go on, a header or the next word of the clause (none), each in lane order, the one
with the lowest lane first (R152). -/
def partsBy (next : Nat × Nat → Option Dword) : List (Nat × Nat) → List (Option Dword × List (Nat × Nat))
  | [] => []
  | p :: r =>
    let rest := partsBy next r
    match rest.find? fun x => x.1 == next p with
    | some x => (next p, p :: x.2) :: rest.filter fun y => y.1 != next p
    | none => (next p, [p]) :: rest

/-- A unit that goes on at a header, or at the next word of its clause. -/
def IssueUnit.land (u : IssueUnit) (at_ : Option Dword) : IssueUnit :=
  match at_ with
  | some h => u.goto h
  | none => { u with idx := u.idx + 1, rep := none, scope := none }

/-- The threads left in the unit go on where `next` says; where that differs the unit splits into sub-groups, which keep
lanes, datapath and age stamp and were formed by no fold (R152, R386). `ending` is the clause's end as CLAUSE packets code it
(R445). -/
def State.split (s : State) (ending : Nat) (next : Nat × Nat → Option Dword) : State :=
  match partsBy next s.unit.lanes with
  | [] => s
  | [(none, _)] => s.updUnit s.cur fun u => u.land none
  | [(some h, _)] =>
    (s.clauseTrace ending s.unit.issued h).updUnit s.cur fun u => u.goto h
  | a :: rest =>
    let s := (s.clauseTrace 5 s.unit.issued 0).untraced s.cur
    let u := s.unit
    let s := s.updUnit s.cur fun u => { u.land a.1 with lanes := a.2, fold := 255 }
    s.enroll (rest.map fun x => { u.land x.1 with lanes := x.2, packet := 0, blocked := false, fold := 255 })

/-! Folds (R171, R189). -/

/-- Files a thread of a core into the oldest fold of its key with room, or into a free one, of which the lowest-numbered is taken
(DESIGN CHOICE, log 52); none when there is neither. Whether it waits at the header again is the thread's own and no part of the
key, and so are the stop that it has been asked for and the step that it is in, which ends at a clause header (R441, R443). -/
def State.fileFold (s : State) (t core : Nat) (hdr : Dword) (idx : Nat) (rewait : Bool) : Option State :=
  let x := s.thr t
  let u := s.unit
  let w := (s.launchOf t).record.width
  let stepped := u.stepping && decide (idx = 0)
  let keep := fun (s : State) => s.updThr t fun y => { y with
    ask := (y.ask.or (u.stopAsk.map fun c => (c, u.bkptCode))).or (if stepped then some (4, 0) else none),
    step := (y.step || u.stepping) && !stepped }
  let fits := s.folds.filter fun f => f.core == core && f.group == x.group && f.hdr == hdr && f.idx == idx &&
    decide (f.threads.length < w)
  match leastBy Fold.order fits with
  | some f =>
    let s := (keep s).leaveUnit t
    some { s with folds := s.folds.map fun y =>
      if y.core = f.core ∧ y.num = f.num then
        { y with threads := y.threads ++ [t], last := s.clk, rewait := y.rewait || rewait }
      else y }
  | none =>
    match (List.range 64).find? fun n => !(s.folds.any fun f => f.core == core && f.num == n) with
    | none => none
    | some n =>
      let s := (keep s).leaveUnit t
      let f : Fold := { core := core, num := n, group := x.group, hdr := hdr, idx := idx, rewait := rewait,
                        threads := [t], since := s.clk, last := s.clk, order := s.nextId }
      some ({ s with folds := s.folds ++ [f] } : State).takeId

/-! Returning from an exception (R411). -/

/-- The device's save routine as a target: none is an address that no header has. -/
def State.saveTarget (s : State) : Dword := s.saveEntry.getD (BitVec.allOnes 64)

/-- The record of a CLASS 0 trap of a thread, with its resume point and sr.repcount (R398, R403). -/
def State.preemptInfo (s : State) (t : Nat) (z : Dword × Nat) : FaultInfo :=
  { s.infoOf t with pc := z.1 &&& 0x1FFFFFFFFFFFFFF, cls := 0, code := (s.thr t).preempt, resume := z.1, rep := z.2 }

/-- The CLASS 0 traps of threads of the unit at issue: into the save routine with sr.hmode 2, each with its resume point and
sr.repcount (R403, R405), all of them as one unit, as the printed run counts their words: DEDUCED from R460 (log 55); where the
entry is no clause header with E = 1, double faults (R391). A stop asked of a thread, or a step that it is in, goes on once it is
back (R441, R443). The first trap of a team is where its windows and promise pause (R403). -/
def State.preempt (s : State) (ps : List ((Nat × Nat) × Dword × Nat)) : State :=
  match ps.head? with
  | none => s
  | some q =>
    let u := s.unit
    let m := s.teamOf q.1.2
    let infos := ps.map fun x => (x.1, s.preemptInfo x.1.2 x.2)
    let all := u.lanes.all fun p => ps.any fun x => x.1 == p
    let s1 := if all && decide (0 < u.issued) then s.clauseTrace 3 u.issued 0 else s
    let s2 := s1.pausing m fun s =>
      (s.updTeam m fun t => { t with trapped := t.trapped.or (some s.wall) }) |> fun s => ps.foldl (fun s x => s.updThr x.1.2 fun y =>
        { y with preempt := 0, ask := y.ask.or (u.stopAsk.map fun c => (c, u.bkptCode)), step := y.step || u.stepping }) s
    if s2.targetBad (s2.team m).launch s2.saveTarget then
      infos.foldl (fun s x =>
        let s := s.updThr x.1.2 fun y => { y with resume := x.2.resume, hmode := 2 }
        (s.doubleFault x.1.2 { x.2 with cls := 2, code := 1, pc := s.saveTarget, addr := s.saveTarget }).leaveUnit x.1.2) s2
    else s2.vector infos 2 s2.saveTarget none

/-- Whether a resume point names a REP prefix (R78); one whose code cannot be fetched faults there, and may be one. -/
def State.atRep (s : State) (l : Nat) (resume : Dword) : Bool :=
  match s.fetchWord l ((resume &&& 0x1FFFFFFFFFFFFFF).toNat + 4 * max 1 (bits resume.toNat 57 4)) with
  | .ok w => bits w.toNat 22 10 = 0x3F8
  | .error _ => true

/-- Resumes one thread of the unit through ERET (R411): sr.hmode := 0, and it goes on at sr.resume, where the clause is
fetched and checked again; sr.repcount counts only where that is a REP prefix (R78). An HDR that is no multiple of 4 is
fetched as it stands: DESIGN CHOICE, as R411 sets no check (log 20). From the save routine it is filed into a fold (R189), which may have to wait for one; a
thread that has a pre-emption trap to take takes it here (R403). -/
def State.eretOne (s : State) (p : Nat × Nat) : Option State :=
  let x := s.thr p.2
  let u := s.unit
  let hdr : Dword := x.resume &&& 0x1FFFFFFFFFFFFFF
  let idx := bits x.resume.toNat 57 4
  if x.preempt ≠ 0 then some (s.preempt [(p, x.resume, x.repcount)])
  else
    let rep := decide (x.repcount ≠ 0) && s.atRep (s.team (s.teamOf p.2)).launch x.resume
    let s := (s.updThr p.2 fun x => { x with
      hmode := 0, resuming := rep, repcount := if rep then x.repcount else 0, failures := [] }).unsuspend p.2
    if x.hmode = 2 then (s.updThr p.2 fun x => { x with since := s.clk }).fileFold p.2 u.core hdr idx true
    else
      let s := s.leaveUnit p.2
      some (s.enroll [{ u.goto hdr with lanes := [p], idx := idx, live := true, packet := 0, fold := 255 }])

/-! A word. -/

/-- What a word asks of the machine: its operands, its guard, its charge (R450), what else holds the unit, each
participant's own wait, each participant's own checks (given all participants), its effect on the participants that do
not trap, what delivering a fault of its own wait leaves of a thread's account, how the unit goes on, and whether it ends
threads, so that its charge comes first: retirement writes the energy image (R459). -/
structure Work where
  uses : List Use := []
  guard : Nat := 0
  cost : Nat := 1
  hold : State → List (Nat × Nat) → Bool := fun _ _ => false
  own : State → Nat × Nat → Status := fun _ _ => .ready
  note : State → Nat × Nat → State := fun s _ => s
  chk : State → List (Nat × Nat) → Nat × Nat → Option Trap := fun _ _ _ => none
  act : State → List (Nat × Nat) → State := fun s _ => s
  fin : State → State := State.advance
  ends : Bool := false

/-- Whether a thread takes part in the repeat under way: one that resumed in the middle joins at its own repeat (R78). -/
def State.joins (s : State) (t : Nat) : Bool :=
  match s.unit.rep with
  | none => true
  | some r => decide ((s.thr t).joinAt r.cnt ≤ r.k)

/-- The participants of a word: the active threads whose guard is true (R73, R192), in lane order. -/
def State.parts (s : State) (g : Nat) : List (Nat × Nat) :=
  s.unit.lanes.filter fun p => (s.thr p.2).preds.getLsbD g && s.joins p.2

/-- How a word fares before its effect: the unit stalls, some threads held as R186 lists, or participants go on; threads
trap. -/
inductive Prep where
  | stall (held : List Nat) (traps : List ((Nat × Nat) × Trap))
  | go (ok : List (Nat × Nat)) (traps : List ((Nat × Nat) × Trap))
  deriving DecidableEq, Repr

/-- The states of the operands and of the own wait of each participant, in the order d, a, b, of which the first trap is taken, also
while another source is empty: DESIGN CHOICE, as R86 and R182 give no order among operands (log 52). An operand of the lowest-lane participant only
counts for the first one that does not trap. -/
def State.statusList (s : State) (w : Work) (eb : Bool) : Bool → List (Nat × Nat) → List ((Nat × Nat) × List Status)
  | _, [] => []
  | leading, p :: r =>
    let x := (w.uses.filter fun u => !u.low || leading).map (s.useStatus p.2 eb)
    let x := if x.all (· == .ready) then [w.own s p] else x
    (p, x) :: s.statusList w eb (leading && (firstTrap x).isSome) r

/-- The same, where a fault of the lowest-lane participant's operands in a word that acts once, for it, is taken in every
participant (R267, R302); so also in KDECL: DESIGN CHOICE, as R202 is silent (log 52). -/
def State.statuses (s : State) (w : Work) (eb : Bool) (ps : List (Nat × Nat)) : List ((Nat × Nat) × List Status) :=
  match ps.head?.bind fun p => firstTrap ((w.uses.filter Use.low).map (s.useStatus p.2 eb)) with
  | some f => ps.map fun p => (p, [.trap f])
  | none => s.statusList w eb true ps

/-- The EMPTY bit of the word at issue (R63). -/
def State.emptyBit (s : State) : Bool := bit s.unit.header.toNat (8 + s.unit.idx)

/-- The class of a clause header (R63). -/
def clauseClass (h : Nat) : Cls := (Cls.ofCode (bits h 25 3)).getD .alu

/-- Whether a thread has an acquire under way that its later accesses must wait for (R240). -/
def State.acquiring (s : State) (t : Nat) : Bool :=
  s.fly.ops.any fun o => o.thread == t &&
    (match o.kind with
      | .atomic _ _ _ _ _ _ _ acq => acq.isSome
      | .remote _ _ _ _ _ _ _ _ acq => acq.isSome
      | .take _ _ _ _ _ _ => true
      | _ => false)

/-- Whether a thread has an atomic that its home has not performed: fences and words that read at once wait for it (log 11). -/
def State.atomicDue (s : State) (t : Nat) : Bool :=
  s.fly.ops.any fun o => o.thread == t && (match o.kind with | .atomic _ _ _ _ _ _ _ _ => true | _ => false)

/-- Whether a thread has a plain read under way that only an answer or a window's byte performs: a read of a peer window
that no gather made, or a scratchpad read that waits (R240). -/
def State.readsDue (s : State) (t : Nat) : Bool :=
  s.fly.ops.any fun o => o.thread == t &&
    (match o.kind with
      | .remote _ _ _ _ _ _ ctr _ _ => ctr != some .gx
      | .wait _ _ _ _ _ _ => true
      | _ => false)

/-- Whether the word at issue accesses memory: one of the mem, win and mtx classes, MWAIT, or a word that saves or loads an image
(R240). -/
def State.accesses (s : State) : Bool :=
  let op := bits ((s.unit.words[s.unit.idx]?).getD 0).toNat 25 7
  match clauseClass s.unit.header.toNat with
  | .mem => true
  | .win => true
  | .mtx => true
  | .sync => op == 0x19
  | .sys => decide (0x08 ≤ op ∧ op ≤ 0x0B)
  | _ => false

/-- The checks of R84 stage 5 from the registers on: R71 for every active thread, then the operands of the
participants, then their own checks. -/
def State.prep (s : State) (w : Work) : Prep :=
  let r := s.unit.rep
  if w.uses.any fun u => u.bad r (s.grp s.unit.group).budget then
    .go [] (s.unit.lanes.map fun p => (p, { cls := 1, code := 3 }))
  else
    let ps := s.parts w.guard
    let sts := s.statuses w s.emptyBit ps
    let trap := fun (x : (Nat × Nat) × List Status) => (firstTrap x.2).map fun f => (x.1, f)
    let opTraps := sts.filterMap trap
    let left := (sts.filter fun x => (trap x).isNone)
    if left.any (fun x => x.2.any Status.stalls || (s.accesses && s.acquiring x.1.2)) ||
        (left ≠ [] && w.hold s (left.map Prod.fst)) then
      .stall ((left.filter fun x => x.2.contains .hold).map fun x => x.1.2) opTraps
    else
      let ps := left.map Prod.fst
      let own := ps.filterMap fun p => (w.chk s ps p).map fun f => (p, f)
      let ok := ps.filter fun p => (w.chk s ps p).isNone
      .go ok (sortBy (fun x => x.1.1) (opTraps ++ own))

/-- A thread's oldest suspended operation whose fault it has not taken (R293), of those with numbers that satisfy `p`. -/
def State.untold (s : State) (t : Nat) (p : Nat → Bool) : Option MOp :=
  s.fly.mops.find? fun o => o.thread == t && o.susp.isSome && !o.told && p o.id

/-- The fault of a suspended operation (R293); PC is the issuing word. -/
def MOp.suspTrap (o : MOp) : Option Trap :=
  o.susp.map fun f => { cls := f.cls, code := f.code, addr := f.addr, access := f.access, pc := some o.pc }

/-- The fault of a thread's suspended operation (R293), of those with numbers that satisfy `p`. -/
def State.suspTrap (s : State) (t : Nat) (p : Nat → Bool) : Option Trap := (s.untold t p).bind MOp.suspTrap

/-- Whether a wait for a counter to come down to a threshold waits for an operation: all but so many of the most recent (R64,
R246). -/
def Thread.awaits (x : Thread) (c : Ctr) (th id : Nat) : Bool :=
  x.counted.any fun y => y.ctr == c && y.id == id && decide (th ≤ y.later)

/-- A thread has taken the fault of a suspended operation. -/
def State.tell (s : State) (id : Nat) : State := s.updMop id fun o => { o with told := true }

/-- A thread that takes the fault of its suspended operation has been told of it (R293). -/
def State.tellTrap (s : State) (t : Nat) (f : Trap) : State :=
  match s.untold t fun k => (s.fly.mops.find? fun o => o.id == k).bind MOp.suspTrap == some { f with resume := none } with
  | some o => s.tell o.id
  | none => s

/-- The faults of a word are taken; a clause that no thread of the unit goes on from has ended (R85, R445). -/
def State.takeAll (s : State) (note : State → Nat × Nat → State) (traps : List ((Nat × Nat) × Trap)) : State :=
  let s1 := if s.unit.lanes.all fun p => traps.any fun x => x.1 == p then s.clauseTrace 3 s.unit.issued 0 else s
  (traps.foldl (fun s x => note (s.tellTrap x.1.2 x.2) x.1) s1).takeTraps traps

/-- The charge of an issued word with participants, or of a repeat under REP, on the unit's core (R450). -/
def State.pay (s : State) (ctx core cost : Nat) (ok : List (Nat × Nat)) : State := if ok = [] then s else s.charge ctx core cost

/-- What the word at issue costs: a repeat after the first costs 1 (R450). -/
def State.costNow (s : State) (cost : Nat) : Nat :=
  match s.unit.rep with
  | some r => if 0 < r.k then min 1 cost else cost
  | none => cost

/-- Performs a word: a unit some of whose threads must wait stays where it is, blocked; else the effect happens in the
participants that do not trap, the issue is charged (R450), the traps are taken, and the unit goes on. -/
def State.run (s : State) (w : Work) : Host.Outcome State Fault Refusal :=
  match s.prep w with
  | .stall held traps => .next ((s.takeAll w.note traps).block held)
  | .go ok traps =>
    let c := (s.launch (s.team (s.grp s.unit.group).team).launch).ctx
    let k := s.unit.core
    let n := s.costNow w.cost
    let s2 := if w.ends then w.act (s.pay c k n ok) ok else (w.act s ok).pay c k n ok
    .next (w.fin ((s2.takeAll w.note traps).issued))

/-! Words that read a peer window before they act (R230). -/

/-- A thread is done with what its word has read. -/
def State.dropWords (s : State) (t : Nat) : State :=
  s.updFly fun f => { f with reads := f.reads.filter fun r => match r.who with | .word u _ => u != t | _ => true }

/-- Performs a word once the reads that it needs have their answers; those it has yet to send, as (reader, entry, offset,
length), go out while its unit stalls. -/
def State.runAfter (s : State) (w : Work) (need : State → List (Nat × Nat) → List (Reader × Nat × Nat × Nat)) :
    Host.Outcome State Fault Refusal :=
  match s.prep { w with chk := fun _ _ _ => none } with
  | .stall _ _ => s.run w
  | .go ok _ =>
    let due := (need s ok).filter fun x => (s.peerAnswer x.1).isNone
    if ok = [] || due = [] then
      match s.run w with
      | .next t => .next (ok.foldl (fun r p => r.dropWords p.2) t)
      | x => x
    else
      let ctx := (s.launch (s.team (s.grp s.unit.group).team).launch).ctx
      .next ((due.foldl (fun r x => r.readPeer ctx x.1 x.2.1 x.2.2.1 x.2.2.2) s).block [])

/-! Clauses (R63 to R67, R84). -/

/-- The fields of a header that break R63. -/
def headerBad (h : Nat) : Bool :=
  let n := bits h 28 4
  decide (n = 0) || decide (bits h 0 2 ≠ 0) || decide (bits h 9 15 / 2 ^ n ≠ 0) ||
  (!bit h 8 && decide (bits h 2 6 ≠ 0))

/-- The division of a clause (R65): how many of its words are instruction words, or none on a literal shortfall. -/
def divide (c : Cls) : List Word → Nat → Nat → Option Nat
  | [], i, demand => if demand = 0 then some i else none
  | w :: r, i, demand =>
    if demand < (w :: r).length then divide c r (i + 1) (demand + litCount c w.toNat)
    else if (w :: r).length < demand then none
    else some i

/-- Whether instruction words break the placement rules of R66 and R67. -/
def placementBad (c : Cls) (ws : List Word) : Bool :=
  let op := fun (w : Word) => bits w.toNat 25 7
  let isCtl := fun w => decide (0x60 ≤ op w) && decide (op w < 0x70)
  let ends := fun w => decide (c = .sys) && (op w == 0x02 || op w == 0x12)
  (match ws.getLast? with | some w => op w == 0x7F | none => false) ||
  (ws.dropLast.any fun w => (isCtl w && decide (c ≠ .ctl)) || ends w)

/-- The literal words that are left for the instruction word at an index (R65). -/
def IssueUnit.litsAt (u : IssueUnit) (idx : Nat) : List Word :=
  let c := clauseClass u.header.toNat
  let used := (((u.words.drop 1).take (idx - 1)).map fun w => litCount c w.toNat).foldl (· + ·) 0
  (u.words.drop (1 + u.instrs)).drop used

/-- The instruction at a word index of the clause in force. -/
def IssueUnit.instrAt (u : IssueUnit) (idx : Nat) : Except Reject Instr :=
  (decodeWord (clauseClass u.header.toNat) ((u.words[idx]?).getD 0).toNat (u.litsAt idx)).map Prod.fst

/-- The words of a clause, or the fault of stages 1 to 3 of R84 at its header. -/
def State.fetchClause (s : State) (l : Nat) (hdr : Dword) : Except Trap (List Word × Nat) :=
  let get := fun k => s.fetchWord l (wordAddr hdr k).toNat
  let fault := fun (k : Nat) (e : Nat × Nat) => ({ cls := e.1, code := e.2, addr := wordAddr hdr k, access := 4 } : Trap)
  match get 0 with
  | .error e => .error (fault 0 e)
  | .ok h =>
    let n := bits h.toNat 28 4
    match ((List.range n).map fun k => get (k + 1)).findSome? (fun x => match x with | .error e => some e | .ok _ => none),
        (pos (fun k => match get (k + 1) with | .error _ => true | .ok _ => false) (List.range n)) with
    | some e, some k => .error (fault (k + 1) e)
    | _, _ =>
      let ws := (List.range n).map fun k => match get (k + 1) with | .ok w => w | .error _ => 0
      let c := clauseClass h.toNat
      if headerBad h.toNat then .error { cls := 1, code := 2 }
      else
        match divide c ws 0 0 with
        | none => .error { cls := 1, code := 2 }
        | some m => if placementBad c (ws.take m) then .error { cls := 1, code := 2 } else .ok (h :: ws, m)

/-! Counters, waits and held errors (R64, R181, R204). -/

/-- The oldest error that a thread holds on a counter. -/
def Thread.heldOn (x : Thread) (c : Ctr) : Option HeldError := leastBy HeldError.id (x.held.filter fun h => h.ctr == c)

/-- The fault that delivers a held error (R181, R398, R399): PC is the word that issued the operation. -/
def heldTrap (x : Thread) (h : HeldError) : Trap :=
  { cls := 10, code := h.fail.both, addr := h.fail.addr, access := h.fail.access, pc := some h.fail.pc,
    aux := BitVec.ofNat 64 (h.ctr.code + 256 * (x.held.length - 1)) }

/-- How a thread fares at a wait for a counter to come down to a threshold: it waits, it takes a fault (that of a
suspended operation it would wait for, or a held error), or it is through (R64, R181, R204, R293). -/
def State.waitStatus (s : State) (t : Nat) (c : Ctr) (th : Nat) : Status :=
  let x := s.thr t
  if th < x.ctr c || !x.recentOnly c th then
    match (if c = .mx then s.suspTrap t (x.awaits c th) else none) with
    | some f => .trap f
    | none => .hold
  else
    match x.heldOn c with
    | some h => .trap (heldTrap x h)
    | none => .ready

/-- What delivering its oldest held error leaves of a thread's account. -/
def State.delivered (s : State) (t : Nat) (c : Ctr) (th : Nat) : State :=
  let x := s.thr t
  match x.heldOn c with
  | some h =>
    if x.ctr c ≤ th && x.recentOnly c th then s.updThr t fun x => { x with held := x.held.filter fun y => !(y.id == h.id && y.ctr == c) } else s
  | none => s

/-- The header wait of the clause in force (R64, R85): the faults that it delivers, and the threads that must still
wait. -/
def State.headerWait (s : State) : List ((Nat × Nat) × Trap) × List Nat :=
  let h := s.unit.header.toNat
  if bit h 8 then
    let sts := s.unit.lanes.map fun p => (p, s.waitStatus p.2 ((Ctr.ofCode (bits h 6 2)).getD .st) (bits h 2 4))
    (sts.filterMap (fun x => match x.2 with | .trap f => some (x.1, f) | _ => none), 
      (sts.filter fun x => x.2.stalls).map fun x => x.1.2)
  else ([], [])

/-- The SCOPE among the prefixes right before a word of a clause: it applies to that word also where a thread resumes at it, or at a
REP stacked behind it (R75, R76): DEDUCED (log 19). -/
def scopeBefore (ws : List Word) (idx : Nat) : Option Scope :=
  (((ws.take idx).drop 1).reverse.takeWhile fun w => bits w.toNat 25 7 == 0x7F).findSome? fun w =>
    if bits w.toNat 22 3 = 1 then [Scope.core, .clu, .die, .dev, .pod][bits w.toNat 19 3]? else none

/-- A unit goes on in the clause that it has in force, behind its header wait. -/
def IssueUnit.enter (u : IssueUnit) : IssueUnit :=
  { u with idx := max 1 u.idx, scope := u.scope.or (scopeBefore u.words u.idx) }

/-- Fetches and checks the clause of the unit at issue, and waits at its header (R84 stages 1 to 4). A fault there is
taken by every thread at the header, with the resume point as it was; a word index past the instruction words is an
illegal clause (R411). -/
def State.issueClause (s : State) : State :=
  let u := s.unit
  let atHdr := fun (f : Trap) => { f with pc := some (f.pc.getD u.hdr), resume := some (resumeOf u.hdr u.idx) }
  let all := fun (f : Trap) => (s.takeAll (fun s _ => s) (u.lanes.map fun p => (p, atHdr f))).issued
  match s.fetchClause (s.team (s.grp u.group).team).launch u.hdr with
  | .error f => all f
  | .ok (ws, m) =>
    if m < u.idx then all { cls := 1, code := 2 }
    else
      let at_ := bits u.hdr.toNat 0 57
      let s0 := s.noteTlbs (s.ctx (s.launch (s.team (s.grp u.group).team).launch).ctx) [at_, at_ + 4 * (ws.length - 1)]
      let s1 := s0.updUnit s.cur fun u => { u with words := ws, instrs := m }
      if u.waited then s1.updUnit s.cur IssueUnit.enter
      else
        let h := bits (ws.headD 0).toNat 0 32
        let r := s1.headerWait
        let note := fun (s : State) (p : Nat × Nat) =>
          s.delivered p.2 ((Ctr.ofCode (bits h 6 2)).getD .st) (bits h 2 4)
        if r.2 ≠ [] then (s0.takeAll note (r.1.map fun x => (x.1, atHdr x.2))).block r.2
        else
          (s1.takeAll note (r.1.map fun x => (x.1, atHdr x.2))).updUnit s.cur fun u =>
            { u.enter with waited := true }

/-- The unit at issue is ready for a word: live, and with its clause in force. -/
def State.onWord (s : State) : Bool := s.unit.live && decide (s.unit.words ≠ [])

/-- Every thread of the unit takes the trap of a word that is no instruction (R69, R83). -/
def State.illegalWord (s : State) : State :=
  (s.takeAll (fun s _ => s) (s.unit.lanes.map fun p => (p, { cls := 1, code := 1 }))).issued

end Sys2Proof.Machine
end

