-- ==== Sys2Proof/Machine/Operands.lean ====
section
/-!
DEFINITION. The operand forms that words share: arithmetic on up to two sources and the old destination (R102 to R105,
R121, R123), comparisons into predicates, and words that act once for the lowest lane (R267, R302).
-/

namespace Sys2Proof.Machine

/-- A source of n registers; 64-bit operands name pairs (R32, R71). -/
def srcUse (o : Opnd) (n step : Nat) : Use := { o := o, n := n, align := n, rd := true, step := step }

/-- A destination that an instruction writes, waiting for a pending fill (R104); `rd` when it is read as well. -/
def dstUse (o : Opnd) (n : Nat) (rd : Bool) : Use := { o := o, n := n, align := n, rd := rd, wr := true, step := 4 }

/-- A destination that an operation on its way will fill (R182). -/
def fillUse (o : Opnd) (n : Nat) : Use := { o := o, n := n, align := n, step := 4 }

/-- The value of a source of one register or a pair, as a 64-bit number; a 32-bit source is zero-extended. -/
def State.val (s : State) (p : Nat × Nat) (o : Opnd) (n step : Nat) : Dword :=
  if n = 2 then s.src64 p (s.stepped step n o) else (s.src p (s.stepped step n o)).setWidth 64

/-- The registers of a result. -/
def wordsOf (n : Nat) (x : Dword) : List Word := if n = 2 then [lo32 x, hi32 x] else [lo32 x]

/-- An arithmetic word: d := f of the flush bits, a, b and the old d, with the sticky bits that f sets. -/
def arith (cost g : Nat) (d : Opnd) (dn : Nat) (dRead : Bool) (a : Opnd) (an : Nat) (b : Opnd) (bn : Nat)
    (f : Word → Dword → Dword → Dword → Dword × Word) : Work :=
  let out := fun (s : State) (p : Nat × Nat) =>
    f (s.modeOf p.2) (s.val p a an 2) (s.val p b bn 1) (if dRead then s.val p d dn 4 else 0)
  { uses := [dstUse d dn dRead, srcUse a an 2, srcUse b bn 1], guard := g, cost := cost,
    act := fun s ok =>
      (s.putDst ok (s.stepped 4 dn d) fun p => wordsOf dn (out s p).1).each ok fun p x =>
        { x with mode := x.mode ||| (out s p).2 } }

/-- An integer word on 32-bit values (R102). -/
def int2 (g : Nat) (d a b : Opnd) (f : Word → Word → Word) : Work :=
  arith 1 g d 1 false a 1 b 1 fun _ x y _ => ((f (lo32 x) (lo32 y)).setWidth 64, 0)

/-- An integer word on 32-bit values that also reads d. -/
def int3 (g : Nat) (d a b : Opnd) (f : Word → Word → Word → Word) : Work :=
  arith 1 g d 1 true a 1 b 1 fun _ x y z => ((f (lo32 x) (lo32 y) (lo32 z)).setWidth 64, 0)

/-- An integer word on pairs. -/
def int64x (g : Nat) (d a b : Opnd) (bn : Nat) (f : Dword → Dword → Dword) : Work :=
  arith 1 g d 2 false a 2 b bn fun _ x y _ => (f x y, 0)

/-- An imm11 extended by its sign (R112). -/
def immS (i : Nat) : Opnd := .lit (((BitVec.ofNat 11 i).signExtend 32).setWidth 64)

/-- An imm11 extended by zeros (R112). -/
def immZ (i : Nat) : Opnd := .lit (BitVec.ofNat 64 (i % 2048))

/-- A floating-point word on 32-bit registers: f gets the flush bits and the codes of a, b and d (R121, R122). -/
def flt (g : Nat) (d : Opnd) (dRead : Bool) (a b : Opnd) (f : Word → Nat → Nat → Nat → Nat) : Work :=
  arith 2 g d 1 dRead a 1 b 1 fun m x y z =>
    (BitVec.ofNat 64 (f m (x.toNat % 2 ^ 32) (y.toNat % 2 ^ 32) (z.toNat % 2 ^ 32) % 2 ^ 32), 0)

/-- A floating-point word on pairs (R126, R127). -/
def flt64 (g : Nat) (d : Opnd) (dRead : Bool) (a b : Opnd) (f : Word → Nat → Nat → Nat → Nat) : Work :=
  arith 2 g d 2 dRead a 2 b 2 fun m x y z => (BitVec.ofNat 64 (f m x.toNat y.toNat z.toNat), 0)

/-- A comparison into a predicate (R117, R128). -/
def cmpWork (cost g q : Nat) (a : Opnd) (an : Nat) (b : Opnd) (bn : Nat) (f : Word → Dword → Dword → Bool) : Work :=
  { uses := [srcUse a an 0, srcUse b bn 0], guard := g, cost := cost,
    act := fun s ok => s.putPred ok q fun p => f (s.modeOf p.2) (s.val p a an 0) (s.val p b bn 0) }

/-- A predicate word (R118). -/
def predWork (g q : Nat) (f : BitVec 16 → Bool) : Work :=
  { guard := g, act := fun s ok => s.putPred ok q fun p => f (s.thr p.2).preds }

/-- The lowest-lane participant. -/
def lowest (ok : List (Nat × Nat)) : Nat × Nat := ok.headD (0, 0)

/-- Participants that act one after the other, in lane order, each on the state that those before it leave: the last state,
and the traps (R15). -/
def inTurn (one : State → Nat × Nat → Except Trap State) (s : State) :
    List (Nat × Nat) → State × List ((Nat × Nat) × Trap)
  | [] => (s, [])
  | p :: r =>
    match one s p with
    | .ok s1 => inTurn one s1 r
    | .error f => let x := inTurn one s r; (x.1, (p, f) :: x.2)

/-- A word whose participants act one after the other. -/
def turnWork (uses : List Use) (g cost : Nat) (one : State → Nat × Nat → Except Trap State) : Work :=
  { uses := uses, guard := g, cost := cost,
    chk := fun s ps p => ((inTurn one s ps).2.find? fun x => x.1 == p).map Prod.snd,
    act := fun s ok => (inTurn one s ok).1 }

/-- Whether a counter of some participant has no room (R180). -/
def State.ctrFull (s : State) (ok : List (Nat × Nat)) (c : Ctr) : Bool := ok.any fun p => decide (63 ≤ (s.thr p.2).ctr c)

/-- Whether the lowest-lane participant's counter has no room. -/
def State.lowestFull (s : State) (ok : List (Nat × Nat)) (c : Ctr) : Bool :=
  match ok with
  | [] => false
  | p :: _ => decide (63 ≤ (s.thr p.2).ctr c)

/-- The team of the unit at issue. -/
def State.unitTeam (s : State) : Nat := (s.grp s.unit.group).team

/-- The context of the unit at issue. -/
def State.unitCtx (s : State) : Context := s.ctx (s.launch (s.team s.unitTeam).launch).ctx

/-- The fault of a read of a managed line that another team wrote and has not flushed (R254). ADDR names the line, AUX the
writer: launch in [31:0], team in [63:32]. -/
def State.unflushedTrap (s : State) (x : Nat) (at_ : Place) (access : Nat) : Option Trap :=
  match at_ with
  | .mem pa => (s.unflushed s.unitTeam pa).map fun w =>
      { cls := 5, code := 8, addr := BitVec.ofNat 64 (x / 128 * 128), access := access,
        aux := BitVec.ofNat 64 (w.launch % 2 ^ 32 + (s.team w.team).idx * 2 ^ 32) }
  | _ => none

/-- The memory scope of an access: that of a SCOPE prefix, else the default given (R76). -/
def State.scopeOf (s : State) (d : Scope) : Scope := s.unit.scope.getD d

end Sys2Proof.Machine
end

