-- ==== Sys2Proof/Machine/IntAlu.lean ====
section
/-!
DEFINITION. The integer, logic, predicate and address words (file 05).
-/

namespace Sys2Proof.Machine

/-- What a word of the machine answers. -/
abbrev Out := Host.Outcome State Fault Refusal

/-! Moves and selection (R107, R108). -/

/-- MOV (R107). -/
def execMov (d a : Opnd) (g : Nat) (s : State) : Out := s.run (int2 g d a .zero fun x _ => x)

/-- MOVI (R107). -/
def execMovi (d : Opnd) (i : Nat) (s : State) : Out := s.run (int2 0 d .zero (immS i) fun _ y => y)

/-- SEL (R108): unguarded, a where predicate q holds, else b. -/
def execSel (d a b : Opnd) (q : Nat) (s : State) : Out :=
  s.run { uses := [dstUse d 1 false, srcUse a 1 0, srcUse b 1 0],
          act := fun s ok => s.putDst ok d fun p => [s.src p (if (s.thr p.2).preds.getLsbD q then a else b)] }

/-! Three-register arithmetic (R109). -/

/-- ADD (R109). -/
def execAdd (d a b : Opnd) (g : Nat) (s : State) : Out := s.run (int2 g d a b fun x y => x + y)

/-- SUB (R109). -/
def execSub (d a b : Opnd) (g : Nat) (s : State) : Out := s.run (int2 g d a b fun x y => x - y)

/-- MUL (R109). -/
def execMul (d a b : Opnd) (g : Nat) (s : State) : Out := s.run (int2 g d a b fun x y => x * y)

/-- The high word of the signed product (R109). -/
def mulhS (x y : Word) : Word := hi32 (x.signExtend 64 * y.signExtend 64)

/-- The high word of the unsigned product (R109). -/
def mulhU (x y : Word) : Word := hi32 (x.setWidth 64 * y.setWidth 64)

/-- MULH.i32 (R109). -/
def execMulhI32 (d a b : Opnd) (g : Nat) (s : State) : Out := s.run (int2 g d a b mulhS)

/-- MULH.n32 (R109). -/
def execMulhN32 (d a b : Opnd) (g : Nat) (s : State) : Out := s.run (int2 g d a b mulhU)

/-- MAD (R111). -/
def execMad (d a b : Opnd) (g : Nat) (s : State) : Out := s.run (int3 g d a b fun x y z => z + x * y)

/-- MADW.i32 (R111). -/
def execMadwI32 (d a b : Opnd) (g : Nat) (s : State) : Out :=
  s.run (arith 1 g d 2 true a 1 b 1 fun _ x y z => (z + (lo32 x).signExtend 64 * (lo32 y).signExtend 64, 0))

/-- MADW.n32 (R111). -/
def execMadwN32 (d a b : Opnd) (g : Nat) (s : State) : Out :=
  s.run (arith 1 g d 2 true a 1 b 1 fun _ x y z => (z + (lo32 x).setWidth 64 * (lo32 y).setWidth 64, 0))

/-- MIN.i32 (R109). -/
def execMinI32 (d a b : Opnd) (g : Nat) (s : State) : Out := s.run (int2 g d a b fun x y => if x.toInt ≤ y.toInt then x else y)

/-- MIN.n32 (R109). -/
def execMinN32 (d a b : Opnd) (g : Nat) (s : State) : Out := s.run (int2 g d a b fun x y => if x.toNat ≤ y.toNat then x else y)

/-- MAX.i32 (R109). -/
def execMaxI32 (d a b : Opnd) (g : Nat) (s : State) : Out := s.run (int2 g d a b fun x y => if x.toInt ≤ y.toInt then y else x)

/-- MAX.n32 (R109). -/
def execMaxN32 (d a b : Opnd) (g : Nat) (s : State) : Out := s.run (int2 g d a b fun x y => if x.toNat ≤ y.toNat then y else x)

/-- ABS (R109). -/
def execAbs (d a : Opnd) (g : Nat) (s : State) : Out := s.run (int2 g d a .zero fun x _ => if x.toInt < 0 then 0 - x else x)

/-- NEG (R109). -/
def execNeg (d a : Opnd) (g : Nat) (s : State) : Out := s.run (int2 g d a .zero fun x _ => 0 - x)

/-- AND (R109). -/
def execAnd (d a b : Opnd) (g : Nat) (s : State) : Out := s.run (int2 g d a b fun x y => x &&& y)

/-- OR (R109). -/
def execOr (d a b : Opnd) (g : Nat) (s : State) : Out := s.run (int2 g d a b fun x y => x ||| y)

/-- XOR (R109). -/
def execXor (d a b : Opnd) (g : Nat) (s : State) : Out := s.run (int2 g d a b fun x y => x ^^^ y)

/-- ANDN (R109). -/
def execAndn (d a b : Opnd) (g : Nat) (s : State) : Out := s.run (int2 g d a b fun x y => x &&& ~~~y)

/-- NOT (R109). -/
def execNot (d a : Opnd) (g : Nat) (s : State) : Out := s.run (int2 g d a .zero fun x _ => ~~~x)

/-! Shifts (R110): the count is all 32 bits of b. -/

/-- Shift left (R110). -/
def shlW (x y : Word) : Word := if 32 ≤ y.toNat then 0 else x <<< y.toNat

/-- Logical shift right (R110). -/
def shrW (x y : Word) : Word := if 32 ≤ y.toNat then 0 else x >>> y.toNat

/-- Arithmetic shift right (R110). -/
def sarW (x y : Word) : Word := x.sshiftRight (min y.toNat 31)

/-- Rotate left (R110). -/
def rolW (x y : Word) : Word := x.rotateLeft (y.toNat % 32)

/-- SHL (R110). -/
def execShl (d a b : Opnd) (g : Nat) (s : State) : Out := s.run (int2 g d a b shlW)

/-- SHR (R110). -/
def execShr (d a b : Opnd) (g : Nat) (s : State) : Out := s.run (int2 g d a b shrW)

/-- SAR (R110). -/
def execSar (d a b : Opnd) (g : Nat) (s : State) : Out := s.run (int2 g d a b sarW)

/-- ROL (R110). -/
def execRol (d a b : Opnd) (g : Nat) (s : State) : Out := s.run (int2 g d a b rolW)

/-! Bit counts (R109). -/

/-- The 1 bits of a word. -/
def popW (x : Word) : Word := BitVec.ofNat 32 ((List.range 32).filter fun i => x.getLsbD i).length

/-- The 0 bits above the highest 1 bit; 32 for zero. -/
def clzW (x : Word) : Word := if x = 0 then 32 else BitVec.ofNat 32 (31 - Nat.log2 x.toNat)

/-- The 0 bits below the lowest 1 bit; 32 for zero. -/
def ctzW (x : Word) : Word := BitVec.ofNat 32 (((List.range 32).find? fun i => x.getLsbD i).getD 32)

/-- The word with its bits in the other order. -/
def brevW (x : Word) : Word := x.reverse

/-- POPC (R109). -/
def execPopc (d a : Opnd) (g : Nat) (s : State) : Out := s.run (int2 g d a .zero fun x _ => popW x)

/-- CLZ (R109). -/
def execClz (d a : Opnd) (g : Nat) (s : State) : Out := s.run (int2 g d a .zero fun x _ => clzW x)

/-- CTZ (R109). -/
def execCtz (d a : Opnd) (g : Nat) (s : State) : Out := s.run (int2 g d a .zero fun x _ => ctzW x)

/-- BREV (R109). -/
def execBrev (d a : Opnd) (g : Nat) (s : State) : Out := s.run (int2 g d a .zero fun x _ => brevW x)

/-! Bit fields and byte permutation (R113, R114). -/

/-- Position and width of a field from b (R113). -/
def fieldOf (y : Word) : Nat × Nat := (bits y.toNat 0 8, min (bits y.toNat 8 8) 32)

/-- BFX.n32's value (R113). -/
def bfxU (x y : Word) : Word :=
  let f := fieldOf y
  BitVec.ofNat 32 (x.toNat / 2 ^ f.1 % 2 ^ f.2)

/-- BFX.i32's value (R113): past bit 31 stand copies of it, and the field's top bit is its sign. -/
def bfxS (x y : Word) : Word :=
  let f := fieldOf y
  let v := (x.toInt / (2 : Int) ^ f.1 % (2 : Int) ^ f.2).toNat
  if f.2 = 0 then 0
  else if 2 ^ (f.2 - 1) ≤ v then BitVec.ofInt 32 ((v : Int) - (2 : Int) ^ f.2)
  else BitVec.ofNat 32 v

/-- BFI's value (R113). -/
def bfiW (x y z : Word) : Word :=
  let f := fieldOf y
  let mask := BitVec.ofNat 32 ((2 ^ f.2 - 1) * 2 ^ f.1)
  (z &&& ~~~mask) ||| (BitVec.ofNat 32 (x.toNat * 2 ^ f.1) &&& mask)

/-- One byte of PERM (R114): nibble `k` of the selector picks a byte of the pool, or its sign replicated. -/
def permByte (pool sel k : Nat) : Nat :=
  let n := bits sel (4 * k) 4
  let x := bits pool (8 * (n % 8)) 8
  if n < 8 then x else if 128 ≤ x then 255 else 0

/-- PERM's value (R114): a gives bytes 0 to 3 of the pool, b 4 to 7, the old d the selector. -/
def permW (x y z : Word) : Word :=
  let pool := x.toNat + 2 ^ 32 * y.toNat
  let byte := permByte pool z.toNat
  BitVec.ofNat 32 (byte 0 + 2 ^ 8 * byte 1 + 2 ^ 16 * byte 2 + 2 ^ 24 * byte 3)

/-- BFX.i32 (R113). -/
def execBfxI32 (d a b : Opnd) (g : Nat) (s : State) : Out := s.run (int2 g d a b bfxS)

/-- BFX.n32 (R113). -/
def execBfxN32 (d a b : Opnd) (g : Nat) (s : State) : Out := s.run (int2 g d a b bfxU)

/-- BFI (R113). -/
def execBfi (d a b : Opnd) (g : Nat) (s : State) : Out := s.run (int3 g d a b bfiW)

/-- PERM (R114). -/
def execPerm (d a b : Opnd) (g : Nat) (s : State) : Out := s.run (int3 g d a b permW)

/-! Immediate forms (R112). -/

/-- ADDI (R112). -/
def execAddi (d a : Opnd) (i : Nat) (s : State) : Out := s.run (int2 0 d a (immS i) fun x y => x + y)

/-- ANDI (R112). -/
def execAndi (d a : Opnd) (i : Nat) (s : State) : Out := s.run (int2 0 d a (immS i) fun x y => x &&& y)

/-- ORI (R112). -/
def execOri (d a : Opnd) (i : Nat) (s : State) : Out := s.run (int2 0 d a (immZ i) fun x y => x ||| y)

/-- XORI (R112). -/
def execXori (d a : Opnd) (i : Nat) (s : State) : Out := s.run (int2 0 d a (immZ i) fun x y => x ^^^ y)

/-- SHLI (R112). -/
def execShli (d a : Opnd) (i : Nat) (s : State) : Out := s.run (int2 0 d a (immZ i) shlW)

/-- SHRI (R112). -/
def execShri (d a : Opnd) (i : Nat) (s : State) : Out := s.run (int2 0 d a (immZ i) shrW)

/-- SARI (R112). -/
def execSari (d a : Opnd) (i : Nat) (s : State) : Out := s.run (int2 0 d a (immZ i) sarW)

/-! 64-bit address arithmetic (R115, R116). -/

/-- LEA (R116). -/
def execLea (d a b : Opnd) (sh : Nat) (sx : Bool) (s : State) : Out :=
  s.run (int64x 0 d a b 1 fun x y => x + ((if sx then (lo32 y).signExtend 64 else y) <<< sh))

/-- ADD64 (R115). -/
def execAdd64 (d a b : Opnd) (g : Nat) (s : State) : Out := s.run (int64x g d a b 2 fun x y => x + y)

/-- SUB64 (R115). -/
def execSub64 (d a b : Opnd) (g : Nat) (s : State) : Out := s.run (int64x g d a b 2 fun x y => x - y)

/-- SHL64 (R115). -/
def execShl64 (d a b : Opnd) (g : Nat) (s : State) : Out :=
  s.run (int64x g d a b 1 fun x y => if 64 ≤ (lo32 y).toNat then 0 else x <<< (lo32 y).toNat)

/-! Compares and predicates (R117 to R119). -/

/-- What ICMP writes (R117). -/
def icmpW (c : ICond) (x y : Word) : Bool :=
  match c with
  | .eq => x == y
  | .ne => x != y
  | .ltI => decide (x.toInt < y.toInt)
  | .leI => decide (x.toInt ≤ y.toInt)
  | .ltN => decide (x.toNat < y.toNat)
  | .leN => decide (x.toNat ≤ y.toNat)
  | .tst => x &&& y != 0
  | .tz => x &&& y == 0

/-- ICMP (R117). -/
def execIcmp (q : Nat) (c : ICond) (a b : Opnd) (g : Nat) (s : State) : Out :=
  s.run (cmpWork 1 g q a 1 b 1 fun _ x y => icmpW c (lo32 x) (lo32 y))

/-- PAND (R118). -/
def execPand (q a b : Nat) (na nb : Bool) (g : Nat) (s : State) : Out :=
  s.run (predWork g q fun p => (p.getLsbD a != na) && (p.getLsbD b != nb))

/-- POR (R118). -/
def execPor (q a b : Nat) (na nb : Bool) (g : Nat) (s : State) : Out :=
  s.run (predWork g q fun p => (p.getLsbD a != na) || (p.getLsbD b != nb))

/-- PXOR (R118). -/
def execPxor (q a b : Nat) (na nb : Bool) (g : Nat) (s : State) : Out :=
  s.run (predWork g q fun p => (p.getLsbD a != na) != (p.getLsbD b != nb))

/-- PNOT (R118). -/
def execPnot (q a : Nat) (g : Nat) (s : State) : Out := s.run (predWork g q fun p => !p.getLsbD a)

/-- P2V (R119). -/
def execP2v (d : Opnd) (g : Nat) (s : State) : Out :=
  s.run { uses := [dstUse d 1 false], guard := g,
          act := fun s ok => s.putDst ok d fun p => [(s.thr p.2).preds.setWidth 32] }

/-- V2P (R119): predicates 1 to 15 under the mask b. -/
def execV2p (a b : Opnd) (g : Nat) (s : State) : Out :=
  s.run { uses := [srcUse a 1 0, srcUse b 1 0], guard := g,
          act := fun s ok => s.each ok fun p x =>
            let m : BitVec 16 := (s.src p b).setWidth 16 &&& 0xFFFE
            { x with preds := (x.preds &&& ~~~m) ||| ((s.src p a).setWidth 16 &&& m) } }

end Sys2Proof.Machine
end

