-- ==== Sys2Proof/Machine/Control.lean ====
section
/-!
DEFINITION. The ctl words (R152 to R159) and the prefixes (R74 to R78).
-/

namespace Sys2Proof.Machine

/-! Transfers (R154, R155). A thread whose guard is false goes on at the next clause header (R153). -/

/-- Whether a thread's guard is true. -/
def State.takes (s : State) (g : Nat) (p : Nat × Nat) : Bool := (s.thr p.2).preds.getLsbD g

/-- How CLAUSE packets code the end of a clause at a transfer: as such where a thread takes it, else as a fall-through (R445). -/
def State.endingOf (s : State) (g ending : Nat) : Nat := if s.unit.lanes.any (s.takes g) then ending else 0

/-- Where a word of ctl class that transfers nothing leaves a thread: a participant goes on at the next word (log 15). -/
def State.passes (s : State) (g : Nat) (p : Nat × Nat) : Option Dword :=
  if s.takes g p && decide (s.unit.idx < s.unit.instrs) then none else some s.unit.after

/-- The target of BRA and CALL (R154). -/
def State.relTarget (s : State) (off : Nat) : Dword := s.unit.hdr + ((BitVec.ofNat 21 off).signExtend 64) * 4

/-- The fault of a transfer whose target fails R79 or R154. -/
def State.targetTrap (s : State) (p : Nat × Nat) (t : Dword) : Option Trap :=
  if s.targetBad (s.team (s.teamOf p.2)).launch t then some { cls := 2, code := 1, addr := t } else none

/-- A transfer to a target that each participant computes. -/
def State.transfer (s : State) (uses : List Use) (g ending : Nat) (target : Nat × Nat → Dword) : Out :=
  s.run { uses := uses, guard := g,
          chk := fun s _ p => s.targetTrap p (target p),
          fin := fun s1 => s1.split (s1.endingOf g ending) fun p => some (if s.takes g p then target p else s.unit.after) }

/-- A call: the transfer, with the address behind the clause pushed (R155). -/
def State.callTo (s : State) (uses : List Use) (g ending : Nat) (target : Nat × Nat → Dword) : Out :=
  s.run { uses := uses, guard := g,
          chk := fun s _ p => (s.targetTrap p (target p)).or
            (if 32 ≤ (s.thr p.2).calls.length then some { cls := 2, code := 2 } else none),
          act := fun s ok => s.each ok fun _ x => { x with calls := s.unit.after :: x.calls },
          fin := fun s1 => s1.split (s1.endingOf g ending) fun p => some (if s.takes g p then target p else s.unit.after) }

/-- BRA (R154). -/
def execBra (g off : Nat) (s : State) : Out := s.transfer [] g 1 fun _ => s.relTarget off

/-- BRX (R154). -/
def execBrx (a : Opnd) (g : Nat) (s : State) : Out := s.transfer [srcUse a 2 0] g 2 fun p => s.src64 p a

/-- CALL (R155). -/
def execCall (g off : Nat) (s : State) : Out := s.callTo [] g 1 fun _ => s.relTarget off

/-- CALLX (R155). -/
def execCallx (a : Opnd) (g : Nat) (s : State) : Out := s.callTo [srcUse a 2 0] g 2 fun p => s.src64 p a

/-- RET (R155). -/
def execRet (g : Nat) (s : State) : Out :=
  s.run { guard := g,
          chk := fun s _ p => if (s.thr p.2).calls = [] then some { cls := 2, code := 3 } else none,
          act := fun s ok => s.each ok fun _ x => { x with calls := x.calls.drop 1 },
          fin := fun s1 => s1.split (s1.endingOf g 2) fun p =>
            some (if s.takes g p then (s.thr p.2).calls.headD 0 else s.unit.after) }

/-! Ending, trapping and marking (R156 to R159). -/

/-- How a thread fares at EXIT: it waits for its four counters, and takes the oldest error that it holds (R156, R181). -/
def State.exitStatus (s : State) (t : Nat) : Status :=
  let x := s.thr t
  if x.st = 0 ∧ x.mx = 0 ∧ x.gx = 0 ∧ x.ct = 0 then
    match leastBy HeldError.id x.held with
    | some h => .trap (heldTrap x h)
    | none => .ready
  else
    match s.suspTrap t fun _ => true with
    | some f => .trap f
    | none => .stall

/-- What delivering a fault at EXIT leaves of a thread's account. -/
def State.exitNote (s : State) (t : Nat) : State :=
  let x := s.thr t
  if x.st = 0 ∧ x.mx = 0 ∧ x.gx = 0 ∧ x.ct = 0 then
    match leastBy HeldError.id x.held with
    | some h => s.delivered t h.ctr 0
    | none => s
  else s

/-- EXIT (R156). -/
def execExit (g : Nat) (s : State) : Out :=
  s.run { guard := g,
          own := fun s p => s.exitStatus p.2,
          note := fun s p => s.exitNote p.2,
          act := fun s ok =>
            let s1 := if s.unit.lanes.all ok.contains then s.clauseTrace 4 (s.unit.issued + 1) 0 else s
            ok.foldl (fun s p => s.endThread p.2) s1,
          fin := fun s1 => s1.split 0 fun _ => some s.unit.after,
          ends := true }

/-- TRAP (R157). -/
def execTrap (c g : Nat) (s : State) : Out :=
  s.run { guard := g,
          chk := fun s _ _ => some { cls := 3, code := c, resume := some s.unit.after },
          fin := fun s1 => s1.split 0 fun _ => some s.unit.after }

/-- The unit at issue stops at its next stop point where a region breakpoint names an identifier (R441). -/
def State.regionBreak (s : State) (ok : List (Nat × Nat)) (c : Nat) : State :=
  if ok ≠ [] && (s.ctx (s.launchOfUnit s.cur).ctx).breaksAt c then s.ownStop 2 0 else s

/-- ENTER (R158). -/
def execEnter (c g : Nat) (s : State) : Out :=
  s.run { guard := g,
          chk := fun s _ p => if 65535 ≤ (s.thr p.2).rdepth then some { cls := 2, code := 4 } else none,
          act := fun s ok => (s.each ok fun _ x =>
            { x with regions := (BitVec.ofNat 16 c :: x.regions).take 16, rdepth := x.rdepth + 1 }).regionBreak ok c,
          fin := fun s1 => s1.split 0 (s.passes g) }

/-- The fault of LEAVE (R158). -/
def leaveTrap (x : Thread) (c : Nat) : Option Trap :=
  let top := (x.regions.headD 0xFFFF).toNat
  if x.rdepth = 0 then some { cls := 2, code := 5 }
  else if c ≠ 0xFFFF ∧ top ≠ 0xFFFF ∧ top ≠ c then some { cls := 2, code := 6 }
  else none

/-- LEAVE (R158). -/
def execLeave (c g : Nat) (s : State) : Out :=
  s.run { guard := g,
          chk := fun s _ p => leaveTrap (s.thr p.2) c,
          act := fun s ok => (s.each ok fun _ x =>
            { x with regions := x.regions.drop 1, rdepth := x.rdepth - 1 }).regionBreak ok c,
          fin := fun s1 => s1.split 0 (s.passes g) }

/-- BKPT (R159, R440, R441). -/
def execBkpt (c g : Nat) (s : State) : Out :=
  s.run { guard := g,
          act := fun s ok => if ok ≠ [] && (s.ctx (s.launchOfUnit s.cur).ctx).bkpt then s.ownStop 1 c else s,
          fin := fun s1 => s1.split 0 (s.passes g) }

/-- NOP (R153). -/
def execNop (s : State) : Out := s.run {}

/-! Prefixes (R74 to R78). A prefix issues with its word, in the same clk: of itself it neither ends a unit's waiting nor takes up
its datapath (R387). -/

/-- Whether an instruction is a prefix. -/
def isPrefix (i : Instr) : Bool :=
  match i with
  | .rep _ _ => true
  | .scope _ => true
  | _ => false

/-- Performs a prefix: the unit goes on at the next word. -/
def State.runPrefix (s : State) (f : IssueUnit → IssueUnit) : Out :=
  .next (s.updUnit s.cur fun u => f { u with idx := u.idx + 1, issued := u.issued + 1 })

/-- The word that a prefix applies to: the first word after it that is no prefix (R75). -/
def prefixed : List Word → Option Word
  | [] => none
  | w :: r => if bits w.toNat 25 7 = 0x7F then prefixed r else some w

/-- The words behind the word at issue. -/
def IssueUnit.rest (u : IssueUnit) : List Word := (u.words.take (u.instrs + 1)).drop (u.idx + 1)

/-- The STEP bits that a word lets REP use, or none where REP may not stand before it (R75, R83). -/
def stepsOf (c : Cls) (w : Nat) : Option Nat :=
  let op := bits w 25 7
  let rrr := match c with
    | .alu => [0x00, 0x08, 0x09, 0x0A, 0x0B, 0x0C, 0x10, 0x11, 0x12, 0x13, 0x14, 0x15, 0x18, 0x19, 0x1A, 0x1B, 0x1C,
               0x1D, 0x1E, 0x1F, 0x20, 0x28, 0x29, 0x2A, 0x2B, 0x39, 0x3A, 0x3B].contains op
    | .xfn => [0x00, 0x01, 0x02, 0x05, 0x06, 0x10, 0x11, 0x12, 0x13, 0x18, 0x19, 0x30, 0x31, 0x32, 0x33, 0x34, 0x35,
               0x36, 0x37].contains op
    | .mem => decide (op ≤ 0x04)
    | _ => false
  let unary := match c with
    | .alu => [0x00, 0x14, 0x15, 0x1C, 0x28, 0x29, 0x2A, 0x2B].contains op
    | .xfn => decide (0x30 ≤ op)
    | _ => false
  let open_ := fun lo bit => if 0x7C ≤ bits w lo 7 ∧ bits w lo 7 ≤ 0x7E then 0 else bit
  if rrr then some (open_ 18 4 + open_ 11 2 + (if unary then 0 else open_ 4 1))
  else if c = .alu ∧ op = 0x01 then some (open_ 18 4)
  else if c = .alu ∧ 0x30 ≤ op ∧ op ≤ 0x36 then some (open_ 18 4 + open_ 11 2)
  else none

/-- Whether REP may stand where it does (R75). -/
def IssueUnit.repOk (u : IssueUnit) (step : Nat) : Bool :=
  u.rep.isNone &&
  (match prefixed u.rest with
    | none => false
    | some w =>
      match stepsOf (clauseClass u.header.toNat) w.toNat with
      | none => false
      | some m => step &&& m == step)

/-- Whether SCOPE may stand where it does (R75). -/
def IssueUnit.scopeOk (u : IssueUnit) : Bool :=
  u.scope.isNone && decide (clauseClass u.header.toNat = .mem) &&
  (match prefixed u.rest with
    | none => false
    | some w => [0x00, 0x01, 0x05, 0x06, 0x08, 0x09, 0x18, 0x19].contains (bits w.toNat 25 7))

/-- A prefix that may not stand where it does: every thread traps at it (R75). -/
def State.badPrefix (s : State) : State :=
  (s.updUnit s.cur fun u => { u with rep := none, scope := none }).illegalWord

/-- REP (R77, R78): from the first repeat that some thread of the unit has left; the flush bits are sampled for the
threads that begin it (R43); a thread that a handler sent into the middle of a REP which it never began keeps the bits that its last
REP sampled: DESIGN CHOICE (log 37). The issue of the instruction is charged, not that of its prefixes (R387, R450). -/
def execRep (cnt step : Nat) (s : State) : Out :=
  if s.unit.repOk step then
    let c := cnt + 1
    let k0 := (s.unit.lanes.map fun p => (s.thr p.2).joinAt c).foldl min (c - 1)
    (s.each s.unit.lanes fun _ x =>
      if x.resuming then x
      else if x.hmode = 0 then { x with repMode := x.mode }
      else { x with handlerMode := x.mode }).runPrefix fun u => { u with rep := some ⟨c, step, k0, s.unit.idx⟩ }
  else .next s.badPrefix

/-- SCOPE (R76). -/
def execScope (sc : Scope) (s : State) : Out :=
  if s.unit.scopeOk then
    s.runPrefix fun u => { u with scope := some sc }
  else .next s.badPrefix

end Sys2Proof.Machine
end

