-- ==== Sys2Proof/Machine/CrossLane.lean ====
section
/-!
DEFINITION. The cross-lane words (R145 to R151): they act among the participants of one issue.
-/

namespace Sys2Proof.Machine

/-- The issue width of the unit at issue (R168). -/
def State.width (s : State) : Nat := (s.launchOfUnit s.cur).record.width

/-- The source lane of SHFL, or none where it lies outside the unit (R149). -/
def shflLane (m : ShflMode) (w lane n : Nat) : Option Nat :=
  let src : Int := match m with
    | .idx => n
    | .up => (lane : Int) - n
    | .down => (lane : Int) + n
    | .xor => (lane ^^^ n : Nat)
  if 0 ≤ src ∧ src < w then some src.toNat else none

/-- What SHFL gives a participant (R149). -/
def State.shuffle (s : State) (ok : List (Nat × Nat)) (a b : Opnd) (m : ShflMode) (p : Nat × Nat) : Word :=
  match shflLane m s.width p.1 ((s.src p b).toNat % 64) with
  | none => s.src p a
  | some l =>
    match ok.find? fun q => q.1 == l with
    | some q => s.src q a
    | none => s.src p a

/-- SHFL (R149). -/
def execShfl (d a b : Opnd) (m : ShflMode) (s : State) : Out :=
  s.run { uses := [dstUse d 1 false, srcUse a 1 0, srcUse b 1 0],
          act := fun s ok => s.putDst ok d fun p => [s.shuffle ok a b m p] }

/-- The votes of the participants (R150). -/
def State.votes (s : State) (ok : List (Nat × Nat)) (a : Nat) (na : Bool) : List Bool :=
  ok.map fun p => (s.thr p.2).preds.getLsbD a != na

/-- What VOTE gives (R150). -/
def tally (m : VoteMode) (xs : List Bool) : Bool :=
  match m with
  | .all => xs.all id
  | .any => xs.any id
  | .uni => xs.all id || xs.all not

/-- VOTE (R150). -/
def execVote (q a : Nat) (na : Bool) (m : VoteMode) (g : Nat) (s : State) : Out :=
  s.run { guard := g, act := fun s ok => s.putPred ok q fun _ => tally m (s.votes ok a na) }

/-- The mask of the lanes that satisfy a condition (R150). -/
def laneMask (ok : List (Nat × Nat)) (f : Nat × Nat → Bool) : Dword :=
  BitVec.ofNat 64 ((ok.filter f).foldl (fun m p => m + 2 ^ p.1) 0)

/-- BALLOT (R150). -/
def execBallot (d : Opnd) (a : Nat) (na : Bool) (g : Nat) (s : State) : Out :=
  s.run { uses := [dstUse d 2 false], guard := g,
          act := fun s ok => s.putDst ok d fun _ =>
            wordsOf 2 (laneMask ok fun p => (s.thr p.2).preds.getLsbD a != na) }

/-- LMATCH (R150). -/
def execLmatch (d a : Opnd) (g : Nat) (s : State) : Out :=
  s.run { uses := [dstUse d 2 false, srcUse a 1 0], guard := g,
          act := fun s ok => s.putDst ok d fun p => wordsOf 2 (laneMask ok fun q => s.src q a == s.src p a) }

/-- The value of the canonical tree's subtree of level `l` over leaves given by their indices within it; absent leaves
are not listed (R151). -/
def sparseTree (op : Dword → Dword → Dword) : Nat → List (Nat × Dword) → Option Dword
  | 0, xs => xs.head?.map Prod.snd
  | _ + 1, [] => none
  | l + 1, x :: r =>
    let xs := x :: r
    let lo := sparseTree op l (xs.filter fun x => decide (x.1 < 2 ^ l))
    let hi := sparseTree op l ((xs.filter fun x => decide (2 ^ l ≤ x.1)).map fun x => (x.1 - 2 ^ l, x.2))
    match lo, hi with
    | none, y => y
    | some x, none => some x
    | some x, some y => some (op x y)

/-- LRED's operator (R151). -/
def lredOp (o : LredOp) (x y : Dword) : Dword :=
  match o with
  | .f32 => treeOp 0 x y
  | .f64 => treeOp 1 x y
  | .smx => treeOp 2 x y
  | .i32 => (lo32 x + lo32 y).setWidth 64

/-- LRED's value when no index is supplied (R151). -/
def lredEmpty (o : LredOp) : Dword := if o = .smx then smEmpty else 0

/-- The registers of LRED's value. -/
def lredRegs (o : LredOp) : Nat := if o = .f64 ∨ o = .smx then 2 else 1

/-- The leaves that participants supply (R151). -/
def State.lredLeaves (s : State) (ps : List (Nat × Nat)) (a b : Opnd) (n : Nat) : List (Nat × Dword) :=
  (ps.map fun p => ((s.src p b).toNat, s.val p a n 0)).filter fun x => x.1 ≠ 0xFFFFFFFF

/-- LRED (R151). -/
def execLred (d a b : Opnd) (o : LredOp) (s : State) : Out :=
  let n := lredRegs o
  s.run { uses := [dstUse d n false, srcUse a n 0, srcUse b 1 0],
          chk := fun s ps _ =>
            let js := (s.lredLeaves ps a b n).map Prod.fst
            if (dedup js).length ≠ js.length then some { cls := 7, code := 7 } else none,
          act := fun s ok => s.putDst ok d fun _ =>
            wordsOf n ((sparseTree (lredOp o) 32 (s.lredLeaves ok a b n)).getD (lredEmpty o)) }

end Sys2Proof.Machine
end

