-- ==== Sys2Proof/Machine/Kmac.lean ====
section
/-!
DEFINITION. The MAC of a grant (R431): KMAC256 of NIST SP 800-185 over the permutation Keccak-f[1600] of FIPS 202, to which R431
refers. The key is a free value.
-/

namespace Sys2Proof.Machine

/-- A lane of Keccak's state, whose 25 lanes are listed by x + 5 y. -/
def lane (a : List (BitVec 64)) (x y : Nat) : BitVec 64 := (a[x % 5 + 5 * (y % 5)]?).getD 0

/-- Lanes given by their x and y. -/
def lanes (f : Nat → Nat → BitVec 64) : List (BitVec 64) := (List.range 25).map fun i => f (i % 5) (i / 5)

/-- How far each lane is rotated, by x + 5 y. -/
def rhoOffsets : List Nat :=
  [0, 1, 62, 28, 27, 36, 44, 6, 55, 20, 3, 10, 43, 25, 39, 41, 45, 15, 21, 8, 18, 2, 61, 56, 14]

/-- The constants of the 24 rounds. -/
def roundConstants : List (BitVec 64) :=
  [0x0000000000000001, 0x0000000000008082, 0x800000000000808A, 0x8000000080008000, 0x000000000000808B, 0x0000000080000001,
   0x8000000080008081, 0x8000000000008009, 0x000000000000008A, 0x0000000000000088, 0x0000000080008009, 0x000000008000000A] ++
  [0x000000008000808B, 0x800000000000008B, 0x8000000000008089, 0x8000000000008003, 0x8000000000008002, 0x8000000000000080,
   0x000000000000800A, 0x800000008000000A, 0x8000000080008081, 0x8000000000008080, 0x0000000080000001, 0x8000000080008008]

/-- One round of the permutation. -/
def keccakRound (a : List (BitVec 64)) (rc : BitVec 64) : List (BitVec 64) :=
  let c := (List.range 5).map fun x => lane a x 0 ^^^ lane a x 1 ^^^ lane a x 2 ^^^ lane a x 3 ^^^ lane a x 4
  let d := (List.range 5).map fun x => lane c (x + 4) 0 ^^^ (lane c (x + 1) 0).rotateLeft 1
  let t := lanes fun x y => (lane a x y ^^^ lane d x 0).rotateLeft ((rhoOffsets[x + 5 * y]?).getD 0)
  let b := lanes fun x y => lane t (x + 3 * y) x
  let e := lanes fun x y => lane b x y ^^^ (~~~(lane b (x + 1) y) &&& lane b (x + 2) y)
  upd e 0 fun w => w ^^^ rc

/-- The permutation. -/
def keccak (a : List (BitVec 64)) : List (BitVec 64) := roundConstants.foldl keccakRound a

/-- Takes a block of 136 bytes into the state. -/
def absorb (a : List (BitVec 64)) (block : List Byte) : List (BitVec 64) :=
  keccak (mapFrom (fun i w => if i < 17 then w ^^^ BitVec.ofNat 64 (bytesVal ((block.drop (8 * i)).take 8)) else w) 0 a)

/-- The first bytes, at most 136, that cSHAKE256 squeezes from a message with its prefix. -/
def squeeze (n : Nat) (m : List Byte) : List Byte :=
  let k := m.length / 136 + 1
  let body := (m ++ [4] ++ zeros (136 * k)).take (136 * k)
  let p := upd body (136 * k - 1) fun b => b ^^^ 0x80
  let a := (List.range k).foldl (fun a i => absorb a ((p.drop (136 * i)).take 136)) (List.replicate 25 0)
  (a.flatMap fun w => valBytes 8 w.toNat).take n

/-- The bytes of a number, most significant first, one at least. -/
def numBytes (n : Nat) : List Byte := (valBytes (Nat.log2 n / 8 + 1) n).reverse

/-- left_encode and right_encode of SP 800-185. -/
def leftEncode (n : Nat) : List Byte := valBytes 1 (numBytes n).length ++ numBytes n

/-- A number behind what it describes. -/
def rightEncode (n : Nat) : List Byte := numBytes n ++ valBytes 1 (numBytes n).length

/-- encode_string. -/
def encodeString (x : List Byte) : List Byte := leftEncode (8 * x.length) ++ x

/-- bytepad to the rate. -/
def bytePad (x : List Byte) : List Byte :=
  let y := leftEncode 136 ++ x
  y ++ zeros ((136 - y.length % 136) % 136)

/-- The bytes of a text. -/
def asciiBytes (t : String) : List Byte := t.toList.map fun c => BitVec.ofNat 8 c.toNat

/-- KMAC256 with an output of n bytes. -/
def kmac256 (key message : List Byte) (n : Nat) (custom : List Byte) : List Byte :=
  squeeze n (bytePad (encodeString (asciiBytes "KMAC") ++ encodeString custom) ++ bytePad (encodeString key) ++ message ++
    rightEncode (8 * n))

/-- The MAC of a grant (R431): target device and context and the token's low 40 bits under the key of an incarnation and a
generation. R431 says neither the output length that KMAC256 is asked for nor the order of the 24 bits in the token. DESIGN CHOICE (log
56): 24 bits, the first byte lowest. -/
def grantMac (inc gen dev ctx low : Nat) : BitVec 24 :=
  BitVec.ofNat 24 (bytesVal (kmac256 (Config.grantKey inc gen) (valBytes 2 dev ++ valBytes 1 ctx ++ valBytes 5 low) 3
    (asciiBytes "ZWIUF-GRANT")))

end Sys2Proof.Machine
end

