-- ==== Sys2Proof/Machine/LoadStore.lean ====
section
/-!
DEFINITION. The mem class but for tree and standing-load words (file 12, R256 to R266): loads, stores, gathers, scatters,
atomics, prefetch and fences. A load is performed between its issue and its landing, a store or atomic by STORE_PERFORMED.
Where a choice of the hardware is narrowed by that, log 10 and log 11 say so.
-/

namespace Sys2Proof.Machine

/-! Addresses (R258). -/

/-- An access of one participant: its address, where that lies and its bytes. -/
structure Acc where
  p : Nat × Nat
  va : Nat
  at_ : Place
  len : Nat
  deriving DecidableEq, Repr

/-- A global address checked and translated for an access: `need` is the permission, `access` the ACCESS byte. -/
def State.globAt (s : State) (x : Dword) (len need access : Nat) : Except Trap Place :=
  match s.xlate s.unitCtx x.toNat need with
  | .error f => .error { cls := f.1, code := f.2, addr := x, access := access }
  | .ok q => if x.toNat % len ≠ 0 then .error { cls := 5, code := 1, addr := x, access := access } else .ok q

/-- A share-relative address checked (R208). -/
def State.spadAt (s : State) (x : Int) (len access : Nat) : Except Trap Place :=
  let t := s.team s.unitTeam
  if x < 0 ∨ (t.size : Int) < x + len then .error { cls := 5, code := 2, addr := BitVec.ofInt 64 x, access := access }
  else if x.toNat % len ≠ 0 then .error { cls := 5, code := 1, addr := BitVec.ofInt 64 x, access := access }
  else .ok (.spad (t.addr x.toNat))

/-- A weight-store offset checked (R226): the context's region on the core's die. -/
def State.wsAt (s : State) (x : Int) (len access : Nat) : Except Trap Place :=
  let die := dieOfCore s.unit.core
  let r := (s.unitCtx.wsreg[die]?).getD (0, 0)
  if x < 0 ∨ (r.2 : Int) < x + len then .error { cls := 5, code := 3, addr := BitVec.ofInt 64 x, access := access }
  else if x.toNat % len ≠ 0 then .error { cls := 5, code := 1, addr := BitVec.ofInt 64 x, access := access }
  else .ok (.ws (die * 2 ^ 31 + r.1 + x.toNat))

/-- The global address of LD and ST (R258). -/
def State.globVa (s : State) (p : Nat × Nat) (a b : Opnd) : Dword :=
  s.val p a 2 2 + (lo32 (s.val p b 1 1)).signExtend 64

/-- The share-relative address of LDS and STS (R258), an exact integer. -/
def State.spadVa (s : State) (p : Nat × Nat) (a b : Opnd) : Int :=
  (((lo32 (s.val p a 1 2)).toNat % 2 ^ 24 : Nat) : Int) + (lo32 (s.val p b 1 1)).toInt

/-- The weight-store offset of LDW (R258), an exact integer. -/
def State.wsVa (s : State) (p : Nat × Nat) (a b : Opnd) : Int :=
  ((lo32 (s.val p a 1 2)).toNat : Int) + (lo32 (s.val p b 1 1)).toInt

/-- The number that an integer address has in records. -/
def intVa (x : Int) : Nat := (BitVec.ofInt 64 x).toNat

/-- The trap of an access, if it has one; a read of global memory is checked as R254 asks. -/
def accTrapOf (x : Except Trap Place) (read : Place → Option Trap) : Option Trap :=
  match x with
  | .error f => some f
  | .ok q => read q

/-- The accesses of the participants, in lane order. -/
def accsOf (f : Nat × Nat → Except Trap Place) (va : Nat × Nat → Nat) (len : Nat) (ok : List (Nat × Nat)) : List Acc :=
  ok.filterMap fun p =>
    match f p with
    | .ok q => some ⟨p, va p, q, len⟩
    | .error _ => none

/-- The bytes of a type (R257). -/
def memBytes (t : MemTy) : Nat :=
  match t with
  | .n8 => 1
  | .i8 => 1
  | .n16 => 2
  | .i16 => 2
  | .b32 => 4
  | .n64 => 8

/-- Whether a load of a type extends by the sign (R257). -/
def memSext (t : MemTy) : Bool :=
  match t with
  | .i8 => true
  | .i16 => true
  | _ => false

/-- A loaded value as the destination holds it (R257). -/
def extendBytes (sext : Bool) (bs : List Byte) : Dword :=
  let n := bytesVal bs
  let w := 8 * bs.length
  if sext && decide (bs.length < 4) && bit n (w - 1) then BitVec.ofNat 64 (2 ^ 32 - 2 ^ w + n) else BitVec.ofNat 64 n

/-! What accesses share. -/

/-- The lines of accesses as they are charged (R450). -/
def linesOf (l : List Acc) : List (Nat × Nat) :=
  l.map fun a =>
    match a.at_ with
    | .spad x => (1, x / 128)
    | .ws x => (2, x / 128)
    | .mem x => (3, x / 128)
    | .peer _ _ => (4, a.va / 128)

/-- An access issues: it is counted for sampling, and the TLBs hold its translations. -/
def State.accessed (s : State) (batch : Nat) (l : List Acc) : State :=
  let c := s.unitCtx
  let s := match linesOf l with
    | [] => s
    | x :: _ => s.sample batch x.1 (l.map Acc.p) (l.map fun a => a.va / 32).eraseDups.length
  l.foldl (fun s a =>
    match a.at_ with
    | .mem _ => s.noteTlb c a.va
    | .peer _ _ => s.noteTlb c a.va
    | _ => s) s

/-- The operations of an access bear the lines that they move, and `side` those of its scratchpad side; each line is charged when
the last of them completes (R450). Accesses of the save routine bear none: DEDUCED from R460 to R462 (log 55). -/
def State.charged (s : State) (batch : Nat) (l : List Acc) (side : Nat × Nat → List (Nat × Nat)) : State :=
  let bear := fun (o : Op) =>
    match l.find? fun a => o.batch == batch && a.p.2 == o.thread with
    | some a => { o with moves := if (s.thr o.thread).hmode = 2 then [] else linesOf [a] ++ side a.p }
    | none => o
  s.updFly fun f => { f with ops := f.ops.map bear }

/-- Whether accesses must wait for an atomic of their thread: one to the same line that has not been performed (R215, R239). Those behind
an acquire wait in any case (R240). -/
def State.accHeld (s : State) (ps : List (Nat × Nat)) (at_ : Nat × Nat → Except Trap Place) : Bool :=
  ps.any fun p => s.fly.ops.any fun o => o.thread == p.2 &&
    (match o.kind, at_ p with
      | .atomic (.mem x) _ _ _ _ _ _ _, .ok (.mem y) => x / 128 == y / 128
      | _, _ => false)

/-- The destination that a participant's value lands in: an s register takes the lowest lane's (R72). -/
def dstFor (d : Opnd) (lead : Bool) : Opnd :=
  match d with
  | .s _ => if lead then d else .zero
  | d => d

/-- Starts an operation; its number is `nextId` as it stood. -/
def State.startOp (s : State) (t batch va : Nat) (kind : OpKind) : State :=
  (s.updFly fun f => { f with ops := f.ops ++ [
    { id := s.nextId, batch := batch, thread := t, core := (s.thr t).core, pc := s.pc, kind := kind, va := va,
      since := s.clk }] }).takeId

/-- The failure of a request through a peer-table entry that cannot be read: a grant refusal. -/
def State.noPeer (s : State) (va access : Nat) : Failure := ⟨5, 5, BitVec.ofNat 64 va, access, s.pc⟩

/-- The failure of uncorrectable data. -/
def State.badData (s : State) (va access : Nat) : Failure := ⟨5, 6, BitVec.ofNat 64 va, access, s.pc⟩

/-- An operation in flight, by its number. -/
def State.op (s : State) (id : Nat) : Option Op := s.fly.ops.find? fun o => o.id == id

/-- Puts an operation in the place of another, which is then part of the way. -/
def State.setOp (s : State) (id : Nat) (k : OpKind) : State :=
  s.updFly fun f => { f with ops := f.ops.map fun o => if o.id = id then { o with kind := k } else o }

/-- Whether an operation is a load that has not been performed. -/
def Op.isLoad (o : Op) : Bool :=
  match o.kind with
  | .load _ _ _ _ _ _ _ _ _ => true
  | _ => false

/-- Where a load that has not been performed reads. -/
def Op.reads (o : Op) : Option (Place × Nat) :=
  match o.kind with
  | .load _ _ q n _ _ _ _ _ => some (q, n)
  | _ => none

/-- Whether a load reads bytes of a range and does not see a queued store. -/
def Op.readsWithout (o : Op) (id : Nat) (p : Place) (n : Nat) : Bool :=
  match o.kind with
  | .load _ _ q m _ _ _ _ view => q.meets m p n && !view.contains id
  | _ => false

/-- Whether a waiting scratchpad read does not see a store of its core to bytes that it reads: the store comes after it in the
core's order, and the read is one event (R235, R238). -/
def State.waitsBefore (s : State) (x o : Op) : Bool :=
  match x.kind, o.kind with
  | .wait _ _ addr m _ view, .store p bs _ _ =>
    x.core == o.core && !view.contains o.id && p.meets bs.length (.spad ((s.team (s.teamOf x.thread)).addr addr)) m
  | _, _ => false

/-- A load is performed: it reads its bytes (R231, R233). -/
def State.sampleOne (s : State) (id : Nat) : State :=
  match s.op id with
  | none => s
  | some o =>
    match o.kind with
    | .load dst words q n sext ctr sc spad view =>
      let val : Except Failure (List Byte) := match s.seenWith view o.core q n sc with
        | some bs => .ok bs
        | none => .error ⟨5, 6, BitVec.ofNat 64 o.va, 1, o.pc⟩
      let s1 := s.setOp id (match spad with
        | some y => .gather val y
        | none => .fill dst words (match val with | .ok bs => .ok (extendBytes sext bs) | .error f => .error f) ctr)
      match q with
      | .mem pa => (s1.noteVisitor o.core (pa / 128) sc).noteToken o.core (pa / 128)
      | _ => s1
    | _ => s

/-- Whether accesses are a fully coalesced line access (R236): they cover the bytes of one line, each byte once. -/
def coalesced (l : List Acc) : Bool :=
  let as := l.filterMap fun a =>
    match a.at_ with
    | .mem x => some (x / 128, x)
    | .peer e x => some (2 ^ 60 + e * 2 ^ 40 + x / 128, x)
    | _ => none
  match as with
  | [] => false
  | a :: _ =>
    decide (as.length = l.length) && as.all (fun x => x.1 == a.1) && decide (as.eraseDups.length = l.length) &&
    decide ((l.map Acc.len).foldl (· + ·) 0 = 128)

/-- The loads that are performed with one, as one event: those of its batch where they cover a line (R236). -/
def State.loadsWith (s : State) (o : Op) : List Nat :=
  let batch := s.fly.ops.filter fun x => x.batch == o.batch && x.isLoad && !x.elem
  let as := batch.filterMap fun x => x.reads.map fun r => ({ p := (0, x.thread), va := x.va, at_ := r.1, len := r.2 } : Acc)
  if coalesced as && batch.any (fun x => x.id == o.id) then batch.map Op.id else [o.id]

/-- Whether a thread's older load is performed no later than a younger one: they read the same bytes, or bytes of one line of
device memory (R215, R234). -/
def loadBefore (a b : Place × Nat) : Bool :=
  a.1.meets a.2 b.1 b.2 || (match a.1, b.1 with | .mem x, .mem y => x / 128 == y / 128 | _, _ => false)

/-- The loads that are performed no later than some: those of one event with them, and older ones of the same threads that
must come first. `fuel` bounds the rounds. -/
def State.loadsBefore (s : State) : Nat → List Nat → List Nat
  | 0, ids => ids
  | fuel + 1, ids =>
    let ls := s.fly.ops.filter Op.isLoad
    let chosen := ls.filter fun o => ids.contains o.id
    let older := ls.filter fun x => chosen.any fun o => x.thread == o.thread && decide (x.id < o.id) &&
      (match x.reads, o.reads with | some a, some b => loadBefore a b | _, _ => false)
    let all := dedup (ids ++ older.map Op.id ++ ((chosen ++ older).map s.loadsWith).flatten)
    if all.length = ids.length then ids else s.loadsBefore fuel all

/-- The loads of a kind are performed now, older ones first. -/
def State.sampleLoads (s : State) (p : Op → Bool) : State :=
  let ls := s.fly.ops.filter Op.isLoad
  let ids := s.loadsBefore ls.length ((ls.filter p).map Op.id)
  (ls.filter fun o => ids.contains o.id).foldl (fun s o => s.sampleOne o.id) s

/-- The plain loads of a thread are performed: a release or a fence orders them before what follows (R240, R241). One of the
weight store has no ordering (R259) and waits for its bank group (R229). -/
def State.samplePlain (s : State) (t : Nat) : State :=
  s.sampleLoads fun o => o.thread == t &&
    (match o.kind with
      | .load _ _ (.ws _) _ _ _ _ _ _ => false
      | .load _ _ _ _ _ ctr _ _ _ => ctr.isNone
      | _ => false)

/-- A thread reads bytes at once: its older loads of them come first, and its L1 holds the line afterwards (R213, R234). -/
def State.orderRead (s : State) (core t : Nat) (q : Place) (n : Nat) (sc : Scope) : State :=
  let s1 := s.sampleLoads fun o => o.thread == t && o.reads.elim false fun r => r.1.meets r.2 q n
  match q with
  | .mem pa => (s1.noteVisitor core (pa / 128) sc).noteToken core (pa / 128)
  | _ => s1

/-- An operation starts: its destination is empty until it lands, and it is counted. -/
def State.start (s : State) (p : Nat × Nat) (batch va : Nat) (dst : Opnd) (words : Nat) (ctr : Option Ctr) (kind : OpKind) :
    State :=
  let s1 := match ctr with | some c => s.updThr p.2 fun x => x.incCtr c s.nextId | none => s
  (s1.emptyDst [p] dst words fun _ => s.nextId).startOp p.2 batch va kind

/-- Starts a participant's load: into registers, or into the scratchpad where `spad` says so. `req` is the request that
brings a coalesced line from a peer window. An acquire is performed at once (R240). -/
def State.startLoad (s : State) (d : Opnd) (words : Nat) (sext : Bool) (ctr : Option Ctr) (sc : Scope) (acq : Option Scope)
    (spad : Option Nat) (batch : Nat) (lead : Bool) (req : Option Nat) (a : Acc) : State :=
  let t := a.p.2
  let dst := if spad.isSome then .zero else dstFor d lead
  let n := if spad.isSome then 0 else words
  let go := fun (s : State) (kind : OpKind) => s.start a.p batch a.va dst n ctr kind
  match a.at_ with
  | .peer e off =>
    match req, s.askPeer t e (.load off a.len) with
    | some r, _ => go s (.remote r dst n (off % 128) a.len sext ctr spad acq)
    | none, some s1 => go s1 (.remote s.nextId dst n 0 a.len sext ctr spad acq)
    | none, none =>
      go s (match spad with
        | some y => .gather (.error (s.noPeer a.va 1)) y
        | none => .fill dst n (.error (s.noPeer a.va 1)) ctr)
  | q =>
    let s1 := go s (.load dst n q a.len sext ctr sc spad (s.viewOf (s.thr t).core t q a.len))
    let s2 := if acq.isSome then s1.sampleLoads fun o => o.id == s.nextId else s1
    if ctr.isSome then s2.updFly fun f => { f with ops := f.ops.map fun o =>
      if o.id = s.nextId then { o with elem := true } else o } else s2

/-- The request for a line of a peer window that a coalesced access makes once (R236): the state and its number. -/
def State.askLine (s : State) (l : List Acc) (op : Nat → RemoteOp) : State × Option Nat :=
  match l with
  | { at_ := .peer e off, p := p, .. } :: _ =>
    if coalesced l then
      match s.askPeer p.2 e (op (off / 128 * 128)) with
      | some s1 => (s1, some s.nextId)
      | none => (s, none)
    else (s, none)
  | _ => (s, none)

/-- Loads of all participants. -/
def State.startLoads (s : State) (d : Opnd) (words : Nat) (sext : Bool) (ctr : Option Ctr) (sc : Scope)
    (acq : Option Scope) (l : List Acc) : State :=
  let lead := (l.head?).map Acc.p
  let s0 := s.accessed s.nextId l
  let r := if ctr.isNone then s0.askLine l fun off => .load off 128 else (s0, none)
  (l.foldl (fun z a => z.startLoad d words sext ctr sc acq none s.nextId (lead == some a.p) r.2 a) r.1).charged s.nextId l fun _ => []

/-- Whether a place lies in a core's own scratchpad slice. -/
def ownSlice (core : Nat) (q : Place) : Bool :=
  match q with
  | .spad a => a / 2 ^ 24 == core / 6 && a % 2 ^ 24 / 2 ^ 21 == core % 6
  | _ => false

/-- Every queued store of a core becomes visible to its threads (R238). -/
def State.showAll (s : State) (core : Nat) : State :=
  s.updFly fun f => { f with ops := f.ops.map fun o =>
    match o.kind with
    | .store q bs _ c => if o.core = core then { o with kind := .store q bs true c } else o
    | _ => o }

/-- Starts a participant's store of bytes. `req` is the request that takes a coalesced line to a peer window, `elem` marks
an element of a scatter. -/
def State.startStore (s : State) (batch : Nat) (req : Option Nat) (elem : Bool) (a : Acc) (bs : List Byte) : State :=
  let t := a.p.2
  let counted := !ownSlice (s.thr t).core a.at_
  let go := fun (s : State) (kind : OpKind) => s.start a.p batch a.va .zero 0 (if counted then some .st else none) kind
  match a.at_ with
  | .peer e off =>
    match req, s.askPeer t e (.store off bs) with
    | some r, _ => go s (.remote r .zero 0 0 a.len false (some .st) none none)
    | none, some s1 => go s1 (.remote s.nextId .zero 0 0 a.len false (some .st) none none)
    | none, none => go s (.done .st (some (s.noPeer a.va 2)))
  | q =>
    let s1 := go s (.store q bs false counted)
    if elem then s1.updFly fun f => { f with ops := f.ops.map fun o =>
      if o.id = s.nextId then { o with elem := true } else o } else s1

/-- Stores of all participants. -/
def State.startStores (s : State) (l : List (Acc × List Byte)) : State :=
  let as := l.map Prod.fst
  let line := (sortBy (fun x : Acc × List Byte => x.1.va % 128) l).map Prod.snd |>.flatten
  let r := (s.accessed s.nextId as).askLine as fun off => .store off line
  let s1 := (l.foldl (fun z a => z.startStore s.nextId r.2 false a.1 a.2) r.1).charged s.nextId as fun _ => []
  if coalesced as then s1.showAll s.unit.core else s1

/-- Stores of the elements of a scatter, each an event of its own (R261). -/
def State.startElems (s : State) (l : List (Acc × List Byte)) : State :=
  let as := l.map Prod.fst
  (l.foldl (fun z a => z.startStore s.nextId none true a.1 a.2) (s.accessed s.nextId as)).charged s.nextId as fun _ => []

/-- Whether a store must wait for room on ctr.st (R180). -/
def State.storeFull (s : State) (p : Nat × Nat) (x : Except Trap Place) : Bool :=
  match x with
  | .ok q => !ownSlice (s.thr p.2).core q && decide (63 ≤ (s.thr p.2).st)
  | .error _ => false

/-! Releases (R240, R241). -/

/-- Whether an access that a release of a thread orders has yet to be performed: its own store, atomic or read under way, or
a store that its core sees (R240, R241). -/
def State.unperformed (s : State) (t : Nat) : Bool :=
  s.readsDue t || s.fly.ops.any fun o =>
    match o.kind with
    | .store _ _ shown _ => o.thread == t || (o.core == (s.thr t).core && shown)
    | .atomic _ _ _ _ _ _ _ _ => o.thread == t
    | _ => false

/-- The loads of threads that a release or fence orders are performed. -/
def State.settleLoads (s : State) (ok : List (Nat × Nat)) : State := ok.foldl (fun r p => r.samplePlain p.2) s

/-- How a thread fares at a release: it waits for ctr.st and for its stores, and takes held errors (R241). -/
def State.releaseStatus (s : State) (p : Nat × Nat) : Status :=
  match s.waitStatus p.2 .st 0 with
  | .ready => if s.unperformed p.2 then .stall else .ready
  | x => x.plain

/-! Loads and stores (R256 to R259). -/

/-- LD (R259). -/
def execLd (d a b : Opnd) (t : MemTy) (acq : Bool) (s : State) : Out :=
  let n := memBytes t
  let at_ := fun (s : State) (p : Nat × Nat) => s.globAt (s.globVa p a b) n 1 1
  s.run { uses := [fillUse d t.words, srcUse a 2 2, srcUse b 1 1], cost := 2,
          hold := fun s ps => s.accHeld ps (at_ s),
          chk := fun s _ p => accTrapOf (at_ s p) fun q => s.unflushedTrap (s.globVa p a b).toNat q 1,
          act := fun s ok =>
            let sc := s.scopeOf .core
            let l := accsOf (at_ s) (fun p => (s.globVa p a b).toNat) n ok
            let s1 := s.startLoads (s.stepped 4 t.words d) t.words (memSext t) none sc (if acq then some sc else none) l
            if acq && ok ≠ [] then s1.acquire s.unit.core sc else s1 }

/-- ST (R259). -/
def execSt (d a b : Opnd) (t : MemTy) (rel : Bool) (s : State) : Out :=
  let n := memBytes t
  let at_ := fun (s : State) (p : Nat × Nat) => s.globAt (s.globVa p a b) n 2 2
  s.run { uses := [srcUse d t.words 4, srcUse a 2 2, srcUse b 1 1], cost := 2,
          own := fun s p => if rel then s.releaseStatus p else .ready,
          note := fun s p => if rel then s.delivered p.2 .st 0 else s,
          hold := fun s ps => s.accHeld ps (at_ s) || ps.any fun p => s.storeFull p (at_ s p),
          chk := fun s _ p => accTrapOf (at_ s p) fun _ => none,
          act := fun s ok =>
            let s0 := if rel && ok ≠ [] then (s.settleLoads ok).shadowRelease s.unitTeam (s.scopeOf .core) else s
            s0.startStores ((accsOf (at_ s) (fun p => (s.globVa p a b).toNat) n ok).map fun x =>
              (x, valBytes n (s.val x.p d t.words 4).toNat)) }

/-- Whether a thread has a scratchpad read waiting that meets a range of the share: a later access there comes after it
(R234). -/
def State.waitMeets (s : State) (t a len : Nat) : Bool :=
  s.fly.ops.any fun o => o.thread == t &&
    (match o.kind with | .wait _ _ b n _ _ => meets a len b n | _ => false)

/-- Whether a word that reads bytes of the share at once, and touches no window, must wait: for bytes of an arriving window, or for
an older read of the thread that waits (R219, R234). -/
def State.spadHeld (s : State) (t a len : Nat) : Bool :=
  s.waitMeets t a len || decide (s.arrivingIn s.unitTeam a len ≠ [])

/-- Starts a participant's LDS: bytes of absent or arriving windows are waited for (R219). -/
def State.startLds (s0 s : State) (d : Opnd) (words : Nat) (sext : Bool) (batch : Nat) (lead : Bool) (a : Acc) : State :=
  if s0.mustWait s0.unitTeam a.va a.len then
    let view := s.viewOf (s.thr a.p.2).core a.p.2 a.at_ a.len
    let dst := dstFor d lead
    (s.start a.p batch a.va dst words none (.wait dst words a.va a.len sext view)).touchAll s0.unitTeam a.va a.len s0.pc
  else s.startLoad d words sext none .clu none none batch lead none a

/-- LDS (R259). -/
def execLds (d a b : Opnd) (t : MemTy) (s : State) : Out :=
  let n := memBytes t
  let at_ := fun (s : State) (p : Nat × Nat) => s.spadAt (s.spadVa p a b) n 1
  s.run { uses := [fillUse d t.words, srcUse a 1 2, srcUse b 1 1], cost := 2,
          hold := fun s ps => ps.any fun p => s.waitMeets p.2 (intVa (s.spadVa p a b)) n,
          chk := fun s _ p => accTrapOf (at_ s p) fun _ => none,
          act := fun s ok =>
            let l := accsOf (at_ s) (fun p => intVa (s.spadVa p a b)) n ok
            let lead := (l.head?).map Acc.p
            (l.foldl (fun r x =>
              s.startLds r (s.stepped 4 t.words d) t.words (memSext t) s.nextId (lead == some x.p) x)
              (s.accessed s.nextId l)).charged s.nextId l fun _ => [] }

/-- STS (R259). -/
def execSts (d a b : Opnd) (t : MemTy) (s : State) : Out :=
  let n := memBytes t
  let at_ := fun (s : State) (p : Nat × Nat) => s.spadAt (s.spadVa p a b) n 2
  s.run { uses := [srcUse d t.words 4, srcUse a 1 2, srcUse b 1 1], cost := 2,
          hold := fun s ps => ps.any fun p => s.storeFull p (at_ s p) || s.waitMeets p.2 (intVa (s.spadVa p a b)) n,
          chk := fun s _ p => accTrapOf (at_ s p) fun _ => none,
          act := fun s ok =>
            s.startStores ((accsOf (at_ s) (fun p => intVa (s.spadVa p a b)) n ok).map fun x =>
              (x, valBytes n (s.val x.p d t.words 4).toNat)) }

/-- LDW (R226, R259). -/
def execLdw (d a b : Opnd) (t : MemTy) (s : State) : Out :=
  let n := memBytes t
  let at_ := fun (s : State) (p : Nat × Nat) => s.wsAt (s.wsVa p a b) n 1
  s.run { uses := [fillUse d t.words, srcUse a 1 2, srcUse b 1 1], cost := 2,
          chk := fun s _ p => accTrapOf (at_ s p) fun _ => none,
          act := fun s ok =>
            s.startLoads (s.stepped 4 t.words d) t.words (memSext t) none .core none
              (accsOf (at_ s) (fun p => intVa (s.wsVa p a b)) n ok) }

/-! Gathers and scatters (R260, R261). -/

/-- The index of a participant, none for the null index (R261). -/
def State.gatherIndex (s : State) (p : Nat × Nat) (b : Opnd) (iw sx : Bool) : Option Int :=
  let w : Nat := if iw then 16 else 32
  let x : Nat := (s.src p b).toNat % 2 ^ w
  if sx then if x = 2 ^ (w - 1) then none else some (BitVec.ofNat w x).toInt
  else if x = 2 ^ w - 1 then none else some (x : Int)

/-- The address of a participant's element (R261). -/
def State.gatherVa (s : State) (p : Nat × Nat) (base : Nat) (b : Opnd) (iw sx : Bool) (sh : Nat) : Dword :=
  s.src64 p (.s (2 * base)) + BitVec.ofInt 64 ((s.gatherIndex p b iw sx).getD 0 * 2 ^ sh)

/-- The participants with an index (R261). -/
def State.indexed (s : State) (b : Opnd) (iw sx : Bool) (ps : List (Nat × Nat)) : List (Nat × Nat) :=
  ps.filter fun p => (s.gatherIndex p b iw sx).isSome

/-- The operands of a gather or scatter: those of the element side and the base are asked of threads with an index only. -/
def gatherUses (d : Opnd) (n base : Nat) (b : Opnd) : List Use :=
  [{ o := d, n := n, align := n }, srcUse b 1 0, { o := .s (2 * base), n := 2, align := 2 }]

/-- How a thread with an index fares at its base pair and, where it is read, its element side. -/
def State.gatherStatus (s : State) (p : Nat × Nat) (base : Nat) (d : Option (Opnd × Nat)) : Status :=
  match s.useStatus p.2 s.emptyBit (srcUse (.s (2 * base)) 2 0), d with
  | .ready, some x => s.useStatus p.2 s.emptyBit (srcUse x.1 x.2 0)
  | x, _ => x

/-- The scratchpad side of an element (R261). -/
def State.gatherSpad (s : State) (p : Nat × Nat) (d : Opnd) (n access : Nat) : Except Trap Place :=
  s.spadAt (((s.src p d).toNat % 2 ^ 24 : Nat) : Int) n access

/-- The line of a participant's scratchpad side, as it is charged (R450). -/
def State.spadLine (s : State) (d : Opnd) (p : Nat × Nat) : List (Nat × Nat) :=
  [(1, ((s.team s.unitTeam).addr ((s.src p d).toNat % 2 ^ 24)) / 128)]

/-- GLD (R261). -/
def execGld (d : Opnd) (base sz : Nat) (sx : Bool) (b : Opnd) (sp iw : Bool) (sh : Nat) (s : State) : Out :=
  let n := 2 ^ sz
  let words := if sz = 3 then 2 else 1
  let at_ := fun (s : State) (p : Nat × Nat) => s.globAt (s.gatherVa p base b iw sx sh) n 1 1
  s.run { uses := gatherUses d (if sp then 1 else words) base b, cost := 0,
          own := fun s p =>
            if (s.gatherIndex p b iw sx).isSome then s.gatherStatus p base (if sp then some (d, 1) else none) else .ready,
          hold := fun s ps =>
            let ps := s.indexed b iw sx ps
            s.accHeld ps (at_ s) || ps.any fun p => decide (63 ≤ (s.thr p.2).gx),
          chk := fun s _ p =>
            if (s.gatherIndex p b iw sx).isNone then none
            else
              (accTrapOf (at_ s p) fun _ => none).or
                ((if sp then accTrapOf (s.gatherSpad p d n 1) fun _ => none else none).or
                  (accTrapOf (at_ s p) fun q => s.unflushedTrap (s.gatherVa p base b iw sx sh).toNat q 1)),
          act := fun s ok =>
            let ps := s.indexed b iw sx ok
            let sc := s.scopeOf .core
            let l := accsOf (at_ s) (fun p => (s.gatherVa p base b iw sx sh).toNat) n ps
            let s1 := if ps = [] then s else s.charge s.unitCtx.num s.unit.core 2
            if sp then
              (l.foldl (fun r x =>
                match s.gatherSpad x.p d n 1 with
                | .ok (.spad y) => r.startLoad .zero 0 false (some .gx) sc none (some y) s.nextId false none x
                | _ => r) (s1.accessed s.nextId l)).charged s.nextId l (s.spadLine d)
            else s1.startLoads d words false (some .gx) sc none l }

/-- GST (R261). The scratchpad side of an element is a plain read: made at issue, for which its unit waits while the bytes are still
arriving: DESIGN CHOICE, as R261 gives no moment (log 52). -/
def execGst (d : Opnd) (base sz : Nat) (sx : Bool) (b : Opnd) (sp iw : Bool) (sh : Nat) (s : State) : Out :=
  let n := 2 ^ sz
  let words := if sz = 3 ∧ sp = false then 2 else 1
  let at_ := fun (s : State) (p : Nat × Nat) => s.globAt (s.gatherVa p base b iw sx sh) n 2 2
  s.run { uses := gatherUses d words base b, cost := 0,
          own := fun s p => if (s.gatherIndex p b iw sx).isSome then s.gatherStatus p base (some (d, words)) else .ready,
          hold := fun s ps =>
            let ps := s.indexed b iw sx ps
            s.accHeld ps (at_ s) || ps.any fun p => decide (63 ≤ (s.thr p.2).st) ||
              (sp && s.spadHeld p.2 ((s.src p d).toNat % 2 ^ 24) n),
          chk := fun s _ p =>
            if (s.gatherIndex p b iw sx).isNone then none
            else (accTrapOf (at_ s p) fun _ => none).or
              (if sp then accTrapOf (s.gatherSpad p d n 2) fun _ => none else none),
          act := fun s ok =>
            let ps := s.indexed b iw sx ok
            let l := accsOf (at_ s) (fun p => (s.gatherVa p base b iw sx sh).toNat) n ps
            let s1 := if ps = [] then s else s.charge s.unitCtx.num s.unit.core 2
            if sp then
              (l.foldl (fun r x =>
                match s.gatherSpad x.p d n 2 with
                | .ok y =>
                  let r := r.orderRead (s.thr x.p.2).core x.p.2 y n .clu
                  match s.seen (s.thr x.p.2).core x.p.2 y n .clu with
                  | some bs => r.startStore s.nextId none true x bs
                  | none => r.start x.p s.nextId x.va .zero 0 (some .st)
                      (.done .st (some (s.badData ((s.src x.p d).toNat % 2 ^ 24) 1)))
                | .error _ => r) (s1.accessed s.nextId l)).charged s.nextId l (s.spadLine d)
            else s1.startElems (l.map fun x => (x, valBytes n (s.val x.p d words 0).toNat)) }

/-! Atomics (R262 to R264). -/

/-- Whether an ordering kind acquires. -/
def ordAcq (r : MOrd) : Bool := decide (r = .acq) || decide (r = .ar)

/-- Whether an ordering kind releases. -/
def ordRel (r : MOrd) : Bool := decide (r = .rel) || decide (r = .ar)

/-- The code of an operator (R263). -/
def aopCode : Aop → Nat
  | .add => 0
  | .and => 1
  | .or => 2
  | .xor => 3
  | .exch => 4
  | .min => 5
  | .max => 6

/-- The bytes of an atomic's location. -/
def atyBytes (t : ATy) : Nat :=
  match t with
  | .i32 => 4
  | .n32 => 4
  | .i64 => 8
  | .n64 => 8

/-- The registers of an atomic's value. -/
def atyWords (t : ATy) : Nat := atyBytes t / 4

/-- What an atomic asks of another device. -/
def atomicOp (off aop : Nat) (ty : ATy) (x c : Dword) : RemoteOp :=
  let o : Option Aop := [Aop.add, .and, .or, .xor, .exch, .min, .max][aop]?
  match o with
  | some o => .atomic off o ty x
  | none => .cas off (decide (atyBytes ty = 8)) c x

/-- Starts a participant's atomic: `x` its operand, `c` the comparand, into `d` unless it returns nothing. -/
def State.startAtomic (s : State) (aop : Nat) (ty : ATy) (x c : Dword) (d : Opnd) (ret : Bool) (acq : Option Scope)
    (batch : Nat) (lead : Bool) (a : Acc) : State :=
  let words := atyWords ty
  let dst := if ret then dstFor d lead else .zero
  let n := if ret then words else 0
  let go := fun (s : State) (kind : OpKind) => s.start a.p batch a.va dst n (if ret then none else some .st) kind
  match a.at_ with
  | .peer e off =>
    match s.askPeer a.p.2 e (atomicOp off aop ty x c) with
    | none =>
      go s (if ret then .fill dst words (.error (s.noPeer a.va 3)) none else .done .st (some (s.noPeer a.va 3)))
    | some s1 => go s1 (.remote s.nextId dst n 0 a.len false (if ret then none else some .st) none acq)
  | q => go s (.atomic q aop ty x c dst ret acq)

/-- An atomic word: `x` and `c` give each participant's operand and comparand. -/
def atomicWork (uses : List Use) (a : Opnd) (aop : Nat) (ty : ATy) (x c : State → Nat × Nat → Dword) (d : Opnd)
    (ret : Bool) (r : MOrd) (g : Nat) : Work :=
  let n := atyBytes ty
  let at_ := fun (s : State) (p : Nat × Nat) => s.globAt (s.src64 p a) n 3 3
  { uses := uses ++ [srcUse a 2 0], guard := g, cost := 2,
    own := fun s p => if ordRel r then s.releaseStatus p else .ready,
    note := fun s p => if ordRel r then s.delivered p.2 .st 0 else s,
    hold := fun s ps => s.accHeld ps (at_ s) || (!ret && s.ctrFull ps .st),
    chk := fun s _ p => accTrapOf (at_ s p) fun q => s.unflushedTrap (s.src64 p a).toNat q 3,
    act := fun s ok =>
      let sc := s.scopeOf .dev
      let l := accsOf (at_ s) (fun p => (s.src64 p a).toNat) n ok
      let lead := (l.head?).map Acc.p
      let s0 := if ordRel r && ok ≠ [] then (s.settleLoads ok).shadowRelease s.unitTeam sc else s
      (l.foldl (fun z y => z.startAtomic aop ty (x s y.p) (c s y.p) d ret (if ordAcq r then some sc else none) s.nextId
        (lead == some y.p) y) (s0.accessed s.nextId l)).charged s.nextId l fun _ => [] }

/-- ATOM (R263). -/
def execAtom (d a : Opnd) (nr : Bool) (o : Aop) (t : ATy) (r : MOrd) (g : Nat) (s : State) : Out :=
  s.run (atomicWork [srcUse d (atyWords t) 0] a (aopCode o) t (fun s p => s.val p d (atyWords t) 0) (fun _ _ => 0) d
    (!nr) r g)

/-- CAS (R264). What d = 0x7C supplies as comparand and as new value is not said. DESIGN CHOICE (log 26, unsafe): 0 for
both, as that code reads elsewhere. -/
def execCas (d a : Opnd) (w64 : Bool) (r : MOrd) (g : Nat) (s : State) : Out :=
  let n := if w64 then 2 else 1
  s.run (atomicWork [srcUse d (2 * n) 0] a 7 (if w64 then .n64 else .n32)
    (fun s p => s.val p (opndPlus d n) n 0) (fun s p => s.val p d n 0) d true r g)

/-! Prefetch and fences (R265, R266). -/

/-- PREF (R265): at .core or .clu it fills the core's L1. -/
def execPref (a b : Opnd) (s : State) : Out :=
  s.run { uses := [srcUse a 2 0, srcUse b 1 0], cost := 2,
          act := fun s ok =>
            let sc := s.scopeOf .core
            ok.foldl (fun r p =>
              let va := (s.globVa p a b).toNat
              match s.xlate s.unitCtx va 1 with
              | .ok (.mem pa) =>
                let r := (r.noteTlb s.unitCtx va).chargeLines s.unitCtx.num s.unit.core
                  (if (s.thr p.2).hmode = 2 then [] else [(3, pa / 128)])
                if sc = .core ∨ sc = .clu then (r.noteVisitor s.unit.core (pa / 128) sc).noteToken s.unit.core (pa / 128)
                else r
              | _ => r) s }

/-- FENCE (R266): every kind delivers held errors of ctr.st; a release waits first. -/
def execFence (sc : Scope) (k : FenceKind) (g : Nat) (s : State) : Out :=
  let rel := decide (k ≠ .acq)
  s.run { guard := g, cost := 2,
          own := fun s p => if rel then s.releaseStatus p else (s.waitStatus p.2 .st 63).plain,
          note := fun s p => s.delivered p.2 .st (if rel then 0 else 63),
          hold := fun s ps => ps.any fun p => s.atomicDue p.2 || s.readsDue p.2,
          act := fun s ok =>
            if ok = [] then s
            else
              let s0 := s.settleLoads ok
              let s1 := if rel then s0.shadowRelease s.unitTeam (s.scopeOf sc) else s0
              if k = .rel then s1 else s1.acquire s.unit.core (s.scopeOf sc) }

end Sys2Proof.Machine
end

