-- ==== Sys2Proof/Machine/Sync.lean ====
section
/-!
DEFINITION. Regrouping, yielding, barriers and waiting (R192 to R201, R204, R205).
-/

namespace Sys2Proof.Machine

/-! Regrouping and yielding (R194 to R196). -/

/-- Files participants into folds in ascending lane order, each on its own core, by the next program counter, up to the
first that finds no fold; those from there on are left over (R171, R194). -/
def State.fileAll (s : State) (hdr : Dword) (idx : Nat) : List (Nat × Nat) → State × List (Nat × Nat)
  | [] => (s, [])
  | p :: r =>
    match (s.updThr p.2 fun x => { x with since := s.clk, waits := false }).fileFold p.2 (s.thr p.2).core hdr idx false with
    | none => (s, p :: r)
    | some s => s.fileAll hdr idx r

/-- Where the word after the one at issue stands: a header, or a word of this clause (R194). -/
def State.nextPc (s : State) : Dword × Nat :=
  if s.unit.instrs ≤ s.unit.idx then (s.unit.after, 0) else (s.unit.hdr, s.unit.idx + 1)

/-- REFORM (R194). Where a fold is wanting, the participants before the one that finds none are filed, and the unit
stalls with the others (R171). -/
def execReform (g : Nat) (s : State) : Out :=
  let n := s.nextPc
  let w : Work :=
    { guard := g,
      act := fun s ok =>
        (if ok = s.unit.lanes then s.clauseTrace 0 (s.unit.issued + 1) 0 else s).fileAll n.1 n.2 ok |>.1 }
  let filed := s.fileAll n.1 n.2 (s.parts g)
  match s.prep w, filed.2 with
  | .go _ _, [] => s.run w
  | .go _ _, _ => .next (filed.1.block [])
  | .stall _ _, _ => s.run w

/-- YIELD (R190, R195, R386): the unit's waiting time is 0 and its stamp the clk plus A + 8. -/
def execYield (g : Nat) (s : State) : Out :=
  s.run { guard := g,
          act := fun s ok =>
            if ok = [] then s
            else
              (s.updUnit s.cur fun u => { u with stamp := s.clk + (s.launchOfUnit s.cur).record.foldage + 8 }).each
                s.unit.lanes fun _ x => { x with since := s.clk } }

/-- ELECT (R196). -/
def execElect (d : Opnd) (q g : Nat) (s : State) : Out :=
  s.run { uses := [dstUse d 1 false], guard := g,
          act := fun s ok => (s.putDst ok d fun _ => [BitVec.ofNat 32 ok.length]).putPred ok q fun p => p.1 == (lowest ok).1 }

/-! Barriers (R197 to R199). -/

/-- The barrier of the group at issue. -/
def State.bar (s : State) (b : Nat) : Barrier := (s.grp s.unit.group).bar b

/-- The arrivals of participants, one at a time in lane order: each one's phase, or none where it would take COUNT past
EXPECT, and the barrier that they leave (R177, R197). -/
def arriveAll (c : Nat × Nat → Nat) : Barrier → List (Nat × Nat) → List ((Nat × Nat) × Option (BitVec 16)) × Barrier
  | b, [] => ([], b)
  | b, p :: r =>
    match (if 8192 < c p then none else b.arrive (c p)) with
    | none =>
      let x := arriveAll c b r
      ((p, none) :: x.1, x.2)
    | some b1 =>
      let x := arriveAll c b1 r
      ((p, some b.phase) :: x.1, x.2)

/-- The phase that a participant's arrival reads. -/
def phaseFor (l : List ((Nat × Nat) × Option (BitVec 16))) (p : Nat × Nat) : Option (BitVec 16) :=
  (l.find? fun x => x.1 == p).bind Prod.snd

/-- An arrival of a count that each participant gives (R197). -/
def arriveWork (uses : List Use) (d : Opnd) (b g : Nat) (c : State → Nat × Nat → Nat) : Work :=
  { uses := dstUse d 1 false :: uses, guard := g,
    chk := fun s ps p =>
      if (phaseFor (arriveAll (c s) (s.bar b) ps).1 p).isNone then some { cls := 7, code := 1 } else none,
    act := fun s ok =>
      let x := arriveAll (c s) (s.bar b) ok
      (s.updBar s.unit.group b fun _ => x.2).putDst ok d fun p => [((phaseFor x.1 p).getD 0).setWidth 32] }

/-- ARRIVE (R197). -/
def execArrive (d : Opnd) (b g : Nat) (s : State) : Out := s.run (arriveWork [] d b g fun _ _ => 1)

/-- ARRIVE with a count (R197). -/
def execArriveCount (d a : Opnd) (b g : Nat) (s : State) : Out :=
  s.run (arriveWork [srcUse a 1 0] d b g fun s p => (s.src p a).toNat)

/-- The barrier after each participant's explicit set, with the phase that each of them reads (R197). -/
def expectAll (e : Nat × Nat → Nat) : Barrier → List (Nat × Nat) → List ((Nat × Nat) × Option (BitVec 16)) × Barrier
  | b, [] => ([], b)
  | b, p :: r =>
    let x := expectAll e (b.setExpect (e p)) r
    ((p, some b.phase) :: x.1, x.2)

/-- ARRIVE.expect (R197). -/
def execArriveExpect (d a : Opnd) (b g : Nat) (s : State) : Out :=
  s.run { uses := [dstUse d 1 false, srcUse a 1 0], guard := g,
          chk := fun s _ p =>
            if s.src p a = 0 ∨ 8192 < (s.src p a).toNat then some { cls := 7, code := 2 } else none,
          act := fun s ok =>
            let x := expectAll (fun p => (s.src p a).toNat) (s.bar b) ok
            (s.updBar s.unit.group b fun _ => x.2).putDst ok d fun p => [((phaseFor x.1 p).getD 0).setWidth 32] }

/-- BWAIT (R198). -/
def execBwait (a : Opnd) (b g : Nat) (s : State) : Out :=
  s.run { uses := [srcUse a 1 0], guard := g,
          own := fun s p => if (s.bar b).passed ((s.src p a).setWidth 16) then .ready else .hold }

/-- sr.bsync of a BSYNC whose arrival has been performed (R199). -/
def bsyncWord (b : Nat) (ph : BitVec 16) : Word := 0x80000000 ||| BitVec.ofNat 32 (b % 16 * 65536) ||| ph.setWidth 32

/-- The arrivals of BSYNC, by the participants that have not arrived (R199). -/
def State.bsyncArrive (s : State) (b g : Nat) : State :=
  let ps := (s.parts g).filter fun p => !(s.thr p.2).bsync.getLsbD 31
  let x := arriveAll (fun _ => 1) (s.bar b) ps
  let s1 := (s.updBar s.unit.group b fun _ => x.2).each (ps.filter fun p => (phaseFor x.1 p).isSome) fun p y =>
    { y with bsync := bsyncWord b ((phaseFor x.1 p).getD 0) }
  s1.takeAll (fun s _ => s) ((ps.filter fun p => (phaseFor x.1 p).isNone).map fun p => (p, { cls := 7, code := 1 }))

/-- BSYNC (R199): the arrivals that have not been made, then the wait. -/
def execBsync (b g : Nat) (s : State) : Out :=
  (s.bsyncArrive b g).run
    { guard := g,
      own := fun s p => if (s.bar b).passed ((s.thr p.2).bsync.setWidth 16) then .ready else .hold,
      act := fun s ok => s.each ok fun _ x => { x with bsync := x.bsync &&& 0x7FFFFFFF } }

/-! Waiting on counters and stamps (R204, R205). -/

/-- WAITC (R204, R443). -/
def execWaitc (c : Ctr) (th g : Nat) (s : State) : Out :=
  s.run { guard := g,
          own := fun s p => s.waitStatus p.2 c th,
          note := fun s p => s.delivered p.2 c th,
          act := fun s ok => if c = .mx ∧ th = 0 then s.each ok fun _ x => { x with tiled := false } else s }

/-- Where MWAIT's stamp lies, or the fault of its address (R205, R258). -/
def State.stampPlace (s : State) (p : Nat × Nat) (a : Opnd) (sp : Bool) : Except Trap Place :=
  if sp then
    let x := (s.src p a).toNat % 2 ^ 24
    let t := s.team s.unitTeam
    if t.size < x + 8 then .error { cls := 5, code := 2, addr := BitVec.ofNat 64 x, access := 1 }
    else if x % 8 ≠ 0 then .error { cls := 5, code := 1, addr := BitVec.ofNat 64 x, access := 1 }
    else .ok (.spad (t.addr x))
  else
    let x := s.src64 p a
    match s.xlate s.unitCtx x.toNat 1 with
    | .error f => .error { cls := f.1, code := f.2, addr := x, access := 1 }
    | .ok q => if x.toNat % 8 ≠ 0 then .error { cls := 5, code := 1, addr := x, access := 1 } else .ok q

/-- The stamp that a thread sees, none while a peer window's has yet to come (R230), or its failure. -/
def State.stampAt (s : State) (p : Nat × Nat) (q : Place) (va : Dword) : Except Trap (Option Dword) :=
  match q with
  | .peer _ _ =>
    match s.peerAnswer (.word p.2 va.toNat) with
    | none => .ok none
    | some (.ok bs) => .ok (some (BitVec.ofNat 64 (bytesVal bs)))
    | some (.error f) => .error { cls := f.1, code := f.2, addr := va, access := 1 }
  | q =>
    match s.seen (s.thr p.2).core p.2 q 8 .dev with
    | some bs => .ok (some (BitVec.ofNat 64 (bytesVal bs)))
    | none => .error { cls := 5, code := 6, addr := va, access := 1 }

/-- The address that MWAIT's a operand gives (R205). -/
def State.stampVa (s : State) (p : Nat × Nat) (a : Opnd) (sp : Bool) : Dword :=
  if sp then ((s.src p a).setWidth 24).setWidth 64 else s.src64 p a

/-- Whether a stamp ends a wait for a sequence number (R205). -/
def stampEnds (stamp want : Dword) : Bool :=
  decide (bits stamp.toNat 62 2 ≠ 0) || decide (bits want.toNat 0 62 ≤ bits stamp.toNat 0 62)

/-- How a thread fares at MWAIT (R205). Whether a held MWAIT whose page stops translating faults is left open. DESIGN
CHOICE (log 24, unsafe): the address is checked at every look. -/
def State.mwaitStatus (s : State) (p : Nat × Nat) (a b : Opnd) (sp : Bool) : Status :=
  let va := s.stampVa p a sp
  match s.stampPlace p a sp with
  | .error f => .trap f
  | .ok q =>
    match s.unflushedTrap va.toNat q 1, s.stampAt p q va with
    | some f, _ => .trap f
    | none, .error f => .trap f
    | none, .ok none => .hold
    | none, .ok (some x) => if stampEnds x (s.src64 p b) then .ready else .hold

/-- The stamp that MWAIT returns (R205). -/
def State.mwaitValue (s : State) (p : Nat × Nat) (a : Opnd) (sp : Bool) : Dword :=
  match s.stampPlace p a sp with
  | .error _ => 0
  | .ok q =>
    match s.stampAt p q (s.stampVa p a sp) with
    | .ok (some x) => x
    | _ => 0

/-- A stamp behind a peer window is asked for, and asked for again where the last answer does not end the wait (R205,
R230). -/
def State.mwaitAsk (s : State) (p : Nat × Nat) (a b : Opnd) (sp : Bool) : State :=
  let va := s.stampVa p a sp
  match s.stampPlace p a sp with
  | .ok (.peer e o) =>
    match s.stampAt p (.peer e o) va with
    | .ok none => s.readPeer s.unitCtx.num (.word p.2 va.toNat) e o 8
    | .ok (some x) =>
      if stampEnds x (s.src64 p b) then s
      else (s.dropRead (.word p.2 va.toNat)).readPeer s.unitCtx.num (.word p.2 va.toNat) e o 8
    | .error _ => s
  | _ => s

/-- The requests that MWAIT's operands lead to, where they can be read. -/
def State.mwaitAsks (s : State) (d a b : Opnd) (sp : Bool) : State :=
  match s.prep { uses := [dstUse d 2 false, srcUse a (if sp then 1 else 2) 0, srcUse b 2 0] } with
  | .go ok _ => ok.foldl (fun r p => r.mwaitAsk p a b sp) s
  | .stall _ _ => s

/-- MWAIT (R205): an acquire at .clu for a scratchpad stamp, at .dev for a global one. -/
def execMwait (d a b : Opnd) (sp : Bool) (s : State) : Out :=
  (s.mwaitAsks d a b sp).run
    { uses := [dstUse d 2 false, srcUse a (if sp then 1 else 2) 0, srcUse b 2 0],
      own := fun s p => s.mwaitStatus p a b sp,
      act := fun s ok =>
        let s1 := s.putDst ok d fun p => wordsOf 2 (s.mwaitValue p a sp)
        let s2 := ok.foldl (fun r p => r.dropWords p.2) s1
        if ok = [] then s2 else s2.acquire s.unit.core (if sp then .clu else .dev) }

end Sys2Proof.Machine
end

