-- ==== Sys2Proof/Machine/Mtx.lean ====
section
/-!
DEFINITION. The words of the mtx class (file 14), with KDECL and SIGN (R202, R203): reservations, accumulation
sequences, signatures on convergence registers, and results. Every guarded word but MDRAIN.reg and MSTAT acts once, for
the lowest-lane participant, and its faults are taken by every participant (R302).
-/

namespace Sys2Proof.Machine

/-! The shared form (R302). -/

/-- An operand of which only the lowest-lane participant's counts (R302). -/
def lowUse (o : Opnd) (n : Nat) : Use := { o := o, n := n, align := min n 2, rd := true, low := true }

/-- Scalar registers that a word names as a descriptor: an even one and those behind it. -/
def descUse (o : Opnd) (n : Nat) : Use := { o := o, n := n, align := 2, rd := true, low := true, sOnly := true }

/-- How a thread fares at a word that names accumulators: an operation of its own suspended on one of them delivers its
fault, another thread's holds it (R293). -/
def State.accStatus (s : State) (r : Nat) (ks : List Nat) (p : Nat × Nat) : Status :=
  if (s.resvTrap s.unitTeam r false).isSome then .ready
  else
    match ks.findSome? fun k => s.suspended s.unitTeam r k with
    | none => .ready
    | some o =>
      if o.thread = p.2 && !o.told then (o.suspTrap.map Status.trap).getD .stall
      else .stall

/-- A word that acts once, for the lowest-lane participant: what it reads, the accumulators that it names, its checks
on that participant's operands and its effect; `ctr` is the counter it counts on. -/
def leadWork (uses : List Use) (g : Nat) (ctr : Option Ctr) (r : Nat) (ks : List Nat)
    (chk : State → Nat × Nat → Option Trap) (act : State → Nat × Nat → State) : Work :=
  { uses := uses, guard := g, cost := 2,
    hold := fun s ps => match ctr with | some c => s.lowestFull ps c | none => false,
    own := fun s p => s.accStatus r ks p,
    chk := fun s ps _ => chk s (lowest ps),
    act := fun s ok => match ok with | [] => s | p :: _ => act s p }

/-- A fault of the matrix class: CLASS 8. -/
def mxTrap (code : Nat) : Option Trap := some { cls := 8, code := code }

/-- The state that an accumulator will have once every issued operation is done (R302). -/
def State.accAhead (s : State) (r k : Nat) : AccImage := (((s.team s.unitTeam).resv r).accum k).ahead

/-- Changes that state. -/
def State.setAhead (s : State) (r k : Nat) (f : AccImage → AccImage) : State :=
  s.updAccum s.unitTeam r k fun a => { a with ahead := f a.ahead }

/-- Issues an operation that is counted on ctr.mx of a thread. -/
def State.issueMx (s : State) (p : Nat × Nat) (r k : Nat) (kind : MKind) : State :=
  ((s.updThr p.2 fun t => t.incCtr .mx s.nextId).enqueue s.unitTeam r k p.2 s.pc kind)

/-- The check of a word on a reservation and on the state of accumulators (R279, R302). -/
def State.accTrap (s : State) (r : Nat) (ks : List Nat) (state : Nat) : Option Trap :=
  (s.resvTrap s.unitTeam r false).or
    (if ks.any fun k => (s.accAhead r k).state != state then mxTrap 3 else none)

/-- The check of bytes of the team's share (R258): the range, then the alignment. -/
def State.shareTrap (s : State) (a len align access : Nat) : Option Trap :=
  if (s.team s.unitTeam).size < a + len then some { cls := 5, code := 2, addr := BitVec.ofNat 64 a, access := access }
  else if a % align ≠ 0 then some { cls := 5, code := 1, addr := BitVec.ofNat 64 a, access := access }
  else none

/-! Reservations (R305, R306). -/

/-- The engines in MRSV's order (R275): those of the group's first core, then those of the team's other cores. The four of
one core are taken from 0 to 3: DESIGN CHOICE, as R275 orders the cores only (log 28). -/
def State.engineOrder (s : State) : List Nat :=
  let first := (s.thr ((s.threadsIn s.unit.group).headD s.threads.length)).core
  let others := sortBy id ((s.team s.unitTeam).cores.filter (· ≠ first))
  ((first :: others).map fun c => (List.range 4).map fun e => 4 * c + e).flatten

/-- The engine and the number that MRSV gives, if it gives one (R275). -/
def State.freeResv (s : State) : Option (Nat × Nat) :=
  match s.engineOrder.find? s.engineFree, pos (fun (r : Resv) => !r.held) (s.team s.unitTeam).resvs with
  | some e, some n => some (e, n)
  | _, _ => none

/-- MRSV (R275, R305). -/
def execMrsv (d : Opnd) (q g : Nat) (s : State) : Out :=
  s.run { uses := [dstUse d 1 false], guard := g, cost := 2,
          act := fun s ok =>
            if ok = [] then s
            else
              match s.freeResv with
              | none => (s.putDst ok d fun _ => [0xFFFFFFFF]).putPred ok q fun _ => false
              | some (e, n) =>
                ((s.updResv s.unitTeam n fun _ => { held := true, eng := e }).putDst ok d fun _ =>
                  [BitVec.ofNat 32 n]).putPred ok q fun _ => true }

/-- MREL (R276, R306). -/
def execMrel (r g : Nat) (s : State) : Out :=
  s.run (leadWork [] g (some .mx) r []
    (fun s _ => s.resvTrap s.unitTeam r true)
    fun s p => (s.issueMx p r 0 .rel).updResv s.unitTeam r fun x => { x with releasing := true })

/-! Opening, finishing, guidance (R307, R313, R314). -/

/-- MINIT (R307). -/
def execMinit (r k : Nat) (spad : Bool) (a b : Opnd) (g : Nat) (s : State) : Out :=
  s.run (leadWork [lowUse a 2, lowUse b 1] g (some .mx) r [k]
    (fun s p =>
      let x := s.src64 p a
      let base := (s.src p b).toNat % 2 ^ 24
      (s.resvTrap s.unitTeam r false).or <|
        if 10 < (hi32 x).toNat ∨ (lo32 x).toNat % 2 ^ min 10 (hi32 x).toNat ≠ 0 then mxTrap 4
        else if spad then s.shareTrap base 12288 16 9 else none)
    fun s p =>
      let x := s.src64 p a
      let c : Except Nat Word := if spad then .error ((s.src p b).toNat % 2 ^ 24) else .ok (s.src p b)
      (s.issueMx p r k (.init (lo32 x) (hi32 x).toNat c)).setAhead r k fun _ =>
        { state := 1, span := (hi32 x).toNat, origin := lo32 x })

/-- MFIN (R313). -/
def execMfin (r k g : Nat) (s : State) : Out :=
  s.run (leadWork [] g (some .mx) r [k]
    (fun s _ => s.accTrap r [k] 1)
    fun s p => (s.issueMx p r k .fin).setAhead r k fun x => { x with state := 2, labels := [] })

/-- MGUIDE (R300, R314). -/
def execMguide (r k : Nat) (a : Opnd) (g : Nat) (s : State) : Out :=
  s.run (leadWork [lowUse a 1] g (some .mx) r [k, k + 1]
    (fun s _ => (s.accTrap r [k, k + 1] 2).or
      (if (s.accAhead r k).psplit || (s.accAhead r (k + 1)).psplit then mxTrap 6 else none))
    fun s p => s.issueMx p r k (.guide (s.src p a)))

/-! Moving results out (R315, R316, R317). -/

/-- MDRAIN to registers (R315), by every participant. -/
def execMdrainReg (r k : Nat) (a : Opnd) (col rowb g : Nat) (s : State) : Out :=
  s.run { uses := [{ o := a, n := 16, vOnly := true }], guard := g, cost := 2,
          own := fun s p => s.accStatus r [k] p,
          chk := fun s _ _ => s.accTrap r [k] 2,
          act := fun s ok =>
            let ps := ok.filter fun p => decide (16 * rowb + p.1 < 64)
            ps.foldl (fun s p =>
              match a with
              | .v n => (s.emptyDst [p] a 16 fun _ => s.nextId).enqueue s.unitTeam r k p.2 s.pc
                  (.drainReg p.2 n (16 * rowb + p.1) col)
              | _ => s) s }

/-- MDRAIN to the scratchpad (R315). -/
def execMdrainSpad (r k : Nat) (a : Opnd) (g : Nat) (s : State) : Out :=
  let base := fun (s : State) (p : Nat × Nat) => (lo32 (s.src64 p a)).toNat % 2 ^ 24
  let pitch := fun (s : State) (p : Nat × Nat) => (hi32 (s.src64 p a)).toNat % 2 ^ 16
  s.run (leadWork [descUse a 2] g (some .mx) r [k]
    (fun s p => ((s.accTrap r [k] 2).or (s.shareTrap (base s p) (63 * pitch s p + 192) 16 10)).or
      (if pitch s p % 16 ≠ 0 ∨ pitch s p < 192 then
        some { cls := 5, code := 1, addr := BitVec.ofNat 64 (base s p), access := 10 } else none))
    fun s p => s.issueMx p r k (.drainSpad (base s p) (pitch s p)))

/-- The tree set that a thread's launch names by a handle (R332). -/
def State.treeNamed (s : State) (t handle : Nat) : Option TreeSet :=
  let l := s.launchOf t
  if handle = 0 || !l.record.trees.contains handle then none else s.treeSet l.ctx handle

/-- MDRAIN of pending nodes as labelled partials (R283, R315). -/
def execMdrainTree (r k : Nat) (a : Opnd) (g : Nat) (s : State) : Out :=
  let handle := fun (s : State) (p : Nat × Nat) => (lo32 (s.src64 p a)).toNat
  let elem := fun (s : State) (p : Nat × Nat) => (hi32 (s.src64 p a)).toNat
  s.run (leadWork [descUse a 2] g (some .mx) r [k]
    (fun s p =>
      let ls := (s.accAhead r k).labels
      (s.accTrap r [k] 1).or <|
        match s.treeNamed p.2 (handle s p) with
        | none => some { cls := 9, code := 1 }
        | some t =>
          if ls ≠ [] ∧ (t.elems < elem s p + 3072 ∨ (ls.any fun l => labelBad t.leaves l.1 l.2) = true) then
            some { cls := 9, code := 2 }
          else none)
    fun s p => (s.issueMx p r k (.drainTree (handle s p) (elem s p))).setAhead r k fun x =>
      { x with state := 0, labels := [] })

/-- The bytes of an element that MSTORE writes (R316). -/
def SFmt.bytes : SFmt → Nat
  | .f32 => 4
  | .f16 => 2
  | .bf16 => 2
  | .e4m3 => 1
  | .e5m2 => 1

/-- The class of an MSTORE format in sr.mode's flush bits (R43). -/
def SFmt.cls : SFmt → Nat
  | .f32 => 2
  | .f16 => 1
  | .bf16 => 1
  | .e4m3 => 0
  | .e5m2 => 0

/-- MSTORE (R316). -/
def execMstore (r k : Nat) (f : SFmt) (glob : Bool) (a : Opnd) (g : Nat) (s : State) : Out :=
  let base := fun (s : State) (p : Nat × Nat) =>
    if glob then s.src64 p a else (((s.src p a).setWidth 24).setWidth 64 : Dword)
  let pitch := fun (s : State) (p : Nat × Nat) => (s.src p (opndPlus a (if glob then 2 else 1))).toNat % 2 ^ 16
  let skew := fun (s : State) (p : Nat × Nat) =>
    some ({ cls := 5, code := 1, addr := base s p, access := 10 } : Trap)
  s.run (leadWork [descUse a (if glob then 3 else 2)] g (some .mx) r [k]
    (fun s p =>
      let bad := pitch s p % 16 ≠ 0 ∨ pitch s p < 48 * SFmt.bytes f
      (s.accTrap r [k] 2).or <|
        if glob then
          if 2 ^ 57 ≤ (base s p).toNat then some { cls := 4, code := 4, addr := base s p, access := 10 }
          else if (base s p).toNat % 16 ≠ 0 ∨ bad then skew s p else none
        else (s.shareTrap (base s p).toNat (63 * pitch s p + 48 * SFmt.bytes f) 16 10).or
          (if bad then skew s p else none))
    fun s p => s.issueMx p r k
      (.store f glob (base s p) (pitch s p) (flushOut (s.thr p.2).mode (SFmt.cls f))))

/-- MSTAT of an accumulator (R317), by every participant. -/
def execMstatAcc (d : Opnd) (r k g : Nat) (s : State) : Out :=
  s.run { uses := [fillUse d 2], guard := g, cost := 2,
          own := fun s p => s.accStatus r [k] p,
          chk := fun s _ _ => s.resvTrap s.unitTeam r true,
          act := fun s ok => ok.foldl (fun s p =>
            (match d with
              | .s _ => if p = lowest ok then s.emptyDst [p] d 2 fun _ => s.nextId else s
              | d => s.emptyDst [p] d 2 fun _ => s.nextId).enqueue s.unitTeam r k p.2 s.pc (.stat p.2 d)) s }

/-- MSTAT of a reservation's engine (R317), sampled at issue. -/
def execMstatEng (d : Opnd) (r _k g : Nat) (s : State) : Out :=
  s.run { uses := [dstUse d 2 false], guard := g, cost := 2,
          chk := fun s _ _ => s.resvTrap s.unitTeam r true,
          act := fun s ok =>
            let x := (s.team s.unitTeam).resv r
            s.putDst ok d fun _ => [x.bfetch,
              BitVec.ofNat 32 (b2n (s.engineFenced x.eng) + 8 * (x.eng / 4 % 6) + 64 * (x.eng % 4))] }

/-! Convergence registers (R202, R203, R309). -/

/-- KDECL (R202). The spec gives no precedence where the range is bad and the register is declared already. DESIGN CHOICE
(log 23, unsafe): the convergence-range trap. -/
def execKdecl (k : Nat) (a b : Opnd) (g : Nat) (s : State) : Out :=
  s.run { uses := [lowUse a 1, lowUse b 1], guard := g,
          chk := fun s ps _ =>
            let lo := (s.src (lowest ps) a).toNat
            let n := (s.src (lowest ps) b).toNat
            if n = 0 ∨ 8192 < n ∨ (s.grp s.unit.group).nthreads < lo + n then some { cls := 7, code := 5 }
            else if (s.conv (s.convOwner s.unit.group k) k).declared then some { cls := 7, code := 3 }
            else none,
          act := fun s ok =>
            match ok with
            | [] => s
            | p :: _ =>
              let n := (s.src p b).toNat
              s.updConv (s.convOwner s.unit.group k) k fun _ =>
                { declared := true, lo := (s.src p a).toNat, n := n,
                  left := if s.convShared s.unit.group k then 2 * n else n } }

/-- What a signature does: it is made (with whether it brought SIGNED to 0), it stalls the unit, it holds its thread as R186
lists, or it traps. -/
inductive Sig where
  | made (s : State) (last : Bool)
  | stall
  | hold
  | trap (f : Trap)

/-- A signature's fault. -/
def Sig.fault (cls code : Nat) : Sig := .trap { cls := cls, code := code }

/-- Whether an operand field is of the kind that its source requires (R308). -/
def kindOk (space : Nat) (o : Opnd) : Bool :=
  match space, o with
  | 0, .v _ => true
  | 3, .s n => decide (n % 2 = 0) && decide (n + 2 ≤ 27)
  | 1, .s n => decide (n + 1 ≤ 27)
  | 2, .s n => decide (n + 1 ≤ 27)
  | _, _ => false

/-- The row registers that a member supplies for an operand of `h` rows of `n` elements (R287). -/
def rowUse (c : Conv) (o : Opnd) (h f n : Nat) : Use :=
  { o := o, n := memberWords c h f n, rd := true, vOnly := true }

/-- The state of a member's row registers: outside its allocation is the illegal-register trap (R71, R287). -/
def State.rowStatus (s : State) (t : Nat) (u : Use) : Status :=
  if opndBad u.o u.n 1 true (s.grp s.unit.group).budget then .trap { cls := 1, code := 3 }
  else s.useStatus t s.emptyBit u

/-- The words of a member's row registers. -/
def State.rowWordsOf (s : State) (t : Nat) (u : Use) : List Word := (s.regsOf t u.o u.n).map Reg.word

/-- How the last signer fares before the issue: its counter must have room, the scalar registers must be full (or the
word's EMPTY bit makes it trap), and no target may be suspended (R63, R180, R182, R293, R312). -/
def State.issueStatus (s : State) (owner k : Nat) (p : Nat × Nat) : Status :=
  match s.issuesOf owner k with
  | [] => .ready
  | x :: _ =>
    let h := mhdr x.h0
    if 63 ≤ (s.thr p.2).mx then .stall
    else
      match s.issueFailed x with
      | some f => .trap f.readTrap
      | none =>
        if s.issueEmpty x then (if s.emptyBit then .trap { cls := 5, code := 7 } else .hold)
        else
          match h.shape x.op with
          | none => .ready
          | some q => s.accStatus h.res (x.accs h q) p

/-- A recorded signature, and the issue that it completes (R179, R309). A pair window that is over closes first: the late
half issues alone (R299). -/
def State.sign (s : State) (owner k : Nat) (key : Nat) (r : Round) (sg : Signature) (p : Nat × Nat) : Sig :=
  let s1 := s.updConv owner k fun c => { c with
    left := c.left - 1, signed := c.signed ++ [sg],
    rounds := if (look c.rounds key).isSome then c.rounds else c.rounds ++ [(key, r)] }
  if s.windowOver (s.conv owner k) && !s.paused (s.grp owner).team then .stall
  else if (s1.conv owner k).left = 0 then
    match s1.issueStatus owner k p with
    | .stall => .stall
    | .hold => .hold
    | .trap f => .trap f
    | .ready =>
      match s1.convIssue owner k p.2 s.pc with
      | .ok s2 => .made s2 true
      | .error f => .trap f
  else .made (s1.openWindow owner k) false

/-- The check of a thread's signature on a register (R179), and of the record of its round (R309): the opcode, or the
trap. -/
def State.signTrap (s : State) (k : Nat) (half : Nat) (key : Nat) (r : Round) (p : Nat × Nat) : Option Trap :=
  let c := s.conv (s.convOwner s.unit.group k) k
  let i := (s.thr p.2).idx
  if !c.declared || !c.member i || c.hasSigned half (i - c.lo) then some { cls := 7, code := 4 }
  else if r.op = 3 ∧ s.convShared s.unit.group k = false then some { cls := 8, code := 5 }
  else if c.rounds.any fun x => x.2.op != r.op || (x.1 == key && x.2 != r) then some { cls := 7, code := 6 }
  else none

/-- One thread's signature: opcode 0 SIGN, 1 MMA, 2 MMAS, 3 GMMA (R203, R309). -/
def State.signOne (s : State) (op k h : Nat) (a b : Opnd) (p : Nat × Nat) : Sig :=
  let g := s.unit.group
  let owner := s.convOwner g k
  let c := s.conv owner k
  let half := if s.convShared g k then (s.grp g).half else 0
  let key := if op = 3 then half else 0
  let w := ((s.grp g).reg (2 * h)).word
  let r : Round := if op = 0 then ⟨0, 0, .zero, .zero, 0⟩ else ⟨op, h, a, b, shapeOf w⟩
  let member := (s.thr p.2).idx - c.lo
  match s.signTrap k half key r p with
  | some f => .trap f
  | none =>
    if op = 0 then s.sign owner k key r ⟨half, member, p.2, s.pc, [], []⟩ p
    else
      let x := mhdr w
      match x.shape op with
      | none => .fault 8 4
      | some q =>
        let ua := rowUse c a 64 x.af q.kept
        let ub := rowUse c b q.depth x.bf 48
        let useA := decide (x.asrc = 0)
        let useB := decide (x.bsrc = 0)
        if !kindOk (spaceA x.asrc) a || !kindOk x.bsrc b then .fault 8 4
        else if (useA && decide (64 % c.n ≠ 0)) || (useB && decide (q.depth % c.n ≠ 0)) then .fault 8 9
        else
          let sts := (if useA then [s.rowStatus p.2 ua] else []) ++ (if useB then [s.rowStatus p.2 ub] else [])
          match firstTrap sts with
          | some f => .trap f
          | none =>
            if sts.any Status.stalls then .hold
            else s.sign owner k key r ⟨half, member, p.2, s.pc, if useA then s.rowWordsOf p.2 ua else [],
              if useB then s.rowWordsOf p.2 ub else []⟩ p

/-- The signatures of participants one after the other, in lane order: the state they leave, the traps, the participant
that brought SIGNED to 0, and whether one of them must wait. -/
def State.signAll (one : State → Nat × Nat → Sig) (s : State) :
    List (Nat × Nat) → State × List ((Nat × Nat) × Trap) × Option (Nat × Nat) × Bool
  | [] => (s, [], none, false)
  | p :: r =>
    match one s p with
    | .made s1 last =>
      let x := State.signAll one s1 r
      (x.1, x.2.1, if last then some p else x.2.2.1, x.2.2.2)
    | .stall => let x := State.signAll one s r; (x.1, x.2.1, x.2.2.1, true)
    | .hold => let x := State.signAll one s r; (x.1, x.2.1, x.2.2.1, true)
    | .trap f => let x := State.signAll one s r; (x.1, (p, f) :: x.2.1, x.2.2.1, x.2.2.2)

/-- A signing word: `q` is SIGN's predicate. -/
def signWork (uses : List Use) (g cost q : Nat) (one : State → Nat × Nat → Sig) : Work :=
  { uses := uses, guard := g, cost := cost,
    own := fun s p => match one s p with | .hold => .hold | _ => .ready,
    hold := fun s ps => (State.signAll one s ps).2.2.2,
    chk := fun s ps p => look ((State.signAll one s ps).2.1.map fun x => (x.1.2, x.2)) p.2,
    act := fun s ok =>
      let x := State.signAll one s ok
      x.1.putPred ok q fun p => x.2.2.1 == some p }

/-- SIGN (R203). -/
def execSign (k q g : Nat) (s : State) : Out :=
  s.run (signWork [] g 1 q fun s p => s.signOne 0 k 0 .zero .zero p)

/-- The registers of a tile word: its header's (R308), and its operand fields, whose v codes must lie within the
allocation whatever the header says (R71). -/
def tileUses (h n : Nat) (a b : Opnd) : List Use := [{ o := .s (2 * h), n := n, rd := true }, { o := a }, { o := b }]

/-- MMA (R309, R310). -/
def execMma (k h : Nat) (a b : Opnd) (s : State) : Out :=
  s.run (signWork (tileUses h 2 a b) 0 0 0 fun s p => s.signOne 1 k h a b p)

/-- MMAS (R296, R297, R309). -/
def execMmas (k h : Nat) (a b : Opnd) (s : State) : Out :=
  s.run (signWork (tileUses h 3 a b) 0 0 0 fun s p => s.signOne 2 k h a b p)

/-- GMMA (R298, R299, R311). -/
def execGmma (k h : Nat) (a b : Opnd) (s : State) : Out :=
  s.run (signWork (tileUses h 2 a b) 0 0 0 fun s p => s.signOne 3 k h a b p)

end Sys2Proof.Machine
end

