-- ==== Sys2Proof/Machine/Standing.lean ====
section
/-!
DEFINITION. Standing loads (file 16): slots and their headers, pushes landing, and SLOAD, SPOLL and UNSUB. STATE, MODE,
OVR and LOST are one for a slot and stand alike in the header of each of its entries (log 12).
-/

namespace Sys2Proof.Machine

/-! Slots (R338, R339). -/

/-- A slot's fields (R339): those of the whole slot, and SEQ and TAKEN of each entry. -/
structure Slot where
  lost : Bool
  ring : Bool
  state : Nat
  ovr : Nat
  count : Nat
  head : Nat
  cause : Nat
  line : Nat
  seqs : List (Nat × Bool)
  deriving DecidableEq, Repr

/-- The entries of a slot. -/
def Slot.entries (x : Slot) : Nat := if x.ring then 4 else 1

/-- The cluster address of an entry of a slot. -/
def State.slotAddr (s : State) (m slot e : Nat) : Nat := (s.team m).addr (slot + 144 * e)

/-- A header word of a slot: 0 H0, 1 H1 of an entry. -/
def State.slotWord (s : State) (m slot e h : Nat) : Nat :=
  bytesVal (readCells s.sto.spad (s.slotAddr m slot e + 128 + 8 * h) 8)

/-- Reads a slot (R339). -/
def State.slot (s : State) (m slot : Nat) : Slot :=
  let h0 := s.slotWord m slot 0 0
  let h1 := s.slotWord m slot 0 1
  { lost := bit h0 62, ring := bit h0 60, state := bits h0 56 4, ovr := bits h0 48 8, count := bits h1 61 3,
    head := bits h1 59 2, cause := bits h1 56 3, line := bits h1 0 50,
    seqs := (List.range (if bit h0 60 then 4 else 1)).map fun e =>
      (bits (s.slotWord m slot e 0) 0 48, bit (s.slotWord m slot e 0) 61) }

/-- The header of an entry (R339). -/
def Slot.h0 (x : Slot) (e : Nat) : Nat :=
  let y := (x.seqs[e]?).getD (0, true)
  b2n x.lost * 2 ^ 62 + b2n y.2 * 2 ^ 61 + b2n x.ring * 2 ^ 60 + x.state * 2 ^ 56 + x.ovr * 2 ^ 48 + y.1 % 2 ^ 48

/-- The ring word of a slot (R339). -/
def Slot.h1 (x : Slot) : Nat := x.count * 2 ^ 61 + x.head * 2 ^ 59 + x.cause * 2 ^ 56 + x.line % 2 ^ 50

/-- Writes a slot's headers. -/
def State.setSlot (s : State) (m slot : Nat) (x : Slot) : State :=
  let s := (List.range x.entries).foldl (fun s e => s.writeSpad (s.slotAddr m slot e + 128) (valBytes 8 (x.h0 e))) s
  s.writeSpad (s.slotAddr m slot 0 + 136) (valBytes 8 x.h1)

/-- Changes a slot's headers. -/
def State.updSlot (s : State) (m slot : Nat) (f : Slot → Slot) : State := s.setSlot m slot (f (s.slot m slot))

/-- A slot as SLOAD leaves it (R339). -/
def Slot.fresh (ring : Bool) (line : Nat) : Slot :=
  { lost := false, ring := ring, state := 1, ovr := 0, count := 0, head := 0, cause := 0, line := line,
    seqs := List.replicate (if ring then 4 else 1) (0, true) }

/-- The entry that a push lands in, and the slot after it (R340). -/
def Slot.push (x : Slot) (q : Nat) : Nat × Slot :=
  let more := { x with ovr := min (x.ovr + 1) 255, lost := true }
  let put := fun (y : Slot) (e : Nat) => { y with seqs := upd y.seqs e fun _ => (q, false) }
  if x.ring then
    if x.count < 4 then
      let e := (x.head + x.count) % 4
      (e, put { x with count := x.count + 1 } e)
    else ((x.head + 3) % 4, put more ((x.head + 3) % 4))
  else (0, put { (if ((x.seqs.headD (0, true)).2) then x else more) with count := 1 } 0)

/-- A push lands in a slot as one event (R340). -/
def State.landPush (s : State) (m slot q : Nat) (bs : List Byte) : State :=
  let r := (s.slot m slot).push q
  (s.setSlot m slot r.2).writeSpad (s.slotAddr m slot r.1) bs

/-- The check of a slot's address (R342, R343): its range, then its alignment. -/
def State.slotTrap (s : State) (y len : Nat) : Option Trap := s.shareTrap y len 16 1

/-- The entry that a take reads (R343). -/
def Slot.oldest (x : Slot) : Nat := if x.ring then (if 0 < x.count then x.head else (x.head + 3) % 4) else 0

/-- The slot after a take of its entry (R343). -/
def Slot.taken (x : Slot) : Slot :=
  let e := x.oldest
  if (x.seqs.getD e (0, true)).2 then x
  else
    let y := { x with lost := false, seqs := upd x.seqs e fun z => (z.1, true) }
    if x.ring then { y with head := (x.head + 1) % 4, count := x.count - 1 } else { y with count := 0 }

/-- The failure that a failed slot leaves in registers (R343): the line's address and the cause. -/
def Slot.failure (x : Slot) (pc : Dword) : Failure :=
  ⟨5, if x.cause = 1 ∨ x.cause = 2 then 5 else 6, BitVec.ofNat 64 (x.line * 128), 1, pc⟩

/-- Element b of a take (R343): a word of the entry, or H0 of the entry and H1 of entry 0. -/
def State.slotElem (s : State) (m slot b : Nat) (w64 : Bool) : Option Dword :=
  let x := s.slot m slot
  let n := if w64 then 8 else 4
  let e := x.oldest
  let at_ := if 128 + 8 ≤ b * n then s.slotAddr m slot 0 + b * n else s.slotAddr m slot e + b * n
  if s.spadBad at_ n then none else some (BitVec.ofNat 64 (bytesVal (readCells s.sto.spad at_ n)))

/-- The subscription of a slot. -/
def State.subOf (s : State) (m slot : Nat) : Option Sub :=
  s.fly.subs.find? fun x => x.team == m && x.slot == slot && x.dev.isNone

/-- Whether a slot's subscription is to a line of another device: its line number then starts at 2^60. -/
def State.slotRemote (s : State) (m slot : Nat) : Bool :=
  match s.subOf m slot with
  | some x => decide (2 ^ 60 ≤ x.line)
  | none => false

/-- What a waiting take asks of its slot, if the operation is one: team, slot. -/
def State.takeOf (s : State) (o : Op) : Option (Nat × Nat) :=
  match o.kind with
  | .take _ _ slot _ _ _ => some (s.teamOf o.thread, slot)
  | _ => none

/-- One take, shared by the operations of a batch that name the slot (R343): each becomes a fill of its element, and the
take is an acquire at .dev, or .pod for a subscription on a peer. -/
def State.takeSlot (s : State) (m slot batch : Nat) : State :=
  let x := s.slot m slot
  let isOne := fun (o : Op) => o.batch == batch && s.takeOf o == some (m, slot)
  let val := fun (o : Op) (b : Nat) (w64 : Bool) =>
    if x.state = 6 then Except.error (x.failure o.pc)
    else
      match s.slotElem m slot b w64 with
      | some v => .ok v
      | none => .error ⟨5, 6, BitVec.ofNat 64 slot, 1, o.pc⟩
  let peeks := s.fly.ops.any fun o => isOne o && (match o.kind with | .take _ _ _ _ _ p => p | _ => false)
  let core := ((s.fly.ops.find? isOne).map Op.core).getD 864
  let land := fun (o : Op) =>
    match o.kind with
    | .take dst words _ b w64 _ => { o with kind := .fill dst words (val o b w64) none }
    | _ => o
  let s1 := s.updFly fun f => { f with ops := f.ops.map fun o => if isOne o then land o else o }
  let s1 := if peeks then s1 else s1.setSlot m slot x.taken
  s1.acquire core (if s.slotRemote m slot then .pod else .dev)

/-! SLOAD (R342). -/

/-- The request of SLOAD that a thread waits for at the word at issue. -/
def State.sloadReq (s : State) (t : Nat) : Option SloadReq :=
  s.fly.reqs.find? fun r => r.thread == t && r.pc == s.pc

/-- The line that SLOAD names, or the fault of its checks (R342). -/
def State.sloadLine (s : State) (p : Nat × Nat) (ring : Bool) (a b : Opnd) : Except Trap Place :=
  let x := s.src64 p a
  let y := (s.src p b).toNat % 2 ^ 24
  match s.xlate s.unitCtx x.toNat 1 with
  | .error f => .error { cls := f.1, code := f.2, addr := x, access := 1 }
  | .ok q =>
    if (s.team s.unitTeam).size < y + (if ring then 576 else 144) then
      .error { cls := 5, code := 2, addr := BitVec.ofNat 64 y, access := 1 }
    else if x.toNat % 128 ≠ 0 then .error { cls := 5, code := 1, addr := x, access := 1 }
    else if y % 16 ≠ 0 then .error { cls := 5, code := 1, addr := BitVec.ofNat 64 y, access := 1 }
    else if s.spadBad (s.slotAddr s.unitTeam y 0 + 128) 16 then
      .error { cls := 5, code := 6, addr := BitVec.ofNat 64 y, access := 1 }
    else .ok q

/-- A participant of SLOAD sends its request (R342), unless it has sent it. -/
def State.sloadStart (s : State) (ring : Bool) (a b : Opnd) (p : Nat × Nat) : Except Trap State :=
  if (s.sloadReq p.2).isSome then .ok s
  else
    match s.sloadLine p ring a b with
    | .error f => .error f
    | .ok q =>
      let m := s.unitTeam
      let y := (s.src p b).toNat % 2 ^ 24
      let st := (s.slot m y).state
      if st = 1 ∨ st = 2 ∨ st = 4 ∨ 6 < st then .error { cls := 6, code := 3, addr := BitVec.ofNat 64 y }
      else
        let x := s.src64 p a
        let s1 := (s.setSlot m y (Slot.fresh ring (bits x.toNat 7 50))).updThr p.2 fun t => t.incCtr .gx s.nextId
        let r : SloadReq := { id := s.nextId, thread := p.2, pc := s.pc, line := q, va := x, team := m, slot := y,
                              answer := none }
        let s2 := ((s1.updFly fun f => { f with reqs := f.reqs ++ [r] }).takeId.noteTlb s.unitCtx x.toNat)
        .ok (match q with
          | .peer e off => s2.askFor s.unitCtx.num (.sload r.id) e (.subscribe off y m)
          | _ => s2)

/-- Whether every participant's answer has arrived. -/
def State.sloadDone (s : State) (ps : List (Nat × Nat)) : Bool :=
  ps.all fun p => match s.sloadReq p.2 with | some r => r.answer.isSome | none => false

/-- SLOAD (R342): the requests are sent, the unit is held until every participant's answer has arrived, and then each
participant's predicate is set. -/
def execSload (q : Nat) (ring : Bool) (a b : Opnd) (g : Nat) (s : State) : Out :=
  let done := s.sloadDone (s.parts g)
  let one := fun (s : State) (p : Nat × Nat) => s.sloadStart ring a b p
  let sent := (s.parts g).any fun p => (s.sloadReq p.2).isSome
  s.run { uses := [srcUse a 2 0, srcUse b 1 0], guard := g, cost := if sent then 0 else 2,
          own := fun s p =>
            match s.sloadReq p.2 with
            | some r => if r.answer.isSome then .ready else .stall
            | none => .ready,
          hold := fun s ps => ps.any fun p => (s.sloadReq p.2).isNone && decide (63 ≤ (s.thr p.2).gx),
          chk := fun s ps p => ((inTurn one s ps).2.find? fun x => x.1 == p).map Prod.snd,
          act := fun s ok =>
            if done then
              let s1 := s.putPred ok q fun p => ((s.sloadReq p.2).bind SloadReq.answer).getD false
              s1.updFly fun f => { f with reqs := f.reqs.filter fun r =>
                !(r.pc == s.pc && ok.any fun p => p.2 == r.thread) }
            else (inTurn one s ok).1,
          fin := fun s => if s.unit.lanes.any fun p => (s.sloadReq p.2).isSome then s.block [] else s.advance }

/-! SPOLL (R343). -/

/-- The slot and element of a participant of SPOLL, or the fault of its checks (R343). -/
def State.spollAt (s : State) (p : Nat × Nat) (a b : Opnd) (w64 : Bool) : Except Trap (Nat × Nat) :=
  let m := s.unitTeam
  let y := (s.src p a).toNat % 2 ^ 24
  let i := (s.src p b).toNat
  match s.slotTrap y 144 with
  | some f => .error f
  | none =>
    let x := s.slot m y
    match (if x.ring then s.slotTrap y 576 else none) with
    | some f => .error f
    | none =>
      if (if w64 then 18 else 36) ≤ i then .error { cls := 5, code := 4, addr := BitVec.ofNat 64 y, access := 1 }
      else if 6 < x.state then .error { cls := 6, code := 3, addr := BitVec.ofNat 64 y }
      else .ok (y, i)

/-- SPOLL (R343): one take for each slot that the participants name, at once or when the slot's fill has landed. -/
def execSpoll (d a b : Opnd) (w64 peek : Bool) (s : State) : Out :=
  let words := if w64 then 2 else 1
  s.run { uses := [fillUse d words, srcUse a 1 0, srcUse b 1 0], cost := 2,
          hold := fun s ps => ps.any fun p => s.atomicDue p.2,
          chk := fun s _ p => match s.spollAt p a b w64 with | .error f => some f | .ok _ => none,
          act := fun s ok =>
            let m := s.unitTeam
            let batch := s.nextId
            let r := ok.foldl (fun (r : State × List Nat) p =>
              match s.spollAt p a b w64 with
              | .error _ => r
              | .ok (y, i) =>
                let dst := dstFor d (p == lowest ok)
                let r1 := (r.1.emptyDst [p] dst words fun _ => r.1.nextId).startOp p.2 batch y
                  (.take dst words y i w64 peek)
                (r1, if r.2.contains y then r.2 else r.2 ++ [y])) (s, [])
            r.2.foldl (fun z y => if (s.slot m y).state = 1 then z else z.takeSlot m y batch) r.1 }

/-! UNSUB (R344). -/

/-- How a participant fares at UNSUB: it waits for a pending slot, and for room on ctr.st (R180, R344). -/
def State.unsubStatus (s : State) (p : Nat × Nat) (b : Opnd) : Status :=
  let y := (s.src p b).toNat % 2 ^ 24
  match s.slotTrap y 144 with
  | some f => .trap f
  | none =>
    let x := s.slot s.unitTeam y
    if x.state = 1 ∨ (x.state = 2 ∧ 63 ≤ (s.thr p.2).st) then .stall else .ready

/-- UNSUB in a thread (R344): a subscribed slot goes to STATE 4, and its home is told. -/
def State.unsubOne (s : State) (b : Opnd) (p : Nat × Nat) : State :=
  let m := s.unitTeam
  let y := (s.src p b).toNat % 2 ^ 24
  if (s.slot m y).state = 2 then
    let u : Push := { id := s.nextId, sub := ((s.subOf m y).map Sub.id).getD s.nextId, team := m, slot := y, dev := none,
                      body := .unsub, thread := some p.2, pc := s.pc, addr := 0, err := none }
    let s1 := (((s.updSlot m y fun x => { x with state := 4 }).updThr p.2 fun t => t.incCtr .st s.nextId).updFly fun f =>
      { f with pushes := f.pushes ++ [u] }).takeId
    match s.subOf m y with
    | some x =>
      if 2 ^ 60 ≤ x.line then
        s1.askFor s.unitCtx.num (.unsub u.id) ((x.line - 2 ^ 60) / 2 ^ 40) (.unsubscribe (x.line % 2 ^ 40 * 128) y m)
      else s1
    | none => s1
  else s

/-- UNSUB (R344). -/
def execUnsub (b : Opnd) (g : Nat) (s : State) : Out :=
  s.run { uses := [srcUse b 1 0], guard := g, cost := 2,
          own := fun s p => s.unsubStatus p b,
          act := fun s ok => ok.foldl (fun s p => s.unsubOne b p) s }

end Sys2Proof.Machine
end

