-- ==== Sys2Proof/Machine/Win.lean ====
section
/-!
DEFINITION. The win class (R267 to R272). Each word acts once, for the lowest-lane participant, and its faults are taken
by every participant.
-/

namespace Sys2Proof.Machine

/-- The number of groups of the team at issue. -/
def State.teamGroups (s : State) : Nat := (s.groupsOf s.unitTeam).length

/-- The addresses of the eight loads of a descriptor (R268). -/
def descAddrs (x : Dword) : List Dword := (List.range 8).map fun i => x + BitVec.ofNat 64 (8 * i)

/-- The checks of an address of a descriptor, made before any of it is read (R258). -/
def State.descTrap (s : State) (x : Dword) : Option Trap :=
  ((descAddrs x).findSome? fun y =>
    match s.xlate s.unitCtx y.toNat 1 with
    | .error f => some { cls := f.1, code := f.2, addr := y, access := 1 }
    | .ok _ => none).or
  (if x.toNat % 8 ≠ 0 then some { cls := 5, code := 1, addr := x, access := 1 } else none)

/-- Eight bytes of a descriptor at a global address, read as a relaxed load at .core (R268); a peer's come by a request. -/
def State.descPart (s : State) (p : Nat × Nat) (x : Dword) : Except Trap (List Byte) :=
  match s.xlate s.unitCtx x.toNat 1 with
  | .error f => .error { cls := f.1, code := f.2, addr := x, access := 1 }
  | .ok (.peer _ _) =>
    match s.peerAnswer (.word p.2 x.toNat) with
    | some (.ok bs) => .ok bs
    | some (.error f) => .error { cls := f.1, code := f.2, addr := x, access := 1 }
    | none => .ok (zeros 8)
  | .ok q =>
    match q, s.seen (s.thr p.2).core p.2 q 8 .core with
    | _, none => .error { cls := 5, code := 6, addr := x, access := 1 }
    | q, some bs => (s.unflushedTrap x.toNat q 1).elim (.ok bs) .error

/-- The descriptor that WBIND reads, or the fault of its source (R268). -/
def State.bindSource (s : State) (p : Nat × Nat) (a : Opnd) (f : WFrom) : Except Trap (BitVec 512) :=
  match f with
  | .reg => .ok (BitVec.ofNat 512 (bytesVal (wordBytes ((s.regsOf p.2 a 16).map Reg.word))))
  | .spad =>
    let y := (s.src p a).toNat % 2 ^ 24
    match s.shareTrap y 64 8 1 with
    | some t => .error t
    | none =>
      match s.seen (s.thr p.2).core p.2 (.spad ((s.team s.unitTeam).addr y)) 64 .clu with
      | some bs => .ok (BitVec.ofNat 512 (bytesVal bs))
      | none => .error { cls := 5, code := 6, addr := BitVec.ofNat 64 y, access := 1 }
  | .glob =>
    let x := s.src64 p a
    match s.descTrap x with
    | some t => .error t
    | none =>
      match (descAddrs x).mapM (s.descPart p) with
      | .error t => .error t
      | .ok bs => .ok (BitVec.ofNat 512 (bytesVal bs.flatten))

/-- The requests that WBIND's descriptor needs from a peer window (R230). -/
def State.bindNeeds (s : State) (ps : List (Nat × Nat)) (a : Opnd) (f : WFrom) : List (Reader × Nat × Nat × Nat) :=
  match f, ps with
  | .glob, p :: _ =>
    if (s.descTrap (s.src64 p a)).isSome then []
    else (descAddrs (s.src64 p a)).filterMap fun y =>
      match s.xlate s.unitCtx y.toNat 1 with
      | .ok (.peer e o) => some (.word p.2 y.toNat, e, o, 8)
      | _ => none
  | _, _ => []

/-- WBIND's reads are the lowest-lane participant's, behind its older loads of the same bytes (R234, R268). -/
def State.bindReads (s : State) (p : Nat × Nat) (a : Opnd) (f : WFrom) : State :=
  let core := (s.thr p.2).core
  match f with
  | .reg => s
  | .spad => s.orderRead core p.2 (.spad ((s.team s.unitTeam).addr ((s.src p a).toNat % 2 ^ 24))) 64 .clu
  | .glob => (descAddrs (s.src64 p a)).foldl (fun r y =>
      match s.xlate s.unitCtx y.toNat 1 with
      | .ok q => r.orderRead core p.2 q 8 .core
      | .error _ => r) s

/-- The operand of WBIND's source (R268). -/
def bindUse (a : Opnd) (f : WFrom) : Use :=
  match f with
  | .reg => { o := a, n := 16, rd := true, vOnly := true, low := true }
  | .spad => lowUse a 1
  | .glob => lowUse a 2

/-- Whether an unbinding by a thread is the program's own, not the save routine's (R415). -/
def State.byProgram (s : State) (p : Nat × Nat) : Bool := decide ((s.thr p.2).hmode ≠ 2)

/-- WBIND (R217, R218, R268): as WUNB, then the entry is written and its destinations are absent. -/
def execWbind (e : Nat) (a : Opnd) (f : WFrom) (g : Nat) (s : State) : Out :=
  s.runAfter
        { uses := [bindUse a f], guard := g, cost := 2,
          hold := fun s ps => (ps.take 1).any fun p => s.atomicDue p.2 ||
            (f == .spad && s.spadHeld p.2 ((s.src p a).toNat % 2 ^ 24) 64),
          chk := fun s ps _ =>
            match s.bindSource (lowest ps) a f with
            | .error t => some t
            | .ok d =>
              if regionBad d (s.team s.unitTeam).size s.teamGroups then some { cls := 6, code := 1 } else none,
          act := fun s ok =>
            match ok with
            | [] => s
            | p :: _ =>
              match s.bindSource p a f with
              | .error _ => s
              | .ok d => ((s.bindReads p a f).unbind s.unitTeam e (s.byProgram p) .unbound).updEntry s.unitTeam e fun _ =>
                  { desc := d, seq := 0, dests := (region d).dests.map fun _ => { state := .absent } } }
        fun s ps => s.bindNeeds ps a f

/-- Whether an entry is unbound. -/
def Entry.unbound (x : Entry) : Bool := x.dests.all fun d => d.state == .unbound

/-- Whether a destination of an entry is the issuing group's (R271). -/
def State.ownDest (s : State) (e i : Nat) : Bool :=
  let d := destOf (region (s.entry s.unitTeam e).desc) (s.grp s.unit.group).idx
  !d.2 && d.1 == i

/-- WUNB (R269). By the save routine it unbinds the issuing group's destination, and the others complete (R466). -/
def execWunb (e g : Nat) (s : State) : Out :=
  s.run { guard := g, cost := 2,
          act := fun s ok =>
            if ok = [] || (s.entry s.unitTeam e).unbound then s
            else
              let program := s.byProgram (lowest ok)
              s.unbindOf s.unitTeam e program .unbound fun i => program || s.ownDest e i }

/-- Whether an entry's destinations are arriving or present, so that TOUCH starts nothing (R220). -/
def Entry.touched (x : Entry) : Bool :=
  x.dests.any (fun d => d.state == .arriving) || x.dests.all fun d => d.state == .present

/-- Whether TOUCH starts a fill that its thread's ctr.gx counts (R220, R270). -/
def State.touchStarts (s : State) (e : Nat) : Bool :=
  let m := s.unitTeam
  !(s.entry m e).unbound && !(s.entry m e).touched && !s.copyFull (s.team m).cluster && (s.fillOf m e).isNone

/-- TOUCH (R220, R270). A fill that a first touch left waiting enters the queue where there is room. -/
def execTouch (e q g : Nat) (s : State) : Out :=
  s.run { guard := g, cost := 2,
          hold := fun s ps => s.touchStarts e && s.lowestFull ps .gx,
          chk := fun s _ _ => if (s.entry s.unitTeam e).unbound then some { cls := 6, code := 2 } else none,
          act := fun s ok =>
            match ok with
            | [] => s
            | p :: _ =>
              let m := s.unitTeam
              let yes := fun (s : State) (b : Bool) => s.putPred ok q fun _ => b
              if (s.entry m e).touched then yes s true
              else if s.copyFull (s.team m).cluster then yes s false
              else
                match s.fillOf m e with
                | some j => yes (s.enterQueue j) true
                | none => yes ((s.updThr p.2 fun x => x.incCtr .gx s.nextId).newFill m e (some p.2) [] s.pc) true }

/-- WSTAT's word (R271). Of an entry that was unbound after a binding the spec does not say what SEQ, DEST and NOTDEST
report. DESIGN CHOICE (log 27, unsafe): they are those of the former binding. -/
def State.wstat (s : State) (e : Nat) : Word :=
  let m := s.unitTeam
  let x := s.entry m e
  let d := destOf (region x.desc) (s.grp s.unit.group).idx
  let st := match ((x.dests[d.1]?).getD {}).state with
    | .unbound => 0
    | .absent => 1
    | .arriving => 2
    | .present => 3
    | .parked _ => 0
  BitVec.ofNat 32 (x.seq % 2 ^ 24 * 256 + d.1 * 16 + b2n d.2 * 8 + b2n (s.copyFull (s.team m).cluster) * 4 + st)

/-- WSTAT (R271), in every participant. -/
def execWstat (e : Nat) (d : Opnd) (g : Nat) (s : State) : Out :=
  s.run { uses := [dstUse d 1 false], guard := g, cost := 2,
          act := fun s ok => s.putDst ok d fun _ => [s.wstat e] }

/-- WFLUSH (R225, R272). -/
def execWflush (e g : Nat) (s : State) : Out :=
  s.run { guard := g, cost := 2,
          hold := fun s ps => s.copyFull (s.team s.unitTeam).cluster || s.lowestFull ps .st,
          chk := fun s _ _ =>
            let x := s.entry s.unitTeam e
            let d := destOf (region x.desc) (s.grp s.unit.group).idx
            let st := ((x.dests[d.1]?).getD {}).state
            if d.2 || (st != .present && st != .arriving) then some { cls := 6, code := 2 } else none,
          act := fun s ok =>
            match ok with
            | [] => s
            | p :: _ =>
              let m := s.unitTeam
              let t := s.team m
              let x := s.entry m e
              let d := destOf (region x.desc) (s.grp s.unit.group).idx
              let j : Job :=
                { id := s.nextId, team := m, cluster := t.cluster, base := t.base, size := t.size, entry := e,
                  seq := x.seq + 1, desc := x.desc, flush := some d.1, starter := some p.2, pc := s.pc,
                  queued := true, begun := false }
              (((s.updThr p.2 fun y => y.incCtr .st s.nextId).updEntry m e fun y => { y with seq := y.seq + 1 }).updFly fun f =>
                { f with jobs := f.jobs ++ [j] }).takeId }

end Sys2Proof.Machine
end

