-- ==== Sys2Proof/Machine/Sys.lean ====
section
/-!
DEFINITION. The sys class (R407 to R418): special registers, the return from a handler, save images, TLBI, GRANT, HALT
and MARK. The inner layouts of blocks 4 to 6 and of slot images, which the spec leaves open, are log 13.
-/

namespace Sys2Proof.Machine

/-! Privilege (R392). -/

/-- Whether a thread is privileged (R392). -/
def State.privileged (s : State) (t : Nat) : Bool := decide ((s.thr t).hmode ≠ 0) || (s.ctxOf t).sys

/-- A privileged word: registers are checked first (R84 stage 5), then participants without privilege take the illegal-instruction
trap with code 4; what is left goes on. -/
def State.withPriv (s : State) (w : Work) (go : State → Out) : Out :=
  let bad := (s.parts w.guard).filter fun p => !s.privileged p.2
  if bad = [] || w.uses.any (fun u => u.bad s.unit.rep (s.grp s.unit.group).budget) then go s
  else
    let s1 := s.takeAll (fun s _ => s) (bad.map fun p => (p, { cls := 1, code := 4 }))
    if s1.unit.live then go s1 else .next s1.issued

/-- A privileged word is performed. -/
def State.runPriv (s : State) (w : Work) : Out := s.withPriv w fun s => s.run w

/-- A privileged word that reads other devices first is performed (R230). -/
def State.runPrivAfter (s : State) (w : Work) (need : State → List (Nat × Nat) → List (Reader × Nat × Nat × Nat)) : Out :=
  s.withPriv w fun s => s.runAfter w need

/-! Special registers (R164, R408 to R410). -/

/-- Whether a special register is 64 bits wide. -/
def srWide (n : Nat) : Bool := n == 0x0E || n == 0x14 || n == 0x15 || n == 0x30

/-- sr.wsframe of a die (R228). -/
def State.wsframe (s : State) (die : Nat) : Nat :=
  let d := (s.dies[die]?).getD {}
  b2n d.busy * 2 ^ 31 + b2n d.hot * 2 ^ 30 + d.frames % 256 * 2 ^ 20 + d.slot % 16 * 2 ^ 16 +
    min (if d.hot then 1999 else 3999) ((s.wall - d.origin) / wallNs)

/-- The value of a special register for a participant (R164, R408, R409, R449). -/
def State.special (s : State) (p : Nat × Nat) (n : Nat) : Nat :=
  let x := s.thr p.2
  let g := s.grp x.group
  let m := s.team g.team
  let r := (s.launch m.launch).record
  let c := s.ctxOf p.2
  match n with
  | 0x00 => p.1
  | 0x01 => x.idx
  | 0x02 => g.nthreads
  | 0x03 => g.idx
  | 0x04 => m.idx
  | 0x05 => b2n g.consumer + 2 * b2n r.paired + 4 * b2n (r.paired && decide (g.idx % 2 = 1))
  | 0x06 => r.width
  | 0x07 => x.core % 6 + 8 * (x.core / 6 % 6) + 64 * (x.core / 36)
  | 0x08 => x.mode.toNat
  | 0x09 => x.repcount
  | 0x0A => x.calls.length
  | 0x0B => x.rdepth
  | 0x0C => r.quantum
  | 0x0D => r.foldage
  | 0x0E => s.clk
  | 0x0F => s.wsframe (dieOfCore x.core)
  | 0x10 => m.base
  | 0x11 => m.size
  | 0x12 => x.bsync.toNat
  | 0x13 => x.hmode
  | 0x14 => x.resume.toNat
  | 0x15 => c.saveArea.toNat
  | 0x16 => c.num + 64 * b2n c.sys
  | 0x30 => c.energyImage
  | n =>
    if n < 0x20 then ((x.hs[n - 0x18]?).getD 0).toNat else ((x.frec[n - 0x20]?).getD 0).toNat

/-- SRD (R410). -/
def execSrd (d : Opnd) (n g : Nat) (s : State) : Out :=
  let k := if srWide n then 2 else 1
  s.run { uses := [dstUse d k false], guard := g, cost := 2,
          act := fun s ok => s.putDst ok d fun p => wordsOf k (BitVec.ofNat 64 (s.special p n)) }

/-- A write of a special register in a thread: reserved bits are ignored (R12, R42, R199, R409). -/
def Thread.setSpecial (x : Thread) (n : Nat) (v : Dword) : Thread :=
  let w := lo32 v
  if n = 0x08 then { x with mode := (w &&& 0xFF) ||| (x.mode &&& 0x300 &&& ~~~w) }
  else if n = 0x09 then { x with repcount := w.toNat }
  else if n = 0x12 then { x with bsync := w &&& 0x800FFFFF }
  else if n = 0x14 then { x with resume := v &&& 0x1FFFFFFFFFFFFFFF }
  else if n < 0x20 then { x with hs := upd x.hs (n - 0x18) fun _ => w }
  else { x with frec := upd x.frec (n - 0x20) fun _ => w }

/-- SWR (R410): every register but sr.mode asks for privilege (R392). -/
def execSwr (a : Opnd) (n g : Nat) (s : State) : Out :=
  let k := if srWide n then 2 else 1
  let w : Work := { uses := [srcUse a k 0], guard := g, cost := 2,
                    act := fun s ok => s.each ok fun p x => x.setSpecial n (s.val p a k 0) }
  if n = 0x08 then s.run w else s.runPriv w

/-! The return from a handler or the save routine (R411). -/

/-- The threads of a unit return one after the other; none when one of them finds no fold (R189). -/
def State.eretAll (s : State) : List (Nat × Nat) → Option State
  | [] => some s
  | p :: r =>
    match s.eretOne p with
    | none => none
    | some s => s.eretAll r

/-- ERET (R411). -/
def execEret (s : State) : Out :=
  s.runPriv { cost := 2,
              hold := fun s ps => (s.eretAll ps).isNone,
              chk := fun s _ p => if (s.thr p.2).hmode = 0 then some { cls := 1, code := 4 } else none,
              act := fun s ok =>
                let s1 := if ok = s.unit.lanes then
                    s.clauseTrace 2 (s.unit.issued + 1) ((s.thr (lowest ok).2).resume &&& 0x1FFFFFFFFFFFFFF)
                  else s
                (s1.eretAll ok).getD s1,
              fin := fun s => s }

/-! Bytes of images. -/

/-- The fault of a range that does not translate, or that is misaligned (R413, R420). -/
def State.imageTrap (s : State) (va : Dword) (len need align : Nat) : Option Trap :=
  let bad := (blockStarts 4096 va.toNat len).findSome? fun x =>
    match s.xlate s.unitCtx x need with
    | .error f => some ({ cls := f.1, code := f.2, addr := BitVec.ofNat 64 x, access := need } : Trap)
    | .ok _ => none
  bad.or (if va.toNat % align ≠ 0 then some { cls := 5, code := 1, addr := va, access := need } else none)

/-- What one piece of an image holds for a thread, at a peer by the answer to its request (R230), or its fault. -/
def State.imagePart (s : State) (t : Nat) (x : Nat × Nat × Place) : Except Trap (List Byte) :=
  let fault := fun (f : Nat × Nat) => ({ cls := f.1, code := f.2, addr := BitVec.ofNat 64 x.1, access := 1 } : Trap)
  match x.2.2 with
  | .mem pa =>
    match s.readPhys pa x.2.1 with
    | some bs => .ok bs
    | none => .error (fault (5, 6))
  | .peer _ _ =>
    match s.peerAnswer (.word t x.1) with
    | some (.ok bs) => .ok (bs.take x.2.1)
    | some (.error f) => .error (fault f)
    | none => .error (fault (5, 5))
  | _ => .error (fault (4, 3))

/-- Bytes of a range as a thread reads them. -/
def State.getImage (s : State) (t va len : Nat) : Except Trap (List Byte) :=
  (s.spans s.unitCtx va len 1).foldl (fun r x => r.bind fun bs => (s.imagePart t x).map fun b => bs ++ b) (.ok [])

/-- The requests that a read of a range asks of other devices (R230); none where it faults. -/
def State.imageNeeds (s : State) (t va len align : Nat) : List (Reader × Nat × Nat × Nat) :=
  if (s.imageTrap (BitVec.ofNat 64 va) len 1 align).isSome then []
  else (s.spans s.unitCtx va len 1).filterMap fun x =>
    match x.2.2 with
    | .peer e o => some (.word t x.1, e, o, x.2.1)
    | _ => none

/-- The lines of device memory that a range covers, as (address, physical address) (R254). -/
def State.imageLines (s : State) (va len need : Nat) : List (Nat × Nat) :=
  (s.spans s.unitCtx va len need).flatMap fun x =>
    match x.2.2 with
    | .mem pa => (blockStarts 128 x.1 x.2.1).map fun y => (y, pa + (y - x.1))
    | _ => []

/-- The fault of a read of a range: where it does not translate, where it finds a line unflushed (R254), or where bytes cannot be
read. -/
def State.imageReadTrap (s : State) (t : Nat) (va : Dword) (len align : Nat) : Option Trap :=
  (s.imageTrap va len 1 align).or
    (((s.imageLines va.toNat len 1).findSome? fun x => s.unflushedTrap x.1 (.mem x.2) 1).or
      (match s.getImage t va.toNat len with | .error f => some f | .ok _ => none))

/-- The lines that a thread's image moves, as they are charged (R450): none in save mode, DEDUCED from R460 to R462 (log 55). -/
def State.imageMoved (s : State) (t va len need : Nat) : List (Nat × Nat) :=
  if (s.thr t).hmode = 2 then []
  else (s.spans s.unitCtx va len need).flatMap fun x => (blocksOf 128 x.1 x.2.1).map fun k =>
    (match x.2.2 with | .peer _ _ => 4 | _ => 3, k)

/-- A range has been used: the TLBs hold its translations (R395). -/
def State.imageUsed (s : State) (va len : Nat) : State := s.noteTlbs s.unitCtx (blockStarts 4096 va len)

/-- Writes bytes of a range as a team's writes, which shadow records note (R254); the answer lists the requests to other
devices. -/
def State.putImage (s : State) (va : Nat) (bs : List Byte) : State × List (Nat × Nat) :=
  let s1 := (s.imageLines va bs.length 2).foldl (fun s x => s.shadowWrite s.unitTeam x.1 x.2) s
  (s1.imageUsed va bs.length).putRange s.unitCtx va bs

/-- Whether stores of a context to a range of a peer window have no answer yet (R426). -/
def State.imagePending (s : State) (va len : Nat) : Bool :=
  let c := s.unitCtx
  (s.spans c va len 1).any fun x =>
    match x.2.2 with
    | .peer e o =>
      (s.peerOf c e).elim false fun q => s.fabric.out.any fun r => r.ctx == c.num && r.dev == q.2.1 && r.tctx == q.2.2 &&
        (match r.op with | .store off bs => meets off bs.length o x.2.1 | _ => false)
    | _ => false

/-! Save blocks (R413, R414). -/

/-- The bytes of a block (R413). -/
def blockBytes (blk : Nat) : Nat :=
  match blk with
  | 3 => 2128
  | 4 => 135424
  | 5 => 8448
  | 6 => 123136
  | _ => 136

/-- The class and code of a failure as images hold them: CLASS 11 stands for the codes of CLASS 10 (R414). -/
def packFailure (f : Failure) (ctr : Nat) : List Byte :=
  let k := if f.cls = 10 then (11, f.code % 256) else (f.cls, f.code)
  valBytes 8 (f.addr.toNat % 2 ^ 57 + k.1 % 16 * 2 ^ 57 + ctr * 2 ^ 61) ++ valBytes 8 (f.pc.toNat % 2 ^ 57 + k.2 % 128 * 2 ^ 57)

/-- The failure that sixteen bytes of an image stand for, and its counter. ACCESS is not in the image: 9 for ctr.mx and
for a failure without an address, 2 for ctr.st, else 1 (log 13). -/
def unpackFailure (bs : List Byte) (reg : Bool) : Nat × Failure :=
  let a := bytesVal (bs.take 8)
  let b := bytesVal ((bs.drop 8).take 8)
  let k := if bits a 57 4 = 11 then (10, 0x0B00 + bits b 57 7) else (bits a 57 4, bits b 57 7)
  let c := bits a 61 2
  (c, ⟨k.1, k.2, BitVec.ofNat 64 (bits a 0 57),
    if reg then (if bits a 0 57 = 0 then 9 else 1) else (if c = 1 then 9 else if c = 0 then 2 else 1),
    BitVec.ofNat 64 (bits b 0 57)⟩)

/-- A register's word and state in an image: 0 full, 2 failed. -/
def Reg.stateCode (r : Reg) : Nat := match r with | .failed _ => 2 | _ => 0

/-- States of two bits each, from the first register on. -/
def stateBits (rs : List Reg) : Nat := rs.foldr (fun r n => r.stateCode + 4 * n) 0

/-- A thread's image of registers from 32 × blk on (R413). -/
def Thread.regBlock (x : Thread) (blk : Nat) : List Byte :=
  let rs := (List.range 32).map fun i => (x.v[32 * blk + i]?).getD (.full 0)
  wordBytes (rs.map Reg.word) ++ valBytes 8 (stateBits rs)

/-- The operations of a thread that are suspended (R293). -/
def State.suspCount (s : State) (t : Nat) : Nat := (s.fly.mops.filter fun o => o.thread == t && o.susp.isSome).length

/-- A thread's control block (R414). The call and region stacks lie bottom first; a region entry that is no longer held is
0xFFFF (R158). -/
def State.ctlBlock (s : State) (t : Nat) : List Byte :=
  let x := s.thr t
  let pad := fun (n : Nat) (bs : List Byte) => (bs ++ zeros n).take n
  let held := (sortBy HeldError.id x.held).take 16
  valBytes 8 x.resume.toNat ++ valBytes 4 x.preds.toNat ++ valBytes 4 x.mode.toNat ++ valBytes 4 x.repcount ++
  valBytes 4 x.bsync.toNat ++ valBytes 4 (x.calls.length + 2 ^ 16 * x.rdepth) ++
  valBytes 4 (held.length + 32 * b2n (decide (0 < s.suspCount t))) ++
  pad 256 ((x.calls.reverse.map fun d => valBytes 8 d.toNat).flatten) ++
  pad 32 ((List.replicate (min 16 x.rdepth - x.regions.length) 0xFFFF ++ x.regions.reverse).flatMap fun (d : BitVec 16) =>
    valBytes 2 d.toNat) ++
  pad 256 ((held.map fun h => packFailure h.fail h.ctr.code).flatten) ++
  (x.hs.map fun w => valBytes 4 w.toNat).flatten ++
  ((List.range 96).map fun n => match x.reg n with | .failed f => packFailure f 0 | _ => zeros 16).flatten

/-- A barrier's image (R176). -/
def Barrier.image (b : Barrier) : Nat :=
  b.phase.toNat * 2 ^ 48 + b2n b.explicit * 2 ^ 47 + b.expect % 2 ^ 14 * 2 ^ 16 + b.count % 2 ^ 14

/-- The barrier of an image (R176). -/
def barrierOf (n : Nat) : Barrier :=
  { phase := BitVec.ofNat 16 (bits n 48 16), explicit := bit n 47, expect := bits n 16 14, count := bits n 0 14 }

/-- A convergence register's image (R178). -/
def Conv.image (c : Conv) : Nat := b2n c.declared * 2 ^ 62 + c.lo % 2 ^ 13 * 2 ^ 29 + c.n % 2 ^ 14 * 2 ^ 15 + c.left % 2 ^ 15

/-- The registers k0 to k15 that a group's block holds: none of k8 to k15 in the unconditional half of a pair (R413). What
a pair window has run is noted (R299). -/
def State.blockConvs (s : State) (g : Nat) : List (Option Conv) :=
  mapFrom (fun k c =>
    if s.convShared g k && (s.grp g).half == 1 then none
    else some { c with ran := if s.paused (s.grp g).team then c.ran else s.windowAge c }) 0 (s.grp g).convs

/-- The signed bits of a convergence register, one for each member of each half, from bit 0 on (R178). -/
def Conv.signedBits (c : Conv) : Nat :=
  (dedup (c.signed.map fun x => x.half * c.n + x.member)).foldl (fun n i => n + 2 ^ i) 0

/-- A slice of bytes as a number. -/
def sliceVal (bs : List Byte) (at_ n : Nat) : Nat := bytesVal ((bs.drop at_).take n)

/-- A recorded round in eight bytes: a mark, opcode, header number, operand codes and shape fields (log 13). -/
def roundBytes (r : Option Round) : List Byte :=
  match r with
  | none => zeros 8
  | some r => [1] ++ valBytes 1 r.op ++ valBytes 1 r.h ++ valBytes 1 r.a.code ++ valBytes 1 r.b.code ++ valBytes 2 r.shape ++ [0]

/-- The operand of a register code (R70). -/
def codeOpnd (c : Nat) : Opnd := if c < 96 then .v c else if c < 124 then .s (c - 96) else .zero

/-- The round of eight bytes. -/
def roundOf (bs : List Byte) : Option Round :=
  let v := fun k => sliceVal bs k 1
  if v 0 = 0 then none else some ⟨v 1, v 2, codeOpnd (v 3), codeOpnd (v 4), sliceVal bs 5 2⟩

/-- What a half's signatures share in an image: the words of A and of B that each supplied, the last signer, and the address of its
word (log 13). -/
def Conv.halfBytes (c : Conv) (half : Nat) : List Byte :=
  let sg := c.signed.filter fun x => x.half == half
  valBytes 2 ((sg.head?.map fun x => x.rowsA.length).getD 0) ++ valBytes 2 ((sg.head?.map fun x => x.rowsB.length).getD 0) ++
    valBytes 2 ((sg.getLast?.map Signature.member).getD 0) ++ zeros 2 ++ valBytes 8 ((sg.getLast?.map Signature.pc).getD 0).toNat

/-- The rows that a half's members supplied, in their order: zero for one that has not signed. -/
def Conv.rowBytes (c : Conv) (half : Nat) (pick : Signature → List Word) : List Byte :=
  let k := ((c.signed.find? fun x => x.half == half).map fun x => (pick x).length).getD 0
  if k = 0 then [] else wordBytes (c.rows half k pick)

/-- All that a convergence register holds, in bytes (R178, R309, R413, log 13). -/
def Conv.bytes (c : Conv) (id : Nat) : List Byte :=
  let flags := b2n (c.doneHalves.contains 0) + 2 * b2n (c.doneHalves.contains 1) + 4 * b2n c.window.isSome + 8 * c.first +
    16 * ((c.signed.getLast?.map Signature.half).getD 0) + c.ran % 2 ^ 32 * 2 ^ 32
  valBytes 8 c.image ++ valBytes 8 id ++ valBytes 8 flags ++ roundBytes (c.round 0) ++ roundBytes (c.round 1) ++
    c.halfBytes 0 ++ c.halfBytes 1 ++ valBytes ((2 * c.n + 7) / 8) c.signedBits ++
    c.rowBytes 0 Signature.rowsA ++ c.rowBytes 1 Signature.rowsA ++ c.rowBytes 0 Signature.rowsB ++ c.rowBytes 1 Signature.rowsB

/-- The failed registers of a list, with their failures. -/
def failedRegs (rs : List Reg) : List (Nat × Failure) :=
  (mapFrom (fun i r => match r with | Reg.failed f => [(i, f)] | _ => []) 0 rs).flatten

/-- A group's block (R413): 112 bytes of scalar values, 16 of their states, 16 barrier images, and for each convergence
register as much of its bytes as 8,448 hold (log 13). -/
def State.groupBlock (s : State) (g id : Nat) : List Byte :=
  let x := s.grp g
  wordBytes (x.s.map Reg.word) ++ valBytes 16 (stateBits x.s) ++
  ((List.range 16).map fun i => valBytes 8 (x.bar i).image).flatten ++
  ((s.blockConvs g).map fun c => (((c.map fun c => c.bytes id).getD []) ++ zeros 8448).take 8448).flatten

/-- What a group's block has no room for (log 13). -/
def State.savedConvs (s : State) (g id : Nat) : SavedConvs :=
  ⟨id, (s.blockConvs g).map fun c => ((c.map fun c => c.bytes id).getD []).drop 8448, failedRegs (s.grp g).s⟩

/-- A destination's state in a team's block: one that SVWIN parked is saved as arriving (R413, R415). -/
def Dest.code (d : Dest) : Nat :=
  match d.state with
  | .unbound => 0
  | .absent => 1
  | .present => 3
  | _ => 2

/-- A team's block (R413): 64 entries of 128 bytes (descriptor, SEQ, a byte for each destination's state) and 16
reservations of 16 bytes (held flag, B-fetch count) (log 13). -/
def State.teamBlock (s : State) (m : Nat) : List Byte :=
  let t := s.team m
  ((List.range 64).map fun e =>
    let x := s.entry m e
    valBytes 64 x.desc.toNat ++ valBytes 8 x.seq ++
      ((x.dests.map fun d => valBytes 1 d.code).flatten ++ zeros 56).take 56).flatten ++
  ((List.range 16).map fun r => valBytes 4 (b2n (t.resv r).held) ++ valBytes 4 (t.resv r).bfetch.toNat ++ zeros 8).flatten

/-- An accumulator's block (R413): the words C or D, those of nine stack places bottom first, the state image, and the
pending labels, each level × 2^32 + index (log 13). -/
def Accum.block (a : Accum) : List Byte :=
  let vals := fun (l : List Word) => wordBytes ((l ++ List.replicate 3072 0).take 3072)
  let st := a.stack.reverse
  vals a.base ++ ((List.range 9).map fun i => vals (((st[i]?).map StackNode.vals).getD [])).flatten ++
  valBytes 8 (a.image a.now).toNat ++
  ((List.range 9).map fun i => match st[i]? with
    | some n => valBytes 8 (n.level * 2 ^ 32 + n.index)
    | none => zeros 8).flatten ++ zeros 176

/-- The bytes that SVRF writes; `id` is the number given to the image. -/
def State.blockImage (s : State) (blk : Nat) (p : Nat × Nat) (b id : Nat) : List Byte :=
  match blk with
  | 3 => s.ctlBlock p.2
  | 4 => s.groupBlock s.unit.group id
  | 5 => s.teamBlock s.unitTeam
  | 6 => (((s.team s.unitTeam).resv (bits b 2 4)).accum (b % 4)).block
  | k => (s.thr p.2).regBlock k

/-- Whether a block has to wait (R413, R414): for fills of its registers, for the thread's counters, for operations on
the accumulator. Block 3 holds the failures of registers, so it waits for their fills too (R185). The thread's own stores
are performed first. -/
def State.blockWaits (s : State) (blk : Nat) (p : Nat × Nat) (b : Nat) : Bool :=
  let x := s.thr p.2
  s.unperformed p.2 ||
  (match blk with
    | 3 => x.v.any Reg.isEmpty || decide (x.st ≠ 0) || decide (x.mx ≠ s.suspCount p.2) || decide (x.gx ≠ 0) || decide (x.ct ≠ 0)
    | 4 => (s.grp s.unit.group).s.any Reg.isEmpty
    | 5 => false
    | 6 => s.fly.mops.any fun o => o.team == s.unitTeam && o.res == bits b 2 4 && o.susp.isNone && o.targets.contains (b % 4)
    | k => (List.range 32).any fun i => ((x.v[32 * k + i]?).getD (.full 0)).isEmpty)

/-- What saving a block does beyond its bytes: held errors past sixteen go to the fault queue, and what the
image of a group has no room for is kept. -/
def State.savedBlock (s : State) (blk : Nat) (p : Nat × Nat) (id : Nat) : State :=
  match blk with
  | 3 =>
    let held := sortBy HeldError.id (s.thr p.2).held
    let s := (held.drop 16).foldl (fun s h => s.lostError p.2 h) s
    s.updThr p.2 fun x => { x with held := held.take 16, saved := s.nextId }
  | 4 => s.updFly fun f => { f with convImages := f.convImages ++ [s.savedConvs s.unit.group id] }
  | _ => s

/-- SVRF (R413): the bytes are performed at once, and the store completes later. -/
def execSvrf (blk : Nat) (a b : Opnd) (g : Nat) (s : State) : Out :=
  let n := blockBytes blk
  s.runPriv { uses := [srcUse a 2 0, srcUse b 1 0], guard := g, cost := 2,
              own := fun s p => if s.blockWaits blk p (s.src p b).toNat then .stall else .ready,
              hold := fun s ps => s.ctrFull ps .st,
              chk := fun s _ p => s.imageTrap (s.src64 p a) n 2 64,
              act := fun s ok => ok.foldl (fun r p =>
                let id := r.nextId
                let va := (s.src64 p a).toNat
                let bs := r.blockImage blk p (s.src p b).toNat id
                let w := r.takeId.putImage va bs
                let r1 := w.1.savedBlock blk p id
                (r1.updThr p.2 fun x => x.incCtr .st id).finishParts id p.2 s.pc .st none w.2
                  (dedup ((s.imageLines va n 2).map fun x => x.2 / 128)) (s.imageMoved p.2 va n 2) none) s }

/-! Loading blocks. -/

/-- Registers of a block as they are loaded: full, or failed with the failure given. -/
def loadRegs (rs : List Reg) (lo : Nat) (bs : List Byte) (states : Nat) (fail : Nat → Failure) : List Reg :=
  mapFrom (fun i r =>
    if lo ≤ i ∧ i < lo + bs.length / 4 then
      if bits states (2 * (i - lo)) 2 = 2 then .failed (fail i) else .full (BitVec.ofNat 32 (sliceVal bs (4 * (i - lo)) 4))
    else r) 0 rs

/-- The failure of a register whose block says no more than that it failed, where nothing else gives it: its kind, address
and word are free values (log 13). -/
def State.freeFailure (s : State) (i : Nat) : Failure :=
  let k := (([(4, 1), (4, 2), (5, 5), (5, 6)] : List (Nat × Nat))[s.pick i 4]?).getD (5, 6)
  ⟨k.1, k.2, (Config.freeWord s.fresh (2 * i)).setWidth 64, 1, (Config.freeWord s.fresh (2 * i + 1)).setWidth 64⟩

/-- LDRF of block 3 (R414). It gives the failures of failed registers, also of those that blocks 0 to 2 load later. -/
def State.loadCtl (s : State) (t : Nat) (bs : List Byte) : State :=
  let susp := s.suspCount t
  let flags := sliceVal bs 28 4
  let depth := sliceVal bs 24 4
  let held := (List.range (min 16 (flags % 32))).map fun i =>
    let f := unpackFailure ((bs.drop (320 + 16 * i)).take 16) false
    (⟨(Ctr.ofCode f.1).getD .st, f.2, i⟩ : HeldError)
  let fails := (List.range 96).map fun n => (n, (unpackFailure ((bs.drop (592 + 16 * n)).take 16) true).2)
  s.updThr t fun x => { x with
    resume := BitVec.ofNat 64 (sliceVal bs 0 8) &&& 0x1FFFFFFFFFFFFFFF,
    preds := BitVec.ofNat 16 (sliceVal bs 8 2) ||| 1,
    mode := BitVec.ofNat 32 (sliceVal bs 12 4) &&& 0x3FF,
    repcount := sliceVal bs 16 4,
    bsync := BitVec.ofNat 32 (sliceVal bs 20 4) &&& 0x800FFFFF,
    calls := ((List.range (min 32 (depth % 2 ^ 16))).map fun i => BitVec.ofNat 64 (sliceVal bs (32 + 8 * i) 8)).reverse,
    regions := ((List.range (min 16 (depth / 2 ^ 16))).map fun i => BitVec.ofNat 16 (sliceVal bs (288 + 2 * i) 2)).reverse,
    rdepth := depth / 2 ^ 16,
    mx := if bit flags 5 then susp else 0,
    hs := (List.range 4).map fun i => BitVec.ofNat 32 (sliceVal bs (576 + 4 * i) 4),
    held := held ++ x.held,
    failures := fails,
    v := mapFrom (fun n r =>
      match r with
      | .failed f => .failed ((look fails n).getD f)
      | r => r) 0 x.v }

/-- The signatures of a half in the bytes of a convergence register, the last one last; `at_` says where the half's rows of A and of
B begin. -/
def State.signaturesOf (s : State) (g half n lo : Nat) (signed : Nat) (bs : List Byte) (at_ : Nat × Nat) : List Signature :=
  let h := 40 + 16 * half
  let wa := sliceVal bs h 2
  let wb := sliceVal bs (h + 2) 2
  let last := sliceVal bs (h + 4) 2
  let ms := (List.range n).filter fun j => bit signed (half * n + j)
  let rows := fun (off w j : Nat) => bytesWords ((bs.drop (off + 4 * w * j)).take (4 * w))
  let ts := s.threadsIn (s.halfGroup g half)
  (ms.filter (· ≠ last) ++ ms.filter (· = last)).map fun j =>
    { half := half, member := j, thread := (ts.find? fun t => (s.thr t).idx == lo + j).getD s.threads.length,
      pc := BitVec.ofNat 64 (sliceVal bs (h + 8) 8), rowsA := rows at_.1 wa j, rowsB := rows at_.2 wb j }

/-- The convergence register of its bytes (R178, R309, log 13). A pair window runs on from now (R299). -/
def State.convOf (s : State) (g : Nat) (bs : List Byte) : Conv :=
  let image := sliceVal bs 0 8
  let n := bits image 15 14
  let lo := bits image 29 13
  let flags := sliceVal bs 16 8
  let at_ := 72 + (2 * n + 7) / 8
  let signed := sliceVal bs 72 ((2 * n + 7) / 8)
  let words := fun (k : Nat) => 4 * n * sliceVal bs k 2
  let a1 := at_ + words 40
  let b0 := a1 + words 56
  let h0 := s.signaturesOf g 0 n lo signed bs (at_, b0)
  let h1 := s.signaturesOf g 1 n lo signed bs (a1, b0 + words 42)
  { declared := bits image 62 2 == 1, lo := lo, n := n, left := bits image 0 15,
    signed := if bit flags 4 then h0 ++ h1 else h1 ++ h0,
    rounds := ((roundOf ((bs.drop 24).take 8)).map fun r => (0, r)).toList ++
      ((roundOf ((bs.drop 32).take 8)).map fun r => (1, r)).toList,
    doneHalves := (List.range 2).filter (bit flags), window := if bit flags 2 then some s.clk else none,
    ran := bits flags 32 32, first := bits flags 3 1 }

/-- LDRF of block 4 (R413). In the unconditional half of a pair k8 to k15 are skipped. -/
def State.loadGroup (s : State) (g : Nat) (bs : List Byte) : State :=
  let part := fun (k : Nat) => (bs.drop (256 + 8448 * k)).take 8448
  let saved := fun (k : Nat) => s.fly.convImages.find? fun x => x.id == sliceVal (part k) 8 8
  let convs := fun (k : Nat) (c : Conv) =>
    if s.convShared g k && (s.grp g).half == 1 then c
    else s.convOf g (part k ++ ((saved k).bind fun x => x.tails[k]?).getD [])
  let fail := fun (i : Nat) => (look (((saved 0).map SavedConvs.fails).getD []) i).getD (s.freeFailure i)
  s.updGrp g fun x => { x with
    s := loadRegs x.s 0 (bs.take 112) (sliceVal bs 112 16) fail,
    bars := (List.range 16).map fun i => barrierOf (sliceVal bs (128 + 8 * i) 8),
    convs := mapFrom convs 0 x.convs }

/-- LDRF of block 5 (R413): a destination saved as arriving is absent. -/
def State.loadTeam (s : State) (m : Nat) (bs : List Byte) : State :=
  let entry := fun (e : Nat) (_ : Entry) =>
    let d := BitVec.ofNat 512 (sliceVal bs (128 * e) 64)
    let dest := fun (i : Nat) =>
      match sliceVal bs (128 * e + 72 + i) 1 with
      | 0 => ({ state := .unbound } : Dest)
      | 3 => { state := .present }
      | _ => { state := .absent }
    ({ desc := d, seq := sliceVal bs (128 * e + 64) 8,
       dests := (List.range (region d).dests.length).map dest } : Entry)
  let s := (s.fly.jobs.filter fun j => j.team == m && j.flush.isNone && j.shadows == []).foldl (fun s j => s.endJob j none) s
  s.updTeam m fun t => { t with
    entries := mapFrom entry 0 t.entries,
    resvs := mapFrom (fun r (x : Resv) =>
      if x.held then { x with bfetch := BitVec.ofNat 32 (sliceVal bs (8192 + 16 * r + 4) 4) } else x) 0 t.resvs }

/-- The image of an accumulator from its 64 bits and labels (R278). -/
def accImageOf (n : Nat) (labels : List (Nat × Nat)) : AccImage :=
  { state := bits n 62 2, psplit := bit n 61, tail := bit n 60, span := bits n 55 4, labels := labels,
    next := bits n 40 11, origin := BitVec.ofNat 32 (bits n 0 32) }

/-- What the operations still suspended on an accumulator will make of its image (R293, R302). -/
def State.aheadOf (s : State) (m r k : Nat) (x : AccImage) : AccImage :=
  (s.fly.mops.filter fun o => o.team == m && o.res == r && o.targets.contains k).foldl (fun x o =>
    match o.kind with
    | .tile op h0 _ _ accs _ _ _ _ _ _ n =>
      match (mhdr h0).shape op with
      | none => x
      | some p => ((((mhdr h0).blocks op p accs).drop n).filter fun b => b.acc == k).foldl AccImage.take x
    | _ => x) x

/-- LDRF of block 6 (R413). -/
def State.loadAccum (s : State) (m r k : Nat) (bs : List Byte) : State :=
  let img := sliceVal bs 122880 8
  let vals := fun (i : Nat) => bytesWords ((bs.drop (12288 * i)).take 12288)
  let pend := min 9 (bits img 51 4)
  let nodes := (List.range pend).map fun i =>
    let l := sliceVal bs (122888 + 8 * i) 8
    (⟨l / 2 ^ 32, l % 2 ^ 32, vals (i + 1)⟩ : StackNode)
  let x := accImageOf img (nodes.reverse.map fun n => (n.level, n.index))
  s.updAccum m r k fun _ =>
    { now := x, ahead := s.aheadOf m r k x, susp := bit img 59, base := vals 0, stack := nodes.reverse }

/-- Loads a block (R413). -/
def State.loadBlock (s : State) (blk : Nat) (p : Nat × Nat) (b : Nat) (bs : List Byte) : State :=
  match blk with
  | 3 => s.loadCtl p.2 bs
  | 4 => s.loadGroup s.unit.group bs
  | 5 => s.loadTeam s.unitTeam bs
  | 6 => s.loadAccum s.unitTeam (bits b 2 4) (b % 4) bs
  | k => s.updThr p.2 fun x => { x with
      v := loadRegs x.v (32 * k) (bs.take 128) (sliceVal bs 128 8) fun i => (look x.failures i).getD (s.freeFailure i) }

/-- LDRF (R413), complete before the next word. -/
def execLdrf (blk : Nat) (a b : Opnd) (g : Nat) (s : State) : Out :=
  let n := blockBytes blk
  let va := fun (s : State) (p : Nat × Nat) => (s.src64 p a).toNat
  s.runPrivAfter
    { uses := [srcUse a 2 0, srcUse b 1 0], guard := g, cost := 2,
      own := fun s p => if s.unperformed p.2 || s.imagePending (va s p) n then .stall else .ready,
      chk := fun s _ p => s.imageReadTrap p.2 (s.src64 p a) n 64,
      act := fun s ok => ok.foldl (fun r p =>
        match s.getImage p.2 (va s p) n with
        | .ok bs => ((r.loadBlock blk p (s.src p b).toNat bs).imageUsed (va s p) n).chargeLines s.unitCtx.num s.unit.core
            (s.imageMoved p.2 (va s p) n 1)
        | .error _ => r) s }
    fun s ok => ok.flatMap fun p => s.imageNeeds p.2 (va s p) n 64

/-! Windows and slots (R415). -/

/-- The descriptor, destination index and window addresses that SVWIN and LDWIN act on, for the issuing group. -/
def State.winDest (s : State) (e : Nat) : Region × Nat × Bool × Nat × Nat :=
  let r := region (s.entry s.unitTeam e).desc
  let d := destOf r (s.grp s.unit.group).idx
  let x := (r.dests[d.1]?).getD (none, 0, 0)
  (r, d.1, d.2, x.2.1, x.2.2)

/-- The header of a window image: a byte for the state, as WSTAT codes it. -/
def winHeader (st : Nat) : List Byte := valBytes 1 st ++ zeros 15

/-- The bytes that SVWIN writes to a window image (R415). -/
def State.winImage (s : State) (e : Nat) : List Byte :=
  let w := s.winDest e
  let m := s.team s.unitTeam
  let d := ((s.entry s.unitTeam e).dests[w.2.1]?).getD {}
  let stamp := readCells s.sto.spad (m.addr w.2.2.2.2) 8
  let body := readCells s.sto.spad (m.addr w.2.2.2.1) w.1.size
  if w.2.2.1 then zeros 8 ++ winHeader 0
  else
    match d.state with
    | .present => stamp ++ winHeader 3 ++ zeros 232 ++ body
    | .arriving =>
      stamp ++ winHeader 2 ++ zeros 232 ++ mapFrom (fun i b => if d.landed.contains i then b else 0) 0 body
    | .absent => zeros 8 ++ winHeader 1
    | _ => zeros 8 ++ winHeader 0

/-- SVWIN writes an image: what goes to other devices counts on the thread's ctr.st until they have answered, as a store does
(R429, R432). -/
def State.saveImage (s : State) (t va : Nat) (bs : List Byte) : State :=
  let id := s.nextId
  let w := s.takeId.putImage va bs
  let moved := s.imageMoved t va bs.length 2
  if w.2 = [] then (w.1.imageUsed va bs.length).chargeLines s.unitCtx.num s.unit.core moved
  else (w.1.updThr t fun x => x.incCtr .st id).finishParts id t s.pc .st none w.2 [] moved none

/-- Whether an image that SVWIN writes must wait for room on ctr.st: some of it goes to another device. -/
def State.saveFull (s : State) (p : Nat × Nat) (va len : Nat) : Bool :=
  decide (63 ≤ (s.thr p.2).st) &&
    (s.spans s.unitCtx va len 2).any fun x => match x.2.2 with | .peer _ _ => true | _ => false

/-- SVWIN of a window (R415): a destination that is arriving becomes parked, and the rest of its fill goes to the image. -/
def execSvwinWin (e : Nat) (a : Opnd) (s : State) : Out :=
  s.runPriv { uses := [lowUse a 2], cost := 2,
              hold := fun s ps => s.saveFull (lowest ps) (s.src64 (lowest ps) a).toNat (s.winImage e).length,
              chk := fun s ps _ => s.imageTrap (s.src64 (lowest ps) a) (s.winImage e).length 2 256,
              act := fun s ok =>
                match ok with
                | [] => s
                | p :: _ =>
                  let m := s.unitTeam
                  let w := s.winDest e
                  let d := ((s.entry m e).dests[w.2.1]?).getD {}
                  let s1 := s.saveImage p.2 (s.src64 p a).toNat (s.winImage e)
                  if d.state = .arriving ∧ w.2.2.1 = false then
                    let park := fun (j : Job) =>
                      if d.takes j then { j with shadows := j.shadows ++ [(w.2.1, s.src64 p a, d.landed)] } else j
                    (s1.updFly fun f => { f with jobs := f.jobs.map park }).updEntry m e fun x =>
                      { x with dests := upd x.dests w.2.1 fun _ => { state := .parked (s.src64 p a) } }
                  else s1 }

/-- Whether a fill still writes into a window image. -/
def State.imageOpen (s : State) (a : Dword) : Bool := s.fly.jobs.any fun j => j.shadows.any fun x => x.2.1 == a

/-- What LDWIN finds wrong with its image or entry (R415). -/
def State.ldwinTrap (s : State) (t e : Nat) (a : Dword) : Option Trap :=
  let w := s.winDest e
  let ds := (s.entry s.unitTeam e).dests
  match s.imageReadTrap t a 24 256 with
  | some f => some f
  | none =>
    match s.getImage t a.toNat 24 with
    | .error f => some f
    | .ok h =>
      let st := sliceVal h 8 1
      if ds.all (fun d => d.state == .unbound) then some { cls := 6, code := 2 }
      else if st = 0 then none
      else if ((ds[w.2.1]?).getD {}).state = .unbound then some { cls := 6, code := 2 }
      else if st = 1 then none
      else s.imageReadTrap t (a + 256) w.1.size 1

/-- The requests of LDWIN: for the header, and then for the bytes of a window that it says has some. -/
def State.ldwinNeeds (s : State) (t e : Nat) (a : Nat) : List (Reader × Nat × Nat × Nat) :=
  let h := s.imageNeeds t a 24 256
  if h.any fun x => (s.peerAnswer x.1).isNone then h
  else
    match s.getImage t a 24 with
    | .ok bs => if 2 ≤ sliceVal bs 8 1 then h ++ s.imageNeeds t (a + 256) (s.winDest e).1.size 1 else h
    | .error _ => h

/-- LDWIN of a window (R415): a parked one waits for the stamp of its fill, and says by that whether it is present; one that was
present is. -/
def execLdwinWin (e : Nat) (a : Opnd) (s : State) : Out :=
  let va := fun (s : State) (p : Nat × Nat) => (s.src64 p a).toNat
  s.runPrivAfter
    { uses := [lowUse a 2], cost := 2,
      own := fun s p =>
        if p = lowest (s.parts 0) && (s.imageOpen (s.src64 p a) || s.imagePending (va s p) (256 + (s.winDest e).1.size)) then .stall
        else .ready,
      chk := fun s ps _ => s.ldwinTrap (lowest ps).2 e (s.src64 (lowest ps) a),
      act := fun s ok =>
        match ok with
        | [] => s
        | p :: _ =>
          let m := s.unitTeam
          let w := s.winDest e
          let set := fun (s : State) (st : DestState) =>
            s.updEntry m e fun x => { x with dests := upd x.dests w.2.1 fun _ => { state := st } }
          match s.getImage p.2 (va s p) 24 with
          | .error _ => s
          | .ok h =>
            let st := sliceVal h 8 1
            let s0 := (s.imageUsed (va s p) 24).chargeLines s.unitCtx.num s.unit.core (s.imageMoved p.2 (va s p) 24 1)
            if st = 0 then s0
            else if st = 1 then set s0 .absent
            else
              match s.getImage p.2 (va s p + 256) w.1.size with
              | .error _ => s0
              | .ok bs =>
                let s1 := ((s0.writeSpad ((s.team m).addr w.2.2.2.2) (h.take 8)).writeSpad
                    ((s.team m).addr w.2.2.2.1) bs).imageUsed (va s p + 256) w.1.size
                let s2 := s1.chargeLines s.unitCtx.num s.unit.core (s.imageMoved p.2 (va s p + 256) w.1.size 1)
                set s2 (if st = 3 ∨ bits (sliceVal h 0 8) 62 2 = 0 then .present else .absent) }
    fun s ok => match ok with | [] => [] | p :: _ => s.ldwinNeeds p.2 e (va s p)

/-- The fault of a slot of SVWIN or LDWIN: its range and alignment, as SLOAD checks them. -/
def State.saveSlotTrap (s : State) (y : Nat) (ring : Bool) : Option Trap := s.slotTrap y (if ring then 576 else 144)

/-- SVWIN of a slot (R347, R415). A slot whose fill or acknowledgement is on its way is waited for (log 13). -/
def execSvwinSlot (_e : Nat) (a b : Opnd) (s : State) : Out :=
  let y := fun (s : State) (p : Nat × Nat) => (s.src p b).toNat % 2 ^ 24
  s.runPriv { uses := [lowUse a 2, lowUse b 1], cost := 2,
              hold := fun s ps =>
                let st := (s.slot s.unitTeam (y s (lowest ps))).state
                st == 1 || st == 4 || s.saveFull (lowest ps) (s.src64 (lowest ps) a).toNat 720,
              chk := fun s ps _ =>
                let p := lowest ps
                (s.saveSlotTrap (y s p) (s.slot s.unitTeam (y s p)).ring).or (s.imageTrap (s.src64 p a) 720 2 16),
              act := fun s ok =>
                match ok with
                | [] => s
                | p :: _ =>
                  let m := s.unitTeam
                  let n := if (s.slot m (y s p)).ring then 576 else 144
                  let body := (readCells s.sto.spad ((s.team m).addr (y s p)) n ++ zeros 576).take 576
                  let x : ParkedSlot := { team := m, slot := y s p, image := s.src64 p a, count := 0 }
                  (s.saveImage p.2 (s.src64 p a).toNat (body ++ zeros 144)).updFly fun f =>
                    { f with parkedSlots := f.parkedSlots.filter (fun z => !(z.team == m && z.slot == y s p)) ++ [x] } }

/-- The slot that an image and its parked pushes give (R347): the slot as saved, refilled from the parking line where
that received pushes. -/
def Slot.refill (x : Slot) (count q : Nat) : Slot :=
  if count = 0 then x
  else { x with lost := true, count := 1, head := 0, ovr := min 255 (x.ovr + (count - 1)),
                seqs := upd x.seqs 0 fun _ => (q, false) }

/-- LDWIN of a slot (R347, R415). The entry at this device's home, and pushes on their way, follow the slot to where it is now. -/
def execLdwinSlot (_e : Nat) (a b : Opnd) (s : State) : Out :=
  let y := fun (s : State) (p : Nat × Nat) => (s.src p b).toNat % 2 ^ 24
  let va := fun (s : State) (p : Nat × Nat) => (s.src64 p a).toNat
  s.runPrivAfter
    { uses := [lowUse a 2, lowUse b 1], cost := 2,
      own := fun s p => if p = lowest (s.parts 0) && s.imagePending (va s p) 720 then .stall else .ready,
      chk := fun s ps _ =>
        let p := lowest ps
        (s.imageReadTrap p.2 (s.src64 p a) 720 16).or
          (match s.getImage p.2 (va s p) 720 with
            | .error f => some f
            | .ok bs => s.saveSlotTrap (y s p) (bit (sliceVal bs 128 8) 60)),
      act := fun s ok =>
        match ok with
        | [] => s
        | p :: _ =>
          let m := s.unitTeam
          match s.getImage p.2 (va s p) 720 with
          | .error _ => s
          | .ok bs =>
            let n := if bit (sliceVal bs 128 8) 60 then 576 else 144
            let count := sliceVal bs 712 8
            let s0 := (s.imageUsed (va s p) 720).chargeLines s.unitCtx.num s.unit.core (s.imageMoved p.2 (va s p) 720 1)
            let s1 := s0.writeSpad ((s.team m).addr (y s p)) (bs.take n)
            let s2 := match s.fly.parkedSlots.find? fun z => z.team == m && z.image == s.src64 p a with
              | none => s1
              | some z => s1.updFly fun f => { f with
                  parkedSlots := f.parkedSlots.filter (fun u => !(u.team == m && u.image == z.image)),
                  subs := f.subs.map fun u =>
                    if u.dev.isNone ∧ u.team = m ∧ u.slot = z.slot then { u with slot := y s p } else u,
                  pushes := f.pushes.map fun u =>
                    if u.dev.isNone ∧ u.team = m ∧ u.slot = z.slot then { u with slot := y s p } else u }
            if count = 0 then s2
            else
              (s2.updSlot m (y s p) fun x => x.refill count (bits (sliceVal bs 704 8) 0 48)).writeSpad
                ((s.team m).addr (y s p)) ((bs.drop 576).take 128) }
    fun s ok => match ok with | [] => [] | p :: _ => s.imageNeeds p.2 (va s p) 720 16

/-! TLBI, GRANT, HALT, MARK (R412, R416 to R418). -/

/-- The bytes that a TLBI covers, as (first, length): all for TYPE 0. -/
def tlbiRange (page : Bool) (x size : Nat) : Nat × Nat :=
  if page then
    let n := (([12, 16, 21, 26, 30] : List Nat)[size]?).getD 12
    (x / 2 ^ n * 2 ^ n, 2 ^ n)
  else (0, 2 ^ 57)

/-- The addresses that an access under way has translated. -/
def OpKind.pages (k : OpKind) (va : Nat) : List Nat :=
  match k with
  | .store (.mem _) _ _ _ => [va]
  | .load _ _ (.mem _) _ _ _ _ _ _ => [va]
  | .atomic _ _ _ _ _ _ _ _ => [va]
  | .remote _ _ _ _ _ _ _ _ _ => [va]
  | .parts rs _ _ _ => rs.map Prod.snd
  | _ => []

/-- The context and addresses of a read of another device that has no answer yet. -/
def State.readPages (s : State) (r : PeerRead) : Option (Nat × List Nat) :=
  if r.ans.isSome then none
  else
    match r.who with
    | .beat id off => (s.fly.jobs.find? fun j => j.id == id).map fun j =>
        ((s.launch (s.team j.team).launch).ctx, [(region j.desc).srcOf off])
    | .operand id _ _ => (s.fly.mops.find? fun o => o.id == id).map fun o =>
        ((s.launch (s.team o.team).launch).ctx, o.globals)
    | .word t va => some ((s.launchOf t).ctx, [va])
    | .sload k => (s.fly.reqs.find? fun x => x.id == k).map fun x => ((s.launchOf x.thread).ctx, [x.va.toNat])
    | .unsub _ => none

/-- Whether an access of a context that has been translated is still to be performed in a range (R416). -/
def State.usesRange (s : State) (c : Nat) (r : Nat × Nat) : Bool :=
  let inside := fun (va : Nat) => decide (va < r.1 + r.2) && decide (r.1 < va + 8)
  s.fly.ops.any (fun o => (s.launchOf o.thread).ctx == c && (o.kind.pages o.va).any inside) ||
  s.fly.reads.any fun x => (s.readPages x).elim false fun y => y.1 == c && y.2.any inside

/-- Whether a translation leads to the page of a line, without write permission: its lines may be forwarded copies
(R214). -/
def TlbEntry.forwards (e : TlbEntry) (line : Nat) : Bool :=
  match e.place with
  | .mem pa => decide (pa / 128 ≤ line) && decide (line < (pa + 4096 * e.pages) / 128) && decide (e.perms &&& 2 = 0)
  | _ => false

/-- Removes the translations of a range, and with them the forwarded copies of its pages (R214, R416). -/
def State.invalidate (s : State) (c : Nat) (r : Nat × Nat) : State :=
  let gone := fun (e : TlbEntry) => e.ctx == c && decide (e.page * 4096 < r.1 + r.2) && decide (r.1 < (e.page + e.pages) * 4096)
  let es := s.sto.tlb.filter gone
  s.updSto fun m => { m with
    tlb := m.tlb.filter fun e => !gone e, visitors := m.visitors.filter fun v => !es.any fun e => e.forwards v.line }

/-- TLBI (R416). -/
def execTlbi (page : Bool) (a b : Opnd) (g : Nat) (s : State) : Out :=
  let size := fun (s : State) (p : Nat × Nat) => (s.src p b).toNat % 8
  let range := fun (s : State) (p : Nat × Nat) => tlbiRange page (s.src64 p a).toNat (size s p)
  s.runPriv { uses := [srcUse a (if page then 2 else 1) 0, srcUse b 1 0], guard := g, cost := 2,
              own := fun s p =>
                if page && decide (4 < size s p) then .trap { cls := 1, code := 1 }
                else if s.usesRange s.unitCtx.num (range s p) then .stall
                else .ready,
              act := fun s ok => ok.foldl (fun r p => r.invalidate s.unitCtx.num (range s p)) s }

/-- A token's bits but its MAC (R430). -/
def tokenLow (rights win expiry gen : Nat) : Nat :=
  rights % 16 * 2 ^ 36 + win % 2 ^ 16 * 2 ^ 20 + expiry % 2 ^ 16 * 2 ^ 4 + gen % 16

/-- The MAC of a token for a context of this device (R431). -/
def State.tokenMac (s : State) (ctx gen low : Nat) : Nat :=
  (grantMac s.fabric.incarnation gen ((s.bar0.podnum.map BitVec.toNat).getD 0) ctx low).toNat

/-- A window of a context's grant window table (R430): BASE, LEN and CTL, none where it cannot be read. -/
def State.grantWindow (s : State) (c : Context) (i : Nat) : Option (Nat × Nat × Nat) :=
  if i < c.gwCount then
    match s.vread c (c.gwTab.toNat + 16 * i) 16 with
    | .ok bs => some (sliceVal bs 0 8, sliceVal bs 8 5, sliceVal bs 13 1)
    | .error _ => none
  else none

/-- The token of GRANT, or none for the grant fault (R417, R430, R436). -/
def State.grantToken (s : State) (c : Context) (a b : Nat) : Option Dword :=
  let win := a % 2 ^ 16
  let rights := b % 16
  match (if s.feature 2 then s.grantWindow c win else none) with
  | none => none
  | some w =>
    if bit w.2.2 5 && decide (rights &&& (15 - w.2.2 % 16) = 0) then
      let gen := s.bar0.gkgen.toNat
      let low := tokenLow rights win (s.tms + min 32767 (b / 2 ^ 16)) gen
      some (BitVec.ofNat 64 (s.tokenMac c.num gen low * 2 ^ 40 + low))
    else none

/-- GRANT (R417, R430). -/
def execGrant (d a b : Opnd) (g : Nat) (s : State) : Out :=
  s.runPriv { uses := [dstUse d 2 false, srcUse a 1 0, srcUse b 1 0], guard := g, cost := 2,
              chk := fun s _ p =>
                if (s.grantToken s.unitCtx (s.src p a).toNat (s.src p b).toNat).isNone then some { cls := 5, code := 5 }
                else none,
              act := fun s ok => s.putDst ok d fun p =>
                wordsOf 2 ((s.grantToken s.unitCtx (s.src p a).toNat (s.src p b).toNat).getD 0) }

/-- Whether a thread in a handler has a pre-emption trap to take at its HALT (R403). -/
def State.haltTraps (s : State) (p : Nat × Nat) : Bool := (s.thr p.2).hmode == 1 && (s.thr p.2).preempt != 0

/-- A HALT that ends threads. One that has a pre-emption trap to take takes it there instead, and resumes where its handler would have
returned to: DEDUCED from R403 (log 40). -/
def haltWork (f : State → Nat × Nat → State) : Work :=
  { cost := 2,
    act := fun s ok =>
      let s1 := if ok = s.unit.lanes && !ok.any s.haltTraps then s.clauseTrace 4 (s.unit.issued + 1) 0 else s
      ok.foldl (fun r p =>
        if s.haltTraps p then r.preempt [(p, (s.thr p.2).resume, (s.thr p.2).repcount)] else f r p) s1,
    fin := fun s => s,
    ends := true }

/-- HALT.thread (R412). -/
def execHaltThread (s : State) : Out := s.runPriv (haltWork fun s p => s.haltThread p.2)

/-- HALT.group (R412). -/
def execHaltGroup (s : State) : Out := s.runPriv (haltWork fun s p => s.haltGroup (s.thr p.2).group)

/-- HALT.kernel (R412). -/
def execHaltKernel (s : State) : Out := s.runPriv (haltWork fun s p => s.endLaunch (s.team (s.teamOf p.2)).launch)

/-- A thread parks (R404): it leaves the core; errors that its saved block 3 holds are no longer its own (R414). -/
def State.parkThread (s : State) (t : Nat) : State :=
  let s := (s.leaveUnit t).updThr t fun x => { x with
    life := .parked, held := x.held.filter fun h => decide (x.saved ≤ h.id) }
  s.checkTeam (s.teamOf t)

/-- HALT.park (R404, R412). -/
def execHaltPark (s : State) : Out :=
  s.runPriv { haltWork (fun s p => s.parkThread p.2) with
    own := fun s p =>
      if (s.thr p.2).hmode ≠ 2 then .trap { cls := 1, code := 4 }
      else if (s.thr p.2).st ≠ 0 ∨ s.unperformed p.2 = true then .stall
      else .ready }

/-- MARK (R418, R436, R445). -/
def execMark (c g : Nat) (s : State) : Out :=
  s.run { guard := g, cost := 2,
          act := fun s ok =>
            match s.unitCtx.debug with
            | none => s
            | some d =>
              if ok ≠ [] && d.itrace && s.feature 3 then
                s.unitTrace s.cur ([6, 0] ++ valBytes 2 c ++ valBytes 4 (s.unitId s.cur) ++ valBytes 8 s.clk)
              else s }

end Sys2Proof.Machine
end

