-- ==== Sys2Proof/Machine/TreeInstr.lean ====
section
/-!
DEFINITION. CONTRIB and TSTAT (R331 to R333).
-/

namespace Sys2Proof.Machine

/-- The registers of a value of a tree (R331): one for OP 0, a pair for OP 1 and 2. -/
def treeWords (op : Nat) : Nat := if op = 0 then 1 else 2

/-- The tree set of a trig label, or the fault of the handle, element and label checks (R332). -/
def State.labelled (s : State) (p : Nat × Nat) (e b : Opnd) : Except Trap TreeSet :=
  let lab := (s.src64 p b).toNat
  match s.treeNamed p.2 (bits lab 44 20) with
  | none => .error { cls := 9, code := 1 }
  | some t =>
    if t.elems ≤ (s.src p e).toNat ∨ labelBad t.leaves (bits lab 38 6) (bits lab 0 38) = true then
      .error { cls := 9, code := 2 }
    else .ok t

/-- How a participant fares at CONTRIB: the label's checks, then those of a against OP (R332). -/
def State.contribStatus (s : State) (p : Nat × Nat) (e a b : Opnd) : Status :=
  match s.labelled p e b with
  | .error f => .trap f
  | .ok t =>
    let n := treeWords t.op
    if opndBad a n n false (s.grp s.unit.group).budget then .trap { cls := 1, code := 3 }
    else s.useStatus p.2 s.emptyBit (srcUse a n 0)

/-- CONTRIB (R332). -/
def execContrib (e a b : Opnd) (g : Nat) (s : State) : Out :=
  s.run { uses := [srcUse e 1 0, { srcUse b 2 0 with regOnly := true }, { o := a }], guard := g, cost := 2,
          own := fun s p => s.contribStatus p e a b,
          hold := fun s ps => s.ctrFull ps .ct,
          act := fun s ok => ok.foldl (fun s p =>
            match s.labelled p e b with
            | .error _ => s
            | .ok t =>
              let lab := (s.src64 p b).toNat
              let v := if t.op = 0 then (s.src p a).setWidth 64 else s.src64 p a
              (s.updThr p.2 fun x => x.incCtr .ct s.nextId).contribute t (s.thr p.2).core (s.src p e).toNat (bits lab 38 6)
                (bits lab 0 38) v (some (p.2, s.pc))) s }

/-- The tree set and element that TSTAT names (R333). -/
def State.statTree (s : State) (p : Nat × Nat) (a b : Opnd) : Except Trap TreeSet :=
  match s.treeNamed p.2 ((s.src p b).toNat % 2 ^ 20) with
  | none => .error { cls := 9, code := 1 }
  | some t => if t.elems ≤ (s.src p a).toNat then .error { cls := 9, code := 2 } else .ok t

/-- How a TSTAT operation gets its word (R333): from the element's state, or from the device of the root's meeting place. -/
def State.tstatKind (s : State) (t : TreeSet) (elem : Nat) (dst : Opnd) : State × OpKind :=
  match s.nodeHome t t.top 0 with
  | none => (s, .fill dst 2 (.ok (elemWord t (s.elemState t.ctx t.handle elem t.seq))) none)
  | some d => (s.ask t.ctx d.2 t.ctx d.1 (.treeStat t.handle elem), .remote s.nextId dst 2 0 8 false none none none)

/-- TSTAT (R333). -/
def execTstat (d a b : Opnd) (g : Nat) (s : State) : Out :=
  s.run { uses := [fillUse d 2, srcUse a 1 0, srcUse b 1 0], guard := g, cost := 2,
          chk := fun s _ p => match s.statTree p a b with | .error f => some f | .ok _ => none,
          act := fun s ok => ok.foldl (fun r p =>
            match s.statTree p a b with
            | .error _ => r
            | .ok t =>
              let dst := match d with | .s _ => if p = lowest ok then d else .zero | d => d
              let k := r.tstatKind t (s.src p a).toNat dst
              (k.1.emptyDst [p] dst 2 fun _ => k.1.nextId).startOp p.2 s.nextId 0 k.2) s }

end Sys2Proof.Machine
end

