-- ==== Sys2Proof/Machine/EvCore.lean ====
section
/-!
DEFINITION. Events of the cores: clauses, folds, fairness (file 8), and the landing of loads, stores and counted
operations (R180 to R183, R212, R234 to R246, R263, R264). An event whose conditions do not hold changes nothing.
-/

namespace Sys2Proof.Machine

/-! Clauses and folds. -/

/-- CLAUSE_ISSUE (R84): the unit at issue fetches and checks its clause. -/
def execClauseIssue (s : State) : Out :=
  if s.unit.live && !s.unit.stopped && s.unit.words == [] then .next s.issueClause else .next s

/-- The record of a unit's launch. -/
def State.recordOf (s : State) (g : Nat) : LaunchRec := (s.launch (s.team (s.grp g).team).launch).record

/-- The datapath of a core that holds the fewest issue units, the lowest on a tie (R172, R385). -/
def State.leastDp (s : State) (core : Nat) : Nat :=
  (leastBy (fun d => (s.units.filter fun u => u.live && u.core == core && u.dp == d).length) (List.range 4)).getD 0

/-- Whether a fold is full (R172). -/
def State.foldFull (s : State) (f : Fold) : Bool := decide ((s.recordOf f.group).width ≤ f.threads.length)

/-- Whether a fold has reached the age limit (R172, R173). -/
def State.foldAged (s : State) (f : Fold) : Bool := decide ((s.recordOf f.group).foldage ≤ s.clk - f.since)

/-- Whether the grouping stage of a core may form another group in this clk: it forms at most four (R172). -/
def State.mayForm (s : State) (core : Nat) : Bool := decide ((s.formed.filter (· == core)).length < 4)

/-- The fold of a core that forms next: full ones before aged ones, older before younger (R172). -/
def State.nextFold (s : State) (core : Nat) : Option Fold :=
  let here := s.folds.filter fun f => f.core == core
  if s.mayForm core then
    (leastBy Fold.order (here.filter s.foldFull)).or (leastBy Fold.order (here.filter s.foldAged))
  else none

/-- How many clk ago a fold could first form. -/
def State.foldReady (s : State) (f : Fold) : Nat :=
  if s.foldFull f then s.clk - f.last else s.clk - f.since - (s.recordOf f.group).foldage

/-- A fold forms an issue group, and is free (R172, R386). Where a debugger holds a thread of it, it stops before it issues, with
cause 3 as R441 and R442 name none: DESIGN CHOICE (log 14); a stop that one was asked for, or a step, goes on (R441, R443). -/
def State.formFold (s : State) (f : Fold) : State :=
  let ts := f.threads.map s.thr
  let ask := ts.findSome? Thread.ask
  let u : IssueUnit :=
    { core := f.core, dp := s.leastDp f.core, group := f.group, lanes := mapFrom Prod.mk 0 f.threads, hdr := f.hdr,
      idx := f.idx, waited := decide (0 < f.idx) && !f.rewait, stamp := s.clk, fold := f.num, rank := f.num,
      stopAsk := ask.map Prod.fst, bkptCode := (ask.map Prod.snd).getD 0, stepping := ts.any Thread.step }
  let s1 := ({ s with
    folds := s.folds.filter fun x => !(x.core == f.core && x.num == f.num), formed := f.core :: s.formed,
    threads := mapFrom (fun t (x : Thread) =>
      if f.threads.contains t then { x with ask := none, step := false } else x) 0 s.threads } : State).enroll [u]
  if ts.any Thread.stopped then s1.stopNow s.units.length 3 else s1

/-- FOLD_FORM (R172): the fold that is next on its core forms. -/
def execFoldForm (core fold : Nat) (s : State) : Out :=
  match s.nextFold core with
  | some f => if f.num = fold then .next (s.formFold f) else .next s
  | none => .next s

/-- FOLD_AGE_LIMIT (R172, R173): a fold at the age limit that is next on its core forms, though it is not full. -/
def execFoldAgeLimit (core fold : Nat) (s : State) : Out :=
  match s.nextFold core with
  | some f => if f.num = fold && !s.foldFull f && s.foldAged f then .next (s.formFold f) else .next s
  | none => .next s

/-- The threads of a unit that are runnable (R186). -/
def State.runnable (s : State) (u : IssueUnit) : List Nat := (u.lanes.map Prod.snd).filter fun t => !(s.thr t).waits

/-- The waiting time of a unit: that of its longest-waiting runnable thread (R186). -/
def State.waiting (s : State) (u : IssueUnit) : Nat :=
  s.clk - ((s.runnable u).map fun t => (s.thr t).since).foldl min s.clk

/-- Whether a unit expires: runnable, under the promise, and its waiting time has reached Q / 2 (R187). -/
def State.expires (s : State) (u : IssueUnit) : Bool :=
  let r := s.recordOf u.group
  u.live && !u.stopped && u.expired.isNone && r.progress && !s.paused (s.grp u.group).team && s.runnable u != [] &&
    decide (r.quantum ≤ 2 * s.waiting u)

/-- UNIT_EXPIRED (R187). -/
def execUnitExpired (u : Nat) (s : State) : Out :=
  if s.expires (s.unitAt u) then .next (s.updUnit u fun y => { y with expired := some s.clk }) else .next s

/-! Waits that end. -/

/-- The number of a unit's datapath in the device. -/
def IssueUnit.path (u : IssueUnit) : Nat := 4 * u.core + u.dp

/-- A unit may look at its word again: the waiting time of a thread that was held starts now (R186). -/
def State.wake (s : State) (u : Nat) : State :=
  (s.updUnit u fun x => { x with blocked := false }).each (s.unitAt u).lanes fun _ x =>
    { x with since := if x.waits then s.clk else x.since, waits := false }

/-- A unit whose wait has ended performs its word, where its datapath has not issued in this clk (R387); otherwise it may
from the next one on. -/
def State.wakeFor (s : State) (u : Nat) (go : State → Out) : Out :=
  let s1 := s.wake u
  let path := (s.unitAt u).path
  if s.taken.contains path then .next s1 else go { s1 with taken := path :: s1.taken }

/-- The unit's own word, where it is live and goes on. -/
def State.wordOf (s : State) (u : Nat) : Option Instr :=
  let x := s.unitAt u
  if x.live && !x.stopped && x.words != [] then
    match x.instrAt x.idx with
    | .ok i => some i
    | .error _ => none
  else none

/-- BWAIT_RELEASE (R198, R199): the phase that the unit's BWAIT or BSYNC waits for is over for every participant, and the
unit performs the word. -/
def execBwaitRelease (u : Nat) (s : State) : Out :=
  let s1 := { s with cur := u }
  match s.wordOf u with
  | some (.bwait a b g) =>
    if (s1.parts g).all fun p => (s1.bar b).passed ((s1.src p a).setWidth 16) then s1.wakeFor u (execBwait a b g)
    else .next s
  | some (.bsync b g) =>
    if (s1.parts g).all fun p => (s1.thr p.2).bsync.getLsbD 31 && (s1.bar b).passed ((s1.thr p.2).bsync.setWidth 16) then
      s1.wakeFor u (execBsync b g)
    else .next s
  | _ => .next s

/-- MWAIT_WAKE (R205): the stamp ends the wait of every participant, and the unit performs the word. -/
def execMwaitWake (u : Nat) (s : State) : Out :=
  let s1 := { s with cur := u }
  match s.wordOf u with
  | some (.mwait d a b sp) =>
    if (s1.parts 0).all fun p => s1.mwaitStatus p a b sp == .ready then s1.wakeFor u (execMwait d a b sp) else .next s
  | _ => .next s

/-! Persistent requests (R212). -/

/-- The line of global memory that an operation in flight accesses. -/
def State.opLine (s : State) (o : Op) : Option Nat :=
  match o.kind with
  | .store (.mem a) _ _ _ => some (a / 128)
  | .atomic (.mem a) _ _ _ _ _ _ _ => some (a / 128)
  | .load _ _ (.mem a) _ _ _ _ _ _ => some (a / 128)
  | .fill _ _ _ _ =>
    match s.walkPage (s.ctxOf o.thread) o.va with
    | .ok l => match l.place with | .mem a => some ((a + o.va % 4096) / 128) | _ => none
    | .error _ => none
  | _ => none

/-- The line of an access that has not been performed and waits for tokens: a load that does not hit its core's L1, or a store or
atomic. -/
def State.missLine (s : State) (o : Op) : Option Nat :=
  match o.kind with
  | .fill _ _ _ _ => none
  | .load _ _ _ _ _ _ _ _ _ => (s.opLine o).filter fun line => !s.hits o.core line
  | _ => s.opLine o

/-- Whether an operation of a core accesses a line. -/
def State.asks (s : State) (core line : Nat) : Bool :=
  s.fly.ops.any fun o => o.core == core && s.opLine o == some line

/-- Whether an operation must let a persistent request of another core of its die pass: the home serves the oldest one
of a line first. -/
def State.passed (s : State) (o : Op) : Bool :=
  match s.opLine o with
  | none => false
  | some line =>
    match s.sto.persistent.find? fun p => p.1 == line && dieOfCore p.2 == dieOfCore o.core && s.asks p.2 line with
    | some p => p.2 != o.core
    | none => false

/-- PERSISTENT_REQUEST (R212): a core's miss on a line homed on its own die; it comes 256 clk after the access's issue at the
latest. -/
def execPersistentRequest (core line : Nat) (s : State) : Out :=
  if s.homeOf line / 48 == dieOfCore core && s.asks core line && !s.sto.persistent.contains (line, core) then
    .next (s.updSto fun m => { m with persistent := m.persistent ++ [(line, core)] })
  else .next s

/-- An operation has been served: its core's persistent request for the line ends. -/
def State.served (s : State) (o : Op) : State :=
  match s.opLine o with
  | none => s
  | some line => s.updSto fun m => { m with persistent := m.persistent.filter fun p => p != (line, o.core) }

/-! Landing (R182, R183, R246). -/

/-- An operation has completed: the lines that it has moved are charged, but for those that another of its access has yet to
complete (R450). -/
def State.dropOp (s : State) (o : Op) : State :=
  let rest := s.fly.ops.filter fun x => x.id ≠ o.id
  let own := o.moves.filter fun l => !(rest.any fun x => x.batch == o.batch && x.moves.contains l)
  ((s.updFly fun f => { f with ops := rest }).chargeLines (s.launchOf o.thread).ctx o.core own).sampled o.batch

/-- The registers that a value or a failure fills. -/
def fillRegs (words : Nat) (val : Except Failure Dword) : List Reg :=
  match val with
  | .ok x => ([lo32 x, hi32 x].take words).map Reg.full
  | .error f => List.replicate words (.failed f)

/-- A value, a failure or a counted access lands in registers; what is counted is then performed. -/
def State.landFill (s : State) (o : Op) (dst : Opnd) (words : Nat) (val : Except Failure Dword) (ctr : Option Ctr) : State :=
  let s1 := s.landRegs o.thread o.id dst (fillRegs words val)
  match ctr with
  | some c => s1.setOp o.id (.done c none)
  | none => s1.dropOp o

/-- Lands a load, a waiting scratchpad read, a gathered element or a take (R182, R219, R261, R343). -/
def State.landOp (s : State) (o : Op) : State :=
  match o.kind with
  | .fill dst words val ctr => if s.passed o then s else (s.served o).landFill o dst words val ctr
  | .wait dst words addr len sext view =>
    let m := s.teamOf o.thread
    if s.mustWait m addr len then s
    else
      let at_ := (s.team m).addr addr
      let val := match s.seenWith view o.core (.spad at_) len .clu with
        | some bs => Except.ok (extendBytes sext (mapFrom (fun i b => (look o.got (addr + i)).getD b) 0 bs))
        | none => .error ⟨5, 6, BitVec.ofNat 64 addr, 1, o.pc⟩
      s.landFill o dst words val none
  | .gather val at_ =>
    match val with
    | .ok bs => (s.writeSpad at_ bs).setOp o.id (.done .gx none)
    | .error f => s.setOp o.id (.done .gx (some f))
  | .take _ _ slot _ _ _ =>
    let m := s.teamOf o.thread
    if (s.slot m slot).state = 1 then s else s.takeSlot m slot o.batch
  | _ => s

/-- Whether a load must wait: for a bank group of its weight store (R229). -/
def Op.heldAt (o : Op) (s : State) : Bool :=
  match o.kind with
  | .load _ _ (.ws a) _ _ _ _ _ _ => s.wsHeld a
  | _ => false

/-- LOAD_VALUE_LANDS (R182): a load that has not been performed is, and its value lands. What an LDS reads that waits on a
window which is unbound or bound anew before its bytes land is left open. DESIGN CHOICE (log 25, unsafe): the bytes that
stand there, or a wait on the new binding without a touch of it. -/
def execLoadValueLands (op : Nat) (s : State) : Out :=
  match s.op op with
  | some o =>
    if o.heldAt s || (o.isLoad && s.passed o) then .next s
    else
      let s1 := s.sampleLoads fun x => x.id == op
      match s1.op op with
      | some o => .next (s1.landOp o)
      | none => .next s1
  | none => .next s

/-- The value that an atomic writes (R263, R264): operator 7 is compare-and-swap. -/
def atomicNew (aop : Nat) (ty : ATy) (old x c : Dword) : Dword :=
  let w := 8 * atyBytes ty
  let a := old.toNat % 2 ^ w
  let b := x.toNat % 2 ^ w
  let less := match ty with
    | .i32 => decide ((BitVec.ofNat 32 a).toInt ≤ (BitVec.ofNat 32 b).toInt)
    | .i64 => decide ((BitVec.ofNat 64 a).toInt ≤ (BitVec.ofNat 64 b).toInt)
    | _ => decide (a ≤ b)
  let n := match aop with
    | 0 => (a + b) % 2 ^ w
    | 1 => a &&& b
    | 2 => a ||| b
    | 3 => a ^^^ b
    | 4 => b
    | 5 => if less then a else b
    | 6 => if less then b else a
    | _ => if a = c.toNat % 2 ^ w then b else a
  BitVec.ofNat 64 n

/-- Whether an atomic writes: compare-and-swap does where the comparand matches (R264). -/
def atomicWrites (aop : Nat) (ty : ATy) (old c : Dword) : Bool :=
  let w := 8 * atyBytes ty
  aop != 7 || old.toNat % 2 ^ w == c.toNat % 2 ^ w

/-- The place and bytes that a store or atomic in flight writes. -/
def Op.target (o : Op) : Option (Place × Nat) :=
  match o.kind with
  | .store q bs _ _ => some (q, bs.length)
  | .atomic q _ ty _ _ _ _ _ => some (q, atyBytes ty)
  | _ => none

/-- Whether two places lie in one line. -/
def Place.sameLine (p q : Place) : Bool :=
  match p, q with
  | .mem a, .mem b => a / 128 == b / 128
  | .spad a, .spad b => a / 128 == b / 128
  | _, _ => false

/-- Whether a store or atomic must be performed before a younger one of its core: they share bytes, or they are accesses
of one thread to one line (R215, R234, R238). -/
def Op.before (x o : Op) : Bool :=
  match x.target, o.target with
  | some a, some b => x.core == o.core && (a.1.meets a.2 b.1 b.2 || (x.thread == o.thread && a.1.sameLine b.1))
  | _, _ => false

/-- The operations older than one. -/
def State.olderOps (s : State) (id : Nat) : List Op := s.fly.ops.takeWhile fun o => o.id ≠ id

/-- The stores that are performed with one, as one event: those of its batch where they cover a line (R236). -/
def State.together (s : State) (o : Op) : List Op :=
  let batch := s.fly.ops.filter fun x => x.batch == o.batch && !x.elem &&
    (match x.kind with | .store _ _ _ _ => true | _ => false)
  let as := batch.filterMap fun x =>
    match x.target with
    | some (.mem a, n) => some ({ p := (0, x.thread), va := x.va, at_ := .mem a, len := n } : Acc)
    | _ => none
  if coalesced as && decide (as.length = batch.length) && batch.any (fun x => x.id == o.id) then batch else [o]

/-- Whether a store or atomic can be performed now. A store behind a waiting scratchpad read of its core stays in the queue
(log 25). -/
def State.performable (s : State) (o : Op) : Bool :=
  (s.together o).all fun x => !s.passed x && !((s.olderOps x.id).any fun y => y.before x) &&
    !(s.fly.ops.any fun y => s.waitsBefore y x)

/-- Stores older than an operation are visible to their core (R238). -/
def State.showOlder (s : State) (o : Op) : State :=
  let ids := (s.olderOps o.id).map Op.id
  s.updFly fun f => { f with ops := f.ops.map fun x =>
    match x.kind with
    | .store q bs _ c => if x.core = o.core ∧ ids.contains x.id then { x with kind := .store q bs true c } else x
    | _ => x }

/-- A store has been performed: its core's copy follows, it is logged where it is watched, its shadow record is set, and it
completes when it is counted (R212, R213, R246, R254, R447). `old` is what its bytes were. -/
def State.storeDone (s : State) (o : Op) (old : List Byte) : State :=
  match o.kind with
  | .store q bs _ counted =>
    let s1 := match q with
      | .mem a => (((s.patchVisitor o.core a bs).watched o.thread o.pc o.va old bs).shadowWrite (s.teamOf o.thread) o.va a).noteToken
          o.core (a / 128)
      | _ => s
    if counted then s1.setOp o.id (.done .st none) else s1.dropOp o
  | _ => s

/-- The bytes at a store's place. -/
def State.oldBytes (s : State) (o : Op) : List Byte :=
  match o.target with
  | some (.mem a, n) => s.memBytes a n
  | some (.spad a, n) => readCells s.sto.spad a n
  | _ => []

/-- Before a core's store or atomic writes a range, the core's loads that come before it in the core's order read their bytes
there (R234, R238). -/
def State.readFirst (s : State) (core id : Nat) (p : Place) (n : Nat) : State :=
  s.sampleLoads fun x => x.core == core && x.readsWithout id p n

/-- A performed store is in memory, and no longer a queued one that loads see. -/
def State.unview (s : State) (id : Nat) : State :=
  let drop := fun (l : List Nat) => l.filter (· ≠ id)
  s.updFly fun f => { f with ops := f.ops.map fun x =>
    match x.kind with
    | .load d w q n e c sc sp view => { x with kind := .load d w q n e c sc sp (drop view) }
    | .wait d w a n e view => { x with kind := .wait d w a n e (drop view) }
    | _ => x }

/-- Stores that form one event are performed: one write at the home (R234, R236). -/
def State.performStores (s : State) (os : List Op) : State :=
  let cells := (os.map fun o =>
    match o.kind with
    | .store q bs _ _ => mapFrom (fun i b => (q.add i, b)) 0 bs
    | _ => []).flatten
  let key := fun (c : Place × Byte) => match c.1 with | .mem a => a | .spad a => a | _ => 0
  let s0 := os.foldl (fun s o =>
    match o.target with
    | some x => s.readFirst o.core o.id x.1 x.2
    | none => s) s
  let s1 := (runsOf (sortBy key cells)).foldl (fun s r => s.writeAt r.1 r.2) s0
  (os.map fun o => (o, s.oldBytes o)).foldl (fun r x => (r.storeDone x.1 x.2).unview x.1.id) s1

/-- An atomic is performed at its home as one event (R235, R263, R264). -/
def State.performAtomic (s : State) (o : Op) : State :=
  match o.kind with
  | .atomic (.mem a) aop ty x c dst ret acq =>
    let n := atyBytes ty
    match s.readPhys a n with
    | none =>
      let f : Failure := ⟨5, 6, BitVec.ofNat 64 o.va, 3, o.pc⟩
      if ret then s.setOp o.id (.fill dst (atyWords ty) (.error f) none) else s.setOp o.id (.done .st (some f))
    | some old =>
      let v := BitVec.ofNat 64 (bytesVal old)
      let new := valBytes n (atomicNew aop ty v x c).toNat
      let s0 := s.readFirst o.core o.id (.mem a) n
      let s1 := if atomicWrites aop ty v c then
          (((s0.writePhys a new).patchVisitor o.core a new).watched o.thread o.pc o.va old new).shadowWrite
            (s.teamOf o.thread) o.va a
        else s0.noteVisitor o.core (a / 128) .dev
      let s2 := match acq with | some sc => s1.acquire o.core sc | none => s1
      if ret then s2.setOp o.id (.fill dst (atyWords ty) (.ok v) none) else s2.setOp o.id (.done .st none)
  | _ => s

/-- A store or atomic is performed (R246). -/
def State.perform (s : State) (o : Op) : State :=
  let s1 := (s.served o).showOlder o
  match o.kind with
  | .store _ _ _ _ => s1.performStores (s1.together o)
  | .atomic _ _ _ _ _ _ _ _ => s1.performAtomic o
  | _ => s

/-- STORE_PERFORMED (R246). -/
def execStorePerformed (op : Nat) (s : State) : Out :=
  match s.op op with
  | some o => if o.target.isSome && s.performable o then .next (s.perform o) else .next s
  | none => .next s

/-- COUNTED_OP_COMPLETE (R180, R181): the counter falls, copies of the lines that a flush or MSTORE has written leave the thread's L1,
as its later accesses come after those writes (R244, R246), and an error is held for the thread, or goes to the fault queue
when the thread has exited. -/
def execCountedOpComplete (op : Nat) (s : State) : Out :=
  match s.op op with
  | some o =>
    match o.kind with
    | .done c err =>
      let own := (s.thr o.thread).core
      let s1 := ((s.updThr o.thread fun x => x.decCtr c o.id).dropOp o).updSto fun m => { m with
        visitors := m.visitors.filter fun v => !(v.core == own && o.lines.contains v.line) }
      match err with
      | some f => .next (s1.holdError o.thread ⟨c, f, o.id⟩)
      | none => .next s1
    | .parts _ _ _ _ => .next (s.partsDone o)
    | _ => .next s
  | none => .next s

end Sys2Proof.Machine
end

