-- ==== Sys2Proof/Machine/EvCopy.lean ====
section
/-!
DEFINITION. Events of the copy engines (R218 to R225) and of the weight stores' refresh (R227 to R229).
-/

namespace Sys2Proof.Machine

/-- A fill or flush of a copy engine, by its number. -/
def State.job (s : State) (id : Nat) : Option Job := s.fly.jobs.find? fun j => j.id == id

/-- FILL_ENTERS_QUEUE (R220): a waiting fill takes a place of its cluster's copy queue, its SEQ, and its destinations. -/
def execFillEntersQueue (job : Nat) (s : State) : Out :=
  match s.job job with
  | some j => if j.flush.isNone && !j.queued && !s.copyFull j.cluster then .next (s.enterQueue j) else .next s
  | none => .next s

/-- FILL_BEAT_LANDS (R219, R221, R223): bytes of the eight around an offset land, or the fill fails; the touched bytes are
fetched first. -/
def execFillBeatLands (job off : Nat) (s : State) : Out :=
  match s.job job with
  | some j =>
    let early := j.first.any fun o => s.lacks j o
    if j.flush.isNone && j.queued && decide (off < (region j.desc).size) && s.lacks j off &&
        (!early || j.first.any fun o => o / 8 == off / 8 && s.lacks j o) then .next (s.beat j off)
    else .next s
  | none => .next s

/-- FILL_STAMP_WRITE (R221, R222): the stamp of a destination all of whose bytes have landed. -/
def execFillStampWrite (job dest : Nat) (s : State) : Out :=
  match s.job job with
  | some j => if j.flush.isNone && j.queued then .next (s.stampDest j dest) else .next s
  | none => .next s

/-- FLUSH_BEGIN (R225): a flush begins once its destination is present; when the fill it waited for has failed, it is not
performed, and its stamp carries status 01. -/
def execFlushBegin (job : Nat) (s : State) : Out :=
  match s.job job with
  | some j =>
    match j.flush with
    | none => .next s
    | some i =>
      if j.begun then .next s
      else
        match (((s.entry j.team j.entry).dests[i]?).getD {}).state with
        | .present => .next (s.updFly fun f => { f with jobs := f.jobs.map fun x =>
            if x.id = j.id then { x with begun := true } else x })
        | .absent =>
          match (region j.desc).dests[i]? with
          | some p => .next ((s.writeSpad (j.addr p.2.2) (stampBytes 1 j.seq)).endJob j none)
          | none => .next s
        | _ => .next s
  | none => .next s

/-- FLUSH_COMPLETE (R225): bytes are written, and after the last of them the stamp. -/
def execFlushComplete (job : Nat) (s : State) : Out :=
  match s.job job with
  | some j =>
    match j.flush with
    | some i => if j.begun then .next (s.doFlush j i) else .next s
    | none => .next s
  | none => .next s

/-! The weight stores (R228, R229). -/

/-- A die. -/
def State.die (s : State) (d : Nat) : Die := (s.dies[d]?).getD {}

/-- Changes a die. -/
def State.updDie (s : State) (d : Nat) (f : Die → Die) : State := { s with dies := upd s.dies d f }

/-- The length of a slot of the frame, as wall time (R228). -/
def Die.slotLen (d : Die) : Nat := (if d.hot then 2000 else 4000) * wallNs

/-- The time a bank group is unavailable, as wall time (R228). -/
def busyLen : Nat := 1200 * wallNs

/-- Adds to a counter of a die (R479). -/
def State.countDie (s : State) (d k n : Nat) : State :=
  s.updDie d fun x => { x with counts := upd x.counts k fun c => satAdd (2 ^ 64 - 1) c n }

/-- Whether a die's next slot is due. -/
def State.slotDue (s : State) (d : Nat) : Bool := decide ((s.die d).slotLen ≤ s.wall - (s.die d).origin)

/-- WS_REFRESH_SLOT (R228): the next slot of the frame begins and its bank group becomes unavailable. -/
def execWsRefreshSlot (die : Nat) (s : State) : Out :=
  if s.slotDue die then
    .next (s.updDie die fun d => { d with
      origin := d.origin + d.slotLen, slot := (d.slot + 1) % 16, frames := if d.slot = 15 then d.frames + 1 else d.frames,
      busy := true })
  else .next s

/-- Whether a bank group's unavailability is over. -/
def State.busyDue (s : State) (d : Nat) : Bool := (s.die d).busy && decide (busyLen ≤ s.wall - (s.die d).origin)

/-- WS_REFRESH_BUSY_END (R228, R229). -/
def execWsRefreshBusyEnd (die : Nat) (s : State) : Out :=
  if s.busyDue die then .next (s.updDie die fun d => { d with busy := false }) else .next s

/-- WS_EMERGENCY_REFRESH (R229, R479): a bank group of the free choice is held for up to 1.2 µs more; the counter shows it,
sr.wsframe does not. -/
def execWsEmergencyRefresh (die : Nat) (s : State) : Out :=
  .next ((s.countDie die 9 1).updDie die fun d => { d with extra := some (s.pick 0 16, s.wall + busyLen) })

/-- Whether a team is placed on a die. -/
def State.teamOnDie (s : State) (d : Nat) : Bool :=
  s.teams.any fun (t : Team) => (t.life == .placed || t.life == .saving) && t.cluster / 6 == d

/-- WS_FRAME_KIND_CHANGE (R228): the device wants the other kind, from when on no team is placed on the die; once none
is, the kind changes. The slot under way goes on under the new length (log 31). The hot frame is chosen only where it has
been accepted (R436). -/
def execWsFrameKindChange (die : Nat) (s : State) : Out :=
  match (s.die die).wantHot with
  | none =>
    if (s.die die).hot || s.feature 5 then .next (s.updDie die fun d => { d with wantHot := some (!d.hot) }) else .next s
  | some h => if s.teamOnDie die then .next s else .next (s.updDie die fun d => { d with hot := h, wantHot := none })

end Sys2Proof.Machine
end

