-- ==== Sys2Proof/Machine/EvMatrix.lean ====
section
/-!
DEFINITION. Events of the matrix engines (R277, R285, R293, R299, R312).
-/

namespace Sys2Proof.Machine

/-- The site that serves a logical core. -/
def State.coreSiteOf (s : State) (core : Nat) : Nat := (s.health.coreSite[core]?).getD (core / 6 * 7 + core % 6)

/-- The site of a logical engine (R470). -/
def State.engineSiteOf (s : State) (eng : Nat) : Nat := 4 * s.coreSiteOf (eng / 4) + eng % 4

/-- MATRIX_OP_START (R285): the oldest operation takes its engine once its operands are present. -/
def execMatrixOpStart (eng : Nat) (s : State) : Out :=
  match s.headMop eng with
  | some o => .next ((s.startMop eng).settleResv o.team o.res)
  | none => .next s

/-- MATRIX_OP_COMPLETE (R285). -/
def execMatrixOpComplete (eng : Nat) (s : State) : Out :=
  match s.headMop eng with
  | some o => if o.started && o.susp.isNone then .next ((s.completeMop o).settleResv o.team o.res) else .next s
  | none => .next s

/-- PAIR_WINDOW_CLOSE (R299): a window that has run 4,096 clk, while its team is placed and not held. A complete register
whose issue had to wait for room on ctr.mx issues too (R312). -/
def execPairWindowClose (grp k : Nat) (s : State) : Out :=
  let c := s.conv grp k
  if s.paused (s.grp grp).team then .next s
  else if c.declared && decide (c.left = 0) then .next (s.soloIssue grp k)
  else
    if s.windowShut (s.grp grp).team c && !s.paused (s.grp grp).team then .next (s.closeWindow grp k) else .next s

/-- An operation in flight on an engine that is fenced ends with an engine-failure error (R277); MSTAT and MREL act. -/
def State.fenceMop (s : State) (o : MOp) : State :=
  match o.kind with
  | .stat _ _ => s
  | .rel => s
  | .drainReg t d _ _ =>
    (s.landRegs t o.id (.v d) (List.replicate 16 (.failed ⟨10, 0x0B01, 0, 9, o.pc⟩))).dropMop o.id
  | _ => s.endMop o (some ⟨10, 0x0B01, 0, 9, o.pc⟩)

/-- Fences an engine (R277): what is in flight on it ends, and its accumulators fail. -/
def State.fenceEngine (s : State) (eng : Nat) : State :=
  if s.engineFenced eng then s
  else
    let s1 := { s with health := { s.health with
      fencedEngines := s.health.fencedEngines ++ [eng], fencedSites := s.health.fencedSites ++ [s.engineSiteOf eng],
      stale := true } }
    let s2 := (s1.fly.mops.filter fun o => o.eng == eng).foldl State.fenceMop s1
    let owners := (mapFrom (fun m (t : Team) => (mapFrom (fun r (x : Resv) => (m, r, x)) 0 t.resvs)) 0 s2.teams).flatten.filter
      fun x => x.2.2.held && x.2.2.eng == eng
    owners.foldl (fun s x => (List.range 4).foldl (fun s k => s.failAcc x.1 x.2.1 k) s) s2

end Sys2Proof.Machine
end

