-- ==== Sys2Proof/Machine/EvTree.lean ====
section
/-!
DEFINITION. Events of the sum trees (R322, R325 to R330).
-/

namespace Sys2Proof.Machine

/-- A tree node in flight or held, by its number. -/
def State.node (s : State) (id : Nat) : Option TreeNode := s.fly.nodes.find? fun x => x.id == id

/-- A node that waits for room keeps the time from which it has waited (R328). -/
def State.stillWaiting (s : State) (x : TreeNode) : State :=
  s.updFly fun f => { f with nodes := f.nodes.map fun y =>
    match y.place with
    | .waiting _ => if y.id = x.id then { y with since := x.since } else y
    | _ => y }

/-- Whether the port refuses a contribution that has not been taken yet: its list entry's grant lacks the write right (R332, R433). -/
def State.portRefuses (s : State) (x : TreeNode) : Bool :=
  x.origin.isSome &&
  (match (s.treeSet x.ctx x.handle).bind fun t => s.goalHome t x with
    | some d => !d.1.getLsbD 37
    | none => false)

/-- RICK_NODE_ARRIVAL (R325): a node on its way arrives at a core rick, a port rick or its slice, or one that waits there
is tried again. A node that its port refuses is discarded; one that has not been taken yet ends in an error (R332). -/
def execRickNodeArrival (node : Nat) (s : State) : Out :=
  match s.node node with
  | none => .next s
  | some x =>
    match x.place with
    | .toCore c => .next ((s.liftNode x).arriveAt x (.coreRick c))
    | .toPort p =>
      if s.portRefuses x then .next ((s.liftNode x).refuseNode x)
      else .next ((s.liftNode x).arriveAt x (.portRick p))
    | .toSlice k => .next ((s.liftNode x).arriveAt x (.sliceRick k))
    | .waiting k => .next (((s.liftNode x).arriveAt x (.sliceRick k)).stillWaiting x)
    | .early k => if s.early x then .next s else .next ((s.liftNode x).arriveAt x (.sliceRick k))
    | _ => .next s

/-- TREE_STAMP_WRITE (R329): the stamp of an element whose state has been decided. -/
def execTreeStampWrite (elem : Nat) (s : State) : Out :=
  match s.fly.elems[elem]? with
  | none => .next s
  | some e =>
    match s.treeSet e.ctx e.handle with
    | none => .next s
    | some t =>
      if e.stamped || t.seq != e.seq then .next s
      else
        let s1 := s.updFly fun f => { f with elems := upd f.elems elem fun x => { x with stamped := true } }
        .next (s1.writeStamp (s1.ctx e.ctx) (t.stamp.toNat + 8 * e.elem) 2 (stampBytes e.status e.seq))

/-- CORE_RICK_TIMEOUT (R326, R328): a node held 64 clk in a core rick is forwarded, unless others wait at its slice. -/
def execCoreRickTimeout (node : Nat) (s : State) : Out :=
  match s.node node with
  | none => .next s
  | some x =>
    match x.place, s.treeSet x.ctx x.handle with
    | .coreRick _, some t =>
      if x.since + 64 ≤ s.clk ∧ s.behind t x = false then .next ((s.liftNode x).sendOn t x) else .next s
    | _, _ => .next s

/-- PORT_RICK_TIMEOUT (R326): a node held 256 clk in a port rick goes on. -/
def execPortRickTimeout (node : Nat) (s : State) : Out :=
  match s.node node with
  | none => .next s
  | some x =>
    match x.place, s.treeSet x.ctx x.handle with
    | .portRick _, some t => if x.since + 256 ≤ s.clk then .next ((s.liftNode x).leavePort t x) else .next s
    | _, _ => .next s

/-- NODE_WAIT_TIMEOUT (R328): a node that has waited 1 ms fails its element with cause 2; an original contribution
completes with a spill-exhausted error. -/
def execNodeWaitTimeout (node : Nat) (s : State) : Out :=
  match s.node node with
  | none => .next s
  | some x =>
    match x.place with
    | .waiting _ =>
      if x.since + 1000000 * wallNs ≤ s.wall then
        let f : Option Failure := x.origin.map fun o => ⟨10, 0x0B02, 0, 0, o.2⟩
        .next (((s.liftNode x).settle x f).failElem x 2)
      else .next s
    | _ => .next s

end Sys2Proof.Machine
end

