-- ==== Sys2Proof/Machine/EvPush.lean ====
section
/-!
DEFINITION. Events of standing loads (R336, R340 to R347, R415): pushes, answers, fills, acknowledgements and ends. What
the home of a peer line answers and pushes is the other device's: free values (log 8).
-/

namespace Sys2Proof.Machine

/-- A push in flight, by its number. -/
def State.pushAt (s : State) (id : Nat) : Option Push := s.fly.pushes.find? fun p => p.id == id

/-- A push has arrived. -/
def State.dropPush (s : State) (p : Push) : State :=
  s.updFly fun f => { f with pushes := f.pushes.filter fun x => x.id ≠ p.id }

/-- Whether a push is the oldest one on its way to its slot (R341, R344, R426). -/
def State.firstPush (s : State) (p : Push) : Bool :=
  match s.fly.pushes.find? fun x => x.team == p.team && x.slot == p.slot && x.dev == p.dev && x.body != .unsub with
  | some x => x.id == p.id
  | none => false

/-- Sends something to each of a line's subscribers. -/
def State.sendAll (s : State) (subs : List Sub) (body : PushBody) : State :=
  subs.foldl (fun s x =>
    (s.updFly fun f => { f with pushes := f.pushes ++
      [⟨s.nextId, x.id, x.team, x.slot, x.dev, body, none, 0, 0, none, s.wall⟩] }).takeId) s

/-- The highest sequence number that subscribers of a line have or will get. -/
def State.lastSeq (s : State) (subs : List Sub) : Nat :=
  let held := subs.map fun x => ((s.slot x.team x.slot).seqs.map Prod.fst).foldl max 0
  let sent := s.fly.pushes.map fun p =>
    match p.body with
    | .data q _ => if subs.any fun x => x.id == p.sub then q else 0
    | .fill q _ _ => if subs.any fun x => x.id == p.sub then q else 0
    | _ => 0
  (held ++ sent).foldl max 0

/-- Whether a write number comes after another (R337): they are compared modulo 2^48. -/
def newerSeq (a b : Nat) : Bool :=
  let d := (a + 2 ^ 48 - b % 2 ^ 48) % 2 ^ 48
  decide (1 ≤ d) && decide (d < 2 ^ 47)

/-- PUSH_SEND (R341, R345): the home of a line sends the push that is due, with the line as it stands and the number of
the last write, to every subscriber whose fill is older; uncorrectable data ends the subscriptions. The other device sends the push of a
peer line, or the end of its subscriptions with a fence of its home slice or bad data there, as it happens. -/
def execPushSend (line : Nat) (s : State) : Out :=
  let subs := s.fly.subs.filter fun x => x.line == line
  if 2 ^ 60 ≤ line then
    if subs = [] then .next s
    else
      let bytes := (List.range 128).map fun i => Config.freeByte s.fresh i
      let finish := fun (st cause : Nat) => (s.sendAll subs (.final st cause)).dropSub fun x => x.line == line
      .next (match s.pick 1 4 with
        | 1 => finish 5 5
        | 2 => finish 6 4
        | _ => s.sendAll subs (.data ((s.lastSeq subs + 1 + (Config.freeWord s.fresh 0).toNat % 2 ^ 16) % 2 ^ 48) bytes))
  else
    match s.fly.dirty.find? fun d => d.line == line with
    | none => .next s
    | some d =>
      let s1 := s.updFly fun f => { f with dirty := f.dirty.filter fun x => x.line ≠ line }
      match s1.readPhys (line * 128) 128 with
      | some bs => .next (s1.sendAll (subs.filter fun x => newerSeq d.seq x.start) (.data d.seq bs))
      | none => .next ((s1.sendAll subs (.final 6 4)).dropSub fun x => x.line == line)

/-- The parked slot that a push meets (R347). -/
def State.parkedAt (s : State) (p : Push) : Option ParkedSlot :=
  s.fly.parkedSlots.find? fun z => z.team == p.team && z.slot == p.slot

/-- The context of a team. -/
def State.ctxOfTeam (s : State) (m : Nat) : Context := s.ctx (s.launch (s.team m).launch).ctx

/-- A push lands in a parking line (R347): only the latest stays, with the count of the pushes there; one whose parking line does not
translate is lost. -/
def State.landParked (s : State) (z : ParkedSlot) (q : Nat) (bs : List Byte) : State :=
  let c := s.ctxOfTeam z.team
  let va := z.image.toNat + 576
  if ((s.spans c va 144 2).map fun x => x.2.1).foldl (· + ·) 0 = 144 then
    (s.vput c va (bs ++ valBytes 8 (q % 2 ^ 48) ++ valBytes 8 (z.count + 1))).updFly fun f => { f with
      parkedSlots := f.parkedSlots.map fun y =>
        if y.team = z.team ∧ y.slot = z.slot then { y with count := y.count + 1 } else y }
  else s

/-- The end of a subscription reaches a slot (R345). -/
def Slot.ended (x : Slot) (state cause : Nat) : Slot := { x with state := state, cause := cause }

/-- Changes eight bytes of a parked slot's image. -/
def State.updImage (s : State) (z : ParkedSlot) (off : Nat) (f : Nat → Nat) : State :=
  let c := s.ctxOfTeam z.team
  match s.vread c (z.image.toNat + off) 8 with
  | .error _ => s
  | .ok bs => (s.vwrite c (z.image.toNat + off) (valBytes 8 (f (bytesVal bs)))).getD s

/-- The end of a subscription reaches a parked slot: the headers of its entries in the image say so. -/
def State.endParked (s : State) (z : ParkedSlot) (state cause : Nat) : State :=
  let ring := match s.vread (s.ctxOfTeam z.team) (z.image.toNat + 128) 8 with
    | .ok bs => bit (bytesVal bs) 60
    | .error _ => false
  let s1 := (List.range (if ring then 4 else 1)).foldl (fun s e =>
    s.updImage z (144 * e + 128) fun h => h - bits h 56 4 * 2 ^ 56 + state * 2 ^ 56) s
  s1.updImage z 136 fun h => h - bits h 56 3 * 2 ^ 56 + cause * 2 ^ 56

/-- The device that a subscription of this device to a peer line depends on. -/
def State.subHome (s : State) (x : Sub) : Option Nat :=
  if 2 ^ 60 ≤ x.line then (s.peerOf (s.ctx x.ctx) ((x.line - 2 ^ 60) / 2 ^ 40)).map fun q => q.2.1 else none

/-- Whether a push comes from a device whose traffic is dropped for now (R432): the device sends it again. -/
def State.pushDropped (s : State) (p : Push) : Bool :=
  p.dev.isNone && s.fly.subs.any fun x => x.id == p.sub && (s.subHome x).elim false s.dropsFrom

/-- Stores of the share that are under way and meet a slot: those that a push to it races with, by a free choice (R224, R237, R338). -/
def State.racing (s : State) (m slot : Nat) : List Op :=
  s.fly.ops.filter fun o => s.pick (2 ^ 42 + o.id) 2 == 1 &&
    (match o.kind with
      | .store (.spad a) bs _ _ => meets a bs.length (s.slotAddr m slot 0) 576
      | _ => false)

/-- A push lands in a slot (R340). A byte that a store under way writes too ends with the value of one of them, chosen byte by byte
(R338). -/
def State.landSlot (s : State) (m slot q : Nat) (bs : List Byte) : State :=
  let r := (s.racing m slot).foldl (fun (r : State × List (Nat × Byte)) o =>
    match (r.1.op o.id).filter r.1.performable with
    | some x =>
      (match x.kind with
        | .store (.spad a) new _ _ => (r.1.perform x, r.2 ++ mapFrom (fun i b => (a + i, b)) 0 new)
        | _ => r)
    | none => r) (s, [])
  r.2.foldl (fun s x => if s.pick x.1 2 = 1 then s.writeSpad x.1 [x.2] else s) (r.1.landPush m slot q bs)

/-- PUSH_LANDS (R340, R345, R347): the oldest push of its slot lands there, or in its parking line. A push to another
device leaves. -/
def execPushLands (push : Nat) (s : State) : Out :=
  match s.pushAt push with
  | none => .next s
  | some p =>
    if !s.firstPush p || s.pushDropped p then .next s
    else
      match p.dev, p.body with
      | some _, _ => .next (s.dropPush p)
      | none, .data q bs =>
        let s1 := s.dropPush p
        match s1.parkedAt p with
        | some z => .next (s1.landParked z q bs)
        | none =>
          let st := (s1.slot p.team p.slot).state
          if st = 2 ∨ st = 4 then .next (s1.landSlot p.team p.slot q bs) else .next s1
      | none, .final st cause =>
        let s1 := s.dropPush p
        match s1.parkedAt p with
        | some z => .next (s1.endParked z st cause)
        | none => .next (s1.updSlot p.team p.slot fun x => x.ended st cause)
      | none, _ => .next s

/-! SLOAD (R342). -/

/-- The subscriptions that SLOAD may make at a slice: its 4,096 entries but those set aside for watches (R336, R374). -/
def sliceEntries : Nat := 4064

/-- Whether a home's subscription table is full. -/
def State.tableFull (s : State) (line : Nat) : Bool :=
  let k := s.homeOf line
  decide (sliceEntries ≤ (s.fly.subs.filter fun x => decide (x.line < 2 ^ 60) && s.homeOf x.line == k).length)

/-- The answer of a home, and what then lands in the slot: `none` for no subscription. -/
def State.answer (s : State) (r : SloadReq) (line : Option Nat) (body : PushBody) (err : Option Failure) : State :=
  let m := s.launch (s.team r.team).launch
  let sub : List Sub := match line with
    | some l => [⟨r.id, l, m.ctx, r.team, r.slot, none, 0, (match body with | .fill q _ _ => q | _ => 0)⟩]
    | none => []
  let p : Push := ⟨r.id, r.id, r.team, r.slot, none, body, some r.thread, r.pc, r.va, err, s.wall⟩
  s.updFly fun f => { f with
    subs := f.subs ++ sub,
    pushes := f.pushes ++ [p],
    reqs := f.reqs.map fun x => if x.id = r.id then { x with answer := some line.isSome } else x }

/-- SLOAD_ANSWER (R342, R345): the home registers the subscription and reads the fill as one step, or says why not. The home of a peer
line does so on its device, and its answer has come over the fabric (R425); what the slot holds when none has come for 2 ms is not
said: DESIGN CHOICE (log 52), STATE 5 and CAUSE 3, with error 0x0B03 held on ctr.gx. -/
def execSloadAnswer (req : Nat) (s : State) : Out :=
  match s.fly.reqs.find? fun r => r.id == req && r.answer.isNone with
  | none => .next s
  | some r =>
    let bad := s.answer r none (.bad 6 4) (some ⟨5, 6, r.va, 1, r.pc⟩)
    let refused := s.answer r none (.bad 6 1) (some ⟨5, 5, r.va, 1, r.pc⟩)
    match r.line with
    | .mem pa =>
      match s.readPhys pa 128 with
      | none => .next bad
      | some bs =>
        let q := s.lineSeq (pa / 128)
        if s.tableFull (pa / 128) then .next (s.answer r none (.fill q bs 3) none)
        else .next (s.answer r (some (pa / 128)) (.fill q bs 2) none)
    | .peer e off =>
      match s.peerAnswer (.sload r.id) with
      | none => .next s
      | some x =>
        let t := s.dropRead (.sload r.id)
        match x with
        | .ok bs =>
          let q := bytesVal ((bs.drop 128).take 8) % 2 ^ 48
          .next (if bytesVal (bs.drop 136) = 1 then
              t.answer r (some (2 ^ 60 + e * 2 ^ 40 + off / 128)) (.fill q (bs.take 128) 2) none
            else t.answer r none (.fill q (bs.take 128) 3) none)
        | .error (5, 6) => .next (t.answer r none (.bad 6 4) (some ⟨5, 6, r.va, 1, r.pc⟩))
        | .error (5, _) => .next (t.answer r none (.bad 6 1) (some ⟨5, 5, r.va, 1, r.pc⟩))
        | .error z => .next (t.answer r none (.bad 5 3) (some ⟨z.1, z.2, r.va, 1, r.pc⟩))
    | _ => .next refused

/-- A counted request of a thread ends (R180, R181). -/
def State.settlePush (s : State) (p : Push) (c : Ctr) : State :=
  match p.thread with
  | none => s
  | some t =>
    let s1 := s.updThr t fun x => x.decCtr c p.id
    match p.err with
    | some f => s1.holdError t ⟨c, f, p.id⟩
    | none => s1

/-- SLOAD_FILL_LANDS (R342, R347): the slot's first push lands, there or in its parking line, and ctr.gx falls. -/
def execSloadFillLands (req : Nat) (s : State) : Out :=
  match s.pushAt req with
  | none => .next s
  | some p =>
    if !s.firstPush p || s.pushDropped p then .next s
    else
      match p.body with
      | .fill q bs st =>
        let s1 := s.dropPush p
        .next ((match s1.parkedAt p with
          | some z => (s1.landParked z q bs).endParked z st 0
          | none => (s1.landSlot p.team p.slot q bs).updSlot p.team p.slot fun x => { x with state := st }).settlePush p .gx)
      | .bad st cause =>
        let s1 := s.dropPush p
        .next ((match s1.parkedAt p with
          | some z => s1.endParked z st cause
          | none => s1.updSlot p.team p.slot fun x => x.ended st cause).settlePush p .gx)
      | _ => .next s

/-- UNSUB_ACK_LANDS (R344): the home removes the entry and sends the acknowledgement behind every push already sent; when
that lands, the slot is idle. -/
def execUnsubAckLands (req : Nat) (s : State) : Out :=
  match s.pushAt req with
  | none => .next s
  | some p =>
    match p.body with
    | .unsub =>
      let gone := fun (s : State) (err : Option Failure) => ((s.dropPush p).dropSub fun x => x.id == p.sub).updFly fun f =>
        { f with pushes := f.pushes ++ [{ p with body := .ack, err := err }] }
      if s.fly.reads.any fun r => r.who == .unsub p.id then
        match s.peerAnswer (.unsub p.id) with
        | none => .next s
        | some (.ok _) => .next (gone (s.dropRead (.unsub p.id)) none)
        | some (.error x) => .next (gone (s.dropRead (.unsub p.id)) (some ⟨x.1, x.2, BitVec.ofNat 64 p.slot, 2, p.pc⟩))
      else .next (gone s none)
    | .ack =>
      let s1 := s.dropPush p
      if s.firstPush p then
        .next ((match s1.parkedAt p with
          | some z => s1.endParked z 0 0
          | none => s1.updSlot p.team p.slot fun x => { x with state := 0 }).settlePush p .st)
      else .next s
    | _ => .next s

/-! Ends (R345). -/

/-- Whether a token has expired on this device's clock (R430, R432). -/
def State.tokenExpired (s : State) (token : Dword) : Bool :=
  let d := (bits token.toNat 4 16 + 2 ^ 16 - s.tms % 2 ^ 16) % 2 ^ 16
  decide (d = 0) || decide (32767 < d)

/-- SUBSCRIPTION_GRANT_EXPIRY (R345): the home removes the entry and sends the final message, behind every push. -/
def execSubscriptionGrantExpiry (sub : Nat) (s : State) : Out :=
  match s.fly.subs.find? fun x => x.id == sub with
  | none => .next s
  | some x =>
    if (x.dev.isSome && s.tokenExpired x.token) || decide (2 ^ 60 ≤ x.line) then
      .next ((s.sendAll [x] (.final 5 2)).dropSub fun y => y.id == x.id)
    else .next s

/-- PUSH_UNDELIVERABLE (R345, R429): once a push between the two devices has been held for 2 ms, this device as home removes the entries of a device it cannot reach; as subscriber,
its port ends every slot subscribed to that device, and writes one record to each context's fault queue. -/
def execPushUndeliverable (dev : Nat) (s : State) : Out :=
  let own := s.fly.subs.filter fun x => s.subHome x == some dev
  let mine := fun (p : Push) => own.any fun x => x.id == p.sub
  let lost := fun (p : Push) => p.dev == some dev || (mine p && (match p.body with | .data _ _ => true | .final _ _ => true | _ => false))
  let held := s.fly.pushes.any fun p => (p.dev == some dev || mine p) && decide (p.since + 2000000 * wallNs ≤ s.wall)
  let ends := fun (p : Push) => match p.body with | .fill _ _ _ => (if mine p then { p with body := .bad 5 3 } else p) | _ => p
  let s1 := (s.dropSub fun x => x.dev == some dev || s.subHome x == some dev).updFly fun f =>
    { f with pushes := (f.pushes.filter fun p => !lost p).map ends }
  let s2 := own.foldl (fun (s : State) (x : Sub) =>
    let p : Push := ⟨0, x.id, x.team, x.slot, none, .final 5 3, none, 0, 0, none, 0⟩
    match s.parkedAt p with
    | some z => s.endParked z 5 3
    | none => s.updSlot x.team x.slot fun y => if y.state = 1 then y else y.ended 5 3) s1
  .next (if held then (dedup (own.map Sub.ctx)).foldl (fun s c => s.fq12 c 6 0 0) s2 else s)

end Sys2Proof.Machine
end

