-- ==== Sys2Proof/Machine/Launch.lean ====
section
/-!
DEFINITION. The dispatcher (file 20): queues, launch records and their checks (R373 to R378), the order between launches
(R253, R380 to R382), where a team fits (R165, R166, R383, R405), placement (R161, R168, R321, R383, R385), pre-emption
(R403) and the end of a launch (R379).
-/

namespace Sys2Proof.Machine

/-! Queues (R373, R374). -/

/-- A queue of a context. -/
def State.queue (s : State) (c q : Nat) : Queue := ((s.ctx c).queues[q]?).getD {}

/-- Changes a queue of a context. -/
def State.updQueue (s : State) (c q : Nat) (f : Queue → Queue) : State :=
  s.updCtx c fun x => { x with queues := upd x.queues q f }

/-- A queue is disabled with a queue-error record, which holds the address that failed, or 0 (R374, R492). -/
def State.queueError (s : State) (c q addr : Nat) : State :=
  (s.updQueue c q fun x => { x with enabled := false, watched := none }).fq12 c 3 addr 0

/-- Reads a queue's tail (R374): a count below HEAD, or too far beyond it, disables the queue. -/
def State.readTail (s : State) (c q : Nat) : State :=
  let x := s.queue c q
  if x.enabled then
    match s.vread (s.ctx c) x.tailAt.toNat 8 with
    | .error e => s.queueError c q e.2.2
    | .ok bs =>
      let t := bytesVal bs
      if t < x.head ∨ x.head + 2 ^ x.log2n < t then s.queueError c q 0
      else s.updQueue c q fun y => { y with tail := t }
  else s

/-! Launch records (R376, R377). -/

/-- A declared range of a record (R376). -/
def rangeOf (bs : List Byte) (k : Nat) : Range :=
  let f := sliceVal bs (136 + 16 * k) 8
  { base := sliceVal bs (128 + 16 * k) 8, len := bits f 0 41, rd := bit f 41, wr := bit f 42, sw := bit f 43,
    dead := bit f 44, pf := bit f 45 }

/-- Whether a range of a record breaks R376. -/
def rangeBad (bs : List Byte) (k : Nat) : Bool :=
  let b := sliceVal bs (128 + 16 * k) 8
  let f := sliceVal bs (136 + 16 * k) 8
  if k < sliceVal bs 28 1 then
    decide (2 ^ 57 ≤ b) || decide (2 ^ 46 ≤ f) || decide (bits f 0 41 = 0) || decide (2 ^ 40 < bits f 0 41) ||
    decide (bits f 41 2 = 0)
  else decide (b ≠ 0) || decide (f ≠ 0)

/-- Whether a tree entry of a record breaks R376. -/
def treeEntryBad (bs : List Byte) (k : Nat) : Bool :=
  let t := sliceVal bs (64 + 4 * k) 4
  if k < sliceVal bs 29 1 then decide (2 ^ 20 ≤ t) else decide (t ≠ 0)

/-- The fields that both kinds of record share (R376, R377). -/
def headOf (bs : List Byte) : LaunchRec :=
  let a := sliceVal bs 56 8
  { entry := BitVec.ofNat 64 (sliceVal bs 0 8), kind := bits (sliceVal bs 8 1) 0 2, prio := bits (sliceVal bs 8 1) 2 2,
    done := BitVec.ofNat 64 (sliceVal bs 48 8), afterEn := bit a 7, afterQ := bits a 0 6, afterIdx := bits a 8 56 }

/-- The issue width that a record's code names (R376). -/
def widthOf (code : Nat) : Nat := if code = 0 then 16 else if code = 1 then 32 else 64

/-- The fields of a kernel record (R376); the fold age limit's default is resolved (R173). -/
def kernelOf (bs : List Byte) : LaunchRec :=
  let v := sliceVal bs
  let q := 256 * v 14 2
  { headOf bs with
    width := widthOf (bits (v 8 1) 4 2), paired := bit (v 8 1) 6, progress := bit (v 8 1) 7, check := bit (v 9 1) 0,
    irq := bit (v 9 1) 1, regp := v 10 1, regc := v 11 1, np := bits (v 12 1) 0 4, nc := bits (v 12 1) 4 4,
    eclass := v 13 1, quantum := q, foldage := if v 16 2 = 0 then min 256 (q / 4) else 16 * v 16 2, threads := v 18 2,
    teams := v 20 4, scratch := v 24 4, spillBase := BitVec.ofNat 64 (v 32 8), spillSize := v 40 8,
    trees := (List.range (v 29 1)).map fun k => v (64 + 4 * k) 4,
    ranges := (List.range (v 28 1)).map (rangeOf bs) }

/-- The fields of a weight-store load record (R377). -/
def loadOf (bs : List Byte) : LaunchRec :=
  { headOf bs with
    wsDst := bits (sliceVal bs 16 8) 0 31, wsDies := (List.range 4).filter (fun d => bit (sliceVal bs 16 8) (32 + d)),
    wsLen := sliceVal bs 24 4 }

/-- The fields of a record. -/
def launchRecOf (bs : List Byte) : LaunchRec := if bits (sliceVal bs 8 1) 0 2 = 1 then loadOf bs else kernelOf bs

/-- Whether fields that both kinds of record share break R376. -/
def headBad (bs : List Byte) : Bool :=
  decide (1 < bits (sliceVal bs 8 1) 0 2) || decide (2 ^ 57 ≤ sliceVal bs 0 8) || decide (sliceVal bs 48 8 % 8 ≠ 0) ||
  bit (sliceVal bs 56 8) 6

/-- Whether the fields of a kernel record break R376 or need a feature that is not accepted (R436), but for
what ENTRY names. -/
def State.kernelBad (s : State) (bs : List Byte) : Bool :=
  let v := sliceVal bs
  let np := bits (v 12 1) 0 4
  let nc := bits (v 12 1) 4 4
  headBad bs || decide (v 0 8 % 4 ≠ 0) || decide (bits (v 8 1) 4 2 = 3) || decide (4 ≤ v 9 1) ||
  decide ((v 10 1 = 0) ≠ (np = 0)) || decide ((v 11 1 = 0) ≠ (nc = 0)) || decide (96 < v 10 1) || decide (96 < v 11 1) ||
  decide (np + nc = 0) || decide (12 < np + nc) || (bit (v 8 1) 6 && decide (np % 2 + nc % 2 ≠ 0)) ||
  decide (16 ≤ v 13 1) || decide (v 14 2 = 0) || decide (256 < v 14 2) || decide (4 * v 14 2 < v 16 2) ||
  decide (v 18 2 = 0) || decide (8192 < v 18 2) || decide (v 20 4 = 0) || decide (2 ^ 24 < v 20 4) ||
  decide (v 24 4 % 256 ≠ 0) || decide (12 * 2 ^ 20 < v 24 4) || decide (16 < v 28 1) || decide (16 < v 29 1) ||
  decide (v 30 2 ≠ 0) || (bs.drop 384).any (fun b => b != 0) ||
  (List.range 16).any (fun k => treeEntryBad bs k || rangeBad bs k) || (bit (v 9 1) 0 && !s.feature 1)

/-- Whether the fields of a weight-store load record break R377. -/
def loadBad (bs : List Byte) : Bool :=
  let v := sliceVal bs
  headBad bs || decide (v 0 8 % 256 ≠ 0) || ((bs.drop 9).take 7).any (fun b => b != 0) || bit (v 16 8) 31 ||
  decide (2 ^ 36 ≤ v 16 8) || decide (bits (v 16 8) 0 31 % 4096 ≠ 0) || decide (bits (v 16 8) 32 4 = 0) ||
  decide (2 ^ 32 ≤ v 24 8) || decide (v 24 8 % 4096 ≠ 0) || decide (v 24 8 = 0) ||
  ((bs.drop 32).take 16).any (fun b => b != 0) || (bs.drop 64).any (fun b => b != 0)

/-! Trees of a launch (R320, R321). -/

/-- The device list of a tree descriptor (R320): grants and device numbers, none where an entry breaks the layout. -/
def deviceList (bs : List Byte) (n : Nat) : Option (List (Dword × Nat)) :=
  if (List.range n).any fun k => decide (sliceVal bs (16 * k + 9) 7 / 16 ≠ 0) then none
  else some ((List.range n).map fun k => (BitVec.ofNat 64 (sliceVal bs (16 * k) 8), sliceVal bs (16 * k + 8) 2 % 4096))

/-- Whether the bytes of a tree descriptor break R320. -/
def treeBad (bs : List Byte) : Bool :=
  let v := sliceVal bs
  let z := if v 21 1 = 0 then 4 else 8
  decide (2 ^ 57 ≤ v 0 8) || decide (v 0 8 % z ≠ 0) || decide (2 ^ 57 ≤ v 8 8) || decide (v 8 8 % 8 ≠ 0) ||
  decide (v 16 5 = 0) || decide (2 ^ 38 < v 16 5) || decide (2 < v 21 1) || decide (38 < v 22 1) || decide (1 < v 23 1) ||
  decide (v 27 1 ≠ 0) || decide (4096 < v 28 2) || decide (v 30 2 ≠ 0) || decide (v 32 8 % 16 ≠ 0) ||
  (decide (v 28 2 = 0) && decide (v 32 8 ≠ 0)) || decide (2 ^ 48 ≤ v 40 8) || (bs.drop 48).any fun b => b != 0

/-- The tree set that a handle names for a launch, in the epoch that the launch will begin; none where the handle or its
descriptor is refused (R320, R321, R378, R436, R492). -/
def State.readTree (s : State) (c : Context) (l h : Nat) : Option TreeSet :=
  if h = 0 ∨ c.treeCount ≤ h then none
  else
    match s.vread c (c.treeTab.toNat + 64 * h) 64 with
    | .error _ => none
    | .ok bs =>
      let v := sliceVal bs
      let n := v 28 2
      if treeBad bs || (decide (n ≠ 0) && !s.feature 2) then none
      else
        match s.vread c (v 32 8) (16 * n) with
        | .error _ => none
        | .ok ds =>
          (deviceList ds n).map fun devs =>
            { ctx := c.num, handle := h, launch := l, seq := (v 40 8 + 1) % 2 ^ 48, root := BitVec.ofNat 64 (v 0 8),
              stamp := BitVec.ofNat 64 (v 8 8), leaves := v 16 5, op := v 21 1, dshift := v 22 1, bcast := bit (v 23 1) 0,
              elems := v 24 3 + 1, devs := devs }

/-- One tree set of a launch begins its epoch: SEQ is advanced and every element is open (R321), but for what another device has
told of this epoch already; nodes still held from an earlier epoch are stale, unless they are bound for another device, which
judges them (R322). -/
def State.beginTree (s : State) (c : Context) (l h : Nat) : Option State :=
  match s.readTree c l h with
  | none => none
  | some t =>
    (s.vwrite c (c.treeTab.toNat + 64 * h + 40) (valBytes 8 t.seq)).map fun s =>
      let ours := fun (ctx handle : Nat) => ctx == t.ctx && handle == h
      let old := fun (x : TreeNode) => ours x.ctx x.handle && decide (x.epoch < t.seq) && !s.bound t x
      let kept := fun (x : Elem) => x.seq == t.seq && (s.treeSet t.ctx h).all fun u => u.seq + 1 == t.seq
      let s1 := s.updFly fun f => { f with
        sets := f.sets.filter (fun x => !ours x.ctx x.handle) ++ [t],
        elems := f.elems.filter (fun x => !ours x.ctx x.handle || kept x),
        nodes := f.nodes.filter fun x => !old x }
      (s.fly.nodes.filter old).foldl (fun s x => s.fqWrite c { cls := 12, code := 2, context := x.ctx, time := s.clk }) s1

/-- The tree sets of a launch begin, or one of them is refused (R321). -/
def State.beginTrees (s : State) (c : Context) (l : Nat) : List Nat → Option State
  | [] => some s
  | h :: r => (s.beginTree c l h).bind fun s => s.beginTrees c l r

/-! Where groups go (R165, R166, R383). -/

/-- What a core has left. -/
structure Room where
  threads : Nat := 2048
  groups : Nat := 32
  regs : Nat := 196608
  deriving DecidableEq, Repr

/-- The registers that a thread of a budget occupies (R165). -/
def occupied (n : Nat) : Nat := (n + 7) / 8 * 8

/-- The budgets of a team's groups, in group order (R174). -/
def LaunchRec.budgets (r : LaunchRec) : List Nat := List.replicate r.np r.regp ++ List.replicate r.nc r.regc

/-- The threads that each of `k` cores takes of a group (R166). -/
def LaunchRec.share (r : LaunchRec) (k : Nat) : Nat :=
  if k ≤ 1 then r.threads else ((r.threads + k - 1) / k + r.width - 1) / r.width * r.width

/-- The cores that a group of a budget is spread over (R166). -/
def LaunchRec.spread (r : LaunchRec) (n : Nat) : Option Nat :=
  [1, 2, 3, 4].find? fun k => decide (r.share k ≤ 2048) && decide (r.share k * occupied n ≤ 196608)

/-- A part of a group on a core: the core's number in its cluster and the threads from `lo` up to `hi`. -/
structure Part where
  core : Nat
  lo : Nat
  hi : Nat
  deriving DecidableEq, Repr

/-- A layout under way: what the cores have left, the first and the last core on which the next group may begin, and the parts of
each group. -/
structure Layout where
  rooms : List Room
  next : Nat := 0
  last : Nat := 0
  parts : List (List Part) := []
  deriving DecidableEq, Repr

/-- The cores that hold groups of the team. -/
def Layout.cores (y : Layout) : List Nat := dedup (y.parts.flatten.map Part.core)

/-- Whether a part of a group finds room. -/
def Room.holds (x : Room) (p : Part) (n : Nat) : Bool :=
  decide (p.hi - p.lo ≤ x.threads) && decide (1 ≤ x.groups) && decide ((p.hi - p.lo) * occupied n ≤ x.regs)

/-- What a part of a group leaves. -/
def Room.less (x : Room) (p : Part) (n : Nat) : Room :=
  { threads := x.threads - (p.hi - p.lo), groups := x.groups - 1, regs := x.regs - (p.hi - p.lo) * occupied n }

/-- The parts of a group spread over `k` cores from the c-th on (R166). -/
def LaunchRec.partsAt (r : LaunchRec) (k c : Nat) : List Part :=
  (List.range k).map fun j =>
    { core := c + j, lo := min (j * r.share k) r.threads, hi := min ((j + 1) * r.share k) r.threads }

/-- Whether a group can stand on the cores from the c-th on. The cores of a team are adjacent ones (R8, R388): the next group begins
on the last group's core or on the one behind it, so that the run holds no core that another team has filled (log 52). -/
def Layout.fits (y : Layout) (r : LaunchRec) (n k c : Nat) : Bool :=
  decide (y.next ≤ c) && decide (c ≤ y.last) && decide (c + k ≤ 6) &&
  (decide (k = 1) || (List.range k).all fun j => !y.cores.contains (c + j)) &&
  (r.partsAt k c).all fun p => ((y.rooms[p.core]?).getD { threads := 0 }).holds p n

/-- Lays out one group: on the lowest core from the last group's on that can hold it, or spread over cores of its own. -/
def layGroup (r : LaunchRec) (y : Layout) (n : Nat) : Option Layout :=
  match r.spread n with
  | none => none
  | some k =>
    ((List.range 6).find? fun c => y.fits r n k c).map fun c =>
      { rooms := (r.partsAt k c).foldl (fun rs p => upd rs p.core fun x => x.less p n) y.rooms,
        next := if k = 1 then c else c + k, last := c + k, parts := y.parts ++ [r.partsAt k c] }

/-- Lays out the groups of a team in group order. -/
def layGroups (r : LaunchRec) : List Nat → Layout → Option Layout
  | [], y => some y
  | n :: ns, y => (layGroup r y n).bind (layGroups r ns)

/-- How many of a team's groups find room in group order. -/
def groupsThatFit (r : LaunchRec) : List Nat → Layout → Nat
  | [], _ => 0
  | n :: ns, y => match layGroup r y n with | some z => groupsThatFit r ns z + 1 | none => 0

/-- A team's layout on the cores of a cluster: on the first run of adjacent cores that has room for it (R383). -/
def LaunchRec.layout (r : LaunchRec) (rooms : List Room) : Option Layout :=
  (List.range 6).findSome? fun j => layGroups r r.budgets { rooms := rooms, next := j, last := j }

/-- Whether a team fits an empty cluster of `n` cores (R378, R473). -/
def LaunchRec.fitsEmpty (r : LaunchRec) (n : Nat) : Bool :=
  (r.layout (List.replicate n {})).isSome && decide (r.scratch ≤ n * 2 ^ 21)

/-- What a core has left (R165); a fenced core has nothing (R467). -/
def State.room (s : State) (core : Nat) : Room :=
  if s.health.fencedCores.contains core then { threads := 0, groups := 0, regs := 0 }
  else
    let ts := s.threads.filter fun t => t.core == core && (s.team (s.grp t.group).team).holds
    { threads := 2048 - ts.length, groups := 32 - (dedup (ts.map Thread.group)).length,
      regs := 196608 - (ts.map fun t => occupied (s.grp t.group).budget).foldl (· + ·) 0 }

/-- The cores of a cluster below its first one that is fenced or missing: those whose scratchpad slices make its linear
range (R208, R473). -/
def State.wholeCores (s : State) (cl : Nat) : Nat :=
  ((List.range 6).find? fun c => s.health.fencedCores.contains (6 * cl + c)).getD 6

/-- The cores in service of a cluster (R473). -/
def State.coresIn (s : State) (cl : Nat) : Nat :=
  ((List.range 6).filter fun c => !s.health.fencedCores.contains (6 * cl + c)).length

/-- The cores of the largest cluster in service (R473). -/
def State.largestCluster (s : State) : Nat := ((List.range 24).map s.coresIn).foldl max 0

/-- The lowest base of a free share of a cluster (R208, R383). -/
def State.freeBase (s : State) (cl size : Nat) : Option Nat :=
  let used := (s.teams.filter fun t => t.holds && t.cluster == cl && decide (0 < t.size)).map fun t => (t.base, t.size)
  let free := fun p => decide (p + size ≤ s.wholeCores cl * 2 ^ 21) && used.all fun u => !meets p size u.1 u.2
  leastBy id ((0 :: used.map fun u => u.1 + u.2).filter free)

/-- Where a team can be placed: cluster, base of its share, parts of its groups, and the engines that a parked team's
reservations take. -/
structure Spot where
  cluster : Nat
  base : Nat
  parts : List (List Part)
  engines : List Nat
  deriving DecidableEq, Repr

/-- The free engines of a run of cores of a cluster. -/
def State.enginesIn (s : State) (cl lo hi : Nat) : List Nat :=
  (List.range (4 * (hi - lo))).map (fun e => 4 * (6 * cl + lo) + e) |>.filter s.engineFree

/-- The engines of the shortest run of cores around a layout that has `n` free (R405). -/
def State.engineRun (s : State) (cl : Nat) (y : Layout) (n : Nat) : Option (List Nat) :=
  let lo := y.cores.foldl min 5
  let hi := y.cores.foldl max 0 + 1
  let runs := (List.range (lo + 1)).map (fun a => (List.range 7).map fun b => (a, b)) |>.flatten
  let good := runs.filter fun r => decide (hi ≤ r.2) && decide (n ≤ (s.enginesIn cl r.1 r.2).length)
  (leastBy (fun (r : Nat × Nat) => r.2 - r.1) good).map fun r => (s.enginesIn cl r.1 r.2).take n

/-- Where on a cluster a team of a launch fits, with so many reservations to restore (R383, R405). -/
def State.spotAt (s : State) (r : LaunchRec) (resvs cl : Nat) : Option Spot :=
  let tables := (s.teams.filter fun t => t.holds && t.cluster == cl).length
  if 32 ≤ tables then none
  else
    match r.layout ((List.range 6).map fun c => s.room (6 * cl + c)), s.freeBase cl r.scratch with
    | some y, some b => (s.engineRun cl y resvs).map fun es => { cluster := cl, base := b, parts := y.parts, engines := es }
    | _, _ => none

/-- How nearly a team of a launch fits a cluster (R384): by the groups that find room in group order, then by which of a region
table and a share are free: DESIGN CHOICE, as R384 gives no measure (log 52). -/
def State.nearness (s : State) (r : LaunchRec) (cl : Nat) : Nat :=
  let rooms := (List.range 6).map fun c => s.room (6 * cl + c)
  let groups := ((List.range 6).map fun j => groupsThatFit r r.budgets { rooms := rooms, next := j, last := j }).foldl max 0
  4 * groups + b2n (s.freeBase cl r.scratch).isSome +
    b2n (decide ((s.teams.filter fun t => t.holds && t.cluster == cl).length < 32))

/-! Order between launches (R253, R254, R380 to R382). -/

/-- Whether two ranges overlap once rounded outwards to 256 bytes (R253). -/
def Range.overlaps (a b : Range) : Bool :=
  decide (a.base / 256 ≤ (b.base + b.len - 1) / 256) && decide (b.base / 256 ≤ (a.base + a.len - 1) / 256)

/-- Whether ranges of two launches order them; software-managed ones take no part (R253, R254). -/
def rangesOrder (a b : LaunchRec) : Bool :=
  a.ranges.any fun x => b.ranges.any fun y => !x.sw && !y.sw && (x.wr || y.wr) && x.overlaps y

/-- Whether a launch is ordered after one of its context that was copied earlier (R380). -/
def Launch.after (b a : Launch) : Bool :=
  a.record.kind == 1 || b.record.kind == 1 || (a.queue == b.queue && rangesOrder a.record b.record) ||
  a.record.trees.any fun h => b.record.trees.contains h

/-- Whether a launch has completed, its discards included (R381). -/
def Launch.over (x : Launch) : Bool := x.finished && !(x.record.ranges.any Range.dead)

/-- Whether everything that a launch is ordered after has completed. -/
def State.ordered (s : State) (l : Nat) : Bool :=
  let x := s.launch l
  ((s.launches.take l).all fun (y : Launch) => y.over || y.ctx != x.ctx || !x.after y) &&
  (!x.record.afterEn || s.launches.any fun (y : Launch) =>
    y.ctx == x.ctx && y.queue == x.record.afterQ && y.index == x.record.afterIdx && y.over)

/-! Which team is placed next (R384, R405). -/

/-- The parked team of a launch that is restored first. -/
def State.parkedTeam (s : State) (l : Nat) : Option Nat := pos (fun (t : Team) => t.launch == l && t.life == .parked) s.teams

/-- Whether a launch has a team that may be placed (R384, R390). -/
def State.mayPlace (s : State) (l : Nat) : Bool :=
  let x := s.launch l
  !x.finished && !x.ended && x.record.kind == 0 && !(s.ctx x.ctx).suspended && s.bar0.booted && !s.health.draining &&
  ((s.parkedTeam l).isSome || decide (x.teams.length < x.record.teams)) && s.ordered l

/-- The teams of launches that may place none do not wait for room: their waiting begins when they may (R384). -/
def State.startWaits (s : State) : State :=
  let held := fun (l : Nat) (x : Launch) => if x.finished || s.mayPlace l then x else { x with since := s.wall }
  { s with launches := mapFrom held 0 s.launches }

/-- The reservations that a launch's next team held. -/
def State.heldResvs (s : State) (l : Nat) : Nat :=
  match s.parkedTeam l with
  | some m => ((s.team m).resvs.filter Resv.held).length
  | none => 0

/-- Whether a cluster may take a team of a launch: its die is not waiting for a change of frame (R228), and it is not
kept for another launch (R384). -/
def State.clusterOpen (s : State) (l cl : Nat) : Bool :=
  (((s.dies[cl / 6]?).getD {}).wantHot).isNone &&
  (mapFrom (fun k (x : Launch) => x.finished || x.block != some cl || k == l) 0 s.launches).all id

/-- Where the next team of a launch fits: the first cluster, in die and cluster order (R384). -/
def State.spot (s : State) (l : Nat) : Option Spot :=
  ((List.range 24).filter (s.clusterOpen l)).findSome? (s.spotAt (s.launch l).record (s.heldResvs l))

/-- The launches that come before one at placement: higher priority, or the same and copied earlier (R384). -/
def State.ahead (s : State) (l : Nat) : List Nat :=
  let p := (s.launch l).record.prio
  (List.range s.launches.length).filter fun k =>
    decide (p < (s.launch k).record.prio) || (decide (k < l) && (s.launch k).record.prio == p)

/-- Whether the next team placed is one of this launch (R384). -/
def State.placesNext (s : State) (l : Nat) : Bool :=
  s.mayPlace l && (s.ahead l).all fun k => !(s.mayPlace k && (s.spot k).isSome)

/-- Whether a launch has a team that may be placed and fits nowhere. -/
def State.waitsForRoom (s : State) (l : Nat) : Bool := s.mayPlace l && (s.spot l).isNone

/-! Ends of launches (R378, R379). -/

/-- A launch leaves: its stamp is written, and an interrupt follows where it asks for one (R379). -/
def State.stampLaunch (s : State) (l status : Nat) : State :=
  let x := s.launch l
  let s1 := if x.record.done = 0 then s
    else s.writeStamp (s.ctx x.ctx) x.record.done.toNat 1 (stampBytes status (x.index + 1))
  let s2 := if x.record.irq then s1.sendMsi (s1.queue x.ctx x.queue).vec else s1
  s2.updLaunch l fun y => { y with finished := true, block := none }

/-- A launch is refused (R378): nothing of it takes place. -/
def State.refuseLaunch (s : State) (l cause : Nat) : State :=
  let ctx := (s.launch l).ctx
  let s1 := s.updLaunch l fun y => { y with record := { y.record with ranges := [], trees := [] } }
  (s1.stampLaunch l 1).fq12 ctx 4 0 cause

/-! Placement (R161 to R163, R168, R383, R385, R405). -/

/-- The parts of a group as (core, lo, hi) for each issue group of `w` threads (R168). -/
def chunksOf (w : Nat) (p : Part) : List (Nat × Nat × Nat) :=
  (List.range ((p.hi - p.lo + w - 1) / w)).map fun i => (p.core, p.lo + i * w, min (p.lo + (i + 1) * w) p.hi)

/-- The initial issue groups of a group (R168, R385): each on the datapath with the fewest units; an exited thread's lane
stays vacant. -/
def State.formUnits (s : State) (cl g w : Nat) (hdr : Dword) (ps : List Part) : State :=
  (mapFrom (fun k (c : Nat × Nat × Nat) => (k, c)) 0 (ps.map (chunksOf w)).flatten).foldl (fun s x =>
    let c := x.2
    let core := 6 * cl + c.1
    let ts := (s.threadsIn g).filter fun t => decide (c.2.1 ≤ (s.thr t).idx) && decide ((s.thr t).idx < c.2.2) &&
      (s.thr t).life == .live
    if ts = [] then s
    else
      s.enroll [
        { core := core, dp := s.leastDp core, group := g, lanes := ts.map fun t => ((s.thr t).idx - c.2.1, t), hdr := hdr,
          stamp := s.clk, rank := x.1 }]) s

/-- A group as it begins (R162, R163, R176). -/
def newGroup (r : LaunchRec) (m k n : Nat) : Group :=
  { team := m, idx := k, nthreads := r.threads, budget := n, consumer := decide (r.np ≤ k),
    bars := List.replicate 16 { expect := r.threads } }

/-- The threads of a group as they begin (R161). -/
def newThreads (s : State) (cl g n : Nat) (ps : List Part) : List Thread :=
  (ps.map fun p => (List.range (p.hi - p.lo)).map fun i =>
    { group := g, idx := p.lo + i, core := 6 * cl + p.core, v := List.replicate n (.full 0), since := s.clk }).flatten

/-- One group of a new team. -/
def State.addGroup (s : State) (r : LaunchRec) (m cl k n : Nat) (ps : List Part) : State :=
  let g := s.groups.length
  let s1 := { s with groups := s.groups ++ [newGroup r m k n], threads := s.threads ++ newThreads s cl g n ps }
  s1.formUnits cl g r.width r.entry ps

/-- The record that a restored thread starts with (R405). -/
def State.restoreInfo (s : State) (t : Nat) : FaultInfo :=
  { s.infoOf t with
    cls := 0, code := 8, region := [], rep := 0, resume := 0, pc := Config.freeWord s.fresh 0 ++ Config.freeWord s.fresh 1 }

/-- A thread as it is restored (R405): registers as at placement, in the save routine. What its counters still count
stays, as do the flush bits of a REP that it was in (R43), and a debugger's hold on it (R441, R443). -/
def State.restoredThread (s : State) (t core n : Nat) (x : Thread) : Thread :=
  { group := x.group, idx := x.idx, core := core, v := List.replicate n (.full 0), hmode := 2,
    frec := (s.restoreInfo t).words, st := x.st, mx := x.mx, gx := x.gx, ct := x.ct, counted := x.counted,
    held := x.held, since := s.clk, repMode := x.repMode,
    life := .live, stopped := x.stopped, ask := x.ask, step := x.step, tiled := x.tiled, saved := x.saved }

/-- One group of a team that is restored (R405). -/
def State.restoreGroup (s : State) (r : LaunchRec) (m cl k n : Nat) (ps : List Part) : State :=
  let g := s.groupAt m k
  let coreOf := fun i => 6 * cl + ((ps.find? fun p => decide (p.lo ≤ i) && decide (i < p.hi)).map Part.core).getD 0
  let threads := mapFrom (fun t (x : Thread) =>
    if x.group = g ∧ x.life = .parked then s.restoredThread t (coreOf x.idx) n x
    else if x.group = g then { x with core := coreOf x.idx } else x) 0 s.threads
  let s1 := { s with threads := threads }.updGrp g fun _ => newGroup r m k n
  s1.formUnits cl g r.width s.saveTarget ps

/-- The share of a placed team (R383): its bytes are free values, and a code word that reads uncorrectable is zero
(R468). -/
def State.freshShare (s : State) (cl base size : Nat) : State :=
  let a := cl * 2 ^ 24 + base
  s.writeSpad a ((List.range size).map fun i =>
    if s.sto.badSpad.contains ((a + i) / 8) then 0 else Config.freeByte s.fresh (a + i))

/-- The held reservations of a restored team take engines under their numbers (R405). -/
def assignEngines : List Resv → List Nat → List Resv
  | [], _ => []
  | r :: rs, es => if r.held then { r with eng := es.headD 0 } :: assignEngines rs (es.drop 1) else r :: assignEngines rs es

/-- The context switch that a placement on a cluster completes (R406, R452): the partial sums of the cluster's cores are added, and
the images written, of the other contexts whose teams were pre-empted there. A context of which nothing is placed any more has had
its image written (R459). -/
def State.switchContexts (s : State) (ctx cl : Nat) : State :=
  let outgoing := fun (c : Context) => c.num != ctx && c.leaving.contains cl
  let cs := (s.ctxs.filter outgoing).map Context.num
  let s1 := { s with ctxs := s.ctxs.map fun c => if outgoing c then { c with leaving := c.leaving.filter (· ≠ cl) } else c }
  (cs.filter fun c => s.teams.any fun (t : Team) => t.holds && (s.launch t.launch).ctx == c).foldl
    (fun s c => s.writeEnergy c fun k => k / 6 == cl) s1

/-- The groups of a team are made, or restored, in group order. -/
def State.placeGroups (s : State) (r : LaunchRec) (m : Nat) (old : Bool) (z : Spot) : State :=
  (mapFrom (fun k (x : Nat × List Part) => (k, x.1, x.2)) 0 (r.budgets.zip z.parts)).foldl (fun s (x : Nat × Nat × List Part) =>
    if old then s.restoreGroup r m z.cluster x.1 x.2.1 x.2.2 else s.addGroup r m z.cluster x.1 x.2.1 x.2.2) s

/-- A restored team whose save routine's entry is no clause header with E = 1 meets double faults (R391). -/
def State.badRestore (s : State) (m : Nat) : State :=
  (s.groupsOf m).foldl (fun s g =>
    match (s.threadsIn g).find? fun t => (s.thr t).life == .live with
    | none => s
    | some t => s.doubleFault t { s.infoOf t with cls := 2, code := 1, pc := s.saveTarget, addr := s.saveTarget }) s

/-- A team is placed (R383, R405). -/
def State.placeTeam (s : State) (l : Nat) (z : Spot) : State :=
  let x := s.launch l
  let r := x.record
  let parked := s.parkedTeam l
  let m := parked.getD s.teams.length
  let cores := dedup (z.parts.flatten.map fun p => 6 * z.cluster + p.core)
  let old := s.team m
  let resvs := if parked.isSome then assignEngines old.resvs z.engines else List.replicate 16 {}
  let team : Team := { launch := l, idx := if parked.isSome then old.idx else x.teams.length, life := .placed,
                       cluster := z.cluster, cores := cores, base := z.base, size := r.scratch, resvs := resvs,
                       since := s.wall }
  let s1 := (s.switchContexts x.ctx z.cluster).loadEnergy x.ctx
  let s2 := if parked.isSome then s1.updTeam m fun _ => team else { s1 with teams := s1.teams ++ [team] }
  let s3 := (s2.freshShare z.cluster z.base r.scratch).updFly fun f => { f with mops := f.mops.map fun o =>
    if o.team = m then { o with eng := ((resvs[o.res]?).getD {}).eng } else o }
  let s4 := s3.updSto fun st => { st with visitors := st.visitors.filter fun v => !cores.contains v.core }
  let s5 := (s4.placeGroups r m parked.isSome z).updLaunch l fun y => { y with
    teams := if parked.isSome then y.teams else y.teams ++ [m], block := none, hit := none, since := s.wall }
  if parked.isSome && s5.targetBad l s5.saveTarget then s5.badRestore m else s5

/-! Pre-emption (R403). -/

/-- A team is pre-empted: each of its threads has a CLASS 0 trap to take. Without a save routine nothing happens (R391). -/
def State.preemptTeam (s : State) (m code : Nat) : State :=
  if s.saveEntry.isSome && (s.team m).life == .placed then
    let s1 := s.updTeam m fun t => { t with life := .saving, code := code, since := s.wall, trapped := none }
    { s1 with threads := s1.threads.map fun (t : Thread) =>
      if (s1.grp t.group).team = m ∧ t.life = .live then { t with preempt := code } else t }
  else s

/-- The placed teams of a cluster that satisfy `p` are pre-empted. -/
def State.preemptOn (s : State) (cl code : Nat) (p : Launch → Bool) : State :=
  (allPos (fun (t : Team) => t.life == .placed && t.cluster == cl && p (s.launch t.launch)) s.teams).foldl
    (fun s m => s.preemptTeam m code) s

/-! Weight-store loads (R382). -/

/-- The bytes of a load's source, none where a byte does not translate or is uncorrectable. -/
def State.loadBytes (s : State) (l : Nat) : Option (List Byte) :=
  let x := s.launch l
  match s.vread (s.ctx x.ctx) x.record.entry.toNat x.record.wsLen with
  | .ok bs => some bs
  | .error _ => none

/-- Writes bytes into the weight store of a die; code words written whole are readable again (R468). -/
def State.writeWs (s : State) (die off : Nat) (bs : List Byte) : State :=
  let a := die * 2 ^ 31 + off
  s.updSto fun m => { m with
    ws := writeCells m.ws a bs, badWs := m.badWs.filter fun k => !(wholeBlocks 32 a bs.length).contains k }

/-- A load reaches a die: the bytes, or free values all over the context's region where its source failed. -/
def State.loadDie (s : State) (l d : Nat) (bs : Option (List Byte)) : State :=
  let x := s.launch l
  let w := ((s.ctx x.ctx).wsreg[d]?).getD (0, 0)
  match bs with
  | some bs => s.writeWs d (w.1 + x.record.wsDst) bs
  | none => s.writeWs d w.1 ((List.range w.2).map fun i => Config.freeByte s.fresh (d * 2 ^ 31 + i))

end Sys2Proof.Machine
end

