-- ==== Sys2Proof/Machine/EvLaunch.lean ====
section
/-!
DEFINITION. Events of the dispatcher (file 20) and of pre-emption (R403, R404). An event whose conditions do not hold
changes nothing.
-/

namespace Sys2Proof.Machine

/-! Queues and records. -/

/-- QUEUE_TAIL_NOTIFY (R374): a push of a watched tail. -/
def execQueueTailNotify (ctx q : Nat) (s : State) : Out :=
  if (s.queue ctx q).watched.isSome then .next (s.readTail ctx q) else .next s

/-- QUEUE_TAIL_POLL (R374): a tail that is not watched is read. -/
def execQueueTailPoll (ctx q : Nat) (s : State) : Out :=
  if (s.queue ctx q).watched.isNone then .next (s.readTail ctx q) else .next s

/-- Whether ENTRY does not name a clause header with E = 1 (R376); one that cannot be fetched names none (log 35). -/
def State.entryBad (s : State) (c : Context) (entry : Nat) : Bool :=
  match s.xlate c entry 4 with
  | .ok (.mem pa) => s.memBad pa 4 || !bit (bytesVal (s.memBytes pa 4)) 24
  | _ => true

/-- The cause for which a kernel record is refused, 0 for none (R378); a context whose home found its lost-line table full
has every record refused (R469). -/
def State.kernelCause (s : State) (c : Context) (bs : List Byte) (r : LaunchRec) : Nat :=
  let b := r.spillBase.toNat
  if s.kernelBad bs || s.entryBad c r.entry.toNat || c.contained then 1
  else if !r.fitsEmpty s.largestCluster then 2
  else if r.trees.any fun h => (s.readTree c 0 h).isNone then 3
  else if r.spillSize ≠ 0 ∧ (b % 65536 ≠ 0 ∨ r.spillSize % 65536 ≠ 0 ∨ r.spillSize < 65536 * s.sliceCount) then 4
  else if r.afterEn && !(s.queue c.num r.afterQ).enabled then 6
  else 0

/-- The cause for which a weight-store load record is refused, 0 for none (R378). -/
def State.loadCause (s : State) (c : Context) (bs : List Byte) (r : LaunchRec) : Nat :=
  if loadBad bs || c.contained then 1
  else if r.wsDies.any fun d => decide (((c.wsreg[d]?).getD (0, 0)).2 < r.wsDst + r.wsLen) then 5
  else if r.afterEn && !(s.queue c.num r.afterQ).enabled then 6
  else 0

/-- The launches in flight (R375). -/
def State.inFlight (s : State) : Nat := (s.launches.filter fun x => !x.finished).length

/-- A record has been copied: its launch is in flight, or refused (R375, R378). -/
def State.copied (s : State) (ctx q i : Nat) (bs : List Byte) : State :=
  let c := s.ctx ctx
  let r := launchRecOf bs
  let cause := if r.kind = 1 then s.loadCause c bs r else s.kernelCause c bs r
  let s1 := { s with launches := s.launches ++ [{ ctx := ctx, queue := q, index := i, record := r, since := s.wall }] }
  if cause = 0 then s1 else s1.refuseLaunch s.launches.length cause

/-- The ready queues, each as 64 × context + queue (R374). -/
def State.readyQueues (s : State) : List Nat :=
  (s.ctxs.map fun (c : Context) =>
    (allPos (fun (x : Queue) => x.enabled && decide (x.head < x.tail)) c.queues).map (64 * c.num + ·)).flatten

/-- The ready queue whose turn it is (R375). -/
def State.copyNext (s : State) : Option Nat := leastBy (fun k => (k + (4096 - s.copyTurn)) % 4096) s.readyQueues

/-- LAUNCH_RECORD_COPY (R373, R375, R378): the next record of the ready queue whose turn it is is copied, HEAD follows, and
the record is checked; the turn goes to the next ready queue. -/
def execLaunchRecordCopy (ctx q : Nat) (s : State) : Out :=
  let x := s.queue ctx q
  if s.copyNext = some (64 * ctx + q) ∧ s.inFlight < 512 then
    let s := { s with copyTurn := (64 * ctx + q + 1) % 4096 }
    match s.vread (s.ctx ctx) (x.ring.toNat + 512 * (x.head % 2 ^ x.log2n)) 512 with
    | .error e => .next (s.queueError ctx q e.2.2)
    | .ok bs =>
      match s.vwrite (s.ctx ctx) x.headAt.toNat (valBytes 8 (x.head + 1)) with
      | none => .next (s.queueError ctx q x.headAt.toNat)
      | some s1 => .next ((s1.updQueue ctx q fun y => { y with head := x.head + 1 }).copied ctx q x.head bs)
  else .next s

/-! Placement. -/

/-- The code words that a launch may still fetch are those in memory from now on (R82); its first team is being placed. -/
def State.beginLaunch (s : State) (l : Nat) : State := s.updLaunch l fun y => { y with begun := true, began := s.sto.writes }

/-- TEAM_PLACE (R321, R383, R384): the next team of a launch is placed; a tree handle of a first team that is refused
refuses the launch. -/
def execTeamPlace (launch : Nat) (s : State) : Out :=
  let x := s.launch launch
  match (if s.placesNext launch then s.spot launch else none) with
  | none => .next s
  | some z =>
    if x.begun then .next (s.placeTeam launch z)
    else
      match s.beginTrees (s.ctx x.ctx) launch (dedup x.record.trees) with
      | none => .next (s.refuseLaunch launch 3)
      | some s1 => .next ((s1.beginLaunch launch).placeTeam launch z)

/-- PLACEMENT_STARVATION (R384): a team that has waited 1 ms keeps the cluster where it most nearly fits, of those that are not kept
yet; which of several such is a free choice. -/
def execPlacementStarvation (launch : Nat) (s : State) : Out :=
  let x := s.launch launch
  if x.block.isNone && s.waitsForRoom launch && decide (x.since + 1000000 * wallNs ≤ s.wall) then
    let near := ((List.range 24).filter (s.clusterOpen launch)).map fun cl => (cl, s.nearness x.record cl)
    let most := (near.map Prod.snd).foldl max 0
    match (near.filter fun y => y.2 == most).map Prod.fst with
    | [] => .next s
    | cls => .next (s.updLaunch launch fun y => { y with block := cls[s.pick 0 cls.length]? })
  else .next s

/-- RANGE_PREFETCH (R381): once every launch that this one is ordered after, the one that AFTER names among them, has placed
its last team; at most 64 MiB. It changes no value. -/
def execRangePrefetch (launch : Nat) (s : State) : Out :=
  let x := s.launch launch
  let all := fun (y : Launch) => y.finished || decide (y.record.teams ≤ y.teams.length)
  let placed := ((s.launches.take launch).all fun (y : Launch) => all y || y.ctx != x.ctx || !x.after y) &&
    (!x.record.afterEn || s.launches.any fun (y : Launch) =>
      y.ctx == x.ctx && y.queue == x.record.afterQ && y.index == x.record.afterIdx && all y)
  let bytes : Nat := ((x.record.ranges.filter fun r => r.pf && r.rd).map Range.len).foldl (· + ·) 0
  if placed && !x.finished && decide (bytes ≠ 0) then
    .next (s.updLaunch launch fun y => { y with prefetched := min (2 ^ 26) bytes })
  else .next s

/-! Pre-emption. -/

/-- PRIORITY_PREEMPT (R384, R403): a team that has waited 20 µs has the teams of lower priority pre-empted on one cluster, the
same until it is placed. -/
def execPriorityPreempt (launch cluster : Nat) (s : State) : Out :=
  let x := s.launch launch
  let lower := fun (y : Launch) => decide (y.record.prio < x.record.prio)
  let there := s.saveEntry.isSome && s.teams.any fun t => t.life == .placed && t.cluster == cluster && lower (s.launch t.launch)
  if s.waitsForRoom launch && decide (x.since + 20000 * wallNs ≤ s.wall) && (x.hit.isNone || x.hit == some cluster) && there then
    .next ((s.updLaunch launch fun y => { y with hit := some cluster }).preemptOn cluster 1 lower)
  else .next s

/-- TIME_SLICE_EXPIRY (R403): a team of another context waits, and this context's teams have held the cluster for its
slice. -/
def execTimeSliceExpiry (ctx cluster : Nat) (s : State) : Out :=
  let here := s.teams.filter fun t => t.life == .placed && t.cluster == cluster && (s.launch t.launch).ctx == ctx
  let since := (here.map Team.since).foldl min s.wall
  let wanted := (List.range s.launches.length).any fun k => (s.launch k).ctx != ctx && s.waitsForRoom k
  let slice := (s.ctx ctx).slice
  if wanted && decide (slice ≠ 0) && decide (since + slice * 1000 * wallNs ≤ s.wall) then
    .next (s.preemptOn cluster 2 fun y => y.ctx == ctx)
  else .next s

/-- The words of a unit's clause that have been passed as prefixes but whose instruction has not issued. -/
def IssueUnit.prefixes (u : IssueUnit) : Nat := b2n u.rep.isSome + b2n u.scope.isSome

/-- Where a pre-empted thread of the unit at issue resumes, and its sr.repcount there (R78, R403): the REP prefix between
repeats, else the first word, prefixes included, that has not issued. -/
def State.preemptPoint (s : State) (t : Nat) : Dword × Nat :=
  let u := s.unit
  let x := s.thr t
  let start := resumeOf u.hdr (u.idx - u.prefixes)
  match u.rep with
  | some r => if 0 < r.k ∧ x.joinAt r.cnt ≤ r.k then (resumeOf u.hdr r.at_, r.cnt - r.k) else (start, x.repcount)
  | none => (start, x.repcount)

/-- Whether a thread has a pre-emption trap to take where it runs its program (R403). -/
def State.trapDue (s : State) (t : Nat) : Bool :=
  let x := s.thr t
  x.preempt != 0 && x.life == .live && x.hmode == 0

/-- The threads of a unit take their pre-emption traps out of it, which first stops where it stands at a stop point and is asked
to (R441). -/
def State.preemptUnit (s : State) (u : Nat) : State :=
  let x := s.unitAt u
  let s0 := match x.stopAsk with
    | some c => if !x.stopped && x.atStop then s.stopNow u c else s
    | none => s
  let s1 := { s0 with cur := u }
  s1.preempt ((s1.unit.lanes.filter fun p => s1.trapDue p.2).map fun p => (p, s1.preemptPoint p.2))

/-- The threads of a fold take their pre-emption traps out of it: as the unit that they would form now (log 55). -/
def State.preemptFold (s : State) (f : Fold) : State :=
  let ts := f.threads.filter s.trapDue
  let u : IssueUnit := { core := f.core, dp := s.leastDp f.core, group := f.group, lanes := mapFrom Prod.mk 0 ts, hdr := f.hdr,
                         idx := f.idx, stamp := s.clk, rank := f.num }
  let s0 := ts.foldl State.leaveUnit s
  let s1 := { s0.enroll [u] with cur := s0.units.length }
  s1.preempt (u.lanes.map fun p => (p, resumeOf f.hdr f.idx, (s1.thr p.2).repcount))

/-- PREEMPTION_TRAP (R403): a thread of a pre-empted team that runs its program takes the CLASS 0 trap, wherever it
is, with the threads of its unit or fold. -/
def execPreemptionTrap (t : Nat) (s : State) : Out :=
  if s.trapDue t then
    match pos (fun (u : IssueUnit) => u.live && u.lanes.any fun p => p.2 == t) s.units with
    | some u => .next (s.preemptUnit u)
    | none =>
      match s.folds.find? fun f => f.threads.contains t with
      | some f => .next (s.preemptFold f)
      | none => .next s
  else .next s

/-- PARK_TIMEOUT (R404): a team that has not parked within 2 ms of its first pre-emption trap has its launch ended. -/
def execParkTimeout (team : Nat) (s : State) : Out :=
  let t := s.team team
  if t.life == .saving && t.trapped.any fun w => decide (w + 2000000 * wallNs ≤ s.wall) then .next (s.endLaunch t.launch) else .next s

/-! Completion. -/

/-- Whether work of a launch is still under way that its stamp must follow (R379): writes not yet performed, flushes
and tree stamps. -/
def State.launchBusy (s : State) (l : Nat) : Bool :=
  let ours := fun (m : Nat) => (s.team m).launch == l && decide (m < s.teams.length)
  let sets := s.fly.sets.filter fun t => t.launch == l
  s.fly.ops.any (fun o => ours (s.teamOf o.thread) && (match o.kind with
    | .store _ _ _ _ | .atomic _ _ _ _ _ _ _ _ | .remote _ _ _ _ _ _ _ _ _ | .parts _ _ _ _ | .load _ _ _ _ _ _ _ _ _ => true
    | _ => false)) ||
  s.fly.jobs.any (fun j => ours j.team && j.flush.isSome) || s.fly.mops.any (fun o => ours o.team) ||
  s.fly.elems.any fun e => !e.stamped && sets.any fun t => t.ctx == e.ctx && t.handle == e.handle && t.seq == e.seq

/-- Whether the last team of a launch has retired, or the launch was ended. -/
def State.allRetired (s : State) (l : Nat) : Bool :=
  let x := s.launch l
  (x.ended || (x.record.kind == 0 && x.begun && decide (x.record.teams ≤ x.teams.length))) &&
  x.teams.all fun m => (s.team m).life == .retired

/-- LAUNCH_COMPLETE (R329, R379): the elements that are still open fail, and the stamp follows. -/
def execLaunchComplete (launch : Nat) (s : State) : Out :=
  let x := s.launch launch
  if !x.finished && decide (launch < s.launches.length) && s.allRetired launch && !s.launchBusy launch then
    .next ((s.closeTrees launch).stampLaunch launch (if x.ended then 2 else 0))
  else .next s

/-- The bytes of a dead range that may now read as an older value, each with one that was stored to it, by a free choice
(R231, R381). -/
def State.deadBytes (s : State) (c : Context) (r : Range) : List (Nat × Byte) :=
  if r.dead then
    let pages := (List.range ((r.base % 4096 + r.len + 4095) / 4096)).filterMap fun i =>
      let lo := max r.base ((r.base / 4096 + i) * 4096)
      match s.xlate c lo 1 with
      | .ok (.mem pa) => some (pa, min (r.base + r.len) ((r.base / 4096 + i + 1) * 4096) - lo)
      | _ => none
    let inside := fun (a : Nat) => pages.any fun q => decide (q.1 ≤ a) && decide (a < q.1 + q.2)
    let olds := s.sto.past.flatMap fun y => (List.range 4).filterMap fun i =>
      if inside (4 * y.1 + i) then some (4 * y.1 + i, (valBytes 4 y.2.1.toNat)[i]?.getD 0) else none
    (dedup (olds.map Prod.fst)).filterMap fun a =>
      let vs := ((olds.filter fun x => x.1 == a).map Prod.snd).eraseDups
      let v := ((cellGet s.sto.mem a :: vs)[s.pick a (vs.length + 1)]?).getD 0
      if v = cellGet s.sto.mem a then none else some (a, v)
  else []

/-- DEAD_RANGE_DISCARD (R381): after the stamp, each byte of a dead range may read as an older value until it is written
again. -/
def execDeadRangeDiscard (launch : Nat) (s : State) : Out :=
  let x := s.launch launch
  if x.finished && x.record.ranges.any Range.dead then
    let new := (x.record.ranges.map (s.deadBytes (s.ctx x.ctx))).flatten
    let s1 := s.updSto fun m => { m with dead := m.dead ++ new }
    .next (s1.updLaunch launch fun y => { y with
      record := { y.record with ranges := y.record.ranges.map fun r => { r with dead := false } } })
  else .next s

/-- The bytes of a load's source, each as it stands or as it stood at some time since the load began, by a free choice (R237, R382). -/
def State.loadRaced (s : State) (l : Nat) : Option (List Byte) :=
  let x := s.launch l
  let olds := s.sto.past.filter fun y => decide (x.began ≤ y.2.2)
  (s.loadBytes l).map fun bs =>
    if olds = [] then bs
    else mapFrom (fun i b =>
      match s.xlate (s.ctx x.ctx) (x.record.entry.toNat + i) 1 with
      | .ok (.mem pa) =>
        let vs := (olds.filter fun y => y.1 == pa / 4).map fun y => ((valBytes 4 y.2.1.toNat)[pa % 4]?).getD 0
        ((b :: vs)[s.pick (2 ^ 40 + i) (vs.length + 1)]?).getD b
      | _ => b) 0 bs

/-- WEIGHT_STORE_LOAD (R382): a load whose turn has come begins, and then has copied its bytes to each of its dies, and its stamp
follows; a source that cannot be read gives status 01. -/
def execWeightStoreLoad (launch : Nat) (s : State) : Out :=
  let x := s.launch launch
  if x.record.kind == 1 && !x.finished && !x.ended && s.ordered launch then
    if !x.begun then .next (s.beginLaunch launch) else
    let bs := s.loadRaced launch
    let s1 := x.record.wsDies.foldl (fun s d => s.loadDie launch d bs) s
    .next (s1.stampLaunch launch (if bs.isSome then 0 else 1))
  else .next s

end Sys2Proof.Machine
end

