-- ==== Sys2Proof/Machine/EvCtx.lean ====
section
/-!
DEFINITION. The control commands of R390, with ATTEST (R485) and PLIMIT (R486): contexts, queues, TLBI, suspension, the
end of a launch and the save routine's entry. A command is done, is refused and changes nothing, or waits. The stamp is
the control queue's (CONTROL_QUEUE_NOTIFY).
-/

namespace Sys2Proof.Machine

/-- How a command ends: done, refused, or not ended yet. -/
inductive CmdEnd where
  | done (s : State)
  | refused
  | wait (s : State)
  deriving DecidableEq, Repr

/-- What a command leaves. -/
def State.after (s : State) (e : CmdEnd) : State :=
  match e with
  | .done t => t
  | .refused => s
  | .wait t => t

/-- A command that has its effect only where a condition holds, else is refused. -/
def cmdIf (ok : Bool) (s : State) : CmdEnd := if ok then .done s else .refused

/-- Whether a context exists (R390). -/
def State.hasCtx (s : State) (c : Nat) : Bool := s.ctxs.any fun x => x.num == c

/-- Whether a command's own accesses may touch a range of device physical memory: it exists, and firmware has not reserved
it (R397). -/
def State.physOk (s : State) (pa n : Nat) : Bool := decide (pa + n ≤ s.capacity) && !s.reserved pa n

/-! What a context reaches (R393, R453, R469). -/

/-- The tables and the pages, as (physical base, bytes), that are reached from a table of a level through valid entries;
peer pages and malformed entries reach nothing. -/
def State.reach (s : State) : Nat → Nat → List Nat × List (Nat × Nat)
  | 0, t =>
    let es := (List.range 512).filterMap fun i => (s.readPhys (t + 8 * i) 8).map bytesVal
    ([t], (es.filter fun e => bit e 0 && !badEntry 0 e && !bit e 7).map fun e => (bits e 12 45 * 4096, 4096))
  | k + 1, t =>
    let es := ((List.range 512).filterMap fun i => (s.readPhys (t + 8 * i) 8).map bytesVal).filter fun e =>
      bit e 0 && !badEntry (k + 1) e
    let leaves := (es.filter fun e => bit e 5 && !bit e 7).map fun e => (bits e 12 45 * 4096, pageSize (k + 1))
    let below := (es.filter fun e => !bit e 5).map fun e => s.reach k (bits e 12 45 * 4096)
    (t :: (below.map Prod.fst).flatten, leaves ++ (below.map Prod.snd).flatten)

/-- Whether a context maps a physical line (R469). -/
def State.mapsLine (s : State) (c : Context) (line : Nat) : Bool :=
  (s.reach 4 c.root).2.any fun p => decide (p.1 < line * 128 + 128) && decide (line * 128 < p.1 + p.2)

/-! CREATE and DESTROY. -/

/-- The context that a descriptor describes (R389), before its dispatch block has been read. -/
def contextOf (num : Nat) (bs : List Byte) : Context :=
  let v := sliceVal bs
  { num := num, root := v 0 8, dispatch := BitVec.ofNat 64 (v 8 8), handler := BitVec.ofNat 64 (v 16 8),
    saveArea := BitVec.ofNat 64 (v 24 8), saveSize := BitVec.ofNat 64 (v 32 8), fqRing := BitVec.ofNat 64 (v 40 8),
    fqCtl := BitVec.ofNat 64 (v 48 8), fqLog2n := v 56 1, bkpt := bit (v 57 1) 0, sys := bit (v 57 1) 1,
    fqIrq := bit (v 57 1) 2, fqVec := v 58 2, slice := v 60 4, peerTab := BitVec.ofNat 64 (v 64 8), peerCount := v 72 4,
    gwTab := BitVec.ofNat 64 (v 76 8), gwCount := v 84 4 }

/-- Whether a context descriptor breaks R389. -/
def contextBad (bs : List Byte) : Bool :=
  let v := sliceVal bs
  decide (v 0 8 % 4096 ≠ 0) || decide (v 8 8 % 4096 ≠ 0) || decide (v 24 8 % 4096 ≠ 0) || decide (v 40 8 % 4096 ≠ 0) ||
  decide (v 48 8 % 8 ≠ 0) || decide (v 56 1 < 4) || decide (16 < v 56 1) || decide (8 ≤ v 57 1) || decide (2048 ≤ v 58 2) ||
  (bs.drop 88).any fun b => b != 0

/-- The regions of a context's dispatch block (R372), none where an entry breaks the layout or leaves the weight store. -/
def wsRegions (bs : List Byte) : Option (List (Nat × Nat)) :=
  let es := (List.range 4).map fun d => sliceVal bs (2048 + 8 * d) 8
  if es.any fun e => bit e 31 || bit e 63 || decide (bits e 0 31 % 65536 ≠ 0) || decide (bits e 32 31 % 65536 ≠ 0) ||
      decide (1536 * 2 ^ 20 < bits e 0 31 + bits e 32 31) then none
  else some (es.map fun e => (bits e 0 31, bits e 32 31))

/-- Whether regions overlap those of another context (R372). -/
def State.regionsMeet (s : State) (ws : List (Nat × Nat)) : Bool :=
  s.ctxs.any fun c => (ws.zip c.wsreg).any fun p => meets p.1.1 p.1.2 p.2.1 p.2.2

/-- The first writes of a new context (R390). -/
def State.firstWrites (s : State) (c : Context) : Option State :=
  (s.vwrite c c.fqCtl.toNat (zeros 24)).bind fun s =>
    (s.vwrite c c.saveArea.toNat (valBytes 8 c.saveSize.toNat)).bind fun s => s.vwrite c (c.saveArea.toNat + 8) (zeros 8)

/-- A context of a descriptor and a dispatch block, as CREATE makes it; none where it is refused. -/
def State.newCtx (s : State) (ctx : Nat) (d b : List Byte) : Option State :=
  (wsRegions b).bind fun ws =>
    let c := { contextOf ctx d with
      wsreg := ws, treeTab := BitVec.ofNat 64 (sliceVal b 2080 8), treeCount := sliceVal b 2088 4 }
    if contextBad d || s.regionsMeet ws || decide (c.treeTab.toNat % 64 ≠ 0) || decide (2 ^ 20 < c.treeCount) ||
        (b.drop 2092).any (fun x => x != 0) then none
    else (s.firstWrites c).map fun s => { s with ctxs := s.ctxs ++ [c] }

/-- CREATE. Its dispatch block is read here for the weight-store regions and the tree table; one that cannot be read gives
none, and a CLASS 12 code 3 record (R492, log 33). -/
def State.cmdCreate (s : State) (ctx arg0 : Nat) : CmdEnd :=
  if 64 ≤ ctx ∨ s.hasCtx ctx = true then .refused
  else
    match s.readPhys arg0 128 with
    | none => .refused
    | some d =>
      let c := contextOf ctx d
      match s.vread c c.dispatch.toNat 4096 with
      | .ok b => (s.newCtx ctx d b).elim .refused .done
      | .error e => (s.newCtx ctx d (zeros 4096)).elim .refused fun s => .done (s.fq12 ctx 3 e.2.2 0)

/-- Whether something of a context is still under way: launches, operations, fills, matrix operations, requests. -/
def State.ctxBusy (s : State) (c : Nat) : Bool :=
  s.launches.any (fun x => x.ctx == c && !x.finished) ||
  s.fly.ops.any (fun o => (s.launchOf o.thread).ctx == c) ||
  s.fly.jobs.any (fun j => (s.launch (s.team j.team).launch).ctx == c) ||
  s.fly.mops.any (fun o => (s.launch (s.team o.team).launch).ctx == c) ||
  s.fabric.out.any fun o => o.ctx == c

/-- Lost lines that no remaining context maps are no longer lost (R469). -/
def State.forgetLost (s : State) : State :=
  s.updSto fun m => { m with lost := m.lost.filter fun x => s.ctxs.any fun c => s.mapsLine c x.1 }

/-- What is left of a context is removed (R390, R452). -/
def State.removeCtx (s : State) (c : Nat) : State :=
  let x := s.ctx c
  let s1 := s.writeEnergy c fun _ => true
  let s2 := s1.updFly fun f => { f with
    sets := f.sets.filter (fun t => t.ctx ≠ c), elems := f.elems.filter (fun t => t.ctx ≠ c),
    nodes := f.nodes.filter (fun t => t.ctx ≠ c), subs := f.subs.filter (fun t => t.ctx ≠ c) }
  let s3 := s2.updSto fun m => { m with
    tlb := m.tlb.filter (fun e => e.ctx ≠ c),
    shadow := m.shadow.filter fun x => (s.launch x.launch).ctx ≠ c, ws := (mapFrom Prod.mk 0 x.wsreg).foldl (fun ws r => clearCells ws (r.1 * 2 ^ 31 + r.2.1) r.2.2) m.ws }
  let s4 := { s3 with
    ctxs := s3.ctxs.filter (fun y => y.num ≠ c),
    launches := s3.launches.map fun (l : Launch) => if l.ctx = c then { l with ctx := 64 } else l }
  s4.forgetLost

/-- DESTROY: every launch of the context is ended, and once nothing of it is under way its state is removed. -/
def State.cmdDestroy (s : State) (c : Nat) : CmdEnd :=
  if s.hasCtx c then
    let s1 := s.updCtx c fun x => { x with queues := x.queues.map fun q => { q with enabled := false, watched := none } }
    let ls := allPos (fun (x : Launch) => x.ctx == c && !x.finished && !x.ended) s1.launches
    let s2 := ls.foldl State.endLaunch s1
    if s2.ctxBusy c then .wait s2 else .done (s2.removeCtx c)
  else .refused

/-! Queues. -/

/-- Whether a queue descriptor breaks R373. -/
def queueBad (bs : List Byte) : Bool :=
  let v := sliceVal bs
  decide (v 0 8 % 4096 ≠ 0) || decide (v 8 8 % 8 ≠ 0) || decide (v 16 8 % 8 ≠ 0) || decide (v 8 8 / 128 = v 16 8 / 128) ||
  decide (v 24 1 < 3) || decide (16 < v 24 1) || decide (2 ≤ v 25 1) || decide (2048 ≤ v 26 2) || decide (v 28 4 ≠ 0)

/-- The line of a tail that the dispatcher watches: one of the 32 entries of its home slice, shared by the queues whose
tails lie in it (R374). -/
def State.watchLine (s : State) (c : Context) (tail : Nat) : Option Nat :=
  match s.xlate c tail 1 with
  | .ok (.mem pa) =>
    let lines := dedup ((s.ctxs.map fun x => x.queues.filterMap Queue.watched).flatten)
    let here := lines.filter fun l => s.homeOf l == s.homeOf (pa / 128)
    if here.contains (pa / 128) ∨ here.length < 32 then some (pa / 128) else none
  | _ => none

/-- QENABLE (R373, R374, R492): reads the descriptor and HEAD. Where either cannot be read the queue stays disabled, with a
record; a descriptor that breaks R373, and one without ENABLE, refuse the command (log 34). -/
def State.cmdQenable (s : State) (c q : Nat) : CmdEnd :=
  let x := s.ctx c
  if !s.hasCtx c then .refused
  else if (s.queue c q).enabled then .done s
  else
    match s.vread x (x.dispatch.toNat + 32 * q) 32 with
    | .error e => .done (s.queueError c q e.2.2)
    | .ok bs =>
      let v := sliceVal bs
      if queueBad bs || !bit (v 25 1) 0 then .refused
      else
        match s.vread x (v 16 8) 8 with
        | .error e => .done (s.queueError c q e.2.2)
        | .ok h =>
          .done (s.updQueue c q fun _ =>
            { enabled := true, ring := BitVec.ofNat 64 (v 0 8), tailAt := BitVec.ofNat 64 (v 8 8),
              headAt := BitVec.ofNat 64 (v 16 8), log2n := v 24 1, vec := v 26 2, head := bytesVal h, tail := bytesVal h,
              watched := s.watchLine x (v 8 8) })

/-- QDISABLE: launches already copied run on. -/
def State.cmdQdisable (s : State) (c q : Nat) : CmdEnd :=
  cmdIf (s.hasCtx c) (s.updQueue c q fun x => { x with enabled := false, watched := none })

/-! TLBI, SUSPEND, RESUME, ENDLAUNCH, SETSAVE. -/

/-- TLBI as a command: type and size code in ARG1 (R390, R416). -/
def State.cmdTlbi (s : State) (c arg0 arg1 : Nat) : CmdEnd :=
  let page := decide (arg1 % 4 = 1)
  let r := tlbiRange page arg0 (bits arg1 8 3)
  if !s.hasCtx c || decide (1 < arg1 % 4) || (page && decide (4 < bits arg1 8 3)) then .refused
  else if s.usesRange c r then .wait s
  else .done (s.invalidate c r)

/-- SUSPEND (R390, R391, R403). -/
def State.cmdSuspend (s : State) (c : Nat) : CmdEnd :=
  let ours := allPos (fun (t : Team) => t.life == .placed && (s.launch t.launch).ctx == c) s.teams
  cmdIf (s.hasCtx c && s.saveEntry.isSome)
    (ours.foldl (fun s m => s.preemptTeam m 3) (s.updCtx c fun x => { x with suspended := true }))

/-- RESUME. -/
def State.cmdResume (s : State) (c : Nat) : CmdEnd := cmdIf (s.hasCtx c) (s.updCtx c fun x => { x with suspended := false })

/-- The launch in flight that a queue and a record index name. -/
def State.flying (s : State) (c q i : Nat) : Option Nat :=
  pos (fun (x : Launch) => x.ctx == c && x.queue == q && x.index == i && !x.finished) s.launches

/-- ENDLAUNCH: refused where that record is not in flight. -/
def State.cmdEndlaunch (s : State) (c q i : Nat) : CmdEnd :=
  match s.flying c q i with
  | none => .refused
  | some l => .done (s.endLaunch l)

/-- SETSAVE (R390, R391). -/
def State.cmdSetsave (s : State) (arg0 : Nat) : CmdEnd :=
  let busy := s.teams.any fun (t : Team) => t.life == .saving || t.life == .parked
  cmdIf (decide (arg0 % 4 = 0) && decide (arg0 < 2 ^ 57) && !busy)
    { s with saveEntry := if arg0 = 0 then none else some (BitVec.ofNat 64 arg0) }

/-! Energy, attestation, power. -/

/-- EZERO (R439, R449, R459): the counter and its image at SAVEAREA + 8 become zero. -/
def State.cmdEzero (s : State) (c arg0 : Nat) : CmdEnd :=
  cmdIf (s.hasCtx c && s.physOk arg0 8)
    (((s.writePhys arg0 (valBytes 8 (s.ctx c).energyImage)).updCtx c fun x =>
      { x with energy := 0, sat := false, partials := [] }).writeEnergy c fun _ => true)

/-- PLIMIT (R486). -/
def State.cmdPlimit (s : State) (arg0 : Nat) : CmdEnd :=
  cmdIf (decide (1600 ≤ arg0) && decide (arg0 ≤ 3200)) { s with fw := { s.fw with limit := arg0 } }

/-- `n` bytes of one of the part's cryptographic values (log 2). -/
def secret (k n : Nat) (bs : List Byte) : List Byte := (List.range n).map fun i => ((Config.digest k bs)[i]?).getD 0

/-- The generation of the repair map in force (R474). -/
def State.mapGen (s : State) : Nat :=
  match s.fw.maps with
  | [] => 0
  | m :: _ => m.1.gen

/-- The body of the firmware that runs (R482). -/
def State.fwBody (s : State) : List Byte :=
  let im := ((s.fw.slots[s.fw.inUse]?).getD {}).image
  (im.drop 2608).take (sliceVal im 8 8)

/-- The bytes of an attestation report (R485): its digests, signature and certificate are free functions (log 2). -/
def State.report (s : State) (nonce : List Byte) : List Byte :=
  let head := valBytes 8 1 ++ secret 3 8 [] ++ secret 0 64 s.fwBody ++ valBytes 4 s.fw.svn ++ valBytes 8 s.mapGen ++
    valBytes 32 (if s.bar0.committed then s.bar0.faccept.toNat else 0) ++
    valBytes 2 ((s.bar0.podnum.map BitVec.toNat).getD 0) ++ zeros 2 ++ nonce ++ secret 1 64 [] ++ valBytes 8 s.tms ++ zeros 248
  head ++ secret 2 4627 head ++ secret 4 3053 []

/-- ATTEST (R485): after a repair point that is under way. -/
def State.cmdAttest (s : State) (arg0 arg1 : Nat) : CmdEnd :=
  if s.health.draining then .wait s
  else
    match s.readPhys arg0 64 with
    | none => .refused
    | some n =>
      cmdIf (s.feature 6 && decide (arg1 % 4096 = 0) && s.physOk arg0 64 && s.physOk arg1 8192) (s.writePhys arg1 (s.report n))

/-! The commands as events. -/

/-- CREATE (R390). -/
def execCreate (ctx arg0 : Nat) (s : State) : Out := .next (s.after (s.cmdCreate ctx arg0))

/-- DESTROY (R390). -/
def execDestroy (ctx : Nat) (s : State) : Out := .next (s.after (s.cmdDestroy ctx))

/-- QENABLE (R390). -/
def execQenable (ctx arg0 : Nat) (s : State) : Out := .next (s.after (s.cmdQenable ctx (arg0 % 64)))

/-- QDISABLE (R390). -/
def execQdisable (ctx arg0 : Nat) (s : State) : Out := .next (s.after (s.cmdQdisable ctx (arg0 % 64)))

/-- TLBI as a command (R390). -/
def execTlbiCommand (ctx arg0 arg1 : Nat) (s : State) : Out := .next (s.after (s.cmdTlbi ctx arg0 arg1))

/-- SUSPEND (R390). -/
def execSuspend (ctx : Nat) (s : State) : Out := .next (s.after (s.cmdSuspend ctx))

/-- RESUME (R390). -/
def execResume (ctx : Nat) (s : State) : Out := .next (s.after (s.cmdResume ctx))

/-- ENDLAUNCH (R390). -/
def execEndlaunch (ctx arg0 arg1 : Nat) (s : State) : Out := .next (s.after (s.cmdEndlaunch ctx (arg0 % 64) arg1))

/-- SETSAVE (R390). -/
def execSetsave (arg0 : Nat) (s : State) : Out := .next (s.after (s.cmdSetsave arg0))

/-- EZERO (R439, R449). -/
def execEzero (ctx arg0 : Nat) (s : State) : Out := .next (s.after (s.cmdEzero ctx arg0))

/-- ATTEST (R485). -/
def execAttest (arg0 arg1 : Nat) (s : State) : Out := .next (s.after (s.cmdAttest arg0 arg1))

/-- PLIMIT (R486). -/
def execPlimit (arg0 : Nat) (s : State) : Out := .next (s.after (s.cmdPlimit arg0))

end Sys2Proof.Machine
end

