-- ==== Sys2Proof/Machine/EvDebug.lean ====
section
/-!
DEFINITION. The debug commands (R439 to R443, R453, R454), the control queue that carries every command (R390, R435), and
the events of stops and of the trace's count (R441, R444).
-/

namespace Sys2Proof.Machine

/-! DEBUG (R440). -/

/-- A watched range of a debug descriptor. -/
def watchOf (bs : List Byte) (k : Nat) : Option (Nat × Nat) :=
  let f := sliceVal bs (72 + 16 * k) 8
  if bit f 41 then some (sliceVal bs (64 + 16 * k) 8, bits f 0 41) else none

/-- Whether a watched range breaks R440. -/
def watchBad (bs : List Byte) (k : Nat) : Bool :=
  let f := sliceVal bs (72 + 16 * k) 8
  decide (2 ^ 42 ≤ f) || (bit f 41 && (decide (bits f 0 41 = 0) || decide (2 ^ 40 < bits f 0 41)))

/-- The debug descriptor that bytes describe (R440). -/
def debugOf (bs : List Byte) : Debug :=
  let v := sliceVal bs
  { ring := v 0 8, pages := v 8 4, ptrs := v 16 8, itrace := bit (v 24 1) 0, dtrace := bit (v 24 1) 1,
    sample := bit (v 24 1) 2, regbrk := bit (v 24 1) 3, slog2 := v 25 1, scope := v 26 1, vec := bits (v 28 4) 0 11,
    irq := bit (v 28 4) 11, regids := (List.range 4).map fun i => v (32 + 2 * i) 2, watch := (List.range 8).filterMap (watchOf bs) }

/-- Whether the bytes of a debug descriptor break R440, or ask for a trace that is not accepted (R436, R439). -/
def State.debugBad (s : State) (bs : List Byte) : Bool :=
  let v := sliceVal bs
  decide (v 0 8 % 4096 ≠ 0) || decide (v 8 4 < 2) || decide (2 ^ 16 < v 8 4) || decide (2 ^ Nat.log2 (v 8 4) ≠ v 8 4) || decide (v 12 4 ≠ 0) ||
  decide (16 ≤ v 24 1) || decide (v 25 1 < 4) || decide (20 < v 25 1) || decide (4 ≤ v 26 1) ||
  decide (v 27 1 ≠ 0) || decide (2 ^ 12 ≤ v 28 4) || ((bs.drop 40).take 24).any (fun b => b != 0) ||
  (List.range 8).any (watchBad bs) || (bs.drop 192).any (fun b => b != 0) ||
  (decide (bits (v 24 1) 0 3 ≠ 0) && !s.feature 3)

/-- The page under way in the trace of a context ends (R444, R446). -/
def State.endTrace (s : State) (c : Nat) : State :=
  match (s.ctx c).debug with
  | some d => (s.closePage c d).1
  | none => s

/-- DEBUG (R439, R440). -/
def State.cmdDebug (s : State) (c arg0 : Nat) : CmdEnd :=
  if !s.hasCtx c then .refused
  else if arg0 = 0 then .done ((s.endTrace c).updCtx c fun x => { x with debug := none })
  else
    match s.readPhys arg0 256 with
    | none => .refused
    | some bs =>
      cmdIf (decide (arg0 % 256 = 0) && !s.debugBad bs) ((s.endTrace c).updCtx c fun x => { x with debug := some (debugOf bs) })

/-! STOP and CONT (R441, R443). -/

/-- The launch of a group. -/
def State.launchOfGroup (s : State) (g : Nat) : Nat := (s.team (s.grp g).team).launch

/-- Every unit of a launch is to stop (R441). -/
def State.stopLaunch (s : State) (l : Nat) : State := s.stopOthers fun g => s.launchOfGroup g == l

/-- STOP (R439). -/
def State.cmdStop (s : State) (c q i : Nat) : CmdEnd :=
  match s.flying c q i with
  | none => .refused
  | some l => .done (s.stopLaunch l)

/-- A unit that is released runs again, for one step where that is asked (R443). -/
def IssueUnit.release (u : IssueUnit) (step : Bool) : IssueUnit :=
  if u.stopped then { u with stopped := false, stepping := step, blocked := false } else u

/-- A team's stopped threads are released; they wait anew from now (R186, R443). -/
def State.contTeam (s : State) (m : Nat) (step : Bool) : State :=
  s.pausing m fun s =>
    let ours := fun (g : Nat) => (s.grp g).team == m
    { s with
      units := s.units.map fun (u : IssueUnit) => if ours u.group then u.release step else u,
      threads := s.threads.map fun (t : Thread) =>
        if ours t.group && t.stopped then
          { t with stopped := false, since := s.clk, step := t.step || (step && !(s.team m).holds) } else t }

/-- A launch's stopped units are released (R443). -/
def State.contLaunch (s : State) (l : Nat) (step : Bool) : State :=
  (s.launch l).teams.foldl (fun s m => s.contTeam m step) s

/-- CONT (R439, R443): ARG1 [63] asks for one step. -/
def State.cmdCont (s : State) (c q arg1 : Nat) : CmdEnd :=
  match s.flying c q (arg1 % 2 ^ 63) with
  | none => .refused
  | some l => .done (s.contLaunch l (bit arg1 63))

/-! DUMP (R453, R454). -/

/-- The launches of a context that are in flight. -/
def State.flyingOf (s : State) (c : Nat) : List Nat :=
  allPos (fun (x : Launch) => x.ctx == c && !x.finished) s.launches

/-- Whether every unit of a context stands still: it is stopped, or blocked where it cannot reach a stop point, and no
thread of it is in a fold. -/
def State.still (s : State) (c : Nat) : Bool :=
  let ours := fun (g : Nat) => (s.launch (s.launchOfGroup g)).ctx == c
  (s.units.all fun (u : IssueUnit) => !u.live || u.stopped || u.blocked || !ours u.group) &&
  s.folds.all fun (f : Fold) => !ours f.group

/-- The teams of a context that a dump shows: those that have begun and not retired, parked ones too (R403, R454). -/
def State.teamsOf (s : State) (c : Nat) : List Nat :=
  allPos (fun (t : Team) => (t.holds || t.life == .parked) && (s.launch t.launch).ctx == c) s.teams

/-- The operations in flight on an accumulator. -/
def State.inflightOn (s : State) (m r k : Nat) : Nat :=
  (s.fly.mops.filter fun o => o.team == m && o.res == r && o.targets.contains k).length

/-- The state section of a dump (R454), with the numbers of its group images from `id` on. -/
def State.dumpState (s : State) (c id : Nat) : List Byte :=
  let ts := allPos (fun (t : Thread) => t.life != .exited && (t.life == .live || t.stopped) &&
    (s.launch (s.launchOfGroup t.group)).ctx == c) s.threads
  let ms := s.teamsOf c
  let gs := (ms.map s.groupsOf).flatten
  let accs := (ms.map fun m => ((List.range 16).filter fun r => ((s.team m).resv r).held).map fun r => (m, r)).flatten
  (ts.map fun t => (s.thr t).regBlock 0 ++ (s.thr t).regBlock 1 ++ (s.thr t).regBlock 2 ++ s.ctlBlock t).flatten ++
  (mapFrom (fun i g => s.groupBlock g (id + i)) 0 gs).flatten ++ (ms.map s.teamBlock).flatten ++
  (accs.map fun x => ((List.range 4).map fun k =>
    (((s.team x.1).resv x.2).accum k).block ++ valBytes 8 (s.inflightOn x.1 x.2 k)).flatten).flatten

/-- The 64 KiB granules that a context reaches: its tables and its pages (R453). -/
def State.granulesOf (s : State) (c : Context) : List Nat :=
  let r := s.reach 4 c.root
  r.1.map (fun t => t / 65536) ++ (r.2.map fun p => blocksOf 65536 p.1 p.2).flatten

/-- A dump's header shows its status and how many copies there are (R454). -/
def State.dumpHeader (s : State) (c : Nat) : State :=
  match (s.ctx c).dump with
  | none => s
  | some d =>
    let s1 := s.dumpCopy (d.area / 65536)
    s1.updSto fun m => { m with mem := dumpHead m.mem (((s1.ctx c).dump).getD d) }

/-- The cut of a dump (R453, R454): from now on the granules are copied before they are written, by the dump itself too, which
writes its header, in progress, and the state section. The copy list follows the state section, and the copies follow the list. -/
def State.cutDump (s : State) (c area size : Nat) : State :=
  let x := s.ctx c
  let st := s.dumpState c s.nextId
  let gs := s.granulesOf x
  let listAt := area + 64 + st.length
  let next := (listAt + 16 * gs.length + 4095) / 4096 * 4096
  let head := valBytes 8 0 ++ valBytes 8 s.clk ++ valBytes 8 x.root ++ valBytes 8 64 ++ valBytes 8 (64 + st.length) ++ zeros 24
  let images := mapFrom (fun i g => s.savedConvs g (s.nextId + i)) 0 ((s.teamsOf c).map s.groupsOf).flatten
  let s1 := { s.updFly (fun f => { f with convImages := f.convImages ++ images }) with nextId := s.nextId + images.length }
  let s2 := s1.updCtx c fun y => { y with
    dump := some { area := area, size := size, root := x.root, cut := s.clk, granules := gs, copies := [], lost := [],
                   next := next, listAt := listAt } }
  ((s2.writePhys area head).writePhys (area + 64) (st.take (size - 64))).dumpHeader c

/-- The thread state of a dump has been written: its header says so, and with RUN set its context's units are released (R453,
R454). -/
def State.endCut (s : State) (c : Nat) (run : Bool) : State :=
  let s1 := (s.updCtx c fun x => { x with dump := x.dump.map fun d => { d with complete := true } }).dumpHeader c
  if run then (s1.flyingOf c).foldl (fun s l => s.contLaunch l false) s1 else s1

/-- DUMP (R391, R439, R453): every launch of the context is stopped; once its units stand still the cut is made; and once the
thread state is written the command ends. -/
def State.cmdDump (s : State) (c arg0 arg1 : Nat) : CmdEnd :=
  let size := bits arg1 0 40
  match (s.ctx c).dump with
  | some d => if s.hasCtx c && !d.complete then .done (s.endCut c (bit arg1 40)) else .refused
  | none =>
    if !s.feature 4 || !s.hasCtx c || s.saveEntry.isNone || decide (arg0 % 4096 ≠ 0) || decide (size < 64) ||
        !s.physOk arg0 size then .refused
    else
      let s1 := (s.flyingOf c).foldl State.stopLaunch s
      .wait (if s1.still c then s1.cutDump c arg0 size else s1)

/-- DUMPEND (R439, R453). -/
def State.cmdDumpend (s : State) (c : Nat) : CmdEnd :=
  cmdIf ((s.ctx c).dump.isSome) (s.updCtx c fun x => { x with dump := none })

/-! The commands as events. -/

/-- DEBUG (R439). -/
def execDebugCmd (ctx arg0 : Nat) (s : State) : Out := .next (s.after (s.cmdDebug ctx arg0))

/-- STOP (R439). -/
def execStop (ctx arg0 arg1 : Nat) (s : State) : Out := .next (s.after (s.cmdStop ctx (arg0 % 64) arg1))

/-- CONT (R443). -/
def execCont (ctx arg0 arg1 : Nat) (s : State) : Out := .next (s.after (s.cmdCont ctx (arg0 % 64) arg1))

/-- DUMP (R453). -/
def execDump (ctx arg0 arg1 : Nat) (s : State) : Out := .next (s.after (s.cmdDump ctx arg0 arg1))

/-- DUMPEND (R439). -/
def execDumpend (ctx : Nat) (s : State) : Out := .next (s.after (s.cmdDumpend ctx))

/-! The control queue (R390, R435). -/

/-- A command of the control queue by its opcode (R390, R439, R485, R486). -/
def State.command (s : State) (op c a0 a1 : Nat) : CmdEnd :=
  match op with
  | 1 => s.cmdCreate c a0
  | 2 => s.cmdDestroy c
  | 3 => s.cmdQenable c (a0 % 64)
  | 4 => s.cmdQdisable c (a0 % 64)
  | 5 => s.cmdTlbi c a0 a1
  | 6 => s.cmdSuspend c
  | 7 => s.cmdResume c
  | 8 => s.cmdEndlaunch c (a0 % 64) a1
  | 9 => s.cmdSetsave a0
  | 10 => s.cmdDebug c a0
  | 11 => s.cmdStop c (a0 % 64) a1
  | 12 => s.cmdCont c (a0 % 64) a1
  | 13 => s.cmdDump c a0 a1
  | 14 => s.cmdDumpend c
  | 15 => s.cmdEzero c a0
  | 16 => s.cmdAttest a0 a1
  | 17 => s.cmdPlimit a0
  | _ => .refused

/-- Whether the control queue is served (R435, R481): after COMMIT, enabled, with a valid LOG2N, and booted. -/
def State.cqServed (s : State) : Bool :=
  let n := bits s.bar0.cqCtl.toNat 0 4
  s.bar0.committed && s.bar0.booted && bit s.bar0.cqCtl.toNat 8 && decide (4 ≤ n) && decide (n ≤ 12)

/-- The bytes of the next control command, where one waits and can be read. -/
def State.nextCommand (s : State) : Option (List Byte) :=
  if s.cqServed then
    match s.readPhys s.bar0.cqTail.toNat 8 with
    | none => none
    | some t =>
      if s.bar0.cqNext < bytesVal t then
        s.readPhys (s.bar0.cqRing.toNat + 64 * (s.bar0.cqNext % 2 ^ bits s.bar0.cqCtl.toNat 0 4)) 64
      else none
  else none

/-- A command has completed: its stamp, and the queue goes on (R390). -/
def State.stampCommand (s : State) (at_ status : Nat) : State :=
  let s1 := if s.physOk at_ 8 then s.writePhys at_ (stampBytes status (s.bar0.cqNext + 1)) else s
  { s1 with bar0 := { s1.bar0 with cqNext := s1.bar0.cqNext + 1 } }

/-- CONTROL_QUEUE_NOTIFY (R390, R435): the next command is performed; one that waits stays the next one. -/
def execControlQueueNotify (s : State) : Out :=
  match s.nextCommand with
  | none => .next s
  | some bs =>
    let v := sliceVal bs
    let e := if (bs.drop 32).any (fun b => b != 0) then .refused else s.command (v 0 4) (v 4 4) (v 8 8) (v 16 8)
    match e with
    | .done t => .next (t.stampCommand (v 24 8) 0)
    | .refused => .next (s.stampCommand (v 24 8) 1)
    | .wait t => .next t

/-! Stops and the trace. -/

/-- UNIT_STOP (R441, R442): a unit that is to stop has reached a stop point. -/
def execUnitStop (u : Nat) (s : State) : Out :=
  let x := s.unitAt u
  match x.stopAsk with
  | some c => if x.live && !x.stopped && x.atStop then .next (s.stopNow u c) else .next s
  | none => .next s

/-- TRACE_WRITTEN_FLUSH (R444): WRITTEN takes in the packets of the page under way. -/
def execTraceWrittenFlush (ctx : Nat) (s : State) : Out :=
  match (s.ctx ctx).debug with
  | some d =>
    if d.open_ && d.flushed != d.written + d.pos then
      .next ((s.writePhys d.ptrs (valBytes 8 (d.written + d.pos))).setDebug ctx { d with flushed := d.written + d.pos })
    else .next s
  | none => .next s

end Sys2Proof.Machine
end

