-- ==== Sys2Proof/Machine/EvHost.lean ====
section
/-!
DEFINITION. The host interface (R434 to R437, R481 to R483): the control registers of BAR 0, device memory through BAR 2,
the MSI-X table of BAR 4, and firmware staging.
-/

namespace Sys2Proof.Machine

/-! BAR 0 (R435). -/

/-- Changes the control registers. -/
def State.updBar0 (s : State) (f : Bar0 → Bar0) : State := { s with bar0 := f s.bar0 }

/-- STATUS (R435). -/
def Bar0.status (b : Bar0) : Nat := b2n b.committed + 2 * b2n b.fabricUp + 4 * b2n b.booted

/-- RCVCTL (R435). -/
def Bar0.rcvctl (b : Bar0) : Nat := 4 * b2n b.rcvBusy + 8 * b2n b.rcvFail

/-- What a host read of eight bytes of BAR 0 returns (R435). -/
def State.readRegister (s : State) (off : Nat) : Dword :=
  let b := s.bar0
  match off with
  | 0x00 | 0x08 | 0x10 | 0x18 => b.foffer.extractLsb' (8 * off) 64
  | 0x20 | 0x28 | 0x30 | 0x38 => b.faccept.extractLsb' (8 * (off - 0x20)) 64
  | 0x40 => BitVec.ofNat 64 (2 * b2n b.ferr)
  | 0x48 => b.cqRing
  | 0x50 => b.cqTail
  | 0x58 => b.cqCtl
  | 0x60 => BitVec.ofNat 64 ((b.podnum.map BitVec.toNat).getD 0)
  | 0x68 => BitVec.ofNat 64 s.tms
  | 0x70 => BitVec.ofNat 64 b.gkgen.toNat
  | 0x78 => BitVec.ofNat 64 b.status
  | 0x80 => BitVec.ofNat 64 b.rcvctl
  | _ => 0

/-- What a host read of 4 or 8 bytes of BAR 0, naturally aligned, returns (R435); any other reads as zero. -/
def State.readBar0 (s : State) (off n : Nat) : List Byte :=
  if (n = 4 ∨ n = 8) ∧ off % n = 0 then ((valBytes 8 (s.readRegister (off / 8 * 8)).toNat).drop (off % 8)).take n else zeros n

/-- A byte of BAR 4 (R434): the MSI-X table, and from 32,768 on the pending bits (log 29). -/
def State.msixByte (s : State) (a : Nat) : Byte :=
  if a < 32768 then (readCells s.msix a 1).headD 0
  else BitVec.ofNat 8 (((List.range 8).filter fun i => s.msixPending.any fun v => v % 2048 == 8 * (a - 32768) + i).foldl
    (fun n i => n + 2 ^ i) 0)

/-- Sets `n` bits of a register from bit `lo`. -/
def setBits (x lo n v : Nat) : Nat := x - bits x lo n * 2 ^ lo + v % 2 ^ n * 2 ^ lo

/-- Writes `n` bytes at an offset of the registers that only hold what is written: FACCEPT until COMMIT, CQRING and CQTAIL;
any other offset ignores the write (R435). -/
def Bar0.write (b : Bar0) (off n : Nat) (x : Dword) : Bar0 :=
  let part := fun (r : Dword) (base : Nat) => BitVec.ofNat 64 (setBits r.toNat (8 * (off - base)) (8 * n) x.toNat)
  if 0x20 ≤ off ∧ off + n ≤ 0x40 then
    if b.committed then b
    else { b with faccept := BitVec.ofNat 256 (setBits b.faccept.toNat (8 * (off - 0x20)) (8 * n) x.toNat) }
  else if 0x48 ≤ off ∧ off + n ≤ 0x50 then { b with cqRing := part b.cqRing 0x48 }
  else if 0x50 ≤ off ∧ off + n ≤ 0x58 then { b with cqTail := part b.cqTail 0x50 }
  else b

/-- Vectors that have been unmasked with their pending bit set send their message (R437). -/
def State.sendPending (s : State) : State :=
  let open_ := s.msixPending.filter fun v => !bit (bytesVal (readCells s.msix (v % 2048 * 16 + 12) 4)) 0
  open_.foldl State.sendMsi { s with msixPending := s.msixPending.filter fun v => !open_.contains v }

/-- Writes bytes of BAR 4 (R434): the MSI-X table of 2,048 entries of 16 bytes from offset 0; the pending bits behind it are
read only. -/
def State.writeMsix (s : State) (off n : Nat) (x : Dword) : State :=
  if off + n ≤ 32768 then ({ s with msix := writeCells s.msix off (valBytes n x.toNat) } : State).sendPending else s

/-- REGISTER_WRITE (R435): an 8-byte write, or a 4-byte one where bit 32 of the offset is set; offsets of 1 MiB and more name
BAR 4 (log 29). A write that is not naturally aligned is ignored. -/
def execRegisterWrite (off : Nat) (x : BitVec 64) (s : State) : Out :=
  let n := if bit off 32 then 4 else 8
  let o := off % 2 ^ 32
  if o % n ≠ 0 then .next s
  else if 2 ^ 20 ≤ o then .next (s.writeMsix (o - 2 ^ 20) n x)
  else .next (s.updBar0 fun b => b.write o n x)

/-- FCTL_COMMIT (R435, R436): a write of 1 to COMMIT. The rise of COMMITTED is reported on vector 0 (R437, log 47). -/
def execFctlCommit (s : State) : Out :=
  let b := s.bar0
  if b.committed then .next s
  else if b.faccept &&& ~~~b.foffer = 0 ∧ b.faccept.getLsbD 0 = true then
    .next ((s.updBar0 fun b => { b with committed := true, ferr := false }).sendMsi 0)
  else .next (s.updBar0 fun b => { b with ferr := true })

/-- CQCTL_WRITE (R435): the register holds whatever is written, but for bits [63:9], which are zero. -/
def execCqctlWrite (x : BitVec 64) (s : State) : Out :=
  .next (s.updBar0 fun b => { b with cqCtl := BitVec.ofNat 64 (x.toNat % 512) })

/-- PODNUM_WRITE (R421, R435): the first write after COMMIT sets it. -/
def execPodnumWrite (x : BitVec 64) (s : State) : Out :=
  if s.bar0.committed && s.bar0.podnum.isNone then .next (s.updBar0 fun b => { b with podnum := some (x.setWidth 12) })
  else .next s

/-- GKGEN_ADVANCE (R435). -/
def execGkgenAdvance (s : State) : Out := .next (s.updBar0 fun b => { b with gkgen := b.gkgen + 1 })

/-! Firmware staging (R481 to R483). -/

/-- The slot that staging writes: the one not in use since the last reset. -/
def Firmware.staging (f : Firmware) : Nat := if f.inUse = 0 then 1 else 0

/-- A firmware slot. -/
def Firmware.slot (f : Firmware) (k : Nat) : FwSlot := (f.slots[k]?).getD {}

/-- Changes the firmware and its storage. -/
def State.updFw (s : State) (f : Firmware → Firmware) : State := { s with fw := f s.fw }

/-- Changes a firmware slot. -/
def State.updSlotFw (s : State) (k : Nat) (f : FwSlot → FwSlot) : State := s.updFw fun x => { x with slots := upd x.slots k f }

/-- Whether an image passes steps 2 to 4 of R481 for a rollback counter (R482). The signature is a free function. -/
def imagePasses (im : List Byte) (rollback : Nat) : Bool :=
  let v := sliceVal im
  decide (v 0 4 = 0x4C4E4657) && decide (1 ≤ v 4 4) && decide (v 4 4 ≤ 255) && decide (rollback ≤ v 4 4) &&
  decide (im.length = 2608 + v 8 8 + 4627) && Config.imageVerifies im

/-- RCVCTL_START (R483): a write of 1 to START, ignored while a verification runs. -/
def execRcvctlStart (s : State) : Out :=
  if s.bar0.rcvBusy then .next s
  else .next ((s.updSlotFw s.fw.staging fun _ => { gen := 0, image := [] }).updBar0 fun b =>
    { b with rcvFail := false, rcvOpen := true })

/-- RCVDATA_WRITE (R483): eight bytes are appended; past 256 MiB, or without a START before, FAIL is set. -/
def execRcvdataWrite (x : BitVec 64) (s : State) : Out :=
  let im := (s.fw.slot s.fw.staging).image
  if s.bar0.rcvOpen && decide (im.length + 8 ≤ 2 ^ 28) then
    .next (s.updSlotFw s.fw.staging fun y => { y with image := y.image ++ valBytes 8 x.toNat })
  else .next (s.updBar0 fun b => { b with rcvFail := true })

/-- RCVCTL_DONE (R483): a write of 1 to DONE, ignored while a verification runs. -/
def execRcvctlDone (s : State) : Out :=
  if s.bar0.rcvBusy then .next s else .next (s.updBar0 fun b => { b with rcvBusy := true, rcvOpen := false })

/-- FIRMWARE_VERIFY_DONE (R483): the image's slot comes first at the next reset, or FAIL is set. An image is written in
pieces of eight bytes, so up to seven bytes behind its end are ignored. -/
def execFirmwareVerifyDone (s : State) : Out :=
  if s.bar0.rcvBusy then
    let k := s.fw.staging
    let im := (s.fw.slot k).image
    let whole := im.take (2608 + sliceVal im 8 8 + 4627)
    let ok := imagePasses whole s.fw.rollback && decide (im.length < whole.length + 8)
    let s1 := s.updBar0 fun b => { b with rcvBusy := false, rcvFail := !ok }
    .next (s1.updSlotFw k fun y => { gen := if ok then (s.fw.slot s.fw.inUse).gen + 1 else 0, image := y.image })
  else .next s

/-! BAR 2 (R251, R397, R434, R479). -/

/-- HOST_WRITE (R251, R434): one write, as a release at .dev. Bytes in the ranges that firmware reserves, and beyond the
capacity, are dropped. -/
def execHostWrite (addr : Nat) (bytes : List Byte) (s : State) : Out :=
  let lo := max addr (2 ^ 20)
  let hi := min (addr + bytes.length) (s.capacity - 2 ^ 32)
  if s.bar0.booted && decide (lo < hi) then .next (s.writePhys lo ((bytes.drop (lo - addr)).take (hi - lo))) else .next s

/-- A byte that a host read returns: all ones beyond the capacity and in the relay region (R397, R434). -/
def State.hostByte (s : State) (a : Nat) : Byte :=
  if s.capacity - 2 ^ 32 ≤ a ∨ s.bar0.booted = false then 0xFF else s.memByte a

/-- The die of the home of the first code word of a range that reads uncorrectable (R479). -/
def State.badDie (s : State) (pa n : Nat) : Nat :=
  (((blocksOf 32 pa n).find? fun k => s.memBad (32 * k) 32).map fun k => s.homeOf (k / 4) / 48).getD 0

/-- HOST_READ (R434, R435): the bytes, or a Completer Abort where a byte is uncorrectable, which is counted (R479). Addresses below
2^40 name BAR 2, the 2^20 behind them BAR 0, and those behind these BAR 4 (log 29). -/
def execHostRead (addr len : Nat) (s : State) : Out :=
  let n := min len (s.capacity - 2 ^ 32 - addr)
  if 2 ^ 40 ≤ addr then
    let off := addr - 2 ^ 40
    let bs := if off < 2 ^ 20 then s.readBar0 off len else (List.range len).map fun i => s.msixByte (off - 2 ^ 20 + i)
    .next { s with hostReads := s.hostReads ++ [⟨addr, some bs⟩] }
  else if s.bar0.booted && decide (0 < n) && s.memBad addr n then
    .next { s.countDie (s.badDie addr n) 8 1 with hostReads := s.hostReads ++ [⟨addr, none⟩] }
  else
    .next { s with hostReads := s.hostReads ++ [⟨addr, some ((List.range len).map fun i => s.hostByte (addr + i))⟩] }

end Sys2Proof.Machine
end

