-- ==== Sys2Proof/Machine/EvFabric.lean ====
section
/-!
DEFINITION. The Zwiuf fabric (R421 to R433): rotors and relays, what arrives from other devices and how it is checked and
performed, and the answers to this device's own requests.
-/

namespace Sys2Proof.Machine

/-- Changes the fabric port. -/
def State.updFabric (s : State) (f : Fabric → Fabric) : State := { s with fabric := f s.fabric }

/-- Whether the port serves the fabric (R421, R436). -/
def State.fabricOn (s : State) : Bool := s.feature 2 && s.bar0.fabricUp && s.bar0.podnum.isSome

/-! Links, rotors and relays (R421 to R423, R478). -/

/-- FABRIC_LINK_UP (R421): the links have trained; they train once the pod number has been written. The change of STATUS is
reported on vector 0 (R437): DEDUCED, as R437 does not say which events these are (log 47). -/
def execFabricLinkUp (s : State) : Out :=
  if s.feature 2 && s.bar0.podnum.isSome then
    let s1 := s.updBar0 fun b => { b with fabricUp := true }
    .next (if s.bar0.fabricUp then s1 else s1.sendMsi 0)
  else .next s

/-- The port that a matching pairs with a port (R422). -/
def rotorPeer (m p : Nat) : Nat := if p = 63 then m else if p = m then 63 else (2 * m + 63 - p) % 63

/-- The matching of rotor j in a dwell (R422). -/
def rotorMatch (dwell j : Nat) : Nat := (dwell + 2 * j) % 63

/-- The length of a dwell period, as wall time (R422). -/
def dwellLen : Nat := 1050 * wallNs

/-- Whether a device meets another on one of its rotors in a dwell: in its row on rotors 0 to 31, in its column on rotors 32
to 63 (R421, R422). -/
def State.meetsDevice (s : State) (dwell dev : Nat) : Bool :=
  let r := s.pod / 64
  let c := s.pod % 64
  (List.range 32).any fun j =>
    (dev / 64 == r && !s.fabric.rotorsOut.contains j && rotorPeer (rotorMatch dwell j) c == dev % 64) ||
    (dev % 64 == c && !s.fabric.rotorsOut.contains (32 + j) && rotorPeer (rotorMatch dwell j) r == dev / 64)

/-- ROTOR_DWELL (R422, R423): the next dwell begins; flits staged for a device that is met in it may leave, each by a free
choice. One that has been staged for 1.5 ms leaves no more. -/
def execRotorDwell (s : State) : Out :=
  let n := s.fabric.dwell + 1
  if n * dwellLen ≤ s.wall then
    let keep := mapFrom (fun i (x : Nat × Flit) =>
      (x, s.meetsDevice n x.2.dst && decide (s.wall < x.1 + 1500000 * wallNs) && s.pick i 2 == 0)) 0 s.fabric.staged
    .next (s.updFabric fun f => { f with dwell := n, staged := (keep.filter fun x => !x.2).map Prod.fst })
  else .next s

/-- The flits that a relay can stage: 96 MiB on the dies and 4 GiB of HBM, 256 bytes each (R423). -/
def stageRoom : Nat := (96 * 2 ^ 20 + 2 ^ 32) / 256

/-- What two requests become where they carry siblings of one element to one meeting place: their parent (R325, R433). -/
def pairRequests (a b : RemoteReq) : Option RemoteReq :=
  match a.op, b.op with
  | .node h e ep lv op l i v, .node h2 e2 ep2 lv2 op2 l2 j w =>
    if a.tctx = b.tctx ∧ (h, e, ep, lv, op, l) = (h2, e2, ep2, lv2, op2, l2) ∧ j = i ^^^ 1 then
      some { a with op := .node h e ep lv op (l + 1) (i / 2) (if i % 2 = 0 then treeOp op v w else treeOp op w v) }
    else none
  | _, _ => none

/-- The first staged flit that a flit's node still meets in the port's rick (R326), and what becomes of it. Whether the rick
still holds a node is a free choice. -/
def State.relayPair (s : State) (flit : Flit) : Option (Nat × Flit) :=
  ((allPos (fun (x : Nat × Flit) => x.2.dst == flit.dst) s.fabric.staged).filter fun i => s.pick i 2 == 0).findSome? fun i =>
    (s.fabric.staged[i]?).bind fun x => (pairRequests x.2.req flit.req).map fun q => (i, { x.2 with req := q })

/-- RELAY_STAGE (R326, R423): a flit between two other devices on whose way this device is a relay is staged, or refused where there is
no room; a tree node may pair in the port's rick. -/
def execRelayStage (flit : Flit) (s : State) : Out :=
  if s.fabricOn && !s.dropsFrom flit.src && flit.dst != s.pod && flit.src != s.pod &&
      (firstHops flit.src flit.dst true).contains s.pod && decide (s.fabric.staged.length < stageRoom) then
    match s.relayPair flit with
    | some r => .next (s.updFabric fun f => { f with staged := upd f.staged r.1 fun x => (x.1, r.2) })
    | none => .next (s.updFabric fun f => { f with staged := f.staged ++ [(s.wall, flit)] })
  else .next s

/-- RELAY_DISCARD (R423): a flit staged for 1.5 ms. -/
def execRelayDiscard (flit : Nat) (s : State) : Out :=
  match s.fabric.staged[flit]? with
  | some x =>
    if x.1 + 1500000 * wallNs ≤ s.wall then
      .next (s.updFabric fun f => { f with staged := f.staged.take flit ++ f.staged.drop (flit + 1) })
    else .next s
  | none => .next s

/-- FLIT_CRC_RETRY (R478, R479): the link sends a flit again; the retry is counted on a die of the free choice. -/
def execFlitCrcRetry (fibre : Nat) (s : State) : Out :=
  if s.fabricOn && decide (fibre < 128) then
    .next ((s.countDie (s.pick 0 4) 7 1).updFabric fun f => { f with resent := f.resent + 1 })
  else .next s

/-- The wavelengths of a fibre that are in service: 64 while spares last (R478). -/
def State.wavesOf (s : State) (fibre : Nat) : Nat :=
  min 64 (68 - (s.health.waves.filter fun w => w.1 == fibre).length)

/-- WAVELENGTH_REPLACE (R478): a wavelength leaves service; with fewer than 48 the fibre does, and its rotor with it. Fibre
pair p has fibres 2p and 2p + 1. -/
def execWavelengthReplace (fibre wave : Nat) (s : State) : Out :=
  if decide (fibre < 128) && decide (wave < 68) && !s.health.waves.contains (fibre, wave) then
    let s1 := { s with health := { s.health with waves := s.health.waves ++ [(fibre, wave)] } }
    .next (if s1.wavesOf fibre < 48 then
        s1.updFabric fun f => { f with rotorsOut := dedup (f.rotorsOut ++ [fibre / 2]) }
      else s1)
  else .next s

/-! Grants at the ingress (R430 to R432). -/

/-- The right that an access needs: its bit in the token's rights (R430, R432). -/
def remoteRight (o : RemoteOp) : Nat :=
  match o with
  | .load _ _ => 0
  | .store _ _ => 1
  | .atomic _ _ _ _ => 2
  | .cas _ _ _ _ => 2
  | .subscribe _ _ _ => 3
  | .unsubscribe _ _ _ => 3
  | .retire _ => 3
  | .node _ _ _ _ _ _ _ _ => 1
  | .root _ _ _ _ => 1
  | .treeFailed _ _ _ _ => 1
  | .treeStat _ _ => 1

/-- Whether an operation is tree traffic. -/
def remoteTree (o : RemoteOp) : Bool :=
  match o with
  | .node _ _ _ _ _ _ _ _ => true
  | .root _ _ _ _ => true
  | .treeFailed _ _ _ _ => true
  | .treeStat _ _ => true
  | _ => false

/-- The range of a window that an operation accesses, as offset and length. -/
def remoteSpan (o : RemoteOp) : Nat × Nat :=
  match o with
  | .load off n => (off, n)
  | .store off bs => (off, bs.length)
  | .atomic off _ t _ => (off, atyBytes t)
  | .cas off w64 _ _ => (off, if w64 then 8 else 4)
  | .subscribe off _ _ => (off, 128)
  | _ => (0, 0)

/-- Whether a token's MAC and key generation are right for a context of this device (R431). -/
def State.macOk (s : State) (ctx token : Nat) : Bool :=
  let gen := token % 16
  let cur := s.bar0.gkgen.toNat
  (gen == cur || gen == (cur + 15) % 16) && s.tokenMac ctx gen (token % 2 ^ 40) == token / 2 ^ 40

/-- The base of the window that a request is admitted to, none where a check after the MAC refuses it (R432). -/
def State.admitBase (s : State) (c : Context) (token : Nat) (o : RemoteOp) : Option Nat :=
  match s.grantWindow c (bits token 20 16) with
  | none => none
  | some w =>
    let left := (bits token 4 16 + 2 ^ 16 - s.tms % 2 ^ 16) % 2 ^ 16
    if bit w.2.2 5 && decide (1 ≤ left) && decide (left ≤ 32767) && bit token (36 + remoteRight o) && bit w.2.2 (remoteRight o) &&
        (bit w.2.2 4 == remoteTree o) && (remoteTree o || decide ((remoteSpan o).1 + (remoteSpan o).2 ≤ w.2.1)) then some w.1
    else none

/-! What an admitted request does (R425). -/

/-- The number of an atomic's operator (R263). -/
def aopNumber (o : Aop) : Nat :=
  match o with
  | .add => 0
  | .and => 1
  | .or => 2
  | .xor => 3
  | .exch => 4
  | .min => 5
  | .max => 6

/-- A request's place in memory, which must lie within one page or be reached piece by piece. -/
def State.remoteAtomic (s : State) (c : Context) (va aop : Nat) (t : ATy) (x cmp : Dword) : State × AckKind :=
  let n := atyBytes t
  match s.xlate c va 3 with
  | .ok (.mem pa) =>
    match s.readPhys pa n with
    | none => (s, .bad)
    | some old =>
      let v := BitVec.ofNat 64 (bytesVal old)
      (if atomicWrites aop t v cmp then s.writePhys pa (valBytes n (atomicNew aop t v x cmp).toNat) else s, .done v)
  | _ => (s, .refused)

/-- A subscription of a slot of another device (R336, R342): the fill with its SEQ, and a last byte that says whether there
is a subscription. -/
def State.remoteSubscribe (s : State) (c : Context) (va dev sctx team slot : Nat) (token : Dword) : State × AckKind :=
  match s.xlate c va 1 with
  | .ok (.mem pa) =>
    match s.readPhys (pa / 128 * 128) 128 with
    | none => (s, .bad)
    | some bs =>
      let q := s.lineSeq (pa / 128)
      let fill := bs ++ valBytes 8 q
      if s.tableFull (pa / 128) then (s, .data (fill ++ [0]))
      else
        let x : Sub := ⟨s.nextId, pa / 128, sctx, team, slot, some dev, token, q⟩
        ((s.updFly fun f => { f with subs := f.subs ++ [x] }).takeId, .data (fill ++ [1]))
  | _ => (s, .refused)

/-- Subscriptions of another device's context end without a notice (R344, R346): those of a team, or of one of its slots. -/
def State.remoteDrop (s : State) (dev sctx team : Nat) (slot : Option Nat) : State :=
  s.dropSub fun x => x.dev == some dev && x.ctx == sctx && x.team == team && (slot.isNone || slot == some x.slot)

/-- The whole epoch that eight bits of it stand for, next to one (R322). -/
def wholeEpoch (cur low : Nat) : Nat :=
  let d := (low + 256 - cur % 256) % 256
  if d < 128 then cur + d else cur + d - 256

/-- The epoch that a handle of a context stands at: that of its tree set, else that of its descriptor (R321, R322). -/
def State.epochOf (s : State) (ctx handle : Nat) : Nat :=
  match s.treeSet ctx handle with
  | some t => t.seq
  | none => match s.readTree (s.ctx ctx) 0 handle with | some t => t.seq - 1 | none => 0

/-- A tree node of another device (R322, R326, R433): it passes the rick of the port that it arrives at. -/
def State.remoteNode (s : State) (ctx handle elem epoch leaves op level index : Nat) (v : Dword) : State :=
  let x : TreeNode := ⟨s.nextId, ctx, handle, elem, wholeEpoch (s.epochOf ctx handle) epoch, leaves, op, level, index, v,
                       .toPort (s.pick 0 64), s.clk, none, false⟩
  (s.updFly fun f => { f with nodes := f.nodes ++ [x] }).takeId

/-- An open element of the current epoch fails because another device says so, or because its node was refused (R329,
R433). -/
def State.failRemote (s : State) (ctx handle elem epoch cause : Nat) : State :=
  match s.treeSet ctx handle with
  | some t =>
    if t.seq % 256 = epoch ∧ (s.elemState ctx handle elem t.seq).1 = 2 then
      s.failElem ⟨0, ctx, handle, elem, t.seq, t.leaves, t.op, 0, 0, 0, .toPort 0, 0, none, false⟩ cause
    else s
  | none => s

/-- A root broadcast by its home device (R329): written at this device's own ROOT and STAMP. -/
def State.remoteRoot (s : State) (ctx handle elem seq : Nat) (v : Dword) : State :=
  let c := s.ctx ctx
  match (s.treeSet ctx handle).or (s.readTree c 0 handle) with
  | none => s
  | some t =>
    match s.vwrite c (t.root.toNat + elem * (if t.op = 0 then 4 else 8)) (rootBytes t.op v) with
    | none => s
    | some s => s.writeStamp c (t.stamp.toNat + 8 * elem) 2 (stampBytes 0 seq)

/-- Performs an admitted request at a window's base (R425). An address that does not translate is answered as a refusal, and
uncorrectable data as such (log 30). -/
def State.performRemote (s : State) (c : Context) (dev sctx base : Nat) (token : Dword) (o : RemoteOp) :
    State × AckKind :=
  match o with
  | .load off n =>
    match s.vread c (base + off) n with
    | .ok bs => (s, .data bs)
    | .error e => (s, if e.1 = 5 then .bad else .refused)
  | .store off bs =>
    match s.vwrite c (base + off) bs with
    | some s => (s, .done 0)
    | none => (s, .refused)
  | .atomic off a t x => s.remoteAtomic c (base + off) (aopNumber a) t x 0
  | .cas off w64 cmp new => s.remoteAtomic c (base + off) 7 (if w64 then .n64 else .n32) new cmp
  | .subscribe off slot team => s.remoteSubscribe c (base + off) dev sctx team slot token
  | .unsubscribe _ slot team => (s.remoteDrop dev sctx team (some slot), .done 0)
  | .retire team => (s.remoteDrop dev sctx team none, .done 0)
  | .node h e ep lv op l i v => (s.remoteNode c.num h e ep lv op l i v, .done 0)
  | .root h e q v => (s.remoteRoot c.num h e q v, .done 0)
  | .treeFailed h e ep cause => (s.failRemote c.num h e ep cause, .done 0)
  | .treeStat h e =>
    match s.treeSet c.num h with
    | none => (s, .refused)
    | some t => (s, .done (elemWord t (s.elemState c.num h e t.seq)))

/-! Sequence numbers and incarnations (R427, R428). -/

/-- Whether an incarnation is newer than another, modulo 2^16. -/
def newerInc (a b : Nat) : Bool := decide (1 ≤ (a + 2 ^ 16 - b) % 2 ^ 16) && decide ((a + 2 ^ 16 - b) % 2 ^ 16 < 2 ^ 15)

/-- What the target holds of a source for a request: a newer source starts afresh. -/
def State.sourceOf (s : State) (q : RemoteReq) : SourceRec :=
  let new : SourceRec := ⟨q.dev, q.sctx, q.sinc, q.seq - 1, [], []⟩
  match s.fabric.sources.find? fun x => x.dev == q.dev && x.ctx == q.sctx with
  | none => new
  | some x => if newerInc q.sinc x.inc then new else x

/-- Sets what the target holds of a source. -/
def State.putSource (s : State) (x : SourceRec) : State :=
  s.updFabric fun f => { f with sources := f.sources.filter (fun y => !(y.dev == x.dev && y.ctx == x.ctx)) ++ [x] }

/-- Whether a number has been performed (R427). -/
def SourceRec.has (x : SourceRec) (seq : Nat) : Bool := x.done.contains seq

/-- A number has been performed: the record keeps the 4,096 highest (R427). -/
def SourceRec.record (x : SourceRec) (seq : Nat) (old : Dword) : SourceRec :=
  let h := max x.high seq
  { x with high := h, done := (x.done ++ [seq]).filter (fun n => decide (h < n + 4096)),
           olds := (x.olds ++ [(seq, old)]).filter fun n => decide (h < n.1 + 4096) }

/-- Sends an answer; it carries the request's number and this device's incarnation. -/
def State.reply (s : State) (q : RemoteReq) (k : AckKind) : State :=
  s.updFabric fun f => { f with acks := f.acks ++ [⟨q.seq, s.fabric.incarnation, k⟩] }

/-- Counts a stale request (R427, R428). -/
def State.stale (s : State) : State := s.updFabric fun f => { f with stale := f.stale + 1 }

/-- A MAC failure (R432): 4,096 from one device within 1 s block it for 1 s, with a record to each context that it meant. -/
def State.macFailed (s : State) (dev ctx : Nat) : State :=
  let fails := (s.fabric.macFails ++ [(dev * 64 + ctx, s.wall)]).filter fun x => decide (s.wall < x.2 + 1000000000 * wallNs)
  let own := fails.filter fun x => x.1 / 64 == dev
  if 4096 ≤ own.length then
    let s1 := s.updFabric fun f => { f with
      macFails := fails.filter (fun x => x.1 / 64 ≠ dev), blocked := f.blocked ++ [(dev, s.wall)] }
    (dedup (own.map fun x => x.1 % 64)).foldl (fun s c => s.fq12 c 6 0 0) s1
  else s.updFabric fun f => { f with macFails := fails }

/-- INGRESS_BLOCK_END (R432). -/
def execIngressBlockEnd (dev : Nat) (s : State) : Out :=
  .next (s.updFabric fun f => { f with
    blocked := f.blocked.filter fun x => !(x.1 == dev && decide (x.2 + 1000000000 * wallNs ≤ s.wall)) })

/-- A request is refused (R432). -/
def State.refuseRemote (s : State) (q : RemoteReq) : State :=
  let s1 := match q.op with
    | .node h e ep _ _ _ _ _ => s.failRemote q.tctx h e ep 5
    | _ => s
  s1.reply q .refused

/-- A request that is neither stale nor a duplicate is checked against its grant, performed and, once it has been, recorded (R427,
R432). -/
def State.serve (s : State) (q : RemoteReq) (x : SourceRec) : State :=
  let c := s.ctx q.tctx
  if !s.macOk q.tctx q.token.toNat then (s.refuseRemote q).macFailed q.dev q.tctx
  else if !s.hasCtx q.tctx then s.refuseRemote q
  else
    match s.admitBase c q.token.toNat q.op with
    | none => s.refuseRemote q
    | some base =>
      let r := s.performRemote c q.dev q.sctx base q.token q.op
      let s1 := match r.2 with
        | .done v => if sequenced q.op then r.1.putSource (x.record q.seq v) else r.1
        | _ => r.1
      s1.reply q r.2

/-- What the target holds of an older incarnation of a request's source is discarded (R428). -/
def State.afresh (s : State) (q : RemoteReq) : State :=
  if s.fabric.sources.any fun x => x.dev == q.dev && x.ctx == q.sctx && newerInc q.sinc x.inc then s.putSource (s.sourceOf q) else s

/-- REMOTE_REQUEST_INGRESS (R427, R428, R432). -/
def execRemoteRequestIngress (req : RemoteReq) (s : State) : Out :=
  if !s.fabricOn || s.dropsFrom req.dev then .next s
  else if !sequenced req.op then .next (s.serve req (s.sourceOf req))
  else if req.tinc ≠ s.fabric.incarnation then .next (s.reply req .reset)
  else
    let x := s.sourceOf req
    if x.inc ≠ req.sinc ∨ req.seq + 4096 ≤ x.high then .next s.stale
    else if x.has req.seq then .next (s.reply req (.done ((look x.olds req.seq).getD 0)))
    else .next ((s.afresh req).serve req x)

/-! Answers to this device's requests (R426 to R429). -/

/-- A request without an answer, by its number. -/
def State.request (s : State) (id : Nat) : Option Outgoing := s.fabric.out.find? fun o => o.id == id

/-- The operations in flight that a request serves. -/
def State.opsFor (s : State) (id : Nat) : List Op :=
  s.fly.ops.filter fun o => match o.kind with | .remote r _ _ _ _ _ _ _ _ => r == id | _ => false

/-- The bits of ACCESS for a request's failure (R398). -/
def remoteAccess (o : RemoteOp) : Nat :=
  match o with
  | .load _ _ => 1
  | .atomic _ _ _ _ => 3
  | .cas _ _ _ _ => 3
  | _ => 2

/-- The value of an operation's request has come, or its failure: a register's value, a gathered element, or the end of a
counted operation (R182, R246, R259). -/
def State.landRemote (s : State) (o : Op) (val : Except Failure (List Byte)) : State :=
  match o.kind with
  | .remote _ dst words skip len sext ctr spad acq =>
    let s1 := match acq, val with
      | some sc, .ok _ => s.acquire o.core sc
      | _, _ => s
    match spad with
    | some y => s1.setOp o.id (.gather (match val with | .ok bs => .ok ((bs.drop skip).take len) | .error f => .error f) y)
    | none =>
      if words = 0 then
        match val with
        | .ok _ => s1.setOp o.id (.done (ctr.getD .st) none)
        | .error f => s1.setOp o.id (.done (ctr.getD .st) (some f))
      else
        match val with
        | .ok bs => s1.setOp o.id (.fill dst words (.ok (extendBytes sext ((bs.drop skip).take len))) ctr)
        | .error f => s1.setOp o.id (.fill dst words (.error f) ctr)
  | _ => s

/-- What an unknown outcome leaves for a request that no operation waits for (R429): records for tree nodes and roots. -/
def State.unknown (s : State) (q : Outgoing) : State :=
  match q.op with
  | .node _ _ _ _ _ _ _ _ => s.fq12 q.ctx 6 0 0
  | .root _ _ _ _ => s.fq12 q.ctx 7 0 0
  | _ => s

/-- The threads whose accesses a request serves (R426): those of its loads, stores and atomics, of a block or flush whose bytes it
stores, of a word that waits for what it reads, and of SLOAD and UNSUB. -/
def State.threadsFor (s : State) (id : Nat) : List Nat :=
  (s.opsFor id).map Op.thread ++
  (s.fly.ops.filter fun o => match o.kind with | .parts rs _ .st _ => rs.any fun r => r.1 == id | _ => false).map Op.thread ++
  (s.fly.reads.filter fun r => r.req == id).flatMap fun r =>
    match r.who with
    | .word t _ => [t]
    | .sload k => (s.fly.reqs.filter fun x => x.id == k).map SloadReq.thread
    | .unsub k => (s.fly.pushes.filter fun p => p.id == k).filterMap Push.thread
    | _ => []

/-- Whether a request still waits at the source port (R426, R427): an older one of the same thread to the same line has no
answer, or 4,096 older ones of its context to its target have none. -/
def State.requestHeld (s : State) (q : Outgoing) : Bool :=
  let ts := s.threadsFor q.id
  let older := (s.fabric.out.takeWhile fun x => x.id ≠ q.id).filter fun x => x.dev == q.dev
  (older.any fun x =>
    x.tctx == q.tctx && x.token == q.token && (remoteSpan x.op).1 / 128 == (remoteSpan q.op).1 / 128 &&
      (s.threadsFor x.id).any ts.contains) ||
  (sequenced q.op && decide (4096 ≤ (older.filter fun x => x.ctx == q.ctx && sequenced x.op).length))

/-- Requests that waited at the port and need not any more are sent now, for the first time. -/
def State.release (s : State) (held : List Outgoing) : State :=
  let sent := fun (o : Outgoing) => held.any (fun x => x.id == o.id) && !s.requestHeld o
  s.updFabric fun f => { f with out := f.out.map fun o => if sent o then { o with since := s.wall } else o }

/-- The bytes that an operation's request has written to a peer window, old and new (R447): an answer to a store does not hold the old
ones, which are free values (log 8). -/
def State.remoteWrote (s : State) (q : Outgoing) (o : Op) (bs : List Byte) : Option (List Byte × List Byte) :=
  let old := BitVec.ofNat 64 (bytesVal bs)
  match q.op, o.kind with
  | .store off new, .remote _ _ _ _ len _ _ _ _ =>
    some ((List.range len).map fun i => Config.freeByte s.fresh (o.va + i), (new.drop (o.va % 128 - off % 128)).take len)
  | .atomic _ a t x, _ => some (valBytes (atyBytes t) old.toNat, valBytes (atyBytes t) (atomicNew (aopNumber a) t old x 0).toNat)
  | .cas _ w64 cmp new, _ =>
    let n := if w64 then 8 else 4
    if atomicWrites 7 (if w64 then .n64 else .n32) old cmp then some (valBytes n old.toNat, valBytes n new.toNat) else none
  | _, _ => none

/-- What an operation has written to a peer window is logged where it is watched (R447). -/
def State.watchRemote (s : State) (q : Outgoing) (val : Except (Nat × Nat) (List Byte)) (o : Op) : State :=
  match val with
  | .ok bs => (s.remoteWrote q o bs).elim s fun x => s.watched o.thread o.pc o.va x.1 x.2
  | .error _ => s

/-- A request has ended with a value or a failure's class and code: the operations that it serves end with the address and
access that failed (R181, R182, R429), a flush or MSTORE has one answer fewer to wait for, and a reader has its answer. Requests that
waited for this one are sent. -/
def State.endRequest (s : State) (q : Outgoing) (val : Except (Nat × Nat) (List Byte)) : State :=
  let s1 := s.updFabric fun f => { f with out := f.out.filter fun o => o.id ≠ q.id }
  let waited := s1.fly.reads.any (fun r => r.req == q.id) || s1.opsFor q.id != [] ||
    s1.fly.ops.any fun o => match o.kind with | .parts rs _ _ _ => rs.any fun r => r.1 == q.id | _ => false
  let part := fun (o : Op) =>
    match o.kind with
    | .parts rs err c st =>
      match look rs q.id with
      | some va =>
        let e : Option Failure := match val with
          | .ok _ => none
          | .error x => some ⟨x.1, x.2, BitVec.ofNat 64 va, if c = .mx then 10 else 2, o.pc⟩
        { o with kind := .parts (rs.filter fun r => r.1 ≠ q.id) (err.or e) c st }
      | none => o
    | _ => o
  let s2 := s1.updFly fun f => { f with
    ops := f.ops.map part, reads := f.reads.map fun r => if r.req = q.id then { r with ans := some val } else r }
  let s3 := (s1.opsFor q.id).foldl (fun s o => (s.watchRemote q val o).landRemote o (match val with
    | .ok bs => .ok bs
    | .error x => .error ⟨x.1, x.2, BitVec.ofNat 64 o.va, remoteAccess q.op, o.pc⟩)) s2
  let s4 := match waited, val with
    | false, .error (10, _) => s3.unknown q
    | _, _ => s3
  s4.release (s.fabric.out.filter s.requestHeld)

/-- TSTAT's word from another device's answer (R333): a STATE that there is, a CAUSE of that STATE, and this launch's epoch. -/
def State.statAnswer (s : State) (q : Outgoing) (v : Nat) : Nat :=
  match q.op with
  | .treeStat h _ =>
    let state := bits v 62 2 % 3
    let cause := if state = 2 then 0 else if state = 0 then bits v 58 1 else max 1 (bits v 58 3)
    state * 2 ^ 62 + cause * 2 ^ 58 + ((s.treeSet q.ctx h).elim 0 TreeSet.seq) % 2 ^ 48
  | _ => v

/-- REMOTE_ACK_ARRIVAL (R427 to R429, R432): the answer to a request, in order for the accesses of one thread to one line.
The target's incarnation is learned from it. -/
def execRemoteAckArrival (ack : RemoteAck) (s : State) : Out :=
  match s.request ack.id with
  | none => .next s
  | some q =>
    if s.requestHeld q || s.dropsFrom q.dev then .next s
    else
      let s1 := s.updFabric fun f => { f with targetIncs := put f.targetIncs q.dev ack.inc }
      match ack.kind with
      | .done v => .next (s1.endRequest q (.ok (valBytes 8 (s.statAnswer q v.toNat))))
      | .data bs => .next (s1.endRequest q (.ok bs))
      | .refused => .next (s1.endRequest q (.error (5, 5)))
      | .bad => .next (s1.endRequest q (.error (5, 6)))
      | .reset => .next (s1.endRequest q (.error (10, 0x0B03)))

/-- The wall time from a request's first send to its next one, after so many retries: 16 µs, then doubling intervals up to
256 µs (R427). -/
def retryAt (tries : Nat) : Nat :=
  ((List.range (tries + 1)).map fun i => min 256 (16 * 2 ^ i)).foldl (· + ·) 0 * 1000 * wallNs

/-- REMOTE_RETRANSMIT (R427): the request is sent again with the same number, over another rotor or relay. -/
def execRemoteRetransmit (req : Nat) (s : State) : Out :=
  match s.request req with
  | some q =>
    if !s.requestHeld q && decide (q.since + retryAt q.tries ≤ s.wall) then
      .next (s.updFabric fun f => { f with out := f.out.map fun o => if o.id = req then { o with tries := o.tries + 1, way := s.wayFor q.dev (some q.way) } else o })
    else .next s
  | none => .next s

/-- REMOTE_GIVE_UP (R429): 2 ms after its first send a request is given up, with an unknown outcome. -/
def execRemoteGiveUp (req : Nat) (s : State) : Out :=
  match s.request req with
  | some q =>
    if !s.requestHeld q && decide (q.since + 2000000 * wallNs ≤ s.wall) then .next (s.endRequest q (.error (10, 0x0B03)))
    else .next s
  | none => .next s

end Sys2Proof.Machine
end

