-- ==== Sys2Proof/Machine/EvHealth.lean ====
section
/-!
DEFINITION. Faults of the module, repair, reset and power (file 25, file 26): fences and containment, lost lines, repair
points, the boot of R481 with the repair map of R474, thermal trips, the clock, and the blocks that firmware keeps.
-/

namespace Sys2Proof.Machine

/-- Changes what is out of order. -/
def State.updHealth (s : State) (f : Health → Health) : State := { s with health := f s.health }

/-! Sites (R470, R473, R474). -/

/-- Whether a site serves (R474). -/
def Site.serves : Site → Bool
  | .inService => true
  | .replacement _ => true
  | _ => false

/-- What the repair map in force says of a site; with no map yet, the last sites of a group are its spares (log 6). -/
def siteOf (l : List Site) (size need k : Nat) : Site := (l[k]?).getD (if k % size < need then .inService else .spare)

/-- The repair map in force (R474). -/
def State.map (s : State) : RepairMap := ((s.fw.maps.head?).map Prod.fst).getD {}

/-- The site that serves a logical slice. -/
def State.sliceSiteOf (s : State) (k : Nat) : Nat := (s.health.sliceSite[k]?).getD (k / 48 * 50 + k % 48)

/-- The core sites of a cluster that serve. -/
def State.servingCores (s : State) (cl : Nat) : List Nat :=
  ((List.range 6).map fun c => 6 * cl + c).filter (fun c => !s.health.fencedCores.contains c) |>.map s.coreSiteOf

/-- The spare core sites left in a cluster. -/
def State.spareCores (s : State) (cl : Nat) : List Nat :=
  ((List.range 7).map fun k => 7 * cl + k).filter fun k =>
    !(s.servingCores cl).contains k && !s.health.badCores.contains k && siteOf s.map.cores 7 6 k != .retired

/-- The slice sites of a die that serve. -/
def State.servingSlices (s : State) (d : Nat) : List Nat :=
  ((List.range 48).map fun i => 48 * d + i).filter (fun k => (look s.health.fencedSlices k).isNone) |>.map s.sliceSiteOf

/-- The spare slice sites left on a die. -/
def State.spareSlices (s : State) (d : Nat) : List Nat :=
  ((List.range 50).map fun i => 50 * d + i).filter fun k =>
    !(s.servingSlices d).contains k && !s.health.badSlices.contains k && siteOf s.map.slices 50 48 k != .retired

/-- The number of spare channel sites left in a stack. -/
def State.spareChannels (s : State) (st : Nat) : Nat :=
  ((List.range 34).filter fun i => siteOf s.map.channels 34 32 (34 * st + i) == .spare).length -
    (s.health.goneChannels.filter fun c => c / 34 == st).length

/-- The number of channels in service in a stack. -/
def State.servingChannels (s : State) (st : Nat) : Nat :=
  ((List.range 34).filter fun i => (siteOf s.map.channels 34 32 (34 * st + i)).serves).length

/-! Containment (R470). -/

/-- The CLASS 12 record of containment (R470). -/
def State.containRecord (s : State) (l kind addr : Nat) : State :=
  let x := s.launch l
  s.fq12 x.ctx 9 addr (kind + x.queue * 2 ^ 8 + x.index % 2 ^ 50 * 2 ^ 14)

/-- A launch is ended by containment, unless it has left already. -/
def State.contain (s : State) (l kind addr : Nat) : State :=
  if (s.launch l).finished || (s.launch l).ended then s else (s.endLaunch l).containRecord l kind addr

/-- A repair point is wanted from now on (R472). -/
def State.wantRepair (s : State) : State :=
  if s.health.repair.isSome then s else s.updHealth fun h => { h with repair := some s.wall }

/-! Fences of cores and engines (R277, R467). -/

/-- The nodes in a core's rick, and those on their way to it, are lost (R467). -/
def State.dropRick (s : State) (core : Nat) : State :=
  let gone := fun (x : TreeNode) => x.place == .coreRick core || x.place == .toCore core
  let s1 := s.updFly fun f => { f with nodes := f.nodes.filter fun x => !gone x }
  (s.fly.nodes.filter gone).foldl (fun s x => s.settle x none) s1

/-- A core is fenced (R467): every launch with a team on it is ended, its rick and L1 are discarded. -/
def State.fenceCore (s : State) (core : Nat) : State :=
  let site := s.coreSiteOf core
  let ls := dedup ((s.teams.filter fun t => t.holds && t.cores.contains core).map Team.launch)
  let s1 := s.updHealth fun h => { h with
    fencedCores := h.fencedCores ++ [core], badCores := h.badCores ++ [site], stale := true }
  let s2 := (ls.foldl (fun s l => s.contain l 2 site) s1).dropRick core
  let s3 := s2.updSto fun m => { m with visitors := m.visitors.filter fun v => v.core ≠ core }
  if s3.spareCores (core / 6) = [] then s3 else s3.wantRepair

/-- CORE_FENCE (R467). -/
def execCoreFence (core : Nat) (s : State) : Out :=
  if decide (144 ≤ core) || s.health.fencedCores.contains core then .next s else .next (s.fenceCore core)

/-- The launches of the reservations that an engine is held by. -/
def State.holdersOf (s : State) (eng : Nat) : List Nat :=
  (s.teams.map fun (t : Team) => (t.resvs.filter fun r => r.held && r.eng == eng).map fun _ => t.launch).flatten

/-- The fenced engines of a core. -/
def State.fencedOn (s : State) (core : Nat) : Nat := (s.health.fencedEngines.filter fun e => e / 4 == core).length

/-- ENGINE_FENCE (R277, R467, R470): each reservation that holds the engine gets a record; the third fenced engine of a core
fences the core. -/
def execEngineFence (eng : Nat) (s : State) : Out :=
  if decide (576 ≤ eng) || s.engineFenced eng || s.health.fencedCores.contains (eng / 4) then .next s
  else
    let s1 := s.fenceEngine eng
    if 3 ≤ s1.fencedOn (eng / 4) then .next (s1.fenceCore (eng / 4))
    else .next ((s.holdersOf eng).foldl (fun s l => s.containRecord l 1 (s.engineSiteOf eng)) s1)

/-! Lost lines and slices (R469, R471). -/

/-- A lost-line table is full (R469): every launch of every context that maps the line is ended, and the contexts' queues
are disabled for good. -/
def State.containLine (s : State) (line : Nat) : State :=
  let cs := (s.ctxs.filter fun c => s.mapsLine c line).map Context.num
  let ls := allPos (fun (x : Launch) => cs.contains x.ctx && !x.finished) s.launches
  let s1 := ls.foldl (fun s l => s.contain l 5 (line * 128)) s
  cs.foldl (fun s c => s.updCtx c fun x => { x with
    contained := true, queues := x.queues.map fun q => { q with enabled := false, watched := none } }) s1

/-- A line is lost (R469, R479): its home records it where its table has room; the health block's log takes it. -/
def State.loseLine (s : State) (line : Nat) : State :=
  if s.sto.lost.any fun x => x.1 == line then s
  else
    let home := s.homeOf line
    let s1 := (s.countDie (home / 48) 10 1).updHealth fun h => { h with
      log := (h.log ++ [line]).drop (h.log.length - 63), logged := h.logged + 1, stale := true }
    if 256 ≤ (s.sto.lost.filter fun x => x.2 == home).length then s1.containLine line
    else s1.updSto fun m => { m with lost := m.lost ++ [(line, home)] }

/-- The next slice in service on a slice's die, in slice order (R471). -/
def State.nextSlice (s : State) (k : Nat) : Option Nat :=
  ((List.range 47).map fun i => k / 48 * 48 + (k + 1 + i) % 48).find? fun j => (look s.health.fencedSlices j).isNone

/-- Where a node stands once a slice's stand-in has taken over (R471). -/
def NodePlace.moved (p : NodePlace) (k st : Nat) : NodePlace :=
  match p with
  | .toSlice j => if j = k then .toSlice st else p
  | .spill j pa => if j = k then .spill st pa else p
  | .corrupt j => if j = k then .corrupt st else p
  | .waiting j => if j = k then .waiting st else p
  | .early j => if j = k then .early st else p
  | _ => p

/-- A stand-in takes the homes of a slice (R471). The write counter goes on from the greater of the two. -/
def State.takeOver (s : State) (k st : Nat) : State :=
  let top := max (((s.slices[k]?).getD {}).count) (((s.slices[st]?).getD {}).count)
  let s1 := { s with slices := upd s.slices st fun x => { x with count := top } }
  let s2 := s1.updHealth fun h => { h with
    fencedSlices := (h.fencedSlices.map fun x => if x.2 = k then (x.1, st) else x) ++ [(k, st)],
    badSlices := h.badSlices ++ [s.sliceSiteOf k], stale := true }
  let s3 := s2.updFly fun f => { f with nodes := f.nodes.map fun x => { x with place := x.place.moved k st } }
  s3.updSto fun m => { m with lost := m.lost.map fun x => if x.2 = k then (x.1, st) else x }

/-- The lines homed at a slice that may be newer than HBM: those with a byte listed. -/
def State.linesAt (s : State) (k : Nat) : List Nat :=
  dedup ((s.sto.mem.map fun c => c.1 / 128).filter fun line => s.homeOf line == k)

/-- SLICE_FENCE (R471). Which newer lines cannot be written back is a free choice. -/
def execSliceFence (slice : Nat) (s : State) : Out :=
  match s.nextSlice slice with
  | none => .next s
  | some st =>
    if decide (192 ≤ slice) || (look s.health.fencedSlices slice).isSome then .next s
    else
      let lines := (s.linesAt slice).filter fun line => s.pick line 2 == 1
      let subs := s.fly.subs.filter fun x => decide (x.line < 2 ^ 60) && s.homeOf x.line == slice
      let ended := s.fly.nodes.filter fun x => x.place == .sliceRick slice
      let s1 := ended.foldl (fun s x => s.failElem x 4) s
      let s2 := (s1.sendAll subs (.final 5 5)).dropSub fun x => subs.any fun y => y.id == x.id
      .next (lines.foldl State.loseLine (s2.takeOver slice st)).wantRepair

/-- CHANNEL_RETIRE_MARK (R467, R477). -/
def execChannelRetireMark (chan : Nat) (s : State) : Out :=
  if decide (408 ≤ chan) || s.health.marked.contains chan || s.health.goneChannels.contains chan then .next s
  else
    let s1 := s.updHealth fun h => { h with marked := h.marked ++ [chan] }
    .next (if s.spareChannels (chan / 34) = 0 then s1 else s1.wantRepair)

/-! Errors of storage (R468, R479). -/

/-- The die of a storage error's counter. -/
def State.spoilDie (s : State) (x : Spoil) : Nat :=
  match x with
  | .corrected d _ => d
  | .register t _ => dieOfCore (s.thr t).core
  | .hbm w => s.homeOf (w / 4) / 48
  | .line l => s.homeOf l / 48
  | .spad w => w / 2 ^ 21 / 6
  | .weights w => w / 2 ^ 26
  | .accumulator m r _ => ((s.team m).resv r).eng / 144
  | .node _ => 0
  | .entry i => ((s.fly.subs.find? fun y => y.id == i).map fun y => s.homeOf y.line / 48).getD 0

/-- Whether a node is an entry of a rick or a spill area. -/
def NodePlace.entry : NodePlace → Bool
  | .coreRick _ => true
  | .portRick _ => true
  | .sliceRick _ => true
  | .spill _ _ => true
  | _ => false

/-- What an uncorrectable error does (R468): a full register fails with address 0, a line newer than HBM is lost, a code word
fails on every read until it is written whole, an accumulator fails, a held node's element fails with cause 4, and a
subscription ends with STATE 6 and CAUSE 4. -/
def State.spoiled (s : State) (x : Spoil) : State :=
  match x with
  | .corrected _ _ => s
  | .register t n => s.updThr t fun y => { y with v := upd y.v n fun r =>
      match r with
      | .full _ => .failed ⟨5, 6, 0, 0, 0⟩
      | r => r }
  | .hbm w => s.updSto fun m => { m with badMem := dedup (m.badMem ++ [w]) }
  | .line l => s.loseLine l
  | .spad w => s.updSto fun m => { m with badSpad := dedup (m.badSpad ++ [w]) }
  | .weights w => s.updSto fun m => { m with badWs := dedup (m.badWs ++ [w]) }
  | .accumulator m r k => s.failAcc m r k
  | .node i => (s.fly.nodes.filter fun y => y.id == i && y.place.entry).foldl (fun s y => s.failElem y 4) s
  | .entry i =>
    (s.sendAll (s.fly.subs.filter fun y => y.id == i) (.final 6 4)).dropSub fun y => y.id == i

/-- An error of storage comes about (R468) and is counted (R479). -/
def State.spoil (s : State) (x : Spoil) : State :=
  match x with
  | .corrected d k => s.countDie d (k % 7) 1
  | _ => (s.countDie (s.spoilDie x) 8 1).spoiled x

/-! Repair points (R472). -/

/-- The core sites of a cluster after a repair point, in physical order. -/
def State.coresAfter (s : State) (cl : Nat) : List Nat :=
  let now := s.servingCores cl
  sortBy id (now ++ (s.spareCores cl).take (6 - now.length))

/-- The slice sites of a die after a repair point, in physical order. -/
def State.slicesAfter (s : State) (d : Nat) : List Nat :=
  let now := s.servingSlices d
  sortBy id (now ++ (s.spareSlices d).take (48 - now.length))

/-- The numbers of the logical units that no site serves, when each group of `n` has the sites of a list. -/
def missing (n : Nat) (groups : List (List Nat)) : List Nat :=
  (mapFrom (fun g (l : List Nat) => ((List.range n).filter fun i => decide (l.length ≤ i)).map fun i => n * g + i) 0 groups).flatten

/-- The site of each logical unit; a unit that no site serves keeps its first one. -/
def sitesOf (n size : Nat) (groups : List (List Nat)) : List Nat :=
  (mapFrom (fun g (l : List Nat) => (List.range n).map fun i => (l[i]?).getD (size * g + i)) 0 groups).flatten

/-- Cores and slices take new sites; fenced engines follow theirs. Homes that no site serves go to the die's first slice. -/
def State.setSites (s : State) (cores slices : List (List Nat)) (engines : List Nat) : State :=
  let gone := missing 48 slices
  let s1 := s.updHealth fun h => { h with
    coreSite := sitesOf 6 7 cores, fencedCores := missing 6 cores, sliceSite := sitesOf 48 50 slices,
    fencedSlices := gone.map (fun k => (k, k / 48 * 48)), cut := gone }
  s1.updHealth fun h => { h with
    fencedEngines := (List.range 576).filter fun e =>
      !h.fencedCores.contains (e / 4) && engines.contains (s1.engineSiteOf e) }

/-- Where a held node stands after a repair point; a spilled one is reinserted (R327, R472). -/
def State.rehome (s : State) (x : TreeNode) : State :=
  let k := match s.treeSet x.ctx x.handle with
    | some t => s.goalSlice t x
    | none => s.nodeSlice x.handle x.elem x.level x.index
  let place := match x.place with
    | .toSlice _ => .toSlice k
    | .sliceRick _ => .sliceRick k
    | .corrupt _ => .corrupt k
    | .waiting _ => .waiting k
    | .early _ => .early k
    | .spill _ _ => (match s.spillSlot x k with | some pa => .spill k pa | none => .sliceRick k)
    | p => p
  s.updFly fun f => { f with nodes := f.nodes ++ [{ x with place := place }] }

/-- Entries move to their new homes (R472): nodes, lost lines and write counters. -/
def State.rehomeAll (s : State) : State :=
  let top := fun d => (((s.slices.drop (48 * d)).take 48).map Slice.count).foldl max 0
  let s1 := { s with slices := mapFrom (fun k _ => ⟨top (k / 48)⟩) 0 s.slices }
  let s2 := s1.updSto fun m => { m with lost := m.lost.map fun x => (x.1, s.homeOf x.1) }
  s2.fly.nodes.foldl State.rehome (s2.updFly fun f => { f with nodes := [] })

/-- A marked channel with a spare is copied to it (R477): each line that cannot be read becomes lost. Which lines a channel
holds is a free choice. -/
def State.replaceChannel (s : State) (chan : Nat) : State :=
  if s.spareChannels (chan / 34) = 0 then s
  else
    let lines := dedup ((s.sto.badMem.map fun k => k / 4).filter fun line => s.pick line 2 == 1)
    lines.foldl State.loseLine (s.updHealth fun h => { h with
      marked := h.marked.filter (· ≠ chan), goneChannels := h.goneChannels ++ [chan] })

/-- Steps 3 to 6 of R472. -/
def State.finishRepair (s : State) : State :=
  let engines := s.health.fencedEngines.map s.engineSiteOf
  let s1 := s.updSto fun m => { m with visitors := [] }
  let s2 := (s1.setSites ((List.range 24).map s.coresAfter) ((List.range 4).map s.slicesAfter) engines).rehomeAll
  let s3 := s2.health.marked.foldl State.replaceChannel s2
  s3.updHealth fun h => { h with draining := false, repair := none, stale := true }

/-- REPAIR_POINT (R472): it begins, and once no team holds slots it ends. -/
def execRepairPoint (s : State) : Out :=
  if s.health.draining then
    if s.teams.any Team.holds then .next s else .next s.finishRepair
  else if s.health.repair.isSome then .next (s.updHealth fun h => { h with draining := true, repair := some s.wall })
  else .next s

/-- REPAIR_PREEMPT (R391, R472): 10 ms into a repair point the teams that remain are pre-empted, or ended where there is no
save routine. -/
def execRepairPreempt (s : State) : Out :=
  match s.health.repair with
  | none => .next s
  | some w =>
    if s.health.draining && decide (w + 10000000 * wallNs ≤ s.wall) then
      if s.saveEntry.isSome then
        .next ((allPos (fun (t : Team) => t.life == .placed) s.teams).foldl (fun s m => s.preemptTeam m 4) s)
      else
        .next ((dedup ((s.teams.filter Team.holds).map Team.launch)).foldl (fun s l => s.contain l 6 0) s)
    else .next s

/-! Reset (R6, R428, R474 to R476, R481, R482). -/

/-- The image that a slot's bytes begin with (R482). -/
def wholeImage (im : List Byte) : List Byte := im.take (2608 + sliceVal im 8 8 + 4627)

/-- Whether a slot boots: the image of manufacture does (log 6). -/
def Firmware.boots (f : Firmware) (k : Nat) : Bool :=
  let x := f.slot k
  (x.image == [] && x.gen != 0) || imagePasses (wholeImage x.image) f.rollback

/-- The slot that boots: that of higher generation is tried first (R481). -/
def Firmware.bootSlot (f : Firmware) : Option Nat :=
  (if (f.slot 0).gen < (f.slot 1).gen then [1, 0] else [0, 1]).find? f.boots

/-- The security version of a slot's image (R482). -/
def Firmware.svnOf (f : Firmware) (k : Nat) : Nat := if (f.slot k).image = [] then 1 else sliceVal (f.slot k).image 4 4

/-- Spares come in for the sites named, in order. -/
def bringIn : List Nat → List Site → List Site
  | w :: ws, .spare :: r => .replacement w :: bringIn ws r
  | ws, x :: r => x :: bringIn ws r
  | _, [] => []

/-- A group of sites after built-in test (R475): a site that fails is retired, for good, and spares replace retired sites. -/
def testGroup (base need : Nat) (l : List Site) (fails : Nat → Bool) : List Site :=
  let tested := mapFrom (fun i x => if fails (base + i) then Site.retired else x) 0 l
  let done := tested.filterMap fun x => match x with | .replacement k => some k | _ => none
  let gone := ((allPos (fun x => x == Site.retired) tested).map (base + ·)).filter fun k => !done.contains k
  bringIn (gone.take (need - (tested.filter Site.serves).length)) tested

/-- All groups of one kind of site. -/
def testSites (groups size need : Nat) (l : List Site) (fails : Nat → Bool) : List Site :=
  ((List.range groups).map fun g =>
    testGroup (g * size) need ((List.range size).map fun i => siteOf l size need (g * size + i)) fails).flatten

/-- The repair map after the built-in test of a reset (R475). -/
def State.newMap (s : State) (old : RepairMap) : RepairMap :=
  let fails := Config.siteFails s.fresh
  let fences := s.health.fencedSites.foldl (fun l e => put l e ((look l e).getD 0 + 1)) old.fences
  let engines := (List.range 672).filter fun e =>
    old.retiredEngines.contains e || fails 4 e || decide (3 ≤ (look fences e).getD 0)
  let channels := s.health.marked ++ s.health.goneChannels
  { gen := old.gen + 1,
    cores := testSites 24 7 6 old.cores fun k => fails 0 k || decide (3 ≤ (engines.filter fun e => e / 4 == k).length),
    slices := testSites 4 50 48 old.slices (fails 1),
    channels := testSites 12 34 32 old.channels fun k => fails 2 k || channels.contains k,
    waves := testSites 128 68 64 old.waves fun k => fails 3 k || s.health.waves.contains (k / 68, k % 68),
    fences := fences, retiredEngines := engines }

/-- The copy of the map that the boot uses (R474): the valid one of higher generation; without one, every site is
untested. Only two copies are kept; a third entry is the content that the last write replaced (log 6). -/
def Firmware.mapAt (f : Firmware) : RepairMap :=
  match (f.maps.take 2).filter Prod.snd with
  | [] => {}
  | [x] => x.1
  | x :: y :: _ => if x.1.gen < y.1.gen then y.1 else x.1

/-- The sites of a group that serve. -/
def servingIn (l : List Site) (size g : Nat) : List Nat :=
  ((List.range size).map fun i => g * size + i).filter fun k => ((l[k]?).map Site.serves).getD false

/-- What is out of order after a reset, from the map (R473, R476, R478). -/
def State.applyMap (s : State) (m : RepairMap) : State :=
  let waves := (allPos (fun x => x == Site.retired) m.waves).map fun k => (k / 68, k % 68)
  let s1 := s.setSites ((List.range 24).map (servingIn m.cores 7)) ((List.range 4).map (servingIn m.slices 50)) m.retiredEngines
  let s2 := s1.updHealth fun h => { h with waves := waves }
  s2.updFabric fun f => { f with
    rotorsOut := dedup (((List.range 128).filter fun k => decide (s2.wavesOf k < 48)).map fun k => k / 2) }

/-- What memory holds after a reset: the spec does not say, so every listed byte is a free value (log 6). -/
def State.freeCells (s : State) (salt : Nat) (l : List Host.Cell) : List Host.Cell :=
  (l.map fun c => (c.1, Config.freeByte (s.fresh + salt) c.1)).filter fun c => c.2 ≠ 0

/-- The machine as it starts again: what lasts beyond a reset is kept (R6), and the incarnation advances (R428). -/
def State.restart (s : State) : State :=
  { State.reset with
    sto := { mem := s.freeCells 0 s.sto.mem, spad := s.freeCells 1 s.sto.spad, ws := s.freeCells 2 s.sto.ws,
             badMem := s.sto.badMem, badSpad := s.sto.badSpad, badWs := s.sto.badWs },
    fabric := { incarnation := (s.fabric.incarnation + 1) % 2 ^ 16 },
    fw := { slots := s.fw.slots, inUse := s.fw.inUse, rollback := s.fw.rollback, svn := s.fw.svn, maps := s.fw.maps },
    bar0 := { booted := false }, msi := s.msi, hostReads := s.hostReads, agenda := s.agenda, taken := s.taken,
    nextId := s.nextId, fresh := s.fresh }

/-- The boot (R481): where a slot boots, its firmware tests the sites and writes the map; else BOOTED stays 0. The rise of BOOTED is
reported on vector 0 (R437, log 47). -/
def State.boot (s : State) : State :=
  let s1 := s.restart
  match s.fw.bootSlot with
  | none => s1
  | some k =>
    let v := s.fw.svnOf k
    let old := s.fw.mapAt
    let m := s.newMap old
    let s2 := s1.updFw fun f => { f with
      inUse := k, svn := v, rollback := max f.rollback v, maps := [(m, true), (m, true), (old, true)] }
    ((s2.applyMap m).updBar0 fun b => { b with booted := true }).sendMsi 0

/-- DEVICE_RESET (R481). -/
def execDeviceReset (s : State) : Out := .next s.boot

/-- The copies of the map as a power loss may leave them (R474): a loss during the boot's write leaves one valid copy. -/
def State.cutMaps (s : State) : List (RepairMap × Bool) :=
  match s.fw.maps with
  | [a, b, c] =>
    if s.bar0.committed then s.fw.maps
    else
      match s.pick 0 4 with
      | 1 => [(c.1, true), (a.1, false)]
      | 2 => [a, (c.1, true)]
      | 3 => [a, (b.1, false)]
      | _ => s.fw.maps
  | l => l

/-- POWER_LOSS (R474, R483): the supply is lost and comes back, and the device resets. An image that was being written may
lack its last piece, and the map's copies are as the loss left them; what was found out of order since the last reset
still enters the map that this boot writes (R6). -/
def execPowerLoss (s : State) : Out :=
  let k := s.fw.staging
  let cut := fun (x : FwSlot) => if s.bar0.rcvOpen && s.pick 1 2 == 0 then { x with image := x.image.take (x.image.length - 8) } else x
  let s1 := (s.updSlotFw k cut).updFw fun f => { f with maps := s.cutMaps }
  .next s1.boot

/-- THERMAL_TRIP (R488). -/
def execThermalTrip (s : State) : Out :=
  let ls := allPos (fun (x : Launch) => !x.finished) s.launches
  let s1 := ls.foldl (fun s l => ((s.endLaunch l).closeTrees l).stampLaunch l 2) s
  let s2 := (s1.updBar0 fun b => { b with booted := false }).updFw fun f => { f with tripped := true }
  .next (({ s2 with fly := {}, fabric := { s2.fabric with out := [], acks := [] } } : State).sendMsi 0)

/-! The clock (R487). -/

/-- CLOCK_THROTTLE (R487, R489): a step down, to 8/16 at least; reason 0 power limit, 1 coolant, 2 junction. -/
def execClockThrottle (reason : Nat) (s : State) : Out :=
  .next (s.updFw fun f => { f with
    clock := max 8 (f.clock - 1), slowed := s.wall, reasons := f.reasons ||| 2 ^ (reason % 3) })

/-- CLOCK_RESTORE (R487): a step up, to 16/16 at most, once there has been no excess for 10 ms. -/
def execClockRestore (s : State) : Out :=
  if s.fw.slowed + 10000000 * wallNs ≤ s.wall then
    .next (s.updFw fun f => { f with clock := min 16 (f.clock + 1), reasons := 0 })
  else .next s

/-! What firmware reports (R479, R489). -/

/-- The byte of the health block for a cluster. -/
def State.clusterByte (s : State) (cl : Nat) : Byte :=
  BitVec.ofNat 8 ((s.servingCores cl).length + 64 * b2n (s.spareCores cl != []))

/-- Whether an engine site is fenced, retired, or on a core site that is not in service. -/
def State.engineOut (s : State) (e : Nat) : Bool :=
  match (List.range 144).find? fun c => !s.health.fencedCores.contains c && s.coreSiteOf c == e / 4 with
  | none => true
  | some c => s.engineFenced (4 * c + e % 4)

/-- The number that bits spell, least significant first. -/
def bitsVal : List Bool → Nat
  | [] => 0
  | b :: r => b2n b + 2 * bitsVal r

/-- A lost line as the health block logs it. -/
def State.lostEntry (s : State) (line : Nat) : Nat := line * 128 + 2 ^ 63 * b2n (s.sto.lost.any fun x => x.1 == line)

/-- Bytes [1307:8] of the health block. -/
def State.healthBytes (s : State) : List Byte :=
  let byte := fun (n : Nat) => BitVec.ofNat 8 n
  let log := (s.health.log.map s.lostEntry) ++ List.replicate (64 - s.health.log.length) 0
  valBytes 8 s.mapGen ++ (List.range 24).map s.clusterByte ++
  (List.range 4).map (fun d => byte (s.servingSlices d).length) ++ (List.range 4).map (fun d => byte (s.spareSlices d).length) ++
  valBytes 84 (bitsVal ((List.range 672).map s.engineOut)) ++
  (List.range 12).map (fun k => byte (s.servingChannels k)) ++ (List.range 12).map (fun k => byte (s.spareChannels k)) ++
  valBytes 8 s.capacity ++
  ((List.range 128).map fun f => [byte (s.wavesOf f), byte (68 - (s.health.waves.filter fun w => w.1 == f).length - 64)]).flatten ++
  ((List.range 4).map fun d => (((s.dies[d]?).getD {}).counts.map (valBytes 8)).flatten).flatten ++
  valBytes 8 s.health.logged ++ (log.map (valBytes 8)).flatten ++ valBytes 8 (s.capacity - 2 ^ 32) ++ valBytes 8 (2 ^ 32)

/-- HEALTH_BLOCK_UPDATE (R479): GEN is written last. -/
def execHealthBlockUpdate (s : State) : Out :=
  if s.bar0.booted then
    let s1 := s.updHealth fun h => { h with gen := h.gen + 1, genAt := s.wall, stale := false }
    .next ((s1.writePhys 8 (s.healthBytes ++ zeros 2788)).writePhys 0 (valBytes 8 s1.health.gen))
  else .next s

/-- Bytes [4095:8] of the power block. The measurements are free values. -/
def State.powerBytes (s : State) : List Byte :=
  let m := fun k => valBytes 2 (Config.measured k s.fresh)
  valBytes 1 s.fw.clock ++ valBytes 1 s.fw.reasons ++ valBytes 2 s.fw.limit ++ m 0 ++ m 1 ++ m 2 ++ zeros 8 ++
  valBytes 8 (min (2 ^ 64 - 1) (s.fw.slow / (wallNs * 1000))) ++ zeros 4062

/-- POWER_BLOCK_UPDATE (R489). -/
def execPowerBlockUpdate (s : State) : Out :=
  if s.bar0.booted then
    let s1 := s.updHealth fun h => { h with powerGen := h.powerGen + 1 }
    .next ((s1.writePhys 4104 s.powerBytes).writePhys 4096 (valBytes 8 s1.health.powerGen))
  else .next s

/-- The register slots that a context's threads hold on a core (R165, R451). -/
def State.slotsHeld (s : State) (core ctx : Nat) : Nat :=
  ((s.threads.filter fun t => t.core == core && (let m := s.team (s.grp t.group).team
    m.holds && (s.launch m.launch).ctx == ctx)).map fun t => occupied (s.grp t.group).budget).foldl (· + ·) 0

/-- One tick's charge of a context on a core, in units of 2^−15 × 16 pJ: 40 × h / 196,608 units, truncated (R451). -/
def State.tickCharge (s : State) (ctx core : Nat) : Nat := s.slotsHeld core ctx * 1310720 / 196608

/-- ENERGY_TICK (R451): every 1,024 clk. -/
def execEnergyTick (s : State) : Out :=
  if (s.ticks + 1) * 1024 ≤ s.clk then
    let cores := dedup (s.threads.map Thread.core)
    let pay := fun (c : Context) =>
      cores.foldl (fun (c : Context) k => if s.tickCharge c.num k = 0 then c else c.charge k (s.tickCharge c.num k)) c
    .next { s with ticks := s.ticks + 1, ctxs := s.ctxs.map pay }
  else .next s

end Sys2Proof.Machine
end

