-- ==== Sys2Proof/Machine/Special.lean ====
section
/-!
DEFINITION. The special functions (R140, R141) and the exponential of OSMX and OSMN (R142, R143). Where the spec
gives an exact case, the result is it. Elsewhere the exact value is enclosed by integer arithmetic, and the result is
a free value (log 2) among the codes that the spec's bound allows around the enclosure.
-/

namespace Sys2Proof.Machine

/-- The integer square root of a number below 4^`k`, bit by bit. -/
def isqrtFrom (n : Nat) : Nat → Nat → Nat
  | 0, r => r
  | k + 1, r => if (r + 2 ^ k) * (r + 2 ^ k) ≤ n then isqrtFrom n k (r + 2 ^ k) else isqrtFrom n k r

/-- The integer square root. -/
def isqrt (n : Nat) : Nat := isqrtFrom n (Nat.log2 n / 2 + 1) 0

/-- The fractional bits that enclosures are computed with. -/
def fixP : Nat := 512

/-- One in fixed point. -/
def fixOne : Nat := 2 ^ fixP

/-- How far an enclosure's centre may be off: far more than its rounding errors, far less than any bound of R140. -/
def fixErr : Int := 2 ^ (fixP - 240)

/-- Σ over `n` terms of (−1)^j / ((2j + 1) k^(2j + 1)) in fixed point: the arctangent of 1/k. -/
def atanInv (k : Nat) : Nat → Nat → Int → Int
  | 0, _, _ => 0
  | n + 1, j, p => p / (2 * j + 1 : Nat) + atanInv k n (j + 1) (-(p / (k * k : Nat)))

/-- π in fixed point. -/
def piFix : Int := 16 * atanInv 5 150 0 ((fixOne : Int) / 5) - 4 * atanInv 239 60 0 ((fixOne : Int) / 239)

/-- A series whose next term is the last one times x / ((2i)(2i + 1)) or x / ((2i − 1)(2i)), as `o` is 1 or 0. -/
def trigSeries (x : Int) (o : Nat) : Nat → Nat → Int → Int
  | 0, _, t => t
  | n + 1, i, t => t + trigSeries x o n (i + 1) (-(t * x / (fixOne : Int) / ((2 * i - 1 + o) * (2 * i + o) : Nat)))

/-- Σ x^i / i! in fixed point. -/
def expSeries (x : Int) : Nat → Nat → Int → Int
  | 0, _, t => t
  | n + 1, i, t => t + expSeries x n (i + 1) (t * x / (fixOne : Int) / (i : Nat))

/-- 2^r in fixed point, for the fraction r given by its bits from 1/2 down; `c` is 2^(2^−i). -/
def exp2Bits (r : Nat) : Nat → Nat → Nat → Nat
  | 0, _, acc => acc
  | n + 1, c, acc =>
    let c := isqrt (c * fixOne)
    let top := r / 2 ^ (fixP - 1) % 2
    exp2Bits (r * 2 % fixOne) n c (if top = 1 then acc * c / fixOne else acc)

/-- 2^r in fixed point, for a fraction r in fixed point. -/
def exp2Fix (r : Nat) : Nat := exp2Bits r 300 (2 * fixOne) fixOne

/-- The binary logarithm of a number in [1, 2), in fixed point, by repeated squaring. -/
def log2Bits : Nat → Nat → Nat → Nat
  | 0, _, acc => acc
  | n + 1, y, acc =>
    let z := y * y / fixOne
    if 2 * fixOne ≤ z then log2Bits n (z / 2) (acc + 2 ^ n) else log2Bits n z acc

/-- The binary logarithm of a number in [1, 2), in fixed point. -/
def log2Fix (y : Nat) : Int := (log2Bits 250 y 0 * 2 ^ (fixP - 250) : Nat)

/-- A finite value in fixed point, rounded down. -/
def toFix (s : Bool) (m : Nat) (e : Int) : Int :=
  let k : Int := e + fixP
  signedInt s (if 0 ≤ k then m * 2 ^ k.toNat else m / 2 ^ (-k).toNat)

/-- An FP32 code as an integer in the order of its value. -/
def ordOf (code : Nat) : Int := if 2 ^ 31 ≤ code then -((code - 2 ^ 31 : Nat) : Int) else (code : Int)

/-- The FP32 code of an ordered integer. -/
def codeOf (n : Int) : Nat := if n < 0 then 2 ^ 31 + n.natAbs else n.toNat

/-- A fixed-point number rounded to FP32. -/
def fixCode (r : Rnd) (x : Int) : Nat := roundF fp32 r false false (decide (x < 0)) x.natAbs (-(fixP : Int)) false

/-- The unit in the last place of a fixed-point number's FP32 binade, in fixed point (R140). -/
def ulpFix (x : Int) : Int :=
  let e := max ((Nat.log2 x.natAbs : Int) - fixP) (-126) - 23
  2 ^ (e + fixP).toNat

/-- A result within `bound` of the exact one, which lies between `l` and `h` (R140): one of the FP32 codes that are within the bound
wherever it lies there, chosen by the free function of the input (R141). -/
def allowedIn (key input : Nat) (l h bound : Int) : Nat :=
  let lo := ordOf (fixCode .rp (h - bound))
  let hi := ordOf (fixCode .rm (l + bound))
  if hi < lo then fixCode .rn l else codeOf (lo + (Config.special key input % (hi - lo + 1).toNat : Nat))

/-- The same where the exact result lies around `x`. -/
def allowedNear (key input : Nat) (x bound : Int) : Nat := allowedIn key input (x - fixErr) (x + fixErr) bound

/-- The same for a number of sign `s` whose magnitude lies between `l` and `h`. -/
def allowedMag (key input : Nat) (s : Bool) (l h bound : Int) : Nat :=
  if s then allowedIn key input (-h) (-l) bound else allowedIn key input l h bound

/-- R45 on an FP32 code. -/
def flush32 (flush : Bool) (code : Nat) : Nat :=
  if flush && decide (code % 2 ^ 31 < 2 ^ 23) then code / 2 ^ 31 * 2 ^ 31 else code

/-- An FP32 result of a value, flushed when asked (R45). -/
def res32 (flush : Bool) (v : Val) : Nat := encodeF fp32 .rn false flush v

/-- What tells inputs of a special function apart: the code after the input flush, and the result flush (R141). -/
def inputKey (a : Nat) (fo : Bool) : Nat := 2 * a + (if fo then 1 else 0)

/-- Whether a magnitude is a power of two. -/
def isPow2 (m : Nat) : Bool := m == 2 ^ Nat.log2 m

/-- FRCP (R140). -/
def frcp (fi fo : Bool) (a : Nat) : Nat :=
  match decodeF fp32 fi a with
  | .nan s f => res32 fo (.nan s f)
  | .inf s => res32 fo (.fin s 0 0)
  | .fin s m e =>
    if m = 0 then res32 fo (.inf s)
    else if isPow2 m ∧ (Nat.log2 m : Int) + e ≤ 126 then res32 fo (.fin s 1 (-((Nat.log2 m : Int) + e)))
    else
      let n := 2 ^ ((fixP : Int) - e).toNat
      let x : Int := (n / m : Nat)
      flush32 fo (allowedMag 0x30 (inputKey a fo) s x (if n % m = 0 then x else x + 1) (ulpFix x))

/-- FRSQ (R140). -/
def frsq (fi fo : Bool) (a : Nat) : Nat :=
  match decodeF fp32 fi a with
  | .nan s f => res32 fo (.nan s f)
  | .inf s => if s then res32 fo .canonical else res32 fo (.fin false 0 0)
  | .fin s m e =>
    if m = 0 then res32 fo (.inf s)
    else if s then res32 fo .canonical
    else
      let n := 2 ^ (2 * (fixP : Int) - e).toNat
      let r := isqrt (n / m)
      let x : Int := r
      flush32 fo (allowedIn 0x31 (inputKey a fo) x (if r * r * m = n then x else x + 1) (2 * ulpFix x))

/-- FSQRT, correctly rounded (R140). -/
def fsqrt (fi fo : Bool) (a : Nat) : Nat :=
  match decodeF fp32 fi a with
  | .nan s f => res32 fo (.nan s f)
  | .inf s => if s then res32 fo .canonical else res32 fo (.inf false)
  | .fin s m e =>
    if m = 0 then res32 fo (.fin s 0 0)
    else if s then res32 fo .canonical
    else
      let n := m * 2 ^ (if e % 2 = 0 then 64 else 65)
      let q := (e - (if e % 2 = 0 then 64 else 65)) / 2
      let r := isqrt n
      roundF fp32 .rn false fo false r q (decide (r * r ≠ n))

/-- FEXP2 (R140). -/
def fexp2 (fi fo : Bool) (a : Nat) : Nat :=
  match decodeF fp32 fi a with
  | .nan s f => res32 fo (.nan s f)
  | .inf s => if s then res32 fo (.fin false 0 0) else res32 fo (.inf false)
  | .fin s m e =>
    let x := toFix s m e
    let n := x / (fixOne : Int)
    let r := (x % (fixOne : Int)).toNat
    if 128 * (fixOne : Int) ≤ x then res32 fo (.inf false)
    else if x < -150 * (fixOne : Int) then res32 fo (.fin false 0 0)
    else if r = 0 then res32 fo (.fin false 1 n)
    else
      let y := (exp2Fix r : Int)
      let y := if 0 ≤ n then y * 2 ^ n.toNat else y / 2 ^ (-n).toNat
      flush32 fo (allowedNear 0x33 (inputKey a fo) y (2 * ulpFix y))

/-- FLOG2 (R140). -/
def flog2 (fi fo : Bool) (a : Nat) : Nat :=
  match decodeF fp32 fi a with
  | .nan s f => res32 fo (.nan s f)
  | .inf s => if s then res32 fo .canonical else res32 fo (.inf false)
  | .fin s m e =>
    if m = 0 then res32 fo (.inf true)
    else if s then res32 fo .canonical
    else
      let k := (Nat.log2 m : Int) + e
      if isPow2 m then res32 fo (intVal k)
      else
        let y := m * 2 ^ (fixP - Nat.log2 m)
        let x := k * (fixOne : Int) + log2Fix y
        let near : Bool := decide (-1 ≤ k) && decide (k ≤ 0)
        flush32 fo (allowedNear 0x34 (inputKey a fo) x (if near then 2 ^ (fixP - 22) else 2 * ulpFix x))

/-- The sine (`o` = 1) or cosine (`o` = 0) of a finite value, in fixed point. -/
def trigFix (o : Nat) (s : Bool) (m : Nat) (e : Int) : Int :=
  let r := toFix s m e % (2 * piFix)
  trigSeries (r * r / (fixOne : Int)) o 120 1 (if o = 1 then r else (fixOne : Int))

/-- FSIN (R140). -/
def fsin (fi fo : Bool) (a : Nat) : Nat :=
  match decodeF fp32 fi a with
  | .nan s f => res32 fo (.nan s f)
  | .inf _ => res32 fo .canonical
  | .fin s m e =>
    if m = 0 then res32 fo (.fin s 0 0)
    else flush32 fo (allowedNear 0x35 (inputKey a fo) (trigFix 1 s m e) (2 ^ (fixP - 22)))

/-- FCOS (R140). -/
def fcos (fi fo : Bool) (a : Nat) : Nat :=
  match decodeF fp32 fi a with
  | .nan s f => res32 fo (.nan s f)
  | .inf _ => res32 fo .canonical
  | .fin s m e =>
    let x := toFix false m e
    if m = 0 then res32 fo (intVal 1)
    else if x < 2 ^ (fixP - 110) then
      flush32 fo (allowedIn 0x36 (inputKey a fo) (fixOne - x * x / (fixOne : Int) - 1) fixOne (2 ^ (fixP - 22)))
    else flush32 fo (allowedNear 0x36 (inputKey a fo) (trigFix 0 s m e) (2 ^ (fixP - 22)))

/-- FTANH (R140). -/
def ftanh (fi fo : Bool) (a : Nat) : Nat :=
  match decodeF fp32 fi a with
  | .nan s f => res32 fo (.nan s f)
  | .inf s => res32 fo (.fin s 1 0)
  | .fin s m e =>
    if m = 0 then res32 fo (.fin s 0 0)
    else
      let x := toFix false m e
      if 91 * (fixOne : Int) ≤ 10 * x then res32 fo (.fin s 1 0)
      else if x < 2 ^ (fixP - 80) then
        flush32 fo (allowedMag 0x37 (inputKey a fo) s (x - x * x / (fixOne : Int) * x / (fixOne : Int) - 1) x (2 * ulpFix (x - 1)))
      else
        let y := expSeries (2 * x) 260 1 (fixOne : Int)
        let t := (y - fixOne) * (fixOne : Int) / (y + fixOne)
        let t := if s then -t else t
        flush32 fo (allowedNear 0x37 (inputKey a fo) t (2 * ulpFix t))

/-- The leaf state of a base-2 logit (R61, R142): s in the low word, e in the high word. -/
def smLeaf (a : Nat) : Dword :=
  match decodeF fp32 false a with
  | .nan _ _ => smNan
  | .inf s => if s then smEmpty else smNan
  | .fin s m e =>
    let whole : Int := if 0 ≤ e then signedInt s (m * 2 ^ e.toNat) else signedInt s m / 2 ^ (-e).toNat
    let k := clampInt (-(2 ^ 30)) (2 ^ 30 - 1) whole
    let rest := whole - k
    let frac := if 0 ≤ e then 0 else (toFix s m e % (fixOne : Int)).toNat
    let code :=
      if rest = 0 ∧ frac ≠ 0 then
        let y := (exp2Fix frac : Int)
        max (min (allowedNear 0x38 a y (ulpFix y)) 0x3FFFFFFF) 0x3F800000
      else if 128 ≤ rest then 0x7F800000
      else if rest < -200 then 0
      else res32 false (.fin false 1 rest)
    BitVec.ofInt 32 k ++ BitVec.ofNat 32 code

/-- A quotient y × 2^n / s of a y within 1 ulp, rounded to FP32, where it lies within 2 ulp of the exact one; else that of the
y nearest (R143). -/
def osmnNear (code : Nat) (y n : Int) (s : Val) : Nat :=
  let quot := fun (c : Nat) => divF fp32 false (scaleV (decodeF fp32 false c) n) s
  match s with
  | .fin neg m g =>
    let k := n - g
    let q := signedInt neg (if 0 ≤ k then y.toNat * 2 ^ k.toNat / m else y.toNat / (m * 2 ^ (-k).toNat))
    let lo := fixCode .rp (q + fixErr - 2 * ulpFix q)
    let hi := fixCode .rm (q - fixErr + 2 * ulpFix q)
    if ordOf lo ≤ ordOf (quot code) ∧ ordOf (quot code) ≤ ordOf hi then quot code else quot (fixCode .rn y)
  | _ => quot code

/-- OSMN (R143). -/
def osmn (fi fo : Bool) (a : Nat) (b : Dword) : Nat :=
  let sw := b.toNat % 2 ^ 32
  let av := decodeF fp32 fi a
  let sv := decodeF fp32 fi sw
  let e := (b >>> 32 |>.setWidth 32 : Word).toInt
  match av with
  | .nan s f => res32 fo (.nan s f)
  | .inf s =>
    if smClass b = 0 then res32 fo (decodeF fp32 false sw)
    else if s then res32 fo (.fin false 0 0)
    else if smClass b = 1 then res32 fo (.inf false)
    else divF fp32 fo (.inf false) sv
  | .fin s m g =>
    if smClass b = 0 then res32 fo (decodeF fp32 false sw)
    else if smClass b = 1 then res32 fo (.inf false)
    else
      let x := toFix s m g
      let n := clampInt (-2000) 2000 (x / (fixOne : Int) - e)
      let r := (x % (fixOne : Int)).toNat
      if r = 0 then divF fp32 fo (.fin false 1 n) sv
      else
        let y := (exp2Fix r : Int)
        flush32 fo (osmnNear (allowedNear 0x39 (inputKey a fo) y (ulpFix y)) y n sv)

end Sys2Proof.Machine
end

