-- ==== Sys2Proof/Machine/Float.lean ====
section
/-!
DEFINITION. The floating-point, conversion, scaling and special-function words (file 06). Every word samples the flush
bits of sr.mode and never traps on a value (R121).
-/

namespace Sys2Proof.Machine

/-! FP32, packed 16-bit and FP64 arithmetic (R126, R127). -/

/-- An operation on two codes of a format: flushed inputs, one rounding to nearest even, flushed result (R44, R45). -/
def op2 (F : FloatFmt) (cls : Nat) (f : Val → Val → Val) (m : Word) (x y : Nat) : Nat :=
  encodeF F .rn false (flushOut m cls) (f (decodeF F (flushIn m cls) x) (decodeF F (flushIn m cls) y))

/-- An operation on three codes of a format, as `op2`. -/
def op3 (F : FloatFmt) (cls : Nat) (f : Val → Val → Val → Val) (m : Word) (x y z : Nat) : Nat :=
  encodeF F .rn false (flushOut m cls)
    (f (decodeF F (flushIn m cls) x) (decodeF F (flushIn m cls) y) (decodeF F (flushIn m cls) z))

/-- An operation on each half of packed operands (R33). -/
def halves (f : Nat → Nat → Nat → Nat) (x y z : Nat) : Nat :=
  f (x % 2 ^ 16) (y % 2 ^ 16) (z % 2 ^ 16) + 2 ^ 16 * f (x / 2 ^ 16) (y / 2 ^ 16) (z / 2 ^ 16)

/-- a − b; a NaN b is not negated (R126). -/
def subV (a b : Val) : Val := addV .rn a (negV b)

/-- FADD (R126). -/
def execFadd (d a b : Opnd) (g : Nat) (s : State) : Out := s.run (flt g d false a b fun m x y _ => op2 fp32 2 (addV .rn) m x y)

/-- FSUB (R126). -/
def execFsub (d a b : Opnd) (g : Nat) (s : State) : Out := s.run (flt g d false a b fun m x y _ => op2 fp32 2 subV m x y)

/-- FMUL (R126). -/
def execFmul (d a b : Opnd) (g : Nat) (s : State) : Out := s.run (flt g d false a b fun m x y _ => op2 fp32 2 mulV m x y)

/-- FFMA (R127). -/
def execFfma (d a b : Opnd) (g : Nat) (s : State) : Out := s.run (flt g d true a b (op3 fp32 2 (fmaV .rn)))

/-- FFMS (R127). -/
def execFfms (d a b : Opnd) (g : Nat) (s : State) : Out := s.run (flt g d true a b (op3 fp32 2 (fmsV .rn)))

/-- FMIN (R126). -/
def execFmin (d a b : Opnd) (g : Nat) (s : State) : Out := s.run (flt g d false a b fun m x y _ => op2 fp32 2 minV m x y)

/-- FMAX (R126). -/
def execFmax (d a b : Opnd) (g : Nat) (s : State) : Out := s.run (flt g d false a b fun m x y _ => op2 fp32 2 maxV m x y)

/-- HADD2.f16 (R126). -/
def execHadd2F16 (d a b : Opnd) (g : Nat) (s : State) : Out :=
  s.run (flt g d false a b fun m => halves fun x y _ => op2 fp16 1 (addV .rn) m x y)

/-- HADD2.bf16 (R126). -/
def execHadd2Bf16 (d a b : Opnd) (g : Nat) (s : State) : Out :=
  s.run (flt g d false a b fun m => halves fun x y _ => op2 bf16 1 (addV .rn) m x y)

/-- HMUL2.f16 (R126). -/
def execHmul2F16 (d a b : Opnd) (g : Nat) (s : State) : Out :=
  s.run (flt g d false a b fun m => halves fun x y _ => op2 fp16 1 mulV m x y)

/-- HMUL2.bf16 (R126). -/
def execHmul2Bf16 (d a b : Opnd) (g : Nat) (s : State) : Out :=
  s.run (flt g d false a b fun m => halves fun x y _ => op2 bf16 1 mulV m x y)

/-- HFMA2.f16 (R127). -/
def execHfma2F16 (d a b : Opnd) (g : Nat) (s : State) : Out :=
  s.run (flt g d true a b fun m => halves (op3 fp16 1 (fmaV .rn) m))

/-- HFMA2.bf16 (R127). -/
def execHfma2Bf16 (d a b : Opnd) (g : Nat) (s : State) : Out :=
  s.run (flt g d true a b fun m => halves (op3 bf16 1 (fmaV .rn) m))

/-- DADD (R126). -/
def execDadd (d a b : Opnd) (g : Nat) (s : State) : Out := s.run (flt64 g d false a b fun m x y _ => op2 fp64 3 (addV .rn) m x y)

/-- DMUL (R126). -/
def execDmul (d a b : Opnd) (g : Nat) (s : State) : Out := s.run (flt64 g d false a b fun m x y _ => op2 fp64 3 mulV m x y)

/-- DFMA (R127). -/
def execDfma (d a b : Opnd) (g : Nat) (s : State) : Out := s.run (flt64 g d true a b (op3 fp64 3 (fmaV .rn)))

/-! Compare and classify (R128, R129). -/

/-- Whether a condition compares FP64 pairs (R128). -/
def FCond.wide : FCond → Bool
  | .eq64 | .ne64 | .lt64 | .le64 => true
  | _ => false

/-- What FCMP writes, from the flush bits and the two codes (R128). -/
def fcmpW (c : FCond) (m : Word) (x y : Dword) : Bool :=
  if (FCond.wide c) then (FCond.holds c) (decodeF fp64 (flushIn m 3) x.toNat) (decodeF fp64 (flushIn m 3) y.toNat)
  else (FCond.holds c) (decodeF fp32 (flushIn m 2) (x.toNat % 2 ^ 32)) (decodeF fp32 (flushIn m 2) (y.toNat % 2 ^ 32))

/-- FCMP (R128). -/
def execFcmp (q : Nat) (c : FCond) (a b : Opnd) (g : Nat) (s : State) : Out :=
  s.run (cmpWork 2 g q a (if (FCond.wide c) then 2 else 1) b (if (FCond.wide c) then 2 else 1) (fcmpW c))

/-- The registers that a value of a format takes. -/
def Fmt.regs (f : Fmt) : Nat := if f = .f64 then 2 else 1

/-- FCLASS (R129). -/
def execFclass (d a : Opnd) (f : Fmt) (g : Nat) (s : State) : Out :=
  s.run (arith 2 g d 1 false a (Fmt.regs f) .zero 1 fun _ x _ _ =>
    ((classF (Fmt.float f) (x.toNat % 2 ^ (Fmt.float f).width)).setWidth 64, 0))

/-! Conversions (R130 to R134). -/

/-- A code read in a format, E8M0 among them, flushed by its class (R24, R44). -/
def readF (f : Fmt) (m : Word) (x : Nat) : Val :=
  if f = .e8m0 then decodeE8 x else decodeF (Fmt.float f) (flushIn m (Fmt.cls f)) (x % 2 ^ (Fmt.float f).width)

/-- Whether every value of one format is a value of another, among those with infinities (R130). -/
def FloatFmt.holds (D S : FloatFmt) : Bool := decide (S.eb ≤ D.eb) && decide (S.fb ≤ D.fb)

/-- The sticky bits that narrowing a value into a format sets (R50). -/
def narrowNV (F : FloatFmt) (v : Val) : Word := if v.isNan && F.nan == 0 then stickyNV else 0

/-- CVT's result and sticky bits (R130). -/
def cvtW (df sf : Fmt) (r : Rnd) (sat : Bool) (m : Word) (x : Nat) : Nat × Word :=
  let v := readF sf m x
  (encodeF (Fmt.float df) r (sat && !(Fmt.float df).holds (Fmt.float sf)) (flushOut m (Fmt.cls df)) v, narrowNV (Fmt.float df) v)

/-- CVT (R130). -/
def execCvt (d a : Opnd) (df sf : Fmt) (r : Rnd) (sat : Bool) (s : State) : Out :=
  s.run (arith 2 0 d (Fmt.regs df) false a (Fmt.regs sf) .zero 1 fun m x _ _ =>
    (BitVec.ofNat 64 (cvtW df sf r sat m x.toNat).1, (cvtW df sf r sat m x.toNat).2))

/-- The width of an integer type. -/
def IntTy.width : IntTy → Nat
  | .i8 | .n8 => 8
  | .i16 | .n16 => 16
  | .i32 | .n32 => 32
  | .i64 | .n64 => 64

/-- Whether an integer type is signed. -/
def IntTy.signed : IntTy → Bool
  | .i8 | .i16 | .i32 | .i64 => true
  | _ => false

/-- The lowest value of an integer type (R25). -/
def loInt (signed : Bool) (w : Nat) : Int := if signed then -(2 : Int) ^ (w - 1) else 0

/-- The highest value of an integer type (R25). -/
def hiInt (signed : Bool) (w : Nat) : Int := if signed then (2 : Int) ^ (w - 1) - 1 else (2 : Int) ^ w - 1

/-- The value of a code as an integer type (R25). -/
def readInt (signed : Bool) (w x : Nat) : Int :=
  let y := x % 2 ^ w
  if signed && decide (2 ^ (w - 1) ≤ y) then (y : Int) - (2 : Int) ^ w else (y : Int)

/-- CVTI.f2i's value and sticky bits (R131). -/
def f2iW (f : FFmt) (i : IntTy) (r : Rnd) (m : Word) (x : Nat) : Int × Word :=
  let lo := loInt (IntTy.signed i) (IntTy.width i)
  let hi := hiInt (IntTy.signed i) (IntTy.width i)
  match readF (FFmt.fmt f) m x with
  | .nan _ _ => (0, stickyNV)
  | .inf s => (if s then lo else hi, 0)
  | .fin s k e => (clampInt lo hi (roundInt r s k e false), 0)

/-- CVTI.f2i (R131). -/
def execCvtiF2i (d a : Opnd) (f : FFmt) (i : IntTy) (r : Rnd) (s : State) : Out :=
  s.run (arith 2 0 d (if (IntTy.width i) = 64 then 2 else 1) false a (Fmt.regs (FFmt.fmt f)) .zero 1 fun m x _ _ =>
    (BitVec.ofInt 64 (f2iW f i r m x.toNat).1, (f2iW f i r m x.toNat).2))

/-- CVTI.i2f (R131). -/
def execCvtiI2f (d a : Opnd) (f : FFmt) (i : IntTy) (r : Rnd) (s : State) : Out :=
  s.run (arith 2 0 d (Fmt.regs (FFmt.fmt f)) false a (if (IntTy.width i) = 64 then 2 else 1) .zero 1 fun m x _ _ =>
    (BitVec.ofNat 64 (encodeF (Fmt.float (FFmt.fmt f)) r false (flushOut m (Fmt.cls (FFmt.fmt f))) (intVal (readInt (IntTy.signed i) (IntTy.width i) x.toNat))), 0))

/-- The bits of an element of a format in a register (R31); FP6 stands one code to a byte (R124). -/
def Fmt.slot : Fmt → Nat
  | .f64 => 64
  | .f32 => 32
  | .f16 | .bf16 | .i16 | .n16 => 16
  | .i4 | .n4 | .e2m1 => 4
  | _ => 8

/-- The signedness of an integer format, if it is one. -/
def Fmt.int : Fmt → Option Bool
  | .i8 | .i4 | .i16 => some true
  | .n8 | .n4 | .n16 => some false
  | _ => none

/-- The code that PACK writes and its sticky bits (R132). -/
def packW (df : Fmt) (r : Rnd) (sat : Bool) (m : Word) (x : Nat) : Nat × Word :=
  match Fmt.int df with
  | some sg =>
    let v := clampInt (loInt sg (Fmt.slot df)) (hiInt sg (Fmt.slot df)) (readInt sg 32 x)
    ((v % (2 : Int) ^ (Fmt.slot df)).toNat, 0)
  | none =>
    let v := readF .f32 m x
    (encodeF (Fmt.float df) r sat (flushOut m (Fmt.cls df)) v, narrowNV (Fmt.float df) v)

/-- A register with one element replaced (R31). -/
def insertAt (z w k x : Nat) : Nat := z % 2 ^ (w * k) + x % 2 ^ w * 2 ^ (w * k) + z / 2 ^ (w * k + w) * 2 ^ (w * k + w)

/-- PACK (R132). -/
def execPack (d a : Opnd) (df : Fmt) (p : Nat) (r : Rnd) (sat : Bool) (s : State) : Out :=
  s.run (arith 2 0 d 1 true a 1 .zero 1 fun m x _ z =>
    (BitVec.ofNat 64 (insertAt (z.toNat % 2 ^ 32) (Fmt.slot df) p (packW df r sat m x.toNat).1), (packW df r sat m x.toNat).2))

/-- UNPK's value (R133). -/
def unpkW (sf : Fmt) (p : Nat) (m : Word) (x : Nat) : Nat :=
  let e := bits x ((Fmt.slot sf) * p) (Fmt.slot sf)
  match Fmt.int sf with
  | some sg => (readInt sg (Fmt.slot sf) e % (2 : Int) ^ 32).toNat
  | none => encodeF fp32 .rn false (flushOut m 2) (readF sf m e)

/-- UNPK (R133). -/
def execUnpk (d a : Opnd) (sf : Fmt) (p : Nat) (s : State) : Out :=
  s.run (arith 2 0 d 1 false a 1 .zero 1 fun m x _ _ => (BitVec.ofNat 64 (unpkW sf p m (x.toNat % 2 ^ 32)), 0))

/-- SPLIT6 on the 96 bits of three registers (R134): plane N in the low 64 bits, U above. -/
def split6W (x : Nat) : Nat :=
  (List.range 16).foldl (fun acc i =>
    let c := bits x (6 * i) 6
    acc + c % 16 * 2 ^ (4 * i) + c / 16 * 2 ^ (64 + 2 * i)) 0

/-- JOIN6 on the 96 bits of three registers (R134). -/
def join6W (x : Nat) : Nat :=
  (List.range 16).foldl (fun acc i => acc + (bits x (64 + 2 * i) 2 * 16 + bits x (4 * i) 4) * 2 ^ (6 * i)) 0

/-- The 96 bits of three v registers (R34). -/
def State.val96 (s : State) (p : Nat × Nat) (o : Opnd) : Nat :=
  (s.src p o).toNat + 2 ^ 32 * (s.src p (opndPlus o 1)).toNat + 2 ^ 64 * (s.src p (opndPlus o 2)).toNat

/-- A rearrangement of three v registers into three (R134). -/
def rearrange (g : Nat) (d a : Opnd) (f : Nat → Nat) : Work :=
  { uses := [{ o := d, n := 3, wr := true, vOnly := true }, { o := a, n := 3, rd := true, vOnly := true }],
    guard := g, cost := 2,
    act := fun s ok => s.putDst ok d fun p =>
      let x := f (s.val96 p a)
      [BitVec.ofNat 32 x, BitVec.ofNat 32 (x / 2 ^ 32), BitVec.ofNat 32 (x / 2 ^ 64)] }

/-- SPLIT6 (R134). -/
def execSplit6 (d a : Opnd) (g : Nat) (s : State) : Out := s.run (rearrange g d a split6W)

/-- JOIN6 (R134). -/
def execJoin6 (d a : Opnd) (g : Nat) (s : State) : Out := s.run (rearrange g d a join6W)

/-! Quantisation and scaling (R135 to R139). -/

/-- The width of a quantised type. -/
def QTy.width : QTy → Nat
  | .i8 | .n8 => 8
  | .i4 | .n4 => 4

/-- Whether a quantised type is signed. -/
def QTy.signed : QTy → Bool
  | .i8 | .i4 => true
  | _ => false

/-- QZP.rec's record and sticky bits (R135). -/
def qzpRecW (i : QTy) (m : Word) (x y : Nat) : Nat × Word :=
  let a := readF .f32 m x
  let b := readF .f32 m y
  if a.isNan || a.isInf || b.isNan || b.isInf then (0x7E00, stickyNV)
  else
    let lo := minV a (intVal 0)
    let hi := maxV b (intVal 0)
    let qmin := loInt (QTy.signed i) (QTy.width i)
    let s0 := divF fp16 (flushOut m 1) (subV hi lo) (intVal ((2 : Int) ^ (QTy.width i) - 1))
    let sc := if s0 = 0 then 0x3C00 else s0
    let z := clampInt qmin (hiInt (QTy.signed i) (QTy.width i)) (qmin - divInt lo (decodeF fp16 false sc))
    (sc + 2 ^ 16 * (z % (2 : Int) ^ (QTy.width i)).toNat, 0)

/-- The zero point of a record (R28). -/
def qZero (i : QTy) (r : Nat) : Int := readInt (QTy.signed i) (QTy.width i) (bits r 16 8)

/-- QZP.q's value and sticky bits (R135). -/
def qzpQW (i : QTy) (m : Word) (x r : Nat) : Int × Word :=
  let a := readF .f32 m x
  let sc := decodeF fp16 (flushIn m 1) (r % 2 ^ 16)
  let z := qZero i r
  let lo := loInt (QTy.signed i) (QTy.width i)
  let hi := hiInt (QTy.signed i) (QTy.width i)
  if a.isNan || sc.isNan || (a.isInf && sc.isInf) || (a.isZero && sc.isZero) then (z, stickyNV)
  else if a.isInf || sc.isZero then (if a.sign != sc.sign then lo else hi, 0)
  else (clampInt lo hi (divInt a sc + z), 0)

/-- QZP.rec (R135). -/
def execQzpRec (d a b : Opnd) (i : QTy) (s : State) : Out :=
  s.run (arith 2 0 d 1 false a 1 b 1 fun m x y _ =>
    let r := qzpRecW i m (x.toNat % 2 ^ 32) (y.toNat % 2 ^ 32)
    (BitVec.ofNat 64 r.1, r.2))

/-- QZP.q (R135). -/
def execQzpQ (d a b : Opnd) (i : QTy) (s : State) : Out :=
  s.run (arith 2 0 d 1 false a 1 b 1 fun m x y _ =>
    let r := qzpQW i m (x.toNat % 2 ^ 32) (y.toNat % 2 ^ 32)
    (BitVec.ofInt 64 r.1, r.2))

/-- DQ's value (R136). -/
def dqW (i : QTy) (m : Word) (x r : Nat) : Nat :=
  encodeF fp32 .rn false (flushOut m 2)
    (mulV (decodeF fp16 (flushIn m 1) (r % 2 ^ 16)) (intVal (readInt (QTy.signed i) (QTy.width i) x - qZero i r)))

/-- DQ (R136). -/
def execDq (d a b : Opnd) (i : QTy) (s : State) : Out :=
  s.run (flt 0 d false a b fun m x y _ => dqW i m x y)

/-- The larger magnitude, or the first NaN with its sign (R137). -/
def amaxV (a b : Val) : Val := maxV (absV a) (absV b)

/-- AMAX (R137). -/
def execAmax (d a b : Opnd) (g : Nat) (s : State) : Out := s.run (flt g d false a b fun m x y _ => op2 fp32 2 amaxV m x y)

/-- SCALEX (R51, R138). -/
def execScalex (d a : Opnd) (t : Fmt) (g : Nat) (s : State) : Out :=
  s.run (arith 2 g d 1 false a 1 .zero 1 fun m x _ _ =>
    let r := scaleExp t (readF .f32 m (x.toNat % 2 ^ 32))
    (BitVec.ofNat 64 r.1, if r.2 then stickySU else 0))

/-- SCACC's value (R139): one rounding of d + a × scales, a NaN of a or d first. -/
def scaccW (f16 : Bool) (m : Word) (x y z : Nat) : Nat :=
  let a := readF .f32 m x
  let d := readF .f32 m z
  let f :=
    if f16 then
      let sa := readF .f16 m (y % 2 ^ 16)
      let sb := readF .f16 m (y / 2 ^ 16)
      (firstNan [a, sa, sb]).getD (mulV (mulV a sa) sb)
    else if y % 256 = 255 ∨ bits y 8 8 = 255 then .canonical
    else mulV (mulV a (decodeE8 y)) (decodeE8 (y / 256))
  encodeF fp32 .rn false (flushOut m 2)
    (match firstNan [a, d] with
    | some n => n
    | none => addV .rn d f)

/-- SCACC (R139). -/
def execScacc (d a b : Opnd) (f16 : Bool) (s : State) : Out := s.run (flt 0 d true a b (scaccW f16))

/-! Special functions (R140). -/

/-- A special function of one FP32 source. -/
def specialWork (g : Nat) (d a : Opnd) (f : Bool → Bool → Nat → Nat) : Work :=
  flt g d false a .zero fun m x _ _ => f (flushIn m 2) (flushOut m 2) x

/-- FRCP (R140). -/
def execFrcp (d a : Opnd) (g : Nat) (s : State) : Out := s.run (specialWork g d a frcp)

/-- FRSQ (R140). -/
def execFrsq (d a : Opnd) (g : Nat) (s : State) : Out := s.run (specialWork g d a frsq)

/-- FSQRT (R140). -/
def execFsqrt (d a : Opnd) (g : Nat) (s : State) : Out := s.run (specialWork g d a fsqrt)

/-- FEXP2 (R140). -/
def execFexp2 (d a : Opnd) (g : Nat) (s : State) : Out := s.run (specialWork g d a fexp2)

/-- FLOG2 (R140). -/
def execFlog2 (d a : Opnd) (g : Nat) (s : State) : Out := s.run (specialWork g d a flog2)

/-- FSIN (R140). -/
def execFsin (d a : Opnd) (g : Nat) (s : State) : Out := s.run (specialWork g d a fsin)

/-- FCOS (R140). -/
def execFcos (d a : Opnd) (g : Nat) (s : State) : Out := s.run (specialWork g d a fcos)

/-- FTANH (R140). -/
def execFtanh (d a : Opnd) (g : Nat) (s : State) : Out := s.run (specialWork g d a ftanh)

/-! Online softmax (R142, R143). -/

/-- OSMX (R142): a leaf of one logit where the b field is 0x7C, else the combination of two states. -/
def execOsmx (d a b : Opnd) (g : Nat) (s : State) : Out :=
  match b with
  | .zero => s.run (arith 2 g d 2 false a 1 .zero 1 fun _ x _ _ => (smLeaf (x.toNat % 2 ^ 32), 0))
  | b => s.run (arith 2 g d 2 false a 2 b 2 fun _ x y _ => (smCombine x y, 0))

/-- OSMN (R143). -/
def execOsmn (d a b : Opnd) (g : Nat) (s : State) : Out :=
  s.run (arith 2 g d 1 false a 1 b 2 fun m x y _ =>
    (BitVec.ofNat 64 (osmn (flushIn m 2) (flushOut m 2) (x.toNat % 2 ^ 32) y), 0))

end Sys2Proof.Machine
end

