-- ==== Sys2Proof/Machine/Dispatch.lean ====
section
/-! DEFINITION. The dispatch of instructions and events to their meanings. -/

namespace Sys2Proof.Machine

/-- What an instruction word does for the unit at issue, and what an event does to the machine. -/
def exec (i : Instr) (s : State) : Host.Outcome State Fault Refusal :=
  match i with
  | .mov d a g => Sys2Proof.Machine.execMov d a g s
  | .movi d n => Sys2Proof.Machine.execMovi d n s
  | .sel d a b q => Sys2Proof.Machine.execSel d a b q s
  | .add d a b g => Sys2Proof.Machine.execAdd d a b g s
  | .sub d a b g => Sys2Proof.Machine.execSub d a b g s
  | .mul d a b g => Sys2Proof.Machine.execMul d a b g s
  | .mulhI32 d a b g => Sys2Proof.Machine.execMulhI32 d a b g s
  | .mulhN32 d a b g => Sys2Proof.Machine.execMulhN32 d a b g s
  | .mad d a b g => Sys2Proof.Machine.execMad d a b g s
  | .madwI32 d a b g => Sys2Proof.Machine.execMadwI32 d a b g s
  | .madwN32 d a b g => Sys2Proof.Machine.execMadwN32 d a b g s
  | .minI32 d a b g => Sys2Proof.Machine.execMinI32 d a b g s
  | .minN32 d a b g => Sys2Proof.Machine.execMinN32 d a b g s
  | .maxI32 d a b g => Sys2Proof.Machine.execMaxI32 d a b g s
  | .maxN32 d a b g => Sys2Proof.Machine.execMaxN32 d a b g s
  | .abs d a g => Sys2Proof.Machine.execAbs d a g s
  | .neg d a g => Sys2Proof.Machine.execNeg d a g s
  | .and d a b g => Sys2Proof.Machine.execAnd d a b g s
  | .or d a b g => Sys2Proof.Machine.execOr d a b g s
  | .xor d a b g => Sys2Proof.Machine.execXor d a b g s
  | .andn d a b g => Sys2Proof.Machine.execAndn d a b g s
  | .not d a g => Sys2Proof.Machine.execNot d a g s
  | .shl d a b g => Sys2Proof.Machine.execShl d a b g s
  | .shr d a b g => Sys2Proof.Machine.execShr d a b g s
  | .sar d a b g => Sys2Proof.Machine.execSar d a b g s
  | .rol d a b g => Sys2Proof.Machine.execRol d a b g s
  | .popc d a g => Sys2Proof.Machine.execPopc d a g s
  | .clz d a g => Sys2Proof.Machine.execClz d a g s
  | .ctz d a g => Sys2Proof.Machine.execCtz d a g s
  | .brev d a g => Sys2Proof.Machine.execBrev d a g s
  | .bfxI32 d a b g => Sys2Proof.Machine.execBfxI32 d a b g s
  | .bfxN32 d a b g => Sys2Proof.Machine.execBfxN32 d a b g s
  | .bfi d a b g => Sys2Proof.Machine.execBfi d a b g s
  | .perm d a b g => Sys2Proof.Machine.execPerm d a b g s
  | .addi d a n => Sys2Proof.Machine.execAddi d a n s
  | .andi d a n => Sys2Proof.Machine.execAndi d a n s
  | .ori d a n => Sys2Proof.Machine.execOri d a n s
  | .xori d a n => Sys2Proof.Machine.execXori d a n s
  | .shli d a n => Sys2Proof.Machine.execShli d a n s
  | .shri d a n => Sys2Proof.Machine.execShri d a n s
  | .sari d a n => Sys2Proof.Machine.execSari d a n s
  | .lea d a b sh sx => Sys2Proof.Machine.execLea d a b sh sx s
  | .add64 d a b g => Sys2Proof.Machine.execAdd64 d a b g s
  | .sub64 d a b g => Sys2Proof.Machine.execSub64 d a b g s
  | .shl64 d a b g => Sys2Proof.Machine.execShl64 d a b g s
  | .icmp p c a b g => Sys2Proof.Machine.execIcmp p c a b g s
  | .pand p a b na nb g => Sys2Proof.Machine.execPand p a b na nb g s
  | .por p a b na nb g => Sys2Proof.Machine.execPor p a b na nb g s
  | .pxor p a b na nb g => Sys2Proof.Machine.execPxor p a b na nb g s
  | .pnot p a g => Sys2Proof.Machine.execPnot p a g s
  | .p2v d g => Sys2Proof.Machine.execP2v d g s
  | .v2p a b g => Sys2Proof.Machine.execV2p a b g s
  | .shfl d a b m => Sys2Proof.Machine.execShfl d a b m s
  | .vote p a na m g => Sys2Proof.Machine.execVote p a na m g s
  | .ballot d a na g => Sys2Proof.Machine.execBallot d a na g s
  | .lmatch d a g => Sys2Proof.Machine.execLmatch d a g s
  | .lred d a b o => Sys2Proof.Machine.execLred d a b o s
  | .fadd d a b g => Sys2Proof.Machine.execFadd d a b g s
  | .fsub d a b g => Sys2Proof.Machine.execFsub d a b g s
  | .fmul d a b g => Sys2Proof.Machine.execFmul d a b g s
  | .ffma d a b g => Sys2Proof.Machine.execFfma d a b g s
  | .ffms d a b g => Sys2Proof.Machine.execFfms d a b g s
  | .fmin d a b g => Sys2Proof.Machine.execFmin d a b g s
  | .fmax d a b g => Sys2Proof.Machine.execFmax d a b g s
  | .fcmp p c a b g => Sys2Proof.Machine.execFcmp p c a b g s
  | .fclass d a f g => Sys2Proof.Machine.execFclass d a f g s
  | .hadd2F16 d a b g => Sys2Proof.Machine.execHadd2F16 d a b g s
  | .hadd2Bf16 d a b g => Sys2Proof.Machine.execHadd2Bf16 d a b g s
  | .hmul2F16 d a b g => Sys2Proof.Machine.execHmul2F16 d a b g s
  | .hmul2Bf16 d a b g => Sys2Proof.Machine.execHmul2Bf16 d a b g s
  | .hfma2F16 d a b g => Sys2Proof.Machine.execHfma2F16 d a b g s
  | .hfma2Bf16 d a b g => Sys2Proof.Machine.execHfma2Bf16 d a b g s
  | .dadd d a b g => Sys2Proof.Machine.execDadd d a b g s
  | .dmul d a b g => Sys2Proof.Machine.execDmul d a b g s
  | .dfma d a b g => Sys2Proof.Machine.execDfma d a b g s
  | .cvt d a df sf r sat => Sys2Proof.Machine.execCvt d a df sf r sat s
  | .cvtiF2i d a f n r => Sys2Proof.Machine.execCvtiF2i d a f n r s
  | .cvtiI2f d a f n r => Sys2Proof.Machine.execCvtiI2f d a f n r s
  | .pack d a df pos r sat => Sys2Proof.Machine.execPack d a df pos r sat s
  | .unpk d a sf pos => Sys2Proof.Machine.execUnpk d a sf pos s
  | .split6 d a g => Sys2Proof.Machine.execSplit6 d a g s
  | .join6 d a g => Sys2Proof.Machine.execJoin6 d a g s
  | .qzpRec d a b n => Sys2Proof.Machine.execQzpRec d a b n s
  | .qzpQ d a b n => Sys2Proof.Machine.execQzpQ d a b n s
  | .dq d a b n => Sys2Proof.Machine.execDq d a b n s
  | .amax d a b g => Sys2Proof.Machine.execAmax d a b g s
  | .scalex d a t g => Sys2Proof.Machine.execScalex d a t g s
  | .scacc d a b f16 => Sys2Proof.Machine.execScacc d a b f16 s
  | .frcp d a g => Sys2Proof.Machine.execFrcp d a g s
  | .frsq d a g => Sys2Proof.Machine.execFrsq d a g s
  | .fsqrt d a g => Sys2Proof.Machine.execFsqrt d a g s
  | .fexp2 d a g => Sys2Proof.Machine.execFexp2 d a g s
  | .flog2 d a g => Sys2Proof.Machine.execFlog2 d a g s
  | .fsin d a g => Sys2Proof.Machine.execFsin d a g s
  | .fcos d a g => Sys2Proof.Machine.execFcos d a g s
  | .ftanh d a g => Sys2Proof.Machine.execFtanh d a g s
  | .osmx d a b g => Sys2Proof.Machine.execOsmx d a b g s
  | .osmn d a b g => Sys2Proof.Machine.execOsmn d a b g s
  | .ld d a b t acq => Sys2Proof.Machine.execLd d a b t acq s
  | .st d a b t rel => Sys2Proof.Machine.execSt d a b t rel s
  | .lds d a b t => Sys2Proof.Machine.execLds d a b t s
  | .sts d a b t => Sys2Proof.Machine.execSts d a b t s
  | .ldw d a b t => Sys2Proof.Machine.execLdw d a b t s
  | .gld d base sz sx b sp iw sh => Sys2Proof.Machine.execGld d base sz sx b sp iw sh s
  | .gst d base sz sx b sp iw sh => Sys2Proof.Machine.execGst d base sz sx b sp iw sh s
  | .atom d p nr o t r g => Sys2Proof.Machine.execAtom d p nr o t r g s
  | .cas d p w64 r g => Sys2Proof.Machine.execCas d p w64 r g s
  | .contrib e a b g => Sys2Proof.Machine.execContrib e a b g s
  | .tstat d a b g => Sys2Proof.Machine.execTstat d a b g s
  | .sload p ring a b g => Sys2Proof.Machine.execSload p ring a b g s
  | .spoll d a b w64 peek => Sys2Proof.Machine.execSpoll d a b w64 peek s
  | .unsub b g => Sys2Proof.Machine.execUnsub b g s
  | .pref a b => Sys2Proof.Machine.execPref a b s
  | .fence sc k g => Sys2Proof.Machine.execFence sc k g s
  | .mrsv d p g => Sys2Proof.Machine.execMrsv d p g s
  | .mrel res g => Sys2Proof.Machine.execMrel res g s
  | .minit res acc spad a b g => Sys2Proof.Machine.execMinit res acc spad a b g s
  | .mma k h a b => Sys2Proof.Machine.execMma k h a b s
  | .mmas k h a b => Sys2Proof.Machine.execMmas k h a b s
  | .gmma k h a b => Sys2Proof.Machine.execGmma k h a b s
  | .mguide res acc a g => Sys2Proof.Machine.execMguide res acc a g s
  | .mfin res acc g => Sys2Proof.Machine.execMfin res acc g s
  | .mdrainReg res acc a col rowb g => Sys2Proof.Machine.execMdrainReg res acc a col rowb g s
  | .mdrainSpad res acc a g => Sys2Proof.Machine.execMdrainSpad res acc a g s
  | .mdrainTree res acc a g => Sys2Proof.Machine.execMdrainTree res acc a g s
  | .mstore res acc f glob a g => Sys2Proof.Machine.execMstore res acc f glob a g s
  | .mstatAcc d res acc g => Sys2Proof.Machine.execMstatAcc d res acc g s
  | .mstatEng d res acc g => Sys2Proof.Machine.execMstatEng d res acc g s
  | .wbind e a f g => Sys2Proof.Machine.execWbind e a f g s
  | .wunb e g => Sys2Proof.Machine.execWunb e g s
  | .touch e p g => Sys2Proof.Machine.execTouch e p g s
  | .wstat e d g => Sys2Proof.Machine.execWstat e d g s
  | .wflush e g => Sys2Proof.Machine.execWflush e g s
  | .reform g => Sys2Proof.Machine.execReform g s
  | .yield g => Sys2Proof.Machine.execYield g s
  | .elect d p g => Sys2Proof.Machine.execElect d p g s
  | .arrive d b g => Sys2Proof.Machine.execArrive d b g s
  | .arriveCount d a b g => Sys2Proof.Machine.execArriveCount d a b g s
  | .arriveExpect d a b g => Sys2Proof.Machine.execArriveExpect d a b g s
  | .bwait a b g => Sys2Proof.Machine.execBwait a b g s
  | .bsync b g => Sys2Proof.Machine.execBsync b g s
  | .kdecl k a b g => Sys2Proof.Machine.execKdecl k a b g s
  | .sign k p g => Sys2Proof.Machine.execSign k p g s
  | .waitc c th g => Sys2Proof.Machine.execWaitc c th g s
  | .mwait d a b sp => Sys2Proof.Machine.execMwait d a b sp s
  | .bra g off => Sys2Proof.Machine.execBra g off s
  | .brx a g => Sys2Proof.Machine.execBrx a g s
  | .call g off => Sys2Proof.Machine.execCall g off s
  | .callx a g => Sys2Proof.Machine.execCallx a g s
  | .ret g => Sys2Proof.Machine.execRet g s
  | .exit g => Sys2Proof.Machine.execExit g s
  | .trap c g => Sys2Proof.Machine.execTrap c g s
  | .enter c g => Sys2Proof.Machine.execEnter c g s
  | .leave c g => Sys2Proof.Machine.execLeave c g s
  | .bkpt c g => Sys2Proof.Machine.execBkpt c g s
  | .nop => Sys2Proof.Machine.execNop s
  | .srd d n g => Sys2Proof.Machine.execSrd d n g s
  | .swr a n g => Sys2Proof.Machine.execSwr a n g s
  | .eret => Sys2Proof.Machine.execEret s
  | .svrf blk a b g => Sys2Proof.Machine.execSvrf blk a b g s
  | .ldrf blk a b g => Sys2Proof.Machine.execLdrf blk a b g s
  | .svwinWin e a => Sys2Proof.Machine.execSvwinWin e a s
  | .svwinSlot e a b => Sys2Proof.Machine.execSvwinSlot e a b s
  | .ldwinWin e a => Sys2Proof.Machine.execLdwinWin e a s
  | .ldwinSlot e a b => Sys2Proof.Machine.execLdwinSlot e a b s
  | .tlbi page a b g => Sys2Proof.Machine.execTlbi page a b g s
  | .grant d a b g => Sys2Proof.Machine.execGrant d a b g s
  | .haltThread => Sys2Proof.Machine.execHaltThread s
  | .haltGroup => Sys2Proof.Machine.execHaltGroup s
  | .haltKernel => Sys2Proof.Machine.execHaltKernel s
  | .haltPark => Sys2Proof.Machine.execHaltPark s
  | .mark c g => Sys2Proof.Machine.execMark c g s
  | .rep cnt step => Sys2Proof.Machine.execRep cnt step s
  | .scope sc => Sys2Proof.Machine.execScope sc s
  | .clauseIssue => Sys2Proof.Machine.execClauseIssue s
  | .foldAgeLimit core fold => Sys2Proof.Machine.execFoldAgeLimit core fold s
  | .foldForm core fold => Sys2Proof.Machine.execFoldForm core fold s
  | .unitExpired u => Sys2Proof.Machine.execUnitExpired u s
  | .bwaitRelease u => Sys2Proof.Machine.execBwaitRelease u s
  | .mwaitWake u => Sys2Proof.Machine.execMwaitWake u s
  | .loadValueLands op => Sys2Proof.Machine.execLoadValueLands op s
  | .storePerformed op => Sys2Proof.Machine.execStorePerformed op s
  | .countedOpComplete op => Sys2Proof.Machine.execCountedOpComplete op s
  | .persistentRequest core line => Sys2Proof.Machine.execPersistentRequest core line s
  | .fillEntersQueue job => Sys2Proof.Machine.execFillEntersQueue job s
  | .fillBeatLands job off => Sys2Proof.Machine.execFillBeatLands job off s
  | .fillStampWrite job dest => Sys2Proof.Machine.execFillStampWrite job dest s
  | .flushBegin job => Sys2Proof.Machine.execFlushBegin job s
  | .flushComplete job => Sys2Proof.Machine.execFlushComplete job s
  | .wsRefreshSlot die => Sys2Proof.Machine.execWsRefreshSlot die s
  | .wsRefreshBusyEnd die => Sys2Proof.Machine.execWsRefreshBusyEnd die s
  | .wsEmergencyRefresh die => Sys2Proof.Machine.execWsEmergencyRefresh die s
  | .wsFrameKindChange die => Sys2Proof.Machine.execWsFrameKindChange die s
  | .matrixOpStart eng => Sys2Proof.Machine.execMatrixOpStart eng s
  | .matrixOpComplete eng => Sys2Proof.Machine.execMatrixOpComplete eng s
  | .pairWindowClose grp k => Sys2Proof.Machine.execPairWindowClose grp k s
  | .engineFence eng => Sys2Proof.Machine.execEngineFence eng s
  | .rickNodeArrival node => Sys2Proof.Machine.execRickNodeArrival node s
  | .treeStampWrite elem => Sys2Proof.Machine.execTreeStampWrite elem s
  | .coreRickTimeout node => Sys2Proof.Machine.execCoreRickTimeout node s
  | .portRickTimeout node => Sys2Proof.Machine.execPortRickTimeout node s
  | .nodeWaitTimeout node => Sys2Proof.Machine.execNodeWaitTimeout node s
  | .pushSend line => Sys2Proof.Machine.execPushSend line s
  | .pushLands push => Sys2Proof.Machine.execPushLands push s
  | .sloadAnswer req => Sys2Proof.Machine.execSloadAnswer req s
  | .sloadFillLands req => Sys2Proof.Machine.execSloadFillLands req s
  | .unsubAckLands req => Sys2Proof.Machine.execUnsubAckLands req s
  | .subscriptionGrantExpiry sub => Sys2Proof.Machine.execSubscriptionGrantExpiry sub s
  | .pushUndeliverable dev => Sys2Proof.Machine.execPushUndeliverable dev s
  | .queueTailNotify ctx q => Sys2Proof.Machine.execQueueTailNotify ctx q s
  | .queueTailPoll ctx q => Sys2Proof.Machine.execQueueTailPoll ctx q s
  | .launchRecordCopy ctx q => Sys2Proof.Machine.execLaunchRecordCopy ctx q s
  | .teamPlace launch => Sys2Proof.Machine.execTeamPlace launch s
  | .placementStarvation launch => Sys2Proof.Machine.execPlacementStarvation launch s
  | .priorityPreempt launch cluster => Sys2Proof.Machine.execPriorityPreempt launch cluster s
  | .timeSliceExpiry ctx cluster => Sys2Proof.Machine.execTimeSliceExpiry ctx cluster s
  | .preemptionTrap t => Sys2Proof.Machine.execPreemptionTrap t s
  | .parkTimeout team => Sys2Proof.Machine.execParkTimeout team s
  | .launchComplete launch => Sys2Proof.Machine.execLaunchComplete launch s
  | .rangePrefetch launch => Sys2Proof.Machine.execRangePrefetch launch s
  | .deadRangeDiscard launch => Sys2Proof.Machine.execDeadRangeDiscard launch s
  | .weightStoreLoad launch => Sys2Proof.Machine.execWeightStoreLoad launch s
  | .controlQueueNotify => Sys2Proof.Machine.execControlQueueNotify s
  | .create ctx arg0 => Sys2Proof.Machine.execCreate ctx arg0 s
  | .destroy ctx => Sys2Proof.Machine.execDestroy ctx s
  | .qenable ctx arg0 => Sys2Proof.Machine.execQenable ctx arg0 s
  | .qdisable ctx arg0 => Sys2Proof.Machine.execQdisable ctx arg0 s
  | .tlbiCommand ctx arg0 arg1 => Sys2Proof.Machine.execTlbiCommand ctx arg0 arg1 s
  | .suspend ctx => Sys2Proof.Machine.execSuspend ctx s
  | .resume ctx => Sys2Proof.Machine.execResume ctx s
  | .endlaunch ctx arg0 arg1 => Sys2Proof.Machine.execEndlaunch ctx arg0 arg1 s
  | .setsave arg0 => Sys2Proof.Machine.execSetsave arg0 s
  | .debugCmd ctx arg0 => Sys2Proof.Machine.execDebugCmd ctx arg0 s
  | .stop ctx arg0 arg1 => Sys2Proof.Machine.execStop ctx arg0 arg1 s
  | .cont ctx arg0 arg1 => Sys2Proof.Machine.execCont ctx arg0 arg1 s
  | .dump ctx arg0 arg1 => Sys2Proof.Machine.execDump ctx arg0 arg1 s
  | .dumpend ctx => Sys2Proof.Machine.execDumpend ctx s
  | .ezero ctx arg0 => Sys2Proof.Machine.execEzero ctx arg0 s
  | .attest arg0 arg1 => Sys2Proof.Machine.execAttest arg0 arg1 s
  | .plimit arg0 => Sys2Proof.Machine.execPlimit arg0 s
  | .registerWrite off x => Sys2Proof.Machine.execRegisterWrite off x s
  | .fctlCommit => Sys2Proof.Machine.execFctlCommit s
  | .cqctlWrite x => Sys2Proof.Machine.execCqctlWrite x s
  | .podnumWrite x => Sys2Proof.Machine.execPodnumWrite x s
  | .gkgenAdvance => Sys2Proof.Machine.execGkgenAdvance s
  | .rcvctlStart => Sys2Proof.Machine.execRcvctlStart s
  | .rcvdataWrite x => Sys2Proof.Machine.execRcvdataWrite x s
  | .rcvctlDone => Sys2Proof.Machine.execRcvctlDone s
  | .firmwareVerifyDone => Sys2Proof.Machine.execFirmwareVerifyDone s
  | .hostWrite addr bytes => Sys2Proof.Machine.execHostWrite addr bytes s
  | .hostRead addr len => Sys2Proof.Machine.execHostRead addr len s
  | .fabricLinkUp => Sys2Proof.Machine.execFabricLinkUp s
  | .rotorDwell => Sys2Proof.Machine.execRotorDwell s
  | .remoteRequestIngress req => Sys2Proof.Machine.execRemoteRequestIngress req s
  | .remoteAckArrival ack => Sys2Proof.Machine.execRemoteAckArrival ack s
  | .remoteRetransmit req => Sys2Proof.Machine.execRemoteRetransmit req s
  | .remoteGiveUp req => Sys2Proof.Machine.execRemoteGiveUp req s
  | .relayStage flit => Sys2Proof.Machine.execRelayStage flit s
  | .relayDiscard flit => Sys2Proof.Machine.execRelayDiscard flit s
  | .ingressBlockEnd dev => Sys2Proof.Machine.execIngressBlockEnd dev s
  | .flitCrcRetry fibre => Sys2Proof.Machine.execFlitCrcRetry fibre s
  | .wavelengthReplace fibre wave => Sys2Proof.Machine.execWavelengthReplace fibre wave s
  | .coreFence core => Sys2Proof.Machine.execCoreFence core s
  | .sliceFence slice => Sys2Proof.Machine.execSliceFence slice s
  | .channelRetireMark chan => Sys2Proof.Machine.execChannelRetireMark chan s
  | .repairPoint => Sys2Proof.Machine.execRepairPoint s
  | .repairPreempt => Sys2Proof.Machine.execRepairPreempt s
  | .deviceReset => Sys2Proof.Machine.execDeviceReset s
  | .thermalTrip => Sys2Proof.Machine.execThermalTrip s
  | .clockThrottle reason => Sys2Proof.Machine.execClockThrottle reason s
  | .clockRestore => Sys2Proof.Machine.execClockRestore s
  | .healthBlockUpdate => Sys2Proof.Machine.execHealthBlockUpdate s
  | .powerBlockUpdate => Sys2Proof.Machine.execPowerBlockUpdate s
  | .energyTick => Sys2Proof.Machine.execEnergyTick s
  | .traceWrittenFlush ctx => Sys2Proof.Machine.execTraceWrittenFlush ctx s
  | .unitStop u => Sys2Proof.Machine.execUnitStop u s
  | .powerLoss => Sys2Proof.Machine.execPowerLoss s

end Sys2Proof.Machine
end

