-- ==== Sys2Proof/Machine/Progress.lean ====
section
/-!
DEFINITION. What comes about next (R387, log 1). Events that are due come first. The agenda lists what the world chooses:
which events come, in which order, and how much time passes before each; while it passes, the datapaths issue. Where the
agenda is empty, the machine goes on by itself: in each clk each datapath issues one word, and then every piece of work
under way moves once.
-/

namespace Sys2Proof.Machine

/-- What a step does: an instruction or event on a state, nothing more than reaching a state, or an agenda that names an
instruction word as an event. -/
inductive Plan where
  | run (s : State) (i : Instr)
  | rest (s : State)
  | wrong
  deriving DecidableEq, Repr

/-! Units (R169, R186, R387). -/

/-- Units that were blocked look at their words again. -/
def State.unblocked (s : State) : State := { s with units := s.units.map fun u => { u with blocked := false } }

/-- Whether a datapath may choose a unit. -/
def IssueUnit.ready (u : IssueUnit) : Bool := u.live && !u.stopped && !u.blocked

/-- The entry that comes first by several keys, the first key counting most. -/
def leastOf : List (Nat → Nat) → List Nat → Option Nat
  | [], l => l.head?
  | k :: ks, l => (leastBy k l).bind fun x => leastOf ks (l.filter fun y => k y == k x)

/-- What makes a unit the older one: its stamp, then its group, its issue-group index and its lowest lane (R386). Two units that
folds of one group formed in one clk go by the number of their folds: DESIGN CHOICE (log 52). -/
def State.ageKeys (s : State) : List (Nat → Nat) :=
  [fun u => (s.unitAt u).stamp, fun u => (s.unitAt u).group, fun u => (s.unitAt u).rank,
    fun u => (((s.unitAt u).lanes.head?).map Prod.fst).getD 0]

/-- The unit that a datapath tries next (R387): expired ones in the order in which they expired, else the highest PRIO; the
oldest among equals. One whose word turns out to be blocked is passed over. -/
def State.choose (s : State) (path : Nat) : Option Nat :=
  let us := allPos (fun (u : IssueUnit) => u.ready && u.path == path) s.units
  (leastOf ((fun u => ((s.unitAt u).expired).getD 0) :: s.ageKeys) (us.filter fun u => (s.unitAt u).expired.isSome)).or
    (leastOf ((fun u => 3 - (s.recordOf (s.unitAt u).group).prio) :: s.ageKeys) us)

/-- The next datapath that has a unit to try and has not issued in this clk. -/
def State.nextPath (s : State) : Option Nat :=
  leastBy id ((s.units.filter fun u => u.ready && !s.taken.contains u.path).map IssueUnit.path)

/-- The datapaths that have issued in a clk once a word has: prefixes issue with their word (R387). -/
def takenBy (i : Instr) (path : Nat) (taken : List Nat) : List Nat := if isPrefix i then taken else path :: taken

/-- The turn of a unit: it stops where a debugger waits for it, fetches its clause where it has none, and performs its next
word. -/
def State.wordPlan (s : State) (u : Nat) : Plan :=
  let s1 := { s with cur := u }
  let path := s1.unit.path
  if s1.unit.stopAsk.isSome && s1.unit.atStop then .run s1 (.unitStop u)
  else
    let s2 := if s1.unit.words = [] then s1.issueClause else s1
    if s2.unit.ready && s2.unit.words != [] then
      match s2.unit.instrAt s2.unit.idx with
      | .ok i => .run { s2 with taken := takenBy i path s2.taken } i
      | .error _ => .rest { s2.illegalWord with taken := path :: s2.taken }
    else .rest s2

/-- What a unit would do with its word, tried out: the state in which it has looked. -/
def State.trial (s : State) (u : Nat) : State :=
  let s1 := { s with cur := u }
  let s2 := if s1.unit.words = [] then s1.issueClause else s1
  if s2.unit.blocked || s2.unit.words == [] then s2
  else
    match s2.unit.instrAt s2.unit.idx with
    | .error _ => s2
    | .ok i =>
      match exec i s2 with
      | .next t => t
      | _ => s2

/-- A blocked unit at the start of a clk: it stays blocked while its word is and has nothing to send, and a thread that R186 held,
also one of a unit that its datapath has not tried since, is runnable from now on if the word holds it no more. A unit that a debugger
waits for may stop. -/
def State.lookAgain (s : State) (u : Nat) : State :=
  let x := s.unitAt u
  if !x.live || (!x.blocked && x.lanes.all fun p => !(s.thr p.2).waits) then s
  else
    let open_ := s.updUnit u fun y => { y with blocked := false }
    let t := open_.trial u
    let y := t.unitAt u
    if y.blocked && y.lanes == x.lanes && t.nextId == s.nextId && !(x.stopAsk.isSome && x.atStop) then
      s.each x.lanes fun p z => { z with since := (t.thr p.2).since, waits := (t.thr p.2).waits }
    else open_.wake u

/-! Events that are due. -/

/-- The weight stores' refresh (R228, R229). -/
def State.dueRefresh (s : State) : Option Instr :=
  (List.range 4).findSome? fun d =>
    if s.slotDue d then some (.wsRefreshSlot d) else if s.busyDue d then some (.wsRefreshBusyEnd d) else none

/-- Folds that form (R172): within 8 clk from when they could, sooner by a free choice; where more of a core could form than
a clk allows, so much sooner. -/
def State.dueFold (s : State) : Option Instr :=
  s.folds.findSome? fun f =>
    match s.nextFold f.core with
    | none => none
    | some g =>
      let ready := s.folds.filter fun x => x.core == f.core && (s.foldFull x || s.foldAged x)
      if s.pick f.core 2 = 0 || ready.any (fun x => decide (7 ≤ s.foldReady x + ready.length / 4)) then
        some (if s.foldFull g then .foldForm g.core g.num else .foldAgeLimit g.core g.num)
      else none

/-- Threads that have a pre-emption trap to take (R403). -/
def State.dueTrap (s : State) : Option Instr :=
  let there := fun t => s.units.any (fun u => u.live && u.lanes.any fun p => p.2 == t) || s.folds.any fun f => f.threads.contains t
  ((List.range s.threads.length).find? fun t =>
    s.trapDue t && there t).map .preemptionTrap

/-- Units that expire (R187). -/
def State.dueUnit (s : State) : Option Instr :=
  ((List.range s.units.length).find? fun u => s.expires (s.unitAt u)).map .unitExpired

/-- What firmware and the energy counters do at fixed times (R451, R479, R489). -/
def State.dueClock (s : State) : Option Instr :=
  if (s.ticks + 1) * 1024 ≤ s.clk then some .energyTick
  else if s.bar0.booted && (s.health.stale || decide (s.health.genAt + 100000000 * wallNs ≤ s.wall)) then some .healthBlockUpdate
  else if s.bar0.booted && decide ((s.health.powerGen + 1) * 10000000 * wallNs ≤ s.wall) then some .powerBlockUpdate
  else none

/-- Pair windows that are over and whose complete half can issue alone (R299). -/
def State.dueWindow (s : State) : Option Instr :=
  (mapFrom (fun g (x : Group) => (mapFrom (fun k (c : Conv) => (g, k, c)) 0 x.convs).filter fun y =>
    s.windowOver y.2.2 && !s.paused x.team && ((s.closeWindow g y.2.1).conv g y.2.1 != y.2.2)) 0 s.groups).flatten.head?.map
      fun y => .pairWindowClose y.1 y.2.1

/-- Pushes that may wait no longer (R341). -/
def State.duePush (s : State) : Option Instr :=
  (s.fly.dirty.find? fun d => decide (d.since + 32 ≤ s.clk)).map fun d => .pushSend d.line

/-- A flit that has been staged for 1.5 ms (R423). -/
def State.dueStage (s : State) : Option Instr :=
  (pos (fun (x : Nat × Flit) => decide (x.1 + 1500000 * wallNs ≤ s.wall)) s.fabric.staged).map .relayDiscard

/-- Nodes that have been held in a core or port rick as long as they may be (R326). -/
def State.dueRick (s : State) : Option Instr :=
  s.fly.nodes.findSome? fun x =>
    match x.place, s.treeSet x.ctx x.handle with
    | .coreRick _, some t => if x.since + 64 ≤ s.clk ∧ s.behind t x = false then some (.coreRickTimeout x.id) else none
    | .portRick _, some _ => if x.since + 256 ≤ s.clk then some (.portRickTimeout x.id) else none
    | _, _ => none

/-- Misses on lines of their core's own die that have not gathered their tokens within 256 clk (R212). -/
def State.dueMiss (s : State) : Option Instr :=
  s.fly.ops.findSome? fun o =>
    match s.missLine o with
    | some line =>
      if o.since + 256 ≤ s.clk && s.homeOf line / 48 == dieOfCore o.core && !s.sto.persistent.contains (line, o.core) then
        some (.persistentRequest o.core line)
      else none
    | none => none

/-- Trace pages whose count has not taken in the last packets for almost 64 µs (R444). -/
def State.dueTrace (s : State) : Option Instr :=
  s.ctxs.findSome? fun c => (c.debug).bind fun d =>
    if d.open_ && d.flushed != d.written + d.pos && decide (d.last + 63000 * wallNs ≤ s.wall) then some (.traceWrittenFlush c.num)
    else none

/-- The event that comes before any further word. -/
def State.due (s : State) : Option Instr :=
  s.dueRefresh.or (s.dueFold.or (s.dueTrap.or (s.dueUnit.or (s.dueWindow.or (s.duePush.or (s.dueRick.or
    (s.dueMiss.or (s.dueTrace.or (s.dueStage.or s.dueClock)))))))))

/-! Work under way. -/

/-- What an operation in flight waits for. -/
def Op.nextEvent (o : Op) : List Instr :=
  match o.kind with
  | .store _ _ _ _ => [.storePerformed o.id]
  | .atomic _ _ _ _ _ _ _ _ => [.storePerformed o.id]
  | .done _ _ => [.countedOpComplete o.id]
  | .parts [] _ _ _ => [.countedOpComplete o.id]
  | .parts _ _ _ _ => []
  | .remote _ _ _ _ _ _ _ _ _ => []
  | _ => [.loadValueLands o.id]

/-- The loads that have hit their core's L1 and whose values have come, 28 clk after their issue: they land also while the agenda lets
time pass. R214's table calls its figures typical, and R363 and R365 rest on this one: DEDUCED (log 54). -/
def State.hitEvents (s : State) : List Instr :=
  (s.fly.ops.filter fun o => decide (o.since + 28 ≤ s.clk) &&
    (match o.kind with
      | .load _ _ (.mem a) _ _ _ _ _ _ => s.hits o.core (a / 128)
      | .fill _ _ (.ok _) none => (s.opLine o).elim false (s.hits o.core)
      | _ => false)).map fun o => .loadValueLands o.id

/-- What a fill or flush waits for. -/
def State.jobEvents (s : State) (j : Job) : List Instr :=
  match j.flush with
  | some _ => if j.begun then [.flushComplete j.id] else [.flushBegin j.id]
  | none =>
    if j.queued then
      match (j.first.find? (s.lacks j)).or ((List.range (region j.desc).size).find? (s.lacks j)) with
      | some o => [.fillBeatLands j.id o]
      | none => (List.range ((region j.desc).dests.length)).map fun i => .fillStampWrite j.id i
    else [.fillEntersQueue j.id]

/-- What the matrix engines and convergence registers wait for. -/
def State.matrixEvents (s : State) : List Instr :=
  (dedup (s.fly.mops.map MOp.eng)).map (fun e =>
    if ((s.headMop e).map MOp.started).getD false then .matrixOpComplete e else .matrixOpStart e) ++
  (mapFrom (fun g (x : Group) => mapFrom (fun k (c : Conv) =>
    if c.declared && (c.window.isSome || c.left == 0) then [Instr.pairWindowClose g k] else []) 0 x.convs) 0 s.groups).flatten.flatten

/-- What a tree node waits for. -/
def TreeNode.nextEvent (x : TreeNode) : List Instr :=
  match x.place with
  | .toCore _ => [.rickNodeArrival x.id]
  | .toPort _ => [.rickNodeArrival x.id]
  | .toSlice _ => [.rickNodeArrival x.id]
  | .early _ => [.rickNodeArrival x.id]
  | .waiting _ => [.rickNodeArrival x.id, .nodeWaitTimeout x.id]
  | .coreRick _ => [.coreRickTimeout x.id]
  | .portRick _ => [.portRickTimeout x.id]
  | _ => []

/-- What a push waits for. -/
def Push.nextEvent (p : Push) : List Instr :=
  match p.body with
  | .fill _ _ _ => [.sloadFillLands p.id]
  | .bad _ _ => [.sloadFillLands p.id]
  | .unsub => [.unsubAckLands p.id]
  | .ack => [.unsubAckLands p.id]
  | _ => [.pushLands p.id]

/-- What trees and standing loads wait for. -/
def State.lineEvents (s : State) : List Instr :=
  (s.fly.nodes.map TreeNode.nextEvent).flatten ++
  (allPos (fun (e : Elem) => !e.stamped) s.fly.elems).map .treeStampWrite ++
  (s.fly.pushes.map Push.nextEvent).flatten ++ s.fly.dirty.map (fun d => .pushSend d.line) ++
  (s.fly.reqs.filter fun r => r.answer.isNone).map (fun r => .sloadAnswer r.id) ++
  (s.fly.subs.filter fun x => x.dev.isSome && s.tokenExpired x.token).map fun x => .subscriptionGrantExpiry x.id

/-- What the queues of a context wait for. -/
def Context.queueEvents (c : Context) : List Instr :=
  (mapFrom (fun q (x : Queue) =>
    if x.enabled then
      (if x.watched.isSome then [Instr.queueTailNotify c.num q] else [.queueTailPoll c.num q]) ++ [.launchRecordCopy c.num q]
    else []) 0 c.queues).flatten

/-- What a launch waits for. -/
def State.launchEvents (s : State) (l : Nat) : List Instr :=
  let x := s.launch l
  if x.finished then (if x.record.ranges.any Range.dead then [.deadRangeDiscard l] else [])
  else if x.record.kind = 1 then [.weightStoreLoad l]
  else
    (if s.waitsForRoom l then
      .placementStarvation l :: ((List.range 24).map fun cl => .priorityPreempt l cl) ++
      ((s.teams.filter fun t => t.life == .placed).map fun t => .timeSliceExpiry (s.launch t.launch).ctx t.cluster)
    else [.teamPlace l]) ++ [.rangePrefetch l, .launchComplete l]

/-- What the dispatcher and system software's commands wait for. -/
def State.dispatchEvents (s : State) : List Instr :=
  (s.ctxs.map Context.queueEvents).flatten ++ ((List.range s.launches.length).map s.launchEvents).flatten ++
  (allPos (fun (t : Team) => t.life == .saving) s.teams).map .parkTimeout ++
  (if s.cqServed then [.controlQueueNotify] else []) ++
  ((s.ctxs.filter fun c => (c.debug).isSome).map fun c => .traceWrittenFlush c.num)

/-- What the module and the fabric wait for. -/
def State.moduleEvents (s : State) : List Instr :=
  (if s.health.repair.isSome then [.repairPoint, .repairPreempt] else []) ++
  (if s.bar0.rcvBusy then [.firmwareVerifyDone] else []) ++
  (if s.bar0.podnum.isSome && !s.bar0.fabricUp then [.fabricLinkUp] else []) ++
  (if s.bar0.fabricUp then [.rotorDwell] else []) ++
  (s.fabric.out.map fun o => [Instr.remoteRetransmit o.id, .remoteGiveUp o.id]).flatten ++
  (if s.fabric.staged = [] then [] else [.relayDiscard 0]) ++ s.fabric.blocked.map (fun b => .ingressBlockEnd b.1) ++
  (allPos (fun (d : Die) => d.wantHot.isSome) s.dies).map .wsFrameKindChange

/-- All the work under way, piece by piece. -/
def State.workEvents (s : State) : List Instr :=
  (s.fly.ops.map Op.nextEvent).flatten ++ (s.fly.jobs.map s.jobEvents).flatten ++ s.matrixEvents ++ s.lineEvents ++
  s.dispatchEvents ++ s.moduleEvents

/-- A clk ends: time passes, no datapath has issued in the new one, blocked units look at their words again, and every
piece of work under way is to move once. -/
def State.nextClk (s : State) : State :=
  let s1 := (({ s with taken := [], formed := [] } : State).tick 1).startWaits
  let s2 := (List.range s1.units.length).foldl State.lookAgain s1
  { s2 with cur := s.cur, work := s2.workEvents }

/-! The plan of a step. -/

/-- Words that a datapath can still try in this clk. -/
def State.issuePlan (s : State) : Option Plan := (s.nextPath.bind s.choose).map s.wordPlan

/-- Where the agenda is empty and nothing is due: the datapaths issue, then the work under way moves, then the clk ends. -/
def State.ownPlan (s : State) : Plan :=
  match s.issuePlan with
  | some p => p
  | none =>
    match s.work with
    | i :: r => .run { s with work := r } i
    | [] => .rest s.nextClk

/-- An agenda item: its clk pass, in each of which the datapaths issue and loads that hit an L1 land; then an event comes, or a datapath issues that has
not in this clk. `r` is the agenda behind it. -/
def State.itemPlan (s : State) (x : Item) (r : List Item) : Plan :=
  if x.dt ≠ 0 then
    match s.issuePlan with
    | some p => p
    | none =>
      match s.work with
      | i :: w => .run { s with work := w } i
      | [] =>
        let s1 := s.nextClk
        .rest { s1 with agenda := { x with dt := x.dt - 1 } :: r, work := s1.hitEvents }
  else
    let s1 := { s with agenda := r }
    match x.todo with
    | .event i => if (encode i).isSome then .wrong else .run s1.unblocked i
    | .spoil y => .rest (s1.spoil y)
    | .turn path =>
      if s1.taken.contains path then .rest s1
      else
        match s1.choose path with
        | some u =>
          match s1.wordPlan u with
          | .run t i => .run { t with agenda := if isPrefix i then x :: r else t.agenda } i
          | p => p
        | none => .rest s1

/-- What the next step does: an event that is due, else what the agenda says, else what the machine does by itself. Each
step has free values of its own. -/
def State.plan (s : State) : Plan :=
  let s1 := s.bump
  match s1.due with
  | some i => .run s1 i
  | none =>
    match s1.agenda with
    | [] => s1.ownPlan
    | x :: r => s1.itemPlan x r

/-! A machine about to fetch one instruction (log 5). A program comes from outside: the host writes a context, its page
tables, code and a launch record, and the dispatcher places a team. These definitions stand for that: context 0 maps the
1 GiB page at virtual address 2^30 to the same physical address, and one thread of one group of one team stands at the
header of a clause there. HANDLER is a clause of one NOP behind it. -/

/-- A clause header of a class, with E = 1 and no wait (R63). -/
def headerOf (c : Cls) (n : Nat) : Nat := n * 2 ^ 28 + c.code * 2 ^ 25 + 2 ^ 24

/-- How many words a clause needs behind a first word: its literal words, and behind a prefix a zero word with its own. -/
def fetchSize (c : Cls) (w : Nat) : Nat :=
  if bits w 25 7 = 0x7F then 2 + litCount c 0 else 1 + litCount c (w % 2 ^ 32)

/-- The bytes of the clause that holds an instruction whose bits are `w`, the words above them zero (R63, R64). -/
def fetchCode (w : Nat) : List Byte :=
  let c := ((decodeClassed w).map Prod.fst).getD .alu
  let n := fetchSize c w
  valBytes 4 (headerOf c n) ++ (List.range n).flatMap fun k => valBytes 4 (w / 2 ^ (32 * k))

/-- The tables, the code and the handler in memory. -/
def fetchMem (m : List Host.Cell) (w : Nat) : List Host.Cell :=
  let m1 := writeCells m 0x20000000 (valBytes 8 0x20001001)
  let m2 := writeCells m1 0x20001000 (valBytes 8 0x20002001)
  let m3 := writeCells m2 0x20002008 (valBytes 8 0x4000003D)
  let m4 := writeCells m3 0x40000000 (fetchCode w)
  writeCells m4 0x40000100 (valBytes 4 (headerOf .ctl 1) ++ valBytes 4 0xD4000000)

/-- A machine whose next step fetches and performs the instruction: one unit on datapath 0, whose turn comes next. -/
def State.fetchState (s : State) (w : Nat) : State :=
  let mem := fetchMem s.sto.mem w
  let record : LaunchRec := { entry := 0x40000000, nc := 1, regc := 96, scratch := 65536 }
  let l := s.launches.length
  let m := s.teams.length
  let g := s.groups.length
  let t := s.threads.length
  { s with
    ctxs := { num := 0, root := 0x20000000, handler := 0x40000100 } :: s.ctxs.filter (fun c => c.num ≠ 0),
    launches := s.launches ++ [{ ctx := 0, queue := 0, index := 0, record := record, teams := [m], began := s.sto.writes, begun := true }],
    teams := s.teams ++ [{ launch := l, idx := 0, life := .placed, cores := [0], size := 65536 }],
    groups := s.groups ++ [newGroup record m 0 96],
    threads := s.threads ++ [{ group := g, idx := 0, core := 0, v := List.replicate 96 (.full 0) }],
    units := [{ core := 0, dp := 0, group := g, lanes := [(0, t)], hdr := 0x40000000 }],
    sto := { s.sto with mem := mem, badMem := [], lost := [], dead := [], tlb := [] },
    agenda := [⟨0, .turn 0⟩], work := [], taken := [] }

/-- After an instruction or event: a word that is blocked has not issued, so its datapath still may (R387). -/
def State.settled (s : State) : State :=
  if s.unit.blocked then { s with taken := s.taken.filter fun p => p != s.unit.path } else s

end Sys2Proof.Machine
end

