-- ==== Sys2Proof/Machine/Step.lean ====
section
/-!
DEFINITION. One step of the machine: what the plan names is performed, and blocked units look again.
-/

namespace Sys2Proof.Machine

/-- What a step makes of an instruction's or event's outcome. -/
def settle (o : Host.Outcome State Fault Refusal) : Host.Outcome State Fault Refusal :=
  match o with
  | .next t => .next t.settled
  | .fault r => .fault r
  | .refused r => .refused r

/-- One step (R387, log 1). -/
def step (s : State) : Host.Outcome State Fault Refusal :=
  match s.plan with
  | .run t i => settle (exec i t)
  | .rest t => .next t
  | .wrong => .fault .notAnEvent

/-- `s` with an instruction placed where the next step fetches it, and everything that this takes (log 5). -/
def State.withFetchWord (s : State) (_nbits w : Nat) : State := s.fetchState w

end Sys2Proof.Machine
end

