-- ==== Sys2Proof/Safety.lean ====
section
/-!
DEFINITION. The words that claims use: when an instruction word issues without a fault, how its unit then goes on, what
stays unchanged, and the invariants of the machine.
-/

namespace Sys2Proof.Safety

open Sys2Proof.Machine

/-! Issue without a fault. -/

/-- The registers that the operands of a word name exist in every thread's allocation (R71, R77); those that the word reads
are full in every participant, and none that it writes still waits for a fill (R104, R182). An operand of which only the
lowest-lane participant's counts is asked of that one (R267, R302). -/
def OperandsReady (s : State) (g : Nat) (uses : List Use) : Prop :=
  (∀ u ∈ uses, u.bad s.unit.rep (s.grp s.unit.group).budget = false) ∧
  ∀ p ∈ s.parts g, ∀ u ∈ uses, (u.low = true → (s.parts g).head? = some p) → ∀ r ∈ s.regsOf p.2 (u.now s.unit.rep) u.n,
    (u.rd = true → r.isFull = true) ∧ (u.wr = true → r.isEmpty = false)

/-- The unit at issue is at a word: it has threads, its operands are ready, and no participant's access waits for an
acquire of its own (R240). -/
structure Issues (s : State) (g : Nat) (uses : List Use) : Prop where
  lanes : s.unit.lanes ≠ []
  operands : OperandsReady s g uses
  free : s.accesses = true → ∀ p ∈ s.parts g, s.acquiring p.2 = false

/-- The context of the unit at issue. -/
def ctxAt (s : State) : Nat := (s.launch (s.team (s.grp s.unit.group).team).launch).ctx

/-- The state that a word leaves whose effect led from `s` to `s1`: the context is charged (R450), the unit's waiting
times start anew (R186), and the unit goes on as `fin` says. -/
def goesOn (s s1 : State) (g cost : Nat) (fin : State → State) : State :=
  fin (if s.parts g = [] then s1 else s1.charge (ctxAt s) s.unit.core (s.costNow cost)).issued

/-- A word that gives each participant one value for its destination, and goes on behind itself (R72, R81). The operand
fields are those of the repeat under way (R77). -/
def gives (s : State) (g cost n : Nat) (d : Opnd) (f : Nat × Nat → List Word) : Out :=
  .next (goesOn s (s.putDst (s.parts g) (s.stepped 4 n d) f) g cost State.advance)

/-- A word that also sets sticky bits of sr.mode (R42). -/
def givesSticky (s : State) (g cost n : Nat) (d : Opnd) (f : Nat × Nat → List Word × Word) : Out :=
  .next (goesOn s ((s.putDst (s.parts g) (s.stepped 4 n d) fun p => (f p).1).each (s.parts g) fun p x =>
    { x with mode := x.mode ||| (f p).2 }) g cost State.advance)

/-- The same as `gives` for a word before which REP may not stand (R75). -/
def writes (s : State) (g cost : Nat) (d : Opnd) (f : Nat × Nat → List Word) : Out :=
  .next (goesOn s (s.putDst (s.parts g) d f) g cost State.advance)

/-- A word that gives each participant one predicate (R73). -/
def decides (s : State) (g cost q : Nat) (f : Nat × Nat → Bool) : Out :=
  .next (goesOn s (s.putPred (s.parts g) q f) g cost State.advance)

/-- A word that changes the machine in some other way, and goes on behind itself. -/
def does (s : State) (g cost : Nat) (f : State → State) : Out := .next (goesOn s (f s) g cost State.advance)

/-- The 32-bit value of source a or b for a participant, in the repeat under way: STEP bit 2 is a's, 1 is b's, 4 is d's. -/
def val32 (s : State) (p : Nat × Nat) (o : Opnd) (step : Nat) : Word := s.src p (s.stepped step 1 o)

/-- The 64-bit value of such a source. -/
def val64 (s : State) (p : Nat × Nat) (o : Opnd) (step : Nat) : Dword := s.src64 p (s.stepped step 2 o)

/-- Like `does`, for a word that does not simply go on at the next one: `fin` says how the unit goes on. -/
def doesThen (s : State) (g cost : Nat) (f fin : State → State) : Out := .next (goesOn s (f s) g cost fin)

/-- Like `doesThen`, for a word that ends threads: its charge comes first (R459). -/
def ends (s : State) (g cost : Nat) (f fin : State → State) : Out :=
  .next (fin (f (if s.parts g = [] then s else s.charge (ctxAt s) s.unit.core (s.costNow cost))).issued)

/-- The unit at issue finds its word blocked (R169), `held` of its threads for a reason that R186 lists; nothing else
changes. -/
def waits (s : State) (held : List Nat) : Out := .next (s.block held)

/-- A thread stands in a live unit that is about to fetch the clause at a header (R79, R152). -/
def StandsAt (t : State) (p : Nat × Nat) (hdr : Dword) : Prop :=
  ∃ u ∈ t.units, u.live = true ∧ p ∈ u.lanes ∧ u.hdr = hdr ∧ u.idx = 0 ∧ u.words = []

/-- A thread stands in a live unit, at a word of the clause that the unit has in force. -/
def StandsIn (t : State) (p : Nat × Nat) (hdr : Dword) (idx : Nat) : Prop :=
  ∃ u ∈ t.units, u.live = true ∧ p ∈ u.lanes ∧ u.hdr = hdr ∧ u.idx = idx ∧ u.words ≠ []

/-- The unit at issue is live, it and its threads exist, they are of its group, and no thread stands in it twice or in
another unit (R169). -/
structure UnitOk (s : State) : Prop where
  live : s.unit.live = true
  at_ : s.cur < s.units.length
  ascending : (s.unit.lanes.map Prod.fst).Pairwise (· < ·)
  once : (s.unit.lanes.map Prod.snd).Nodup
  threads : ∀ p ∈ s.unit.lanes, p.2 < s.threads.length
  group : ∀ p ∈ s.unit.lanes, (s.thr p.2).group = s.unit.group
  alone : ∀ k < s.units.length, k ≠ s.cur → ∀ p ∈ s.unit.lanes, ∀ q ∈ (s.unitAt k).lanes, q.2 ≠ p.2

/-- The launch of a thread. -/
def launchAt (s : State) (p : Nat × Nat) : Nat := (s.team (s.teamOf p.2)).launch

/-! What stays. -/

/-- Every byte of device memory, scratchpads and weight stores reads as before. -/
def SameMemory (s t : State) : Prop :=
  ∀ a, t.memByte a = s.memByte a ∧ cellGet t.sto.spad a = cellGet s.sto.spad a ∧ cellGet t.sto.ws a = cellGet s.sto.ws a

/-- A thread's registers but its v registers: predicates, stacks, sr.mode and the other special registers, exception
registers, counters and held errors. -/
def SameControl (x y : Thread) : Prop :=
  y.preds = x.preds ∧ y.calls = x.calls ∧ y.regions = x.regions ∧ y.rdepth = x.rdepth ∧ y.mode = x.mode ∧
  y.bsync = x.bsync ∧ y.hmode = x.hmode ∧ y.resume = x.resume ∧ y.hs = x.hs ∧ y.frec = x.frec ∧ y.st = x.st ∧ y.mx = x.mx ∧
  y.gx = x.gx ∧ y.ct = x.ct ∧ y.held = x.held ∧ y.life = x.life

/-- The groups' barriers and convergence registers, the teams (region tables, reservations, accumulators), the launches, the
work in flight and the control registers are as before. -/
def SameMachine (s t : State) : Prop :=
  t.groups.map (fun g => (g.bars, g.convs)) = s.groups.map (fun g => (g.bars, g.convs)) ∧ t.teams = s.teams ∧
  t.launches = s.launches ∧ t.fly = s.fly ∧ t.bar0 = s.bar0 ∧ t.fabric = s.fabric ∧ t.fw = s.fw ∧ t.health = s.health

/-- No trace is on for the context of the unit at issue: the trace writer stores nothing (R440, R444). -/
def Untraced (s : State) : Prop := (s.ctx (ctxAt s)).debug = none

/-- What a word that only computes may change: its destination's registers, predicates, and the sticky bits of sr.mode. -/
structure Result where
  d : Opnd := .zero
  n : Nat := 1
  preds : BitVec 16 := 0
  sticky : Bool := false
  deriving DecidableEq, Repr

/-- The mask of one predicate as a destination; p0 is never written (R73). -/
def predMask (q : Nat) : BitVec 16 := BitVec.ofNat 16 (2 ^ q) &&& 0xFFFE

/-- The words that only compute, with what they may change (files 05 to 07, R196, R410). -/
def resultOf (i : Instr) : Option Result :=
  match i with
  | .mov d _ _ | .movi d _ | .sel d _ _ _ | .add d _ _ _ | .sub d _ _ _ | .mul d _ _ _ | .mulhI32 d _ _ _
  | .mulhN32 d _ _ _ | .mad d _ _ _ | .minI32 d _ _ _ | .minN32 d _ _ _ | .maxI32 d _ _ _ | .maxN32 d _ _ _ | .abs d _ _
  | .neg d _ _ | .and d _ _ _ | .or d _ _ _ | .xor d _ _ _ | .andn d _ _ _ | .not d _ _ | .shl d _ _ _ | .shr d _ _ _
  | .sar d _ _ _ | .rol d _ _ _ | .popc d _ _ | .clz d _ _ | .ctz d _ _ | .brev d _ _ | .bfxI32 d _ _ _ | .bfxN32 d _ _ _
  | .bfi d _ _ _ | .perm d _ _ _ | .addi d _ _ | .andi d _ _ | .ori d _ _ | .xori d _ _ | .shli d _ _ | .shri d _ _
  | .sari d _ _ | .p2v d _ | .shfl d _ _ _ => some { d := d }
  | .madwI32 d _ _ _ | .madwN32 d _ _ _ | .lea d _ _ _ _ | .add64 d _ _ _ | .sub64 d _ _ _ | .shl64 d _ _ _
  | .ballot d _ _ _ | .lmatch d _ _ => some { d := d, n := 2 }
  | .icmp q _ _ _ _ | .pand q _ _ _ _ _ | .por q _ _ _ _ _ | .pxor q _ _ _ _ _ | .pnot q _ _ | .fcmp q _ _ _ _
  | .vote q _ _ _ _ => some { preds := predMask q }
  | .v2p _ _ _ => some { preds := 0xFFFE }
  | .lred d _ _ o => some { d := d, n := lredRegs o }
  | .fadd d _ _ _ | .fsub d _ _ _ | .fmul d _ _ _ | .ffma d _ _ _ | .ffms d _ _ _ | .fmin d _ _ _ | .fmax d _ _ _
  | .fclass d _ _ _ | .hadd2F16 d _ _ _ | .hadd2Bf16 d _ _ _ | .hmul2F16 d _ _ _ | .hmul2Bf16 d _ _ _
  | .hfma2F16 d _ _ _ | .hfma2Bf16 d _ _ _ | .unpk d _ _ _ | .dq d _ _ _ | .amax d _ _ _ | .scacc d _ _ _ | .frcp d _ _
  | .frsq d _ _ | .fsqrt d _ _ | .fexp2 d _ _ | .flog2 d _ _ | .fsin d _ _ | .fcos d _ _ | .ftanh d _ _
  | .osmn d _ _ _ => some { d := d }
  | .dadd d _ _ _ | .dmul d _ _ _ | .dfma d _ _ _ | .osmx d _ _ _ => some { d := d, n := 2 }
  | .split6 d _ _ | .join6 d _ _ => some { d := d, n := 3 }
  | .cvt d _ df _ _ _ => some { d := d, n := Fmt.regs df, sticky := true }
  | .cvtiF2i d _ _ i _ => some { d := d, n := if IntTy.width i = 64 then 2 else 1, sticky := true }
  | .cvtiI2f d _ f _ _ => some { d := d, n := Fmt.regs (FFmt.fmt f) }
  | .pack d _ _ _ _ _ | .qzpRec d _ _ _ | .qzpQ d _ _ _ | .scalex d _ _ _ => some { d := d, sticky := true }
  | .elect d q _ => some { d := d, preds := predMask q }
  | .srd d n _ => some { d := d, n := if n = 0x0E ∨ n = 0x14 ∨ n = 0x15 ∨ n = 0x30 then 2 else 1 }
  | _ => none

/-- Nothing but what `r` names has changed: every byte of memory, every other v and s register, the other predicates, sr.mode
but for its sticky bits, the other special and exception registers, barriers, teams and the work in flight are as before; a
thread that takes no part keeps its registers too. -/
def OnlyResult (s t : State) (r : Result) : Prop :=
  let hit := fun (reg : Nat → Opnd) (j : Nat) =>
    ∃ m, (r.d = reg m ∨ s.stepped 4 r.n r.d = reg m) ∧ m ≤ j ∧ j < m + r.n
  SameMemory s t ∧ SameMachine s t ∧ t.threads.length = s.threads.length ∧
  ∀ k,
    (∀ j, ¬ hit Opnd.v j → (t.thr k).reg j = (s.thr k).reg j) ∧
    (∀ j, ¬ hit Opnd.s j → (t.grp k).reg j = (s.grp k).reg j) ∧
    (∀ j, r.preds.getLsbD j = false → (t.thr k).preds.getLsbD j = (s.thr k).preds.getLsbD j) ∧
    (t.thr k).mode &&& ~~~0x300 = (s.thr k).mode &&& ~~~0x300 ∧ (r.sticky = false → (t.thr k).mode = (s.thr k).mode) ∧
    SameControl (s.thr k) { t.thr k with preds := (s.thr k).preds, mode := (s.thr k).mode } ∧
    (k ∉ s.unit.lanes.map Prod.snd → (t.thr k).v = (s.thr k).v ∧ (t.thr k).preds = (s.thr k).preds ∧
      (t.thr k).mode = (s.thr k).mode)

/-! Invariants. -/

/-- The clock and the power limit stay in the range that R486 and R487 give. -/
def PowerInv (s : State) : Prop := 8 ≤ s.fw.clock ∧ s.fw.clock ≤ 16 ∧ 1600 ≤ s.fw.limit ∧ s.fw.limit ≤ 3200

/-- The three memories are in canonical form (log 3). -/
def MemoryInv (s : State) : Prop := Memory.wf s.sto = true

end Sys2Proof.Safety
end

