-- ==== Sys2Proof/Certificates/Slice0/Obligations.lean ====
section
/-!
DEFINITION. The statements for the provers, by chapters of the spec: words, events, and the machine as a whole.
-/

section

open Sys2Proof Sys2Proof.Machine Sys2Proof.Safety

/-! Words of the alu class (file 05). -/

/-- The two-source words: what each participant's destination gets, for every operand form and guard (R109, R110, R113). -/
def Obligations.IntegerWordsGiveTheirResults : Prop :=
  ∀ (s : State) (d a b : Opnd) (g : Nat), Issues s g [dstUse d 1 false, srcUse a 1 2, srcUse b 1 1] →
    let is := fun (i : Instr) (f : Word → Word → Word) =>
      exec i s = gives s g 1 1 d fun p => [f (val32 s p a 2) (val32 s p b 1)]
    is (.add d a b g) (fun x y => x + y) ∧
    is (.sub d a b g) (fun x y => x - y) ∧
    is (.mul d a b g) (fun x y => x * y) ∧
    is (.mulhI32 d a b g) (fun x y => BitVec.ofInt 32 (x.toInt * y.toInt / 2 ^ 32)) ∧
    is (.mulhN32 d a b g) (fun x y => BitVec.ofNat 32 (x.toNat * y.toNat / 2 ^ 32)) ∧
    is (.minI32 d a b g) (fun x y => BitVec.ofInt 32 (min x.toInt y.toInt)) ∧
    is (.minN32 d a b g) (fun x y => BitVec.ofNat 32 (min x.toNat y.toNat)) ∧
    is (.maxI32 d a b g) (fun x y => BitVec.ofInt 32 (max x.toInt y.toInt)) ∧
    is (.maxN32 d a b g) (fun x y => BitVec.ofNat 32 (max x.toNat y.toNat)) ∧
    is (.and d a b g) (fun x y => x &&& y) ∧
    is (.or d a b g) (fun x y => x ||| y) ∧
    is (.xor d a b g) (fun x y => x ^^^ y) ∧
    is (.andn d a b g) (fun x y => x &&& ~~~y)

/-- The shifts and the rotate take all 32 bits of b as their count, and no count is illegal (R110). -/
def Obligations.ShiftCountsAreWholeRegisters : Prop :=
  ∀ (s : State) (d a b : Opnd) (g : Nat), Issues s g [dstUse d 1 false, srcUse a 1 2, srcUse b 1 1] →
    let is := fun (i : Instr) (f : Word → Nat → Word) =>
      exec i s = gives s g 1 1 d fun p => [f (val32 s p a 2) (val32 s p b 1).toNat]
    is (.shl d a b g) (fun x c => if 32 ≤ c then 0 else BitVec.ofNat 32 (x.toNat * 2 ^ c)) ∧
    is (.shr d a b g) (fun x c => if 32 ≤ c then 0 else BitVec.ofNat 32 (x.toNat / 2 ^ c)) ∧
    is (.sar d a b g) (fun x c =>
      if 32 ≤ c then (if x.msb then 0xFFFFFFFF else 0) else BitVec.ofInt 32 (x.toInt / 2 ^ c)) ∧
    is (.rol d a b g) (fun x c => if c % 32 = 0 then x else x <<< (c % 32) ||| x >>> (32 - c % 32))

/-- MOV, MOVI, the unary words and the immediate words; and the bit counts and the bit reversal, by what they mean: POPC is the
number of 1 bits; above CLZ's count from the top, and below CTZ's from the bottom, stand zeros only, and next to them a 1;
BREV's bit k is bit 31 − k (R107, R109, R112). -/
def Obligations.UnaryImmediateAndCountWordsGiveTheirResults : Prop :=
  (∀ (s : State) (d a : Opnd) (g i : Nat),
     let is := fun (w : Instr) (h : Nat) (f : Word → Word) => exec w s = gives s h 1 1 d fun p => [f (val32 s p a 2)]
     let sx : Word := (BitVec.ofNat 11 i).signExtend 32
     let zx : Word := (BitVec.ofNat 11 i).setWidth 32
     (Issues s g [dstUse d 1 false, srcUse a 1 2] →
       is (.mov d a g) g (fun x => x) ∧
       is (.abs d a g) g (fun x => BitVec.ofNat 32 x.toInt.natAbs) ∧
       is (.neg d a g) g (fun x => -x) ∧
       is (.not d a g) g (fun x => ~~~x)) ∧
     (Issues s 0 [dstUse d 1 false] → exec (.movi d i) s = gives s 0 1 1 d fun _ => [sx]) ∧
     (Issues s 0 [dstUse d 1 false, srcUse a 1 2] →
       is (.addi d a i) 0 (fun x => x + sx) ∧
       is (.andi d a i) 0 (fun x => x &&& sx) ∧
       is (.ori d a i) 0 (fun x => x ||| zx) ∧
       is (.xori d a i) 0 (fun x => x ^^^ zx) ∧
       (i < 32 →
         is (.shli d a i) 0 (fun x => BitVec.ofNat 32 (x.toNat * 2 ^ i)) ∧
         is (.shri d a i) 0 (fun x => BitVec.ofNat 32 (x.toNat / 2 ^ i)) ∧
         is (.sari d a i) 0 (fun x => BitVec.ofInt 32 (x.toInt / 2 ^ i))))) ∧
  (∀ (s : State) (d a : Opnd) (g : Nat), Issues s g [dstUse d 1 false, srcUse a 1 2] →
     let is := fun (w : Instr) (f : Word → Word → Prop) =>
       ∃ r : Word → Word, (∀ x, f x (r x)) ∧ exec w s = gives s g 1 1 d fun p => [r (val32 s p a 2)]
     is (.popc d a g) (fun x r => r.toNat = ((List.range 32).map fun k => (x.getLsbD k).toNat).sum) ∧
     is (.clz d a g) (fun x r => r.toNat ≤ 32 ∧ (∀ k, 32 - r.toNat ≤ k → x.getLsbD k = false) ∧
       (r.toNat < 32 → x.getLsbD (31 - r.toNat) = true)) ∧
     is (.ctz d a g) (fun x r => r.toNat ≤ 32 ∧ (∀ k, k < r.toNat → x.getLsbD k = false) ∧
       (r.toNat < 32 → x.getLsbD r.toNat = true)) ∧
     is (.brev d a g) (fun x r => ∀ k < 32, r.getLsbD k = x.getLsbD (31 - k)))

/-- The words that read their destination, the bit fields, PERM and SEL (R108, R111, R113, R114). -/
def Obligations.FieldAndAccumulateWordsGiveTheirResults : Prop :=
  ∀ (s : State) (d a b : Opnd) (g q : Nat),
    (Issues s g [dstUse d 1 true, srcUse a 1 2, srcUse b 1 1] →
      let is := fun (i : Instr) (f : Word → Word → Word → Word) =>
        exec i s = gives s g 1 1 d fun p => [f (val32 s p d 4) (val32 s p a 2) (val32 s p b 1)]
      is (.mad d a b g) (fun z x y => z + x * y) ∧
      is (.bfi d a b g) (fun z x y =>
        let mask : Word := BitVec.ofNat 32 ((2 ^ min (bits y.toNat 8 8) 32 - 1) * 2 ^ bits y.toNat 0 8)
        (z &&& ~~~mask) ||| (BitVec.ofNat 32 (x.toNat * 2 ^ bits y.toNat 0 8) &&& mask)) ∧
      is (.perm d a b g) (fun z x y =>
        let byte := fun (k : Nat) =>
          let n := bits z.toNat (4 * k) 4
          let v := if n % 8 < 4 then bits x.toNat (8 * (n % 4)) 8 else bits y.toNat (8 * (n % 4)) 8
          if n < 8 then v else if v < 128 then 0 else 255
        BitVec.ofNat 32 (byte 0 + 256 * (byte 1 + 256 * (byte 2 + 256 * byte 3))))) ∧
    (Issues s g [dstUse d 2 true, srcUse a 1 2, srcUse b 1 1] →
      let is := fun (i : Instr) (f : Dword → Word → Word → Dword) =>
        exec i s = gives s g 1 2 d fun p => wordsOf 2 (f (val64 s p d 4) (val32 s p a 2) (val32 s p b 1))
      is (.madwI32 d a b g) (fun z x y => z + BitVec.ofInt 64 (x.toInt * y.toInt)) ∧
      is (.madwN32 d a b g) (fun z x y => z + BitVec.ofNat 64 (x.toNat * y.toNat))) ∧
    (Issues s g [dstUse d 1 false, srcUse a 1 2, srcUse b 1 1] →
      let is := fun (i : Instr) (f : Word → Nat → Nat → Word) =>
        exec i s = gives s g 1 1 d fun p =>
          [f (val32 s p a 2) (bits (val32 s p b 1).toNat 0 8) (min (bits (val32 s p b 1).toNat 8 8) 32)]
      is (.bfxN32 d a b g) (fun x k w => BitVec.ofNat 32 (x.toNat / 2 ^ k % 2 ^ w)) ∧
      is (.bfxI32 d a b g) (fun x k w =>
        if w = 0 then 0
        else
          let f : Int := x.toInt / 2 ^ k % 2 ^ w
          BitVec.ofInt 32 (if f < 2 ^ (w - 1) then f else f - 2 ^ w))) ∧
    (Issues s 0 [dstUse d 1 false, srcUse a 1 0, srcUse b 1 0] →
      exec (.sel d a b q) s = writes s 0 1 d fun p =>
        [if (s.thr p.2).preds.getLsbD q then val32 s p a 0 else val32 s p b 0])

/-- The pair words and LEA; the compare and the predicate words (R115 to R119). -/
def Obligations.PairAndPredicateWordsGiveTheirResults : Prop :=
  (∀ (s : State) (d a b : Opnd) (g sh : Nat) (sx : Bool),
     (Issues s g [dstUse d 2 false, srcUse a 2 2, srcUse b 2 1] →
       (exec (.add64 d a b g) s = gives s g 1 2 d fun p => wordsOf 2 (val64 s p a 2 + val64 s p b 1)) ∧
       (exec (.sub64 d a b g) s = gives s g 1 2 d fun p => wordsOf 2 (val64 s p a 2 - val64 s p b 1))) ∧
     (Issues s g [dstUse d 2 false, srcUse a 2 2, srcUse b 1 1] →
       exec (.shl64 d a b g) s = gives s g 1 2 d fun p =>
         wordsOf 2 (BitVec.ofNat 64
           (if 64 ≤ (val32 s p b 1).toNat then 0 else (val64 s p a 2).toNat * 2 ^ (val32 s p b 1).toNat))) ∧
     (Issues s 0 [dstUse d 2 false, srcUse a 2 2, srcUse b 1 1] →
       exec (.lea d a b sh sx) s = gives s 0 1 2 d fun p =>
         wordsOf 2 (val64 s p a 2 + BitVec.ofInt 64
           ((if sx then (val32 s p b 1).toInt else ((val32 s p b 1).toNat : Int)) * 2 ^ sh)))) ∧
  (∀ (s : State) (d a b : Opnd) (g q x y : Nat) (nx ny : Bool),
     (Issues s g [srcUse a 1 0, srcUse b 1 0] →
       let is := fun (c : ICond) (f : Word → Word → Bool) =>
         exec (.icmp q c a b g) s = decides s g 1 q fun p => f (val32 s p a 0) (val32 s p b 0)
       is .eq (fun m n => m == n) ∧ is .ne (fun m n => m != n) ∧
       is .ltI (fun m n => decide (m.toInt < n.toInt)) ∧ is .leI (fun m n => decide (m.toInt ≤ n.toInt)) ∧
       is .ltN (fun m n => decide (m.toNat < n.toNat)) ∧ is .leN (fun m n => decide (m.toNat ≤ n.toNat)) ∧
       is .tst (fun m n => m &&& n != 0) ∧ is .tz (fun m n => m &&& n == 0)) ∧
     (Issues s g [] →
       let is := fun (i : Instr) (f : Bool → Bool → Bool) =>
         exec i s = decides s g 1 q fun p =>
           f ((s.thr p.2).preds.getLsbD x ^^ nx) ((s.thr p.2).preds.getLsbD y ^^ ny)
       is (.pand q x y nx ny g) and ∧ is (.por q x y nx ny g) or ∧ is (.pxor q x y nx ny g) xor ∧
       exec (.pnot q x g) s = decides s g 1 q fun p => !(s.thr p.2).preds.getLsbD x) ∧
     (Issues s g [dstUse d 1 false] →
       exec (.p2v d g) s = writes s g 1 d fun p => [(s.thr p.2).preds.setWidth 32]) ∧
     (Issues s g [srcUse a 1 0, srcUse b 1 0] →
       exec (.v2p a b g) s = does s g 1 fun t => t.each (s.parts g) fun p u =>
         let mask : BitVec 16 := (val32 s p b 0).setWidth 16 &&& 0xFFFE
         { u with preds := (u.preds &&& ~~~mask) ||| ((val32 s p a 0).setWidth 16 &&& mask) }))

/-! Words of the xfn class (files 01, 02 and 06). -/

/-- Floating-point arithmetic: each participant's result is the exact operation on the flushed inputs, rounded once to nearest
even, and flushed; no value traps. The packed 16-bit words act on each half on its own, and the FP64 words on pairs (R44, R45,
R121, R126, R127, R137). -/
def Obligations.FloatWordsRoundOnce : Prop :=
  (∀ (s : State) (d a b : Opnd) (g : Nat),
     let val := fun (p : Nat × Nat) (x : Word) => decodeF fp32 (flushIn (s.modeOf p.2) 2) x.toNat
     let code := fun (p : Nat × Nat) (v : Val) =>
       [BitVec.ofNat 32 (encodeF fp32 .rn false (flushOut (s.modeOf p.2) 2) v)]
     (Issues s g [dstUse d 1 false, srcUse a 1 2, srcUse b 1 1] →
       let is := fun (i : Instr) (f : Val → Val → Val) =>
         exec i s = gives s g 2 1 d fun p => code p (f (val p (val32 s p a 2)) (val p (val32 s p b 1)))
       is (.fadd d a b g) (fun x y => addV .rn x y) ∧ is (.fsub d a b g) (fun x y => addV .rn x (negV y)) ∧
       is (.fmul d a b g) (fun x y => mulV x y) ∧ is (.fmin d a b g) (fun x y => minV x y) ∧
       is (.fmax d a b g) (fun x y => maxV x y) ∧ is (.amax d a b g) (fun x y => maxV (absV x) (absV y))) ∧
     (Issues s g [dstUse d 1 true, srcUse a 1 2, srcUse b 1 1] →
       let is := fun (i : Instr) (f : Val → Val → Val → Val) =>
         exec i s = gives s g 2 1 d fun p =>
           code p (f (val p (val32 s p d 4)) (val p (val32 s p a 2)) (val p (val32 s p b 1)))
       is (.ffma d a b g) (fun z x y => fmaV .rn x y z) ∧ is (.ffms d a b g) (fun z x y => fmsV .rn x y z))) ∧
  (∀ (s : State) (d a b : Opnd) (g : Nat),
     let half := fun (F : FloatFmt) (p : Nat × Nat) (f : Val → Val → Val → Val) (x y z : Nat) =>
       encodeF F .rn false (flushOut (s.modeOf p.2) 1) (f (decodeF F (flushIn (s.modeOf p.2) 1) x)
         (decodeF F (flushIn (s.modeOf p.2) 1) y) (decodeF F (flushIn (s.modeOf p.2) 1) z))
     let both := fun (F : FloatFmt) (p : Nat × Nat) (f : Val → Val → Val → Val) (x y z : Nat) =>
       [BitVec.ofNat 32 (half F p f (x % 2 ^ 16) (y % 2 ^ 16) (z % 2 ^ 16) +
         2 ^ 16 * half F p f (x / 2 ^ 16) (y / 2 ^ 16) (z / 2 ^ 16))]
     let wide := fun (p : Nat × Nat) (f : Val → Val → Val → Val) (x y z : Dword) =>
       let v := fun (u : Dword) => decodeF fp64 (flushIn (s.modeOf p.2) 3) u.toNat
       wordsOf 2 (BitVec.ofNat 64 (encodeF fp64 .rn false (flushOut (s.modeOf p.2) 3) (f (v x) (v y) (v z))))
     (Issues s g [dstUse d 1 false, srcUse a 1 2, srcUse b 1 1] →
       let is := fun (i : Instr) (F : FloatFmt) (f : Val → Val → Val) =>
         exec i s = gives s g 2 1 d fun p =>
           both F p (fun x y _ => f x y) (val32 s p a 2).toNat (val32 s p b 1).toNat 0
       is (.hadd2F16 d a b g) fp16 (addV .rn) ∧ is (.hadd2Bf16 d a b g) bf16 (addV .rn) ∧
       is (.hmul2F16 d a b g) fp16 mulV ∧ is (.hmul2Bf16 d a b g) bf16 mulV) ∧
     (Issues s g [dstUse d 1 true, srcUse a 1 2, srcUse b 1 1] →
       let is := fun (i : Instr) (F : FloatFmt) =>
         exec i s = gives s g 2 1 d fun p =>
           both F p (fmaV .rn) (val32 s p a 2).toNat (val32 s p b 1).toNat (val32 s p d 4).toNat
       is (.hfma2F16 d a b g) fp16 ∧ is (.hfma2Bf16 d a b g) bf16) ∧
     (Issues s g [dstUse d 2 false, srcUse a 2 2, srcUse b 2 1] →
       let is := fun (i : Instr) (f : Val → Val → Val) =>
         exec i s = gives s g 2 2 d fun p => wide p (fun x y _ => f x y) (val64 s p a 2) (val64 s p b 1) 0
       is (.dadd d a b g) (addV .rn) ∧ is (.dmul d a b g) mulV) ∧
     (Issues s g [dstUse d 2 true, srcUse a 2 2, srcUse b 2 1] →
       exec (.dfma d a b g) s = gives s g 2 2 d fun p =>
         wide p (fmaV .rn) (val64 s p a 2) (val64 s p b 1) (val64 s p d 4)))

/-- FCMP and FCLASS: comparisons under IEEE rules, where a NaN is unordered, and the one-hot class of the raw code, whatever
the flush bits (R128, R129). -/
def Obligations.FloatComparesAndClasses : Prop :=
  ∀ (s : State) (d a b : Opnd) (g q : Nat),
    (Issues s g [srcUse a 1 0, srcUse b 1 0] →
      let is := fun (c : FCond) (f : Bool → Int → Bool) =>
        exec (.fcmp q c a b g) s = decides s g 2 q fun p =>
          let x := decodeF fp32 (flushIn (s.modeOf p.2) 2) (val32 s p a 0).toNat
          let y := decodeF fp32 (flushIn (s.modeOf p.2) 2) (val32 s p b 0).toNat
          f (x.isNan || y.isNan) (cmpV x y)
      is .eq32 (fun un c => !un && decide (c = 0)) ∧ is .ne32 (fun un c => un || decide (c ≠ 0)) ∧
      is .lt32 (fun un c => !un && decide (c < 0)) ∧ is .le32 (fun un c => !un && decide (c ≤ 0))) ∧
    (Issues s g [srcUse a 2 0, srcUse b 2 0] →
      let is := fun (c : FCond) (f : Bool → Int → Bool) =>
        exec (.fcmp q c a b g) s = decides s g 2 q fun p =>
          let x := decodeF fp64 (flushIn (s.modeOf p.2) 3) (val64 s p a 0).toNat
          let y := decodeF fp64 (flushIn (s.modeOf p.2) 3) (val64 s p b 0).toNat
          f (x.isNan || y.isNan) (cmpV x y)
      is .eq64 (fun un c => !un && decide (c = 0)) ∧ is .ne64 (fun un c => un || decide (c ≠ 0)) ∧
      is .lt64 (fun un c => !un && decide (c < 0)) ∧ is .le64 (fun un c => !un && decide (c ≤ 0))) ∧
    (∀ f : Fmt, f = .f32 ∨ f = .f16 ∨ f = .bf16 ∨ f = .e4m3 ∨ f = .e5m2 ∨ f = .e3m2 ∨ f = .e2m3 ∨ f = .e2m1 →
      Issues s g [dstUse d 1 false, srcUse a 1 2] →
      exec (.fclass d a f g) s = gives s g 2 1 d fun p =>
        [classF (Fmt.float f) ((val32 s p a 2).toNat % 2 ^ (Fmt.float f).width)]) ∧
    (Issues s g [dstUse d 1 false, srcUse a 2 2] →
      exec (.fclass d a .f64 g) s = gives s g 2 1 d fun p => [classF fp64 (val64 s p a 2).toNat])

/-- Conversions between formats, to and from integers, and in and out of packed registers: the value, and NV where a NaN is
lost; quantisation, scaling and the FP6 forms (R51, R130 to R136, R138, R139). -/
def Obligations.ConversionsAndQuantisationGiveTheirResults : Prop :=
  (∀ (s : State) (d a : Opnd) (r : Rnd) (sat : Bool),
     let mode := fun (p : Nat × Nat) => s.modeOf p.2
     (∀ df sf : Fmt, Issues s 0 [dstUse d (Fmt.regs df) false, srcUse a (Fmt.regs sf) 2] →
       exec (.cvt d a df sf r sat) s = givesSticky s 0 2 (Fmt.regs df) d fun p =>
         let v := readF sf (mode p) (s.val p a (Fmt.regs sf) 2).toNat
         (wordsOf (Fmt.regs df) (BitVec.ofNat 64 (encodeF (Fmt.float df) r
           (sat && !(Fmt.float df).holds (Fmt.float sf)) (flushOut (mode p) (Fmt.cls df)) v)),
           if v.isNan && (Fmt.float df).nan == 0 then stickyNV else 0)) ∧
     (∀ (f : FFmt) (i : IntTy),
       let n := if IntTy.width i = 64 then 2 else 1
       let k := Fmt.regs (FFmt.fmt f)
       let F := Fmt.float (FFmt.fmt f)
       let lo := loInt (IntTy.signed i) (IntTy.width i)
       let hi := hiInt (IntTy.signed i) (IntTy.width i)
       (Issues s 0 [dstUse d n false, srcUse a k 2] →
         exec (.cvtiF2i d a f i r) s = givesSticky s 0 2 n d fun p =>
           match decodeF F (flushIn (mode p) (Fmt.cls (FFmt.fmt f))) ((s.val p a k 2).toNat % 2 ^ F.width) with
           | .nan _ _ => (wordsOf n 0, stickyNV)
           | .inf neg => (wordsOf n (BitVec.ofInt 64 (if neg then lo else hi)), 0)
           | .fin neg m e => (wordsOf n (BitVec.ofInt 64 (max lo (min hi (roundInt r neg m e false)))), 0)) ∧
       (Issues s 0 [dstUse d k false, srcUse a n 2] →
         exec (.cvtiI2f d a f i r) s = gives s 0 2 k d fun p =>
           wordsOf k (BitVec.ofNat 64 (encodeF F r false (flushOut (mode p) (Fmt.cls (FFmt.fmt f)))
             (intVal (readInt (IntTy.signed i) (IntTy.width i) (s.val p a n 2).toNat)))))) ∧
     (∀ (f : Fmt) (k : Nat),
       (Issues s 0 [dstUse d 1 true, srcUse a 1 2] →
         exec (.pack d a f k r sat) s = givesSticky s 0 2 1 d fun p =>
           let e := packW f r sat (mode p) (val32 s p a 2).toNat
           ([BitVec.ofNat 32 (insertAt (val32 s p d 4).toNat (Fmt.slot f) k e.1)], e.2)) ∧
       (Issues s 0 [dstUse d 1 false, srcUse a 1 2] →
         exec (.unpk d a f k) s = gives s 0 2 1 d fun p =>
           let e := bits (val32 s p a 2).toNat (Fmt.slot f * k) (Fmt.slot f)
           [match Fmt.int f with
             | some sg => BitVec.ofInt 32 (readInt sg (Fmt.slot f) e)
             | none => BitVec.ofNat 32 (encodeF fp32 .rn false (flushOut (mode p) 2) (readF f (mode p) e))]))) ∧
  (∀ (s : State) (d a b : Opnd) (g : Nat) (i : QTy) (t : Fmt) (f16 : Bool),
     let mode := fun (p : Nat × Nat) => s.modeOf p.2
     (Issues s 0 [dstUse d 1 false, srcUse a 1 2, srcUse b 1 1] →
       (exec (.qzpRec d a b i) s = givesSticky s 0 2 1 d fun p =>
         let x := qzpRecW i (mode p) (val32 s p a 2).toNat (val32 s p b 1).toNat
         ([BitVec.ofNat 32 x.1], x.2)) ∧
       (exec (.qzpQ d a b i) s = givesSticky s 0 2 1 d fun p =>
         let x := qzpQW i (mode p) (val32 s p a 2).toNat (val32 s p b 1).toNat
         ([BitVec.ofInt 32 x.1], x.2)) ∧
       (exec (.dq d a b i) s = gives s 0 2 1 d fun p =>
         let n := (val32 s p b 1).toNat
         [BitVec.ofNat 32 (encodeF fp32 .rn false (flushOut (mode p) 2)
           (mulV (decodeF fp16 (flushIn (mode p) 1) (n % 2 ^ 16))
             (intVal (readInt (QTy.signed i) (QTy.width i) (val32 s p a 2).toNat -
               readInt (QTy.signed i) (QTy.width i) (bits n 16 8)))))])) ∧
     (Issues s g [dstUse d 1 false, srcUse a 1 2] →
       exec (.scalex d a t g) s = givesSticky s g 2 1 d fun p =>
         let x := scaleExp t (readF .f32 (mode p) (val32 s p a 2).toNat)
         ([BitVec.ofNat 32 x.1], if x.2 then stickySU else 0)) ∧
     (Issues s 0 [dstUse d 1 true, srcUse a 1 2, srcUse b 1 1] →
       exec (.scacc d a b f16) s = gives s 0 2 1 d fun p =>
         [BitVec.ofNat 32 (scaccW f16 (mode p) (val32 s p a 2).toNat (val32 s p b 1).toNat (val32 s p d 4).toNat)]) ∧
     (Issues s g [{ o := d, n := 3, wr := true, vOnly := true }, { o := a, n := 3, rd := true, vOnly := true }] →
       let is := fun (w : Instr) (f : Nat → Nat) =>
         exec w s = writes s g 2 d fun p =>
           (List.range 3).map fun k => BitVec.ofNat 32 (f (s.val96 p a) / 2 ^ (32 * k))
       is (.split6 d a g) split6W ∧ is (.join6 d a g) join6W))

/-- The special functions, and the softmax words (R140, R142, R143): each participant's result is the one of the value
functions, which do not trap. -/
def Obligations.SpecialFunctionsComplete : Prop :=
  ∀ (s : State) (d a b : Opnd) (g : Nat),
    let fi := fun (p : Nat × Nat) => flushIn (s.modeOf p.2) 2
    let fo := fun (p : Nat × Nat) => flushOut (s.modeOf p.2) 2
    (Issues s g [dstUse d 1 false, srcUse a 1 2] →
      let is := fun (i : Instr) (f : Bool → Bool → Nat → Nat) =>
        exec i s = gives s g 2 1 d fun p => [BitVec.ofNat 32 (f (fi p) (fo p) (val32 s p a 2).toNat)]
      is (.frcp d a g) frcp ∧ is (.frsq d a g) frsq ∧ is (.fsqrt d a g) fsqrt ∧ is (.fexp2 d a g) fexp2 ∧
      is (.flog2 d a g) flog2 ∧ is (.fsin d a g) fsin ∧ is (.fcos d a g) fcos ∧ is (.ftanh d a g) ftanh) ∧
    (Issues s g [dstUse d 2 false, srcUse a 1 2] →
      exec (.osmx d a .zero g) s = gives s g 2 2 d fun p => wordsOf 2 (smLeaf (val32 s p a 2).toNat)) ∧
    (b ≠ .zero → Issues s g [dstUse d 2 false, srcUse a 2 2, srcUse b 2 1] →
      exec (.osmx d a b g) s = gives s g 2 2 d fun p => wordsOf 2 (smCombine (val64 s p a 2) (val64 s p b 1))) ∧
    (Issues s g [dstUse d 1 false, srcUse a 1 2, srcUse b 2 1] →
      exec (.osmn d a b g) s = gives s g 2 1 d fun p =>
        [BitVec.ofNat 32 (osmn (fi p) (fo p) (val32 s p a 2).toNat (val64 s p b 1))])

/-- The cross-lane words act among the participants of one issue (R149, R150, R151). -/
def Obligations.CrossLaneWordsGiveTheirResults : Prop :=
  ∀ (s : State) (d a b : Opnd) (g q x : Nat) (nx : Bool) (m : ShflMode) (o : LredOp),
    let ps := s.parts g
    let all := s.parts 0
    let votes := ps.map fun p => (s.thr p.2).preds.getLsbD x ^^ nx
    let mask := fun (f : Nat × Nat → Bool) => wordsOf 2 (BitVec.ofNat 64 (((ps.filter f).map fun p => 2 ^ p.1).sum))
    (Issues s 0 [dstUse d 1 false, srcUse a 1 0, srcUse b 1 0] →
      exec (.shfl d a b m) s = writes s 0 1 d fun p =>
        let n := (val32 s p b 0).toNat % 64
        let from_ : Int := match m with
          | .idx => n
          | .up => (p.1 : Int) - n
          | .down => (p.1 : Int) + n
          | .xor => (p.1 ^^^ n : Nat)
        match all.find? fun r => (r.1 : Int) == from_ && decide (from_ < s.width) with
        | some r => [val32 s r a 0]
        | none => [val32 s p a 0]) ∧
    (Issues s g [] →
      (exec (.vote q x nx .all g) s = decides s g 1 q fun _ => votes.all id) ∧
      (exec (.vote q x nx .any g) s = decides s g 1 q fun _ => votes.any id) ∧
      (exec (.vote q x nx .uni g) s = decides s g 1 q fun _ => votes.all id || !votes.any id)) ∧
    (Issues s g [dstUse d 2 false] →
      exec (.ballot d x nx g) s = writes s g 1 d fun _ => mask fun p => (s.thr p.2).preds.getLsbD x ^^ nx) ∧
    (Issues s g [dstUse d 2 false, srcUse a 1 0] →
      exec (.lmatch d a g) s = writes s g 1 d fun p => mask fun r => val32 s r a 0 == val32 s p a 0) ∧
    (let n := lredRegs o
      let leaves := (all.map fun p => ((val32 s p b 0).toNat, s.val p a n 0)).filter fun l => l.1 ≠ 0xFFFFFFFF
      Issues s 0 [dstUse d n false, srcUse a n 0, srcUse b 1 0] → (leaves.map Prod.fst).Nodup →
      exec (.lred d a b o) s = writes s 0 1 d fun _ =>
        wordsOf n ((sparseTree (lredOp o) 32 leaves).getD (lredEmpty o)))

/-! Control (file 07). -/

/-- A branch or call whose targets pass R79's checks: every thread of the unit goes on at the header that its own guard
chooses, as one unit or split by program counter, and a call pushes the address behind the clause (R81, R152 to R155). -/
def Obligations.TransfersSendEachThreadToItsTarget : Prop :=
  ∀ (s : State) (a : Opnd) (g off : Nat), UnitOk s → s.unit.rep = none →
    let rel : Dword := s.unit.hdr + 4 * (BitVec.ofNat 21 off).signExtend 64
    let goes := fun (t : State) (target : Nat × Nat → Dword) => ∀ p ∈ s.unit.lanes,
      StandsAt t p (if (s.thr p.2).preds.getLsbD g then target p else s.unit.after)
    let calls := fun (t : State) (stack : Nat × Nat → List Dword) => ∀ p ∈ s.unit.lanes,
      (t.thr p.2).calls = if (s.thr p.2).preds.getLsbD g then stack p else (s.thr p.2).calls
    let good := fun (target : Nat × Nat → Dword) => ∀ p ∈ s.parts g, s.targetBad (launchAt s p) (target p) = false
    let room := ∀ p ∈ s.parts g, (s.thr p.2).calls.length < 32
    (Issues s g [] → good (fun _ => rel) →
      (∃ t, exec (.bra g off) s = .next t ∧ goes t (fun _ => rel) ∧ calls t fun p => (s.thr p.2).calls) ∧
      (room → ∃ t, exec (.call g off) s = .next t ∧ goes t (fun _ => rel) ∧
        calls t fun p => s.unit.after :: (s.thr p.2).calls)) ∧
    (Issues s g [srcUse a 2 0] → good (fun p => val64 s p a 0) →
      (∃ t, exec (.brx a g) s = .next t ∧ goes t (fun p => val64 s p a 0) ∧ calls t fun p => (s.thr p.2).calls) ∧
      (room → ∃ t, exec (.callx a g) s = .next t ∧ goes t (fun p => val64 s p a 0) ∧
        calls t fun p => s.unit.after :: (s.thr p.2).calls)) ∧
    (Issues s g [] → (∀ p ∈ s.parts g, (s.thr p.2).calls ≠ []) →
      ∃ t, exec (.ret g) s = .next t ∧ goes t (fun p => (s.thr p.2).calls.headD 0) ∧
        calls t fun p => (s.thr p.2).calls.drop 1)

/-- ENTER and LEAVE keep the region stack, of which the top 16 identifiers are held, and its depth; a BKPT where breakpoints are
off does nothing, and where they are on the unit is asked to stop; NOP does nothing. After a ctl word a thread goes on where
R153 sends it: at the next word while one follows and the thread took part (log 15), else behind the clause. The prefixes: REP
starts the repeats of the next word, at repeat 0 where no thread resumes in the middle, samples the flush bits of the threads
that begin it, and SCOPE replaces the next word's scope; both move on to that word. Where a prefix may not stand, every thread
of the unit takes the illegal-instruction trap (R43, R75 to R78, R153, R158, R159, R441). -/
def Obligations.RegionWordsAndPrefixesComplete : Prop :=
  (∀ (s : State) (c g : Nat), Issues s g [] →
     let k := (s.launchOfUnit s.cur).ctx
     let onward := fun (t : State) => t.split 0 fun p =>
       if (s.thr p.2).preds.getLsbD g && decide (s.unit.idx < s.unit.instrs) then none else some s.unit.after
     let is := fun (i : Instr) (f : Thread → Thread) =>
       exec i s = doesThen s g 1 (fun t => t.each (s.parts g) fun _ x => f x) onward
     ((s.ctx k).debug = none → (∀ p ∈ s.parts g, (s.thr p.2).rdepth < 65535) →
       is (.enter c g) fun x => { x with regions := (BitVec.ofNat 16 c :: x.regions).take 16, rdepth := x.rdepth + 1 }) ∧
     ((s.ctx k).debug = none →
       (∀ p ∈ s.parts g, 0 < (s.thr p.2).rdepth ∧ (c = 0xFFFF ∨ ((s.thr p.2).regions.headD 0xFFFF).toNat = 0xFFFF ∨
         ((s.thr p.2).regions.headD 0xFFFF).toNat = c)) →
       is (.leave c g) fun x => { x with regions := x.regions.drop 1, rdepth := x.rdepth - 1 }) ∧
     ((s.ctx k).bkpt = false → is (.bkpt c g) fun x => x) ∧
     (∀ d, (s.ctx k).debug = some d → d.scope = 0 → (s.ctx k).bkpt = true → s.parts g ≠ [] →
       exec (.bkpt c g) s = doesThen s g 1
         (fun t => t.updUnit t.cur fun u => { u with stopAsk := some 1, bkptCode := c }) onward) ∧
     (Issues s 0 [] → exec .nop s = does s 0 1 fun t => t)) ∧
  (∀ (s : State) (cnt step : Nat) (sc : Scope), Issues s 0 [] → s.cur < s.units.length →
     (s.unit.repOk step = true → (∀ p ∈ s.unit.lanes, (s.thr p.2).repcount = 0) →
       ∃ t, exec (.rep cnt step) s = .next t ∧ t.unit.rep = some ⟨cnt + 1, step, 0, s.unit.idx⟩ ∧
         t.unit.idx = s.unit.idx + 1 ∧ t.unit.words = s.unit.words ∧ t.unit.scope = s.unit.scope ∧
         ∀ p ∈ s.unit.lanes, p.2 < s.threads.length → (s.thr p.2).resuming = false →
           ((s.thr p.2).hmode = 0 → (t.thr p.2).repMode = (s.thr p.2).mode) ∧
           ((s.thr p.2).hmode ≠ 0 → (t.thr p.2).handlerMode = (s.thr p.2).mode)) ∧
     (s.unit.scopeOk = true →
       exec (.scope sc) s = .next (s.updUnit s.cur fun u => { u with
         idx := u.idx + 1, issued := u.issued + 1, scope := some sc })) ∧
     (s.unit.repOk step = false → exec (.rep cnt step) s = .next s.badPrefix) ∧
     (s.unit.scopeOk = false → exec (.scope sc) s = .next s.badPrefix))

/-- TRAP: every participant that is in a program takes an exception of CLASS 3 with the word's code. Its fault record is
written, sr.resume is the address behind the clause, sr.hmode is 1, and it goes on alone at HANDLER; the other threads of the
unit go on behind the clause, and no byte of memory changes (R157, R398, R400). -/
def Obligations.TrapWordEntersTheHandler : Prop :=
  ∀ (s : State) (c g : Nat), UnitOk s → s.unit.rep = none → Issues s g [] → Untraced s →
    (∀ p ∈ s.parts g, (s.thr p.2).hmode = 0 ∧ s.targetBad (launchAt s p) (s.ctxOf p.2).handler = false) →
    ∃ t, exec (.trap c g) s = .next t ∧ SameMemory s t ∧
      (∀ p ∈ s.parts g, (t.thr p.2).hmode = 1 ∧ (t.thr p.2).resume = s.unit.after ∧
        StandsAt t p (s.ctxOf p.2).handler ∧
        (t.thr p.2).frec = ({ s.infoOf p.2 with
          pc := s.pc, cls := 3, code := c, resume := s.unit.after, rep := (s.thr p.2).repcount } : FaultInfo).words) ∧
      ∀ p ∈ s.unit.lanes, p ∉ s.parts g → StandsAt t p s.unit.after

/-- EXIT: once a participant's four counters are 0 and it holds no error, it ends; the other threads of the unit go on behind
the clause. A thread that ends is exited, stands in no unit and no fold, and lowers the expected count of every barrier of its
group that counts the live threads (R85, R156, R177). -/
def Obligations.ExitEndsParticipantsAndFreesTheirBarriers : Prop :=
  (∀ (s : State) (g : Nat), UnitOk s → s.unit.rep = none → Issues s g [] → Untraced s →
     (∀ p ∈ s.parts g, (s.thr p.2).st = 0 ∧ (s.thr p.2).mx = 0 ∧ (s.thr p.2).gx = 0 ∧ (s.thr p.2).ct = 0 ∧
       (s.thr p.2).held = []) →
     exec (.exit g) s = ends s g 1 (fun t => (s.parts g).foldl (fun t p => t.endThread p.2) t)
       (fun t => t.split 0 fun _ => some s.unit.after)) ∧
  (∀ (s : State) (k : Nat), k < s.threads.length →
     ((s.endThread k).thr k).life = .exited ∧
     (∀ u ∈ (s.endThread k).units, ∀ p ∈ u.lanes, p.2 ≠ k) ∧
     (∀ f ∈ (s.endThread k).folds, k ∉ f.threads) ∧
     ((s.endThread k).grp (s.thr k).group).bars = (s.grp (s.thr k).group).bars.map fun b =>
       if b.explicit then b
       else if b.expect ≤ 1 then { b with expect := 0 }
       else if b.expect - 1 ≤ b.count then { b with expect := b.expect - 1, phase := b.phase + 1, count := 0 }
       else { b with expect := b.expect - 1 })

/-- ERET in a handler: each participant leaves it with sr.hmode 0 and goes on alone at sr.resume, in a unit that fetches the
clause again and stands at the word that sr.resume names (R409, R411). -/
def Obligations.EretResumesWhereTheFaultWas : Prop :=
  ∀ (s : State), UnitOk s → s.unit.rep = none → Issues s 0 [] → Untraced s →
    (∀ p ∈ s.parts 0, (s.thr p.2).hmode = 1 ∧ (s.thr p.2).preempt = 0) →
    ∃ t, exec .eret s = .next t ∧ ∀ p ∈ s.parts 0, (t.thr p.2).hmode = 0 ∧
      ∃ u ∈ t.units, u.live = true ∧ u.lanes = [p] ∧ u.words = [] ∧
        u.hdr.toNat = (s.thr p.2).resume.toNat % 2 ^ 57 ∧ u.idx = bits (s.thr p.2).resume.toNat 57 4

/-! Regrouping, barriers, signatures and waits (files 08 and 09). -/

/-- REFORM files the participants into folds in lane order; where one finds none, those before it are filed and the unit waits
with the others. YIELD moves the unit behind the others of its group;
ELECT picks the lowest lane and counts the participants. A thread that is filed is in a fold of its core with its group and the
next program counter that the filing gives, and in no unit; a fold never comes to hold more threads than the issue width (R171, R189, R190, R194 to R196). -/
def Obligations.RegroupingWordsComplete : Prop :=
  (∀ (s : State) (d : Opnd) (q g : Nat),
     (Issues s g [] → Untraced s →
       let n := if s.unit.instrs ≤ s.unit.idx then (s.unit.after, 0) else (s.unit.hdr, s.unit.idx + 1)
       ((s.fileAll n.1 n.2 (s.parts g)).2 = [] →
         exec (.reform g) s = does s g 1 fun _ => (s.fileAll n.1 n.2 (s.parts g)).1) ∧
       ((s.fileAll n.1 n.2 (s.parts g)).2 ≠ [] → exec (.reform g) s = waits (s.fileAll n.1 n.2 (s.parts g)).1 [])) ∧
     (Issues s g [] → s.parts g ≠ [] →
       exec (.yield g) s = does s g 1 fun t =>
         (t.updUnit t.cur fun u => { u with stamp := s.clk + (s.launchOfUnit s.cur).record.foldage + 8 }).each
           s.unit.lanes fun _ x => { x with since := s.clk }) ∧
     (Issues s g [dstUse d 1 false] →
       exec (.elect d q g) s = does s g 1 fun t =>
         (t.putDst (s.parts g) d fun _ => [BitVec.ofNat 32 (s.parts g).length]).putPred (s.parts g) q fun p =>
           ((s.parts g).head?.map Prod.fst) == some p.1)) ∧
  (∀ (s t : State) (k core idx : Nat) (hdr : Dword) (re : Bool), s.fileFold k core hdr idx re = some t →
     (s.folds.map fun f => (f.core, f.num)).Nodup → (∀ f ∈ s.folds, f.threads ≠ [] ∧ k ∉ f.threads) →
     (∃ f ∈ t.folds, f.core = core ∧ f.group = (s.thr k).group ∧ f.hdr = hdr ∧ f.idx = idx ∧
       (re = true → f.rewait = true) ∧ k ∈ f.threads) ∧
     (∀ u ∈ t.units, ∀ p ∈ u.lanes, p.2 ≠ k) ∧
     ((s.launchOf k).record.width ≥ 1 → (∀ f ∈ s.folds, f.threads.length ≤ (s.launchOf k).record.width) →
       ∀ f ∈ t.folds, f.threads.length ≤ (s.launchOf k).record.width))

/-- Arrivals at a barrier count one after the other in lane order, and each participant reads the phase that its own arrival
found. ARRIVE counts 1 or the count given, ARRIVE.expect sets the expected count. One arrival of a count: past the expected
count there is none, at it the phase advances and the count starts at 0 again, below it the count grows; and setting the
expected count completes a phase that has enough arrivals (R176, R177, R197). -/
def Obligations.ArrivalsReadTheirPhase : Prop :=
  (∀ (s : State) (d a : Opnd) (b g : Nat),
    let ps := s.parts g
    let lands := fun (r : List ((Nat × Nat) × Option (BitVec 16)) × Barrier) (t : State) =>
      (t.updBar s.unit.group b fun _ => r.2).putDst ps d fun p => [((phaseFor r.1 p).getD 0).setWidth 32]
    (Issues s g [dstUse d 1 false] →
      let r := arriveAll (fun _ => 1) (s.bar b) ps
      (∀ p ∈ ps, (phaseFor r.1 p).isSome) → exec (.arrive d b g) s = does s g 1 (lands r)) ∧
    (Issues s g [dstUse d 1 false, srcUse a 1 0] →
      let r := arriveAll (fun p => (val32 s p a 0).toNat) (s.bar b) ps
      (∀ p ∈ ps, (phaseFor r.1 p).isSome) → exec (.arriveCount d a b g) s = does s g 1 (lands r)) ∧
    (Issues s g [dstUse d 1 false, srcUse a 1 0] →
      (∀ p ∈ ps, 1 ≤ (val32 s p a 0).toNat ∧ (val32 s p a 0).toNat ≤ 8192) →
      exec (.arriveExpect d a b g) s = does s g 1 (lands (expectAll (fun p => (val32 s p a 0).toNat) (s.bar b) ps)))) ∧
  (∀ (b : Barrier) (c e : Nat),
    b.arrive 0 = some b ∧
    (0 < c → b.expect < b.count + c → b.arrive c = none) ∧
    (0 < c → b.count + c = b.expect → b.arrive c = some { b with phase := b.phase + 1, count := 0 }) ∧
    (0 < c → b.count + c < b.expect → b.arrive c = some { b with count := b.count + c }) ∧
    (b.setExpect e = if e ≤ b.count then { b with expect := e, explicit := true, phase := b.phase + 1, count := 0 }
      else { b with expect := e, explicit := true }) ∧
    (∀ ph : BitVec 16, b.passed ph = true ↔ ∃ k, 1 ≤ k ∧ k ≤ 32767 ∧ b.phase = ph + BitVec.ofNat 16 k))

/-- BWAIT and BSYNC: a participant goes on once the phase it waits for has completed, and else its unit waits where it
stands. BSYNC arrives once, and remembers that in sr.bsync while it waits (R198, R199). -/
def Obligations.BarrierWaitsEndWithTheirPhase : Prop :=
  ∀ (s : State) (a : Opnd) (b g : Nat),
    (Issues s g [srcUse a 1 0] →
      let past := fun p => (s.bar b).passed ((val32 s p a 0).setWidth 16)
      ((∀ p ∈ s.parts g, past p = true) → exec (.bwait a b g) s = does s g 1 fun t => t) ∧
      ((∃ p ∈ s.parts g, past p = false) →
        exec (.bwait a b g) s = waits s (((s.parts g).filter fun p => !past p).map Prod.snd))) ∧
    (Issues s g [] → s.unit.rep = none → (∀ p ∈ s.parts g, (s.thr p.2).bsync.getLsbD 31 = true) →
      let past := fun (p : Nat × Nat) => (s.bar b).passed ((s.thr p.2).bsync.setWidth 16)
      ((∀ p ∈ s.parts g, past p = true) → exec (.bsync b g) s = does s g 1 fun t =>
        t.each (s.parts g) fun _ x => { x with bsync := x.bsync &&& 0x7FFFFFFF }) ∧
      ((∃ p ∈ s.parts g, past p = false) →
        exec (.bsync b g) s = waits s (((s.parts g).filter fun p => !past p).map Prod.snd))) ∧
    (∀ p, Issues s g [] → s.unit.rep = none → UnitOk s → s.parts g = [p] → (s.thr p.2).bsync.getLsbD 31 = false →
      s.unit.group < s.groups.length → b < (s.grp s.unit.group).bars.length →
      0 < (s.bar b).expect → (s.bar b).count < (s.bar b).expect →
      ∃ t, exec (.bsync b g) s = .next t ∧
        ((s.bar b).count + 1 = (s.bar b).expect →
          (t.bar b).phase = (s.bar b).phase + 1 ∧ (t.bar b).count = 0 ∧ (t.thr p.2).bsync.getLsbD 31 = false) ∧
        ((s.bar b).count + 1 < (s.bar b).expect → (t.bar b).count = (s.bar b).count + 1 ∧ t.unit.blocked = true ∧
          t.unit.idx = s.unit.idx ∧ (t.thr p.2).bsync = bsyncWord b (s.bar b).phase))

/-- KDECL declares members lo to lo + n − 1 with n signatures to come, twice as many for a register that a guided pair shares;
SIGN makes each participant's signature in lane order, and the predicate tells the one that brought SIGNED to 0. A SIGN that is
not the last of its round: the member's signature is recorded and one fewer is awaited; one by a thread that is no member, or
has signed, is the trap of CLASS 7 CODE 4 (R178, R179, R202, R203, R309). -/
def Obligations.ConvergenceRegistersCountSignatures : Prop :=
  (∀ (s : State) (a b : Opnd) (k q g : Nat),
     let owner := s.convOwner s.unit.group k
     let ps := s.parts g
     (Issues s g [lowUse a 1, lowUse b 1] → ∀ p r, ps = p :: r →
       let lo := (val32 s p a 0).toNat
       let n := (val32 s p b 0).toNat
       1 ≤ n → n ≤ 8192 → lo + n ≤ (s.grp s.unit.group).nthreads → (s.conv owner k).declared = false →
       exec (.kdecl k a b g) s = does s g 1 fun t => t.updConv owner k fun _ =>
         { declared := true, lo := lo, n := n, left := if s.convShared s.unit.group k then 2 * n else n }) ∧
     (Issues s g [] →
       let x := State.signAll (fun s p => s.signOne 0 k 0 .zero .zero p) s ps
       x.2.1 = [] → x.2.2.2 = false → x.1.unit.lanes ≠ [] → (∀ p ∈ ps, s.signOne 0 k 0 .zero .zero p ≠ .hold) →
       exec (.sign k q g) s = does s g 1 fun _ => x.1.putPred ps q fun p => x.2.2.1 == some p)) ∧
  (∀ (s : State) (k : Nat) (p : Nat × Nat), s.convShared s.unit.group k = false →
     let g := s.convOwner s.unit.group k
     let c := s.conv g k
     let i := (s.thr p.2).idx
     (c.declared = false ∨ c.member i = false ∨ c.hasSigned 0 (i - c.lo) = true →
       s.signOne 0 k 0 .zero .zero p = .trap { cls := 7, code := 4 }) ∧
     (g < s.groups.length → k < (s.grp g).convs.length → c.declared = true → c.member i = true →
       c.hasSigned 0 (i - c.lo) = false → (c.rounds = [] ∨ c.rounds = [(0, ⟨0, 0, .zero, .zero, 0⟩)]) → c.window = none →
       1 < c.left →
       ∃ t, s.signOne 0 k 0 .zero .zero p = .made t false ∧ (t.conv g k).left = c.left - 1 ∧
         (t.conv g k).hasSigned 0 (i - c.lo) = true ∧ (t.conv g k).rounds = [(0, ⟨0, 0, .zero, .zero, 0⟩)]))

/-- WAITC and MWAIT. WAITC goes on when every participant's counter is at or below the threshold, no operation older than the
newest ones that the threshold lets be open is open, and it holds no error on the counter; else it waits. MWAIT goes on with the
stamp in d once it shows the sequence number or a status other than pending, as an acquire; on a stamp of this device's memory
or of the share that does not, it waits (R64, R181, R204, R205). -/
def Obligations.WaitsForCountersAndStamps : Prop :=
  ∀ (s : State) (d a b : Opnd) (c : Ctr) (th g : Nat) (sp : Bool),
    (Issues s g [] →
      let open_ := fun (p : Nat × Nat) => decide (th < (s.thr p.2).ctr c) || !(s.thr p.2).recentOnly c th
      ((∀ p ∈ s.parts g, open_ p = false ∧ (s.thr p.2).heldOn c = none) →
        exec (.waitc c th g) s = does s g 1 fun t =>
          if c = .mx ∧ th = 0 then t.each (s.parts g) fun _ x => { x with tiled := false } else t) ∧
      ((∀ p ∈ s.parts g, (c = .mx → s.suspTrap p.2 ((s.thr p.2).awaits c th) = none) ∧ (s.thr p.2).heldOn c = none) → (∃ p ∈ s.parts g, open_ p = true) →
        exec (.waitc c th g) s = waits s (((s.parts g).filter open_).map Prod.snd))) ∧
    (Issues s 0 [dstUse d 2 false, srcUse a (if sp then 1 else 2) 0, srcUse b 2 0] →
      ∀ stamp : Nat × Nat → Dword,
      (∀ p ∈ s.parts 0, ∃ q, s.stampPlace p a sp = .ok q ∧ s.unflushedTrap (s.stampVa p a sp).toNat q 1 = none ∧
        s.stampAt p q (s.stampVa p a sp) = .ok (some (stamp p))) →
      let shows := fun (p : Nat × Nat) =>
        decide (bits (stamp p).toNat 62 2 ≠ 0) || decide ((val64 s p b 0).toNat % 2 ^ 62 ≤ (stamp p).toNat % 2 ^ 62)
      ((∀ p ∈ s.parts 0, shows p = true) → s.parts 0 ≠ [] →
        exec (.mwait d a b sp) s = does s 0 1 fun t =>
          ((s.parts 0).foldl (fun r p => r.dropWords p.2) (t.putDst (s.parts 0) d fun p => wordsOf 2 (stamp p))).acquire
            s.unit.core (if sp then .clu else .dev)) ∧
      ((∀ p ∈ s.parts 0, ∀ e o, s.stampPlace p a sp ≠ .ok (.peer e o)) → (∃ p ∈ s.parts 0, shows p = false) →
        exec (.mwait d a b sp) s = waits s (((s.parts 0).filter fun p => !shows p).map Prod.snd)))

/-! Loads, stores, atomics and fences (files 11 and 12). -/

/-- LD, LDS, LDW and GLD into registers, where every address translates and is aligned, no byte is behind a peer window or
has to be waited for, and no atomic of the thread is under way: each participant has a load under way of the bytes at its
address, which sees the queued stores that R238 says; its v destination waits for that operation; and memory is as it was. An
acquiring LD is performed at once, with the bytes that its access sees, extended as the type says (R163, R182, R240, R257 to
R261). -/
def Obligations.LoadsStartAtTheirAddresses : Prop :=
  ∀ (s : State) (d a b : Opnd) (t : MemTy) (acq sx iw : Bool) (base sz sh : Nat) (at_ : Nat × Nat → Place)
    (bs : Nat × Nat → List Byte), UnitOk s → Untraced s →
    (∀ p ∈ s.parts 0, s.atomicDue p.2 = false ∧ ∀ e o, at_ p ≠ .peer e o) →
    let started := fun (u : State) (ps : List (Nat × Nat)) (dst : Opnd) (words : Nat) (kind : Nat × Nat → Opnd → OpKind) =>
      SameMemory s u ∧ ∀ p ∈ ps, ∃ o ∈ u.fly.ops, o.thread = p.2 ∧ o.pc = s.pc ∧
        o.kind = kind p (dstFor dst (ps.head? == some p)) ∧
        ∀ k i, dst = .v k → i < words → k + i < (s.thr p.2).v.length → (u.thr p.2).reg (k + i) = .empty o.id
    let reads := fun (words n : Nat) (sext : Bool) (ctr : Option Ctr) (sc : Scope) (p : Nat × Nat) (dst : Opnd) =>
      OpKind.load dst words (at_ p) n sext ctr sc none (s.viewOf (s.thr p.2).core p.2 (at_ p) n)
    let n := memBytes t
    (Issues s 0 [fillUse d t.words, srcUse a 2 2, srcUse b 1 1] →
      (∀ p ∈ s.parts 0, s.globAt (s.globVa p a b) n 1 1 = .ok (at_ p) ∧
        s.unflushedTrap (s.globVa p a b).toNat (at_ p) 1 = none) →
      (∃ u, exec (.ld d a b t false) s = .next u ∧
        started u (s.parts 0) (s.stepped 4 t.words d) t.words (reads t.words n (memSext t) none (s.scopeOf .core))) ∧
      ((∀ p ∈ s.parts 0, s.seen (s.thr p.2).core p.2 (at_ p) n (s.scopeOf .core) = some (bs p)) →
        (∀ o ∈ s.fly.ops, o.id < s.nextId) → s.sto.visitors = [] → acq = true →
        ∃ u, exec (.ld d a b t acq) s = .next u ∧
          started u (s.parts 0) (s.stepped 4 t.words d) t.words fun p dst =>
            .fill dst t.words (.ok (extendBytes (memSext t) (bs p))) none)) ∧
    (Issues s 0 [fillUse d t.words, srcUse a 1 2, srcUse b 1 1] →
      (∀ p ∈ s.parts 0, s.spadAt (s.spadVa p a b) n 1 = .ok (at_ p) ∧ s.waitMeets p.2 (intVa (s.spadVa p a b)) n = false ∧
        s.mustWait s.unitTeam (intVa (s.spadVa p a b)) n = false) →
      ∃ u, exec (.lds d a b t) s = .next u ∧
        started u (s.parts 0) (s.stepped 4 t.words d) t.words (reads t.words n (memSext t) none .clu)) ∧
    (Issues s 0 [fillUse d t.words, srcUse a 1 2, srcUse b 1 1] →
      (∀ p ∈ s.parts 0, s.wsAt (s.wsVa p a b) n 1 = .ok (at_ p)) →
      ∃ u, exec (.ldw d a b t) s = .next u ∧
        started u (s.parts 0) (s.stepped 4 t.words d) t.words (reads t.words n (memSext t) none .core)) ∧
    (let words := if sz = 3 then 2 else 1
      let ps := s.indexed b iw sx (s.parts 0)
      Issues s 0 (gatherUses d words base b) →
      (∀ p ∈ ps, s.gatherStatus p base none = .ready ∧
        (s.thr p.2).gx < 63 ∧ s.globAt (s.gatherVa p base b iw sx sh) (2 ^ sz) 1 1 = .ok (at_ p) ∧
        s.unflushedTrap (s.gatherVa p base b iw sx sh).toNat (at_ p) 1 = none) →
      ∃ u, exec (.gld d base sz sx b false iw sh) s = .next u ∧
        started u ps d words (reads words (2 ^ sz) false (some .gx) (s.scopeOf .core)) ∧
        ∀ p ∈ ps, (u.thr p.2).gx = (s.thr p.2).gx + 1)

/-- An LDS of bytes that a window has yet to bring waits for them, and its v destination with it (R219); GLD and GST between
global memory and the share start one counted element for each participant with an index (R260, R261). -/
def Obligations.ShareAccessesWaitOrGather : Prop :=
  ∀ (s : State) (d a b : Opnd) (t : MemTy) (sx iw : Bool) (base sz sh : Nat) (at_ : Nat × Nat → Place)
    (y : Nat × Nat → Nat) (bs : Nat × Nat → List Byte), UnitOk s →
    (∀ p ∈ s.parts 0, s.atomicDue p.2 = false ∧ ∀ e o, at_ p ≠ .peer e o) →
    (Issues s 0 [fillUse d t.words, srcUse a 1 2, srcUse b 1 1] →
      (∀ p ∈ s.parts 0, s.spadAt (s.spadVa p a b) (memBytes t) 1 = .ok (at_ p) ∧
        s.waitMeets p.2 (intVa (s.spadVa p a b)) (memBytes t) = false ∧
        s.mustWait s.unitTeam (intVa (s.spadVa p a b)) (memBytes t) = true) →
      ∃ u, exec (.lds d a b t) s = .next u ∧ ∀ p ∈ s.parts 0, ∃ o ∈ u.fly.ops, o.thread = p.2 ∧
        o.kind = .wait (dstFor (s.stepped 4 t.words d) ((s.parts 0).head? == some p)) t.words (intVa (s.spadVa p a b))
          (memBytes t) (memSext t) (s.viewOf (s.thr p.2).core p.2 (at_ p) (memBytes t))) ∧
    (let ps := s.indexed b iw sx (s.parts 0);
      Issues s 0 (gatherUses d 1 base b) → (∀ p ∈ ps, s.gatherStatus p base (some (d, 1)) = .ready) →
      ((∀ p ∈ ps, (s.thr p.2).gx < 63 ∧ s.globAt (s.gatherVa p base b iw sx sh) (2 ^ sz) 1 1 = .ok (at_ p) ∧
          s.gatherSpad p d (2 ^ sz) 1 = .ok (.spad (y p)) ∧
          s.unflushedTrap (s.gatherVa p base b iw sx sh).toNat (at_ p) 1 = none) →
        ∃ u, exec (.gld d base sz sx b true iw sh) s = .next u ∧ ∀ p ∈ ps,
          (u.thr p.2).gx = (s.thr p.2).gx + 1 ∧
          ∃ o ∈ u.fly.ops, o.thread = p.2 ∧ o.kind = .load .zero 0 (at_ p) (2 ^ sz) false (some .gx) (s.scopeOf .core)
            (some (y p)) (s.viewOf (s.thr p.2).core p.2 (at_ p) (2 ^ sz))) ∧
      ((∀ p ∈ ps, (s.thr p.2).st < 63 ∧ s.spadHeld p.2 ((s.src p d).toNat % 2 ^ 24) (2 ^ sz) = false ∧
          s.globAt (s.gatherVa p base b iw sx sh) (2 ^ sz) 2 2 = .ok (at_ p) ∧ s.gatherSpad p d (2 ^ sz) 2 = .ok (.spad (y p)) ∧
          s.seen (s.thr p.2).core p.2 (.spad (y p)) (2 ^ sz) .clu = some (bs p)) →
        ∃ u, exec (.gst d base sz sx b true iw sh) s = .next u ∧ ∀ p ∈ ps,
          ∃ o ∈ u.fly.ops, o.thread = p.2 ∧ ∃ shown counted, o.kind = .store (at_ p) (bs p) shown counted))

/-- ST, STS and GST from registers: each participant has a store under way that carries the low bytes of its value to its
address; all but stores to the core's own slice count on ctr.st; and no byte of memory changes before STORE_PERFORMED (R180,
R246, R257 to R261). -/
def Obligations.StoresAreQueued : Prop :=
  ∀ (s : State) (d a b : Opnd) (t : MemTy) (rel sx iw : Bool) (base sz sh : Nat) (at_ : Nat × Nat → Place),
    UnitOk s → Untraced s → (∀ p ∈ s.parts 0, s.atomicDue p.2 = false ∧ ∀ e o, at_ p ≠ .peer e o) →
    (∀ p ∈ s.parts 0, ownSlice (s.thr p.2).core (at_ p) = true ∨ (s.thr p.2).st < 63) →
    let queued := fun (u : State) (ps : List (Nat × Nat)) (bytes : Nat × Nat → List Byte) =>
      SameMemory s u ∧ ∀ p ∈ ps,
        (u.thr p.2).st = (s.thr p.2).st + (if ownSlice (s.thr p.2).core (at_ p) then 0 else 1) ∧
        ∃ o ∈ u.fly.ops, o.thread = p.2 ∧ o.pc = s.pc ∧ ∃ shown,
          o.kind = .store (at_ p) (bytes p) shown (!ownSlice (s.thr p.2).core (at_ p))
    let n := memBytes t
    let value := fun (p : Nat × Nat) => valBytes n (s.val p d t.words 4).toNat
    (Issues s 0 [srcUse d t.words 4, srcUse a 2 2, srcUse b 1 1] →
      (rel = true → ∀ p ∈ s.parts 0, s.releaseStatus p = .ready) →
      (∀ p ∈ s.parts 0, s.globAt (s.globVa p a b) n 2 2 = .ok (at_ p)) →
      ∃ u, exec (.st d a b t rel) s = .next u ∧ queued u (s.parts 0) value) ∧
    (Issues s 0 [srcUse d t.words 4, srcUse a 1 2, srcUse b 1 1] →
      (∀ p ∈ s.parts 0, s.spadAt (s.spadVa p a b) n 2 = .ok (at_ p) ∧ s.waitMeets p.2 (intVa (s.spadVa p a b)) n = false) →
      ∃ u, exec (.sts d a b t) s = .next u ∧ queued u (s.parts 0) value) ∧
    (let words := if sz = 3 then 2 else 1
      let ps := s.indexed b iw sx (s.parts 0)
      Issues s 0 (gatherUses d words base b) →
      (∀ p ∈ ps, s.gatherStatus p base (some (d, words)) = .ready ∧ (s.thr p.2).st < 63) →
      (∀ p ∈ ps, s.globAt (s.gatherVa p base b iw sx sh) (2 ^ sz) 2 2 = .ok (at_ p)) →
      ∃ u, exec (.gst d base sz sx b false iw sh) s = .next u ∧
        queued u ps fun p => valBytes (2 ^ sz) (s.val p d words 0).toNat)

/-- ATOM and CAS: each participant has an atomic under way with its operator, type, operand and comparand, to be performed at
its home; one that returns nothing counts on ctr.st; an acquire keeps its scope for the thread's later accesses; and no byte
of memory changes before STORE_PERFORMED (R240, R262 to R264). -/
def Obligations.AtomicsAreQueued : Prop :=
  ∀ (s : State) (d a : Opnd) (nr w64 : Bool) (op : Aop) (t : ATy) (r : MOrd) (g : Nat) (at_ : Nat × Nat → Place),
    UnitOk s → Untraced s → (∀ p ∈ s.parts g, s.atomicDue p.2 = false ∧ ∀ e o, at_ p ≠ .peer e o) →
    (ordRel r = true → ∀ p ∈ s.parts g, s.releaseStatus p = .ready) →
    let queued := fun (u : State) (aop : Nat) (ty : ATy) (x c : Nat × Nat → Dword) (ret : Bool) =>
      SameMemory s u ∧ ∀ p ∈ s.parts g, ∃ o ∈ u.fly.ops, o.thread = p.2 ∧ o.pc = s.pc ∧
        o.kind = .atomic (at_ p) aop ty (x p) (c p)
          (if ret then dstFor d ((s.parts g).head? == some p) else .zero) ret
          (if r = .acq ∨ r = .ar then some (s.scopeOf .dev) else none)
    let aimed := fun (n : Nat) => ∀ p ∈ s.parts g, s.globAt (s.src64 p a) n 3 3 = .ok (at_ p) ∧
      s.unflushedTrap (s.src64 p a).toNat (at_ p) 3 = none
    (Issues s g [srcUse d (atyWords t) 0, srcUse a 2 0] → aimed (atyBytes t) →
      (nr = true → ∀ p ∈ s.parts g, (s.thr p.2).st < 63) →
      ∃ u, exec (.atom d a nr op t r g) s = .next u ∧
        queued u (aopCode op) t (fun p => s.val p d (atyWords t) 0) (fun _ => 0) (!nr) ∧
        (nr = true → ∀ p ∈ s.parts g, (u.thr p.2).st = (s.thr p.2).st + 1)) ∧
    (let n := if w64 then 2 else 1;
      Issues s g [srcUse d (2 * n) 0, srcUse a 2 0] → aimed (4 * n) →
      ∃ u, exec (.cas d a w64 r g) s = .next u ∧
        queued u 7 (if w64 then .n64 else .n32) (fun p => s.val p (opndPlus d n) n 0) (fun p => s.val p d n 0) true)

/-- FENCE goes on once its participants' stores are performed, where it releases, and no atomic or waiting read of theirs is
under way: their plain loads are performed, a release shows its stores, an acquire drops the core's visitor lines; PREF never faults and changes no register and no byte
(R240, R241, R265, R266). -/
def Obligations.FencesAndPrefetchesComplete : Prop :=
  ∀ (s : State) (a b : Opnd) (sc : Scope) (g : Nat),
    (Issues s g [] → s.parts g ≠ [] → (∀ p ∈ s.parts g, s.atomicDue p.2 = false ∧ s.readsDue p.2 = false) →
      let read := s.settleLoads (s.parts g)
      let out := read.shadowRelease s.unitTeam (s.scopeOf sc)
      let into := fun (t : State) => t.acquire s.unit.core (s.scopeOf sc)
      ((∀ p ∈ s.parts g, (s.thr p.2).st ≤ 63 ∧ (s.thr p.2).recentOnly .st 63 = true ∧ (s.thr p.2).heldOn .st = none) →
        exec (.fence sc .acq g) s = does s g 2 fun _ => into read) ∧
      ((∀ p ∈ s.parts g, s.releaseStatus p = .ready) →
        exec (.fence sc .rel g) s = does s g 2 (fun _ => out) ∧
        exec (.fence sc .ar g) s = does s g 2 (fun _ => into out) ∧
        exec (.fence sc .full g) s = does s g 2 fun _ => into out)) ∧
    (Issues s 0 [srcUse a 2 0, srcUse b 1 0] → Untraced s →
      ∃ u, exec (.pref a b) s = .next u ∧ SameMemory s u ∧ SameMachine s u ∧
        ∀ k, SameControl (s.thr k) (u.thr k) ∧ (u.thr k).v = (s.thr k).v)

/-! Matrix words (files 13 and 14). -/

/-- MRSV takes the first free engine in its order, of the group's own core first, and the first free reservation, and gives the
reservation's number; where there is none it gives all ones and a false predicate. MSTAT.eng reads the B-fetch count and the
engine's place. MDRAIN.reg and MSTAT.acc queue one operation for each participant, whose registers wait for it; of MDRAIN.reg's
participants only those whose row exists take part (R275, R302, R305, R315, R317). -/
def Obligations.ReservationsAndMatrixReadsComplete : Prop :=
  (∀ (s : State) (d : Opnd) (q g r k : Nat),
     (Issues s g [dstUse d 1 false] → s.parts g ≠ [] →
       (∀ e n, s.freeResv = some (e, n) → exec (.mrsv d q g) s = does s g 2 fun t =>
         ((t.updResv s.unitTeam n fun _ => { held := true, eng := e }).putDst (s.parts g) d fun _ =>
           [BitVec.ofNat 32 n]).putPred (s.parts g) q fun _ => true) ∧
       (s.freeResv = none → exec (.mrsv d q g) s = does s g 2 fun t =>
         (t.putDst (s.parts g) d fun _ => [0xFFFFFFFF]).putPred (s.parts g) q fun _ => false)) ∧
     (∀ e n, s.freeResv = some (e, n) → s.engineFree e = true ∧ e ∈ s.engineOrder ∧
       (∀ m < n, ((s.team s.unitTeam).resv m).held = true) ∧ ((s.team s.unitTeam).resv n).held = false) ∧
     (Issues s g [dstUse d 2 false] → s.resvTrap s.unitTeam r true = none →
       exec (.mstatEng d r k g) s = writes s g 2 d fun _ =>
         [((s.team s.unitTeam).resv r).bfetch, BitVec.ofNat 32
           ((if s.engineFenced ((s.team s.unitTeam).resv r).eng then 1 else 0) +
             8 * (((s.team s.unitTeam).resv r).eng / 4 % 6) + 64 * (((s.team s.unitTeam).resv r).eng % 4))])) ∧
  (∀ (s : State) (d a : Opnd) (r k col rowb g : Nat), UnitOk s → (∀ q ∈ s.parts g, s.accStatus r [k] q = .ready) →
     (Issues s g [{ o := a, n := 16, vOnly := true }] → s.accTrap r [k] 2 = none → (∃ n, a = .v n) →
       ∃ t, exec (.mdrainReg r k a col rowb g) s = .next t ∧
         ∀ p ∈ s.parts g, 16 * rowb + p.1 < 64 → ∀ n, a = .v n →
           ∃ o ∈ t.fly.mops, o.thread = p.2 ∧ o.res = r ∧ o.acc = k ∧ o.kind = .drainReg p.2 n (16 * rowb + p.1) col ∧
             ∀ i < 16, n + i < (s.thr p.2).v.length → (t.thr p.2).reg (n + i) = .empty o.id) ∧
     (Issues s g [fillUse d 2] → s.resvTrap s.unitTeam r true = none →
       ∃ t, exec (.mstatAcc d r k g) s = .next t ∧
         ∀ p ∈ s.parts g, ∃ o ∈ t.fly.mops, o.thread = p.2 ∧ o.res = r ∧ o.acc = k ∧ o.kind = .stat p.2 d ∧
           ∀ n i, d = .v n → i < 2 → n + i < (s.thr p.2).v.length → (t.thr p.2).reg (n + i) = .empty o.id))

/-- The guarded matrix words act once, for the lowest-lane participant: it counts the operation on ctr.mx, the operation
stands at the end of the engine's queue, and the accumulator's state is the one that the operation will leave (R276, R279,
R302, R303, R306, R307, R313 to R316). -/
def Obligations.MatrixWordsQueueOneOperation : Prop :=
  ∀ (s : State) (a b : Opnd) (r k g : Nat) (spad glob : Bool) (f : SFmt) (p : Nat × Nat) (rest : List (Nat × Nat)),
    UnitOk s → s.parts g = p :: rest → (s.thr p.2).mx < 63 →
    s.unitTeam < s.teams.length → r < (s.team s.unitTeam).resvs.length →
    let m := s.unitTeam
    let queues := fun (i : Instr) (k : Nat) (kind : MKind) (image : AccImage) =>
      ∃ t, exec i s = .next t ∧ (t.thr p.2).mx = (s.thr p.2).mx + 1 ∧
        (∃ o ∈ t.fly.mops, o.thread = p.2 ∧ o.pc = s.pc ∧ o.team = m ∧ o.res = r ∧ o.acc = k ∧
          o.eng = ((s.team m).resv r).eng ∧ o.kind = kind ∧ o.started = false) ∧
        (k < ((s.team m).resv r).accs.length → t.accAhead r k = image)
    let clear := fun (ks : List Nat) => ∀ q ∈ s.parts g, s.accStatus r ks q = .ready
    let held := s.resvTrap m r false = none
    let x := val64 s p a 0
    (Issues s g [] → clear [] → s.resvTrap m r true = none →
      queues (.mrel r g) 0 .rel (s.accAhead r 0)) ∧
    (Issues s g [lowUse a 2, lowUse b 1] → clear [k] → held →
      (hi32 x).toNat ≤ 10 → (lo32 x).toNat % 2 ^ (hi32 x).toNat = 0 →
      (spad = true → s.shareTrap ((val32 s p b 0).toNat % 2 ^ 24) 12288 16 9 = none) →
      queues (.minit r k spad a b g) k (.init (lo32 x) (hi32 x).toNat
          (if spad then .error ((val32 s p b 0).toNat % 2 ^ 24) else .ok (val32 s p b 0)))
        { state := 1, span := (hi32 x).toNat, origin := lo32 x }) ∧
    (Issues s g [] → clear [k] → held → (s.accAhead r k).state = 1 →
      queues (.mfin r k g) k .fin { s.accAhead r k with state := 2, labels := [] }) ∧
    (Issues s g [lowUse a 1] → clear [k, k + 1] → held →
      (s.accAhead r k).state = 2 → (s.accAhead r (k + 1)).state = 2 →
      (s.accAhead r k).psplit = false → (s.accAhead r (k + 1)).psplit = false →
      queues (.mguide r k a g) k (.guide (val32 s p a 0)) (s.accAhead r k)) ∧
    (Issues s g [descUse a 2] → clear [k] → held → (s.accAhead r k).state = 2 →
      s.shareTrap ((lo32 x).toNat % 2 ^ 24) (63 * ((hi32 x).toNat % 2 ^ 16) + 192) 16 10 = none →
      (hi32 x).toNat % 2 ^ 16 % 16 = 0 → 192 ≤ (hi32 x).toNat % 2 ^ 16 →
      queues (.mdrainSpad r k a g) k (.drainSpad ((lo32 x).toNat % 2 ^ 24) ((hi32 x).toNat % 2 ^ 16)) (s.accAhead r k)) ∧
    (Issues s g [descUse a 2] → clear [k] → held → (s.accAhead r k).state = 1 →
      (∃ t, s.treeNamed p.2 (lo32 x).toNat = some t ∧ ((s.accAhead r k).labels = [] ∨
        ((hi32 x).toNat + 3072 ≤ t.elems ∧ ∀ l ∈ (s.accAhead r k).labels, labelBad t.leaves l.1 l.2 = false))) →
      queues (.mdrainTree r k a g) k (.drainTree (lo32 x).toNat (hi32 x).toNat)
        { s.accAhead r k with state := 0, labels := [] }) ∧
    (let pitch := (s.src p (opndPlus a (if glob then 2 else 1))).toNat % 2 ^ 16;
      let base : Dword := if glob then x else ((s.src p a).setWidth 24).setWidth 64
      Issues s g [descUse a (if glob then 3 else 2)] → clear [k] → held → (s.accAhead r k).state = 2 →
      pitch % 16 = 0 → 48 * SFmt.bytes f ≤ pitch →
      (if glob then base.toNat < 2 ^ 57 ∧ base.toNat % 16 = 0
        else s.shareTrap base.toNat (63 * pitch + 48 * SFmt.bytes f) 16 10 = none) →
      queues (.mstore r k f glob a g) k (.store f glob base pitch (flushOut (s.thr p.2).mode (SFmt.cls f)))
        (s.accAhead r k))

/-- The tile words, MMA, MMAS and GMMA: the participants sign one after the other in lane order, and the one that brings SIGNED
to 0 issues the tile that the register then holds, after which the register is idle. A member of a declared register whose
round agrees with the word, and whose header, operand fields and row registers are as file 14 asks, signs: SIGNED falls by one
and its signature is recorded; where it was the last, and the operation passes the checks at issue, one operation stands in
the engine's queue, counted on its ctr.mx (R179, R296 to R299, R309 to R312). -/
def Obligations.TileWordsSign : Prop :=
  (∀ (s : State) (k h : Nat) (a b : Opnd),
    let signs := fun (i : Instr) (op n : Nat) =>
      let x := State.signAll (fun s p => s.signOne op k h a b p) s (s.parts 0)
      Issues s 0 (tileUses h n a b) → x.2.1 = [] → x.2.2.2 = false → x.1.unit.lanes ≠ [] →
      (∀ p ∈ s.parts 0, s.signOne op k h a b p ≠ .hold) → exec i s = does s 0 0 fun _ => x.1
    signs (.mma k h a b) 1 2 ∧ signs (.mmas k h a b) 2 3 ∧ signs (.gmma k h a b) 3 2 ∧
    (∀ (owner key : Nat) (r : Round) (sg : Signature) (p : Nat × Nat) (t : State),
      s.sign owner k key r sg p = .made t true → owner < s.groups.length → k < (s.grp owner).convs.length →
      (s.conv owner k).left ≤ 1 ∧ (t.conv owner k).left = 0 ∧ (t.conv owner k).signed = [])) ∧
  (∀ (s : State) (k h : Nat) (a b : Opnd) (p : Nat × Nat) (q : Shape), UnitOk s → s.parts 0 = [p] →
    let g := s.unit.group
    let owner := s.convOwner g k
    let c := s.conv owner k
    let half := if s.convShared g k then (s.grp g).half else 0
    let member := (s.thr p.2).idx - c.lo
    let w := ((s.grp g).reg (2 * h)).word
    let y := mhdr w
    let ua := rowUse c a 64 y.af q.kept
    let ub := rowUse c b q.depth y.bf 48
    owner < s.groups.length → k < (s.grp owner).convs.length → s.windowOver c = false →
    c.declared = true → c.member (s.thr p.2).idx = true → c.hasSigned half member = false →
    kindOk (spaceA y.asrc) a = true → kindOk y.bsrc b = true →
    (y.asrc = 0 → 64 % c.n = 0 ∧ s.rowStatus p.2 ua = .ready) →
    (y.bsrc = 0 → q.depth % c.n = 0 ∧ s.rowStatus p.2 ub = .ready) →
    let completes := fun (i : Instr) (op n : Nat) =>
      let key := if op = 3 then half else 0
      let r : Round := ⟨op, h, a, b, shapeOf w⟩
      let sg : Signature := ⟨half, member, p.2, s.pc, if y.asrc = 0 then s.rowWordsOf p.2 ua else [],
        if y.bsrc = 0 then s.rowWordsOf p.2 ub else []⟩
      Issues s 0 (tileUses h n a b) → y.shape op = some q → (op = 3 → s.convShared g k = true) →
      (∀ x ∈ c.rounds, x.2.op = op ∧ (x.1 = key → x.2 = r)) →
      (1 < c.left → ∃ t, exec i s = .next t ∧ (t.conv owner k).left = c.left - 1 ∧ sg ∈ (t.conv owner k).signed) ∧
      (let s1 := s.updConv owner k fun c => { c with
          left := c.left - 1, signed := c.signed ++ [sg],
          rounds := if (look c.rounds key).isSome then c.rounds else c.rounds ++ [(key, r)] };
        let m := (s.grp owner).team
        ∀ (x : Issue) (z : Shape), c.left = 1 → s1.issuesOf owner k = [x] →
        let hd := mhdr x.h0
        let sa := spaceA hd.asrc
        let per := if hd.group = 0 then 0 else max 1 (z.depth / hd.group)
        let die := dieOfCore (((s.team m).resv hd.res).eng / 4)
        let wa := s1.descWords x.aGroup x.aOpnd (descLen sa)
        let wa2 := s1.descWords x.aGroup2 x.aOpnd2 (descLen sa)
        let wb := s1.descWords x.bGroup x.bOpnd (descLen hd.bsrc)
        hd.shape x.op = some z → hd.bad x.op z = false →
        (s.thr p.2).mx < 63 → (∀ e ∈ s1.issueRegs x, e.isFull = true) →
        s1.accStatus hd.res (x.accs hd z) p = .ready → s1.resvTrap m hd.res false = none →
        (sa ≠ 0 → s1.checkOpnd m die (mopnd sa wa 64 z.kept hd.af per) wa = none) →
        (sa ≠ 0 → x.joint = true → s1.checkOpnd m die (mopnd sa wa2 64 z.kept hd.af per) wa2 = none) →
        (hd.bsrc ≠ 0 → s1.checkOpnd m die (mopnd hd.bsrc wb z.depth 48 hd.bf per) wb = none) →
        (∀ e ∈ hd.targets x.op z (x.accs hd z),
          ((((s1.team m).resv hd.res).accum e.acc).ahead).refuses x.chunk.toNat e = false) →
        ∃ t, exec i s = .next t ∧ (t.conv owner k).declared = false ∧ (t.conv owner k).signed = [] ∧
          (t.thr p.2).mx = (s.thr p.2).mx + 1 ∧
          ∃ o ∈ t.fly.mops, o.thread = p.2 ∧ o.pc = s.pc ∧ o.team = m ∧ o.res = hd.res ∧ o.started = false ∧
            o.kind = .tile (if x.joint then 3 else if x.op = 2 then 2 else 1) x.h0 x.chunk x.seed (x.accs hd z) wa wb wa2
              x.rowsA x.rowsA2 x.rowsB 0)
    completes (.mma k h a b) 1 2 ∧ completes (.mmas k h a b) 2 3 ∧ completes (.gmma k h a b) 3 2)

/-! Windows (files 10 and 12). -/

/-- The window words act once, for the lowest-lane participant. WBIND unbinds the entry and binds the descriptor with every
destination absent; WUNB unbinds the entry, or in the save routine the group's destination of it; TOUCH answers whether the fill is under way or done and starts it where there is room;
WSTAT reads the group's destination; WFLUSH queues a flush that ctr.st counts, with the next sequence number (R217, R218,
R220, R225, R267 to R272). -/
def Obligations.WindowWordsComplete : Prop :=
  ∀ (s : State) (d a : Opnd) (w : WFrom) (e q g : Nat) (p : Nat × Nat) (rest : List (Nat × Nat)),
    s.parts g = p :: rest →
    let m := s.unitTeam
    let x := s.entry m e
    let dst := destOf (region x.desc) (s.grp s.unit.group).idx
    let full := s.copyFull (s.team m).cluster
    (∀ desc, Issues s g [bindUse a w] → s.atomicDue p.2 = false →
      (w = .spad → s.spadHeld p.2 ((s.src p a).toNat % 2 ^ 24) 64 = false) →
      (∀ x ∈ s.bindNeeds (s.parts g) a w, (s.peerAnswer x.1).isSome = true) → s.bindSource p a w = .ok desc →
      regionBad desc (s.team m).size s.teamGroups = false →
      ∃ u, (does s g 2 fun t =>
          ((t.bindReads p a w).unbind m e (s.byProgram p) .unbound).updEntry m e fun _ =>
            { desc := desc, seq := 0, dests := (region desc).dests.map fun _ => { state := .absent } }) = .next u ∧
        exec (.wbind e a w g) s = .next ((s.parts g).foldl (fun r q => r.dropWords q.2) u)) ∧
    (Issues s g [] →
      (x.unbound = false → exec (.wunb e g) s = does s g 2 fun t =>
        t.unbindOf m e (s.byProgram p) .unbound fun i => s.byProgram p || s.ownDest e i) ∧
      (x.unbound = true → exec (.wunb e g) s = does s g 2 fun t => t) ∧
      (x.unbound = false →
        (x.touched = true → exec (.touch e q g) s = decides s g 2 q fun _ => true) ∧
        (x.touched = false → full = true → exec (.touch e q g) s = decides s g 2 q fun _ => false) ∧
        (x.touched = false → full = false → s.fillOf m e = none → (s.thr p.2).gx < 63 →
          exec (.touch e q g) s = does s g 2 fun t =>
            ((t.updThr p.2 fun y => y.incCtr .gx s.nextId).newFill m e (some p.2) [] s.pc).putPred (s.parts g) q
              fun _ => true) ∧
        (∀ j, x.touched = false → full = false → s.fillOf m e = some j →
          exec (.touch e q g) s = does s g 2 fun t => (t.enterQueue j).putPred (s.parts g) q fun _ => true))) ∧
    (Issues s g [dstUse d 1 false] → exec (.wstat e d g) s = writes s g 2 d fun _ =>
      [BitVec.ofNat 32 (x.seq % 2 ^ 24 * 256 + dst.1 * 16 + (if dst.2 then 8 else 0) + (if full then 4 else 0) +
        match ((x.dests[dst.1]?).getD {}).state with
          | .absent => 1
          | .arriving => 2
          | .present => 3
          | _ => 0)]) ∧
    (Issues s g [] → UnitOk s → m < s.teams.length → e < (s.team m).entries.length → full = false → (s.thr p.2).st < 63 →
      dst.2 = false → (((x.dests[dst.1]?).getD {}).state = .present ∨ ((x.dests[dst.1]?).getD {}).state = .arriving) →
      ∃ t, exec (.wflush e g) s = .next t ∧ (t.thr p.2).st = (s.thr p.2).st + 1 ∧ (t.entry m e).seq = x.seq + 1 ∧
        ∃ j ∈ t.fly.jobs, j.team = m ∧ j.entry = e ∧ j.flush = some dst.1 ∧ j.seq = x.seq + 1 ∧ j.desc = x.desc ∧
          j.starter = some p.2 ∧ j.begun = false)

/-! Trees and standing loads (files 15 and 16). -/

/-- CONTRIB sends each participant's value as a tree node under its label, counted on ctr.ct; TSTAT's word, with the state,
cause and epoch of the element, is on its way to the destination, or asked of the device of the root's meeting place (R331 to
R333). -/
def Obligations.TreeWordsComplete : Prop :=
  ∀ (s : State) (d e a b : Opnd) (g : Nat) (t : Nat × Nat → TreeSet), UnitOk s →
    (Issues s g [srcUse e 1 0, { srcUse b 2 0 with regOnly := true }, { o := a }] →
      (∀ p ∈ s.parts g, (s.thr p.2).ct < 63 ∧ s.labelled p e b = .ok (t p) ∧ s.contribStatus p e a b = .ready) →
      ∃ u, exec (.contrib e a b g) s = .next u ∧ ∀ p ∈ s.parts g,
        (u.thr p.2).ct = (s.thr p.2).ct + 1 ∧
        ∃ n ∈ u.fly.nodes, n.origin = some (p.2, s.pc) ∧ n.ctx = (t p).ctx ∧ n.handle = (t p).handle ∧
          n.elem = (val32 s p e 0).toNat ∧ n.epoch = (t p).seq ∧ n.level = bits (val64 s p b 0).toNat 38 6 ∧
          n.index = bits (val64 s p b 0).toNat 0 38 ∧ n.place = .toCore (s.thr p.2).core ∧
          n.value = if (t p).op = 0 then (val32 s p a 0).setWidth 64 else val64 s p a 0) ∧
    (Issues s g [fillUse d 2, srcUse a 1 0, srcUse b 1 0] →
      (∀ p ∈ s.parts g, s.treeNamed p.2 ((val32 s p b 0).toNat % 2 ^ 20) = some (t p) ∧
        (val32 s p a 0).toNat < (t p).elems) →
      ∃ u, exec (.tstat d a b g) s = .next u ∧ ∀ p ∈ s.parts g,
        (s.nodeHome (t p) (t p).top 0 = none → ∃ o ∈ u.fly.ops, o.thread = p.2 ∧
          ∃ dst w, o.kind = .fill dst 2 (.ok w) none ∧ bits w.toNat 0 48 = (t p).seq % 2 ^ 48 ∧
            ((s.elemState (t p).ctx (t p).handle (val32 s p a 0).toNat (t p).seq).1 < 4 →
              (s.elemState (t p).ctx (t p).handle (val32 s p a 0).toNat (t p).seq).2 < 16 →
              bits w.toNat 62 2 = (s.elemState (t p).ctx (t p).handle (val32 s p a 0).toNat (t p).seq).1 ∧
              bits w.toNat 58 4 = (s.elemState (t p).ctx (t p).handle (val32 s p a 0).toNat (t p).seq).2)) ∧
        (∀ x, s.nodeHome (t p) (t p).top 0 = some x → ∃ o ∈ u.fly.ops, o.thread = p.2 ∧
          ∃ id dst, o.kind = .remote id dst 2 0 8 false none none none ∧
            ∃ r ∈ u.fabric.out, r.id = id ∧ r.op = .treeStat (t p).handle (val32 s p a 0).toNat))

/-- SLOAD sends its request and holds the unit, and once the answer is there the predicate tells it. SPOLL reads its
element of a slot that is not pending, and waits for a pending one; UNSUB withdraws a subscribed
slot's subscription, counted on ctr.st, and leaves any other slot that is not pending as it is (R342 to R344). -/
def Obligations.StandingLoadWordsComplete : Prop :=
  ∀ (s : State) (d a b : Opnd) (q g : Nat) (ring w64 peek : Bool) (p : Nat × Nat), UnitOk s → s.parts g = [p] →
    let m := s.unitTeam
    let y := (val32 s p b 0).toNat % 2 ^ 24
    (Issues s g [srcUse a 2 0, srcUse b 1 0] →
      (∀ line, s.sloadReq p.2 = none → s.sloadLine p ring a b = .ok line →
        ((s.slot m y).state = 0 ∨ (s.slot m y).state = 3 ∨ (s.slot m y).state = 5 ∨ (s.slot m y).state = 6) →
        (s.thr p.2).gx < 63 →
        ∃ t, exec (.sload q ring a b g) s = .next t ∧ t.unit.blocked = true ∧ t.unit.idx = s.unit.idx ∧
          (t.thr p.2).gx = (s.thr p.2).gx + 1 ∧
          ∃ r ∈ t.fly.reqs, r.thread = p.2 ∧ r.pc = s.pc ∧ r.line = line ∧ r.team = m ∧ r.slot = y ∧ r.answer = none) ∧
      (∀ r yes, s.sloadReq p.2 = some r → r.answer = some yes → (∀ u ∈ s.unit.lanes, u = p) → s.unit.rep = none →
        ∃ t, exec (.sload q ring a b g) s = .next t ∧ t.unit.blocked = false ∧
          (t.thr p.2).preds = setPred (s.thr p.2).preds q yes ∧
          ∀ z ∈ t.fly.reqs, ¬ (z.thread = p.2 ∧ z.pc = s.pc))) ∧
    (g = 0 → Issues s 0 [fillUse d (if w64 then 2 else 1), srcUse a 1 0, srcUse b 1 0] → s.atomicDue p.2 = false →
      ∀ slot elem, s.spollAt p a b w64 = .ok (slot, elem) →
        ((s.slot m slot).state = 1 →
          ∃ t, exec (.spoll d a b w64 peek) s = .next t ∧
            ∃ o ∈ t.fly.ops, o.thread = p.2 ∧ ∃ dst, o.kind = .take dst (if w64 then 2 else 1) slot elem w64 peek) ∧
        ((s.slot m slot).state ≠ 1 → (s.slot m slot).state ≠ 6 → ∀ v, s.slotElem m slot elem w64 = some v →
          ∃ t, exec (.spoll d a b w64 peek) s = .next t ∧
            ∃ o ∈ t.fly.ops, o.thread = p.2 ∧ ∃ dst, o.kind = .fill dst (if w64 then 2 else 1) (.ok v) none)) ∧
    (Issues s g [srcUse b 1 0] → s.slotTrap y 144 = none →
      ((s.slot m y).state ≠ 1 → (s.slot m y).state ≠ 2 → exec (.unsub b g) s = does s g 2 fun t => t) ∧
      ((s.slot m y).state = 2 → (s.thr p.2).st < 63 →
        ∃ t, exec (.unsub b g) s = .next t ∧ (t.thr p.2).st = (s.thr p.2).st + 1 ∧
          ∃ z ∈ t.fly.pushes, z.team = m ∧ z.slot = y ∧ z.body = .unsub ∧ z.thread = some p.2))

/-! System words (file 21). -/

/-- SRD reads a special register into its destination, SWR writes the bits of sr.mode that software may set, and the registers
of the handler where the participants are privileged; reserved bits are ignored. What SRD reads, register by register, for the
registers that a thread, its place or its launch gives (R12, R42, R164, R199, R408 to R410, R449). -/
def Obligations.SpecialRegistersReadAndWrite : Prop :=
  (∀ (s : State) (d a : Opnd) (n g : Nat),
     let wide := n = 0x0E ∨ n = 0x14 ∨ n = 0x15 ∨ n = 0x30
     let sets := fun (f : Thread → Word → Thread) =>
       exec (.swr a n g) s = does s g 2 fun t => t.each (s.parts g) fun p x => f x (val32 s p a 0)
     (¬ wide → Issues s g [dstUse d 1 false] →
       exec (.srd d n g) s = writes s g 2 d fun p => [BitVec.ofNat 32 (s.special p n)]) ∧
     (wide → Issues s g [dstUse d 2 false] →
       exec (.srd d n g) s = writes s g 2 d fun p => wordsOf 2 (BitVec.ofNat 64 (s.special p n))) ∧
     (Issues s g [srcUse a 1 0] →
       (n = 0x08 → sets fun x w => { x with mode := (w &&& 0xFF) ||| (x.mode &&& 0x300 &&& ~~~w) }) ∧
       ((∀ p ∈ s.parts g, s.privileged p.2 = true) →
         (n = 0x09 → sets fun x w => { x with repcount := w.toNat }) ∧
         (n = 0x12 → sets fun x w => { x with bsync := w &&& 0x800FFFFF }) ∧
         (0x18 ≤ n → n < 0x1C → sets fun x w => { x with hs := upd x.hs (n - 0x18) fun _ => w }) ∧
         (0x20 ≤ n → n < 0x30 → sets fun x w => { x with frec := upd x.frec (n - 0x20) fun _ => w }))) ∧
     (Issues s g [srcUse a 2 0] → (∀ p ∈ s.parts g, s.privileged p.2 = true) → n = 0x14 →
       exec (.swr a n g) s = does s g 2 fun t => t.each (s.parts g) fun p x =>
         { x with resume := val64 s p a 0 &&& 0x1FFFFFFFFFFFFFFF })) ∧
  (∀ (s : State) (p : Nat × Nat),
     let x := s.thr p.2
     let g := s.grp x.group
     let m := s.team g.team
     let r := (s.launch m.launch).record
     s.special p 0x00 = p.1 ∧ s.special p 0x01 = x.idx ∧ s.special p 0x02 = g.nthreads ∧ s.special p 0x03 = g.idx ∧
     s.special p 0x04 = m.idx ∧ s.special p 0x06 = r.width ∧ s.special p 0x08 = x.mode.toNat ∧
     s.special p 0x09 = x.repcount ∧ s.special p 0x0A = x.calls.length ∧ s.special p 0x0B = x.rdepth ∧
     s.special p 0x0C = r.quantum ∧ s.special p 0x0D = r.foldage ∧ s.special p 0x0E = s.clk ∧ s.special p 0x10 = m.base ∧
     s.special p 0x11 = m.size ∧ s.special p 0x12 = x.bsync.toNat ∧ s.special p 0x13 = x.hmode ∧
     s.special p 0x14 = x.resume.toNat ∧ (∀ k < 4, s.special p (0x18 + k) = ((x.hs[k]?).getD 0).toNat) ∧
     (∀ k < 16, s.special p (0x20 + k) = ((x.frec[k]?).getD 0).toNat) ∧
     bits (s.special p 0x05) 0 1 = (if g.consumer then 1 else 0) ∧ bits (s.special p 0x05) 1 1 = (if r.paired then 1 else 0) ∧
     bits (s.special p 0x16) 0 6 = (s.ctxOf p.2).num % 64)

/-- A thread is privileged while its sr.hmode is not 0, or when its context has SYS set. A privileged word whose registers exist,
in a thread without privilege, takes the illegal-instruction trap with code 4 and has no effect: ERET, SVRF, LDRF, SVWIN, LDWIN, TLBI, GRANT, the
HALTs, and SWR to a register that only privileged threads write (R392, R399). -/
def Obligations.PrivilegedWordsTrapInPrograms : Prop :=
  (∀ (s : State) (k : Nat), s.privileged k = true ↔ (s.thr k).hmode ≠ 0 ∨ (s.ctxOf k).sys = true) ∧
  (∀ (s : State) (i : Instr) (g : Nat) (p : Nat × Nat), UnitOk s → Untraced s → s.unit.rep = none → s.unit.lanes = [p] →
     s.parts g = [p] → (s.thr p.2).hmode = 0 → (s.ctxOf p.2).sys = false →
     s.targetBad (launchAt s p) (s.ctxOf p.2).handler = false →
     let fit := fun (us : List Use) => ∀ u ∈ us, u.bad none (s.grp s.unit.group).budget = false
     ((∃ a n, i = .swr a n g ∧ (n = 0x09 ∨ n = 0x12 ∨ n = 0x14 ∨ (0x18 ≤ n ∧ n < 0x1C) ∨ (0x20 ≤ n ∧ n < 0x30)) ∧
         fit [srcUse a (if n = 0x14 then 2 else 1) 0]) ∨
       (g = 0 ∧ (i = .eret ∨ i = .haltThread ∨ i = .haltGroup ∨ i = .haltKernel ∨ i = .haltPark)) ∨
       (∃ k a b, (i = .svrf k a b g ∨ i = .ldrf k a b g) ∧ fit [srcUse a 2 0, srcUse b 1 0]) ∨
       (∃ y a b, i = .tlbi y a b g ∧ fit [srcUse a (if y then 2 else 1) 0, srcUse b 1 0]) ∨
       (g = 0 ∧ ∃ e a b, ((i = .svwinWin e a ∨ i = .ldwinWin e a) ∧ fit [lowUse a 2]) ∨
         ((i = .svwinSlot e a b ∨ i = .ldwinSlot e a b) ∧ fit [lowUse a 2, lowUse b 1])) ∨
       (∃ d a b, i = .grant d a b g ∧ fit [dstUse d 2 false, srcUse a 1 0, srcUse b 1 0])) →
     ∃ t, exec i s = .next t ∧ SameMemory s t ∧ (t.thr p.2).hmode = 1 ∧
       (t.thr p.2).resume = resumeOf s.unit.hdr s.unit.idx ∧ StandsAt t p (s.ctxOf p.2).handler ∧
       (t.thr p.2).frec = ({ s.infoOf p.2 with
         pc := s.pc, cls := 1, code := 4, rep := (s.thr p.2).repcount, resume := resumeOf s.unit.hdr s.unit.idx } :
           FaultInfo).words ∧
       t.fly = s.fly ∧ t.fw = s.fw ∧ t.bar0 = s.bar0)

/-- SVRF and LDRF of every block: SVRF of a privileged thread whose block waits for nothing completes, and counts a store on
ctr.st; LDRF of an image that can be read completes, before the next word. SVRF of blocks 0 to 2 writes the words and states of
32 registers, and changes none of them; LDRF of such a block brings back the full registers of the image, and of block 3 the
resume point, sr.mode, sr.bsync and sr.repcount. A block of registers comes back from its own bytes: full registers full with
their words, failed ones failed (R413, R414). -/
def Obligations.RegisterBlocksSaveAndLoad : Prop :=
  (∀ (s : State) (a b : Opnd) (blk g : Nat) (p : Nat × Nat), UnitOk s → s.parts g = [p] → s.privileged p.2 = true →
     Issues s g [srcUse a 2 0, srcUse b 1 0] → s.unperformed p.2 = false →
     let va := val64 s p a 0
     (s.blockWaits blk p (val32 s p b 0).toNat = false → (s.thr p.2).st < 63 →
       s.imageTrap va (blockBytes blk) 2 64 = none →
       ∃ t, exec (.svrf blk a b g) s = .next t ∧ (t.thr p.2).st = (s.thr p.2).st + 1 ∧
         ((∀ o ∈ s.fly.ops, o.id ≠ s.nextId) →
           ∃ o ∈ t.fly.ops, o.thread = p.2 ∧ ∃ rs, o.kind = .parts rs none .st none) ∧
         (blk < 3 → (t.thr p.2).v = (s.thr p.2).v ∧
           ∀ pa, s.xlate s.unitCtx va.toNat 2 = .ok (.mem pa) → va.toNat % 4096 + 136 ≤ 4096 → pa + 136 ≤ s.capacity →
             MemoryInv s → Untraced s → readCells t.sto.mem pa 136 = (s.thr p.2).regBlock blk)) ∧
     (∀ bs, s.imageReadTrap p.2 va (blockBytes blk) 64 = none → s.imagePending va.toNat (blockBytes blk) = false →
       (∀ x ∈ s.imageNeeds p.2 va.toNat (blockBytes blk) 64, (s.peerAnswer x.1).isSome = true) →
       s.getImage p.2 va.toNat (blockBytes blk) = .ok bs →
       ∃ t, exec (.ldrf blk a b g) s = .next t ∧
         (blk < 3 → bs.length = 136 → ∀ i < 32, 32 * blk + i < (s.thr p.2).v.length → bits (sliceVal bs 128 8) (2 * i) 2 = 0 →
           (t.thr p.2).reg (32 * blk + i) = .full (BitVec.ofNat 32 (sliceVal bs (4 * i) 4))) ∧
         (blk = 3 → s.unit.rep = none → (t.thr p.2).resume = BitVec.ofNat 64 (sliceVal bs 0 8) &&& 0x1FFFFFFFFFFFFFFF ∧
           (t.thr p.2).mode = BitVec.ofNat 32 (sliceVal bs 12 4) &&& 0x3FF ∧
           (t.thr p.2).repcount = sliceVal bs 16 4 ∧
           (t.thr p.2).bsync = BitVec.ofNat 32 (sliceVal bs 20 4) &&& 0x800FFFFF))) ∧
  (∀ (x y : Thread) (blk : Nat) (f : Nat → Failure), x.v.length = y.v.length →
     let bs := x.regBlock blk
     let z := loadRegs y.v (32 * blk) (bs.take 128) (sliceVal bs 128 8) f
     z.length = y.v.length ∧ ∀ i < y.v.length,
       (i < 32 * blk ∨ 32 * blk + 32 ≤ i → z[i]? = y.v[i]?) ∧
       (32 * blk ≤ i → i < 32 * blk + 32 → ∀ w, x.v[i]? = some (.full w) → z[i]? = some (.full w)) ∧
       (32 * blk ≤ i → i < 32 * blk + 32 → ∀ e, x.v[i]? = some (.failed e) → z[i]? = some (.failed (f i))))

/-- Windows and slots save and come back: SVWIN of a window writes its image and parks a destination that is arriving, LDWIN of
one brings back the state that the image holds; SVWIN of a slot writes its headers and values and remembers the image, LDWIN
brings them back (R347, R415). -/
def Obligations.WindowsAndSlotsSaveAndLoad : Prop :=
  ∀ (s : State) (a b : Opnd) (e : Nat) (p : Nat × Nat), UnitOk s → s.parts 0 = [p] → s.privileged p.2 = true →
    let m := s.unitTeam
    let w := s.winDest e
    let va := val64 s p a 0
    let y := (val32 s p b 0).toNat % 2 ^ 24
    let dest := ((s.entry m e).dests[w.2.1]?).getD {}
    (Issues s 0 [lowUse a 2] → m < s.teams.length → e < (s.team m).entries.length → w.2.1 < (s.entry m e).dests.length →
      (s.imageTrap va (s.winImage e).length 2 256 = none → w.2.2.1 = false → (s.thr p.2).st < 63 →
        ∃ t, exec (.svwinWin e a) s = .next t ∧
          (((t.entry m e).dests[w.2.1]?).getD {}).state =
            if dest.state = .arriving then .parked va else dest.state) ∧
      (∀ h, s.imageOpen va = false → s.imagePending va.toNat (256 + w.1.size) = false → s.ldwinTrap p.2 e va = none →
        (∀ x ∈ s.ldwinNeeds p.2 e va.toNat, (s.peerAnswer x.1).isSome = true) → s.getImage p.2 va.toNat 24 = .ok h →
        (sliceVal h 8 1 = 0 → ∃ t, exec (.ldwinWin e a) s = .next t ∧
          (((t.entry m e).dests[w.2.1]?).getD {}).state = dest.state) ∧
        (sliceVal h 8 1 = 1 → ∃ t, exec (.ldwinWin e a) s = .next t ∧
          (((t.entry m e).dests[w.2.1]?).getD {}).state = .absent) ∧
        (1 < sliceVal h 8 1 → ∃ t, exec (.ldwinWin e a) s = .next t ∧
          (((t.entry m e).dests[w.2.1]?).getD {}).state =
            if sliceVal h 8 1 = 3 ∨ bits (sliceVal h 0 8) 62 2 = 0 then .present else .absent))) ∧
    (Issues s 0 [lowUse a 2, lowUse b 1] →
      ((s.slot m y).state ≠ 1 → (s.slot m y).state ≠ 4 → s.saveSlotTrap y (s.slot m y).ring = none →
        s.imageTrap va 720 2 16 = none → (s.thr p.2).st < 63 →
        ∃ t, exec (.svwinSlot e a b) s = .next t ∧
          ∃ z ∈ t.fly.parkedSlots, z.team = m ∧ z.slot = y ∧ z.image = va ∧ z.count = 0) ∧
      (∀ bs, s.imageReadTrap p.2 va 720 16 = none → s.imagePending va.toNat 720 = false →
        (∀ x ∈ s.imageNeeds p.2 va.toNat 720 16, (s.peerAnswer x.1).isSome = true) →
        s.getImage p.2 va.toNat 720 = .ok bs → s.saveSlotTrap y (bit (sliceVal bs 128 8) 60) = none →
        sliceVal bs 712 8 = 0 → (∀ z ∈ s.fly.parkedSlots, ¬ (z.team = m ∧ z.image = va)) →
        ∃ u, (does s 0 2 fun t =>
            ((t.imageUsed va.toNat 720).chargeLines s.unitCtx.num s.unit.core (s.imageMoved p.2 va.toNat 720 1)).writeSpad
              ((s.team m).addr y) (bs.take (if bit (sliceVal bs 128 8) 60 then 576 else 144))) = .next u ∧
          exec (.ldwinSlot e a b) s = .next (u.dropWords p.2)))

/-- TLBI waits for accesses that have been translated, and then no translation of the range is held; GRANT gives the token of
the window asked for (R416, R417). -/
def Obligations.TranslationsAndTokensComplete : Prop :=
  ∀ (s : State) (d a b : Opnd) (g : Nat) (page : Bool),
    (Issues s g [srcUse a (if page then 2 else 1) 0, srcUse b 1 0] → (∀ p ∈ s.parts g, s.privileged p.2 = true) →
      (page = true → ∀ p ∈ s.parts g, (val32 s p b 0).toNat % 8 ≤ 4) →
      let range := fun (p : Nat × Nat) => tlbiRange page (val64 s p a 0).toNat ((val32 s p b 0).toNat % 8)
      ((∃ p ∈ s.parts g, s.usesRange s.unitCtx.num (range p) = true) → exec (.tlbi page a b g) s = waits s []) ∧
      ((∀ p ∈ s.parts g, s.usesRange s.unitCtx.num (range p) = false) →
        ∃ t, exec (.tlbi page a b g) s = .next t ∧ (∀ x ∈ t.sto.tlb, x ∈ s.sto.tlb) ∧
          ∀ p ∈ s.parts g, ∀ x ∈ t.sto.tlb, x.ctx = s.unitCtx.num →
            (x.page + x.pages) * 4096 ≤ (range p).1 ∨ (range p).1 + (range p).2 ≤ x.page * 4096)) ∧
    (Issues s g [dstUse d 2 false, srcUse a 1 0, srcUse b 1 0] → (∀ p ∈ s.parts g, s.privileged p.2 = true) →
      ∀ token : Nat × Nat → Dword,
      (∀ p ∈ s.parts g, s.grantToken s.unitCtx (val32 s p a 0).toNat (val32 s p b 0).toNat = some (token p)) →
      exec (.grant d a b g) s = writes s g 2 d fun p => wordsOf 2 (token p))

/-- MARK writes a mark record holding its code into the context's trace where trace is enabled, and else does nothing, whatever
the mode; the word of MARK 7 (R418). -/
def Obligations.MarkWritesItsRecordWhereTraceIsOn : Prop :=
  (∀ (s : State) (c g : Nat), Issues s g [] →
    ((s.unitCtx.debug = none ∨ s.feature 3 = false ∨ ∃ x, s.unitCtx.debug = some x ∧ x.itrace = false) →
      exec (.mark c g) s = does s g 2 fun t => t) ∧
    (∀ x, s.parts g ≠ [] → s.unitCtx.debug = some x → x.itrace = true → s.feature 3 = true →
      exec (.mark c g) s = does s g 2 fun t =>
        t.unitTrace s.cur ([6, 0] ++ valBytes 2 c ++ valBytes 4 (s.unitId s.cur) ++ valBytes 8 s.clk))) ∧
  decodeWord .sys 0x26000070 [] = .ok (.mark 7 0, [])

/-- The HALTs end or park threads without waiting for their counters: HALT.thread the thread, HALT.group every thread of its
group, HALT.kernel every thread of every team of its launch; HALT.park parks a thread of the save routine once its stores are
performed (R404, R412). -/
def Obligations.HaltsEndThreads : Prop :=
  ∀ (s : State) (p : Nat × Nat), UnitOk s → Untraced s → s.unit.rep = none → s.unit.lanes = [p] → s.parts 0 = [p] →
    Issues s 0 [] → s.privileged p.2 = true → (s.thr p.2).life = .live → (s.thr p.2).preempt = 0 →
    (∃ t, exec .haltThread s = .next t ∧ (t.thr p.2).life = .exited) ∧
    (∃ t, exec .haltGroup s = .next t ∧ ∀ k < s.threads.length, (s.thr k).group = s.unit.group →
      (t.thr k).life = .exited) ∧
    (∃ t, exec .haltKernel s = .next t ∧ ∀ k < s.threads.length, (s.team (s.teamOf k)).launch = launchAt s p →
      s.teamOf k < s.teams.length → (s.team (s.teamOf k)).life ≠ .retired →
      (s.team (s.teamOf k)).life ≠ .waiting → (t.thr k).life = .exited) ∧
    ((s.thr p.2).hmode = 2 → (s.thr p.2).st = 0 → s.unperformed p.2 = false →
      ∃ t, exec .haltPark s = .next t ∧ (t.thr p.2).life = .parked ∧ ∀ u ∈ t.units, ∀ q ∈ u.lanes, q.2 ≠ p.2)

/-! Events of the cores, the copy engines and the matrix engines (files 07 to 14). -/

/-- The events of the issue units. CLAUSE_ISSUE puts the fetched clause in force and passes its header where that asks for no
wait; a fold that is next forms an issue group of its threads and is free; a runnable unit under the promise expires once it
has waited half its quantum; a unit asked to stop stops at its stop point; a core's miss becomes a persistent request; and a
wait that is over lets the unit perform its word, where its datapath has not issued in this clk (R84, R172, R173, R187, R198, R199, R205, R212, R441). -/
def Obligations.CoreEventsHaveTheirEffect : Prop :=
  ∀ (s : State) (u core fold line : Nat),
    let x := s.unitAt u
    let r := (s.launch (s.team (s.grp x.group).team).launch).record
    let w := { (({ s with cur := u } : State).wake u) with taken := x.path :: s.taken }
    let free := s.taken.contains x.path = false
    (∀ ws m, s.cur < s.units.length → s.unit.live = true → s.unit.stopped = false → s.unit.words = [] → s.unit.lanes ≠ [] →
      s.fetchClause (s.team (s.grp s.unit.group).team).launch s.unit.hdr = .ok (ws, m) → s.unit.idx ≤ m →
      bit (ws.headD 0).toNat 8 = false →
      ∃ t, exec .clauseIssue s = .next t ∧ t.unit.words = ws ∧ t.unit.instrs = m ∧ t.unit.idx = max 1 s.unit.idx ∧
        t.unit.waited = true ∧ t.threads = s.threads ∧ t.sto = { s.sto with tlb := t.sto.tlb }) ∧
    (∀ f, s.nextFold core = some f → f.num = fold → (∀ k ∈ f.threads, (s.thr k).stopped = false) →
      ∃ t, exec (.foldForm core fold) s = .next t ∧
        (s.foldFull f = false → s.foldAged f = true → exec (.foldAgeLimit core fold) s = .next t) ∧
        (∀ y ∈ t.folds, ¬ (y.core = core ∧ y.num = fold)) ∧
        ∃ y ∈ t.units, y.live = true ∧ y.core = core ∧ y.group = f.group ∧ y.hdr = f.hdr ∧ y.idx = f.idx ∧ y.words = [] ∧
          y.lanes.map Prod.snd = f.threads ∧ y.lanes.map Prod.fst = List.range f.threads.length) ∧
    (x.live = true → x.stopped = false → s.runnable x ≠ [] → x.expired = none → r.progress = true →
      s.paused (s.grp x.group).team = false → r.quantum ≤ 2 * s.waiting x →
      exec (.unitExpired u) s = .next (s.updUnit u fun y => { y with expired := some s.clk })) ∧
    (∀ c, x.stopAsk = some c → x.live = true → x.stopped = false → x.atStop = true → u < s.units.length →
      (s.ctx (s.launchOfUnit u).ctx).debug = none →
      ∃ t, exec (.unitStop u) s = .next t ∧ (t.unitAt u).stopped = true ∧ (t.unitAt u).stopAsk = none ∧
        ∀ p ∈ x.lanes, p.2 < s.threads.length → (t.thr p.2).stopped = true ∧
          (t.thr p.2).resume = if (s.thr p.2).hmode = 0 then resumeOf x.hdr x.idx else (s.thr p.2).resume) ∧
    (s.homeOf line / 48 = dieOfCore core → s.asks core line = true → (line, core) ∉ s.sto.persistent →
      exec (.persistentRequest core line) s =
        .next (s.updSto fun m => { m with persistent := m.persistent ++ [(line, core)] })) ∧
    (∀ a b g, s.wordOf u = some (.bwait a b g) → free → Issues w g [srcUse a 1 0] →
      (∀ p ∈ w.parts g, (w.bar b).passed ((val32 w p a 0).setWidth 16) = true) →
      exec (.bwaitRelease u) s = does w g 1 fun t => t) ∧
    (∀ b g, s.wordOf u = some (.bsync b g) → free → Issues w g [] → w.unit.rep = none →
      (∀ p ∈ w.parts g, (w.thr p.2).bsync.getLsbD 31 = true ∧ (w.bar b).passed ((w.thr p.2).bsync.setWidth 16) = true) →
      exec (.bwaitRelease u) s = does w g 1 fun t =>
        t.each (w.parts g) fun _ x => { x with bsync := x.bsync &&& 0x7FFFFFFF }) ∧
    (∀ d a b sp (stamp : Nat × Nat → Dword), s.wordOf u = some (.mwait d a b sp) → free →
      Issues w 0 [dstUse d 2 false, srcUse a (if sp then 1 else 2) 0, srcUse b 2 0] → w.parts 0 ≠ [] →
      (∀ p ∈ w.parts 0, ({ s with cur := u } : State).mwaitStatus p a b sp = .ready ∧
        (∃ q, w.stampPlace p a sp = .ok q ∧ w.stampAt p q (w.stampVa p a sp) = .ok (some (stamp p))) ∧
        (bits (stamp p).toNat 62 2 ≠ 0 ∨ (val64 w p b 0).toNat % 2 ^ 62 ≤ (stamp p).toNat % 2 ^ 62)) →
      exec (.mwaitWake u) s = does w 0 1 fun t =>
        ((w.parts 0).foldl (fun r p => r.dropWords p.2) (t.putDst (w.parts 0) d fun p => wordsOf 2 (stamp p))).acquire
          w.unit.core (if sp then .clu else .dev))

/-- What an operation brings lands in the registers that still wait for it, and no others change; a load on its way is performed
and lands with the bytes that it sees; a store is performed by writing its bytes and no other byte; a counted operation's
completion lowers its counter and leaves its error with the thread; and a flush or MSTORE whose writes have all been answered is
performed, a flush's stamp following them (R180 to R183, R222, R234, R236, R246). -/
def Obligations.AccessesLandAndComplete : Prop :=
  ∀ (s : State) (id : Nat) (o : Op), s.op id = some o → (∀ y ∈ s.fly.ops, y.id = id → y = o) →
    (∀ dst words val ctr, o.kind = .fill dst words val ctr → s.passed o = false →
      (exec (.loadValueLands id) s = .next
        (let t := (s.served o).landRegs o.thread o.id dst (match val with
          | .ok x => ([lo32 x, hi32 x].take words).map Reg.full
          | .error f => List.replicate words (.failed f));
        match ctr with
        | some c => t.setOp o.id (.done c none)
        | none => t.dropOp o)) ∧
      ∀ n xs, ((s.landRegs o.thread o.id (.v n) xs).thr o.thread).v.length = (s.thr o.thread).v.length ∧
        ∀ i < (s.thr o.thread).v.length, ((s.landRegs o.thread o.id (.v n) xs).thr o.thread).reg i =
          if n ≤ i ∧ i < n + xs.length ∧ (s.thr o.thread).reg i = .empty o.id then (xs[i - n]?).getD (.full 0)
          else (s.thr o.thread).reg i) ∧
    (∀ d words q n sext sc view bs, o.kind = .load (.v d) words q n sext none sc none view → words ≤ 2 →
      (∀ y ∈ s.fly.ops, y.isLoad = true → y = o) → s.sto.persistent = [] → o.heldAt s = false →
      (∀ c ∈ s.ctxs, c.debug = none) → s.seenWith view o.core q n sc = some bs →
      ∃ t, exec (.loadValueLands id) s = .next t ∧ SameMemory s t ∧ (∀ y ∈ t.fly.ops, y.id ≠ o.id) ∧
        ∀ i < words, d + i < (s.thr o.thread).v.length → (s.thr o.thread).reg (d + i) = .empty o.id →
          (t.thr o.thread).reg (d + i) =
            .full (if i = 0 then lo32 (extendBytes sext bs) else hi32 (extendBytes sext bs))) ∧
    (∀ pa bs shown counted, o.kind = .store (.mem pa) bs shown counted → s.performable o = true → s.together o = [o] →
      bs ≠ [] → pa % 128 + bs.length ≤ 128 → pa + bs.length ≤ s.capacity → MemoryInv s →
      (∀ c ∈ s.ctxs, c.dump = none ∧ c.debug = none) →
      ∃ t, exec (.storePerformed id) s = .next t ∧
        (∀ i < bs.length, t.memByte (pa + i) = (bs[i]?).getD 0) ∧
        (∀ a, a < pa ∨ pa + bs.length ≤ a → t.memByte a = s.memByte a) ∧ t.sto.spad = s.sto.spad ∧ t.sto.ws = s.sto.ws ∧
        t.threads = s.threads ∧ (counted = true → ∃ y ∈ t.fly.ops, y.id = o.id ∧ y.kind = .done .st none) ∧
        (counted = false → ∀ y ∈ t.fly.ops, y.id ≠ o.id)) ∧
    (∀ a bs shown counted, o.kind = .store (.spad a) bs shown counted → s.performable o = true → s.together o = [o] →
      bs ≠ [] → a % 128 + bs.length ≤ 128 → MemoryInv s → (∀ c ∈ s.ctxs, c.debug = none) →
      ∃ t, exec (.storePerformed id) s = .next t ∧
        (∀ i < bs.length, cellGet t.sto.spad (a + i) = (bs[i]?).getD 0) ∧
        (∀ k, k < a ∨ a + bs.length ≤ k → cellGet t.sto.spad k = cellGet s.sto.spad k) ∧ t.sto.mem = s.sto.mem) ∧
    (∀ c err, o.kind = .done c err →
      let t := ((s.updThr o.thread fun x => x.decCtr c o.id).dropOp o).updSto fun m => { m with
        visitors := m.visitors.filter fun v => !(v.core == (s.thr o.thread).core && o.lines.contains v.line) }
      (err = none → exec (.countedOpComplete id) s = .next t) ∧
      (∀ f, err = some f → exec (.countedOpComplete id) s = .next
        (if (t.thr o.thread).life = .exited then t.lostError o.thread ⟨c, f, o.id⟩
        else t.updThr o.thread fun x => { x with held := x.held ++ [⟨c, f, o.id⟩] }))) ∧
    (∀ err c a q, o.kind = .parts [] err c (some (a, q)) → (∀ j ∈ s.fly.jobs, j.id ≠ o.id) → (∀ m ∈ s.fly.mops, m.id ≠ o.id) →
      MemoryInv s →
      ∃ t, exec (.countedOpComplete id) s = .next t ∧
        (∀ i < 8, cellGet t.sto.spad (a + i) = ((stampBytes (if err.isSome then 1 else 0) q)[i]?).getD 0) ∧
        (∀ k, k < a ∨ a + 8 ≤ k → cellGet t.sto.spad k = cellGet s.sto.spad k) ∧
        ∃ y ∈ t.fly.ops, y.id = o.id ∧ y.kind = .done c err)

/-- Fills and flushes. A fill that enters the queue numbers itself and sets its destinations arriving; some of a beat's bytes land
in the window, or a source that fails ends the fill with the stamp of status 01; the stamp follows the last byte, and the
destination is present; a flush begins when its destination is present and is given up when that is absent; and its bytes are
written piece by piece, with the stamp to follow them (R219 to R225, R237). -/
def Obligations.FillsAndFlushesLand : Prop :=
  ∀ (s : State) (id off k : Nat) (j : Job), s.job id = some j → MemoryInv s →
    j.team < s.teams.length → j.entry < (s.team j.team).entries.length →
    let ds := (s.entry j.team j.entry).dests
    let places := (region j.desc).dests
    let z := (region j.desc).size
    let beat := fun (o : Nat) => o / 8 = off / 8 ∧ o < z ∧ s.lacks j o = true
    let stamped := fun (t : State) (a status : Nat) =>
      ∀ i < 8, cellGet t.sto.spad (j.addr a + i) = ((stampBytes status j.seq)[i]?).getD 0
    (j.flush = none → j.queued = false → s.copyFull j.cluster = false →
      ∃ t, exec (.fillEntersQueue id) s = .next t ∧
        (t.entry j.team j.entry).seq = (s.entry j.team j.entry).seq + 1 ∧
        (t.entry j.team j.entry).dests = ds.map (fun _ => { state := .arriving, landed := [], job := j.id }) ∧
        ∃ y ∈ t.fly.jobs, y.id = j.id ∧ y.queued = true ∧ y.seq = (s.entry j.team j.entry).seq + 1) ∧
    (∀ d q, j.flush = none → j.queued = true → off < z → s.lacks j off = true → (∀ o ∈ j.first, s.lacks j o = false) →
      ds = [d] → places = [q] → d.takes j = true → j.shadows = [] →
      (∀ b : Nat → Byte, (∀ o, beat o → s.sourceByte j o = .byte (b o)) →
        ∃ (t : State) (os : List Nat), exec (.fillBeatLands id off) s = .next t ∧ os ≠ [] ∧ (∀ o ∈ os, beat o) ∧
          (∀ o ∈ os, cellGet t.sto.spad (j.addr (q.2.1 + o)) = b o ∧
            (∃ y ∈ (t.entry j.team j.entry).dests, y.landed.contains o = true)) ∧
          (∀ a, (∀ o ∈ os, a ≠ j.addr (q.2.1 + o)) → cellGet t.sto.spad a = cellGet s.sto.spad a) ∧
          t.sto.mem = s.sto.mem) ∧
      ((∀ o, beat o → ∃ f, s.sourceByte j o = .bad f) → (∀ y ∈ s.fly.jobs, y = j) →
        ∃ t, exec (.fillBeatLands id off) s = .next t ∧ stamped t q.2.2 1 ∧
          (t.entry j.team j.entry).dests = [{ state := .absent }] ∧ t.sto.mem = s.sto.mem)) ∧
    (∀ d q, j.flush = none → j.queued = true → j.shadows = [] → ds[k]? = some d → places[k]? = some q →
      d.takes j = true → z ≤ d.landed.length →
      ∃ t, exec (.fillStampWrite id k) s = .next t ∧ stamped t q.2.2 0 ∧
        (((t.entry j.team j.entry).dests[k]?).getD {}).state = .present) ∧
    (∀ i q, j.flush = some i → j.begun = false → places[i]? = some q →
      (((ds[i]?).getD {}).state = .present →
        exec (.flushBegin id) s = .next (s.updFly fun f => { f with jobs := f.jobs.map fun x =>
          if x.id = j.id then { x with begun := true } else x })) ∧
      (((ds[i]?).getD {}).state = .absent →
        exec (.flushBegin id) s = .next ((s.writeSpad (j.addr q.2.2) (stampBytes 1 j.seq)).endJob j none))) ∧
    (∀ i q, j.flush = some i → j.begun = true → places[i]? = some q → j.id < s.nextId →
      (∀ o ∈ s.fly.ops, o.id = j.id → ∃ rs e, o.kind = .parts rs e .st (some (j.addr q.2.2, j.seq))) →
      ∃ t, exec (.flushComplete id) s = .next t ∧
        (∃ o ∈ t.fly.ops, o.id = j.id ∧ ∃ rs e, o.kind = .parts rs e .st (some (j.addr q.2.2, j.seq))) ∧
        ((∀ y ∈ t.fly.jobs, y.id ≠ j.id) ∨ ∃ y ∈ t.fly.jobs, y.id = j.id ∧ j.wrote.length < y.wrote.length))

/-- The matrix engines. The oldest operation takes its engine once its operands are present; MFIN adds the root of the
accumulator's tree to its base, MREL frees the reservation, MDRAIN.reg fills its registers; a pair window that has run 4,096
clk closes; and a fenced engine ends what is in flight on it, with a record to each launch that holds it (R277, R285, R299,
R302, R305, R307, R312, R314, R315). -/
def Obligations.MatrixEnginesRun : Prop :=
  ∀ (s : State) (eng owner k : Nat),
    (∀ o, s.headMop eng = some o →
      (o.started = false → o.susp = none → o.doomed = none →
        (∀ r ∈ o.spadRanges, s.absentIn o.team r.1 r.2 = [] ∧ s.arrivingIn o.team r.1 r.2 = []) →
        (∀ t f, s.runTile o ≠ (t, .suspended f)) →
        exec (.matrixOpStart eng) s = .next (s.updMop o.id fun x => { x with started := true, waits := [] })) ∧
      (o.started = true → o.susp = none → o.doomed = none →
        let a := ((s.team o.team).resv o.res).accum o.acc
        let ends := fun (t : State) => exec (.matrixOpComplete eng) s = .next (t.settleResv o.team o.res)
        (o.kind = .rel → ends ((s.updResv o.team o.res fun _ => {}).endMop o none)) ∧
        (o.kind = .fin → s.engineFenced o.eng = false → a.now.state = 1 →
          ends ((s.updAccum o.team o.res o.acc fun x => { x with
            base := (List.range 3072).map fun e => fl32 (x.val e) (((rootVals 12 a.stack)[e]?).getD 0),
            stack := [], now := { x.now with state := 2, labels := [] } }).endMop o none)) ∧
        (∀ t d row col, o.kind = .drainReg t d row col → s.engineFenced o.eng = false → a.now.state = 2 →
          ends ((s.landRegs t o.id (.v d)
            ((List.range 16).map fun i => .full (a.val (48 * row + 16 * col + i)))).dropMop o.id)))) ∧
    (∀ h sg t, s.paused (s.grp owner).team = false → (s.conv owner k).declared = true → (s.conv owner k).left ≠ 0 →
      s.windowOver (s.conv owner k) = true →
      (s.conv owner k).first = h → (s.conv owner k).lastSigner ((s.conv owner k).openHalves.filter (· == h)) = some sg →
      (s.thr sg.thread).mx < 63 →
      (∀ y ∈ s.issueOf owner k h false, s.issueWaits (s.grp owner).team y = false ∧ s.issueFailed y = none) →
      s.issueHalf owner k h sg.thread sg.pc true = .ok t →
      exec (.pairWindowClose owner k) s = .next (t.updConv owner k fun c =>
        { c with doneHalves := c.doneHalves ++ [h], window := none })) ∧
    (eng < 576 → s.engineFenced eng = false → s.health.fencedCores.contains (eng / 4) = false →
      (s.fenceEngine eng).fencedOn (eng / 4) < 3 →
      exec (.engineFence eng) s = .next ((s.holdersOf eng).foldl
        (fun t l => t.containRecord l 1 (s.engineSiteOf eng)) (s.fenceEngine eng)))

/-! Events of sum trees and standing loads (files 15 and 16). -/

/-- Sum trees. A node whose sibling has not arrived is held at its core rick, and its contribution is taken; siblings that meet
at a slice pair in the order of their indices, and their parent is held there or goes to its own parent's meeting place; a
rick's timeouts send a node on, but not past others that wait at its slice; a node that has waited 1 ms fails its element; and a
stamp is written once (R323 to R326, R328, R329). -/
def Obligations.TreeNodesMove : Prop :=
  ∀ (s : State) (id elem : Nat),
    (∀ x t, s.node id = some x → s.treeSet x.ctx x.handle = some t → x.epoch = t.seq → x.leaves = t.leaves → x.op = t.op →
      (s.elemState x.ctx x.handle x.elem x.epoch).1 = 2 → x.level < t.top → (x.index ^^^ 1) * 2 ^ x.level < t.leaves →
      let others := s.fly.nodes.filter fun y => y.id ≠ x.id
      (∀ c, x.place = .toCore c → (∀ y ∈ others, sameElem x y = true → y.place ≠ .coreRick c) →
        (others.filter fun y => y.place == .coreRick c).length < 512 →
        ∃ u, exec (.rickNodeArrival id) s = .next u ∧
          u.fly.nodes = others ++ [{ x with place := .coreRick c, origin := none, drain := false, since := s.clk }] ∧
          (∀ k pc, x.origin = some (k, pc) → ∃ o ∈ u.fly.ops, o.thread = k ∧ o.kind = .done .ct none)) ∧
      (∀ k y, x.place = .toSlice k → x.origin = none → y.origin = none →
        y.place = .sliceRick k → others.filter (fun z => sameElem x z && standsAt (.sliceRick k) z.place) = [y] →
        y.level = x.level → y.index = x.index ^^^ 1 → x.level + 1 < t.top →
        (x.index / 2 ^^^ 1) * 2 ^ (x.level + 1) < t.leaves →
        s.nodeHome t (x.level + 2) (x.index / 2 / 2) = none → (s.rickNodes (.sliceRick k)).length < 4096 →
        let goal := s.nodeSlice x.handle x.elem (x.level + 2) (x.index / 2 / 2)
        ∃ u, exec (.rickNodeArrival id) s = .next u ∧
          u.fly.nodes = (others.filter fun z => z.id ≠ y.id) ++ [{ x with
            level := x.level + 1, index := x.index / 2,
            value := if x.index % 2 = 0 then treeOp t.op x.value y.value else treeOp t.op y.value x.value,
            place := if goal = k then .sliceRick k else .toSlice goal, drain := false, since := s.clk }])) ∧
    (∀ e t, s.fly.elems[elem]? = some e → s.treeSet e.ctx e.handle = some t → e.stamped = false → t.seq = e.seq →
      exec (.treeStampWrite elem) s = .next
        (State.writeStamp (s.updFly fun f => { f with elems := upd f.elems elem fun x => { x with stamped := true } })
          (s.ctx e.ctx) (t.stamp.toNat + 8 * e.elem) 2 (stampBytes e.status e.seq))) ∧
    (∀ x t c, s.node id = some x → s.treeSet x.ctx x.handle = some t → x.place = .coreRick c → x.since + 64 ≤ s.clk →
      s.goalHome t x = none →
      (s.rickNodes (.waiting (s.goalSlice t x)) = [] →
        exec (.coreRickTimeout id) s = .next (s.updFly fun f => { f with
          nodes := (f.nodes.filter fun y => y.id ≠ x.id) ++ [{ x with
            place := .toSlice (s.goalSlice t x), since := s.clk }] })) ∧
      (s.rickNodes (.waiting (s.goalSlice t x)) ≠ [] → exec (.coreRickTimeout id) s = .next s)) ∧
    (∀ x t port d, s.node id = some x → s.treeSet x.ctx x.handle = some t → x.place = .portRick port →
      x.since + 256 ≤ s.clk → s.goalHome t x = some d →
      (d.1.getLsbD 37 = false → ∃ u, exec (.portRickTimeout id) s = .next u ∧ (∀ y ∈ u.fly.nodes, y.id ≠ x.id) ∧
        u.fabric.out = s.fabric.out) ∧
      (d.1.getLsbD 37 = true → ∃ u, exec (.portRickTimeout id) s = .next u ∧ (u.fly.nodes = s.fly.nodes.filter fun y => y.id ≠ x.id) ∧
        ∃ o ∈ u.fabric.out, o.dev = d.2 ∧ o.token = d.1 ∧ o.ctx = x.ctx ∧
          o.op = .node x.handle x.elem (x.epoch % 256) x.leaves x.op x.level x.index x.value)) ∧
    (∀ x k, s.node id = some x → x.place = .waiting k → x.since + 1000000 * wallNs ≤ s.wall →
      (s.treeSet x.ctx x.handle).bind (fun t => s.nodeHome t t.top 0) = none →
      (s.elemState x.ctx x.handle x.elem x.epoch).1 = 2 →
      ∃ u, exec (.nodeWaitTimeout id) s = .next u ∧
        u.elemState x.ctx x.handle x.elem x.epoch = (1, 2) ∧
        (∀ y ∈ u.fly.nodes, sameElem x y = true → y.origin.isSome = true ∨ y.drain = true) ∧
        ∀ j pc, x.origin = some (j, pc) → ∃ o ∈ u.fly.ops, o.thread = j ∧ o.kind = .done .ct (some ⟨10, 0x0B02, 0, 0, pc⟩))

/-- Standing loads. The home of a line answers a request with a subscription, and the fill carries the line and the write
counter; the fill ends the request; a write's push goes to every subscriber whose fill is older; the oldest push of its slot lands; an
UNSUB's message is answered behind every push on its way, and that acknowledgement leaves the slot idle; and a grant that has run out, or a device that pushes have not reached for 2 ms, ends the
subscription (R341 to R345). -/
def Obligations.StandingLoadsAreServed : Prop :=
  ∀ (s : State) (id line dev : Nat),
    let quiet := fun (p : Push) => ∀ o ∈ s.fly.ops, ∀ a bs shown counted, o.kind = .store (.spad a) bs shown counted →
      meets a bs.length (s.slotAddr p.team p.slot 0) 576 = false
    let old := fun (p : Push) => p.since + 2000000 * wallNs ≤ s.wall
    (∀ d bs, line < 2 ^ 60 → s.fly.dirty.find? (fun d => d.line == line) = some d →
      s.readPhys (line * 128) 128 = some bs →
      ∃ t, exec (.pushSend line) s = .next t ∧ (∀ y ∈ t.fly.dirty, y.line ≠ line) ∧
        (∀ x ∈ s.fly.subs, x.line = line → newerSeq d.seq x.start = true → ∃ p ∈ t.fly.pushes, p.sub = x.id ∧ p.team = x.team ∧ p.slot = x.slot ∧
          p.dev = x.dev ∧ p.body = .data d.seq bs)) ∧
    (∀ p, s.pushAt id = some p → p.body = .unsub → (∀ r ∈ s.fly.reads, r.who ≠ .unsub p.id) →
      exec (.unsubAckLands id) s = .next (((s.dropPush p).dropSub fun x => x.id == p.sub).updFly fun f =>
        { f with pushes := f.pushes ++ [{ p with body := .ack, err := none }] })) ∧
    (∀ p, s.pushAt id = some p → s.firstPush p = true → s.pushDropped p = false → p.dev = none →
      (∀ z ∈ s.fly.parkedSlots, ¬ (z.team = p.team ∧ z.slot = p.slot)) →
      (∀ q bs, p.body = .data q bs → quiet p →
        exec (.pushLands id) s = .next (let t := s.dropPush p
          if (s.slot p.team p.slot).state = 2 ∨ (s.slot p.team p.slot).state = 4 then t.landPush p.team p.slot q bs else t)) ∧
      (∀ state cause, p.body = .final state cause →
        exec (.pushLands id) s = .next ((s.dropPush p).updSlot p.team p.slot fun x => { x with state := state, cause := cause })) ∧
      (∀ q bs state j, p.body = .fill q bs state → p.thread = some j → p.err = none → quiet p →
        exec (.sloadFillLands id) s = .next ((((s.dropPush p).landPush p.team p.slot q bs).updSlot p.team p.slot
          fun x => { x with state := state }).updThr j fun x => x.decCtr .gx p.id)) ∧
      (∀ j, p.body = .ack → p.thread = some j → p.err = none →
        exec (.unsubAckLands id) s = .next (((s.dropPush p).updSlot p.team p.slot
          fun x => { x with state := 0 }).updThr j fun x => x.decCtr .st p.id))) ∧
    (∀ r pa bs, s.fly.reqs.find? (fun r => r.id == id && r.answer.isNone) = some r → r.line = .mem pa →
      s.readPhys pa 128 = some bs →
      ∃ t, exec (.sloadAnswer id) s = .next t ∧
        (∃ p ∈ t.fly.pushes, p.team = r.team ∧ p.slot = r.slot ∧ p.thread = some r.thread ∧ p.err = none ∧
          p.body = .fill (s.lineSeq (pa / 128)) bs (if s.tableFull (pa / 128) then 3 else 2)) ∧
        (∃ x ∈ t.fly.reqs, x.id = r.id ∧ x.answer = some (!s.tableFull (pa / 128))) ∧
        (s.tableFull (pa / 128) = false → ∃ x ∈ t.fly.subs, x.line = pa / 128 ∧ x.team = r.team ∧ x.slot = r.slot)) ∧
    (∀ x, s.fly.subs.find? (fun x => x.id == id) = some x → x.dev.isSome = true → s.tokenExpired x.token = true →
      ∃ t, exec (.subscriptionGrantExpiry id) s = .next t ∧ (∀ y ∈ t.fly.subs, y.id ≠ x.id) ∧
        ∃ p ∈ t.fly.pushes, p.sub = x.id ∧ p.body = .final 5 2) ∧
    ((∀ p ∈ s.fly.pushes, ¬ old p) → exec (.pushUndeliverable dev) s = .next s) ∧
    ((∀ x ∈ s.fly.subs, s.subHome x ≠ some dev) → (∃ p ∈ s.fly.pushes, p.dev = some dev ∧ old p) →
      exec (.pushUndeliverable dev) s = .next (s.updFly fun f => { f with
        subs := f.subs.filter (fun x => x.dev ≠ some dev), pushes := f.pushes.filter fun p => p.dev ≠ some dev })) ∧
    (∀ x, x ∈ s.fly.subs → s.subHome x = some dev → (∀ y ∈ s.fly.subs, y ≠ x → s.subHome y ≠ some dev) → s.fly.subs.Nodup →
      s.fly.parkedSlots = [] → (∀ p ∈ s.fly.pushes, p.sub ≠ x.id) → (s.slot x.team x.slot).state ≠ 1 →
      (∃ p ∈ s.fly.pushes, p.dev = some dev ∧ old p) →
      exec (.pushUndeliverable dev) s = .next (((s.updFly fun f => { f with
        subs := f.subs.filter (fun y => y.dev ≠ some dev ∧ s.subHome y ≠ some dev),
        pushes := f.pushes.filter fun p => p.dev ≠ some dev }).updSlot x.team x.slot
          fun y => { y with state := 5, cause := 3 }).fq12 x.ctx 6 0 0)) ∧
    (∀ x p q bs st, x ∈ s.fly.subs → s.subHome x = some dev → p ∈ s.fly.pushes → p.sub = x.id → p.dev = none →
      p.body = .fill q bs st → (∃ z ∈ s.fly.pushes, (z.dev = some dev ∨ z.sub = x.id) ∧ old z) →
      ∃ t, exec (.pushUndeliverable dev) s = .next t ∧ { p with body := .bad 5 3 } ∈ t.fly.pushes ∧
        ∀ y ∈ t.fly.subs, s.subHome y ≠ some dev)

/-! The dispatcher, pre-emption and the control queue (file 20). -/

/-- Queues and launches. A tail is read where it stands; the next record of a ready queue is copied, HEAD follows in memory,
and its launch is in flight or refused; the team that comes next is placed where it first fits; a launch whose teams have
all retired and whose work is done leaves with its stamp, and the bytes of its dead ranges may read as values they had from then on (R373 to R375,
R378, R379, R381 to R384). -/
def Obligations.LaunchesRunThroughTheDispatcher : Prop :=
  ∀ (s : State) (c q l : Nat),
    let k := s.queue c q
    let x := s.launch l
    (∀ bs, k.enabled = true → s.vread (s.ctx c) k.tailAt.toNat 8 = .ok bs →
      k.head ≤ bytesVal bs → bytesVal bs ≤ k.head + 2 ^ k.log2n →
      (k.watched.isSome = true → exec (.queueTailNotify c q) s =
        .next (s.updQueue c q fun y => { y with tail := bytesVal bs })) ∧
      (k.watched = none → exec (.queueTailPoll c q) s =
        .next (s.updQueue c q fun y => { y with tail := bytesVal bs }))) ∧
    (∀ bs t, s.copyNext = some (64 * c + q) → (s.launches.filter fun x => !x.finished).length < 512 →
      s.vread (s.ctx c) (k.ring.toNat + 512 * (k.head % 2 ^ k.log2n)) 512 = .ok bs →
      s.vwrite (s.ctx c) k.headAt.toNat (valBytes 8 (k.head + 1)) = some t →
      ∃ u, exec (.launchRecordCopy c q) s = .next u ∧ u.copyTurn = (64 * c + q + 1) % 4096 ∧ u.launches.length = t.launches.length + 1 ∧
        ∃ y, u.launches[t.launches.length]? = some y ∧ y.ctx = c ∧ y.queue = q ∧ y.index = k.head ∧
          (y.finished = false → y.record = launchRecOf bs)) ∧
    (∀ z, s.placesNext l = true → s.spot l = some z →
      (x.begun = true → exec (.teamPlace l) s = .next (s.placeTeam l z)) ∧
      (∀ t, x.begun = false → s.beginTrees (s.ctx x.ctx) l (dedup x.record.trees) = some t →
        exec (.teamPlace l) s = .next ((t.updLaunch l fun y => { y with begun := true, began := t.sto.writes }).placeTeam l z)) ∧
      (x.begun = false → s.beginTrees (s.ctx x.ctx) l (dedup x.record.trees) = none →
        exec (.teamPlace l) s = .next (s.refuseLaunch l 3))) ∧
    (x.block = none → s.waitsForRoom l = true → x.since + 1000000 * wallNs ≤ s.wall → l < s.launches.length →
      (∃ cl < 24, s.clusterOpen l cl = true) →
      ∃ t, exec (.placementStarvation l) s = .next t ∧ ∃ cl, (t.launch l).block = some cl ∧ s.clusterOpen l cl = true) ∧
    (let all := fun (y : Launch) => y.finished = true ∨ y.record.teams ≤ y.teams.length
     let bytes := ((x.record.ranges.filter fun r => r.pf && r.rd).map Range.len).foldl (· + ·) 0
     (∀ y ∈ s.launches.take l, all y ∨ y.ctx ≠ x.ctx ∨ x.after y = false) →
     (x.record.afterEn = false ∨
       ∃ y ∈ s.launches, y.ctx = x.ctx ∧ y.queue = x.record.afterQ ∧ y.index = x.record.afterIdx ∧ all y) →
     x.finished = false → bytes ≠ 0 →
     exec (.rangePrefetch l) s = .next (s.updLaunch l fun y => { y with prefetched := min (2 ^ 26) bytes })) ∧
    (x.finished = false → l < s.launches.length → s.allRetired l = true → s.launchBusy l = false →
      exec (.launchComplete l) s = .next ((s.closeTrees l).stampLaunch l (if x.ended then 2 else 0))) ∧
    (x.finished = true → x.record.ranges.any Range.dead = true → l < s.launches.length →
      ∃ t, exec (.deadRangeDiscard l) s = .next t ∧ (t.launch l).record.ranges.any Range.dead = false ∧
        t.sto.mem = s.sto.mem ∧ ∀ p ∈ t.sto.dead, p ∈ s.sto.dead ∨
          ∃ y ∈ s.sto.past, p.1 / 4 = y.1 ∧ (valBytes 4 y.2.1.toNat)[p.1 % 4]? = some p.2) ∧
    (x.record.kind = 1 → x.finished = false → x.ended = false → s.ordered l = true →
      (x.begun = false → exec (.weightStoreLoad l) s = .next (s.updLaunch l fun y => { y with begun := true, began := s.sto.writes })) ∧
      (∀ bs, x.begun = true → s.loadBytes l = some bs → (∀ y ∈ s.sto.past, y.2.2 < x.began) →
        exec (.weightStoreLoad l) s = .next ((x.record.wsDies.foldl (fun t d =>
          t.writeWs d ((((s.ctx x.ctx).wsreg[d]?).getD (0, 0)).1 + x.record.wsDst) bs) s).stampLaunch l 0)) ∧
      (x.begun = true → s.loadBytes l = none →
        exec (.weightStoreLoad l) s = .next ((x.record.wsDies.foldl (fun t d => t.loadDie l d none) s).stampLaunch l 1)))

/-- Pre-emption. A team that has waited 20 µs has the teams of lower priority on a cluster pre-empted, and a context whose
slice is over has its own; each thread takes its trap into the save routine; and a team that has not parked within 2 ms has
its launch ended (R384, R403, R404). -/
def Obligations.PreemptionEntersTheSaveRoutine : Prop :=
  ∀ (s : State) (l cl c k m : Nat),
    let x := s.launch l
    let only := fun (p : Launch → Bool) (m : Nat) =>
      allPos (fun (t : Team) => t.life == .placed && t.cluster == cl && p (s.launch t.launch)) s.teams = [m]
    let taken := fun (t : State) (m code : Nat) => (t.team m).life = .saving ∧ (t.team m).code = code ∧
      (t.team m).since = s.wall ∧ ∀ j < s.threads.length, s.teamOf j = m → (s.thr j).life = .live → (t.thr j).preempt = code
    (s.waitsForRoom l = true → x.since + 20000 * wallNs ≤ s.wall → s.saveEntry.isSome = true →
      (x.hit = none ∨ x.hit = some cl) → only (fun y => decide (y.record.prio < x.record.prio)) m →
      ∃ t, exec (.priorityPreempt l cl) s = .next t ∧ taken t m 1) ∧
    ((∃ j < s.launches.length, (s.launch j).ctx ≠ c ∧ s.waitsForRoom j = true) → (s.ctx c).slice ≠ 0 →
      (∀ t ∈ s.teams, t.life = .placed → t.cluster = cl → (s.launch t.launch).ctx = c →
        t.since + (s.ctx c).slice * 1000 * wallNs ≤ s.wall) →
      s.saveEntry.isSome = true → only (fun y => y.ctx == c) m →
      ∃ t, exec (.timeSliceExpiry c cl) s = .next t ∧ taken t m 2) ∧
    (∀ u n, (s.thr k).preempt ≠ 0 → (s.thr k).life = .live → (s.thr k).hmode = 0 → k < s.threads.length →
      pos (fun (y : IssueUnit) => y.live && y.lanes.any fun p => p.2 == k) s.units = some u →
      (s.unitAt u).lanes.find? (fun p => p.2 == k) = some (n, k) → (∀ p ∈ (s.unitAt u).lanes, s.teamOf p.2 = s.teamOf k) →
      (s.unitAt u).rep = none → (s.unitAt u).scope = none → (s.unitAt u).stopAsk = none →
      s.targetBad (launchAt s (n, k)) s.saveTarget = false →
      ∃ t, exec (.preemptionTrap k) s = .next t ∧ (t.thr k).hmode = 2 ∧ (t.thr k).preempt = 0 ∧
        (t.thr k).resume = resumeOf (s.unitAt u).hdr (s.unitAt u).idx ∧ StandsAt t (n, k) s.saveTarget) ∧
    (∀ w, (s.team m).life = .saving → (s.team m).trapped = some w → w + 2000000 * wallNs ≤ s.wall →
      exec (.parkTimeout m) s = .next (s.endLaunch (s.team m).launch)) ∧
    ((s.team m).trapped = none → exec (.parkTimeout m) s = .next s)

/-- The commands that make and end contexts and steer their queues and launches. A context is made of its descriptor with its
fault queue empty and its save area named; it is destroyed once nothing of it is under way; a queue starts at the HEAD that
memory holds; and a command that the spec refuses changes nothing (R372, R373, R389 to R391, R403). -/
def Obligations.ContextCommandsHaveTheirEffect : Prop :=
  ∀ (s : State) (c a0 a1 : Nat),
    let x := s.ctx c
    let exists_ := s.hasCtx c = true
    let refuses := fun (i : Instr) => exec i s = .next s
    (∀ d b ws t, c < 64 → ¬ exists_ → s.readPhys a0 128 = some d →
      s.vread (contextOf c d) (contextOf c d).dispatch.toNat 4096 = .ok b → wsRegions b = some ws →
      let y : Context := { contextOf c d with
        wsreg := ws, treeTab := BitVec.ofNat 64 (sliceVal b 2080 8), treeCount := sliceVal b 2088 4 }
      contextBad d = false → s.regionsMeet ws = false → y.treeTab.toNat % 64 = 0 → y.treeCount ≤ 2 ^ 20 →
      (b.drop 2092).all (fun n => n == 0) = true → s.firstWrites y = some t →
      exec (.create c a0) s = .next { t with ctxs := t.ctxs ++ [y] }) ∧
    (64 ≤ c ∨ exists_ → refuses (.create c a0)) ∧
    (¬ exists_ → refuses (.destroy c) ∧ refuses (.qenable c a0) ∧ refuses (.qdisable c a0) ∧
      refuses (.tlbiCommand c a0 a1) ∧ refuses (.suspend c) ∧ refuses (.resume c) ∧ refuses (.ezero c a0)) ∧
    (exists_ →
      (s.launches.all (fun l => l.ctx != c || l.finished) = true →
        (s.updCtx c fun y => { y with queues := y.queues.map fun q => { q with enabled := false, watched := none } }).ctxBusy c
          = false →
        ∃ t, exec (.destroy c) s = .next t ∧ (∀ y ∈ t.ctxs, y.num ≠ c) ∧ (∀ e ∈ t.sto.tlb, e.ctx ≠ c) ∧
          ∀ y ∈ t.fly.subs, y.ctx ≠ c) ∧
      (∀ bs h, (s.queue c (a0 % 64)).enabled = false →
        s.vread x (x.dispatch.toNat + 32 * (a0 % 64)) 32 = .ok bs → queueBad bs = false → bit (sliceVal bs 25 1) 0 = true →
        s.vread x (sliceVal bs 16 8) 8 = .ok h →
        exec (.qenable c a0) s = .next (s.updQueue c (a0 % 64) fun _ =>
          { enabled := true, ring := BitVec.ofNat 64 (sliceVal bs 0 8), tailAt := BitVec.ofNat 64 (sliceVal bs 8 8),
            headAt := BitVec.ofNat 64 (sliceVal bs 16 8), log2n := sliceVal bs 24 1, vec := sliceVal bs 26 2,
            head := bytesVal h, tail := bytesVal h, watched := s.watchLine x (sliceVal bs 8 8) })) ∧
      exec (.qdisable c a0) s = .next (s.updQueue c (a0 % 64) fun q => { q with enabled := false, watched := none }) ∧
      (let range := tlbiRange (a1 % 4 == 1) a0 (bits a1 8 3);
        a1 % 4 < 2 → (a1 % 4 = 1 → bits a1 8 3 ≤ 4) → s.usesRange c range = false →
        ∃ t, exec (.tlbiCommand c a0 a1) s = .next t ∧ ∀ e ∈ t.sto.tlb, e.ctx = c →
          (e.page + e.pages) * 4096 ≤ range.1 ∨ range.1 + range.2 ≤ e.page * 4096) ∧
      (s.saveEntry.isSome = true → (∀ t ∈ s.teams, (s.launch t.launch).ctx = c → t.life ≠ .placed) →
        exec (.suspend c) s = .next (s.updCtx c fun y => { y with suspended := true })) ∧
      (s.saveEntry = none → refuses (.suspend c)) ∧
      exec (.resume c) s = .next (s.updCtx c fun y => { y with suspended := false }) ∧
      (s.physOk a0 8 = true → exec (.ezero c a0) s =
        .next (((s.writePhys a0 (valBytes 8 x.energyImage)).updCtx c fun y =>
          { y with energy := 0, sat := false, partials := [] }).writeEnergy c fun _ => true)) ∧
      (s.physOk a0 8 = false → refuses (.ezero c a0))) ∧
    (∀ l, s.flying c (a0 % 64) a1 = some l → exec (.endlaunch c a0 a1) s = .next (s.endLaunch l)) ∧
    (s.flying c (a0 % 64) a1 = none → refuses (.endlaunch c a0 a1))

/-- The commands of the device, of debugging and of the control queue. SETSAVE sets the save routine's entry, PLIMIT the power
limit within its range; DEBUG puts a descriptor in force or ends it; STOP asks every unit of a launch to stop and CONT releases
them; a dump begins with its cut, is complete once its thread state is written, and ends with DUMPEND; ATTEST writes a report; and the control queue performs the next command
and stamps it (R390, R391, R439 to R444, R453, R485, R486). -/
def Obligations.DeviceCommandsHaveTheirEffect : Prop :=
  ∀ (s : State) (c a0 a1 : Nat),
    (a0 % 4 = 0 → a0 < 2 ^ 57 → (∀ t ∈ s.teams, t.life ≠ .saving ∧ t.life ≠ .parked) →
      exec (.setsave a0) s = .next { s with saveEntry := if a0 = 0 then none else some (BitVec.ofNat 64 a0) }) ∧
    exec (.plimit a0) s = .next (if 1600 ≤ a0 ∧ a0 ≤ 3200 then { s with fw := { s.fw with limit := a0 } } else s) ∧
    (s.hasCtx c = true →
      exec (.debugCmd c 0) s = .next ((s.endTrace c).updCtx c fun x => { x with debug := none }) ∧
      ∀ bs, a0 ≠ 0 → a0 % 256 = 0 → s.readPhys a0 256 = some bs → s.debugBad bs = false →
        exec (.debugCmd c a0) s = .next ((s.endTrace c).updCtx c fun x => { x with debug := some (debugOf bs) })) ∧
    (∀ l, s.flying c (a0 % 64) a1 = some l →
      ∃ t, exec (.stop c a0 a1) s = .next t ∧ (∀ u ∈ t.units, u.live = true → s.launchOfGroup u.group = l →
        (s.team (s.grp u.group).team).life ≠ .saving → (s.team (s.grp u.group).team).life ≠ .parked →
        u.stopped = true ∨ u.stopAsk.isSome = true) ∧
        (∀ k < s.threads.length, s.launchOfGroup (s.thr k).group = l → (s.thr k).life ≠ .exited →
          ((s.team (s.teamOf k)).life = .saving ∨ (s.team (s.teamOf k)).life = .parked) → (t.thr k).stopped = true) ∧
        (∀ f ∈ s.folds, s.launchOfGroup f.group = l → ∀ k ∈ f.threads, k < s.threads.length →
          (t.thr k).stopped = true ∨ (t.thr k).ask.isSome = true) ∧
        t.sto = s.sto ∧ t.folds = s.folds) ∧
    (∀ l, s.flying c (a0 % 64) (a1 % 2 ^ 63) = some l → l < s.launches.length →
      ∃ t, exec (.cont c a0 a1) s = .next t ∧ ∀ k < s.units.length, (s.grp (s.unitAt k).group).team ∈ (s.launch l).teams →
        (s.unitAt k).stopped = true → (t.unitAt k).stopped = false ∧ (t.unitAt k).stepping = bit a1 63) ∧
    (∀ d, (s.ctx c).dump = some d → exec (.dumpend c) s = .next (s.updCtx c fun x => { x with dump := none })) ∧
    (s.feature 4 = true → s.hasCtx c = true → s.saveEntry.isSome = true → (s.ctx c).dump = none → a0 % 4096 = 0 →
      64 ≤ bits a1 0 40 → s.physOk a0 (bits a1 0 40) = true →
      let t := (s.flyingOf c).foldl State.stopLaunch s
      (t.still c = false → exec (.dump c a0 a1) s = .next t) ∧
      (t.still c = true → exec (.dump c a0 a1) s = .next (t.cutDump c a0 (bits a1 0 40)))) ∧
    (∀ d, s.hasCtx c = true → (s.ctx c).dump = some d →
      (d.complete = true → exec (.dump c a0 a1) s = .next s) ∧
      (d.complete = false →
        let t := (s.updCtx c fun x => { x with dump := x.dump.map fun y => { y with complete := true } }).dumpHeader c
        exec (.dump c a0 a1) s = .next (if bit a1 40 then (t.flyingOf c).foldl (fun t l => t.contLaunch l false) t else t))) ∧
    (∀ nonce, s.health.draining = false → s.readPhys a0 64 = some nonce → s.feature 6 = true → a1 % 4096 = 0 →
      s.physOk a0 64 = true → s.physOk a1 8192 = true →
      exec (.attest a0 a1) s = .next (s.writePhys a1 (s.report nonce)) ∧
      (s.report nonce).length = 8192) ∧
    (∀ bs, s.nextCommand = some bs → (bs.drop 32).all (fun b => b == 0) = true →
      let e := s.command (sliceVal bs 0 4) (sliceVal bs 4 4) (sliceVal bs 8 8) (sliceVal bs 16 8)
      (∀ t, e = .done t → exec .controlQueueNotify s = .next (t.stampCommand (sliceVal bs 24 8) 0)) ∧
      (e = .refused → exec .controlQueueNotify s = .next (s.stampCommand (sliceVal bs 24 8) 1)) ∧
      (∀ t, e = .wait t → exec .controlQueueNotify s = .next t)) ∧
    (∀ d, (s.ctx c).debug = some d → d.open_ = true → d.flushed ≠ d.written + d.pos →
      exec (.traceWrittenFlush c) s = .next ((s.writePhys d.ptrs (valBytes 8 (d.written + d.pos))).setDebug c
        { d with flushed := d.written + d.pos }))

/-! The host interface (file 23). -/

/-- The control registers and device memory as the host writes and reads them. FACCEPT can be written until COMMIT, which takes
it when it names offered features only, feature 0 among them, with a message on vector 0 (the model's reading of R437, log 47); the pod
number is written once; the key generation counts; an
image is staged piece by piece and its verification's outcome shows in RCVCTL; and a host read returns the bytes of memory, all
ones beyond it, or those of a register (that addresses from 2^40 on stand for BAR 0 is the model's, log 29; R421, R434 to R437,
R481 to R483). -/
def Obligations.HostWritesAndReads : Prop :=
  ∀ (s : State) (x : Dword) (off a n : Nat) (bs : List Byte),
    let b := s.bar0
    let k := if s.fw.inUse = 0 then 1 else 0
    let image := ((s.fw.slots[k]?).getD {}).image
    (off % 8 = 0 → off < 2 ^ 32 →
      exec (.registerWrite off x) s = .next (
        if off < 0x20 then s
        else if off < 0x40 then
          (if b.committed then s
          else { s with bar0 := { b with
            faccept := BitVec.ofNat 256 (setBits b.faccept.toNat (8 * (off - 0x20)) 64 x.toNat) } })
        else if off = 0x48 then { s with bar0 := { b with cqRing := BitVec.ofNat 64 (setBits b.cqRing.toNat 0 64 x.toNat) } }
        else if off = 0x50 then { s with bar0 := { b with cqTail := BitVec.ofNat 64 (setBits b.cqTail.toNat 0 64 x.toNat) } }
        else if off < 2 ^ 20 then s
        else s.writeMsix (off - 2 ^ 20) 8 x)) ∧
    (b.committed = false → b.faccept.getLsbD 0 = true → b.faccept &&& ~~~b.foffer = 0 →
      exec .fctlCommit s = .next (State.sendMsi { s with bar0 := { b with committed := true, ferr := false } } 0)) ∧
    (b.committed = false → (b.faccept.getLsbD 0 = false ∨ b.faccept &&& ~~~b.foffer ≠ 0) →
      exec .fctlCommit s = .next { s with bar0 := { b with ferr := true } }) ∧
    (exec (.cqctlWrite x) s = .next { s with bar0 := { b with cqCtl := BitVec.ofNat 64 (bits x.toNat 0 9) } }) ∧
    (b.committed = true → b.podnum = none →
      exec (.podnumWrite x) s = .next { s with bar0 := { b with podnum := some (x.setWidth 12) } }) ∧
    (b.podnum ≠ none → exec (.podnumWrite x) s = .next s) ∧
    (exec .gkgenAdvance s = .next { s with bar0 := { b with gkgen := b.gkgen + 1 } }) ∧
    (b.rcvBusy = false →
      (exec .rcvctlStart s = .next { s with
        bar0 := { b with rcvFail := false, rcvOpen := true },
        fw := { s.fw with slots := upd s.fw.slots k fun _ => { gen := 0, image := [] } } }) ∧
      (exec .rcvctlDone s = .next { s with bar0 := { b with rcvBusy := true, rcvOpen := false } })) ∧
    (b.rcvOpen = true → image.length + 8 ≤ 2 ^ 28 →
      exec (.rcvdataWrite x) s = .next { s with
        fw := { s.fw with slots := upd s.fw.slots k fun y => { y with image := y.image ++ valBytes 8 x.toNat } } }) ∧
    (b.rcvOpen = false ∨ 2 ^ 28 < image.length + 8 →
      exec (.rcvdataWrite x) s = .next { s with bar0 := { b with rcvFail := true } }) ∧
    (b.rcvBusy = true →
      let whole := image.take (2608 + sliceVal image 8 8 + 4627)
      ∃ t, exec .firmwareVerifyDone s = .next t ∧ t.bar0.rcvBusy = false ∧
        (imagePasses whole s.fw.rollback = true → image.length < whole.length + 8 → k < s.fw.slots.length →
          t.bar0.rcvFail = false ∧
          ((t.fw.slots[k]?).getD {}).gen = ((s.fw.slots[s.fw.inUse]?).getD {}).gen + 1) ∧
        (imagePasses whole s.fw.rollback = false → t.bar0.rcvFail = true)) ∧
    (b.booted = true → 2 ^ 20 ≤ a → bs ≠ [] → a + bs.length ≤ s.capacity - 2 ^ 32 →
      exec (.hostWrite a bs) s = .next (s.writePhys a bs)) ∧
    (b.booted = true → a < 2 ^ 40 → a + n ≤ s.capacity - 2 ^ 32 → s.memBad a n = false →
      exec (.hostRead a n) s = .next { s with hostReads := s.hostReads ++ [⟨a, some (s.memBytes a n)⟩] }) ∧
    (s.capacity - 2 ^ 32 ≤ a → a < 2 ^ 40 →
      exec (.hostRead a n) s = .next { s with hostReads := s.hostReads ++ [⟨a, some (List.replicate n 0xFF)⟩] }) ∧
    (off < 2 ^ 20 → (n = 4 ∨ n = 8) → off % n = 0 →
      exec (.hostRead (2 ^ 40 + off) n) s = .next { s with hostReads := s.hostReads ++
        [⟨2 ^ 40 + off, some (((valBytes 8 (s.readRegister (off / 8 * 8)).toNat).drop (off % 8)).take n)⟩] }) ∧
    (s.readRegister 0x50 = b.cqTail ∧ s.readRegister 0x58 = b.cqCtl ∧ s.readRegister 0x60 = (b.podnum.getD 0).setWidth 64 ∧
      s.readRegister 0x38 = b.faccept.extractLsb' 192 64)

/-! The fabric (file 22). -/

/-- The fabric. A sequenced request of the target's incarnation that is new, admitted by its grant and in order is performed
once and answered; a repeated one is answered from the record without being performed; one of another incarnation is told so;
an answer lands where its request waits; a request without an answer is sent again by another way, and given up after 2 ms; a relay
stages what passes through its row and column; rotors, relays and links keep their tables (R421 to R429, R432, R478). -/
def Obligations.FabricServesRequests : Prop :=
  ∀ (s : State) (q : RemoteReq) (ack : RemoteAck) (f : Flit) (id n : Nat),
    let old := s.sourceOf q
    let answer := fun (t : State) (k : AckKind) =>
      { t with fabric := { t.fabric with acks := t.fabric.acks ++ [⟨q.seq, t.fabric.incarnation, k⟩] } }
    (s.fabricOn = true → (∀ b ∈ s.fabric.blocked, b.1 ≠ q.dev) →
      (sequenced q.op = true → q.tinc ≠ s.fabric.incarnation →
        exec (.remoteRequestIngress q) s = .next (answer s .reset)) ∧
      (sequenced q.op = true → q.tinc = s.fabric.incarnation → old.inc = q.sinc → old.high < q.seq + 4096 →
        q.seq ∈ old.done →
        exec (.remoteRequestIngress q) s = .next (answer s (.done ((look old.olds q.seq).getD 0)))) ∧
      (∀ base t k, sequenced q.op = true → q.tinc = s.fabric.incarnation → old.inc = q.sinc → old.high < q.seq + 4096 →
        q.seq ∉ old.done → s.hasCtx q.tctx = true → s.macOk q.tctx q.token.toNat = true →
        s.admitBase (s.ctx q.tctx) q.token.toNat q.op = some base →
        (s.afresh q).performRemote (s.ctx q.tctx) q.dev q.sctx base q.token q.op = (t, k) →
        ∃ u, exec (.remoteRequestIngress q) s = .next u ∧ u.sto = t.sto ∧
          (∃ y ∈ u.fabric.acks, y.id = q.seq ∧ y.kind = k) ∧
          (∀ v, k = .done v →
            ∃ x ∈ u.fabric.sources, x.dev = q.dev ∧ x.ctx = q.sctx ∧ q.seq ≤ x.high ∧ q.seq ∈ x.done) ∧
          ((∀ v, k ≠ .done v) → u.fabric.sources = t.fabric.sources)) ∧
      (∀ base t k, sequenced q.op = false → s.hasCtx q.tctx = true → s.macOk q.tctx q.token.toNat = true →
        s.admitBase (s.ctx q.tctx) q.token.toNat q.op = some base →
        s.performRemote (s.ctx q.tctx) q.dev q.sctx base q.token q.op = (t, k) →
        exec (.remoteRequestIngress q) s = .next (answer t k))) ∧
    (∀ o, s.request ack.id = some o → s.requestHeld o = false → (∀ b ∈ s.fabric.blocked, b.1 ≠ o.dev) →
      exec (.remoteAckArrival ack) s = .next (State.endRequest
        { s with fabric := { s.fabric with targetIncs := put s.fabric.targetIncs o.dev ack.inc } } o
        (match ack.kind with
          | .done v => .ok (valBytes 8 (s.statAnswer o v.toNat))
          | .data bs => .ok bs
          | .refused => .error (5, 5)
          | .bad => .error (5, 6)
          | .reset => .error (10, 0x0B03)))) ∧
    (∀ o, s.request id = some o → s.requestHeld o = false →
      (o.since + retryAt o.tries ≤ s.wall → exec (.remoteRetransmit id) s = .next { s with fabric := { s.fabric with
        out := s.fabric.out.map fun y => if y.id = id then
          { y with tries := y.tries + 1, way := s.wayFor o.dev (some o.way) } else y } }) ∧
      (∀ w, s.fabricOn = true → w = s.wayFor o.dev (some o.way) → s.ways o.dev true ≠ [] → (∃ z ∈ s.ways o.dev true, z ≠ o.way) →
        w ≠ o.way ∧ w ∈ s.ways o.dev true) ∧
      (o.since + 2000000 * wallNs ≤ s.wall →
        exec (.remoteGiveUp id) s = .next (s.endRequest o (.error (10, 0x0B03))))) ∧
    (s.feature 2 = true → s.bar0.podnum ≠ none →
      (s.bar0.fabricUp = true → exec .fabricLinkUp s = .next s) ∧
      (s.bar0.fabricUp = false →
        exec .fabricLinkUp s = .next (State.sendMsi { s with bar0 := { s.bar0 with fabricUp := true } } 0))) ∧
    ((s.fabric.dwell + 1) * 1050 * wallNs ≤ s.wall →
      ∃ t, exec .rotorDwell s = .next t ∧ t.fabric.dwell = s.fabric.dwell + 1 ∧
        (∀ y ∈ t.fabric.staged, y ∈ s.fabric.staged) ∧
        ∀ y ∈ s.fabric.staged, (s.meetsDevice (s.fabric.dwell + 1) y.2.dst = false ∨ y.1 + 1500000 * wallNs ≤ s.wall) →
          y ∈ t.fabric.staged) ∧
    (s.fabricOn = true → f.dst ≠ s.pod → f.src ≠ s.pod → (∀ b ∈ s.fabric.blocked, b.1 ≠ f.src) →
      (s.pod = f.src / 64 * 64 + f.dst % 64 ∨ s.pod = f.dst / 64 * 64 + f.src % 64) →
      f.src / 64 ≠ f.dst / 64 → f.src % 64 ≠ f.dst % 64 → s.fabric.staged.length < (96 * 2 ^ 20 + 2 ^ 32) / 256 →
      ((∀ y ∈ s.fabric.staged, y.2.dst = f.dst → pairRequests y.2.req f.req = none) →
        exec (.relayStage f) s = .next { s with fabric := { s.fabric with staged := s.fabric.staged ++ [(s.wall, f)] } }) ∧
      ∃ t, exec (.relayStage f) s = .next t ∧
        (t.fabric.staged = s.fabric.staged ++ [(s.wall, f)] ∨
          ∃ i y q, s.fabric.staged[i]? = some y ∧ pairRequests y.2.req f.req = some q ∧
            t.fabric.staged = upd s.fabric.staged i fun x => (x.1, { y.2 with req := q }))) ∧
    (∀ y, s.fabric.staged[n]? = some y → y.1 + 1500000 * wallNs ≤ s.wall →
      exec (.relayDiscard n) s = .next { s with fabric := { s.fabric with
        staged := s.fabric.staged.take n ++ s.fabric.staged.drop (n + 1) } }) ∧
    (∃ t, exec (.ingressBlockEnd n) s = .next t ∧ (∀ y ∈ t.fabric.blocked, y ∈ s.fabric.blocked) ∧
      ∀ y ∈ t.fabric.blocked, y.1 = n → s.wall < y.2 + 1000000000 * wallNs) ∧
    (s.fabricOn = true → n < 128 →
      ∃ t, exec (.flitCrcRetry n) s = .next t ∧ t.fabric.resent = s.fabric.resent + 1 ∧ t.sto = s.sto) ∧
    (∀ w < 68, n < 128 → (n, w) ∉ s.health.waves →
      ∃ t, exec (.wavelengthReplace n w) s = .next t ∧ t.health.waves = s.health.waves ++ [(n, w)] ∧
        (68 - ((s.health.waves ++ [(n, w)]).filter fun y => y.1 == n).length < 48 → n / 2 ∈ t.fabric.rotorsOut) ∧
        (48 ≤ 68 - ((s.health.waves ++ [(n, w)]).filter fun y => y.1 == n).length → t.fabric = s.fabric))

/-! Faults of the module, reset, power and clocks (files 10, 24 to 26). -/

/-- Faults, repair and reset. A fenced core leaves service and its L1 is empty; a fenced slice's homes have a stand-in; a marked
channel waits for a repair point, which ends once no team holds slots; a reset starts the machine again with what lasts, with
the incarnation one higher, no context and the counters zero; and a thermal trip ends every launch (R6, R428, R467, R469, R471,
R472, R474, R477, R481, R488). -/
def Obligations.FaultsAndResetsHaveTheirEffect : Prop :=
  ∀ (s : State) (core slice chan : Nat),
    let starts := fun (t : State) => t.clk = 0 ∧ t.wall = 0 ∧ t.ctxs = [] ∧ t.launches = [] ∧ t.teams = [] ∧ t.groups = [] ∧
      t.threads = [] ∧ t.units = [] ∧ t.folds = [] ∧ t.saveEntry = none ∧ t.bar0.committed = false ∧ t.bar0.podnum = none ∧
      t.fabric.incarnation = (s.fabric.incarnation + 1) % 2 ^ 16 ∧ s.fw.rollback ≤ t.fw.rollback
    (core < 144 → s.health.fencedCores.contains core = false →
      (∃ t, exec (.coreFence core) s = .next t ∧ ∀ v ∈ t.sto.visitors, v.core ≠ core) ∧
      ((∀ m ∈ s.teams, m.cores.contains core = false) → s.fly.nodes = [] →
        ∃ t, exec (.coreFence core) s = .next t ∧ t.health.fencedCores = s.health.fencedCores ++ [core] ∧
          t.health.badCores = s.health.badCores ++ [s.coreSiteOf core] ∧ t.launches = s.launches ∧ t.fly = s.fly ∧
          t.sto = { s.sto with visitors := s.sto.visitors.filter fun v => v.core ≠ core } ∧
          (t.spareCores (core / 6) ≠ [] → t.health.repair.isSome = true))) ∧
    (∀ st, slice < 192 → look s.health.fencedSlices slice = none → s.nextSlice slice = some st → s.linesAt slice = [] →
      (∀ x ∈ s.fly.nodes, x.place ≠ .sliceRick slice) → (∀ x ∈ s.fly.subs, s.homeOf x.line ≠ slice) →
      ∃ t, exec (.sliceFence slice) s = .next t ∧ t.standIn slice = st ∧ t.health.repair.isSome = true ∧
        t.sto.mem = s.sto.mem ∧ ∀ k, k ≠ slice → s.standIn k ≠ slice → t.standIn k = s.standIn k) ∧
    (chan < 408 → chan ∉ s.health.marked → chan ∉ s.health.goneChannels →
      ∃ t, exec (.channelRetireMark chan) s = .next t ∧ t.health.marked = s.health.marked ++ [chan] ∧
        (s.spareChannels (chan / 34) ≠ 0 → t.health.repair.isSome = true) ∧ t.sto = s.sto) ∧
    (s.health.draining = false → s.health.repair.isSome = true →
      exec .repairPoint s = .next { s with health := { s.health with draining := true, repair := some s.wall } }) ∧
    (s.health.draining = true → (∀ t ∈ s.teams, t.life ≠ .placed ∧ t.life ≠ .saving) →
      ∃ t, exec .repairPoint s = .next t ∧ t.health.draining = false ∧ t.health.repair = none) ∧
    (∀ w m, s.health.repair = some w → s.health.draining = true → w + 10000000 * wallNs ≤ s.wall →
      s.saveEntry.isSome = true → allPos (fun (t : Team) => t.life == .placed) s.teams = [m] →
      ∃ t, exec .repairPreempt s = .next t ∧ (t.team m).life = .saving ∧ (t.team m).code = 4) ∧
    (∃ t, exec .deviceReset s = .next t ∧ starts t ∧ (t.bar0.booted = true ↔ s.fw.bootSlot ≠ none) ∧
      (s.fw.bootSlot ≠ none → ∃ m, t.fw.maps.head? = some (m, true) ∧ m.gen = s.fw.mapAt.gen + 1)) ∧
    (∃ t, exec .powerLoss s = .next t ∧ starts t) ∧
    (∃ t, exec .thermalTrip s = .next t ∧ t.fw.tripped = true ∧ t.bar0.booted = false ∧ t.fly = {} ∧ t.fabric.out = [])

/-- What comes about by the clocks. A refresh slot begins with its bank group busy for 1.2 µs, and the frame has sixteen; a
change of frame waits until no team is placed on the die; the clock steps by sixteenths between 8 and 16; every 1,024 clk are
charged; and the health and power blocks are written with a count of their own (R228, R229, R451, R479, R487, R489). -/
def Obligations.ClockedEventsHaveTheirEffect : Prop :=
  ∀ (s : State) (d reason : Nat), d < s.dies.length →
    let x := s.die d
    (s.slotDue d = true →
      ∃ t, exec (.wsRefreshSlot d) s = .next t ∧ (t.die d).busy = true ∧ (t.die d).slot = (x.slot + 1) % 16 ∧
        (t.die d).origin = x.origin + (if x.hot then 2000 else 4000) * wallNs ∧
        (t.die d).frames = (if x.slot = 15 then x.frames + 1 else x.frames) ∧ t.sto = s.sto) ∧
    (x.busy = true → 1200 * wallNs ≤ s.wall - x.origin →
      exec (.wsRefreshBusyEnd d) s = .next { s with dies := upd s.dies d fun y => { y with busy := false } }) ∧
    (∃ t, exec (.wsEmergencyRefresh d) s = .next t ∧ t.sto = s.sto ∧ (t.die d).hot = x.hot ∧
      (∀ n, x.counts[9]? = some n → (t.die d).counts[9]? = some (min (2 ^ 64 - 1) (n + 1)))) ∧
    (x.wantHot = none → (x.hot = true ∨ s.feature 5 = true) →
      exec (.wsFrameKindChange d) s = .next { s with dies := upd s.dies d fun y => { y with wantHot := some (!y.hot) } }) ∧
    (∀ h, x.wantHot = some h →
      ((∀ t ∈ s.teams, t.cluster / 6 = d → t.life ≠ .placed ∧ t.life ≠ .saving) →
        exec (.wsFrameKindChange d) s = .next { s with dies := upd s.dies d fun y =>
          { y with hot := h, wantHot := none } })) ∧
    (exec (.clockThrottle reason) s = .next { s with fw := { s.fw with
      clock := max 8 (s.fw.clock - 1), slowed := s.wall, reasons := s.fw.reasons ||| 2 ^ (reason % 3) } }) ∧
    (s.fw.slowed + 10000000 * wallNs ≤ s.wall →
      exec .clockRestore s = .next { s with fw := { s.fw with clock := min 16 (s.fw.clock + 1), reasons := 0 } }) ∧
    ((s.ticks + 1) * 1024 ≤ s.clk →
      exec .energyTick s = .next { s with
        ticks := s.ticks + 1,
        ctxs := s.ctxs.map fun (c : Context) => (dedup (s.threads.map Thread.core)).foldl (fun (c : Context) k =>
          if s.tickCharge c.num k = 0 then c else c.charge k (s.tickCharge c.num k)) c }) ∧
    (s.bar0.booted = true → (∀ c ∈ s.ctxs, c.dump = none) → 8192 ≤ s.capacity → MemoryInv s →
      (∃ t, exec .healthBlockUpdate s = .next t ∧ t.health.gen = s.health.gen + 1 ∧
        (s.healthBytes.length = 1300 →
          (∀ i < 8, cellGet t.sto.mem i = ((valBytes 8 (s.health.gen + 1))[i]?).getD 0) ∧
          (∀ i < 1300, cellGet t.sto.mem (8 + i) = (s.healthBytes[i]?).getD 0) ∧
          ∀ a, 4096 ≤ a → cellGet t.sto.mem a = cellGet s.sto.mem a)) ∧
      ∃ t, exec .powerBlockUpdate s = .next t ∧ t.health.powerGen = s.health.powerGen + 1 ∧
        (∀ i < 8, cellGet t.sto.mem (4096 + i) = ((valBytes 8 (s.health.powerGen + 1))[i]?).getD 0) ∧
        ∀ a, a < 4096 ∨ 8192 ≤ a → cellGet t.sto.mem a = cellGet s.sto.mem a)

/-! The machine as a whole. -/

/-- A step runs the instruction that its unit's bytes decode to. Where no event is due and a datapath's turn comes, from the agenda
or of itself, and chooses a unit that is not to stop there, step is exec of the instruction at the unit's word, with that unit at
issue and its datapath taken for this clk; what `settle` adds is that the datapath of a word that is blocked is not. A unit
without a clause in force fetches it first: its words are the ones that fetching at the header gives, one after the other, and
its word is the first. A prefix issues with its word: it takes neither the datapath nor its turn. A word that is no instruction traps
(R63, R65, R83, R84, R387; the agenda and settle are the model's own, log 1, and the SCOPE of a resumed word is log 19). -/
def Obligations.StepRunsTheDecodedInstruction : Prop :=
  ∀ (s s1 : State) (u : Nat), s.bump.due = none →
    ((∃ path r, s.agenda = ⟨0, .turn path⟩ :: r ∧ s1 = { s.bump with agenda := r } ∧ path ∉ s.taken ∧
        s1.choose path = some u) ∨
      ((s.agenda = [] ∨ ∃ x r, s.agenda = x :: r ∧ x.dt ≠ 0) ∧ s1 = s.bump ∧ s1.nextPath.bind s1.choose = some u)) →
    let s2 : State := { s1 with cur := u }
    let l := (s2.team (s2.grp s2.unit.group).team).launch
    let at_ := fun (k : Nat) => s2.fetchWord l (wordAddr s2.unit.hdr k).toNat
    (s2.unit.stopAsk.isSome = false ∨ s2.unit.atStop = false) →
    (s2.unit.words ≠ [] → s2.unit.ready = true →
      (∀ i, s2.unit.instrAt s2.unit.idx = .ok i →
        step s = settle (exec i { s2 with
          taken := takenBy i s2.unit.path s2.taken, agenda := if isPrefix i then s.agenda else s2.agenda })) ∧
      (∀ e, s2.unit.instrAt s2.unit.idx = .error e →
        step s = .next { s2.illegalWord with taken := s2.unit.path :: s2.taken })) ∧
    (s2.unit.words = [] → s2.unit.waited = false → s2.unit.lanes ≠ [] → ∀ ws m, s2.fetchClause l s2.unit.hdr = .ok (ws, m) →
      (ws.length = 1 + bits (ws.headD 0).toNat 28 4 ∧ ∀ k < ws.length, at_ k = .ok ((ws[k]?).getD 0)) ∧
      (s2.unit.idx ≤ m → bit (ws.headD 0).toNat 8 = false →
        let hdr := bits s2.unit.hdr.toNat 0 57
        let s3 := (s2.noteTlbs (s2.ctx (s2.launch l).ctx) [hdr, hdr + 4 * (ws.length - 1)]).updUnit u fun x =>
          { x with words := ws, instrs := m, waited := true, idx := max 1 x.idx, scope := x.scope.or (scopeBefore ws x.idx) }
        ∀ i, s3.unit.ready = true → s3.unit.instrAt s3.unit.idx = .ok i →
          step s = settle (exec i { s3 with
            taken := takenBy i s3.unit.path s3.taken, agenda := if isPrefix i then s.agenda else s3.agenda })))

/-- The other steps. An event that is due comes before anything else; an agenda item performs its event, and one that names an
instruction word as an event is a fault of the agenda; with an empty agenda and no word left to try, each piece of work under way
moves once, and then the clk ends (R387; the agenda and the order of the work are the model's own, log 1). -/
def Obligations.StepPerformsEventsAndPassesTime : Prop :=
  ∀ (s : State),
    (∀ i, s.bump.due = some i → step s = settle (exec i s.bump)) ∧
    (s.bump.due = none →
      (∀ i r, s.agenda = ⟨0, .event i⟩ :: r →
        (encode i = none → step s = settle (exec i ({ s.bump with agenda := r } : State).unblocked)) ∧
        (encode i ≠ none → step s = .fault .notAnEvent)) ∧
      (s.agenda = [] → s.bump.issuePlan = none →
        (∀ i r, s.work = i :: r → step s = settle (exec i { s.bump with work := r })) ∧
        (s.work = [] → step s = .next s.bump.nextClk ∧ s.bump.nextClk.clk = s.clk + 1)))

/-- Words written out from the spec's encodings decode to the instructions that they stand for: one of each class of clauses,
with the literals behind it. -/
def Obligations.WordsDecodeAsTheSpecWritesThem : Prop :=
  decodeWord .alu 0x70101017 [] = .ok (.lea (.v 4) (.v 2) (.v 1) 3 true, []) ∧
  decodeWord .alu 0x8053F050 [0x64] = .ok (.icmp 2 .ltN (.lit 0x64) (.v 5) 0, []) ∧
  decodeWord .sys 0x00000100 [] = .ok (.srd (.v 0) 1 0, []) ∧
  decodeWord .sys 0x00300E00 [] = .ok (.srd (.v 12) 0x0E 0, []) ∧
  decodeWord .sys 0x020C0800 [] = .ok (.swr (.v 3) 8 0, []) ∧
  decodeWord .sys 0x24000000 [] = .ok (.haltThread, []) ∧
  decodeWord .sys 0x25800000 [] = .ok (.haltPark, []) ∧
  decodeWord .sys 0x26000070 [] = .ok (.mark 7 0, [])

/-- Decoding the words that an instruction encodes to gives it back, with every operand at every value, and leaves what stands
behind its literals; the word fits 32 bits, and its literal count is that of its bits (R63 to R70, R83). -/
def Obligations.DecodeEncodeRoundTrip : Prop :=
  ∀ (i : Instr) (e : Enc) (rest : List Word), i.wf = true → encode i = some e →
    e.word < 2 ^ 32 ∧ litCount e.cls e.word = e.lits.length ∧
    decodeWord e.cls e.word (e.lits ++ rest) = .ok (i, rest)

/-- Every step keeps the three memories in canonical form, whatever instruction or event it performs (log 3). -/
def Obligations.StepKeepsMemoryCanonical : Prop :=
  ∀ s t : State, MemoryInv s → step s = .next t → MemoryInv t

/-- What reset leaves, as the spec gives it: sr.clk and the slices' write counters at 0, no save-routine entry, no frame
completed, the control registers of BAR 0 at 0, no pod number, a power limit of 3,200 W, and the counts of the health and power
blocks at 0; the memories are in canonical form and the clock in its range; and without a save-routine entry the dispatcher
pre-empts no team (R228, R337, R391, R435, R449, R479, R486, R487; that no context, launch or thread exists is R6; STATUS.BOOTED
is as after a boot that has succeeded, log 6). -/
def Obligations.ResetLeavesTheSpecsValues : Prop :=
  let s := State.reset
  let b := s.bar0
  s.clk = 0 ∧ s.slices.length = 192 ∧ (∀ x ∈ s.slices, x.count = 0) ∧ s.saveEntry = none ∧
  s.dies.length = 4 ∧ (∀ d ∈ s.dies, d.frames = 0) ∧ b.faccept = 0 ∧ b.ferr = false ∧ b.committed = false ∧
  b.fabricUp = false ∧ b.cqRing = 0 ∧ b.cqTail = 0 ∧ b.cqCtl = 0 ∧ b.podnum = none ∧ b.gkgen = 0 ∧ b.rcvBusy = false ∧
  b.rcvFail = false ∧ s.fw.limit = 3200 ∧ s.health.gen = 0 ∧ s.health.powerGen = 0 ∧ s.ctxs = [] ∧ s.launches = [] ∧
  s.teams = [] ∧ s.groups = [] ∧ s.threads = [] ∧ s.units = [] ∧ MemoryInv s ∧ PowerInv s ∧
  ∀ (t : State) (l c k : Nat), t.saveEntry = none →
    exec (.priorityPreempt l c) t = .next t ∧ exec (.timeSliceExpiry k c) t = .next t

/-- The frame of the words that only compute: where such a word leaves a next state in which no thread of its unit has taken a
trap or ended, nothing has changed but its own results; every byte of memory reads as before (R14, R42, R72, R73). -/
def Obligations.ComputingWordsChangeOnlyTheirResult : Prop :=
  ∀ (s t : State) (i : Instr) (r : Result), resultOf i = some r → exec i s = .next t → UnitOk s → Untraced s →
    (∀ p ∈ s.unit.lanes, (s.thr p.2).hmode = 0 ∧ (s.thr p.2).life = .live ∧ (t.thr p.2).hmode = 0 ∧ (t.thr p.2).life = .live) →
    OnlyResult s t r

/-- What a word's operands trap on: a register outside the launch's budget, or a pair that starts at an odd one, is CLASS 1
CODE 3; a failed register gives the class and code of its failure; a misaligned load is CLASS 5 CODE 1 with its address. In a
program the thread goes on at HANDLER with the word as its resume point, and no byte of memory changes; in a handler it is a
double fault, which ends the group (R71, R86, R182, R258, R398 to R401). -/
def Obligations.OperandFaultsEnterTheHandler : Prop :=
  ∀ (s : State) (i : Instr) (f : Trap) (p : Nat × Nat), UnitOk s → Untraced s → s.unit.rep = none → s.unit.lanes = [p] →
    s.parts 0 = [p] →
    ((∃ d a b, i = .add d a b 0 ∧ [dstUse d 1 false, srcUse a 1 2, srcUse b 1 1].any
        (fun u => u.bad none (s.grp s.unit.group).budget) = true ∧ f = { cls := 1, code := 3 }) ∨
      (∃ d a b, i = .add64 d a b 0 ∧ [dstUse d 2 false, srcUse a 2 2, srcUse b 2 1].any
        (fun u => u.bad none (s.grp s.unit.group).budget) = true ∧ f = { cls := 1, code := 3 }) ∨
      (∃ d k e, i = .mov d (.v k) 0 ∧ Issues s 0 [dstUse d 1 false] ∧ k < (s.grp s.unit.group).budget ∧ k < 96 ∧
        (s.thr p.2).reg k = .failed e ∧ f = e.readTrap) ∨
      (∃ d a b t place, i = .ld d a b t false ∧ Issues s 0 [fillUse d t.words, srcUse a 2 2, srcUse b 1 1] ∧
        s.atomicDue p.2 = false ∧ s.xlate s.unitCtx (s.globVa p a b).toNat 1 = .ok place ∧
        (s.globVa p a b).toNat % memBytes t ≠ 0 ∧ f = { cls := 5, code := 1, addr := s.globVa p a b, access := 1 })) →
    ((s.thr p.2).hmode = 0 → s.targetBad (launchAt s p) (s.ctxOf p.2).handler = false →
      ∃ t, exec i s = .next t ∧ SameMemory s t ∧ t.fly = s.fly ∧ (t.thr p.2).hmode = 1 ∧
        (t.thr p.2).resume = resumeOf s.unit.hdr s.unit.idx ∧ (t.thr p.2).v = (s.thr p.2).v ∧
        StandsAt t p (s.ctxOf p.2).handler ∧
        (t.thr p.2).frec = ({ s.infoOf p.2 with
          pc := s.pc, cls := f.cls, code := f.code, addr := f.addr, access := f.access, aux := f.aux,
          rep := (s.thr p.2).repcount, resume := resumeOf s.unit.hdr s.unit.idx } : FaultInfo).words) ∧
    ((s.thr p.2).hmode ≠ 0 →
      ∃ t, exec i s = .next t ∧ ∀ k < s.threads.length, (s.thr k).group = s.unit.group → (t.thr k).life = .exited)

end
end

