-- ==== Sys2Proof/Machine/AsmForms.lean ====
section
/-!
DEFINITION. The assembly forms of the instructions (files 03, 05 to 09, 12 to 16 and 21): for each form its mnemonic, the
suffixes that it takes with the bits that each adds, and its operands in the order of the source with their places in the
word.
-/

namespace Sys2Proof.Machine

/-- How an operand of a form is written, and where it goes. `lo` is the lowest bit of its field, `k` its registers. -/
inductive AsmArg where
  /-- A register, a pair of them for k = 2. -/
  | reg (lo k : Nat)
  /-- The first of a group of registers. -/
  | group (lo k : Nat)
  /-- The first of two pairs, as CAS.n64 takes them (R264). -/
  | pairs (lo : Nat)
  /-- A source: a register, or a number that becomes literal words; with a format it may be a decimal fraction. -/
  | src (lo k : Nat) (fmt : Option FloatFmt)
  /-- The value of CONTRIB: a register, or a number of two literal words (R65, R331). -/
  | val (lo : Nat)
  /-- The address of ATOM and CAS (R262). -/
  | addr
  /-- The base of GLD and GST: an even scalar register (R260). -/
  | base
  /-- An operand header: an even scalar register (R308). -/
  | hdr
  /-- A predicate; one that `!` may invert has its invert bit at `inv`. -/
  | pred (lo : Nat)
  | predInv (lo inv : Nat)
  /-- A number in a field of `w` bits. -/
  | num (lo w : Nat) (min max : Int)
  /-- REP's count and its steps, and SCOPE's scope (R74). -/
  | count
  | steps
  | scope
  /-- A branch target (R68). -/
  | target
  /-- Convergence register, barrier, counter, accumulator, special register. -/
  | conv (lo : Nat)
  | bar (lo : Nat)
  | ctr (lo : Nat)
  | acc (res m : Nat)
  | sreg (wide : Bool)
  deriving DecidableEq, Repr

/-- Where an operand stands in brackets: not at all, first, last, or alone. -/
inductive Bracket where
  | bare | opens | closes | both
  deriving DecidableEq, Repr

/-- A form: its mnemonic; groups of suffixes, of each of which one is written, with the bits that it adds ("" is none
written); its class, the bits that are fixed, where its guard goes if it takes one, and its operands. -/
structure AsmForm where
  name : String
  sufs : List (List (String × Nat))
  cls : Cls
  base : Nat
  guard : Option Nat
  args : List (Bracket × AsmArg)
  deriving DecidableEq, Repr

/-- Suffixes with consecutive codes of a field, from `from_` on. -/
def codes (lo from_ : Nat) (l : List String) : List (String × Nat) := mapFrom (fun i n => (n, i * 2 ^ lo)) from_ l

/-- A suffix that may be left out, which stands for no bits. -/
def optional (l : List (String × Nat)) : List (String × Nat) := l ++ [("", 0)]

/-- Operands without brackets. -/
def plain (l : List AsmArg) : List (Bracket × AsmArg) := l.map fun a => (.bare, a)

/-- 0x7C in the field b, or in the field a (R69). -/
def noB : Nat := 124 * 2 ^ 4
def noA : Nat := 124 * 2 ^ 11

/-- The bits of an opcode. -/
def opBits (op : Nat) : Nat := op * 2 ^ 25

/-- A guarded form with three operands of so many registers. -/
def form3 (name : String) (sufs : List (List (String × Nat))) (c : Cls) (op kd ka kb : Nat) (f : Option FloatFmt) : AsmForm :=
  ⟨name, sufs, c, opBits op, some 0, plain [.reg 18 kd, .src 11 ka f, .src 4 kb f]⟩

/-- A guarded form with a destination and one source. -/
def form2 (name : String) (c : Cls) (op : Nat) (f : Option FloatFmt) : AsmForm :=
  ⟨name, [], c, opBits op + noB, some 0, plain [.reg 18 1, .src 11 1 f]⟩

/-- An immediate form (R112). -/
def formI (name : String) (op w : Nat) (min max : Int) : AsmForm :=
  ⟨name, [], .alu, opBits op, none, plain [.reg 18 1, .src 11 1 none, .num 0 w min max]⟩

/-! The alu class (files 05 and 07). -/

/-- A comparison that is written with its operands exchanged (R117, R128). -/
def formCmp (name : String) (sufs : List (List (String × Nat))) (c : Cls) (op k : Nat) (f : Option FloatFmt) (swap : Bool) : AsmForm :=
  ⟨name, sufs, c, opBits op, some 0,
    plain (if swap then [.pred 21, .src 4 k f, .src 11 k f] else [.pred 21, .src 11 k f, .src 4 k f])⟩

/-- The forms of file 05. -/
def aluForms : List AsmForm :=
  (["add", "sub", "mul"].zip [0x08, 0x09, 0x0A] ++ [("mad", 0x0D)] ++
    ["and", "or", "xor", "andn"].zip [0x18, 0x19, 0x1A, 0x1B] ++ ["shl", "shr", "sar", "rol"].zip [0x1D, 0x1E, 0x1F, 0x20] ++
    ["bfi", "perm"].zip [0x2E, 0x2F]).map (fun (x : String × Nat) => form3 x.1 [] .alu x.2 1 1 1 none) ++
  [("mulh", 0x0B), ("min", 0x10), ("max", 0x12), ("bfx", 0x2C)].map (fun x =>
    form3 x.1 [codes 25 0 ["i32", "n32"]] .alu x.2 1 1 1 none) ++
  [form3 "madw" [codes 25 0 ["i32", "n32"]] .alu 0x0E 2 1 1 none,
   form3 "add64" [] .alu 0x39 2 2 2 none, form3 "sub64" [] .alu 0x3A 2 2 2 none, form3 "shl64" [] .alu 0x3B 2 2 1 none] ++
  [("mov", 0x00), ("abs", 0x14), ("neg", 0x15), ("not", 0x1C), ("popc", 0x28), ("clz", 0x29), ("ctz", 0x2A),
    ("brev", 0x2B)].map (fun x => form2 x.1 .alu x.2 none) ++
  [⟨"movi", [], .alu, opBits 0x01 + noA, none, plain [.reg 18 1, .num 0 11 (-1024) 1023]⟩,
   ⟨"sel", [], .alu, opBits 0x02, none, plain [.reg 18 1, .src 11 1 none, .src 4 1 none, .pred 0]⟩,
   formI "addi" 0x30 11 (-1024) 1023, formI "andi" 0x31 11 (-1024) 1023, formI "ori" 0x32 11 0 2047,
   formI "xori" 0x33 11 0 2047, formI "shli" 0x34 5 0 31, formI "shri" 0x35 5 0 31, formI "sari" 0x36 5 0 31,
   ⟨"lea", [[("i32", 1), ("n32", 0)]], .alu, opBits 0x38, none,
     plain [.reg 18 2, .src 11 2 none, .src 4 1 none, .num 1 3 0 7]⟩,
   formCmp "icmp" [[("eq", 0), ("ne", 2 ^ 18), ("tst", 6 * 2 ^ 18), ("tz", 7 * 2 ^ 18)]] .alu 0x40 1 none false,
   formCmp "icmp" [codes 18 2 ["lt", "le"], [("i32", 0), ("n32", 2 ^ 19)]] .alu 0x40 1 none false,
   formCmp "icmp" [codes 18 2 ["gt", "ge"], [("i32", 0), ("n32", 2 ^ 19)]] .alu 0x40 1 none true] ++
  [("pand", 0x41), ("por", 0x42), ("pxor", 0x43)].map (fun x =>
    ⟨x.1, [], .alu, opBits x.2, some 0, plain [.pred 21, .predInv 17 12, .predInv 13 11]⟩) ++
  [⟨"pnot", [], .alu, opBits 0x44, some 0, plain [.pred 21, .pred 17]⟩,
   ⟨"p2v", [], .alu, opBits 0x45 + noA + noB, some 0, plain [.reg 18 1]⟩,
   ⟨"v2p", [], .alu, opBits 0x46 + 124 * 2 ^ 18, some 0, plain [.src 11 1 none, .src 4 1 none]⟩]

/-- The cross-lane forms (R148). -/
def laneForms : List AsmForm :=
  [⟨"shfl", [codes 2 0 ["idx", "up", "down", "xor"]], .alu, opBits 0x48, none,
     plain [.reg 18 1, .src 11 1 none, .src 4 1 none]⟩,
   ⟨"vote", [codes 14 0 ["all", "any", "uni"]], .alu, opBits 0x49, some 0, plain [.pred 21, .predInv 17 16]⟩,
   ⟨"ballot", [], .alu, opBits 0x4A, some 0, plain [.reg 18 2, .predInv 14 13]⟩,
   ⟨"lmatch", [], .alu, opBits 0x4B + noB, some 0, plain [.reg 18 2, .src 11 1 none]⟩,
   ⟨"lred", [[("f32", 0)]], .alu, opBits 0x4C, none, plain [.reg 18 1, .src 11 1 (some fp32), .src 4 1 none]⟩,
   ⟨"lred", [[("f64", 4)]], .alu, opBits 0x4C, none, plain [.reg 18 2, .src 11 2 (some fp64), .src 4 1 none]⟩,
   ⟨"lred", [[("smx", 8)]], .alu, opBits 0x4C, none, plain [.reg 18 2, .src 11 2 none, .src 4 1 none]⟩,
   ⟨"lred", [[("i32", 12)]], .alu, opBits 0x4C, none, plain [.reg 18 1, .src 11 1 none, .src 4 1 none]⟩]

/-! The xfn class (file 06). -/

/-- The format suffixes of R124. -/
def fmtNames : List String :=
  ["f32", "f64", "f16", "bf16", "e4m3", "e5m2", "e3m2", "e2m3", "e2m1", "e8m0", "i8", "n8", "i4", "n4", "i16", "n16"]

/-- The suffix of one format at a field. -/
def fmtSuf (lo k : Nat) : List (String × Nat) := [(fmtNames.getD k "", k * 2 ^ lo)]

/-- The registers of an operand in a format. -/
def fmtRegs (k : Nat) : Nat := if k = 1 then 2 else 1

/-- The floating-point format of a code, none for the others. -/
def fmtFloat (k : Nat) : Option FloatFmt :=
  ([fp32, fp64, fp16, bf16, e4m3, e5m2, e3m2, e2m3, e2m1] : List FloatFmt)[k]?

/-- The rounding suffix at a field (R40), and the saturation suffix. -/
def roundSuf (lo : Nat) : List (String × Nat) := optional (codes lo 0 ["rn", "rz", "rp", "rm"])
def satSuf (lo : Nat) : List (String × Nat) := optional [("sat", 2 ^ lo)]

/-- The forms of CVT, CVTI, PACK, UNPK, FCLASS (R129 to R133). -/
def convertForms : List AsmForm :=
  ((List.range 10).flatMap fun st => (List.range 9).map fun dt =>
    (⟨"cvt", [fmtSuf 7 dt, fmtSuf 3 st, roundSuf 1, satSuf 0], .xfn, opBits 0x20, none,
      plain [.reg 18 (fmtRegs dt), .src 11 (fmtRegs st) (fmtFloat st)]⟩ : AsmForm)) ++
  ((List.range 4).flatMap fun ft =>
    [(codes 5 0 ["i8", "n8", "i16", "n16", "i32", "n32"], 1), (codes 5 6 ["i64", "n64"], 2)].flatMap fun it =>
      [(⟨"cvti", [[("f2i", 0)], [(fmtNames.getD ft "", ft * 2 ^ 8)], it.1, roundSuf 3], .xfn, opBits 0x21, none,
          plain [.reg 18 it.2, .src 11 (fmtRegs ft) (fmtFloat ft)]⟩ : AsmForm),
       ⟨"cvti", [[("i2f", 2 ^ 10)], [(fmtNames.getD ft "", ft * 2 ^ 8)], it.1, roundSuf 3], .xfn, opBits 0x21, none,
          plain [.reg 18 (fmtRegs ft), .src 11 it.2 none]⟩]) ++
  [⟨"pack", [codes 7 2 ["f16", "bf16", "e4m3", "e5m2"] ++ fmtSuf 7 8, roundSuf 2, satSuf 1], .xfn, opBits 0x22, none,
     plain [.reg 18 1, .src 11 1 (some fp32), .num 4 3 0 7]⟩,
   ⟨"pack", [codes 7 10 ["i8", "n8", "i4", "n4", "i16", "n16"]], .xfn, opBits 0x22, none,
     plain [.reg 18 1, .src 11 1 none, .num 4 3 0 7]⟩,
   ⟨"unpk", [codes 7 2 (fmtNames.drop 2)], .xfn, opBits 0x23, none, plain [.reg 18 1, .src 11 1 none, .num 4 3 0 7]⟩] ++
  (List.range 5).map fun f => ⟨"fclass", [fmtSuf 7 f], .xfn, opBits 0x08, some 0, plain [.reg 18 1, .src 11 (fmtRegs f) (fmtFloat f)]⟩

/-- The forms of file 06. -/
def xfnForms : List AsmForm :=
  [("fadd", 0x00), ("fsub", 0x01), ("fmul", 0x02), ("ffma", 0x03), ("ffms", 0x04), ("fmin", 0x05), ("fmax", 0x06),
    ("amax", 0x28)].map (fun x => form3 x.1 [] .xfn x.2 1 1 1 (some fp32)) ++
  [("hadd2", 0x10), ("hmul2", 0x12), ("hfma2", 0x14)].map (fun x =>
    form3 x.1 [codes 25 0 ["f16", "bf16"]] .xfn x.2 1 1 1 none) ++
  [("dadd", 0x18), ("dmul", 0x19), ("dfma", 0x1A)].map (fun x => form3 x.1 [] .xfn x.2 2 2 2 (some fp64)) ++
  [("frcp", 0x30), ("frsq", 0x31), ("fsqrt", 0x32), ("fexp2", 0x33), ("flog2", 0x34), ("fsin", 0x35), ("fcos", 0x36),
    ("ftanh", 0x37)].map (fun x => form2 x.1 .xfn x.2 (some fp32)) ++
  [formCmp "fcmp" [codes 18 0 ["eq", "ne", "lt", "le"], [("f32", 0)]] .xfn 0x07 1 (some fp32) false,
   formCmp "fcmp" [codes 18 4 ["eq", "ne", "lt", "le"], [("f64", 0)]] .xfn 0x07 2 (some fp64) false,
   formCmp "fcmp" [codes 18 2 ["gt", "ge"], [("f32", 0)]] .xfn 0x07 1 (some fp32) true,
   formCmp "fcmp" [codes 18 6 ["gt", "ge"], [("f64", 0)]] .xfn 0x07 2 (some fp64) true] ++
  convertForms ++
  [("split6", 0x24), ("join6", 0x25)].map (fun x =>
    ⟨x.1, [], .xfn, opBits x.2, some 0, plain [.group 18 3, .group 11 3]⟩) ++
  [⟨"qzp", [[("rec", 0)], codes 2 0 ["i8", "n8", "i4", "n4"]], .xfn, opBits 0x26, none,
     plain [.reg 18 1, .src 11 1 (some fp32), .src 4 1 (some fp32)]⟩,
   ⟨"qzp", [[("q", 2)], codes 2 0 ["i8", "n8", "i4", "n4"]], .xfn, opBits 0x26, none,
     plain [.reg 18 1, .src 11 1 (some fp32), .src 4 1 none]⟩,
   ⟨"dq", [codes 2 0 ["i8", "n8", "i4", "n4"]], .xfn, opBits 0x27, none, plain [.reg 18 1, .src 11 1 none, .src 4 1 none]⟩,
   ⟨"scalex", [codes 7 4 ["e4m3", "e5m2", "e3m2", "e2m3", "e2m1"]], .xfn, opBits 0x29, some 0,
     plain [.reg 18 1, .src 11 1 (some fp32)]⟩,
   ⟨"scacc", [[("e8m0", 0), ("f16", 1)]], .xfn, opBits 0x2A, none, plain [.reg 18 1, .src 11 1 (some fp32), .src 4 1 none]⟩,
   ⟨"osmx", [], .xfn, opBits 0x38 + noB, some 0, plain [.reg 18 2, .src 11 1 (some fp32)]⟩,
   form3 "osmx" [] .xfn 0x38 2 2 2 none,
   ⟨"osmn", [], .xfn, opBits 0x39, some 0, plain [.reg 18 1, .src 11 1 (some fp32), .src 4 2 none]⟩]

/-! The mem and win classes (files 12, 15 and 16). -/

/-- A global or scratchpad address in brackets, with an offset or without (R257). -/
def addrForms (mk : Nat → List (Bracket × AsmArg) → AsmForm) (k : Nat) : List AsmForm :=
  [mk 0 [(.opens, .src 11 k none), (.closes, .src 4 1 none)], mk noB [(.both, .src 11 k none)]]

/-- The access types of loads and stores of one register (R257). -/
def loadTypes : List (String × Nat) := codes 1 0 ["n8", "i8", "n16", "i16", "b32"] ++ [("n32", 8), ("i32", 8)]
def storeTypes : List (String × Nat) :=
  [("n8", 0), ("i8", 0), ("n16", 4), ("i16", 4), ("b32", 8), ("n32", 8), ("i32", 8)]

/-- The suffixes of an access: its type, with an ordering behind it (R257) or, as in R259, before it. -/
def accessSufs (types ord : List (String × Nat)) : List (List (List (String × Nat))) :=
  if ord = [] then [[types]] else [[types], [types, ord], [ord, types]]

/-- A load of the mould of R256: its opcode, ordering suffix and the registers of its address. -/
def loadForms (name : String) (op : Nat) (ord : List (String × Nat)) (k : Nat) : List AsmForm :=
  [(loadTypes, 1), ([("n64", 10), ("i64", 10)], 2)].flatMap fun t => (accessSufs t.1 ord).flatMap fun sufs =>
    addrForms (fun n ps => ⟨name, sufs, .mem, opBits op + n, none, (.bare, .reg 18 t.2) :: ps⟩) k

/-- A store of the mould of R256. -/
def storeForms (name : String) (op : Nat) (ord : List (String × Nat)) (k : Nat) : List AsmForm :=
  [(storeTypes, 1), ([("n64", 10), ("i64", 10)], 2)].flatMap fun t => (accessSufs t.1 ord).flatMap fun sufs =>
    addrForms (fun n ps => ⟨name, sufs, .mem, opBits op + n, none, ps ++ [(.bare, .src 18 t.2 none)]⟩) k

/-- The index suffix of GLD and GST (R260). -/
def indexSuf : List (String × Nat) := optional [("i16", 0x804), ("i32", 0x800), ("n16", 4), ("n32", 0)]

/-- The forms of GLD and GST (R260). -/
def gatherForms : List AsmForm :=
  let at_ : List (Bracket × AsmArg) := [(.opens, .base), (.bare, .src 4 1 none), (.closes, .num 0 2 0 3)]
  let sizes := codes 12 0 ["n8", "n16", "b32"]
  let wide := [("n64", 3 * 2 ^ 12)]
  [⟨"gld", [sizes, indexSuf], .mem, opBits 0x05, none, (.bare, .reg 18 1) :: at_⟩,
   ⟨"gld", [wide, indexSuf], .mem, opBits 0x05, none, (.bare, .reg 18 2) :: at_⟩,
   ⟨"gld", [sizes ++ wide, [("sp", 8)], indexSuf], .mem, opBits 0x05, none, (.bare, .src 18 1 none) :: at_⟩,
   ⟨"gst", [sizes, indexSuf], .mem, opBits 0x06, none, at_ ++ [(.bare, .src 18 1 none)]⟩,
   ⟨"gst", [wide, indexSuf], .mem, opBits 0x06, none, at_ ++ [(.bare, .src 18 2 none)]⟩,
   ⟨"gst", [sizes ++ wide, [("sp", 8)], indexSuf], .mem, opBits 0x06, none, at_ ++ [(.bare, .src 18 1 none)]⟩]

/-- The forms of ATOM and CAS (R262 to R264). -/
def atomicForms : List AsmForm :=
  let ops := codes 8 0 ["add", "and", "or", "xor", "exch", "min", "max"]
  let ord := optional (codes 4 0 ["rlx", "acq", "rel", "ar"])
  let at_ : Bracket × AsmArg := (.both, .addr)
  [(codes 6 0 ["i32", "n32"], 1), (codes 6 2 ["i64", "n64"], 2)].flatMap (fun t =>
    [(⟨"atom", [ops, t.1, ord], .mem, opBits 0x08, some 0, [(.bare, .reg 18 t.2), at_]⟩ : AsmForm),
     ⟨"atom", [[("nr", 2 ^ 11)], ops, t.1, ord], .mem, opBits 0x08, some 0, [(.bare, .src 18 t.2 none), at_]⟩]) ++
  [⟨"cas", [[("b32", 0)], ord], .mem, opBits 0x09, some 0, [(.bare, .reg 18 2), at_]⟩,
   ⟨"cas", [[("n64", 2 ^ 6)], ord], .mem, opBits 0x09, some 0, [(.bare, .pairs 18), at_]⟩]

/-- The forms of the mem class. -/
def memForms : List AsmForm :=
  loadForms "ld" 0x00 [("acq", 1)] 2 ++ storeForms "st" 0x01 [("rel", 1)] 2 ++
  loadForms "lds" 0x02 [] 1 ++ storeForms "sts" 0x03 [] 1 ++ loadForms "ldw" 0x04 [] 1 ++
  gatherForms ++ atomicForms ++
  [⟨"contrib", [], .mem, opBits 0x0A, some 0, plain [.src 4 2 none, .src 18 1 none, .val 11]⟩,
   ⟨"tstat", [], .mem, opBits 0x0B, some 0, plain [.reg 18 2, .src 11 1 none, .src 4 1 none]⟩,
   ⟨"sload", [codes 20 0 ["latest", "ring4"]], .mem, opBits 0x10, some 0,
     [(.bare, .pred 21), (.both, .src 11 2 none), (.bare, .src 4 1 none)]⟩,
   ⟨"spoll", [[("b32", 0)], optional [("peek", 4)]], .mem, opBits 0x11, none,
     [(.bare, .reg 18 1), (.both, .src 11 1 none), (.bare, .src 4 1 none)]⟩,
   ⟨"spoll", [[("n64", 8)], optional [("peek", 4)]], .mem, opBits 0x11, none,
     [(.bare, .reg 18 2), (.both, .src 11 1 none), (.bare, .src 4 1 none)]⟩,
   ⟨"unsub", [], .mem, opBits 0x12, some 0, plain [.src 4 1 none]⟩,
   ⟨"fence", [codes 6 0 ["acq", "rel", "ar", "full"], codes 8 0 ["core", "clu", "die", "dev", "pod"]], .mem, opBits 0x19,
     some 0, []⟩,
   ⟨"fence", [codes 6 0 ["acq", "rel", "ar", "full"]], .mem, opBits 0x19 + 3 * 2 ^ 8, some 0, []⟩] ++
  addrForms (fun n ps => ⟨"pref", [], .mem, opBits 0x18 + 124 * 2 ^ 18 + n, none, ps⟩) 2

/-- A region-table entry. -/
def entryArg : AsmArg := .num 19 6 0 63

/-- The forms of the win class (R267). -/
def winForms : List AsmForm :=
  [⟨"wbind", [[("reg", 0)]], .win, opBits 0x00, some 0, plain [entryArg, .group 11 16]⟩,
   ⟨"wbind", [[("spad", 2 ^ 9)]], .win, opBits 0x00, some 0, plain [entryArg, .src 11 1 none]⟩,
   ⟨"wbind", [[("glob", 2 ^ 10)]], .win, opBits 0x00, some 0, plain [entryArg, .src 11 2 none]⟩,
   ⟨"wunb", [], .win, opBits 0x01, some 0, plain [entryArg]⟩,
   ⟨"touch", [], .win, opBits 0x02, some 0, plain [.pred 14, entryArg]⟩,
   ⟨"wstat", [], .win, opBits 0x03, some 0, plain [.reg 11 1, entryArg]⟩,
   ⟨"wflush", [], .win, opBits 0x04, some 0, plain [entryArg]⟩]

/-! The mtx class (file 14). -/

/-- A reservation, and an accumulator, where most words have them. -/
def resArg : AsmArg := .num 21 4 0 15
def accArg : AsmArg := .acc 21 19

/-- The forms of the mtx class (R303). -/
def mtxForms : List AsmForm :=
  let fmts := codes 16 0 ["f32", "f16", "bf16", "e4m3", "e5m2"]
  [⟨"mrsv", [], .mtx, opBits 0x00, some 0, plain [.pred 14, .reg 18 1]⟩,
   ⟨"mrel", [], .mtx, opBits 0x01, some 0, plain [resArg]⟩,
   ⟨"minit", [[("bcast", 0)]], .mtx, opBits 0x02, some 0, plain [accArg, .src 11 2 none, .src 4 1 (some fp32)]⟩,
   ⟨"minit", [[("spad", 2 ^ 18)]], .mtx, opBits 0x02, some 0, plain [accArg, .src 11 2 none, .src 4 1 none]⟩] ++
  [("mma", 0x08), ("mmas", 0x09), ("gmma", 0x0A)].map (fun x =>
    ⟨x.1, [], .mtx, opBits x.2, none, plain [.conv 21, .hdr, .reg 10 1, .reg 3 1]⟩) ++
  [⟨"mguide", [], .mtx, opBits 0x0B, some 0, plain [accArg, .reg 11 1]⟩,
   ⟨"mfin", [], .mtx, opBits 0x10, some 0, plain [accArg]⟩,
   ⟨"mdrain", [[("reg", 0)]], .mtx, opBits 0x11, some 0, plain [.group 10 16, accArg, .num 8 2 0 2, .num 6 2 0 3]⟩,
   ⟨"mdrain", [codes 17 1 ["spad", "tree"]], .mtx, opBits 0x11, some 0, plain [accArg, .reg 10 2]⟩,
   ⟨"mstore", [fmts], .mtx, opBits 0x12, some 0, plain [accArg, .reg 8 2]⟩,
   ⟨"mstore", [[("glob", 2 ^ 15)], fmts], .mtx, opBits 0x12, some 0, plain [accArg, .reg 8 2]⟩,
   ⟨"mstat", [[("acc", 0)]], .mtx, opBits 0x18, some 0, plain [.reg 18 2, .acc 14 12]⟩,
   ⟨"mstat", [[("eng", 2 ^ 10)]], .mtx, opBits 0x18, some 0, plain [.reg 18 2, .num 14 4 0 15]⟩]

/-! The sync, ctl and sys classes (files 07, 09 and 21). -/

/-- The forms of the sync class (R193). The spec gives no form that sets SP of MWAIT; `.spad` is the model's (log 16). -/
def syncForms : List AsmForm :=
  [⟨"reform", [], .sync, opBits 0x00, some 0, []⟩, ⟨"yield", [], .sync, opBits 0x01, some 0, []⟩,
   ⟨"elect", [], .sync, opBits 0x02, some 0, plain [.pred 14, .reg 18 1]⟩,
   ⟨"elect", [], .sync, opBits 0x02 + 124 * 2 ^ 18, some 0, plain [.pred 14]⟩,
   ⟨"arrive", [], .sync, opBits 0x08 + noA, some 0, plain [.reg 18 1, .bar 7]⟩,
   ⟨"arrive", [], .sync, opBits 0x08 + 2 ^ 5, some 0, plain [.reg 18 1, .bar 7, .src 11 1 none]⟩,
   ⟨"arrive", [[("expect", 2 ^ 6)]], .sync, opBits 0x08, some 0, plain [.reg 18 1, .bar 7, .src 11 1 none]⟩,
   ⟨"bwait", [], .sync, opBits 0x09, some 0, plain [.bar 7, .src 11 1 none]⟩,
   ⟨"bsync", [], .sync, opBits 0x0A, some 0, plain [.bar 7]⟩,
   ⟨"kdecl", [], .sync, opBits 0x10, some 0, plain [.conv 21, .src 11 1 none, .src 4 1 none]⟩,
   ⟨"sign", [], .sync, opBits 0x11, some 0, plain [.conv 21, .pred 17]⟩,
   ⟨"sign", [], .sync, opBits 0x11, some 0, plain [.conv 21]⟩,
   ⟨"waitc", [], .sync, opBits 0x18, some 0, plain [.ctr 23, .num 17 6 0 63]⟩,
   ⟨"mwait", [], .sync, opBits 0x19, none, plain [.reg 18 2, .src 11 2 none, .src 4 2 none]⟩,
   ⟨"mwait", [[("spad", 8)]], .sync, opBits 0x19, none, plain [.reg 18 2, .src 11 1 none, .src 4 2 none]⟩]

/-- The forms of the ctl class (R153). -/
def ctlForms : List AsmForm :=
  [⟨"bra", [], .ctl, opBits 0x60, some 21, plain [.target]⟩, ⟨"call", [], .ctl, opBits 0x62, some 21, plain [.target]⟩,
   ⟨"brx", [], .ctl, opBits 0x61, some 0, plain [.src 11 2 none]⟩,
   ⟨"callx", [], .ctl, opBits 0x63, some 0, plain [.src 11 2 none]⟩,
   ⟨"ret", [], .ctl, opBits 0x64, some 0, []⟩, ⟨"exit", [], .ctl, opBits 0x65, some 0, []⟩,
   ⟨"trap", [], .ctl, opBits 0x66, some 0, plain [.num 4 16 0 65535]⟩,
   ⟨"enter", [], .ctl, opBits 0x67, some 0, plain [.num 4 16 0 65534]⟩,
   ⟨"leave", [], .ctl, opBits 0x68, some 0, plain [.num 4 16 0 65535]⟩,
   ⟨"bkpt", [], .ctl, opBits 0x69, some 0, plain [.num 4 16 0 65535]⟩, ⟨"nop", [], .ctl, opBits 0x6A, none, []⟩]

/-- The special registers by name (R164, R408, R452). -/
def sregNames : List (String × Nat) :=
  mapFrom (fun i n => (n, i)) 0 ["lane", "thread", "nthreads", "group", "team", "role", "width", "place", "mode", "repcount",
    "cdepth", "rdepth", "quantum", "foldage", "clk", "wsframe", "spbase", "spsize", "bsync", "hmode", "resume", "svarea",
    "ctx"] ++
  mapFrom (fun i n => (n, i)) 0x18 ["hs0", "hs1", "hs2", "hs3"] ++
  mapFrom (fun i n => (n, i)) 0x20 ["frec0", "frec1", "frec2", "frec3", "frec4", "frec5", "frec6", "frec7", "frec8", "frec9",
    "frec10", "frec11", "frec12", "frec13", "frec14", "frec15"] ++ [("energy", 0x30)]

/-- The forms of the sys class (R407). -/
def sysForms : List AsmForm :=
  let block := codes 22 0 ["0", "1", "2", "3", "4", "5", "6"]
  [false, true].flatMap (fun w =>
    [(⟨"srd", [], .sys, opBits 0x00, some 0, plain [.reg 18 (if w then 2 else 1), .sreg w]⟩ : AsmForm),
     ⟨"swr", [], .sys, opBits 0x01, some 0, plain [.sreg w, .src 18 (if w then 2 else 1) none]⟩]) ++
  [⟨"eret", [], .sys, opBits 0x02, none, []⟩] ++
  [("svrf", 0x08), ("ldrf", 0x09)].flatMap (fun x =>
    [(⟨x.1, [block], .sys, opBits x.2, some 0, [(.both, .src 11 2 none), (.bare, .src 4 1 none)]⟩ : AsmForm),
     ⟨x.1, [block], .sys, opBits x.2 + noB, some 0, [(.both, .src 11 2 none)]⟩]) ++
  [("svwin", 0x0A), ("ldwin", 0x0B)].flatMap (fun x =>
    [(⟨x.1, [[("win", 0)]], .sys, opBits x.2 + 124 * 2 ^ 3, none, [(.bare, .num 17 6 0 63), (.both, .src 10 2 none)]⟩ : AsmForm),
     ⟨x.1, [[("slot", 2 ^ 23)]], .sys, opBits x.2, none, [(.both, .src 10 2 none), (.bare, .src 3 1 none)]⟩]) ++
  [⟨"tlbi", [[("0", 0)]], .sys, opBits 0x10 + noA + noB, some 0, []⟩,
   ⟨"tlbi", [[("1", 2 ^ 23)]], .sys, opBits 0x10, some 0, plain [.src 11 2 none, .src 4 1 none]⟩,
   ⟨"grant", [], .sys, opBits 0x11, some 0, plain [.reg 18 2, .src 11 1 none, .src 4 1 none]⟩,
   ⟨"halt", [codes 23 0 ["thread", "group", "kernel", "park"]], .sys, opBits 0x12, none, []⟩,
   ⟨"mark", [], .sys, opBits 0x13, some 0, plain [.num 4 16 0 65535]⟩]

/-- The prefixes (R74), which stand in a clause of any class. -/
def prefixForms : List AsmForm :=
  [⟨"rep", [], .alu, opBits 0x7F, none, plain [.count, .steps]⟩,
   ⟨"scope", [], .alu, opBits 0x7F + 2 ^ 22, none, plain [.scope]⟩]

/-- Every form. -/
def asmForms : List AsmForm :=
  aluForms ++ laneForms ++ xfnForms ++ memForms ++ winForms ++ mtxForms ++ syncForms ++ ctlForms ++ sysForms ++ prefixForms

/-- The bits that the suffixes of a mnemonic add, none where they are not the form's. -/
def sufBits : List (List (String × Nat)) → List String → Option Nat
  | [], [] => some 0
  | [], _ :: _ => none
  | g :: gs, l =>
    let left := fun (l : List String) => (g.find? fun x => x.1 = "").bind fun x => (sufBits gs l).map fun n => x.2 + n
    match l with
    | [] => left []
    | s :: r =>
      match g.find? fun x => x.1 = s with
      | some x => if s = "" then none else (sufBits gs r).map fun n => x.2 + n
      | none => left (s :: r)

end Sys2Proof.Machine
end

