-- ==== Sys2Proof/Machine/Assembler.lean ====
section
/-!
DEFINITION. The assembler adem (file 04, R87 to R95): how source lines are split and operands spelled, how instructions are
gathered into clauses, what the directives of a kernel allow, and the section, labels and relocations that come of it.
-/

namespace Sys2Proof.Machine

/-! Source lines (R87 to R89). -/

/-- Whether a character may stand in a symbol's name, and whether it may begin one (R87). -/
def nameChar (c : Char) : Bool := c.isAlphanum || c == '_' || c == '.'

/-- Whether a name is a symbol's (R87). -/
def isName : List Char → Bool
  | [] => false
  | c :: r => (c.isAlpha || c == '_') && r.all nameChar

/-- A line without its comment (R87). -/
def uncomment : List Char → List Char
  | [] => []
  | ';' :: _ => []
  | '/' :: '/' :: _ => []
  | c :: r => c :: uncomment r

/-- Text without the blanks at its ends. -/
def trimmed (l : List Char) : List Char := ((l.dropWhile Char.isWhitespace).reverse.dropWhile Char.isWhitespace).reverse

/-- The label of a line, with what follows it (R87). -/
def splitLabel (l : List Char) : Option (List Char) × List Char :=
  let name := (trimmed l).takeWhile nameChar
  let rest := ((trimmed l).dropWhile nameChar).dropWhile Char.isWhitespace
  match rest with
  | ':' :: r => if isName name then (some name, trimmed r) else (none, trimmed l)
  | _ => (none, trimmed l)

/-- What a line holds: its label, its guard, with whether what stands in parentheses is one, its `!`, its mnemonic with suffixes in
small letters, and its operands (R87, R88). -/
structure SourceLine where
  label : Option (List Char)
  guard : Option Nat
  guardOk : Bool
  bang : Bool
  mnemonic : List Char
  operands : List (List Char)
  deriving DecidableEq, Repr

/-- The value of a digit in a base (R89). -/
def digitOf (base : Nat) (c : Char) : Option Nat :=
  let n :=
    if '0' ≤ c ∧ c ≤ '9' then c.toNat - '0'.toNat
    else if 'a' ≤ c.toLower ∧ c.toLower ≤ 'f' then c.toLower.toNat - 'a'.toNat + 10
    else 16
  if n < base then some n else none

/-- A number's digits, underscores left out (R89). -/
def digits (base : Nat) : List Char → Nat → Option Nat
  | [], n => some n
  | '_' :: r, n => digits base r n
  | c :: r, n => (digitOf base c).bind fun d => digits base r (n * base + d)

/-- A number: decimal, 0x hexadecimal or 0b binary (R89). -/
def numberOf (l : List Char) : Option Nat :=
  match l with
  | '0' :: 'x' :: c :: r => digits 16 (c :: r) 0
  | '0' :: 'b' :: c :: r => digits 2 (c :: r) 0
  | c :: r => if c.isDigit then digits 10 (c :: r) 0 else none
  | [] => none

/-- A register of a file of so many, by its decimal number. -/
def numbered (n : Nat) (r : List Char) : Option Nat :=
  if decide (r ≠ []) && r.all Char.isDigit then (digits 10 r 0).bind fun k => if k < n then some k else none else none

/-- A guard or predicate (R88, R89). -/
def predOf (l : List Char) : Option Nat :=
  match l.map Char.toLower with
  | 'p' :: r => numbered 16 r
  | _ => none

/-- A register, `zero` or `lane` (R89). Names are not case-sensitive. -/
def regSpelled (l : List Char) : Option Opnd :=
  match l.map Char.toLower with
  | ['z', 'e', 'r', 'o'] => some .zero
  | ['l', 'a', 'n', 'e'] => some .lane
  | 'v' :: r => (numbered 96 r).map .v
  | 's' :: r => (numbered 28 r).map .s
  | _ => none

/-- A 64-bit pair: an even register, or both of its registers; an odd first register is an error (R89). -/
def pairSpelled (l : List Char) : Option Opnd :=
  let even := fun (o : Opnd) => match o with
    | .v n | .s n => if n % 2 = 0 then some o else none
    | o => some o
  match l.span (fun c => c ≠ ':') with
  | (a, []) => (regSpelled a).bind even
  | (a, _ :: b) => ((regSpelled a).bind even).bind fun o =>
      match o, regSpelled b with
      | .v n, some (.v m) => if m = n + 1 then some o else none
      | .s n, some (.s m) => if m = n + 1 then some o else none
      | _, _ => none

/-- The parts of a text between commas. -/
def commas : List Char → List (List Char)
  | [] => [[]]
  | ',' :: r => [] :: commas r
  | c :: r =>
    match commas r with
    | [] => [[c]]
    | x :: xs => (c :: x) :: xs

/-- A guard in its parentheses, whether it is one, and what follows (R88). -/
def splitGuard (l : List Char) : Option Nat × Bool × List Char :=
  match l with
  | '(' :: r =>
    match r.span (fun c => c ≠ ')') with
    | (p, _ :: rest) => (predOf (trimmed p), (predOf (trimmed p)).isSome, trimmed rest)
    | (_, []) => (none, false, l)
  | _ => (none, true, l)

/-- What a line holds (R87, R88). -/
def readLine (l : List Char) : SourceLine :=
  let (label, r) := splitLabel (uncomment l)
  let (guard, ok, r1) := splitGuard r
  let (bang, r2) := match r1 with
    | '!' :: x => (true, trimmed x)
    | _ => (false, r1)
  let name := r2.takeWhile fun c => !c.isWhitespace
  let rest := trimmed (r2.drop name.length)
  { label := label, guard := guard, guardOk := ok, bang := bang, mnemonic := name.map Char.toLower,
    operands := if rest = [] then [] else (commas rest).map trimmed }

/-! Expressions and relocations (R90, R98). -/

/-- The relocation types, in the order of their codes from 1 (R98). -/
inductive RelType where
  | abs64 | abs32 | lo32 | hi32 | boff21 | imm11s | imm11u | spad24 | handle20
  deriving DecidableEq, Repr

/-- An expression whose value is not known at assembly time (R90): the word of its instruction that holds it (0 the instruction's
own, from 1 its literal words), how, the symbol, and what is added to it. -/
structure SymRef where
  word : Nat
  type : RelType
  sym : List Char
  add : Int
  deriving DecidableEq, Repr

/-- A relocation of a section (R97): where it patches, its type, its symbol and addend, and the offset of its clause header. -/
structure Reloc where
  offset : Nat
  type : RelType
  sym : List Char
  add : Int
  hdr : Nat
  deriving DecidableEq, Repr

/-! Clauses (R91 to R93). -/

/-- An instruction or prefix of the source: its labels, its `!`, itself, the expressions in it, and how many v registers reach to
the last one that it names. -/
structure SrcInstr where
  labels : List (List Char) := []
  bang : Bool := false
  instr : Instr
  refs : List SymRef := []
  top : Nat := 0
  deriving DecidableEq, Repr

/-- A line of the text section: an instruction, or the bracket that opens a clause with its attributes, or the one that closes it
(R91); data bytes with the expressions in them, a reference's `word` counted from the first; padding to a multiple (R94). -/
inductive SrcLine where
  | code (x : SrcInstr)
  | opens (labels : List (List Char)) (entry : Bool) (wait : Option (Ctr × Nat)) (trap : Bool)
  | closes
  | data (labels : List (List Char)) (bytes : List Byte) (refs : List SymRef)
  | align (labels : List (List Char)) (n : Nat)
  deriving DecidableEq, Repr

/-- The labels that stand at a line. -/
def SrcLine.labels : SrcLine → List (List Char)
  | .code x => x.labels
  | .opens ls _ _ _ => ls
  | .closes => []
  | .data ls _ _ => ls
  | .align ls _ => ls

/-- A clause: its labels, header, and instructions. -/
structure AsmClause where
  labels : List (List Char)
  header : Nat
  items : List SrcInstr
  deriving DecidableEq, Repr

/-- What stands in a text section: clauses, data, padding. -/
inductive AsmItem where
  | clause (x : AsmClause)
  | data (labels : List (List Char)) (bytes : List Byte) (refs : List SymRef)
  | align (labels : List (List Char)) (n : Nat)
  deriving DecidableEq, Repr

/-- The class of an instruction that has words. -/
def instrClass (i : Instr) : Cls := ((encode i).map Enc.cls).getD .alu

/-- How many words an instruction takes in its clause (R65). -/
def SrcInstr.size (x : SrcInstr) : Nat := ((encode x.instr).map fun e => 1 + e.lits.length).getD 0

/-- The class of a clause: that of its first instruction (R92). -/
def classOf (xs : List SrcInstr) : Cls := ((xs.find? fun x => !isPrefix x.instr).map fun x => instrClass x.instr).getD .alu

/-- The header of a clause (R63). The attribute `trap` sets every EMPTY bit, those of literal words too (R91). -/
def headerFor (xs : List SrcInstr) (entry : Bool) (wait : Option (Ctr × Nat)) (trap : Bool) : Nat :=
  let n := (xs.map SrcInstr.size).foldl (· + ·) 0
  let empties := if trap then (2 ^ n - 1) * 2 ^ 9
    else (mapFrom (fun i (x : SrcInstr) => if x.bang then 2 ^ (9 + i) else 0) 0 xs).foldl (· + ·) 0
  let w := match wait with
    | none => 0
    | some (c, th) => 2 ^ 8 + (match c with | .st => 0 | .mx => 1 | .gx => 2 | .ct => 3) * 2 ^ 6 + th * 2 ^ 2
  n * 2 ^ 28 + (classOf xs).code * 2 ^ 25 + (if entry then 2 ^ 24 else 0) + empties + w

/-- The words of a clause behind its header: the instructions, then their literals in order (R65). -/
def clauseWords (xs : List SrcInstr) : List Nat :=
  let es := xs.filterMap fun x => encode x.instr
  es.map Enc.word ++ es.flatMap fun e => e.lits.map BitVec.toNat

/-- Whether prefixes stand as R75 asks: at most one of a kind before an instruction that takes it. -/
def prefixesOk (c : Cls) : List SrcInstr → Bool
  | [] => true
  | x :: r =>
    let ws := (clauseWords r).map (BitVec.ofNat 32)
    let again := (r.takeWhile fun y => isPrefix y.instr).any fun y => match x.instr, y.instr with
      | .rep _ _, .rep _ _ => true
      | .scope _, .scope _ => true
      | _, _ => false
    let ok := match x.instr, prefixed ws with
      | .rep _ step, some w => !again && (match stepsOf c w.toNat with | none => false | some m => step &&& m == step)
      | .scope _, some w => !again && decide (c = .mem) &&
          [0x00, 0x01, 0x05, 0x06, 0x08, 0x09, 0x18, 0x19].contains (bits w.toNat 25 7)
      | .rep _ _, none => false
      | .scope _, none => false
      | _, _ => true
    ok && prefixesOk c r

/-- Whether a clause breaks none of R63, R65, R66, R67 and R75 (R91). -/
def clauseOk (x : AsmClause) : Bool :=
  let c := classOf x.items
  let ws := (clauseWords x.items).map (BitVec.ofNat 32)
  x.items.all (fun y => y.instr.wf && (encode y.instr).isSome) && !headerBad x.header && decide (ws.length ≤ 15) &&
  (divide c ws 0 0 == some x.items.length) && !placementBad c (ws.take x.items.length) &&
  (x.items.all fun y => isPrefix y.instr || instrClass y.instr == c || instrClass y.instr == .ctl) && prefixesOk c x.items

/-- Where automatic clausing stands: what is done, the instructions of the open one with whether it is an entry, the prefixes
that wait for their instruction, and whether the last clause was a ctl clause ending in a call (R92). -/
structure Gather where
  done : List AsmItem := []
  items : List SrcInstr := []
  entry : Bool := false
  held : List SrcInstr := []
  called : Bool := false
  deriving DecidableEq, Repr

/-- Whether a clause of ctl class ends in CALL or CALLX. -/
def endsInCall (xs : List SrcInstr) : Bool :=
  classOf xs == .ctl && (match xs.getLast? with
    | some x => (match x.instr with | .call _ _ => true | .callx _ _ => true | _ => false)
    | none => false)

/-- Closes the open clause. -/
def Gather.close (g : Gather) : Gather :=
  if g.items = [] then g
  else { g with
    done := g.done ++ [.clause ⟨g.items.flatMap SrcInstr.labels, headerFor g.items g.entry none false, g.items⟩],
    items := [], entry := false, called := endsInCall g.items }

/-- Data or padding joins, behind the open clause. -/
def Gather.put (g : Gather) (x : AsmItem) : Gather := { g.close with done := g.close.done ++ [x] }

/-- Whether a clause is closed behind an instruction: ctl, ERET and HALT (R92). -/
def closesAfter (i : Instr) : Bool :=
  match i with
  | .eret => true
  | .haltThread => true
  | .haltGroup => true
  | .haltKernel => true
  | .haltPark => true
  | i => instrClass i == .ctl

/-- An instruction joins the open clause, or a new one: before a label, another class, or a sixteenth word (R92). A prefix waits
for its instruction. -/
def Gather.add (g : Gather) (x : SrcInstr) : Gather :=
  if isPrefix x.instr then { g with held := g.held ++ [x] }
  else
    let group := g.held ++ [x]
    let label := group.any fun y => decide (y.labels ≠ [])
    let size := fun (l : List SrcInstr) => (l.map SrcInstr.size).foldl (· + ·) 0
    let other := instrClass x.instr ≠ classOf g.items && instrClass x.instr != .ctl
    let g1 := if label || other || decide (15 < size g.items + size group) then g.close else g
    let g2 := { g1 with
      entry := if g1.items = [] then label || g1.called else g1.entry,
      items := g1.items ++ group, held := [] }
    if closesAfter x.instr then g2.close else g2

/-- Gathers lines into clauses; an explicit clause is kept as it stands (R91, R92). None on a bracket out of place, a prefix without
an instruction, or a label or data inside an explicit clause. -/
def gather : List SrcLine → Gather → Option (List (List Char) × Bool × Option (Ctr × Nat) × Bool × List SrcInstr) →
    Option (List AsmItem)
  | [], g, none => if g.held = [] then some g.close.done else none
  | [], _, some _ => none
  | .code x :: r, g, none => gather r (g.add x) none
  | .code x :: r, g, some (ls, e, w, t, xs) =>
    if xs = [] then gather r g (some (ls ++ x.labels, e, w, t, [{ x with labels := [] }]))
    else if x.labels = [] then gather r g (some (ls, e, w, t, xs ++ [x])) else none
  | .opens ls e w t :: r, g, none =>
    if g.held = [] then gather r g.close (some (ls, e, w, t, [])) else none
  | .opens _ _ _ _ :: _, _, some _ => none
  | .closes :: _, _, none => none
  | .closes :: r, g, some (ls, e, w, t, xs) =>
    gather r { g with done := g.done ++ [.clause ⟨ls, headerFor xs e w t, xs⟩], called := endsInCall xs } none
  | .data ls ws refs :: r, g, none => if g.held = [] then gather r (g.put (.data ls ws refs)) none else none
  | .align ls n :: r, g, none => if g.held = [] then gather r (g.put (.align ls n)) none else none
  | .data _ _ _ :: _, _, some _ => none
  | .align _ _ :: _, _, some _ => none

/-! Layout (R93). -/

/-- The bytes that fill up to a multiple. -/
def padding (o n : Nat) : Nat := (n - o % n) % n

/-- The bytes of an item at an offset. -/
def AsmItem.bytes (o : Nat) : AsmItem → List Byte
  | .clause x => (x.header :: clauseWords x.items).flatMap (valBytes 4)
  | .data _ bs _ => bs
  | .align _ n => zeros (padding o n)

/-- The labels that stand at an item. -/
def AsmItem.labels : AsmItem → List (List Char)
  | .clause x => x.labels
  | .data ls _ _ => ls
  | .align ls _ => ls

/-- Items with the offset of each in its section. -/
def laidOut : Nat → List AsmItem → List (Nat × AsmItem)
  | _, [] => []
  | o, x :: r => (o, x) :: laidOut (o + (x.bytes o).length) r

/-- The labels of a section with their offsets. -/
def labelsOf (l : List (Nat × AsmItem)) : List (List Char × Nat) := l.flatMap fun p => p.2.labels.map fun n => (n, p.1)

/-- The offset of a word of the k-th instruction of a clause at an offset: its own word, or one of its literals (R65). -/
def wordOffset (o : Nat) (xs : List SrcInstr) (k w : Nat) : Nat :=
  if w = 0 then o + 4 + 4 * k
  else o + 4 + 4 * xs.length + 4 * (((xs.take k).map fun x => x.size - 1).foldl (· + ·) 0) + 4 * (w - 1)

/-- A branch offset in words, none where it is no whole word or out of reach (R68, R98). -/
def branchOffset (target hdr : Int) : Option Nat :=
  let d := target - hdr
  if d % 4 = 0 ∧ -(2 ^ 20) ≤ d / 4 ∧ d / 4 < 2 ^ 20 then some ((d / 4) % 2 ^ 21).toNat else none

/-- What an assembled section holds: its bytes, its labels, and what is left to relocate. -/
structure Section where
  bytes : List Byte
  labels : List (List Char × Nat)
  relocs : List Reloc
  deriving DecidableEq, Repr

/-- A branch to a label of its own section gets its offset; every other expression is left as a relocation (R90, R98). `h` is the
offset of its clause, `at_` that of its word. -/
def resolveRef (labels : List (List Char × Nat)) (h at_ : Nat) (r : SymRef) : Option (Option (Nat × Nat) × List Reloc) :=
  match labels.find? fun p => p.1 = r.sym with
  | some p =>
    if r.type = .boff21 then (branchOffset (p.2 + r.add) h).map fun n => (some (at_, n), [])
    else some (none, [⟨at_, r.type, r.sym, r.add, 0⟩])
  | none => some (none, [⟨at_, r.type, r.sym, r.add, if r.type = .boff21 then h else 0⟩])

/-- What the expressions of an item come to. -/
def AsmItem.resolved (labels : List (List Char × Nat)) (o : Nat) : AsmItem → List (Option (Option (Nat × Nat) × List Reloc))
  | .clause x => (mapFrom (fun k (y : SrcInstr) =>
      y.refs.map fun r => resolveRef labels o (wordOffset o x.items k r.word) r) 0 x.items).flatten
  | .data _ _ refs => refs.map fun r => resolveRef labels o (o + 4 * r.word) r
  | .align _ _ => []

/-- Whether an item breaks no rule (R91); clauses stand at multiples of 4 (R96). -/
def AsmItem.ok (o : Nat) : AsmItem → Bool
  | .clause x => clauseOk x && o % 4 == 0
  | _ => true

/-- A word of a section with a field added to it. -/
def addField (bs : List Byte) (p : Nat × Nat) : List Byte :=
  bs.take p.1 ++ valBytes 4 (bytesVal ((bs.drop p.1).take 4) + p.2) ++ bs.drop (p.1 + 4)

/-- The section that the lines of a text section assemble to, none on an assembly error: two labels of one name, a clause that
breaks a rule, or a branch out of reach (R87 to R93). Instructions stay in the order of the source. -/
def assemble (lines : List SrcLine) : Option Section :=
  (gather lines {} none).bind fun cs =>
    let placed := laidOut 0 cs
    let labels := labelsOf placed
    let names := labels.map Prod.fst
    let refs := placed.flatMap fun p => p.2.resolved labels p.1
    if placed.all (fun p => p.2.ok p.1) && decide names.Nodup && names.all isName && refs.all Option.isSome then
      let patches := refs.filterMap fun r => r.bind Prod.fst
      some {
        bytes := patches.foldl addField (placed.flatMap fun p => p.2.bytes p.1),
        labels := labels,
        relocs := refs.flatMap fun r => (r.map Prod.snd).getD [] }
    else none

/-! Kernels (R94, R95). -/

/-- What the directives of a kernel say, with their defaults (R94). Trees carry OP and their leaves, windows their offset and
size. -/
structure KernelDecl where
  name : List Char
  entry : List Char
  width : Nat := 32
  regp : Nat := 32
  regc : Nat := 32
  np : Nat := 0
  nc : Nat := 1
  scratch : Nat := 0
  windows : List (List Char × Nat × Nat) := []
  trees : List (List Char × Nat × Nat) := []
  pair : Bool := false
  progress : Bool := true
  quantum : Nat := 4096
  deriving DecidableEq, Repr

/-- Whether a kernel keeps the limits of its directives, and its entry is a label of a clause with E = 1 (R94, R97). -/
def KernelDecl.ok (k : KernelDecl) (x : Section) : Bool :=
  isName k.name && [16, 32, 64].contains k.width && decide (1 ≤ k.regp ∧ k.regp ≤ 96) && decide (1 ≤ k.regc ∧ k.regc ≤ 96) &&
  decide (1 ≤ k.np + k.nc ∧ k.np + k.nc ≤ 12) && decide (k.scratch % 256 = 0 ∧ k.scratch ≤ 12 * 2 ^ 20) &&
  decide (k.windows.length ≤ 64) && k.windows.all (fun w => isName w.1 && decide (w.2.1 + w.2.2 ≤ k.scratch)) &&
  decide (k.trees.length ≤ 16) &&
  k.trees.all (fun t => isName t.1 && decide (t.2.1 < 3) && decide (1 ≤ t.2.2 ∧ t.2.2 ≤ 2 ^ 38)) &&
  (!k.pair || (k.np % 2 == 0 && k.nc % 2 == 0)) &&
  decide (256 ≤ k.quantum ∧ k.quantum ≤ 65536 ∧ k.quantum % 256 = 0) &&
  (match x.labels.find? fun p => p.1 = k.entry with
    | none => false
    | some p => bit (bytesVal ((x.bytes.drop p.2).take 4)) 24)

/-- Whether every v register that a kernel's instructions name lies within the larger of its budgets (R95). -/
def KernelDecl.withinBudget (k : KernelDecl) (xs : List SrcInstr) : Bool := xs.all fun x => decide (x.top ≤ max k.regp k.regc)

end Sys2Proof.Machine
end

