-- ==== Sys2Proof/Machine/Loader.lean ====
section
/-!
DEFINITION. Moabor objects and the loader moab (file 04, R96 to R101): the tables of an object, the values of its relocations, the
checks that refuse it whole, and its placing in a context's memory. Where a section comes to lie is software's choice: the caller
gives the virtual and the physical address of each (log 16).
-/

namespace Sys2Proof.Machine

/-- The diagnostic of a refusal (R100). -/
structure Diag where
  cause : Nat
  sect : Nat := 0
  off : Nat := 0
  type : Nat := 0
  sym : Nat := 0xFFFFFFFF
  value : Int := 0
  deriving DecidableEq, Repr

/-- Its 40 bytes (R100). -/
def Diag.bytes (d : Diag) : List Byte :=
  valBytes 4 d.cause ++ valBytes 4 d.sect ++ valBytes 8 d.off ++ valBytes 4 d.type ++ valBytes 4 d.sym ++
  valBytes 8 (d.value % 2 ^ 64).toNat ++ zeros 8

/-- A section table entry (R97). -/
structure MofSection where
  name : Nat
  off : Nat
  size : Nat
  align : Nat
  kind : Nat
  flags : Nat
  deriving DecidableEq, Repr

/-- A symbol entry (R97). -/
structure MofSymbol where
  name : Nat
  sect : Nat
  value : Nat
  size : Nat
  bind : Nat
  kind : Nat
  deriving DecidableEq, Repr

/-- A relocation entry (R97). -/
structure MofReloc where
  sect : Nat
  type : Nat
  off : Nat
  sym : Nat
  hdr : Nat
  add : Int
  deriving DecidableEq, Repr

/-- A kernel descriptor (R97): windows as (symbol, offset, size), trees as (symbol, leaves, OP). -/
structure MofKernel where
  sym : Nat
  entry : Nat
  width : Nat
  regp : Nat
  regc : Nat
  np : Nat
  nc : Nat
  paired : Bool
  progress : Bool
  quantum : Nat
  scratch : Nat
  windows : List (Nat × Nat × Nat)
  trees : List (Nat × Nat × Nat)
  deriving DecidableEq, Repr

/-- An object (R96), with the offset of each kernel descriptor in its section. -/
structure Mof where
  sections : List MofSection
  symbols : List MofSymbol
  relocs : List MofReloc
  kernels : List MofKernel
  kernelOffs : List Nat
  deriving DecidableEq, Repr

/-! Reading an object (R96, R97). -/

/-- The entries of `n` bytes each in a table. -/
def entriesOf (n : Nat) (bs : List Byte) : List (List Byte) := (List.range (bs.length / n)).map fun i => (bs.drop (n * i)).take n

/-- Whether bytes are all zero. -/
def zeroBytes (bs : List Byte) : Bool := bs.all fun b => b == 0

/-- Whether an object's header is one that moab takes (R96). -/
def headerOk (bs : List Byte) : Bool :=
  decide (32 ≤ bs.length) && decide (sliceVal bs 0 4 = 0x00464F4D) && decide (sliceVal bs 4 2 = 1) &&
  decide (sliceVal bs 6 2 = 0x0B09) && zeroBytes ((bs.drop 16).take 16) &&
  decide (sliceVal bs 12 4 + 24 * sliceVal bs 8 4 ≤ bs.length)

/-- A section from its entry. -/
def sectionOf (e : List Byte) : MofSection :=
  ⟨sliceVal e 0 4, sliceVal e 4 4, sliceVal e 8 4, sliceVal e 12 4, sliceVal e 16 1, sliceVal e 17 1⟩

/-- The flags of a kind (R97). -/
def flagsOf (kind : Nat) : Nat :=
  match kind with
  | 1 => 3
  | 2 => 5
  | _ => 0

/-- Whether a section's entry keeps to its table, and its contents lie in the file; tables hold whole entries, and names begin with a
zero byte (R96, R97). -/
def sectionOk (bs : List Byte) (names : Nat) (e : List Byte) : Bool :=
  let x := sectionOf e
  let whole := match x.kind with
    | 4 => x.size % 24 == 0
    | 5 => x.size == 0 || sliceVal bs x.off 1 == 0
    | 6 => x.size % 32 == 0
    | _ => true
  decide (x.name < names) && decide (1 ≤ x.align ∧ x.align ≤ 4096) && decide (2 ^ Nat.log2 x.align = x.align) &&
  decide (1 ≤ x.kind ∧ x.kind ≤ 6) && decide (x.flags = flagsOf x.kind) && zeroBytes (e.drop 18) &&
  decide (x.off + x.size ≤ bs.length) && (decide (x.size ≠ 0) || decide (x.off = 0)) &&
  (decide (x.kind ≠ 1) || decide (x.off % 4096 = 0)) && whole

/-- The contents of a section. -/
def contents (bs : List Byte) (x : MofSection) : List Byte := (bs.drop x.off).take x.size

/-- A symbol from its entry. -/
def symbolOf (e : List Byte) : MofSymbol :=
  ⟨sliceVal e 0 4, sliceVal e 4 4, sliceVal e 8 8, sliceVal e 16 4, sliceVal e 20 1, sliceVal e 21 1⟩

/-- Whether a symbol's entry keeps to its table; the first is all zero (R97). -/
def symbolOk (sects names i : Nat) (e : List Byte) : Bool :=
  let x := symbolOf e
  if i = 0 then zeroBytes e
  else decide (x.name < names) && (decide (x.sect < sects) || decide (x.sect = 0xFFFFFFFF) || decide (x.sect = 0xFFFFFFFE)) &&
    decide (x.bind < 2) && decide (x.kind < 6) && zeroBytes (e.drop 22)

/-- A relocation from its entry. -/
def relocOf (e : List Byte) : MofReloc :=
  ⟨sliceVal e 0 4, sliceVal e 4 4, sliceVal e 8 8, sliceVal e 16 4, sliceVal e 20 4, (BitVec.ofNat 64 (sliceVal e 24 8)).toInt⟩

/-- The bytes that a type patches (R98). -/
def patchBytes (type : Nat) : Nat := if type = 1 then 8 else 4

/-- Whether a relocation's entry keeps to its table (R97, R98). -/
def relocOk (m : List MofSection) (syms : Nat) (x : MofReloc) : Bool :=
  decide (1 ≤ x.type ∧ x.type ≤ 9) && (decide (x.sym = 0) || decide (x.sym < syms)) && (decide (x.type = 5) || decide (x.hdr = 0)) &&
  (match m[x.sect]? with
    | none => false
    | some y => decide (x.off + patchBytes x.type ≤ y.size) && decide (x.hdr < y.size))

/-- The contents of the sections of a kind, one after the other. -/
def ofKind (bs : List Byte) (m : List MofSection) (k : Nat) : List Byte := (m.filter fun x => x.kind == k).flatMap (contents bs)

/-- The position of the first section of a kind. -/
def sectOf (m : List MofSection) (k : Nat) : Nat := (pos (fun x => x.kind == k) m).getD 0

/-- A kernel descriptor at the head of bytes, and how many bytes it takes (R97). -/
def kernelOfBytes (bs : List Byte) : MofKernel × Nat :=
  let nw := sliceVal bs 20 1
  let nt := sliceVal bs 21 1
  let ws := entriesOf 16 ((bs.drop 64).take (16 * nw))
  let ts := entriesOf 16 ((bs.drop (64 + 16 * nw)).take (16 * nt))
  ({ sym := sliceVal bs 0 4, entry := sliceVal bs 4 4, width := 16 * 2 ^ sliceVal bs 8 1, regp := sliceVal bs 9 1,
     regc := sliceVal bs 10 1, np := bits (sliceVal bs 11 1) 0 4, nc := bits (sliceVal bs 11 1) 4 4,
     paired := bit (sliceVal bs 12 1) 0, progress := bit (sliceVal bs 12 1) 1, quantum := 256 * sliceVal bs 14 2,
     scratch := sliceVal bs 16 4, windows := ws.map fun w => (sliceVal w 0 4, sliceVal w 4 4, sliceVal w 8 4),
     trees := ts.map fun t => (sliceVal t 0 4, sliceVal t 4 5, sliceVal t 9 1) }, 64 + 16 * nw + 16 * nt)

/-- Whether a kernel descriptor keeps to its table (R94, R97): its fields, and symbols of the kind that each entry names. -/
def kernelOk (syms : List MofSymbol) (bs : List Byte) : Bool :=
  let k := (kernelOfBytes bs).1
  let ws := entriesOf 16 ((bs.drop 64).take (16 * k.windows.length))
  let ts := entriesOf 16 ((bs.drop (64 + 16 * k.windows.length)).take (16 * k.trees.length))
  let is := fun (i kind : Nat) => match syms[i]? with
    | some x => i != 0 && (x.kind == kind || x.sect == 0xFFFFFFFF)
    | none => false
  decide ((kernelOfBytes bs).2 ≤ bs.length) && decide (sliceVal bs 8 1 < 3) && decide (1 ≤ k.regp ∧ k.regp ≤ 96) &&
  decide (1 ≤ k.regc ∧ k.regc ≤ 96) && decide (1 ≤ k.np + k.nc ∧ k.np + k.nc ≤ 12) && decide (sliceVal bs 12 1 < 4) &&
  decide (sliceVal bs 13 1 = 0) && decide (256 ≤ k.quantum ∧ k.quantum ≤ 65536) &&
  decide (k.scratch % 256 = 0 ∧ k.scratch ≤ 12 * 2 ^ 20) && decide (sliceVal bs 20 1 ≤ 64) && decide (sliceVal bs 21 1 ≤ 16) &&
  zeroBytes ((bs.drop 22).take 42) && ws.all (fun w => zeroBytes (w.drop 12)) &&
  k.windows.all (fun w => decide (w.2.1 + w.2.2 ≤ k.scratch) && is w.1 4) &&
  ts.all (fun t => zeroBytes (t.drop 10) && decide (1 ≤ sliceVal t 4 5 ∧ sliceVal t 4 5 ≤ 2 ^ 38) && decide (sliceVal t 9 1 < 3)) &&
  k.trees.all (fun t => is t.1 5) && (!k.paired || (k.np % 2 == 0 && k.nc % 2 == 0)) && is k.sym 3

/-- The kernel descriptors of a section up to the first that breaks its table, with their offsets, and the offset of that one.
`fuel` bounds their number. -/
def kernelsFrom (syms : List MofSymbol) : Nat → Nat → List Byte → List (Nat × MofKernel) × Option Nat
  | _, _, [] => ([], none)
  | 0, o, _ :: _ => ([], some o)
  | fuel + 1, o, bs =>
    if kernelOk syms bs then
      let r := kernelsFrom syms fuel (o + (kernelOfBytes bs).2) (bs.drop (kernelOfBytes bs).2)
      ((o, (kernelOfBytes bs).1) :: r.1, r.2)
    else ([], some o)

/-- An object as far as its tables can be read, with the failures of cause 5 (R97, R99, R100): each at the section and offset at
fault, a relocation's at the place that it patches. A header that is not one refuses the object at once. -/
def readMof (bs : List Byte) : Except Diag (Mof × List Diag) :=
  if headerOk bs then
    let es := entriesOf 24 ((bs.drop (sliceVal bs 12 4)).take (24 * sliceVal bs 8 4))
    let m := es.map sectionOf
    let names := ((m.find? fun x => x.kind == 5).map MofSection.size).getD 0
    let entries := entriesOf 24 (ofKind bs m 4)
    let syms := entries.map symbolOf
    let rels := (entriesOf 32 (ofKind bs m 6)).map relocOf
    let ks := kernelsFrom syms ((ofKind bs m 3).length / 64) 0 (ofKind bs m 3)
    let badSects : List Diag := (mapFrom (fun k e => (k, e)) 0 es).filterMap fun x =>
      if sectionOk bs names x.2 then none else some { cause := 5, sect := x.1 }
    let badSyms : List Diag := (mapFrom (fun i e => (i, e)) 0 entries).filterMap fun x =>
      if symbolOk m.length names x.1 x.2 then none else some { cause := 5, sect := sectOf m 4, off := 24 * x.1, sym := x.1 }
    let badRels : List Diag := (mapFrom (fun i r => (i, r)) 0 rels).filterMap fun x =>
      if relocOk m syms.length x.2 then none
      else if x.2.sect < m.length then
        some { cause := 5, sect := x.2.sect, off := x.2.off, type := x.2.type, sym := x.2.sym }
      else some { cause := 5, sect := sectOf m 6, off := 32 * x.1, type := x.2.type, sym := x.2.sym }
    let badKernels : List Diag := ks.2.toList.map fun o => { cause := 5, sect := sectOf m 3, off := o }
    .ok ({ sections := m, symbols := syms, relocs := rels.filter (relocOk m syms.length), kernels := ks.1.map Prod.snd,
           kernelOffs := ks.1.map Prod.fst }, badSects ++ badSyms ++ badRels ++ badKernels)
  else .error { cause := 5 }

/-- A name, up to its zero byte (R97). -/
def nameAt (bs : List Byte) (m : List MofSection) (off : Nat) : List Byte :=
  ((((m.find? fun x => x.kind == 5).map (contents bs)).getD []).drop off).takeWhile fun b => b != 0

/-! Loading (R98 to R101). -/

/-- A kernel as it is registered: its name, entry address, descriptor, and its trees' handles (R94, R98, R99). -/
structure LoadedKernel where
  name : List Byte
  entry : Nat
  desc : MofKernel
  handles : List Nat
  deriving DecidableEq, Repr

/-- What moab keeps for a context: the exported symbols with their values, the kernels, the next tree handle (0 is never
given), where the context's tree descriptor table lies in device memory (R320), its root page table, and pages of memory for
further page tables. -/
structure Loader where
  globals : List (List Byte × Nat) := []
  kernels : List LoadedKernel := []
  nextHandle : Nat := 1
  table : Nat := 0
  root : Nat := 0
  free : List Nat := []
  deriving DecidableEq, Repr

/-- The symbol of an object at an index. -/
def Mof.symbol (m : Mof) (k : Nat) : MofSymbol := (m.symbols[k]?).getD ⟨0, 0, 0, 0, 0, 0⟩

/-- The handle that a tree of the object gets: moab gives them in the order of the descriptors (log 16). -/
def Mof.handle (m : Mof) (l : Loader) (k : Nat) : Option Nat :=
  (pos (fun t => t.1 == k) (m.kernels.flatMap MofKernel.trees)).map fun i => l.nextHandle + i

/-- The loaded value of a symbol, none where nothing defines it (R97, R98). -/
def Mof.valueOf (m : Mof) (bs : List Byte) (l : Loader) (place : Nat → Nat × Nat) (k : Nat) : Option Nat :=
  let x := m.symbol k
  if k = 0 then some 0
  else if x.sect = 0xFFFFFFFF then look l.globals (nameAt bs m.sections x.name)
  else if x.kind = 5 then m.handle l k
  else if x.sect = 0xFFFFFFFE ∨ x.kind = 4 then some x.value
  else some ((place x.sect).1 + x.value)
where
  /-- The value that a name has. -/
  look (g : List (List Byte × Nat)) (n : List Byte) : Option Nat := (g.find? fun p => p.1 = n).map Prod.snd

/-- The exact value of a relocation, and whether its field takes it (R98). `h` is the loaded address of its clause header. -/
def relocValue (type : Nat) (s h : Nat) (a : Int) : Int × Bool :=
  let v : Int := s + a
  match type with
  | 1 => (v, true)
  | 2 => (v, decide (0 ≤ v ∧ v < 2 ^ 32))
  | 3 => (v % 2 ^ 32, decide (v < 2 ^ 57))
  | 4 => (v / 2 ^ 32, decide (v < 2 ^ 57))
  | 5 => ((v - h) / 4, decide ((v - h) % 4 = 0 ∧ -(2 ^ 20) ≤ (v - h) / 4 ∧ (v - h) / 4 < 2 ^ 20))
  | 6 => (v, decide (-1024 ≤ v ∧ v ≤ 1023))
  | 7 => (v, decide (0 ≤ v ∧ v ≤ 2047))
  | 8 => (v, decide (0 ≤ v ∧ v < 2 ^ 24))
  | _ => (v, decide (0 ≤ v ∧ v < 2 ^ 20))

/-- The low bits of the patched field that a type replaces (R98). -/
def patchBits (type : Nat) : Nat :=
  match type with
  | 1 => 64
  | 5 => 21
  | 6 => 11
  | 7 => 11
  | 8 => 24
  | 9 => 20
  | _ => 32

/-- Bytes with a field patched at an offset (R98). -/
def patched (bs : List Byte) (type off : Nat) (v : Int) : List Byte :=
  let n := patchBytes type
  let k := patchBits type
  let old := sliceVal bs off n
  bs.take off ++ valBytes n (old / 2 ^ k * 2 ^ k + (v % 2 ^ k).toNat) ++ bs.drop (off + n)

/-- What a relocation comes to: its value, or why it refuses the object (R98, R99). -/
def Mof.resolve (m : Mof) (bs : List Byte) (l : Loader) (place : Nat → Nat × Nat) (r : MofReloc) : Except Diag Int :=
  match m.valueOf bs l place r.sym with
  | none => .error { cause := 2, sect := r.sect, off := r.off, type := r.type, sym := r.sym }
  | some s =>
    let v := relocValue r.type s ((place r.sect).1 + r.hdr) r.add
    if v.2 then .ok v.1 else .error { cause := 1, sect := r.sect, off := r.off, type := r.type, sym := r.sym, value := v.1 }

/-- Symbols that kernel descriptors name and that no object defines (R99): a window, a tree and a kernel are this object's own. -/
def Mof.undefinedNames (m : Mof) : List Diag :=
  let off := fun (i k : Nat) => (m.kernelOffs[i]?).getD 0 + k
  let refs := (mapFrom (fun i (k : MofKernel) => (off i 0, k.sym) ::
    mapFrom (fun j (w : Nat × Nat × Nat) => (off i (64 + 16 * j), w.1)) 0 k.windows ++
    mapFrom (fun j (t : Nat × Nat × Nat) => (off i (64 + 16 * (k.windows.length + j)), t.1)) 0 k.trees) 0 m.kernels).flatten
  (refs.filter fun r => (m.symbol r.2).sect == 0xFFFFFFFF).map fun r =>
    { cause := 2, sect := sectOf m.sections 3, off := r.1, sym := r.2 }

/-- The symbols that an object exports: global, and defined in it (R97). -/
def Mof.exports (m : Mof) (bs : List Byte) : List (Nat × List Byte) :=
  ((List.range m.symbols.length).filter fun k =>
    k != 0 && (m.symbol k).bind == 1 && (m.symbol k).sect != 0xFFFFFFFF).map fun k => (k, nameAt bs m.sections (m.symbol k).name)

/-- Globals that are defined already, in the context or earlier in the object (R99, R101). The record names `.symtab` and the
offset of the symbol's entry: DESIGN CHOICE (log 16). -/
def Mof.duplicates (m : Mof) (bs : List Byte) (l : Loader) : List Diag :=
  let sect := sectOf m.sections 4
  ((m.exports bs).filter fun p => l.globals.any (fun g => g.1 = p.2) || (m.exports bs).any fun q => decide (q.1 < p.1) && q.2 = p.2).map
    fun p => { cause := 3, sect := sect, off := 24 * p.1, sym := p.1 }

/-- Entries whose clause header has E = 0 (R94, R99). -/
def Mof.badEntries (m : Mof) (bs : List Byte) : List Diag :=
  let sect := sectOf m.sections 1
  let text := ((m.sections[sect]?).map (contents bs)).getD []
  (m.kernels.filter fun k => k.entry % 4 != 0 || !bit (sliceVal text k.entry 4) 24).map fun k =>
    { cause := 4, sect := sect, off := k.entry, sym := k.sym }

/-- Whether a failure comes before another: in section order, and within a section at a lower offset (R100). -/
def Diag.before (a b : Diag) : Bool := decide (a.sect < b.sect) || (a.sect == b.sect && decide (a.off < b.off))

/-- The failure that the record names (R100). -/
def firstDiag : List Diag → Option Diag
  | [] => none
  | d :: r =>
    match firstDiag r with
    | none => some d
    | some e => if e.before d then some e else some d

/-- The bytes of a section once its relocations have been written (R99). -/
def Mof.patchedSection (m : Mof) (bs : List Byte) (l : Loader) (place : Nat → Nat × Nat) (k : Nat) (x : MofSection) : List Byte :=
  (m.relocs.filter fun r => r.sect == k).foldl (fun b r =>
    match m.resolve bs l place r with
    | .ok v => patched b r.type r.off v
    | .error _ => b) (contents bs x)

/-- Writes what a `.tree` directive gives of its descriptor (R320): LEAVES, OP and one element. -/
def State.writeTree (s : State) (table handle leaves op : Nat) : State :=
  (s.writePhys (table + 64 * handle + 16) (valBytes 5 leaves ++ valBytes 1 op)).writePhys (table + 64 * handle + 24) (zeros 3)

/-- Maps one 4 KiB page (R393, R394) below the table of a level, with further tables from the free pages; where none is left the
page stays unmapped. -/
def State.mapPage (va leaf : Nat) : Nat → Nat → State × List Nat → State × List Nat
  | 0, table, (s, free) => (s.writePhys (table + 8 * bits va 12 9) (valBytes 8 leaf), free)
  | level + 1, table, (s, free) =>
    let at_ := table + 8 * bits va (12 + 9 * (level + 1)) 9
    let old := bytesVal (s.memBytes at_ 8)
    if bit old 0 then mapPage va leaf level (old / 4096 % 2 ^ 45 * 4096) (s, free)
    else
      match free with
      | [] => (s, [])
      | p :: r => mapPage va leaf level p ((s.writePhys p (zeros 4096)).writePhys at_ (valBytes 8 (p + 1)), r)

/-- Places a section: its bytes, and its pages, readable, for fetch or for writing as its flags say (R97). -/
def State.placeSection (x : State × List Nat) (root : Nat) (sec : MofSection) (at_ : Nat × Nat) (bs : List Byte) : State × List Nat :=
  let perms := 0x25 + (if bit sec.flags 1 then 0x10 else 0) + (if bit sec.flags 2 then 8 else 0)
  let s1 := x.1.writePhys at_.2 bs
  (List.range ((at_.1 % 4096 + sec.size + 4095) / 4096)).foldl (fun y i =>
    State.mapPage (at_.1 / 4096 * 4096 + 4096 * i) ((at_.2 / 4096 + i) * 4096 + perms) 4 root y) (s1, x.2)

/-- Loads an object into a context's memory and maps it: every value is checked before any is written, and a refusal changes
nothing (R99). The descriptors of its trees are written too (R320). -/
def State.loadObject (s : State) (l : Loader) (place : Nat → Nat × Nat) (bs : List Byte) : Except Diag (State × Loader) :=
  match readMof bs with
  | .error d => .error d
  | .ok (m, bad) =>
    let rels := m.relocs.filterMap fun r => match m.resolve bs l place r with | .ok _ => none | .error d => some d
    match firstDiag (bad ++ rels ++ m.undefinedNames ++ m.duplicates bs l ++ m.badEntries bs) with
    | some d => .error d
    | none =>
      let text := (place (sectOf m.sections 1)).1
      let x1 := (mapFrom (fun k x => (k, x)) 0 m.sections).foldl (fun (y : State × List Nat) (p : Nat × MofSection) =>
        if bit p.2.flags 0 then State.placeSection y l.root p.2 (place p.1) (m.patchedSection bs l place p.1 p.2) else y) (s, l.free)
      let s2 := (mapFrom (fun i t => (l.nextHandle + i, t)) 0 (m.kernels.flatMap MofKernel.trees)).foldl
        (fun (s : State) (x : Nat × Nat × Nat × Nat) => s.writeTree l.table x.1 x.2.2.1 x.2.2.2) x1.1
      let ks := m.kernels.map fun k => (⟨nameAt bs m.sections (m.symbol k.sym).name, text + k.entry, k,
        k.trees.filterMap fun t => m.handle l t.1⟩ : LoadedKernel)
      .ok (s2, { l with
        globals := l.globals ++ (m.exports bs).filterMap fun p => (m.valueOf bs l place p.1).map fun v => (p.2, v),
        kernels := l.kernels ++ ks,
        nextHandle := l.nextHandle + (m.kernels.flatMap MofKernel.trees).length,
        free := x1.2 })

/-- Loads of one context, one after the other, in the order in which they are received (R101): a refused one leaves all as it
was. -/
def State.loadObjects (s : State) (l : Loader) : List ((Nat → Nat × Nat) × List Byte) → State × Loader × List Diag
  | [] => (s, l, [])
  | p :: r =>
    match s.loadObject l p.1 p.2 with
    | .ok x => x.1.loadObjects x.2 r
    | .error d => let y := s.loadObjects l r; (y.1, y.2.1, d :: y.2.2)

end Sys2Proof.Machine
end

