-- ==== Sys2Proof/Machine/AsmSource.lean ====
section
/-!
DEFINITION. The assembler adem from source text to an object (file 04, R87 to R90, R94 to R97): expressions and operands, the
instruction of a line, directives, and the tables of the object. Points that file 04 leaves open are log 16.
-/

namespace Sys2Proof.Machine

/-! Numbers and expressions (R89, R90). -/

/-- The sign of a number, and the rest. -/
def splitSign : List Char → Bool × List Char
  | '-' :: r => (true, trimmed r)
  | '−' :: r => (true, trimmed r)
  | '+' :: r => (false, trimmed r)
  | l => (false, l)

/-- A constant: a number, which may be negative. -/
def constOf (l : List Char) : Option Int :=
  let x := splitSign l
  (numberOf x.2).map fun (n : Nat) => if x.1 then -(n : Int) else n

/-- How an expression is wrapped (R90). -/
inductive Wrap where
  | bare | lo | hi | handle | spad
  deriving DecidableEq, Repr

/-- An expression: its wrapping, its symbol ([] for none), and what is added (R90). -/
structure AsmExpr where
  wrap : Wrap
  sym : List Char
  add : Int
  deriving DecidableEq, Repr

/-- A constant, a symbol, or a symbol with a constant added or subtracted (R90). -/
def plainExpr (w : Wrap) (l : List Char) : Option AsmExpr :=
  match constOf l with
  | some v => some ⟨w, [], v⟩
  | none =>
    let name := l.takeWhile nameChar
    let rest := trimmed (l.drop name.length)
    if !isName name then none
    else if rest = [] then some ⟨w, name, 0⟩
    else if (rest.take 1 == ['+']) || (splitSign rest).1 then
      (numberOf (splitSign rest).2).map fun (n : Nat) => ⟨w, name, if (splitSign rest).1 then -(n : Int) else n⟩
    else none

/-- An expression of the source (R90). -/
def exprOf (l : List Char) : Option AsmExpr :=
  match l.span (fun c => c ≠ '(') with
  | (_, []) => plainExpr .bare l
  | (f, _ :: r) =>
    match r.reverse with
    | ')' :: b =>
      let wrap : Option Wrap := match String.ofList ((trimmed f).map Char.toLower) with
        | "lo" => some .lo
        | "hi" => some .hi
        | "handle" => some .handle
        | "spad" => some .spad
        | _ => none
      wrap.bind fun w => plainExpr w (trimmed b.reverse)
    | _ => none

/-- What the windows of the open kernel are called, with their offsets. -/
abbrev WindowNames := List (List Char × Nat)

/-- The value of an expression that is known at assembly time: a constant, or the address of a window of the kernel. A value that
its wrapping does not take is none at all (R90, R98). -/
def AsmExpr.known (e : AsmExpr) (ws : WindowNames) : Option (Option Int) :=
  let base : Option Int :=
    if e.sym = [] then some 0
    else if e.wrap = .spad then (ws.find? fun w => w.1 = e.sym).map fun w => (w.2 : Int)
    else none
  base.map fun b =>
    let v := match e.wrap with
      | .bare => (b + e.add, true)
      | .lo => relocValue 3 0 0 (b + e.add)
      | .hi => relocValue 4 0 0 (b + e.add)
      | .spad => relocValue 8 0 0 (b + e.add)
      | .handle => relocValue 9 0 0 (b + e.add)
    if v.2 then some v.1 else none

/-- The type of a relocation in a literal, or in data, of so many words (R98). -/
def Wrap.reloc (w : Wrap) (k : Nat) : Option RelType :=
  match w with
  | .bare => if k = 1 then some .abs32 else some .abs64
  | .lo => if k = 1 then some .lo32 else none
  | .hi => if k = 1 then some .hi32 else none
  | .handle => if k = 1 then some .handle20 else none
  | .spad => if k = 1 then some .spad24 else none

/-- The words of a value, the low one first. -/
def valueWords (k : Nat) (v : Int) : List Nat := (List.range k).map fun i => (v / 2 ^ (32 * i) % 2 ^ 32).toNat

/-- The words of an expression in a literal or in data, with what is left to relocate. An integer that does not fit is an error;
one below zero is taken as two's complement (R89, log 16). -/
def AsmExpr.words (e : AsmExpr) (ws : WindowNames) (k : Nat) : Option (List Nat × List SymRef) :=
  match e.known ws with
  | some none => none
  | some (some v) => if -(2 ^ (32 * k - 1)) ≤ v ∧ v < 2 ^ (32 * k) then some (valueWords k v, []) else none
  | none => (e.wrap.reloc k).map fun t => (valueWords k 0, [⟨0, t, e.sym, e.add⟩])

/-- A decimal number with a point or an exponent: its sign, numerator and denominator (R89). -/
def fractionOf (l : List Char) : Option (Bool × Nat × Nat) :=
  let x := splitSign l
  let m := x.2.takeWhile fun c => c.isDigit || c == '.' || c == '_'
  let e := x.2.drop m.length
  let whole := m.takeWhile fun c => c != '.'
  let frac := (m.drop (whole.length + 1)).filter Char.isDigit
  let exp : Option Int := match e with
    | [] => some 0
    | c :: r => if c.toLower = 'e' then
        (digits 10 (splitSign r).2 0).map fun (n : Nat) => if (splitSign r).1 then -(n : Int) else n
      else none
  let digitFirst := (whole.take 1).all Char.isDigit && decide (whole ≠ [])
  let onePoint := !((m.drop (whole.length + 1)).contains '.')
  if digitFirst && decide (m ≠ whole ∨ e ≠ []) && onePoint && (e.length != 1) then
    (digits 10 (whole ++ frac) 0).bind fun n => exp.map fun k =>
      let q : Int := k - (frac.length : Int)
      (x.1, n * 10 ^ q.toNat, 10 ^ (-q).toNat)
  else none

/-- The code of a decimal number in a format, rounded once to nearest even (R89). -/
def fractionCode (F : FloatFmt) (x : Bool × Nat × Nat) : Nat := divF F false (.fin x.1 x.2.1 0) (.fin false x.2.2 0)

/-! Operands (R89). -/

/-- What an operand adds to an instruction: bits of its word, literal words, the expressions in its word and in its literals,
those counted from the operand's first, and how many v registers reach to the last one that it names. -/
structure AsmPart where
  bits : Nat := 0
  top : Nat := 0
  field : Nat := 0
  lits : List Nat := []
  own : List SymRef := []
  litRefs : List SymRef := []
  deriving DecidableEq, Repr

/-- The code of a register, `zero` or `lane` (R70). -/
def operandCode : Opnd → Nat
  | .v n => n
  | .s n => 0x60 + n
  | .zero => 0x7C
  | .lane => 0x7D
  | .lit _ => 0x7E

/-- A register or a pair. -/
def regsSpelled (k : Nat) (l : List Char) : Option Opnd := if k = 2 then pairSpelled l else regSpelled l

/-- The v registers up to the last of `k` that an operand names. -/
def topOf (k : Nat) : Opnd → Nat
  | .v n => n + k
  | _ => 0

/-- An operand field that names `k` registers. -/
def regPart (lo k : Nat) (o : Opnd) : AsmPart := { bits := operandCode o * 2 ^ lo, top := topOf k o }

/-- Whether a text spells a register, or a pair by its registers: no symbol of an expression does, so that an odd pair is an error
(R89). -/
def spellsReg (l : List Char) : Bool := (regSpelled (l.takeWhile fun c => c ≠ ':')).isSome

/-- An operand field with a literal: the code that names one, and its words. -/
def litPart (lo code : Nat) (x : List Nat × List SymRef) : AsmPart :=
  { bits := code * 2 ^ lo, field := lo, lits := x.1, litRefs := x.2 }

/-- A source operand of `k` words: a register, a decimal number in a format, or an expression (R89). -/
def srcPart (ws : WindowNames) (lo k : Nat) (fmt : Option FloatFmt) (l : List Char) : Option AsmPart :=
  match regsSpelled k l, fmt, fractionOf l with
  | some o, _, _ => some (regPart lo k o)
  | none, some F, some x => some (litPart lo 0x7E (valueWords k (fractionCode F x), []))
  | none, _, _ => if spellsReg l then none else (exprOf l).bind fun e => (e.words ws k).map (litPart lo 0x7E)

/-- A number in a field of the word; of a field of eleven bits it may be left to relocate (R89, R98). -/
def numPart (ws : WindowNames) (lo w : Nat) (min max : Int) (l : List Char) : Option AsmPart :=
  (exprOf l).bind fun e =>
    match e.known ws with
    | some none => none
    | some (some v) => if min ≤ v ∧ v ≤ max then some { bits := (v % 2 ^ w).toNat * 2 ^ lo } else none
    | none =>
      if w = 11 ∧ e.wrap = .bare then some { own := [⟨0, if min < 0 then .imm11s else .imm11u, e.sym, e.add⟩] } else none

/-- The text of a name that one letter and a number below a bound make. -/
def lettered (c : Char) (n : Nat) (l : List Char) : Option Nat :=
  match l.map Char.toLower with
  | x :: r => if x = c then numbered n r else none
  | [] => none

/-- A predicate that `!` may invert. -/
def predInvPart (lo inv : Nat) (l : List Char) : Option AsmPart :=
  match l with
  | '!' :: r => (predOf (trimmed r)).map fun n => { bits := n * 2 ^ lo + 2 ^ inv }
  | _ => (predOf l).map fun n => { bits := n * 2 ^ lo }

/-- The steps of REP (R74). -/
def stepsPart (l : List Char) : Option AsmPart :=
  let t := l.map Char.toLower
  if t = ['0'] then some {}
  else if decide (t ≠ []) && decide t.Nodup && t.all fun c => c == 'd' || c == 'a' || c == 'b' then
    some { bits := (if t.contains 'd' then 2 ^ 15 else 0) + (if t.contains 'a' then 2 ^ 14 else 0) +
      if t.contains 'b' then 2 ^ 13 else 0 }
  else none

/-- A scope, with its point or without. -/
def scopePart (l : List Char) : Option AsmPart :=
  let t := String.ofList ((l.dropWhile fun c => c == '.').map Char.toLower)
  (pos (fun n => n == t) ["core", "clu", "die", "dev", "pod"]).map fun k => { bits := k * 2 ^ 19 }

/-- A counter by its name (R180). -/
def ctrPart (lo : Nat) (l : List Char) : Option AsmPart :=
  (pos (fun n => n == String.ofList (l.map Char.toLower)) ["st", "mx", "gx", "ct"]).map fun k => { bits := k * 2 ^ lo }

/-- An accumulator e.mk (R302). -/
def accPart (res acc : Nat) (l : List Char) : Option AsmPart :=
  match l.span (fun c => c ≠ '.') with
  | (e, _ :: m) => (numbered 16 e).bind fun n => (lettered 'm' 4 m).map fun k => { bits := n * 2 ^ res + k * 2 ^ acc }
  | (_, []) => none

/-- A special register of a width (R408). -/
def sregPart (wide : Bool) (l : List Char) : Option AsmPart :=
  match l.map Char.toLower with
  | 's' :: 'r' :: '.' :: r =>
    (sregNames.find? fun x => x.1 = String.ofList r).bind fun x =>
      if srWide x.2 = wide then some { bits := x.2 * 2 ^ 8 } else none
  | _ => none

/-- An even scalar register, by half its number. -/
def evenScalar (lo : Nat) (l : List Char) : Option AsmPart :=
  (pairSpelled l).bind fun o => match o with
    | .s n => some { bits := n / 2 * 2 ^ lo }
    | _ => none

/-- The address of ATOM and CAS (R262). -/
def addrPart (ws : WindowNames) (l : List Char) : Option AsmPart :=
  match pairSpelled l with
  | some (.v n) => some { bits := n / 2 * 2 ^ 12, top := n + 2 }
  | some (.s n) => some { bits := (0x60 + n) / 2 * 2 ^ 12 }
  | some _ => none
  | none => if spellsReg l then none else (exprOf l).bind fun e => (e.words ws 2).map (litPart 12 0x3F)

/-- A branch target (R68, R153). -/
def targetPart (l : List Char) : Option AsmPart :=
  (exprOf l).bind fun e => if e.wrap = .bare then some { own := [⟨0, .boff21, e.sym, e.add⟩] } else none

/-- An operand of the source as a form has it. -/
def AsmArg.part (ws : WindowNames) (a : AsmArg) (l : List Char) : Option AsmPart :=
  match a with
  | .reg lo k => (regsSpelled k l).bind fun o => if o = .lane then none else some (regPart lo k o)
  | .pairs lo => (pairSpelled l).bind fun o => match o with
    | .v n => if n % 4 = 0 then some (regPart lo 4 o) else none
    | .s n => if n % 4 = 0 then some (regPart lo 4 o) else none
    | .zero => some (regPart lo 4 o)
    | _ => none
  | .group lo k => (regSpelled l).bind fun o => if o = .lane then none else some (regPart lo k o)
  | .src lo k fmt => srcPart ws lo k fmt l
  | .val lo =>
    match pairSpelled l, regSpelled l with
    | some o, _ => some (regPart lo 1 o)
    | none, some o => some (regPart lo 1 o)
    | none, none => srcPart ws lo 2 none l
  | .addr => addrPart ws l
  | .base => evenScalar 14 l
  | .hdr => evenScalar 17 l
  | .pred lo => (predOf l).map fun n => { bits := n * 2 ^ lo }
  | .predInv lo inv => predInvPart lo inv l
  | .num lo w min max => numPart ws lo w min max l
  | .count => (constOf l).bind fun v => if 1 ≤ v ∧ v ≤ 64 then some { bits := (v - 1).toNat * 2 ^ 16 } else none
  | .steps => stepsPart l
  | .scope => scopePart l
  | .target => targetPart l
  | .conv lo => (lettered 'k' 16 l).map fun n => { bits := n * 2 ^ lo }
  | .bar lo => (lettered 'b' 16 l).map fun n => { bits := n * 2 ^ lo }
  | .ctr lo => ctrPart lo l
  | .acc e m => accPart e m l
  | .sreg wide => sregPart wide l

/-- Takes the brackets from an operand, none where they are not as the form has them. -/
def Bracket.strip (b : Bracket) (l : List Char) : Option (List Char) :=
  let front := fun (l : List Char) => match l with | '[' :: r => some (trimmed r) | _ => none
  let back := fun (l : List Char) => match l.reverse with | ']' :: r => some (trimmed r.reverse) | _ => none
  match b with
  | .bare => if l.any (fun c => c == '[' || c == ']') then none else some l
  | .opens => front l
  | .closes => back l
  | .both => (front l).bind back

/-! Instructions (R88). -/

/-- The parts of a mnemonic between its points. -/
def pointed : List Char → List (List Char)
  | [] => [[]]
  | '.' :: r => [] :: pointed r
  | c :: r =>
    match pointed r with
    | [] => [[c]]
    | x :: xs => (c :: x) :: xs

/-- The parts of all operands of a form. -/
def partsOf (ws : WindowNames) : List (Bracket × AsmArg) → List (List Char) → Option (List AsmPart)
  | [], [] => some []
  | (b, a) :: as, l :: ls =>
    (b.strip l).bind fun t => (a.part ws t).bind fun p => (partsOf ws as ls).map fun ps => p :: ps
  | _, _ => none

/-- The references of literals, each counted from the first literal of its instruction. -/
def litRefs : Nat → List AsmPart → List SymRef
  | _, [] => []
  | k, p :: r => p.litRefs.map (fun x => { x with word := k }) ++ litRefs (k + p.lits.length) r

/-- The instruction that a line is in a form, with its expressions and the v registers that it reaches: its word is decoded again, so that nothing that the spec does
not allow is written. A guard on an unguarded form is an error (R88). -/
def AsmForm.read (f : AsmForm) (ws : WindowNames) (sufs : List String) (x : SourceLine) : Option (Instr × List SymRef × Nat) :=
  (sufBits f.sufs sufs).bind fun s =>
    (match f.guard, x.guard with
      | some at_, g => some (g.getD 0 * 2 ^ at_)
      | none, none => some 0
      | none, some _ => none).bind fun g =>
    (partsOf ws f.args x.operands).bind fun ps =>
      let w := f.base + s + g + (ps.map AsmPart.bits).foldl (· + ·) 0
      let byField := sortBy (fun (p : AsmPart) => 32 - p.field) (ps.filter fun p => decide (p.lits ≠ []))
      match decodeWord f.cls w (byField.flatMap fun (p : AsmPart) => p.lits.map (BitVec.ofNat 32)) with
      | .ok (i, []) => 
        if i.wf then some (i, ps.flatMap AsmPart.own ++ litRefs 1 byField, (ps.map AsmPart.top).foldl max 0) else none
      | _ => none

/-- The instruction of a line: that of the first form that takes it, none for an assembly error. -/
def readInstr (ws : WindowNames) (x : SourceLine) : Option (Instr × List SymRef × Nat) :=
  match (pointed x.mnemonic).map String.ofList with
  | [] => none
  | n :: sufs => if !x.guardOk then none else (asmForms.filter fun f => f.name = n).findSome? fun f => f.read ws sufs x

/-! Directives (R94). -/

/-- A kernel as it is read: what its directives say, how often `.entry` stood, and how many lines of text came before it. -/
structure OpenKernel where
  decl : KernelDecl
  entries : Nat
  start : Nat
  deriving DecidableEq, Repr

/-- Where the assembler stands in the source: the section, the labels that wait for their line, the text, the data with its labels,
relocations and alignment, the kernels, the exports, and whether an explicit clause is open. -/
structure AsmState where
  inData : Bool := false
  waiting : List (List Char) := []
  text : List SrcLine := []
  data : List Byte := []
  dataLabels : List (List Char × Nat) := []
  dataRelocs : List Reloc := []
  dataAlign : Nat := 1
  open_ : Option OpenKernel := none
  kernels : List KernelDecl := []
  exported : List (List Char) := []
  braced : Bool := false
  deriving DecidableEq, Repr

/-- The windows that an expression may name: those of the open kernel (R90, R94). -/
def AsmState.windows (s : AsmState) : WindowNames :=
  ((s.open_.map fun k => k.decl.windows).getD []).map fun w => (w.1, w.2.1)

/-- Bytes of data at the end, under the labels that wait. -/
def AsmState.putData (s : AsmState) (bs : List Byte) (rels : List SymRef) : AsmState :=
  { s with
    dataLabels := s.dataLabels ++ s.waiting.map fun n => (n, s.data.length),
    waiting := [],
    dataRelocs := s.dataRelocs ++ rels.map fun r => ⟨s.data.length, r.type, r.sym, r.add, 0⟩,
    data := s.data ++ bs }

/-- A line at the end of the text, which has taken the labels that wait. -/
def AsmState.putText (s : AsmState) (x : SrcLine) : AsmState := { s with text := s.text ++ [x], waiting := [] }

/-- `.word` and `.dword`: a value of `k` words. -/
def AsmState.value (s : AsmState) (k : Nat) (l : List Char) : Option AsmState :=
  (exprOf l).bind fun e => (e.words s.windows k).map fun x =>
    if s.inData then s.putData (x.1.flatMap (valBytes 4)) x.2 else s.putText (.data s.waiting (x.1.flatMap (valBytes 4)) x.2)

/-- `.space`: zero bytes. -/
def AsmState.space (s : AsmState) (n : Nat) : AsmState :=
  if s.inData then s.putData (zeros n) [] else s.putText (.data s.waiting (zeros n) [])

/-- `.align`: zero bytes up to a multiple of a power of two. -/
def AsmState.alignTo (s : AsmState) (n : Nat) : Option AsmState :=
  if n = 0 ∨ 4096 < n ∨ 2 ^ Nat.log2 n ≠ n then none
  else if s.inData then some { s.putData (zeros (padding s.data.length n)) [] with dataAlign := max s.dataAlign n }
  else if 4 ≤ n then some (s.putText (.align s.waiting n))
  else none

/-- Changes the declaration of the open kernel; outside a kernel that is an error. -/
def AsmState.declare (s : AsmState) (f : KernelDecl → KernelDecl) : Option AsmState :=
  s.open_.map fun k => { s with open_ := some { k with decl := f k.decl } }

/-- A count: a number that is a constant. -/
def natOf (l : List Char) : Option Nat := (constOf l).bind fun v => if 0 ≤ v then some v.toNat else none

/-- A word of the source in small letters. -/
def word (l : List Char) : String := String.ofList (l.map Char.toLower)

/-- A value within the limits of its directive. -/
def within (p : Prop) [Decidable p] (x : Option AsmState) : Option AsmState := if p then x else none

/-- A directive of a kernel: each keeps its limits by itself (R94), those that take others together are tested at the end. -/
def AsmState.kernelDirective (s : AsmState) (d : String) (ops : List (List Char)) : Option AsmState :=
  match d, ops with
  | ".entry", [l] =>
    if isName l then s.open_.map fun k => { s with open_ := some { k with decl := { k.decl with entry := l }, entries := k.entries + 1 } }
    else none
  | ".width", [w] => (natOf w).bind fun n => within (n ∈ [16, 32, 64]) (s.declare fun k => { k with width := n })
  | ".regs", [r, n] => (natOf n).bind fun n =>
      within (1 ≤ n ∧ n ≤ 96) <| if word r = "producer" then s.declare fun k => { k with regp := n }
      else if word r = "consumer" then s.declare fun k => { k with regc := n }
      else none
  | ".roles", [a, b] => (natOf a).bind fun a => (natOf b).bind fun b =>
      within (1 ≤ a + b ∧ a + b ≤ 12) (s.declare fun k => { k with np := a, nc := b })
  | ".scratch", [n] => (natOf n).bind fun n =>
      within (n % 256 = 0 ∧ n ≤ 12 * 2 ^ 20) (s.declare fun k => { k with scratch := n })
  | ".window", [n, o, z] => (natOf o).bind fun o => (natOf z).bind fun z =>
      s.declare fun k => { k with windows := k.windows ++ [(n, o, z)] }
  | ".tree", [n, op, l] => (pos (fun x => x == word op) ["f32", "f64", "smx"]).bind fun op => (natOf l).bind fun l =>
      within (1 ≤ l ∧ l ≤ 2 ^ 38) (s.declare fun k => { k with trees := k.trees ++ [(n, op, l)] })
  | ".pair", [] => s.declare fun k => { k with pair := true }
  | ".progress", m :: q =>
    (if word m = "on" then some true else if word m = "off" then some false else none).bind fun on =>
      match q with
      | [] => s.declare fun k => { k with progress := on }
      | [n] => (natOf n).bind fun n =>
          within (256 ≤ n ∧ n ≤ 65536 ∧ n % 256 = 0) (s.declare fun k => { k with progress := on, quantum := n })
      | _ => none
  | _, _ => none

/-- The instructions among lines. -/
def instrsOf (l : List SrcLine) : List SrcInstr := l.filterMap fun x => match x with | .code y => some y | _ => none

/-- Closes the kernel (R94, R95): it has had one `.entry`, whose label stands inside it, and its registers lie within a budget. -/
def AsmState.closeKernel (s : AsmState) : Option AsmState :=
  s.open_.bind fun k =>
    let own := s.text.drop k.start
    if k.entries = 1 ∧ k.decl.entry ∈ own.flatMap SrcLine.labels ∧ k.decl.withinBudget (instrsOf own) = true then
      some { s with open_ := none, kernels := s.kernels ++ [k.decl] }
    else none

/-- A directive (R94), none where it stands out of place or has an operand outside its limits. None may stand between the brackets
of an explicit clause: DESIGN CHOICE (log 16). -/
def AsmState.directive (s : AsmState) (d : String) (ops : List (List Char)) : Option AsmState :=
  if s.braced then none
  else match d, ops with
  | ".text", [] => some { s with inData := false }
  | ".data", [] => some { s with inData := true }
  | ".word", [e] => s.value 1 e
  | ".dword", [e] => s.value 2 e
  | ".space", [n] => (natOf n).map s.space
  | ".align", [n] => (natOf n).bind s.alignTo
  | ".global", [n] => if isName n then some { s with exported := s.exported ++ [n] } else none
  | ".kernel", [n] =>
    if isName n ∧ s.open_ = none then
      some { s with inData := false, open_ := some { decl := { name := n, entry := [] }, entries := 0, start := s.text.length } }
    else none
  | ".endkernel", [] => s.closeKernel
  | d, ops => s.kernelDirective d ops

/-! Lines (R87, R91). -/

/-- One attribute of a clause after another, `wait` with its counter and its number between commas (R91). -/
def attrsOf : List (List Char) → Bool → Option (Ctr × Nat) → Bool → Option (Bool × Option (Ctr × Nat) × Bool)
  | [], e, w, t => some (e, w, t)
  | a :: r, e, w, t =>
    if word a = "entry" then attrsOf r true w t
    else if word a = "trap" then attrsOf r e w true
    else match r with
      | n :: r2 =>
        let c := trimmed (a.drop 4)
        let ctr : Option Ctr := match word c with
          | "st" => some .st
          | "mx" => some .mx
          | "gx" => some .gx
          | "ct" => some .ct
          | _ => none
        match decide (word (a.take 4) = "wait"), w, ctr, natOf n with
        | true, none, some c, some n => if n < 16 then attrsOf r2 e (some (c, n)) t else none
        | _, _, _, _ => none
      | [] => none

/-- The text of a line behind its label, the comment taken off. -/
def bodyOf (l : List Char) : List Char := (splitLabel (uncomment l)).2

/-- A line of the source (R87): a clause bracket, a directive, or an instruction, behind its label. None is an assembly error. -/
def AsmState.line (s : AsmState) (l : List Char) : Option AsmState :=
  let x := readLine l
  let s1 := match x.label with | some n => { s with waiting := s.waiting ++ [n] } | none => s
  match bodyOf l with
  | [] => some s1
  | c :: r =>
    if c = Char.ofNat 123 then
      if s.braced ∨ s.inData then none
      else (attrsOf (if trimmed r = [] then [] else (commas r).map trimmed) false none false).map fun a =>
        { s1.putText (.opens s1.waiting a.1 a.2.1 a.2.2) with braced := true }
    else if c = Char.ofNat 125 then
      if s.braced ∧ trimmed r = [] ∧ s1.waiting = [] then some { s1.putText .closes with braced := false } else none
    else if c = '.' then
      if x.guard = none ∧ x.guardOk ∧ x.bang = false then s1.directive (String.ofList x.mnemonic) x.operands else none
    else if s.inData then none
    else (readInstr s1.windows x).map fun i => s1.putText (.code ⟨s1.waiting, x.bang, i.1, i.2.1, i.2.2⟩)

/-- The lines of a source, one after the other. -/
def AsmState.lines : AsmState → List (List Char) → Option AsmState
  | s, [] => some s
  | s, l :: r => (s.line l).bind fun t => t.lines r

/-! The object (R96, R97). -/

/-- A symbol before its name has an offset: its name, section, value, kind, and size. -/
structure AsmSymbol where
  name : List Char
  sect : Nat
  value : Nat
  kind : Nat
  size : Nat := 0
  deriving DecidableEq, Repr

/-- The symbols that a source defines: code labels in section 0, data labels in section 1, kernels in section 2, windows, trees. -/
def AsmState.symbols (s : AsmState) (x : Section) : List AsmSymbol :=
  let starts := s.kernels.foldl (fun (p : Nat × List AsmSymbol) k =>
    (p.1 + 64 + 16 * k.windows.length + 16 * k.trees.length, p.2 ++ [⟨k.name, 2, p.1, 3, 64 + 16 * k.windows.length + 16 * k.trees.length⟩])) (0, [])
  x.labels.map (fun l => ⟨l.1, 0, l.2, 1, 0⟩) ++ s.dataLabels.map (fun l => ⟨l.1, 1, l.2, 2, 0⟩) ++ starts.2 ++
  s.kernels.flatMap (fun k => k.windows.map fun w => ⟨w.1, 0xFFFFFFFE, w.2.1, 4, w.2.2⟩) ++
  s.kernels.flatMap (fun k => mapFrom (fun i (t : List Char × Nat × Nat) => ⟨t.1, 0xFFFFFFFE, i, 5, 0⟩) 0 k.trees)

/-- The symbols of an object: those defined, then those that its relocations name and another object defines. -/
def AsmState.allSymbols (s : AsmState) (x : Section) : List AsmSymbol :=
  let own := s.symbols x
  let named := ((x.relocs ++ s.dataRelocs).map Reloc.sym).filter fun n => decide (n ≠ []) && own.all fun y => y.name ≠ n
  own ++ named.eraseDups.map fun n => ⟨n, 0xFFFFFFFF, 0, 0, 0⟩

/-- The bytes of a name, with the zero byte that ends it. -/
def nameBytes (n : List Char) : List Byte := n.map (fun c => BitVec.ofNat 8 c.toNat) ++ [0]

/-- The offsets of names in the string table, and the table: it begins with a zero byte (R97). -/
def stringTable (names : List (List Char)) : List Nat × List Byte :=
  names.foldl (fun (p : List Nat × List Byte) n => (p.1 ++ [p.2.length], p.2 ++ nameBytes n)) ([], [0])

/-- A symbol entry (R97). -/
def symbolBytes (exported : List (List Char)) (x : AsmSymbol) (name : Nat) : List Byte :=
  valBytes 4 name ++ valBytes 4 x.sect ++ valBytes 8 x.value ++ valBytes 4 x.size ++
  valBytes 1 (if x.sect = 0xFFFFFFFF ∨ x.name ∈ exported then 1 else 0) ++ valBytes 1 x.kind ++ zeros 2

/-- The code of a relocation type (R98). -/
def RelType.code : RelType → Nat
  | .abs64 => 1
  | .abs32 => 2
  | .lo32 => 3
  | .hi32 => 4
  | .boff21 => 5
  | .imm11s => 6
  | .imm11u => 7
  | .spad24 => 8
  | .handle20 => 9

/-- The index of a symbol of an object; symbol 0 is the null entry (R97). -/
def symbolIndex (syms : List AsmSymbol) (n : List Char) : Nat := ((pos (fun (x : AsmSymbol) => x.name == n) syms).map (· + 1)).getD 0

/-- A relocation entry (R97). -/
def relocBytes (syms : List AsmSymbol) (sect : Nat) (r : Reloc) : List Byte :=
  valBytes 4 sect ++ valBytes 4 r.type.code ++ valBytes 8 r.offset ++ valBytes 4 (symbolIndex syms r.sym) ++ valBytes 4 r.hdr ++
  valBytes 8 (r.add % 2 ^ 64).toNat

/-- A kernel descriptor (R97). -/
def kernelBytes (syms : List AsmSymbol) (x : Section) (k : KernelDecl) : List Byte :=
  valBytes 4 (symbolIndex syms k.name) ++ valBytes 4 (((x.labels.find? fun p => p.1 = k.entry).map Prod.snd).getD 0) ++
  valBytes 1 (if k.width = 16 then 0 else if k.width = 32 then 1 else 2) ++ valBytes 1 k.regp ++ valBytes 1 k.regc ++
  valBytes 1 (k.np + 16 * k.nc) ++ valBytes 1 ((if k.pair then 1 else 0) + if k.progress then 2 else 0) ++ zeros 1 ++
  valBytes 2 (k.quantum / 256) ++ valBytes 4 k.scratch ++ valBytes 1 k.windows.length ++ valBytes 1 k.trees.length ++ zeros 42 ++
  k.windows.flatMap (fun w => valBytes 4 (symbolIndex syms w.1) ++ valBytes 4 w.2.1 ++ valBytes 4 w.2.2 ++ zeros 4) ++
  k.trees.flatMap (fun t => valBytes 4 (symbolIndex syms t.1) ++ valBytes 5 t.2.2 ++ valBytes 1 t.2.1 ++ zeros 6)

/-- The section table and contents of a file whose sections stand one after the other from an offset: of each the name's offset,
alignment, kind and contents (R96, R97). -/
def placeSections : Nat → List (Nat × Nat × Nat × List Byte) → List Byte × List Byte
  | _, [] => ([], [])
  | o, (name, align, kind, bs) :: r =>
    let gap := if bs = [] then 0 else padding o align
    let next := placeSections (o + gap + bs.length) r
    (valBytes 4 name ++ valBytes 4 (if bs = [] then 0 else o + gap) ++ valBytes 4 bs.length ++ valBytes 4 align ++
      valBytes 1 kind ++ valBytes 1 (flagsOf kind) ++ zeros 6 ++ next.1, zeros gap ++ bs ++ next.2)

/-- The object of a source (R96, R97): header, section table, then `.text`, `.data`, `.kdesc`, `.symtab`, `.strtab`, `.rel`. -/
def AsmState.object (s : AsmState) (x : Section) : List Byte :=
  let syms := s.allSymbols x
  let sects := [".text", ".data", ".kdesc", ".symtab", ".strtab", ".rel"].map String.toList
  let strs := stringTable (sects ++ syms.map AsmSymbol.name)
  let name := fun (k : Nat) => (strs.1[k]?).getD 0
  let entries := zeros 24 ++ (mapFrom (fun i y => symbolBytes s.exported y (name (6 + i))) 0 syms).flatten
  let rels := x.relocs.flatMap (relocBytes syms 0) ++ s.dataRelocs.flatMap (relocBytes syms 1)
  let body := placeSections (32 + 24 * 6) [
    (name 0, 4096, 1, x.bytes), (name 1, s.dataAlign, 2, s.data),
    (name 2, 8, 3, s.kernels.flatMap (kernelBytes syms x)), (name 3, 8, 4, entries), (name 4, 1, 5, strs.2), (name 5, 8, 6, rels)]
  valBytes 4 0x00464F4D ++ valBytes 2 1 ++ valBytes 2 0x0B09 ++ valBytes 4 6 ++ valBytes 4 32 ++ zeros 16 ++ body.1 ++ body.2

/-- The lines of a text. -/
def sourceLines : List Char → List (List Char)
  | [] => [[]]
  | '\n' :: r => [] :: sourceLines r
  | c :: r =>
    match sourceLines r with
    | [] => [[c]]
    | x :: xs => (c :: x) :: xs

/-- The object that adem makes of a source, none on an assembly error: an open kernel or clause, a symbol defined twice, an export
of what is not defined, or a kernel outside its limits (R87 to R97). -/
def adem (source : List Char) : Option (List Byte) :=
  (AsmState.lines {} (sourceLines source)).bind fun s =>
    let done := if s.inData then s.putData [] [] else s.putText (.data s.waiting [] [])
    if s.open_ ≠ none ∨ s.braced then none
    else (assemble done.text).bind fun x =>
      let names := (done.symbols x).map AsmSymbol.name
      if names.all isName && decide names.Nodup && done.exported.all (fun n => names.contains n) &&
          done.kernels.all (fun k => k.ok x) then
        some (done.object x)
      else none

end Sys2Proof.Machine
end

