-- ==== Sys2Proof/Laws/Assembler.lean ====
section
/-!
SUPPORT. What the assembler can do: it writes well-formed instructions only, and its first form that takes a line decides.
-/

namespace Sys2Proof.Laws

open Sys2Proof.Machine

/-- A form reads nothing but well-formed instructions. -/
theorem formRead_wf {f : AsmForm} {ws : WindowNames} {sufs : List String} {x : SourceLine} {i : Instr} {r : List SymRef × Nat}
    (h : f.read ws sufs x = some (i, r)) : i.wf = true := by
  simp only [AsmForm.read, Option.bind_eq_some_iff] at h
  obtain ⟨s, -, g, -, ps, -, h⟩ := h
  split at h
  · split at h
    · cases h; assumption
    · cases h
  · cases h

/-- An instruction of the source is well-formed. -/
theorem readInstr_wf {ws : WindowNames} {x : SourceLine} {i : Instr} {r : List SymRef × Nat} (h : readInstr ws x = some (i, r)) :
    i.wf = true := by
  simp only [readInstr] at h
  split at h
  · cases h
  · split at h
    · cases h
    · obtain ⟨f, -, hf⟩ := List.exists_of_findSome?_eq_some h
      exact formRead_wf hf

end Sys2Proof.Laws
end

