-- ==== Sys2Proof/Laws/State.lean ====
section
/-!
SUPPORT. What each update of State does to each field: its own field takes the new value, every other field stays.
-/

namespace Sys2Proof.Laws

open Sys2Proof.Machine

/-! State.updThr. -/

@[simp] theorem updThr_clk (s : State) (t : Nat) (f : Thread → Thread) : (s.updThr t f).clk = s.clk := rfl
@[simp] theorem updThr_wall (s : State) (t : Nat) (f : Thread → Thread) : (s.updThr t f).wall = s.wall := rfl
@[simp] theorem updThr_threads (s : State) (t : Nat) (f : Thread → Thread) : (s.updThr t f).threads = upd s.threads t f := rfl
@[simp] theorem updThr_groups (s : State) (t : Nat) (f : Thread → Thread) : (s.updThr t f).groups = s.groups := rfl
@[simp] theorem updThr_teams (s : State) (t : Nat) (f : Thread → Thread) : (s.updThr t f).teams = s.teams := rfl
@[simp] theorem updThr_launches (s : State) (t : Nat) (f : Thread → Thread) : (s.updThr t f).launches = s.launches := rfl
@[simp] theorem updThr_units (s : State) (t : Nat) (f : Thread → Thread) : (s.updThr t f).units = s.units := rfl
@[simp] theorem updThr_folds (s : State) (t : Nat) (f : Thread → Thread) : (s.updThr t f).folds = s.folds := rfl
@[simp] theorem updThr_ctxs (s : State) (t : Nat) (f : Thread → Thread) : (s.updThr t f).ctxs = s.ctxs := rfl
@[simp] theorem updThr_sto (s : State) (t : Nat) (f : Thread → Thread) : (s.updThr t f).sto = s.sto := rfl
@[simp] theorem updThr_fly (s : State) (t : Nat) (f : Thread → Thread) : (s.updThr t f).fly = s.fly := rfl
@[simp] theorem updThr_dies (s : State) (t : Nat) (f : Thread → Thread) : (s.updThr t f).dies = s.dies := rfl
@[simp] theorem updThr_slices (s : State) (t : Nat) (f : Thread → Thread) : (s.updThr t f).slices = s.slices := rfl
@[simp] theorem updThr_health (s : State) (t : Nat) (f : Thread → Thread) : (s.updThr t f).health = s.health := rfl
@[simp] theorem updThr_bar0 (s : State) (t : Nat) (f : Thread → Thread) : (s.updThr t f).bar0 = s.bar0 := rfl
@[simp] theorem updThr_fabric (s : State) (t : Nat) (f : Thread → Thread) : (s.updThr t f).fabric = s.fabric := rfl
@[simp] theorem updThr_fw (s : State) (t : Nat) (f : Thread → Thread) : (s.updThr t f).fw = s.fw := rfl
@[simp] theorem updThr_saveEntry (s : State) (t : Nat) (f : Thread → Thread) : (s.updThr t f).saveEntry = s.saveEntry := rfl
@[simp] theorem updThr_msi (s : State) (t : Nat) (f : Thread → Thread) : (s.updThr t f).msi = s.msi := rfl
@[simp] theorem updThr_msix (s : State) (t : Nat) (f : Thread → Thread) : (s.updThr t f).msix = s.msix := rfl
@[simp] theorem updThr_msixPending (s : State) (t : Nat) (f : Thread → Thread) : (s.updThr t f).msixPending = s.msixPending := rfl
@[simp] theorem updThr_hostReads (s : State) (t : Nat) (f : Thread → Thread) : (s.updThr t f).hostReads = s.hostReads := rfl
@[simp] theorem updThr_ticks (s : State) (t : Nat) (f : Thread → Thread) : (s.updThr t f).ticks = s.ticks := rfl
@[simp] theorem updThr_copyTurn (s : State) (t : Nat) (f : Thread → Thread) : (s.updThr t f).copyTurn = s.copyTurn := rfl
@[simp] theorem updThr_agenda (s : State) (t : Nat) (f : Thread → Thread) : (s.updThr t f).agenda = s.agenda := rfl
@[simp] theorem updThr_work (s : State) (t : Nat) (f : Thread → Thread) : (s.updThr t f).work = s.work := rfl
@[simp] theorem updThr_cur (s : State) (t : Nat) (f : Thread → Thread) : (s.updThr t f).cur = s.cur := rfl
@[simp] theorem updThr_taken (s : State) (t : Nat) (f : Thread → Thread) : (s.updThr t f).taken = s.taken := rfl
@[simp] theorem updThr_formed (s : State) (t : Nat) (f : Thread → Thread) : (s.updThr t f).formed = s.formed := rfl
@[simp] theorem updThr_nextId (s : State) (t : Nat) (f : Thread → Thread) : (s.updThr t f).nextId = s.nextId := rfl
@[simp] theorem updThr_fresh (s : State) (t : Nat) (f : Thread → Thread) : (s.updThr t f).fresh = s.fresh := rfl

/-! State.updGrp. -/

@[simp] theorem updGrp_clk (s : State) (g : Nat) (f : Group → Group) : (s.updGrp g f).clk = s.clk := rfl
@[simp] theorem updGrp_wall (s : State) (g : Nat) (f : Group → Group) : (s.updGrp g f).wall = s.wall := rfl
@[simp] theorem updGrp_threads (s : State) (g : Nat) (f : Group → Group) : (s.updGrp g f).threads = s.threads := rfl
@[simp] theorem updGrp_groups (s : State) (g : Nat) (f : Group → Group) : (s.updGrp g f).groups = upd s.groups g f := rfl
@[simp] theorem updGrp_teams (s : State) (g : Nat) (f : Group → Group) : (s.updGrp g f).teams = s.teams := rfl
@[simp] theorem updGrp_launches (s : State) (g : Nat) (f : Group → Group) : (s.updGrp g f).launches = s.launches := rfl
@[simp] theorem updGrp_units (s : State) (g : Nat) (f : Group → Group) : (s.updGrp g f).units = s.units := rfl
@[simp] theorem updGrp_folds (s : State) (g : Nat) (f : Group → Group) : (s.updGrp g f).folds = s.folds := rfl
@[simp] theorem updGrp_ctxs (s : State) (g : Nat) (f : Group → Group) : (s.updGrp g f).ctxs = s.ctxs := rfl
@[simp] theorem updGrp_sto (s : State) (g : Nat) (f : Group → Group) : (s.updGrp g f).sto = s.sto := rfl
@[simp] theorem updGrp_fly (s : State) (g : Nat) (f : Group → Group) : (s.updGrp g f).fly = s.fly := rfl
@[simp] theorem updGrp_dies (s : State) (g : Nat) (f : Group → Group) : (s.updGrp g f).dies = s.dies := rfl
@[simp] theorem updGrp_slices (s : State) (g : Nat) (f : Group → Group) : (s.updGrp g f).slices = s.slices := rfl
@[simp] theorem updGrp_health (s : State) (g : Nat) (f : Group → Group) : (s.updGrp g f).health = s.health := rfl
@[simp] theorem updGrp_bar0 (s : State) (g : Nat) (f : Group → Group) : (s.updGrp g f).bar0 = s.bar0 := rfl
@[simp] theorem updGrp_fabric (s : State) (g : Nat) (f : Group → Group) : (s.updGrp g f).fabric = s.fabric := rfl
@[simp] theorem updGrp_fw (s : State) (g : Nat) (f : Group → Group) : (s.updGrp g f).fw = s.fw := rfl
@[simp] theorem updGrp_saveEntry (s : State) (g : Nat) (f : Group → Group) : (s.updGrp g f).saveEntry = s.saveEntry := rfl
@[simp] theorem updGrp_msi (s : State) (g : Nat) (f : Group → Group) : (s.updGrp g f).msi = s.msi := rfl
@[simp] theorem updGrp_msix (s : State) (g : Nat) (f : Group → Group) : (s.updGrp g f).msix = s.msix := rfl
@[simp] theorem updGrp_msixPending (s : State) (g : Nat) (f : Group → Group) : (s.updGrp g f).msixPending = s.msixPending := rfl
@[simp] theorem updGrp_hostReads (s : State) (g : Nat) (f : Group → Group) : (s.updGrp g f).hostReads = s.hostReads := rfl
@[simp] theorem updGrp_ticks (s : State) (g : Nat) (f : Group → Group) : (s.updGrp g f).ticks = s.ticks := rfl
@[simp] theorem updGrp_copyTurn (s : State) (g : Nat) (f : Group → Group) : (s.updGrp g f).copyTurn = s.copyTurn := rfl
@[simp] theorem updGrp_agenda (s : State) (g : Nat) (f : Group → Group) : (s.updGrp g f).agenda = s.agenda := rfl
@[simp] theorem updGrp_work (s : State) (g : Nat) (f : Group → Group) : (s.updGrp g f).work = s.work := rfl
@[simp] theorem updGrp_cur (s : State) (g : Nat) (f : Group → Group) : (s.updGrp g f).cur = s.cur := rfl
@[simp] theorem updGrp_taken (s : State) (g : Nat) (f : Group → Group) : (s.updGrp g f).taken = s.taken := rfl
@[simp] theorem updGrp_formed (s : State) (g : Nat) (f : Group → Group) : (s.updGrp g f).formed = s.formed := rfl
@[simp] theorem updGrp_nextId (s : State) (g : Nat) (f : Group → Group) : (s.updGrp g f).nextId = s.nextId := rfl
@[simp] theorem updGrp_fresh (s : State) (g : Nat) (f : Group → Group) : (s.updGrp g f).fresh = s.fresh := rfl

/-! State.updTeam. -/

@[simp] theorem updTeam_clk (s : State) (m : Nat) (f : Team → Team) : (s.updTeam m f).clk = s.clk := rfl
@[simp] theorem updTeam_wall (s : State) (m : Nat) (f : Team → Team) : (s.updTeam m f).wall = s.wall := rfl
@[simp] theorem updTeam_threads (s : State) (m : Nat) (f : Team → Team) : (s.updTeam m f).threads = s.threads := rfl
@[simp] theorem updTeam_groups (s : State) (m : Nat) (f : Team → Team) : (s.updTeam m f).groups = s.groups := rfl
@[simp] theorem updTeam_teams (s : State) (m : Nat) (f : Team → Team) : (s.updTeam m f).teams = upd s.teams m f := rfl
@[simp] theorem updTeam_launches (s : State) (m : Nat) (f : Team → Team) : (s.updTeam m f).launches = s.launches := rfl
@[simp] theorem updTeam_units (s : State) (m : Nat) (f : Team → Team) : (s.updTeam m f).units = s.units := rfl
@[simp] theorem updTeam_folds (s : State) (m : Nat) (f : Team → Team) : (s.updTeam m f).folds = s.folds := rfl
@[simp] theorem updTeam_ctxs (s : State) (m : Nat) (f : Team → Team) : (s.updTeam m f).ctxs = s.ctxs := rfl
@[simp] theorem updTeam_sto (s : State) (m : Nat) (f : Team → Team) : (s.updTeam m f).sto = s.sto := rfl
@[simp] theorem updTeam_fly (s : State) (m : Nat) (f : Team → Team) : (s.updTeam m f).fly = s.fly := rfl
@[simp] theorem updTeam_dies (s : State) (m : Nat) (f : Team → Team) : (s.updTeam m f).dies = s.dies := rfl
@[simp] theorem updTeam_slices (s : State) (m : Nat) (f : Team → Team) : (s.updTeam m f).slices = s.slices := rfl
@[simp] theorem updTeam_health (s : State) (m : Nat) (f : Team → Team) : (s.updTeam m f).health = s.health := rfl
@[simp] theorem updTeam_bar0 (s : State) (m : Nat) (f : Team → Team) : (s.updTeam m f).bar0 = s.bar0 := rfl
@[simp] theorem updTeam_fabric (s : State) (m : Nat) (f : Team → Team) : (s.updTeam m f).fabric = s.fabric := rfl
@[simp] theorem updTeam_fw (s : State) (m : Nat) (f : Team → Team) : (s.updTeam m f).fw = s.fw := rfl
@[simp] theorem updTeam_saveEntry (s : State) (m : Nat) (f : Team → Team) : (s.updTeam m f).saveEntry = s.saveEntry := rfl
@[simp] theorem updTeam_msi (s : State) (m : Nat) (f : Team → Team) : (s.updTeam m f).msi = s.msi := rfl
@[simp] theorem updTeam_msix (s : State) (m : Nat) (f : Team → Team) : (s.updTeam m f).msix = s.msix := rfl
@[simp] theorem updTeam_msixPending (s : State) (m : Nat) (f : Team → Team) : (s.updTeam m f).msixPending = s.msixPending := rfl
@[simp] theorem updTeam_hostReads (s : State) (m : Nat) (f : Team → Team) : (s.updTeam m f).hostReads = s.hostReads := rfl
@[simp] theorem updTeam_ticks (s : State) (m : Nat) (f : Team → Team) : (s.updTeam m f).ticks = s.ticks := rfl
@[simp] theorem updTeam_copyTurn (s : State) (m : Nat) (f : Team → Team) : (s.updTeam m f).copyTurn = s.copyTurn := rfl
@[simp] theorem updTeam_agenda (s : State) (m : Nat) (f : Team → Team) : (s.updTeam m f).agenda = s.agenda := rfl
@[simp] theorem updTeam_work (s : State) (m : Nat) (f : Team → Team) : (s.updTeam m f).work = s.work := rfl
@[simp] theorem updTeam_cur (s : State) (m : Nat) (f : Team → Team) : (s.updTeam m f).cur = s.cur := rfl
@[simp] theorem updTeam_taken (s : State) (m : Nat) (f : Team → Team) : (s.updTeam m f).taken = s.taken := rfl
@[simp] theorem updTeam_formed (s : State) (m : Nat) (f : Team → Team) : (s.updTeam m f).formed = s.formed := rfl
@[simp] theorem updTeam_nextId (s : State) (m : Nat) (f : Team → Team) : (s.updTeam m f).nextId = s.nextId := rfl
@[simp] theorem updTeam_fresh (s : State) (m : Nat) (f : Team → Team) : (s.updTeam m f).fresh = s.fresh := rfl

/-! State.updLaunch. -/

@[simp] theorem updLaunch_clk (s : State) (l : Nat) (f : Launch → Launch) : (s.updLaunch l f).clk = s.clk := rfl
@[simp] theorem updLaunch_wall (s : State) (l : Nat) (f : Launch → Launch) : (s.updLaunch l f).wall = s.wall := rfl
@[simp] theorem updLaunch_threads (s : State) (l : Nat) (f : Launch → Launch) : (s.updLaunch l f).threads = s.threads := rfl
@[simp] theorem updLaunch_groups (s : State) (l : Nat) (f : Launch → Launch) : (s.updLaunch l f).groups = s.groups := rfl
@[simp] theorem updLaunch_teams (s : State) (l : Nat) (f : Launch → Launch) : (s.updLaunch l f).teams = s.teams := rfl
@[simp] theorem updLaunch_launches (s : State) (l : Nat) (f : Launch → Launch) : (s.updLaunch l f).launches = upd s.launches l f := rfl
@[simp] theorem updLaunch_units (s : State) (l : Nat) (f : Launch → Launch) : (s.updLaunch l f).units = s.units := rfl
@[simp] theorem updLaunch_folds (s : State) (l : Nat) (f : Launch → Launch) : (s.updLaunch l f).folds = s.folds := rfl
@[simp] theorem updLaunch_ctxs (s : State) (l : Nat) (f : Launch → Launch) : (s.updLaunch l f).ctxs = s.ctxs := rfl
@[simp] theorem updLaunch_sto (s : State) (l : Nat) (f : Launch → Launch) : (s.updLaunch l f).sto = s.sto := rfl
@[simp] theorem updLaunch_fly (s : State) (l : Nat) (f : Launch → Launch) : (s.updLaunch l f).fly = s.fly := rfl
@[simp] theorem updLaunch_dies (s : State) (l : Nat) (f : Launch → Launch) : (s.updLaunch l f).dies = s.dies := rfl
@[simp] theorem updLaunch_slices (s : State) (l : Nat) (f : Launch → Launch) : (s.updLaunch l f).slices = s.slices := rfl
@[simp] theorem updLaunch_health (s : State) (l : Nat) (f : Launch → Launch) : (s.updLaunch l f).health = s.health := rfl
@[simp] theorem updLaunch_bar0 (s : State) (l : Nat) (f : Launch → Launch) : (s.updLaunch l f).bar0 = s.bar0 := rfl
@[simp] theorem updLaunch_fabric (s : State) (l : Nat) (f : Launch → Launch) : (s.updLaunch l f).fabric = s.fabric := rfl
@[simp] theorem updLaunch_fw (s : State) (l : Nat) (f : Launch → Launch) : (s.updLaunch l f).fw = s.fw := rfl
@[simp] theorem updLaunch_saveEntry (s : State) (l : Nat) (f : Launch → Launch) : (s.updLaunch l f).saveEntry = s.saveEntry := rfl
@[simp] theorem updLaunch_msi (s : State) (l : Nat) (f : Launch → Launch) : (s.updLaunch l f).msi = s.msi := rfl
@[simp] theorem updLaunch_msix (s : State) (l : Nat) (f : Launch → Launch) : (s.updLaunch l f).msix = s.msix := rfl
@[simp] theorem updLaunch_msixPending (s : State) (l : Nat) (f : Launch → Launch) : (s.updLaunch l f).msixPending = s.msixPending := rfl
@[simp] theorem updLaunch_hostReads (s : State) (l : Nat) (f : Launch → Launch) : (s.updLaunch l f).hostReads = s.hostReads := rfl
@[simp] theorem updLaunch_ticks (s : State) (l : Nat) (f : Launch → Launch) : (s.updLaunch l f).ticks = s.ticks := rfl
@[simp] theorem updLaunch_copyTurn (s : State) (l : Nat) (f : Launch → Launch) : (s.updLaunch l f).copyTurn = s.copyTurn := rfl
@[simp] theorem updLaunch_agenda (s : State) (l : Nat) (f : Launch → Launch) : (s.updLaunch l f).agenda = s.agenda := rfl
@[simp] theorem updLaunch_work (s : State) (l : Nat) (f : Launch → Launch) : (s.updLaunch l f).work = s.work := rfl
@[simp] theorem updLaunch_cur (s : State) (l : Nat) (f : Launch → Launch) : (s.updLaunch l f).cur = s.cur := rfl
@[simp] theorem updLaunch_taken (s : State) (l : Nat) (f : Launch → Launch) : (s.updLaunch l f).taken = s.taken := rfl
@[simp] theorem updLaunch_formed (s : State) (l : Nat) (f : Launch → Launch) : (s.updLaunch l f).formed = s.formed := rfl
@[simp] theorem updLaunch_nextId (s : State) (l : Nat) (f : Launch → Launch) : (s.updLaunch l f).nextId = s.nextId := rfl
@[simp] theorem updLaunch_fresh (s : State) (l : Nat) (f : Launch → Launch) : (s.updLaunch l f).fresh = s.fresh := rfl

/-! State.updCtx. -/

@[simp] theorem updCtx_clk (s : State) (c : Nat) (f : Context → Context) : (s.updCtx c f).clk = s.clk := rfl
@[simp] theorem updCtx_wall (s : State) (c : Nat) (f : Context → Context) : (s.updCtx c f).wall = s.wall := rfl
@[simp] theorem updCtx_threads (s : State) (c : Nat) (f : Context → Context) : (s.updCtx c f).threads = s.threads := rfl
@[simp] theorem updCtx_groups (s : State) (c : Nat) (f : Context → Context) : (s.updCtx c f).groups = s.groups := rfl
@[simp] theorem updCtx_teams (s : State) (c : Nat) (f : Context → Context) : (s.updCtx c f).teams = s.teams := rfl
@[simp] theorem updCtx_launches (s : State) (c : Nat) (f : Context → Context) : (s.updCtx c f).launches = s.launches := rfl
@[simp] theorem updCtx_units (s : State) (c : Nat) (f : Context → Context) : (s.updCtx c f).units = s.units := rfl
@[simp] theorem updCtx_folds (s : State) (c : Nat) (f : Context → Context) : (s.updCtx c f).folds = s.folds := rfl
@[simp] theorem updCtx_ctxs (s : State) (c : Nat) (f : Context → Context) : (s.updCtx c f).ctxs = s.ctxs.map fun x => if x.num = c then f x else x := rfl
@[simp] theorem updCtx_sto (s : State) (c : Nat) (f : Context → Context) : (s.updCtx c f).sto = s.sto := rfl
@[simp] theorem updCtx_fly (s : State) (c : Nat) (f : Context → Context) : (s.updCtx c f).fly = s.fly := rfl
@[simp] theorem updCtx_dies (s : State) (c : Nat) (f : Context → Context) : (s.updCtx c f).dies = s.dies := rfl
@[simp] theorem updCtx_slices (s : State) (c : Nat) (f : Context → Context) : (s.updCtx c f).slices = s.slices := rfl
@[simp] theorem updCtx_health (s : State) (c : Nat) (f : Context → Context) : (s.updCtx c f).health = s.health := rfl
@[simp] theorem updCtx_bar0 (s : State) (c : Nat) (f : Context → Context) : (s.updCtx c f).bar0 = s.bar0 := rfl
@[simp] theorem updCtx_fabric (s : State) (c : Nat) (f : Context → Context) : (s.updCtx c f).fabric = s.fabric := rfl
@[simp] theorem updCtx_fw (s : State) (c : Nat) (f : Context → Context) : (s.updCtx c f).fw = s.fw := rfl
@[simp] theorem updCtx_saveEntry (s : State) (c : Nat) (f : Context → Context) : (s.updCtx c f).saveEntry = s.saveEntry := rfl
@[simp] theorem updCtx_msi (s : State) (c : Nat) (f : Context → Context) : (s.updCtx c f).msi = s.msi := rfl
@[simp] theorem updCtx_msix (s : State) (c : Nat) (f : Context → Context) : (s.updCtx c f).msix = s.msix := rfl
@[simp] theorem updCtx_msixPending (s : State) (c : Nat) (f : Context → Context) : (s.updCtx c f).msixPending = s.msixPending := rfl
@[simp] theorem updCtx_hostReads (s : State) (c : Nat) (f : Context → Context) : (s.updCtx c f).hostReads = s.hostReads := rfl
@[simp] theorem updCtx_ticks (s : State) (c : Nat) (f : Context → Context) : (s.updCtx c f).ticks = s.ticks := rfl
@[simp] theorem updCtx_copyTurn (s : State) (c : Nat) (f : Context → Context) : (s.updCtx c f).copyTurn = s.copyTurn := rfl
@[simp] theorem updCtx_agenda (s : State) (c : Nat) (f : Context → Context) : (s.updCtx c f).agenda = s.agenda := rfl
@[simp] theorem updCtx_work (s : State) (c : Nat) (f : Context → Context) : (s.updCtx c f).work = s.work := rfl
@[simp] theorem updCtx_cur (s : State) (c : Nat) (f : Context → Context) : (s.updCtx c f).cur = s.cur := rfl
@[simp] theorem updCtx_taken (s : State) (c : Nat) (f : Context → Context) : (s.updCtx c f).taken = s.taken := rfl
@[simp] theorem updCtx_formed (s : State) (c : Nat) (f : Context → Context) : (s.updCtx c f).formed = s.formed := rfl
@[simp] theorem updCtx_nextId (s : State) (c : Nat) (f : Context → Context) : (s.updCtx c f).nextId = s.nextId := rfl
@[simp] theorem updCtx_fresh (s : State) (c : Nat) (f : Context → Context) : (s.updCtx c f).fresh = s.fresh := rfl

/-! State.updUnit. -/

@[simp] theorem updUnit_clk (s : State) (u : Nat) (f : IssueUnit → IssueUnit) : (s.updUnit u f).clk = s.clk := rfl
@[simp] theorem updUnit_wall (s : State) (u : Nat) (f : IssueUnit → IssueUnit) : (s.updUnit u f).wall = s.wall := rfl
@[simp] theorem updUnit_threads (s : State) (u : Nat) (f : IssueUnit → IssueUnit) : (s.updUnit u f).threads = s.threads := rfl
@[simp] theorem updUnit_groups (s : State) (u : Nat) (f : IssueUnit → IssueUnit) : (s.updUnit u f).groups = s.groups := rfl
@[simp] theorem updUnit_teams (s : State) (u : Nat) (f : IssueUnit → IssueUnit) : (s.updUnit u f).teams = s.teams := rfl
@[simp] theorem updUnit_launches (s : State) (u : Nat) (f : IssueUnit → IssueUnit) : (s.updUnit u f).launches = s.launches := rfl
@[simp] theorem updUnit_units (s : State) (u : Nat) (f : IssueUnit → IssueUnit) : (s.updUnit u f).units = upd s.units u f := rfl
@[simp] theorem updUnit_folds (s : State) (u : Nat) (f : IssueUnit → IssueUnit) : (s.updUnit u f).folds = s.folds := rfl
@[simp] theorem updUnit_ctxs (s : State) (u : Nat) (f : IssueUnit → IssueUnit) : (s.updUnit u f).ctxs = s.ctxs := rfl
@[simp] theorem updUnit_sto (s : State) (u : Nat) (f : IssueUnit → IssueUnit) : (s.updUnit u f).sto = s.sto := rfl
@[simp] theorem updUnit_fly (s : State) (u : Nat) (f : IssueUnit → IssueUnit) : (s.updUnit u f).fly = s.fly := rfl
@[simp] theorem updUnit_dies (s : State) (u : Nat) (f : IssueUnit → IssueUnit) : (s.updUnit u f).dies = s.dies := rfl
@[simp] theorem updUnit_slices (s : State) (u : Nat) (f : IssueUnit → IssueUnit) : (s.updUnit u f).slices = s.slices := rfl
@[simp] theorem updUnit_health (s : State) (u : Nat) (f : IssueUnit → IssueUnit) : (s.updUnit u f).health = s.health := rfl
@[simp] theorem updUnit_bar0 (s : State) (u : Nat) (f : IssueUnit → IssueUnit) : (s.updUnit u f).bar0 = s.bar0 := rfl
@[simp] theorem updUnit_fabric (s : State) (u : Nat) (f : IssueUnit → IssueUnit) : (s.updUnit u f).fabric = s.fabric := rfl
@[simp] theorem updUnit_fw (s : State) (u : Nat) (f : IssueUnit → IssueUnit) : (s.updUnit u f).fw = s.fw := rfl
@[simp] theorem updUnit_saveEntry (s : State) (u : Nat) (f : IssueUnit → IssueUnit) : (s.updUnit u f).saveEntry = s.saveEntry := rfl
@[simp] theorem updUnit_msi (s : State) (u : Nat) (f : IssueUnit → IssueUnit) : (s.updUnit u f).msi = s.msi := rfl
@[simp] theorem updUnit_msix (s : State) (u : Nat) (f : IssueUnit → IssueUnit) : (s.updUnit u f).msix = s.msix := rfl
@[simp] theorem updUnit_msixPending (s : State) (u : Nat) (f : IssueUnit → IssueUnit) : (s.updUnit u f).msixPending = s.msixPending := rfl
@[simp] theorem updUnit_hostReads (s : State) (u : Nat) (f : IssueUnit → IssueUnit) : (s.updUnit u f).hostReads = s.hostReads := rfl
@[simp] theorem updUnit_ticks (s : State) (u : Nat) (f : IssueUnit → IssueUnit) : (s.updUnit u f).ticks = s.ticks := rfl
@[simp] theorem updUnit_copyTurn (s : State) (u : Nat) (f : IssueUnit → IssueUnit) : (s.updUnit u f).copyTurn = s.copyTurn := rfl
@[simp] theorem updUnit_agenda (s : State) (u : Nat) (f : IssueUnit → IssueUnit) : (s.updUnit u f).agenda = s.agenda := rfl
@[simp] theorem updUnit_work (s : State) (u : Nat) (f : IssueUnit → IssueUnit) : (s.updUnit u f).work = s.work := rfl
@[simp] theorem updUnit_cur (s : State) (u : Nat) (f : IssueUnit → IssueUnit) : (s.updUnit u f).cur = s.cur := rfl
@[simp] theorem updUnit_taken (s : State) (u : Nat) (f : IssueUnit → IssueUnit) : (s.updUnit u f).taken = s.taken := rfl
@[simp] theorem updUnit_formed (s : State) (u : Nat) (f : IssueUnit → IssueUnit) : (s.updUnit u f).formed = s.formed := rfl
@[simp] theorem updUnit_nextId (s : State) (u : Nat) (f : IssueUnit → IssueUnit) : (s.updUnit u f).nextId = s.nextId := rfl
@[simp] theorem updUnit_fresh (s : State) (u : Nat) (f : IssueUnit → IssueUnit) : (s.updUnit u f).fresh = s.fresh := rfl

/-! State.updSto. -/

@[simp] theorem updSto_clk (s : State) (f : Storage → Storage) : (s.updSto f).clk = s.clk := rfl
@[simp] theorem updSto_wall (s : State) (f : Storage → Storage) : (s.updSto f).wall = s.wall := rfl
@[simp] theorem updSto_threads (s : State) (f : Storage → Storage) : (s.updSto f).threads = s.threads := rfl
@[simp] theorem updSto_groups (s : State) (f : Storage → Storage) : (s.updSto f).groups = s.groups := rfl
@[simp] theorem updSto_teams (s : State) (f : Storage → Storage) : (s.updSto f).teams = s.teams := rfl
@[simp] theorem updSto_launches (s : State) (f : Storage → Storage) : (s.updSto f).launches = s.launches := rfl
@[simp] theorem updSto_units (s : State) (f : Storage → Storage) : (s.updSto f).units = s.units := rfl
@[simp] theorem updSto_folds (s : State) (f : Storage → Storage) : (s.updSto f).folds = s.folds := rfl
@[simp] theorem updSto_ctxs (s : State) (f : Storage → Storage) : (s.updSto f).ctxs = s.ctxs := rfl
@[simp] theorem updSto_sto (s : State) (f : Storage → Storage) : (s.updSto f).sto = f s.sto := rfl
@[simp] theorem updSto_fly (s : State) (f : Storage → Storage) : (s.updSto f).fly = s.fly := rfl
@[simp] theorem updSto_dies (s : State) (f : Storage → Storage) : (s.updSto f).dies = s.dies := rfl
@[simp] theorem updSto_slices (s : State) (f : Storage → Storage) : (s.updSto f).slices = s.slices := rfl
@[simp] theorem updSto_health (s : State) (f : Storage → Storage) : (s.updSto f).health = s.health := rfl
@[simp] theorem updSto_bar0 (s : State) (f : Storage → Storage) : (s.updSto f).bar0 = s.bar0 := rfl
@[simp] theorem updSto_fabric (s : State) (f : Storage → Storage) : (s.updSto f).fabric = s.fabric := rfl
@[simp] theorem updSto_fw (s : State) (f : Storage → Storage) : (s.updSto f).fw = s.fw := rfl
@[simp] theorem updSto_saveEntry (s : State) (f : Storage → Storage) : (s.updSto f).saveEntry = s.saveEntry := rfl
@[simp] theorem updSto_msi (s : State) (f : Storage → Storage) : (s.updSto f).msi = s.msi := rfl
@[simp] theorem updSto_msix (s : State) (f : Storage → Storage) : (s.updSto f).msix = s.msix := rfl
@[simp] theorem updSto_msixPending (s : State) (f : Storage → Storage) : (s.updSto f).msixPending = s.msixPending := rfl
@[simp] theorem updSto_hostReads (s : State) (f : Storage → Storage) : (s.updSto f).hostReads = s.hostReads := rfl
@[simp] theorem updSto_ticks (s : State) (f : Storage → Storage) : (s.updSto f).ticks = s.ticks := rfl
@[simp] theorem updSto_copyTurn (s : State) (f : Storage → Storage) : (s.updSto f).copyTurn = s.copyTurn := rfl
@[simp] theorem updSto_agenda (s : State) (f : Storage → Storage) : (s.updSto f).agenda = s.agenda := rfl
@[simp] theorem updSto_work (s : State) (f : Storage → Storage) : (s.updSto f).work = s.work := rfl
@[simp] theorem updSto_cur (s : State) (f : Storage → Storage) : (s.updSto f).cur = s.cur := rfl
@[simp] theorem updSto_taken (s : State) (f : Storage → Storage) : (s.updSto f).taken = s.taken := rfl
@[simp] theorem updSto_formed (s : State) (f : Storage → Storage) : (s.updSto f).formed = s.formed := rfl
@[simp] theorem updSto_nextId (s : State) (f : Storage → Storage) : (s.updSto f).nextId = s.nextId := rfl
@[simp] theorem updSto_fresh (s : State) (f : Storage → Storage) : (s.updSto f).fresh = s.fresh := rfl

/-! State.updFly. -/

@[simp] theorem updFly_clk (s : State) (f : Flight → Flight) : (s.updFly f).clk = s.clk := rfl
@[simp] theorem updFly_wall (s : State) (f : Flight → Flight) : (s.updFly f).wall = s.wall := rfl
@[simp] theorem updFly_threads (s : State) (f : Flight → Flight) : (s.updFly f).threads = s.threads := rfl
@[simp] theorem updFly_groups (s : State) (f : Flight → Flight) : (s.updFly f).groups = s.groups := rfl
@[simp] theorem updFly_teams (s : State) (f : Flight → Flight) : (s.updFly f).teams = s.teams := rfl
@[simp] theorem updFly_launches (s : State) (f : Flight → Flight) : (s.updFly f).launches = s.launches := rfl
@[simp] theorem updFly_units (s : State) (f : Flight → Flight) : (s.updFly f).units = s.units := rfl
@[simp] theorem updFly_folds (s : State) (f : Flight → Flight) : (s.updFly f).folds = s.folds := rfl
@[simp] theorem updFly_ctxs (s : State) (f : Flight → Flight) : (s.updFly f).ctxs = s.ctxs := rfl
@[simp] theorem updFly_sto (s : State) (f : Flight → Flight) : (s.updFly f).sto = s.sto := rfl
@[simp] theorem updFly_fly (s : State) (f : Flight → Flight) : (s.updFly f).fly = f s.fly := rfl
@[simp] theorem updFly_dies (s : State) (f : Flight → Flight) : (s.updFly f).dies = s.dies := rfl
@[simp] theorem updFly_slices (s : State) (f : Flight → Flight) : (s.updFly f).slices = s.slices := rfl
@[simp] theorem updFly_health (s : State) (f : Flight → Flight) : (s.updFly f).health = s.health := rfl
@[simp] theorem updFly_bar0 (s : State) (f : Flight → Flight) : (s.updFly f).bar0 = s.bar0 := rfl
@[simp] theorem updFly_fabric (s : State) (f : Flight → Flight) : (s.updFly f).fabric = s.fabric := rfl
@[simp] theorem updFly_fw (s : State) (f : Flight → Flight) : (s.updFly f).fw = s.fw := rfl
@[simp] theorem updFly_saveEntry (s : State) (f : Flight → Flight) : (s.updFly f).saveEntry = s.saveEntry := rfl
@[simp] theorem updFly_msi (s : State) (f : Flight → Flight) : (s.updFly f).msi = s.msi := rfl
@[simp] theorem updFly_msix (s : State) (f : Flight → Flight) : (s.updFly f).msix = s.msix := rfl
@[simp] theorem updFly_msixPending (s : State) (f : Flight → Flight) : (s.updFly f).msixPending = s.msixPending := rfl
@[simp] theorem updFly_hostReads (s : State) (f : Flight → Flight) : (s.updFly f).hostReads = s.hostReads := rfl
@[simp] theorem updFly_ticks (s : State) (f : Flight → Flight) : (s.updFly f).ticks = s.ticks := rfl
@[simp] theorem updFly_copyTurn (s : State) (f : Flight → Flight) : (s.updFly f).copyTurn = s.copyTurn := rfl
@[simp] theorem updFly_agenda (s : State) (f : Flight → Flight) : (s.updFly f).agenda = s.agenda := rfl
@[simp] theorem updFly_work (s : State) (f : Flight → Flight) : (s.updFly f).work = s.work := rfl
@[simp] theorem updFly_cur (s : State) (f : Flight → Flight) : (s.updFly f).cur = s.cur := rfl
@[simp] theorem updFly_taken (s : State) (f : Flight → Flight) : (s.updFly f).taken = s.taken := rfl
@[simp] theorem updFly_formed (s : State) (f : Flight → Flight) : (s.updFly f).formed = s.formed := rfl
@[simp] theorem updFly_nextId (s : State) (f : Flight → Flight) : (s.updFly f).nextId = s.nextId := rfl
@[simp] theorem updFly_fresh (s : State) (f : Flight → Flight) : (s.updFly f).fresh = s.fresh := rfl

/-! State.takeId. -/

@[simp] theorem takeId_clk (s : State) : (s.takeId).clk = s.clk := rfl
@[simp] theorem takeId_wall (s : State) : (s.takeId).wall = s.wall := rfl
@[simp] theorem takeId_threads (s : State) : (s.takeId).threads = s.threads := rfl
@[simp] theorem takeId_groups (s : State) : (s.takeId).groups = s.groups := rfl
@[simp] theorem takeId_teams (s : State) : (s.takeId).teams = s.teams := rfl
@[simp] theorem takeId_launches (s : State) : (s.takeId).launches = s.launches := rfl
@[simp] theorem takeId_units (s : State) : (s.takeId).units = s.units := rfl
@[simp] theorem takeId_folds (s : State) : (s.takeId).folds = s.folds := rfl
@[simp] theorem takeId_ctxs (s : State) : (s.takeId).ctxs = s.ctxs := rfl
@[simp] theorem takeId_sto (s : State) : (s.takeId).sto = s.sto := rfl
@[simp] theorem takeId_fly (s : State) : (s.takeId).fly = s.fly := rfl
@[simp] theorem takeId_dies (s : State) : (s.takeId).dies = s.dies := rfl
@[simp] theorem takeId_slices (s : State) : (s.takeId).slices = s.slices := rfl
@[simp] theorem takeId_health (s : State) : (s.takeId).health = s.health := rfl
@[simp] theorem takeId_bar0 (s : State) : (s.takeId).bar0 = s.bar0 := rfl
@[simp] theorem takeId_fabric (s : State) : (s.takeId).fabric = s.fabric := rfl
@[simp] theorem takeId_fw (s : State) : (s.takeId).fw = s.fw := rfl
@[simp] theorem takeId_saveEntry (s : State) : (s.takeId).saveEntry = s.saveEntry := rfl
@[simp] theorem takeId_msi (s : State) : (s.takeId).msi = s.msi := rfl
@[simp] theorem takeId_msix (s : State) : (s.takeId).msix = s.msix := rfl
@[simp] theorem takeId_msixPending (s : State) : (s.takeId).msixPending = s.msixPending := rfl
@[simp] theorem takeId_hostReads (s : State) : (s.takeId).hostReads = s.hostReads := rfl
@[simp] theorem takeId_ticks (s : State) : (s.takeId).ticks = s.ticks := rfl
@[simp] theorem takeId_copyTurn (s : State) : (s.takeId).copyTurn = s.copyTurn := rfl
@[simp] theorem takeId_agenda (s : State) : (s.takeId).agenda = s.agenda := rfl
@[simp] theorem takeId_work (s : State) : (s.takeId).work = s.work := rfl
@[simp] theorem takeId_cur (s : State) : (s.takeId).cur = s.cur := rfl
@[simp] theorem takeId_taken (s : State) : (s.takeId).taken = s.taken := rfl
@[simp] theorem takeId_formed (s : State) : (s.takeId).formed = s.formed := rfl
@[simp] theorem takeId_nextId (s : State) : (s.takeId).nextId = s.nextId + 1 := rfl
@[simp] theorem takeId_fresh (s : State) : (s.takeId).fresh = s.fresh := rfl

/-! State.bump. -/

@[simp] theorem bump_clk (s : State) : (s.bump).clk = s.clk := rfl
@[simp] theorem bump_wall (s : State) : (s.bump).wall = s.wall := rfl
@[simp] theorem bump_threads (s : State) : (s.bump).threads = s.threads := rfl
@[simp] theorem bump_groups (s : State) : (s.bump).groups = s.groups := rfl
@[simp] theorem bump_teams (s : State) : (s.bump).teams = s.teams := rfl
@[simp] theorem bump_launches (s : State) : (s.bump).launches = s.launches := rfl
@[simp] theorem bump_units (s : State) : (s.bump).units = s.units := rfl
@[simp] theorem bump_folds (s : State) : (s.bump).folds = s.folds := rfl
@[simp] theorem bump_ctxs (s : State) : (s.bump).ctxs = s.ctxs := rfl
@[simp] theorem bump_sto (s : State) : (s.bump).sto = s.sto := rfl
@[simp] theorem bump_fly (s : State) : (s.bump).fly = s.fly := rfl
@[simp] theorem bump_dies (s : State) : (s.bump).dies = s.dies := rfl
@[simp] theorem bump_slices (s : State) : (s.bump).slices = s.slices := rfl
@[simp] theorem bump_health (s : State) : (s.bump).health = s.health := rfl
@[simp] theorem bump_bar0 (s : State) : (s.bump).bar0 = s.bar0 := rfl
@[simp] theorem bump_fabric (s : State) : (s.bump).fabric = s.fabric := rfl
@[simp] theorem bump_fw (s : State) : (s.bump).fw = s.fw := rfl
@[simp] theorem bump_saveEntry (s : State) : (s.bump).saveEntry = s.saveEntry := rfl
@[simp] theorem bump_msi (s : State) : (s.bump).msi = s.msi := rfl
@[simp] theorem bump_msix (s : State) : (s.bump).msix = s.msix := rfl
@[simp] theorem bump_msixPending (s : State) : (s.bump).msixPending = s.msixPending := rfl
@[simp] theorem bump_hostReads (s : State) : (s.bump).hostReads = s.hostReads := rfl
@[simp] theorem bump_ticks (s : State) : (s.bump).ticks = s.ticks := rfl
@[simp] theorem bump_copyTurn (s : State) : (s.bump).copyTurn = s.copyTurn := rfl
@[simp] theorem bump_agenda (s : State) : (s.bump).agenda = s.agenda := rfl
@[simp] theorem bump_work (s : State) : (s.bump).work = s.work := rfl
@[simp] theorem bump_cur (s : State) : (s.bump).cur = s.cur := rfl
@[simp] theorem bump_taken (s : State) : (s.bump).taken = s.taken := rfl
@[simp] theorem bump_formed (s : State) : (s.bump).formed = s.formed := rfl
@[simp] theorem bump_nextId (s : State) : (s.bump).nextId = s.nextId := rfl
@[simp] theorem bump_fresh (s : State) : (s.bump).fresh = s.fresh + 1 := rfl

/-! State.updDie. -/

@[simp] theorem updDie_clk (s : State) (d : Nat) (f : Die → Die) : (s.updDie d f).clk = s.clk := rfl
@[simp] theorem updDie_wall (s : State) (d : Nat) (f : Die → Die) : (s.updDie d f).wall = s.wall := rfl
@[simp] theorem updDie_threads (s : State) (d : Nat) (f : Die → Die) : (s.updDie d f).threads = s.threads := rfl
@[simp] theorem updDie_groups (s : State) (d : Nat) (f : Die → Die) : (s.updDie d f).groups = s.groups := rfl
@[simp] theorem updDie_teams (s : State) (d : Nat) (f : Die → Die) : (s.updDie d f).teams = s.teams := rfl
@[simp] theorem updDie_launches (s : State) (d : Nat) (f : Die → Die) : (s.updDie d f).launches = s.launches := rfl
@[simp] theorem updDie_units (s : State) (d : Nat) (f : Die → Die) : (s.updDie d f).units = s.units := rfl
@[simp] theorem updDie_folds (s : State) (d : Nat) (f : Die → Die) : (s.updDie d f).folds = s.folds := rfl
@[simp] theorem updDie_ctxs (s : State) (d : Nat) (f : Die → Die) : (s.updDie d f).ctxs = s.ctxs := rfl
@[simp] theorem updDie_sto (s : State) (d : Nat) (f : Die → Die) : (s.updDie d f).sto = s.sto := rfl
@[simp] theorem updDie_fly (s : State) (d : Nat) (f : Die → Die) : (s.updDie d f).fly = s.fly := rfl
@[simp] theorem updDie_dies (s : State) (d : Nat) (f : Die → Die) : (s.updDie d f).dies = upd s.dies d f := rfl
@[simp] theorem updDie_slices (s : State) (d : Nat) (f : Die → Die) : (s.updDie d f).slices = s.slices := rfl
@[simp] theorem updDie_health (s : State) (d : Nat) (f : Die → Die) : (s.updDie d f).health = s.health := rfl
@[simp] theorem updDie_bar0 (s : State) (d : Nat) (f : Die → Die) : (s.updDie d f).bar0 = s.bar0 := rfl
@[simp] theorem updDie_fabric (s : State) (d : Nat) (f : Die → Die) : (s.updDie d f).fabric = s.fabric := rfl
@[simp] theorem updDie_fw (s : State) (d : Nat) (f : Die → Die) : (s.updDie d f).fw = s.fw := rfl
@[simp] theorem updDie_saveEntry (s : State) (d : Nat) (f : Die → Die) : (s.updDie d f).saveEntry = s.saveEntry := rfl
@[simp] theorem updDie_msi (s : State) (d : Nat) (f : Die → Die) : (s.updDie d f).msi = s.msi := rfl
@[simp] theorem updDie_msix (s : State) (d : Nat) (f : Die → Die) : (s.updDie d f).msix = s.msix := rfl
@[simp] theorem updDie_msixPending (s : State) (d : Nat) (f : Die → Die) : (s.updDie d f).msixPending = s.msixPending := rfl
@[simp] theorem updDie_hostReads (s : State) (d : Nat) (f : Die → Die) : (s.updDie d f).hostReads = s.hostReads := rfl
@[simp] theorem updDie_ticks (s : State) (d : Nat) (f : Die → Die) : (s.updDie d f).ticks = s.ticks := rfl
@[simp] theorem updDie_copyTurn (s : State) (d : Nat) (f : Die → Die) : (s.updDie d f).copyTurn = s.copyTurn := rfl
@[simp] theorem updDie_agenda (s : State) (d : Nat) (f : Die → Die) : (s.updDie d f).agenda = s.agenda := rfl
@[simp] theorem updDie_work (s : State) (d : Nat) (f : Die → Die) : (s.updDie d f).work = s.work := rfl
@[simp] theorem updDie_cur (s : State) (d : Nat) (f : Die → Die) : (s.updDie d f).cur = s.cur := rfl
@[simp] theorem updDie_taken (s : State) (d : Nat) (f : Die → Die) : (s.updDie d f).taken = s.taken := rfl
@[simp] theorem updDie_formed (s : State) (d : Nat) (f : Die → Die) : (s.updDie d f).formed = s.formed := rfl
@[simp] theorem updDie_nextId (s : State) (d : Nat) (f : Die → Die) : (s.updDie d f).nextId = s.nextId := rfl
@[simp] theorem updDie_fresh (s : State) (d : Nat) (f : Die → Die) : (s.updDie d f).fresh = s.fresh := rfl

/-! State.updBar0. -/

@[simp] theorem updBar0_clk (s : State) (f : Bar0 → Bar0) : (s.updBar0 f).clk = s.clk := rfl
@[simp] theorem updBar0_wall (s : State) (f : Bar0 → Bar0) : (s.updBar0 f).wall = s.wall := rfl
@[simp] theorem updBar0_threads (s : State) (f : Bar0 → Bar0) : (s.updBar0 f).threads = s.threads := rfl
@[simp] theorem updBar0_groups (s : State) (f : Bar0 → Bar0) : (s.updBar0 f).groups = s.groups := rfl
@[simp] theorem updBar0_teams (s : State) (f : Bar0 → Bar0) : (s.updBar0 f).teams = s.teams := rfl
@[simp] theorem updBar0_launches (s : State) (f : Bar0 → Bar0) : (s.updBar0 f).launches = s.launches := rfl
@[simp] theorem updBar0_units (s : State) (f : Bar0 → Bar0) : (s.updBar0 f).units = s.units := rfl
@[simp] theorem updBar0_folds (s : State) (f : Bar0 → Bar0) : (s.updBar0 f).folds = s.folds := rfl
@[simp] theorem updBar0_ctxs (s : State) (f : Bar0 → Bar0) : (s.updBar0 f).ctxs = s.ctxs := rfl
@[simp] theorem updBar0_sto (s : State) (f : Bar0 → Bar0) : (s.updBar0 f).sto = s.sto := rfl
@[simp] theorem updBar0_fly (s : State) (f : Bar0 → Bar0) : (s.updBar0 f).fly = s.fly := rfl
@[simp] theorem updBar0_dies (s : State) (f : Bar0 → Bar0) : (s.updBar0 f).dies = s.dies := rfl
@[simp] theorem updBar0_slices (s : State) (f : Bar0 → Bar0) : (s.updBar0 f).slices = s.slices := rfl
@[simp] theorem updBar0_health (s : State) (f : Bar0 → Bar0) : (s.updBar0 f).health = s.health := rfl
@[simp] theorem updBar0_bar0 (s : State) (f : Bar0 → Bar0) : (s.updBar0 f).bar0 = f s.bar0 := rfl
@[simp] theorem updBar0_fabric (s : State) (f : Bar0 → Bar0) : (s.updBar0 f).fabric = s.fabric := rfl
@[simp] theorem updBar0_fw (s : State) (f : Bar0 → Bar0) : (s.updBar0 f).fw = s.fw := rfl
@[simp] theorem updBar0_saveEntry (s : State) (f : Bar0 → Bar0) : (s.updBar0 f).saveEntry = s.saveEntry := rfl
@[simp] theorem updBar0_msi (s : State) (f : Bar0 → Bar0) : (s.updBar0 f).msi = s.msi := rfl
@[simp] theorem updBar0_msix (s : State) (f : Bar0 → Bar0) : (s.updBar0 f).msix = s.msix := rfl
@[simp] theorem updBar0_msixPending (s : State) (f : Bar0 → Bar0) : (s.updBar0 f).msixPending = s.msixPending := rfl
@[simp] theorem updBar0_hostReads (s : State) (f : Bar0 → Bar0) : (s.updBar0 f).hostReads = s.hostReads := rfl
@[simp] theorem updBar0_ticks (s : State) (f : Bar0 → Bar0) : (s.updBar0 f).ticks = s.ticks := rfl
@[simp] theorem updBar0_copyTurn (s : State) (f : Bar0 → Bar0) : (s.updBar0 f).copyTurn = s.copyTurn := rfl
@[simp] theorem updBar0_agenda (s : State) (f : Bar0 → Bar0) : (s.updBar0 f).agenda = s.agenda := rfl
@[simp] theorem updBar0_work (s : State) (f : Bar0 → Bar0) : (s.updBar0 f).work = s.work := rfl
@[simp] theorem updBar0_cur (s : State) (f : Bar0 → Bar0) : (s.updBar0 f).cur = s.cur := rfl
@[simp] theorem updBar0_taken (s : State) (f : Bar0 → Bar0) : (s.updBar0 f).taken = s.taken := rfl
@[simp] theorem updBar0_formed (s : State) (f : Bar0 → Bar0) : (s.updBar0 f).formed = s.formed := rfl
@[simp] theorem updBar0_nextId (s : State) (f : Bar0 → Bar0) : (s.updBar0 f).nextId = s.nextId := rfl
@[simp] theorem updBar0_fresh (s : State) (f : Bar0 → Bar0) : (s.updBar0 f).fresh = s.fresh := rfl

/-! State.updFw. -/

@[simp] theorem updFw_clk (s : State) (f : Firmware → Firmware) : (s.updFw f).clk = s.clk := rfl
@[simp] theorem updFw_wall (s : State) (f : Firmware → Firmware) : (s.updFw f).wall = s.wall := rfl
@[simp] theorem updFw_threads (s : State) (f : Firmware → Firmware) : (s.updFw f).threads = s.threads := rfl
@[simp] theorem updFw_groups (s : State) (f : Firmware → Firmware) : (s.updFw f).groups = s.groups := rfl
@[simp] theorem updFw_teams (s : State) (f : Firmware → Firmware) : (s.updFw f).teams = s.teams := rfl
@[simp] theorem updFw_launches (s : State) (f : Firmware → Firmware) : (s.updFw f).launches = s.launches := rfl
@[simp] theorem updFw_units (s : State) (f : Firmware → Firmware) : (s.updFw f).units = s.units := rfl
@[simp] theorem updFw_folds (s : State) (f : Firmware → Firmware) : (s.updFw f).folds = s.folds := rfl
@[simp] theorem updFw_ctxs (s : State) (f : Firmware → Firmware) : (s.updFw f).ctxs = s.ctxs := rfl
@[simp] theorem updFw_sto (s : State) (f : Firmware → Firmware) : (s.updFw f).sto = s.sto := rfl
@[simp] theorem updFw_fly (s : State) (f : Firmware → Firmware) : (s.updFw f).fly = s.fly := rfl
@[simp] theorem updFw_dies (s : State) (f : Firmware → Firmware) : (s.updFw f).dies = s.dies := rfl
@[simp] theorem updFw_slices (s : State) (f : Firmware → Firmware) : (s.updFw f).slices = s.slices := rfl
@[simp] theorem updFw_health (s : State) (f : Firmware → Firmware) : (s.updFw f).health = s.health := rfl
@[simp] theorem updFw_bar0 (s : State) (f : Firmware → Firmware) : (s.updFw f).bar0 = s.bar0 := rfl
@[simp] theorem updFw_fabric (s : State) (f : Firmware → Firmware) : (s.updFw f).fabric = s.fabric := rfl
@[simp] theorem updFw_fw (s : State) (f : Firmware → Firmware) : (s.updFw f).fw = f s.fw := rfl
@[simp] theorem updFw_saveEntry (s : State) (f : Firmware → Firmware) : (s.updFw f).saveEntry = s.saveEntry := rfl
@[simp] theorem updFw_msi (s : State) (f : Firmware → Firmware) : (s.updFw f).msi = s.msi := rfl
@[simp] theorem updFw_msix (s : State) (f : Firmware → Firmware) : (s.updFw f).msix = s.msix := rfl
@[simp] theorem updFw_msixPending (s : State) (f : Firmware → Firmware) : (s.updFw f).msixPending = s.msixPending := rfl
@[simp] theorem updFw_hostReads (s : State) (f : Firmware → Firmware) : (s.updFw f).hostReads = s.hostReads := rfl
@[simp] theorem updFw_ticks (s : State) (f : Firmware → Firmware) : (s.updFw f).ticks = s.ticks := rfl
@[simp] theorem updFw_copyTurn (s : State) (f : Firmware → Firmware) : (s.updFw f).copyTurn = s.copyTurn := rfl
@[simp] theorem updFw_agenda (s : State) (f : Firmware → Firmware) : (s.updFw f).agenda = s.agenda := rfl
@[simp] theorem updFw_work (s : State) (f : Firmware → Firmware) : (s.updFw f).work = s.work := rfl
@[simp] theorem updFw_cur (s : State) (f : Firmware → Firmware) : (s.updFw f).cur = s.cur := rfl
@[simp] theorem updFw_taken (s : State) (f : Firmware → Firmware) : (s.updFw f).taken = s.taken := rfl
@[simp] theorem updFw_formed (s : State) (f : Firmware → Firmware) : (s.updFw f).formed = s.formed := rfl
@[simp] theorem updFw_nextId (s : State) (f : Firmware → Firmware) : (s.updFw f).nextId = s.nextId := rfl
@[simp] theorem updFw_fresh (s : State) (f : Firmware → Firmware) : (s.updFw f).fresh = s.fresh := rfl

/-! State.updFabric. -/

@[simp] theorem updFabric_clk (s : State) (f : Fabric → Fabric) : (s.updFabric f).clk = s.clk := rfl
@[simp] theorem updFabric_wall (s : State) (f : Fabric → Fabric) : (s.updFabric f).wall = s.wall := rfl
@[simp] theorem updFabric_threads (s : State) (f : Fabric → Fabric) : (s.updFabric f).threads = s.threads := rfl
@[simp] theorem updFabric_groups (s : State) (f : Fabric → Fabric) : (s.updFabric f).groups = s.groups := rfl
@[simp] theorem updFabric_teams (s : State) (f : Fabric → Fabric) : (s.updFabric f).teams = s.teams := rfl
@[simp] theorem updFabric_launches (s : State) (f : Fabric → Fabric) : (s.updFabric f).launches = s.launches := rfl
@[simp] theorem updFabric_units (s : State) (f : Fabric → Fabric) : (s.updFabric f).units = s.units := rfl
@[simp] theorem updFabric_folds (s : State) (f : Fabric → Fabric) : (s.updFabric f).folds = s.folds := rfl
@[simp] theorem updFabric_ctxs (s : State) (f : Fabric → Fabric) : (s.updFabric f).ctxs = s.ctxs := rfl
@[simp] theorem updFabric_sto (s : State) (f : Fabric → Fabric) : (s.updFabric f).sto = s.sto := rfl
@[simp] theorem updFabric_fly (s : State) (f : Fabric → Fabric) : (s.updFabric f).fly = s.fly := rfl
@[simp] theorem updFabric_dies (s : State) (f : Fabric → Fabric) : (s.updFabric f).dies = s.dies := rfl
@[simp] theorem updFabric_slices (s : State) (f : Fabric → Fabric) : (s.updFabric f).slices = s.slices := rfl
@[simp] theorem updFabric_health (s : State) (f : Fabric → Fabric) : (s.updFabric f).health = s.health := rfl
@[simp] theorem updFabric_bar0 (s : State) (f : Fabric → Fabric) : (s.updFabric f).bar0 = s.bar0 := rfl
@[simp] theorem updFabric_fabric (s : State) (f : Fabric → Fabric) : (s.updFabric f).fabric = f s.fabric := rfl
@[simp] theorem updFabric_fw (s : State) (f : Fabric → Fabric) : (s.updFabric f).fw = s.fw := rfl
@[simp] theorem updFabric_saveEntry (s : State) (f : Fabric → Fabric) : (s.updFabric f).saveEntry = s.saveEntry := rfl
@[simp] theorem updFabric_msi (s : State) (f : Fabric → Fabric) : (s.updFabric f).msi = s.msi := rfl
@[simp] theorem updFabric_msix (s : State) (f : Fabric → Fabric) : (s.updFabric f).msix = s.msix := rfl
@[simp] theorem updFabric_msixPending (s : State) (f : Fabric → Fabric) : (s.updFabric f).msixPending = s.msixPending := rfl
@[simp] theorem updFabric_hostReads (s : State) (f : Fabric → Fabric) : (s.updFabric f).hostReads = s.hostReads := rfl
@[simp] theorem updFabric_ticks (s : State) (f : Fabric → Fabric) : (s.updFabric f).ticks = s.ticks := rfl
@[simp] theorem updFabric_copyTurn (s : State) (f : Fabric → Fabric) : (s.updFabric f).copyTurn = s.copyTurn := rfl
@[simp] theorem updFabric_agenda (s : State) (f : Fabric → Fabric) : (s.updFabric f).agenda = s.agenda := rfl
@[simp] theorem updFabric_work (s : State) (f : Fabric → Fabric) : (s.updFabric f).work = s.work := rfl
@[simp] theorem updFabric_cur (s : State) (f : Fabric → Fabric) : (s.updFabric f).cur = s.cur := rfl
@[simp] theorem updFabric_taken (s : State) (f : Fabric → Fabric) : (s.updFabric f).taken = s.taken := rfl
@[simp] theorem updFabric_formed (s : State) (f : Fabric → Fabric) : (s.updFabric f).formed = s.formed := rfl
@[simp] theorem updFabric_nextId (s : State) (f : Fabric → Fabric) : (s.updFabric f).nextId = s.nextId := rfl
@[simp] theorem updFabric_fresh (s : State) (f : Fabric → Fabric) : (s.updFabric f).fresh = s.fresh := rfl

/-! State.updHealth. -/

@[simp] theorem updHealth_clk (s : State) (f : Health → Health) : (s.updHealth f).clk = s.clk := rfl
@[simp] theorem updHealth_wall (s : State) (f : Health → Health) : (s.updHealth f).wall = s.wall := rfl
@[simp] theorem updHealth_threads (s : State) (f : Health → Health) : (s.updHealth f).threads = s.threads := rfl
@[simp] theorem updHealth_groups (s : State) (f : Health → Health) : (s.updHealth f).groups = s.groups := rfl
@[simp] theorem updHealth_teams (s : State) (f : Health → Health) : (s.updHealth f).teams = s.teams := rfl
@[simp] theorem updHealth_launches (s : State) (f : Health → Health) : (s.updHealth f).launches = s.launches := rfl
@[simp] theorem updHealth_units (s : State) (f : Health → Health) : (s.updHealth f).units = s.units := rfl
@[simp] theorem updHealth_folds (s : State) (f : Health → Health) : (s.updHealth f).folds = s.folds := rfl
@[simp] theorem updHealth_ctxs (s : State) (f : Health → Health) : (s.updHealth f).ctxs = s.ctxs := rfl
@[simp] theorem updHealth_sto (s : State) (f : Health → Health) : (s.updHealth f).sto = s.sto := rfl
@[simp] theorem updHealth_fly (s : State) (f : Health → Health) : (s.updHealth f).fly = s.fly := rfl
@[simp] theorem updHealth_dies (s : State) (f : Health → Health) : (s.updHealth f).dies = s.dies := rfl
@[simp] theorem updHealth_slices (s : State) (f : Health → Health) : (s.updHealth f).slices = s.slices := rfl
@[simp] theorem updHealth_health (s : State) (f : Health → Health) : (s.updHealth f).health = f s.health := rfl
@[simp] theorem updHealth_bar0 (s : State) (f : Health → Health) : (s.updHealth f).bar0 = s.bar0 := rfl
@[simp] theorem updHealth_fabric (s : State) (f : Health → Health) : (s.updHealth f).fabric = s.fabric := rfl
@[simp] theorem updHealth_fw (s : State) (f : Health → Health) : (s.updHealth f).fw = s.fw := rfl
@[simp] theorem updHealth_saveEntry (s : State) (f : Health → Health) : (s.updHealth f).saveEntry = s.saveEntry := rfl
@[simp] theorem updHealth_msi (s : State) (f : Health → Health) : (s.updHealth f).msi = s.msi := rfl
@[simp] theorem updHealth_msix (s : State) (f : Health → Health) : (s.updHealth f).msix = s.msix := rfl
@[simp] theorem updHealth_msixPending (s : State) (f : Health → Health) : (s.updHealth f).msixPending = s.msixPending := rfl
@[simp] theorem updHealth_hostReads (s : State) (f : Health → Health) : (s.updHealth f).hostReads = s.hostReads := rfl
@[simp] theorem updHealth_ticks (s : State) (f : Health → Health) : (s.updHealth f).ticks = s.ticks := rfl
@[simp] theorem updHealth_copyTurn (s : State) (f : Health → Health) : (s.updHealth f).copyTurn = s.copyTurn := rfl
@[simp] theorem updHealth_agenda (s : State) (f : Health → Health) : (s.updHealth f).agenda = s.agenda := rfl
@[simp] theorem updHealth_work (s : State) (f : Health → Health) : (s.updHealth f).work = s.work := rfl
@[simp] theorem updHealth_cur (s : State) (f : Health → Health) : (s.updHealth f).cur = s.cur := rfl
@[simp] theorem updHealth_taken (s : State) (f : Health → Health) : (s.updHealth f).taken = s.taken := rfl
@[simp] theorem updHealth_formed (s : State) (f : Health → Health) : (s.updHealth f).formed = s.formed := rfl
@[simp] theorem updHealth_nextId (s : State) (f : Health → Health) : (s.updHealth f).nextId = s.nextId := rfl
@[simp] theorem updHealth_fresh (s : State) (f : Health → Health) : (s.updHealth f).fresh = s.fresh := rfl

/-! State.tick. -/

@[simp] theorem tick_clk (s : State) (dt : Nat) : (s.tick dt).clk = s.clk + dt := rfl
@[simp] theorem tick_wall (s : State) (dt : Nat) : (s.tick dt).wall = s.wall + dt * wallPerClk s.fw.clock := rfl
@[simp] theorem tick_threads (s : State) (dt : Nat) : (s.tick dt).threads = s.threads := rfl
@[simp] theorem tick_groups (s : State) (dt : Nat) : (s.tick dt).groups = s.groups := rfl
@[simp] theorem tick_teams (s : State) (dt : Nat) : (s.tick dt).teams = s.teams := rfl
@[simp] theorem tick_launches (s : State) (dt : Nat) : (s.tick dt).launches = s.launches := rfl
@[simp] theorem tick_units (s : State) (dt : Nat) : (s.tick dt).units = s.units := rfl
@[simp] theorem tick_folds (s : State) (dt : Nat) : (s.tick dt).folds = s.folds := rfl
@[simp] theorem tick_ctxs (s : State) (dt : Nat) : (s.tick dt).ctxs = s.ctxs := rfl
@[simp] theorem tick_sto (s : State) (dt : Nat) : (s.tick dt).sto = s.sto := rfl
@[simp] theorem tick_fly (s : State) (dt : Nat) : (s.tick dt).fly = s.fly := rfl
@[simp] theorem tick_dies (s : State) (dt : Nat) : (s.tick dt).dies = s.dies := rfl
@[simp] theorem tick_slices (s : State) (dt : Nat) : (s.tick dt).slices = s.slices := rfl
@[simp] theorem tick_health (s : State) (dt : Nat) : (s.tick dt).health = s.health := rfl
@[simp] theorem tick_bar0 (s : State) (dt : Nat) : (s.tick dt).bar0 = s.bar0 := rfl
@[simp] theorem tick_fabric (s : State) (dt : Nat) : (s.tick dt).fabric = s.fabric := rfl
@[simp] theorem tick_saveEntry (s : State) (dt : Nat) : (s.tick dt).saveEntry = s.saveEntry := rfl
@[simp] theorem tick_msi (s : State) (dt : Nat) : (s.tick dt).msi = s.msi := rfl
@[simp] theorem tick_msix (s : State) (dt : Nat) : (s.tick dt).msix = s.msix := rfl
@[simp] theorem tick_msixPending (s : State) (dt : Nat) : (s.tick dt).msixPending = s.msixPending := rfl
@[simp] theorem tick_hostReads (s : State) (dt : Nat) : (s.tick dt).hostReads = s.hostReads := rfl
@[simp] theorem tick_ticks (s : State) (dt : Nat) : (s.tick dt).ticks = s.ticks := rfl
@[simp] theorem tick_copyTurn (s : State) (dt : Nat) : (s.tick dt).copyTurn = s.copyTurn := rfl
@[simp] theorem tick_agenda (s : State) (dt : Nat) : (s.tick dt).agenda = s.agenda := rfl
@[simp] theorem tick_work (s : State) (dt : Nat) : (s.tick dt).work = s.work := rfl
@[simp] theorem tick_cur (s : State) (dt : Nat) : (s.tick dt).cur = s.cur := rfl
@[simp] theorem tick_taken (s : State) (dt : Nat) : (s.tick dt).taken = s.taken := rfl
@[simp] theorem tick_formed (s : State) (dt : Nat) : (s.tick dt).formed = s.formed := rfl
@[simp] theorem tick_nextId (s : State) (dt : Nat) : (s.tick dt).nextId = s.nextId := rfl
@[simp] theorem tick_fresh (s : State) (dt : Nat) : (s.tick dt).fresh = s.fresh := rfl

end Sys2Proof.Laws
end

