-- ==== Sys2Proof/Laws/Memory.lean ====
section
/-!
SUPPORT. Cells: what a write leaves to be read, and that every memory operation keeps the canonical form (log 3).
-/

namespace Sys2Proof.Laws

open Sys2Proof.Machine

/-! The canonical form. -/

/-- A list is canonical when its first cell is not 0 and lies below all others, and the rest is canonical. -/
theorem cellsWf_cons (c : Host.Cell) (l : List Host.Cell) :
    cellsWf (c :: l) = true ↔ c.2 ≠ 0 ∧ (∀ d ∈ l, c.1 < d.1) ∧ cellsWf l = true := by
  induction l generalizing c with
  | nil => simp [cellsWf]
  | cons d r ih =>
    simp only [cellsWf, Bool.and_eq_true, decide_eq_true_eq, List.mem_cons, forall_eq_or_imp]
    constructor
    · rintro ⟨⟨hc, hcd⟩, hd⟩
      have h := (ih d).1 hd
      exact ⟨hc, ⟨hcd, fun e he => Nat.lt_trans hcd (h.2.1 e he)⟩, hd⟩
    · rintro ⟨hc, ⟨hcd, _⟩, hd⟩
      exact ⟨⟨hc, hcd⟩, hd⟩

/-- What a byte write leaves in the list: the cell itself, or cells that were there. -/
theorem mem_cellSet {l : List Host.Cell} {a : Nat} {x : Byte} {c : Host.Cell} (h : c ∈ cellSet l a x) :
    c = (a, x) ∨ c ∈ l := by
  induction l with
  | nil =>
    simp only [cellSet] at h
    split at h <;> simp_all
  | cons d r ih =>
    simp only [cellSet] at h
    split at h
    · rcases List.mem_cons.1 h with rfl | h
      · exact .inr (by simp)
      · exact (ih h).imp id fun h => by simp [h]
    · split at h
      · split at h
        · exact .inr (by simp [h])
        · rcases List.mem_cons.1 h with rfl | h
          · exact .inl rfl
          · exact .inr (by simp [h])
      · split at h
        · exact .inr h
        · rcases List.mem_cons.1 h with rfl | h
          · exact .inl rfl
          · exact .inr h

/-- A byte write keeps the canonical form. -/
theorem cellSet_wf {l : List Host.Cell} (h : cellsWf l = true) (a : Nat) (x : Byte) : cellsWf (cellSet l a x) = true := by
  induction l with
  | nil =>
    simp only [cellSet]
    split
    · rfl
    · simpa [cellsWf]
  | cons c r ih =>
    obtain ⟨hc, hlt, hr⟩ := (cellsWf_cons c r).1 h
    simp only [cellSet]
    split
    · rename_i hca
      refine (cellsWf_cons _ _).2 ⟨hc, fun d hd => ?_, ih hr⟩
      rcases mem_cellSet hd with rfl | hd
      · exact hca
      · exact hlt d hd
    · split
      · rename_i hge heq
        split
        · exact hr
        · exact (cellsWf_cons _ _).2 ⟨by assumption, fun d hd => heq ▸ hlt d hd, hr⟩
      · rename_i hge hne
        have hac : a < c.1 := by omega
        split
        · exact h
        · refine (cellsWf_cons _ _).2 ⟨by assumption, fun d hd => ?_, h⟩
          rcases List.mem_cons.1 hd with rfl | hd
          · exact hac
          · exact Nat.lt_trans hac (hlt d hd)

/-- A write of bytes keeps the canonical form. -/
theorem writeCells_wf {l : List Host.Cell} (h : cellsWf l = true) (a : Nat) (bs : List Byte) :
    cellsWf (writeCells l a bs) = true := by
  induction bs generalizing l a with
  | nil => exact h
  | cons b r ih => exact ih (cellSet_wf h a b) (a + 1)

/-- A part of a canonical list is canonical. -/
theorem filter_wf {l : List Host.Cell} (h : cellsWf l = true) (p : Host.Cell → Bool) : cellsWf (l.filter p) = true := by
  induction l with
  | nil => rfl
  | cons c r ih =>
    obtain ⟨hc, hlt, hr⟩ := (cellsWf_cons c r).1 h
    by_cases hp : p c = true
    · rw [List.filter_cons_of_pos hp]
      exact (cellsWf_cons _ _).2 ⟨hc, fun d hd => hlt d (List.mem_of_mem_filter hd), ih hr⟩
    · rw [List.filter_cons_of_neg hp]
      exact ih hr

/-- Zeroing a range keeps the canonical form. -/
theorem clearCells_wf {l : List Host.Cell} (h : cellsWf l = true) (a n : Nat) : cellsWf (clearCells l a n) = true :=
  filter_wf h _

/-- Writing cells one by one keeps the canonical form. -/
theorem foldl_cellSet_wf {l : List Host.Cell} (h : cellsWf l = true) (cs : List Host.Cell) (f : Host.Cell → Nat) :
    cellsWf (cs.foldl (fun m c => cellSet m (f c) c.2) l) = true := by
  induction cs generalizing l with
  | nil => exact h
  | cons c r ih => exact ih (cellSet_wf h _ _)

/-! Reading back. -/

/-- A cell below all of a list is not in it. -/
theorem cellGet_below {l : List Host.Cell} {a : Nat} (h : ∀ d ∈ l, a < d.1) : cellGet l a = 0 := by
  induction l with
  | nil => rfl
  | cons d r ih =>
    have := h d (by simp)
    simp only [cellGet]
    rw [if_neg (by omega)]
    exact ih fun e he => h e (by simp [he])

/-- A read of a byte after its write gives the byte written. -/
theorem cellGet_cellSet_same {l : List Host.Cell} (h : cellsWf l = true) (a : Nat) (x : Byte) :
    cellGet (cellSet l a x) a = x := by
  induction l with
  | nil =>
    simp only [cellSet]
    split <;> simp_all [cellGet]
  | cons c r ih =>
    obtain ⟨hc, hlt, hr⟩ := (cellsWf_cons c r).1 h
    simp only [cellSet]
    split
    · rename_i hca
      simp only [cellGet]
      rw [if_neg (by omega)]
      exact ih hr
    · split
      · rename_i hge heq
        split
        · rename_i hx
          rw [cellGet_below fun d hd => heq ▸ hlt d hd, hx]
        · simp [cellGet]
      · rename_i hge hne
        split
        · rename_i hx
          have hac : a < c.1 := by omega
          rw [cellGet_below fun d hd => ?_, hx]
          rcases List.mem_cons.1 hd with rfl | hd
          · exact hac
          · exact Nat.lt_trans hac (hlt d hd)
        · simp [cellGet]

/-- A write of a byte leaves every other byte alone. -/
theorem cellGet_cellSet_other (l : List Host.Cell) {a b : Nat} (h : b ≠ a) (x : Byte) :
    cellGet (cellSet l a x) b = cellGet l b := by
  induction l with
  | nil =>
    simp only [cellSet]
    split <;> simp [cellGet, Ne.symm h]
  | cons c r ih =>
    simp only [cellSet]
    split
    · simp only [cellGet, ih]
    · split
      · rename_i heq
        subst heq
        split <;> simp [cellGet, Ne.symm h]
      · split <;> simp [cellGet, Ne.symm h]

/-- A write of bytes leaves every byte outside them alone. -/
theorem cellGet_writeCells_other (l : List Host.Cell) (a : Nat) (bs : List Byte) {b : Nat}
    (h : b < a ∨ a + bs.length ≤ b) : cellGet (writeCells l a bs) b = cellGet l b := by
  induction bs generalizing l a with
  | nil => rfl
  | cons x r ih =>
    simp only [List.length_cons] at h
    rw [writeCells, ih _ _ (by omega), cellGet_cellSet_other _ (by omega)]

/-- A read of a byte after a write of bytes that covers it gives the byte written. -/
theorem cellGet_writeCells_same {l : List Host.Cell} (h : cellsWf l = true) (a : Nat) (bs : List Byte) {i : Nat}
    (hi : i < bs.length) : cellGet (writeCells l a bs) (a + i) = bs[i] := by
  induction bs generalizing l a i with
  | nil => simp at hi
  | cons x r ih =>
    cases i with
    | zero =>
      rw [writeCells, cellGet_writeCells_other _ _ _ (by omega)]
      simpa using cellGet_cellSet_same h a x
    | succ k =>
      have := ih (cellSet_wf h a x) (a + 1) (i := k) (by simpa using hi)
      rw [writeCells, show a + (k + 1) = a + 1 + k by omega, this]
      rfl

/-! The operations on the three memories. -/

/-- The canonical form of the memories depends on their cells only. -/
theorem wf_congr {m n : Storage} (h1 : n.mem = m.mem) (h2 : n.spad = m.spad) (h3 : n.ws = m.ws) (h : Memory.wf m = true) :
    Memory.wf n = true := by
  simp only [Memory.wf, h1, h2, h3] at h ⊢
  exact h

/-- A dump's header keeps the canonical form (R454). -/
theorem dumpHead_wf {m : List Host.Cell} (h : cellsWf m = true) (d : Dump) : cellsWf (dumpHead m d) = true :=
  writeCells_wf (writeCells_wf h _ _) _ _

/-- The entry of a dump's copy list keeps the canonical form (R454). -/
theorem listCopy_wf {m : List Host.Cell} (h : cellsWf m = true) (d : Dump) (g copy state : Nat) :
    cellsWf (listCopy m d g copy state) = true := by
  unfold listCopy
  split
  · exact writeCells_wf h _ _
  · exact h

/-- A dump's copy of a granule keeps the canonical form (R453). -/
theorem copyGranule_wf {mem : List Host.Cell} (h : cellsWf mem = true) (d : Dump) (g : Nat) (cells : List Host.Cell) :
    cellsWf (copyGranule mem d g cells) = true := by
  have hk : ∀ k : Nat, cellsWf (if d.next + k ≤ d.area + d.size then
      listCopy (cells.foldl (fun m c => cellSet m (d.next + (c.1 - g * k)) c.2) (clearCells mem d.next k)) d g d.next 1
      else listCopy mem d g 0 2) = true := by
    intro k
    split
    · exact listCopy_wf (foldl_cellSet_wf (clearCells_wf h _ _) _ fun c => d.next + (c.1 - g * k)) _ _ _ _
    · exact listCopy_wf h _ _ _ _
  exact hk 65536

/-- The copies of all dumps before a write keep the canonical form, and touch device memory only. -/
theorem dumpCopies_wf (fuel : Nat) {s : State} (h : Memory.wf s.sto = true) (g : Nat) :
    Memory.wf (s.dumpCopies fuel g).sto = true := by
  induction fuel generalizing s g with
  | zero => exact h
  | succ n ih =>
    have many : ∀ (gs : List Nat) {s : State}, Memory.wf s.sto = true →
        Memory.wf (gs.foldl (fun s h => s.dumpCopies n h) s).sto = true := by
      intro gs
      induction gs with
      | nil => intro s h; exact h
      | cons x r ihr => intro s h; exact ihr (ih h x)
    unfold State.dumpCopies
    generalize s.ctxs = cs
    induction cs generalizing s with
    | nil => exact h
    | cons c r ihc =>
      simp only [List.foldl_cons]
      apply ihc
      split
      · exact h
      · rename_i d _
        split
        · rw [updSto_sto]
          have hm := many d.writesIn (s := { s with ctxs := s.ctxs.map fun (x : Context) =>
            if x.num = c.num then { x with dump := some (d.without g) } else x }) h
          simp only [Memory.wf, Bool.and_eq_true] at hm ⊢
          exact ⟨⟨dumpHead_wf (copyGranule_wf hm.1.1 d g _) _, hm.1.2⟩, hm.2⟩
        · exact h

/-- The copies before a write of a granule keep the canonical form. -/
theorem dumpCopy_wf {s : State} (h : Memory.wf s.sto = true) (g : Nat) : Memory.wf (s.dumpCopy g).sto = true :=
  dumpCopies_wf _ h g

/-- A number for a subscribed line's write changes no memory (R337). -/
theorem number_sto (s : State) (line : Nat) : (s.number line).sto = s.sto := by
  unfold State.number
  split <;> rfl

/-- A write of device memory keeps the canonical form. -/
theorem writePhys_wf {s : State} (h : Memory.wf s.sto = true) (pa : Nat) (bs : List Byte) :
    Memory.wf (s.writePhys pa bs).sto = true := by
  have hd : ∀ (gs : List Nat) {s : State}, Memory.wf s.sto = true → Memory.wf (gs.foldl State.dumpCopy s).sto = true := by
    intro gs
    induction gs with
    | nil => intro s h; exact h
    | cons g r ih => intro s h; exact ih (dumpCopy_wf h g)
  have hn : ∀ (ls : List Nat) (s : State), (ls.foldl State.number s).sto = s.sto := by
    intro ls
    induction ls with
    | nil => intro s; rfl
    | cons l r ih => intro s; rw [List.foldl_cons, ih, number_sto]
  unfold State.writePhys
  split
  · exact h
  · simp only [hn, updFly_sto, updSto_sto]
    have := hd (blocksOf 65536 pa bs.length) h
    simp only [Memory.wf, Bool.and_eq_true] at this ⊢
    exact ⟨⟨writeCells_wf this.1.1 _ _, this.1.2⟩, this.2⟩

/-- A write of a scratchpad keeps the canonical form. -/
theorem writeSpad_wf {s : State} (h : Memory.wf s.sto = true) (a : Nat) (bs : List Byte) :
    Memory.wf (s.writeSpad a bs).sto = true := by
  simp only [Memory.wf, Bool.and_eq_true] at h
  simp only [State.writeSpad, updSto_sto, Memory.wf, Bool.and_eq_true]
  exact ⟨⟨h.1.1, writeCells_wf h.1.2 _ _⟩, h.2⟩

/-- A write of a weight store keeps the canonical form. -/
theorem writeWs_wf {s : State} (h : Memory.wf s.sto = true) (die off : Nat) (bs : List Byte) :
    Memory.wf (s.writeWs die off bs).sto = true := by
  simp only [Memory.wf, Bool.and_eq_true] at h
  simp only [State.writeWs, updSto_sto, Memory.wf, Bool.and_eq_true]
  exact ⟨h.1, writeCells_wf h.2 _ _⟩

/-- A write at a place keeps the canonical form. -/
theorem writeAt_wf {s : State} (h : Memory.wf s.sto = true) (p : Place) (bs : List Byte) :
    Memory.wf (s.writeAt p bs).sto = true := by
  cases p with
  | mem a => exact writePhys_wf h a bs
  | spad a => exact writeSpad_wf h a bs
  | ws _ => exact h
  | peer _ _ => exact h

/-- The device's own write at a virtual address keeps the canonical form. -/
theorem vwrite_wf {s t : State} (h : Memory.wf s.sto = true) {c : Context} {va : Nat} {bs : List Byte}
    (ht : s.vwrite c va bs = some t) : Memory.wf t.sto = true := by
  unfold State.vwrite at ht
  split at ht
  · simp at ht
  · rename_i ps _
    obtain rfl := Option.some.inj ht
    have : ∀ (ps : List (Nat × Nat)) (r : State × List Byte), Memory.wf r.1.sto = true →
        Memory.wf (ps.foldl (fun r p => (r.1.writePhys p.1 (r.2.take p.2), r.2.drop p.2)) r).1.sto = true := by
      intro ps
      induction ps with
      | nil => intro r h; exact h
      | cons p q ih => intro r h; exact ih _ (writePhys_wf h _ _)
    exact this ps (s, bs) h

/-- Memory after a reset is canonical. -/
theorem freeCells_wf (s : State) (salt : Nat) {l : List Host.Cell} (h : cellsWf l = true) :
    cellsWf (s.freeCells salt l) = true := by
  unfold State.freeCells
  generalize s.fresh + salt = k
  induction l with
  | nil => rfl
  | cons c r ih =>
    obtain ⟨_, hlt, hr⟩ := (cellsWf_cons c r).1 h
    rw [List.map_cons, List.filter_cons]
    split
    · rename_i hz
      refine (cellsWf_cons _ _).2 ⟨by simpa using hz, fun d hd => ?_, ih hr⟩
      obtain ⟨e, he, rfl⟩ := List.mem_map.1 (List.mem_of_mem_filter hd)
      exact hlt e he
    · exact ih hr

end Sys2Proof.Laws
end

