-- ==== Sys2Proof/Laws/Ops.lean ====
section
/-!
SUPPORT. How a word is performed: a word whose operands are ready, that nothing holds and that no check stops, has its
effect in every participant, and its unit goes on.
-/

namespace Sys2Proof.Laws

open Sys2Proof.Machine Sys2Proof.Safety

/-- A register that is full has no failure and waits for nothing. -/
theorem failure_of_full {r : Reg} (h : r.isFull = true) : r.failure = none := by cases r <;> simp_all [Reg.isFull, Reg.failure]

/-- A register that is full waits for no fill. -/
theorem isEmpty_of_full {r : Reg} (h : r.isFull = true) : r.isEmpty = false := by cases r <;> simp_all [Reg.isFull, Reg.isEmpty]

/-- A ready operand lets the thread go on. -/
theorem useStatus_ready {s : State} {t : Nat} {u : Use}
    (h : ∀ r ∈ s.regsOf t (u.now s.unit.rep) u.n, (u.rd = true → r.isFull = true) ∧ (u.wr = true → r.isEmpty = false))
    (eb : Bool) : s.useStatus t eb u = .ready := by
  unfold State.useStatus
  cases hr : u.rd with
  | true =>
    have hf : ∀ r ∈ s.regsOf t (u.now s.unit.rep) u.n, r.isFull = true := fun r hm => (h r hm).1 hr
    have h1 : (s.regsOf t (u.now s.unit.rep) u.n).findSome? Reg.failure = none :=
      List.findSome?_eq_none_iff.2 fun r hm => failure_of_full (hf r hm)
    have h2 : (s.regsOf t (u.now s.unit.rep) u.n).any Reg.isEmpty = false :=
      List.any_eq_false.2 fun r hm => by simp [isEmpty_of_full (hf r hm)]
    simp [h1, h2]
  | false =>
    cases hw : u.wr with
    | true =>
      have h2 : (s.regsOf t (u.now s.unit.rep) u.n).any Reg.isEmpty = false :=
        List.any_eq_false.2 fun r hm => by simp [(h r hm).2 hw]
      simp [h2]
    | false => simp

/-- Every participant's status list is that of its own wait once its operands are ready. -/
theorem statusList_ready {s : State} {w : Work} {eb : Bool} {ps : List (Nat × Nat)} {lead : Bool}
    (hu : ∀ p ∈ ps, ∀ u ∈ w.uses, (u.low = true → lead = true ∧ ps.head? = some p) → s.useStatus p.2 eb u = .ready)
    (ho : ∀ p ∈ ps, w.own s p = .ready) : s.statusList w eb lead ps = ps.map fun p => (p, [Status.ready]) := by
  induction ps generalizing lead with
  | nil => rfl
  | cons p r ih =>
    have hall : ((w.uses.filter fun u => !u.low || lead).map (s.useStatus p.2 eb)).all (· == .ready) = true := by
      simp only [List.all_map, List.all_eq_true]
      intro u hm
      have hf := List.of_mem_filter hm
      have : s.useStatus p.2 eb u = .ready :=
        hu p (by simp) u (List.mem_of_mem_filter hm) fun hl => ⟨by simpa [hl] using hf, rfl⟩
      simp [this]
    simp only [State.statusList, hall, if_true, ho p (by simp), List.map_cons, List.cons.injEq, true_and]
    refine ih (fun q hq u hm hl => ?_) (fun q hq => ho q (by simp [hq]))
    refine hu q (by simp [hq]) u hm fun h => ?_
    have := (hl h).1
    simp [firstTrap] at this

/-- The same of a word whose lowest-lane participant's operands do not trap. -/
theorem statuses_ready {s : State} {w : Work} {eb : Bool} {ps : List (Nat × Nat)}
    (hu : ∀ p ∈ ps, ∀ u ∈ w.uses, (u.low = true → ps.head? = some p) → s.useStatus p.2 eb u = .ready)
    (ho : ∀ p ∈ ps, w.own s p = .ready) : s.statuses w eb ps = ps.map fun p => (p, [Status.ready]) := by
  have hn : (ps.head?.bind fun p => firstTrap ((w.uses.filter Use.low).map (s.useStatus p.2 eb))) = none := by
    cases ps with
    | nil => rfl
    | cons p r =>
      simp only [List.head?_cons, Option.bind_some, firstTrap, List.findSome?_eq_none_iff, List.mem_map]
      rintro x ⟨u, hm, rfl⟩
      rw [hu p (by simp) u (List.mem_of_mem_filter hm) fun _ => rfl]
  unfold State.statuses
  rw [hn]
  exact statusList_ready (fun p hp u hm hl => hu p hp u hm fun h => (hl h).2) ho

/-- A word that issues: every participant goes on, and nobody traps. -/
theorem prep_issues {s : State} {w : Work} (h : Issues s w.guard w.uses) (ho : ∀ p ∈ s.parts w.guard, w.own s p = .ready)
    (hh : s.parts w.guard ≠ [] → w.hold s (s.parts w.guard) = false)
    (hc : ∀ p ∈ s.parts w.guard, w.chk s (s.parts w.guard) p = none) : s.prep w = .go (s.parts w.guard) [] := by
  have hb : (w.uses.any fun u => u.bad s.unit.rep (s.grp s.unit.group).budget) = false :=
    List.any_eq_false.2 fun u hu => by simp [h.operands.1 u hu]
  have hs := statuses_ready (s := s) (w := w) (eb := s.emptyBit) (ps := s.parts w.guard)
    (fun p hp u hu hl => useStatus_ready (h.operands.2 p hp u hu hl) _) ho
  unfold State.prep
  simp only [hb, hs]
  have hf : ∀ x : (Nat × Nat) × List Status, x ∈ (s.parts w.guard).map (fun p => (p, [Status.ready])) →
      firstTrap x.2 = none := by
    intro x hx
    obtain ⟨p, _, rfl⟩ := List.mem_map.1 hx
    rfl
  have ht : ((s.parts w.guard).map fun p => (p, [Status.ready])).filterMap
      (fun x => (firstTrap x.2).map fun f => (x.1, f)) = [] := by
    rw [List.filterMap_eq_nil_iff]
    intro x hx
    simp [hf x hx]
  have hl : (((s.parts w.guard).map fun p => (p, [Status.ready])).filter
      fun x => ((firstTrap x.2).map fun f => (x.1, f)).isNone) = (s.parts w.guard).map fun p => (p, [Status.ready]) := by
    rw [List.filter_eq_self]
    intro x hx
    simp [hf x hx]
  have hm : (((s.parts w.guard).map fun p => (p, [Status.ready])).map Prod.fst) = s.parts w.guard := by
    simp [Function.comp_def]
  have hw : (((s.parts w.guard).map fun p => (p, [Status.ready])).any
      fun x => x.2.any Status.stalls || (s.accesses && s.acquiring x.1.2)) = false := by
    rw [List.any_eq_false]
    intro x hx
    obtain ⟨p, hp, rfl⟩ := List.mem_map.1 hx
    cases ha : s.accesses with
    | false => simp [Status.stalls]
    | true => simp [Status.stalls, h.free ha p hp]
  have ho' : (s.parts w.guard).filterMap (fun p => (w.chk s (s.parts w.guard) p).map fun f => (p, f)) = [] := by
    rw [List.filterMap_eq_nil_iff]
    intro p hp
    simp [hc p hp]
  have hk : (s.parts w.guard).filter (fun p => (w.chk s (s.parts w.guard) p).isNone) = s.parts w.guard := by
    rw [List.filter_eq_self]
    intro p hp
    simp [hc p hp]
  rw [ht, hl]
  simp only [hm, hw, ho', hk]
  cases hp : s.parts w.guard with
  | nil => simp [sortBy]
  | cons p r =>
    have := hh (by simp [hp])
    rw [hp] at this
    simp [this, sortBy]

/-- Taking no fault changes nothing while the unit has threads. -/
theorem takeAll_nil {s : State} (note : State → Nat × Nat → State) (h : s.unit.lanes ≠ []) : s.takeAll note [] = s := by
  unfold State.takeAll
  cases hl : s.unit.lanes with
  | nil => exact absurd hl h
  | cons p r => simp [State.takeTraps]

/-- A charge leaves the units alone. -/
@[simp] theorem charge_units (s : State) (c k n : Nat) : (s.charge c k n).units = s.units := rfl

/-- The charge of a word leaves the unit at issue alone. -/
@[simp] theorem pay_unit (s : State) (c k n : Nat) (ok : List (Nat × Nat)) : (s.pay c k n ok).unit = s.unit := by
  unfold State.pay
  split <;> rfl

/-- A charge leaves the unit at issue alone. -/
@[simp] theorem charge_unit (s : State) (c k n : Nat) : (s.charge c k n).unit = s.unit := rfl

/-- A word that issues is performed: its effect, its charge, and the unit goes on. -/
theorem run_issues {s : State} {w : Work} (h : Issues s w.guard w.uses) (ho : ∀ p ∈ s.parts w.guard, w.own s p = .ready)
    (hh : s.parts w.guard ≠ [] → w.hold s (s.parts w.guard) = false)
    (hc : ∀ p ∈ s.parts w.guard, w.chk s (s.parts w.guard) p = none)
    (hl : (w.act s (s.parts w.guard)).unit.lanes ≠ []) (he : w.ends = false) :
    s.run w = .next (goesOn s (w.act s (s.parts w.guard)) w.guard w.cost w.fin) := by
  unfold State.run
  rw [prep_issues h ho hh hc]
  simp only [he, Bool.false_eq_true, if_false]
  rw [takeAll_nil _ (by simpa using hl)]
  unfold State.pay goesOn
  split <;> rfl

/-- A destination write leaves the unit at issue alone. -/
@[simp] theorem putDst_unit (s : State) (ok : List (Nat × Nat)) (d : Opnd) (f : Nat × Nat → List Word) :
    (s.putDst ok d f).unit = s.unit := by
  cases d <;> simp only [State.putDst]
  · rfl
  · split <;> rfl

/-- A change of the participants' threads leaves the unit at issue alone. -/
@[simp] theorem each_unit (s : State) (ok : List (Nat × Nat)) (f : Nat × Nat → Thread → Thread) :
    (s.each ok f).unit = s.unit := rfl

/-- A predicate write leaves the unit at issue alone. -/
@[simp] theorem putPred_unit (s : State) (ok : List (Nat × Nat)) (q : Nat) (f : Nat × Nat → Bool) :
    (s.putPred ok q f).unit = s.unit := rfl

/-- Changing every element by nothing changes nothing. -/
theorem mapFrom_id {α : Type} {f : Nat → α → α} (h : ∀ k x, f k x = x) (k : Nat) (l : List α) : mapFrom f k l = l := by
  induction l generalizing k with
  | nil => rfl
  | cons x r ih => simp [mapFrom, ih, h]

/-- Changing threads by nothing changes nothing. -/
theorem each_self (s : State) (ok : List (Nat × Nat)) (f : Nat × Nat → Thread → Thread) (h : ∀ p x, f p x = x) :
    s.each ok f = s := by
  unfold State.each
  rw [mapFrom_id]
  intro k x
  split <;> simp [h]

/-- The low word of a zero-extended word is the word. -/
@[simp] theorem lo32_setWidth (x : Word) : lo32 (x.setWidth 64) = x := by
  apply BitVec.eq_of_toNat_eq
  simp [lo32]

/-- A 32-bit source, as the arithmetic words take it. -/
theorem val_one (s : State) (p : Nat × Nat) (o : Opnd) (st : Nat) : s.val p o 1 st = (val32 s p o st).setWidth 64 := rfl

/-- A 64-bit source, as the arithmetic words take it. -/
theorem val_two (s : State) (p : Nat × Nat) (o : Opnd) (st : Nat) : s.val p o 2 st = val64 s p o st := rfl

/-- An arithmetic word that issues: its result, its sticky bits, and the unit goes on. -/
theorem arith_issues {s : State} {cost g dn an bn : Nat} {d a b : Opnd} {rd : Bool}
    {f : Word → Dword → Dword → Dword → Dword × Word} (h : Issues s g [dstUse d dn rd, srcUse a an 2, srcUse b bn 1]) :
    s.run (arith cost g d dn rd a an b bn f) = .next (goesOn s
      ((s.putDst (s.parts g) (s.stepped 4 dn d) fun p =>
        wordsOf dn (f (s.modeOf p.2) (s.val p a an 2) (s.val p b bn 1) (if rd then s.val p d dn 4 else 0)).1).each
        (s.parts g) fun p x =>
          { x with mode := x.mode ||| (f (s.modeOf p.2) (s.val p a an 2) (s.val p b bn 1) (if rd then s.val p d dn 4 else 0)).2 })
      g cost State.advance) := by
  rw [run_issues (w := arith cost g d dn rd a an b bn f) h (fun _ _ => rfl) (fun _ => rfl) (fun _ _ => rfl)
    (by simpa [arith] using h.lanes) rfl]
  rfl

/-- An arithmetic word that sets no sticky bit. -/
theorem arith_gives {s : State} {cost g dn an bn : Nat} {d a b : Opnd} {rd : Bool}
    {f : Word → Dword → Dword → Dword → Dword × Word} (h : Issues s g [dstUse d dn rd, srcUse a an 2, srcUse b bn 1])
    (hf : ∀ m x y z, (f m x y z).2 = 0) :
    s.run (arith cost g d dn rd a an b bn f) = gives s g cost dn d fun p =>
      wordsOf dn (f (s.modeOf p.2) (s.val p a an 2) (s.val p b bn 1) (if rd then s.val p d dn 4 else 0)).1 := by
  rw [arith_issues h, each_self _ _ _ (fun p x => by simp [hf])]
  rfl

/-- The value of a one-register result. -/
@[simp] theorem wordsOf_one (x : Word) : wordsOf 1 (x.setWidth 64) = [x] := by simp [wordsOf]

/-- An integer word on 32-bit values. -/
theorem int2_gives {s : State} {g : Nat} {d a b : Opnd} {f : Word → Word → Word}
    (h : Issues s g [dstUse d 1 false, srcUse a 1 2, srcUse b 1 1]) :
    s.run (int2 g d a b f) = gives s g 1 1 d fun p => [f (val32 s p a 2) (val32 s p b 1)] := by
  rw [int2, arith_gives h (fun _ _ _ _ => rfl)]
  simp [val_one]

/-- An integer word on 32-bit values that also reads its destination. -/
theorem int3_gives {s : State} {g : Nat} {d a b : Opnd} {f : Word → Word → Word → Word}
    (h : Issues s g [dstUse d 1 true, srcUse a 1 2, srcUse b 1 1]) :
    s.run (int3 g d a b f) = gives s g 1 1 d fun p => [f (val32 s p a 2) (val32 s p b 1) (val32 s p d 4)] := by
  rw [int3, arith_gives h (fun _ _ _ _ => rfl)]
  simp [val_one]

/-- An operand that names no register is the same in every repeat. -/
theorem atRep_fixed {u : Use} (ho : ∀ k, u.o ≠ .v k ∧ u.o ≠ .s k) (r : Option Rep) (k : Nat) : u.atRep r k = u.o := by
  have hp : ∀ m, opndPlus u.o m = u.o := by
    intro m
    unfold opndPlus
    split
    · next n h => exact absurd h (ho n).1
    · next n h => exact absurd h (ho n).2
    · rfl
  unfold Use.atRep
  split
  · rfl
  · split
    · exact hp _
    · rfl

/-- An operand that names no register asks for nothing. -/
theorem Issues_snoc {s : State} {g n st : Nat} {us : List Use} {o : Opnd}
    (ho : ∀ k, o ≠ .v k ∧ o ≠ .s k) (h : Issues s g us) : Issues s g (us ++ [srcUse o n st]) := by
  have hk : ∀ r k, (srcUse o n st).atRep r k = o := fun r k => atRep_fixed (u := srcUse o n st) ho r k
  have hb : ∀ m x y z, opndBad o m x y z = false := by
    intro m x y z
    unfold opndBad
    split
    · next k => exact absurd rfl (ho k).1
    · next k => exact absurd rfl (ho k).2
    · rfl
  refine ⟨h.lanes, ⟨?_, ?_⟩, h.free⟩
  · intro u hu
    rcases List.mem_append.1 hu with hu | hu
    · exact h.operands.1 u hu
    · rw [List.mem_singleton.1 hu, Use.bad, Use.now, hk, hk, hb]
      rfl
  · intro p hp u hu hl r hr
    rcases List.mem_append.1 hu with hu | hu
    · exact h.operands.2 p hp u hu hl r hr
    · rw [List.mem_singleton.1 hu, Use.now, hk] at hr
      unfold State.regsOf at hr
      split at hr
      · exact absurd rfl (ho _).1
      · exact absurd rfl (ho _).2
      · simp at hr

/-- A word whose only effect is on its own participants' registers, flags and predicates, or on the machine: it issues. -/
theorem run_plain {s : State} {g cost : Nat} {us : List Use} {act : State → List (Nat × Nat) → State} (h : Issues s g us)
    (hl : (act s (s.parts g)).unit.lanes ≠ []) :
    s.run { uses := us, guard := g, cost := cost, act := act } = .next (goesOn s (act s (s.parts g)) g cost State.advance) :=
  run_issues (w := { uses := us, guard := g, cost := cost, act := act }) h (fun _ _ => rfl) (fun _ => rfl) (fun _ _ => rfl) hl rfl

/-- A comparison into a predicate. -/
theorem cmp_decides {s : State} {cost g q an bn : Nat} {a b : Opnd} {f : Word → Dword → Dword → Bool}
    (h : Issues s g [srcUse a an 0, srcUse b bn 0]) :
    s.run (cmpWork cost g q a an b bn f) = decides s g cost q fun p => f (s.modeOf p.2) (s.val p a an 0) (s.val p b bn 0) :=
  run_plain h (by simpa using h.lanes)

/-- A predicate word. -/
theorem pred_decides {s : State} {g q : Nat} {f : BitVec 16 → Bool} (h : Issues s g []) :
    s.run (predWork g q f) = decides s g 1 q fun p => f (s.thr p.2).preds :=
  run_plain h (by simpa using h.lanes)

end Sys2Proof.Laws
end

