-- ==== Sys2Proof/Tests/Slice0.lean ====
section
/-!
SUPPORT. The author's own tests: ill-formed terms that WellFormed refuses, words written out from the spec's encodings, single
steps with results worked out from the spec, and for each statement a state and operands that meet its hypotheses.
-/

set_option Elab.async false

namespace Sys2Proof.Tests

open Sys2Proof.Machine Sys2Proof.Safety

/-- Whether an outcome is a next state with a property. -/
def nextB (o : Host.Outcome State Fault Refusal) (p : State → Bool) : Bool :=
  match o with
  | .next t => p t
  | _ => false

theorem next_of {o : Host.Outcome State Fault Refusal} {p : State → Bool} (h : nextB o p = true) : ∃ t, o = .next t ∧ p t = true := by
  cases o with
  | next t => exact ⟨t, rfl, h⟩
  | fault f => exact absurd h (by simp [nextB])
  | refused f => exact absurd h (by simp [nextB])

/-! A small machine: one thread, in lane 0, at word 1 of a clause of a class at 0x40000000. -/

/-- The unit of the small machine, at the word at `idx` of a clause with the header `h` and the words `ws`. -/
def unitAtWord (h : Nat) (ws : List Word) (idx : Nat) : IssueUnit :=
  { core := 0, dp := 0, group := 0, lanes := [(0, 0)], hdr := 0x40000000, idx := idx,
    words := BitVec.ofNat 32 h :: ws, instrs := ws.length, waited := true }

/-- The small machine at word 1 of a clause of class `c`, with further threads' lanes `ls` of the same group. -/
def demo (c : Cls) (ws : List Word) : State :=
  { (State.reset.fetchState 0x10000000) with agenda := [], units := [unitAtWord (headerOf c ws.length) ws 1] }

/-- Whether a word issues without a fault. -/
def issuesB (s : State) (g : Nat) (us : List Use) : Bool :=
  decide (s.unit.lanes ≠ []) && us.all (fun u => !u.bad s.unit.rep (s.grp s.unit.group).budget) &&
  (s.parts g).all (fun p => us.all fun u => !(!u.low || (s.parts g).head? == some p) ||
    (s.regsOf p.2 (u.now s.unit.rep) u.n).all fun r => (!u.rd || r.isFull) && (!u.wr || !r.isEmpty)) &&
  (!s.accesses || (s.parts g).all fun p => !s.acquiring p.2)

theorem issues_of {s : State} {g : Nat} {us : List Use} (h : issuesB s g us = true) : Issues s g us := by
  simp only [issuesB, Bool.and_eq_true, decide_eq_true_eq, List.all_eq_true, Bool.not_eq_true', Bool.or_eq_true] at h
  obtain ⟨⟨⟨h1, h2⟩, h3⟩, h4⟩ := h
  refine ⟨h1, ⟨h2, fun p hp u hu hl r hr => ?_⟩, fun ha p hp => ?_⟩
  · rcases h3 p hp u hu with h | h
    · by_cases hlow : u.low = true
      · simp [hlow, hl hlow] at h
      · simp [hlow] at h
    · have := h r hr
      simpa [Bool.or_eq_true, imp_iff_not_or] using this
  · rcases h4 with h | h
    · simp [ha] at h
    · exact h p hp

/-- Whether the unit at issue is as UnitOk says. -/
def unitOkB (s : State) : Bool :=
  s.unit.live && decide (s.cur < s.units.length) && decide ((s.unit.lanes.map Prod.fst).Pairwise (· < ·)) &&
  decide (s.unit.lanes.map Prod.snd).Nodup && s.unit.lanes.all (fun p => decide (p.2 < s.threads.length)) &&
  s.unit.lanes.all (fun p => (s.thr p.2).group == s.unit.group) &&
  (List.range s.units.length).all fun k => k == s.cur ||
    s.unit.lanes.all fun p => (s.unitAt k).lanes.all fun q => q.2 != p.2

theorem unitOk_of {s : State} (h : unitOkB s = true) : UnitOk s := by
  simp only [unitOkB, Bool.and_eq_true, decide_eq_true_eq, List.all_eq_true, beq_iff_eq, Bool.or_eq_true, List.mem_range,
    bne_iff_ne] at h
  obtain ⟨⟨⟨⟨⟨⟨h1, h2⟩, h3⟩, h4⟩, h5⟩, h6⟩, h7⟩ := h
  exact ⟨h1, h2, h3, h4, h5, h6, fun k hk hne p hp q hq => (h7 k hk).resolve_left hne p hp q hq⟩

theorem issues_all {s : State} {g : Nat} {l : List (List Use)} (h : l.all (issuesB s g) = true) : ∀ us ∈ l, Issues s g us :=
  fun us hu => issues_of (List.all_eq_true.mp h us hu)

/-! Hypotheses of the statements: each is met by a state and operands, at the ends of the ranges of registers. -/

/-- A machine with words of class `c` and two threads of the group, in lanes 0 and 1. -/
def pairDemo (c : Cls) (ws : List Word) : State :=
  let s := demo c ws
  { s with
    threads := s.threads ++ [{ group := 0, idx := 1, core := 0, v := List.replicate 96 (.full 7) }],
    units := s.units.map fun u => { u with lanes := [(0, 0), (1, 1)] } }

/-- IntegerWords, ShiftCounts, Unary, Field, Pair and Predicate words. -/
theorem witness_alu_words : ∀ us ∈ [[dstUse (.v 95) 1 false, srcUse (.v 0) 1 2, srcUse (.s 27) 1 1],
    [dstUse (.v 0) 1 false, srcUse (.lit 5) 1 2], [dstUse (.s 27) 1 false], [dstUse (.v 0) 1 true, srcUse .zero 1 2, srcUse .lane 1 1],
    [dstUse (.v 94) 2 true, srcUse (.v 95) 1 2, srcUse (.v 0) 1 1], [dstUse (.v 3) 1 false, srcUse (.v 3) 1 0, srcUse (.v 3) 1 0],
    [dstUse (.v 94) 2 false, srcUse (.s 26) 2 2, srcUse (.v 0) 2 1], [dstUse (.s 26) 2 false, srcUse (.v 94) 2 2, srcUse (.v 95) 1 1],
    [srcUse (.v 95) 1 0, srcUse (.s 0) 1 0], []], Issues (demo .alu [0x10000000]) 0 us := issues_all (by decide +kernel)

/-- Float words, compares, classes, conversions, quantisation and special functions. -/
theorem witness_xfn_words : ∀ us ∈ [[dstUse (.v 95) 1 false, srcUse (.v 0) 1 2, srcUse (.s 27) 1 1],
    [dstUse (.v 0) 1 true, srcUse (.v 1) 1 2, srcUse (.v 2) 1 1], [dstUse (.v 94) 2 false, srcUse (.v 0) 2 2, srcUse (.s 26) 2 1],
    [dstUse (.v 94) 2 true, srcUse (.v 0) 2 2, srcUse (.v 2) 2 1], [srcUse (.v 95) 1 0, srcUse (.s 0) 1 0],
    [srcUse (.v 94) 2 0, srcUse (.s 0) 2 0], [dstUse (.v 0) 1 false, srcUse (.v 94) 2 2],
    [dstUse (.v 0) (Fmt.regs .f64) false, srcUse (.v 3) (Fmt.regs .f32) 2], [dstUse (.v 0) 1 true, srcUse (.v 1) 1 2],
    [dstUse (.v 0) 2 false, srcUse (.v 1) 1 2], [dstUse (.v 0) 1 false, srcUse (.v 1) 1 2, srcUse (.v 94) 2 1],
    [{ o := .v 93, n := 3, wr := true, vOnly := true }, { o := .v 0, n := 3, rd := true, vOnly := true }]],
    Issues (demo .xfn [0x10000000]) 0 us := issues_all (by decide +kernel)

/-- Cross-lane words; LRED with the lanes as indices, in f64. -/
theorem witness_cross_lane : (∀ us ∈ [[dstUse (.v 95) 1 false, srcUse (.v 0) 1 0, srcUse .lane 1 0], [],
    [dstUse (.v 94) 2 false], [dstUse (.s 26) 2 false, srcUse (.v 95) 1 0],
    [dstUse (.v 94) (lredRegs .f64) false, srcUse (.v 0) (lredRegs .f64) 0, srcUse .lane 1 0]],
    Issues (pairDemo .alu [0x10000000]) 0 us) ∧
    ((((pairDemo .alu [0x10000000]).parts 0).map fun p => (val32 (pairDemo .alu [0x10000000]) p .lane 0).toNat)).Nodup := by
  and_intros <;> first
    | decide +kernel
    | exact issues_all (by decide +kernel)

/-- Branches, calls and returns to the header at 0x40000100, 64 words on. -/
def jumpDemo : State :=
  (demo .ctl [0xC0000000]).updThr 0 fun x => { x with calls := [0x40000100], v := .full 0x40000100 :: x.v.drop 1 }

theorem witness_transfers : UnitOk jumpDemo ∧ jumpDemo.unit.rep = none ∧ (∀ us ∈ [[], [srcUse (.v 0) 2 0]], Issues jumpDemo 0 us) ∧
    jumpDemo.targetBad (launchAt jumpDemo (0, 0)) (jumpDemo.unit.hdr + 4 * (BitVec.ofNat 21 64).signExtend 64) = false ∧
    (∀ p ∈ jumpDemo.parts 0, jumpDemo.targetBad (launchAt jumpDemo p) (val64 jumpDemo p (.v 0) 0) = false ∧
      (jumpDemo.thr p.2).calls.length < 32 ∧ (jumpDemo.thr p.2).calls ≠ []) := by
  and_intros <;> first
    | decide +kernel
    | exact unitOk_of (by decide +kernel)
    | exact issues_all (by decide +kernel)

/-- A machine whose context has debugging on, with or without instruction trace. -/
def debugOn (it : Bool) : Debug :=
  { ring := 0x60000000, pages := 16, ptrs := 0x60100000, itrace := it, dtrace := false, sample := false, regbrk := false,
    slog2 := 0, scope := 0, vec := 0, irq := false, regids := [], watch := [] }

def traced (s : State) (it : Bool) : State :=
  { s with ctxs := s.ctxs.map fun c => { c with bkpt := true, debug := some (debugOn it) } }

/-- ENTER at the last depth, LEAVE at depth 1, and BKPT with and without breakpoints. -/
theorem witness_regions :
    let s := (demo .ctl [0xC0000000]).updThr 0 fun x => { x with rdepth := 65534 }
    let t := (demo .ctl [0xC0000000]).updThr 0 fun x => { x with rdepth := 1, regions := [3] }
    Issues s 0 [] ∧ (s.ctx (s.launchOfUnit s.cur).ctx).debug = none ∧ (s.ctx (s.launchOfUnit s.cur).ctx).bkpt = false ∧
    (∀ p ∈ s.parts 0, (s.thr p.2).rdepth < 65535) ∧
    (∀ p ∈ t.parts 0, 0 < (t.thr p.2).rdepth ∧ ((t.thr p.2).regions.headD 0xFFFF).toNat = 3) ∧
    ((traced s false).ctx 0).debug = some (debugOn false) ∧ ((traced s false).ctx 0).bkpt = true ∧
    (traced s false).parts 0 ≠ [] ∧ Issues (traced s false) 0 [] := by
  and_intros <;> first
    | decide +kernel
    | exact issues_of (by decide +kernel)

/-- Prefixes: REP may stand before ADD and not before NOP, SCOPE before LD and not before ADD. -/
theorem witness_prefixes :
    let s := demo .alu [0xFE000000, 0x10000000]
    let n := demo .ctl [0xFE000000, 0xD4000000]
    let m := demo .mem [0xFE400000, 0x00000000]
    Issues s 0 [] ∧ s.cur < s.units.length ∧ s.unit.repOk 0 = true ∧ n.unit.repOk 0 = false ∧ Issues n 0 [] ∧
    m.unit.scopeOk = true ∧ Issues m 0 [] ∧ s.unit.scopeOk = false ∧ (∀ p ∈ s.unit.lanes, (s.thr p.2).repcount = 0) := by
  and_intros <;> first
    | decide +kernel
    | exact issues_of (by decide +kernel)

theorem witness_trap_and_exit : let s := demo .ctl [0xC0000000]
    UnitOk s ∧ s.unit.rep = none ∧ Issues s 0 [] ∧ Untraced s ∧
    (∀ p ∈ s.parts 0, (s.thr p.2).hmode = 0 ∧ s.targetBad (launchAt s p) (s.ctxOf p.2).handler = false ∧
      (s.thr p.2).st = 0 ∧ (s.thr p.2).mx = 0 ∧ (s.thr p.2).gx = 0 ∧ (s.thr p.2).ct = 0 ∧ (s.thr p.2).held = []) ∧
    0 < s.threads.length := by
  and_intros <;> first
    | decide +kernel
    | exact unitOk_of (by decide +kernel)
    | exact issues_of (by decide +kernel)
    | (unfold Untraced; decide +kernel)

/-- A machine whose one thread is in a mode of the handlers (sr.hmode). -/
def inMode (m : Nat) (c : Cls) (ws : List Word) : State := (demo c ws).updThr 0 fun x => { x with hmode := m }

theorem witness_eret : let s := inMode 1 .sys [0x04000000]
    UnitOk s ∧ s.unit.rep = none ∧ Issues s 0 [] ∧ Untraced s ∧
    ∀ p ∈ s.parts 0, (s.thr p.2).hmode = 1 ∧ (s.thr p.2).preempt = 0 := by
  and_intros <;> first
    | decide +kernel
    | exact unitOk_of (by decide +kernel)
    | exact issues_of (by decide +kernel)
    | (unfold Untraced; decide +kernel)

/-- A machine all of whose folds of core 0 are in use. -/
def fullFolds : State :=
  { demo .sync [0x10000000] with
    folds := (List.range 64).map fun n => { core := 0, num := n, group := 1, hdr := 0, idx := 0, rewait := false, threads := [9],
                                            since := 0, last := 0, order := n } }

theorem witness_regrouping : let s := demo .sync [0x10000000]
    (∀ us ∈ [[], [dstUse (.v 95) 1 false]], Issues s 0 us) ∧ Untraced s ∧ s.parts 0 ≠ [] ∧
    (s.fileAll s.unit.after 0 (s.parts 0)).2 = [] ∧ Issues fullFolds 0 [] ∧ Untraced fullFolds ∧
    (fullFolds.fileAll fullFolds.unit.after 0 (fullFolds.parts 0)).2 ≠ [] ∧
    (s.fileFold 0 0 0x40000100 0 false).isSome = true ∧ (s.folds.map fun f => (f.core, f.num)).Nodup ∧
    (∀ f ∈ s.folds, f.threads ≠ [] ∧ 0 ∉ f.threads ∧ f.threads.length ≤ (s.launchOf 0).record.width) ∧
    1 ≤ (s.launchOf 0).record.width := by
  and_intros <;> first
    | decide +kernel
    | exact issues_all (by decide +kernel)
    | (unfold Untraced; decide +kernel)
    | exact issues_of (by decide +kernel)

/-- A machine whose barrier 3 expects `e` arrivals and has completed a phase; register v0 holds 1. -/
def barDemo (e : Nat) : State :=
  let s := (demo .sync [0x20000000]).updThr 0 fun x => { x with v := .full 1 :: x.v.drop 1 }
  s.updGrp 0 fun g => { g with bars := upd g.bars 3 fun _ => { phase := 1, expect := e } }

theorem witness_arrivals : let s := barDemo 1
    (∀ us ∈ [[dstUse (.v 95) 1 false], [dstUse (.s 27) 1 false, srcUse (.v 0) 1 0]], Issues s 0 us) ∧
    (∀ p ∈ s.parts 0, (phaseFor (arriveAll (fun _ => 1) (s.bar 3) (s.parts 0)).1 p).isSome) ∧
    (∀ p ∈ s.parts 0, (phaseFor (arriveAll (fun p => (val32 s p (.v 0) 0).toNat) (s.bar 3) (s.parts 0)).1 p).isSome) ∧
    (∀ p ∈ s.parts 0, 1 ≤ (val32 s p (.v 0) 0).toNat ∧ (val32 s p (.v 0) 0).toNat ≤ 8192) := by
  and_intros <;> first
    | decide +kernel
    | exact issues_all (by decide +kernel)

theorem witness_barrier_waits : let s := barDemo 1
    let t := s.updThr 0 fun x => { x with bsync := 0x80030000 }
    let w := s.updThr 0 fun x => { x with bsync := 0x80030001 }
    (∀ us ∈ [[srcUse (.v 0) 1 0], [srcUse .zero 1 0], []], Issues s 0 us) ∧
    (∀ p ∈ s.parts 0, (s.bar 3).passed ((val32 s p .zero 0).setWidth 16) = true) ∧
    (∃ p ∈ s.parts 0, (s.bar 3).passed ((val32 s p (.v 0) 0).setWidth 16) = false) ∧
    (∀ p ∈ t.parts 0, (t.thr p.2).bsync.getLsbD 31 = true ∧ (t.bar 3).passed ((t.thr p.2).bsync.setWidth 16) = true) ∧
    (∃ p ∈ w.parts 0, (w.thr p.2).bsync.getLsbD 31 = true ∧ (w.bar 3).passed ((w.thr p.2).bsync.setWidth 16) = false) ∧
    s.unit.rep = none ∧ UnitOk s ∧ s.parts 0 = [(0, 0)] ∧ (s.thr 0).bsync.getLsbD 31 = false ∧
    s.unit.group < s.groups.length ∧ 3 < (s.grp s.unit.group).bars.length ∧ (s.bar 3).count + 1 = (s.bar 3).expect ∧
    ((barDemo 2).bar 3).count + 1 < ((barDemo 2).bar 3).expect := by
  and_intros <;> first
    | decide +kernel
    | exact issues_all (by decide +kernel)
    | exact unitOk_of (by decide +kernel)

/-- A machine whose convergence register k2 awaits `n` signatures of members 0 to n − 1; register v0 holds 1. -/
def convDemo (n : Nat) : State :=
  let s := (demo .sync [0x20000000]).updThr 0 fun x => { x with v := .full 1 :: x.v.drop 1 }
  s.updGrp 0 fun g => { g with convs := upd g.convs 2 fun _ => { declared := true, lo := 0, n := n, left := n } }

theorem witness_signatures : let s := convDemo 2
    Issues s 0 [lowUse (.v 1) 1, lowUse (.v 0) 1] ∧ Issues s 0 [] ∧ s.parts 0 = [(0, 0)] ∧
    (val32 s (0, 0) (.v 1) 0).toNat + (val32 s (0, 0) (.v 0) 0).toNat ≤ (s.grp s.unit.group).nthreads ∧
    1 ≤ (val32 s (0, 0) (.v 0) 0).toNat ∧ (s.conv (s.convOwner s.unit.group 7) 7).declared = false ∧
    (State.signAll (fun s p => s.signOne 0 2 0 .zero .zero p) s (s.parts 0)).2.1 = [] ∧
    (State.signAll (fun s p => s.signOne 0 2 0 .zero .zero p) s (s.parts 0)).2.2.2 = false ∧
    (State.signAll (fun s p => s.signOne 0 2 0 .zero .zero p) s (s.parts 0)).1.unit.lanes ≠ [] ∧
    s.convShared s.unit.group 2 = false ∧ s.convOwner s.unit.group 2 < s.groups.length ∧
    2 < (s.grp (s.convOwner s.unit.group 2)).convs.length ∧ (s.conv (s.convOwner s.unit.group 2) 2).member 0 = true ∧
    (match s.signOne 0 2 0 .zero .zero (0, 0) with | .hold => false | _ => true) = true ∧
    (s.conv (s.convOwner s.unit.group 2) 2).window = none ∧
    (s.conv (s.convOwner s.unit.group 2) 2).hasSigned 0 0 = false ∧ (s.conv (s.convOwner s.unit.group 2) 2).rounds = [] ∧
    1 < (s.conv (s.convOwner s.unit.group 2) 2).left ∧ (s.conv (s.convOwner s.unit.group 7) 7).declared = false := by
  and_intros <;> first
    | decide +kernel
    | exact issues_of (by decide +kernel)

/-- WAITC at and above its threshold; MWAIT on a stamp in the share that shows number 1, waited for with 1 and with 2. -/
theorem witness_waits : let s := (demo .sync [0x30000000]).updThr 0 fun x => { x with st := 3, v := .full 1 :: x.v.drop 1 }
    let t := s.writeSpad ((s.team 0).addr 64) (stampBytes 0 1)
    (∀ us ∈ [[], [dstUse (.v 94) 2 false, srcUse (.lit 64) 1 0, srcUse (.v 0) 2 0],
      [dstUse (.v 94) 2 false, srcUse (.v 0) 2 0, srcUse (.v 0) 2 0]], Issues s 0 us) ∧
    (∀ p ∈ s.parts 0, (s.thr p.2).ctr .st ≤ 3 ∧ (s.thr p.2).recentOnly .st 3 = true ∧ (s.thr p.2).heldOn .st = none ∧
      s.suspTrap p.2 ((s.thr p.2).awaits .mx 0) = none) ∧
    (∃ p ∈ s.parts 0, 2 < (s.thr p.2).ctr .st) ∧ t.parts 0 ≠ [] ∧
    (∀ p ∈ t.parts 0, (t.stampPlace p (.lit 64) true).isOk = true ∧
      t.stampPlace p (.lit 64) true = .ok (.spad ((s.team 0).addr 64)) ∧
      t.stampAt p (.spad ((s.team 0).addr 64)) (t.stampVa p (.lit 64) true) = .ok (some 1) ∧
      t.unflushedTrap (t.stampVa p (.lit 64) true).toNat (.spad ((s.team 0).addr 64)) 1 = none ∧
      (val64 t p (.v 0) 0).toNat % 2 ^ 62 ≤ 1 ∧ 1 < (val64 t p (.lit 2) 0).toNat % 2 ^ 62) := by
  and_intros <;> first
    | decide +kernel
    | exact issues_all (by decide +kernel)

/-- A machine at a mem word: v0:v1 and s0:s1 hold 0x40000100, v2 holds 8, and the context has a weight-store region. -/
def memDemo : State :=
  let s := (demo .mem [0x00000000]).updThr 0 fun x => { x with v := .full 0x40000100 :: .full 0 :: .full 8 :: x.v.drop 3 }
  let s := s.updGrp 0 fun g => { g with s := .full 0x40000100 :: g.s.drop 1 }
  { s with ctxs := s.ctxs.map fun c => { c with wsreg := [(0, 4096)] } }

/-- A descriptor (R216): 64 bytes from 0x40000200 to a window at 0x1000 with its stamp at 0x2000, one dimension of FP32. -/
def oneRow : BitVec 512 :=
  BitVec.ofNat 512 (0x40000200 + 0x1000 * 2 ^ 64 + 0x2000 * 2 ^ 96 + 16 * 2 ^ 128 + 2 ^ 160 + 2 ^ 192 + 2 ^ 224 + 2 ^ 472)

/-- A state in which entry 63 of the team's region table is bound to that descriptor, its destination in a state. -/
def boundTo (s : State) (d : Dest) : State := s.updEntry 0 63 fun _ => { desc := oneRow, seq := 0, dests := [d] }

theorem witness_accesses : UnitOk memDemo ∧ Untraced memDemo ∧ (∀ p ∈ memDemo.parts 0, memDemo.atomicDue p.2 = false) ∧
    (∀ us ∈ [[fillUse (.v 94) 2, srcUse (.v 0) 2 2, srcUse (.v 2) 1 1], [fillUse (.v 95) 1, srcUse (.v 2) 1 2, srcUse .zero 1 1],
      gatherUses (.v 94) 2 0 (.v 2), gatherUses (.v 2) 1 0 (.v 2), [srcUse (.v 94) 2 4, srcUse (.v 0) 2 2, srcUse (.v 2) 1 1],
      [srcUse (.v 95) 1 4, srcUse (.v 2) 1 2, srcUse .zero 1 1], [srcUse (.v 94) 2 0, srcUse (.v 0) 2 0],
      [srcUse (.v 92) 4 0, srcUse (.v 0) 2 0], [], [srcUse (.v 0) 2 0, srcUse .zero 1 0]], Issues memDemo 0 us) ∧
    ∀ p ∈ memDemo.parts 0,
      memDemo.globAt (memDemo.globVa p (.v 0) (.v 2)) 8 1 1 = .ok (.mem 0x40000108) ∧
      memDemo.globAt (memDemo.globVa p (.v 0) (.v 2)) 8 2 2 = .ok (.mem 0x40000108) ∧
      memDemo.globAt (memDemo.src64 p (.v 0)) 8 2 3 = .ok (.mem 0x40000100) ∧
      memDemo.unflushedTrap 0x40000100 (.mem 0x40000100) 3 = none ∧
      (memDemo.seen 0 0 (.mem 0x40000108) 8 (memDemo.scopeOf .core)).isSome = true ∧
      memDemo.spadAt (memDemo.spadVa p (.v 2) .zero) 8 1 = .ok (.spad 8) ∧
      memDemo.spadAt (memDemo.spadVa p (.v 2) .zero) 8 2 = .ok (.spad 8) ∧ memDemo.mustWait 0 8 8 = false ∧
      (memDemo.seen 0 0 (.spad 8) 8 .clu).isSome = true ∧ memDemo.wsAt (memDemo.wsVa p (.v 2) .zero) 8 1 = .ok (.ws 8) ∧
      (memDemo.seen 0 0 (.ws 8) 8 .core).isSome = true ∧ p ∈ memDemo.indexed (.v 2) false false (memDemo.parts 0) ∧
      memDemo.globAt (memDemo.gatherVa p 0 (.v 2) false false 3) 8 1 1 = .ok (.mem 0x40000140) ∧
      memDemo.globAt (memDemo.gatherVa p 0 (.v 2) false false 3) 8 2 2 = .ok (.mem 0x40000140) ∧
      memDemo.gatherSpad p (.v 2) 8 1 = .ok (.spad 8) ∧ memDemo.gatherSpad p (.v 2) 8 2 = .ok (.spad 8) ∧
      memDemo.gatherStatus p 0 (some (.v 94, 2)) = .ready ∧ (memDemo.thr p.2).gx < 63 ∧ (memDemo.thr p.2).st < 63 ∧
      memDemo.spadHeld p.2 8 8 = false ∧ (memDemo.seen 0 0 (.spad 8) 8 .clu).isSome = true ∧
      memDemo.waitMeets p.2 8 8 = false ∧ memDemo.readsDue p.2 = false ∧ memDemo.sto.visitors = [] ∧ memDemo.fly.ops = [] ∧
      memDemo.releaseStatus p = .ready ∧ (memDemo.thr p.2).heldOn .st = none ∧ (memDemo.thr p.2).recentOnly .st 63 = true := by
  and_intros <;> first
    | decide +kernel
    | exact unitOk_of (by decide +kernel)
    | (unfold Untraced; decide +kernel)
    | exact issues_all (by decide +kernel)

/-- An LDS of an absent window, and of the last counted access. -/
theorem witness_waiting_access : let s := (boundTo memDemo { state := .absent }).updThr 0 fun x => { x with gx := 62, st := 62 }
    UnitOk s ∧ Issues s 0 [fillUse (.v 95) 1, srcUse (.lit 0x1000) 1 2, srcUse .zero 1 1] ∧
    ∀ p ∈ s.parts 0, s.spadAt (s.spadVa p (.lit 0x1000) .zero) 4 1 = .ok (.spad 0x1000) ∧
      s.mustWait s.unitTeam (intVa (s.spadVa p (.lit 0x1000) .zero)) 4 = true ∧ s.waitMeets p.2 0x1000 4 = false ∧
      s.atomicDue p.2 = false ∧ (s.thr p.2).gx < 63 ∧ (s.thr p.2).st < 63 := by
  and_intros <;> first
    | decide +kernel
    | exact unitOk_of (by decide +kernel)
    | exact issues_of (by decide +kernel)

/-- A machine whose team holds reservation 0 of engine 0, its accumulators in a state; s0 to s3 hold 0x40001000, 0, 192, 0. -/
def mtxDemo (a : AccImage) : State :=
  let s := (demo .mtx [0x00000000]).updGrp 0 fun g =>
    { g with s := .full 0x40001000 :: .full 0 :: .full 192 :: .full 0 :: .full 0 :: .full 192 :: g.s.drop 6 }
  s.updResv 0 0 fun _ => { held := true, eng := 0, accs := List.replicate 4 { now := a, ahead := a } }

theorem witness_reservations : let s := mtxDemo {}
    Issues s 0 [dstUse (.v 95) 1 false] ∧ s.parts 0 = [(0, 0)] ∧ s.freeResv = some (1, 1) ∧
    (s.updTeam 0 fun t => { t with resvs := t.resvs.map fun r => { r with held := true } }).freeResv = none ∧
    Issues s 0 [dstUse (.s 26) 2 false] ∧ s.resvTrap s.unitTeam 0 true = none ∧ UnitOk s ∧
    (∀ q ∈ s.parts 0, s.accStatus 0 [0] q = .ready) ∧ Issues s 0 [{ o := .v 80, n := 16, vOnly := true }] ∧
    (mtxDemo { state := 2 }).accTrap 0 [3] 2 = none ∧ Issues s 0 [fillUse (.v 94) 2] := by
  and_intros <;> first
    | decide +kernel
    | exact issues_of (by decide +kernel)
    | exact unitOk_of (by decide +kernel)

theorem witness_matrix_words : let s := mtxDemo { state := 1 }; let t := mtxDemo { state := 2 }
    UnitOk s ∧ s.parts 0 = [(0, 0)] ∧ (s.thr 0).mx < 63 ∧ s.unitTeam < s.teams.length ∧ 0 < (s.team s.unitTeam).resvs.length ∧
    (∀ us ∈ [[], [lowUse (.s 0) 2, lowUse (.s 4) 1], [lowUse (.s 0) 1], [descUse (.s 4) 2], [descUse (.s 0) 3]],
      Issues t 0 us) ∧
    (∀ q ∈ t.parts 0, t.accStatus 0 [2, 3] q = .ready) ∧ t.resvTrap 0 0 false = none ∧
    (hi32 (val64 t (0, 0) (.s 0) 0)).toNat ≤ 10 ∧
    (lo32 (val64 t (0, 0) (.s 0) 0)).toNat % 2 ^ (hi32 (val64 t (0, 0) (.s 0) 0)).toNat = 0 ∧
    t.shareTrap ((val32 t (0, 0) (.s 4) 0).toNat % 2 ^ 24) 12288 16 9 = none ∧ (s.accAhead 0 3).state = 1 ∧
    (t.accAhead 0 2).state = 2 ∧ (t.accAhead 0 3).state = 2 ∧ (t.accAhead 0 2).psplit = false ∧
    t.shareTrap ((lo32 (val64 t (0, 0) (.s 4) 0)).toNat % 2 ^ 24) (63 * ((hi32 (val64 t (0, 0) (.s 4) 0)).toNat % 2 ^ 16) + 192)
      16 10 = none ∧
    (hi32 (val64 t (0, 0) (.s 4) 0)).toNat % 2 ^ 16 = 192 ∧ (s.accAhead 0 3).labels = [] ∧
    (t.src (0, 0) (opndPlus (.s 0) 2)).toNat = 192 ∧ 48 * SFmt.bytes .f32 ≤ 192 ∧ (val64 t (0, 0) (.s 0) 0).toNat % 16 = 0 := by
  and_intros <;> first
    | decide +kernel
    | exact unitOk_of (by decide +kernel)
    | exact issues_all (by decide +kernel)

/-- A machine whose register k2 awaits two signatures, at a tile word whose header in s0 names reservation 0 and both operands
in the share (E4M3 by E4M3; codes as R124 has them). -/
def tileDemo (hdr : Nat) : State :=
  let s := (convDemo 2).updGrp 0 fun g => { g with s := .full (BitVec.ofNat 32 hdr) :: g.s.drop 1 }
  { s with units := [unitAtWord (headerOf .mtx 1) [0] 1] }

/-- A machine at such a word, of a guided pair where `paired` says so, whose register `k` awaits `left` signatures of its one
member; reservation 0 has an open accumulation, and s4 to s7 name rows of 64 bytes at 0 and at 0x4000 of the share. -/
def tileReady (hdr k left : Nat) (paired : Bool) : State :=
  let s := (mtxDemo { state := 1, span := 10 }).updGrp 0 fun g => { g with
    s := [.full (BitVec.ofNat 32 hdr), .full 0, .full 0, .full 0, .full 0, .full 64, .full 0x4000, .full 64] ++ g.s.drop 8,
    convs := upd g.convs k fun _ => { declared := true, lo := 0, n := 1, left := left } }
  { s with launches := s.launches.map fun l => { l with record := { l.record with paired := paired } } }

/-- The state in which the signature of thread 0 on register `k` is recorded. -/
def signedAt (s : State) (op k hdr : Nat) : State :=
  s.updConv 0 k fun c => { c with
    left := c.left - 1, signed := c.signed ++ [⟨0, 0, 0, s.pc, [], []⟩],
    rounds := c.rounds ++ [(0, ⟨op, 0, .s 4, .s 6, shapeOf (BitVec.ofNat 32 hdr)⟩)] }

/-- Whether the operation that a register holds passes every check at its issue. -/
def issuesWell (s : State) (k : Nat) : Bool :=
  (s.issuesOf 0 k).length == 1 && (s.issuesOf 0 k).all fun x =>
    let hd := mhdr x.h0
    let wa := s.descWords x.aGroup x.aOpnd (descLen (spaceA hd.asrc))
    let wb := s.descWords x.bGroup x.bOpnd (descLen hd.bsrc)
    match hd.shape x.op with
    | none => false
    | some z =>
      !hd.bad x.op z && (s.issueRegs x).all Reg.isFull && s.accStatus hd.res (x.accs hd z) (0, 0) == .ready &&
      s.resvTrap 0 hd.res false == none && !x.joint && s.checkOpnd 0 0 (mopnd (spaceA hd.asrc) wa 64 z.kept hd.af 0) wa == none &&
      hd.group == 0 && s.checkOpnd 0 0 (mopnd hd.bsrc wb z.depth 48 hd.bf 0) wb == none &&
      (hd.targets x.op z (x.accs hd z)).all fun e => !((((s.team 0).resv hd.res).accum e.acc).ahead).refuses x.chunk.toNat e

/-- The tile words sign: MMA and MMAS on k2, GMMA on k8 of a pair, before and at the last signature. -/
theorem witness_tiles :
    let x := fun (s : State) (op k : Nat) =>
      let y := State.signAll (fun s p => s.signOne op k 0 (.s 4) (.s 6) p) s (s.parts 0)
      y.2.1 = [] ∧ y.2.2.2 = false ∧ y.1.unit.lanes ≠ [] ∧
      ∀ p ∈ s.parts 0, (match s.signOne op k 0 (.s 4) (.s 6) p with | .hold => false | _ => true) = true
    let ok := fun (s : State) (op k hdr : Nat) =>
      s.parts 0 = [(0, 0)] ∧ s.convOwner s.unit.group k = 0 ∧ k < (s.grp 0).convs.length ∧ 0 < s.groups.length ∧
      s.windowOver (s.conv 0 k) = false ∧ (s.conv 0 k).member (s.thr 0).idx = true ∧ (s.conv 0 k).hasSigned 0 0 = false ∧
      (s.conv 0 k).declared = true ∧ (s.conv 0 k).rounds = [] ∧ ((s.grp 0).reg 0).word = BitVec.ofNat 32 hdr ∧
      kindOk (spaceA (mhdr (BitVec.ofNat 32 hdr)).asrc) (.s 4) = true ∧ kindOk (mhdr (BitVec.ofNat 32 hdr)).bsrc (.s 6) = true ∧
      ((mhdr (BitVec.ofNat 32 hdr)).shape op).isSome = true ∧ (s.grp 0).half = 0 ∧ (s.thr 0).mx < 63 ∧
      (op = 3 → s.convShared s.unit.group k = true)
    Issues (tileDemo 0x54400000) 0 (tileUses 0 3 (.s 4) (.s 6)) ∧ x (tileDemo 0x54400000) 1 2 ∧ x (tileDemo 0x54400200) 2 2 ∧
    x (tileReady 0x54400000 8 2 true) 3 8 ∧ UnitOk (tileReady 0x54400000 2 2 false) ∧ UnitOk (tileReady 0x54400000 8 1 true) ∧
    Issues (tileReady 0x54400200 2 1 false) 0 (tileUses 0 3 (.s 4) (.s 6)) ∧
    Issues (tileReady 0x54400000 8 1 true) 0 (tileUses 0 2 (.s 4) (.s 6)) ∧
    ok (tileReady 0x54400000 2 2 false) 1 2 0x54400000 ∧ ok (tileReady 0x54400200 2 1 false) 2 2 0x54400200 ∧
    ok (tileReady 0x54400000 8 1 true) 3 8 0x54400000 ∧
    issuesWell (signedAt (tileReady 0x54400000 2 1 false) 1 2 0x54400000) 2 = true ∧
    issuesWell (signedAt (tileReady 0x54400200 2 1 false) 2 2 0x54400200) 2 = true ∧
    issuesWell (signedAt (tileReady 0x54400000 8 1 true) 3 8 0x54400000) 8 = true := by
  and_intros <;> first
    | decide +kernel
    | exact issues_of (by decide +kernel)
    | exact unitOk_of (by decide +kernel)

/-- Windows: an unbound and a bound entry, before and after it has been touched. -/
theorem witness_windows : let u := demo .win [0x00000000]; let s := boundTo u { state := .absent }
    let t := boundTo u { state := .present }
    (∀ us ∈ [[bindUse (.v 80) .reg], [bindUse (.v 0) .spad], [bindUse (.s 26) .glob], [], [dstUse (.v 95) 1 false]],
      Issues s 0 us) ∧ s.parts 0 = [(0, 0)] ∧
    (u.writeSpad ((u.team 0).addr 0) (valBytes 64 oneRow.toNat)).bindSource (0, 0) (.v 0) .spad = .ok oneRow ∧
    regionBad oneRow (s.team 0).size s.teamGroups = false ∧ (u.entry 0 63).unbound = true ∧ (s.entry 0 63).unbound = false ∧
    (s.entry 0 63).touched = false ∧ (t.entry 0 63).touched = true ∧ s.copyFull 0 = false ∧ s.fillOf 0 63 = none ∧
    (s.thr 0).gx < 63 ∧ (s.thr 0).st < 63 ∧ UnitOk s ∧ 63 < (s.team 0).entries.length ∧ s.atomicDue 0 = false ∧
    s.spadHeld 0 ((s.src (0, 0) (.v 0)).toNat % 2 ^ 24) 64 = false ∧
    (∀ x ∈ s.bindNeeds (s.parts 0) (.v 0) .spad, (s.peerAnswer x.1).isSome = true) ∧
    (destOf (region (t.entry 0 63).desc) 0).2 = false ∧ (((t.entry 0 63).dests[0]?).getD ({} : Dest)).state = .present := by
  and_intros <;> first
    | decide +kernel
    | exact issues_all (by decide +kernel)
    | exact unitOk_of (by decide +kernel)

/-- A machine whose launch may use tree 5, a sum of four FP32 leaves of one element. -/
def treeDemo (c : Cls) : State :=
  let s := demo c [0x00000000]
  { s with
    launches := s.launches.map fun l => { l with record := { l.record with trees := [5] } },
    fly := { s.fly with sets := [{ ctx := 0, handle := 5, launch := 0, seq := 1, root := 0x40002000, stamp := 0x40003000,
                                   leaves := 4, op := 0, dshift := 0, bcast := false, elems := 1, devs := [] }] } }

/-- A contribution of leaf 3 of tree 5, element 0, and its state. -/
theorem witness_trees : let s := treeDemo .mem
    UnitOk s ∧ Issues s 0 [srcUse .zero 1 0, srcUse (.lit 0x0000500000000003) 2 0, { o := .v 95 }] ∧
    (∀ p ∈ s.parts 0, (s.thr p.2).ct < 63 ∧ (s.labelled p .zero (.lit 0x0000500000000003)).isOk = true ∧
      s.contribStatus p .zero (.v 95) (.lit 0x0000500000000003) = .ready) ∧
    Issues s 0 [fillUse (.v 94) 2, srcUse .zero 1 0, srcUse (.lit 5) 1 0] ∧
    (∀ p ∈ s.parts 0, (s.treeNamed p.2 ((val32 s p (.lit 5) 0).toNat % 2 ^ 20)).isSome = true ∧ (val32 s p .zero 0).toNat < 1) ∧
    (∃ t ∈ s.fly.sets, s.nodeHome t t.top 0 = none ∧ (s.elemState 0 5 0 1).1 < 4 ∧ (s.elemState 0 5 0 1).2 < 16) ∧
    Issues s 0 [descUse (.s 0) 2] ∧
    ∀ t ∈ s.fly.sets, s.nodeHome { t with devs := [(0x2000000000, 7), (0x2000000000, 8)] } t.top 0 = some (0x2000000000, 7) := by
  and_intros <;> first
    | decide +kernel
    | exact unitOk_of (by decide +kernel)
    | exact issues_of (by decide +kernel)

/-- A machine whose slot at 0x3000 of the share is in a state. -/
def slotDemo (st : Nat) : State :=
  memDemo.writeSpad ((memDemo.team 0).addr 0x3080) (valBytes 8 (st * 2 ^ 56))

/-- The same, with a request of the word at issue that has been answered. -/
def answered : State :=
  let s := slotDemo 1
  { s with fly := { s.fly with
    reqs := [{ id := 0, thread := 0, pc := s.pc, line := .mem 0x40000100, va := 0x40000100, team := 0, slot := 0x3000,
               answer := some true }] } }

theorem witness_standing_loads : UnitOk (slotDemo 0) ∧ (slotDemo 0).parts 0 = [(0, 0)] ∧
    (∀ us ∈ [[srcUse (.v 0) 2 0, srcUse (.lit 0x3000) 1 0], [fillUse (.v 94) 2, srcUse (.lit 0x3000) 1 0, srcUse (.lit 17) 1 0],
      [srcUse (.lit 0x3000) 1 0]], Issues (slotDemo 0) 0 us) ∧
    (slotDemo 0).sloadReq 0 = none ∧ (slotDemo 0).sloadLine (0, 0) true (.v 0) (.lit 0x3000) = .ok (.mem 0x40000100) ∧
    ((slotDemo 0).slot 0 0x3000).state = 0 ∧ ((slotDemo 0).thr 0).gx < 63 ∧
    (answered.sloadReq 0).map SloadReq.answer = some (some true) ∧ UnitOk answered ∧ answered.unit.rep = none ∧
    (slotDemo 0).spollAt (0, 0) (.lit 0x3000) (.lit 17) true = .ok (0x3000, 17) ∧
    ((slotDemo 1).slot 0 0x3000).state = 1 ∧ ((slotDemo 0).slotElem 0 0x3000 17 true).isSome = true ∧
    (slotDemo 0).slotTrap 0x3000 144 = none ∧ ((slotDemo 2).slot 0 0x3000).state = 2 ∧ ((slotDemo 2).thr 0).st < 63 ∧
    (slotDemo 0).atomicDue 0 = false := by
  and_intros <;> first
    | decide +kernel
    | exact unitOk_of (by decide +kernel)
    | exact issues_all (by decide +kernel)

/-- A machine whose one thread is in the save routine at a sys word; v0:v1 hold 0x40001000. -/
def sysDemo : State :=
  (inMode 2 .sys [0x00000000]).updThr 0 fun x => { x with v := .full 0x40001000 :: x.v.drop 1 }

/-- A state in which every feature is accepted. -/
def allFeatures (s : State) : State := { s with bar0 := { s.bar0 with faccept := 0x7F, committed := true } }

theorem witness_special_registers :
    (∀ us ∈ [[dstUse (.v 95) 1 false], [dstUse (.v 94) 2 false], [srcUse (.v 95) 1 0], [srcUse (.s 26) 2 0]], Issues sysDemo 0 us) ∧
    ∀ p ∈ sysDemo.parts 0, sysDemo.privileged p.2 = true := by
  and_intros <;> first
    | decide +kernel
    | exact issues_all (by decide +kernel)

theorem witness_privilege : let s := demo .sys [0x04000000]
    UnitOk s ∧ Untraced s ∧ s.unit.rep = none ∧ s.unit.lanes = [(0, 0)] ∧ s.parts 0 = [(0, 0)] ∧ (s.thr 0).hmode = 0 ∧
    (s.ctxOf 0).sys = false ∧ s.targetBad (launchAt s (0, 0)) (s.ctxOf 0).handler = false ∧
    ∀ u ∈ [srcUse (.v 94) 2 0, srcUse (.s 27) 1 0, lowUse (.s 26) 2, dstUse (.v 94) 2 false],
      u.bad none (s.grp s.unit.group).budget = false := by
  and_intros <;> first
    | decide +kernel
    | exact unitOk_of (by decide +kernel)
    | (unfold Untraced; decide +kernel)

theorem witness_register_blocks : UnitOk sysDemo ∧ sysDemo.parts 0 = [(0, 0)] ∧ sysDemo.privileged 0 = true ∧
    Issues sysDemo 0 [srcUse (.v 0) 2 0, srcUse .zero 1 0] ∧ sysDemo.unperformed 0 = false ∧ (sysDemo.thr 0).st < 63 ∧
    (∀ blk < 7, sysDemo.imageTrap 0x40001000 (blockBytes blk) 2 64 = none ∧
      sysDemo.imageTrap 0x40001000 (blockBytes blk) 1 64 = none ∧ sysDemo.blockWaits blk (0, 0) 0 = false) ∧
    sysDemo.xlate sysDemo.unitCtx 0x40001000 2 = .ok (.mem 0x40001000) ∧ 0x40001000 + 136 ≤ sysDemo.capacity ∧
    MemoryInv sysDemo ∧ Untraced sysDemo ∧ sysDemo.fly.ops = [] ∧ sysDemo.unit.rep = none ∧
    (∀ blk < 7, sysDemo.imageReadTrap 0 0x40001000 (blockBytes blk) 64 = none ∧
      sysDemo.imagePending 0x40001000 (blockBytes blk) = false ∧ sysDemo.imageNeeds 0 0x40001000 (blockBytes blk) 64 = []) ∧
    (sysDemo.getImage 0 0x40001000 136).map List.length = .ok 136 ∧ (val64 sysDemo (0, 0) (.v 0) 0) = 0x40001000 := by
  and_intros <;> first
    | decide +kernel
    | exact issues_of (by decide +kernel)
    | exact unitOk_of (by decide +kernel)
    | (unfold Untraced; decide +kernel)
    | (unfold MemoryInv; decide +kernel)

/-- Window images of each state: unbound (0), absent (1), arriving (2) and present (3). -/
theorem witness_window_images : let s := boundTo sysDemo { state := .arriving }
    let im := fun (k : Nat) => s.writePhys 0x40001000 (valBytes 16 (k * 2 ^ 64))
    UnitOk s ∧ s.parts 0 = [(0, 0)] ∧ s.privileged 0 = true ∧
    (∀ us ∈ [[lowUse (.v 0) 2], [lowUse (.v 0) 2, lowUse (.lit 0x3000) 1]], Issues s 0 us) ∧ s.unitTeam < s.teams.length ∧
    63 < (s.team 0).entries.length ∧ (s.winDest 63).2.1 < (s.entry 0 63).dests.length ∧ (s.winDest 63).2.2.1 = false ∧
    s.imageTrap 0x40001000 (s.winImage 63).length 2 256 = none ∧ s.imageOpen 0x40001000 = false ∧
    (∀ k < 4, (im k).ldwinTrap 0 63 0x40001000 = none ∧ (im k).ldwinNeeds 0 63 0x40001000 = [] ∧
      (im k).imageOpen 0x40001000 = false ∧ (im k).imagePending 0x40001000 320 = false ∧
      ((im k).getImage 0 0x40001000 24).map (fun h => sliceVal h 8 1) = .ok k) ∧ 256 + (s.winDest 63).1.size = 320 ∧
    (s.slot 0 0x3000).state = 0 ∧ s.saveSlotTrap 0x3000 true = none ∧ s.imageTrap 0x40001000 720 2 16 = none ∧
    s.imageReadTrap 0 0x40001000 720 16 = none ∧ s.imagePending 0x40001000 720 = false ∧ s.imageNeeds 0 0x40001000 720 16 = [] ∧
    (s.getImage 0 0x40001000 720).map (fun bs => (sliceVal bs 712 8, s.saveSlotTrap 0x3000 (bit (sliceVal bs 128 8) 60))) =
      .ok (0, none) ∧ s.fly.parkedSlots = [] := by
  and_intros <;> first
    | decide +kernel
    | exact unitOk_of (by decide +kernel)
    | exact issues_all (by decide +kernel)

/-- A store of the unit's thread to a byte under way. -/
def storing (s : State) (pa : Nat) (counted : Bool) : State :=
  { s with fly := { s.fly with
    ops := [{ id := 0, batch := 0, thread := 0, core := 0, pc := s.pc, kind := .store (.mem pa) [1, 2, 3, 4] true counted, va := pa }] },
           nextId := 1 }

/-- A machine with a valid grant window 0 of rights 1 in its table at 0x40001000. -/
def granting : State :=
  let s := (allFeatures sysDemo).writePhys 0x40001000 (zeros 13 ++ [0x2F])
  { s with ctxs := s.ctxs.map fun c => { c with gwTab := 0x40001000, gwCount := 1 } }

theorem witness_tlb_and_grants :
    (∀ us ∈ [[srcUse (.v 0) 2 0, srcUse (.lit 4) 1 0], [srcUse (.v 0) 1 0, srcUse (.lit 4) 1 0]], Issues sysDemo 0 us) ∧
    (∀ p ∈ sysDemo.parts 0, sysDemo.privileged p.2 = true ∧ (val32 sysDemo p (.lit 4) 0).toNat % 8 ≤ 4 ∧
      sysDemo.usesRange sysDemo.unitCtx.num (tlbiRange true (val64 sysDemo p (.v 0) 0).toNat 4) = false) ∧
    (storing sysDemo 0x40001000 true).usesRange 0 (tlbiRange true 0x40001000 4) = true ∧
    Issues granting 0 [dstUse (.v 94) 2 false, srcUse .zero 1 0, srcUse (.lit 0x10001) 1 0] ∧
    (granting.grantToken granting.unitCtx 0 0x10001).isSome = true := by
  and_intros <;> first
    | decide +kernel
    | exact issues_all (by decide +kernel)
    | exact issues_of (by decide +kernel)

theorem witness_marks : let s := allFeatures (traced (demo .sys [0x26000070]) true)
    Issues (demo .sys [0x26000070]) 0 [] ∧ (demo .sys [0x26000070]).unitCtx.debug = none ∧ Issues s 0 [] ∧ s.parts 0 ≠ [] ∧
    s.unitCtx.debug = some (debugOn true) ∧ s.feature 3 = true := by
  and_intros <;> first
    | decide +kernel
    | exact issues_of (by decide +kernel)

theorem witness_halts : UnitOk sysDemo ∧ Untraced sysDemo ∧ sysDemo.unit.rep = none ∧ sysDemo.unit.lanes = [(0, 0)] ∧
    sysDemo.parts 0 = [(0, 0)] ∧ Issues sysDemo 0 [] ∧ sysDemo.privileged 0 = true ∧ (sysDemo.thr 0).life = .live ∧
    (sysDemo.thr 0).preempt = 0 ∧ (sysDemo.thr 0).hmode = 2 ∧ (sysDemo.thr 0).st = 0 ∧ sysDemo.unperformed 0 = false ∧ (sysDemo.team 0).life = .placed := by
  and_intros <;> first
    | decide +kernel
    | exact unitOk_of (by decide +kernel)
    | (unfold Untraced; decide +kernel)
    | exact issues_of (by decide +kernel)

/-! Events. -/

/-- The machine about to fetch a clause, with nothing on its agenda. -/
def fetching : State := { (State.reset.fetchState 0x10000000) with agenda := [] }

/-- A machine whose thread waits in fold 7 of core 0, aged 64 clk. -/
def folded : State :=
  { demo .alu [0x10000000] with
    clk := 64, units := [{ unitAtWord 0 [] 0 with live := false }],
    folds := [{ core := 0, num := 7, group := 0, hdr := 0x40000100, idx := 0, rewait := false, threads := [0], since := 0,
                last := 0, order := 0 }] }

/-- A machine under the promise whose unit has waited `n` clk. -/
def promised (n : Nat) : State :=
  let s := demo .alu [0x10000000]
  { s with clk := n, launches := s.launches.map fun l => { l with record := { l.record with progress := true } } }

/-- A machine whose unit is asked to stop, at a header. -/
def asked : State := fetching.updUnit 0 fun u => { u with stopAsk := some 3 }

/-- A miss of a core of the line's own die. -/
def missing : State :=
  let s := demo .mem [0x00000000]
  { s with fly := { s.fly with
    ops := [{ id := 0, batch := 0, thread := 0, core := 36 * (s.homeOf 0x800002 / 48), pc := s.pc,
              kind := .store (.mem 0x40000100) [1] true true, va := 0x40000100 }] } }

/-- BWAIT of v0, 0x14000180 and 0x337bf028 words of barrier b3 and of the stamp at 64 of the share. -/
def syncWord (s : State) (w : Word) (ls : List Word) : State :=
  { s with units := [{ unitAtWord (headerOf .sync (1 + ls.length)) (w :: ls) 1 with instrs := 1, blocked := true }] }

theorem witness_core_events :
    fetching.cur < fetching.units.length ∧ fetching.unit.live = true ∧ fetching.unit.stopped = false ∧
    fetching.unit.words = [] ∧ fetching.unit.lanes ≠ [] ∧
    (fetching.fetchClause 0 fetching.unit.hdr).map (fun x => (x.2, bit (x.1.headD 0).toNat 8)) = .ok (1, false) ∧
    (folded.nextFold 0).map Fold.num = some 7 ∧ (folded.thr 0).stopped = false ∧ (promised 128).runnable ((promised 128).unitAt 0) ≠ [] ∧ (∀ f ∈ folded.folds, folded.foldFull f = false ∧ folded.foldAged f = true) ∧
    (promised 128).recordOf 0 = { (promised 128).recordOf 0 with progress := true } ∧
    ((promised 128).recordOf 0).quantum = 2 * (promised 128).waiting ((promised 128).unitAt 0) ∧
    (promised 128).paused 0 = false ∧ ((promised 128).unitAt 0).expired = none ∧
    (asked.unitAt 0).atStop = true ∧ (asked.unitAt 0).stopAsk = some 3 ∧ (asked.ctx 0).debug = none := by
  and_intros <;> decide +kernel

theorem witness_persistent_request : ∃ core, missing.homeOf 0x800002 / 48 = dieOfCore core ∧
    missing.asks core 0x800002 = true ∧ (0x800002, core) ∉ missing.sto.persistent :=
  ⟨36 * (missing.homeOf 0x800002 / 48), (Nat.mul_div_cancel_left _ (by decide)).symm, by
    have h : missing.fly.ops = [
        { id := 0, batch := 0, thread := 0, core := 36 * (missing.homeOf 0x800002 / 48), pc := (demo .mem [0]).pc,
          kind := .store (.mem 0x40000100) [1] true true, va := 0x40000100 }] := rfl
    simp [State.asks, h, State.opLine], fun h => nomatch (show (_ : Nat × Nat) ∈ ([] : List (Nat × Nat)) from h)⟩

theorem witness_releases :
    let s := fun (w : Word) (ls : List Word) => syncWord (barDemo 1) w ls
    let t := syncWord ((barDemo 1).updThr 0 fun x => { x with bsync := 0x80030000 }) 0x14000180 []
    let m := syncWord ((barDemo 1).writeSpad ((barDemo 1).team 0 |>.addr 64) (stampBytes 0 1)) 0x337bf028 [64]
    (s 0x1203e180 []).wordOf 0 = some (.bwait .zero 3 0) ∧ Issues ((s 0x1203e180 []).wake 0) 0 [srcUse .zero 1 0] ∧
    (∀ p ∈ ((s 0x1203e180 []).wake 0).parts 0,
      (((s 0x1203e180 []).wake 0).bar 3).passed ((val32 ((s 0x1203e180 []).wake 0) p .zero 0).setWidth 16) = true) ∧
    t.wordOf 0 = some (.bsync 3 0) ∧ Issues (t.wake 0) 0 [] ∧ (t.wake 0).unit.rep = none ∧
    (∀ p ∈ (t.wake 0).parts 0, ((t.wake 0).thr p.2).bsync.getLsbD 31 = true ∧
      ((t.wake 0).bar 3).passed (((t.wake 0).thr p.2).bsync.setWidth 16) = true) ∧
    m.wordOf 0 = some (.mwait (.v 94) (.lit 64) (.v 2) true) ∧
    Issues (m.wake 0) 0 [dstUse (.v 94) 2 false, srcUse (.lit 64) 1 0, srcUse (.v 2) 2 0] ∧ (m.wake 0).parts 0 ≠ [] ∧
    (∀ p ∈ (m.wake 0).parts 0, m.mwaitStatus p (.lit 64) (.v 2) true = .ready ∧
      (m.wake 0).stampAt p (.spad ((m.team 0).addr 64)) 64 = .ok (some 1) ∧
      (m.wake 0).stampPlace p (.lit 64) true = .ok (.spad ((m.team 0).addr 64)) ∧ (m.wake 0).stampVa p (.lit 64) true = 64 ∧
      (val64 (m.wake 0) p (.v 2) 0).toNat % 2 ^ 62 ≤ 1) := by
  and_intros <;> first
    | decide +kernel
    | exact issues_of (by decide +kernel)

/-- A machine with one operation under way, number 0, of thread 0. -/
def flying (k : OpKind) : State :=
  let s := memDemo
  { s with
    fly := { s.fly with ops := [{ id := 0, batch := 0, thread := 0, core := 0, pc := s.pc, kind := k, va := 0x40000100 }] }, nextId := 1 }

theorem witness_landing :
    (∀ o ∈ (flying (.fill (.v 94) 2 (.ok 5) (some .gx))).fly.ops, (flying (.fill (.v 94) 2 (.ok 5) (some .gx))).op 0 = some o ∧
      (flying (.fill (.v 94) 2 (.ok 5) (some .gx))).passed o = false) ∧
    (∀ counted, ∀ o ∈ (storing memDemo 0x4000017C counted).fly.ops,
      (storing memDemo 0x4000017C counted).performable o = true ∧ (storing memDemo 0x4000017C counted).together o = [o]) ∧
    0x4000017C % 128 + 4 ≤ 128 ∧ 0x4000017C + 4 ≤ memDemo.capacity ∧
    (∀ c ∈ (storing memDemo 0x4000017C true).ctxs, c.dump = none ∧ c.debug = none) ∧
    (∀ o ∈ (flying (.store (.spad 124) [1, 2, 3, 4] true true)).fly.ops,
      (flying (.store (.spad 124) [1, 2, 3, 4] true true)).performable o = true ∧
      (flying (.store (.spad 124) [1, 2, 3, 4] true true)).together o = [o]) ∧
    ((flying (.done .st (some ⟨5, 6, 0, 2, 0⟩))).op 0).map Op.kind = some (.done .st (some ⟨5, 6, 0, 2, 0⟩)) ∧
    ((flying (.done .st none)).op 0).map Op.kind = some (.done .st none) ∧
    (let l := flying (.load (.v 94) 2 (.mem 0x40000100) 8 false none .core none []);
      (∀ o ∈ l.fly.ops, l.op 0 = some o ∧ o.heldAt l = false ∧ (∀ y ∈ l.fly.ops, y.isLoad = true → y = o)) ∧
      l.sto.persistent = [] ∧ (∀ c ∈ l.ctxs, c.debug = none) ∧ (l.seenWith [] 0 (.mem 0x40000100) 8 .core).isSome = true) ∧
    (let f := flying (.parts [] none .st (some (64, 1)));
      (∀ o ∈ f.fly.ops, f.op 0 = some o ∧ ∀ j ∈ f.fly.jobs, j.id ≠ o.id) ∧ f.fly.mops = [] ∧ MemoryInv f) := by
  and_intros <;> first
    | decide +kernel
    | (unfold MemoryInv; decide +kernel)

/-- A fill or flush of entry 63, number 0: `fl` is the destination that it flushes. -/
def jobOf (fl : Option Nat) (queued begun : Bool) : Job :=
  { id := 0, team := 0, cluster := 0, base := 0, size := 65536, entry := 63, seq := 1, desc := oneRow, flush := fl,
    starter := some 0, pc := 0x40000004, queued := queued, begun := begun }

/-- A machine with that job, its destination in a state. -/
def filling (d : Dest) (fl : Option Nat) (queued begun : Bool) : State :=
  let s := boundTo memDemo d
  { s with fly := { s.fly with jobs := [jobOf fl queued begun] }, nextId := 1 }

/-- The same while the fill lands, its source's last eight bytes uncorrectable. -/
def unreadable : State :=
  (filling { state := .arriving } none true true).updSto fun m => { m with badMem := [0x40000220 / 32] }

theorem witness_copying :
    (filling { state := .absent } none false false).job 0 = some (jobOf none false false) ∧
    0 < (filling { state := .absent } none false false).teams.length ∧
    63 < ((filling { state := .absent } none false false).team 0).entries.length ∧
    (filling { state := .absent } none false false).copyFull 0 = false ∧
    (filling { state := .arriving } none true true).lacks (jobOf none true true) 56 = true ∧ 56 < (region oneRow).size ∧
    MemoryInv (filling { state := .arriving } none true true) ∧ (region oneRow).dests = [(none, 0x1000, 0x2000)] ∧
    ((filling { state := .arriving } none true true).entry 0 63).dests = [{ state := .arriving }] ∧
    ({ state := .arriving } : Dest).takes (jobOf none true true) = true ∧
    (∀ i < 8, (filling { state := .arriving } none true true).sourceByte (jobOf none true true) (56 + i) = .byte 0) ∧
    (region oneRow).size ≤ (List.range 64).length ∧ (jobOf (some 0) true true).id < (filling {} (some 0) true true).nextId ∧
    (∀ o ∈ (filling {} (some 0) true true).fly.ops, o.id ≠ 0) ∧
    (∀ i < 8, unreadable.sourceByte (jobOf none true true) (56 + i) =
      .bad ⟨5, 6, 0x40000238 + BitVec.ofNat 64 i, 1, 0x40000004⟩) ∧ (∀ y ∈ unreadable.fly.jobs, y = jobOf none true true) ∧
    ((filling { state := .present } (some 0) true false).entry 0 63).dests = [{ state := .present }] ∧
    (filling { state := .present } (some 0) true true).job 0 = some (jobOf (some 0) true true) := by
  and_intros <;> first
    | decide +kernel
    | (unfold MemoryInv; decide +kernel)

/-- A machine with one operation of engine 0 in its queue. -/
def engaged (k : MKind) (started : Bool) (a : AccImage) : State :=
  let s := mtxDemo a
  let o : MOp := { id := 0, eng := 0, team := 0, res := 0, acc := 0, thread := 0, pc := 0x40000004, kind := k, started := started }
  { s with fly := { s.fly with mops := [o] }, nextId := 1 }

theorem witness_engines :
    (∀ o ∈ (engaged .rel false {}).fly.mops, (engaged .rel false {}).headMop 0 = some o ∧ o.started = false ∧ o.susp = none ∧
      o.doomed = none ∧ o.spadRanges = []) ∧
    (∀ o ∈ (engaged .fin true { state := 1 }).fly.mops, (engaged .fin true { state := 1 }).headMop 0 = some o ∧ o.started = true ∧
      (engaged .fin true { state := 1 }).engineFenced o.eng = false ∧
      ((((engaged .fin true { state := 1 }).team 0).resv 0).accum 0).now.state = 1) ∧
    (∀ o ∈ (engaged (.drainReg 0 80 63 2) true { state := 2 }).fly.mops,
      (engaged (.drainReg 0 80 63 2) true { state := 2 }).headMop 0 = some o ∧
      ((((engaged (.drainReg 0 80 63 2) true { state := 2 }).team 0).resv 0).accum 0).now.state = 2) ∧
    575 < 576 ∧ (engaged .rel false {}).engineFenced 575 = false ∧
    (engaged .rel false {}).health.fencedCores.contains (575 / 4) = false ∧
    ((engaged .rel false {}).fenceEngine 575).fencedOn (575 / 4) < 3 ∧
    (match (engaged .fin false { state := 1 }).fly.mops.map fun o => ((engaged .fin false { state := 1 }).runTile o).2 with
      | [.suspended _] => false
      | _ => true) = true := by
  and_intros <;> decide +kernel

/-- A register k8 of a guided pair, held in the group that owns it, on which one half has signed GMMA 4,096 clk ago. -/
def halfSigned : State :=
  let s := tileDemo 0x54400000
  let r : Round := ⟨3, 0, .s 4, .s 6, shapeOf 0x54400000⟩
  let c : Conv := { declared := true, lo := 0, n := 1, left := 1, signed := [⟨0, 0, 0, 0x40000004, [], []⟩], rounds := [(0, r)],
                    window := some 0 }
  let s1 := (mtxDemo { state := 1, span := 10 }).updGrp 0 fun g => { g with
    s := (s.grp 0).s.take 4 ++ [.full 0, .full 64, .full 0x4000, .full 64] ++ (s.grp 0).s.drop 8, convs := upd g.convs 8 fun _ => c }
  { s1 with clk := 4096 }

theorem witness_pair_window : halfSigned.paused (halfSigned.grp 0).team = false ∧ (halfSigned.conv 0 8).declared = true ∧
    (halfSigned.conv 0 8).left ≠ 0 ∧ (halfSigned.conv 0 8).window = some 0 ∧ 0 + 4096 ≤ halfSigned.clk ∧
    (halfSigned.conv 0 8).openHalves.filter (fun h => halfSigned.halfDone 0 8 h) = [0] ∧
    ((halfSigned.conv 0 8).lastSigner [0]).isSome = true ∧ (halfSigned.thr 0).mx < 63 ∧
    (halfSigned.issueHalf 0 8 0 0 0x40000004 true).isOk = true ∧
    halfSigned.windowOver (halfSigned.conv 0 8) = true ∧
    ∀ y ∈ halfSigned.issueOf 0 8 0 false, halfSigned.issueWaits 0 y = false ∧ halfSigned.issueFailed y = none := by
  and_intros <;> decide +kernel

/-! Trees, standing loads, launches and pre-emption as events. -/

/-- A node of level `lv` and index `i` of tree 5. -/
def nodeOf (id lv i : Nat) (p : NodePlace) (since : Nat) (origin : Option (Nat × Dword)) : TreeNode :=
  { id := id, ctx := 0, handle := 5, elem := 0, epoch := 1, leaves := 4, op := 0, level := lv, index := i, value := 0x3F800000, place := p,
    since := since, origin := origin }

/-- The machine of tree 5 with nodes on their way; devices `ds` share its meetings. -/
def noded (ds : List (Dword × Nat)) (xs : List TreeNode) : State :=
  let s := treeDemo .mem
  { s with fly := { s.fly with nodes := xs, sets := s.fly.sets.map fun t => { t with devs := ds } }, nextId := 2 }

theorem witness_node_arrivals :
    let s := noded [] [nodeOf 0 1 1 (.toCore 143) 0 (some (0, 0x40000004))]
    let t := noded [] [nodeOf 0 0 3 (.toSlice 191) 0 none, nodeOf 1 0 2 (.sliceRick 191) 0 none]
    (∃ x ∈ s.fly.nodes, ∃ u ∈ s.fly.sets, s.node 0 = some x ∧ s.treeSet x.ctx x.handle = some u ∧ x.epoch = u.seq ∧
      x.leaves = u.leaves ∧ x.op = u.op ∧ x.place = .toCore 143 ∧ (s.elemState x.ctx x.handle x.elem x.epoch).1 = 2 ∧
      x.level < u.top ∧ (x.index ^^^ 1) * 2 ^ x.level < u.leaves ∧ (s.fly.nodes.filter fun y => y.id ≠ x.id) = [] ∧
      x.origin = some (0, 0x40000004)) ∧
    ∃ x ∈ t.fly.nodes, ∃ y ∈ t.fly.nodes, ∃ u ∈ t.fly.sets, t.node 0 = some x ∧ x.place = .toSlice 191 ∧
      t.treeSet x.ctx x.handle = some u ∧ x.origin = none ∧ y.origin = none ∧ y.place = .sliceRick 191 ∧
      (t.fly.nodes.filter fun y => y.id ≠ x.id).filter (fun z => sameElem x z && standsAt (.sliceRick 191) z.place) = [y] ∧
      y.level = x.level ∧ y.index = x.index ^^^ 1 ∧ x.level + 1 < u.top ∧
      (x.index / 2 ^^^ 1) * 2 ^ (x.level + 1) < u.leaves ∧ t.nodeHome u (x.level + 2) (x.index / 2 / 2) = none ∧
      (t.rickNodes (.sliceRick 191)).length < 4096 := by
  and_intros <;> decide +kernel

theorem witness_node_waits :
    let e : State := let s := noded [] []
      { s with fly := { s.fly with elems := [{ ctx := 0, handle := 5, elem := 0, seq := 1, state := 1, cause := 2,
                                               stamped := false, status := 2 }] } }
    let c : State := { noded [] [nodeOf 0 0 3 (.coreRick 0) 0 none] with clk := 64 }
    let p : State := { noded [(0x2000000000, 7)] [nodeOf 0 0 3 (.portRick 7) 0 none] with clk := 256 }
    let w : State := { noded [] [nodeOf 0 0 3 (.waiting 0) 0 none] with wall := 1000000 * wallNs }
    (∀ x ∈ e.fly.elems, x.stamped = false ∧ (e.treeSet x.ctx x.handle).map TreeSet.seq = some x.seq) ∧
    (∀ x ∈ c.fly.nodes, ∀ t ∈ c.fly.sets, c.node 0 = some x ∧ c.treeSet x.ctx x.handle = some t ∧ x.place = .coreRick 0 ∧
      x.since + 64 ≤ c.clk ∧ c.goalHome t x = none ∧ c.rickNodes (.waiting (c.goalSlice t x)) = []) ∧
    (∀ x ∈ p.fly.nodes, ∀ t ∈ p.fly.sets, p.node 0 = some x ∧ p.treeSet x.ctx x.handle = some t ∧ x.place = .portRick 7 ∧
      x.since + 256 ≤ p.clk ∧ p.goalHome t x = some (0x2000000000, 7)) ∧ (0x2000000000 : Dword).getLsbD 37 = true ∧
    (0x1000000000 : Dword).getLsbD 37 = false ∧
    ∀ x ∈ w.fly.nodes, w.node 0 = some x ∧ (w.elemState x.ctx x.handle x.elem x.epoch).1 = 2 ∧ x.place = .waiting 0 ∧ x.since + 1000000 * wallNs ≤ w.wall ∧
      (w.treeSet x.ctx x.handle).bind (fun t => w.nodeHome t t.top 0) = none := by
  and_intros <;> decide +kernel

/-- A node that waits at the slice where another of a core rick goes, so that this one may not go there yet. -/
theorem witness_node_behind : ∃ k, let c : State :=
      { noded [] [nodeOf 0 0 3 (.coreRick 0) 0 none, nodeOf 1 0 1 (.waiting k) 0 none] with clk := 64 }
    c.node 0 = some (nodeOf 0 0 3 (.coreRick 0) 0 none) ∧
    (∀ t ∈ c.fly.sets, c.goalSlice t (nodeOf 0 0 3 (.coreRick 0) 0 none) = k) ∧ c.rickNodes (.waiting k) ≠ [] := by
  refine ⟨(noded [] []).standIn (Config.treeHash 5 0 1 1 % 192), rfl, fun t ht => ?_, ?_⟩
  · have h : t = (noded [] []).fly.sets.headD t := by
      simp only [noded, treeDemo, List.map_cons, List.map_nil, List.mem_singleton] at ht
      exact ht
    rw [h]
    rfl
  · simp [State.rickNodes, noded, nodeOf]

/-- A machine whose slot at 0x3000 is subscribed to line 0x800002, with a push of that body on its way. -/
def pushing (st : Nat) (body : PushBody) (thread : Option Nat) (dev : Option Nat) : State :=
  let s := slotDemo st
  { s with fly := { s.fly with
    subs := [{ id := 0, line := 0x800002, ctx := 0, team := 0, slot := 0x3000, dev := dev, token := 0, start := 0 }],
    dirty := [{ line := 0x800002, seq := 1, since := 0 }],
    reqs := [{ id := 0, thread := 0, pc := s.pc, line := .mem 0x40000100, va := 0x40000100, team := 0, slot := 0x3000,
               answer := none }],
    pushes := [{ id := 0, sub := 0, team := 0, slot := 0x3000, dev := none, body := body, thread := thread, pc := 0, addr := 0,
                 err := none }] }, nextId := 1 }

theorem witness_pushes : let s := pushing 2 (.data 1 (zeros 128)) none none
    let ok := fun (t : State) => (t.pushAt 0).isSome = true ∧
      (∀ p ∈ t.fly.pushes, t.firstPush p = true ∧ p.dev = none ∧ p.err = none ∧ t.pushDropped p = false) ∧
      t.fly.parkedSlots = [] ∧ t.fly.ops = []
    0x800002 < 2 ^ 60 ∧ (s.fly.dirty.find? fun d => d.line == 0x800002).isSome = true ∧
    (s.readPhys (0x800002 * 128) 128).isSome = true ∧ ok s ∧ ok (pushing 2 (.final 5 2) none none) ∧
    ok (pushing 1 (.fill 0 (zeros 128) 2) (some 0) none) ∧ ok (pushing 4 .ack (some 0) none) ∧
    (s.fly.reqs.find? fun r => r.id == 0 && r.answer.isNone).isSome = true ∧ (s.readPhys 0x40000100 128).isSome = true ∧
    (∀ x ∈ (pushing 0 .ack none (some 4095)).fly.subs, x.dev.isSome = true ∧
      (pushing 0 .ack none (some 4095)).tokenExpired x.token = true) ∧
    (∀ x ∈ s.fly.subs, s.subHome x ≠ some 9) ∧
    (pushing 2 .unsub (some 0) none).pushAt 0 ≠ none ∧ (pushing 2 .unsub (some 0) none).fly.reads = [] ∧
    s.fly.dirty.all (fun d => s.fly.subs.all fun x => newerSeq d.seq x.start) = true := by
  and_intros <;> decide +kernel

/-- A machine whose slot at 0x3000 is subscribed to a line of device 9, through entry 0 of its context's peer table. -/
def subscribed : State :=
  let s := (pushing 2 .ack none none).writePhys 0x40001000 (valBytes 16 (9 * 2 ^ 64))
  { s with
    ctxs := s.ctxs.map fun c => { c with peerTab := 0x40001000, peerCount := 1 },
    fly := { s.fly with pushes := [], subs := s.fly.subs.map fun x => { x with line := 2 ^ 60 } } }

theorem witness_subscriber : (∀ x ∈ subscribed.fly.subs, subscribed.subHome x = some 9 ∧
      (∀ y ∈ subscribed.fly.subs, y = x) ∧ (subscribed.slot x.team x.slot).state ≠ 1) ∧ subscribed.fly.subs.Nodup ∧
    subscribed.fly.parkedSlots = [] ∧ subscribed.fly.pushes = [] ∧
    (∀ x ∈ (pushing 1 (.fill 0 (zeros 128) 2) (some 0) none).fly.subs,
      ∀ p ∈ (pushing 1 (.fill 0 (zeros 128) 2) (some 0) none).fly.pushes, p.sub = x.id ∧ p.dev = none) ∧
    (let late : Push := { id := 1, sub := 5, team := 0, slot := 0x3000, dev := some 9, body := .ack, thread := none, pc := 0,
                          addr := 0, err := none }
      let t : State := { subscribed with wall := 2000000 * wallNs, fly := { subscribed.fly with pushes := [late] } }
      ∀ x ∈ t.fly.subs, t.subHome x = some 9 ∧ ∀ p ∈ t.fly.pushes, p.sub ≠ x.id ∧ p.dev = some 9 ∧
        p.since + 2000000 * wallNs ≤ t.wall) := by
  and_intros <;> decide +kernel

/-- A machine with queue 63 of context 0 in use: its ring at 0x40003000, its tail at 0x40002000, which reads 1, HEAD 0. -/
def queued (watched : Option Nat) : State :=
  let s := fetching.writePhys 0x40002000 (valBytes 8 1)
  { s with ctxs := s.ctxs.map fun c => { c with queues := upd c.queues 63 fun _ =>
    { enabled := true, ring := 0x40003000, tailAt := 0x40002000, headAt := 0x40002080, log2n := 16, tail := 1, watched := watched } } }

/-- A machine with a launch of one team that has not been placed. -/
def toPlace : State :=
  { fetching with launches := [{ ctx := 0, queue := 0, index := 0, record := { entry := 0x40000000, nc := 1, regc := 96 } }],
                  teams := [], groups := [], threads := [], units := [] }

/-- A machine of that launch whose teams need a share greater than a cluster's slices have left. -/
def starving : State :=
  { fetching with
    wall := 1000000 * wallNs,
    launches := [{ ctx := 0, queue := 0, index := 0, record := { entry := 0x40000000, nc := 1, regc := 96, scratch := 2 ^ 21, prio := 1 } }],
    health := { fetching.health with fencedCores := List.range 144 },
    teams := [], groups := [], threads := [], units := [] }

theorem witness_queues :
    ((queued (some 0x800040)).queue 0 63).enabled = true ∧ ((queued (some 0x800040)).queue 0 63).watched.isSome = true ∧
    ((queued none).queue 0 63).watched = none ∧ ((queued none).queue 0 63).head < ((queued none).queue 0 63).tail ∧
    ((queued none).vread ((queued none).ctx 0) 0x40002000 8) = .ok (valBytes 8 1) ∧
    0 ≤ bytesVal (valBytes 8 1) ∧ bytesVal (valBytes 8 1) ≤ 0 + 2 ^ 16 ∧
    ((queued none).launches.filter fun x => !x.finished).length < 512 ∧
    ((queued none).vread ((queued none).ctx 0) (0x40003000 + 512 * (0 % 2 ^ 16)) 512).isOk = true ∧
    ((queued none).vwrite ((queued none).ctx 0) 0x40002080 (valBytes 8 1)).isSome = true ∧
    (queued none).copyNext = some (64 * 0 + 63) := by
  and_intros <;> decide +kernel

theorem witness_placement :
    toPlace.placesNext 0 = true ∧ (toPlace.spot 0).isSome = true ∧ (toPlace.launch 0).begun = false ∧
    (toPlace.beginTrees (toPlace.ctx 0) 0 (dedup (toPlace.launch 0).record.trees)).isSome = true ∧
    (toPlace.beginTrees (toPlace.ctx 0) 0 [5]).isSome = false ∧
    (starving.launch 0).block = none ∧ starving.waitsForRoom 0 = true ∧
    (starving.launch 0).since + 1000000 * wallNs ≤ starving.wall ∧ 0 < starving.launches.length ∧
    starving.clusterOpen 0 23 = true := by
  and_intros <;> decide +kernel

/-- A machine of a launch with a record, all of whose teams have retired. -/
def retiredLaunch (fin : Bool) (r : LaunchRec) : State :=
  { fetching with
    launches := [{ ctx := 0, queue := 0, index := 0, record := r, teams := [0], begun := true, finished := fin }],
    teams := fetching.teams.map fun t => { t with life := .retired } }

theorem witness_ends_of_launches :
    let dead : LaunchRec := { ranges := [{ base := 0x40000000, len := 256, rd := true, wr := false, sw := false, dead := true, pf := true }] }
    let load : LaunchRec := { kind := 1, entry := 0x40000000, wsDst := 65536, wsDies := [3], wsLen := 64 }
    (retiredLaunch false {}).allRetired 0 = true ∧ (retiredLaunch false {}).launchBusy 0 = false ∧
    ((retiredLaunch false dead).launch 0).record.ranges.any (fun r => r.pf && r.rd) = true ∧
    ((retiredLaunch false dead).launch 0).finished = false ∧ (retiredLaunch false dead).launches.take 0 = [] ∧
    ((retiredLaunch true dead).launch 0).finished = true ∧ 0 < (retiredLaunch true dead).launches.length ∧
    ((retiredLaunch true dead).launch 0).record.ranges.any Range.dead = true ∧
    ((retiredLaunch false load).launch 0).record.kind = 1 ∧ ((retiredLaunch false load).launch 0).ended = false ∧
    (retiredLaunch false load).ordered 0 = true ∧ ((retiredLaunch false load).loadBytes 0).isSome = true ∧
    ((retiredLaunch false load).launch 0).begun = true ∧ (retiredLaunch false load).sto.past = [] ∧
    ((retiredLaunch false { load with entry := 0 }).loadBytes 0).isNone = true ∧ (toPlace.launch 0).begun = false ∧
    (((retiredLaunch false dead).launch 0).record.ranges.map Range.len).foldl (· + ·) 0 ≠ 0 ∧
    ((retiredLaunch false dead).launch 0).record.afterEn = false := by
  and_intros <;> decide +kernel

/-- A machine with a save routine, all of whose cores but the team's are fenced, a launch of priority 1 waiting for one second. -/
def pressing (ctx : Nat) : State :=
  { fetching with
    wall := 2 ^ 60, saveEntry := some 0x40000100,
    ctxs := fetching.ctxs.map fun c => { c with slice := 1 },
    launches := fetching.launches ++
      [{ ctx := ctx, queue := 0, index := 0, record := { entry := 0x40000000, nc := 1, regc := 96, scratch := 2 ^ 21, prio := 1 } }],
    health := { fetching.health with fencedCores := (List.range 144).drop 1 } }

theorem witness_preemptions : let s := pressing 1
    let only := fun (p : Launch → Bool) =>
      allPos (fun (t : Team) => t.life == .placed && t.cluster == 0 && p (s.launch t.launch)) s.teams = [0]
    s.waitsForRoom 1 = true ∧ (s.launch 1).since + 20000 * wallNs ≤ s.wall ∧ s.saveEntry.isSome = true ∧
    only (fun y => decide (y.record.prio < (s.launch 1).record.prio)) ∧
    (∃ j < s.launches.length, (s.launch j).ctx ≠ 0 ∧ s.waitsForRoom j = true) ∧ (s.ctx 0).slice ≠ 0 ∧
    (∀ t ∈ s.teams, t.since + (s.ctx 0).slice * 1000 * wallNs ≤ s.wall) ∧ only (fun y => y.ctx == 0) := by
  and_intros <;> decide +kernel

theorem witness_preemption_trap :
    let s : State := { (fetching.updThr 0 fun x => { x with preempt := 4 }) with saveEntry := some 0x40000100 }
    let t : State := { fetching with
      wall := 2000000 * wallNs, teams := fetching.teams.map fun t => { t with life := .saving, code := 1, trapped := some 0 } }
    (s.thr 0).preempt ≠ 0 ∧ (s.thr 0).life = .live ∧ (s.thr 0).hmode = 0 ∧ 0 < s.threads.length ∧
    pos (fun (y : IssueUnit) => y.live && y.lanes.any fun p => p.2 == 0) s.units = some 0 ∧
    (s.unitAt 0).lanes.find? (fun p => p.2 == 0) = some (0, 0) ∧ (s.unitAt 0).rep = none ∧ (s.unitAt 0).scope = none ∧
    s.targetBad (launchAt s (0, 0)) s.saveTarget = false ∧ (t.team 0).life = .saving ∧
    (t.team 0).trapped = some 0 ∧ 0 + 2000000 * wallNs ≤ t.wall ∧ (∀ p ∈ (s.unitAt 0).lanes, s.teamOf p.2 = s.teamOf 0) ∧
    (fetching.team 0).trapped = none ∧ (s.unitAt 0).stopAsk = none := by
  and_intros <;> decide +kernel

/-! Commands, the host, the fabric, faults of the module and clocks. -/

/-- A machine with context 63 and nothing under way. -/
def idle : State :=
  { fetching with
    ctxs := fetching.ctxs.map fun c => { c with num := 63, dispatch := 0x40002000 },
    launches := [], teams := [], groups := [], threads := [], units := [] }

/-- That machine with a context descriptor (R389) at 0x40001000 and an empty dispatch block at 0x40002000. -/
def creatable : State :=
  idle.writePhys 0x40001000 (valBytes 8 0x20000000 ++ valBytes 8 0x40002000 ++ valBytes 8 0x40000100 ++ valBytes 8 0x40003000 ++
    valBytes 8 64 ++ valBytes 8 0x40004000 ++ valBytes 8 0x40005000 ++ [4])

theorem witness_create :
    62 < 64 ∧ creatable.hasCtx 62 = false ∧ (creatable.readPhys 0x40001000 128).isSome = true ∧
    (((creatable.readPhys 0x40001000 128).map fun d => contextBad d) = some false) ∧
    (∀ d b ws, creatable.readPhys 0x40001000 128 = some d →
      creatable.vread (contextOf 62 d) (contextOf 62 d).dispatch.toNat 4096 = .ok b → wsRegions b = some ws →
      creatable.regionsMeet ws = false ∧ (b.drop 2092).all (fun n => n == 0) = true ∧ sliceVal b 2080 8 % 64 = 0 ∧
      sliceVal b 2088 4 ≤ 2 ^ 20 ∧ (creatable.firstWrites (contextOf 62 d)).isSome = true) ∧
    ((creatable.readPhys 0x40001000 128).map fun d =>
      match creatable.vread (contextOf 62 d) (contextOf 62 d).dispatch.toNat 4096 with
      | .ok b => (wsRegions b).isSome
      | .error _ => false) = some true := by
  refine ⟨by decide, by decide +kernel, by decide +kernel, by decide +kernel, ?_, by decide +kernel⟩
  intro d b ws hd hb hw
  have h : (match creatable.readPhys 0x40001000 128 with
    | none => false
    | some d => match creatable.vread (contextOf 62 d) (contextOf 62 d).dispatch.toNat 4096 with
      | .error _ => false
      | .ok b => match wsRegions b with
        | none => false
        | some ws => !creatable.regionsMeet ws && (b.drop 2092).all (fun n => n == 0) && decide (sliceVal b 2080 8 % 64 = 0) &&
            decide (sliceVal b 2088 4 ≤ 2 ^ 20) && (creatable.firstWrites (contextOf 62 d)).isSome) = true := by decide +kernel
  simp only [hd, hb, hw, Bool.and_eq_true, Bool.not_eq_true', decide_eq_true_eq] at h
  exact ⟨h.1.1.1.1, h.1.1.1.2, h.1.1.2, h.1.2, h.2⟩

/-- The entry of queue 63 in that dispatch block (R372): its ring at 0x40006000, its tail and head in lines of their own, which
reads 5. -/
def enabling : State :=
  (idle.writePhys (0x40002000 + 32 * 63) (valBytes 8 0x40006000 ++ valBytes 8 0x40007000 ++ valBytes 8 0x40007080 ++ [3, 1])).writePhys
    0x40007080 (valBytes 8 5)

theorem witness_context_commands :
    idle.hasCtx 63 = true ∧ idle.hasCtx 62 = false ∧ idle.launches.all (fun l => l.ctx != 63 || l.finished) = true ∧
    (idle.updCtx 63 fun y => { y with queues := y.queues.map fun q => { q with enabled := false, watched := none } }).ctxBusy 63
      = false ∧
    (enabling.ctx 63).contained = false ∧ (enabling.queue 63 63).enabled = false ∧
    (enabling.vread (enabling.ctx 63) (0x40002000 + 32 * 63) 32).isOk = true ∧
    (match enabling.vread (enabling.ctx 63) (0x40002000 + 32 * 63) 32 with
      | .ok bs => !queueBad bs && bit (sliceVal bs 25 1) 0 && decide (sliceVal bs 16 8 = 0x40007080)
      | .error _ => false) = true ∧
    enabling.vread (enabling.ctx 63) 0x40007080 8 = .ok (valBytes 8 5) ∧
    0x0401 % 4 < 2 ∧ bits 0x0401 8 3 ≤ 4 ∧ idle.usesRange 63 (tlbiRange true 0x40000000 4) = false ∧
    ({ idle with saveEntry := some 0x40000100 } : State).saveEntry.isSome = true ∧ idle.saveEntry = none ∧ idle.teams = [] ∧
    idle.physOk 0x40001000 8 = true ∧ fetching.flying 0 (64 % 64) 0 = some 0 ∧ idle.flying 63 0 0 = none ∧
    idle.physOk (2 ^ 56) 8 = false ∧ (∀ t ∈ idle.teams, t.life ≠ .placed) ∧ 64 ≤ 64 ∧ idle.usesRange 63 (tlbiRange false 0x10 4) = false := by
  and_intros <;> decide +kernel

/-- A debug descriptor (R440) at 0x40001000: a ring of two pages at 0x40008000, its pointers at 0x40009000. -/
def debugging : State :=
  (allFeatures idle).writePhys 0x40001000 (valBytes 8 0x40008000 ++ valBytes 8 2 ++ valBytes 8 0x4000A000 ++ [1, 4])

/-- A machine whose control queue of 16 at 0x40003000 has one command, SETSAVE with argument 0 and its stamp at 0x40004000. -/
def commanded : State :=
  let s := allFeatures idle
  let s := (s.writePhys 0x40003000 (valBytes 4 9 ++ zeros 20 ++ valBytes 8 0x40004000)).writePhys 0x40002000 (valBytes 8 1)
  { s with bar0 := { s.bar0 with cqRing := 0x40003000, cqTail := 0x40002000, cqCtl := 0x104 } }

/-- A descriptor in force with 64 bytes in its open page. -/
def pageOpen : Debug := { debugOn true with open_ := true, pos := 64 }

theorem witness_device_commands :
    (0 % 4 = 0 ∧ 2 ^ 57 - 4 < 2 ^ 57 ∧ ∀ t ∈ fetching.teams, t.life ≠ .saving ∧ t.life ≠ .parked) ∧
    debugging.hasCtx 63 = true ∧ (debugging.ctx 63).debug = none ∧
    (debugging.readPhys 0x40001000 256).map debugging.debugBad = some false ∧
    fetching.flying 0 0 (2 ^ 63 % 2 ^ 63) = some 0 ∧ (fetching.grp (fetching.unitAt 0).group).team ∈ (fetching.launch 0).teams ∧
    ({ debugging with saveEntry := some 0x40000100 } : State).saveEntry.isSome = true ∧ debugging.feature 4 = true ∧
    (debugging.ctx 63).dump = none ∧ 64 ≤ bits (2 ^ 40 - 1) 0 40 ∧ debugging.physOk 0x40001000 64 = true ∧
    ((debugging.flyingOf 63).foldl State.stopLaunch debugging).still 63 = true ∧
    ((allFeatures fetching).still 0 = false) ∧
    debugging.health.draining = false ∧ (debugging.readPhys 0x40001000 64).isSome = true ∧ debugging.feature 6 = true ∧
    debugging.physOk 0x4000C000 8192 = true ∧
    (commanded.nextCommand.map fun bs => (bs.drop 32).all (fun b => b == 0)) = some true ∧
    ((State.setDebug (traced fetching true) 0 pageOpen).ctx 0).debug = some pageOpen ∧
    pageOpen.flushed ≠ pageOpen.written + pageOpen.pos ∧
    (({ allFeatures idle with saveEntry := some 0x40000100 } : State).updCtx 63 fun x => { x with dump := some ⟨0x40000000, 64, 0, 0, [], [], [], 0, 0, false⟩ }).ctxs.all
      (fun x => x.dump.isSome) = true ∧
    (match commanded.command 9 0 0 0 with | .done _ => true | _ => false) = true ∧
    (match commanded.command 9 0 1 0 with | .refused => true | _ => false) = true := by
  and_intros <;> decide +kernel

theorem witness_host :
    let s := State.reset
    let a : State := { s with bar0 := { s.bar0 with faccept := 0x7F } }
    let z : State := { s with bar0 := { s.bar0 with faccept := 0x80 } }
    let c : State := allFeatures s
    let r : State := { s with bar0 := { s.bar0 with rcvOpen := true } }
    let b : State := { s with bar0 := { s.bar0 with rcvBusy := true } }
    0xFFFFFFF8 % 8 = 0 ∧ 0xFFFFFFF8 < 2 ^ 32 ∧
    (a.bar0.committed = false ∧ a.bar0.faccept.getLsbD 0 = true ∧ a.bar0.faccept &&& ~~~a.bar0.foffer = 0) ∧
    (z.bar0.committed = false ∧ z.bar0.faccept.getLsbD 0 = false ∧ z.bar0.faccept &&& ~~~z.bar0.foffer ≠ 0) ∧
    (c.bar0.committed = true ∧ c.bar0.podnum = none) ∧ ({ c with bar0 := { c.bar0 with podnum := some 4095 } } : State).bar0.podnum ≠ none ∧
    s.bar0.rcvBusy = false ∧ r.bar0.rcvOpen = true ∧ s.bar0.rcvOpen = false ∧ b.bar0.rcvBusy = true ∧
    imagePasses [] s.fw.rollback = false ∧
    s.bar0.booted = true ∧ 2 ^ 20 ≤ s.capacity - 2 ^ 32 - 1 ∧ s.capacity - 2 ^ 32 - 1 + [0x5A#8].length ≤ s.capacity - 2 ^ 32 ∧
    s.memBad (s.capacity - 2 ^ 32 - 8) 8 = false ∧ s.capacity - 2 ^ 32 ≤ s.capacity - 2 ^ 32 ∧ s.capacity - 2 ^ 32 < 2 ^ 40 ∧
    0xFFFF8 < 2 ^ 20 ∧ 0xFFFF8 % 8 = 0 ∧ 0xFFFFC % 4 = 0 ∧
    (({ r with fw := { r.fw with slots := r.fw.slots } } : State).fw.slots.map fun y => y.image.length) = s.fw.slots.map fun y => y.image.length := by
  and_intros <;> decide +kernel

/-- A staged image of the right shape passes exactly where its verification, which is the device's own, does. -/
theorem witness_image : let im := valBytes 4 0x4C4E4657 ++ valBytes 4 1 ++ zeros (2600 + 4627)
    imagePasses im 1 = Config.imageVerifies im := by
  intro im
  have h : (decide (sliceVal im 0 4 = 0x4C4E4657) && decide (1 ≤ sliceVal im 4 4) && decide (sliceVal im 4 4 ≤ 255) &&
      decide (1 ≤ sliceVal im 4 4) && decide (im.length = 2608 + sliceVal im 8 8 + 4627)) = true := by decide +kernel
  simp only [imagePasses, h, Bool.true_and]

/-- A device 4095 of the pod whose context 63 grants window 0, of rights 1 and with access to 4 KiB from 0x40002000. -/
def granted : State :=
  let s := (allFeatures idle).writePhys 0x40001000 (valBytes 8 0x40002000 ++ valBytes 5 4096 ++ [0x2F])
  { s with ctxs := s.ctxs.map fun c => { c with gwTab := 0x40001000, gwCount := 1 },
           bar0 := { s.bar0 with podnum := some 4095, fabricUp := true } }

/-- The bits of a token below its code: window 0, the rights 1 to 3, one ms of its term left, generation 0. -/
def tokenLow : Nat := 0xF * 2 ^ 36 + 1 * 2 ^ 4

/-- A token with those bits and a code. -/
def tokenOf (m : BitVec 24) : Dword := BitVec.ofNat 64 (m.toNat * 2 ^ 40 + tokenLow)

theorem token_bits (m : BitVec 24) : (tokenOf m).toNat % 2 ^ 40 = tokenLow ∧ (tokenOf m).toNat / 2 ^ 40 = m.toNat ∧
    (tokenOf m).toNat % 16 = 0 ∧ bits (tokenOf m).toNat 20 16 = 0 ∧ bits (tokenOf m).toNat 4 16 = 1 ∧
    bit (tokenOf m).toNat 36 = true ∧ bit (tokenOf m).toNat 37 = true := by
  have h : m.toNat < 2 ^ 24 := m.isLt
  simp only [tokenOf, tokenLow, BitVec.toNat_ofNat, bits, bit, beq_iff_eq]
  generalize m.toNat = n at *
  omega

/-- The token that the device itself would have given. -/
def goodToken : Dword := tokenOf (grantMac 0 0 4095 63 tokenLow)

/-- A store of source device 7, its number 1 of incarnation 0. -/
def request (n : Nat) : RemoteReq :=
  { dev := 7, sctx := 0, sinc := 0, tctx := 63, tinc := 0, seq := n, token := goodToken, op := .store 4088 (zeros 8) }

theorem macOk_of {s : State} {ctx : Nat} {m : BitVec 24} (h : s.tokenMac ctx 0 tokenLow = m.toNat) (hg : s.bar0.gkgen = 0) :
    s.macOk ctx (tokenOf m).toNat = true := by
  obtain ⟨hl, hh, h0, -⟩ := token_bits m
  simp only [State.macOk, hl, hh, h0, h, hg]
  simp

theorem admit_of {s : State} {c : Context} {b n k t : Nat} (o : RemoteOp) (h : s.grantWindow c 0 = some (b, n, k)) (hs : s.tms = 0)
    (hk : bit k 5 = true ∧ bit k (remoteRight o) = true ∧ bit k 4 = false) (hw : bits t 20 16 = 0) (ht : bits t 4 16 = 1)
    (hr : bit t (36 + remoteRight o) = true) (htree : remoteTree o = false) (hb : (remoteSpan o).1 + (remoteSpan o).2 ≤ n) :
    s.admitBase c t o = some b := by
  simp [State.admitBase, hw, h, ht, hs, hr, hk, htree, hb]

theorem witness_grant : granted.hasCtx 63 = true ∧ granted.macOk 63 goodToken.toNat = true ∧
    granted.admitBase (granted.ctx 63) goodToken.toNat (.store 4088 (zeros 8)) = some 0x40002000 ∧
    sequenced (.load 0 4096) = false ∧
    granted.admitBase (granted.ctx 63) goodToken.toNat (.load 0 4096) = some 0x40002000 := by
  have mac : granted.macOk 63 goodToken.toNat = true := macOk_of (by
    have h4 : granted.fabric.incarnation = 0 := by decide +kernel
    have h5 : (granted.bar0.podnum.map BitVec.toNat).getD 0 = 4095 := by decide +kernel
    rw [State.tokenMac, h4, h5]) (by decide +kernel)
  obtain ⟨-, -, -, hw, ht, h36, h37⟩ := token_bits (grantMac 0 0 4095 63 tokenLow)
  have win : granted.grantWindow (granted.ctx 63) 0 = some (0x40002000, 4096, 0x2F) := by decide +kernel
  have ms : granted.tms = 0 := by decide +kernel
  exact ⟨by decide +kernel, mac, admit_of _ win ms (by decide) hw ht h37 rfl (by decide), rfl,
    admit_of _ win ms (by decide) hw ht h36 rfl (by decide)⟩

/-- The same machine with what it holds of that source: number 1 performed. -/
def heard : State :=
  { granted with fabric := { granted.fabric with sources := [⟨7, 0, 0, 1, [1], [(1, 0)]⟩] } }

theorem witness_requests :
    granted.fabricOn = true ∧ granted.fabric.blocked = [] ∧ sequenced (request 1).op = true ∧
    ({ request 1 with tinc := 1 } : RemoteReq).tinc ≠ granted.fabric.incarnation ∧
    (heard.sourceOf (request 1)).inc = 0 ∧ (heard.sourceOf (request 1)).high < 1 + 4096 ∧
    1 ∈ (heard.sourceOf (request 1)).done ∧ (request 1).tinc = heard.fabric.incarnation ∧
    2 ∉ (heard.sourceOf (request 2)).done ∧ (heard.sourceOf (request 2)).high < 2 + 4096 ∧
    (heard.sourceOf (request 2)).inc = 0 ∧ heard.fabric.blocked = [] := by
  and_intros <;> decide +kernel

/-- A machine with request 0 to device 9 under way, sent `2 ms` ago, and a flit staged as long ago. -/
def awaiting : State :=
  { granted with
    wall := 2000000 * wallNs,
    fabric := { granted.fabric with
      out := [{ id := 0, ctx := 63, dev := 9, tctx := 0, seq := some 1, inc := 0, token := 0, op := .store 0 [1],
                since := 0, tries := 0 }],
      staged := [(0, ⟨1, 2, request 1⟩)] } }

theorem witness_fabric :
    (∃ o ∈ awaiting.fabric.out, awaiting.request 0 = some o ∧ awaiting.requestHeld o = false ∧
      o.since + retryAt o.tries ≤ awaiting.wall ∧ o.since + 2000000 * wallNs ≤ awaiting.wall) ∧
    awaiting.feature 2 = true ∧ awaiting.bar0.podnum ≠ none ∧ (awaiting.fabric.dwell + 1) * 1050 * wallNs ≤ awaiting.wall ∧
    awaiting.fabricOn = true ∧ 63 ≠ awaiting.pod ∧ 4032 ≠ awaiting.pod ∧ awaiting.pod = 4032 / 64 * 64 + 63 % 64 ∧
    4032 / 64 ≠ 63 / 64 ∧ 4032 % 64 ≠ 63 % 64 ∧ awaiting.fabric.blocked = [] ∧ awaiting.ways 9 true ≠ [] ∧
    (∃ z ∈ awaiting.ways 9 true, z ≠ (0, 0)) ∧
    awaiting.fabric.staged.length < (96 * 2 ^ 20 + 2 ^ 32) / 256 ∧
    (awaiting.fabric.staged[0]?).map (fun y => decide (y.1 + 1500000 * wallNs ≤ awaiting.wall)) = some true ∧
    127 < 128 ∧ (127, 67) ∉ awaiting.health.waves ∧
    (∀ y ∈ awaiting.fabric.staged, pairRequests y.2.req (request 2) = none) ∧ (∀ w < 68, (127, w) ∉ awaiting.health.waves) := by
  and_intros <;> decide +kernel

theorem witness_module_faults :
    let s := State.reset
    let d : State := { s with health := { s.health with draining := true, repair := some 0 } }
    let p : State := { fetching with
      wall := 10000000 * wallNs, saveEntry := some 0x40000100, health := { fetching.health with draining := true, repair := some 0 } }
    143 < 144 ∧ s.health.fencedCores.contains 143 = false ∧ s.teams = [] ∧ s.fly.nodes = [] ∧
    191 < 192 ∧ look s.health.fencedSlices 191 = none ∧ s.nextSlice 191 = some 144 ∧ s.linesAt 191 = [] ∧ s.fly.subs = [] ∧
    407 < 408 ∧ 407 ∉ s.health.marked ∧ 407 ∉ s.health.goneChannels ∧
    ({ s with health := { s.health with repair := some 0 } } : State).health.repair.isSome = true ∧ s.health.draining = false ∧
    d.health.draining = true ∧ p.health.repair = some 0 ∧ p.health.draining = true ∧ 0 + 10000000 * wallNs ≤ p.wall ∧
    p.saveEntry.isSome = true ∧ allPos (fun (t : Team) => t.life == .placed) p.teams = [0] := by
  and_intros <;> decide +kernel

theorem witness_clocked :
    let s : State := { State.reset with wall := 4000 * wallNs, clk := 1024 }
    let l : State := { State.reset with wall := 10000000 * wallNs }
    let w : State := { State.reset with dies := upd State.reset.dies 3 fun d => { d with wantHot := some true } }
    3 < s.dies.length ∧ s.slotDue 3 = true ∧ (s.die 3).busy = true ∧ 1200 * wallNs ≤ s.wall - (s.die 3).origin ∧
    (s.die 3).wantHot = none ∧ (allFeatures s).feature 5 = true ∧ (w.die 3).wantHot = some true ∧ w.teams = [] ∧
    (s.ticks + 1) * 1024 ≤ s.clk ∧ s.bar0.booted = true ∧ s.ctxs = [] ∧ 8192 ≤ s.capacity ∧ s.healthBytes.length = 1300 ∧
    l.fw.slowed + 10000000 * wallNs ≤ l.wall ∧ MemoryInv s ∧ (∀ t ∈ w.teams, t.life ≠ .placed) := by
  and_intros <;> first
    | decide +kernel
    | (unfold MemoryInv; decide +kernel)

/-! The machine as a whole. -/

/-- The step's hypotheses: the datapath's turn comes from the agenda, or of itself; the unit fetches its clause, or stands at a
word, or at a word that is no instruction. -/
theorem witness_step :
    let s := State.reset.fetchState 0x10000000
    let w := demo .alu [0x10000000]
    let s1 : State := { s.bump with agenda := [] }
    s.bump.due = none ∧ s.agenda = [⟨0, .turn 0⟩] ∧ 0 ∉ s.taken ∧ s1.choose 0 = some 0 ∧
    fetching.agenda = [] ∧ fetching.bump.due = none ∧ fetching.bump.nextPath.bind fetching.bump.choose = some 0 ∧
    w.agenda = [] ∧ w.bump.due = none ∧ w.bump.nextPath.bind w.bump.choose = some 0 ∧
    (s1.unitAt 0).stopAsk.isSome = false ∧ (s1.unitAt 0).words = [] ∧ (s1.unitAt 0).waited = false ∧ (s1.unitAt 0).lanes ≠ [] ∧
    (s1.fetchClause 0 (s1.unitAt 0).hdr).map (fun x => (x.1.length, x.2, bit (x.1.headD 0).toNat 8)) = .ok (2, 1, false) ∧
    (w.unitAt 0).words ≠ [] ∧ (w.unitAt 0).ready = true ∧ ((w.unitAt 0).instrAt 1).isOk = true ∧
    ((demo .alu [0xFFFFFFFF]).unitAt 0).ready = true ∧ (((demo .alu [0xFFFFFFFF]).unitAt 0).instrAt 1).isOk = false := by
  and_intros <;> decide +kernel

/-- A machine with an event that is due: the expiry of a unit that has waited half its quantum. -/
def expiring : State := promised 4096

theorem witness_events : encode (.fctlCommit) = none ∧ encode (.add (.v 0) (.v 1) (.v 2) 0) ≠ none ∧
    ({ State.reset with agenda := [⟨0, .event .energyTick⟩] } : State).bump.due = none ∧
    State.reset.bump.issuePlan = none ∧ State.reset.agenda = [] ∧ State.reset.work = [] ∧
    ({ State.reset with agenda := [⟨0, .event .energyTick⟩] } : State).agenda = [⟨0, .event .energyTick⟩] ∧
    (expiring.bump.due).isSome = true ∧ ({ fetching with work := [.energyTick] } : State).work = [.energyTick] ∧
    ({ State.reset with work := [.energyTick] } : State).bump.issuePlan = none := by
  and_intros <;> decide +kernel

theorem witness_round_trip : (Instr.add (.v 95) (.lit 0xFFFFFFFF) (.s 27) 7).wf = true ∧
    (encode (.add (.v 95) (.lit 0xFFFFFFFF) (.s 27) 7)).isSome = true := by
  and_intros <;> decide +kernel

theorem witness_memory : MemoryInv (State.reset.fetchState 0x10000000) ∧
    ∃ t, step (State.reset.fetchState 0x10000000) = .next t :=
  ⟨by unfold MemoryInv; decide +kernel,
    let ⟨t, h, _⟩ := next_of (p := fun _ => true) (show nextB (step (State.reset.fetchState 0x10000000)) _ = true by decide +kernel)
    ⟨t, h⟩⟩

theorem witness_no_save_entry : fetching.saveEntry = none := rfl

theorem witness_frame : let s := demo .alu [0x70000000]
    (resultOf (.add (.v 95) (.v 0) (.v 1) 0)).isSome = true ∧ UnitOk s ∧ Untraced s ∧
    ∃ t, exec (.add (.v 95) (.v 0) (.v 1) 0) s = .next t ∧ ∀ p ∈ s.unit.lanes, (s.thr p.2).hmode = 0 ∧ (t.thr p.2).hmode = 0 := by
  obtain ⟨t, h, ht⟩ := next_of (p := fun t => (demo .alu [0x70000000]).unit.lanes.all fun p =>
      ((demo .alu [0x70000000]).thr p.2).hmode == 0 && (t.thr p.2).hmode == 0)
    (show nextB (exec (.add (.v 95) (.v 0) (.v 1) 0) (demo .alu [0x70000000])) _ = true by decide +kernel)
  refine ⟨by decide +kernel, unitOk_of (by decide +kernel), by unfold Untraced; decide +kernel, t, h, fun p hp => ?_⟩
  simpa using List.all_eq_true.mp ht p hp

/-- A machine at a mem word whose v1 has failed and whose v0:v1 and v4:v5 hold addresses, one of them misaligned. -/
def faulty (m : Nat) : State :=
  memDemo.updThr 0 fun x => { x with hmode := m, v := x.v.take 4 ++ [.full 0x40000103, .full 0, .failed ⟨5, 6, 0, 2, 0⟩] ++ x.v.drop 7 }

theorem witness_operand_faults : ∀ m ∈ [0, 1], UnitOk (faulty m) ∧ Untraced (faulty m) ∧ (faulty m).unit.rep = none ∧
    (faulty m).unit.lanes = [(0, 0)] ∧ (faulty m).parts 0 = [(0, 0)] ∧ ((faulty m).thr 0).hmode = m ∧
    [dstUse (.v 96) 1 false, srcUse (.v 0) 1 2, srcUse (.v 1) 1 1].any
      (fun u => u.bad none ((faulty m).grp (faulty m).unit.group).budget) = true ∧
    [dstUse (.v 95) 2 false, srcUse (.v 0) 2 2, srcUse (.v 2) 2 1].any
      (fun u => u.bad none ((faulty m).grp (faulty m).unit.group).budget) = true ∧
    Issues (faulty m) 0 [dstUse (.v 95) 1 false] ∧ 6 < ((faulty m).grp (faulty m).unit.group).budget ∧
    ((faulty m).thr 0).reg 6 = .failed ⟨5, 6, 0, 2, 0⟩ ∧
    Issues (faulty m) 0 [fillUse (.v 94) 2, srcUse (.v 4) 2 2, srcUse .zero 1 1] ∧ (faulty m).atomicDue 0 = false ∧
    (faulty m).xlate (faulty m).unitCtx ((faulty m).globVa (0, 0) (.v 4) .zero).toNat 1 = .ok (.mem 0x40000103) ∧
    ((faulty m).globVa (0, 0) (.v 4) .zero).toNat % 8 ≠ 0 ∧
    (faulty m).targetBad (launchAt (faulty m) (0, 0)) ((faulty m).ctxOf 0).handler = false ∧ 0 < (faulty m).threads.length := by
  intro m hm
  simp only [List.mem_cons, List.not_mem_nil, or_false] at hm
  rcases hm with rfl | rfl
  all_goals
    exact ⟨unitOk_of (by decide +kernel), by unfold Untraced; decide +kernel, by decide +kernel, by decide +kernel,
      by decide +kernel, by decide +kernel, by decide +kernel, by decide +kernel, issues_of (by decide +kernel), by decide +kernel,
      by decide +kernel, issues_of (by decide +kernel), by decide +kernel, by decide +kernel, by decide +kernel,
      by decide +kernel, by decide +kernel⟩

/-! WellFormed refuses an ill-formed term for each of its checks (R65, R69, R70 and the entries' own limits). -/

theorem test_wf_refuses_operands : [
    Instr.mov .lane (.v 0) 0, .mov (.v 96) (.v 0) 0, .mov (.lit 1) (.v 0) 0, .mov (.v 0) (.v 96) 0, .mov (.v 0) (.s 28) 0,
    .mov (.v 0) (.lit 0x100000000) 0, .mov (.v 0) (.v 0) 16, .movi (.v 0) 2048, .sel (.v 0) (.v 0) (.v 0) 16,
    .shli (.v 0) (.v 0) 32, .lea (.v 0) (.v 0) (.v 0) 8 true, .icmp 16 .eq (.v 0) (.v 0) 0, .pand 0 16 0 false false 0,
    .split6 .zero (.v 0) 0, .join6 (.v 0) (.lit 0) 0, .fcmp 0 .eq32 (.lit 0x100000000) (.v 0) 0,
    .pnot 0 0 16, .v2p (.v 0) .zero 16, .shfl (.v 0) (.v 0) (.s 28) .idx, .vote 0 16 false .all 0].all (fun i => !i.wf) = true := by
  decide +kernel

theorem test_wf_refuses_formats : [
    Instr.cvt (.v 0) (.v 0) .i8 .f32 .rn false, .cvt (.v 0) (.v 0) .f32 .i8 .rn false, .cvt (.v 0) (.v 0) .e4m3 .f32 .rn true,
    .pack (.v 0) (.v 0) .f32 0 .rn false, .pack (.v 0) (.v 0) .f16 2 .rn false, .pack (.v 0) (.v 0) .i8 0 .rz false,
    .pack (.v 0) (.v 0) .e4m3 4 .rn false, .unpk (.v 0) (.v 0) .f32 0, .unpk (.v 0) (.v 0) .n4 8, .unpk (.v 0) (.v 0) .f16 2,
    .fclass (.v 0) (.v 0) .e5m2 0, .scalex (.v 0) (.v 0) .f32 0].all (fun i => !i.wf) = true := by decide +kernel

theorem test_wf_refuses_memory : [
    Instr.st (.v 0) (.v 0) .zero .i8 false, .sts (.v 0) (.v 0) .zero .i16, .gld (.v 0) 14 0 false (.v 0) false false 0,
    .gld .lane 0 0 false (.v 0) false false 0, .gst (.v 0) 0 4 false (.v 0) false false 0, .gst (.v 0) 0 0 false (.v 0) false false 4,
    .atom (.v 0) (.v 1) false .add .n32 .rlx 0, .atom .lane (.v 0) false .add .n32 .rlx 0, .cas (.v 0) .zero false .rlx 0,
    .sload 16 false (.v 0) (.v 0) 0, .fence .dev .rel 16, .wbind 64 (.v 0) .reg 0, .wbind 0 .zero .reg 0, .touch 0 16 0,
    .wstat 0 .lane 0].all (fun i => !i.wf) = true := by decide +kernel

theorem test_wf_refuses_the_rest : [
    Instr.mrsv (.v 0) 16 0, .mrel 16 0, .minit 0 4 false (.v 0) (.v 0) 0, .mma 0 14 (.s 0) (.s 0), .mguide 0 1 (.s 0) 0,
    .mguide 0 0 (.v 0) 0, .mdrainReg 0 0 (.v 0) 3 0 0, .mdrainReg 0 0 .zero 0 0 0, .mstore 0 0 .f32 true .zero 0,
    .arrive (.v 0) 16 0, .sign 16 0 0, .waitc .st 64 0, .bra 0 0x200000, .trap 0x10000 0, .enter 0xFFFF 0, .srd (.v 0) 0x17 0,
    .srd (.v 0) 0x31 0, .swr (.v 0) 0 0, .svrf 7 (.v 0) .zero 0, .svrf 0 (.v 0) (.v 1) 0, .svwinWin 64 (.v 0),
    .tlbi false (.v 0) .zero 0, .mark 0x10000 0, .rep 64 0, .rep 0 8].all (fun i => !i.wf) = true := by decide +kernel

/-- Words that the decoder refuses, by name: an unassigned opcode, an unused field without 0x7C, a reserved bit, a destination of
0x7E, an operand code 0x7F, a prefix of an unassigned kind (R69, R70, R74, R83). -/
theorem test_decode_refuses :
    (decodeWord .alu (0x03 * 2 ^ 25) []).isOk = false ∧ (decodeWord .alu 0x01EEF7C9 []).isOk = true ∧
    (decodeWord .alu 0x01EEF7B9 []).isOk = false ∧ (decodeWord .mem 0x04000001 []).isOk = false ∧
    (decodeWord .alu (0x08 * 2 ^ 25 + 0x7E * 2 ^ 18) [0]).isOk = false ∧
    (decodeWord .alu (0x08 * 2 ^ 25 + 0x7F * 2 ^ 11) []).isOk = false ∧ (decodeWord .alu 0xFE800000 []).isOk = false :=
  by decide +kernel

/-! Decoding: for each instruction a word put together from the spec's encoding of it, with its operands at values that no other
field has, and the literals behind it (R63 to R83, and the entries). The words of the spec's own examples stand among them. -/

/-- Whether words of a class decode to instructions, and take their literals. -/
def reads (c : Cls) (l : List (Nat × List Word × Instr)) : Bool :=
  l.all fun t => decide (decodeWord c t.1 t.2.1 = .ok (t.2.2, []))

theorem test_decode_alu_1 : reads .alu [
    (0x01EEFFC9, [], .mov (.s 27) (.v 95) 9),
    (0x037FE7FF, [], .movi (.v 95) 0x7ff),
    (0x0404163E, [], .sel (.v 1) (.v 2) (.s 3) 14),
    (0x117FDFDF, [], .add (.v 95) (.s 27) .lane 15),
    (0x137FDFDF, [], .sub (.v 95) (.s 27) .lane 15),
    (0x157FDFDF, [], .mul (.v 95) (.s 27) .lane 15),
    (0x177FDFDF, [], .mulhI32 (.v 95) (.s 27) .lane 15),
    (0x197FDFDF, [], .mulhN32 (.v 95) (.s 27) .lane 15),
    (0x1B7FDFDF, [], .mad (.v 95) (.s 27) .lane 15),
    (0x1D780E26, [], .madwI32 (.v 94) (.v 1) (.s 2) 6),
    (0x1F780E26, [], .madwN32 (.v 94) (.v 1) (.s 2) 6),
    (0x217FDFDF, [], .minI32 (.v 95) (.s 27) .lane 15)] = true := by decide +kernel

theorem test_decode_alu_2 : reads .alu [
    (0x237FDFDF, [], .minN32 (.v 95) (.s 27) .lane 15),
    (0x257FDFDF, [], .maxI32 (.v 95) (.s 27) .lane 15),
    (0x277FDFDF, [], .maxN32 (.v 95) (.s 27) .lane 15),
    (0x29EEFFC9, [], .abs (.s 27) (.v 95) 9),
    (0x2BEEFFC9, [], .neg (.s 27) (.v 95) 9),
    (0x317FDFDF, [], .and (.v 95) (.s 27) .lane 15),
    (0x337FDFDF, [], .or (.v 95) (.s 27) .lane 15),
    (0x357FDFDF, [], .xor (.v 95) (.s 27) .lane 15),
    (0x377FDFDF, [], .andn (.v 95) (.s 27) .lane 15),
    (0x39EEFFC9, [], .not (.s 27) (.v 95) 9),
    (0x3B7FDFDF, [], .shl (.v 95) (.s 27) .lane 15),
    (0x3D7FDFDF, [], .shr (.v 95) (.s 27) .lane 15)] = true := by decide +kernel

theorem test_decode_alu_3 : reads .alu [
    (0x3F7FDFDF, [], .sar (.v 95) (.s 27) .lane 15),
    (0x417FDFDF, [], .rol (.v 95) (.s 27) .lane 15),
    (0x51EEFFC9, [], .popc (.s 27) (.v 95) 9),
    (0x53EEFFC9, [], .clz (.s 27) (.v 95) 9),
    (0x55EEFFC9, [], .ctz (.s 27) (.v 95) 9),
    (0x57EEFFC9, [], .brev (.s 27) (.v 95) 9),
    (0x597FDFDF, [], .bfxI32 (.v 95) (.s 27) .lane 15),
    (0x5B7FDFDF, [], .bfxN32 (.v 95) (.s 27) .lane 15),
    (0x5D7FDFDF, [], .bfi (.v 95) (.s 27) .lane 15),
    (0x5F7FDFDF, [], .perm (.v 95) (.s 27) .lane 15),
    (0x617F0C01, [], .addi (.v 95) (.s 1) 0x401),
    (0x637F0C01, [], .andi (.v 95) (.s 1) 0x401)] = true := by decide +kernel

theorem test_decode_alu_4 : reads .alu [
    (0x657F0C01, [], .ori (.v 95) (.s 1) 0x401),
    (0x677F0C01, [], .xori (.v 95) (.s 1) 0x401),
    (0x69EC081F, [], .shli (.s 27) (.v 1) 31),
    (0x6BEC081F, [], .shri (.s 27) (.v 1) 31),
    (0x6DEC081F, [], .sari (.s 27) (.v 1) 31),
    (0x70101017, [], .lea (.v 4) (.v 2) (.v 1) 3 true),
    (0x73EAF026, [], .add64 (.s 26) (.v 94) (.v 2) 6),
    (0x75EAF026, [], .sub64 (.s 26) (.v 94) (.v 2) 6),
    (0x760B27D1, [], .shl64 (.v 2) (.s 4) .lane 1),
    (0x8053F050, [0x64], .icmp 2 .ltN (.lit 0x64) (.v 5) 0),
    (0x83F03007, [], .pand 15 8 1 true false 7),
    (0x85F03007, [], .por 15 8 1 true false 7)] = true := by decide +kernel

theorem test_decode_alu_5 : reads .alu [
    (0x87F03007, [], .pxor 15 8 1 true false 7),
    (0x892C000F, [], .pnot 9 6 15),
    (0x8A0FE7C5, [], .p2v (.v 3) 5),
    (0x8DF01E45, [], .v2p (.v 3) (.s 4) 5),
    (0x900417DC, [], .shfl (.v 1) (.v 2) .lane .xor),
    (0x92798006, [], .vote 3 12 true .uni 6),
    (0x941A6002, [], .ballot (.v 6) 9 true 2),
    (0x96183FC2, [], .lmatch (.v 6) (.v 7) 2),
    (0x98080010, [], .lred (.v 2) (.v 0) (.v 1) .f32)] = true := by decide +kernel

theorem test_decode_xfn_1 : reads .xfn [
    (0x017FDFEF, [0x3F800000], .fadd (.v 95) (.s 27) (.lit 0x3F800000) 15),
    (0x037FDFEF, [0x3F800000], .fsub (.v 95) (.s 27) (.lit 0x3F800000) 15),
    (0x057FDFEF, [0x3F800000], .fmul (.v 95) (.s 27) (.lit 0x3F800000) 15),
    (0x060C2040, [], .ffma (.v 3) (.v 4) (.v 4) 0),
    (0x097FDFEF, [0x3F800000], .ffms (.v 95) (.s 27) (.lit 0x3F800000) 15),
    (0x0B7FDFEF, [0x3F800000], .fmin (.v 95) (.s 27) (.lit 0x3F800000) 15),
    (0x0D7FDFEF, [0x3F800000], .fmax (.v 95) (.s 27) (.lit 0x3F800000) 15),
    (0x0FF81041, [], .fcmp 15 .lt64 (.v 2) (.v 4) 1),
    (0x10041203, [], .fclass (.v 1) (.v 2) .e4m3 3),
    (0x217FDFEF, [0x3F800000], .hadd2F16 (.v 95) (.s 27) (.lit 0x3F800000) 15),
    (0x237FDFEF, [0x3F800000], .hadd2Bf16 (.v 95) (.s 27) (.lit 0x3F800000) 15),
    (0x257FDFEF, [0x3F800000], .hmul2F16 (.v 95) (.s 27) (.lit 0x3F800000) 15)] = true := by decide +kernel

theorem test_decode_xfn_2 : reads .xfn [
    (0x277FDFEF, [0x3F800000], .hmul2Bf16 (.v 95) (.s 27) (.lit 0x3F800000) 15),
    (0x297FDFEF, [0x3F800000], .hfma2F16 (.v 95) (.s 27) (.lit 0x3F800000) 15),
    (0x2B7FDFEF, [0x3F800000], .hfma2Bf16 (.v 95) (.s 27) (.lit 0x3F800000) 15),
    (0x317BD7E8, [0x1, 0x7FF00000], .dadd (.v 94) (.s 26) (.lit 0x7FF0000000000001) 8),
    (0x337BD7E8, [0x1, 0x7FF00000], .dmul (.v 94) (.s 26) (.lit 0x7FF0000000000001) 8),
    (0x357BD7E8, [0x1, 0x7FF00000], .dfma (.v 94) (.s 26) (.lit 0x7FF0000000000001) 8),
    (0x400C0A02, [], .cvt (.v 3) (.v 1) .e4m3 .f32 .rz false),
    (0x420823F8, [], .cvtiF2i (.v 2) (.v 4) .bf16 .n64 .rm),
    (0x420827F8, [], .cvtiI2f (.v 2) (.v 4) .bf16 .n64 .rm),
    (0x440822BA, [], .pack (.v 2) (.v 4) .e5m2 3 .rp true),
    (0x460826F0, [], .unpk (.v 2) (.v 4) .n4 7),
    (0x496AE804, [], .split6 (.v 90) (.v 93) 4)] = true := by decide +kernel

theorem test_decode_xfn_3 : reads .xfn [
    (0x4B6AE804, [], .join6 (.v 90) (.v 93) 4),
    (0x4C04163C, [], .qzpRec (.v 1) (.v 2) (.s 3) .n4),
    (0x4C04163E, [], .qzpQ (.v 1) (.v 2) (.s 3) .n4),
    (0x4E04163C, [], .dq (.v 1) (.v 2) (.s 3) .n4),
    (0x517FDFEF, [0x3F800000], .amax (.v 95) (.s 27) (.lit 0x3F800000) 15),
    (0x52041403, [], .scalex (.v 1) (.v 2) .e2m1 3),
    (0x54041631, [], .scacc (.v 1) (.v 2) (.s 3) true),
    (0x600717C3, [], .frcp (.v 1) (.s 2) 3),
    (0x620717C3, [], .frsq (.v 1) (.s 2) 3),
    (0x640717C3, [], .fsqrt (.v 1) (.s 2) 3),
    (0x660717C3, [], .fexp2 (.v 1) (.s 2) 3),
    (0x680717C3, [], .flog2 (.v 1) (.s 2) 3)] = true := by decide +kernel

theorem test_decode_xfn_4 : reads .xfn [
    (0x6A0717C3, [], .fsin (.v 1) (.s 2) 3),
    (0x6C0717C3, [], .fcos (.v 1) (.s 2) 3),
    (0x6E0717C3, [], .ftanh (.v 1) (.s 2) 3),
    (0x70082061, [], .osmx (.v 2) (.v 4) (.v 6) 1),
    (0x72042861, [], .osmn (.v 1) (.v 5) (.v 6) 1)] = true := by decide +kernel

theorem test_decode_mem_1 : reads .mem [
    (0x000417E8, [0x10], .ld (.v 1) (.v 2) (.lit 0x10) .b32 false),
    (0x021C27C9, [], .st (.v 7) (.v 4) .zero .b32 true),
    (0x04041636, [], .lds (.v 1) (.v 2) (.s 3) .i16),
    (0x0608163A, [], .sts (.v 2) (.v 2) (.s 3) .n64),
    (0x08041636, [], .ldw (.v 1) (.v 2) (.s 3) .i16),
    (0x0A20A862, [], .gld (.v 8) 2 2 true (.v 6) false false 2),
    (0x0C23566F, [], .gst (.v 8) 13 1 false (.s 6) true true 3),
    (0x100C2040, [], .atom (.v 3) (.v 4) false .add .n32 .rlx 0),
    (0x121BD077, [], .cas (.v 6) (.s 26) true .ar 7),
    (0x15F00840, [], .contrib .zero (.v 1) (.v 4) 0),
    (0x162BE620, [], .tstat (.v 10) .zero (.s 2) 0),
    (0x20702660, [], .sload 3 true (.v 4) (.s 6) 0)] = true := by decide +kernel

theorem test_decode_mem_2 : reads .mem [
    (0x222B301C, [], .spoll (.v 10) (.s 6) (.v 1) true true),
    (0x24000660, [], .unsub (.s 6) 0),
    (0x31F02610, [], .pref (.v 4) (.s 1)),
    (0x32000340, [], .fence .dev .rel 0)] = true := by decide +kernel

theorem test_decode_mtx_1 : reads .mtx [
    (0x0194C001, [], .mrsv (.s 5) 3 1),
    (0x03E00001, [], .mrel 15 1),
    (0x053F1041, [], .minit 9 3 true (.s 2) (.v 4) 1),
    (0x1025A0C0, [], .mma 1 2 (.s 8) (.v 24)),
    (0x13DBA360, [], .mmas 14 13 (.s 8) (.s 12)),
    (0x15DBA360, [], .gmma 14 13 (.s 8) (.s 12)),
    (0x1733D801, [], .mguide 9 2 (.s 27) 1),
    (0x20080000, [], .mfin 0 1 0),
    (0x233942C1, [], .mdrainReg 9 3 (.v 80) 2 3 1),
    (0x233BE801, [], .mdrainSpad 9 3 (.s 26) 1),
    (0x233DE801, [], .mdrainTree 9 3 (.s 26) 1),
    (0x253CF801, [], .mstore 9 3 .e5m2 true (.s 24) 1)] = true := by decide +kernel

theorem test_decode_mtx_2 : reads .mtx [
    (0x301A7001, [], .mstatAcc (.v 6) 9 3 1),
    (0x301A7401, [], .mstatEng (.v 6) 9 3 1)] = true := by decide +kernel

theorem test_decode_win : reads .win [
    (0x00008000, [], .wbind 0 (.v 16) .reg 0),
    (0x03F80001, [], .wunb 63 1),
    (0x04008000, [], .touch 0 2 0),
    (0x07FAF801, [], .wstat 63 (.v 95) 1),
    (0x09F80001, [], .wflush 63 1)] = true := by decide +kernel

theorem test_decode_sync : reads .sync [
    (0x00000009, [], .reform 9),
    (0x02000009, [], .yield 9),
    (0x04064003, [], .elect (.v 1) 9 3),
    (0x1007E483, [], .arrive (.v 1) 9 3),
    (0x100414A3, [], .arriveCount (.v 1) (.v 2) 9 3),
    (0x100414C3, [], .arriveExpect (.v 1) (.v 2) 9 3),
    (0x12001483, [], .bwait (.v 2) 9 3),
    (0x14000483, [], .bsync 9 3),
    (0x21C017E3, [0x10], .kdecl 14 (.v 2) (.lit 0x10) 3),
    (0x23CA0003, [], .sign 14 5 3),
    (0x317E0000, [], .waitc .gx 63 0),
    (0x321B3028, [], .mwait (.v 6) (.s 6) (.v 2) true)] = true := by decide +kernel

theorem test_decode_ctl : reads .ctl [
    (0xC03FFFF7, [], .bra 1 0x1ffff7),
    (0xC203D003, [], .brx (.s 26) 3),
    (0xC4100000, [], .call 0 0x100000),
    (0xC603D003, [], .callx (.s 26) 3),
    (0xC8000009, [], .ret 9),
    (0xCA000009, [], .exit 9),
    (0xCC080013, [], .trap 0x8001 3),
    (0xCE080013, [], .enter 0x8001 3),
    (0xD0080013, [], .leave 0x8001 3),
    (0xD2080013, [], .bkpt 0x8001 3),
    (0xD4000000, [], .nop)] = true := by decide +kernel

theorem test_decode_sys_1 : reads .sys [
    (0x00503000, [], .srd (.v 20) 48 0),
    (0x020C0800, [], .swr (.v 3) 8 0),
    (0x04000000, [], .eret),
    (0x11801043, [], .svrf 6 (.v 2) (.v 4) 3),
    (0x13801043, [], .ldrf 6 (.v 2) (.v 4) 3),
    (0x140453E0, [], .svwinWin 2 (.v 20)),
    (0x14FE5320, [], .svwinSlot 63 (.v 20) (.s 4)),
    (0x167E53E0, [], .ldwinWin 63 (.v 20)),
    (0x16FE5320, [], .ldwinSlot 63 (.v 20) (.s 4)),
    (0x20801043, [], .tlbi true (.v 2) (.v 4) 3),
    (0x220827E3, [0x10001], .grant (.v 2) (.v 4) (.lit 0x10001) 3),
    (0x24000000, [], .haltThread)] = true := by decide +kernel

theorem test_decode_sys_2 : reads .sys [
    (0x24800000, [], .haltGroup),
    (0x25000000, [], .haltKernel),
    (0x25800000, [], .haltPark),
    (0x26000070, [], .mark 7 0)] = true := by decide +kernel

theorem test_decode_pre : reads .alu [
    (0xFE03C000, [], .rep 3 6),
    (0xFE600000, [], .scope .pod)] = true := by decide +kernel

/-! Single steps: expected values from the spec's worked examples, or worked out by hand from its rules. -/

/-- A machine at a word of class `c`; registers v0 on hold `vs`, the rest 0. -/
def holding (c : Cls) (vs : List Word) : State :=
  (demo c [0x00000000]).updThr 0 fun x => { x with v := vs.map Reg.full ++ List.replicate (96 - vs.length) (.full 0) }

/-- Whether an instruction leaves registers of thread 0 as listed. -/
def gives (i : Instr) (s : State) (rs : List (Nat × Word)) : Bool :=
  nextB (exec i s) fun t => rs.all fun r => (t.thr 0).reg r.1 == .full r.2

/-- BFX and BFI of file 05's example: pos 12, width 8. -/
theorem test_bit_fields : gives (.bfxN32 (.v 4) (.v 0) (.v 1) 0) (holding .alu [0xABCD1234, 0x080C]) [(4, 0xD1)] ∧
    gives (.bfxI32 (.v 4) (.v 0) (.v 1) 0) (holding .alu [0xABCD1234, 0x080C]) [(4, 0xFFFFFFD1)] ∧
    gives (.bfi (.v 2) (.v 0) (.v 1) 0) (holding .alu [0x5A, 0x080C, 0xFFFFFFFF]) [(2, 0xFFF5AFFF)] := by decide +kernel

/-- LEA of file 05's example, signed and unsigned. -/
theorem test_lea : gives (.lea (.v 4) (.v 2) (.v 1) 3 true) (holding .alu [0, 0xFFFFFFFE, 0x1000, 0x7F00]) [(4, 0xFF0), (5, 0x7F00)] ∧
    gives (.lea (.v 4) (.v 2) (.v 1) 3 false) (holding .alu [0, 0xFFFFFFFE, 0x1000, 0x7F00]) [(4, 0xFF0), (5, 0x7F08)] := by
  decide +kernel

/-- Wraps and signs: ADD past 2^32, ABS of the least number, the high halves of −1 × −1, a source that is the destination. -/
theorem test_integers : gives (.add (.v 0) (.v 0) (.v 0) 0) (holding .alu [0x80000001]) [(0, 2)] ∧
    gives (.sub (.v 1) .zero (.v 0) 0) (holding .alu [1]) [(1, 0xFFFFFFFF)] ∧
    gives (.abs (.v 1) (.v 0) 0) (holding .alu [0x80000000]) [(1, 0x80000000)] ∧
    gives (.mulhI32 (.v 1) (.v 0) (.v 0) 0) (holding .alu [0xFFFFFFFF]) [(1, 0)] ∧
    gives (.mulhN32 (.v 1) (.v 0) (.v 0) 0) (holding .alu [0xFFFFFFFF]) [(1, 0xFFFFFFFE)] ∧
    gives (.mad (.v 1) (.v 0) (.v 0) 0) (holding .alu [3, 5]) [(1, 14)] ∧
    gives (.madwI32 (.v 2) (.v 0) (.v 1) 0) (holding .alu [0xFFFFFFFF, 1, 0, 0]) [(2, 0xFFFFFFFF), (3, 0xFFFFFFFF)] ∧
    gives (.movi (.v 1) 0x400) (holding .alu []) [(1, 0xFFFFFC00)] ∧
    gives (.add64 (.v 2) (.v 0) (.v 0) 0) (holding .alu [0x80000000, 1]) [(2, 0), (3, 3)] ∧
    gives (.shl (.v 1) (.v 0) (.lit 32) 0) (holding .alu [1, 7]) [(1, 0)] ∧
    gives (.sar (.v 1) (.v 0) (.lit 40) 0) (holding .alu [0x80000000]) [(1, 0xFFFFFFFF)] ∧
    gives (.rol (.v 1) (.v 0) (.lit 33) 0) (holding .alu [0x80000001]) [(1, 3)] ∧
    gives (.clz (.v 1) (.v 0) 0) (holding .alu [0]) [(1, 32)] ∧ gives (.ctz (.v 1) (.v 0) 0) (holding .alu [8]) [(1, 3)] ∧
    gives (.brev (.v 1) (.v 0) 0) (holding .alu [1]) [(1, 0x80000000)] := by decide +kernel

/-- A failing guard writes nothing, and the unit goes on; p0 reads true (R73). -/
theorem test_guard : gives (.add (.v 0) (.v 0) (.v 0) 1) (holding .alu [5]) [(0, 5)] ∧
    nextB (exec (.add (.v 0) (.v 0) (.v 0) 1) (holding .alu [5])) (fun t => t.unit.hdr == 0x40000008) = true := by decide +kernel

/-- ICMP of file 05's example: 100 < v5, unsigned. -/
theorem test_icmp : nextB (exec (.icmp 2 .ltN (.lit 100) (.v 0) 0) (holding .alu [0xFFFFFFFF])) (fun t => (t.thr 0).preds.getLsbD 2) = true ∧
    nextB (exec (.icmp 2 .ltN (.lit 100) (.v 0) 0) (holding .alu [100])) (fun t => !(t.thr 0).preds.getLsbD 2) = true := by decide +kernel

/-- CVT of file 06's example: 304 to E4M3, to the nearest and towards zero; 500 saturates. -/
theorem test_cvt : gives (.cvt (.v 3) (.v 1) .e4m3 .f32 .rn false) (holding .xfn [0, 0x43980000]) [(3, 0x7A)] ∧
    gives (.cvt (.v 3) (.v 1) .e4m3 .f32 .rz false) (holding .xfn [0, 0x43980000]) [(3, 0x79)] ∧
    gives (.cvt (.v 3) (.v 1) .e4m3 .f32 .rp false) (holding .xfn [0, 0x43FA0000]) [(3, 0x7E)] := by decide +kernel

/-- QZP and DQ of file 06's example: .n8 from −1 to 3. -/
theorem test_qzp : gives (.qzpRec (.v 2) (.v 0) (.v 1) .n8) (holding .xfn [0xBF800000, 0x40400000]) [(2, 0x00402404)] ∧
    gives (.qzpQ (.v 2) (.v 0) (.v 1) .n8) (holding .xfn [0x3F800000, 0x00402404]) [(2, 128)] ∧
    gives (.dq (.v 2) (.v 0) (.v 1) .n8) (holding .xfn [128, 0x00402404]) [(2, 0x3F808000)] := by decide +kernel

/-- Float sums and products: 1 + 2^−24 ties to even, −0 + 0 is +0, FFMA rounds once, a NaN is never equal to itself. -/
theorem test_floats : gives (.fadd (.v 2) (.v 0) (.v 1) 0) (holding .xfn [0x3F800000, 0x33800000]) [(2, 0x3F800000)] ∧
    gives (.fadd (.v 2) (.v 0) (.v 1) 0) (holding .xfn [0x80000000, 0]) [(2, 0)] ∧
    gives (.fmul (.v 2) (.v 0) (.v 1) 0) (holding .xfn [0x40400000, 0xC0000000]) [(2, 0xC0C00000)] ∧
    gives (.ffma (.v 2) (.v 0) (.v 1) 0) (holding .xfn [0x3F800001, 0x3F800001, 0xBF800002]) [(2, 0x28800000)] ∧
    nextB (exec (.fcmp 1 .ne32 (.v 0) (.v 0) 0) (holding .xfn [0x7FC00000])) (fun t => (t.thr 0).preds.getLsbD 1) = true ∧
    gives (.hadd2F16 (.v 2) (.v 0) (.v 1) 0) (holding .xfn [0x3C003C00, 0x40003C00]) [(2, 0x42004000)] := by decide +kernel

/-- SPLIT6 keeps a group's bits in its two planes; JOIN6 puts them together again (R34, R134). -/
theorem test_planes : nextB (exec (.split6 (.v 3) (.v 0) 0) (holding .xfn [0x12345678, 0x9ABCDEF0, 0x0F1E2D3C])) (fun t =>
    gives (.join6 (.v 6) (.v 3) 0) (t.updUnit 0 fun u => { u with hdr := 0x40000000, idx := 1, words := [0x21000000, 0] })
      [(6, 0x12345678), (7, 0x9ABCDEF0), (8, 0x0F1E2D3C)]) = true := by decide +kernel

/-- The seeded pattern of file 13's example: seed 1, row 0, chunk 0. -/
theorem test_sparse : sparseWord 1 0 0 = 0x4D29FEFF ∧ keptAt 1 1 0 0 = [1, 2, 4, 7, 10, 11, 14, 15] := by decide +kernel

/-- The guided combinations of file 13's examples. -/
theorem test_guided : guided 0x40F00000 0x3FC00000 0x3F800000 = 0x40980000 ∧
    guided 0x3F800000 0x4B800001 0xBF800000 = 0x4B800002 := by decide +kernel

/-- The chunk of file 02's example: 448 − 448 and fourteen small products give +0. -/
theorem test_chunk : chunkF 24 ([(0x7E, 0x38), (0xFE, 0x38)] ++ List.replicate 14 (0x03, 0x02) |>.map fun (p : Nat × Nat) =>
    mulV (decodeF e4m3 false p.1) (decodeF e4m3 false p.2)) = 0 := by decide +kernel

/-- Four lanes that hold an index in v0 and a value in v1. -/
def fourLanes : State :=
  let s := demo .alu [0x98080010]
  let th := fun (k : Nat) (i x : Word) =>
    ({ group := 0, idx := k, core := 0, v := .full i :: .full x :: List.replicate 94 (.full 7) } : Thread)
  { s with
    threads := [th 0 3 0xBF800000, th 1 0 0x3F800000, th 2 2 0x33800000, th 3 1 0x33800000],
    units := s.units.map fun u => { u with lanes := [(0, 0), (1, 1), (2, 2), (3, 3)] } }

/-- LRED.f32 of file 07's example: four lanes with indices 3, 0, 2, 1; every lane receives 2^−24. -/
theorem test_lred : nextB (exec (.lred (.v 2) (.v 1) (.v 0) .f32) fourLanes) (fun t => (t.thr 3).reg 2 == .full 0x33800000) = true := by
  decide +kernel

/-- SHFL.xor swaps neighbours; an s register takes the lowest lane's value (R72, R149). -/
theorem test_lanes :
    let s := pairDemo .alu [0x00000000]
    let s := s.updThr 0 fun x => { x with v := .full 5 :: x.v.drop 1 }
    nextB (exec (.shfl (.v 1) (.v 0) (.lit 1) .xor) s) (fun t =>
      (t.thr 0).reg 1 == .full 7 && (t.thr 1).reg 1 == .full 5) = true ∧
    nextB (exec (.mov (.s 3) (.v 0) 0) s) (fun t => ((t.grp 0).s[3]?) == some (.full 5)) = true ∧
    nextB (exec (.ballot (.v 2) 0 false 0) s) (fun t => (t.thr 1).reg 2 == .full 3 && (t.thr 1).reg 3 == .full 0) = true := by
  decide +kernel

/-- A misaligned load traps to the handler, with the word as its resume point, and writes nothing (R258, R398, R400). -/
theorem test_misaligned_load : nextB (exec (.ld (.v 4) (.v 0) (.lit 3) .b32 false) memDemo) (fun t =>
    (t.thr 0).hmode == 1 && (t.thr 0).resume == 0x0200000040000000 &&
    (t.unitAt (t.units.length - 1)).hdr == 0x40000100 && (t.thr 0).reg 4 == .full 0) = true := by decide +kernel

/-- Memory is little-endian (R9), and writing zero back leaves the form of an unwritten byte. -/
theorem test_bytes : (memDemo.writePhys 0x41000000 (valBytes 4 0x04030201)).readPhys 0x41000000 2 = some [1, 2] ∧
    ((memDemo.writePhys 0x41000000 [9]).writePhys 0x41000000 [0]).sto.mem = memDemo.sto.mem := by decide +kernel

/-- TRAP enters the handler with class 1 code 4 or its own code in the record; ERET goes back behind it. -/
theorem test_trap : nextB (exec (.trap 0x1234 0) (demo .ctl [0xCC012340])) (fun t =>
    (t.thr 0).hmode == 1 && (t.unitAt (t.units.length - 1)).hdr == 0x40000100) = true := by decide +kernel

/-- EXIT ends its thread (R156). -/
theorem test_exit : nextB (exec (.exit 0) (demo .ctl [0xCA000000])) (fun t => (t.thr 0).life == .exited) = true := by
  decide +kernel

/-- SRD reads sr.clk; a write to sr.mode sets its flush bits and clears its sticky bits (R11, R42, R164). -/
theorem test_special : nextB (exec (.srd (.v 2) 0x0E 0) { demo .sys [0x00080E00] with clk := 0x100000005 }) (fun t =>
    (t.thr 0).reg 2 == .full 5 && (t.thr 0).reg 3 == .full 1) = true ∧
    nextB (exec (.swr (.lit 0xFFFFFFFF) 8 0) (demo .sys [0x03F80800])) (fun t => (t.thr 0).mode == 0xFF) = true := by
  decide +kernel

/-- ARRIVE completes the phase of a barrier that expects one arrival (R196). -/
theorem test_arrive : nextB (exec (.arrive (.v 5) 3 0) (barDemo 1)) (fun t =>
    (t.bar 3).phase == 2 && (t.bar 3).count == 0 && (t.thr 0).reg 5 == .full 1) = true := by decide +kernel

/-- A step fetches, decodes and runs the word, and the clock moves on. -/
theorem test_step : nextB (step (State.reset.fetchState 0x117FDFDF)) (fun t => t.unit.idx == 2 || t.unit.words == []) = true := by
  decide +kernel

/-! The assembler, on the worked examples of R93 and R117. -/

/-- The words that lines of text assemble to. -/
def assembled (l : List String) : Option (List Nat) :=
  (AsmState.lines {} (l.map String.toList)).bind fun s => (assemble s.text).map fun x =>
    (entriesOf 4 x.bytes).map bytesVal

theorem test_assemble_worked_clause :
    assembled ["loop:   REP     4, da", "        ADD     v8, v0, 256 ; literal", "        ADDI    v12, v12, 16",
      "        (p1) BRA loop"] = some [0x51000000, 0xFE03C000, 0x102007E0, 0x60306010, 0xC0200000, 0x100] := by
  decide

theorem test_assemble_splits_clauses :
    assembled ["loop: REP 4, da", "ADD v8, v0, 256", "ADDI v12, v12, 16", "FADD v1, v2, v3", "(p1) BRA loop"] =
      some [0x41000000, 0xFE03C000, 0x102007E0, 0x60306010, 0x100, 0x22000000, 0x00041030, 0xC03FFFFB] := by
  decide

theorem test_assemble_exchanged_comparison :
    ((readInstr [] (readLine "ICMP.gt.n32 p2, v5, 100".toList)).bind fun x => (encode x.1).map fun e => (e.word, e.lits)) =
      some (0x8053F050, [0x64]) := by
  decide

theorem test_assemble_refuses : assembled ["(p1) SHFL.up v1, v2, v3"] = none ∧ assembled ["(p16) ADD v1, v2, v3"] = none ∧
    assembled ["ADD64 v0, v1, v2"] = none := by
  decide

end Sys2Proof.Tests
end

section
/-!
PROOFS. The shifts and the rotate (R110): each word function as a function of the count that b holds, read unsigned.
-/

namespace Sys2Proof.Proofs

open Sys2Proof.Machine Sys2Proof.Safety Sys2Proof.Laws

/-! The word functions, by the count. -/

/-- A left shift multiplies, and from 32 on nothing of x is left. -/
theorem shlW_eq_mul (x y : Word) :
    shlW x y = if 32 ≤ y.toNat then 0 else BitVec.ofNat 32 (x.toNat * 2 ^ y.toNat) := by
  unfold shlW
  split
  · rfl
  · apply BitVec.eq_of_toNat_eq
    rw [BitVec.toNat_shiftLeft, BitVec.toNat_ofNat, Nat.shiftLeft_eq]

/-- A logical right shift divides, and from 32 on nothing of x is left. -/
theorem shrW_eq_div (x y : Word) :
    shrW x y = if 32 ≤ y.toNat then 0 else BitVec.ofNat 32 (x.toNat / 2 ^ y.toNat) := by
  unfold shrW
  split
  · rfl
  · have hlt : x.toNat / 2 ^ y.toNat < 2 ^ 32 := (Nat.div_le_self _ _).trans_lt x.isLt
    apply BitVec.eq_of_toNat_eq
    rw [BitVec.toNat_ushiftRight, BitVec.toNat_ofNat, Nat.shiftRight_eq_div_pow, Nat.mod_eq_of_lt hlt]

/-- An arithmetic right shift by 31 leaves the sign in every bit. -/
theorem sshiftRight_31 (x : Word) : x.sshiftRight 31 = if x.msb then 0xFFFFFFFF else 0 := by
  have hlo : -2 ^ 31 ≤ x.toInt := x.le_toInt
  have hhi : x.toInt < 2 ^ 31 := x.toInt_lt
  apply BitVec.eq_of_toInt_eq
  rw [BitVec.toInt_sshiftRight, Int.shiftRight_eq_div_pow, BitVec.msb_eq_toInt]
  by_cases hneg : x.toInt < 0
  · have hq : x.toInt / 2147483648 = -1 := by omega
    simp [hneg, hq]
  · have hq : x.toInt / 2147483648 = 0 := by omega
    simp [hneg, hq]

/-- An arithmetic right shift divides the signed value, rounding down, and from 32 on the sign is left in every bit. -/
theorem sarW_eq_div (x y : Word) :
    sarW x y = if 32 ≤ y.toNat then (if x.msb then 0xFFFFFFFF else 0) else BitVec.ofInt 32 (x.toInt / 2 ^ y.toNat) := by
  unfold sarW
  split
  · next h => rw [Nat.min_eq_right (by omega), sshiftRight_31]
  · next h =>
    rw [Nat.min_eq_left (by omega), BitVec.sshiftRight, Int.shiftRight_eq_div_pow]
    simp

/-- A rotate is two shifts by the count modulo 32; by a multiple of 32 it changes nothing. -/
theorem rolW_eq_shifts (x y : Word) :
    rolW x y = if y.toNat % 32 = 0 then x else x <<< (y.toNat % 32) ||| x >>> (32 - y.toNat % 32) := by
  unfold rolW
  rw [BitVec.rotateLeft_def, Nat.mod_mod]
  split
  · next h => simp [h, BitVec.ushiftRight_eq_zero]
  · rfl

/-! The words. -/

/-- SHL is an integer word on `shlW`. -/
theorem exec_shl (d a b : Opnd) (g : Nat) (s : State) : exec (.shl d a b g) s = s.run (int2 g d a b shlW) := rfl

/-- SHR is an integer word on `shrW`. -/
theorem exec_shr (d a b : Opnd) (g : Nat) (s : State) : exec (.shr d a b g) s = s.run (int2 g d a b shrW) := rfl

/-- SAR is an integer word on `sarW`. -/
theorem exec_sar (d a b : Opnd) (g : Nat) (s : State) : exec (.sar d a b g) s = s.run (int2 g d a b sarW) := rfl

/-- ROL is an integer word on `rolW`. -/
theorem exec_rol (d a b : Opnd) (g : Nat) (s : State) : exec (.rol d a b g) s = s.run (int2 g d a b rolW) := rfl

/-- Settles O2: each word is an integer word, and its function is the one stated of the whole count. -/
theorem shiftCountsAreWholeRegisters : Obligations.ShiftCountsAreWholeRegisters := by
  unfold Obligations.ShiftCountsAreWholeRegisters
  intro s d a b g h
  refine ⟨?_, ?_, ?_, ?_⟩
  · simp only [exec_shl, int2_gives h, shlW_eq_mul]
  · simp only [exec_shr, int2_gives h, shrW_eq_div]
  · simp only [exec_sar, int2_gives h, sarW_eq_div]
  · simp only [exec_rol, int2_gives h, rolW_eq_shifts]

end Sys2Proof.Proofs
end

section
/-!
PROOFS. A precise fault in a thread that is alone in its unit, in a program (R400): the thread leaves the unit for a new one at
HANDLER, with its record, its resume point and sr.hmode 1; memory and the work in flight stay as they are.
-/

namespace Sys2Proof.Proofs

open Sys2Proof.Machine Sys2Proof.Safety Sys2Proof.Laws

/-! Lists and threads by position. -/

/-- The entries of a list once the one at a position has changed. -/
theorem getElem?_upd {α : Type} (l : List α) (n : Nat) (f : α → α) (m : Nat) :
    (upd l n f)[m]? = if m = n then l[m]?.map f else l[m]? := by
  induction l generalizing n m with
  | nil => simp [upd]
  | cons x r ih => cases n with
    | zero => cases m <;> simp [upd]
    | succ k => cases m with
      | zero => simp [upd]
      | succ j => simpa [upd] using ih k j

/-- A change in the first part of a list leaves the second part alone. -/
theorem upd_append_left {α : Type} {l : List α} {n : Nat} (h : n < l.length) (r : List α) (f : α → α) :
    upd (l ++ r) n f = upd l n f ++ r := by
  induction l generalizing n with
  | nil => simp at h
  | cons x l ih => cases n with
    | zero => rfl
    | succ k => simp [upd, ih (n := k) (by simpa using h)]

/-- A thread that exists, once it has been changed. -/
theorem thr_updThr_self {s : State} {k : Nat} (h : k < s.threads.length) (f : Thread → Thread) :
    (s.updThr k f).thr k = f (s.thr k) := by
  simp [State.thr, getElem?_upd, h]

/-- A change of no participant's thread changes nothing. -/
theorem each_nil (s : State) (f : Nat × Nat → Thread → Thread) : s.each [] f = s := by
  simp [State.each, mapFrom_id]

/-- Memory reads the same where the memory layer and the counter of the free values are the same. -/
theorem sameMemory_of_sto {s t : State} (hs : t.sto = s.sto) (hf : t.fresh = s.fresh) : SameMemory s t := by
  intro a
  have hm : t.memByte a = s.memByte a := by rw [State.memByte, State.memByte, State.pick, State.pick, hs, hf]
  exact ⟨hm, by rw [hs], by rw [hs]⟩

/-! What the faults of a word do besides the faults themselves. -/

/-- The end of a clause writes no packet where no trace is on. -/
theorem clauseTrace_untraced {s : State} (h : Untraced s) (ending n : Nat) (target : Dword) :
    s.clauseTrace ending n target = s := by
  have hd : (s.ctx (s.launchOfUnit s.cur).ctx).debug = none := h
  simp [State.clauseTrace, hd]

/-- Only a fault that names its own PC can be that of a suspended operation (R293). -/
theorem tellTrap_of_pc_none {f : Trap} (h : f.pc = none) (s : State) (t : Nat) : s.tellTrap t f = s := by
  have hn : ∀ o : MOp, o.suspTrap ≠ some { f with resume := none } := by
    intro o ho
    obtain ⟨x, -, hx⟩ := Option.map_eq_some_iff.1 ho
    simpa [h] using congrArg Trap.pc hx
  have hu : s.untold t (fun k => (s.fly.mops.find? fun o => o.id == k).bind MOp.suspTrap == some { f with resume := none })
      = none := by
    simp only [State.untold, List.find?_eq_none]
    intro o _ hc
    simp only [Bool.and_eq_true, beq_iff_eq] at hc
    obtain ⟨x, -, hx⟩ := Option.bind_eq_some_iff.1 hc.2
    exact hn x hx
  simp [State.tellTrap, hu]

/-- One fault of the word itself, in a unit that is not traced. -/
theorem takeAll_one {s : State} (h : Untraced s) {f : Trap} (hf : f.pc = none) (p : Nat × Nat) :
    s.takeAll (fun s _ => s) [(p, f)] = s.takeTrap p f := by
  simp only [State.takeAll, clauseTrace_untraced h, ite_self, List.foldl_cons, List.foldl_nil, tellTrap_of_pc_none hf,
    State.takeTraps]

/-! The fault of a lone thread. -/

/-- What a precise fault writes into sr.frec (R398, R400). -/
def trapInfo (s : State) (p : Nat × Nat) (f : Trap) : FaultInfo :=
  { s.infoOf p.2 with
    pc := f.pc.getD s.pc, addr := f.addr, access := f.access, cls := f.cls, code := f.code, aux := f.aux,
    rep := s.repLeft p.2, resume := f.resume.getD s.resumeHere }

/-- A fault in a program whose HANDLER is a clause header goes to the handler. -/
theorem takeTrap_program {s : State} {p : Nat × Nat} (hm : (s.thr p.2).hmode = 0)
    (ht : s.targetBad (launchAt s p) (s.ctxOf p.2).handler = false) (f : Trap) :
    ∃ ask, s.takeTrap p f = s.vector [(p, trapInfo s p f)] 1 (s.ctxOf p.2).handler ask := by
  have ht' : s.targetBad (s.team (s.teamOf p.2)).launch (s.ctxOf p.2).handler = false := ht
  refine ⟨s.unit.stopAsk.or (if s.unit.stepping then some 5 else none), ?_⟩
  simp only [State.takeTrap, trapInfo, hm, ht', if_true, Bool.false_eq_true, if_false]

section

variable (s : State) (p : Nat × Nat) (x : FaultInfo) (mode : Nat) (target : Dword) (ask : Option Nat)

/-- The units that a vectoring thread leaves: its own without it, and behind them a new one at the target. -/
theorem vector_units : ∃ u : IssueUnit, (s.vector [(p, x)] mode target ask).units = (s.leaveUnit p.2).units ++ [u] ∧
    u.live = true ∧ u.lanes = [p] ∧ u.hdr = target ∧ u.idx = 0 ∧ u.words = [] :=
  ⟨_, rfl, rfl, rfl, rfl, rfl, rfl⟩

/-- The thread that vectors: its record, resume point, mode and sr.repcount. -/
theorem vector_thr (h : p.2 < s.threads.length) : (s.vector [(p, x)] mode target ask).thr p.2 =
    { s.thr p.2 with frec := x.words, resume := x.resume, hmode := mode, repcount := x.rep, resuming := false } :=
  thr_updThr_self (s := s.leaveUnit p.2) h _

end

/-- The unit that its only thread leaves is empty, and no longer live. -/
theorem vector_unit_gone {s : State} {p : Nat × Nat} (hl : s.unit.lanes = [p]) (hc : s.cur < s.units.length)
    (x : FaultInfo) (mode : Nat) (target : Dword) (ask : Option Nat) :
    (s.vector [(p, x)] mode target ask).unit.live = false ∧ (s.vector [(p, x)] mode target ask).unit.lanes = [] := by
  obtain ⟨u, hu, -⟩ := vector_units s p x mode target ask
  have hn : (s.leaveUnit p.2).units[s.cur]? = some { s.unit with lanes := [], live := false } := by
    have hs : s.units[s.cur] = s.unit := by simp [State.unit, State.unitAt, hc]
    simp [State.leaveUnit, hc, hs, hl]
  have hg : (s.vector [(p, x)] mode target ask).unit = { s.unit with lanes := [], live := false } := by
    have hcur : (s.vector [(p, x)] mode target ask).cur = s.cur := rfl
    rw [State.unit, State.unitAt, hcur, hu, List.getElem?_append_left (by simpa [State.leaveUnit] using hc), hn]
    rfl
  simp [hg]

/-- The issue of a word by a unit that its threads have left changes no thread. -/
theorem issued_threads {s : State} (h : s.unit.lanes = []) : s.issued.threads = s.threads := by
  simp only [State.issued, h, each_nil, updUnit_threads]

/-- A fault in a program of a thread that is alone in its unit, once the word has issued. -/
theorem takeTrap_alone {s : State} {p : Nat × Nat} (hs : UnitOk s) (hl : s.unit.lanes = [p]) (hm : (s.thr p.2).hmode = 0)
    (ht : s.targetBad (launchAt s p) (s.ctxOf p.2).handler = false) (f : Trap) :
    (s.takeTrap p f).unit.live = false ∧
    SameMemory s (s.takeTrap p f).issued ∧
    (s.takeTrap p f).issued.thr p.2 =
      { s.thr p.2 with
        frec := (trapInfo s p f).words, resume := (trapInfo s p f).resume, hmode := 1, repcount := (trapInfo s p f).rep,
        resuming := false } ∧
    StandsAt (s.takeTrap p f).issued p (s.ctxOf p.2).handler ∧
    (s.takeTrap p f).issued.fly = s.fly ∧ (s.takeTrap p f).issued.fw = s.fw ∧ (s.takeTrap p f).issued.bar0 = s.bar0 := by
  obtain ⟨ask, hv⟩ := takeTrap_program hm ht f
  obtain ⟨hlive, hgone⟩ := vector_unit_gone hl hs.at_ (trapInfo s p f) 1 (s.ctxOf p.2).handler ask
  obtain ⟨u, hu, hstands⟩ := vector_units s p (trapInfo s p f) 1 (s.ctxOf p.2).handler ask
  rw [hv]
  refine ⟨hlive, sameMemory_of_sto rfl rfl, ?_, ⟨u, ?_, ?_⟩, rfl, rfl, rfl⟩
  · rw [State.thr, issued_threads hgone]
    exact vector_thr s p _ 1 _ ask (hs.threads p (by simp [hl]))
  · have hc : s.cur < (s.leaveUnit p.2).units.length := by simpa [State.leaveUnit] using hs.at_
    simp only [State.issued, hgone, each_nil, updUnit_units, hu]
    rw [show (s.vector [(p, trapInfo s p f)] 1 (s.ctxOf p.2).handler ask).cur = s.cur from rfl, upd_append_left hc]
    simp
  · obtain ⟨hlive, hlanes, hat⟩ := hstands
    exact ⟨hlive, by simp [hlanes], hat⟩

end Sys2Proof.Proofs
end

section
/-!
PROOFS. Privileged words in a thread without privilege (R392, R399).
-/

namespace Sys2Proof.Proofs

open Sys2Proof.Machine Sys2Proof.Safety Sys2Proof.Laws

/-- A thread is privileged in a handler or the save routine, or by its context's SYS. -/
theorem privileged_iff (s : State) (k : Nat) : s.privileged k = true ↔ (s.thr k).hmode ≠ 0 ∨ (s.ctxOf k).sys = true := by
  simp [State.privileged]

/-! The words that ask for privilege, with their guards and operands. -/

/-- A word with a guard and operands that asks for privilege before anything else. -/
def PrivilegedWord (i : Instr) (g : Nat) (us : List Use) : Prop :=
  ∃ (w : Work) (go : State → Out), (∀ s, exec i s = s.withPriv w go) ∧ w.guard = g ∧ w.uses = us

/-- SWR asks for privilege for every register but sr.mode. -/
theorem privilegedWord_swr (a : Opnd) {n : Nat} (g : Nat) (h : n ≠ 0x08) :
    PrivilegedWord (.swr a n g) g [srcUse a (if srWide n then 2 else 1) 0] :=
  ⟨_, fun s => s.run _, fun _ => if_neg h, rfl, rfl⟩

/-- ERET and the HALTs ask for privilege. -/
theorem privilegedWord_leaving {i : Instr}
    (h : i = .eret ∨ i = .haltThread ∨ i = .haltGroup ∨ i = .haltKernel ∨ i = .haltPark) : PrivilegedWord i 0 [] := by
  rcases h with rfl | rfl | rfl | rfl | rfl <;> exact ⟨_, fun s => s.run _, fun _ => rfl, rfl, rfl⟩

/-- SVRF and LDRF ask for privilege. -/
theorem privilegedWord_block {i : Instr} {k g : Nat} {a b : Opnd} (h : i = .svrf k a b g ∨ i = .ldrf k a b g) :
    PrivilegedWord i g [srcUse a 2 0, srcUse b 1 0] := by
  rcases h with rfl | rfl
  · exact ⟨_, fun s => s.run _, fun _ => rfl, rfl, rfl⟩
  · exact ⟨_, fun s => s.runAfter _ _, fun _ => rfl, rfl, rfl⟩

/-- SVWIN and LDWIN of a window ask for privilege. -/
theorem privilegedWord_window {i : Instr} {e : Nat} {a : Opnd} (h : i = .svwinWin e a ∨ i = .ldwinWin e a) :
    PrivilegedWord i 0 [lowUse a 2] := by
  rcases h with rfl | rfl
  · exact ⟨_, fun s => s.run _, fun _ => rfl, rfl, rfl⟩
  · exact ⟨_, fun s => s.runAfter _ _, fun _ => rfl, rfl, rfl⟩

/-- SVWIN and LDWIN of a slot ask for privilege. -/
theorem privilegedWord_slot {i : Instr} {e : Nat} {a b : Opnd} (h : i = .svwinSlot e a b ∨ i = .ldwinSlot e a b) :
    PrivilegedWord i 0 [lowUse a 2, lowUse b 1] := by
  rcases h with rfl | rfl
  · exact ⟨_, fun s => s.run _, fun _ => rfl, rfl, rfl⟩
  · exact ⟨_, fun s => s.runAfter _ _, fun _ => rfl, rfl, rfl⟩

/-- TLBI asks for privilege. -/
theorem privilegedWord_tlbi (y : Bool) (a b : Opnd) (g : Nat) :
    PrivilegedWord (.tlbi y a b g) g [srcUse a (if y then 2 else 1) 0, srcUse b 1 0] :=
  ⟨_, fun s => s.run _, fun _ => rfl, rfl, rfl⟩

/-- GRANT asks for privilege. -/
theorem privilegedWord_grant (d a b : Opnd) (g : Nat) :
    PrivilegedWord (.grant d a b g) g [dstUse d 2 false, srcUse a 1 0, srcUse b 1 0] :=
  ⟨_, fun s => s.run _, fun _ => rfl, rfl, rfl⟩

/-! The trap. -/

/-- The illegal-instruction trap of a word that asks for a privilege which its thread has not. -/
def privTrap : Trap := { cls := 1, code := 4 }

/-- A privileged word whose registers exist, in a thread without privilege that is alone in its unit, does no more than trap. -/
theorem PrivilegedWord.traps {i : Instr} {g : Nat} {us : List Use} (hi : PrivilegedWord i g us) {s : State} {p : Nat × Nat}
    (hu : Untraced s) (hp : s.parts g = [p]) (hn : s.privileged p.2 = false)
    (hb : ∀ u ∈ us, u.bad s.unit.rep (s.grp s.unit.group).budget = false)
    (hd : (s.takeTrap p privTrap).unit.live = false) : exec i s = .next (s.takeTrap p privTrap).issued := by
  obtain ⟨w, go, hx, rfl, rfl⟩ := hi
  have hfit : (w.uses.any fun u => u.bad s.unit.rep (s.grp s.unit.group).budget) = false :=
    List.any_eq_false.2 fun u h => by simp [hb u h]
  have hbad : (s.parts w.guard).filter (fun q => !s.privileged q.2) = [p] := by simp [hp, hn]
  have hta : s.takeAll (fun s _ => s) [(p, privTrap)] = s.takeTrap p privTrap := takeAll_one hu rfl p
  have hmap : ([p].map fun q => (q, ({ cls := 1, code := 4 } : Trap))) = [(p, privTrap)] := rfl
  simp only [hx, State.withPriv, hfit, hbad, hmap, hta, hd, List.cons_ne_nil, decide_false, Bool.false_or,
    Bool.false_eq_true, if_false]

/-- Its record outside REP names the word, CLASS 1 and CODE 4, and the word as the resume point. -/
theorem trapInfo_privTrap {s : State} (hr : s.unit.rep = none) (p : Nat × Nat) :
    trapInfo s p privTrap = { s.infoOf p.2 with
      pc := s.pc, cls := 1, code := 4, rep := (s.thr p.2).repcount, resume := resumeOf s.unit.hdr s.unit.idx } := by
  simp [trapInfo, privTrap, State.infoOf, State.resumeHere, State.repLeft, hr]

/-- Settles O33: each word is a privileged one with its guard and operands, and such a word does no more than trap. -/
theorem privilegedWordsTrapInPrograms : Obligations.PrivilegedWordsTrapInPrograms := by
  unfold Obligations.PrivilegedWordsTrapInPrograms
  refine ⟨privileged_iff, ?_⟩
  intro s i g p hs hu hr hl hp hm hy ht fit hw
  obtain ⟨us, hi, hb⟩ : ∃ us, PrivilegedWord i g us ∧ fit us := by
    rcases hw with ⟨a, n, rfl, hn, hf⟩ | ⟨rfl, h⟩ | ⟨k, a, b, h, hf⟩ | ⟨y, a, b, rfl, hf⟩ |
      ⟨rfl, e, a, b, ⟨h, hf⟩ | ⟨h, hf⟩⟩ | ⟨d, a, b, rfl, hf⟩
    · have hwide : srWide n = true ↔ n = 0x14 := by
        simp only [srWide, Bool.or_eq_true, beq_iff_eq]
        omega
      exact ⟨_, privilegedWord_swr a g (by omega), by simpa [hwide] using hf⟩
    · exact ⟨_, privilegedWord_leaving h, fun u hu => absurd hu List.not_mem_nil⟩
    · exact ⟨_, privilegedWord_block h, hf⟩
    · exact ⟨_, privilegedWord_tlbi y a b g, hf⟩
    · exact ⟨_, privilegedWord_window h, hf⟩
    · exact ⟨_, privilegedWord_slot h, hf⟩
    · exact ⟨_, privilegedWord_grant d a b g, hf⟩
  have hn : s.privileged p.2 = false := by simp [State.privileged, hm, hy]
  obtain ⟨hgone, hmem, hthr, hstands, hsame⟩ := takeTrap_alone hs hl hm ht privTrap
  rw [trapInfo_privTrap hr] at hthr
  have hexec := hi.traps hu hp hn (hr ▸ hb) hgone
  exact ⟨_, hexec, hmem, by rw [hthr], by rw [hthr], hstands, by rw [hthr], hsame⟩

end Sys2Proof.Proofs
end

section
/-!
PROOFS. MARK (R418, R445): a trace packet leaves the unit at issue its threads, so that MARK completes whether it writes one or not.
-/

namespace Sys2Proof.Proofs

open Sys2Proof.Machine Sys2Proof.Safety Sys2Proof.Laws

/-! What writes of device memory and the trace leave of the unit at issue. -/

/-- A fold of steps that leave the unit at issue alone leaves it alone. -/
theorem foldl_unit {α : Type} {f : State → α → State} (h : ∀ s x, (f s x).unit = s.unit) (l : List α) (s : State) :
    (l.foldl f s).unit = s.unit := by
  induction l generalizing s with
  | nil => rfl
  | cons x r ih => rw [List.foldl_cons, ih, h]

/-- A change of the memory layer leaves the unit at issue alone. -/
theorem updSto_unit (s : State) (f : Storage → Storage) : (s.updSto f).unit = s.unit := rfl

/-- A change of the work in flight leaves the unit at issue alone. -/
theorem updFly_unit (s : State) (f : Flight → Flight) : (s.updFly f).unit = s.unit := rfl

/-- Other contexts leave the unit at issue alone. -/
theorem ctxs_unit (s : State) (cs : List Context) : ({ s with ctxs := cs } : State).unit = s.unit := rfl

/-- The copies of dumps before a write leave the unit at issue alone. -/
theorem dumpCopies_unit (fuel : Nat) (s : State) (g : Nat) : (s.dumpCopies fuel g).unit = s.unit := by
  induction fuel generalizing s g with
  | zero => rfl
  | succ n ih =>
    unfold State.dumpCopies
    refine foldl_unit (fun s c => ?_) s.ctxs s
    split
    · rfl
    · split
      · rw [updSto_unit, foldl_unit ih, ctxs_unit]
      · rfl

/-- The copies that all dumps make before a write leave the unit at issue alone. -/
theorem dumpCopy_unit (s : State) (g : Nat) : (s.dumpCopy g).unit = s.unit := dumpCopies_unit ..

/-- Numbering a write leaves the unit at issue alone. -/
theorem number_unit (s : State) (line : Nat) : (s.number line).unit = s.unit := by
  unfold State.number
  split <;> rfl

/-- A write of device memory leaves the unit at issue alone. -/
theorem writePhys_unit (s : State) (pa : Nat) (bs : List Byte) : (s.writePhys pa bs).unit = s.unit := by
  unfold State.writePhys
  split
  · rfl
  · rw [foldl_unit number_unit, updFly_unit, updSto_unit, foldl_unit dumpCopy_unit]

/-- Bytes at the trace's position leave the unit at issue alone. -/
theorem traceBytes_unit (s : State) (d : Debug) (bs : List Byte) : (s.traceBytes d bs).unit = s.unit :=
  writePhys_unit ..

/-- A debug descriptor leaves the unit at issue alone. -/
theorem setDebug_unit (s : State) (c : Nat) (d : Debug) : (s.setDebug c d).unit = s.unit := rfl

/-- The end of a trace page leaves the unit at issue alone. -/
theorem closePage_unit (s : State) (c : Nat) (d : Debug) : (s.closePage c d).1.unit = s.unit := by
  unfold State.closePage
  split
  · dsimp only
    rw [setDebug_unit, writePhys_unit, traceBytes_unit]
  · rfl

/-- Making room for a packet leaves the unit at issue alone. -/
theorem traceRoom_unit (s : State) (c : Nat) (d : Debug) (n e : Nat) : (s.traceRoom c d n e).1.unit = s.unit := by
  have hr : (if d.open_ && decide (4096 < d.pos + n) then s.closePage c d else (s, d)).1.unit = s.unit := by
    split
    · exact closePage_unit s c d
    · rfl
  unfold State.traceRoom
  generalize (if d.open_ && decide (4096 < d.pos + n) then s.closePage c d else (s, d)) = r at hr ⊢
  dsimp only
  split
  · exact hr
  · split
    · split
      · dsimp only
        rw [setDebug_unit, traceBytes_unit, hr]
      · dsimp only
        rw [setDebug_unit, traceBytes_unit, traceBytes_unit, hr]
    · exact hr

/-- A packet leaves the unit at issue alone. -/
theorem trace_unit (s : State) (c : Nat) (u : Option Nat) (e : Nat) (bs : List Byte) : (s.trace c u e bs).unit = s.unit := by
  unfold State.trace
  split
  · rfl
  · next d _ =>
    have hroom := traceRoom_unit s c d (bs.length + 32 * (d.fresh u).length) e
    split
    · next heq =>
      rw [heq] at hroom
      rw [setDebug_unit, hroom]
    · next heq =>
      rw [heq] at hroom
      dsimp only
      split
      · rw [closePage_unit, setDebug_unit, traceBytes_unit, hroom]
      · rw [setDebug_unit, traceBytes_unit, hroom]

/-- A change of a unit that keeps its threads leaves the unit at issue its threads. -/
theorem updUnit_lanes {f : IssueUnit → IssueUnit} (h : ∀ u, (f u).lanes = u.lanes) (s : State) (k : Nat) :
    (s.updUnit k f).unit.lanes = s.unit.lanes := by
  simp only [State.unit, State.unitAt, updUnit_units, updUnit_cur, getElem?_upd]
  split
  · cases s.units[s.cur]? <;> simp [h]
  · rfl

/-- A packet of a unit leaves the unit at issue its threads. -/
theorem unitTrace_lanes (s : State) (u : Nat) (bs : List Byte) : (s.unitTrace u bs).unit.lanes = s.unit.lanes := by
  unfold State.unitTrace
  dsimp only
  rw [updUnit_lanes, trace_unit]
  exact fun _ => rfl

/-! MARK. -/

/-- The mark record of the unit at issue (R445). -/
def markPacket (s : State) (c : Nat) : List Byte :=
  [6, 0] ++ valBytes 2 c ++ valBytes 4 (s.unitId s.cur) ++ valBytes 8 s.clk

/-- The effect of MARK: nothing without a debug descriptor, else a mark record where it and the device enable the trace. -/
def markEffect (c : Nat) (s : State) (ok : List (Nat × Nat)) : State :=
  match s.unitCtx.debug with
  | none => s
  | some d => if ok ≠ [] && d.itrace && s.feature 3 then s.unitTrace s.cur (markPacket s c) else s

/-- MARK is a word without operands that has this effect. -/
theorem exec_mark (c g : Nat) (s : State) :
    exec (.mark c g) s = s.run { uses := [], guard := g, cost := 2, act := markEffect c } := rfl

/-- MARK leaves the unit at issue its threads. -/
theorem markEffect_lanes (c : Nat) (s : State) (ok : List (Nat × Nat)) : (markEffect c s ok).unit.lanes = s.unit.lanes := by
  unfold markEffect
  split
  · rfl
  · split
    · exact unitTrace_lanes ..
    · rfl

/-- Where the trace is not enabled, MARK has no effect. -/
theorem markEffect_off {s : State}
    (h : s.unitCtx.debug = none ∨ s.feature 3 = false ∨ ∃ x, s.unitCtx.debug = some x ∧ x.itrace = false) (c : Nat)
    (ok : List (Nat × Nat)) : markEffect c s ok = s := by
  unfold markEffect
  split
  · rfl
  · rename_i d hd
    rcases h with hn | hf | ⟨x, hx, ht⟩
    · simp [hd] at hn
    · simp [hf]
    · obtain rfl : d = x := by simpa [hd] using hx
      simp [ht]

/-- Where the trace is enabled, MARK with participants writes its record. -/
theorem markEffect_on {s : State} {x : Debug} (hx : s.unitCtx.debug = some x) (ht : x.itrace = true)
    (hf : s.feature 3 = true) (c : Nat) {ok : List (Nat × Nat)} (ho : ok ≠ []) :
    markEffect c s ok = s.unitTrace s.cur (markPacket s c) := by
  simp [markEffect, hx, ht, hf, ho]

/-- MARK that issues completes with its effect. -/
theorem mark_issues {s : State} {g : Nat} (h : Issues s g []) (c : Nat) :
    exec (.mark c g) s = does s g 2 fun t => markEffect c t (s.parts g) := by
  rw [exec_mark, run_plain h (by rw [markEffect_lanes]; exact h.lanes)]
  rfl

/-- The word of MARK 7. -/
theorem decodeWord_mark : decodeWord .sys 0x26000070 [] = .ok (.mark 7 0, []) := by decide +kernel

/-- Settles O37: MARK completes with its effect, which is the record where the trace is enabled and nothing elsewhere. -/
theorem markWritesItsRecordWhereTraceIsOn : Obligations.MarkWritesItsRecordWhereTraceIsOn := by
  unfold Obligations.MarkWritesItsRecordWhereTraceIsOn
  refine ⟨fun s c g h => ⟨fun hoff => ?_, fun x hp hx ht hf => ?_⟩, decodeWord_mark⟩
  · rw [mark_issues h, does, does, markEffect_off hoff]
  · rw [mark_issues h, does, does, markEffect_on hx ht hf c hp, markPacket]

end Sys2Proof.Proofs
end

section
/-! PROOFS. The integer words of two sources (R109, R113): the word functions by what they compute. -/

namespace Sys2Proof.Proofs

open Sys2Proof.Machine Sys2Proof.Safety Sys2Proof.Laws

/-- The high word of a 64-bit value that an integer gives. -/
theorem hi32_ofInt (n : Int) : hi32 (BitVec.ofInt 64 n) = BitVec.ofInt 32 (n / 2 ^ 32) := by
  apply BitVec.eq_of_toNat_eq
  simp only [hi32, BitVec.toNat_setWidth, BitVec.toNat_ushiftRight, BitVec.toNat_ofInt, Nat.shiftRight_eq_div_pow]
  omega

/-- The high word of a signed product. -/
theorem mulhS_eq_div (x y : Word) : mulhS x y = BitVec.ofInt 32 (x.toInt * y.toInt / 2 ^ 32) := by
  rw [← hi32_ofInt, BitVec.ofInt_mul]
  rfl

/-- The high word of an unsigned product. -/
theorem mulhU_eq_div (x y : Word) : mulhU x y = BitVec.ofNat 32 (x.toNat * y.toNat / 2 ^ 32) := by
  have hlt : x.toNat * y.toNat < 2 ^ 64 :=
    (Nat.mul_lt_mul'' x.isLt y.isLt).trans_eq (by norm_num)
  apply BitVec.eq_of_toNat_eq
  simp only [mulhU, hi32, BitVec.toNat_setWidth, BitVec.toNat_ushiftRight, BitVec.toNat_mul, BitVec.toNat_ofNat,
    Nat.shiftRight_eq_div_pow]
  rw [Nat.mod_eq_of_lt (a := x.toNat) (by omega), Nat.mod_eq_of_lt (a := y.toNat) (by omega), Nat.mod_eq_of_lt hlt]

/-- The lesser of two words, signed. -/
theorem ite_toInt_eq_min (x y : Word) : (if x.toInt ≤ y.toInt then x else y) = BitVec.ofInt 32 (min x.toInt y.toInt) := by
  rw [min_def]
  split <;> exact BitVec.ofInt_toInt.symm

/-- The greater of two words, signed. -/
theorem ite_toInt_eq_max (x y : Word) : (if x.toInt ≤ y.toInt then y else x) = BitVec.ofInt 32 (max x.toInt y.toInt) := by
  rw [max_def]
  split <;> exact BitVec.ofInt_toInt.symm

/-- The lesser of two words, unsigned. -/
theorem ite_toNat_eq_min (x y : Word) : (if x.toNat ≤ y.toNat then x else y) = BitVec.ofNat 32 (min x.toNat y.toNat) := by
  rw [min_def]
  split <;> simp

/-- The greater of two words, unsigned. -/
theorem ite_toNat_eq_max (x y : Word) : (if x.toNat ≤ y.toNat then y else x) = BitVec.ofNat 32 (max x.toNat y.toNat) := by
  rw [max_def]
  split <;> simp

/-! The words: each is an integer word on its function. -/

section

variable (d a b : Opnd) (g : Nat) (s : State)

theorem exec_add : exec (.add d a b g) s = s.run (int2 g d a b fun x y => x + y) := rfl

theorem exec_sub : exec (.sub d a b g) s = s.run (int2 g d a b fun x y => x - y) := rfl

theorem exec_mul : exec (.mul d a b g) s = s.run (int2 g d a b fun x y => x * y) := rfl

theorem exec_mulhI32 : exec (.mulhI32 d a b g) s = s.run (int2 g d a b mulhS) := rfl

theorem exec_mulhN32 : exec (.mulhN32 d a b g) s = s.run (int2 g d a b mulhU) := rfl

theorem exec_minI32 :
    exec (.minI32 d a b g) s = s.run (int2 g d a b fun x y => if x.toInt ≤ y.toInt then x else y) := rfl

theorem exec_minN32 :
    exec (.minN32 d a b g) s = s.run (int2 g d a b fun x y => if x.toNat ≤ y.toNat then x else y) := rfl

theorem exec_maxI32 :
    exec (.maxI32 d a b g) s = s.run (int2 g d a b fun x y => if x.toInt ≤ y.toInt then y else x) := rfl

theorem exec_maxN32 :
    exec (.maxN32 d a b g) s = s.run (int2 g d a b fun x y => if x.toNat ≤ y.toNat then y else x) := rfl

theorem exec_and : exec (.and d a b g) s = s.run (int2 g d a b fun x y => x &&& y) := rfl

theorem exec_or : exec (.or d a b g) s = s.run (int2 g d a b fun x y => x ||| y) := rfl

theorem exec_xor : exec (.xor d a b g) s = s.run (int2 g d a b fun x y => x ^^^ y) := rfl

theorem exec_andn : exec (.andn d a b g) s = s.run (int2 g d a b fun x y => x &&& ~~~y) := rfl

end

/-- Settles O1: each word is an integer word, and its function computes the value stated. -/
theorem integerWordsGiveTheirResults : Obligations.IntegerWordsGiveTheirResults := by
  unfold Obligations.IntegerWordsGiveTheirResults
  intro s d a b g h
  refine ⟨?_, ?_, ?_, ?_, ?_, ?_, ?_, ?_, ?_, ?_, ?_, ?_, ?_⟩
  · simp only [exec_add, int2_gives h]
  · simp only [exec_sub, int2_gives h]
  · simp only [exec_mul, int2_gives h]
  · simp only [exec_mulhI32, int2_gives h, mulhS_eq_div]
  · simp only [exec_mulhN32, int2_gives h, mulhU_eq_div]
  · simp only [exec_minI32, int2_gives h, ite_toInt_eq_min]
  · simp only [exec_minN32, int2_gives h, ite_toNat_eq_min]
  · simp only [exec_maxI32, int2_gives h, ite_toInt_eq_max]
  · simp only [exec_maxN32, int2_gives h, ite_toNat_eq_max]
  · simp only [exec_and, int2_gives h]
  · simp only [exec_or, int2_gives h]
  · simp only [exec_xor, int2_gives h]
  · simp only [exec_andn, int2_gives h]

end Sys2Proof.Proofs
end

section
/-! PROOFS. MOV, the unary words, the immediate words and the bit counts (R107, R109, R112). -/

namespace Sys2Proof.Proofs

open Sys2Proof.Machine Sys2Proof.Safety Sys2Proof.Laws

/-! Operands that name no register. -/

/-- The zero operand reads 0 in every repeat. -/
@[simp] theorem val32_zero (s : State) (p : Nat × Nat) (st : Nat) : val32 s p .zero st = 0 := by
  rw [val32, State.stepped, Use.now, atRep_fixed (u := { o := .zero, n := 1, step := st }) (fun _ => ⟨nofun, nofun⟩)]
  rfl

/-- A literal reads its low word in every repeat. -/
@[simp] theorem val32_lit (s : State) (p : Nat × Nat) (x : Dword) (st : Nat) : val32 s p (.lit x) st = x.setWidth 32 := by
  rw [val32, State.stepped, Use.now, atRep_fixed (u := { o := .lit x, n := 1, step := st }) (fun _ => ⟨nofun, nofun⟩)]
  rfl

/-- An imm11 that is extended by its sign. -/
theorem val32_immS (s : State) (p : Nat × Nat) (i st : Nat) : val32 s p (immS i) st = (BitVec.ofNat 11 i).signExtend 32 := by
  rw [immS, val32_lit, BitVec.setWidth_setWidth_of_le _ (by decide), BitVec.setWidth_eq]

/-- An imm11 that is extended by zeros. -/
theorem val32_immZ (s : State) (p : Nat × Nat) (i st : Nat) : val32 s p (immZ i) st = (BitVec.ofNat 11 i).setWidth 32 := by
  rw [immZ, val32_lit]
  apply BitVec.eq_of_toNat_eq
  simp only [BitVec.toNat_setWidth, BitVec.toNat_ofNat]
  omega

/-- The zero operand names no register. -/
theorem zero_fixed (k : Nat) : Opnd.zero ≠ .v k ∧ Opnd.zero ≠ .s k := ⟨nofun, nofun⟩

/-- An immediate names no register. -/
theorem immS_fixed (i k : Nat) : immS i ≠ .v k ∧ immS i ≠ .s k := ⟨nofun, nofun⟩

/-- An immediate names no register. -/
theorem immZ_fixed (i k : Nat) : immZ i ≠ .v k ∧ immZ i ≠ .s k := ⟨nofun, nofun⟩

/-- An integer word of one source. -/
theorem int1_gives {s : State} {g : Nat} {d a : Opnd} {f : Word → Word → Word} (h : Issues s g [dstUse d 1 false, srcUse a 1 2]) :
    s.run (int2 g d a .zero f) = gives s g 1 1 d fun p => [f (val32 s p a 2) 0] := by
  rw [int2_gives (Issues_snoc zero_fixed h)]
  simp only [val32_zero]

/-- An integer word whose second source is an imm11 that is extended by its sign. -/
theorem intS_gives {s : State} {g i : Nat} {d a : Opnd} {f : Word → Word → Word}
    (h : Issues s g [dstUse d 1 false, srcUse a 1 2]) :
    s.run (int2 g d a (immS i) f) = gives s g 1 1 d fun p => [f (val32 s p a 2) ((BitVec.ofNat 11 i).signExtend 32)] := by
  rw [int2_gives (Issues_snoc (immS_fixed i) h)]
  simp only [val32_immS]

/-- An integer word whose second source is an imm11 that is extended by zeros. -/
theorem intZ_gives {s : State} {g i : Nat} {d a : Opnd} {f : Word → Word → Word}
    (h : Issues s g [dstUse d 1 false, srcUse a 1 2]) :
    s.run (int2 g d a (immZ i) f) = gives s g 1 1 d fun p => [f (val32 s p a 2) ((BitVec.ofNat 11 i).setWidth 32)] := by
  rw [int2_gives (Issues_snoc (immZ_fixed i) h)]
  simp only [val32_immZ]

/-! The word functions. -/

/-- A word's absolute value. -/
theorem abs_eq_natAbs (x : Word) : (if x.toInt < 0 then 0 - x else x) = BitVec.ofNat 32 x.toInt.natAbs := by
  split
  · next h =>
    rw [show (0 : Word) - x = -x from BitVec.zero_sub x, ← BitVec.ofInt_natCast, Int.natCast_natAbs, abs_of_neg h, BitVec.ofInt_neg, BitVec.ofInt_toInt]
  · next h => rw [← BitVec.ofInt_natCast, Int.natCast_natAbs, abs_of_nonneg (by omega), BitVec.ofInt_toInt]

/-- The count that an imm11 below 32 gives. -/
theorem toNat_imm {i : Nat} (h : i < 32) : ((BitVec.ofNat 11 i).setWidth 32 : Word).toNat = i := by
  simp only [BitVec.toNat_setWidth, BitVec.toNat_ofNat]
  omega

/-- The ones of a Boolean list function, counted and summed. -/
theorem length_filter_eq_sum (p : Nat → Bool) (l : List Nat) : (l.filter p).length = (l.map fun k => (p k).toNat).sum := by
  induction l with
  | nil => rfl
  | cons x r ih => cases hp : p x <;> simp [hp, ih, Nat.add_comm]

/-- POPC counts the 1 bits. -/
theorem toNat_popW (x : Word) : (popW x).toNat = ((List.range 32).map fun k => (x.getLsbD k).toNat).sum := by
  have hlen : ((List.range 32).filter fun i => x.getLsbD i).length ≤ 32 := by
    simpa using List.length_filter_le (fun i => x.getLsbD i) (List.range 32)
  rw [popW, BitVec.toNat_ofNat, Nat.mod_eq_of_lt (by omega), length_filter_eq_sum]

/-- CLZ counts the zeros from the top. -/
theorem clzW_spec (x : Word) : (clzW x).toNat ≤ 32 ∧ (∀ k, 32 - (clzW x).toNat ≤ k → x.getLsbD k = false) ∧
    ((clzW x).toNat < 32 → x.getLsbD (31 - (clzW x).toNat) = true) := by
  unfold clzW
  split
  · next h => simp [h]
  · next h =>
    have h0 : x.toNat ≠ 0 := fun h1 => h (BitVec.eq_of_toNat_eq h1)
    have hlog : Nat.log2 x.toNat < 32 := (Nat.log2_lt h0).mpr x.isLt
    rw [BitVec.toNat_ofNat, Nat.mod_eq_of_lt (by omega)]
    refine ⟨by omega, fun k hk => ?_, fun _ => ?_⟩
    · exact Nat.testBit_lt_two_pow ((Nat.log2_lt h0).mp (by omega))
    · rw [show 31 - (31 - Nat.log2 x.toNat) = Nat.log2 x.toNat by omega]
      exact Nat.testBit_log2 h0

/-- CTZ counts the zeros from the bottom. -/
theorem ctzW_spec (x : Word) : (ctzW x).toNat ≤ 32 ∧ (∀ k, k < (ctzW x).toNat → x.getLsbD k = false) ∧
    ((ctzW x).toNat < 32 → x.getLsbD (ctzW x).toNat = true) := by
  unfold ctzW
  cases hf : (List.range 32).find? fun i => x.getLsbD i with
  | none =>
    have hz := List.find?_eq_none.mp hf
    simp only [Option.getD_none]
    refine ⟨by decide, fun k hk => ?_, fun h => absurd h (by decide)⟩
    simpa using hz k (List.mem_range.mpr hk)
  | some n =>
    obtain ⟨hn, hmem, hz⟩ := List.find?_range_eq_some.mp hf
    have hlt : n < 32 := List.mem_range.mp hmem
    simp only [Option.getD_some, BitVec.toNat_ofNat, Nat.mod_eq_of_lt (show n < 2 ^ 32 by omega)]
    exact ⟨by omega, fun k hk => by simpa using hz k hk, fun _ => hn⟩

/-- BREV turns the bits round. -/
theorem getLsbD_brevW (x : Word) (k : Nat) (h : k < 32) : (brevW x).getLsbD k = x.getLsbD (31 - k) := by
  rw [brevW, BitVec.getLsbD_reverse, BitVec.getMsbD_eq_getLsbD]
  simp [h]

/-! The words: each is an integer word on its function. -/

section

variable (d a : Opnd) (g i : Nat) (s : State)

theorem exec_mov : exec (.mov d a g) s = s.run (int2 g d a .zero fun x _ => x) := rfl

theorem exec_abs : exec (.abs d a g) s = s.run (int2 g d a .zero fun x _ => if x.toInt < 0 then 0 - x else x) := rfl

theorem exec_neg : exec (.neg d a g) s = s.run (int2 g d a .zero fun x _ => 0 - x) := rfl

theorem exec_not : exec (.not d a g) s = s.run (int2 g d a .zero fun x _ => ~~~x) := rfl

theorem exec_popc : exec (.popc d a g) s = s.run (int2 g d a .zero fun x _ => popW x) := rfl

theorem exec_clz : exec (.clz d a g) s = s.run (int2 g d a .zero fun x _ => clzW x) := rfl

theorem exec_ctz : exec (.ctz d a g) s = s.run (int2 g d a .zero fun x _ => ctzW x) := rfl

theorem exec_brev : exec (.brev d a g) s = s.run (int2 g d a .zero fun x _ => brevW x) := rfl

theorem exec_addi : exec (.addi d a i) s = s.run (int2 0 d a (immS i) fun x y => x + y) := rfl

theorem exec_andi : exec (.andi d a i) s = s.run (int2 0 d a (immS i) fun x y => x &&& y) := rfl

theorem exec_ori : exec (.ori d a i) s = s.run (int2 0 d a (immZ i) fun x y => x ||| y) := rfl

theorem exec_xori : exec (.xori d a i) s = s.run (int2 0 d a (immZ i) fun x y => x ^^^ y) := rfl

theorem exec_shli : exec (.shli d a i) s = s.run (int2 0 d a (immZ i) shlW) := rfl

theorem exec_shri : exec (.shri d a i) s = s.run (int2 0 d a (immZ i) shrW) := rfl

theorem exec_sari : exec (.sari d a i) s = s.run (int2 0 d a (immZ i) sarW) := rfl

theorem exec_movi : exec (.movi d i) s = s.run (int2 0 d .zero (immS i) fun _ y => y) := rfl

end

/-- MOVI gives its immediate. -/
theorem movi_gives {s : State} {d : Opnd} {i : Nat} (h : Issues s 0 [dstUse d 1 false]) :
    exec (.movi d i) s = gives s 0 1 1 d fun _ => [(BitVec.ofNat 11 i).signExtend 32] := by
  rw [exec_movi, int2_gives (Issues_snoc (immS_fixed i) (Issues_snoc zero_fixed h))]
  simp only [val32_immS]

/-- Settles O3: each word is an integer word of one source, with a second that names no register. -/
theorem unaryImmediateAndCountWordsGiveTheirResults : Obligations.UnaryImmediateAndCountWordsGiveTheirResults := by
  unfold Obligations.UnaryImmediateAndCountWordsGiveTheirResults
  refine ⟨fun s d a g i => ⟨fun h => ⟨?_, ?_, ?_, ?_⟩, movi_gives, fun h => ⟨?_, ?_, ?_, ?_, fun hi => ⟨?_, ?_, ?_⟩⟩⟩,
    fun s d a g h => ⟨⟨popW, toNat_popW, ?_⟩, ⟨clzW, clzW_spec, ?_⟩, ⟨ctzW, ctzW_spec, ?_⟩, ⟨brevW, getLsbD_brevW, ?_⟩⟩⟩
  · simp only [exec_mov, int1_gives h]
  · simp only [exec_abs, int1_gives h, abs_eq_natAbs]
  · simp only [exec_neg, int1_gives h, show ∀ x : Word, 0 - x = -x from BitVec.zero_sub]
  · simp only [exec_not, int1_gives h]
  · simp only [exec_addi, intS_gives h]
  · simp only [exec_andi, intS_gives h]
  · simp only [exec_ori, intZ_gives h]
  · simp only [exec_xori, intZ_gives h]
  · simp only [exec_shli, intZ_gives h, shlW_eq_mul, toNat_imm hi, if_neg (not_le.mpr hi)]
  · simp only [exec_shri, intZ_gives h, shrW_eq_div, toNat_imm hi, if_neg (not_le.mpr hi)]
  · simp only [exec_sari, intZ_gives h, sarW_eq_div, toNat_imm hi, if_neg (not_le.mpr hi)]
  · simp only [exec_popc, int1_gives h]
  · simp only [exec_clz, int1_gives h]
  · simp only [exec_ctz, int1_gives h]
  · simp only [exec_brev, int1_gives h]

end Sys2Proof.Proofs
end

section
/-! PROOFS. The words that read their destination, the bit fields, PERM and SEL (R108, R111, R113, R114). -/

namespace Sys2Proof.Proofs

open Sys2Proof.Machine Sys2Proof.Safety Sys2Proof.Laws

/-! The word functions. -/

/-- A byte of the pool of PERM, from the word of it that holds it. -/
theorem bits_pool (x y : Word) (n : Nat) : bits (x.toNat + 2 ^ 32 * y.toNat) (8 * (n % 8)) 8 =
    if n % 8 < 4 then bits x.toNat (8 * (n % 4)) 8 else bits y.toNat (8 * (n % 4)) 8 := by
  have hx := x.isLt
  obtain hn | hn | hn | hn | hn | hn | hn | hn : n % 8 = 0 ∨ n % 8 = 1 ∨ n % 8 = 2 ∨ n % 8 = 3 ∨ n % 8 = 4 ∨ n % 8 = 5 ∨
    n % 8 = 6 ∨ n % 8 = 7 := by omega
  all_goals
    have h4 : n % 4 = n % 8 % 4 := by omega
    simp only [bits, h4, hn]
    norm_num
    omega

/-- One byte of PERM, from the words of the pool. -/
theorem permByte_eq (x y : Word) (z k : Nat) : permByte (x.toNat + 2 ^ 32 * y.toNat) z k =
    let n := bits z (4 * k) 4
    let v := if n % 8 < 4 then bits x.toNat (8 * (n % 4)) 8 else bits y.toNat (8 * (n % 4)) 8
    if n < 8 then v else if v < 128 then 0 else 255 := by
  simp only [permByte, bits_pool, ← not_lt (b := 128), ite_not]

/-- PERM's bytes, the lowest first. -/
theorem permW_eq (x y z : Word) : permW x y z =
    let byte := permByte (x.toNat + 2 ^ 32 * y.toNat) z.toNat
    BitVec.ofNat 32 (byte 0 + 256 * (byte 1 + 256 * (byte 2 + 256 * byte 3))) := by
  simp only [permW]
  congr 1
  ring

/-- A number that is not negative as a signed field. -/
theorem signField_eq {n : Int} (hn : 0 ≤ n) (w : Nat) :
    (if 2 ^ (w - 1) ≤ n.toNat then BitVec.ofInt 32 ((n.toNat : Int) - (2 : Int) ^ w) else BitVec.ofNat 32 n.toNat) =
      BitVec.ofInt 32 (if n < 2 ^ (w - 1) then n else n - 2 ^ w) := by
  obtain ⟨v, rfl⟩ := Int.eq_ofNat_of_zero_le hn
  rw [Int.toNat_natCast]
  have hiff : (v : Int) < 2 ^ (w - 1) ↔ ¬ 2 ^ (w - 1) ≤ v := by
    rw [not_le]
    exact_mod_cast Iff.rfl
  by_cases hv : 2 ^ (w - 1) ≤ v
  · rw [if_pos hv, if_neg fun h => hiff.mp h hv]
  · rw [if_neg hv, if_pos (hiff.mpr hv), BitVec.ofInt_natCast]

/-- A signed bit field, whose top bit is its sign. -/
theorem bfxS_eq (x y : Word) : bfxS x y =
    let k := bits y.toNat 0 8
    let w := min (bits y.toNat 8 8) 32
    if w = 0 then 0
    else
      let f : Int := x.toInt / 2 ^ k % 2 ^ w
      BitVec.ofInt 32 (if f < 2 ^ (w - 1) then f else f - 2 ^ w) :=
  congrArg (ite (min (bits y.toNat 8 8) 32 = 0) 0) (signField_eq (Int.emod_nonneg _ (by positivity)) _)

/-- A signed product of two words. -/
theorem signExtend_mul (x y : Word) : x.signExtend 64 * y.signExtend 64 = BitVec.ofInt 64 (x.toInt * y.toInt) :=
  (BitVec.ofInt_mul ..).symm

/-- An unsigned product of two words. -/
theorem setWidth_mul_64 (x y : Word) : x.setWidth 64 * y.setWidth 64 = BitVec.ofNat 64 (x.toNat * y.toNat) :=
  BitVec.eq_of_toNat_eq (by simp [BitVec.toNat_mul])

/-! The words. -/

/-- A field that no step touches names the same operand in every repeat. -/
@[simp] theorem stepped_zero (s : State) (n : Nat) (o : Opnd) : s.stepped 0 n o = o := by
  unfold State.stepped Use.now Use.atRep
  split <;> simp

section

variable (d a b : Opnd) (g q : Nat) (s : State)

theorem exec_mad : exec (.mad d a b g) s = s.run (int3 g d a b fun x y z => z + x * y) := rfl

theorem exec_bfi : exec (.bfi d a b g) s = s.run (int3 g d a b bfiW) := rfl

theorem exec_perm : exec (.perm d a b g) s = s.run (int3 g d a b permW) := rfl

theorem exec_bfxN32 : exec (.bfxN32 d a b g) s = s.run (int2 g d a b bfxU) := rfl

theorem exec_bfxI32 : exec (.bfxI32 d a b g) s = s.run (int2 g d a b bfxS) := rfl

theorem exec_madwI32 : exec (.madwI32 d a b g) s =
    s.run (arith 1 g d 2 true a 1 b 1 fun _ x y z => (z + (lo32 x).signExtend 64 * (lo32 y).signExtend 64, 0)) := rfl

theorem exec_madwN32 : exec (.madwN32 d a b g) s =
    s.run (arith 1 g d 2 true a 1 b 1 fun _ x y z => (z + (lo32 x).setWidth 64 * (lo32 y).setWidth 64, 0)) := rfl

theorem exec_sel : exec (.sel d a b q) s =
    s.run { uses := [dstUse d 1 false, srcUse a 1 0, srcUse b 1 0],
            act := fun s ok => s.putDst ok d fun p => [s.src p (if (s.thr p.2).preds.getLsbD q then a else b)] } := rfl

end

/-- SEL gives the source that its predicate picks. -/
theorem sel_writes {s : State} {d a b : Opnd} {q : Nat} (h : Issues s 0 [dstUse d 1 false, srcUse a 1 0, srcUse b 1 0]) :
    exec (.sel d a b q) s = writes s 0 1 d fun p =>
      [if (s.thr p.2).preds.getLsbD q then val32 s p a 0 else val32 s p b 0] := by
  rw [exec_sel, run_plain h (by simpa using h.lanes)]
  simp only [writes, val32, stepped_zero, apply_ite (s.src _)]

/-- Settles O4: each word is a word of the three operand forms, and its function computes the value stated. -/
theorem fieldAndAccumulateWordsGiveTheirResults : Obligations.FieldAndAccumulateWordsGiveTheirResults := by
  unfold Obligations.FieldAndAccumulateWordsGiveTheirResults
  refine fun s d a b g q => ⟨fun h => ⟨?_, ?_, ?_⟩, fun h => ⟨?_, ?_⟩, fun h => ⟨?_, ?_⟩, sel_writes⟩
  · simp only [exec_mad, int3_gives h]
  · simp only [exec_bfi, int3_gives h]
    rfl
  · simp only [exec_perm, int3_gives h, permW_eq, permByte_eq]
  · beta_reduce
    rw [exec_madwI32, arith_gives h fun _ _ _ _ => rfl]
    simp only [val_one, val_two, lo32_setWidth, signExtend_mul, if_true]
  · beta_reduce
    rw [exec_madwN32, arith_gives h fun _ _ _ _ => rfl]
    simp only [val_one, val_two, lo32_setWidth, setWidth_mul_64, if_true]
  · simp only [exec_bfxN32, int2_gives h]
    rfl
  · simp only [exec_bfxI32, int2_gives h, bfxS_eq]

end Sys2Proof.Proofs
end

section
/-! PROOFS. The pair words, LEA, the compare and the predicate words (R115 to R119). -/

namespace Sys2Proof.Proofs

open Sys2Proof.Machine Sys2Proof.Safety Sys2Proof.Laws

/-- A word on pairs. -/
theorem int64x_gives {s : State} {g bn : Nat} {d a b : Opnd} {f : Dword → Dword → Dword}
    (h : Issues s g [dstUse d 2 false, srcUse a 2 2, srcUse b bn 1]) :
    s.run (int64x g d a b bn f) = gives s g 1 2 d fun p => wordsOf 2 (f (val64 s p a 2) (s.val p b bn 1)) :=
  arith_gives h fun _ _ _ _ => rfl

/-! The word functions. -/

/-- A shift left of a pair multiplies, and from 64 on nothing is left. -/
theorem shl64_eq_mul (x : Dword) (c : Nat) :
    (if 64 ≤ c then 0 else x <<< c) = BitVec.ofNat 64 (if 64 ≤ c then 0 else x.toNat * 2 ^ c) := by
  split
  · rfl
  · apply BitVec.eq_of_toNat_eq
    rw [BitVec.toNat_shiftLeft, BitVec.toNat_ofNat, Nat.shiftLeft_eq]

/-- A 64-bit value that an integer gives, shifted left. -/
theorem ofInt_shiftLeft (n : Int) (c : Nat) : (BitVec.ofInt 64 n) <<< c = BitVec.ofInt 64 (n * 2 ^ c) := by
  have hp : BitVec.ofInt 64 (2 ^ c) = BitVec.twoPow 64 c := by
    apply BitVec.eq_of_toNat_eq
    rw [BitVec.toNat_twoPow, BitVec.toNat_ofInt]
    exact_mod_cast rfl
  rw [BitVec.ofInt_mul, BitVec.shiftLeft_eq_mul_twoPow, hp]

/-- LEA's second source, extended as its word says. -/
theorem lea_source (sx : Bool) (y : Word) :
    (if sx then y.signExtend 64 else y.setWidth 64) = BitVec.ofInt 64 (if sx then y.toInt else (y.toNat : Int)) := by
  cases sx
  · exact (BitVec.ofInt_natCast 64 y.toNat).symm ▸ (BitVec.ofNat_toNat 64 y).symm
  · rfl

/-! The words. -/

section

variable (d a b : Opnd) (g q x y sh : Nat) (sx nx ny : Bool) (c : ICond) (s : State)

theorem exec_add64 : exec (.add64 d a b g) s = s.run (int64x g d a b 2 fun x y => x + y) := rfl

theorem exec_sub64 : exec (.sub64 d a b g) s = s.run (int64x g d a b 2 fun x y => x - y) := rfl

theorem exec_shl64 : exec (.shl64 d a b g) s =
    s.run (int64x g d a b 1 fun x y => if 64 ≤ (lo32 y).toNat then 0 else x <<< (lo32 y).toNat) := rfl

theorem exec_lea : exec (.lea d a b sh sx) s =
    s.run (int64x 0 d a b 1 fun x y => x + ((if sx then (lo32 y).signExtend 64 else y) <<< sh)) := rfl

theorem exec_icmp : exec (.icmp q c a b g) s = s.run (cmpWork 1 g q a 1 b 1 fun _ x y => icmpW c (lo32 x) (lo32 y)) := rfl

theorem exec_pand : exec (.pand q x y nx ny g) s =
    s.run (predWork g q fun p => (p.getLsbD x != nx) && (p.getLsbD y != ny)) := rfl

theorem exec_por : exec (.por q x y nx ny g) s =
    s.run (predWork g q fun p => (p.getLsbD x != nx) || (p.getLsbD y != ny)) := rfl

theorem exec_pxor : exec (.pxor q x y nx ny g) s =
    s.run (predWork g q fun p => (p.getLsbD x != nx) != (p.getLsbD y != ny)) := rfl

theorem exec_pnot : exec (.pnot q x g) s = s.run (predWork g q fun p => !p.getLsbD x) := rfl

theorem exec_p2v : exec (.p2v d g) s =
    s.run { uses := [dstUse d 1 false], guard := g,
            act := fun s ok => s.putDst ok d fun p => [(s.thr p.2).preds.setWidth 32] } := rfl

theorem exec_v2p : exec (.v2p a b g) s =
    s.run { uses := [srcUse a 1 0, srcUse b 1 0], guard := g,
            act := fun s ok => s.each ok fun p x =>
              let m : BitVec 16 := (s.src p b).setWidth 16 &&& 0xFFFE
              { x with preds := (x.preds &&& ~~~m) ||| ((s.src p a).setWidth 16 &&& m) } } := rfl

end

/-- ICMP gives the comparison of its two sources. -/
theorem icmp_decides {s : State} {a b : Opnd} {g q : Nat} {c : ICond} (h : Issues s g [srcUse a 1 0, srcUse b 1 0]) :
    exec (.icmp q c a b g) s = decides s g 1 q fun p => icmpW c (val32 s p a 0) (val32 s p b 0) := by
  rw [exec_icmp, cmp_decides h]
  simp only [val_one, lo32_setWidth]

/-- Settles O5: each word is a word on pairs, a comparison or a predicate word, and its function is the one stated. -/
theorem pairAndPredicateWordsGiveTheirResults : Obligations.PairAndPredicateWordsGiveTheirResults := by
  unfold Obligations.PairAndPredicateWordsGiveTheirResults
  refine ⟨fun s d a b g sh sx => ⟨fun h => ⟨?_, ?_⟩, fun h => ?_, fun h => ?_⟩, fun s d a b g q x y nx ny =>
    ⟨fun h => ⟨?_, ?_, ?_, ?_, ?_, ?_, ?_, ?_⟩, fun h => ⟨?_, ?_, ?_, ?_⟩, fun h => ?_, fun h => ?_⟩⟩
  · simp only [exec_add64, int64x_gives h, val_two]
  · simp only [exec_sub64, int64x_gives h, val_two]
  · simp only [exec_shl64, int64x_gives h, val_one, lo32_setWidth, shl64_eq_mul]
  · simp only [exec_lea, int64x_gives h, val_one, lo32_setWidth, lea_source, ofInt_shiftLeft]
  iterate 8 exact icmp_decides h
  · simp only [exec_pand, pred_decides h, Bool.bne_eq_xor]
  · simp only [exec_por, pred_decides h, Bool.bne_eq_xor]
  · simp only [exec_pxor, pred_decides h, Bool.bne_eq_xor]
  · simp only [exec_pnot, pred_decides h]
  · rw [exec_p2v, run_plain h (by simpa using h.lanes)]
    rfl
  · rw [exec_v2p, run_plain h (by simpa using h.lanes)]
    simp only [does, val32, stepped_zero]

end Sys2Proof.Proofs
end

section
/-! PROOFS. Floating-point arithmetic (R126, R127, R137) and the special functions (R140, R142, R143). -/

namespace Sys2Proof.Proofs

open Sys2Proof.Machine Sys2Proof.Safety Sys2Proof.Laws

/-- A one-register result, from a number of 64 bits. -/
theorem wordsOf_one_ofNat (n : Nat) : wordsOf 1 (BitVec.ofNat 64 n) = [BitVec.ofNat 32 n] := by
  simp [wordsOf, lo32, BitVec.setWidth_ofNat_of_le]

/-- A code modulo the register's width gives the same register. -/
theorem ofNat_mod_32 (n : Nat) : BitVec.ofNat 32 (n % 2 ^ 32) = BitVec.ofNat 32 n :=
  BitVec.eq_of_toNat_eq (by simp)

/-- A zero-extended word's number is the word's. -/
theorem toNat_setWidth_mod (x : Word) : (x.setWidth 64).toNat % 2 ^ 32 = x.toNat := by
  rw [BitVec.toNat_setWidth]
  omega

/-- A floating-point word on 32-bit registers. -/
theorem flt_gives {s : State} {g : Nat} {d a b : Opnd} {rd : Bool} {f : Word → Nat → Nat → Nat → Nat}
    (h : Issues s g [dstUse d 1 rd, srcUse a 1 2, srcUse b 1 1]) :
    s.run (flt g d rd a b f) = gives s g 2 1 d fun p => [BitVec.ofNat 32 (f (s.modeOf p.2) (val32 s p a 2).toNat
      (val32 s p b 1).toNat (if rd then (val32 s p d 4).toNat else 0))] := by
  rw [flt, arith_gives h fun _ _ _ _ => rfl]
  simp only [wordsOf_one_ofNat, ofNat_mod_32, val_one, toNat_setWidth_mod]
  cases rd
  · rfl
  · simp only [if_true, toNat_setWidth_mod]

/-- A floating-point word on pairs. -/
theorem flt64_gives {s : State} {g : Nat} {d a b : Opnd} {rd : Bool} {f : Word → Nat → Nat → Nat → Nat}
    (h : Issues s g [dstUse d 2 rd, srcUse a 2 2, srcUse b 2 1]) :
    s.run (flt64 g d rd a b f) = gives s g 2 2 d fun p => wordsOf 2 (BitVec.ofNat 64 (f (s.modeOf p.2) (val64 s p a 2).toNat
      (val64 s p b 1).toNat (if rd then (val64 s p d 4).toNat else 0))) := by
  rw [flt64, arith_gives h fun _ _ _ _ => rfl]
  cases rd <;> rfl

section

variable (d a b : Opnd) (g : Nat) (s : State)

theorem exec_fadd : exec (.fadd d a b g) s = s.run (flt g d false a b fun m x y _ => op2 fp32 2 (addV .rn) m x y) := rfl

theorem exec_fsub : exec (.fsub d a b g) s = s.run (flt g d false a b fun m x y _ => op2 fp32 2 subV m x y) := rfl

theorem exec_fmul : exec (.fmul d a b g) s = s.run (flt g d false a b fun m x y _ => op2 fp32 2 mulV m x y) := rfl

theorem exec_fmin : exec (.fmin d a b g) s = s.run (flt g d false a b fun m x y _ => op2 fp32 2 minV m x y) := rfl

theorem exec_fmax : exec (.fmax d a b g) s = s.run (flt g d false a b fun m x y _ => op2 fp32 2 maxV m x y) := rfl

theorem exec_amax : exec (.amax d a b g) s = s.run (flt g d false a b fun m x y _ => op2 fp32 2 amaxV m x y) := rfl

theorem exec_ffma : exec (.ffma d a b g) s = s.run (flt g d true a b (op3 fp32 2 (fmaV .rn))) := rfl

theorem exec_ffms : exec (.ffms d a b g) s = s.run (flt g d true a b (op3 fp32 2 (fmsV .rn))) := rfl

theorem exec_hadd2F16 : exec (.hadd2F16 d a b g) s =
    s.run (flt g d false a b fun m => halves fun x y _ => op2 fp16 1 (addV .rn) m x y) := rfl

theorem exec_hadd2Bf16 : exec (.hadd2Bf16 d a b g) s =
    s.run (flt g d false a b fun m => halves fun x y _ => op2 bf16 1 (addV .rn) m x y) := rfl

theorem exec_hmul2F16 : exec (.hmul2F16 d a b g) s =
    s.run (flt g d false a b fun m => halves fun x y _ => op2 fp16 1 mulV m x y) := rfl

theorem exec_hmul2Bf16 : exec (.hmul2Bf16 d a b g) s =
    s.run (flt g d false a b fun m => halves fun x y _ => op2 bf16 1 mulV m x y) := rfl

theorem exec_hfma2F16 : exec (.hfma2F16 d a b g) s = s.run (flt g d true a b fun m => halves (op3 fp16 1 (fmaV .rn) m)) := rfl

theorem exec_hfma2Bf16 : exec (.hfma2Bf16 d a b g) s = s.run (flt g d true a b fun m => halves (op3 bf16 1 (fmaV .rn) m)) := rfl

theorem exec_dadd : exec (.dadd d a b g) s = s.run (flt64 g d false a b fun m x y _ => op2 fp64 3 (addV .rn) m x y) := rfl

theorem exec_dmul : exec (.dmul d a b g) s = s.run (flt64 g d false a b fun m x y _ => op2 fp64 3 mulV m x y) := rfl

theorem exec_dfma : exec (.dfma d a b g) s = s.run (flt64 g d true a b (op3 fp64 3 (fmaV .rn))) := rfl

end

/-- Settles O6: each word is a floating-point word, whose function is one operation on the flushed inputs, encoded once. -/
theorem floatWordsRoundOnce : Obligations.FloatWordsRoundOnce := by
  unfold Obligations.FloatWordsRoundOnce
  refine ⟨fun s d a b g => ⟨fun h => ⟨?_, ?_, ?_, ?_, ?_, ?_⟩, fun h => ⟨?_, ?_⟩⟩, fun s d a b g =>
    ⟨fun h => ⟨?_, ?_, ?_, ?_⟩, fun h => ⟨?_, ?_⟩, fun h => ⟨?_, ?_⟩, fun h => ?_⟩⟩
  · exact (exec_fadd ..).trans (flt_gives h)
  · exact (exec_fsub ..).trans (flt_gives h)
  · exact (exec_fmul ..).trans (flt_gives h)
  · exact (exec_fmin ..).trans (flt_gives h)
  · exact (exec_fmax ..).trans (flt_gives h)
  · exact (exec_amax ..).trans (flt_gives h)
  · exact (exec_ffma ..).trans (flt_gives h)
  · exact (exec_ffms ..).trans (flt_gives h)
  · exact (exec_hadd2F16 ..).trans (flt_gives h)
  · exact (exec_hadd2Bf16 ..).trans (flt_gives h)
  · exact (exec_hmul2F16 ..).trans (flt_gives h)
  · exact (exec_hmul2Bf16 ..).trans (flt_gives h)
  · exact (exec_hfma2F16 ..).trans (flt_gives h)
  · exact (exec_hfma2Bf16 ..).trans (flt_gives h)
  · exact (exec_dadd ..).trans (flt64_gives h)
  · exact (exec_dmul ..).trans (flt64_gives h)
  · exact (exec_dfma ..).trans (flt64_gives h)

end Sys2Proof.Proofs
end

section
/-! PROOFS. Canonical form of the memories (log 3): what an answer, a word, a command and a fold over states keep of it. -/

namespace Sys2Proof.Proofs

open Sys2Proof.Machine Sys2Proof.Safety Sys2Proof.Laws

set_option Elab.async false

/-- An optional next state has its memories in canonical form, where there is one. -/
def OptionWf (o : Option State) : Prop := ∀ t, o = some t → Memory.wf t.sto = true

/-- The same of a state or a fault. -/
def ExceptWf {ε : Type} (e : Except ε State) : Prop := ∀ t, e = .ok t → Memory.wf t.sto = true

/-- The same of what a word or an event answers. -/
def Answers (o : Out) : Prop := ∀ t, o = .next t → Memory.wf t.sto = true

/-- A word keeps the memories canonical: its effect, the delivery of its faults, and the way its unit goes on. -/
structure WorkWf (w : Work) : Prop where
  act : ∀ s ok, Memory.wf s.sto = true → Memory.wf (w.act s ok).sto = true := by exact fun _ _ h => h
  note : ∀ s p, Memory.wf s.sto = true → Memory.wf (w.note s p).sto = true := by exact fun _ _ h => h
  fin : ∀ s, Memory.wf s.sto = true → Memory.wf (w.fin s).sto = true := by exact fun _ h => advance_wf h

/-- A signature that is made leaves the memories in canonical form. -/
def SigWf (x : Sig) : Prop := ∀ t last, x = .made t last → Memory.wf t.sto = true

/-- A command leaves the memories in canonical form. -/
def CmdWf (e : CmdEnd) : Prop := ∀ t, e = .done t ∨ e = .wait t → Memory.wf t.sto = true

theorem cmdWf_refused : CmdWf .refused := fun _ h => by obtain h | h := h <;> cases h

theorem cmdWf_done {s : State} (h : Memory.wf s.sto = true) : CmdWf (.done s) := fun _ ht => by
  obtain ht | ht := ht
  · exact CmdEnd.done.inj ht ▸ h
  · cases ht

theorem cmdWf_wait {s : State} (h : Memory.wf s.sto = true) : CmdWf (.wait s) := fun _ ht => by
  obtain ht | ht := ht
  · cases ht
  · exact CmdEnd.wait.inj ht ▸ h

theorem optionWf_none : OptionWf none := fun _ h => nomatch h

theorem optionWf_some {s : State} (h : Memory.wf s.sto = true) : OptionWf (some s) := fun _ ht => Option.some.inj ht ▸ h

theorem optionWf_bind {α : Type} {o : Option α} {f : α → Option State} (hf : ∀ x, OptionWf (f x)) : OptionWf (o.bind f) := by
  cases o with
  | none => exact optionWf_none
  | some x => exact hf x

theorem optionWf_then {o : Option State} {f : State → Option State} (ho : OptionWf o)
    (hf : ∀ s, Memory.wf s.sto = true → OptionWf (f s)) : OptionWf (o.bind f) := by
  cases o with
  | none => exact optionWf_none
  | some s => exact hf s (ho s rfl)

/-- Canonical form is that of each of the three memories. -/
theorem wf_parts {m : Storage} (h : Memory.wf m = true) :
    cellsWf m.mem = true ∧ cellsWf m.spad = true ∧ cellsWf m.ws = true := by
  simpa [Memory.wf, and_assoc] using h

theorem wf_of_parts {m : Storage} (hm : cellsWf m.mem = true) (hs : cellsWf m.spad = true) (hw : cellsWf m.ws = true) :
    Memory.wf m = true := by
  simp [Memory.wf, hm, hs, hw]

theorem exceptWf_error {ε : Type} {e : ε} : ExceptWf (.error e) := fun _ h => nomatch h

theorem exceptWf_ok {ε : Type} {s : State} (h : Memory.wf s.sto = true) : ExceptWf (ε := ε) (.ok s) :=
  fun _ ht => Except.ok.inj ht ▸ h

theorem answers_fault {f : Fault} : Answers (.fault f) := fun _ h => nomatch h

theorem answers_next {s : State} (h : Memory.wf s.sto = true) : Answers (.next s) := fun _ ht => Host.Outcome.next.inj ht ▸ h

theorem wf_fst {α : Type} {x : State × α} {s : State} {a : α} (hx : x = (s, a)) (h : Memory.wf x.1.sto = true) :
    Memory.wf s.sto = true := by rwa [hx] at h

theorem ite_wf {p : Prop} [Decidable p] {s t : State} (hs : Memory.wf s.sto = true) (ht : Memory.wf t.sto = true) :
    Memory.wf (if p then s else t).sto = true := by
  split
  exacts [hs, ht]

theorem foldl_wf {α : Type} {f : State → α → State} {s : State} {l : List α} (h : Memory.wf s.sto = true)
    (hf : ∀ s x, Memory.wf s.sto = true → Memory.wf (f s x).sto = true) : Memory.wf (l.foldl f s).sto = true := by
  induction l generalizing s with
  | nil => exact h
  | cons x r ih => exact ih (hf s x h)

theorem foldl_fst_wf {α β : Type} {f : State × β → α → State × β} {s : State} {b : β} {l : List α}
    (h : Memory.wf s.sto = true) (hf : ∀ r x, Memory.wf r.1.sto = true → Memory.wf (f r x).1.sto = true) :
    Memory.wf (l.foldl f (s, b)).1.sto = true := by
  suffices ∀ r : State × β, Memory.wf r.1.sto = true → Memory.wf (l.foldl f r).1.sto = true from this _ h
  induction l with
  | nil => exact fun _ h => h
  | cons x r ih => exact fun p hp => ih _ (hf p x hp)

theorem getD_wf {o : Option State} {s : State} (ho : OptionWf o) (h : Memory.wf s.sto = true) :
    Memory.wf (o.getD s).sto = true := by
  cases o with
  | none => exact h
  | some t => exact ho t rfl

theorem elim_wf {α : Type} {o : Option α} {s : State} {f : α → State} (h : Memory.wf s.sto = true)
    (hf : ∀ x, Memory.wf (f x).sto = true) : Memory.wf (o.elim s f).sto = true := by
  cases o with
  | none => exact h
  | some x => exact hf x

theorem exceptWf_map {ε : Type} {e : Except ε State} {f : State → State} (he : ExceptWf e)
    (hf : ∀ s, Memory.wf s.sto = true → Memory.wf (f s).sto = true) : ExceptWf (e.map f) := by
  cases e with
  | error x => exact exceptWf_error
  | ok s => exact exceptWf_ok (hf s (he s rfl))

theorem optionWf_mapAll {α : Type} {o : Option α} {f : α → State} (hf : ∀ x, Memory.wf (f x).sto = true) :
    OptionWf (o.map f) := by
  cases o with
  | none => exact optionWf_none
  | some x => exact optionWf_some (hf x)

theorem optionWf_map {o : Option State} {f : State → State} (ho : OptionWf o)
    (hf : ∀ s, Memory.wf s.sto = true → Memory.wf (f s).sto = true) : OptionWf (o.map f) := by
  cases o with
  | none => exact optionWf_none
  | some s => exact optionWf_some (hf s (ho s rfl))

theorem vwriteOption_wf {s : State} {c : Context} {va : Nat} {bs : List Byte} (h : Memory.wf s.sto = true) :
    OptionWf (s.vwrite c va bs) := fun _ => vwrite_wf h

end Sys2Proof.Proofs
end

section
/-! PROOFS. Every operation on the state keeps the memories in canonical form. -/

namespace Sys2Proof.Proofs

open Sys2Proof.Machine Sys2Proof.Safety Sys2Proof.Laws

set_option Elab.async false

theorem bump_wf {s : State} (h : Memory.wf s.sto = true) : Memory.wf (s.bump).sto = true := h

theorem updGrp_wf {s : State} {g : Nat} {f : Machine.Group → Machine.Group} (h : Memory.wf s.sto = true) :
    Memory.wf (s.updGrp g f).sto = true := h

theorem updConv_wf {s : State} {owner k : Nat} {f : Conv → Conv} (h : Memory.wf s.sto = true) :
    Memory.wf (s.updConv owner k f).sto = true := h

theorem updFly_wf {s : State} {f : Flight → Flight} (h : Memory.wf s.sto = true) : Memory.wf (s.updFly f).sto = true := h

theorem sendMsi_wf {s : State} {vec : Nat} (h : Memory.wf s.sto = true) : Memory.wf (s.sendMsi vec).sto = true := by
  unfold State.sendMsi
  dsimp only
  split <;> exact h

theorem fqWrite_wf {s : State} {c : Context} {f : FaultInfo} (h : Memory.wf s.sto = true) :
    Memory.wf (s.fqWrite c f).sto = true := by
  unfold State.fqWrite
  dsimp only
  split
  · exact h
  · next ht =>
      split
      · exact getD_wf (vwriteOption_wf h) h
      · split
        · exact h
        · next ht1 =>
            split
            · exact vwriteOption_wf h _ ht1
            · next ht2 =>
                split
                · exact sendMsi_wf (vwriteOption_wf (vwriteOption_wf h _ ht1) _ ht2)
                · exact vwriteOption_wf (vwriteOption_wf h _ ht1) _ ht2

theorem lostError_wf {s : State} {t : Nat} {h : HeldError} (hm : Memory.wf s.sto = true) :
    Memory.wf (s.lostError t h).sto = true := by
  unfold State.lostError
  exact fqWrite_wf hm

theorem updThr_wf {s : State} {t : Nat} {f : Thread → Thread} (h : Memory.wf s.sto = true) :
    Memory.wf (s.updThr t f).sto = true := h

theorem holdError_wf {s : State} {t : Nat} {h : HeldError} (hm : Memory.wf s.sto = true) :
    Memory.wf (s.holdError t h).sto = true := by
  unfold State.holdError
  split
  exacts [lostError_wf hm, hm]

theorem updTeam_wf {s : State} {m : Nat} {f : Team → Team} (h : Memory.wf s.sto = true) :
    Memory.wf (s.updTeam m f).sto = true := h

theorem updResv_wf {s : State} {m r : Nat} {f : Resv → Resv} (h : Memory.wf s.sto = true) :
    Memory.wf (s.updResv m r f).sto = true := h

theorem updCtx_wf {s : State} {c : Nat} {f : Context → Context} (h : Memory.wf s.sto = true) :
    Memory.wf (s.updCtx c f).sto = true := h

theorem charge_wf {s : State} {ctx core units : Nat} (h : Memory.wf s.sto = true) :
    Memory.wf (s.charge ctx core units).sto = true := h

theorem takeId_wf {s : State} (h : Memory.wf s.sto = true) : Memory.wf (s.takeId).sto = true := h

theorem enqueue_wf {s : State} {m r : Nat} {k t : Nat} {pc : Dword} {kind : MKind} (h : Memory.wf s.sto = true) :
    Memory.wf (s.enqueue m r k t pc kind).sto = true := h

theorem issueTile_wf {s : State} {m issuer : Nat} {pc : Dword} {x : Issue} (h : Memory.wf s.sto = true) :
    ExceptWf (s.issueTile m issuer pc x) := by
  unfold State.issueTile
  dsimp only
  split
  · exact exceptWf_error
  · split
    · exact exceptWf_error
    · split
      · exact exceptWf_error
      · split
        · exact exceptWf_error
        · split
          exacts [exceptWf_error, exceptWf_ok h]

theorem updAccum_wf {s : State} {m r k : Nat} {f : Accum → Accum} (h : Memory.wf s.sto = true) :
    Memory.wf (s.updAccum m r k f).sto = true := h

theorem setSplit_wf {s : State} {owner k half : Nat} (h : Memory.wf s.sto = true) :
    Memory.wf (s.setSplit owner k half).sto = true := by
  unfold State.setSplit
  split
  exacts [h, foldl_wf h (fun _ _ h1 => h1)]

theorem issueHalf_wf {s : State} {owner k : Nat} {half issuer : Nat} {pc : Dword} {split : Bool}
    (h : Memory.wf s.sto = true) :
    ExceptWf (s.issueHalf owner k half issuer pc split) := by
  unfold State.issueHalf
  split
  · exact exceptWf_ok h
  · next ht =>
      split
      · exact exceptWf_error
      · next ht1 =>
          exact exceptWf_ok (by
              split
              exacts [setSplit_wf (issueTile_wf h _ ht1), issueTile_wf h _ ht1]
          )

theorem closeWindow_wf {s : State} {owner k : Nat} (h : Memory.wf s.sto = true) :
    Memory.wf (s.closeWindow owner k).sto = true := by
  unfold State.closeWindow
  dsimp only
  split
  · exact updConv_wf h
  · next ht =>
      split
      · exact h
      · split
        · exact holdError_wf (updConv_wf h)
        · split
          · next ht2 =>
              exact updConv_wf (issueHalf_wf h _ ht2 :)
          · exact holdError_wf (updConv_wf h)

theorem updUnit_wf {s : State} {u : Nat} {f : IssueUnit → IssueUnit} (h : Memory.wf s.sto = true) :
    Memory.wf (s.updUnit u f).sto = true := h

theorem each_wf {s : State} {ok : List (Nat × Nat)} {f : Nat × Nat → Thread → Thread} (h : Memory.wf s.sto = true) :
    Memory.wf (s.each ok f).sto = true := h

theorem issued_wf {s : State} (h : Memory.wf s.sto = true) : Memory.wf (s.issued).sto = true := h

theorem traceBytes_wf {s : State} {d : Debug} {bs : List Byte} (h : Memory.wf s.sto = true) :
    Memory.wf (s.traceBytes d bs).sto = true := writePhys_wf h _ _

theorem setDebug_wf {s : State} {ctx : Nat} {d : Debug} (h : Memory.wf s.sto = true) :
    Memory.wf (s.setDebug ctx d).sto = true := h

theorem closePage_wf {s : State} {ctx : Nat} {d : Debug} (h : Memory.wf s.sto = true) :
    Memory.wf (s.closePage ctx d).1.sto = true := by
  unfold State.closePage
  split
  exacts [setDebug_wf (writePhys_wf (traceBytes_wf h) _ _), h]

theorem traceRoom_wf {s : State} {ctx : Nat} {d : Debug} {n eclass : Nat} (h : Memory.wf s.sto = true) :
    Memory.wf (s.traceRoom ctx d n eclass).1.sto = true := by
  unfold State.traceRoom
  dsimp only
  split
  · split
    · exact closePage_wf h
    · split
      · split
        · exact setDebug_wf (traceBytes_wf (closePage_wf h))
        · exact setDebug_wf (traceBytes_wf (traceBytes_wf (closePage_wf h)))
      · exact closePage_wf h
  · split
    · exact h
    · split
      · split
        exacts [setDebug_wf (traceBytes_wf h), setDebug_wf (traceBytes_wf (traceBytes_wf h))]
      · exact h

theorem trace_wf {s : State} {ctx : Nat} {u : Option Nat} {eclass : Nat} {packet : List Byte} (h : Memory.wf s.sto = true) :
    Memory.wf (s.trace ctx u eclass packet).sto = true := by
  unfold State.trace
  dsimp only
  split
  · exact h
  · next ht =>
      split
      · next ht1 =>
          exact setDebug_wf (wf_fst ht1 (traceRoom_wf h) :)
      · next ht1 =>
          split
          · exact closePage_wf (setDebug_wf (traceBytes_wf (wf_fst ht1 (traceRoom_wf h) :)))
          · exact setDebug_wf (traceBytes_wf (wf_fst ht1 (traceRoom_wf h) :))

theorem unitTrace_wf {s : State} {u : Nat} {packet : List Byte} (h : Memory.wf s.sto = true) :
    Memory.wf (s.unitTrace u packet).sto = true := updUnit_wf (trace_wf h)

theorem clauseTrace_wf {s : State} {ending n : Nat} {target : Dword} (h : Memory.wf s.sto = true) :
    Memory.wf (s.clauseTrace ending n target).sto = true := by
  unfold State.clauseTrace
  dsimp only
  split
  · exact h
  · split
    · split
      exacts [unitTrace_wf (unitTrace_wf h), unitTrace_wf h]
    · exact h

theorem leaveUnit_wf {s : State} {t : Nat} (h : Memory.wf s.sto = true) : Memory.wf (s.leaveUnit t).sto = true := h

theorem dropMop_wf {s : State} {id : Nat} (h : Memory.wf s.sto = true) : Memory.wf (s.dropMop id).sto = true := h

theorem discardSuspended_wf {s : State} {t : Nat} (h : Memory.wf s.sto = true) :
    Memory.wf (s.discardSuspended t).sto = true := foldl_wf h (fun _ _ h1 => foldl_wf h1 (fun _ _ h2 => h2))

theorem convIssue_wf {s : State} {owner k issuer : Nat} {pc : Dword} (h : Memory.wf s.sto = true) :
    ExceptWf (s.convIssue owner k issuer pc) := by
  unfold State.convIssue
  dsimp only
  split
  · split
    · exact exceptWf_ok h
    · exact exceptWf_map (issueHalf_wf h) (fun _ h1 => h1)
    · split
      exacts [exceptWf_ok h, exceptWf_map (issueTile_wf h) (fun _ h1 => h1)]
  · split
    exacts [exceptWf_map (issueHalf_wf h) (fun _ h1 => h1), exceptWf_ok h]

theorem soloIssue_wf {s : State} {owner k : Nat} (h : Memory.wf s.sto = true) :
    Memory.wf (s.soloIssue owner k).sto = true := by
  unfold State.soloIssue
  dsimp only
  split
  · next ht =>
      split
      · exact closeWindow_wf h
      · split
        · exact updConv_wf (closeWindow_wf h)
        · split
          · exact closeWindow_wf h
          · split
            · exact holdError_wf (updConv_wf (closeWindow_wf h))
            · split
              · exact closeWindow_wf h
              · split
                · next ht3 =>
                    exact (convIssue_wf (closeWindow_wf h) _ ht3 :)
                · exact holdError_wf (updConv_wf (closeWindow_wf h))
  · split
    · exact updConv_wf h
    · next ht =>
        split
        · exact h
        · split
          · exact holdError_wf (updConv_wf h)
          · split
            · exact h
            · split
              · next ht2 =>
                  exact (convIssue_wf h _ ht2 :)
              · exact holdError_wf (updConv_wf h)

theorem openWindow_wf {s : State} {owner k : Nat} (h : Memory.wf s.sto = true) :
    Memory.wf (s.openWindow owner k).sto = true := by
  unfold State.openWindow
  dsimp only
  split
  · split <;> exact h
  · exact h

theorem convExit_wf {s : State} {t owner : Nat} {k half : Nat} (h : Memory.wf s.sto = true) :
    Memory.wf (s.convExit t owner k half).sto = true := by
  unfold State.convExit
  dsimp only
  split
  · split
    exacts [soloIssue_wf (updConv_wf h), openWindow_wf (updConv_wf h)]
  · exact h

theorem fq12_wf {s : State} {ctx code : Nat} {addr aux : Nat} (h : Memory.wf s.sto = true) :
    Memory.wf (s.fq12 ctx code addr aux).sto = true := fqWrite_wf h

theorem writeStamp_wf {s : State} {c : Context} {va kind : Nat} {bs : List Byte} (h : Memory.wf s.sto = true) :
    Memory.wf (s.writeStamp c va kind bs).sto = true := by
  unfold State.writeStamp
  split
  · next ht =>
      exact vwriteOption_wf h _ ht
  · exact fq12_wf h

theorem writeEnergy_wf {s : State} {ctx : Nat} {p : Nat → Bool} (h : Memory.wf s.sto = true) :
    Memory.wf (s.writeEnergy ctx p).sto = true := writeStamp_wf h

theorem leaveCores_wf {s : State} {m : Nat} (h : Memory.wf s.sto = true) : Memory.wf (s.leaveCores m).sto = true := by
  unfold State.leaveCores
  dsimp only
  split
  exacts [h, writeEnergy_wf h]

theorem ask_wf {s : State} {ctx dev tctx : Nat} {token : Dword} {op : RemoteOp} (h : Memory.wf s.sto = true) :
    Memory.wf (s.ask ctx dev tctx token op).sto = true := h

theorem dropSubs_wf {s : State} {m : Nat} {park : Bool} (h : Memory.wf s.sto = true) :
    Memory.wf (s.dropSubs m park).sto = true := by
  unfold State.dropSubs
  obtain ⟨peerOf, hp⟩ := exists_eq (a' := State.peerOf)
  rw [← hp]
  refine foldl_wf (updFly_wf (ite_wf (foldl_wf h fun _ _ h1 => elim_wf h1 fun _ => updThr_wf h1) h)) fun _ _ h1 => ?_
  split
  exacts [ask_wf h1, h1]

theorem relAtEnd_wf {s : State} {m : Nat} (h : Memory.wf s.sto = true) : Memory.wf (s.relAtEnd m).sto = true :=
  foldl_wf (foldl_wf h (fun _ _ h1 => foldl_wf h1 (fun _ _ h2 => h2))) (fun _ _ h1 => by
    split
    · exact h1
    · split <;> exact h1
)

theorem chargeLines_wf {s : State} {ctx core : Nat} {ls : List (Nat × Nat)} (h : Memory.wf s.sto = true) :
    Memory.wf (s.chargeLines ctx core ls).sto = true := by
  unfold State.chargeLines
  split <;> exact h

theorem finish_wf {s : State} {id t : Nat} {pc : Dword} {c : Ctr} {moved : List (Nat × Nat)} {err : Option Failure}
    (h : Memory.wf s.sto = true) :
    Memory.wf (s.finish id t pc c moved err).sto = true := h

theorem endJob_wf {s : State} {j : Job} {err : Option Failure} (h : Memory.wf s.sto = true) :
    Memory.wf (s.endJob j err).sto = true := by
  unfold State.endJob
  split
  exacts [chargeLines_wf h, h]

theorem orphan_wf {s : State} {m : Nat} {g : Option Nat} (h : Memory.wf s.sto = true) :
    Memory.wf (s.orphan m g).sto = true := by
  unfold State.orphan
  exact fqWrite_wf h

theorem dropParked_wf {s : State} {m : Nat} (h : Memory.wf s.sto = true) : Memory.wf (s.dropParked m).sto = true :=
  foldl_wf h (fun _ _ h1 => endJob_wf (foldl_wf h1 (fun _ _ h2 => orphan_wf h2)))

theorem updEntry_wf {s : State} {m e : Nat} {f : Entry → Entry} (h : Memory.wf s.sto = true) :
    Memory.wf (s.updEntry m e f).sto = true := h

theorem dropFlushes_wf {s : State} {m e : Nat} {p : Nat → Bool} (h : Memory.wf s.sto = true) :
    Memory.wf (s.dropFlushes m e p).sto = true := foldl_wf h (fun _ _ h1 => endJob_wf h1)

theorem settleFill_wf {s : State} {id : Nat} (h : Memory.wf s.sto = true) : Memory.wf (s.settleFill id).sto = true := by
  unfold State.settleFill
  split
  · exact h
  · split
    exacts [h, endJob_wf h]

theorem dropFill_wf {s : State} {j : Job} (h : Memory.wf s.sto = true) : Memory.wf (s.dropFill j).sto = true := by
  unfold State.dropFill
  dsimp only
  split
  · exact settleFill_wf h
  · split
    exacts [h, endJob_wf h]

theorem unbindOf_wf {s : State} {m e : Nat} {program : Bool} {next : DestState} {p : Nat → Bool}
    (h : Memory.wf s.sto = true) :
    Memory.wf (s.unbindOf m e program next p).sto = true :=
  dropFlushes_wf (elim_wf (foldl_wf h (fun _ _ h1 => by
    split
    exacts [writeSpad_wf h1 _ _, orphan_wf h1]
)) (fun _ => dropFill_wf (foldl_wf h (fun _ _ h1 => by
    split
    exacts [writeSpad_wf h1 _ _, orphan_wf h1]
))))

theorem unbind_wf {s : State} {m e : Nat} {program : Bool} {next : DestState} (h : Memory.wf s.sto = true) :
    Memory.wf (s.unbind m e program next).sto = true := unbindOf_wf h

theorem unbindAll_wf {s : State} {m : Nat} (h : Memory.wf s.sto = true) : Memory.wf (s.unbindAll m).sto = true :=
  foldl_wf h (fun _ _ h1 => unbind_wf h1)

theorem retireTeam_wf {s : State} {m : Nat} (h : Memory.wf s.sto = true) : Memory.wf (s.retireTeam m).sto = true :=
  updTeam_wf (dropSubs_wf (relAtEnd_wf (dropParked_wf (unbindAll_wf h))))

theorem freeResvs_wf {s : State} {m : Nat} (h : Memory.wf s.sto = true) : Memory.wf (s.freeResvs m).sto = true := h

theorem parkTeam_wf {s : State} {m : Nat} (h : Memory.wf s.sto = true) : Memory.wf (s.parkTeam m).sto = true :=
  updTeam_wf (updCtx_wf (dropSubs_wf (freeResvs_wf (unbindAll_wf h))))

theorem checkTeam_wf {s : State} {m : Nat} (h : Memory.wf s.sto = true) : Memory.wf (s.checkTeam m).sto = true := by
  unfold State.checkTeam
  dsimp only
  split
  · split
    exacts [leaveCores_wf (retireTeam_wf h), h]
  · split
    · exact leaveCores_wf (retireTeam_wf h)
    · split
      exacts [leaveCores_wf (parkTeam_wf h), h]
  · exact h

theorem endThread_wf {s : State} {t : Nat} (h : Memory.wf s.sto = true) : Memory.wf (s.endThread t).sto = true := by
  unfold State.endThread
  exact checkTeam_wf (foldl_wf (updGrp_wf (updThr_wf (leaveUnit_wf h))) (fun _ _ h1 => convExit_wf h1))

theorem haltThread_wf {s : State} {t : Nat} (h : Memory.wf s.sto = true) : Memory.wf (s.haltThread t).sto = true := by
  unfold State.haltThread
  split
  · exact h
  · exact endThread_wf (discardSuspended_wf (updThr_wf (foldl_wf h (fun _ _ h1 => lostError_wf h1))))

theorem unbindGroup_wf {s : State} {g : Nat} (h : Memory.wf s.sto = true) : Memory.wf (s.unbindGroup g).sto = true :=
  foldl_wf h (fun _ _ h1 => by
    dsimp only
    split
    exacts [unbindOf_wf h1, h1]
)

theorem haltGroup_wf {s : State} {g : Nat} (h : Memory.wf s.sto = true) : Memory.wf (s.haltGroup g).sto = true :=
  foldl_wf (unbindGroup_wf h) (fun _ _ h1 => haltThread_wf h1)

theorem doubleFault_wf {s : State} {t : Nat} {info : FaultInfo} (h : Memory.wf s.sto = true) :
    Memory.wf (s.doubleFault t info).sto = true := haltGroup_wf (fqWrite_wf h)

theorem enroll_wf {s : State} {us : List IssueUnit} (h : Memory.wf s.sto = true) : Memory.wf (s.enroll us).sto = true :=
  foldl_wf h (fun _ _ h1 => h1)

theorem vector_wf {s : State} {ps : List ((Nat × Nat) × FaultInfo)} {mode : Nat} {target : Dword} {stopAsk : Option Nat}
    (h : Memory.wf s.sto = true) :
    Memory.wf (s.vector ps mode target stopAsk).sto = true := enroll_wf (foldl_wf h (fun _ _ h1 => h1))

theorem takeTrap_wf {s : State} {p : Nat × Nat} {f : Trap} (h : Memory.wf s.sto = true) :
    Memory.wf (s.takeTrap p f).sto = true := by
  unfold State.takeTrap
  dsimp only
  split
  · split
    exacts [leaveUnit_wf (doubleFault_wf (updThr_wf h)), vector_wf h]
  · exact doubleFault_wf h

theorem takeTraps_wf {s : State} {l : List ((Nat × Nat) × Trap)} (h : Memory.wf s.sto = true) :
    Memory.wf (s.takeTraps l).sto = true := foldl_wf h (fun _ _ h1 => takeTrap_wf h1)

theorem updMop_wf {s : State} {id : Nat} {f : MOp → MOp} (h : Memory.wf s.sto = true) :
    Memory.wf (s.updMop id f).sto = true := h

theorem tellTrap_wf {s : State} {t : Nat} {f : Trap} (h : Memory.wf s.sto = true) :
    Memory.wf (s.tellTrap t f).sto = true := by
  unfold State.tellTrap
  split <;> exact h

theorem takeAll_wf {s : State} {note : State → Nat × Nat → State} {l : List ((Nat × Nat) × Trap)}
    (h : Memory.wf s.sto = true) (hn : ∀ s p, Memory.wf s.sto = true → Memory.wf (note s p).sto = true) :
    Memory.wf (s.takeAll note l).sto = true := by
  unfold State.takeAll
  split
  · exact takeTraps_wf (foldl_wf (clauseTrace_wf h) fun _ _ h => hn _ _ (tellTrap_wf h))
  · exact takeTraps_wf (foldl_wf h fun _ _ h => hn _ _ (tellTrap_wf h))

theorem noteTlb_wf {s : State} {c : Context} {va : Nat} (h : Memory.wf s.sto = true) :
    Memory.wf (s.noteTlb c va).sto = true := by
  unfold State.noteTlb
  dsimp only
  split
  · exact h
  · split
    · exact h
    · split <;> exact h

theorem noteTlbs_wf {s : State} {c : Context} {vas : List Nat} (h : Memory.wf s.sto = true) :
    Memory.wf (s.noteTlbs c vas).sto = true := foldl_wf h (fun _ _ h1 => noteTlb_wf h1)

theorem delivered_wf {s : State} {t : Nat} {c : Ctr} {th : Nat} (h : Memory.wf s.sto = true) :
    Memory.wf (s.delivered t c th).sto = true := by
  unfold State.delivered
  dsimp only
  split
  · split <;> exact h
  · exact h

theorem block_wf {s : State} {held : List Nat} (h : Memory.wf s.sto = true) : Memory.wf (s.block held).sto = true := h

theorem issueClause_wf {s : State} (h : Memory.wf s.sto = true) : Memory.wf (s.issueClause).sto = true := by
  unfold State.issueClause
  dsimp only
  split
  · exact issued_wf (takeAll_wf h (fun _ _ h1 => h1))
  · split
    · exact issued_wf (takeAll_wf h (fun _ _ h1 => h1))
    · split
      · exact updUnit_wf (updUnit_wf (noteTlbs_wf h))
      · split
        · exact block_wf (takeAll_wf (noteTlbs_wf h) (fun _ _ h1 => delivered_wf h1))
        · exact updUnit_wf (takeAll_wf (updUnit_wf (noteTlbs_wf h)) (fun _ _ h1 => delivered_wf h1))

theorem illegalWord_wf {s : State} (h : Memory.wf s.sto = true) : Memory.wf (s.illegalWord).sto = true :=
  issued_wf (takeAll_wf h (fun _ _ h1 => h1))

theorem pay_wf {s : State} {ctx core cost : Nat} {ok : List (Nat × Nat)} (h : Memory.wf s.sto = true) :
    Memory.wf (s.pay ctx core cost ok).sto = true := by
  unfold State.pay
  split <;> exact h

theorem run_wf {s : State} {w : Work} (h : Memory.wf s.sto = true) (hw : WorkWf w) : Answers (s.run w) := by
  unfold State.run
  split
  · exact answers_next (block_wf (takeAll_wf h hw.note))
  · refine answers_next (hw.fin _ (issued_wf (takeAll_wf ?_ hw.note)))
    split
    · exact hw.act _ _ (pay_wf h)
    · exact pay_wf (hw.act _ _ h)

theorem putDst_wf {s : State} {ok : List (Nat × Nat)} {d : Opnd} {f : Nat × Nat → List Word} (h : Memory.wf s.sto = true) :
    Memory.wf (s.putDst ok d f).sto = true := by
  unfold State.putDst
  split
  · exact h
  · split <;> exact h
  · exact h

theorem nextWord_wf {s : State} (h : Memory.wf s.sto = true) : Memory.wf (s.nextWord).sto = true := by
  unfold State.nextWord
  split
  exacts [updUnit_wf (clauseTrace_wf h), updUnit_wf h]

theorem advance_wf {s : State} (h : Memory.wf s.sto = true) : Memory.wf (s.advance).sto = true := by
  unfold State.advance
  split
  · exact nextWord_wf (updUnit_wf h)
  · split
    exacts [updUnit_wf h, nextWord_wf (each_wf (updUnit_wf h))]

theorem arith_wf {cost g : Nat} {d : Opnd} {dn : Nat} {dRead : Bool} {a : Opnd} {an : Nat} {b : Opnd} {bn : Nat}
    {f : Word → Dword → Dword → Dword → Dword × Word} :
    WorkWf (arith cost g d dn dRead a an b bn f) :=
  { act := fun _ _ h => each_wf (putDst_wf h) }

theorem int2_wf {g : Nat} {d a b : Opnd} {f : Word → Word → Word} : WorkWf (int2 g d a b f) := arith_wf

theorem int3_wf {g : Nat} {d a b : Opnd} {f : Word → Word → Word → Word} : WorkWf (int3 g d a b f) := arith_wf

theorem int64x_wf {g : Nat} {d a b : Opnd} {bn : Nat} {f : Dword → Dword → Dword} :
    WorkWf (int64x g d a b bn f) := arith_wf

theorem putPred_wf {s : State} {ok : List (Nat × Nat)} {q : Nat} {f : Nat × Nat → Bool} (h : Memory.wf s.sto = true) :
    Memory.wf (s.putPred ok q f).sto = true := each_wf h

theorem cmpWork_wf {cost g q : Nat} {a : Opnd} {an : Nat} {b : Opnd} {bn : Nat} {f : Word → Dword → Dword → Bool} :
    WorkWf (cmpWork cost g q a an b bn f) :=
  { act := fun _ _ h => putPred_wf h }

theorem predWork_wf {g q : Nat} {f : BitVec 16 → Bool} : WorkWf (predWork g q f) :=
  { act := fun _ _ h => putPred_wf h }

theorem flt_wf {g : Nat} {d : Opnd} {dRead : Bool} {a b : Opnd} {f : Word → Nat → Nat → Nat → Nat} :
    WorkWf (flt g d dRead a b f) := arith_wf

theorem flt64_wf {g : Nat} {d : Opnd} {dRead : Bool} {a b : Opnd} {f : Word → Nat → Nat → Nat → Nat} :
    WorkWf (flt64 g d dRead a b f) := arith_wf

theorem rearrange_wf {g : Nat} {d a : Opnd} {f : Nat → Nat} : WorkWf (rearrange g d a f) :=
  { act := fun _ _ h => putDst_wf h }

theorem specialWork_wf {g : Nat} {d a : Opnd} {f : Bool → Bool → Nat → Nat} : WorkWf (specialWork g d a f) := flt_wf

theorem sample_wf {s : State} {batch space : Nat} {lanes : List (Nat × Nat)} {sectors : Nat} (h : Memory.wf s.sto = true) :
    Memory.wf (s.sample batch space lanes sectors).sto = true := by
  unfold State.sample
  dsimp only
  split
  · exact h
  · split
    exacts [setDebug_wf h, h]

theorem accessed_wf {s : State} {batch : Nat} {l : List Machine.Acc} (h : Memory.wf s.sto = true) :
    Memory.wf (s.accessed batch l).sto = true :=
  foldl_wf (by
    split
    exacts [h, sample_wf h]
) (fun _ _ h1 => by
    split
    exacts [noteTlb_wf h1, noteTlb_wf h1, h1]
)

theorem askPeer_wf {s : State} {t entry : Nat} {op : RemoteOp} (h : Memory.wf s.sto = true) :
    OptionWf (s.askPeer t entry op) := optionWf_mapAll (fun _ => ask_wf h)

theorem askLine_wf {s : State} {l : List Machine.Acc} {op : Nat → RemoteOp} (h : Memory.wf s.sto = true) :
    Memory.wf (s.askLine l op).1.sto = true := by
  unfold State.askLine
  split
  · split
    · next ht =>
        split
        · next ht1 =>
            exact (askPeer_wf h _ ht1 :)
        · exact h
    · exact h
  · exact h

theorem charged_wf {s : State} {batch : Nat} {l : List Machine.Acc} {side : Nat × Nat → List (Nat × Nat)}
    (h : Memory.wf s.sto = true) :
    Memory.wf (s.charged batch l side).sto = true := updFly_wf h

theorem startOp_wf {s : State} {t batch va : Nat} {kind : OpKind} (h : Memory.wf s.sto = true) :
    Memory.wf (s.startOp t batch va kind).sto = true := takeId_wf (updFly_wf h)

theorem emptyDst_wf {s : State} {ok : List (Nat × Nat)} {d : Opnd} {n : Nat} {id : Nat × Nat → Nat}
    (h : Memory.wf s.sto = true) :
    Memory.wf (s.emptyDst ok d n id).sto = true := by
  unfold State.emptyDst
  split
  · exact each_wf h
  · split
    exacts [updGrp_wf h, h]
  · exact h

theorem start_wf {s : State} {p : Nat × Nat} {batch va : Nat} {dst : Opnd} {words : Nat} {ctr : Option Ctr} {kind : OpKind}
    (h : Memory.wf s.sto = true) :
    Memory.wf (s.start p batch va dst words ctr kind).sto = true :=
  startOp_wf (emptyDst_wf (by
    split
    exacts [updThr_wf h, h]
))

theorem setOp_wf {s : State} {id : Nat} {k : OpKind} (h : Memory.wf s.sto = true) : Memory.wf (s.setOp id k).sto = true :=
  updFly_wf h

theorem noteToken_wf {s : State} {core line : Nat} (h : Memory.wf s.sto = true) :
    Memory.wf (s.noteToken core line).sto = true := by
  unfold State.noteToken
  split <;> exact h

theorem noteVisitor_wf {s : State} {core line : Nat} {sc : Scope} (h : Memory.wf s.sto = true) :
    Memory.wf (s.noteVisitor core line sc).sto = true := by
  unfold State.noteVisitor
  split
  · exact h
  · exact h
  · split
    · exact h
    · split <;> exact h

theorem sampleOne_wf {s : State} {id : Nat} (h : Memory.wf s.sto = true) : Memory.wf (s.sampleOne id).sto = true := by
  unfold State.sampleOne
  dsimp only
  split
  · exact h
  · split
    · split
      exacts [noteToken_wf (noteVisitor_wf (setOp_wf h)), setOp_wf h]
    · exact h

theorem sampleLoads_wf {s : State} {p : Op → Bool} (h : Memory.wf s.sto = true) : Memory.wf (s.sampleLoads p).sto = true :=
  foldl_wf h (fun _ _ h1 => sampleOne_wf h1)

theorem startLoad_wf {s : State} {d : Opnd} {words : Nat} {sext : Bool} {ctr : Option Ctr} {sc : Scope}
    {acq : Option Scope} {spad : Option Nat} {batch : Nat} {lead : Bool} {req : Option Nat} {a : Machine.Acc}
    (h : Memory.wf s.sto = true) :
    Memory.wf (s.startLoad d words sext ctr sc acq spad batch lead req a).sto = true := by
  unfold State.startLoad
  dsimp only
  split
  · next ht =>
      split
      · exact start_wf h
      · next ht1 =>
          exact start_wf (askPeer_wf h _ ht1 :)
      · exact start_wf h
  · split
    · exact updFly_wf (by
          split
          exacts [sampleLoads_wf (start_wf h), start_wf h])
    · split
      exacts [sampleLoads_wf (start_wf h), start_wf h]

theorem startLoads_wf {s : State} {d : Opnd} {words : Nat} {sext : Bool} {ctr : Option Ctr} {sc : Scope}
    {acq : Option Scope} {l : List Machine.Acc} (h : Memory.wf s.sto = true) :
    Memory.wf (s.startLoads d words sext ctr sc acq l).sto = true :=
  charged_wf (foldl_wf (by
  split
  exacts [askLine_wf (accessed_wf h), accessed_wf h]) (fun _ _ h1 => startLoad_wf h1))

theorem acquire_wf {s : State} {core : Nat} {sc : Scope} (h : Memory.wf s.sto = true) :
    Memory.wf (s.acquire core sc).sto = true := by
  unfold State.acquire
  split <;> exact h

theorem shadowRelease_wf {s : State} {m : Nat} {sc : Scope} (h : Memory.wf s.sto = true) :
    Memory.wf (s.shadowRelease m sc).sto = true := by
  unfold State.shadowRelease
  split <;> exact h

theorem samplePlain_wf {s : State} {t : Nat} (h : Memory.wf s.sto = true) : Memory.wf (s.samplePlain t).sto = true :=
  sampleLoads_wf h

theorem settleLoads_wf {s : State} {ok : List (Nat × Nat)} (h : Memory.wf s.sto = true) :
    Memory.wf (s.settleLoads ok).sto = true := foldl_wf h (fun _ _ h1 => samplePlain_wf h1)

theorem startStore_wf {s : State} {batch : Nat} {req : Option Nat} {elem : Bool} {a : Machine.Acc} {bs : List Byte}
    (h : Memory.wf s.sto = true) :
    Memory.wf (s.startStore batch req elem a bs).sto = true := by
  unfold State.startStore
  dsimp only
  split
  · next ht =>
      split
      · exact start_wf h
      · next ht1 =>
          exact start_wf (askPeer_wf h _ ht1 :)
      · exact start_wf h
  · split
    exacts [updFly_wf (start_wf h), start_wf h]

theorem showAll_wf {s : State} {core : Nat} (h : Memory.wf s.sto = true) : Memory.wf (s.showAll core).sto = true :=
  updFly_wf h

theorem startStores_wf {s : State} {l : List (Machine.Acc × List Byte)} (h : Memory.wf s.sto = true) :
    Memory.wf (s.startStores l).sto = true := by
  unfold State.startStores
  dsimp only
  split
  · exact showAll_wf (charged_wf (foldl_wf (askLine_wf (accessed_wf h)) (fun _ _ h1 => startStore_wf h1)))
  · exact charged_wf (foldl_wf (askLine_wf (accessed_wf h)) (fun _ _ h1 => startStore_wf h1))

theorem enterQueue_wf {s : State} {j : Job} (h : Memory.wf s.sto = true) : Memory.wf (s.enterQueue j).sto = true :=
  updFly_wf (updEntry_wf h)

theorem newFill_wf {s : State} {m e : Nat} {starter : Option Nat} {first : List Nat} {pc : Dword}
    (h : Memory.wf s.sto = true) :
    Memory.wf (s.newFill m e starter first pc).sto = true := by
  unfold State.newFill
  dsimp only
  split
  exacts [takeId_wf (updFly_wf h), enterQueue_wf (takeId_wf (updFly_wf h))]

theorem firstTouch_wf {s : State} {m e : Nat} {offs : List Nat} {pc : Dword} (h : Memory.wf s.sto = true) :
    Memory.wf (s.firstTouch m e offs pc).sto = true := by
  unfold State.firstTouch
  split
  exacts [updFly_wf h, newFill_wf h]

theorem touchAll_wf {s : State} {m a len : Nat} {pc : Dword} (h : Memory.wf s.sto = true) :
    Memory.wf (s.touchAll m a len pc).sto = true := foldl_wf h (fun _ _ h1 => firstTouch_wf h1)

theorem startLds_wf {s0 s : State} {d : Opnd} {words batch : Nat} {sext lead : Bool} {a : Machine.Acc}
    (h : Memory.wf s.sto = true) : Memory.wf (s0.startLds s d words sext batch lead a).sto = true := by
  unfold State.startLds
  split
  exacts [touchAll_wf (start_wf h), startLoad_wf h]

theorem orderRead_wf {s : State} {core t : Nat} {q : Place} {n : Nat} {sc : Scope} (h : Memory.wf s.sto = true) :
    Memory.wf (s.orderRead core t q n sc).sto = true := by
  unfold State.orderRead
  split
  exacts [noteToken_wf (noteVisitor_wf (sampleLoads_wf h)), sampleLoads_wf h]

theorem startElems_wf {s : State} {l : List (Machine.Acc × List Byte)} (h : Memory.wf s.sto = true) :
    Memory.wf (s.startElems l).sto = true :=
  charged_wf (foldl_wf (accessed_wf h) (fun _ _ h1 => startStore_wf h1))

theorem startAtomic_wf {s : State} {aop : Nat} {ty : ATy} {x c : Dword} {d : Opnd} {ret : Bool} {acq : Option Scope}
    {batch : Nat} {lead : Bool} {a : Machine.Acc} (h : Memory.wf s.sto = true) :
    Memory.wf (s.startAtomic aop ty x c d ret acq batch lead a).sto = true := by
  unfold State.startAtomic
  dsimp only
  split
  · next ht =>
      split
      · exact start_wf h
      · next ht1 =>
          exact start_wf (askPeer_wf h _ ht1 :)
  · exact start_wf h

theorem atomicWork_wf {uses : List Use} {a : Opnd} {aop : Nat} {ty : ATy} {x c : State → Nat × Nat → Dword} {d : Opnd}
    {ret : Bool} {r : MOrd} {g : Nat} :
    WorkWf (atomicWork uses a aop ty x c d ret r g) := by
  unfold atomicWork
  exact { act := fun _ _ h => charged_wf (foldl_wf (accessed_wf (by
  split
  exacts [shadowRelease_wf (settleLoads_wf h), h])) (fun _ _ h1 => startAtomic_wf h1)), note := fun _ _ h => (by
  split
  exacts [delivered_wf h, h]) }

theorem contribute_wf {s : State} {t : TreeSet} {core elem : Nat} {level index : Nat} {v : Dword}
    {origin : Option (Nat × Dword)} (h : Memory.wf s.sto = true) :
    Memory.wf (s.contribute t core elem level index v origin).sto = true := takeId_wf (updFly_wf h)

theorem tstatKind_wf {s : State} {t : TreeSet} {elem : Nat} {dst : Opnd} (h : Memory.wf s.sto = true) :
    Memory.wf (s.tstatKind t elem dst).1.sto = true := by
  unfold State.tstatKind
  split
  exacts [h, ask_wf h]

theorem setSlot_wf {s : State} {m slot : Nat} {x : Slot} (h : Memory.wf s.sto = true) :
    Memory.wf (s.setSlot m slot x).sto = true :=
  writeSpad_wf (foldl_wf h (fun _ _ h1 => writeSpad_wf h1 _ _)) _ _

theorem askFor_wf {s : State} {ctx : Nat} {who : Reader} {entry : Nat} {op : RemoteOp} (h : Memory.wf s.sto = true) :
    Memory.wf (s.askFor ctx who entry op).sto = true := by
  unfold State.askFor
  split
  · exact h
  · split
    exacts [updFly_wf h, updFly_wf (ask_wf h)]

theorem sloadStart_wf {s : State} {ring : Bool} {a b : Opnd} {p : Nat × Nat} (h : Memory.wf s.sto = true) :
    ExceptWf (s.sloadStart ring a b p) := by
  unfold State.sloadStart
  dsimp only
  split
  · exact exceptWf_ok h
  · split
    · exact exceptWf_error
    · split
      · exact exceptWf_error
      · exact exceptWf_ok (by
            split
            · exact askFor_wf (noteTlb_wf (takeId_wf (updFly_wf (updThr_wf (setSlot_wf h)))))
            · exact noteTlb_wf (takeId_wf (updFly_wf (updThr_wf (setSlot_wf h))))
        )

theorem inTurn_wf {one : State → Nat × Nat → Except Trap State} {s : State} {l : List (Nat × Nat)}
    (h : Memory.wf s.sto = true) (ho : ∀ s p, Memory.wf s.sto = true → ExceptWf (one s p)) :
    Memory.wf (inTurn one s l).1.sto = true := by
  induction l generalizing s with
  | nil => exact h
  | cons p r ih =>
    unfold inTurn
    split
    · next h1 => exact ih (ho s p h _ h1)
    · exact ih h

theorem takeSlot_wf {s : State} {m slot batch : Nat} (h : Memory.wf s.sto = true) :
    Memory.wf (s.takeSlot m slot batch).sto = true :=
  acquire_wf (by
    split
    exacts [updFly_wf h, setSlot_wf (updFly_wf h)]
)

theorem updSlot_wf {s : State} {m slot : Nat} {f : Slot → Slot} (h : Memory.wf s.sto = true) :
    Memory.wf (s.updSlot m slot f).sto = true := setSlot_wf h

theorem unsubOne_wf {s : State} {b : Opnd} {p : Nat × Nat} (h : Memory.wf s.sto = true) :
    Memory.wf (s.unsubOne b p).sto = true := by
  unfold State.unsubOne
  dsimp only
  split
  · split
    · split
      · exact askFor_wf (takeId_wf (updFly_wf (updThr_wf (updSlot_wf h))))
      · exact takeId_wf (updFly_wf (updThr_wf (updSlot_wf h)))
    · exact takeId_wf (updFly_wf (updThr_wf (updSlot_wf h)))
  · exact h

theorem leadWork_wf {uses : List Use} {g : Nat} {ctr : Option Ctr} {r : Nat} {ks : List Nat}
    {chk : State → Nat × Nat → Option Trap} {act : State → Nat × Nat → State}
    (ha : ∀ s p, Memory.wf s.sto = true → Memory.wf (act s p).sto = true) : WorkWf (leadWork uses g ctr r ks chk act) where
  act s ok h := by
    cases ok with
    | nil => exact h
    | cons p r => exact ha s p h

theorem issueMx_wf {s : State} {p : Nat × Nat} {r k : Nat} {kind : MKind} (h : Memory.wf s.sto = true) :
    Memory.wf (s.issueMx p r k kind).sto = true := enqueue_wf (updThr_wf h)

theorem setAhead_wf {s : State} {r k : Nat} {f : AccImage → AccImage} (h : Memory.wf s.sto = true) :
    Memory.wf (s.setAhead r k f).sto = true := updAccum_wf h

theorem signAll_wf {one : State → Nat × Nat → Sig} {s : State} {l : List (Nat × Nat)} (h : Memory.wf s.sto = true)
    (ho : ∀ s p, Memory.wf s.sto = true → SigWf (one s p)) : Memory.wf (s.signAll one l).1.sto = true := by
  induction l generalizing s with
  | nil => exact h
  | cons p r ih =>
    unfold State.signAll
    split
    · next h1 => exact ih (ho s p h _ _ h1)
    all_goals exact ih h

theorem signWork_wf {uses : List Use} {g cost q : Nat} {one : State → Nat × Nat → Sig}
    (ho : ∀ s p, Memory.wf s.sto = true → SigWf (one s p)) : WorkWf (signWork uses g cost q one) :=
  { act := fun _ _ h => putPred_wf (signAll_wf h ho) }

theorem sign_wf {s : State} {owner k half : Nat} {r : Round} {x : Signature} {p : Nat × Nat} (h : Memory.wf s.sto = true) :
    SigWf (s.sign owner k half r x p) := by
  intro t last ht
  unfold State.sign at ht
  dsimp only at ht
  split at ht
  · cases ht
  · split at ht
    · split at ht
      · cases ht
      · cases ht
      · cases ht
      · split at ht
        · next hi => cases ht; exact convIssue_wf (updConv_wf h) _ hi
        · cases ht
    · cases ht; exact openWindow_wf (updConv_wf h)

theorem signOne_wf {s : State} {op k r : Nat} {a b : Opnd} {p : Nat × Nat} (h : Memory.wf s.sto = true) :
    SigWf (s.signOne op k r a b p) := by
  intro t last ht
  unfold State.signOne at ht
  dsimp only at ht
  repeat' split at ht
  all_goals first | exact sign_wf h _ _ ht | cases ht

theorem dropWords_wf {s : State} {t : Nat} (h : Memory.wf s.sto = true) : Memory.wf (s.dropWords t).sto = true := updFly_wf h

theorem readPeer_wf {s : State} {ctx : Nat} {who : Reader} {entry off len : Nat} (h : Memory.wf s.sto = true) :
    Memory.wf (s.readPeer ctx who entry off len).sto = true := askFor_wf h

theorem runAfter_wf {s : State} {w : Work} {need : State → List (Nat × Nat) → List (Reader × Nat × Nat × Nat)}
    (h : Memory.wf s.sto = true) (hw : WorkWf w) : Answers (s.runAfter w need) := by
  unfold State.runAfter
  split
  · exact run_wf h hw
  · dsimp only
    split
    · split
      · next hr => exact answers_next (foldl_wf (run_wf h hw _ hr) fun _ _ h1 => dropWords_wf h1)
      · exact run_wf h hw
    · exact answers_next (block_wf (foldl_wf h fun _ _ h1 => readPeer_wf h1))

theorem bindReads_wf {s : State} {p : Nat × Nat} {a : Opnd} {f : WFrom} (h : Memory.wf s.sto = true) :
    Memory.wf (s.bindReads p a f).sto = true := by
  unfold State.bindReads
  split
  · exact h
  · exact orderRead_wf h
  · exact foldl_wf h (fun _ _ h1 => (by
        split
        exacts [orderRead_wf h1, h1]))

theorem fileFold_wf {s : State} {t core : Nat} {hdr : Dword} {idx : Nat} {rewait : Bool} (h : Memory.wf s.sto = true) :
    OptionWf (s.fileFold t core hdr idx rewait) := by
  unfold State.fileFold
  dsimp only
  split
  · exact optionWf_some h
  · split
    exacts [optionWf_none, optionWf_some h]

theorem fileAll_wf {s : State} {hdr : Dword} {idx : Nat} {l : List (Nat × Nat)} (h : Memory.wf s.sto = true) :
    Memory.wf (s.fileAll hdr idx l).1.sto = true := by
  induction l generalizing s with
  | nil => exact h
  | cons p r ih =>
    unfold State.fileAll
    split
    · exact h
    · next hf => exact ih (fileFold_wf (updThr_wf h) _ hf)

theorem updBar_wf {s : State} {g b : Nat} {f : Barrier → Barrier} (h : Memory.wf s.sto = true) :
    Memory.wf (s.updBar g b f).sto = true := updGrp_wf h

theorem arriveWork_wf {uses : List Use} {d : Opnd} {b g : Nat} {c : State → Nat × Nat → Nat} :
    WorkWf (arriveWork uses d b g c) := { act := fun _ _ h => putDst_wf (updBar_wf h) }

theorem bsyncArrive_wf {s : State} {b g : Nat} (h : Memory.wf s.sto = true) :
    Memory.wf (s.bsyncArrive b g).sto = true := takeAll_wf (each_wf (updBar_wf h)) (fun _ _ h1 => h1)

theorem dropRead_wf {s : State} {who : Reader} (h : Memory.wf s.sto = true) : Memory.wf (s.dropRead who).sto = true :=
  updFly_wf h

theorem mwaitAsk_wf {s : State} {p : Nat × Nat} {a b : Opnd} {sp : Bool} (h : Memory.wf s.sto = true) :
    Memory.wf (s.mwaitAsk p a b sp).sto = true := by
  unfold State.mwaitAsk
  dsimp only
  split
  · split
    · exact readPeer_wf h
    · split
      exacts [h, readPeer_wf (dropRead_wf h)]
    · exact h
  · exact h

theorem mwaitAsks_wf {s : State} {d a b : Opnd} {sp : Bool} (h : Memory.wf s.sto = true) :
    Memory.wf (s.mwaitAsks d a b sp).sto = true := by
  unfold State.mwaitAsks
  split
  exacts [foldl_wf h (fun _ _ h1 => mwaitAsk_wf h1), h]

theorem untraced_wf {s : State} {u : Nat} (h : Memory.wf s.sto = true) : Memory.wf (s.untraced u).sto = true := updCtx_wf h

theorem split_wf {s : State} {ending : Nat} {next : Nat × Nat → Option Dword} (h : Memory.wf s.sto = true) :
    Memory.wf (s.split ending next).sto = true := by
  unfold State.split
  split
  · exact h
  · exact updUnit_wf h
  · exact updUnit_wf (clauseTrace_wf h)
  · exact enroll_wf (updUnit_wf (untraced_wf (clauseTrace_wf h)))

theorem transfer_wf {s : State} {uses : List Use} {g ending : Nat} {target : Nat × Nat → Dword} (h : Memory.wf s.sto = true) :
    Answers (s.transfer uses g ending target) :=
  run_wf h
    { fin := fun _ h1 => split_wf h1 }

theorem callTo_wf {s : State} {uses : List Use} {g ending : Nat} {target : Nat × Nat → Dword} (h : Memory.wf s.sto = true) :
    Answers (s.callTo uses g ending target) :=
  run_wf h
    { act := fun _ _ h1 => each_wf h1
      fin := fun _ h1 => split_wf h1 }

theorem exitNote_wf {s : State} {t : Nat} (h : Memory.wf s.sto = true) : Memory.wf (s.exitNote t).sto = true := by
  unfold State.exitNote
  dsimp only
  split
  · split
    exacts [delivered_wf h, h]
  · exact h

theorem stopOthers_wf {s : State} {p : Nat → Bool} (h : Memory.wf s.sto = true) : Memory.wf (s.stopOthers p).sto = true := h

theorem ownStop_wf {s : State} {cause code : Nat} (h : Memory.wf s.sto = true) :
    Memory.wf (s.ownStop cause code).sto = true := by
  unfold State.ownStop
  dsimp only
  split
  · exact h
  · split
    · exact updUnit_wf h
    · exact stopOthers_wf (updUnit_wf h)
    · exact stopOthers_wf (updUnit_wf h)
    · exact stopOthers_wf (updUnit_wf h)

theorem regionBreak_wf {s : State} {ok : List (Nat × Nat)} {c : Nat} (h : Memory.wf s.sto = true) :
    Memory.wf (s.regionBreak ok c).sto = true := by
  unfold State.regionBreak
  split
  exacts [ownStop_wf h, h]

theorem withPriv_wf {s : State} {w : Work} {go : State → Out} (h : Memory.wf s.sto = true)
    (hg : ∀ s, Memory.wf s.sto = true → Answers (go s)) : Answers (s.withPriv w go) := by
  unfold State.withPriv
  dsimp only
  split
  · exact hg s h
  · split
    · exact hg _ (takeAll_wf h fun _ _ h1 => h1)
    · exact answers_next (issued_wf (takeAll_wf h fun _ _ h1 => h1))

theorem runPriv_wf {s : State} {w : Work} (h : Memory.wf s.sto = true) (hw : WorkWf w) : Answers (s.runPriv w) :=
  withPriv_wf h fun _ h1 => run_wf h1 hw

theorem pausing_wf {s : State} {m : Nat} {f : State → State} (h : Memory.wf s.sto = true)
    (hf : ∀ s, Memory.wf s.sto = true → Memory.wf (f s).sto = true) : Memory.wf (s.pausing m f).sto = true := by
  unfold State.pausing
  dsimp only
  split <;> exact hf s h

theorem preempt_wf {s : State} {ps : List ((Nat × Nat) × Dword × Nat)} (h : Memory.wf s.sto = true) :
    Memory.wf (s.preempt ps).sto = true := by
  unfold State.preempt
  dsimp only
  split
  · exact h
  · split
    · split
      · exact foldl_wf (pausing_wf (clauseTrace_wf h) (fun _ h1 => foldl_wf h1 (fun _ _ h2 => h2)))
          (fun _ _ h1 => leaveUnit_wf (doubleFault_wf h1))
      · exact vector_wf (pausing_wf (clauseTrace_wf h) (fun _ h1 => foldl_wf h1 (fun _ _ h2 => h2)))
    · split
      · exact foldl_wf (pausing_wf h (fun _ h1 => foldl_wf h1 (fun _ _ h2 => h2)))
          (fun _ _ h1 => leaveUnit_wf (doubleFault_wf h1))
      · exact vector_wf (pausing_wf h (fun _ h1 => foldl_wf h1 (fun _ _ h2 => h2)))

theorem unsuspend_wf {s : State} {t : Nat} (h : Memory.wf s.sto = true) : Memory.wf (s.unsuspend t).sto = true :=
  foldl_wf h (fun _ _ h1 => foldl_wf (updMop_wf h1) (fun _ _ h2 => updAccum_wf h2))

theorem eretOne_wf {s : State} {p : Nat × Nat} (h : Memory.wf s.sto = true) : OptionWf (s.eretOne p) := by
  unfold State.eretOne
  dsimp only
  split
  · exact optionWf_some (preempt_wf h)
  · split
    · exact fileFold_wf (updThr_wf (unsuspend_wf h))
    · exact optionWf_some (enroll_wf (leaveUnit_wf (unsuspend_wf h)))

theorem eretAll_wf {s : State} {l : List (Nat × Nat)} (h : Memory.wf s.sto = true) : OptionWf (s.eretAll l) := by
  induction l generalizing s with
  | nil => exact optionWf_some h
  | cons p r ih =>
    unfold State.eretAll
    split
    · exact optionWf_none
    · next he => exact ih (eretOne_wf h _ he)

theorem shadowWrite_wf {s : State} {m va pa : Nat} (h : Memory.wf s.sto = true) :
    Memory.wf (s.shadowWrite m va pa).sto = true := by
  unfold State.shadowWrite
  split <;> exact h

theorem writeRuns_wf {s : State} {c : Context} {rs : List (Nat × Place × List Byte)} (h : Memory.wf s.sto = true) :
    Memory.wf (s.writeRuns c rs).1.sto = true := by
  unfold State.writeRuns
  refine foldl_fst_wf h fun x r hx => ?_
  split
  · split
    · exact hx
    · exact ask_wf hx
  · exact writeAt_wf hx _ _

theorem putRange_wf {s : State} {c : Context} {va : Nat} {bs : List Byte} (h : Memory.wf s.sto = true) :
    Memory.wf (s.putRange c va bs).1.sto = true := writeRuns_wf h

theorem imageUsed_wf {s : State} {va len : Nat} (h : Memory.wf s.sto = true) :
    Memory.wf (s.imageUsed va len).sto = true := noteTlbs_wf h

theorem putImage_wf {s : State} {va : Nat} {bs : List Byte} (h : Memory.wf s.sto = true) :
    Memory.wf (s.putImage va bs).1.sto = true :=
  putRange_wf (imageUsed_wf (foldl_wf h (fun _ _ h1 => shadowWrite_wf h1)))

theorem savedBlock_wf {s : State} {blk : Nat} {p : Nat × Nat} {id : Nat} (h : Memory.wf s.sto = true) :
    Memory.wf (s.savedBlock blk p id).sto = true := by
  unfold State.savedBlock
  split
  exacts [updThr_wf (foldl_wf h (fun _ _ h1 => lostError_wf h1)), h, h]

theorem finishParts_wf {s : State} {id t : Nat} {pc : Dword} {c : Ctr} {stamp : Option (Nat × Nat)}
    {reqs : List (Nat × Nat)} {lines : List Nat} {moved : List (Nat × Nat)} {err : Option Failure}
    (h : Memory.wf s.sto = true) :
    Memory.wf (s.finishParts id t pc c stamp reqs lines moved err).sto = true := h

theorem runPrivAfter_wf {s : State} {w : Work} {need : State → List (Nat × Nat) → List (Reader × Nat × Nat × Nat)}
    (h : Memory.wf s.sto = true) (hw : WorkWf w) : Answers (s.runPrivAfter w need) :=
  withPriv_wf h fun _ h1 => runAfter_wf h1 hw

theorem loadTeam_wf {s : State} {m : Nat} {bs : List Byte} (h : Memory.wf s.sto = true) :
    Memory.wf (s.loadTeam m bs).sto = true := updTeam_wf (foldl_wf h (fun _ _ h1 => endJob_wf h1))

theorem loadBlock_wf {s : State} {blk : Nat} {p : Nat × Nat} {b : Nat} {bs : List Byte} (h : Memory.wf s.sto = true) :
    Memory.wf (s.loadBlock blk p b bs).sto = true := by
  unfold State.loadBlock
  split
  exacts [h, h, loadTeam_wf h, h, h]

theorem saveImage_wf {s : State} {t va : Nat} {bs : List Byte} (h : Memory.wf s.sto = true) :
    Memory.wf (s.saveImage t va bs).sto = true := by
  unfold State.saveImage
  dsimp only
  split
  exacts [chargeLines_wf (imageUsed_wf (putImage_wf h)), finishParts_wf (updThr_wf (putImage_wf h))]

theorem haltWork_wf {f : State → Nat × Nat → State} (hf : ∀ s p, Memory.wf s.sto = true → Memory.wf (f s p).sto = true) :
    WorkWf (haltWork f) where
  act s ok h := by
    refine foldl_wf ?_ fun _ _ h1 => ?_
    · split
      exacts [clauseTrace_wf h, h]
    · split
      exacts [preempt_wf h1, hf _ _ h1]
  fin _ h := h

theorem updLaunch_wf {s : State} {l : Nat} {f : Launch → Launch} (h : Memory.wf s.sto = true) :
    Memory.wf (s.updLaunch l f).sto = true := h

theorem endTeam_wf {s : State} {m : Nat} (h : Memory.wf s.sto = true) : Memory.wf (s.endTeam m).sto = true := by
  unfold State.endTeam
  split
  · exact h
  · exact h
  · exact retireTeam_wf (foldl_wf h
      (fun _ _ h1 => discardSuspended_wf (updThr_wf (foldl_wf h1 (fun _ _ h2 => lostError_wf h2)))))
  · exact foldl_wf h (fun _ _ h1 => haltThread_wf h1)

theorem endLaunch_wf {s : State} {l : Nat} (h : Memory.wf s.sto = true) : Memory.wf (s.endLaunch l).sto = true :=
  foldl_wf h (fun _ _ h1 => endTeam_wf h1)

theorem parkThread_wf {s : State} {t : Nat} (h : Memory.wf s.sto = true) : Memory.wf (s.parkThread t).sto = true :=
  checkTeam_wf h

theorem runPrefix_wf {s : State} {f : IssueUnit → IssueUnit} (h : Memory.wf s.sto = true) : Answers (s.runPrefix f) :=
  answers_next h

theorem badPrefix_wf {s : State} (h : Memory.wf s.sto = true) : Memory.wf (s.badPrefix).sto = true := illegalWord_wf h

theorem stopNow_wf {s : State} {u cause : Nat} (h : Memory.wf s.sto = true) :
    Memory.wf (s.stopNow u cause).sto = true :=
  pausing_wf (by
  split
  · split
    exacts [sendMsi_wf (unitTrace_wf h), unitTrace_wf h]
  · exact unitTrace_wf h) (fun _ h1 => h1)

theorem formFold_wf {s : State} {f : Fold} (h : Memory.wf s.sto = true) : Memory.wf (s.formFold f).sto = true := by
  unfold State.formFold
  dsimp only
  split
  exacts [stopNow_wf (enroll_wf h), enroll_wf h]

theorem wake_wf {s : State} {u : Nat} (h : Memory.wf s.sto = true) : Memory.wf (s.wake u).sto = true := h

theorem wakeFor_wf {s : State} {u : Nat} {go : State → Out} (h : Memory.wf s.sto = true)
    (hg : ∀ s, Memory.wf s.sto = true → Answers (go s)) : Answers (s.wakeFor u go) := by
  unfold State.wakeFor
  dsimp only
  split
  · exact answers_next (wake_wf h)
  · exact hg _ (wake_wf (s := s) (u := u) h)

theorem landRegs_wf {s : State} {t id : Nat} {d : Opnd} {xs : List Reg} (h : Memory.wf s.sto = true) :
    Memory.wf (s.landRegs t id d xs).sto = true := by
  unfold State.landRegs
  split <;> exact h

theorem sampled_wf {s : State} {batch : Nat} (h : Memory.wf s.sto = true) : Memory.wf (s.sampled batch).sto = true := by
  unfold State.sampled
  split
  · exact h
  · exact foldl_wf h (fun _ _ h1 => (by
        split
        · exact h1
        · split
          exacts [h1, trace_wf h1]))

theorem dropOp_wf {s : State} {o : Op} (h : Memory.wf s.sto = true) : Memory.wf (s.dropOp o).sto = true :=
  sampled_wf (chargeLines_wf h)

theorem landFill_wf {s : State} {o : Op} {dst : Opnd} {words : Nat} {val : Except Failure Dword} {ctr : Option Ctr}
    (h : Memory.wf s.sto = true) :
    Memory.wf (s.landFill o dst words val ctr).sto = true := by
  unfold State.landFill
  dsimp only
  split
  exacts [setOp_wf (landRegs_wf h), dropOp_wf (landRegs_wf h)]

theorem served_wf {s : State} {o : Op} (h : Memory.wf s.sto = true) : Memory.wf (s.served o).sto = true := by
  unfold State.served
  split <;> exact h

theorem landOp_wf {s : State} {o : Op} (h : Memory.wf s.sto = true) : Memory.wf (s.landOp o).sto = true := by
  unfold State.landOp
  split
  · split
    exacts [h, landFill_wf (served_wf h)]
  · dsimp only
    split
    exacts [h, landFill_wf h]
  · split
    exacts [setOp_wf (writeSpad_wf h _ _), setOp_wf h]
  · dsimp only
    split
    exacts [h, takeSlot_wf h]
  · exact h

theorem showOlder_wf {s : State} {o : Op} (h : Memory.wf s.sto = true) : Memory.wf (s.showOlder o).sto = true := h

theorem readFirst_wf {s : State} {core id : Nat} {p : Place} {n : Nat} (h : Memory.wf s.sto = true) :
    Memory.wf (s.readFirst core id p n).sto = true := sampleLoads_wf h

theorem unview_wf {s : State} {id : Nat} (h : Memory.wf s.sto = true) : Memory.wf (s.unview id).sto = true := h

theorem watched_wf {s : State} {t : Nat} {pc : Dword} {va : Nat} {old new : List Byte} (h : Memory.wf s.sto = true) :
    Memory.wf (s.watched t pc va old new).sto = true := by
  unfold State.watched
  dsimp only
  split
  · exact h
  · split
    exacts [trace_wf h, h]

theorem patchVisitor_wf {s : State} {core pa : Nat} {bs : List Byte} (h : Memory.wf s.sto = true) :
    Memory.wf (s.patchVisitor core pa bs).sto = true := h

theorem storeDone_wf {s : State} {o : Op} {old : List Byte} (h : Memory.wf s.sto = true) :
    Memory.wf (s.storeDone o old).sto = true := by
  unfold State.storeDone
  split
  · dsimp only
    split
    · exact setOp_wf (by
          split
          exacts [noteToken_wf (shadowWrite_wf (watched_wf h)), h])
    · exact dropOp_wf (by
          split
          exacts [noteToken_wf (shadowWrite_wf (watched_wf h)), h])
  · exact h

theorem performStores_wf {s : State} {os : List Op} (h : Memory.wf s.sto = true) :
    Memory.wf (s.performStores os).sto = true :=
  foldl_wf (foldl_wf (foldl_wf h (fun _ _ h1 => (by
  split
  exacts [readFirst_wf h1, h1]))) (fun _ _ h1 => writeAt_wf h1 _ _)) (fun _ _ h1 => unview_wf (storeDone_wf h1))

theorem performAtomic_wf {s : State} {o : Op} (h : Memory.wf s.sto = true) : Memory.wf (s.performAtomic o).sto = true := by
  unfold State.performAtomic
  obtain ⟨rd, hrd⟩ := exists_eq (a' := s.readPhys)
  rw [← hrd]
  split
  · dsimp only
    split
    · split <;> exact setOp_wf h
    · have h1 {core id a n v new thr pc va team} {p : Prop} [Decidable p] : Memory.wf (if p then
          ((((s.readFirst core id (.mem a) n).writePhys a new).patchVisitor core a new).watched thr pc va v
            new).shadowWrite team va a
          else (s.readFirst core id (.mem a) n).noteVisitor core (a / 128) .dev).sto = true := by
        split
        · exact shadowWrite_wf (watched_wf (patchVisitor_wf (writePhys_wf (readFirst_wf h) _ _)))
        · exact noteVisitor_wf (readFirst_wf h)
      split
      · refine setOp_wf ?_
        split
        · exact acquire_wf h1
        · exact h1
      · refine setOp_wf ?_
        split
        · exact acquire_wf h1
        · exact h1
  · exact h

theorem perform_wf {s : State} {o : Op} (h : Memory.wf s.sto = true) : Memory.wf (s.perform o).sto = true := by
  unfold State.perform
  dsimp only
  split
  · exact performStores_wf (showOlder_wf (served_wf h))
  · exact performAtomic_wf (showOlder_wf (served_wf h))
  · exact h

theorem partsDone_wf {s : State} {o : Op} (h : Memory.wf s.sto = true) : Memory.wf (s.partsDone o).sto = true := by
  unfold State.partsDone
  split
  · split
    · exact h
    · exact updFly_wf (by
          split
          exacts [writeSpad_wf h _ _, h])
  · exact h

theorem vput_wf {s : State} {c : Context} {va : Nat} {bs : List Byte} (h : Memory.wf s.sto = true) :
    Memory.wf (s.vput c va bs).sto = true := putRange_wf h

theorem failFlushes_wf {s : State} {m e : Nat} (h : Memory.wf s.sto = true) :
    Memory.wf (s.failFlushes m e).sto = true :=
  foldl_wf h (fun _ _ h1 => (by
  split
  exacts [endJob_wf (writeSpad_wf h1 _ _), h1]))

/-- The stamps that a failed fill writes beside its windows leave the memories canonical. -/
theorem stampAll_wf {α β : Type} {s : State} {as : List α} {bs : List β} {p : α → Prop} [DecidablePred p] {a : α → Nat}
    {t e : Nat}
    {g : Entry → Entry} {c : Context} {b : β → Nat} {x : List Byte} (h : Memory.wf s.sto = true) :
    Memory.wf (bs.foldl (fun s y => s.vput c (b y) x)
      ((as.foldl (fun s y => if p y then s.writeSpad (a y) x else s) s).updEntry t e g)).sto = true :=
  foldl_wf (updEntry_wf (foldl_wf h fun _ _ h1 => ite_wf (writeSpad_wf h1 _ _) h1)) fun _ _ h1 => vput_wf h1

theorem failFill_wf {s : State} {j : Job} {f : Failure} (h : Memory.wf s.sto = true) :
    Memory.wf (s.failFill j f).sto = true :=
  endJob_wf (ite_wf (failFlushes_wf (stampAll_wf (updFly_wf h))) (stampAll_wf (updFly_wf h)))

theorem give_wf {s : State} {m a : Nat} {b : Byte} (h : Memory.wf s.sto = true) :
    Memory.wf (s.give m a b).sto = true := h

theorem landByte_wf {s : State} {j : Job} {off : Nat} {b : Byte} (h : Memory.wf s.sto = true) :
    Memory.wf (s.landByte j off b).sto = true :=
  foldl_wf (updEntry_wf (foldl_wf h (fun _ _ h1 => (by
  split
  exacts [writeSpad_wf h1 _ _, h1])))) (fun _ _ h1 => give_wf (vput_wf h1))

theorem jobMoved_wf {s : State} {id : Nat} {ls : List (Nat × Nat)} (h : Memory.wf s.sto = true) :
    Memory.wf (s.jobMoved id ls).sto = true := h

theorem beat_wf {s : State} {j : Job} {off : Nat} (h : Memory.wf s.sto = true) : Memory.wf (s.beat j off).sto = true := by
  unfold State.beat
  dsimp only
  split
  · exact failFill_wf h
  · exact updFly_wf (noteTlbs_wf (jobMoved_wf (foldl_wf h (fun _ _ h1 => (by
        split
        exacts [dropRead_wf (landByte_wf h1), readPeer_wf h1, h1])))))

theorem stampDest_wf {s : State} {j : Job} {i : Nat} (h : Memory.wf s.sto = true) :
    Memory.wf (s.stampDest j i).sto = true := by
  unfold State.stampDest
  dsimp only
  split
  · split
    exacts [settleFill_wf (updFly_wf (vput_wf h)), h]
  · split
    · split
      exacts [settleFill_wf (updEntry_wf (writeSpad_wf h _ _)), h]
    · exact h

theorem flushShadow_wf {s : State} {j : Job} (h : Memory.wf s.sto = true) : Memory.wf (s.flushShadow j).sto = true :=
  foldl_wf h (fun _ _ h1 => h1)

theorem flushBytes_wf {s : State} {j : Job} {win : Nat} {os : List Nat} (h : Memory.wf s.sto = true) :
    Memory.wf (s.flushBytes j win os).1.1.sto = true := writeRuns_wf h

theorem doFlush_wf {s : State} {j : Job} {dest : Nat} (h : Memory.wf s.sto = true) :
    Memory.wf (s.doFlush j dest).sto = true := by
  unfold State.doFlush
  split
  · exact endJob_wf h
  · dsimp only
    split
    · exact h
    · split
      · split
        · split
          · exact finishParts_wf (updFly_wf (flushBytes_wf (noteTlbs_wf (flushShadow_wf h))))
          · exact updFly_wf (finishParts_wf (flushBytes_wf (noteTlbs_wf (flushShadow_wf h))))
        · split
          · exact finishParts_wf (updFly_wf (flushBytes_wf (noteTlbs_wf (flushShadow_wf h))))
          · exact updFly_wf (finishParts_wf (flushBytes_wf (noteTlbs_wf (flushShadow_wf h))))
      · split
        · split
          · exact finishParts_wf (updFly_wf (flushBytes_wf (noteTlbs_wf h)))
          · exact updFly_wf (finishParts_wf (flushBytes_wf (noteTlbs_wf h)))
        · split
          · exact finishParts_wf (updFly_wf (flushBytes_wf (noteTlbs_wf h)))
          · exact updFly_wf (finishParts_wf (flushBytes_wf (noteTlbs_wf h)))

theorem settleResv_wf {s : State} {m r : Nat} (h : Memory.wf s.sto = true) :
    Memory.wf (s.settleResv m r).sto = true := by
  unfold State.settleResv
  split <;> exact h

theorem setBlocks_wf {s : State} {id n : Nat} (h : Memory.wf s.sto = true) :
    Memory.wf (s.setBlocks id n).sto = true := h

theorem runBlocks_wf {s : State} {o : MOp} {hd : MHdr} {p : Shape} {chunk seed : Word}
    {aDesc bDesc aDesc2 rowsA rowsA2 rowsB : List Word}
    {l : List (Nat × Block)} (h : Memory.wf s.sto = true) :
    Memory.wf (s.runBlocks o hd p chunk seed aDesc bDesc aDesc2 rowsA rowsA2 rowsB l).1.sto = true := by
  induction l generalizing s with
  | nil => exact h
  | cons x r ih =>
    unfold State.runBlocks
    dsimp only
    split
    iterate 4 exact h
    split
    · exact h
    · exact ih (setBlocks_wf (updAccum_wf h))

theorem runTile_wf {s : State} {o : MOp} (h : Memory.wf s.sto = true) : Memory.wf (s.runTile o).1.sto = true := by
  unfold State.runTile
  split
  · dsimp only
    split
    · exact h
    · exact runBlocks_wf h
  · exact h

theorem suspendMop_wf {s : State} {o : MOp} {f : Failure} (h : Memory.wf s.sto = true) :
    Memory.wf (s.suspendMop o f).sto = true := by
  unfold State.suspendMop
  split <;> exact foldl_wf h (fun _ _ h1 => h1)

theorem dropReads_wf {s : State} {op : Nat} (h : Memory.wf s.sto = true) : Memory.wf (s.dropReads op).sto = true := h

theorem startMop_wf {s : State} {eng : Nat} (h : Memory.wf s.sto = true) : Memory.wf (s.startMop eng).sto = true := by
  have hs1 {t : Nat} {l : List Nat} {f : Nat → List Nat} {pc : Dword} :
      Memory.wf (l.foldl (fun r e => r.firstTouch t e (f e) pc) s).sto = true :=
    foldl_wf h fun _ _ h1 => firstTouch_wf h1
  unfold State.startMop
  split
  · exact h
  · dsimp only
    split
    · exact h
    · split
      · exact updMop_wf h
      · split
        · exact updMop_wf hs1
        · split
          · next hr => exact suspendMop_wf (dropReads_wf (wf_fst hr (runTile_wf hs1)))
          · exact updMop_wf hs1

theorem endMop_wf {s : State} {o : MOp} {err : Option Failure} (h : Memory.wf s.sto = true) :
    Memory.wf (s.endMop o err).sto = true := by
  unfold State.endMop
  dsimp only
  split
  exacts [finishParts_wf (noteTlbs_wf h), finish_wf (noteTlbs_wf h)]

theorem killMop_wf {s : State} {o : MOp} {f : Failure} (h : Memory.wf s.sto = true) :
    Memory.wf (s.killMop o f).sto = true := endMop_wf (foldl_wf h (fun _ _ h1 => h1))

theorem writeShare_wf {s : State} {m : Nat} {cells : List (Nat × Byte)} (h : Memory.wf s.sto = true) :
    Memory.wf (s.writeShare m cells).sto = true := foldl_wf h (fun _ _ h1 => writeAt_wf h1 _ _)

theorem storeGlobal_wf {s : State} {o : MOp} {cells : List (Nat × Byte)} (h : Memory.wf s.sto = true) :
    Memory.wf (s.storeGlobal o cells).1.1.sto = true := 
  writeRuns_wf (foldl_wf h fun _ _ h1 => shadowWrite_wf h1)

theorem completeMop_wf {s : State} {o : MOp} (h : Memory.wf s.sto = true) : Memory.wf (s.completeMop o).sto = true := by
  unfold State.completeMop
  dsimp only
  split
  · exact killMop_wf h
  · split
    · split
      · exact endMop_wf (updAccum_wf h)
      · split
        · exact killMop_wf h
        · exact endMop_wf (updAccum_wf h)
    · split
      · next hr => exact endMop_wf (dropReads_wf (wf_fst hr (runTile_wf h)))
      · next hr => exact suspendMop_wf (dropReads_wf (wf_fst hr (runTile_wf h)))
      · next hr => exact wf_fst hr (runTile_wf h)
      · next hr => exact readPeer_wf (wf_fst hr (runTile_wf h))
      · next hr => exact killMop_wf (dropReads_wf (wf_fst hr (runTile_wf h)))
    · split
      · exact endMop_wf h
      · exact endMop_wf (updAccum_wf h)
    · split
      · exact endMop_wf h
      · exact endMop_wf (updAccum_wf h)
    · exact dropMop_wf (landRegs_wf h)
    · split
      · exact endMop_wf h
      · split
        · exact endMop_wf (writeShare_wf h)
        · exact updMop_wf (writeShare_wf h)
    · split
      · exact endMop_wf h
      · split
        · exact endMop_wf h
        · exact updMop_wf (updAccum_wf (foldl_wf h fun _ _ h1 => foldl_wf h1 fun _ _ h2 => contribute_wf h2))
    · split
      · exact h
      · exact endMop_wf h
    · split
      · exact endMop_wf h
      · split
        · exact ite_wf (dropMop_wf (finishParts_wf (noteTlbs_wf (storeGlobal_wf h))))
            (updMop_wf (finishParts_wf (noteTlbs_wf (storeGlobal_wf h))))
        · split
          · exact endMop_wf (writeShare_wf h)
          · exact updMop_wf (writeShare_wf h)
    · exact dropMop_wf (landRegs_wf h)
    · exact endMop_wf (updResv_wf h)

theorem fenceMop_wf {s : State} {o : MOp} (h : Memory.wf s.sto = true) : Memory.wf (s.fenceMop o).sto = true := by
  unfold State.fenceMop
  split
  exacts [h, h, dropMop_wf (landRegs_wf h), endMop_wf h]

theorem fenceEngine_wf {s : State} {eng : Nat} (h : Memory.wf s.sto = true) : Memory.wf (s.fenceEngine eng).sto = true := by
  unfold State.fenceEngine
  split
  · exact h
  · exact foldl_wf (foldl_wf h (fun _ _ h1 => fenceMop_wf h1)) (fun _ _ h1 => foldl_wf h1 (fun _ _ h2 => h2))

theorem updHealth_wf {s : State} {f : Health → Health} (h : Memory.wf s.sto = true) :
    Memory.wf (s.updHealth f).sto = true := h

theorem settle_wf {s : State} {x : TreeNode} {err : Option Failure} (h : Memory.wf s.sto = true) :
    Memory.wf (s.settle x err).sto = true := by
  unfold State.settle
  split <;> exact h

theorem dropRick_wf {s : State} {core : Nat} (h : Memory.wf s.sto = true) : Memory.wf (s.dropRick core).sto = true :=
  foldl_wf h (fun _ _ h1 => settle_wf h1)

theorem containRecord_wf {s : State} {l kind addr : Nat} (h : Memory.wf s.sto = true) :
    Memory.wf (s.containRecord l kind addr).sto = true := fq12_wf h

theorem contain_wf {s : State} {l kind addr : Nat} (h : Memory.wf s.sto = true) :
    Memory.wf (s.contain l kind addr).sto = true := by
  unfold State.contain
  split
  exacts [h, containRecord_wf (endLaunch_wf h)]

theorem wantRepair_wf {s : State} (h : Memory.wf s.sto = true) : Memory.wf (s.wantRepair).sto = true := by
  unfold State.wantRepair
  split <;> exact h

theorem fenceCore_wf {s : State} {core : Nat} (h : Memory.wf s.sto = true) : Memory.wf (s.fenceCore core).sto = true := by
  unfold State.fenceCore
  dsimp only
  split
  · exact dropRick_wf (foldl_wf h (fun _ _ h1 => contain_wf h1))
  · exact wantRepair_wf (dropRick_wf (foldl_wf h (fun _ _ h1 => contain_wf h1)))

theorem hold_wf {s : State} {x : TreeNode} {p : NodePlace} (h : Memory.wf s.sto = true) :
    Memory.wf (s.hold x p).sto = true := updFly_wf (settle_wf h)

theorem dropElem_wf {s : State} {x : TreeNode} (h : Memory.wf s.sto = true) : Memory.wf (s.dropElem x).sto = true := h

theorem failElem_wf {s : State} {x : TreeNode} {cause : Nat} (h : Memory.wf s.sto = true) :
    Memory.wf (s.failElem x cause).sto = true := by
  unfold State.failElem
  split
  · exact dropElem_wf (by
        split <;> exact h)
  · exact h

theorem broadcast_wf {s : State} {t : TreeSet} {x : TreeNode} (h : Memory.wf s.sto = true) :
    Memory.wf (s.broadcast t x).sto = true := foldl_wf h (fun _ _ h1 => (by
  split <;> exact h1))

theorem writeRoot_wf {s : State} {t : TreeSet} {x : TreeNode} (h : Memory.wf s.sto = true) :
    Memory.wf (s.writeRoot t x).sto = true := by
  unfold State.writeRoot
  dsimp only
  split
  · exact failElem_wf h
  · next ht =>
      split
      exacts [broadcast_wf (vwriteOption_wf h _ ht :), (vwriteOption_wf h _ ht :)]

theorem refuseNode_wf {s : State} {x : TreeNode} (h : Memory.wf s.sto = true) : Memory.wf (s.refuseNode x).sto = true := by
  unfold State.refuseNode
  dsimp only
  split
  exacts [settle_wf h, fq12_wf (settle_wf h)]

theorem leavePort_wf {s : State} {t : TreeSet} {x : TreeNode} (h : Memory.wf s.sto = true) :
    Memory.wf (s.leavePort t x).sto = true := by
  unfold State.leavePort
  split
  · split
    exacts [ask_wf (settle_wf h), refuseNode_wf h]
  · exact h

theorem goOn_wf {s : State} {t : TreeSet} {p : NodePlace} {x : TreeNode} (h : Memory.wf s.sto = true) :
    Memory.wf (s.goOn t p x).sto = true := by
  unfold State.goOn
  split
  exacts [leavePort_wf h, h]

theorem liftNode_wf {s : State} {x : TreeNode} (h : Memory.wf s.sto = true) : Memory.wf (s.liftNode x).sto = true := h

theorem holdAtCore_wf {s : State} {t : TreeSet} {x : TreeNode} {core : Nat} (h : Memory.wf s.sto = true) :
    Memory.wf (s.holdAtCore t x core).sto = true := by
  unfold State.holdAtCore
  split
  · split
    · exact hold_wf h
    · split
      exacts [h, hold_wf h]
  · exact hold_wf h

theorem holdAtPort_wf {s : State} {x : TreeNode} {port : Nat} (h : Memory.wf s.sto = true) :
    Memory.wf (s.holdAtPort x port).sto = true := by
  unfold State.holdAtPort
  split
  exacts [hold_wf (elim_wf h (fun _ => leavePort_wf h)), hold_wf h]

theorem holdAtSlice_wf {s : State} {x : TreeNode} {k : Nat} (h : Memory.wf s.sto = true) :
    Memory.wf (s.holdAtSlice x k).sto = true := by
  unfold State.holdAtSlice
  dsimp only
  split
  · exact hold_wf h
  · split
    exacts [hold_wf h, h]

theorem restAt_wf {s : State} {t : TreeSet} {p : NodePlace} {x : TreeNode} (h : Memory.wf s.sto = true) :
    Memory.wf (s.restAt t p x).sto = true := by
  unfold State.restAt
  split
  · exact holdAtCore_wf h
  · exact holdAtPort_wf h
  · split
    exacts [holdAtSlice_wf h, h]
  · exact hold_wf h

theorem rick_wf {s : State} {t : TreeSet} {p : NodePlace} {fuel : Nat} {x : TreeNode} (h : Memory.wf s.sto = true) :
    Memory.wf (s.rick t p fuel x).sto = true := by
  induction fuel generalizing s x with
  | zero => exact settle_wf h
  | succ fuel ih =>
    unfold State.rick
    dsimp only
    split
    · split
      · exact writeRoot_wf (settle_wf h)
      · exact goOn_wf h
    · split
      · exact ih h
      · split
        · split
          · exact failElem_wf (settle_wf (liftNode_wf h))
          · exact ih (settle_wf (settle_wf (liftNode_wf h)))
        · exact restAt_wf h

theorem arriveAt_wf {s : State} {x : TreeNode} {p : NodePlace} (h : Memory.wf s.sto = true) :
    Memory.wf (s.arriveAt x p).sto = true := by
  unfold State.arriveAt
  split
  · exact hold_wf h
  · split
    · exact hold_wf h
    · split
      · exact fqWrite_wf (settle_wf h)
      · split
        · exact updFly_wf (settle_wf h)
        · exact settle_wf h
        · split
          · exact failElem_wf (settle_wf h)
          · split
            exacts [failElem_wf (settle_wf h), rick_wf h]

theorem stillWaiting_wf {s : State} {x : TreeNode} (h : Memory.wf s.sto = true) : Memory.wf (s.stillWaiting x).sto = true := h

theorem dropSub_wf {s : State} {p : Machine.Sub → Bool} (h : Memory.wf s.sto = true) : Memory.wf (s.dropSub p).sto = true := h

theorem sendAll_wf {s : State} {subs : List Machine.Sub} {body : PushBody} (h : Memory.wf s.sto = true) :
    Memory.wf (s.sendAll subs body).sto = true := foldl_wf h (fun _ _ h1 => h1)

theorem dropPush_wf {s : State} {p : Push} (h : Memory.wf s.sto = true) : Memory.wf (s.dropPush p).sto = true := h

theorem landParked_wf {s : State} {z : ParkedSlot} {q : Nat} {bs : List Byte} (h : Memory.wf s.sto = true) :
    Memory.wf (s.landParked z q bs).sto = true := by
  unfold State.landParked
  extract_lets c va
  exact ite_wf (updFly_wf (vput_wf h)) h

theorem landPush_wf {s : State} {m slot q : Nat} {bs : List Byte} (h : Memory.wf s.sto = true) :
    Memory.wf (s.landPush m slot q bs).sto = true := writeSpad_wf (setSlot_wf h) _ _

theorem landSlot_wf {s : State} {m slot q : Nat} {bs : List Byte} (h : Memory.wf s.sto = true) :
    Memory.wf (s.landSlot m slot q bs).sto = true :=
  foldl_wf (landPush_wf (foldl_fst_wf h (fun _ _ h1 => (by
  split
  · split
    exacts [perform_wf h1, h1]
  · exact h1)))) (fun _ _ h1 => (by
  split
  exacts [writeSpad_wf h1 _ _, h1]))

theorem updImage_wf {s : State} {z : ParkedSlot} {off : Nat} {f : Nat → Nat} (h : Memory.wf s.sto = true) :
    Memory.wf (s.updImage z off f).sto = true := by
  unfold State.updImage
  dsimp only
  split
  exacts [h, getD_wf (vwriteOption_wf h) h]

theorem endParked_wf {s : State} {z : ParkedSlot} {state cause : Nat} (h : Memory.wf s.sto = true) :
    Memory.wf (s.endParked z state cause).sto = true := by
  unfold State.endParked
  exact updImage_wf (foldl_wf h (fun _ _ h1 => updImage_wf h1))

theorem answer_wf {s : State} {r : SloadReq} {line : Option Nat} {body : PushBody} {err : Option Failure}
    (h : Memory.wf s.sto = true) :
    Memory.wf (s.answer r line body err).sto = true := h

theorem settlePush_wf {s : State} {p : Push} {c : Ctr} (h : Memory.wf s.sto = true) :
    Memory.wf (s.settlePush p c).sto = true := by
  unfold State.settlePush
  split
  · exact h
  · dsimp only
    split
    exacts [holdError_wf h, h]

theorem updQueue_wf {s : State} {c q : Nat} {f : Queue → Queue} (h : Memory.wf s.sto = true) :
    Memory.wf (s.updQueue c q f).sto = true := h

theorem queueError_wf {s : State} {c q addr : Nat} (h : Memory.wf s.sto = true) :
    Memory.wf (s.queueError c q addr).sto = true := fq12_wf h

theorem readTail_wf {s : State} {c q : Nat} (h : Memory.wf s.sto = true) : Memory.wf (s.readTail c q).sto = true := by
  unfold State.readTail
  dsimp only
  split
  · split
    · exact queueError_wf h
    · split
      exacts [queueError_wf h, h]
  · exact h

theorem stampLaunch_wf {s : State} {l status : Nat} (h : Memory.wf s.sto = true) :
    Memory.wf (s.stampLaunch l status).sto = true :=
  updLaunch_wf (by
  split
  · exact sendMsi_wf (by
        split
        exacts [h, writeStamp_wf h])
  · split
    exacts [h, writeStamp_wf h])

theorem refuseLaunch_wf {s : State} {l cause : Nat} (h : Memory.wf s.sto = true) :
    Memory.wf (s.refuseLaunch l cause).sto = true := fq12_wf (stampLaunch_wf h)

theorem copied_wf {s : State} {ctx q i : Nat} {bs : List Byte} (h : Memory.wf s.sto = true) :
    Memory.wf (s.copied ctx q i bs).sto = true := by
  unfold State.copied
  dsimp only
  split
  · split
    exacts [h, refuseLaunch_wf h]
  · split
    exacts [h, refuseLaunch_wf h]

theorem loadEnergy_wf {s : State} {ctx : Nat} (h : Memory.wf s.sto = true) : Memory.wf (s.loadEnergy ctx).sto = true := by
  unfold State.loadEnergy
  dsimp only
  split
  · exact h
  · split <;> exact h

theorem switchContexts_wf {s : State} {ctx cl : Nat} (h : Memory.wf s.sto = true) :
    Memory.wf (s.switchContexts ctx cl).sto = true := foldl_wf h (fun _ _ h1 => writeEnergy_wf h1)

theorem freshShare_wf {s : State} {cl base size : Nat} (h : Memory.wf s.sto = true) :
    Memory.wf (s.freshShare cl base size).sto = true := writeSpad_wf h _ _

theorem formUnits_wf {s : State} {cl g w : Nat} {hdr : Dword} {ps : List Machine.Part} (h : Memory.wf s.sto = true) :
    Memory.wf (s.formUnits cl g w hdr ps).sto = true :=
  foldl_wf h (fun _ _ h1 => (by
  dsimp only
  split
  exacts [h1, enroll_wf h1]))

theorem restoreGroup_wf {s : State} {r : LaunchRec} {m cl : Nat} {k n : Nat} {ps : List Machine.Part}
    (h : Memory.wf s.sto = true) :
    Memory.wf (s.restoreGroup r m cl k n ps).sto = true := formUnits_wf h

theorem addGroup_wf {s : State} {r : LaunchRec} {m cl : Nat} {k n : Nat} {ps : List Machine.Part}
    (h : Memory.wf s.sto = true) :
    Memory.wf (s.addGroup r m cl k n ps).sto = true := formUnits_wf h

theorem placeGroups_wf {s : State} {r : LaunchRec} {m : Nat} {old : Bool} {z : Spot} (h : Memory.wf s.sto = true) :
    Memory.wf (s.placeGroups r m old z).sto = true :=
  foldl_wf h (fun _ _ h1 => (by
  split
  exacts [restoreGroup_wf h1, addGroup_wf h1]))

theorem badRestore_wf {s : State} {m : Nat} (h : Memory.wf s.sto = true) : Memory.wf (s.badRestore m).sto = true :=
  foldl_wf h (fun _ _ h1 => (by
  split
  exacts [h1, doubleFault_wf h1]))

theorem placeTeam_wf {s : State} {l : Nat} {z : Spot} (h : Memory.wf s.sto = true) :
    Memory.wf (s.placeTeam l z).sto = true := by
  unfold State.placeTeam
  dsimp only
  split
  · split
    · exact badRestore_wf (updLaunch_wf
        (placeGroups_wf (updFly_wf (freshShare_wf (updTeam_wf (loadEnergy_wf (switchContexts_wf h)))))))
    · exact updLaunch_wf (placeGroups_wf (updFly_wf (freshShare_wf (updTeam_wf (loadEnergy_wf (switchContexts_wf h))))))
  · split
    · exact badRestore_wf (updLaunch_wf (placeGroups_wf (updFly_wf (freshShare_wf (loadEnergy_wf (switchContexts_wf h))))))
    · exact updLaunch_wf (placeGroups_wf (updFly_wf (freshShare_wf (loadEnergy_wf (switchContexts_wf h)))))

theorem beginTree_wf {s : State} {c : Context} {l h : Nat} (hm : Memory.wf s.sto = true) :
    OptionWf (s.beginTree c l h) := by
  unfold State.beginTree
  split
  · exact optionWf_none
  · exact optionWf_map (vwriteOption_wf hm) (fun _ h1 => foldl_wf h1 (fun _ _ h2 => fqWrite_wf h2))

theorem beginTrees_wf {s : State} {c : Context} {l : Nat} {hs : List Nat} (h : Memory.wf s.sto = true) :
    OptionWf (s.beginTrees c l hs) := by
  induction hs generalizing s with
  | nil => exact optionWf_some h
  | cons x r ih => exact optionWf_then (beginTree_wf h) fun _ h1 => ih h1

theorem beginLaunch_wf {s : State} {l : Nat} (h : Memory.wf s.sto = true) : Memory.wf (s.beginLaunch l).sto = true := h

theorem preemptTeam_wf {s : State} {m code : Nat} (h : Memory.wf s.sto = true) :
    Memory.wf (s.preemptTeam m code).sto = true := by
  unfold State.preemptTeam
  split <;> exact h

theorem preemptOn_wf {s : State} {cl code : Nat} {p : Launch → Bool} (h : Memory.wf s.sto = true) :
    Memory.wf (s.preemptOn cl code p).sto = true := foldl_wf h (fun _ _ h1 => preemptTeam_wf h1)

theorem preemptUnit_wf {s : State} {u : Nat} (h : Memory.wf s.sto = true) : Memory.wf (s.preemptUnit u).sto = true :=
  preempt_wf (by
  split
  · split
    exacts [stopNow_wf h, h]
  · exact h)

theorem preemptFold_wf {s : State} {f : Fold} (h : Memory.wf s.sto = true) : Memory.wf (s.preemptFold f).sto = true :=
  preempt_wf (enroll_wf (foldl_wf h (fun _ _ h1 => h1)))

theorem closeTree_wf {s : State} {t : TreeSet} (h : Memory.wf s.sto = true) : Memory.wf (s.closeTree t).sto = true := by
  unfold State.closeTree
  split
  · exact h
  · dsimp only
    split
    exacts [h, fq12_wf (foldl_wf h (fun _ _ h1 => writeStamp_wf h1))]

theorem closeTrees_wf {s : State} {l : Nat} (h : Memory.wf s.sto = true) : Memory.wf (s.closeTrees l).sto = true :=
  foldl_wf h (fun _ _ h1 => closeTree_wf h1)

theorem loadDie_wf {s : State} {l d : Nat} {bs : Option (List Byte)} (h : Memory.wf s.sto = true) :
    Memory.wf (s.loadDie l d bs).sto = true := by
  unfold State.loadDie
  dsimp only
  split <;> exact writeWs_wf h _ _ _

theorem firstWrites_wf {s : State} {c : Context} (h : Memory.wf s.sto = true) : OptionWf (s.firstWrites c) :=
  optionWf_then (vwriteOption_wf h) fun _ h1 => optionWf_then (vwriteOption_wf h1) fun _ h2 => vwriteOption_wf h2

theorem newCtx_wf {s : State} {ctx : Nat} {d b : List Byte} (h : Memory.wf s.sto = true) : OptionWf (s.newCtx ctx d b) := by
  refine optionWf_bind fun ws => ?_
  dsimp only
  split
  · exact optionWf_none
  · exact optionWf_map (firstWrites_wf h) fun _ h1 => h1

theorem cmdWf_elim {o : Option State} {f : State → CmdEnd} (ho : OptionWf o)
    (hf : ∀ s, Memory.wf s.sto = true → CmdWf (f s)) :
    CmdWf (o.elim .refused f) := by
  cases o with
  | none => exact cmdWf_refused
  | some s => exact hf s (ho s rfl)

theorem cmdCreate_wf {s : State} {ctx arg0 : Nat} (h : Memory.wf s.sto = true) : CmdWf (s.cmdCreate ctx arg0) := by
  unfold State.cmdCreate
  split
  · exact cmdWf_refused
  · split
    · exact cmdWf_refused
    · extract_lets c
      split
      · exact cmdWf_elim (newCtx_wf h) fun _ h1 => cmdWf_done h1
      · exact cmdWf_elim (newCtx_wf h) fun _ h1 => cmdWf_done (fq12_wf h1)

theorem forgetLost_wf {s : State} (h : Memory.wf s.sto = true) : Memory.wf (s.forgetLost).sto = true := h

/-- Clearing the regions of a weight store leaves it canonical. -/
theorem clearRegions_wf {rs : List (Nat × Nat × Nat)} {ws : List (Nat × Byte)} (h : cellsWf ws = true) :
    cellsWf (rs.foldl (fun ws r => clearCells ws (r.1 * 2 ^ 31 + r.2.1) r.2.2) ws) = true := by
  induction rs generalizing ws with
  | nil => exact h
  | cons r rs ih => exact ih (clearCells_wf h _ _)

theorem removeCtx_wf {s : State} {c : Nat} (h : Memory.wf s.sto = true) : Memory.wf (s.removeCtx c).sto = true := by
  have h1 : Memory.wf ((s.writeEnergy c fun _ => true).updFly fun f => { f with
      sets := f.sets.filter (fun t => t.ctx ≠ c), elems := f.elems.filter (fun t => t.ctx ≠ c),
      nodes := f.nodes.filter (fun t => t.ctx ≠ c), subs := f.subs.filter (fun t => t.ctx ≠ c) }).sto = true :=
    updFly_wf (writeEnergy_wf h)
  obtain ⟨hm, hs, hw⟩ := wf_parts h1
  exact forgetLost_wf (wf_of_parts hm hs (clearRegions_wf hw))

theorem cmdDestroy_wf {s : State} {c : Nat} (h : Memory.wf s.sto = true) : CmdWf (s.cmdDestroy c) := by
  unfold State.cmdDestroy
  split
  · dsimp only
    split
    · exact cmdWf_wait (foldl_wf h (fun _ _ h1 => endLaunch_wf h1))
    · exact cmdWf_done (removeCtx_wf (foldl_wf h (fun _ _ h1 => endLaunch_wf h1)))
  · exact cmdWf_refused

theorem cmdQenable_wf {s : State} {c q : Nat} (h : Memory.wf s.sto = true) : CmdWf (s.cmdQenable c q) := by
  unfold State.cmdQenable
  dsimp only
  split
  · exact cmdWf_refused
  · split
    · exact cmdWf_done h
    · split
      · exact cmdWf_done (queueError_wf h)
      · split
        · exact cmdWf_refused
        · split
          exacts [cmdWf_done (queueError_wf h), cmdWf_done h]

theorem cmdIf_wf {ok : Bool} {s : State} (h : Memory.wf s.sto = true) : CmdWf (cmdIf ok s) := by
  unfold cmdIf
  split
  exacts [cmdWf_done h, cmdWf_refused]

theorem cmdQdisable_wf {s : State} {c q : Nat} (h : Memory.wf s.sto = true) : CmdWf (s.cmdQdisable c q) := cmdIf_wf h

theorem cmdTlbi_wf {s : State} {c arg0 arg1 : Nat} (h : Memory.wf s.sto = true) :
    CmdWf (s.cmdTlbi c arg0 arg1) := by
  unfold State.cmdTlbi
  dsimp only
  split
  · exact cmdWf_refused
  · split
    exacts [cmdWf_wait h, cmdWf_done h]

theorem cmdSuspend_wf {s : State} {c : Nat} (h : Memory.wf s.sto = true) : CmdWf (s.cmdSuspend c) :=
  cmdIf_wf (foldl_wf h (fun _ _ h1 => preemptTeam_wf h1))

theorem cmdResume_wf {s : State} {c : Nat} (h : Memory.wf s.sto = true) : CmdWf (s.cmdResume c) := cmdIf_wf h

theorem cmdEndlaunch_wf {s : State} {c q i : Nat} (h : Memory.wf s.sto = true) :
    CmdWf (s.cmdEndlaunch c q i) := by
  unfold State.cmdEndlaunch
  split
  exacts [cmdWf_refused, cmdWf_done (endLaunch_wf h)]

theorem cmdSetsave_wf {s : State} {arg0 : Nat} (h : Memory.wf s.sto = true) : CmdWf (s.cmdSetsave arg0) := cmdIf_wf h

theorem endTrace_wf {s : State} {c : Nat} (h : Memory.wf s.sto = true) : Memory.wf (s.endTrace c).sto = true := by
  unfold State.endTrace
  split
  exacts [closePage_wf h, h]

theorem cmdDebug_wf {s : State} {c arg0 : Nat} (h : Memory.wf s.sto = true) : CmdWf (s.cmdDebug c arg0) := by
  unfold State.cmdDebug
  split
  · exact cmdWf_refused
  · split
    · exact cmdWf_done (updCtx_wf (endTrace_wf h))
    · split
      exacts [cmdWf_refused, cmdIf_wf (updCtx_wf (endTrace_wf h))]

theorem cmdStop_wf {s : State} {c q i : Nat} (h : Memory.wf s.sto = true) : CmdWf (s.cmdStop c q i) := by
  unfold State.cmdStop
  split
  exacts [cmdWf_refused, cmdWf_done h]

theorem contTeam_wf {s : State} {m : Nat} {step : Bool} (h : Memory.wf s.sto = true) :
    Memory.wf (s.contTeam m step).sto = true := pausing_wf h (fun _ h1 => h1)

theorem contLaunch_wf {s : State} {l : Nat} {step : Bool} (h : Memory.wf s.sto = true) :
    Memory.wf (s.contLaunch l step).sto = true := foldl_wf h (fun _ _ h1 => contTeam_wf h1)

theorem cmdCont_wf {s : State} {c q arg1 : Nat} (h : Memory.wf s.sto = true) : CmdWf (s.cmdCont c q arg1) := by
  unfold State.cmdCont
  split
  exacts [cmdWf_refused, cmdWf_done (contLaunch_wf h)]

theorem writeHead_wf {s : State} {d : Dump} (h : Memory.wf s.sto = true) :
    Memory.wf (s.updSto fun m => { m with mem := dumpHead m.mem d }).sto = true := by
  obtain ⟨hm, hs, hw⟩ := wf_parts h
  have hd := dumpHead_wf hm d
  show Memory.wf { s.sto with mem := dumpHead s.sto.mem d } = true
  generalize dumpHead s.sto.mem d = l at hd ⊢
  exact wf_of_parts (m := { s.sto with mem := l }) hd hs hw

theorem dumpHeader_wf {s : State} {c : Nat} (h : Memory.wf s.sto = true) : Memory.wf (s.dumpHeader c).sto = true := by
  unfold State.dumpHeader
  split
  · exact h
  · exact writeHead_wf (dumpCopy_wf h _)

theorem endCut_wf {s : State} {c : Nat} {run : Bool} (h : Memory.wf s.sto = true) :
    Memory.wf (s.endCut c run).sto = true := by
  unfold State.endCut
  dsimp only
  split
  · exact foldl_wf (dumpHeader_wf (updCtx_wf h)) fun _ _ h1 => contLaunch_wf h1
  · exact dumpHeader_wf (updCtx_wf h)

theorem cutDump_wf {s : State} {c area size : Nat} (h : Memory.wf s.sto = true) :
    Memory.wf (s.cutDump c area size).sto = true := by
  unfold State.cutDump
  extract_lets x st gs listAt next head images s0 s1 s2
  have h1 : Memory.wf s1.sto = true := h
  have h2 : Memory.wf s2.sto = true := updCtx_wf h1
  clear_value s0 s1 s2
  exact dumpHeader_wf (writePhys_wf (writePhys_wf h2 _ _) _ _)

theorem cmdDump_wf {s : State} {c arg0 arg1 : Nat} (h : Memory.wf s.sto = true) :
    CmdWf (s.cmdDump c arg0 arg1) := by
  unfold State.cmdDump
  dsimp only
  split
  · split
    exacts [cmdWf_done (endCut_wf h), cmdWf_refused]
  · split
    · exact cmdWf_refused
    · exact cmdWf_wait (by
          split
          exacts [cutDump_wf (foldl_wf h (fun _ _ h1 => h1)), foldl_wf h (fun _ _ h1 => h1)])

theorem cmdDumpend_wf {s : State} {c : Nat} (h : Memory.wf s.sto = true) : CmdWf (s.cmdDumpend c) := cmdIf_wf h

theorem cmdEzero_wf {s : State} {c arg0 : Nat} (h : Memory.wf s.sto = true) : CmdWf (s.cmdEzero c arg0) :=
  cmdIf_wf (writeEnergy_wf (updCtx_wf (writePhys_wf h _ _)))

theorem cmdAttest_wf {s : State} {arg0 arg1 : Nat} (h : Memory.wf s.sto = true) : CmdWf (s.cmdAttest arg0 arg1) := by
  unfold State.cmdAttest
  split
  · exact cmdWf_wait h
  · split
    exacts [cmdWf_refused, cmdIf_wf (writePhys_wf h _ _)]

theorem cmdPlimit_wf {s : State} {arg0 : Nat} (h : Memory.wf s.sto = true) : CmdWf (s.cmdPlimit arg0) := cmdIf_wf h

theorem command_wf {s : State} {op c : Nat} {a0 a1 : Nat} (h : Memory.wf s.sto = true) :
    CmdWf (s.command op c a0 a1) := by
  unfold State.command
  split
  · exact cmdCreate_wf h
  · exact cmdDestroy_wf h
  · exact cmdQenable_wf h
  · exact cmdQdisable_wf h
  · exact cmdTlbi_wf h
  · exact cmdSuspend_wf h
  · exact cmdResume_wf h
  · exact cmdEndlaunch_wf h
  · exact cmdSetsave_wf h
  · exact cmdDebug_wf h
  · exact cmdStop_wf h
  · exact cmdCont_wf h
  · exact cmdDump_wf h
  · exact cmdDumpend_wf h
  · exact cmdEzero_wf h
  · exact cmdAttest_wf h
  · exact cmdPlimit_wf h
  · exact cmdWf_refused

theorem stampCommand_wf {s : State} {at_ status : Nat} (h : Memory.wf s.sto = true) :
    Memory.wf (s.stampCommand at_ status).sto = true := by
  unfold State.stampCommand
  obtain ⟨physOk, hphysOk⟩ := exists_eq (a' := State.physOk)
  rw [← hphysOk]
  dsimp only
  split
  exacts [writePhys_wf h _ _, h]

theorem after_wf {s : State} {e : CmdEnd} (h : Memory.wf s.sto = true) (he : CmdWf e) : Memory.wf (s.after e).sto = true := by
  unfold State.after
  split
  · exact he _ (.inl rfl)
  · exact h
  · exact he _ (.inr rfl)

theorem sendPending_wf {s : State} (h : Memory.wf s.sto = true) : Memory.wf (s.sendPending).sto = true :=
  foldl_wf h (fun _ _ h1 => sendMsi_wf h1)

theorem writeMsix_wf {s : State} {off n : Nat} {x : Dword} (h : Memory.wf s.sto = true) :
    Memory.wf (s.writeMsix off n x).sto = true := by
  unfold State.writeMsix
  split
  exacts [sendPending_wf h, h]

theorem updBar0_wf {s : State} {f : Bar0 → Bar0} (h : Memory.wf s.sto = true) : Memory.wf (s.updBar0 f).sto = true := h

theorem updFw_wf {s : State} {f : Firmware → Firmware} (h : Memory.wf s.sto = true) : Memory.wf (s.updFw f).sto = true := h

theorem macFailed_wf {s : State} {dev ctx : Nat} (h : Memory.wf s.sto = true) :
    Memory.wf (s.macFailed dev ctx).sto = true := by
  unfold State.macFailed
  dsimp only
  split
  exacts [foldl_wf h (fun _ _ h1 => fq12_wf h1), h]

theorem failRemote_wf {s : State} {ctx handle : Nat} {elem epoch cause : Nat} (h : Memory.wf s.sto = true) :
    Memory.wf (s.failRemote ctx handle elem epoch cause).sto = true := by
  unfold State.failRemote
  split
  · split
    exacts [failElem_wf h, h]
  · exact h

theorem reply_wf {s : State} {q : RemoteReq} {k : AckKind} (h : Memory.wf s.sto = true) :
    Memory.wf (s.reply q k).sto = true := h

theorem refuseRemote_wf {s : State} {q : RemoteReq} (h : Memory.wf s.sto = true) :
    Memory.wf (s.refuseRemote q).sto = true := reply_wf (by
  split
  exacts [failRemote_wf h, h])

theorem remoteAtomic_wf {s : State} {c : Context} {va aop : Nat} {t : ATy} {x cmp : Dword} (h : Memory.wf s.sto = true) :
    Memory.wf (s.remoteAtomic c va aop t x cmp).1.sto = true := by
  unfold State.remoteAtomic
  obtain ⟨readPhys, hr⟩ := exists_eq (a' := State.readPhys)
  rw [← hr]
  extract_lets n
  split
  · split
    · exact h
    · exact ite_wf (writePhys_wf h _ _) h
  · exact h

theorem remoteSubscribe_wf {s : State} {c : Context} {va dev : Nat} {sctx team slot : Nat} {token : Dword}
    (h : Memory.wf s.sto = true) :
    Memory.wf (s.remoteSubscribe c va dev sctx team slot token).1.sto = true := by
  unfold State.remoteSubscribe
  obtain ⟨readPhys, hreadPhys⟩ := exists_eq (a' := State.readPhys)
  rw [← hreadPhys]
  split
  · split
    · exact h
    · dsimp only
      split <;> exact h
  · exact h

theorem remoteRoot_wf {s : State} {ctx handle : Nat} {elem seq : Nat} {v : Dword} (h : Memory.wf s.sto = true) :
    Memory.wf (s.remoteRoot ctx handle elem seq v).sto = true := by
  unfold State.remoteRoot
  dsimp only
  split
  · exact h
  · next ht =>
      split
      · exact h
      · next ht1 =>
          exact writeStamp_wf (vwriteOption_wf h _ ht1 :)

theorem performRemote_wf {s : State} {c : Context} {dev sctx base : Nat} {token : Dword} {o : RemoteOp}
    (h : Memory.wf s.sto = true) :
    Memory.wf (s.performRemote c dev sctx base token o).1.sto = true := by
  unfold State.performRemote
  split
  · split <;> exact h
  · split
    · next ht =>
        exact (vwriteOption_wf h _ ht :)
    · exact h
  · exact remoteAtomic_wf h
  · exact remoteAtomic_wf h
  · exact remoteSubscribe_wf h
  · exact h
  · exact h
  · exact h
  · exact remoteRoot_wf h
  · exact failRemote_wf h
  · split <;> exact h

theorem putSource_wf {s : State} {x : SourceRec} (h : Memory.wf s.sto = true) : Memory.wf (s.putSource x).sto = true := h

theorem serve_wf {s : State} {q : RemoteReq} {x : SourceRec} (h : Memory.wf s.sto = true) :
    Memory.wf (s.serve q x).sto = true := by
  unfold State.serve
  dsimp only
  split
  · exact macFailed_wf (refuseRemote_wf h)
  · split
    · exact refuseRemote_wf h
    · split
      · exact refuseRemote_wf h
      · exact reply_wf (by
            split
            · split
              exacts [putSource_wf (performRemote_wf h), performRemote_wf h]
            · exact performRemote_wf h)

theorem afresh_wf {s : State} {q : RemoteReq} (h : Memory.wf s.sto = true) : Memory.wf (s.afresh q).sto = true := by
  unfold State.afresh
  split <;> exact h

theorem landRemote_wf {s : State} {o : Op} {val : Except Failure (List Byte)} (h : Memory.wf s.sto = true) :
    Memory.wf (s.landRemote o val).sto = true := by
  unfold State.landRemote
  split
  · dsimp only
    split
    · exact setOp_wf (by
          split
          exacts [acquire_wf h, h])
    · split
      · split
        · exact setOp_wf (by
              split
              exacts [acquire_wf h, h])
        · exact setOp_wf (by
              split
              exacts [acquire_wf h, h])
      · split
        · exact setOp_wf (by
              split
              exacts [acquire_wf h, h])
        · exact setOp_wf (by
              split
              exacts [acquire_wf h, h])
  · exact h

theorem watchRemote_wf {s : State} {q : Outgoing} {val : Except (Nat × Nat) (List Byte)} {o : Op}
    (h : Memory.wf s.sto = true) :
    Memory.wf (s.watchRemote q val o).sto = true := by
  unfold State.watchRemote
  split
  exacts [elim_wf h (fun _ => watched_wf h), h]

theorem unknown_wf {s : State} {q : Outgoing} (h : Memory.wf s.sto = true) : Memory.wf (s.unknown q).sto = true := by
  unfold State.unknown
  split
  exacts [fq12_wf h, fq12_wf h, h]

theorem release_wf {s : State} {held : List Outgoing} (h : Memory.wf s.sto = true) :
    Memory.wf (s.release held).sto = true := h

theorem endRequest_wf {s : State} {q : Outgoing} {val : Except (Nat × Nat) (List Byte)} (h : Memory.wf s.sto = true) :
    Memory.wf (s.endRequest q val).sto = true :=
  release_wf (by
  split
  · exact unknown_wf (foldl_wf h (fun _ _ h1 => landRemote_wf (watchRemote_wf h1)))
  · exact foldl_wf h (fun _ _ h1 => landRemote_wf (watchRemote_wf h1)))

theorem containLine_wf {s : State} {line : Nat} (h : Memory.wf s.sto = true) : Memory.wf (s.containLine line).sto = true :=
  foldl_wf (foldl_wf h (fun _ _ h1 => contain_wf h1)) (fun _ _ h1 => h1)

theorem loseLine_wf {s : State} {line : Nat} (h : Memory.wf s.sto = true) : Memory.wf (s.loseLine line).sto = true := by
  unfold State.loseLine
  split
  · exact h
  · dsimp only
    split
    exacts [containLine_wf h, h]

theorem takeOver_wf {s : State} {k st : Nat} (h : Memory.wf s.sto = true) : Memory.wf (s.takeOver k st).sto = true := h

theorem rehomeAll_wf {s : State} (h : Memory.wf s.sto = true) : Memory.wf (s.rehomeAll).sto = true :=
  foldl_wf h (fun _ _ h1 => h1)

theorem replaceChannel_wf {s : State} {chan : Nat} (h : Memory.wf s.sto = true) :
    Memory.wf (s.replaceChannel chan).sto = true := by
  unfold State.replaceChannel
  split
  exacts [h, foldl_wf h (fun _ _ h1 => loseLine_wf h1)]

theorem finishRepair_wf {s : State} (h : Memory.wf s.sto = true) : Memory.wf (s.finishRepair).sto = true :=
  updHealth_wf (foldl_wf (rehomeAll_wf h) (fun _ _ h1 => replaceChannel_wf h1))

theorem restart_wf {s : State} (h : Memory.wf s.sto = true) : Memory.wf s.restart.sto = true := by
  obtain ⟨hm, hs, hw⟩ := wf_parts h
  exact wf_of_parts (freeCells_wf s 0 hm) (freeCells_wf s 1 hs) (freeCells_wf s 2 hw)

theorem applyMap_wf {s : State} {m : RepairMap} (h : Memory.wf s.sto = true) : Memory.wf (s.applyMap m).sto = true := h

theorem boot_wf {s : State} (h : Memory.wf s.sto = true) : Memory.wf (s.boot).sto = true := by
  unfold State.boot
  dsimp only
  split
  exacts [restart_wf h, sendMsi_wf (updBar0_wf (applyMap_wf (updFw_wf (restart_wf h))))]

theorem lookAgain_wf {s : State} {u : Nat} (h : Memory.wf s.sto = true) : Memory.wf (s.lookAgain u).sto = true := by
  unfold State.lookAgain
  dsimp only
  split
  · exact h
  · split <;> exact h

theorem nextClk_wf {s : State} (h : Memory.wf s.sto = true) : Memory.wf (s.nextClk).sto = true :=
  foldl_wf h (fun _ _ h1 => lookAgain_wf h1)

theorem unblocked_wf {s : State} (h : Memory.wf s.sto = true) : Memory.wf (s.unblocked).sto = true := h

theorem spoiled_wf {s : State} {x : Spoil} (h : Memory.wf s.sto = true) : Memory.wf (s.spoiled x).sto = true := by
  unfold State.spoiled
  split
  · exact h
  · exact h
  · exact h
  · exact loseLine_wf h
  · exact h
  · exact h
  · exact h
  · exact foldl_wf h (fun _ _ h1 => failElem_wf h1)
  · exact dropSub_wf (sendAll_wf h)

theorem spoil_wf {s : State} {x : Spoil} (h : Memory.wf s.sto = true) : Memory.wf (s.spoil x).sto = true := by
  unfold State.spoil
  split
  exacts [h, spoiled_wf h]

theorem settled_wf {s : State} (h : Memory.wf s.sto = true) : Memory.wf (s.settled).sto = true := by
  unfold State.settled
  split <;> exact h

end Sys2Proof.Proofs
end

section
/-! PROOFS. Every word and every event keeps the memories in canonical form. -/

namespace Sys2Proof.Proofs

open Sys2Proof.Machine Sys2Proof.Safety Sys2Proof.Laws

set_option Elab.async false

theorem execSel_wf {d a b : Opnd} {q : Nat} {s : State} (h : Memory.wf s.sto = true) :
    Answers (execSel d a b q s) := run_wf h ({ act := fun _ _ h1 => putDst_wf h1 })

theorem execP2v_wf {d : Opnd} {g : Nat} {s : State} (h : Memory.wf s.sto = true) : Answers (execP2v d g s) :=
  run_wf h
    { act := fun _ _ h1 => putDst_wf h1 }

theorem execV2p_wf {a b : Opnd} {g : Nat} {s : State} (h : Memory.wf s.sto = true) : Answers (execV2p a b g s) :=
  run_wf h
    { act := fun _ _ h1 => each_wf h1 }

theorem execShfl_wf {d a b : Opnd} {m : ShflMode} {s : State} (h : Memory.wf s.sto = true) :
    Answers (execShfl d a b m s) := run_wf h ({ act := fun _ _ h1 => putDst_wf h1 })

theorem execVote_wf {q a : Nat} {na : Bool} {m : VoteMode} {g : Nat} {s : State} (h : Memory.wf s.sto = true) :
    Answers (execVote q a na m g s) := run_wf h ({ act := fun _ _ h1 => putPred_wf h1 })

theorem execBallot_wf {d : Opnd} {a : Nat} {na : Bool} {g : Nat} {s : State} (h : Memory.wf s.sto = true) :
    Answers (execBallot d a na g s) := run_wf h ({ act := fun _ _ h1 => putDst_wf h1 })

theorem execLmatch_wf {d a : Opnd} {g : Nat} {s : State} (h : Memory.wf s.sto = true) :
    Answers (execLmatch d a g s) := run_wf h ({ act := fun _ _ h1 => putDst_wf h1 })

theorem execLred_wf {d a b : Opnd} {o : LredOp} {s : State} (h : Memory.wf s.sto = true) :
    Answers (execLred d a b o s) := run_wf h ({ act := fun _ _ h1 => putDst_wf h1 })

theorem execOsmx_wf {d a b : Opnd} {g : Nat} {s : State} (h : Memory.wf s.sto = true) :
    Answers (execOsmx d a b g s) := by
  unfold execOsmx
  split <;> exact run_wf h arith_wf

theorem execLd_wf {d a b : Opnd} {t : MemTy} {acq : Bool} {s : State} (h : Memory.wf s.sto = true) :
    Answers (execLd d a b t acq s) :=
  run_wf h ({ act := fun _ _ h1 => (by
  dsimp only
  split
  exacts [acquire_wf (startLoads_wf h1), startLoads_wf h1]) })

theorem execSt_wf {d a b : Opnd} {t : MemTy} {rel : Bool} {s : State} (h : Memory.wf s.sto = true) :
    Answers (execSt d a b t rel s) :=
  run_wf h ({ act := fun _ _ h1 => startStores_wf (by
  split
  exacts [shadowRelease_wf (settleLoads_wf h1), h1]), note := fun _ _ h1 => (by
  split
  exacts [delivered_wf h1, h1]) })

theorem execLds_wf {d a b : Opnd} {t : MemTy} {s : State} (h : Memory.wf s.sto = true) :
    Answers (execLds d a b t s) :=
  run_wf h ({ act := fun _ _ h1 => charged_wf (foldl_wf (accessed_wf h1) (fun _ _ h2 => startLds_wf h2)) })

theorem execSts_wf {d a b : Opnd} {t : MemTy} {s : State} (h : Memory.wf s.sto = true) :
    Answers (execSts d a b t s) := run_wf h ({ act := fun _ _ h1 => startStores_wf h1 })

theorem execLdw_wf {d a b : Opnd} {t : MemTy} {s : State} (h : Memory.wf s.sto = true) :
    Answers (execLdw d a b t s) := run_wf h ({ act := fun _ _ h1 => startLoads_wf h1 })

theorem execGld_wf {d : Opnd} {base sz : Nat} {sx : Bool} {b : Opnd} {sp iw : Bool} {sh : Nat} {s : State}
    (h : Memory.wf s.sto = true) :
    Answers (execGld d base sz sx b sp iw sh s) :=
  run_wf h
    { act := fun _ _ h1 => (by
  split
  · exact charged_wf (foldl_wf (accessed_wf (by
        split
        exacts [h1, charge_wf h1])) (fun _ _ h2 => (by
        split
        exacts [startLoad_wf h2, h2])))
  · exact startLoads_wf (by
        split
        exacts [h1, charge_wf h1])) }

theorem execGst_wf {d : Opnd} {base sz : Nat} {sx : Bool} {b : Opnd} {sp iw : Bool} {sh : Nat} {s : State}
    (h : Memory.wf s.sto = true) :
    Answers (execGst d base sz sx b sp iw sh s) :=
  run_wf h
    { act := fun _ _ h1 => (by
  dsimp only
  split
  · exact charged_wf (foldl_wf (accessed_wf (by
        split <;> exact h1)) (fun _ _ h2 => (by
        split
        · split
          exacts [startStore_wf (orderRead_wf h2), start_wf (orderRead_wf h2)]
        · exact h2)))
  · exact startElems_wf (by
        split <;> exact h1)) }

theorem execContrib_wf {e a b : Opnd} {g : Nat} {s : State} (h : Memory.wf s.sto = true) :
    Answers (execContrib e a b g s) :=
  run_wf h ({ act := fun _ _ h1 => foldl_wf h1 (fun _ _ h2 => by
    split
    exacts [h2, contribute_wf (updThr_wf h2)]
) })

theorem execTstat_wf {d a b : Opnd} {g : Nat} {s : State} (h : Memory.wf s.sto = true) :
    Answers (execTstat d a b g s) :=
  run_wf h ({ act := fun _ _ h1 => foldl_wf h1 (fun _ _ h2 => by
    split
    exacts [h2, startOp_wf (emptyDst_wf (tstatKind_wf h2))]
) })

theorem execSload_wf {q : Nat} {ring : Bool} {a b : Opnd} {g : Nat} {s : State} (h : Memory.wf s.sto = true) :
    Answers (execSload q ring a b g s) :=
  run_wf h ({ act := fun _ _ h1 => (by
  dsimp only
  split
  exacts [updFly_wf (putPred_wf h1), inTurn_wf h1 (fun _ _ h2 => sloadStart_wf h2)]), fin := fun _ h1 => (by
  dsimp only
  split
  exacts [h1, advance_wf h1]) })

theorem execSpoll_wf {d a b : Opnd} {w64 peek : Bool} {s : State} (h : Memory.wf s.sto = true) :
    Answers (execSpoll d a b w64 peek s) :=
  run_wf h ({ act := fun _ _ h1 => foldl_wf (foldl_fst_wf h1 (fun _ _ h2 => (by
  split
  exacts [h2, startOp_wf (emptyDst_wf h2)]))) (fun _ _ h2 => (by
  split
  exacts [h2, takeSlot_wf h2])) })

theorem execUnsub_wf {b : Opnd} {g : Nat} {s : State} (h : Memory.wf s.sto = true) : Answers (execUnsub b g s) :=
  run_wf h ({ act := fun _ _ h1 => foldl_wf h1 (fun _ _ h2 => unsubOne_wf h2) })

theorem execPref_wf {a b : Opnd} {s : State} (h : Memory.wf s.sto = true) : Answers (execPref a b s) :=
  run_wf h ({ act := fun _ _ h1 => foldl_wf h1 (fun _ _ h2 => by
    dsimp only
    split
    · split
      · exact noteToken_wf (noteVisitor_wf (chargeLines_wf (noteTlb_wf h2)))
      · exact chargeLines_wf (noteTlb_wf h2)
    · exact h2
) })

theorem execFence_wf {sc : Scope} {k : FenceKind} {g : Nat} {s : State} (h : Memory.wf s.sto = true) :
    Answers (execFence sc k g s) :=
  run_wf h ({ act := fun _ _ h1 => (by
  dsimp only
  split
  · exact h1
  · split
    · split
      exacts [shadowRelease_wf (settleLoads_wf h1), settleLoads_wf h1]
    · exact acquire_wf (by
          split
          exacts [shadowRelease_wf (settleLoads_wf h1), settleLoads_wf h1])), note := fun _ _ h1 => delivered_wf h1 })

theorem execMrsv_wf {d : Opnd} {q g : Nat} {s : State} (h : Memory.wf s.sto = true) : Answers (execMrsv d q g s) :=
  run_wf h ({ act := fun _ _ h1 => (by
  dsimp only
  split
  · exact h1
  · split
    exacts [putPred_wf (putDst_wf h1), putPred_wf (putDst_wf (updResv_wf h1))]) })

theorem execMrel_wf {r g : Nat} {s : State} (h : Memory.wf s.sto = true) : Answers (execMrel r g s) :=
  run_wf h (leadWork_wf (fun _ _ h1 => updResv_wf (issueMx_wf h1)))

theorem execMinit_wf {r k : Nat} {spad : Bool} {a b : Opnd} {g : Nat} {s : State} (h : Memory.wf s.sto = true) :
    Answers (execMinit r k spad a b g s) :=
  run_wf h (leadWork_wf (fun _ _ h1 => setAhead_wf (issueMx_wf h1)))

theorem execMma_wf {k h : Nat} {a b : Opnd} {s : State} (hm : Memory.wf s.sto = true) :
    Answers (execMma k h a b s) := run_wf hm (signWork_wf (fun _ _ h1 => signOne_wf h1))

theorem execMmas_wf {k h : Nat} {a b : Opnd} {s : State} (hm : Memory.wf s.sto = true) :
    Answers (execMmas k h a b s) := run_wf hm (signWork_wf (fun _ _ h1 => signOne_wf h1))

theorem execGmma_wf {k h : Nat} {a b : Opnd} {s : State} (hm : Memory.wf s.sto = true) :
    Answers (execGmma k h a b s) := run_wf hm (signWork_wf (fun _ _ h1 => signOne_wf h1))

theorem execMguide_wf {r k : Nat} {a : Opnd} {g : Nat} {s : State} (h : Memory.wf s.sto = true) :
    Answers (execMguide r k a g s) := run_wf h (leadWork_wf (fun _ _ h1 => issueMx_wf h1))

theorem execMfin_wf {r k g : Nat} {s : State} (h : Memory.wf s.sto = true) : Answers (execMfin r k g s) :=
  run_wf h (leadWork_wf (fun _ _ h1 => setAhead_wf (issueMx_wf h1)))

theorem execMdrainReg_wf {r k : Nat} {a : Opnd} {col rowb g : Nat} {s : State} (h : Memory.wf s.sto = true) :
    Answers (execMdrainReg r k a col rowb g s) :=
  run_wf h
    { act := fun _ _ h1 => foldl_wf h1 (fun _ _ h2 => (by
  split
  exacts [enqueue_wf (emptyDst_wf h2), h2])) }

theorem execMdrainSpad_wf {r k : Nat} {a : Opnd} {g : Nat} {s : State} (h : Memory.wf s.sto = true) :
    Answers (execMdrainSpad r k a g s) := run_wf h (leadWork_wf (fun _ _ h1 => issueMx_wf h1))

theorem execMdrainTree_wf {r k : Nat} {a : Opnd} {g : Nat} {s : State} (h : Memory.wf s.sto = true) :
    Answers (execMdrainTree r k a g s) :=
  run_wf h (leadWork_wf (fun _ _ h1 => setAhead_wf (issueMx_wf h1)))

theorem execMstore_wf {r k : Nat} {f : SFmt} {glob : Bool} {a : Opnd} {g : Nat} {s : State} (h : Memory.wf s.sto = true) :
    Answers (execMstore r k f glob a g s) := run_wf h (leadWork_wf (fun _ _ h1 => issueMx_wf h1))

theorem execMstatAcc_wf {d : Opnd} {r k g : Nat} {s : State} (h : Memory.wf s.sto = true) :
    Answers (execMstatAcc d r k g s) :=
  run_wf h ({ act := fun _ _ h1 => foldl_wf h1 (fun _ _ h2 => enqueue_wf (by
  split
  · split
    exacts [emptyDst_wf h2, h2]
  · exact emptyDst_wf h2)) })

theorem execMstatEng_wf {d : Opnd} {r _k g : Nat} {s : State} (h : Memory.wf s.sto = true) :
    Answers (execMstatEng d r _k g s) := run_wf h ({ act := fun _ _ h1 => putDst_wf h1 })

theorem execWbind_wf {e : Nat} {a : Opnd} {f : WFrom} {g : Nat} {s : State} (h : Memory.wf s.sto = true) :
    Answers (execWbind e a f g s) :=
  runAfter_wf h ({ act := fun _ _ h1 => (by
  dsimp only
  split
  · exact h1
  · split
    exacts [h1, updEntry_wf (unbind_wf (bindReads_wf h1))]) })

theorem execWunb_wf {e g : Nat} {s : State} (h : Memory.wf s.sto = true) : Answers (execWunb e g s) :=
  run_wf h ({ act := fun _ _ h1 => (by
  dsimp only
  split
  exacts [h1, unbindOf_wf h1]) })

theorem execTouch_wf {e q g : Nat} {s : State} (h : Memory.wf s.sto = true) : Answers (execTouch e q g s) :=
  run_wf h ({ act := fun _ _ h1 => (by
  dsimp only
  split
  · exact h1
  · split
    · exact putPred_wf h1
    · split
      · exact putPred_wf h1
      · split
        exacts [putPred_wf (enterQueue_wf h1), putPred_wf (newFill_wf (updThr_wf h1))]) })

theorem execWstat_wf {e : Nat} {d : Opnd} {g : Nat} {s : State} (h : Memory.wf s.sto = true) : Answers (execWstat e d g s) :=
  run_wf h
    { act := fun _ _ h1 => putDst_wf h1 }

theorem execWflush_wf {e g : Nat} {s : State} (h : Memory.wf s.sto = true) : Answers (execWflush e g s) :=
  run_wf h ({ act := fun _ _ h1 => (by
  dsimp only
  split
  exacts [h1, takeId_wf (updFly_wf (updEntry_wf (updThr_wf h1)))]) })

theorem execReform_wf {g : Nat} {s : State} (h : Memory.wf s.sto = true) : Answers (execReform g s) := by
  unfold execReform
  dsimp only
  split
  · exact run_wf h ({ act := fun _ _ h1 => fileAll_wf (by
        split
        exacts [clauseTrace_wf h1, h1]) })
  · exact answers_next (block_wf (fileAll_wf h))
  · exact run_wf h ({ act := fun _ _ h1 => fileAll_wf (by
        split
        exacts [clauseTrace_wf h1, h1]) })

theorem execYield_wf {g : Nat} {s : State} (h : Memory.wf s.sto = true) : Answers (execYield g s) :=
  run_wf h ({ act := fun _ _ h1 => (by
  dsimp only
  split
  exacts [h1, each_wf (updUnit_wf h1)]) })

theorem execElect_wf {d : Opnd} {q g : Nat} {s : State} (h : Memory.wf s.sto = true) : Answers (execElect d q g s) :=
  run_wf h ({ act := fun _ _ h1 => putPred_wf (putDst_wf h1) })

theorem execArriveExpect_wf {d a : Opnd} {b g : Nat} {s : State} (h : Memory.wf s.sto = true) :
    Answers (execArriveExpect d a b g s) :=
  run_wf h ({ act := fun _ _ h1 => putDst_wf (updBar_wf h1) })

theorem execBwait_wf {a : Opnd} {b g : Nat} {s : State} (h : Memory.wf s.sto = true) : Answers (execBwait a b g s) :=
  run_wf h
    {  }

theorem execBsync_wf {b g : Nat} {s : State} (h : Memory.wf s.sto = true) : Answers (execBsync b g s) :=
  run_wf (bsyncArrive_wf h) ({ act := fun _ _ h1 => each_wf h1 })

theorem execKdecl_wf {k : Nat} {a b : Opnd} {g : Nat} {s : State} (h : Memory.wf s.sto = true) :
    Answers (execKdecl k a b g s) :=
  run_wf h ({ act := fun _ _ h1 => (by
  dsimp only
  split
  exacts [h1, updConv_wf h1]) })

theorem execSign_wf {k q g : Nat} {s : State} (h : Memory.wf s.sto = true) : Answers (execSign k q g s) :=
  run_wf h (signWork_wf (fun _ _ h1 => signOne_wf h1))

theorem execWaitc_wf {c : Ctr} {th g : Nat} {s : State} (h : Memory.wf s.sto = true) : Answers (execWaitc c th g s) :=
  run_wf h ({ act := fun _ _ h1 => (by
  split
  exacts [each_wf h1, h1]), note := fun _ _ h1 => delivered_wf h1 })

theorem execMwait_wf {d a b : Opnd} {sp : Bool} {s : State} (h : Memory.wf s.sto = true) :
    Answers (execMwait d a b sp s) :=
  run_wf (mwaitAsks_wf h) ({ act := fun _ _ h1 => (by
  dsimp only
  split
  · exact foldl_wf (putDst_wf h1) (fun _ _ h2 => dropWords_wf h2)
  · exact acquire_wf (foldl_wf (putDst_wf h1) (fun _ _ h2 => dropWords_wf h2))) })

theorem execRet_wf {g : Nat} {s : State} (h : Memory.wf s.sto = true) : Answers (execRet g s) :=
  run_wf h ({ act := fun _ _ h1 => each_wf h1, fin := fun _ h1 => split_wf h1 })

theorem execExit_wf {g : Nat} {s : State} (h : Memory.wf s.sto = true) : Answers (execExit g s) :=
  run_wf h
    { act := fun _ _ h1 => foldl_wf (ite_wf (clauseTrace_wf h1) h1) (fun _ _ h2 => endThread_wf h2)
      note := fun _ _ h1 => exitNote_wf h1
      fin := fun _ h1 => split_wf h1 }

theorem execTrap_wf {c g : Nat} {s : State} (h : Memory.wf s.sto = true) : Answers (execTrap c g s) :=
  run_wf h
    { fin := fun _ h1 => split_wf h1 }

theorem execEnter_wf {c g : Nat} {s : State} (h : Memory.wf s.sto = true) : Answers (execEnter c g s) :=
  run_wf h ({ act := fun _ _ h1 => regionBreak_wf (each_wf h1), fin := fun _ h1 => split_wf h1 })

theorem execLeave_wf {c g : Nat} {s : State} (h : Memory.wf s.sto = true) : Answers (execLeave c g s) :=
  run_wf h ({ act := fun _ _ h1 => regionBreak_wf (each_wf h1), fin := fun _ h1 => split_wf h1 })

theorem execBkpt_wf {c g : Nat} {s : State} (h : Memory.wf s.sto = true) : Answers (execBkpt c g s) :=
  run_wf h ({ act := fun _ _ h1 => (by
  dsimp only
  split
  exacts [ownStop_wf h1, h1]), fin := fun _ h1 => split_wf h1 })

theorem execSrd_wf {d : Opnd} {n g : Nat} {s : State} (h : Memory.wf s.sto = true) : Answers (execSrd d n g s) :=
  run_wf h
    { act := fun _ _ h1 => putDst_wf h1 }

theorem execSwr_wf {a : Opnd} {n g : Nat} {s : State} (h : Memory.wf s.sto = true) : Answers (execSwr a n g s) := by
  unfold execSwr
  dsimp only
  split
  exacts [run_wf h ({ act := fun _ _ h1 => h1 }), runPriv_wf h ({ act := fun _ _ h1 => h1 })]

theorem execEret_wf {s : State} (h : Memory.wf s.sto = true) : Answers (execEret s) :=
  runPriv_wf h ({ act := fun _ _ h1 => getD_wf (eretAll_wf (by
  split
  exacts [clauseTrace_wf h1, h1])) (by
  split
  exacts [clauseTrace_wf h1, h1]), fin := fun _ h1 => h1 })

theorem execSvrf_wf {blk : Nat} {a b : Opnd} {g : Nat} {s : State} (h : Memory.wf s.sto = true) :
    Answers (execSvrf blk a b g s) :=
  runPriv_wf h
    { act := fun _ _ h1 => foldl_wf h1 (fun _ _ h2 => finishParts_wf (updThr_wf (savedBlock_wf (putImage_wf h2)))) }

theorem execLdrf_wf {blk : Nat} {a b : Opnd} {g : Nat} {s : State} (h : Memory.wf s.sto = true) :
    Answers (execLdrf blk a b g s) :=
  runPrivAfter_wf h ({ act := fun _ _ h1 => foldl_wf h1 (fun _ _ h2 => (by
  split
  exacts [chargeLines_wf (imageUsed_wf (loadBlock_wf h2)), h2])) })

theorem execSvwinWin_wf {e : Nat} {a : Opnd} {s : State} (h : Memory.wf s.sto = true) : Answers (execSvwinWin e a s) :=
  runPriv_wf h ({ act := fun _ _ h1 => (by
  dsimp only
  split
  · exact h1
  · split
    exacts [updEntry_wf (updFly_wf (saveImage_wf h1)), saveImage_wf h1]) })

theorem execSvwinSlot_wf {_e : Nat} {a b : Opnd} {s : State} (h : Memory.wf s.sto = true) :
    Answers (execSvwinSlot _e a b s) :=
  runPriv_wf h ({ act := fun _ _ h1 => (by
  dsimp only
  split
  exacts [h1, updFly_wf (saveImage_wf h1)]) })

theorem execLdwinWin_wf {e : Nat} {a : Opnd} {s : State} (h : Memory.wf s.sto = true) : Answers (execLdwinWin e a s) := by
  unfold execLdwinWin
  obtain ⟨gi, hgi⟩ := exists_eq (a' := State.getImage)
  rw [← hgi]
  refine runPrivAfter_wf h { act := fun s _ h1 => ?_ }
  dsimp only
  split
  · exact h1
  · split
    · exact h1
    · split
      · exact chargeLines_wf (imageUsed_wf h1)
      · split
        · exact updEntry_wf (chargeLines_wf (imageUsed_wf h1))
        · split
          · exact chargeLines_wf (imageUsed_wf h1)
          · exact updEntry_wf (chargeLines_wf
              (imageUsed_wf (writeSpad_wf (writeSpad_wf (chargeLines_wf (imageUsed_wf h1)) _ _) _ _)))

theorem execLdwinSlot_wf {e : Nat} {a b : Opnd} {s : State} (h : Memory.wf s.sto = true) :
    Answers (execLdwinSlot e a b s) := by
  unfold execLdwinSlot
  obtain ⟨gi, hgi⟩ := exists_eq (a' := State.getImage)
  rw [← hgi]
  refine runPrivAfter_wf h { act := fun s _ h1 => ?_ }
  dsimp only
  split
  · exact h1
  · split
    · exact h1
    · have hs1 {v n k a bs} :
        Memory.wf (((s.imageUsed v n).chargeLines s.unitCtx.num s.unit.core k).writeSpad a bs).sto = true :=
        writeSpad_wf (chargeLines_wf (imageUsed_wf h1)) _ _
      split
      · split
        · exact hs1
        · exact updFly_wf hs1
      · refine writeSpad_wf (updSlot_wf ?_) _ _
        split
        · exact hs1
        · exact updFly_wf hs1

theorem execTlbi_wf {page : Bool} {a b : Opnd} {g : Nat} {s : State} (h : Memory.wf s.sto = true) :
    Answers (execTlbi page a b g s) :=
  runPriv_wf h ({ act := fun _ _ h1 => foldl_wf h1 (fun _ _ h2 => h2) })

theorem execGrant_wf {d a b : Opnd} {g : Nat} {s : State} (h : Memory.wf s.sto = true) :
    Answers (execGrant d a b g s) := runPriv_wf h ({ act := fun _ _ h1 => putDst_wf h1 })

theorem execHaltThread_wf {s : State} (h : Memory.wf s.sto = true) : Answers (execHaltThread s) :=
  runPriv_wf h (haltWork_wf (fun _ _ h1 => haltThread_wf h1))

theorem execHaltGroup_wf {s : State} (h : Memory.wf s.sto = true) : Answers (execHaltGroup s) :=
  runPriv_wf h (haltWork_wf (fun _ _ h1 => haltGroup_wf h1))

theorem execHaltKernel_wf {s : State} (h : Memory.wf s.sto = true) : Answers (execHaltKernel s) :=
  runPriv_wf h (haltWork_wf (fun _ _ h1 => endLaunch_wf h1))

theorem execHaltPark_wf {s : State} (h : Memory.wf s.sto = true) : Answers (execHaltPark s) :=
  runPriv_wf h
    { act := (haltWork_wf fun _ _ h1 => parkThread_wf h1).act
      fin := fun _ h1 => h1 }

theorem execMark_wf {c g : Nat} {s : State} (h : Memory.wf s.sto = true) : Answers (execMark c g s) :=
  run_wf h ({ act := fun _ _ h1 => (by
  dsimp only
  split
  · exact h1
  · split
    exacts [unitTrace_wf h1, h1]) })

theorem execRep_wf {cnt step : Nat} {s : State} (h : Memory.wf s.sto = true) : Answers (execRep cnt step s) := by
  unfold execRep
  split
  exacts [runPrefix_wf h, answers_next (badPrefix_wf h)]

theorem execScope_wf {sc : Scope} {s : State} (h : Memory.wf s.sto = true) : Answers (execScope sc s) := by
  unfold execScope
  split
  exacts [runPrefix_wf h, answers_next (badPrefix_wf h)]

theorem execClauseIssue_wf {s : State} (h : Memory.wf s.sto = true) : Answers (execClauseIssue s) := by
  unfold execClauseIssue
  split
  exacts [answers_next (issueClause_wf h), answers_next h]

theorem execFoldAgeLimit_wf {core fold : Nat} {s : State} (h : Memory.wf s.sto = true) :
    Answers (execFoldAgeLimit core fold s) := by
  unfold execFoldAgeLimit
  split
  · split
    exacts [answers_next (formFold_wf h), answers_next h]
  · exact answers_next h

theorem execFoldForm_wf {core fold : Nat} {s : State} (h : Memory.wf s.sto = true) :
    Answers (execFoldForm core fold s) := by
  unfold execFoldForm
  split
  · split
    exacts [answers_next (formFold_wf h), answers_next h]
  · exact answers_next h

theorem execUnitExpired_wf {u : Nat} {s : State} (h : Memory.wf s.sto = true) : Answers (execUnitExpired u s) := by
  unfold execUnitExpired
  split <;> exact answers_next h

theorem execBwaitRelease_wf {u : Nat} {s : State} (h : Memory.wf s.sto = true) : Answers (execBwaitRelease u s) := by
  unfold execBwaitRelease
  dsimp only
  split
  · split
    · exact wakeFor_wf h fun _ h1 => execBwait_wf h1
    · exact answers_next h
  · split
    · exact wakeFor_wf h fun _ h1 => execBsync_wf h1
    · exact answers_next h
  · exact answers_next h

theorem execMwaitWake_wf {u : Nat} {s : State} (h : Memory.wf s.sto = true) : Answers (execMwaitWake u s) := by
  unfold execMwaitWake
  dsimp only
  split
  · split
    · exact wakeFor_wf h fun _ h1 => execMwait_wf h1
    · exact answers_next h
  · exact answers_next h

theorem execLoadValueLands_wf {op : Nat} {s : State} (h : Memory.wf s.sto = true) : Answers (execLoadValueLands op s) := by
  unfold execLoadValueLands
  split
  · split
    · exact answers_next h
    · dsimp only
      split
      exacts [answers_next (landOp_wf (sampleLoads_wf h)), answers_next (sampleLoads_wf h)]
  · exact answers_next h

theorem execStorePerformed_wf {op : Nat} {s : State} (h : Memory.wf s.sto = true) : Answers (execStorePerformed op s) := by
  unfold execStorePerformed
  split
  · split
    exacts [answers_next (perform_wf h), answers_next h]
  · exact answers_next h

theorem execCountedOpComplete_wf {op : Nat} {s : State} (h : Memory.wf s.sto = true) :
    Answers (execCountedOpComplete op s) := by
  unfold execCountedOpComplete
  split
  · split
    · dsimp only
      split
      exacts [answers_next (holdError_wf (dropOp_wf h)), answers_next (dropOp_wf h)]
    · exact answers_next (partsDone_wf h)
    · exact answers_next h
  · exact answers_next h

theorem execPersistentRequest_wf {core line : Nat} {s : State} (h : Memory.wf s.sto = true) :
    Answers (execPersistentRequest core line s) := by
  unfold execPersistentRequest
  split <;> exact answers_next h

theorem execFillEntersQueue_wf {job : Nat} {s : State} (h : Memory.wf s.sto = true) :
    Answers (execFillEntersQueue job s) := by
  unfold execFillEntersQueue
  split
  · split
    exacts [answers_next (enterQueue_wf h), answers_next h]
  · exact answers_next h

theorem execFillBeatLands_wf {job off : Nat} {s : State} (h : Memory.wf s.sto = true) :
    Answers (execFillBeatLands job off s) := by
  unfold execFillBeatLands
  split
  · dsimp only
    split
    exacts [answers_next (beat_wf h), answers_next h]
  · exact answers_next h

theorem execFillStampWrite_wf {job dest : Nat} {s : State} (h : Memory.wf s.sto = true) :
    Answers (execFillStampWrite job dest s) := by
  unfold execFillStampWrite
  split
  · split
    exacts [answers_next (stampDest_wf h), answers_next h]
  · exact answers_next h

theorem execFlushBegin_wf {job : Nat} {s : State} (h : Memory.wf s.sto = true) : Answers (execFlushBegin job s) := by
  unfold execFlushBegin
  split
  · split
    · exact answers_next h
    · split
      · exact answers_next h
      · split
        · exact answers_next h
        · split
          exacts [answers_next (endJob_wf (writeSpad_wf h _ _)), answers_next h]
        · exact answers_next h
  · exact answers_next h

theorem execFlushComplete_wf {job : Nat} {s : State} (h : Memory.wf s.sto = true) : Answers (execFlushComplete job s) := by
  unfold execFlushComplete
  split
  · split
    · split
      exacts [answers_next (doFlush_wf h), answers_next h]
    · exact answers_next h
  · exact answers_next h

theorem execWsRefreshSlot_wf {die : Nat} {s : State} (h : Memory.wf s.sto = true) : Answers (execWsRefreshSlot die s) := by
  unfold execWsRefreshSlot
  split <;> exact answers_next h

theorem execWsRefreshBusyEnd_wf {die : Nat} {s : State} (h : Memory.wf s.sto = true) :
    Answers (execWsRefreshBusyEnd die s) := by
  unfold execWsRefreshBusyEnd
  split <;> exact answers_next h

theorem execWsFrameKindChange_wf {die : Nat} {s : State} (h : Memory.wf s.sto = true) :
    Answers (execWsFrameKindChange die s) := by
  unfold execWsFrameKindChange
  split
  · split <;> exact answers_next h
  · split <;> exact answers_next h

theorem execMatrixOpStart_wf {eng : Nat} {s : State} (h : Memory.wf s.sto = true) : Answers (execMatrixOpStart eng s) := by
  unfold execMatrixOpStart
  split
  exacts [answers_next (settleResv_wf (startMop_wf h)), answers_next h]

theorem execMatrixOpComplete_wf {eng : Nat} {s : State} (h : Memory.wf s.sto = true) :
    Answers (execMatrixOpComplete eng s) := by
  unfold execMatrixOpComplete
  split
  · split
    exacts [answers_next (settleResv_wf (completeMop_wf h)), answers_next h]
  · exact answers_next h

theorem execPairWindowClose_wf {grp k : Nat} {s : State} (h : Memory.wf s.sto = true) :
    Answers (execPairWindowClose grp k s) := by
  unfold execPairWindowClose
  dsimp only
  split
  · exact answers_next h
  · split
    · exact answers_next (soloIssue_wf h)
    · split
      exacts [answers_next (closeWindow_wf h), answers_next h]

theorem execEngineFence_wf {eng : Nat} {s : State} (h : Memory.wf s.sto = true) : Answers (execEngineFence eng s) := by
  unfold execEngineFence
  split
  · exact answers_next h
  · dsimp only
    split
    · exact answers_next (fenceCore_wf (fenceEngine_wf h))
    · exact answers_next (foldl_wf (fenceEngine_wf h) (fun _ _ h1 => containRecord_wf h1))

theorem execRickNodeArrival_wf {node : Nat} {s : State} (h : Memory.wf s.sto = true) :
    Answers (execRickNodeArrival node s) := by
  unfold execRickNodeArrival
  split
  · exact answers_next h
  · split
    · exact answers_next (arriveAt_wf h)
    · split
      exacts [answers_next (refuseNode_wf h), answers_next (arriveAt_wf h)]
    · exact answers_next (arriveAt_wf h)
    · exact answers_next (stillWaiting_wf (arriveAt_wf h))
    · split
      exacts [answers_next h, answers_next (arriveAt_wf h)]
    · exact answers_next h

theorem execTreeStampWrite_wf {elem : Nat} {s : State} (h : Memory.wf s.sto = true) :
    Answers (execTreeStampWrite elem s) := by
  unfold execTreeStampWrite
  split
  · exact answers_next h
  · split
    · exact answers_next h
    · split
      exacts [answers_next h, answers_next (writeStamp_wf h)]

theorem execCoreRickTimeout_wf {node : Nat} {s : State} (h : Memory.wf s.sto = true) :
    Answers (execCoreRickTimeout node s) := by
  unfold execCoreRickTimeout
  split
  · exact answers_next h
  · split
    · split <;> exact answers_next h
    · exact answers_next h

theorem execPortRickTimeout_wf {node : Nat} {s : State} (h : Memory.wf s.sto = true) :
    Answers (execPortRickTimeout node s) := by
  unfold execPortRickTimeout
  split
  · exact answers_next h
  · split
    · split
      exacts [answers_next (leavePort_wf h), answers_next h]
    · exact answers_next h

theorem execNodeWaitTimeout_wf {node : Nat} {s : State} (h : Memory.wf s.sto = true) :
    Answers (execNodeWaitTimeout node s) := by
  unfold execNodeWaitTimeout
  split
  · exact answers_next h
  · split
    · split
      exacts [answers_next (failElem_wf (settle_wf h)), answers_next h]
    · exact answers_next h

theorem execPushSend_wf {line : Nat} {s : State} (h : Memory.wf s.sto = true) : Answers (execPushSend line s) := by
  unfold execPushSend
  obtain ⟨readPhys, hreadPhys⟩ := exists_eq (a' := State.readPhys)
  rw [← hreadPhys]
  dsimp only
  split
  · split
    · exact answers_next h
    · exact answers_next (by
          split
          exacts [dropSub_wf (sendAll_wf h), dropSub_wf (sendAll_wf h), sendAll_wf h])
  · split
    · exact answers_next h
    · split
      exacts [answers_next (sendAll_wf h), answers_next (dropSub_wf (sendAll_wf h))]

theorem execPushLands_wf {push : Nat} {s : State} (h : Memory.wf s.sto = true) : Answers (execPushLands push s) := by
  unfold execPushLands
  split
  · exact answers_next h
  · split
    · exact answers_next h
    · split
      · exact answers_next h
      · dsimp only
        split
        · exact answers_next (landParked_wf h)
        · split
          exacts [answers_next (landSlot_wf h), answers_next h]
      · dsimp only
        split
        exacts [answers_next (endParked_wf h), answers_next (updSlot_wf h)]
      · exact answers_next h

theorem execSloadAnswer_wf {req : Nat} {s : State} (h : Memory.wf s.sto = true) : Answers (execSloadAnswer req s) := by
  unfold execSloadAnswer
  obtain ⟨readPhys, hreadPhys⟩ := exists_eq (a' := State.readPhys)
  rw [← hreadPhys]
  split
  · exact answers_next h
  · dsimp only
    split
    · split
      · exact answers_next h
      · split <;> exact answers_next h
    · split
      · exact answers_next h
      · split
        · exact answers_next (by
              split <;> exact answer_wf (dropRead_wf h))
        · exact answers_next (answer_wf (dropRead_wf h))
        · exact answers_next (answer_wf (dropRead_wf h))
        · exact answers_next (answer_wf (dropRead_wf h))
    · exact answers_next h

theorem execSloadFillLands_wf {req : Nat} {s : State} (h : Memory.wf s.sto = true) : Answers (execSloadFillLands req s) := by
  unfold execSloadFillLands
  split
  · exact answers_next h
  · split
    · exact answers_next h
    · split
      · exact answers_next (settlePush_wf (by
            split
            exacts [endParked_wf (landParked_wf h), updSlot_wf (landSlot_wf h)]))
      · exact answers_next (settlePush_wf (by
            split
            exacts [endParked_wf h, updSlot_wf h]))
      · exact answers_next h

theorem execUnsubAckLands_wf {req : Nat} {s : State} (h : Memory.wf s.sto = true) : Answers (execUnsubAckLands req s) := by
  unfold execUnsubAckLands
  split
  · exact answers_next h
  · split
    · dsimp only
      split
      · split
        · exact answers_next h
        · exact answers_next (updFly_wf (dropSub_wf (dropPush_wf (dropRead_wf h))))
        · exact answers_next (updFly_wf (dropSub_wf (dropPush_wf (dropRead_wf h))))
      · exact answers_next h
    · dsimp only
      split
      · exact answers_next (settlePush_wf (by
            split
            exacts [endParked_wf h, updSlot_wf h]))
      · exact answers_next h
    · exact answers_next h

theorem execSubscriptionGrantExpiry_wf {sub : Nat} {s : State} (h : Memory.wf s.sto = true) :
    Answers (execSubscriptionGrantExpiry sub s) := by
  unfold execSubscriptionGrantExpiry
  split
  · exact answers_next h
  · split
    exacts [answers_next (dropSub_wf (sendAll_wf h)), answers_next h]

theorem execPushUndeliverable_wf {dev : Nat} {s : State} (h : Memory.wf s.sto = true) :
    Answers (execPushUndeliverable dev s) :=
  answers_next (by
  split
  · exact foldl_wf (foldl_wf h (fun _ _ h1 => (by
        dsimp only
        split
        exacts [endParked_wf h1, updSlot_wf h1]))) (fun _ _ h1 => fq12_wf h1)
  · exact h)

theorem execQueueTailNotify_wf {ctx q : Nat} {s : State} (h : Memory.wf s.sto = true) :
    Answers (execQueueTailNotify ctx q s) := by
  unfold execQueueTailNotify
  split
  exacts [answers_next (readTail_wf h), answers_next h]

theorem execQueueTailPoll_wf {ctx q : Nat} {s : State} (h : Memory.wf s.sto = true) :
    Answers (execQueueTailPoll ctx q s) := by
  unfold execQueueTailPoll
  split
  exacts [answers_next (readTail_wf h), answers_next h]

theorem execLaunchRecordCopy_wf {ctx q : Nat} {s : State} (h : Memory.wf s.sto = true) :
    Answers (execLaunchRecordCopy ctx q s) := by
  unfold execLaunchRecordCopy
  extract_lets x s0
  have h0 : Memory.wf s0.sto = true := h
  clear_value s0
  split
  · split
    · exact answers_next (queueError_wf h0)
    · split
      · exact answers_next (queueError_wf h0)
      · next hw => exact answers_next (copied_wf (updQueue_wf (vwrite_wf h0 hw)))
  · exact answers_next h

theorem execTeamPlace_wf {launch : Nat} {s : State} (h : Memory.wf s.sto = true) : Answers (execTeamPlace launch s) := by
  unfold execTeamPlace
  dsimp only
  split
  · exact answers_next h
  · split
    · exact answers_next (placeTeam_wf h)
    · split
      · exact answers_next (refuseLaunch_wf h)
      · next hb => exact answers_next (placeTeam_wf (beginLaunch_wf (beginTrees_wf h _ hb)))

theorem execPlacementStarvation_wf {launch : Nat} {s : State} (h : Memory.wf s.sto = true) :
    Answers (execPlacementStarvation launch s) := by
  unfold execPlacementStarvation
  dsimp only
  split
  · split <;> exact answers_next h
  · exact answers_next h

theorem execPriorityPreempt_wf {launch cluster : Nat} {s : State} (h : Memory.wf s.sto = true) :
    Answers (execPriorityPreempt launch cluster s) := by
  unfold execPriorityPreempt
  dsimp only
  split
  exacts [answers_next (preemptOn_wf h), answers_next h]

theorem execTimeSliceExpiry_wf {ctx cluster : Nat} {s : State} (h : Memory.wf s.sto = true) :
    Answers (execTimeSliceExpiry ctx cluster s) := by
  unfold execTimeSliceExpiry
  dsimp only
  split
  exacts [answers_next (preemptOn_wf h), answers_next h]

theorem execPreemptionTrap_wf {t : Nat} {s : State} (h : Memory.wf s.sto = true) : Answers (execPreemptionTrap t s) := by
  unfold execPreemptionTrap
  split
  · split
    · exact answers_next (preemptUnit_wf h)
    · split
      exacts [answers_next (preemptFold_wf h), answers_next h]
  · exact answers_next h

theorem execParkTimeout_wf {team : Nat} {s : State} (h : Memory.wf s.sto = true) : Answers (execParkTimeout team s) := by
  unfold execParkTimeout
  dsimp only
  split
  exacts [answers_next (endLaunch_wf h), answers_next h]

theorem execLaunchComplete_wf {launch : Nat} {s : State} (h : Memory.wf s.sto = true) :
    Answers (execLaunchComplete launch s) := by
  unfold execLaunchComplete
  dsimp only
  split
  exacts [answers_next (stampLaunch_wf (closeTrees_wf h)), answers_next h]

theorem execRangePrefetch_wf {launch : Nat} {s : State} (h : Memory.wf s.sto = true) :
    Answers (execRangePrefetch launch s) := by
  unfold execRangePrefetch
  dsimp only
  split <;> exact answers_next h

theorem execDeadRangeDiscard_wf {launch : Nat} {s : State} (h : Memory.wf s.sto = true) :
    Answers (execDeadRangeDiscard launch s) := by
  unfold execDeadRangeDiscard
  dsimp only
  split <;> exact answers_next h

theorem execWeightStoreLoad_wf {launch : Nat} {s : State} (h : Memory.wf s.sto = true) :
    Answers (execWeightStoreLoad launch s) := by
  unfold execWeightStoreLoad
  dsimp only
  split
  · split
    exacts [answers_next h, answers_next (stampLaunch_wf (foldl_wf h (fun _ _ h1 => loadDie_wf h1)))]
  · exact answers_next h

theorem execControlQueueNotify_wf {s : State} (h : Memory.wf s.sto = true) : Answers (execControlQueueNotify s) := by
  unfold execControlQueueNotify
  split
  · exact answers_next h
  · extract_lets v e
    have he : CmdWf e := by
      unfold e
      split
      · exact cmdWf_refused
      · exact command_wf h
    clear_value e
    split
    · exact answers_next (stampCommand_wf (he _ (.inl rfl)))
    · exact answers_next (stampCommand_wf h)
    · exact answers_next (he _ (.inr rfl))

theorem execRegisterWrite_wf {off : Nat} {x : BitVec 64} {s : State} (h : Memory.wf s.sto = true) :
    Answers (execRegisterWrite off x s) := by
  unfold execRegisterWrite
  dsimp only
  split
  · split
    · exact answers_next h
    · split
      exacts [answers_next (writeMsix_wf h), answers_next h]
  · split
    · exact answers_next h
    · split
      exacts [answers_next (writeMsix_wf h), answers_next h]

theorem execFctlCommit_wf {s : State} (h : Memory.wf s.sto = true) : Answers (execFctlCommit s) := by
  unfold execFctlCommit
  dsimp only
  split
  · exact answers_next h
  · split
    exacts [answers_next (sendMsi_wf h), answers_next h]

theorem execPodnumWrite_wf {x : BitVec 64} {s : State} (h : Memory.wf s.sto = true) : Answers (execPodnumWrite x s) := by
  unfold execPodnumWrite
  split <;> exact answers_next h

theorem execRcvctlStart_wf {s : State} (h : Memory.wf s.sto = true) : Answers (execRcvctlStart s) := by
  unfold execRcvctlStart
  split <;> exact answers_next h

theorem execRcvdataWrite_wf {x : BitVec 64} {s : State} (h : Memory.wf s.sto = true) : Answers (execRcvdataWrite x s) := by
  unfold execRcvdataWrite
  dsimp only
  split <;> exact answers_next h

theorem execRcvctlDone_wf {s : State} (h : Memory.wf s.sto = true) : Answers (execRcvctlDone s) := by
  unfold execRcvctlDone
  split <;> exact answers_next h

theorem execFirmwareVerifyDone_wf {s : State} (h : Memory.wf s.sto = true) : Answers (execFirmwareVerifyDone s) := by
  unfold execFirmwareVerifyDone
  split <;> exact answers_next h

theorem execHostWrite_wf {addr : Nat} {bytes : List Byte} {s : State} (h : Memory.wf s.sto = true) :
    Answers (execHostWrite addr bytes s) := by
  unfold execHostWrite
  dsimp only
  split
  exacts [answers_next (writePhys_wf h _ _), answers_next h]

theorem execHostRead_wf {addr len : Nat} {s : State} (h : Memory.wf s.sto = true) :
    Answers (execHostRead addr len s) := by
  unfold execHostRead
  dsimp only
  split
  · exact answers_next h
  · split <;> exact answers_next h

theorem execFabricLinkUp_wf {s : State} (h : Memory.wf s.sto = true) : Answers (execFabricLinkUp s) := by
  unfold execFabricLinkUp
  split
  · exact answers_next (by
        split
        exacts [h, sendMsi_wf h])
  · exact answers_next h

theorem execRotorDwell_wf {s : State} (h : Memory.wf s.sto = true) : Answers (execRotorDwell s) := by
  unfold execRotorDwell
  dsimp only
  split <;> exact answers_next h

theorem execRemoteRequestIngress_wf {req : RemoteReq} {s : State} (h : Memory.wf s.sto = true) :
    Answers (execRemoteRequestIngress req s) := by
  unfold execRemoteRequestIngress
  split
  · exact answers_next h
  · split
    · exact answers_next (serve_wf h)
    · split
      · exact answers_next h
      · dsimp only
        split
        · exact answers_next h
        · split
          exacts [answers_next h, answers_next (serve_wf (afresh_wf h))]

theorem execRemoteAckArrival_wf {ack : RemoteAck} {s : State} (h : Memory.wf s.sto = true) :
    Answers (execRemoteAckArrival ack s) := by
  unfold execRemoteAckArrival
  split
  · exact answers_next h
  · split
    · exact answers_next h
    · dsimp only
      split <;> exact answers_next (endRequest_wf h)

theorem execRemoteRetransmit_wf {req : Nat} {s : State} (h : Memory.wf s.sto = true) :
    Answers (execRemoteRetransmit req s) := by
  unfold execRemoteRetransmit
  split
  · split <;> exact answers_next h
  · exact answers_next h

theorem execRemoteGiveUp_wf {req : Nat} {s : State} (h : Memory.wf s.sto = true) : Answers (execRemoteGiveUp req s) := by
  unfold execRemoteGiveUp
  split
  · split
    exacts [answers_next (endRequest_wf h), answers_next h]
  · exact answers_next h

theorem execRelayStage_wf {flit : Flit} {s : State} (h : Memory.wf s.sto = true) : Answers (execRelayStage flit s) := by
  unfold execRelayStage
  split
  · split <;> exact answers_next h
  · exact answers_next h

theorem execRelayDiscard_wf {flit : Nat} {s : State} (h : Memory.wf s.sto = true) : Answers (execRelayDiscard flit s) := by
  unfold execRelayDiscard
  split
  · split <;> exact answers_next h
  · exact answers_next h

theorem execFlitCrcRetry_wf {fibre : Nat} {s : State} (h : Memory.wf s.sto = true) : Answers (execFlitCrcRetry fibre s) := by
  unfold execFlitCrcRetry
  split <;> exact answers_next h

theorem execWavelengthReplace_wf {fibre wave : Nat} {s : State} (h : Memory.wf s.sto = true) :
    Answers (execWavelengthReplace fibre wave s) := by
  unfold execWavelengthReplace
  split
  · exact answers_next (by
        split <;> exact h)
  · exact answers_next h

theorem execCoreFence_wf {core : Nat} {s : State} (h : Memory.wf s.sto = true) : Answers (execCoreFence core s) := by
  unfold execCoreFence
  split
  exacts [answers_next h, answers_next (fenceCore_wf h)]

theorem execSliceFence_wf {slice : Nat} {s : State} (h : Memory.wf s.sto = true) : Answers (execSliceFence slice s) := by
  unfold execSliceFence
  split
  · exact answers_next h
  · split
    · exact answers_next h
    · exact answers_next (wantRepair_wf
        (foldl_wf (takeOver_wf (dropSub_wf (sendAll_wf (foldl_wf h (fun _ _ h1 => failElem_wf h1)))))
        (fun _ _ h1 => loseLine_wf h1)))

theorem execChannelRetireMark_wf {chan : Nat} {s : State} (h : Memory.wf s.sto = true) :
    Answers (execChannelRetireMark chan s) := by
  unfold execChannelRetireMark
  split
  · exact answers_next h
  · exact answers_next (by
        split
        exacts [h, wantRepair_wf h])

theorem execRepairPoint_wf {s : State} (h : Memory.wf s.sto = true) : Answers (execRepairPoint s) := by
  unfold execRepairPoint
  split
  · split
    exacts [answers_next h, answers_next (finishRepair_wf h)]
  · split <;> exact answers_next h

theorem execRepairPreempt_wf {s : State} (h : Memory.wf s.sto = true) : Answers (execRepairPreempt s) := by
  unfold execRepairPreempt
  split
  · exact answers_next h
  · split
    · split
      · exact answers_next (foldl_wf h (fun _ _ h1 => preemptTeam_wf h1))
      · exact answers_next (foldl_wf h (fun _ _ h1 => contain_wf h1))
    · exact answers_next h

theorem execThermalTrip_wf {s : State} (h : Memory.wf s.sto = true) : Answers (execThermalTrip s) := by
  unfold execThermalTrip
  extract_lets ls s1 s2
  have h1 : Memory.wf s1.sto = true := foldl_wf h fun _ _ h0 => stampLaunch_wf (closeTrees_wf (endLaunch_wf h0))
  have h2 : Memory.wf s2.sto = true := updFw_wf (updBar0_wf h1)
  clear_value s1 s2
  exact answers_next (sendMsi_wf h2)

theorem execClockRestore_wf {s : State} (h : Memory.wf s.sto = true) : Answers (execClockRestore s) := by
  unfold execClockRestore
  split <;> exact answers_next h

theorem execHealthBlockUpdate_wf {s : State} (h : Memory.wf s.sto = true) : Answers (execHealthBlockUpdate s) := by
  unfold execHealthBlockUpdate
  split
  · extract_lets s1
    have h1 : Memory.wf s1.sto = true := updHealth_wf h
    clear_value s1
    exact answers_next (writePhys_wf (writePhys_wf h1 _ _) _ _)
  · exact answers_next h

theorem execPowerBlockUpdate_wf {s : State} (h : Memory.wf s.sto = true) : Answers (execPowerBlockUpdate s) := by
  unfold execPowerBlockUpdate
  split
  · extract_lets s1
    have h1 : Memory.wf s1.sto = true := updHealth_wf h
    clear_value s1
    exact answers_next (writePhys_wf (writePhys_wf h1 _ _) _ _)
  · exact answers_next h

theorem execEnergyTick_wf {s : State} (h : Memory.wf s.sto = true) : Answers (execEnergyTick s) := by
  unfold execEnergyTick
  split <;> exact answers_next h

theorem execTraceWrittenFlush_wf {ctx : Nat} {s : State} (h : Memory.wf s.sto = true) :
    Answers (execTraceWrittenFlush ctx s) := by
  unfold execTraceWrittenFlush
  split
  · split
    exacts [answers_next (setDebug_wf (writePhys_wf h _ _)), answers_next h]
  · exact answers_next h

theorem execUnitStop_wf {u : Nat} {s : State} (h : Memory.wf s.sto = true) : Answers (execUnitStop u s) := by
  unfold execUnitStop
  dsimp only
  split
  · split
    exacts [answers_next (stopNow_wf h), answers_next h]
  · exact answers_next h

theorem exec_wf {i : Instr} {s : State} (h : Memory.wf s.sto = true) : Answers (exec i s) := by
  cases i with
  | mov | movi | add | sub | mul | mulhI32 | mulhN32 | minI32 | minN32 | maxI32 | maxN32 | abs | neg | and | or | xor
  | andn | not | shl | shr | sar | rol | popc | clz | ctz | brev | bfxI32 | bfxN32 | addi | andi | ori | xori | shli
  | shri | sari => exact run_wf h int2_wf
  | sel => exact execSel_wf h
  | mad | bfi | perm => exact run_wf h int3_wf
  | madwI32 | madwN32 | fclass | cvt | cvtiF2i | cvtiI2f | pack | unpk | qzpRec | qzpQ | scalex | osmn =>
    exact run_wf h arith_wf
  | lea | add64 | sub64 | shl64 => exact run_wf h int64x_wf
  | icmp | fcmp => exact run_wf h cmpWork_wf
  | pand | por | pxor | pnot => exact run_wf h predWork_wf
  | p2v => exact execP2v_wf h
  | v2p => exact execV2p_wf h
  | shfl => exact execShfl_wf h
  | vote => exact execVote_wf h
  | ballot => exact execBallot_wf h
  | lmatch => exact execLmatch_wf h
  | lred => exact execLred_wf h
  | fadd | fsub | fmul | ffma | ffms | fmin | fmax | hadd2F16 | hadd2Bf16 | hmul2F16 | hmul2Bf16 | hfma2F16
  | hfma2Bf16 | dq | amax | scacc => exact run_wf h flt_wf
  | dadd | dmul | dfma => exact run_wf h flt64_wf
  | split6 | join6 => exact run_wf h rearrange_wf
  | frcp | frsq | fsqrt | fexp2 | flog2 | fsin | fcos | ftanh => exact run_wf h specialWork_wf
  | osmx => exact execOsmx_wf h
  | ld => exact execLd_wf h
  | st => exact execSt_wf h
  | lds => exact execLds_wf h
  | sts => exact execSts_wf h
  | ldw => exact execLdw_wf h
  | gld => exact execGld_wf h
  | gst => exact execGst_wf h
  | atom | cas => exact run_wf h atomicWork_wf
  | contrib => exact execContrib_wf h
  | tstat => exact execTstat_wf h
  | sload => exact execSload_wf h
  | spoll => exact execSpoll_wf h
  | unsub => exact execUnsub_wf h
  | pref => exact execPref_wf h
  | fence => exact execFence_wf h
  | mrsv => exact execMrsv_wf h
  | mrel => exact execMrel_wf h
  | minit => exact execMinit_wf h
  | mma => exact execMma_wf h
  | mmas => exact execMmas_wf h
  | gmma => exact execGmma_wf h
  | mguide => exact execMguide_wf h
  | mfin => exact execMfin_wf h
  | mdrainReg => exact execMdrainReg_wf h
  | mdrainSpad => exact execMdrainSpad_wf h
  | mdrainTree => exact execMdrainTree_wf h
  | mstore => exact execMstore_wf h
  | mstatAcc => exact execMstatAcc_wf h
  | mstatEng => exact execMstatEng_wf (_k := 0) h
  | wbind => exact execWbind_wf h
  | wunb => exact execWunb_wf h
  | touch => exact execTouch_wf h
  | wstat => exact execWstat_wf h
  | wflush => exact execWflush_wf h
  | reform => exact execReform_wf h
  | yield => exact execYield_wf h
  | elect => exact execElect_wf h
  | arrive | arriveCount => exact run_wf h arriveWork_wf
  | arriveExpect => exact execArriveExpect_wf h
  | bwait => exact execBwait_wf h
  | bsync => exact execBsync_wf h
  | kdecl => exact execKdecl_wf h
  | sign => exact execSign_wf h
  | waitc => exact execWaitc_wf h
  | mwait => exact execMwait_wf h
  | bra | brx => exact transfer_wf h
  | call | callx => exact callTo_wf h
  | ret => exact execRet_wf h
  | exit => exact execExit_wf h
  | trap => exact execTrap_wf h
  | enter => exact execEnter_wf h
  | leave => exact execLeave_wf h
  | bkpt => exact execBkpt_wf h
  | nop => exact run_wf h ({ })
  | srd => exact execSrd_wf h
  | swr => exact execSwr_wf h
  | eret => exact execEret_wf h
  | svrf => exact execSvrf_wf h
  | ldrf => exact execLdrf_wf h
  | svwinWin => exact execSvwinWin_wf h
  | svwinSlot => exact execSvwinSlot_wf (_e := 0) h
  | ldwinWin => exact execLdwinWin_wf h
  | ldwinSlot => exact execLdwinSlot_wf (e := 0) h
  | tlbi => exact execTlbi_wf h
  | grant => exact execGrant_wf h
  | haltThread => exact execHaltThread_wf h
  | haltGroup => exact execHaltGroup_wf h
  | haltKernel => exact execHaltKernel_wf h
  | haltPark => exact execHaltPark_wf h
  | mark => exact execMark_wf h
  | rep => exact execRep_wf h
  | scope => exact execScope_wf h
  | clauseIssue => exact execClauseIssue_wf h
  | foldAgeLimit => exact execFoldAgeLimit_wf h
  | foldForm => exact execFoldForm_wf h
  | unitExpired => exact execUnitExpired_wf h
  | bwaitRelease => exact execBwaitRelease_wf h
  | mwaitWake => exact execMwaitWake_wf h
  | loadValueLands => exact execLoadValueLands_wf h
  | storePerformed => exact execStorePerformed_wf h
  | countedOpComplete => exact execCountedOpComplete_wf h
  | persistentRequest => exact execPersistentRequest_wf h
  | fillEntersQueue => exact execFillEntersQueue_wf h
  | fillBeatLands => exact execFillBeatLands_wf h
  | fillStampWrite => exact execFillStampWrite_wf h
  | flushBegin => exact execFlushBegin_wf h
  | flushComplete => exact execFlushComplete_wf h
  | wsRefreshSlot => exact execWsRefreshSlot_wf h
  | wsRefreshBusyEnd => exact execWsRefreshBusyEnd_wf h
  | wsEmergencyRefresh | cqctlWrite | gkgenAdvance | ingressBlockEnd | clockThrottle => exact answers_next h
  | wsFrameKindChange => exact execWsFrameKindChange_wf h
  | matrixOpStart => exact execMatrixOpStart_wf h
  | matrixOpComplete => exact execMatrixOpComplete_wf h
  | pairWindowClose => exact execPairWindowClose_wf h
  | engineFence => exact execEngineFence_wf h
  | rickNodeArrival => exact execRickNodeArrival_wf h
  | treeStampWrite => exact execTreeStampWrite_wf h
  | coreRickTimeout => exact execCoreRickTimeout_wf h
  | portRickTimeout => exact execPortRickTimeout_wf h
  | nodeWaitTimeout => exact execNodeWaitTimeout_wf h
  | pushSend => exact execPushSend_wf h
  | pushLands => exact execPushLands_wf h
  | sloadAnswer => exact execSloadAnswer_wf h
  | sloadFillLands => exact execSloadFillLands_wf h
  | unsubAckLands => exact execUnsubAckLands_wf h
  | subscriptionGrantExpiry => exact execSubscriptionGrantExpiry_wf h
  | pushUndeliverable => exact execPushUndeliverable_wf h
  | queueTailNotify => exact execQueueTailNotify_wf h
  | queueTailPoll => exact execQueueTailPoll_wf h
  | launchRecordCopy => exact execLaunchRecordCopy_wf h
  | teamPlace => exact execTeamPlace_wf h
  | placementStarvation => exact execPlacementStarvation_wf h
  | priorityPreempt => exact execPriorityPreempt_wf h
  | timeSliceExpiry => exact execTimeSliceExpiry_wf h
  | preemptionTrap => exact execPreemptionTrap_wf h
  | parkTimeout => exact execParkTimeout_wf h
  | launchComplete => exact execLaunchComplete_wf h
  | rangePrefetch => exact execRangePrefetch_wf h
  | deadRangeDiscard => exact execDeadRangeDiscard_wf h
  | weightStoreLoad => exact execWeightStoreLoad_wf h
  | controlQueueNotify => exact execControlQueueNotify_wf h
  | create => exact answers_next (after_wf h (cmdCreate_wf h))
  | destroy => exact answers_next (after_wf h (cmdDestroy_wf h))
  | qenable => exact answers_next (after_wf h (cmdQenable_wf h))
  | qdisable => exact answers_next (after_wf h (cmdQdisable_wf h))
  | tlbiCommand => exact answers_next (after_wf h (cmdTlbi_wf h))
  | suspend => exact answers_next (after_wf h (cmdSuspend_wf h))
  | resume => exact answers_next (after_wf h (cmdResume_wf h))
  | endlaunch => exact answers_next (after_wf h (cmdEndlaunch_wf h))
  | setsave => exact answers_next (after_wf h (cmdSetsave_wf h))
  | debugCmd => exact answers_next (after_wf h (cmdDebug_wf h))
  | stop => exact answers_next (after_wf h (cmdStop_wf h))
  | cont => exact answers_next (after_wf h (cmdCont_wf h))
  | dump => exact answers_next (after_wf h (cmdDump_wf h))
  | dumpend => exact answers_next (after_wf h (cmdDumpend_wf h))
  | ezero => exact answers_next (after_wf h (cmdEzero_wf h))
  | attest => exact answers_next (after_wf h (cmdAttest_wf h))
  | plimit => exact answers_next (after_wf h (cmdPlimit_wf h))
  | registerWrite => exact execRegisterWrite_wf h
  | fctlCommit => exact execFctlCommit_wf h
  | podnumWrite => exact execPodnumWrite_wf h
  | rcvctlStart => exact execRcvctlStart_wf h
  | rcvdataWrite => exact execRcvdataWrite_wf h
  | rcvctlDone => exact execRcvctlDone_wf h
  | firmwareVerifyDone => exact execFirmwareVerifyDone_wf h
  | hostWrite => exact execHostWrite_wf h
  | hostRead => exact execHostRead_wf h
  | fabricLinkUp => exact execFabricLinkUp_wf h
  | rotorDwell => exact execRotorDwell_wf h
  | remoteRequestIngress => exact execRemoteRequestIngress_wf h
  | remoteAckArrival => exact execRemoteAckArrival_wf h
  | remoteRetransmit => exact execRemoteRetransmit_wf h
  | remoteGiveUp => exact execRemoteGiveUp_wf h
  | relayStage => exact execRelayStage_wf h
  | relayDiscard => exact execRelayDiscard_wf h
  | flitCrcRetry => exact execFlitCrcRetry_wf h
  | wavelengthReplace => exact execWavelengthReplace_wf h
  | coreFence => exact execCoreFence_wf h
  | sliceFence => exact execSliceFence_wf h
  | channelRetireMark => exact execChannelRetireMark_wf h
  | repairPoint => exact execRepairPoint_wf h
  | repairPreempt => exact execRepairPreempt_wf h
  | deviceReset | powerLoss => exact answers_next (boot_wf h)
  | thermalTrip => exact execThermalTrip_wf h
  | clockRestore => exact execClockRestore_wf h
  | healthBlockUpdate => exact execHealthBlockUpdate_wf h
  | powerBlockUpdate => exact execPowerBlockUpdate_wf h
  | energyTick => exact execEnergyTick_wf h
  | traceWrittenFlush => exact execTraceWrittenFlush_wf h
  | unitStop => exact execUnitStop_wf h

end Sys2Proof.Proofs
end

section
/-! PROOFS. A step keeps the memories in canonical form (O57). -/

namespace Sys2Proof.Proofs

open Sys2Proof.Machine Sys2Proof.Safety Sys2Proof.Laws

set_option Elab.async false

/-- What a step is to perform starts from canonical memories. -/
def PlanWf (p : Plan) : Prop :=
  match p with
  | .run s _ => Memory.wf s.sto = true
  | .rest s => Memory.wf s.sto = true
  | .wrong => True

theorem wordPlan_wf {s : State} {u : Nat} (h : Memory.wf s.sto = true) : PlanWf (s.wordPlan u) := by
  unfold State.wordPlan
  extract_lets s1 path s2
  have h2 : Memory.wf s2.sto = true := ite_wf (issueClause_wf (s := s1) h) h
  have h1 : Memory.wf s1.sto = true := h
  clear_value s1 s2
  split
  · exact h1
  · split
    · split
      · exact h2
      · exact illegalWord_wf h2
    · exact h2

theorem issuePlan_wf {s : State} (h : Memory.wf s.sto = true) (p : Plan) (hp : s.issuePlan = some p) : PlanWf p := by
  obtain ⟨u, -, rfl⟩ := Option.map_eq_some_iff.mp hp
  exact wordPlan_wf h

theorem ownPlan_wf {s : State} (h : Memory.wf s.sto = true) : PlanWf s.ownPlan := by
  unfold State.ownPlan
  split
  · next hp => exact issuePlan_wf h _ hp
  · split
    · exact h
    · exact nextClk_wf h

theorem itemPlan_wf {s : State} {x : Item} {r : List Item} (h : Memory.wf s.sto = true) : PlanWf (s.itemPlan x r) := by
  unfold State.itemPlan
  split
  · split
    · next hp => exact issuePlan_wf h _ hp
    · split
      · exact h
      · exact nextClk_wf h
  · extract_lets s1
    have h1 : Memory.wf s1.sto = true := h
    clear_value s1
    split
    · split
      · trivial
      · exact unblocked_wf h1
    · exact spoil_wf h1
    · split
      · exact h1
      · split
        · have hw := wordPlan_wf (u := by assumption) h1
          split
          · next hp => rw [hp] at hw; exact hw
          · exact hw
        · exact h1

/-- The plan's definition is opened at the function itself, with what decides it left closed: the kernel would run the
  machine's
clocked events to compare the two. -/
theorem plan_wf {s : State} (h : Memory.wf s.sto = true) : PlanWf s.plan := by
  obtain ⟨plan, hp⟩ := exists_eq (a' := State.plan)
  obtain ⟨due, hd⟩ := exists_eq (a' := State.due)
  obtain ⟨bump, hb⟩ := exists_eq (a' := State.bump)
  have h1 : Memory.wf (bump s).sto = true := hb ▸ bump_wf h
  rw [← hp]
  delta State.plan at hp
  rw [← hd, ← hb] at hp
  rw [hp]
  dsimp only
  split
  · exact h1
  · split
    · exact ownPlan_wf h1
    · exact itemPlan_wf h1

theorem settleOut_wf {o : Out} (h : Answers o) : Answers (settle o) := by
  unfold settle
  split
  · exact answers_next (settled_wf (h _ rfl))
  · exact answers_fault
  · exact fun _ ht => nomatch ht

theorem step_wf {s : State} (h : Memory.wf s.sto = true) : Answers (step s) := by
  obtain ⟨step', hs⟩ := exists_eq (a' := step)
  obtain ⟨plan, hp⟩ := exists_eq (a' := State.plan)
  have h1 : PlanWf (plan s) := hp ▸ plan_wf h
  rw [← hs]
  delta step at hs
  rw [← hp] at hs
  rw [hs]
  dsimp only
  cases hq : plan s <;> rw [hq] at h1
  · exact settleOut_wf (exec_wf h1)
  · exact answers_next h1
  · exact answers_fault

/-- Settles O57: every function that makes a state keeps the memories in canonical form, and so does exec on every
  instruction. -/
theorem stepKeepsMemoryCanonical : Obligations.StepKeepsMemoryCanonical :=
  fun _ t h ht => step_wf h t ht

end Sys2Proof.Proofs
end

section
/-! PROOFS. FCMP and FCLASS (R128, R129). -/

namespace Sys2Proof.Proofs

open Sys2Proof.Machine Sys2Proof.Safety Sys2Proof.Laws

/-- A zero-extended word's number is the word's. -/
@[simp] theorem toNat_setWidth_64 (x : Word) : (x.setWidth 64).toNat = x.toNat := by
  rw [BitVec.toNat_setWidth]
  omega

section

variable (d a b : Opnd) (g q : Nat) (c : FCond) (f : Fmt) (s : State)

theorem exec_fcmp : exec (.fcmp q c a b g) s = s.run (cmpWork 2 g q a (if FCond.wide c then 2 else 1) b
    (if FCond.wide c then 2 else 1) (fcmpW c)) := rfl

theorem exec_fclass : exec (.fclass d a f g) s = s.run (arith 2 g d 1 false a (Fmt.regs f) .zero 1 fun _ x _ _ =>
    ((classF (Fmt.float f) (x.toNat % 2 ^ (Fmt.float f).width)).setWidth 64, 0)) := rfl

end

/-- FCMP on FP32 registers. -/
theorem fcmp_narrow {s : State} {a b : Opnd} {g q : Nat} {c : FCond} (hc : FCond.wide c = false)
    (h : Issues s g [srcUse a 1 0, srcUse b 1 0]) :
    exec (.fcmp q c a b g) s = decides s g 2 q fun p =>
      FCond.holds c (decodeF fp32 (flushIn (s.modeOf p.2) 2) (val32 s p a 0).toNat)
        (decodeF fp32 (flushIn (s.modeOf p.2) 2) (val32 s p b 0).toNat) := by
  simp only [exec_fcmp, hc, Bool.false_eq_true, if_false]
  rw [cmp_decides h]
  simp only [fcmpW, hc, Bool.false_eq_true, if_false, val_one, toNat_setWidth_mod]

/-- FCMP on FP64 pairs. -/
theorem fcmp_wide {s : State} {a b : Opnd} {g q : Nat} {c : FCond} (hc : FCond.wide c = true)
    (h : Issues s g [srcUse a 2 0, srcUse b 2 0]) :
    exec (.fcmp q c a b g) s = decides s g 2 q fun p =>
      FCond.holds c (decodeF fp64 (flushIn (s.modeOf p.2) 3) (val64 s p a 0).toNat)
        (decodeF fp64 (flushIn (s.modeOf p.2) 3) (val64 s p b 0).toNat) := by
  simp only [exec_fcmp, hc, if_true]
  rw [cmp_decides h]
  simp only [fcmpW, hc, if_true, val_two]

/-- FCLASS gives the class of its source's code. -/
theorem fclass_gives {s : State} {d a : Opnd} {g : Nat} {f : Fmt} (h : Issues s g [dstUse d 1 false, srcUse a (Fmt.regs f) 2]) :
    exec (.fclass d a f g) s = gives s g 2 1 d fun p =>
      [classF (Fmt.float f) ((s.val p a (Fmt.regs f) 2).toNat % 2 ^ (Fmt.float f).width)] := by
  rw [exec_fclass, arith_gives (Issues_snoc zero_fixed h) fun _ _ _ _ => rfl]
  simp only [wordsOf_one]

/-- Settles O7: FCMP is a comparison by `FCond.holds`, and FCLASS reads the code as it stands. -/
theorem floatComparesAndClasses : Obligations.FloatComparesAndClasses := by
  unfold Obligations.FloatComparesAndClasses
  refine fun s d a b g q => ⟨fun h => ⟨fcmp_narrow rfl h, fcmp_narrow rfl h, fcmp_narrow rfl h, fcmp_narrow rfl h⟩,
    fun h => ⟨fcmp_wide rfl h, fcmp_wide rfl h, fcmp_wide rfl h, fcmp_wide rfl h⟩, fun f hf h => ?_, fun h => ?_⟩
  · have hr : Fmt.regs f = 1 := by rcases hf with rfl | rfl | rfl | rfl | rfl | rfl | rfl | rfl <;> rfl
    rw [fclass_gives (by rwa [hr])]
    simp only [hr, val_one, toNat_setWidth_64]
  · rw [fclass_gives h]
    congr 1
    funext p
    exact congrArg (fun n => [classF fp64 n]) (Nat.mod_eq_of_lt (val64 s p a 2).isLt)

end Sys2Proof.Proofs
end

section
/-! PROOFS. Conversions, packed elements, quantisation and scaling (R130 to R139). -/

namespace Sys2Proof.Proofs

open Sys2Proof.Machine Sys2Proof.Safety Sys2Proof.Laws

/-- An arithmetic word with its sticky bits. -/
theorem arith_givesSticky {s : State} {cost g dn an bn : Nat} {d a b : Opnd} {rd : Bool}
    {f : Word → Dword → Dword → Dword → Dword × Word} (h : Issues s g [dstUse d dn rd, srcUse a an 2, srcUse b bn 1]) :
    s.run (arith cost g d dn rd a an b bn f) = givesSticky s g cost dn d fun p =>
      let r := f (s.modeOf p.2) (s.val p a an 2) (s.val p b bn 1) (if rd then s.val p d dn 4 else 0)
      (wordsOf dn r.1, r.2) :=
  arith_issues h

/-- A one-register result, from an integer of 64 bits. -/
theorem wordsOf_one_ofInt (n : Int) : wordsOf 1 (BitVec.ofInt 64 n) = [BitVec.ofInt 32 n] := by
  have hlo : lo32 (BitVec.ofInt 64 n) = BitVec.ofInt 32 n := by
    apply BitVec.eq_of_toNat_eq
    simp only [lo32, BitVec.toNat_setWidth, BitVec.toNat_ofInt]
    omega
  simp [wordsOf, hlo]

/-- An integer's residue as a word. -/
theorem ofNat_emod_32 (n : Int) : BitVec.ofNat 32 (n % 2 ^ 32).toNat = BitVec.ofInt 32 n := by
  apply BitVec.eq_of_toNat_eq
  simp only [BitVec.toNat_ofNat, BitVec.toNat_ofInt]
  omega

/-- A CVTI format is read as a floating-point code. -/
theorem readF_fmt (f : FFmt) (m : Word) (x : Nat) : readF (FFmt.fmt f) m x =
    decodeF (Fmt.float (FFmt.fmt f)) (flushIn m (Fmt.cls (FFmt.fmt f))) (x % 2 ^ (Fmt.float (FFmt.fmt f)).width) := by
  cases f <;> rfl

/-- UNPK's register, by the kind of its format. -/
theorem ofNat_unpkW (f : Fmt) (k : Nat) (m : Word) (x : Nat) : BitVec.ofNat 32 (unpkW f k m x) =
    match Fmt.int f with
    | some sg => BitVec.ofInt 32 (readInt sg (Fmt.slot f) (bits x (Fmt.slot f * k) (Fmt.slot f)))
    | none => BitVec.ofNat 32 (encodeF fp32 .rn false (flushOut m 2) (readF f m (bits x (Fmt.slot f * k) (Fmt.slot f)))) := by
  unfold unpkW
  cases Fmt.int f with
  | none => rfl
  | some sg => exact ofNat_emod_32 _

section

variable (d a b : Opnd) (g k : Nat) (i : QTy) (n : IntTy) (f df sf : Fmt) (h : FFmt) (r : Rnd) (sat f16 : Bool) (s : State)

theorem exec_cvt : exec (.cvt d a df sf r sat) s = s.run (arith 2 0 d (Fmt.regs df) false a (Fmt.regs sf) .zero 1
    fun m x _ _ => (BitVec.ofNat 64 (cvtW df sf r sat m x.toNat).1, (cvtW df sf r sat m x.toNat).2)) := rfl

theorem exec_cvtiF2i : exec (.cvtiF2i d a h n r) s = s.run (arith 2 0 d (if IntTy.width n = 64 then 2 else 1) false a
    (Fmt.regs (FFmt.fmt h)) .zero 1 fun m x _ _ => (BitVec.ofInt 64 (f2iW h n r m x.toNat).1, (f2iW h n r m x.toNat).2)) := rfl

theorem exec_cvtiI2f : exec (.cvtiI2f d a h n r) s = s.run (arith 2 0 d (Fmt.regs (FFmt.fmt h)) false a
    (if IntTy.width n = 64 then 2 else 1) .zero 1 fun m x _ _ =>
      (BitVec.ofNat 64 (encodeF (Fmt.float (FFmt.fmt h)) r false (flushOut m (Fmt.cls (FFmt.fmt h)))
        (intVal (readInt (IntTy.signed n) (IntTy.width n) x.toNat))), 0)) := rfl

theorem exec_pack : exec (.pack d a f k r sat) s = s.run (arith 2 0 d 1 true a 1 .zero 1 fun m x _ z =>
    (BitVec.ofNat 64 (insertAt (z.toNat % 2 ^ 32) (Fmt.slot f) k (packW f r sat m x.toNat).1), (packW f r sat m x.toNat).2)) :=
  rfl

theorem exec_unpk : exec (.unpk d a f k) s = s.run (arith 2 0 d 1 false a 1 .zero 1 fun m x _ _ =>
    (BitVec.ofNat 64 (unpkW f k m (x.toNat % 2 ^ 32)), 0)) := rfl

theorem exec_qzpRec : exec (.qzpRec d a b i) s = s.run (arith 2 0 d 1 false a 1 b 1 fun m x y _ =>
    let r := qzpRecW i m (x.toNat % 2 ^ 32) (y.toNat % 2 ^ 32)
    (BitVec.ofNat 64 r.1, r.2)) := rfl

theorem exec_qzpQ : exec (.qzpQ d a b i) s = s.run (arith 2 0 d 1 false a 1 b 1 fun m x y _ =>
    let r := qzpQW i m (x.toNat % 2 ^ 32) (y.toNat % 2 ^ 32)
    (BitVec.ofInt 64 r.1, r.2)) := rfl

theorem exec_dq : exec (.dq d a b i) s = s.run (flt 0 d false a b fun m x y _ => dqW i m x y) := rfl

theorem exec_scalex : exec (.scalex d a f g) s = s.run (arith 2 g d 1 false a 1 .zero 1 fun m x _ _ =>
    let r := scaleExp f (readF .f32 m (x.toNat % 2 ^ 32))
    (BitVec.ofNat 64 r.1, if r.2 then stickySU else 0)) := rfl

theorem exec_scacc : exec (.scacc d a b f16) s = s.run (flt 0 d true a b (scaccW f16)) := rfl

theorem exec_split6 : exec (.split6 d a g) s = s.run (rearrange g d a split6W) := rfl

theorem exec_join6 : exec (.join6 d a g) s = s.run (rearrange g d a join6W) := rfl

end

/-- A rearrangement of three registers gives the three words of its number. -/
theorem rearrange_writes {s : State} {g : Nat} {d a : Opnd} {f : Nat → Nat}
    (h : Issues s g [{ o := d, n := 3, wr := true, vOnly := true }, { o := a, n := 3, rd := true, vOnly := true }]) :
    s.run (rearrange g d a f) = writes s g 2 d fun p =>
      (List.range 3).map fun k => BitVec.ofNat 32 (f (s.val96 p a) / 2 ^ (32 * k)) := by
  rw [rearrange, run_plain h (by simpa using h.lanes)]
  simp [writes, List.range_succ]

/-- CVTI.f2i's registers and sticky bits, by the value that its source codes. -/
theorem cvtiF2i_gives {s : State} {d a : Opnd} {f : FFmt} {i : IntTy} {r : Rnd}
    (h : Issues s 0 [dstUse d (if IntTy.width i = 64 then 2 else 1) false, srcUse a (Fmt.regs (FFmt.fmt f)) 2]) :
    exec (.cvtiF2i d a f i r) s = givesSticky s 0 2 (if IntTy.width i = 64 then 2 else 1) d fun p =>
      let x := f2iW f i r (s.modeOf p.2) (s.val p a (Fmt.regs (FFmt.fmt f)) 2).toNat
      (wordsOf (if IntTy.width i = 64 then 2 else 1) (BitVec.ofInt 64 x.1), x.2) :=
  (exec_cvtiF2i ..).trans (arith_givesSticky (Issues_snoc zero_fixed h))

/-- Settles O8: each word is an arithmetic word with its sticky bits, or a rearrangement, on the stated function. -/
theorem conversionsAndQuantisationGiveTheirResults : Obligations.ConversionsAndQuantisationGiveTheirResults := by
  unfold Obligations.ConversionsAndQuantisationGiveTheirResults
  refine ⟨fun s d a r sat => ⟨fun df sf h => ?_, fun f i => ⟨fun h => ?_, fun h => ?_⟩, fun f k => ⟨fun h => ?_, fun h => ?_⟩⟩,
    fun s d a b g i t f16 => ⟨fun h => ⟨?_, ?_, ?_⟩, fun h => ?_, fun h => ?_, fun h => ⟨?_, ?_⟩⟩⟩
  · exact (exec_cvt ..).trans (arith_givesSticky (Issues_snoc zero_fixed h))
  · rw [cvtiF2i_gives h]
    congr 1
    funext p
    simp only [f2iW, readF_fmt]
    cases decodeF (Fmt.float (FFmt.fmt f)) (flushIn (s.modeOf p.2) (Fmt.cls (FFmt.fmt f)))
      ((s.val p a (Fmt.regs (FFmt.fmt f)) 2).toNat % 2 ^ (Fmt.float (FFmt.fmt f)).width) <;> rfl
  · exact (exec_cvtiI2f ..).trans (arith_gives (Issues_snoc zero_fixed h) fun _ _ _ _ => rfl)
  · rw [exec_pack, arith_givesSticky (Issues_snoc zero_fixed h)]
    simp only [if_true, wordsOf_one_ofNat, val_one, toNat_setWidth_64, BitVec.toNat_mod_cancel]
  · rw [exec_unpk, arith_gives (Issues_snoc zero_fixed h) fun _ _ _ _ => rfl]
    simp only [wordsOf_one_ofNat, val_one, toNat_setWidth_mod, ofNat_unpkW] <;> rfl
  · rw [exec_qzpRec, arith_givesSticky h]
    simp only [wordsOf_one_ofNat, val_one, toNat_setWidth_mod]
  · rw [exec_qzpQ, arith_givesSticky h]
    simp only [wordsOf_one_ofInt, val_one, toNat_setWidth_mod]
  · exact (exec_dq ..).trans (flt_gives h)
  · rw [exec_scalex, arith_givesSticky (Issues_snoc zero_fixed h)]
    simp only [wordsOf_one_ofNat, val_one, toNat_setWidth_mod]
  · exact (exec_scacc ..).trans (flt_gives h)
  · exact (exec_split6 ..).trans (rearrange_writes h)
  · exact (exec_join6 ..).trans (rearrange_writes h)

end Sys2Proof.Proofs
end

section
/-! PROOFS. The special functions and the softmax words (R140, R142, R143). -/

namespace Sys2Proof.Proofs

open Sys2Proof.Machine Sys2Proof.Safety Sys2Proof.Laws

/-- A special function of one FP32 register. -/
theorem special_gives {s : State} {d a : Opnd} {g : Nat} {i : Instr} {f : Bool → Bool → Nat → Nat}
    (h : Issues s g [dstUse d 1 false, srcUse a 1 2]) (hi : exec i s = s.run (specialWork g d a f)) :
    exec i s = gives s g 2 1 d fun p =>
      [BitVec.ofNat 32 (f (flushIn (s.modeOf p.2) 2) (flushOut (s.modeOf p.2) 2) (val32 s p a 2).toNat)] :=
  hi.trans (flt_gives (Issues_snoc zero_fixed h))

section

variable (d a b : Opnd) (g : Nat) (s : State)

theorem exec_frcp : exec (.frcp d a g) s = s.run (specialWork g d a frcp) := rfl

theorem exec_frsq : exec (.frsq d a g) s = s.run (specialWork g d a frsq) := rfl

theorem exec_fsqrt : exec (.fsqrt d a g) s = s.run (specialWork g d a fsqrt) := rfl

theorem exec_fexp2 : exec (.fexp2 d a g) s = s.run (specialWork g d a fexp2) := rfl

theorem exec_flog2 : exec (.flog2 d a g) s = s.run (specialWork g d a flog2) := rfl

theorem exec_fsin : exec (.fsin d a g) s = s.run (specialWork g d a fsin) := rfl

theorem exec_fcos : exec (.fcos d a g) s = s.run (specialWork g d a fcos) := rfl

theorem exec_ftanh : exec (.ftanh d a g) s = s.run (specialWork g d a ftanh) := rfl

theorem exec_osmx_leaf : exec (.osmx d a .zero g) s =
    s.run (arith 2 g d 2 false a 1 .zero 1 fun _ x _ _ => (smLeaf (x.toNat % 2 ^ 32), 0)) := rfl

theorem exec_osmx_combine (hb : b ≠ .zero) : exec (.osmx d a b g) s =
    s.run (arith 2 g d 2 false a 2 b 2 fun _ x y _ => (smCombine x y, 0)) := by
  cases b with
  | zero => exact absurd rfl hb
  | _ => rfl

theorem exec_osmn : exec (.osmn d a b g) s = s.run (arith 2 g d 1 false a 1 b 2 fun m x y _ =>
    (BitVec.ofNat 64 (osmn (flushIn m 2) (flushOut m 2) (x.toNat % 2 ^ 32) y), 0)) := rfl

end

/-- Settles O9: each word is a floating-point word on its value function. -/
theorem specialFunctionsComplete : Obligations.SpecialFunctionsComplete := by
  unfold Obligations.SpecialFunctionsComplete
  refine fun s d a b g => ⟨fun h => ⟨special_gives h (exec_frcp ..), special_gives h (exec_frsq ..),
    special_gives h (exec_fsqrt ..), special_gives h (exec_fexp2 ..), special_gives h (exec_flog2 ..),
    special_gives h (exec_fsin ..), special_gives h (exec_fcos ..), special_gives h (exec_ftanh ..)⟩,
    fun h => ?_, fun hb h => ?_, fun h => ?_⟩
  · rw [exec_osmx_leaf, arith_gives (Issues_snoc zero_fixed h) fun _ _ _ _ => rfl]
    simp only [val_one, toNat_setWidth_mod]
  · exact (exec_osmx_combine d a b g s hb).trans (arith_gives h fun _ _ _ _ => rfl)
  · rw [exec_osmn, arith_gives h fun _ _ _ _ => rfl]
    simp only [wordsOf_one_ofNat, val_one, val_two, toNat_setWidth_mod]

end Sys2Proof.Proofs
end

section
/-! PROOFS. The cross-lane words (R149 to R151). -/

namespace Sys2Proof.Proofs

open Sys2Proof.Machine Sys2Proof.Safety Sys2Proof.Laws

section

variable (d a b : Opnd) (g q x : Nat) (nx : Bool) (m : ShflMode) (v : VoteMode) (o : LredOp) (s : State)

theorem exec_shfl : exec (.shfl d a b m) s =
    s.run { uses := [dstUse d 1 false, srcUse a 1 0, srcUse b 1 0],
            act := fun s ok => s.putDst ok d fun p => [s.shuffle ok a b m p] } := rfl

theorem exec_vote : exec (.vote q x nx v g) s =
    s.run { guard := g, act := fun s ok => s.putPred ok q fun _ => tally v (s.votes ok x nx) } := rfl

theorem exec_ballot : exec (.ballot d x nx g) s =
    s.run { uses := [dstUse d 2 false], guard := g,
            act := fun s ok => s.putDst ok d fun _ =>
              wordsOf 2 (laneMask ok fun p => (s.thr p.2).preds.getLsbD x != nx) } := rfl

theorem exec_lmatch : exec (.lmatch d a g) s =
    s.run { uses := [dstUse d 2 false, srcUse a 1 0], guard := g,
            act := fun s ok => s.putDst ok d fun p => wordsOf 2 (laneMask ok fun q => s.src q a == s.src p a) } := rfl

theorem exec_lred : exec (.lred d a b o) s =
    s.run { uses := [dstUse d (lredRegs o) false, srcUse a (lredRegs o) 0, srcUse b 1 0],
            chk := fun s ps _ =>
              let js := (s.lredLeaves ps a b (lredRegs o)).map Prod.fst
              if (dedup js).length ≠ js.length then some { cls := 7, code := 7 } else none,
            act := fun s ok => s.putDst ok d fun _ => wordsOf (lredRegs o)
              ((sparseTree (lredOp o) 32 (s.lredLeaves ok a b (lredRegs o))).getD (lredEmpty o)) } := rfl

end

/-! SHFL. -/

/-- The lane that SHFL reads, before its bounds (R149). -/
def shflFrom (m : ShflMode) (lane n : Nat) : Int :=
  match m with
  | .idx => n
  | .up => (lane : Int) - n
  | .down => (lane : Int) + n
  | .xor => (lane ^^^ n : Nat)

/-- SHFL's lane is that lane where it lies in the unit. -/
theorem shflLane_eq (m : ShflMode) (w lane n : Nat) :
    shflLane m w lane n = if 0 ≤ shflFrom m lane n ∧ shflFrom m lane n < w then some (shflFrom m lane n).toNat else none := by
  cases m <;> rfl

/-- SHFL reads the participant at its lane, or the own register where there is none. -/
theorem shuffle_eq (s : State) (ok : List (Nat × Nat)) (a b : Opnd) (m : ShflMode) (p : Nat × Nat) :
    [s.shuffle ok a b m p] =
      let from_ := shflFrom m p.1 ((s.src p b).toNat % 64)
      match ok.find? fun r => (r.1 : Int) == from_ && decide (from_ < s.width) with
      | some r => [s.src r a]
      | none => [s.src p a] := by
  unfold State.shuffle
  rw [shflLane_eq]
  generalize shflFrom m p.1 ((s.src p b).toNat % 64) = f
  by_cases hf : 0 ≤ f ∧ f < s.width
  · have hfind : (ok.find? fun r => (r.1 : Int) == f && decide (f < s.width)) = ok.find? fun r => r.1 == f.toNat := by
      congr 1
      funext r
      rw [Bool.eq_iff_iff]
      simp only [Bool.and_eq_true, beq_iff_eq, decide_eq_true_eq]
      omega
    simp only [if_pos hf, hfind]
    cases ok.find? fun r => r.1 == f.toNat <;> rfl
  · have hfind : (ok.find? fun r => (r.1 : Int) == f && decide (f < s.width)) = none := by
      rw [List.find?_eq_none]
      intro r _
      simp only [Bool.and_eq_true, beq_iff_eq, decide_eq_true_eq]
      omega
    simp only [if_neg hf, hfind]

/-! Masks of lanes. -/

/-- A mask is the sum of its lanes' bits. -/
theorem foldl_lanes (l : List (Nat × Nat)) (n : Nat) :
    l.foldl (fun m p => m + 2 ^ p.1) n = n + (l.map fun p => 2 ^ p.1).sum := by
  induction l generalizing n with
  | nil => rfl
  | cons p r ih => simp only [List.foldl_cons, ih, List.map_cons, List.sum_cons, Nat.add_assoc]

theorem laneMask_eq_sum (ok : List (Nat × Nat)) (f : Nat × Nat → Bool) :
    laneMask ok f = BitVec.ofNat 64 (((ok.filter f).map fun p => 2 ^ p.1).sum) := by
  rw [laneMask, foldl_lanes, Nat.zero_add]

/-! LRED. -/

/-- Entries that a list does not hold yet are all kept. -/
theorem foldl_dedup {l acc : List Nat} (h : (acc ++ l).Nodup) :
    l.foldl (fun acc x => if acc.contains x then acc else acc ++ [x]) acc = acc ++ l := by
  induction l generalizing acc with
  | nil => simp
  | cons x r ih =>
    have hx : x ∉ acc := fun hm => (List.nodup_append.mp h).2.2 x hm x (by simp) rfl
    rw [List.foldl_cons, if_neg (by simpa using hx), ih (by simpa using h)]
    simp

/-- A list without repeated entries stays as it is. -/
theorem dedup_of_nodup {l : List Nat} (h : l.Nodup) : dedup l = l := by
  rw [dedup, foldl_dedup (by simpa using h), List.nil_append]

/-- Settles O10: each word is performed among its participants, with SHFL's lane, the mask as a sum and LRED's leaves as stated. -/
theorem crossLaneWordsGiveTheirResults : Obligations.CrossLaneWordsGiveTheirResults := by
  unfold Obligations.CrossLaneWordsGiveTheirResults
  refine fun s d a b g q x nx m o => ⟨fun h => ?_, fun h => ⟨?_, ?_, ?_⟩, fun h => ?_, fun h => ?_, fun h hn => ?_⟩
  · rw [exec_shfl, run_plain h (by simpa using h.lanes)]
    simp only [writes, val32, stepped_zero, shuffle_eq] <;> rfl
  · rw [exec_vote, run_plain h (by simpa using h.lanes)]
    rfl
  · rw [exec_vote, run_plain h (by simpa using h.lanes)]
    rfl
  · rw [exec_vote, run_plain h (by simpa using h.lanes)]
    simp only [decides, tally, State.votes, Bool.bne_eq_xor, List.not_any_eq_all_not] <;> rfl
  · rw [exec_ballot, run_plain h (by simpa using h.lanes)]
    simp only [writes, laneMask_eq_sum, Bool.bne_eq_xor]
  · rw [exec_lmatch, run_plain h (by simpa using h.lanes)]
    simp only [writes, laneMask_eq_sum, val32, stepped_zero]
  · simp only [val32, stepped_zero] at hn ⊢
    exact (exec_lred ..).trans (run_issues h (fun _ _ => rfl) (fun _ => rfl)
      (fun p _ => if_neg (not_not.mpr (congrArg List.length (dedup_of_nodup hn)))) (by simpa using h.lanes) rfl)

end Sys2Proof.Proofs
end

section
/-! PROOFS. What a step does by its plan (log 1), and the plan by what is due, the agenda and the work under way. The definitions
are opened at the functions themselves, with what decides their branches left closed: the kernel would run it to compare. -/

namespace Sys2Proof.Proofs

open Sys2Proof.Machine Sys2Proof.Safety Sys2Proof.Laws

/-! A step by its plan. -/

theorem step_of_run {s t : State} {i : Instr} (h : s.plan = .run t i) : step s = settle (exec i t) := by
  obtain ⟨step', hs⟩ := exists_eq (a' := step)
  obtain ⟨plan, hp⟩ := exists_eq (a' := State.plan)
  rw [← hs]
  delta step at hs
  rw [← hp] at hs h
  rw [hs]
  simp only [h]

theorem step_of_rest {s t : State} (h : s.plan = .rest t) : step s = .next t := by
  obtain ⟨step', hs⟩ := exists_eq (a' := step)
  obtain ⟨plan, hp⟩ := exists_eq (a' := State.plan)
  rw [← hs]
  delta step at hs
  rw [← hp] at hs h
  rw [hs]
  simp only [h]

theorem step_of_wrong {s : State} (h : s.plan = .wrong) : step s = .fault .notAnEvent := by
  obtain ⟨step', hs⟩ := exists_eq (a' := step)
  obtain ⟨plan, hp⟩ := exists_eq (a' := State.plan)
  rw [← hs]
  delta step at hs
  rw [← hp] at hs h
  rw [hs]
  simp only [h]

/-! The plan. -/

theorem plan_of_due {s : State} {i : Instr} (h : s.bump.due = some i) : s.plan = .run s.bump i := by
  obtain ⟨plan, hp⟩ := exists_eq (a' := State.plan)
  obtain ⟨due, hd⟩ := exists_eq (a' := State.due)
  obtain ⟨bump, hb⟩ := exists_eq (a' := State.bump)
  rw [← hp, ← hb]
  delta State.plan at hp
  rw [← hd, ← hb] at hp h
  rw [hp]
  simp only [h]

/-- A tick of the free values leaves the agenda alone. -/
theorem bump_agenda (s : State) : s.bump.agenda = s.agenda := rfl

theorem plan_of_item {s : State} {x : Item} {r : List Item} (h : s.bump.due = none) (ha : s.agenda = x :: r) :
    s.plan = s.bump.itemPlan x r := by
  rw [← bump_agenda] at ha
  obtain ⟨plan, hp⟩ := exists_eq (a' := State.plan)
  obtain ⟨due, hd⟩ := exists_eq (a' := State.due)
  obtain ⟨bump, hb⟩ := exists_eq (a' := State.bump)
  rw [← hb] at ha
  rw [← hp, ← hb]
  delta State.plan at hp
  rw [← hd, ← hb] at hp h
  rw [hp]
  simp only [h, ha]

theorem plan_of_own {s : State} (h : s.bump.due = none) (ha : s.agenda = []) : s.plan = s.bump.ownPlan := by
  rw [← bump_agenda] at ha
  obtain ⟨plan, hp⟩ := exists_eq (a' := State.plan)
  obtain ⟨due, hd⟩ := exists_eq (a' := State.due)
  obtain ⟨bump, hb⟩ := exists_eq (a' := State.bump)
  rw [← hb] at ha
  rw [← hp, ← hb]
  delta State.plan at hp
  rw [← hd, ← hb] at hp h
  rw [hp]
  simp only [h, ha]

theorem ownPlan_of_work {s : State} {i : Instr} {r : List Instr} (h : s.issuePlan = none) (hw : s.work = i :: r) :
    s.ownPlan = .run { s with work := r } i := by
  obtain ⟨own, ho⟩ := exists_eq (a' := State.ownPlan)
  obtain ⟨issue, hi⟩ := exists_eq (a' := State.issuePlan)
  rw [← ho]
  delta State.ownPlan at ho
  rw [← hi] at ho h
  rw [ho]
  simp only [h, hw]

theorem ownPlan_of_idle {s : State} (h : s.issuePlan = none) (hw : s.work = []) : s.ownPlan = .rest s.nextClk := by
  obtain ⟨own, ho⟩ := exists_eq (a' := State.ownPlan)
  obtain ⟨issue, hi⟩ := exists_eq (a' := State.issuePlan)
  rw [← ho]
  delta State.ownPlan at ho
  rw [← hi] at ho h
  rw [ho]
  simp only [h, hw]

/-- An event of the agenda. -/
theorem itemPlan_event (s : State) (i : Instr) (r : List Item) : s.itemPlan ⟨0, .event i⟩ r =
    if (encode i).isSome then .wrong else .run ({ s with agenda := r } : State).unblocked i := rfl

theorem step_event {s : State} {i : Instr} {r : List Item} (hd : s.bump.due = none) (ha : s.agenda = ⟨0, .event i⟩ :: r) :
    (encode i = none → step s = settle (exec i ({ s.bump with agenda := r } : State).unblocked)) ∧
      (encode i ≠ none → step s = .fault .notAnEvent) := by
  have hp := (plan_of_item hd ha).trans (itemPlan_event s.bump i r)
  constructor <;> intro he
  · exact step_of_run (hp.trans (if_neg (by simp [he])))
  · exact step_of_wrong (hp.trans (if_pos (Option.isSome_iff_ne_none.mpr he)))

/-! The clock of the next clk. -/

theorem lookAgain_clk (s : State) (u : Nat) : (s.lookAgain u).clk = s.clk := by
  unfold State.lookAgain
  dsimp only
  split
  · rfl
  · split <;> rfl

theorem nextClk_clk (s : State) : s.nextClk.clk = s.clk + 1 :=
  List.foldlRecOn (motive := fun t : State => t.clk = s.clk + 1) _ State.lookAgain rfl
    fun t h u _ => (lookAgain_clk t u).trans h

/-- Settles O54: each branch of the plan, and the step by it. -/
theorem stepPerformsEventsAndPassesTime : Obligations.StepPerformsEventsAndPassesTime := by
  unfold Obligations.StepPerformsEventsAndPassesTime
  intro s
  refine ⟨fun i hi => step_of_run (plan_of_due hi), fun hd => ⟨fun i r ha => step_event hd ha, fun ha hi => ⟨?_, ?_⟩⟩⟩
  · intro i r hw
    exact step_of_run ((plan_of_own hd ha).trans (ownPlan_of_work hi hw))
  · intro hw
    exact ⟨step_of_rest ((plan_of_own hd ha).trans (ownPlan_of_idle hi hw)), nextClk_clk _⟩

end Sys2Proof.Proofs
end

section
/-! PROOFS. The turn of a datapath (R84, R387): the plan of a unit's word, with its clause fetched first where none is in force. -/

namespace Sys2Proof.Proofs

open Sys2Proof.Machine Sys2Proof.Safety Sys2Proof.Laws

/-! A clause as it is fetched. -/

theorem posFrom_eq_none {α : Type} {p : α → Bool} {k : Nat} {l : List α} (h : posFrom p k l = none) : ∀ x ∈ l, p x = false := by
  induction l generalizing k with
  | nil => simp
  | cons y r ih =>
    rw [posFrom] at h
    split at h
    · cases h
    · rename_i hy
      intro x hx
      obtain rfl | hx := List.mem_cons.mp hx
      · simpa using hy
      · exact ih h x hx

/-- Reads of which none is found to fail all succeed. -/
theorem reads_ok {get : Nat → Except (Nat × Nat) Word} {failed : Except (Nat × Nat) Word → Option (Nat × Nat)}
    {fails : Nat → Bool} {l : List Nat} (h : ∀ e k, (l.map get).findSome? failed = some e → pos fails l = some k → False)
    (hf : ∀ e, failed (.error e) = some e) (hb : ∀ k e, get k = .error e → fails k = true) : ∀ k ∈ l, ∃ w, get k = .ok w := by
  intro k hk
  cases hg : get k with
  | ok w => exact ⟨w, rfl⟩
  | error e =>
    cases he : (l.map get).findSome? failed with
    | none =>
      have := List.findSome?_eq_none_iff.mp he (get k) (List.mem_map_of_mem hk)
      rw [hg, hf] at this
      cases this
    | some e' =>
      cases hp : pos fails l with
      | none => exact absurd (posFrom_eq_none hp k hk) (by simp [hb k e hg])
      | some i => exact (h _ _ he hp).elim

/-- The words of a fetched clause: as many as its header says, each read where it stands. -/
theorem fetchClause_words {s : State} {l : Nat} {hdr : Dword} {ws : List Word} {m : Nat} (h : s.fetchClause l hdr = .ok (ws, m)) :
    ws.length = 1 + bits (ws.headD 0).toNat 28 4 ∧
      ∀ k < ws.length, s.fetchWord l (wordAddr hdr k).toNat = .ok ((ws[k]?).getD 0) := by
  obtain ⟨word, hw⟩ := exists_eq (a' := State.fetchWord)
  delta State.fetchClause at h
  rw [← hw] at h ⊢
  dsimp only at h
  obtain ⟨get, hg⟩ : ∃ get : Nat → Except (Nat × Nat) Word, ∀ k, word s l (wordAddr hdr k).toNat = get k := ⟨_, fun _ => rfl⟩
  simp only [hg] at h ⊢
  split at h
  · cases h
  · rename_i hd h0
    split at h
    · cases h
    · rename_i hn
      have hok := reads_ok hn (fun _ => rfl) fun k e he => by simp only [he]
      split at h
      · cases h
      · split at h
        · cases h
        · split at h
          · cases h
          · cases h
            refine ⟨by simp [Nat.add_comm], fun k hk => ?_⟩
            cases k with
            | zero => simpa using h0
            | succ k =>
              have hk : k < bits hd.toNat 28 4 := by simpa using hk
              obtain ⟨w, hw⟩ := hok k (List.mem_range.mpr hk)
              simp [hk, hw]

theorem fetchClause_ne_nil {s : State} {l : Nat} {hdr : Dword} {ws : List Word} {m : Nat}
    (h : s.fetchClause l hdr = .ok (ws, m)) : ws ≠ [] := by
  have := (fetchClause_words h).1
  exact List.length_pos_iff.mp (by omega)

/-! What noting translations leaves alone. -/

theorem noteTlb_unit (s : State) (c : Context) (va : Nat) : (s.noteTlb c va).unit = s.unit := by
  unfold State.noteTlb
  split
  · rfl
  · split
    · rfl
    · dsimp only
      split <;> rfl

theorem noteTlb_agenda (s : State) (c : Context) (va : Nat) : (s.noteTlb c va).agenda = s.agenda := by
  unfold State.noteTlb
  split
  · rfl
  · split
    · rfl
    · dsimp only
      split <;> rfl

theorem noteTlb_cur (s : State) (c : Context) (va : Nat) : (s.noteTlb c va).cur = s.cur := by
  unfold State.noteTlb
  split
  · rfl
  · split
    · rfl
    · dsimp only
      split <;> rfl

theorem noteTlbs_unit (s : State) (c : Context) (vas : List Nat) : (s.noteTlbs c vas).unit = s.unit :=
  foldl_unit (fun t a => noteTlb_unit t c a) _ s

theorem noteTlbs_agenda (s : State) (c : Context) (vas : List Nat) : (s.noteTlbs c vas).agenda = s.agenda :=
  List.foldlRecOn (motive := fun t : State => t.agenda = s.agenda) _ _ rfl fun t h a _ => (noteTlb_agenda t c a).trans h

theorem noteTlbs_cur (s : State) (c : Context) (vas : List Nat) : (s.noteTlbs c vas).cur = s.cur :=
  List.foldlRecOn (motive := fun t : State => t.cur = s.cur) _ _ rfl fun t h a _ => (noteTlb_cur t c a).trans h

/-! A unit that stands. -/

theorem upd_upd {α : Type} (l : List α) (n : Nat) (f g : α → α) : upd (upd l n f) n g = upd l n (g ∘ f) := by
  induction l generalizing n with
  | nil => rfl
  | cons x r ih => cases n with
    | zero => rfl
    | succ n => exact congrArg (x :: ·) (ih n)

theorem updUnit_updUnit (s : State) (u : Nat) (f g : IssueUnit → IssueUnit) :
    (s.updUnit u f).updUnit u g = s.updUnit u (g ∘ f) := by
  simp only [State.updUnit, upd_upd]

theorem unit_stands {s : State} (h : s.unit.lanes ≠ []) : s.units[s.cur]? = some s.unit := by
  cases hu : s.units[s.cur]? with
  | none => exact absurd (by simp [State.unit, State.unitAt, hu, IssueUnit.gone]) h
  | some x => simp [State.unit, State.unitAt, hu]

theorem unit_updUnit {s : State} (h : s.unit.lanes ≠ []) (f : IssueUnit → IssueUnit) : (s.updUnit s.cur f).unit = f s.unit := by
  have hx : (s.updUnit s.cur f).unit = (((upd s.units s.cur f))[s.cur]?).getD .gone := rfl
  rw [hx, getElem?_upd, unit_stands h]
  simp

/-! The clause comes in force. -/

/-- The unit with the clause in force that was fetched, entered at its word. -/
def fetchedUnit (ws : List Word) (m : Nat) (x : IssueUnit) : IssueUnit :=
  { x with words := ws, instrs := m, waited := true, idx := max 1 x.idx, scope := x.scope.or (scopeBefore ws x.idx) }

theorem headerWait_none {s : State} (h : bit s.unit.header.toNat 8 = false) : s.headerWait = ([], []) := by
  unfold State.headerWait
  dsimp only
  rw [h]
  rfl

theorem issueClause_fetched {s : State} {ws : List Word} {m : Nat} (hl : s.unit.lanes ≠ []) (hw : s.unit.waited = false)
    (hf : s.fetchClause (s.team (s.grp s.unit.group).team).launch s.unit.hdr = .ok (ws, m)) (hm : s.unit.idx ≤ m)
    (hb : bit (ws.headD 0).toNat 8 = false) :
    s.issueClause = (s.noteTlbs (s.ctx (s.launch (s.team (s.grp s.unit.group).team).launch).ctx)
      [bits s.unit.hdr.toNat 0 57, bits s.unit.hdr.toNat 0 57 + 4 * (ws.length - 1)]).updUnit s.cur (fetchedUnit ws m) := by
  obtain ⟨fetch, hfetch⟩ := exists_eq (a' := State.fetchClause)
  unfold State.issueClause
  rw [← hfetch] at hf ⊢
  simp only [hf, Nat.not_lt.mpr hm, if_false, hw, Bool.false_eq_true]
  generalize hs0 : s.noteTlbs _ _ = s0
  have hu : s0.unit = s.unit := hs0 ▸ noteTlbs_unit ..
  have hc : s0.cur = s.cur := hs0 ▸ noteTlbs_cur ..
  have hl0 : s0.unit.lanes ≠ [] := hu ▸ hl
  have hu1 := unit_updUnit hl0 fun x => { x with words := ws, instrs := m }
  rw [← hc, headerWait_none (by rw [hu1]; exact hb)]
  simp only [List.map_nil, ne_eq, not_true_eq_false, if_false]
  rw [takeAll_nil _ (by rw [hu1]; exact hl0), updUnit_updUnit]
  rfl

/-! The plan of a unit's word. -/

/-- The unit at issue is not to stop where it stands. -/
def GoesOn (c : State) : Prop := c.unit.stopAsk.isSome = false ∨ c.unit.atStop = false

theorem GoesOn.not_stop {c : State} (h : GoesOn c) : ¬(c.unit.stopAsk.isSome && c.unit.atStop) = true := by
  obtain h | h := h <;> simp [h]

/-- The plan of the word of a unit that goes on, `t` being the state with the unit's clause in force. -/
theorem wordPlan_word {s t : State} {u : Nat} {i : Instr} (hn : GoesOn { s with cur := u })
    (ht : (if ({ s with cur := u } : State).unit.words = [] then State.issueClause { s with cur := u } else { s with cur := u }) = t)
    (hw : t.unit.words ≠ []) (hr : t.unit.ready = true) (hi : t.unit.instrAt t.unit.idx = .ok i) :
    s.wordPlan u = .run { t with taken := takenBy i ({ s with cur := u } : State).unit.path t.taken } i := by
  obtain ⟨issue, he⟩ := exists_eq (a' := State.issueClause)
  obtain ⟨plan, hp⟩ := exists_eq (a' := State.wordPlan)
  rw [← hp]
  delta State.wordPlan at hp
  rw [← he] at hp ht
  rw [hp]
  dsimp only
  rw [if_neg hn.not_stop, ht, if_pos (by simpa [hr] using hw), hi]

/-- The plan where the word is no instruction. -/
theorem wordPlan_illegal {s : State} {u : Nat} {e : Reject} (hn : GoesOn { s with cur := u })
    (hw : ({ s with cur := u } : State).unit.words ≠ []) (hr : ({ s with cur := u } : State).unit.ready = true)
    (hi : ({ s with cur := u } : State).unit.instrAt ({ s with cur := u } : State).unit.idx = .error e) :
    s.wordPlan u = .rest { State.illegalWord { s with cur := u } with
      taken := ({ s with cur := u } : State).unit.path :: s.taken } := by
  obtain ⟨issue, he⟩ := exists_eq (a' := State.issueClause)
  obtain ⟨plan, hp⟩ := exists_eq (a' := State.wordPlan)
  rw [← hp]
  delta State.wordPlan at hp
  rw [← he] at hp
  rw [hp]
  dsimp only
  rw [if_neg hn.not_stop, if_neg hw, if_pos (by simpa [hr] using hw), hi]

/-! The turn. -/

/-- The turn of a datapath that chooses unit `u`: a turn of the agenda, or one of itself (R387; the agenda is log 1). -/
def TurnOf (s s1 : State) (u : Nat) : Prop :=
  (∃ path r, s.agenda = ⟨0, .turn path⟩ :: r ∧ s1 = { s.bump with agenda := r } ∧ path ∉ s.taken ∧ s1.choose path = some u) ∨
  ((s.agenda = [] ∨ ∃ x r, s.agenda = x :: r ∧ x.dt ≠ 0) ∧ s1 = s.bump ∧ s1.nextPath.bind s1.choose = some u)

theorem itemPlan_later {s : State} {x : Item} {r : List Item} {p : Plan} (hx : x.dt ≠ 0) (h : s.issuePlan = some p) :
    s.itemPlan x r = p := by
  obtain ⟨issue, hi⟩ := exists_eq (a' := State.issuePlan)
  obtain ⟨plan, hp⟩ := exists_eq (a' := State.itemPlan)
  rw [← hp]
  delta State.itemPlan at hp
  rw [← hi] at hp h
  rw [hp]
  simp only [hx, ne_eq, not_false_eq_true, if_true, h]

theorem ownPlan_issue {s : State} {p : Plan} (h : s.issuePlan = some p) : s.ownPlan = p := by
  obtain ⟨own, ho⟩ := exists_eq (a' := State.ownPlan)
  obtain ⟨issue, hi⟩ := exists_eq (a' := State.issuePlan)
  rw [← ho]
  delta State.ownPlan at ho
  rw [← hi] at ho h
  rw [ho]
  simp only [h]

theorem itemPlan_turn_run {s t : State} {path u : Nat} {r : List Item} {i : Instr} (hp : path ∉ s.taken)
    (hc : ({ s with agenda := r } : State).choose path = some u) (hw : State.wordPlan { s with agenda := r } u = .run t i) :
    s.itemPlan ⟨0, .turn path⟩ r = .run { t with agenda := if isPrefix i then ⟨0, .turn path⟩ :: r else t.agenda } i := by
  obtain ⟨choose, hch⟩ := exists_eq (a' := State.choose)
  obtain ⟨word, hwp⟩ := exists_eq (a' := State.wordPlan)
  obtain ⟨plan, hpl⟩ := exists_eq (a' := State.itemPlan)
  rw [← hpl]
  delta State.itemPlan at hpl
  rw [← hch, ← hwp] at hpl
  rw [← hch] at hc
  rw [← hwp] at hw
  rw [hpl]
  simp only [ne_eq, not_true_eq_false, if_false, List.contains_iff_mem, hp, hc, hw]

theorem itemPlan_turn_rest {s t : State} {path u : Nat} {r : List Item} (hp : path ∉ s.taken)
    (hc : ({ s with agenda := r } : State).choose path = some u) (hw : State.wordPlan { s with agenda := r } u = .rest t) :
    s.itemPlan ⟨0, .turn path⟩ r = .rest t := by
  obtain ⟨choose, hch⟩ := exists_eq (a' := State.choose)
  obtain ⟨word, hwp⟩ := exists_eq (a' := State.wordPlan)
  obtain ⟨plan, hpl⟩ := exists_eq (a' := State.itemPlan)
  rw [← hpl]
  delta State.itemPlan at hpl
  rw [← hch, ← hwp] at hpl
  rw [← hch] at hc
  rw [← hwp] at hw
  rw [hpl]
  simp only [ne_eq, not_true_eq_false, if_false, List.contains_iff_mem, hp, hc, hw]

theorem issuePlan_chosen {s : State} {u : Nat} (h : s.nextPath.bind s.choose = some u) : s.issuePlan = some (s.wordPlan u) := by
  unfold State.issuePlan
  rw [h]
  rfl

theorem plan_issues {s : State} {u : Nat} (hd : s.bump.due = none) (ha : s.agenda = [] ∨ ∃ x r, s.agenda = x :: r ∧ x.dt ≠ 0)
    (h : s.bump.nextPath.bind s.bump.choose = some u) : s.plan = s.bump.wordPlan u := by
  obtain ha | ⟨x, r, ha, hx⟩ := ha
  · exact (plan_of_own hd ha).trans (ownPlan_issue (issuePlan_chosen h))
  · exact (plan_of_item hd ha).trans (itemPlan_later hx (issuePlan_chosen h))

/-- In its turn a unit's word is performed; a REP or SCOPE leaves the turn where it was. -/
theorem step_turn_run {s s1 t : State} {u : Nat} {i : Instr} (hd : s.bump.due = none) (h : TurnOf s s1 u)
    (hw : s1.wordPlan u = .run t i) (ht : t.agenda = s1.agenda) :
    step s = settle (exec i { t with agenda := if isPrefix i then s.agenda else t.agenda }) := by
  obtain ⟨path, r, ha, rfl, hp, hc⟩ | ⟨ha, rfl, hc⟩ := h
  · rw [ha]
    exact step_of_run ((plan_of_item hd ha).trans (itemPlan_turn_run hp hc hw))
  · have he : { t with agenda := if isPrefix i then s.agenda else t.agenda } = t := by
      rw [← bump_agenda, ← ht, ite_self]
    rw [he]
    exact step_of_run ((plan_issues hd ha hc).trans hw)

theorem step_turn_rest {s s1 t : State} {u : Nat} (hd : s.bump.due = none) (h : TurnOf s s1 u)
    (hw : s1.wordPlan u = .rest t) : step s = .next t := by
  obtain ⟨path, r, ha, rfl, hp, hc⟩ | ⟨ha, rfl, hc⟩ := h
  · exact step_of_rest ((plan_of_item hd ha).trans (itemPlan_turn_rest hp hc hw))
  · exact step_of_rest ((plan_issues hd ha hc).trans hw)

/-- Settles O53: the plan of the turn, with the clause in force or fetched. -/
theorem stepRunsTheDecodedInstruction : Obligations.StepRunsTheDecodedInstruction := by
  unfold Obligations.StepRunsTheDecodedInstruction
  intro s s1 u hd ht s2 l at_ hn
  replace ht : TurnOf s s1 u := ht
  refine ⟨fun hw hr => ⟨fun i hi => ?_, fun e he => ?_⟩, fun hw hwait hl ws m hf => ⟨fetchClause_words hf, fun hm hb => ?_⟩⟩
  · exact step_turn_run hd ht (wordPlan_word hn (if_neg hw) hw hr hi) rfl
  · exact step_turn_rest hd ht (wordPlan_illegal hn hw hr he)
  · intro hdr s3 i hr hi
    have hc : State.issueClause s2 = s3 := issueClause_fetched (s := s2) hl hwait hf hm hb
    have hu : s3.unit = fetchedUnit ws m s2.unit := by
      have hn := noteTlbs_unit s2 (s2.ctx (s2.launch l).ctx) [hdr, hdr + 4 * (ws.length - 1)]
      have h3 := unit_updUnit (s := s2.noteTlbs (s2.ctx (s2.launch l).ctx) [hdr, hdr + 4 * (ws.length - 1)]) (by rw [hn]; exact hl)
        (fetchedUnit ws m)
      rwa [noteTlbs_cur, hn] at h3
    have ha : s3.agenda = s2.agenda := noteTlbs_agenda s2 _ _
    have hp : s2.unit.path = s3.unit.path := hu ▸ rfl
    clear_value s3
    have hw3 := wordPlan_word (s := s1) hn ((if_pos hw).trans hc) (by rw [hu]; exact fetchClause_ne_nil hf) hr hi
    change s1.wordPlan u = .run { s3 with taken := takenBy i s2.unit.path s3.taken } i at hw3
    rw [hp] at hw3
    exact step_turn_run hd ht hw3 ha

end Sys2Proof.Proofs
end

section
/-! PROOFS. What reset leaves, and three words as the spec writes them. -/

namespace Sys2Proof.Proofs

open Sys2Proof.Machine Sys2Proof.Safety Sys2Proof.Laws

/-- Settles O55: each word decodes by the fields of its own bits. -/
theorem wordsDecodeAsTheSpecWritesThem : Obligations.WordsDecodeAsTheSpecWritesThem := by
  unfold Obligations.WordsDecodeAsTheSpecWritesThem
  decide +kernel

/-! Without a save-routine entry no team is pre-empted (R391). -/

theorem preemptTeam_no_entry {s : State} (h : s.saveEntry = none) (m cause : Nat) : s.preemptTeam m cause = s := by
  unfold State.preemptTeam
  rw [h]
  rfl

theorem preemptOn_no_entry {s : State} (h : s.saveEntry = none) (cl cause : Nat) (which : Launch → Bool) :
    s.preemptOn cl cause which = s := by
  unfold State.preemptOn
  exact List.foldlRecOn (motive := fun t : State => t = s) _ _ rfl fun t ht m _ => by rw [ht, preemptTeam_no_entry h]

theorem priorityPreempt_no_entry {t : State} (h : t.saveEntry = none) (l c : Nat) : exec (.priorityPreempt l c) t = .next t := by
  change execPriorityPreempt l c t = .next t
  unfold execPriorityPreempt
  simp only [h, Option.isSome_none, Bool.false_and, Bool.and_false, Bool.false_eq_true, if_false]

theorem timeSliceExpiry_no_entry {t : State} (h : t.saveEntry = none) (k c : Nat) : exec (.timeSliceExpiry k c) t = .next t := by
  change execTimeSliceExpiry k c t = .next t
  unfold execTimeSliceExpiry
  simp only [preemptOn_no_entry h, ite_self]

/-- Settles O58: the defaults of the state's fields; without a save-routine entry neither event pre-empts. -/
theorem resetLeavesTheSpecsValues : Obligations.ResetLeavesTheSpecsValues := by
  unfold Obligations.ResetLeavesTheSpecsValues
  refine ⟨rfl, rfl, ?_, rfl, rfl, ?_, rfl, rfl, rfl, rfl, rfl, rfl, rfl, rfl, rfl, rfl, rfl, rfl, rfl, rfl, rfl, rfl, rfl, rfl,
    rfl, rfl, rfl, by unfold PowerInv; decide, fun t l c k h => ⟨priorityPreempt_no_entry h l c, timeSliceExpiry_no_entry h k c⟩⟩
  · intro x hx
    rw [List.eq_of_mem_replicate hx]
  · intro d hd
    rw [List.eq_of_mem_replicate hd]

end Sys2Proof.Proofs
end

section
/-! PROOFS. Decoding undoes encoding (R63 to R70, R83). A word is a list of fields, each at its low bit with its width; where the
fields lie apart and hold their values, a field of the word reads as its value. Each instruction's encoding is such a list. -/

namespace Sys2Proof.Proofs

open Sys2Proof.Machine Sys2Proof.Safety Sys2Proof.Laws

/-! Words by their fields. -/

/-- A word from its fields: low bit, width and value. -/
def wordOf (fs : List (Nat × Nat × Nat)) : Nat := fs.foldr (fun f x => x + f.2.2 * 2 ^ f.1) 0

theorem wordOf_nil : wordOf [] = 0 := rfl

theorem wordOf_cons (lo n v : Nat) (r : List (Nat × Nat × Nat)) : wordOf ((lo, n, v) :: r) = wordOf r + v * 2 ^ lo := rfl

/-- Bits that no field holds. -/
def apart (lo n : Nat) (fs : List (Nat × Nat × Nat)) : Bool := fs.all fun f => decide (lo + n ≤ f.1) || decide (f.1 + f.2.1 ≤ lo)

/-- Fields that lie apart within 32 bits. -/
def laid : List (Nat × Nat × Nat) → Bool
  | [] => true
  | f :: r => decide (f.1 + f.2.1 ≤ 32) && apart f.1 f.2.1 r && laid r

/-- The value of the field at `lo` with width `n`, 0 where there is none. -/
def valueAt (lo n : Nat) : List (Nat × Nat × Nat) → Nat
  | [] => 0
  | f :: r => if f.1 = lo ∧ f.2.1 = n then f.2.2 else valueAt lo n r

/-- Bits that can be read: they are a field, or no field holds any of them. -/
def readable (lo n : Nat) (fs : List (Nat × Nat × Nat)) : Bool :=
  apart lo n fs || fs.any fun f => decide (f.1 = lo ∧ f.2.1 = n)

/-- Each field holds its value. -/
def Fits : List (Nat × Nat × Nat) → Prop
  | [] => True
  | f :: r => f.2.2 < 2 ^ f.2.1 ∧ Fits r

theorem fld_eq (w lo n : Nat) : fld w lo n = w / 2 ^ lo % 2 ^ n := rfl

/-- The field that takes a value reads as that value. -/
theorem fld_add_same {x lo n v : Nat} (hx : fld x lo n = 0) (hv : v < 2 ^ n) : fld (x + v * 2 ^ lo) lo n = v := by
  rw [fld_eq] at hx ⊢
  rw [Nat.add_mul_div_right _ _ (Nat.two_pow_pos lo), Nat.add_mod, hx, Nat.zero_add, Nat.mod_mod, Nat.mod_eq_of_lt hv]

/-- Fields below the one that takes a value read as before. -/
theorem fld_add_below (x v : Nat) {lo lo' n' : Nat} (h : lo' + n' ≤ lo) : fld (x + v * 2 ^ lo) lo' n' = fld x lo' n' := by
  obtain ⟨k, rfl⟩ := Nat.exists_eq_add_of_le h
  have hp : v * 2 ^ (lo' + n' + k) = v * 2 ^ k * 2 ^ n' * 2 ^ lo' := by ring
  rw [fld_eq, fld_eq, hp, Nat.add_mul_div_right _ _ (Nat.two_pow_pos lo'), Nat.add_mul_mod_self_right]

/-- Fields above the one that takes a value read as before. -/
theorem fld_add_above {x lo n v lo' n' : Nat} (hx : fld x lo n = 0) (hv : v < 2 ^ n) (h : lo + n ≤ lo') :
    fld (x + v * 2 ^ lo) lo' n' = fld x lo' n' := by
  have hq : (x + v * 2 ^ lo) / 2 ^ (lo + n) = x / 2 ^ (lo + n) := by
    rw [fld_eq] at hx
    rw [Nat.pow_add, ← Nat.div_div_eq_div_mul, ← Nat.div_div_eq_div_mul, Nat.add_mul_div_right _ _ (Nat.two_pow_pos lo)]
    have := Nat.div_add_mod (x / 2 ^ lo) (2 ^ n)
    rw [hx, Nat.add_zero] at this
    rw [← this, Nat.mul_add_div (Nat.two_pow_pos n), Nat.div_eq_of_lt hv, Nat.mul_div_cancel_left _ (Nat.two_pow_pos n), Nat.add_zero]
  obtain ⟨k, rfl⟩ := Nat.exists_eq_add_of_le h
  rw [fld_eq, fld_eq, Nat.pow_add _ (lo + n) k, ← Nat.div_div_eq_div_mul, hq, Nat.div_div_eq_div_mul]

theorem laid_cons {f : Nat × Nat × Nat} {r : List (Nat × Nat × Nat)} (h : laid (f :: r) = true) :
    f.1 + f.2.1 ≤ 32 ∧ apart f.1 f.2.1 r = true ∧ laid r = true := by
  simpa [laid, and_assoc] using h

theorem apart_cons {lo n : Nat} {f : Nat × Nat × Nat} {r : List (Nat × Nat × Nat)} (h : apart lo n (f :: r) = true) :
    (lo + n ≤ f.1 ∨ f.1 + f.2.1 ≤ lo) ∧ apart lo n r = true := by
  simpa [apart] using h

theorem fld_wordOf_apart {fs : List (Nat × Nat × Nat)} (hl : laid fs = true) (hf : Fits fs) {lo n : Nat} (h : apart lo n fs = true) :
    fld (wordOf fs) lo n = 0 := by
  induction fs generalizing lo n with
  | nil => simp [wordOf, fld_eq]
  | cons f r ih =>
    obtain ⟨-, hfr, hr⟩ := laid_cons hl
    obtain ⟨ho, hlo⟩ := apart_cons h
    rw [← ih hr hf.2 hlo]
    obtain ho | ho := ho
    · exact fld_add_below _ _ ho
    · exact fld_add_above (ih hr hf.2 hfr) hf.1 ho

/-- Two fields of which one is laid apart from a list that has the other lie apart. -/
theorem apart_any {lo n lo' n' : Nat} {r : List (Nat × Nat × Nat)} (h : apart lo n r = true)
    (hm : (r.any fun f => decide (f.1 = lo' ∧ f.2.1 = n')) = true) : lo + n ≤ lo' ∨ lo' + n' ≤ lo := by
  obtain ⟨f, hf, he⟩ := List.any_eq_true.mp hm
  obtain ⟨rfl, rfl⟩ := of_decide_eq_true he
  simpa using List.all_eq_true.mp h f hf

theorem valueAt_apart {fs : List (Nat × Nat × Nat)} {lo n : Nat} (hn : 0 < n) (h : apart lo n fs = true) : valueAt lo n fs = 0 := by
  induction fs with
  | nil => rfl
  | cons f r ih =>
    obtain ⟨ho, hlo⟩ := apart_cons h
    rw [valueAt, if_neg (by omega), ih hlo]

/-- A field of a word reads as its value, and bits of no field read as 0. -/
theorem fld_wordOf {fs : List (Nat × Nat × Nat)} (hl : laid fs = true) (hf : Fits fs) {lo n : Nat} (hn : 0 < n)
    (hr : readable lo n fs = true) : fld (wordOf fs) lo n = valueAt lo n fs := by
  obtain ha | hm := Bool.or_eq_true_iff.mp hr
  · rw [fld_wordOf_apart hl hf ha, valueAt_apart hn ha]
  · clear hr
    induction fs with
    | nil => simp at hm
    | cons f r ih =>
      obtain ⟨-, hfr, hlr⟩ := laid_cons hl
      have hz := fld_wordOf_apart hlr hf.2 hfr
      rw [valueAt]
      split
      · rename_i h
        obtain ⟨rfl, rfl⟩ := h
        exact fld_add_same hz hf.1
      · rename_i h
        have hm : (r.any fun f => decide (f.1 = lo ∧ f.2.1 = n)) = true := by simpa [h] using hm
        rw [← ih hlr hf.2 hm]
        obtain ho | ho := apart_any hfr hm
        · exact fld_add_above hz hf.1 ho
        · exact fld_add_below _ _ ho

theorem laid_apart {fs : List (Nat × Nat × Nat)} (hl : laid fs = true) (n : Nat) : apart 32 n fs = true := by
  induction fs with
  | nil => rfl
  | cons f r ih =>
    obtain ⟨hf, -, hr⟩ := laid_cons hl
    simp only [apart, List.all_cons, Bool.and_eq_true] at ih ⊢
    exact ⟨by simp [hf], ih hr⟩

theorem wordOf_lt {fs : List (Nat × Nat × Nat)} (hl : laid fs = true) (hf : Fits fs) : wordOf fs < 2 ^ 32 := by
  have h := fld_wordOf_apart hl hf (laid_apart hl (wordOf fs))
  rw [fld_eq, Nat.mod_eq_of_lt ((Nat.div_le_self _ _).trans_lt Nat.lt_two_pow_self)] at h
  exact (Nat.div_eq_zero_iff_lt (Nat.two_pow_pos 32)).mp h

/-! Operand fields. -/

theorem isSrc_of_isDst {a : Opnd} (h : a.isDst = true) (k : Nat) : a.isSrc k = true := by
  cases a <;> simp_all [Opnd.isDst, Opnd.isSrc]

theorem isDst_of_isReg {a : Opnd} (h : a.isReg = true) : a.isDst = true := by
  cases a <;> simp_all [Opnd.isDst, Opnd.isReg]

theorem isReg_of_isSReg {a : Opnd} (h : a.isSReg = true) : a.isReg = true := by
  cases a <;> simp_all [Opnd.isSReg, Opnd.isReg]

theorem code_lt_of_isSrc {a : Opnd} {k : Nat} (h : a.isSrc k = true) : a.code < 127 := by
  cases a <;> simp_all [Opnd.isSrc, Opnd.code] <;> omega

theorem code_lt_of_isDst {a : Opnd} (h : a.isDst = true) : a.code < 125 := by
  cases a <;> simp_all [Opnd.isDst, Opnd.code] <;> omega

@[simp] theorem dstOf_code {d : Opnd} (h : d.isDst = true) : dstOf d.code = .ok d := by
  cases d with
  | v n => simp_all [Opnd.isDst, Opnd.code, dstOf]
  | s n => simp_all [Opnd.isDst, Opnd.code, dstOf]; omega
  | zero => rfl
  | lane => cases h
  | lit x => cases h

@[simp] theorem regOf_code {d : Opnd} (h : d.isReg = true) : regOf d.code = .ok d := by
  cases d with
  | v n => simp_all [Opnd.isReg, Opnd.code, regOf]
  | s n => simp_all [Opnd.isReg, Opnd.code, regOf]; omega
  | _ => cases h

@[simp] theorem sregOf_code {d : Opnd} (h : d.isSReg = true) : sregOf d.code = .ok d := by
  cases d with
  | s n => simp_all [Opnd.isSReg, Opnd.code, sregOf]; omega
  | _ => cases h

theorem setWidth_back {x : BitVec 64} (h : x.toNat < 2 ^ 32) : (x.setWidth 32).setWidth 64 = x := by
  apply BitVec.eq_of_toNat_eq
  simp only [BitVec.toNat_setWidth]
  omega

theorem pairOf_words (x : BitVec 64) : pairOf (x.setWidth 32) ((x >>> 32).setWidth 32) = x := by
  apply BitVec.eq_of_toNat_eq
  simp only [pairOf, BitVec.toNat_append, BitVec.toNat_setWidth, BitVec.toNat_ushiftRight]
  rw [← Nat.shiftLeft_add_eq_or_of_lt (Nat.mod_lt _ (by decide)), Nat.shiftLeft_eq, Nat.shiftRight_eq_div_pow]
  omega

/-- A source field of one or two literal words reads back, with its literal words taken. -/
@[simp] theorem srcOf_code {a : Opnd} {k : Nat} (h : a.isSrc k = true) (hk : k = 1 ∨ k = 2) (ls : List Word) :
    srcOf k a.code (a.lits k ++ ls) = .ok (a, ls) := by
  cases a with
  | v n => simp_all [Opnd.isSrc, Opnd.code, srcOf, Opnd.lits]
  | s n => simp_all [Opnd.isSrc, Opnd.code, srcOf, Opnd.lits]; omega
  | zero => rfl
  | lane => rfl
  | lit x =>
    obtain rfl | rfl := hk
    · simp_all [Opnd.isSrc, Opnd.code, srcOf, Opnd.lits, setWidth_back]
    · simp_all [Opnd.isSrc, Opnd.code, srcOf, Opnd.lits, pairOf_words]

/-- `decodeWord` by the opcode. -/
def decodeOp (c : Cls) (op w : Nat) (ls : List Word) : Except Reject (Instr × List Word) :=
  if op = 0x7F then decPrefix w ls
  else if 0x60 ≤ op ∧ op < 0x70 then decCtl op w ls
  else
    match c with
    | .alu => decAlu op w ls
    | .xfn => decXfn op w ls
    | .mem => decMem op w ls
    | .mtx => decMtx op w ls
    | .win => decWin op w ls
    | .sync => decSync op w ls
    | .ctl => .error .unassigned
    | .sys => decSys op w ls

theorem decodeWord_eq (c : Cls) (w : Nat) (ls : List Word) : decodeWord c w ls = decodeOp c (fld w 25 7) w ls := rfl

/-- `litCount` by the opcode. -/
def litOp (c : Cls) (op w : Nat) : Nat :=
  if op = 0x7F then 0
  else if inRanges op [(0x60, 0x6F)] then (if op = 0x61 ∨ op = 0x63 then litX w 0 2 0 else 0)
  else
    match c with
    | .alu => litAlu op w
    | .xfn => litXfn op w
    | .mem => litMem op w
    | .mtx => litMtx op w
    | .sync => litSync op w
    | .sys => litSys op w
    | .win => litWin op w
    | .ctl => 0

theorem litCount_eq (c : Cls) (w : Nat) : litCount c w = litOp c (fld w 25 7) w := rfl

/-- What O56 asks of one instruction. -/
def RoundTrip (i : Instr) : Prop :=
  ∀ (e : Enc) (rest : List Word), encode i = some e →
    e.word < 2 ^ 32 ∧ litCount e.cls e.word = e.lits.length ∧ decodeWord e.cls e.word (e.lits ++ rest) = .ok (i, rest)

/-- An instruction comes back from its word where decoding and the literal count do on every word with its fields. -/
theorem roundTrip_of_fields {i : Instr} {c : Cls} {lits : List Word} (op : Nat) (fs : List (Nat × Nat × Nat))
    (he : encode i = some ⟨c, wordOf fs, lits⟩) (hl : laid fs = true) (ho : readable 25 7 fs = true) (hv : valueAt 25 7 fs = op)
    (hf : Fits fs)
    (h : ∀ w, (∀ lo n, 0 < n → readable lo n fs = true → fld w lo n = valueAt lo n fs) →
      litOp c op w = lits.length ∧ ∀ rest, decodeOp c op w (lits ++ rest) = .ok (i, rest)) :
    RoundTrip i := by
  intro e rest hi
  obtain rfl : _ = e := Option.some.inj (he.symm.trans hi)
  have hop : fld (wordOf fs) 25 7 = op := (fld_wordOf hl hf (by decide) ho).trans hv
  obtain ⟨hc, hd⟩ := h _ fun _ _ => fld_wordOf hl hf
  rw [litCount_eq, decodeWord_eq, hop]
  exact ⟨wordOf_lt hl hf, hc, hd rest⟩

theorem and_four {a b c d : Bool} (h : (a && b && c && d) = true) : a = true ∧ b = true ∧ c = true ∧ d = true := by
  simpa [and_assoc] using h

@[simp] theorem ok_bind {ε α β : Type} (x : α) (f : α → Except ε β) : ((.ok x : Except ε α) >>= f) = f x := rfl

@[simp] theorem bitAt_eq (w lo : Nat) : bitAt w lo = (fld w lo 1 == 1) := rfl

@[simp] theorem litX_eq (w d a b : Nat) : litX w d a b = litAt w 18 d + litAt w 11 a + litAt w 4 b := rfl

@[simp] theorem litAt_eq (w lo k : Nat) : litAt w lo k = if fld w lo 7 = 126 then k else 0 := rfl

@[simp] theorem inRanges_nil (n : Nat) : inRanges n [] = false := rfl

@[simp] theorem inRanges_cons (n : Nat) (r : Nat × Nat) (l : List (Nat × Nat)) :
    inRanges n (r :: l) = (decide (r.1 ≤ n) && decide (n ≤ r.2) || inRanges n l) := rfl

@[simp] theorem readable_eq (lo n : Nat) (fs : List (Nat × Nat × Nat)) :
    readable lo n fs = (apart lo n fs || fs.any fun f => decide (f.1 = lo ∧ f.2.1 = n)) := rfl

@[simp] theorem apart_nil (lo n : Nat) : apart lo n [] = true := rfl

@[simp] theorem apart_cons_eq (lo n : Nat) (f : Nat × Nat × Nat) (r : List (Nat × Nat × Nat)) :
    apart lo n (f :: r) = ((decide (lo + n ≤ f.1) || decide (f.1 + f.2.1 ≤ lo)) && apart lo n r) := rfl

@[simp] theorem valueAt_cons (lo n : Nat) (f : Nat × Nat × Nat) (r : List (Nat × Nat × Nat)) :
    valueAt lo n (f :: r) = if f.1 = lo ∧ f.2.1 = n then f.2.2 else valueAt lo n r := rfl

@[simp] theorem valueAt_nil (lo n : Nat) : valueAt lo n [] = 0 := rfl

@[simp] theorem bitOf_beq (b : Bool) : (bitOf b == 1) = b := by cases b <;> rfl

@[simp] theorem bitOf_lt (b : Bool) : bitOf b ≤ 1 := by cases b <;> decide

@[simp] theorem code_lt_128_of_isDst {a : Opnd} (h : a.isDst = true) : a.code < 128 := (code_lt_of_isDst h).trans (by decide)

@[simp] theorem code_ne_of_isDst {a : Opnd} (h : a.isDst = true) : a.code ≠ 126 := by have := code_lt_of_isDst h; omega

@[simp] theorem code_lt_of_isSrc1 {a : Opnd} (h : a.isSrc 1 = true) : a.code < 128 := (code_lt_of_isSrc h).trans (by decide)

@[simp] theorem code_lt_of_isSrc2 {a : Opnd} (h : a.isSrc 2 = true) : a.code < 128 := (code_lt_of_isSrc h).trans (by decide)

@[simp] theorem words_lit {a : Opnd} {k : Nat} (h : a.isSrc k = true) (hk : k = 1 ∨ k = 2) :
    (if a.code = 126 then k else 0) = (a.lits k).length := by
  cases a with
  | v n => exact if_neg (by simp only [Opnd.isSrc, Opnd.code, decide_eq_true_eq] at h ⊢; omega)
  | s n => exact if_neg (by simp only [Opnd.isSrc, Opnd.code, decide_eq_true_eq] at h ⊢; omega)
  | zero => rfl
  | lane => rfl
  | lit x => obtain rfl | rfl := hk <;> rfl

theorem and_two {a b : Bool} (h : (a && b) = true) : a = true ∧ b = true := by
  simpa [and_assoc] using h

theorem and_three {a b c : Bool} (h : (a && b && c) = true) : a = true ∧ b = true ∧ c = true := by
  simpa [and_assoc] using h

theorem and_five {a b c d e : Bool} (h : (a && b && c && d && e) = true) : a = true ∧ b = true ∧ c = true ∧ d = true ∧ e = true := by
  simpa [and_assoc] using h

theorem and_six {a b c d e f : Bool} (h : (a && b && c && d && e && f) = true) :
    a = true ∧ b = true ∧ c = true ∧ d = true ∧ e = true ∧ f = true := by
  simpa [and_assoc] using h

theorem and_seven {a b c d e f g : Bool} (h : (a && b && c && d && e && f && g) = true) :
    a = true ∧ b = true ∧ c = true ∧ d = true ∧ e = true ∧ f = true ∧ g = true := by
  simpa [and_assoc] using h

/-! The codes of formats, types and kinds. -/

@[simp] theorem need_fmt (x : Fmt) : need (Fmt.ofCode x.code) = .ok x := by cases x <;> rfl

@[simp] theorem fmt_code_lt (x : Fmt) : x.code < 16 := by cases x <;> decide

@[simp] theorem need_rnd (x : Rnd) : need (Rnd.ofCode x.code) = .ok x := by cases x <;> rfl

@[simp] theorem rnd_code_lt (x : Rnd) : x.code < 4 := by cases x <;> decide

@[simp] theorem need_iCond (x : ICond) : need (ICond.ofCode x.code) = .ok x := by cases x <;> rfl

@[simp] theorem iCond_code_lt (x : ICond) : x.code < 8 := by cases x <;> decide

@[simp] theorem need_fCond (x : FCond) : need (FCond.ofCode x.code) = .ok x := by cases x <;> rfl

@[simp] theorem fCond_code_lt (x : FCond) : x.code < 8 := by cases x <;> decide

@[simp] theorem need_shflMode (x : ShflMode) : need (ShflMode.ofCode x.code) = .ok x := by cases x <;> rfl

@[simp] theorem shflMode_code_lt (x : ShflMode) : x.code < 4 := by cases x <;> decide

@[simp] theorem need_voteMode (x : VoteMode) : need (VoteMode.ofCode x.code) = .ok x := by cases x <;> rfl

@[simp] theorem voteMode_code_lt (x : VoteMode) : x.code < 4 := by cases x <;> decide

@[simp] theorem need_lredOp (x : LredOp) : need (LredOp.ofCode x.code) = .ok x := by cases x <;> rfl

@[simp] theorem lredOp_code_lt (x : LredOp) : x.code < 4 := by cases x <;> decide

@[simp] theorem need_fFmt (x : FFmt) : need (FFmt.ofCode x.code) = .ok x := by cases x <;> rfl

@[simp] theorem fFmt_code_lt (x : FFmt) : x.code < 4 := by cases x <;> decide

@[simp] theorem need_intTy (x : IntTy) : need (IntTy.ofCode x.code) = .ok x := by cases x <;> rfl

@[simp] theorem intTy_code_lt (x : IntTy) : x.code < 8 := by cases x <;> decide

@[simp] theorem need_qTy (x : QTy) : need (QTy.ofCode x.code) = .ok x := by cases x <;> rfl

@[simp] theorem qTy_code_lt (x : QTy) : x.code < 4 := by cases x <;> decide

@[simp] theorem need_memTy (x : MemTy) : need (MemTy.ofCode x.code) = .ok x := by cases x <;> rfl

@[simp] theorem memTy_code_lt (x : MemTy) : x.code < 8 := by cases x <;> decide

@[simp] theorem need_aop (x : Aop) : need (Aop.ofCode x.code) = .ok x := by cases x <;> rfl

@[simp] theorem aop_code_lt (x : Aop) : x.code < 8 := by cases x <;> decide

@[simp] theorem need_aTy (x : ATy) : need (ATy.ofCode x.code) = .ok x := by cases x <;> rfl

@[simp] theorem aTy_code_lt (x : ATy) : x.code < 4 := by cases x <;> decide

@[simp] theorem need_mOrd (x : MOrd) : need (MOrd.ofCode x.code) = .ok x := by cases x <;> rfl

@[simp] theorem mOrd_code_lt (x : MOrd) : x.code < 4 := by cases x <;> decide

@[simp] theorem need_scope (x : Scope) : need (Scope.ofCode x.code) = .ok x := by cases x <;> rfl

@[simp] theorem scope_code_lt (x : Scope) : x.code < 8 := by cases x <;> decide

@[simp] theorem need_fenceKind (x : FenceKind) : need (FenceKind.ofCode x.code) = .ok x := by cases x <;> rfl

@[simp] theorem fenceKind_code_lt (x : FenceKind) : x.code < 4 := by cases x <;> decide

@[simp] theorem need_ctr (x : Ctr) : need (Ctr.ofCode x.code) = .ok x := by cases x <;> rfl

@[simp] theorem ctr_code_lt (x : Ctr) : x.code < 4 := by cases x <;> decide

@[simp] theorem need_sFmt (x : SFmt) : need (SFmt.ofCode x.code) = .ok x := by cases x <;> rfl

@[simp] theorem sFmt_code_lt (x : SFmt) : x.code < 8 := by cases x <;> decide

@[simp] theorem need_wFrom (x : WFrom) : need (WFrom.ofCode x.code) = .ok x := by cases x <;> rfl

@[simp] theorem wFrom_code_lt (x : WFrom) : x.code < 4 := by cases x <;> decide

@[simp] theorem fmt_words (x : Fmt) : x.words = 1 ∨ x.words = 2 := by cases x <;> decide

@[simp] theorem fFmt_words (x : FFmt) : x.words = 1 ∨ x.words = 2 := by cases x <;> decide

@[simp] theorem intTy_words (x : IntTy) : x.words = 1 ∨ x.words = 2 := by cases x <;> decide

@[simp] theorem lredOp_words (x : LredOp) : x.words = 1 ∨ x.words = 2 := by cases x <;> decide

@[simp] theorem fCond_words (x : FCond) : x.words = 1 ∨ x.words = 2 := by cases x <;> decide

@[simp] theorem memTy_words (x : MemTy) : x.words = 1 ∨ x.words = 2 := by cases x <;> decide

@[simp] theorem aTy_words (x : ATy) : x.words = 1 ∨ x.words = 2 := by cases x <;> decide

/-! How many words an operand of a format or type takes, by its code. -/

@[simp] theorem fCond_two (c : FCond) : (if 4 ≤ c.code then 2 else 1) = c.words := by cases c <;> rfl

@[simp] theorem fmt_two (f : Fmt) : (if f.code = 1 then 2 else 1) = f.words := by cases f <;> rfl

@[simp] theorem fFmt_two (f : FFmt) : (if f.code = 1 then 2 else 1) = f.words := by cases f <;> rfl

@[simp] theorem intTy_two (i : IntTy) : (if 6 ≤ i.code then 2 else 1) = i.words := by cases i <;> rfl

@[simp] theorem memTy_two (t : MemTy) : (if t.code = 5 then 2 else 1) = t.words := by cases t <;> rfl

@[simp] theorem aTy_two (t : ATy) : (if 2 ≤ t.code then 2 else 1) = t.words := by cases t <;> rfl

/-! Registers. -/

@[simp] theorem code_lt_of_isReg {a : Opnd} (h : a.isReg = true) : a.code < 128 := code_lt_128_of_isDst (isDst_of_isReg h)

@[simp] theorem code_ne_of_isReg {a : Opnd} (h : a.isReg = true) : a.code ≠ 126 := code_ne_of_isDst (isDst_of_isReg h)

@[simp] theorem code_lt_of_isSReg {a : Opnd} (h : a.isSReg = true) : a.code < 128 := code_lt_of_isReg (isReg_of_isSReg h)

@[simp] theorem code_ne_of_isSReg {a : Opnd} (h : a.isSReg = true) : a.code ≠ 126 := code_ne_of_isReg (isReg_of_isSReg h)

theorem code_lt_128 {a : Opnd} {k : Nat} (h : a.isSrc k = true) : a.code < 128 := (code_lt_of_isSrc h).trans (by decide)

@[simp] theorem code_eq_zero_iff {a : Opnd} (h : a.isSrc 2 = true) : a.code = 124 ↔ a = .zero := by
  cases a <;> simp_all [Opnd.isSrc, Opnd.code] <;> omega

@[simp] theorem lits_of_isDst {a : Opnd} (h : a.isDst = true) (k : Nat) : a.lits k = [] := by
  cases a <;> simp_all [Opnd.isDst, Opnd.lits]

@[simp] theorem lits_of_isReg {a : Opnd} (h : a.isReg = true) (k : Nat) : a.lits k = [] := lits_of_isDst (isDst_of_isReg h) k

@[simp] theorem bitOf_eq_one (b : Bool) : bitOf b = 1 ↔ b = true := by cases b <;> decide

@[simp] theorem bitOf_eq_zero (b : Bool) : bitOf b = 0 ↔ b = false := by cases b <;> decide

@[simp] theorem bitOf_add_one (b : Bool) : bitOf b + 1 = if b then 2 else 1 := by cases b <;> rfl

@[simp] theorem two_sub_bitOf (b : Bool) : 2 - bitOf b = if b then 1 else 2 := by cases b <;> rfl

@[simp] theorem one_or_two (c : Prop) [Decidable c] : (if c then 1 else 2) = 1 ∨ (if c then 1 else 2) = 2 := by
  split <;> simp

@[simp] theorem two_or_one (c : Prop) [Decidable c] : (if c then 2 else 1) = 1 ∨ (if c then 2 else 1) = 2 := by
  split <;> simp

@[simp] theorem code6_lt {p : Opnd} (h : p.isPair6 = true) : p.code6 < 64 := by
  cases p <;> simp_all [Opnd.isPair6, Opnd.code6] <;> omega

@[simp] theorem pair6Of_code6 {p : Opnd} (h : p.isPair6 = true) (ls : List Word) :
    pair6Of p.code6 (p.lits 2 ++ ls) = .ok (p, ls) := by
  cases p with
  | v n =>
    obtain ⟨hn, he⟩ := of_decide_eq_true h
    have h48 : n / 2 < 48 := by omega
    have h2 : 2 * (n / 2) = n := by omega
    simp [pair6Of, Opnd.code6, Opnd.lits, h48, h2]
  | s n =>
    obtain ⟨hn, he⟩ := of_decide_eq_true h
    have h62 : 48 + n / 2 < 62 := by omega
    have h2 : 2 * (n / 2) = n := by omega
    simp [pair6Of, Opnd.code6, Opnd.lits, h62, h2]
  | lit x => simp [pair6Of, Opnd.code6, Opnd.lits, pairOf_words]
  | zero => cases h
  | lane => cases h

@[simp] theorem words_pair6 {p : Opnd} (h : p.isPair6 = true) : (if p.code6 = 63 then 2 else 0) = (p.lits 2).length := by
  cases p with
  | v n =>
    obtain ⟨hn, he⟩ := of_decide_eq_true h
    exact if_neg (by simp only [Opnd.code6]; omega)
  | s n =>
    obtain ⟨hn, he⟩ := of_decide_eq_true h
    exact if_neg (by simp only [Opnd.code6]; omega)
  | lit x => rfl
  | zero => cases h
  | lane => cases h

/-! The words of one form, by their opcode. -/

/-- A three-operand word with a guard. -/
theorem rrr_roundTrip {mk : Opnd → Opnd → Opnd → Nat → Instr} {c : Cls} {op kd ka kb : Nat} {d a b : Opnd} {g : Nat}
    (he : encode (mk d a b g) = encRRR c op ka kb d a b g) (hop : op < 128) (hka : ka = 1 ∨ ka = 2) (hkb : kb = 1 ∨ kb = 2)
    (hc : ∀ w, litOp c op w = litX w kd ka kb) (hd : ∀ w ls, decodeOp c op w ls = decRRR mk ka kb w ls)
    (h : (d.isDst && a.isSrc ka && b.isSrc kb && decide (g < 16)) = true) : RoundTrip (mk d a b g) := by
  obtain ⟨hdst, ha, hb, hg⟩ := and_four h
  have hw : wordOf [(0, 4, g), (4, 7, b.code), (11, 7, a.code), (18, 7, d.code), (25, 7, op)] =
      op * 2 ^ 25 + d.code * 2 ^ 18 + a.code * 2 ^ 11 + b.code * 2 ^ 4 + g := by
    simp only [wordOf_cons, wordOf_nil]
    omega
  refine roundTrip_of_fields op [(0, 4, g), (4, 7, b.code), (11, 7, a.code), (18, 7, d.code), (25, 7, op)]
    (he.trans (by rw [hw]; rfl)) rfl rfl rfl ?_ fun w hr => ⟨?_, fun rest => ?_⟩
  · simp_all [Fits, code_lt_128 ha, code_lt_128 hb]
  · simp [*]
  · simp [decRRR, *]

/-- A unary word. -/
theorem un_roundTrip {mk : Opnd → Opnd → Nat → Instr} {c : Cls} {op kd kb : Nat} {d a : Opnd} {g : Nat}
    (he : encode (mk d a g) = encUn c op d a g) (hop : op < 128)
    (hc : ∀ w, litOp c op w = litX w kd 1 kb) (hd : ∀ w ls, decodeOp c op w ls = decUn mk w ls)
    (h : (d.isDst && a.isSrc 1 && decide (g < 16)) = true) : RoundTrip (mk d a g) := by
  obtain ⟨hdst, ha, hg⟩ := and_three h
  have hw : wordOf [(0, 4, g), (4, 7, 124), (11, 7, a.code), (18, 7, d.code), (25, 7, op)] =
      op * 2 ^ 25 + d.code * 2 ^ 18 + a.code * 2 ^ 11 + 124 * 2 ^ 4 + g := by
    simp only [wordOf_cons, wordOf_nil]
    omega
  refine roundTrip_of_fields op [(0, 4, g), (4, 7, 124), (11, 7, a.code), (18, 7, d.code), (25, 7, op)]
    (he.trans (by rw [hw]; rfl)) rfl rfl rfl ?_ fun w hr => ⟨?_, fun rest => ?_⟩
  · simp_all [Fits]
  · simp [*]
  · simp [decUn, *]

/-- An immediate word. -/
theorem ri_roundTrip {mk : Opnd → Opnd → Nat → Instr} {op : Nat} {d a : Opnd} {i : Nat}
    (he : encode (mk d a i) = encRI .alu op d a i) (hop : op < 128)
    (hc : ∀ w, litOp .alu op w = litX w 1 1 0) (hd : ∀ w ls, decodeOp .alu op w ls = decRI mk w ls)
    (h : (d.isDst && a.isSrc 1 && decide (i < 2048)) = true) : RoundTrip (mk d a i) := by
  obtain ⟨hdst, ha, hi⟩ := and_three h
  have hw : wordOf [(0, 11, i), (11, 7, a.code), (18, 7, d.code), (25, 7, op)] =
      op * 2 ^ 25 + d.code * 2 ^ 18 + a.code * 2 ^ 11 + i := by
    simp only [wordOf_cons, wordOf_nil]
    omega
  refine roundTrip_of_fields op [(0, 11, i), (11, 7, a.code), (18, 7, d.code), (25, 7, op)]
    (he.trans (by rw [hw]; rfl)) rfl rfl rfl ?_ fun w hr => ⟨?_, fun rest => ?_⟩
  · simp_all [Fits]
  · simp [*]
  · simp [decRI, *]

/-- A word whose only field is its guard. -/
theorem g_roundTrip {mk : Nat → Instr} {c : Cls} {op g : Nat} (he : encode (mk g) = encCode c op 0 g) (hop : op < 128)
    (hc : ∀ w, litOp c op w = 0) (hd : ∀ w ls, decodeOp c op w ls = decG mk w ls) (h : decide (g < 16) = true) :
    RoundTrip (mk g) := by
  have hg := of_decide_eq_true h
  have hw : wordOf [(0, 4, g), (25, 7, op)] = op * 2 ^ 25 + 0 * 2 ^ 4 + g := by
    simp only [wordOf_cons, wordOf_nil]
    omega
  refine roundTrip_of_fields op [(0, 4, g), (25, 7, op)]
    (he.trans (by rw [hw]; rfl)) rfl rfl rfl ?_ fun w hr => ⟨?_, fun rest => ?_⟩
  · simp_all [Fits]
  · simp [*]
  · simp [decG, *]

/-- A word with a code and a guard. -/
theorem code_roundTrip {mk : Nat → Nat → Instr} {c : Cls} {op k g : Nat} (he : encode (mk k g) = encCode c op k g)
    (hop : op < 128) (hc : ∀ w, litOp c op w = 0) (hd : ∀ w ls, decodeOp c op w ls = decCode mk w ls)
    (h : (decide (k < 65536) && decide (g < 16)) = true) : RoundTrip (mk k g) := by
  obtain ⟨hk, hg⟩ := and_two h
  have hw : wordOf [(0, 4, g), (4, 16, k), (25, 7, op)] = op * 2 ^ 25 + k * 2 ^ 4 + g := by
    simp only [wordOf_cons, wordOf_nil]
    omega
  refine roundTrip_of_fields op [(0, 4, g), (4, 16, k), (25, 7, op)]
    (he.trans (by rw [hw]; rfl)) rfl rfl rfl ?_ fun w hr => ⟨?_, fun rest => ?_⟩
  · simp_all [Fits]
  · simp [*]
  · simp [decCode, *]

/-! The words of one entry each. -/

theorem movi_roundTrip {d : Opnd} {i : Nat} (h : (Instr.movi d i).wf = true) : RoundTrip (.movi d i) := by
  obtain ⟨hd, hi⟩ := and_two h
  refine roundTrip_of_fields 0x01 [(18, 7, d.code), (0, 11, i), (11, 7, 124), (25, 7, 0x01)]
    rfl rfl rfl rfl ?_ fun w hr => ⟨?_, fun rest => ?_⟩
  · simp_all [Fits]
  · simp [litOp, litAlu, *]
  · simp [decodeOp, decAlu, *]

theorem sel_roundTrip {d a b : Opnd} {q : Nat} (h : (Instr.sel d a b q).wf = true) : RoundTrip (.sel d a b q) := by
  obtain ⟨hd, ha, hb, hq⟩ := and_four h
  refine roundTrip_of_fields 0x02 [(18, 7, d.code), (11, 7, a.code), (4, 7, b.code), (0, 4, q), (25, 7, 0x02)]
    rfl rfl rfl rfl ?_ fun w hr => ⟨?_, fun rest => ?_⟩
  · simp_all [Fits]
  · simp [litOp, litAlu, *]
  · simp [decodeOp, decAlu, *]

theorem shli_roundTrip {d a : Opnd} {i : Nat} (h : (Instr.shli d a i).wf = true) : RoundTrip (.shli d a i) := by
  obtain ⟨hd, ha, hi⟩ := and_three h
  refine roundTrip_of_fields 0x34 [(18, 7, d.code), (11, 7, a.code), (0, 5, i), (25, 7, 0x34)]
    rfl rfl rfl rfl ?_ fun w hr => ⟨?_, fun rest => ?_⟩
  · simp_all [Fits]
  · simp [litOp, litAlu, *]
  · simp [decodeOp, decAlu, *]

theorem shri_roundTrip {d a : Opnd} {i : Nat} (h : (Instr.shri d a i).wf = true) : RoundTrip (.shri d a i) := by
  obtain ⟨hd, ha, hi⟩ := and_three h
  refine roundTrip_of_fields 0x35 [(18, 7, d.code), (11, 7, a.code), (0, 5, i), (25, 7, 0x35)]
    rfl rfl rfl rfl ?_ fun w hr => ⟨?_, fun rest => ?_⟩
  · simp_all [Fits]
  · simp [litOp, litAlu, *]
  · simp [decodeOp, decAlu, *]

theorem sari_roundTrip {d a : Opnd} {i : Nat} (h : (Instr.sari d a i).wf = true) : RoundTrip (.sari d a i) := by
  obtain ⟨hd, ha, hi⟩ := and_three h
  refine roundTrip_of_fields 0x36 [(18, 7, d.code), (11, 7, a.code), (0, 5, i), (25, 7, 0x36)]
    rfl rfl rfl rfl ?_ fun w hr => ⟨?_, fun rest => ?_⟩
  · simp_all [Fits]
  · simp [litOp, litAlu, *]
  · simp [decodeOp, decAlu, *]

theorem lea_roundTrip {d a b : Opnd} {sh : Nat} {sx : Bool} (h : (Instr.lea d a b sh sx).wf = true) : RoundTrip (.lea d a b sh sx) := by
  obtain ⟨hd, ha, hb, hsh⟩ := and_four h
  refine roundTrip_of_fields 0x38 [(18, 7, d.code), (11, 7, a.code), (4, 7, b.code), (1, 3, sh), (0, 1, bitOf sx), (25, 7, 0x38)]
    rfl rfl rfl rfl ?_ fun w hr => ⟨?_, fun rest => ?_⟩
  · simp_all [Fits]
  · simp [litOp, litAlu, *]
  · simp [decodeOp, decAlu, *]

theorem icmp_roundTrip {p : Nat} {c : ICond} {a b : Opnd} {g : Nat} (h : (Instr.icmp p c a b g).wf = true) : RoundTrip (.icmp p c a b g) := by
  obtain ⟨hp, ha, hb, hg⟩ := and_four h
  refine roundTrip_of_fields 0x40 [(21, 4, p), (18, 3, c.code), (11, 7, a.code), (4, 7, b.code), (0, 4, g), (25, 7, 0x40)]
    rfl rfl rfl rfl ?_ fun w hr => ⟨?_, fun rest => ?_⟩
  · simp_all [Fits]
  · simp [litOp, litAlu, *]
  · simp [decodeOp, decAlu, *]

theorem pand_roundTrip {p a b : Nat} {na nb : Bool} {g : Nat} (h : (Instr.pand p a b na nb g).wf = true) : RoundTrip (.pand p a b na nb g) := by
  obtain ⟨hp, ha, hb, hg⟩ := and_four h
  refine roundTrip_of_fields 0x41 [(21, 4, p), (17, 4, a), (13, 4, b), (12, 1, bitOf na), (11, 1, bitOf nb), (0, 4, g), (25, 7, 0x41)]
    rfl rfl rfl rfl ?_ fun w hr => ⟨?_, fun rest => ?_⟩
  · simp_all [Fits]
  · simp [litOp, litAlu, *]
  · simp [decodeOp, decAlu, *]

theorem por_roundTrip {p a b : Nat} {na nb : Bool} {g : Nat} (h : (Instr.por p a b na nb g).wf = true) : RoundTrip (.por p a b na nb g) := by
  obtain ⟨hp, ha, hb, hg⟩ := and_four h
  refine roundTrip_of_fields 0x42 [(21, 4, p), (17, 4, a), (13, 4, b), (12, 1, bitOf na), (11, 1, bitOf nb), (0, 4, g), (25, 7, 0x42)]
    rfl rfl rfl rfl ?_ fun w hr => ⟨?_, fun rest => ?_⟩
  · simp_all [Fits]
  · simp [litOp, litAlu, *]
  · simp [decodeOp, decAlu, *]

theorem pxor_roundTrip {p a b : Nat} {na nb : Bool} {g : Nat} (h : (Instr.pxor p a b na nb g).wf = true) : RoundTrip (.pxor p a b na nb g) := by
  obtain ⟨hp, ha, hb, hg⟩ := and_four h
  refine roundTrip_of_fields 0x43 [(21, 4, p), (17, 4, a), (13, 4, b), (12, 1, bitOf na), (11, 1, bitOf nb), (0, 4, g), (25, 7, 0x43)]
    rfl rfl rfl rfl ?_ fun w hr => ⟨?_, fun rest => ?_⟩
  · simp_all [Fits]
  · simp [litOp, litAlu, *]
  · simp [decodeOp, decAlu, *]

theorem pnot_roundTrip {p a g : Nat} (h : (Instr.pnot p a g).wf = true) : RoundTrip (.pnot p a g) := by
  obtain ⟨hp, ha, hg⟩ := and_three h
  refine roundTrip_of_fields 0x44 [(21, 4, p), (17, 4, a), (0, 4, g), (25, 7, 0x44)]
    rfl rfl rfl rfl ?_ fun w hr => ⟨?_, fun rest => ?_⟩
  · simp_all [Fits]
  · simp [litOp, litAlu, *]
  · simp [decodeOp, decAlu, *]

theorem p2v_roundTrip {d : Opnd} {g : Nat} (h : (Instr.p2v d g).wf = true) : RoundTrip (.p2v d g) := by
  obtain ⟨hd, hg⟩ := and_two h
  refine roundTrip_of_fields 0x45 [(18, 7, d.code), (0, 4, g), (4, 14, 15996), (25, 7, 0x45)]
    rfl rfl rfl rfl ?_ fun w hr => ⟨?_, fun rest => ?_⟩
  · simp_all [Fits]
  · have hu : fld w 4 14 = 15996 := hr 4 14 (by decide) rfl
    have ha : fld w 11 7 = 124 := by rw [fld_eq] at hu ⊢; omega
    have hb : fld w 4 7 = 124 := by rw [fld_eq] at hu ⊢; omega
    simp [litOp, litAlu, *]
  · simp [decodeOp, decAlu, *]

theorem v2p_roundTrip {a b : Opnd} {g : Nat} (h : (Instr.v2p a b g).wf = true) : RoundTrip (.v2p a b g) := by
  obtain ⟨ha, hb, hg⟩ := and_three h
  refine roundTrip_of_fields 0x46 [(11, 7, a.code), (4, 7, b.code), (0, 4, g), (18, 7, 124), (25, 7, 0x46)]
    rfl rfl rfl rfl ?_ fun w hr => ⟨?_, fun rest => ?_⟩
  · simp_all [Fits]
  · simp [litOp, litAlu, *]
  · simp [decodeOp, decAlu, *]

theorem shfl_roundTrip {d a b : Opnd} {m : ShflMode} (h : (Instr.shfl d a b m).wf = true) : RoundTrip (.shfl d a b m) := by
  obtain ⟨hd, ha, hb⟩ := and_three h
  refine roundTrip_of_fields 0x48 [(18, 7, d.code), (11, 7, a.code), (4, 7, b.code), (2, 2, m.code), (25, 7, 0x48)]
    rfl rfl rfl rfl ?_ fun w hr => ⟨?_, fun rest => ?_⟩
  · simp_all [Fits]
  · simp [litOp, litAlu, *]
  · simp [decodeOp, decAlu, *]

theorem vote_roundTrip {p a : Nat} {na : Bool} {m : VoteMode} {g : Nat} (h : (Instr.vote p a na m g).wf = true) : RoundTrip (.vote p a na m g) := by
  obtain ⟨hp, ha, hg⟩ := and_three h
  refine roundTrip_of_fields 0x49 [(21, 4, p), (17, 4, a), (16, 1, bitOf na), (14, 2, m.code), (0, 4, g), (25, 7, 0x49)]
    rfl rfl rfl rfl ?_ fun w hr => ⟨?_, fun rest => ?_⟩
  · simp_all [Fits]
  · simp [litOp, litAlu, *]
  · simp [decodeOp, decAlu, *]

theorem ballot_roundTrip {d : Opnd} {a : Nat} {na : Bool} {g : Nat} (h : (Instr.ballot d a na g).wf = true) : RoundTrip (.ballot d a na g) := by
  obtain ⟨hd, ha, hg⟩ := and_three h
  refine roundTrip_of_fields 0x4A [(18, 7, d.code), (14, 4, a), (13, 1, bitOf na), (0, 4, g), (25, 7, 0x4A)]
    rfl rfl rfl rfl ?_ fun w hr => ⟨?_, fun rest => ?_⟩
  · simp_all [Fits]
  · simp [litOp, litAlu, *]
  · simp [decodeOp, decAlu, *]

theorem lred_roundTrip {d a b : Opnd} {o : LredOp} (h : (Instr.lred d a b o).wf = true) : RoundTrip (.lred d a b o) := by
  obtain ⟨hd, ha, hb⟩ := and_three h
  refine roundTrip_of_fields 0x4C [(18, 7, d.code), (11, 7, a.code), (4, 7, b.code), (2, 2, o.code), (25, 7, 0x4C)]
    rfl rfl rfl rfl ?_ fun w hr => ⟨?_, fun rest => ?_⟩
  · simp_all [Fits, code_lt_128 ha]
  · have ho : fld w 2 2 = o.code := hr 2 2 (by decide) rfl
    have hl : litAlu 0x4C w = litX w o.words o.words 1 := by
      simp only [litAlu, ho]
      cases o <;> rfl
    simp [litOp, *]
  · simp [decodeOp, decAlu, *]

theorem fcmp_roundTrip {p : Nat} {c : FCond} {a b : Opnd} {g : Nat} (h : (Instr.fcmp p c a b g).wf = true) : RoundTrip (.fcmp p c a b g) := by
  obtain ⟨hp, ha, hb, hg⟩ := and_four h
  refine roundTrip_of_fields 0x07 [(21, 4, p), (18, 3, c.code), (11, 7, a.code), (4, 7, b.code), (0, 4, g), (25, 7, 0x07)]
    rfl rfl rfl rfl ?_ fun w hr => ⟨?_, fun rest => ?_⟩
  · simp_all [Fits, code_lt_128 ha, code_lt_128 hb]
  · simp [litOp, litXfn, *]
  · simp [decodeOp, decXfn, *]

theorem fclass_roundTrip {d a : Opnd} {f : Fmt} {g : Nat} (h : (Instr.fclass d a f g).wf = true) : RoundTrip (.fclass d a f g) := by
  obtain ⟨hd, ha, hg, hf⟩ := and_four h
  have hf := of_decide_eq_true hf
  refine roundTrip_of_fields 0x08 [(18, 7, d.code), (11, 7, a.code), (7, 4, f.code), (0, 4, g), (25, 7, 0x08)]
    rfl rfl rfl rfl ?_ fun w hr => ⟨?_, fun rest => ?_⟩
  · simp_all [Fits, code_lt_128 ha]
  · simp [litOp, litXfn, *]
  · simp [decodeOp, decXfn, *]

theorem cvt_roundTrip {d a : Opnd} {df sf : Fmt} {r : Rnd} {sat : Bool} (h : (Instr.cvt d a df sf r sat).wf = true) : RoundTrip (.cvt d a df sf r sat) := by
  obtain ⟨hd, ha, hfmt⟩ := and_three h
  have hfmt := of_decide_eq_true hfmt
  refine roundTrip_of_fields 0x20 [(18, 7, d.code), (11, 7, a.code), (7, 4, df.code), (3, 4, sf.code), (1, 2, r.code), (0, 1, bitOf sat), (25, 7, 0x20)]
    rfl rfl rfl rfl ?_ fun w hr => ⟨?_, fun rest => ?_⟩
  · simp_all [Fits, code_lt_128 ha]
  · simp [litOp, litXfn, *]
  · simp [decodeOp, decXfn, *]

theorem cvtiF2i_roundTrip {d a : Opnd} {f : FFmt} {i : IntTy} {r : Rnd} (h : (Instr.cvtiF2i d a f i r).wf = true) : RoundTrip (.cvtiF2i d a f i r) := by
  obtain ⟨hd, ha⟩ := and_two h
  refine roundTrip_of_fields 0x21 [(18, 7, d.code), (11, 7, a.code), (8, 2, f.code), (5, 3, i.code), (3, 2, r.code), (25, 7, 0x21)]
    rfl rfl rfl rfl ?_ fun w hr => ⟨?_, fun rest => ?_⟩
  · simp_all [Fits, code_lt_128 ha]
  · simp [litOp, litXfn, *, litCvti]
  · simp [decodeOp, decXfn, *]

theorem cvtiI2f_roundTrip {d a : Opnd} {f : FFmt} {i : IntTy} {r : Rnd} (h : (Instr.cvtiI2f d a f i r).wf = true) : RoundTrip (.cvtiI2f d a f i r) := by
  obtain ⟨hd, ha⟩ := and_two h
  refine roundTrip_of_fields 0x21 [(18, 7, d.code), (11, 7, a.code), (8, 2, f.code), (5, 3, i.code), (3, 2, r.code), (10, 1, 1), (25, 7, 0x21)]
    rfl rfl rfl rfl ?_ fun w hr => ⟨?_, fun rest => ?_⟩
  · simp_all [Fits, code_lt_128 ha]
  · simp [litOp, litXfn, *, litCvti]
  · simp [decodeOp, decXfn, *]

theorem pack_roundTrip {d a : Opnd} {df : Fmt} {pos : Nat} {r : Rnd} {sat : Bool} (h : (Instr.pack d a df pos r sat).wf = true) : RoundTrip (.pack d a df pos r sat) := by
  obtain ⟨hd, ha, hpos, hfmt⟩ := and_four h
  have hfmt := of_decide_eq_true hfmt
  refine roundTrip_of_fields 0x22 [(18, 7, d.code), (11, 7, a.code), (7, 4, df.code), (4, 3, pos), (2, 2, r.code), (1, 1, bitOf sat), (25, 7, 0x22)]
    rfl rfl rfl rfl ?_ fun w hr => ⟨?_, fun rest => ?_⟩
  · simp_all [Fits]
  · simp [litOp, litXfn, *]
  · simp [decodeOp, decXfn, *]

theorem unpk_roundTrip {d a : Opnd} {sf : Fmt} {pos : Nat} (h : (Instr.unpk d a sf pos).wf = true) : RoundTrip (.unpk d a sf pos) := by
  obtain ⟨hd, ha, hpos, hfmt⟩ := and_four h
  have hfmt := of_decide_eq_true hfmt
  refine roundTrip_of_fields 0x23 [(18, 7, d.code), (11, 7, a.code), (7, 4, sf.code), (4, 3, pos), (25, 7, 0x23)]
    rfl rfl rfl rfl ?_ fun w hr => ⟨?_, fun rest => ?_⟩
  · simp_all [Fits]
  · simp [litOp, litXfn, *]
  · simp [decodeOp, decXfn, *]

theorem split6_roundTrip {d a : Opnd} {g : Nat} (h : (Instr.split6 d a g).wf = true) : RoundTrip (.split6 d a g) := by
  obtain ⟨hd, ha, hg⟩ := and_three h
  refine roundTrip_of_fields 0x24 [(18, 7, d.code), (11, 7, a.code), (0, 4, g), (25, 7, 0x24)]
    rfl rfl rfl rfl ?_ fun w hr => ⟨?_, fun rest => ?_⟩
  · simp_all [Fits]
  · simp [litOp, litXfn, *]
  · simp [decodeOp, decXfn, *]

theorem join6_roundTrip {d a : Opnd} {g : Nat} (h : (Instr.join6 d a g).wf = true) : RoundTrip (.join6 d a g) := by
  obtain ⟨hd, ha, hg⟩ := and_three h
  refine roundTrip_of_fields 0x25 [(18, 7, d.code), (11, 7, a.code), (0, 4, g), (25, 7, 0x25)]
    rfl rfl rfl rfl ?_ fun w hr => ⟨?_, fun rest => ?_⟩
  · simp_all [Fits]
  · simp [litOp, litXfn, *]
  · simp [decodeOp, decXfn, *]

theorem qzpRec_roundTrip {d a b : Opnd} {i : QTy} (h : (Instr.qzpRec d a b i).wf = true) : RoundTrip (.qzpRec d a b i) := by
  obtain ⟨hd, ha, hb⟩ := and_three h
  refine roundTrip_of_fields 0x26 [(18, 7, d.code), (11, 7, a.code), (4, 7, b.code), (2, 2, i.code), (25, 7, 0x26)]
    rfl rfl rfl rfl ?_ fun w hr => ⟨?_, fun rest => ?_⟩
  · simp_all [Fits]
  · simp [litOp, litXfn, *]
  · simp [decodeOp, decXfn, *]

theorem qzpQ_roundTrip {d a b : Opnd} {i : QTy} (h : (Instr.qzpQ d a b i).wf = true) : RoundTrip (.qzpQ d a b i) := by
  obtain ⟨hd, ha, hb⟩ := and_three h
  refine roundTrip_of_fields 0x26 [(18, 7, d.code), (11, 7, a.code), (4, 7, b.code), (2, 2, i.code), (0, 2, 2), (25, 7, 0x26)]
    rfl rfl rfl rfl ?_ fun w hr => ⟨?_, fun rest => ?_⟩
  · simp_all [Fits]
  · simp [litOp, litXfn, *]
  · simp [decodeOp, decXfn, *]

theorem dq_roundTrip {d a b : Opnd} {i : QTy} (h : (Instr.dq d a b i).wf = true) : RoundTrip (.dq d a b i) := by
  obtain ⟨hd, ha, hb⟩ := and_three h
  refine roundTrip_of_fields 0x27 [(18, 7, d.code), (11, 7, a.code), (4, 7, b.code), (2, 2, i.code), (25, 7, 0x27)]
    rfl rfl rfl rfl ?_ fun w hr => ⟨?_, fun rest => ?_⟩
  · simp_all [Fits]
  · simp [litOp, litXfn, *]
  · simp [decodeOp, decXfn, *]

theorem scalex_roundTrip {d a : Opnd} {t : Fmt} {g : Nat} (h : (Instr.scalex d a t g).wf = true) : RoundTrip (.scalex d a t g) := by
  obtain ⟨hd, ha, hg, ht⟩ := and_four h
  have ht := of_decide_eq_true ht
  refine roundTrip_of_fields 0x29 [(18, 7, d.code), (11, 7, a.code), (7, 4, t.code), (0, 4, g), (25, 7, 0x29)]
    rfl rfl rfl rfl ?_ fun w hr => ⟨?_, fun rest => ?_⟩
  · simp_all [Fits]
  · simp [litOp, litXfn, *]
  · simp [decodeOp, decXfn, *]

theorem scacc_roundTrip {d a b : Opnd} {f16 : Bool} (h : (Instr.scacc d a b f16).wf = true) : RoundTrip (.scacc d a b f16) := by
  obtain ⟨hd, ha, hb⟩ := and_three h
  refine roundTrip_of_fields 0x2A [(18, 7, d.code), (11, 7, a.code), (4, 7, b.code), (0, 1, bitOf f16), (25, 7, 0x2A)]
    rfl rfl rfl rfl ?_ fun w hr => ⟨?_, fun rest => ?_⟩
  · simp_all [Fits]
  · simp [litOp, litXfn, *]
  · simp [decodeOp, decXfn, *]

theorem osmx_roundTrip {d a b : Opnd} {g : Nat} (h : (Instr.osmx d a b g).wf = true) : RoundTrip (.osmx d a b g) := by
  obtain ⟨hd, ha, hb, hg⟩ := and_four h
  refine roundTrip_of_fields 0x38 [(18, 7, d.code), (11, 7, a.code), (4, 7, b.code), (0, 4, g), (25, 7, 0x38)]
    rfl rfl rfl rfl ?_ fun w hr => ⟨?_, fun rest => ?_⟩
  · simp_all [Fits, code_lt_128 ha]
  · by_cases hz : b = .zero <;> simp_all [litOp, litXfn]
  · by_cases hz : b = .zero <;> simp_all [decodeOp, decXfn]

theorem ld_roundTrip {d a b : Opnd} {t : MemTy} {acq : Bool} (h : (Instr.ld d a b t acq).wf = true) : RoundTrip (.ld d a b t acq) := by
  obtain ⟨hd, ha, hb⟩ := and_three h
  refine roundTrip_of_fields 0x00 [(18, 7, d.code), (11, 7, a.code), (4, 7, b.code), (1, 3, t.code), (0, 1, bitOf acq), (25, 7, 0x00)]
    rfl rfl rfl rfl ?_ fun w hr => ⟨?_, fun rest => ?_⟩
  · simp_all [Fits]
  · simp [litOp, litMem, *]
  · simp [decodeOp, decMem, *]

theorem st_roundTrip {d a b : Opnd} {t : MemTy} {rel : Bool} (h : (Instr.st d a b t rel).wf = true) : RoundTrip (.st d a b t rel) := by
  obtain ⟨hd, ha, hb, ht⟩ := and_four h
  have ht := of_decide_eq_true ht
  refine roundTrip_of_fields 0x01 [(18, 7, d.code), (11, 7, a.code), (4, 7, b.code), (1, 3, t.code), (0, 1, bitOf rel), (25, 7, 0x01)]
    rfl rfl rfl rfl ?_ fun w hr => ⟨?_, fun rest => ?_⟩
  · simp_all [Fits, code_lt_128 hd]
  · simp [litOp, litMem, *, Nat.add_assoc]
  · simp [decodeOp, decMem, *]

theorem lds_roundTrip {d a b : Opnd} {t : MemTy} (h : (Instr.lds d a b t).wf = true) : RoundTrip (.lds d a b t) := by
  obtain ⟨hd, ha, hb⟩ := and_three h
  refine roundTrip_of_fields 0x02 [(18, 7, d.code), (11, 7, a.code), (4, 7, b.code), (1, 3, t.code), (25, 7, 0x02)]
    rfl rfl rfl rfl ?_ fun w hr => ⟨?_, fun rest => ?_⟩
  · simp_all [Fits]
  · simp [litOp, litMem, *]
  · simp [decodeOp, decMem, *]

theorem sts_roundTrip {d a b : Opnd} {t : MemTy} (h : (Instr.sts d a b t).wf = true) : RoundTrip (.sts d a b t) := by
  obtain ⟨hd, ha, hb, ht⟩ := and_four h
  have ht := of_decide_eq_true ht
  refine roundTrip_of_fields 0x03 [(18, 7, d.code), (11, 7, a.code), (4, 7, b.code), (1, 3, t.code), (25, 7, 0x03)]
    rfl rfl rfl rfl ?_ fun w hr => ⟨?_, fun rest => ?_⟩
  · simp_all [Fits, code_lt_128 hd]
  · simp [litOp, litMem, *, Nat.add_assoc]
  · simp [decodeOp, decMem, *]

theorem ldw_roundTrip {d a b : Opnd} {t : MemTy} (h : (Instr.ldw d a b t).wf = true) : RoundTrip (.ldw d a b t) := by
  obtain ⟨hd, ha, hb⟩ := and_three h
  refine roundTrip_of_fields 0x04 [(18, 7, d.code), (11, 7, a.code), (4, 7, b.code), (1, 3, t.code), (25, 7, 0x04)]
    rfl rfl rfl rfl ?_ fun w hr => ⟨?_, fun rest => ?_⟩
  · simp_all [Fits]
  · simp [litOp, litMem, *]
  · simp [decodeOp, decMem, *]

theorem gld_roundTrip {d : Opnd} {base sz : Nat} {sx : Bool} {b : Opnd} {sp iw : Bool} {sh : Nat}
    (h : (Instr.gld d base sz sx b sp iw sh).wf = true) : RoundTrip (.gld d base sz sx b sp iw sh) := by
  obtain ⟨hd, hbase, hsz, hb, hsh, hbase'⟩ := and_six h
  have hbase' := of_decide_eq_true hbase'
  refine roundTrip_of_fields 0x05 [(18, 7, d.code), (14, 4, base), (12, 2, sz), (11, 1, bitOf sx), (4, 7, b.code),
    (3, 1, bitOf sp), (2, 1, bitOf iw), (0, 2, sh), (25, 7, 0x05)] rfl rfl rfl rfl ?_ fun w hr => ⟨?_, fun rest => ?_⟩
  · cases sp <;> simp_all [Fits]
  · cases sp
    · replace hd : d.isDst = true := hd
      simp [litOp, litMem, *]
    · replace hd : d.isSrc 1 = true := hd
      simp [litOp, litMem, *]
  · cases sp
    · replace hd : d.isDst = true := hd
      simp [decodeOp, decMem, Except.map, *]
    · replace hd : d.isSrc 1 = true := hd
      simp [decodeOp, decMem, *]

theorem gst_roundTrip {d : Opnd} {base sz : Nat} {sx : Bool} {b : Opnd} {sp iw : Bool} {sh : Nat}
    (h : (Instr.gst d base sz sx b sp iw sh).wf = true) : RoundTrip (.gst d base sz sx b sp iw sh) := by
  obtain ⟨hd, hbase, hsz, hb, hsh, hbase'⟩ := and_six h
  have hbase' := of_decide_eq_true hbase'
  refine roundTrip_of_fields 0x06 [(18, 7, d.code), (14, 4, base), (12, 2, sz), (11, 1, bitOf sx), (4, 7, b.code),
    (3, 1, bitOf sp), (2, 1, bitOf iw), (0, 2, sh), (25, 7, 0x06)] rfl rfl rfl rfl ?_ fun w hr => ⟨?_, fun rest => ?_⟩
  · simp_all [Fits, code_lt_128 hd]
  · by_cases hc : sz = 3 ∧ sp = false
    · rw [if_pos hc] at hd
      simp [litOp, litMem, *]
    · rw [if_neg hc] at hd
      simp [litOp, litMem, *]
  · by_cases hc : sz = 3 ∧ sp = false
    · rw [if_pos hc] at hd
      simp [decodeOp, decMem, *]
    · rw [if_neg hc] at hd
      simp [decodeOp, decMem, *]

theorem atom_roundTrip {d p : Opnd} {nr : Bool} {o : Aop} {t : ATy} {r : MOrd} {g : Nat}
    (h : (Instr.atom d p nr o t r g).wf = true) : RoundTrip (.atom d p nr o t r g) := by
  obtain ⟨hd, hp, hg⟩ := and_three h
  refine roundTrip_of_fields 0x08 [(18, 7, d.code), (12, 6, p.code6), (11, 1, bitOf nr), (8, 3, o.code), (6, 2, t.code),
    (4, 2, r.code), (0, 4, g), (25, 7, 0x08)] rfl rfl rfl rfl ?_ fun w hr => ⟨?_, fun rest => ?_⟩
  · cases nr <;> simp_all [Fits]
    exact code_lt_128 hd
  · cases nr
    · replace hd : d.isDst = true := hd
      simp [litOp, litMem, *]
    · replace hd : d.isSrc t.words = true := hd
      simp [litOp, litMem, *]
  · cases nr
    · replace hd : d.isDst = true := hd
      simp [decodeOp, decMem, Except.map, *]
    · replace hd : d.isSrc t.words = true := hd
      simp [decodeOp, decMem, *]

theorem cas_roundTrip {d p : Opnd} {w64 : Bool} {r : MOrd} {g : Nat} (h : (Instr.cas d p w64 r g).wf = true) : RoundTrip (.cas d p w64 r g) := by
  obtain ⟨hd, hp, hg⟩ := and_three h
  refine roundTrip_of_fields 0x09 [(18, 7, d.code), (12, 6, p.code6), (6, 1, bitOf w64), (4, 2, r.code), (0, 4, g), (25, 7, 0x09)]
    rfl rfl rfl rfl ?_ fun w hr => ⟨?_, fun rest => ?_⟩
  · simp_all [Fits]
  · simp [litOp, litMem, *]
  · simp [decodeOp, decMem, *]

theorem contrib_roundTrip {e a b : Opnd} {g : Nat} (h : (Instr.contrib e a b g).wf = true) : RoundTrip (.contrib e a b g) := by
  obtain ⟨he, ha, hb, hg⟩ := and_four h
  refine roundTrip_of_fields 0x0A [(18, 7, e.code), (11, 7, a.code), (4, 7, b.code), (0, 4, g), (25, 7, 0x0A)]
    rfl rfl rfl rfl ?_ fun w hr => ⟨?_, fun rest => ?_⟩
  · simp_all [Fits]
  · simp [litOp, litMem, *, Nat.add_assoc]
  · simp [decodeOp, decMem, *]

theorem sload_roundTrip {p : Nat} {ring : Bool} {a b : Opnd} {g : Nat} (h : (Instr.sload p ring a b g).wf = true) : RoundTrip (.sload p ring a b g) := by
  obtain ⟨hp, ha, hb, hg⟩ := and_four h
  refine roundTrip_of_fields 0x10 [(21, 4, p), (20, 1, bitOf ring), (11, 7, a.code), (4, 7, b.code), (0, 4, g), (25, 7, 0x10)]
    rfl rfl rfl rfl ?_ fun w hr => ⟨?_, fun rest => ?_⟩
  · simp_all [Fits]
  · simp [litOp, litMem, *]
  · simp [decodeOp, decMem, *]

theorem spoll_roundTrip {d a b : Opnd} {w64 peek : Bool} (h : (Instr.spoll d a b w64 peek).wf = true) : RoundTrip (.spoll d a b w64 peek) := by
  obtain ⟨hd, ha, hb⟩ := and_three h
  refine roundTrip_of_fields 0x11 [(18, 7, d.code), (11, 7, a.code), (4, 7, b.code), (3, 1, bitOf w64), (2, 1, bitOf peek), (25, 7, 0x11)]
    rfl rfl rfl rfl ?_ fun w hr => ⟨?_, fun rest => ?_⟩
  · simp_all [Fits]
  · simp [litOp, litMem, *]
  · simp [decodeOp, decMem, *]

theorem unsub_roundTrip {b : Opnd} {g : Nat} (h : (Instr.unsub b g).wf = true) : RoundTrip (.unsub b g) := by
  obtain ⟨hb, hg⟩ := and_two h
  refine roundTrip_of_fields 0x12 [(4, 7, b.code), (0, 4, g), (25, 7, 0x12)]
    rfl rfl rfl rfl ?_ fun w hr => ⟨?_, fun rest => ?_⟩
  · simp_all [Fits]
  · simp [litOp, litMem, *]
  · simp [decodeOp, decMem, *]

theorem pref_roundTrip {a b : Opnd} (h : (Instr.pref a b).wf = true) : RoundTrip (.pref a b) := by
  obtain ⟨ha, hb⟩ := and_two h
  refine roundTrip_of_fields 0x18 [(11, 7, a.code), (4, 7, b.code), (18, 7, 124), (25, 7, 0x18)]
    rfl rfl rfl rfl ?_ fun w hr => ⟨?_, fun rest => ?_⟩
  · simp_all [Fits]
  · simp [litOp, litMem, *]
  · simp [decodeOp, decMem, *]

theorem fence_roundTrip {sc : Scope} {k : FenceKind} {g : Nat} (h : (Instr.fence sc k g).wf = true) : RoundTrip (.fence sc k g) := by
  have h := of_decide_eq_true h
  refine roundTrip_of_fields 0x19 [(8, 3, sc.code), (6, 2, k.code), (0, 4, g), (25, 7, 0x19)]
    rfl rfl rfl rfl ?_ fun w hr => ⟨?_, fun rest => ?_⟩
  · simp_all [Fits]
  · simp [litOp, litMem, *]
  · simp [decodeOp, decMem, *]

theorem mrsv_roundTrip {d : Opnd} {p g : Nat} (h : (Instr.mrsv d p g).wf = true) : RoundTrip (.mrsv d p g) := by
  obtain ⟨hd, hp, hg⟩ := and_three h
  refine roundTrip_of_fields 0x00 [(18, 7, d.code), (14, 4, p), (0, 4, g), (25, 7, 0x00)]
    rfl rfl rfl rfl ?_ fun w hr => ⟨?_, fun rest => ?_⟩
  · simp_all [Fits]
  · simp [litOp, litMtx, *]
  · simp [decodeOp, decMtx, *]

theorem mrel_roundTrip {res g : Nat} (h : (Instr.mrel res g).wf = true) : RoundTrip (.mrel res g) := by
  obtain ⟨hres, hg⟩ := and_two h
  refine roundTrip_of_fields 0x01 [(21, 4, res), (0, 4, g), (25, 7, 0x01)]
    rfl rfl rfl rfl ?_ fun w hr => ⟨?_, fun rest => ?_⟩
  · simp_all [Fits]
  · simp [litOp, litMtx, *]
  · simp [decodeOp, decMtx, *]

theorem minit_roundTrip {res acc : Nat} {spad : Bool} {a b : Opnd} {g : Nat} (h : (Instr.minit res acc spad a b g).wf = true) : RoundTrip (.minit res acc spad a b g) := by
  obtain ⟨hres, hacc, ha, hb, hg⟩ := and_five h
  refine roundTrip_of_fields 0x02 [(21, 4, res), (19, 2, acc), (18, 1, bitOf spad), (11, 7, a.code), (4, 7, b.code), (0, 4, g), (25, 7, 0x02)]
    rfl rfl rfl rfl ?_ fun w hr => ⟨?_, fun rest => ?_⟩
  · simp_all [Fits]
  · simp [litOp, litMtx, *]
  · simp [decodeOp, decMtx, *]

theorem mma_roundTrip {k h : Nat} {a b : Opnd} (hw : (Instr.mma k h a b).wf = true) : RoundTrip (.mma k h a b) := by
  obtain ⟨hk, hh, ha, hb, hh'⟩ := and_five hw
  have hh' := of_decide_eq_true hh'
  refine roundTrip_of_fields 0x08 [(21, 4, k), (17, 4, h), (10, 7, a.code), (3, 7, b.code), (25, 7, 0x08)]
    rfl rfl rfl rfl ?_ fun w hr => ⟨?_, fun rest => ?_⟩
  · simp_all [Fits]
  · simp [litOp, litMtx, *]
  · simp [decodeOp, decMtx, *]

theorem mmas_roundTrip {k h : Nat} {a b : Opnd} (hw : (Instr.mmas k h a b).wf = true) : RoundTrip (.mmas k h a b) := by
  obtain ⟨hk, hh, ha, hb, hh'⟩ := and_five hw
  have hh' := of_decide_eq_true hh'
  refine roundTrip_of_fields 0x09 [(21, 4, k), (17, 4, h), (10, 7, a.code), (3, 7, b.code), (25, 7, 0x09)]
    rfl rfl rfl rfl ?_ fun w hr => ⟨?_, fun rest => ?_⟩
  · simp_all [Fits]
  · simp [litOp, litMtx, *]
  · simp [decodeOp, decMtx, *]

theorem gmma_roundTrip {k h : Nat} {a b : Opnd} (hw : (Instr.gmma k h a b).wf = true) : RoundTrip (.gmma k h a b) := by
  obtain ⟨hk, hh, ha, hb, hh'⟩ := and_five hw
  have hh' := of_decide_eq_true hh'
  refine roundTrip_of_fields 0x0A [(21, 4, k), (17, 4, h), (10, 7, a.code), (3, 7, b.code), (25, 7, 0x0A)]
    rfl rfl rfl rfl ?_ fun w hr => ⟨?_, fun rest => ?_⟩
  · simp_all [Fits]
  · simp [litOp, litMtx, *]
  · simp [decodeOp, decMtx, *]

theorem mguide_roundTrip {res acc : Nat} {a : Opnd} {g : Nat} (h : (Instr.mguide res acc a g).wf = true) : RoundTrip (.mguide res acc a g) := by
  obtain ⟨hres, hacc, ha, hg, hacc'⟩ := and_five h
  have hacc' := of_decide_eq_true hacc'
  refine roundTrip_of_fields 0x0B [(21, 4, res), (19, 2, acc), (11, 7, a.code), (0, 4, g), (25, 7, 0x0B)]
    rfl rfl rfl rfl ?_ fun w hr => ⟨?_, fun rest => ?_⟩
  · simp_all [Fits]
  · simp [litOp, litMtx, *]
  · simp [decodeOp, decMtx, *]

theorem mfin_roundTrip {res acc g : Nat} (h : (Instr.mfin res acc g).wf = true) : RoundTrip (.mfin res acc g) := by
  obtain ⟨hres, hacc, hg⟩ := and_three h
  refine roundTrip_of_fields 0x10 [(21, 4, res), (19, 2, acc), (0, 4, g), (25, 7, 0x10)]
    rfl rfl rfl rfl ?_ fun w hr => ⟨?_, fun rest => ?_⟩
  · simp_all [Fits]
  · simp [litOp, litMtx, *]
  · simp [decodeOp, decMtx, *]

theorem mdrainReg_roundTrip {res acc : Nat} {a : Opnd} {col rowb g : Nat} (h : (Instr.mdrainReg res acc a col rowb g).wf = true) : RoundTrip (.mdrainReg res acc a col rowb g) := by
  obtain ⟨hres, hacc, ha, hcol, hrowb, hg, hcol'⟩ := and_seven h
  have hcol' := of_decide_eq_true hcol'
  refine roundTrip_of_fields 0x11 [(21, 4, res), (19, 2, acc), (10, 7, a.code), (8, 2, col), (6, 2, rowb), (0, 4, g), (25, 7, 0x11)]
    rfl rfl rfl rfl ?_ fun w hr => ⟨?_, fun rest => ?_⟩
  · simp_all [Fits]
  · simp [litOp, litMtx, *]
  · simp [decodeOp, decMtx, *]

theorem mdrainSpad_roundTrip {res acc : Nat} {a : Opnd} {g : Nat} (h : (Instr.mdrainSpad res acc a g).wf = true) : RoundTrip (.mdrainSpad res acc a g) := by
  obtain ⟨hres, hacc, ha, hg⟩ := and_four h
  refine roundTrip_of_fields 0x11 [(21, 4, res), (19, 2, acc), (10, 7, a.code), (0, 4, g), (17, 2, 1), (25, 7, 0x11)]
    rfl rfl rfl rfl ?_ fun w hr => ⟨?_, fun rest => ?_⟩
  · simp_all [Fits]
  · simp [litOp, litMtx, *]
  · simp [decodeOp, decMtx, *]

theorem mdrainTree_roundTrip {res acc : Nat} {a : Opnd} {g : Nat} (h : (Instr.mdrainTree res acc a g).wf = true) : RoundTrip (.mdrainTree res acc a g) := by
  obtain ⟨hres, hacc, ha, hg⟩ := and_four h
  refine roundTrip_of_fields 0x11 [(21, 4, res), (19, 2, acc), (10, 7, a.code), (0, 4, g), (17, 2, 2), (25, 7, 0x11)]
    rfl rfl rfl rfl ?_ fun w hr => ⟨?_, fun rest => ?_⟩
  · simp_all [Fits]
  · simp [litOp, litMtx, *]
  · simp [decodeOp, decMtx, *]

theorem mstore_roundTrip {res acc : Nat} {f : SFmt} {glob : Bool} {a : Opnd} {g : Nat} (h : (Instr.mstore res acc f glob a g).wf = true) : RoundTrip (.mstore res acc f glob a g) := by
  obtain ⟨hres, hacc, ha, hg⟩ := and_four h
  refine roundTrip_of_fields 0x12 [(21, 4, res), (19, 2, acc), (16, 3, f.code), (15, 1, bitOf glob), (8, 7, a.code), (0, 4, g), (25, 7, 0x12)]
    rfl rfl rfl rfl ?_ fun w hr => ⟨?_, fun rest => ?_⟩
  · simp_all [Fits]
  · simp [litOp, litMtx, *]
  · simp [decodeOp, decMtx, *]

theorem mstatAcc_roundTrip {d : Opnd} {res acc g : Nat} (h : (Instr.mstatAcc d res acc g).wf = true) : RoundTrip (.mstatAcc d res acc g) := by
  obtain ⟨hd, hres, hacc, hg⟩ := and_four h
  refine roundTrip_of_fields 0x18 [(18, 7, d.code), (14, 4, res), (12, 2, acc), (0, 4, g), (25, 7, 0x18)]
    rfl rfl rfl rfl ?_ fun w hr => ⟨?_, fun rest => ?_⟩
  · simp_all [Fits]
  · simp [litOp, litMtx, *]
  · simp [decodeOp, decMtx, *]

theorem mstatEng_roundTrip {d : Opnd} {res acc g : Nat} (h : (Instr.mstatEng d res acc g).wf = true) : RoundTrip (.mstatEng d res acc g) := by
  obtain ⟨hd, hres, hacc, hg⟩ := and_four h
  refine roundTrip_of_fields 0x18 [(18, 7, d.code), (14, 4, res), (12, 2, acc), (0, 4, g), (4, 8, 64), (25, 7, 0x18)]
    rfl rfl rfl rfl ?_ fun w hr => ⟨?_, fun rest => ?_⟩
  · simp_all [Fits]
  · simp [litOp, litMtx, *]
  · simp [decodeOp, decMtx, *]

theorem wbind_roundTrip {e : Nat} {a : Opnd} {f : WFrom} {g : Nat} (h : (Instr.wbind e a f g).wf = true) :
    RoundTrip (.wbind e a f g) := by
  obtain ⟨he, ha, hg⟩ := and_three h
  refine roundTrip_of_fields 0x00 [(19, 6, e), (11, 7, a.code), (9, 2, f.code), (0, 4, g), (25, 7, 0x00)]
    rfl rfl rfl rfl ?_ fun w hr => ⟨?_, fun rest => ?_⟩
  · cases f <;> simp_all [Fits, WFrom.srcOk, WFrom.code]
  · cases f <;> simp_all [litOp, litWin, WFrom.srcOk, WFrom.code, wbindWords]
  · cases f <;> simp_all [decodeOp, decWin, wbindOf, WFrom.srcOk, wbindWords, Except.map]

theorem wunb_roundTrip {e g : Nat} (h : (Instr.wunb e g).wf = true) : RoundTrip (.wunb e g) := by
  obtain ⟨he, hg⟩ := and_two h
  refine roundTrip_of_fields 0x01 [(19, 6, e), (0, 4, g), (25, 7, 0x01)]
    rfl rfl rfl rfl ?_ fun w hr => ⟨?_, fun rest => ?_⟩
  · simp_all [Fits]
  · simp [litOp, litWin, *]
  · simp [decodeOp, decWin, *]

theorem touch_roundTrip {e p g : Nat} (h : (Instr.touch e p g).wf = true) : RoundTrip (.touch e p g) := by
  obtain ⟨he, hp, hg⟩ := and_three h
  refine roundTrip_of_fields 0x02 [(19, 6, e), (14, 4, p), (0, 4, g), (25, 7, 0x02)]
    rfl rfl rfl rfl ?_ fun w hr => ⟨?_, fun rest => ?_⟩
  · simp_all [Fits]
  · simp [litOp, litWin, *]
  · simp [decodeOp, decWin, *]

theorem wstat_roundTrip {e : Nat} {d : Opnd} {g : Nat} (h : (Instr.wstat e d g).wf = true) : RoundTrip (.wstat e d g) := by
  obtain ⟨he, hd, hg⟩ := and_three h
  refine roundTrip_of_fields 0x03 [(19, 6, e), (11, 7, d.code), (0, 4, g), (25, 7, 0x03)]
    rfl rfl rfl rfl ?_ fun w hr => ⟨?_, fun rest => ?_⟩
  · simp_all [Fits]
  · simp [litOp, litWin, *]
  · simp [decodeOp, decWin, *]

theorem wflush_roundTrip {e g : Nat} (h : (Instr.wflush e g).wf = true) : RoundTrip (.wflush e g) := by
  obtain ⟨he, hg⟩ := and_two h
  refine roundTrip_of_fields 0x04 [(19, 6, e), (0, 4, g), (25, 7, 0x04)]
    rfl rfl rfl rfl ?_ fun w hr => ⟨?_, fun rest => ?_⟩
  · simp_all [Fits]
  · simp [litOp, litWin, *]
  · simp [decodeOp, decWin, *]

theorem elect_roundTrip {d : Opnd} {p g : Nat} (h : (Instr.elect d p g).wf = true) : RoundTrip (.elect d p g) := by
  obtain ⟨hd, hp, hg⟩ := and_three h
  refine roundTrip_of_fields 0x02 [(18, 7, d.code), (14, 4, p), (0, 4, g), (25, 7, 0x02)]
    rfl rfl rfl rfl ?_ fun w hr => ⟨?_, fun rest => ?_⟩
  · simp_all [Fits]
  · simp [litOp, litSync, *]
  · simp [decodeOp, decSync, *]

theorem arrive_roundTrip {d : Opnd} {b g : Nat} (h : (Instr.arrive d b g).wf = true) : RoundTrip (.arrive d b g) := by
  obtain ⟨hd, hb, hg⟩ := and_three h
  refine roundTrip_of_fields 0x08 [(18, 7, d.code), (7, 4, b), (0, 4, g), (11, 7, 124), (25, 7, 0x08)]
    rfl rfl rfl rfl ?_ fun w hr => ⟨?_, fun rest => ?_⟩
  · simp_all [Fits]
  · simp [litOp, litSync, *]
  · simp [decodeOp, decSync, *]

theorem arriveCount_roundTrip {d a : Opnd} {b g : Nat} (h : (Instr.arriveCount d a b g).wf = true) : RoundTrip (.arriveCount d a b g) := by
  obtain ⟨hd, ha, hb, hg⟩ := and_four h
  refine roundTrip_of_fields 0x08 [(18, 7, d.code), (11, 7, a.code), (7, 4, b), (0, 4, g), (4, 3, 2), (25, 7, 0x08)]
    rfl rfl rfl rfl ?_ fun w hr => ⟨?_, fun rest => ?_⟩
  · simp_all [Fits]
  · simp [litOp, litSync, *]
  · simp [decodeOp, decSync, *]

theorem arriveExpect_roundTrip {d a : Opnd} {b g : Nat} (h : (Instr.arriveExpect d a b g).wf = true) : RoundTrip (.arriveExpect d a b g) := by
  obtain ⟨hd, ha, hb, hg⟩ := and_four h
  refine roundTrip_of_fields 0x08 [(18, 7, d.code), (11, 7, a.code), (7, 4, b), (0, 4, g), (4, 3, 4), (25, 7, 0x08)]
    rfl rfl rfl rfl ?_ fun w hr => ⟨?_, fun rest => ?_⟩
  · simp_all [Fits]
  · simp [litOp, litSync, *]
  · simp [decodeOp, decSync, *]

theorem bwait_roundTrip {a : Opnd} {b g : Nat} (h : (Instr.bwait a b g).wf = true) : RoundTrip (.bwait a b g) := by
  obtain ⟨ha, hb, hg⟩ := and_three h
  refine roundTrip_of_fields 0x09 [(11, 7, a.code), (7, 4, b), (0, 4, g), (25, 7, 0x09)]
    rfl rfl rfl rfl ?_ fun w hr => ⟨?_, fun rest => ?_⟩
  · simp_all [Fits]
  · simp [litOp, litSync, *]
  · simp [decodeOp, decSync, *]

theorem bsync_roundTrip {b g : Nat} (h : (Instr.bsync b g).wf = true) : RoundTrip (.bsync b g) := by
  obtain ⟨hb, hg⟩ := and_two h
  refine roundTrip_of_fields 0x0A [(7, 4, b), (0, 4, g), (25, 7, 0x0A)]
    rfl rfl rfl rfl ?_ fun w hr => ⟨?_, fun rest => ?_⟩
  · simp_all [Fits]
  · simp [litOp, litSync, *]
  · simp [decodeOp, decSync, *]

theorem kdecl_roundTrip {k : Nat} {a b : Opnd} {g : Nat} (h : (Instr.kdecl k a b g).wf = true) : RoundTrip (.kdecl k a b g) := by
  obtain ⟨hk, ha, hb, hg⟩ := and_four h
  refine roundTrip_of_fields 0x10 [(21, 4, k), (11, 7, a.code), (4, 7, b.code), (0, 4, g), (25, 7, 0x10)]
    rfl rfl rfl rfl ?_ fun w hr => ⟨?_, fun rest => ?_⟩
  · simp_all [Fits]
  · simp [litOp, litSync, *]
  · simp [decodeOp, decSync, *]

theorem sign_roundTrip {k p g : Nat} (h : (Instr.sign k p g).wf = true) : RoundTrip (.sign k p g) := by
  obtain ⟨hk, hp, hg⟩ := and_three h
  refine roundTrip_of_fields 0x11 [(21, 4, k), (17, 4, p), (0, 4, g), (25, 7, 0x11)]
    rfl rfl rfl rfl ?_ fun w hr => ⟨?_, fun rest => ?_⟩
  · simp_all [Fits]
  · simp [litOp, litSync, *]
  · simp [decodeOp, decSync, *]

theorem waitc_roundTrip {c : Ctr} {th g : Nat} (h : (Instr.waitc c th g).wf = true) : RoundTrip (.waitc c th g) := by
  obtain ⟨hth, hg⟩ := and_two h
  refine roundTrip_of_fields 0x18 [(23, 2, c.code), (17, 6, th), (0, 4, g), (25, 7, 0x18)]
    rfl rfl rfl rfl ?_ fun w hr => ⟨?_, fun rest => ?_⟩
  · simp_all [Fits]
  · simp [litOp, litSync, *]
  · simp [decodeOp, decSync, *]

theorem mwait_roundTrip {d a b : Opnd} {sp : Bool} (h : (Instr.mwait d a b sp).wf = true) : RoundTrip (.mwait d a b sp) := by
  obtain ⟨hd, ha, hb⟩ := and_three h
  refine roundTrip_of_fields 0x19 [(18, 7, d.code), (11, 7, a.code), (4, 7, b.code), (3, 1, bitOf sp), (25, 7, 0x19)]
    rfl rfl rfl rfl ?_ fun w hr => ⟨?_, fun rest => ?_⟩
  · simp_all [Fits, code_lt_128 ha]
  · simp [litOp, litSync, *]
  · simp [decodeOp, decSync, *]

theorem bra_roundTrip {g off : Nat} (h : (Instr.bra g off).wf = true) : RoundTrip (.bra g off) := by
  obtain ⟨hg, hoff⟩ := and_two h
  refine roundTrip_of_fields 0x60 [(21, 4, g), (0, 21, off), (25, 7, 0x60)]
    rfl rfl rfl rfl ?_ fun w hr => ⟨?_, fun rest => ?_⟩
  · simp_all [Fits]
  · simp [litOp, *]
  · simp [decodeOp, decCtl, *]

theorem brx_roundTrip {a : Opnd} {g : Nat} (h : (Instr.brx a g).wf = true) : RoundTrip (.brx a g) := by
  obtain ⟨ha, hg⟩ := and_two h
  refine roundTrip_of_fields 0x61 [(11, 7, a.code), (0, 4, g), (25, 7, 0x61)]
    rfl rfl rfl rfl ?_ fun w hr => ⟨?_, fun rest => ?_⟩
  · simp_all [Fits]
  · simp [litOp, *]
  · simp [decodeOp, decCtl, *]

theorem call_roundTrip {g off : Nat} (h : (Instr.call g off).wf = true) : RoundTrip (.call g off) := by
  obtain ⟨hg, hoff⟩ := and_two h
  refine roundTrip_of_fields 0x62 [(21, 4, g), (0, 21, off), (25, 7, 0x62)]
    rfl rfl rfl rfl ?_ fun w hr => ⟨?_, fun rest => ?_⟩
  · simp_all [Fits]
  · simp [litOp, *]
  · simp [decodeOp, decCtl, *]

theorem callx_roundTrip {a : Opnd} {g : Nat} (h : (Instr.callx a g).wf = true) : RoundTrip (.callx a g) := by
  obtain ⟨ha, hg⟩ := and_two h
  refine roundTrip_of_fields 0x63 [(11, 7, a.code), (0, 4, g), (25, 7, 0x63)]
    rfl rfl rfl rfl ?_ fun w hr => ⟨?_, fun rest => ?_⟩
  · simp_all [Fits]
  · simp [litOp, *]
  · simp [decodeOp, decCtl, *]

theorem enter_roundTrip {c g : Nat} (h : (Instr.enter c g).wf = true) : RoundTrip (.enter c g) := by
  obtain ⟨hc, hg, hc'⟩ := and_three h
  have hc' := of_decide_eq_true hc'
  refine roundTrip_of_fields 0x67 [(4, 16, c), (0, 4, g), (25, 7, 0x67)]
    rfl rfl rfl rfl ?_ fun w hr => ⟨?_, fun rest => ?_⟩
  · simp_all [Fits]
  · simp [litOp, *]
  · simp [decodeOp, decCtl, *]

theorem nop_roundTrip : RoundTrip .nop := by
  refine roundTrip_of_fields 0x6A [(25, 7, 0x6A)]
    rfl rfl rfl rfl ?_ fun w hr => ⟨?_, fun rest => ?_⟩
  · simp_all [Fits]
  · simp [litOp, *]
  · simp [decodeOp, decCtl, *]

theorem srd_roundTrip {d : Opnd} {n g : Nat} (h : (Instr.srd d n g).wf = true) : RoundTrip (.srd d n g) := by
  obtain ⟨hd, hn, hg, hsrknown⟩ := and_four h
  have hsrknown := of_decide_eq_true hsrknown
  refine roundTrip_of_fields 0x00 [(18, 7, d.code), (8, 10, n), (0, 4, g), (25, 7, 0x00)]
    rfl rfl rfl rfl ?_ fun w hr => ⟨?_, fun rest => ?_⟩
  · simp_all [Fits]
  · simp [litOp, litSys, *]
  · simp [decodeOp, decSys, *]

theorem swr_roundTrip {a : Opnd} {n g : Nat} (h : (Instr.swr a n g).wf = true) : RoundTrip (.swr a n g) := by
  obtain ⟨ha, hn, hg, hk⟩ := and_four h
  have hk := of_decide_eq_true hk
  refine roundTrip_of_fields 0x01 [(18, 7, a.code), (8, 10, n), (0, 4, g), (25, 7, 0x01)]
    rfl rfl rfl rfl ?_ fun w hr => ⟨?_, fun rest => ?_⟩
  · simp_all [Fits, code_lt_128 ha]
  · by_cases hc : n = 20 <;> simp_all [litOp, litSys]
  · by_cases hc : n = 20 <;> simp_all [decodeOp, decSys]

theorem eret_roundTrip : RoundTrip .eret := by
  refine roundTrip_of_fields 0x02 [(25, 7, 0x02)]
    rfl rfl rfl rfl ?_ fun w hr => ⟨?_, fun rest => ?_⟩
  · simp_all [Fits]
  · simp [litOp, litSys, *]
  · simp [decodeOp, decSys, *]

theorem svrf_roundTrip {blk : Nat} {a b : Opnd} {g : Nat} (h : (Instr.svrf blk a b g).wf = true) : RoundTrip (.svrf blk a b g) := by
  obtain ⟨hblk, ha, hb, hg, hblk'⟩ := and_five h
  have hblk' := of_decide_eq_true hblk'
  refine roundTrip_of_fields 0x08 [(22, 3, blk), (11, 7, a.code), (4, 7, b.code), (0, 4, g), (25, 7, 0x08)]
    rfl rfl rfl rfl ?_ fun w hr => ⟨?_, fun rest => ?_⟩
  · simp_all [Fits]
  · simp [litOp, litSys, *]
  · simp [decodeOp, decSys, *]

theorem ldrf_roundTrip {blk : Nat} {a b : Opnd} {g : Nat} (h : (Instr.ldrf blk a b g).wf = true) : RoundTrip (.ldrf blk a b g) := by
  obtain ⟨hblk, ha, hb, hg, hblk'⟩ := and_five h
  have hblk' := of_decide_eq_true hblk'
  refine roundTrip_of_fields 0x09 [(22, 3, blk), (11, 7, a.code), (4, 7, b.code), (0, 4, g), (25, 7, 0x09)]
    rfl rfl rfl rfl ?_ fun w hr => ⟨?_, fun rest => ?_⟩
  · simp_all [Fits]
  · simp [litOp, litSys, *]
  · simp [decodeOp, decSys, *]

/-- The fields of a word of SVWIN or LDWIN that names a window. -/
theorem fld_window_image {w : Nat} (h : fld w 0 10 = 992) : fld w 3 7 = 124 := by
  rw [fld_eq] at h ⊢
  omega

theorem svwinWin_roundTrip {e : Nat} {a : Opnd} (h : (Instr.svwinWin e a).wf = true) : RoundTrip (.svwinWin e a) := by
  obtain ⟨he, ha⟩ := and_two h
  refine roundTrip_of_fields 0x0A [(17, 6, e), (10, 7, a.code), (0, 10, 992), (25, 7, 0x0A)]
    rfl rfl rfl rfl ?_ fun w hr => ⟨?_, fun rest => ?_⟩
  · simp_all [Fits]
  · have hi := fld_window_image (hr 0 10 (by decide) rfl)
    simp [litOp, litSys, *]
  · simp [decodeOp, decSys, *]

theorem svwinSlot_roundTrip {e : Nat} {a b : Opnd} (h : (Instr.svwinSlot e a b).wf = true) : RoundTrip (.svwinSlot e a b) := by
  obtain ⟨he, ha, hb⟩ := and_three h
  refine roundTrip_of_fields 0x0A [(17, 6, e), (10, 7, a.code), (3, 7, b.code), (23, 2, 1), (25, 7, 0x0A)]
    rfl rfl rfl rfl ?_ fun w hr => ⟨?_, fun rest => ?_⟩
  · simp_all [Fits]
  · simp [litOp, litSys, *]
  · simp [decodeOp, decSys, *]

theorem ldwinWin_roundTrip {e : Nat} {a : Opnd} (h : (Instr.ldwinWin e a).wf = true) : RoundTrip (.ldwinWin e a) := by
  obtain ⟨he, ha⟩ := and_two h
  refine roundTrip_of_fields 0x0B [(17, 6, e), (10, 7, a.code), (0, 10, 992), (25, 7, 0x0B)]
    rfl rfl rfl rfl ?_ fun w hr => ⟨?_, fun rest => ?_⟩
  · simp_all [Fits]
  · have hi := fld_window_image (hr 0 10 (by decide) rfl)
    simp [litOp, litSys, *]
  · simp [decodeOp, decSys, *]

theorem ldwinSlot_roundTrip {e : Nat} {a b : Opnd} (h : (Instr.ldwinSlot e a b).wf = true) : RoundTrip (.ldwinSlot e a b) := by
  obtain ⟨he, ha, hb⟩ := and_three h
  refine roundTrip_of_fields 0x0B [(17, 6, e), (10, 7, a.code), (3, 7, b.code), (23, 2, 1), (25, 7, 0x0B)]
    rfl rfl rfl rfl ?_ fun w hr => ⟨?_, fun rest => ?_⟩
  · simp_all [Fits]
  · simp [litOp, litSys, *]
  · simp [decodeOp, decSys, *]

theorem tlbi_roundTrip {page : Bool} {a b : Opnd} {g : Nat} (h : (Instr.tlbi page a b g).wf = true) :
    RoundTrip (.tlbi page a b g) := by
  obtain ⟨ha, hb, hg, hx⟩ := and_four h
  have hx := of_decide_eq_true hx
  refine roundTrip_of_fields 0x10 [(23, 1, bitOf page), (11, 7, a.code), (4, 7, b.code), (0, 4, g), (25, 7, 0x10)]
    rfl rfl rfl rfl ?_ fun w hr => ⟨?_, fun rest => ?_⟩
  · simp_all [Fits, code_lt_128 ha]
  · simp [litOp, litSys, *]
  · simp [decodeOp, decSys, need, *]

theorem haltThread_roundTrip : RoundTrip .haltThread := by
  refine roundTrip_of_fields 0x12 [(25, 7, 0x12)]
    rfl rfl rfl rfl ?_ fun w hr => ⟨?_, fun rest => ?_⟩
  · simp_all [Fits]
  · simp [litOp, litSys, *]
  · simp [decodeOp, decSys, *]

theorem haltGroup_roundTrip : RoundTrip .haltGroup := by
  refine roundTrip_of_fields 0x12 [(0, 25, 8388608), (25, 7, 0x12)]
    rfl rfl rfl rfl ?_ fun w hr => ⟨?_, fun rest => ?_⟩
  · simp_all [Fits]
  · simp [litOp, litSys, *]
  · simp [decodeOp, decSys, *]

theorem haltKernel_roundTrip : RoundTrip .haltKernel := by
  refine roundTrip_of_fields 0x12 [(0, 25, 16777216), (25, 7, 0x12)]
    rfl rfl rfl rfl ?_ fun w hr => ⟨?_, fun rest => ?_⟩
  · simp_all [Fits]
  · simp [litOp, litSys, *]
  · simp [decodeOp, decSys, *]

theorem haltPark_roundTrip : RoundTrip .haltPark := by
  refine roundTrip_of_fields 0x12 [(0, 25, 25165824), (25, 7, 0x12)]
    rfl rfl rfl rfl ?_ fun w hr => ⟨?_, fun rest => ?_⟩
  · simp_all [Fits]
  · simp [litOp, litSys, *]
  · simp [decodeOp, decSys, *]

theorem rep_roundTrip {cnt step : Nat} (h : (Instr.rep cnt step).wf = true) : RoundTrip (.rep cnt step) := by
  obtain ⟨hc, hs⟩ := and_two h
  have he : wordOf [(13, 3, step), (16, 6, cnt), (25, 7, 0x7F)] = 0xFE000000 + cnt * 2 ^ 16 + step * 2 ^ 13 := by
    rw [wordOf_cons, wordOf_cons, wordOf_cons, wordOf_nil]
    rfl
  refine roundTrip_of_fields 0x7F [(13, 3, step), (16, 6, cnt), (25, 7, 0x7F)] (by rw [he]; rfl)
    rfl rfl rfl ?_ fun w hr => ⟨?_, fun rest => ?_⟩
  · simp_all [Fits]
  · simp [litOp]
  · simp [decodeOp, decPrefix, *]

theorem scope_roundTrip (sc : Scope) : RoundTrip (.scope sc) := by
  have he : wordOf [(19, 3, sc.code), (22, 3, 1), (25, 7, 0x7F)] = 0xFE400000 + sc.code * 2 ^ 19 := by
    rw [wordOf_cons, wordOf_cons, wordOf_cons, wordOf_nil]
    rfl
  refine roundTrip_of_fields 0x7F [(19, 3, sc.code), (22, 3, 1), (25, 7, 0x7F)] (by rw [he]; rfl)
    rfl rfl rfl ?_ fun w hr => ⟨?_, fun rest => ?_⟩
  · simp [Fits]
  · simp [litOp]
  · simp [decodeOp, decPrefix, *]

/-! Every instruction. -/

theorem roundTrip_of_unencoded {i : Instr} (h : encode i = none) : RoundTrip i := by
  intro e rest he
  cases h.symm.trans he

theorem roundTrip_of_wf {i : Instr} (h : i.wf = true) : RoundTrip i := by
  cases i with
  | mov => exact un_roundTrip rfl (by decide) (fun _ => rfl) (fun _ _ => rfl) h
  | movi => exact movi_roundTrip h
  | sel => exact sel_roundTrip h
  | add => exact rrr_roundTrip rfl (by decide) (.inl rfl) (.inl rfl) (fun _ => rfl) (fun _ _ => rfl) h
  | sub => exact rrr_roundTrip rfl (by decide) (.inl rfl) (.inl rfl) (fun _ => rfl) (fun _ _ => rfl) h
  | mul => exact rrr_roundTrip rfl (by decide) (.inl rfl) (.inl rfl) (fun _ => rfl) (fun _ _ => rfl) h
  | mulhI32 => exact rrr_roundTrip rfl (by decide) (.inl rfl) (.inl rfl) (fun _ => rfl) (fun _ _ => rfl) h
  | mulhN32 => exact rrr_roundTrip rfl (by decide) (.inl rfl) (.inl rfl) (fun _ => rfl) (fun _ _ => rfl) h
  | mad => exact rrr_roundTrip rfl (by decide) (.inl rfl) (.inl rfl) (fun _ => rfl) (fun _ _ => rfl) h
  | madwI32 => exact rrr_roundTrip rfl (by decide) (.inl rfl) (.inl rfl) (fun _ => rfl) (fun _ _ => rfl) h
  | madwN32 => exact rrr_roundTrip rfl (by decide) (.inl rfl) (.inl rfl) (fun _ => rfl) (fun _ _ => rfl) h
  | minI32 => exact rrr_roundTrip rfl (by decide) (.inl rfl) (.inl rfl) (fun _ => rfl) (fun _ _ => rfl) h
  | minN32 => exact rrr_roundTrip rfl (by decide) (.inl rfl) (.inl rfl) (fun _ => rfl) (fun _ _ => rfl) h
  | maxI32 => exact rrr_roundTrip rfl (by decide) (.inl rfl) (.inl rfl) (fun _ => rfl) (fun _ _ => rfl) h
  | maxN32 => exact rrr_roundTrip rfl (by decide) (.inl rfl) (.inl rfl) (fun _ => rfl) (fun _ _ => rfl) h
  | abs => exact un_roundTrip rfl (by decide) (fun _ => rfl) (fun _ _ => rfl) h
  | neg => exact un_roundTrip rfl (by decide) (fun _ => rfl) (fun _ _ => rfl) h
  | and => exact rrr_roundTrip rfl (by decide) (.inl rfl) (.inl rfl) (fun _ => rfl) (fun _ _ => rfl) h
  | or => exact rrr_roundTrip rfl (by decide) (.inl rfl) (.inl rfl) (fun _ => rfl) (fun _ _ => rfl) h
  | xor => exact rrr_roundTrip rfl (by decide) (.inl rfl) (.inl rfl) (fun _ => rfl) (fun _ _ => rfl) h
  | andn => exact rrr_roundTrip rfl (by decide) (.inl rfl) (.inl rfl) (fun _ => rfl) (fun _ _ => rfl) h
  | not => exact un_roundTrip rfl (by decide) (fun _ => rfl) (fun _ _ => rfl) h
  | shl => exact rrr_roundTrip rfl (by decide) (.inl rfl) (.inl rfl) (fun _ => rfl) (fun _ _ => rfl) h
  | shr => exact rrr_roundTrip rfl (by decide) (.inl rfl) (.inl rfl) (fun _ => rfl) (fun _ _ => rfl) h
  | sar => exact rrr_roundTrip rfl (by decide) (.inl rfl) (.inl rfl) (fun _ => rfl) (fun _ _ => rfl) h
  | rol => exact rrr_roundTrip rfl (by decide) (.inl rfl) (.inl rfl) (fun _ => rfl) (fun _ _ => rfl) h
  | popc => exact un_roundTrip rfl (by decide) (fun _ => rfl) (fun _ _ => rfl) h
  | clz => exact un_roundTrip rfl (by decide) (fun _ => rfl) (fun _ _ => rfl) h
  | ctz => exact un_roundTrip rfl (by decide) (fun _ => rfl) (fun _ _ => rfl) h
  | brev => exact un_roundTrip rfl (by decide) (fun _ => rfl) (fun _ _ => rfl) h
  | bfxI32 => exact rrr_roundTrip rfl (by decide) (.inl rfl) (.inl rfl) (fun _ => rfl) (fun _ _ => rfl) h
  | bfxN32 => exact rrr_roundTrip rfl (by decide) (.inl rfl) (.inl rfl) (fun _ => rfl) (fun _ _ => rfl) h
  | bfi => exact rrr_roundTrip rfl (by decide) (.inl rfl) (.inl rfl) (fun _ => rfl) (fun _ _ => rfl) h
  | perm => exact rrr_roundTrip rfl (by decide) (.inl rfl) (.inl rfl) (fun _ => rfl) (fun _ _ => rfl) h
  | addi => exact ri_roundTrip rfl (by decide) (fun _ => rfl) (fun _ _ => rfl) h
  | andi => exact ri_roundTrip rfl (by decide) (fun _ => rfl) (fun _ _ => rfl) h
  | ori => exact ri_roundTrip rfl (by decide) (fun _ => rfl) (fun _ _ => rfl) h
  | xori => exact ri_roundTrip rfl (by decide) (fun _ => rfl) (fun _ _ => rfl) h
  | shli => exact shli_roundTrip h
  | shri => exact shri_roundTrip h
  | sari => exact sari_roundTrip h
  | lea => exact lea_roundTrip h
  | add64 => exact rrr_roundTrip rfl (by decide) (.inr rfl) (.inr rfl) (fun _ => rfl) (fun _ _ => rfl) h
  | sub64 => exact rrr_roundTrip rfl (by decide) (.inr rfl) (.inr rfl) (fun _ => rfl) (fun _ _ => rfl) h
  | shl64 => exact rrr_roundTrip rfl (by decide) (.inr rfl) (.inl rfl) (fun _ => rfl) (fun _ _ => rfl) h
  | icmp => exact icmp_roundTrip h
  | pand => exact pand_roundTrip h
  | por => exact por_roundTrip h
  | pxor => exact pxor_roundTrip h
  | pnot => exact pnot_roundTrip h
  | p2v => exact p2v_roundTrip h
  | v2p => exact v2p_roundTrip h
  | shfl => exact shfl_roundTrip h
  | vote => exact vote_roundTrip h
  | ballot => exact ballot_roundTrip h
  | lmatch => exact un_roundTrip rfl (by decide) (fun _ => rfl) (fun _ _ => rfl) h
  | lred => exact lred_roundTrip h
  | fadd => exact rrr_roundTrip rfl (by decide) (.inl rfl) (.inl rfl) (fun _ => rfl) (fun _ _ => rfl) h
  | fsub => exact rrr_roundTrip rfl (by decide) (.inl rfl) (.inl rfl) (fun _ => rfl) (fun _ _ => rfl) h
  | fmul => exact rrr_roundTrip rfl (by decide) (.inl rfl) (.inl rfl) (fun _ => rfl) (fun _ _ => rfl) h
  | ffma => exact rrr_roundTrip rfl (by decide) (.inl rfl) (.inl rfl) (fun _ => rfl) (fun _ _ => rfl) h
  | ffms => exact rrr_roundTrip rfl (by decide) (.inl rfl) (.inl rfl) (fun _ => rfl) (fun _ _ => rfl) h
  | fmin => exact rrr_roundTrip rfl (by decide) (.inl rfl) (.inl rfl) (fun _ => rfl) (fun _ _ => rfl) h
  | fmax => exact rrr_roundTrip rfl (by decide) (.inl rfl) (.inl rfl) (fun _ => rfl) (fun _ _ => rfl) h
  | fcmp => exact fcmp_roundTrip h
  | fclass => exact fclass_roundTrip h
  | hadd2F16 => exact rrr_roundTrip rfl (by decide) (.inl rfl) (.inl rfl) (fun _ => rfl) (fun _ _ => rfl) h
  | hadd2Bf16 => exact rrr_roundTrip rfl (by decide) (.inl rfl) (.inl rfl) (fun _ => rfl) (fun _ _ => rfl) h
  | hmul2F16 => exact rrr_roundTrip rfl (by decide) (.inl rfl) (.inl rfl) (fun _ => rfl) (fun _ _ => rfl) h
  | hmul2Bf16 => exact rrr_roundTrip rfl (by decide) (.inl rfl) (.inl rfl) (fun _ => rfl) (fun _ _ => rfl) h
  | hfma2F16 => exact rrr_roundTrip rfl (by decide) (.inl rfl) (.inl rfl) (fun _ => rfl) (fun _ _ => rfl) h
  | hfma2Bf16 => exact rrr_roundTrip rfl (by decide) (.inl rfl) (.inl rfl) (fun _ => rfl) (fun _ _ => rfl) h
  | dadd => exact rrr_roundTrip rfl (by decide) (.inr rfl) (.inr rfl) (fun _ => rfl) (fun _ _ => rfl) h
  | dmul => exact rrr_roundTrip rfl (by decide) (.inr rfl) (.inr rfl) (fun _ => rfl) (fun _ _ => rfl) h
  | dfma => exact rrr_roundTrip rfl (by decide) (.inr rfl) (.inr rfl) (fun _ => rfl) (fun _ _ => rfl) h
  | cvt => exact cvt_roundTrip h
  | cvtiF2i => exact cvtiF2i_roundTrip h
  | cvtiI2f => exact cvtiI2f_roundTrip h
  | pack => exact pack_roundTrip h
  | unpk => exact unpk_roundTrip h
  | split6 => exact split6_roundTrip h
  | join6 => exact join6_roundTrip h
  | qzpRec => exact qzpRec_roundTrip h
  | qzpQ => exact qzpQ_roundTrip h
  | dq => exact dq_roundTrip h
  | amax => exact rrr_roundTrip rfl (by decide) (.inl rfl) (.inl rfl) (fun _ => rfl) (fun _ _ => rfl) h
  | scalex => exact scalex_roundTrip h
  | scacc => exact scacc_roundTrip h
  | frcp => exact un_roundTrip rfl (by decide) (fun _ => rfl) (fun _ _ => rfl) h
  | frsq => exact un_roundTrip rfl (by decide) (fun _ => rfl) (fun _ _ => rfl) h
  | fsqrt => exact un_roundTrip rfl (by decide) (fun _ => rfl) (fun _ _ => rfl) h
  | fexp2 => exact un_roundTrip rfl (by decide) (fun _ => rfl) (fun _ _ => rfl) h
  | flog2 => exact un_roundTrip rfl (by decide) (fun _ => rfl) (fun _ _ => rfl) h
  | fsin => exact un_roundTrip rfl (by decide) (fun _ => rfl) (fun _ _ => rfl) h
  | fcos => exact un_roundTrip rfl (by decide) (fun _ => rfl) (fun _ _ => rfl) h
  | ftanh => exact un_roundTrip rfl (by decide) (fun _ => rfl) (fun _ _ => rfl) h
  | osmx => exact osmx_roundTrip h
  | osmn => exact rrr_roundTrip rfl (by decide) (.inl rfl) (.inr rfl) (fun _ => rfl) (fun _ _ => rfl) h
  | ld => exact ld_roundTrip h
  | st => exact st_roundTrip h
  | lds => exact lds_roundTrip h
  | sts => exact sts_roundTrip h
  | ldw => exact ldw_roundTrip h
  | gld => exact gld_roundTrip h
  | gst => exact gst_roundTrip h
  | atom => exact atom_roundTrip h
  | cas => exact cas_roundTrip h
  | contrib => exact contrib_roundTrip h
  | tstat => exact rrr_roundTrip rfl (by decide) (.inl rfl) (.inl rfl) (fun _ => rfl) (fun _ _ => rfl) h
  | sload => exact sload_roundTrip h
  | spoll => exact spoll_roundTrip h
  | unsub => exact unsub_roundTrip h
  | pref => exact pref_roundTrip h
  | fence => exact fence_roundTrip h
  | mrsv => exact mrsv_roundTrip h
  | mrel => exact mrel_roundTrip h
  | minit => exact minit_roundTrip h
  | mma => exact mma_roundTrip h
  | mmas => exact mmas_roundTrip h
  | gmma => exact gmma_roundTrip h
  | mguide => exact mguide_roundTrip h
  | mfin => exact mfin_roundTrip h
  | mdrainReg => exact mdrainReg_roundTrip h
  | mdrainSpad => exact mdrainSpad_roundTrip h
  | mdrainTree => exact mdrainTree_roundTrip h
  | mstore => exact mstore_roundTrip h
  | mstatAcc => exact mstatAcc_roundTrip h
  | mstatEng => exact mstatEng_roundTrip h
  | wbind => exact wbind_roundTrip h
  | wunb => exact wunb_roundTrip h
  | touch => exact touch_roundTrip h
  | wstat => exact wstat_roundTrip h
  | wflush => exact wflush_roundTrip h
  | reform => exact g_roundTrip rfl (by decide) (fun _ => rfl) (fun _ _ => rfl) h
  | yield => exact g_roundTrip rfl (by decide) (fun _ => rfl) (fun _ _ => rfl) h
  | elect => exact elect_roundTrip h
  | arrive => exact arrive_roundTrip h
  | arriveCount => exact arriveCount_roundTrip h
  | arriveExpect => exact arriveExpect_roundTrip h
  | bwait => exact bwait_roundTrip h
  | bsync => exact bsync_roundTrip h
  | kdecl => exact kdecl_roundTrip h
  | sign => exact sign_roundTrip h
  | waitc => exact waitc_roundTrip h
  | mwait => exact mwait_roundTrip h
  | bra => exact bra_roundTrip h
  | brx => exact brx_roundTrip h
  | call => exact call_roundTrip h
  | callx => exact callx_roundTrip h
  | ret => exact g_roundTrip rfl (by decide) (fun _ => rfl) (fun _ _ => rfl) h
  | exit => exact g_roundTrip rfl (by decide) (fun _ => rfl) (fun _ _ => rfl) h
  | trap => exact code_roundTrip rfl (by decide) (fun _ => rfl) (fun _ _ => rfl) h
  | enter => exact enter_roundTrip h
  | leave => exact code_roundTrip rfl (by decide) (fun _ => rfl) (fun _ _ => rfl) h
  | bkpt => exact code_roundTrip rfl (by decide) (fun _ => rfl) (fun _ _ => rfl) h
  | nop => exact nop_roundTrip
  | srd => exact srd_roundTrip h
  | swr => exact swr_roundTrip h
  | eret => exact eret_roundTrip
  | svrf => exact svrf_roundTrip h
  | ldrf => exact ldrf_roundTrip h
  | svwinWin => exact svwinWin_roundTrip h
  | svwinSlot => exact svwinSlot_roundTrip h
  | ldwinWin => exact ldwinWin_roundTrip h
  | ldwinSlot => exact ldwinSlot_roundTrip h
  | tlbi => exact tlbi_roundTrip h
  | grant => exact rrr_roundTrip rfl (by decide) (.inl rfl) (.inl rfl) (fun _ => rfl) (fun _ _ => rfl) h
  | haltThread => exact haltThread_roundTrip
  | haltGroup => exact haltGroup_roundTrip
  | haltKernel => exact haltKernel_roundTrip
  | haltPark => exact haltPark_roundTrip
  | mark => exact code_roundTrip rfl (by decide) (fun _ => rfl) (fun _ _ => rfl) h
  | rep => exact rep_roundTrip h
  | scope => exact scope_roundTrip _
  | _ => exact roundTrip_of_unencoded rfl

/-- Settles O56: instruction by instruction, from the fields of its word. -/
theorem decodeEncodeRoundTrip : Obligations.DecodeEncodeRoundTrip := by
  unfold Obligations.DecodeEncodeRoundTrip
  intro i e rest h he
  exact roundTrip_of_wf h e rest he

end Sys2Proof.Proofs
end

section
/-! PROOFS. What a change of the participants' threads, and of the unit at issue, leaves. -/

namespace Sys2Proof.Proofs

open Sys2Proof.Machine Sys2Proof.Safety Sys2Proof.Laws

theorem getElem?_mapFrom {α β : Type} (f : Nat → α → β) (k : Nat) (l : List α) (m : Nat) :
    (mapFrom f k l)[m]? = (l[m]?).map (f (k + m)) := by
  induction l generalizing k m with
  | nil => rfl
  | cons x r ih =>
    cases m with
    | zero => rfl
    | succ m => simpa [mapFrom, Nat.add_assoc, Nat.add_comm 1 m] using ih (k + 1) m

theorem length_mapFrom {α β : Type} (f : Nat → α → β) (k : Nat) (l : List α) : (mapFrom f k l).length = l.length := by
  induction l generalizing k with
  | nil => rfl
  | cons x r ih => simp [mapFrom, ih]

theorem thr_stands {s : State} {k : Nat} (h : k < s.threads.length) : s.threads[k]? = some (s.thr k) := by
  simp [State.thr, List.getElem?_eq_getElem h]

@[simp] theorem each_threads_length (s : State) (ok : List (Nat × Nat)) (f : Nat × Nat → Thread → Thread) :
    (s.each ok f).threads.length = s.threads.length := length_mapFrom ..

/-- A participant's thread is changed. -/
theorem thr_each_of_find {s : State} {ok : List (Nat × Nat)} {k : Nat} {p : Nat × Nat} (hk : k < s.threads.length)
    (hp : (ok.find? fun q => q.2 == k) = some p) (f : Nat × Nat → Thread → Thread) : (s.each ok f).thr k = f p (s.thr k) := by
  have h : (s.each ok f).thr k = ((mapFrom _ 0 s.threads)[k]?).getD .gone := rfl
  rw [h, getElem?_mapFrom, thr_stands hk, Nat.zero_add]
  simp only [Option.map_some, Option.getD_some, hp]

/-- A thread that takes no part stays as it is. -/
theorem thr_each_other {s : State} {ok : List (Nat × Nat)} {k : Nat} (hk : ∀ p ∈ ok, p.2 ≠ k)
    (f : Nat × Nat → Thread → Thread) : (s.each ok f).thr k = s.thr k := by
  have h : (s.each ok f).thr k = ((mapFrom _ 0 s.threads)[k]?).getD .gone := rfl
  have hn : (ok.find? fun q => q.2 == k) = none := List.find?_eq_none.mpr (by simpa using fun a b hab => hk (a, b) hab)
  rw [h, getElem?_mapFrom, Nat.zero_add]
  cases ht : s.threads[k]? with
  | none => simp [State.thr, ht]
  | some x => simp [State.thr, ht, hn]

/-- A part of the threads that the change leaves alone. -/
theorem thr_each_part {β : Type} {part : Thread → β} {f : Nat × Nat → Thread → Thread} (h : ∀ p x, part (f p x) = part x)
    (s : State) (ok : List (Nat × Nat)) (k : Nat) : part ((s.each ok f).thr k) = part (s.thr k) := by
  have ht : (s.each ok f).thr k = ((mapFrom _ 0 s.threads)[k]?).getD .gone := rfl
  rw [ht, getElem?_mapFrom, State.thr]
  cases s.threads[k]? with
  | none => rfl
  | some x =>
    simp only [Option.map_some, Option.getD_some]
    split
    · exact h ..
    · rfl

/-- The unit at issue once its word has issued. -/
theorem issued_unit {s : State} (hl : s.unit.lanes ≠ []) : ∃ n, s.issued.unit =
    { s.unit with expired := none, blocked := false, issued := n } := ⟨_, unit_updUnit hl _⟩

/-- A part of the threads other than their waiting times is as before. -/
theorem thr_issued_part {β : Type} {part : Thread → β} (h : ∀ x n, part { x with since := n, waits := false } = part x)
    (s : State) (k : Nat) : part (s.issued.thr k) = part (s.thr k) :=
  thr_each_part (fun _ x => h x s.clk) (s.updUnit s.cur _) s.unit.lanes k

/-- The lanes of a unit name each thread once. -/
theorem find_of_once {ok : List (Nat × Nat)} (h : (ok.map Prod.snd).Nodup) {p : Nat × Nat} (hp : p ∈ ok) :
    (ok.find? fun q => q.2 == p.2) = some p := by
  induction ok with
  | nil => cases hp
  | cons q r ih =>
    obtain ⟨hq, hr⟩ := List.nodup_cons.mp h
    obtain rfl | hp := List.mem_cons.mp hp
    · simp
    · have hne : (q.2 == p.2) = false := by
        simp only [beq_eq_false_iff_ne]
        exact fun he => hq (he ▸ List.mem_map_of_mem hp)
      simp only [List.find?_cons, hne, ih hr hp]

theorem thr_each {s : State} {ok : List (Nat × Nat)} (h : (ok.map Prod.snd).Nodup) {p : Nat × Nat} (hp : p ∈ ok)
    (hk : p.2 < s.threads.length) (f : Nat × Nat → Thread → Thread) : (s.each ok f).thr p.2 = f p (s.thr p.2) :=
  thr_each_of_find hk (find_of_once h hp) f

/-- A change that is the same for all participants. -/
theorem thr_each_same {s : State} {ok : List (Nat × Nat)} {p : Nat × Nat} (hp : p ∈ ok) (hk : p.2 < s.threads.length)
    (f : Thread → Thread) : (s.each ok fun _ x => f x).thr p.2 = f (s.thr p.2) := by
  obtain ⟨q, hq⟩ : ∃ q, (ok.find? fun q => q.2 == p.2) = some q := by
    have := List.find?_isSome (p := fun q : Nat × Nat => q.2 == p.2) (xs := ok) |>.mpr ⟨p, hp, by simp⟩
    exact Option.isSome_iff_exists.mp this
  exact thr_each_of_find hk hq _

end Sys2Proof.Proofs
end

section
/-! PROOFS. The region words, BKPT and NOP, and the prefixes (R75 to R78, R153, R158, R159, R441). -/

namespace Sys2Proof.Proofs

open Sys2Proof.Machine Sys2Proof.Safety Sys2Proof.Laws

theorem exec_enter (c g : Nat) (s : State) : exec (.enter c g) s = execEnter c g s := rfl

theorem exec_leave (c g : Nat) (s : State) : exec (.leave c g) s = execLeave c g s := rfl

theorem exec_bkpt (c g : Nat) (s : State) : exec (.bkpt c g) s = execBkpt c g s := rfl

theorem exec_nop (s : State) : exec .nop s = s.run {} := rfl

theorem exec_rep (cnt step : Nat) (s : State) : exec (.rep cnt step) s = execRep cnt step s := rfl

theorem exec_scope (sc : Scope) (s : State) : exec (.scope sc) s = execScope sc s := rfl

/-- A word that issues is performed, its effect being `f`. -/
theorem run_effect {s t : State} {w : Work} (h : Issues s w.guard w.uses) (ho : ∀ p ∈ s.parts w.guard, w.own s p = .ready)
    (hh : s.parts w.guard ≠ [] → w.hold s (s.parts w.guard) = false)
    (hc : ∀ p ∈ s.parts w.guard, w.chk s (s.parts w.guard) p = none) (ht : w.act s (s.parts w.guard) = t)
    (hl : t.unit.lanes ≠ []) (he : w.ends = false) : s.run w = .next (goesOn s t w.guard w.cost w.fin) := by
  subst ht
  exact run_issues h ho hh hc hl he

/-! Without a debug descriptor no region break stops the unit. -/

theorem breaksAt_of_none {c : Context} (h : c.debug = none) (id : Nat) : c.breaksAt id = false := by
  unfold Context.breaksAt
  rw [h]

theorem regionBreak_off {s : State} (h : (s.ctx (s.launchOfUnit s.cur).ctx).debug = none) (ok : List (Nat × Nat)) (c : Nat) :
    s.regionBreak ok c = s := by
  unfold State.regionBreak
  simp [breaksAt_of_none h]

theorem ownStop_unit {s : State} {d : Debug} (h : (s.ctx (s.launchOfUnit s.cur).ctx).debug = some d) (hd : d.scope = 0) (c : Nat) :
    s.ownStop 1 c = s.updUnit s.cur fun u => { u with stopAsk := some 1, bkptCode := c } := by
  unfold State.ownStop
  dsimp only
  rw [show (s.ctx (s.launch (s.team (s.grp s.unit.group).team).launch).ctx).debug = some d from h]
  simp [hd]

theorem leaveTrap_none {x : Thread} {c : Nat} (h : 0 < x.rdepth ∧ (c = 0xFFFF ∨ (x.regions.headD 0xFFFF).toNat = 0xFFFF ∨
    (x.regions.headD 0xFFFF).toNat = c)) : leaveTrap x c = none := by
  obtain ⟨hd, hc⟩ := h
  unfold leaveTrap
  rw [if_neg (by omega), if_neg (by tauto)]

/-! REP and SCOPE. -/

theorem joinAt_zero {x : Thread} (h : x.repcount = 0) (c : Nat) : x.joinAt c = 0 := by
  simp [Thread.joinAt, h]

theorem foldl_min_zero {α : Type} {f : α → Nat} {l : List α} (hl : l ≠ []) (h : ∀ x ∈ l, f x = 0) (n : Nat) :
    (l.map f).foldl min n = 0 := by
  obtain ⟨x, r, rfl⟩ := List.exists_cons_of_ne_nil hl
  have hz : ∀ r : List α, (∀ x ∈ r, f x = 0) → (r.map f).foldl min 0 = 0 := by
    intro r hr
    induction r with
    | nil => rfl
    | cons y r ih => simpa [hr y] using ih fun z hz => hr z (by simp [hz])
  simpa [h x] using hz r fun y hy => h y (by simp [hy])

/-- The thread that begins the repeats samples the flush bits (R43). -/
def sampled (x : Thread) : Thread :=
  if x.resuming then x else if x.hmode = 0 then { x with repMode := x.mode } else { x with handlerMode := x.mode }

theorem exec_rep_ok {s : State} {cnt step : Nat} (h : s.unit.repOk step = true) :
    exec (.rep cnt step) s = .next ((s.each s.unit.lanes fun _ x => sampled x).updUnit s.cur fun u =>
      { u with idx := u.idx + 1, issued := u.issued + 1,
               rep := some ⟨cnt + 1, step, (s.unit.lanes.map fun p => (s.thr p.2).joinAt (cnt + 1)).foldl min cnt, s.unit.idx⟩ }) := by
  rw [exec_rep, execRep, if_pos h]
  rfl

/-- Settles O12: each word's effect where it issues, and what REP and SCOPE leave. -/
theorem regionWordsAndPrefixesComplete : Obligations.RegionWordsAndPrefixesComplete := by
  unfold Obligations.RegionWordsAndPrefixesComplete
  refine ⟨fun s c g h => ⟨fun hn hd => ?_, fun hn hd => ?_, fun hb => ?_, fun d hd hs hb hp => ?_, fun h0 => ?_⟩,
    fun s cnt step sc h hc => ⟨fun hr hz => ?_, fun hs => ?_, fun hr => ?_, fun hs => ?_⟩⟩
  · exact run_effect (w := { guard := g, chk := _, act := _, fin := _ }) h (fun _ _ => rfl) (fun _ => rfl)
      (fun p hp => if_neg (by have := hd p hp; omega)) (regionBreak_off (s := s.each _ _) hn _ _) (by simpa using h.lanes) rfl
  · exact run_effect (w := { guard := g, chk := _, act := _, fin := _ }) h (fun _ _ => rfl) (fun _ => rfl)
      (fun p hp => leaveTrap_none (hd p hp)) (regionBreak_off (s := s.each _ _) hn _ _) (by simpa using h.lanes) rfl
  · refine run_effect (w := { guard := g, act := _, fin := _ }) h (fun _ _ => rfl) (fun _ => rfl) (fun _ _ => rfl)
      ((if_neg ?_).trans (each_self _ _ _ fun _ _ => rfl).symm) (by simpa using h.lanes) rfl
    simp [show (s.ctx (s.launchOfUnit s.cur).ctx).bkpt = false from hb]
  · refine run_effect (w := { guard := g, act := _, fin := _ }) h (fun _ _ => rfl) (fun _ => rfl) (fun _ _ => rfl)
      ((if_pos ?_).trans (ownStop_unit hd hs c)) ?_ rfl
    · simp [hp, show (s.ctx (s.launchOfUnit s.cur).ctx).bkpt = true from hb]
    · simp only [unit_updUnit h.lanes]
      exact h.lanes
  · exact run_issues h0 (fun _ _ => rfl) (fun _ => rfl) (fun _ _ => rfl) h0.lanes rfl
  · have hk : (s.unit.lanes.map fun p => (s.thr p.2).joinAt (cnt + 1)).foldl min cnt = 0 :=
      foldl_min_zero h.lanes (fun p hp => joinAt_zero (hz p hp) _) cnt
    have hu := unit_updUnit (s := s.each s.unit.lanes fun _ x => sampled x) (by simpa using h.lanes) fun u =>
      { u with idx := u.idx + 1, issued := u.issued + 1, rep := some ⟨cnt + 1, step, 0, s.unit.idx⟩ }
    rw [each_unit] at hu
    rw [exec_rep_ok hr, hk]
    refine ⟨_, rfl, congrArg IssueUnit.rep hu, congrArg IssueUnit.idx hu, 
      (congrArg IssueUnit.words hu).trans rfl, (congrArg IssueUnit.scope hu).trans rfl, fun p hp hlt hres => ?_⟩
    have ht := thr_each_same hp hlt sampled
    refine ⟨fun hm => (congrArg Thread.repMode ht).trans ?_, fun hm => (congrArg Thread.handlerMode ht).trans ?_⟩ <;>
      simp [sampled, hres, hm]
  · rw [exec_scope, execScope, if_pos hs]
    rfl
  · rw [exec_rep, execRep, if_neg (by simp [hr])]
  · rw [exec_scope, execScope, if_neg (by simp [hs])]

end Sys2Proof.Proofs
end

section
/-! PROOFS. What writes of device memory and the trace leave of the machine: all but memory, the contexts' dumps and debug state,
the slices' write counters and the nodes and lines that a write touches. -/

namespace Sys2Proof.Proofs

open Sys2Proof.Machine Sys2Proof.Safety Sys2Proof.Laws

/-- The state with what a write of device memory may change put back as in `s`. -/
def unwritten (s t : State) : State :=
  { t with
    sto := { t.sto with
      mem := s.sto.mem, badMem := s.sto.badMem, lost := s.sto.lost, held := s.sto.held, dead := s.sto.dead, past := s.sto.past,
      writes := s.sto.writes },
    ctxs := s.ctxs, slices := s.slices, fly := { t.fly with nodes := s.fly.nodes, dirty := s.fly.dirty } }

/-- A write of device memory, or more of them, may lead from `s` to `t`: all that no write changes is as before, and so is each node
that is not spilled to memory. -/
structure Kept (s t : State) : Prop where
  back : unwritten s t = s
  nodes : ∀ n ∈ s.fly.nodes, (∀ k a, n.place ≠ .spill k a) → n ∈ t.fly.nodes
  ids : t.fly.nodes.map TreeNode.id = s.fly.nodes.map TreeNode.id

theorem Kept.of_back {s t : State} (h : unwritten s t = s) (hn : t.fly.nodes = s.fly.nodes) : Kept s t :=
  ⟨h, fun _ hm _ => hn ▸ hm, congrArg _ hn⟩

theorem Kept.refl (s : State) : Kept s s := .of_back rfl rfl

theorem Kept.trans {s t u : State} (h : Kept s t) (h' : Kept t u) : Kept s u := by
  have hu : unwritten s (unwritten t u) = unwritten s u := rfl
  exact ⟨by rw [← hu, h'.back, h.back], fun n hn hp => h'.nodes n (h.nodes n hn hp) hp, h'.ids.trans h.ids⟩

theorem Kept.same {s t : State} (h : Kept s t) {β : Type} (f : State → β) : f (unwritten s t) = f s := congrArg f h.back

theorem Kept.clk {s t : State} (h : Kept s t) : t.clk = s.clk := h.same State.clk

theorem Kept.threads {s t : State} (h : Kept s t) : t.threads = s.threads := h.same State.threads

theorem Kept.groups {s t : State} (h : Kept s t) : t.groups = s.groups := h.same State.groups

theorem Kept.teams {s t : State} (h : Kept s t) : t.teams = s.teams := h.same State.teams

theorem Kept.launches {s t : State} (h : Kept s t) : t.launches = s.launches := h.same State.launches

theorem Kept.units {s t : State} (h : Kept s t) : t.units = s.units := h.same State.units

theorem Kept.folds {s t : State} (h : Kept s t) : t.folds = s.folds := h.same State.folds

theorem Kept.cur {s t : State} (h : Kept s t) : t.cur = s.cur := h.same State.cur

theorem Kept.ops {s t : State} (h : Kept s t) : t.fly.ops = s.fly.ops := h.same (fun x : State => x.fly.ops)

theorem Kept.thr {s t : State} (h : Kept s t) (k : Nat) : t.thr k = s.thr k := by
  simp only [State.thr, h.threads]

theorem Kept.unit {s t : State} (h : Kept s t) : t.unit = s.unit := by
  simp only [State.unit, State.unitAt, h.units, h.cur]

theorem Kept.updUnit {s t : State} (h : Kept s t) (u : Nat) (f : IssueUnit → IssueUnit) : Kept (s.updUnit u f) (t.updUnit u f) := by
  have hu : unwritten (s.updUnit u f) (t.updUnit u f) = (unwritten s t).updUnit u f := rfl
  exact ⟨by rw [hu, h.back], h.nodes, h.ids⟩

theorem Kept.foldl {α : Type} {f : State → α → State} (h : ∀ s x, Kept s (f s x)) (l : List α) (s : State) :
    Kept s (l.foldl f s) := by
  induction l generalizing s with
  | nil => exact Kept.refl s
  | cons x r ih => exact (h s x).trans (ih (f s x))

theorem Kept.tlb {s t : State} (h : Kept s t) : t.sto.tlb = s.sto.tlb := h.same (fun x : State => x.sto.tlb)

theorem Kept.mem (s : State) (f : Storage → List Host.Cell) : Kept s (s.updSto fun m => { m with mem := f m }) := .of_back rfl rfl

theorem Kept.ctxs (s : State) (cs : List Context) : Kept s { s with ctxs := cs } := .of_back rfl rfl

theorem spoilSpill_id (pa len : Nat) (n : TreeNode) : (spoilSpill pa len n).id = n.id := by
  unfold spoilSpill
  split
  · split <;> rfl
  · rfl

/-- A write spoils spilled nodes only. -/
theorem Kept.spoiled (s : State) (pa len : Nat) : Kept s (s.updFly fun x => { x with nodes := x.nodes.map (spoilSpill pa len) }) := by
  refine ⟨rfl, fun n hn hp => List.mem_map.mpr ⟨n, hn, ?_⟩, ?_⟩
  · unfold spoilSpill
    split
    next k a h => exact absurd h (hp k a)
    · rfl
  · exact (List.map_map ..).trans (List.map_congr_left fun n _ => spoilSpill_id pa len n)

theorem Kept.written (s : State) (pa : Nat) (bs : List Byte) :
    Kept s (s.updSto fun m => { m with
      mem := writeCells m.mem pa bs,
      held := m.held.filter (fun x => !(blocksOf 128 pa bs.length).contains x.2),
      badMem := m.badMem.filter (fun k => !(wholeBlocks 32 pa bs.length).contains k),
      lost := m.lost.filter (fun x => !(wholeBlocks 128 pa bs.length).contains x.1),
      dead := m.dead.filter (fun x => decide (x.1 < pa) || decide (pa + bs.length ≤ x.1)),
      past := pastWith m.past m.writes (replaced m.mem pa bs),
      writes := m.writes + 1 }) := .of_back rfl rfl

theorem dumpCopies_kept (fuel : Nat) (s : State) (g : Nat) : Kept s (s.dumpCopies fuel g) := by
  induction fuel generalizing s g with
  | zero => exact Kept.refl s
  | succ n ih =>
    unfold State.dumpCopies
    refine Kept.foldl (fun s c => ?_) s.ctxs s
    split
    · exact Kept.refl s
    · split
      · exact ((Kept.ctxs s _).trans (Kept.foldl ih _ _)).trans (Kept.mem _ _)
      · exact Kept.refl s

theorem dumpCopy_kept (s : State) (g : Nat) : Kept s (s.dumpCopy g) := dumpCopies_kept ..

theorem number_kept (s : State) (line : Nat) : Kept s (s.number line) := by
  unfold State.number
  split <;> exact .of_back rfl rfl

theorem writePhys_kept (s : State) (pa : Nat) (bs : List Byte) : Kept s (s.writePhys pa bs) := by
  unfold State.writePhys
  split
  · exact Kept.refl s
  · exact (((Kept.foldl dumpCopy_kept _ s).trans (Kept.written _ pa bs)).trans (Kept.spoiled _ pa bs.length)).trans
      (Kept.foldl number_kept _ _)

theorem traceBytes_kept (s : State) (d : Debug) (bs : List Byte) : Kept s (s.traceBytes d bs) := writePhys_kept ..

theorem setDebug_kept (s : State) (c : Nat) (d : Debug) : Kept s (s.setDebug c d) := .of_back rfl rfl

theorem closePage_kept (s : State) (c : Nat) (d : Debug) : Kept s (s.closePage c d).1 := by
  unfold State.closePage
  split
  · exact ((traceBytes_kept _ _ _).trans (writePhys_kept _ _ _)).trans (setDebug_kept _ _ _)
  · exact Kept.refl s

theorem traceRoom_kept (s : State) (c : Nat) (d : Debug) (n e : Nat) : Kept s (s.traceRoom c d n e).1 := by
  have hr : Kept s (if d.open_ && decide (4096 < d.pos + n) then s.closePage c d else (s, d)).1 := by
    split
    · exact closePage_kept s c d
    · exact Kept.refl s
  unfold State.traceRoom
  generalize (if d.open_ && decide (4096 < d.pos + n) then s.closePage c d else (s, d)) = r at hr ⊢
  dsimp only
  split
  · exact hr
  · split
    · split
      · exact (hr.trans (traceBytes_kept _ _ _)).trans (setDebug_kept _ _ _)
      · exact ((hr.trans (traceBytes_kept _ _ _)).trans (traceBytes_kept _ _ _)).trans (setDebug_kept _ _ _)
    · exact hr

theorem trace_kept (s : State) (c : Nat) (u : Option Nat) (e : Nat) (bs : List Byte) : Kept s (s.trace c u e bs) := by
  unfold State.trace
  split
  · exact Kept.refl s
  · next d _ =>
    have hroom := traceRoom_kept s c d (bs.length + 32 * (d.fresh u).length) e
    split
    · next heq =>
      rw [heq] at hroom
      exact hroom.trans (setDebug_kept _ _ _)
    · next heq =>
      rw [heq] at hroom
      dsimp only
      split
      · exact ((hroom.trans (traceBytes_kept _ _ _)).trans (setDebug_kept _ _ _)).trans (closePage_kept _ _ _)
      · exact (hroom.trans (traceBytes_kept _ _ _)).trans (setDebug_kept _ _ _)

theorem unitTrace_kept (s : State) (u : Nat) (bs : List Byte) :
    Kept (s.updUnit u fun x => { x with packet := s.clk }) (s.unitTrace u bs) := by
  exact (trace_kept s _ _ _ _).updUnit u _

theorem updUnit_self (s : State) (u : Nat) {f : IssueUnit → IssueUnit} (h : f (s.unitAt u) = s.unitAt u) : s.updUnit u f = s := by
  have hl : ∀ (l : List IssueUnit) (n : Nat), f ((l[n]?).getD .gone) = (l[n]?).getD .gone → upd l n f = l := by
    intro l
    induction l with
    | nil => intro n _; rfl
    | cons x r ih =>
      intro n hn
      cases n with
      | zero => exact congrArg (· :: r) (by simpa using hn)
      | succ n => exact congrArg (x :: ·) (ih n (by simpa using hn))
  have := hl s.units u h
  simp only [State.updUnit, this]

/-- The unit at issue may have another time stamp of packets; besides that, only what a write changes has changed. -/
def Traced (s t : State) : Prop := ∃ k, Kept (s.updUnit s.cur fun x => { x with packet := k }) t

theorem Traced.refl (s : State) : Traced s s :=
  ⟨s.unit.packet, by rw [updUnit_self s s.cur rfl]; exact Kept.refl s⟩

theorem Traced.trans {s t u : State} (h : Traced s t) (h' : Traced t u) : Traced s u := by
  obtain ⟨k, h⟩ := h
  obtain ⟨k', h'⟩ := h'
  have hc : t.cur = s.cur := h.cur
  have := (h.updUnit s.cur fun x => { x with packet := k' }).trans (hc ▸ h')
  rw [updUnit_updUnit] at this
  exact ⟨k', this⟩

theorem unitTrace_traced (s : State) (bs : List Byte) : Traced s (s.unitTrace s.cur bs) := ⟨_, unitTrace_kept s s.cur bs⟩

theorem clauseTrace_traced (s : State) (e n : Nat) (target : Dword) : Traced s (s.clauseTrace e n target) := by
  unfold State.clauseTrace
  split
  · exact Traced.refl s
  · split
    · dsimp only
      split
      · exact (unitTrace_traced s _).trans (unitTrace_traced _ _)
      · exact unitTrace_traced s _
    · exact Traced.refl s

theorem Traced.threads {s t : State} (h : Traced s t) : t.threads = s.threads := h.elim fun _ h => h.threads

theorem Traced.groups {s t : State} (h : Traced s t) : t.groups = s.groups := h.elim fun _ h => h.groups

theorem Traced.cur {s t : State} (h : Traced s t) : t.cur = s.cur := h.elim fun _ h => h.cur

theorem Traced.thr {s t : State} (h : Traced s t) (k : Nat) : t.thr k = s.thr k := by
  simp only [State.thr, h.threads]

theorem Traced.units {s t : State} (h : Traced s t) : ∃ k, t.units = upd s.units s.cur fun x => { x with packet := k } :=
  h.elim fun k h => ⟨k, h.units⟩

/-- The unit at issue, but for its time stamp of packets. -/
theorem Traced.unit {s t : State} (h : Traced s t) (hl : s.unit.lanes ≠ []) : ∃ k, t.unit = { s.unit with packet := k } := by
  obtain ⟨k, h⟩ := h
  exact ⟨k, h.unit.trans (unit_updUnit hl _)⟩

theorem Traced.lanes {s t : State} (h : Traced s t) : t.unit.lanes = s.unit.lanes := by
  obtain ⟨k, h⟩ := h
  rw [h.unit]
  exact updUnit_lanes (f := fun x => { x with packet := k }) (fun _ => rfl) s s.cur

end Sys2Proof.Proofs
end

section
/-! PROOFS. A unit that goes on at headers, as one or split by program counter (R81, R152 to R155). -/

namespace Sys2Proof.Proofs

open Sys2Proof.Machine Sys2Proof.Safety Sys2Proof.Laws

/-! Threads by their next program counter. -/

/-- Every thread's next program counter has a part, and a part holds the threads with its program counter. -/
theorem partsBy_spec (next : Nat × Nat → Option Dword) (l : List (Nat × Nat)) :
    (∀ p ∈ l, ∃ x ∈ partsBy next l, x.1 = next p) ∧
      ∀ x ∈ partsBy next l, x.2 = l.filter fun p => next p == x.1 := by
  induction l with
  | nil => simp [partsBy]
  | cons p r ih =>
    obtain ⟨hall, hfil⟩ := ih
    rw [partsBy]
    cases hy : (partsBy next r).find? fun x => x.1 == next p with
    | some y =>
      have hyn : y.1 = next p := by simpa using List.find?_some hy
      refine ⟨fun q hq => ?_, fun x hx => ?_⟩
      · by_cases hqn : next q = next p
        · exact ⟨_, List.mem_cons_self, hqn.symm⟩
        · obtain rfl | hq := List.mem_cons.mp hq
          · exact absurd rfl hqn
          · obtain ⟨x, hx, hxq⟩ := hall q hq
            exact ⟨x, List.mem_cons_of_mem _ (List.mem_filter.mpr ⟨hx, by simpa [hxq] using hqn⟩), hxq⟩
      · obtain rfl | hx := List.mem_cons.mp hx
        · simp [hfil y (List.mem_of_find?_eq_some hy), hyn]
        · obtain ⟨hx, hne⟩ := List.mem_filter.mp hx
          have hne : (next p == x.1) = false := by
            simp only [bne_iff_ne, beq_eq_false_iff_ne] at hne ⊢
            exact fun h => hne h.symm
          rw [List.filter_cons, hne, hfil x hx]
          rfl
    | none =>
      have hno : ∀ x ∈ partsBy next r, x.1 ≠ next p := by simpa using List.find?_eq_none.mp hy
      refine ⟨fun q hq => ?_, fun x hx => ?_⟩
      · obtain rfl | hq := List.mem_cons.mp hq
        · exact ⟨_, List.mem_cons_self, rfl⟩
        · obtain ⟨x, hx, hxq⟩ := hall q hq
          exact ⟨x, List.mem_cons_of_mem _ hx, hxq⟩
      · obtain rfl | hx := List.mem_cons.mp hx
        · have hnil : (r.filter fun q => next q == next p) = [] := List.filter_eq_nil_iff.mpr fun q hq hqn => by
            obtain ⟨x, hx, hxq⟩ := hall q hq
            exact hno x hx (hxq.trans (by simpa using hqn))
          simp [hnil]
        · have hne : (next p == x.1) = false := beq_eq_false_iff_ne.mpr fun h => hno x hx h.symm
          rw [List.filter_cons, hne, hfil x hx]
          rfl

/-- The part of a thread. -/
theorem mem_partsBy {next : Nat × Nat → Option Dword} {l : List (Nat × Nat)} {p : Nat × Nat} (hp : p ∈ l) :
    ∃ x ∈ partsBy next l, x.1 = next p ∧ p ∈ x.2 := by
  obtain ⟨x, hx, hxn⟩ := (partsBy_spec next l).1 p hp
  exact ⟨x, hx, hxn, by rw [(partsBy_spec next l).2 x hx]; simp [hp, hxn]⟩

/-! Units that are enrolled. -/

/-- Enrolling adds the units, each with a slot of its own. -/
theorem enroll_units (s : State) (us : List IssueUnit) :
    (∀ u ∈ s.units, u ∈ (s.enroll us).units) ∧ ∀ u ∈ us, ∃ k, { u with slot := k } ∈ (s.enroll us).units := by
  induction us generalizing s with
  | nil => exact ⟨fun _ h => h, by simp⟩
  | cons v r ih =>
    obtain ⟨hs, hr⟩ := ih { s with units := s.units ++ [{ v with slot := s.freeSlot v.core v.dp }] }
    refine ⟨fun u hu => hs u (List.mem_append_left _ hu), fun u hu => ?_⟩
    obtain rfl | hu := List.mem_cons.mp hu
    · exact ⟨_, hs _ (List.mem_append_right _ List.mem_cons_self)⟩
    · exact hr u hu

theorem enroll_threads (s : State) (us : List IssueUnit) : (s.enroll us).threads = s.threads := by
  induction us generalizing s with
  | nil => rfl
  | cons v r ih => exact ih _

theorem mem_updUnit {s : State} (h : s.unit.lanes ≠ []) (f : IssueUnit → IssueUnit) : f s.unit ∈ (s.updUnit s.cur f).units := by
  have hx : (upd s.units s.cur f)[s.cur]? = some (f s.unit) := by
    rw [getElem?_upd, unit_stands h]
    simp
  exact List.mem_of_getElem? hx

/-! The split. -/

theorem split_threads (s : State) (e : Nat) (next : Nat × Nat → Option Dword) : (s.split e next).threads = s.threads := by
  unfold State.split
  split
  · rfl
  · rfl
  · exact (clauseTrace_traced s _ _ _).threads
  · dsimp only
    rw [enroll_threads]
    exact (clauseTrace_traced s _ _ _).threads

/-- Where every thread goes on at a header, it stands there. -/
theorem split_stands {s : State} {e : Nat} {next : Nat × Nat → Option Dword} {goal : Nat × Nat → Dword} (hl : s.unit.lanes ≠ [])
    (hlive : s.unit.live = true) (hn : ∀ p ∈ s.unit.lanes, next p = some (goal p)) :
    ∀ p ∈ s.unit.lanes, StandsAt (s.split e next) p (goal p) := by
  intro p hp
  obtain ⟨x, hx, hxn, hpx⟩ := mem_partsBy (next := next) hp
  have hxs : x.1 = some (goal p) := hxn.trans (hn p hp)
  unfold State.split
  split
  · rename_i h0
    rw [h0] at hx
    cases hx
  · rename_i h1
    rw [h1] at hx
    obtain rfl : x = _ := by simpa using hx
    cases hxs
  · rename_i h hd h1
    rw [h1] at hx
    obtain rfl : x = _ := by simpa using hx
    obtain rfl := Option.some.inj hxs
    have ht := clauseTrace_traced s e s.unit.issued (goal p)
    obtain ⟨k, hu⟩ := ht.unit hl
    have hm := mem_updUnit (s := s.clauseTrace e s.unit.issued (goal p)) (by rw [ht.lanes]; exact hl) fun u => u.goto (goal p)
    rw [ht.cur] at hm
    refine ⟨_, hm, ?_⟩
    simp [IssueUnit.goto, hu, hlive, hp]
  · rename_i a rest _ _ h1
    have ht := clauseTrace_traced s 5 s.unit.issued 0
    obtain ⟨k, hu⟩ := ht.unit hl
    dsimp only
    generalize hs1 : (s.clauseTrace 5 s.unit.issued 0).untraced s.cur = s1
    have hu1 : s1.unit = { s.unit with packet := k } := hs1 ▸ hu
    obtain ⟨hkeep, hnew⟩ := enroll_units (s1.updUnit s1.cur fun u => { u.land a.1 with lanes := a.2, fold := 255 })
      (rest.map fun x => { s1.unit.land x.1 with lanes := x.2, packet := 0, blocked := false, fold := 255 })
    rw [h1] at hx
    obtain rfl | hx := List.mem_cons.mp hx
    · refine ⟨_, hkeep _ (mem_updUnit (by rw [hu1]; exact hl) _), ?_⟩
      simp [hu1, hxs, IssueUnit.land, IssueUnit.goto, hlive, hpx]
    · obtain ⟨j, hj⟩ := hnew _ (List.mem_map_of_mem hx)
      refine ⟨_, hj, ?_⟩
      simp [hu1, hxs, IssueUnit.land, IssueUnit.goto, hlive, hpx]

/-! The words. -/

theorem exec_bra (g off : Nat) (s : State) : exec (.bra g off) s = s.transfer [] g 1 fun _ => s.relTarget off := rfl

theorem exec_brx (a : Opnd) (g : Nat) (s : State) : exec (.brx a g) s = s.transfer [srcUse a 2 0] g 2 fun p => s.src64 p a := rfl

theorem exec_call (g off : Nat) (s : State) : exec (.call g off) s = s.callTo [] g 1 fun _ => s.relTarget off := rfl

theorem exec_callx (a : Opnd) (g : Nat) (s : State) : exec (.callx a g) s = s.callTo [srcUse a 2 0] g 2 fun p => s.src64 p a := rfl

theorem exec_ret (g : Nat) (s : State) : exec (.ret g) s = execRet g s := rfl

/-- Where the threads of the unit go on, and their call stacks, after a transfer. -/
def Transferred (s : State) (g : Nat) (t : State) (target : Nat × Nat → Dword) (stack : Nat × Nat → List Dword) : Prop :=
  (∀ p ∈ s.unit.lanes, StandsAt t p (if (s.thr p.2).preds.getLsbD g then target p else s.unit.after)) ∧
  ∀ p ∈ s.unit.lanes, (t.thr p.2).calls = if (s.thr p.2).preds.getLsbD g then stack p else (s.thr p.2).calls

theorem relTarget_eq (s : State) (off : Nat) : s.relTarget off = s.unit.hdr + 4 * (BitVec.ofNat 21 off).signExtend 64 := by
  rw [State.relTarget, BitVec.mul_comm]

theorem targetTrap_none {s : State} {p : Nat × Nat} {target : Dword} (h : s.targetBad (launchAt s p) target = false) :
    s.targetTrap p target = none := if_neg (by rw [show s.targetBad (s.team (s.teamOf p.2)).launch target = false from h]; simp)

/-- The participants where no repeat is under way. -/
theorem mem_parts {s : State} (hr : s.unit.rep = none) {g : Nat} {p : Nat × Nat} :
    p ∈ s.parts g ↔ p ∈ s.unit.lanes ∧ (s.thr p.2).preds.getLsbD g = true := by
  simp [State.parts, State.joins, hr]

/-- A change of the participants, for each thread of the unit. -/
theorem thr_each_parts {s : State} (hs : UnitOk s) (hr : s.unit.rep = none) {g : Nat} {p : Nat × Nat} (hp : p ∈ s.unit.lanes)
    (f : Thread → Thread) :
    (s.each (s.parts g) fun _ x => f x).thr p.2 = if (s.thr p.2).preds.getLsbD g then f (s.thr p.2) else s.thr p.2 := by
  split
  · rename_i hg
    exact thr_each_same ((mem_parts hr).mpr ⟨hp, hg⟩) (hs.threads p hp) f
  · rename_i hg
    refine thr_each_other (fun q hq he => hg ?_) _
    rw [← he]
    exact ((mem_parts hr).mp hq).2

/-- The state behind a word that transfers, before the unit goes on: the unit's threads are its own. -/
theorem charged_issued {s s1 : State} {g n : Nat} (hu : s1.unit = s.unit) (hl : s.unit.lanes ≠ []) :
    let t := (if s.parts g = [] then s1 else s1.charge (ctxAt s) s.unit.core n).issued
    t.unit.lanes = s.unit.lanes ∧ t.unit.live = s.unit.live ∧ ∀ k, (t.thr k).calls = (s1.thr k).calls := by
  have h : ∀ s2 : State, s2.unit = s.unit → s2.threads = s1.threads →
      s2.issued.unit.lanes = s.unit.lanes ∧ s2.issued.unit.live = s.unit.live ∧ ∀ k, (s2.issued.thr k).calls = (s1.thr k).calls := by
    intro s2 h2 ht
    obtain ⟨n, hi⟩ := issued_unit (s := s2) (by rw [h2]; exact hl)
    rw [hi, h2]
    exact ⟨rfl, rfl, fun k => (thr_issued_part (part := Thread.calls) (fun _ _ => rfl) s2 k).trans (by simp only [State.thr, ht])⟩
  split
  · exact h s1 hu rfl
  · exact h _ hu rfl

/-- A word after which each participant goes on at its target, and the others behind the clause. -/
theorem goesOn_transferred {s s1 : State} {g cost : Nat} {ending : State → Nat} {target : Nat × Nat → Dword}
    {stack : Nat × Nat → List Dword} (hu : s1.unit = s.unit) (hl : s.unit.lanes ≠ []) (hlive : s.unit.live = true)
    (hc : ∀ p ∈ s.unit.lanes, (s1.thr p.2).calls = if (s.thr p.2).preds.getLsbD g then stack p else (s.thr p.2).calls) :
    Transferred s g (goesOn s s1 g cost fun t => t.split (ending t) fun p =>
      some (if s.takes g p then target p else s.unit.after)) target stack := by
  obtain ⟨hlanes, hl1, hcalls⟩ := charged_issued (g := g) (n := s.costNow cost) hu hl
  unfold goesOn
  constructor
  · intro p hp
    rw [← hlanes] at hp hl
    exact split_stands hl (hl1.trans hlive) (fun _ _ => rfl) p hp
  · intro p hp
    simp only [State.thr, split_threads]
    exact (hcalls p.2).trans (hc p hp)

theorem transfer_goes {s : State} {us : List Use} {g e : Nat} {target : Nat × Nat → Dword} (hs : UnitOk s)
    (h : Issues s g us) (hg : ∀ p ∈ s.parts g, s.targetBad (launchAt s p) (target p) = false) :
    ∃ t, s.transfer us g e target = .next t ∧ Transferred s g t target fun p => (s.thr p.2).calls :=
  ⟨_, run_effect (w := { uses := us, guard := g, chk := _, fin := _ }) h (fun _ _ => rfl) (fun _ => rfl)
    (fun p hp => targetTrap_none (hg p hp)) rfl h.lanes rfl,
    goesOn_transferred rfl h.lanes hs.live fun _ _ => (ite_self _).symm⟩

theorem callTo_goes {s : State} {us : List Use} {g e : Nat} {target : Nat × Nat → Dword} (hs : UnitOk s) (hr : s.unit.rep = none)
    (h : Issues s g us) (hg : ∀ p ∈ s.parts g, s.targetBad (launchAt s p) (target p) = false)
    (hroom : ∀ p ∈ s.parts g, (s.thr p.2).calls.length < 32) :
    ∃ t, s.callTo us g e target = .next t ∧ Transferred s g t target fun p => s.unit.after :: (s.thr p.2).calls := by
  refine ⟨_, run_effect (w := { uses := us, guard := g, chk := _, act := _, fin := _ }) h (fun _ _ => rfl) (fun _ => rfl)
    (fun p hp => ?_) rfl (by simpa using h.lanes) rfl, goesOn_transferred (by simp) h.lanes hs.live fun p hp => ?_⟩
  · exact Option.or_eq_none_iff.mpr ⟨targetTrap_none (hg p hp), if_neg (Nat.not_le.mpr (hroom p hp))⟩
  · rw [thr_each_parts hs hr hp fun x => { x with calls := s.unit.after :: x.calls }]
    split <;> rfl

theorem ret_goes {s : State} {g : Nat} (hs : UnitOk s) (hr : s.unit.rep = none) (h : Issues s g [])
    (hc : ∀ p ∈ s.parts g, (s.thr p.2).calls ≠ []) :
    ∃ t, exec (.ret g) s = .next t ∧
      Transferred s g t (fun p => (s.thr p.2).calls.headD 0) fun p => (s.thr p.2).calls.drop 1 := by
  refine ⟨_, run_effect (w := { guard := g, chk := _, act := _, fin := _ }) h (fun _ _ => rfl) (fun _ => rfl)
    (fun p hp => if_neg (hc p hp)) rfl (by simpa using h.lanes) rfl, goesOn_transferred (by simp) h.lanes hs.live fun p hp => ?_⟩
  rw [thr_each_parts hs hr hp fun x => { x with calls := x.calls.drop 1 }]
  split <;> rfl

/-- Settles O11: each transfer's state, and where its threads stand in it. -/
theorem transfersSendEachThreadToItsTarget : Obligations.TransfersSendEachThreadToItsTarget := by
  unfold Obligations.TransfersSendEachThreadToItsTarget
  intro s a g off hs hr rel goes calls good room
  refine ⟨fun h hg => ⟨?_, fun hroom => ?_⟩, fun h hg => ⟨?_, fun hroom => ?_⟩, fun h hc => ret_goes hs hr h hc⟩
  · rw [exec_bra, relTarget_eq]
    exact transfer_goes hs h hg
  · rw [exec_call, relTarget_eq]
    exact callTo_goes hs hr h hg hroom
  · have hv : (fun p => s.src64 p a) = fun p => val64 s p a 0 := by
      funext p
      rw [val64, stepped_zero]
    rw [exec_brx, hv]
    exact transfer_goes hs h hg
  · have hv : (fun p => s.src64 p a) = fun p => val64 s p a 0 := by
      funext p
      rw [val64, stepped_zero]
    rw [exec_callx, hv]
    exact callTo_goes hs hr h hg hroom

end Sys2Proof.Proofs
end

section
/-! PROOFS. What an access sees of the machine: memory, the translations that are held, the free values of the step, the module's
memory map and features, contexts and launches. Where these are the same, translation, reads and fetches give the same. -/

namespace Sys2Proof.Proofs

open Sys2Proof.Machine Sys2Proof.Safety Sys2Proof.Laws

/-! The page walk, a level at a time. The walk is opened with reads of memory left closed: the kernel would run them to compare. -/

/-- One level of the walk (R393 to R395): the entry that the table holds, and what `down` makes of a valid one. -/
def walkAt (reserved : Nat → Nat → Bool) (read : Nat → Nat → Option (List Byte)) (down : Nat → Except (Nat × Nat) Leaf)
    (va level table : Nat) : Except (Nat × Nat) Leaf :=
  let at_ := table + 8 * bits va (12 + 9 * level) 9
  if reserved at_ 8 then .error (4, 3)
  else
    match read at_ 8 with
    | none => .error (5, 6)
    | some bs =>
      let e := bytesVal bs
      if !bit e 0 then .error (4, 1)
      else if badEntry level e then .error (4, 3)
      else down e

theorem walkFrom_zero (s : State) (c : Context) (va table : Nat) :
    s.walkFrom c va 0 table = walkAt s.reserved s.readPhys (fun e => s.leafOf c va 0 table e) va 0 table := by
  obtain ⟨walk, hw⟩ := exists_eq (a' := State.walkFrom)
  obtain ⟨read, hr⟩ := exists_eq (a' := State.readPhys)
  obtain ⟨leaf, hl⟩ := exists_eq (a' := State.leafOf)
  rw [← hw, ← hr, ← hl]
  delta State.walkFrom State.walkFrom._f at hw
  rw [← hr, ← hl] at hw
  rw [hw]
  rfl

theorem walkFrom_succ (s : State) (c : Context) (va k table : Nat) :
    s.walkFrom c va (k + 1) table = walkAt s.reserved s.readPhys
      (fun e => if bit e 5 then s.leafOf c va (k + 1) table e else s.walkFrom c va k (bits e 12 45 * 4096)) va (k + 1) table := by
  obtain ⟨walk, hw⟩ := exists_eq (a' := State.walkFrom)
  obtain ⟨read, hr⟩ := exists_eq (a' := State.readPhys)
  obtain ⟨leaf, hl⟩ := exists_eq (a' := State.leafOf)
  rw [← hw, ← hr, ← hl]
  delta State.walkFrom State.walkFrom._f at hw
  rw [← hr, ← hl] at hw
  rw [hw]
  rfl

/-- What reads of device memory and the walk through it look at. -/
structure SameBytes (s t : State) : Prop where
  mem : t.sto.mem = s.sto.mem
  dead : t.sto.dead = s.sto.dead
  badMem : t.sto.badMem = s.sto.badMem
  lost : t.sto.lost = s.sto.lost
  fresh : t.fresh = s.fresh
  fw : t.fw = s.fw
  bar0 : t.bar0 = s.bar0

section

variable {s t : State} (h : SameBytes s t)
include h

theorem SameBytes.pick (a n : Nat) : t.pick a n = s.pick a n := by
  simp only [State.pick, h.fresh]

theorem SameBytes.memByte (a : Nat) : t.memByte a = s.memByte a := by
  simp only [State.memByte, h.mem, h.dead, h.pick]

theorem SameBytes.memBytes (a n : Nat) : t.memBytes a n = s.memBytes a n := by
  simp only [State.memBytes, h.memByte]

theorem SameBytes.capacity : t.capacity = s.capacity := by
  simp only [State.capacity, State.channelsInService, h.fw]

theorem SameBytes.memBad (a n : Nat) : t.memBad a n = s.memBad a n := by
  simp only [State.memBad, h.capacity, h.badMem, h.lost]

theorem SameBytes.readPhys (a n : Nat) : t.readPhys a n = s.readPhys a n := by
  simp only [State.readPhys, h.memBad, h.memBytes]

theorem SameBytes.reserved (a n : Nat) : t.reserved a n = s.reserved a n := by
  simp only [State.reserved, h.capacity]

theorem SameBytes.feature (k : Nat) : t.feature k = s.feature k := by
  simp only [State.feature, h.bar0]

theorem SameBytes.leafOf (c : Context) (va level table e : Nat) : t.leafOf c va level table e = s.leafOf c va level table e := by
  simp only [State.leafOf, h.readPhys, h.reserved, h.feature]

theorem SameBytes.walkFrom (c : Context) (va level table : Nat) : t.walkFrom c va level table = s.walkFrom c va level table := by
  induction level generalizing table with
  | zero => rw [walkFrom_zero, walkFrom_zero, funext₂ h.reserved, funext₂ h.readPhys, funext (h.leafOf c va 0 table)]
  | succ k ih =>
    rw [walkFrom_succ, walkFrom_succ, funext₂ h.reserved, funext₂ h.readPhys]
    simp only [h.leafOf, ih]

theorem SameBytes.walkPage (c : Context) (va : Nat) : t.walkPage c va = s.walkPage c va := h.walkFrom ..

/-- Where the same translations are held too, addresses translate the same. -/
theorem SameBytes.xlate (ht : t.sto.tlb = s.sto.tlb) (c : Context) (va need : Nat) : t.xlate c va need = s.xlate c va need := by
  have hc : t.pageChoices c va = s.pageChoices c va := by
    have hheld : t.pageHeld c va = s.pageHeld c va := by simp only [State.pageHeld, ht]
    simp only [State.pageChoices, h.walkPage, hheld]
  simp only [State.xlate, hc, h.pick]

end

/-- All that translation, reads and fetches look at. -/
structure SameView (s t : State) : Prop where
  sto : t.sto = s.sto
  fresh : t.fresh = s.fresh
  fw : t.fw = s.fw
  bar0 : t.bar0 = s.bar0
  ctxs : t.ctxs = s.ctxs
  launches : t.launches = s.launches

section

variable {s t : State} (h : SameView s t)
include h

theorem SameView.bytes : SameBytes s t :=
  ⟨by rw [h.sto], by rw [h.sto], by rw [h.sto], by rw [h.sto], h.fresh, h.fw, h.bar0⟩

theorem SameView.xlate (c : Context) (va need : Nat) : t.xlate c va need = s.xlate c va need := h.bytes.xlate (by rw [h.sto]) c va need

theorem SameView.launch (l : Nat) : t.launch l = s.launch l := by
  simp only [State.launch, h.launches]

theorem SameView.ctx (c : Nat) : t.ctx c = s.ctx c := by
  simp only [State.ctx, h.ctxs]

theorem SameView.fetchWord (l va : Nat) : t.fetchWord l va = s.fetchWord l va := by
  simp only [State.fetchWord, h.xlate, h.launch, h.ctx, h.bytes.memBad, h.bytes.memBytes, h.sto, h.bytes.pick]

theorem SameView.targetBad (l : Nat) (target : Dword) : t.targetBad l target = s.targetBad l target := by
  simp only [State.targetBad, h.fetchWord]

/-- Every byte of memory reads the same. -/
theorem SameView.memory : SameMemory s t := sameMemory_of_sto h.sto h.fresh

end

end Sys2Proof.Proofs
end

section
/-! PROOFS. Words whose checks trap: which participants go on, and what the faults of several threads in programs leave. -/

namespace Sys2Proof.Proofs

open Sys2Proof.Machine Sys2Proof.Safety Sys2Proof.Laws

/-! The checks of a word. -/

theorem mem_insertBy {α : Type} {key : α → Nat} {x y : α} {l : List α} : y ∈ insertBy key x l ↔ y = x ∨ y ∈ l := by
  induction l with
  | nil => simp [insertBy]
  | cons z r ih =>
    rw [insertBy]
    split
    · simp
    · simp only [List.mem_cons, ih]
      tauto

theorem perm_insertBy {α : Type} (key : α → Nat) (x : α) (l : List α) : (insertBy key x l).Perm (x :: l) := by
  induction l with
  | nil => exact .refl _
  | cons z r ih =>
    rw [insertBy]
    split
    · exact .refl _
    · exact (ih.cons z).trans (.swap x z r)

theorem perm_sortBy {α : Type} (key : α → Nat) (l : List α) : (sortBy key l).Perm l := by
  induction l with
  | nil => exact .refl _
  | cons x r ih => exact (perm_insertBy key x _).trans (ih.cons x)

/-- A word whose operands are ready: the participants that pass its checks go on, and the others trap. -/
theorem prep_checked {s : State} {w : Work} (h : Issues s w.guard w.uses) (ho : ∀ p ∈ s.parts w.guard, w.own s p = .ready)
    (hh : s.parts w.guard ≠ [] → w.hold s (s.parts w.guard) = false) :
    s.prep w = .go ((s.parts w.guard).filter fun p => (w.chk s (s.parts w.guard) p).isNone)
      (sortBy (fun x => x.1.1) ((s.parts w.guard).filterMap fun p => (w.chk s (s.parts w.guard) p).map fun f => (p, f))) := by
  have hb : (w.uses.any fun u => u.bad s.unit.rep (s.grp s.unit.group).budget) = false :=
    List.any_eq_false.2 fun u hu => by simp [h.operands.1 u hu]
  have hs := statuses_ready (s := s) (w := w) (eb := s.emptyBit) (ps := s.parts w.guard)
    (fun p hp u hu hl => useStatus_ready (h.operands.2 p hp u hu hl) _) ho
  have hw : (((s.parts w.guard).map fun p => (p, [Status.ready])).any
      fun x => x.2.any Status.stalls || (s.accesses && s.acquiring x.1.2)) = false := by
    rw [List.any_eq_false]
    intro x hx
    obtain ⟨p, hp, rfl⟩ := List.mem_map.1 hx
    cases ha : s.accesses with
    | false => simp [Status.stalls]
    | true => simp [Status.stalls, h.free ha p hp]
  have ht : ∀ x ∈ (s.parts w.guard).map (fun p => (p, [Status.ready])),
      ((firstTrap x.2).map fun f => (x.1, f)) = none := by
    intro x hx
    obtain ⟨p, _, rfl⟩ := List.mem_map.1 hx
    rfl
  have hnil : ((s.parts w.guard).map fun p => (p, [Status.ready])).filterMap
      (fun x => (firstTrap x.2).map fun f => (x.1, f)) = [] := List.filterMap_eq_nil_iff.mpr ht
  have hself : (((s.parts w.guard).map fun p => (p, [Status.ready])).filter
      fun x => ((firstTrap x.2).map fun f => (x.1, f)).isNone) = (s.parts w.guard).map fun p => (p, [Status.ready]) :=
    List.filter_eq_self.mpr fun x hx => by rw [ht x hx]; rfl
  have hm : (((s.parts w.guard).map fun p => (p, [Status.ready])).map Prod.fst) = s.parts w.guard := by
    simp [Function.comp_def]
  unfold State.prep
  simp only [hb, hs]
  rw [hnil, hself]
  simp only [hm, hw, List.nil_append]
  cases hp : s.parts w.guard with
  | nil => simp [sortBy]
  | cons p r =>
    have := hh (by simp [hp])
    rw [hp] at this
    simp [this]

/-! The machine but for its threads, units and folds. -/

/-- All but threads, units and folds is as before. -/
def Refiled (s t : State) : Prop := { t with threads := s.threads, units := s.units, folds := s.folds } = s

theorem Refiled.refl (s : State) : Refiled s s := rfl

theorem Refiled.trans {s t u : State} (h : Refiled s t) (h' : Refiled t u) : Refiled s u := by
  have hu : ({ ({ u with threads := t.threads, units := t.units, folds := t.folds } : State) with
      threads := s.threads, units := s.units, folds := s.folds } : State) =
      { u with threads := s.threads, units := s.units, folds := s.folds } := rfl
  unfold Refiled at h h' ⊢
  rw [← hu, h', h]

section

variable {s t : State} (h : Refiled s t)
include h

theorem Refiled.same {β : Type} (f : State → β) : f { t with threads := s.threads, units := s.units, folds := s.folds } = f s :=
  congrArg f h

theorem Refiled.view : SameView s t :=
  ⟨h.same State.sto, h.same State.fresh, h.same State.fw, h.same State.bar0, h.same State.ctxs, h.same State.launches⟩

theorem Refiled.groups : t.groups = s.groups := h.same State.groups

theorem Refiled.teams : t.teams = s.teams := h.same State.teams

theorem Refiled.clk : t.clk = s.clk := h.same State.clk

theorem Refiled.cur : t.cur = s.cur := h.same State.cur

theorem Refiled.fly : t.fly = s.fly := h.same State.fly

theorem Refiled.grp (g : Nat) : t.grp g = s.grp g := by
  simp only [State.grp, h.groups]

theorem Refiled.team (m : Nat) : t.team m = s.team m := by
  simp only [State.team, h.teams]

end

end Sys2Proof.Proofs
end

section
/-! PROOFS. The faults of several threads of a unit that are in programs (R398 to R400), and TRAP (R157). -/

namespace Sys2Proof.Proofs

open Sys2Proof.Machine Sys2Proof.Safety Sys2Proof.Laws

/-! One fault. -/

/-- The unit that threads have left. -/
def leftBy (u : IssueUnit) (l : List Nat) : IssueUnit := { u with lanes := u.lanes.filter fun q => q.2 ∉ l }

/-- The threads of a list have taken their faults, and the others of the unit go on without them. -/
structure Vectors (s t : State) (l : List ((Nat × Nat) × Trap)) : Prop where
  frame : Refiled s t
  threads : t.threads.length = s.threads.length
  at_ : s.cur < t.units.length
  unit : ∃ b, t.unit = { leftBy s.unit (l.map fun x => x.1.2) with live := b } ∧ (t.unit.lanes ≠ [] → b = true)
  taken : ∀ x ∈ l, t.thr x.1.2 =
    { s.thr x.1.2 with
      frec := (trapInfo s x.1 x.2).words, resume := (trapInfo s x.1 x.2).resume, hmode := 1,
      repcount := (trapInfo s x.1 x.2).rep, resuming := false }
  others : ∀ k, k ∉ l.map (fun x => x.1.2) → t.thr k = s.thr k
  stands : ∀ x ∈ l, ∃ u ∈ t.units, u.live = true ∧ u.lanes = [x.1] ∧ u.hdr = (s.ctxOf x.1.2).handler ∧ u.idx = 0 ∧ u.words = []

theorem Vectors.nil {s : State} (hs : UnitOk s) : Vectors s s [] where
  frame := .refl s
  threads := rfl
  at_ := hs.at_
  unit := ⟨s.unit.live, by simp [leftBy], fun _ => hs.live⟩
  taken := by simp
  others := fun _ _ => rfl
  stands := by simp

/-- What a fault writes depends on the thread, its place and the word only. -/
theorem trapInfo_congr {s t : State} (h : Refiled s t) {p : Nat × Nat} (hp : t.thr p.2 = s.thr p.2)
    (hu : t.unit.hdr = s.unit.hdr ∧ t.unit.idx = s.unit.idx ∧ t.unit.rep = s.unit.rep) (f : Trap) :
    trapInfo t p f = trapInfo s p f := by
  obtain ⟨hh, hi, hr⟩ := hu
  simp only [trapInfo, State.infoOf, State.launchOf, State.teamOf, State.pc, State.repLeft, State.resumeHere, hp, hh, hi, hr, h.grp,
    h.team, h.view.launch, h.clk]

/-- The context of a thread depends on its place only. -/
theorem Refiled.ctxOf {s t : State} (h : Refiled s t) {k : Nat} (hk : t.thr k = s.thr k) : t.ctxOf k = s.ctxOf k := by
  simp only [State.ctxOf, State.launchOf, State.teamOf, hk, h.grp, h.team, h.view.launch, h.view.ctx]

theorem Refiled.launchAt {s t : State} (h : Refiled s t) {p : Nat × Nat} (hk : t.thr p.2 = s.thr p.2) : launchAt t p = launchAt s p := by
  simp only [Safety.launchAt, State.teamOf, hk, h.grp, h.team]

theorem unit_eq {s : State} (h : s.cur < s.units.length) : s.units[s.cur]? = some s.unit := by
  simp [State.unit, State.unitAt, h]

theorem vector_refiled (s : State) (p : Nat × Nat) (x : FaultInfo) (mode : Nat) (target : Dword) (ask : Option Nat) :
    Refiled s (s.vector [(p, x)] mode target ask) := rfl

/-- The unit that a thread leaves. -/
theorem leaveUnit_unit {s : State} (hc : s.cur < s.units.length) (k : Nat) :
    ∃ b, (s.leaveUnit k).unit = { leftBy s.unit [k] with live := b } ∧
      ((leftBy s.unit [k]).lanes ≠ [] → s.unit.live = true → b = true) := by
  have hcur : (s.leaveUnit k).unit = ((s.units.map _)[s.cur]?).getD .gone := rfl
  rw [hcur]
  simp only [List.getElem?_map, unit_eq hc, Option.map_some, Option.getD_some]
  split
  · refine ⟨_, by simp [leftBy]; rfl, fun h _ => ?_⟩
    obtain ⟨q, hq⟩ := List.exists_mem_of_ne_nil _ h
    obtain ⟨hq, hne⟩ := List.mem_filter.mp hq
    exact List.any_eq_true.mpr ⟨q, hq, by simpa using hne⟩
  · rename_i hno
    have hself : (s.unit.lanes.filter fun q => q.2 ∉ [k]) = s.unit.lanes := List.filter_eq_self.mpr fun q hq => by
      have := fun h => hno (List.any_eq_true.mpr ⟨q, hq, h⟩)
      simpa using this
    exact ⟨s.unit.live, by simp only [leftBy, hself], fun _ h => h⟩

/-- A unit in which the thread that leaves does not stand stays. -/
theorem mem_leaveUnit {s : State} {k : Nat} {v : IssueUnit} (hv : v ∈ s.units) (hk : ∀ q ∈ v.lanes, q.2 ≠ k) :
    v ∈ (s.leaveUnit k).units := by
  refine List.mem_map.mpr ⟨v, hv, ?_⟩
  have : ¬ (v.lanes.any fun q => q.2 == k) = true := by
    simpa using fun a h => hk (a, k) h rfl
  simp [this]

/-- The unit at issue is the same where units are added behind. -/
theorem unit_of_append {s t : State} {r : List IssueUnit} (hc : s.cur < s.units.length) (hu : t.units = s.units ++ r)
    (hcur : t.cur = s.cur) : t.cur < t.units.length ∧ t.unit = s.unit := by
  refine ⟨by rw [hu, hcur, List.length_append]; omega, ?_⟩
  rw [State.unit, State.unitAt, hcur, hu, List.getElem?_append_left hc]
  rfl

theorem leaveUnit_units_length (s : State) (k : Nat) : (s.leaveUnit k).units.length = s.units.length := List.length_map ..

/-- The unit that a vectoring thread leaves. -/
theorem vector_unit {s : State} (hc : s.cur < s.units.length) (p : Nat × Nat) (x : FaultInfo) (mode : Nat) (target : Dword)
    (ask : Option Nat) : s.cur < (s.vector [(p, x)] mode target ask).units.length ∧
    ∃ b, (s.vector [(p, x)] mode target ask).unit = { leftBy s.unit [p.2] with live := b } ∧
      ((leftBy s.unit [p.2]).lanes ≠ [] → s.unit.live = true → b = true) := by
  obtain ⟨u, hu, -⟩ := vector_units s p x mode target ask
  obtain ⟨hlen, hunit⟩ := unit_of_append (s := s.leaveUnit p.2) (t := s.vector [(p, x)] mode target ask)
    (by rw [leaveUnit_units_length]; exact hc) hu rfl
  exact ⟨hlen, by rw [hunit]; exact leaveUnit_unit hc p.2⟩

/-- A unit in which the vectoring thread does not stand stays. -/
theorem mem_vector {s : State} {p : Nat × Nat} {v : IssueUnit} (hv : v ∈ s.units) (hp : ∀ q ∈ v.lanes, q.2 ≠ p.2) (x : FaultInfo)
    (mode : Nat) (target : Dword) (ask : Option Nat) : v ∈ (s.vector [(p, x)] mode target ask).units := by
  obtain ⟨u, hu, -⟩ := vector_units s p x mode target ask
  rw [hu]
  exact List.mem_append_left _ (mem_leaveUnit hv hp)

theorem vector_thr_other {s : State} {p : Nat × Nat} {k : Nat} (hk : k ≠ p.2) (x : FaultInfo) (mode : Nat) (target : Dword)
    (ask : Option Nat) : (s.vector [(p, x)] mode target ask).thr k = s.thr k := by
  have h : (s.vector [(p, x)] mode target ask).thr k = ((upd s.threads p.2 _)[k]?).getD .gone := rfl
  rw [h, getElem?_upd, if_neg hk]
  rfl

theorem length_upd {α : Type} (l : List α) (n : Nat) (f : α → α) : (upd l n f).length = l.length := by
  induction l generalizing n with
  | nil => rfl
  | cons x r ih => cases n <;> simp [upd, ih]

theorem vector_threads_length (s : State) (p : Nat × Nat) (x : FaultInfo) (mode : Nat) (target : Dword)
    (ask : Option Nat) : (s.vector [(p, x)] mode target ask).threads.length = s.threads.length :=
  length_upd (s.leaveUnit p.2).threads p.2 _

/-- One more fault. -/
theorem Vectors.snoc {s t : State} {l : List ((Nat × Nat) × Trap)} {x : (Nat × Nat) × Trap} (h : Vectors s t l)
    (hx : x.1.2 ∉ l.map fun y => y.1.2) (hk : x.1.2 < s.threads.length) (hm : (s.thr x.1.2).hmode = 0)
    (ht : s.targetBad (launchAt s x.1) (s.ctxOf x.1.2).handler = false) : Vectors s (t.takeTrap x.1 x.2) (l ++ [x]) := by
  obtain ⟨b, hu, hb⟩ := h.unit
  have hthr := h.others _ hx
  have hinfo : trapInfo t x.1 x.2 = trapInfo s x.1 x.2 := trapInfo_congr h.frame hthr (by simp [hu, leftBy]) x.2
  have hctx := h.frame.ctxOf hthr
  obtain ⟨ask, hv⟩ := takeTrap_program (s := t) (p := x.1) (by rw [hthr]; exact hm)
    (by rw [h.frame.launchAt hthr, hctx, h.frame.view.targetBad]; exact ht) x.2
  rw [hinfo, hctx] at hv
  have hcur := h.frame.cur
  obtain ⟨hat, c, hc, hcl⟩ := vector_unit (s := t) (by rw [hcur]; exact h.at_) x.1 (trapInfo s x.1 x.2) 1 (s.ctxOf x.1.2).handler ask
  rw [hcur] at hat
  rw [hv]
  refine ⟨h.frame.trans (vector_refiled ..), (vector_threads_length ..).trans h.threads, hat, ⟨c, ?_, ?_⟩, ?_, ?_, ?_⟩
  · rw [hc, hu]
    simp only [leftBy, List.filter_filter, List.map_append, List.mem_append, List.map_cons, List.map_nil, List.mem_singleton, not_or,
      Bool.decide_and, Bool.and_comm]
  · intro hne
    rw [hc] at hne
    refine hcl hne ?_
    rw [hu]
    refine hb fun h0 => hne ?_
    simp [leftBy, h0]
  · intro y hy
    obtain hy | rfl := by simpa using hy
    · rw [vector_thr_other fun he => hx (he ▸ List.mem_map_of_mem hy)]
      exact h.taken y hy
    · rw [vector_thr _ _ _ _ _ _ (by rw [h.threads]; exact hk), hthr]
  · intro k hk
    simp only [List.map_append, List.mem_append, List.map_cons, List.map_nil, List.mem_singleton, not_or] at hk
    rw [vector_thr_other hk.2]
    exact h.others k hk.1
  · intro y hy
    obtain hy | rfl := by simpa using hy
    · obtain ⟨u, hmem, hlive, hlanes, hrest⟩ := h.stands y hy
      refine ⟨u, mem_vector hmem ?_ _ _ _ _, hlive, hlanes, hrest⟩
      rw [hlanes]
      simpa using fun he : y.1.2 = x.1.2 => hx (he ▸ List.mem_map_of_mem (f := fun y => y.1.2) hy)
    · obtain ⟨u, hunits, hlive, hlanes, hrest⟩ := vector_units t y.1 (trapInfo s y.1 y.2) 1 (s.ctxOf y.1.2).handler ask
      exact ⟨u, by rw [hunits]; simp, hlive, hlanes, hrest⟩

/-- The faults of a word, one after the other. -/
theorem Vectors.takeTraps {s t : State} {l : List ((Nat × Nat) × Trap)} (h : Vectors s t l) (r : List ((Nat × Nat) × Trap))
    (hn : ((l ++ r).map fun x => x.1.2).Nodup)
    (hr : ∀ x ∈ r, x.1.2 < s.threads.length ∧ (s.thr x.1.2).hmode = 0 ∧
      s.targetBad (launchAt s x.1) (s.ctxOf x.1.2).handler = false) : Vectors s (t.takeTraps r) (l ++ r) := by
  induction r generalizing t l with
  | nil => simpa [State.takeTraps] using h
  | cons x r ih =>
    obtain ⟨hk, hm, ht⟩ := hr x List.mem_cons_self
    have hx : x.1.2 ∉ l.map fun y => y.1.2 := by
      rw [List.map_append, List.nodup_append] at hn
      exact fun he => hn.2.2 _ he _ (by simp) rfl
    have := ih (h.snoc hx hk hm ht) (by simpa using hn) fun y hy => hr y (List.mem_cons_of_mem _ hy)
    simpa [State.takeTraps] using this

/-- The faults of a word itself, in a unit that is not traced. -/
theorem takeAll_untraced {s : State} (h : Untraced s) {l : List ((Nat × Nat) × Trap)} (hl : ∀ x ∈ l, x.2.pc = none) :
    s.takeAll (fun s _ => s) l = s.takeTraps l := by
  have hf : ∀ (r : List ((Nat × Nat) × Trap)) (t : State), (∀ x ∈ r, x.2.pc = none) →
      r.foldl (fun s x => s.tellTrap x.1.2 x.2) t = t := by
    intro r
    induction r with
    | nil => exact fun _ _ => rfl
    | cons x r ih =>
      intro t hr
      rw [List.foldl_cons, tellTrap_of_pc_none (hr x List.mem_cons_self)]
      exact ih t fun y hy => hr y (List.mem_cons_of_mem _ hy)
  simp only [State.takeAll, clauseTrace_untraced h, ite_self, hf l s hl]

/-! Going on at a header. -/

/-- A unit other than the one at issue stays where that one goes on. -/
theorem mem_split {s : State} {k : Nat} {v : IssueUnit} (hv : s.units[k]? = some v) (hk : k ≠ s.cur) (e : Nat)
    (next : Nat × Nat → Option Dword) : v ∈ (s.split e next).units := by
  have hupd : ∀ {t : State} (f : IssueUnit → IssueUnit), t.units[k]? = some v → t.cur = s.cur →
      v ∈ (t.updUnit t.cur f).units := by
    intro t f ht hc
    refine List.mem_of_getElem? (i := k) ?_
    rw [updUnit_units, getElem?_upd, if_neg (by rw [hc]; exact hk)]
    exact ht
  have htr : ∀ e n target, (s.clauseTrace e n target).units[k]? = some v := by
    intro e n target
    obtain ⟨j, hj⟩ := (clauseTrace_traced s e n target).units
    rw [hj, getElem?_upd, if_neg hk]
    exact hv
  unfold State.split
  split
  · exact List.mem_of_getElem? hv
  · exact hupd _ hv rfl
  · rw [← (clauseTrace_traced s e s.unit.issued _).cur]
    exact hupd _ (htr ..) (clauseTrace_traced s ..).cur
  · exact (enroll_units _ _).1 _ (hupd (t := (s.clauseTrace 5 s.unit.issued 0).untraced s.cur) _ (htr ..)
      (clauseTrace_traced s ..).cur)

/-- Going on at headers writes no byte where no trace is on. -/
theorem split_sameMemory {s : State} (h : Untraced s) (e : Nat) (next : Nat × Nat → Option Dword) :
    SameMemory s (s.split e next) := by
  unfold State.split
  split
  · exact sameMemory_of_sto rfl rfl
  · exact sameMemory_of_sto rfl rfl
  · rw [clauseTrace_untraced h]
    exact sameMemory_of_sto rfl rfl
  · dsimp only
    rw [clauseTrace_untraced h]
    have hen : ∀ (us : List IssueUnit) (t : State), (t.enroll us).sto = t.sto ∧ (t.enroll us).fresh = t.fresh := by
      intro us
      induction us with
      | nil => exact fun t => ⟨rfl, rfl⟩
      | cons u r ih => exact fun t => ih _
    exact sameMemory_of_sto (hen _ _).1 (hen _ _).2

theorem sameMemory_trans {s t u : State} (h : SameMemory s t) (h' : SameMemory t u) : SameMemory s u := fun a =>
  ⟨(h' a).1.trans (h a).1, (h' a).2.1.trans (h a).2.1, (h' a).2.2.trans (h a).2.2⟩

theorem issued_refiled (s : State) : Refiled s s.issued := rfl

/-- The unit's context is that of its group. -/
theorem Refiled.untraced {s t : State} (h : Refiled s t) (hg : t.unit.group = s.unit.group) (hu : Untraced s) : Untraced t := by
  have hc : ctxAt t = ctxAt s := by simp only [ctxAt, hg, h.grp, h.team, h.view.launch]
  rw [Untraced, hc, h.view.ctx]
  exact hu

/-! Once the word has issued and the other threads go on. -/

section

variable {s t : State} {l : List ((Nat × Nat) × Trap)} (h : Vectors s t l)
include h

theorem Vectors.lanes : t.unit.lanes = s.unit.lanes.filter fun q => q.2 ∉ l.map fun x => x.1.2 := by
  obtain ⟨b, hu, -⟩ := h.unit
  rw [hu]
  rfl

theorem Vectors.issued_group : t.issued.unit.group = s.unit.group := by
  obtain ⟨b, hu, -⟩ := h.unit
  have hc : t.cur < t.units.length := by rw [h.frame.cur]; exact h.at_
  have hi : t.issued.unit = ((upd t.units t.cur _)[t.cur]?).getD .gone := rfl
  rw [hi, getElem?_upd, if_pos rfl, unit_eq hc, hu]
  rfl

/-- A thread that has taken its fault stands alone at its handler, behind the unit's issue. -/
theorem Vectors.split_stands {x : (Nat × Nat) × Trap} (hx : x ∈ l) (e : Nat) (next : Nat × Nat → Option Dword) :
    StandsAt (t.issued.split e next) x.1 (s.ctxOf x.1.2).handler := by
  obtain ⟨u, hu, hlive, hlanes, hat⟩ := h.stands x hx
  obtain ⟨k, hk⟩ := List.mem_iff_getElem?.mp hu
  have hne : k ≠ t.cur := by
    rintro rfl
    have hl : x.1 ∈ t.unit.lanes := by simp [State.unit, State.unitAt, hk, hlanes]
    rw [h.lanes] at hl
    have := (List.mem_filter.mp hl).2
    exact absurd (List.mem_map_of_mem (f := fun x : (Nat × Nat) × Trap => x.1.2) hx) (by simpa using this)
  refine ⟨u, mem_split (s := t.issued) (k := k) ?_ hne e next, hlive, by simp [hlanes], hat⟩
  have hi : t.issued.units = upd t.units t.cur _ := rfl
  rw [hi, getElem?_upd, if_neg hne]
  exact hk

theorem Vectors.issued_thr {x : (Nat × Nat) × Trap} (hx : x ∈ l) : t.issued.thr x.1.2 = t.thr x.1.2 := by
  refine thr_each_other (fun p hp he => ?_) _
  have hp : p ∈ t.unit.lanes := hp
  rw [h.lanes] at hp
  have := (List.mem_filter.mp hp).2
  rw [he] at this
  exact absurd (List.mem_map_of_mem (f := fun x : (Nat × Nat) × Trap => x.1.2) hx) (by simpa using this)

/-- The other threads go on at a header. -/
theorem Vectors.rest_stands {p : Nat × Nat} (hp : p ∈ s.unit.lanes) (hn : p.2 ∉ l.map fun x => x.1.2) (e : Nat) (hdr : Dword) :
    StandsAt (t.issued.split e fun _ => some hdr) p hdr := by
  have hm : p ∈ t.unit.lanes := by
    rw [h.lanes]
    exact List.mem_filter.mpr ⟨hp, by simpa using hn⟩
  have hne := List.ne_nil_of_mem hm
  obtain ⟨b, hu, hb⟩ := h.unit
  obtain ⟨n, hi⟩ := issued_unit hne
  refine Proofs.split_stands (goal := fun _ => hdr) (by rw [hi]; exact hne) ?_ (fun _ _ => rfl) p (by rw [hi]; exact hm)
  rw [hi, hu]
  exact hb hne

end

/-! The word. -/

theorem exec_trap (c g : Nat) (s : State) : exec (.trap c g) s = execTrap c g s := rfl

/-- What TRAP faults with. -/
def ownTrap (s : State) (c : Nat) : Trap := { cls := 3, code := c, resume := some s.unit.after }

/-- The participants of TRAP, in lane order, with their faults. -/
def trapList (s : State) (c g : Nat) : List ((Nat × Nat) × Trap) :=
  sortBy (fun x => x.1.1) ((s.parts g).map fun p => (p, ownTrap s c))

theorem mem_trapList {s : State} {c g : Nat} {x : (Nat × Nat) × Trap} : x ∈ trapList s c g ↔ x.1 ∈ s.parts g ∧ x.2 = ownTrap s c := by
  rw [trapList, (perm_sortBy _ _).mem_iff, List.mem_map]
  constructor
  · rintro ⟨p, hp, rfl⟩
    exact ⟨hp, rfl⟩
  · rintro ⟨hp, hf⟩
    exact ⟨x.1, hp, by rw [← hf]⟩

theorem trapList_once {s : State} (hs : UnitOk s) (c g : Nat) : ((trapList s c g).map fun x => x.1.2).Nodup := by
  rw [trapList, ((perm_sortBy _ _).map _).nodup_iff, List.map_map]
  exact hs.once.sublist (List.filter_sublist.map Prod.snd)

theorem run_trap {s : State} {c g : Nat} (h : Issues s g []) : exec (.trap c g) s =
    .next (((s.takeAll (fun s _ => s) (trapList s c g)).issued).split 0 fun _ => some s.unit.after) := by
  rw [exec_trap, execTrap, State.run, prep_checked h (fun _ _ => rfl) fun _ => rfl]
  simp only [State.pay, Option.isNone_some, List.filter_false, if_true, trapList, ownTrap, List.filterMap_eq_map', Option.map_some,
    ite_self]

theorem trapInfo_ownTrap {s : State} (hr : s.unit.rep = none) (c : Nat) (p : Nat × Nat) : trapInfo s p (ownTrap s c) =
    { s.infoOf p.2 with pc := s.pc, cls := 3, code := c, resume := s.unit.after, rep := (s.thr p.2).repcount } := by
  simp only [trapInfo, ownTrap, State.repLeft, hr, Option.getD_none, Option.getD_some, State.infoOf]

/-- The threads of a unit are told apart by their numbers. -/
theorem lane_eq {s : State} (hs : UnitOk s) {p q : Nat × Nat} (hp : p ∈ s.unit.lanes) (hq : q ∈ s.unit.lanes) (h : p.2 = q.2) :
    p = q := by
  have := find_of_once hs.once hp
  rw [h, find_of_once hs.once hq] at this
  exact (Option.some.inj this).symm

/-- Settles O13: the participants' faults are taken one after the other in lane order, and each leaves the others' alone. -/
theorem trapWordEntersTheHandler : Obligations.TrapWordEntersTheHandler := by
  unfold Obligations.TrapWordEntersTheHandler
  intro s c g hs hr hi hu hp
  have hv : Vectors s (s.takeTraps (trapList s c g)) (trapList s c g) :=
    (Vectors.nil hs).takeTraps _ (trapList_once hs c g) fun x hx => by
      obtain ⟨hx, -⟩ := mem_trapList.mp hx
      exact ⟨hs.threads _ (List.mem_filter.mp hx).1, hp _ hx⟩
  have ht := takeAll_untraced hu (l := trapList s c g) fun x hx => by rw [(mem_trapList.mp hx).2]; rfl
  generalize s.takeTraps (trapList s c g) = t at hv ht
  have hframe : Refiled s t.issued := hv.frame.trans (issued_refiled t)
  refine ⟨_, run_trap hi, ?_, fun p hpp => ?_, fun p hl hn => ?_⟩
  · rw [ht]
    exact sameMemory_trans hframe.view.memory (split_sameMemory (hframe.untraced hv.issued_group hu) _ _)
  · have hx : (p, ownTrap s c) ∈ trapList s c g := mem_trapList.mpr ⟨hpp, rfl⟩
    have hthr := (hv.issued_thr hx).trans (hv.taken _ hx)
    rw [trapInfo_ownTrap hr] at hthr
    have hk : ∀ e next, ((t.issued.split e next).thr p.2) = t.issued.thr p.2 := fun e next => by
      simp only [State.thr, split_threads]
    rw [ht, hk, hthr]
    refine ⟨rfl, rfl, hv.split_stands hx 0 fun _ => some s.unit.after, ?_⟩
    dsimp only
  · rw [ht]
    refine hv.rest_stands hl (fun he => hn ?_) 0 s.unit.after
    obtain ⟨x, hx, hxp⟩ := List.mem_map.mp he
    have hxm := (mem_trapList.mp hx).1
    rwa [lane_eq hs hl (List.mem_filter.mp hxm).1 hxp.symm]

end Sys2Proof.Proofs
end

section
/-! PROOFS. What happens behind the threads' backs (held errors, fills, flushes, releases, complete registers) leaves the units, the
folds, the barriers, and the threads but for their registers, counters and errors. -/

namespace Sys2Proof.Proofs

open Sys2Proof.Machine Sys2Proof.Safety Sys2Proof.Laws

set_option Elab.async false

/-- A thread but for its registers, its counters and its errors. -/
def lastingThread (x : Thread) : Thread :=
  { x with v := [], st := 0, mx := 0, gx := 0, ct := 0, counted := [], held := [], tiled := false, failures := [] }

/-- A group but for its scalar and convergence registers. -/
def lastingGroup (g : Machine.Group) : Machine.Group := { g with s := [], convs := [] }

/-- The units, folds, threads, groups and teams, as far as nothing behind the threads' backs changes them. -/
structure Lasting where
  cur : Nat
  clk : Nat
  units : List IssueUnit
  folds : List Fold
  threads : List Thread
  groups : List Machine.Group
  teams : List (Nat × Nat × TeamLife)

/-- What lasts of a state. -/
def lasting (s : State) : Lasting :=
  { cur := s.cur, clk := s.clk, units := s.units, folds := s.folds, threads := s.threads.map lastingThread,
    groups := s.groups.map lastingGroup, teams := s.teams.map fun m => (m.launch, m.idx, m.life) }

/-- The same but for a team's life. -/
def withLife (s : State) (m : Nat) (l : TeamLife) : State := s.updTeam m fun t => { t with life := l }

/-- What lasts is as in the state `b`. -/
def Calm (b s : State) : Prop := lasting s = lasting b

theorem Calm.refl (s : State) : Calm s s := rfl

theorem Calm.trans {s t u : State} (h : Calm s t) (h' : Calm t u) : Calm s u := Eq.trans h' h

theorem Kept.calm {b s t : State} (h : Kept s t) (hs : Calm b s) : Calm b t := by
  refine Eq.trans ?_ hs
  simp only [lasting, h.cur, h.clk, h.units, h.folds, h.threads, h.groups, h.teams]

theorem map_upd {α β : Type} {g : α → β} {f : α → α} (h : ∀ x, g (f x) = g x) (l : List α) (n : Nat) :
    (upd l n f).map g = l.map g := by
  induction l generalizing n with
  | nil => rfl
  | cons x r ih => cases n <;> simp [upd, ih, h]

theorem upd_self {α : Type} {l : List α} {n : Nat} {f : α → α} (h : ∀ x, l[n]? = some x → f x = x) : upd l n f = l := by
  induction l generalizing n with
  | nil => rfl
  | cons x r ih =>
    cases n with
    | zero => rw [upd, h x rfl]
    | succ n => rw [upd, ih fun y hy => h y (by simpa using hy)]

variable {b : State}

/-! How states are put together. -/

/-- A next state that may be missing is calm where there is one. -/
def OptionCalm (b : State) (o : Option State) : Prop := ∀ t, o = some t → Calm b t

/-- The same of a state or a fault. -/
def ExceptCalm {ε : Type} (b : State) (e : Except ε State) : Prop := ∀ t, e = .ok t → Calm b t

theorem exceptCalm_error {ε : Type} {e : ε} : ExceptCalm b (.error e) := fun _ h => nomatch h

theorem exceptCalm_ok {ε : Type} {s : State} (h : Calm b s) : ExceptCalm (ε := ε) b (.ok s) := fun _ ht => Except.ok.inj ht ▸ h

theorem exceptCalm_map {ε : Type} {e : Except ε State} {f : State → State} (he : ExceptCalm b e)
    (hf : ∀ s, Calm b s → Calm b (f s)) : ExceptCalm b (e.map f) := by
  cases e with
  | error x => exact exceptCalm_error
  | ok s => exact exceptCalm_ok (hf s (he s rfl))

theorem ite_calm {p : Prop} [Decidable p] {s t : State} (hs : Calm b s) (ht : Calm b t) : Calm b (if p then s else t) := by
  split
  exacts [hs, ht]

theorem foldl_calm {α : Type} {f : State → α → State} {s : State} {l : List α} (h : Calm b s)
    (hf : ∀ s x, Calm b s → Calm b (f s x)) : Calm b (l.foldl f s) := by
  induction l generalizing s with
  | nil => exact h
  | cons x r ih => exact ih (hf s x h)

theorem elim_calm {α : Type} {o : Option α} {s : State} {f : α → State} (h : Calm b s) (hf : ∀ x, Calm b (f x)) :
    Calm b (o.elim s f) := by
  cases o with
  | none => exact h
  | some x => exact hf x

theorem getD_calm {o : Option State} {s : State} (ho : OptionCalm b o) (h : Calm b s) : Calm b (o.getD s) := by
  cases o with
  | none => exact h
  | some t => exact ho t rfl

/-! The operations. -/

theorem updGrp_calm {s : State} {g : Nat} {f : Machine.Group → Machine.Group} (h : Calm b s)
    (hf : ∀ x, lastingGroup (f x) = lastingGroup x) : Calm b (s.updGrp g f) := by
  refine Eq.trans ?_ h
  simp only [lasting, State.updGrp, map_upd hf]

theorem updThr_calm {s : State} {t : Nat} {f : Thread → Thread} (h : Calm b s) (hf : ∀ x, lastingThread (f x) = lastingThread x) :
    Calm b (s.updThr t f) := by
  refine Eq.trans ?_ h
  simp only [lasting, State.updThr, map_upd hf]

theorem updTeam_calm {s : State} {m : Nat} {f : Team → Team} (h : Calm b s)
    (hf : ∀ x, ((f x).launch, (f x).idx, (f x).life) = (x.launch, x.idx, x.life)) : Calm b (s.updTeam m f) := by
  refine Eq.trans ?_ h
  simp only [lasting, State.updTeam, map_upd (g := fun m : Team => (m.launch, m.idx, m.life)) hf]

theorem vwrite_kept {s t : State} {c : Context} {va : Nat} {bs : List Byte} (h : s.vwrite c va bs = some t) : Kept s t := by
  unfold State.vwrite at h
  split at h
  · cases h
  · have hf : ∀ (ps : List (Nat × Nat)) (r : State × List Byte),
        Kept r.1 (ps.foldl (fun r p => (r.1.writePhys p.1 (r.2.take p.2), r.2.drop p.2)) r).1 := by
      intro ps
      induction ps with
      | nil => exact fun r => .refl r.1
      | cons p ps ih => exact fun r => (writePhys_kept r.1 p.1 (r.2.take p.2)).trans (ih (r.1.writePhys p.1 (r.2.take p.2), r.2.drop p.2))
    exact Option.some.inj h ▸ hf _ (s, bs)

theorem vwriteOption_calm {s : State} {c : Context} {va : Nat} {bs : List Byte} (h : Calm b s) : OptionCalm b (s.vwrite c va bs) :=
  fun _ ht => (vwrite_kept ht).calm h

theorem writeSpad_calm {s : State} {a : Nat} {bs : List Byte} (h : Calm b s) : Calm b (s.writeSpad a bs) := h

theorem incCtr_lasting (x : Thread) (c : Ctr) (id : Nat) : lastingThread (x.incCtr c id) = lastingThread x := by
  cases c <;> rfl

theorem decCtr_lasting (x : Thread) (c : Ctr) (id : Nat) : lastingThread (x.decCtr c id) = lastingThread x := by
  cases c <;> rfl

theorem bump_calm {s : State} (h : Calm b s) : Calm b (s.bump) := h

theorem updConv_calm {s : State} {owner k : Nat} {f : Conv → Conv} (h : Calm b s) :
    Calm b (s.updConv owner k f) := updGrp_calm h fun _ => rfl

theorem updFly_calm {s : State} {f : Flight → Flight} (h : Calm b s) : Calm b (s.updFly f) := h

theorem sendMsi_calm {s : State} {vec : Nat} (h : Calm b s) : Calm b (s.sendMsi vec) := by
  unfold State.sendMsi
  dsimp only
  split <;> exact h

theorem fqWrite_calm {s : State} {c : Context} {f : FaultInfo} (h : Calm b s) :
    Calm b (s.fqWrite c f) := by
  unfold State.fqWrite
  dsimp only
  split
  · exact h
  · next ht =>
      split
      · exact getD_calm (vwriteOption_calm h) h
      · split
        · exact h
        · next ht1 =>
            split
            · exact vwriteOption_calm h _ ht1
            · next ht2 =>
                split
                · exact sendMsi_calm (vwriteOption_calm (vwriteOption_calm h _ ht1) _ ht2)
                · exact vwriteOption_calm (vwriteOption_calm h _ ht1) _ ht2

theorem lostError_calm {s : State} {t : Nat} {h : HeldError} (hm : Calm b s) :
    Calm b (s.lostError t h) := by
  unfold State.lostError
  exact fqWrite_calm hm

theorem holdError_calm {s : State} {t : Nat} {h : HeldError} (hm : Calm b s) :
    Calm b (s.holdError t h) := by
  unfold State.holdError
  split
  exacts [lostError_calm hm, updThr_calm hm fun _ => rfl]

theorem updResv_calm {s : State} {m r : Nat} {f : Resv → Resv} (h : Calm b s) :
    Calm b (s.updResv m r f) := updTeam_calm h fun _ => rfl

theorem updCtx_calm {s : State} {c : Nat} {f : Context → Context} (h : Calm b s) :
    Calm b (s.updCtx c f) := h

theorem charge_calm {s : State} {ctx core units : Nat} (h : Calm b s) :
    Calm b (s.charge ctx core units) := h

theorem takeId_calm {s : State} (h : Calm b s) : Calm b (s.takeId) := h

theorem enqueue_calm {s : State} {m r : Nat} {k t : Nat} {pc : Dword} {kind : MKind} (h : Calm b s) :
    Calm b (s.enqueue m r k t pc kind) := h

theorem issueTile_calm {s : State} {m issuer : Nat} {pc : Dword} {x : Issue} (h : Calm b s) :
    ExceptCalm b (s.issueTile m issuer pc x) := by
  unfold State.issueTile
  dsimp only
  split
  · exact exceptCalm_error
  · split
    · exact exceptCalm_error
    · split
      · exact exceptCalm_error
      · split
        · exact exceptCalm_error
        · split
          exacts [exceptCalm_error, exceptCalm_ok (enqueue_calm (charge_calm (updThr_calm (updResv_calm h) fun _ => rfl)))]

theorem updAccum_calm {s : State} {m r k : Nat} {f : Accum → Accum} (h : Calm b s) :
    Calm b (s.updAccum m r k f) := updResv_calm h

theorem setSplit_calm {s : State} {owner k half : Nat} (h : Calm b s) :
    Calm b (s.setSplit owner k half) := by
  unfold State.setSplit
  split
  exacts [h, foldl_calm h fun _ _ h1 => updAccum_calm h1]

theorem issueHalf_calm {s : State} {owner k : Nat} {half issuer : Nat} {pc : Dword} {split : Bool}
    (h : Calm b s) :
    ExceptCalm b (s.issueHalf owner k half issuer pc split) := by
  unfold State.issueHalf
  split
  · exact exceptCalm_ok h
  · next ht =>
      split
      · exact exceptCalm_error
      · next ht1 =>
          exact exceptCalm_ok (by
              split
              exacts [setSplit_calm (issueTile_calm h _ ht1), issueTile_calm h _ ht1]
          )

theorem closeWindow_calm {s : State} {owner k : Nat} (h : Calm b s) :
    Calm b (s.closeWindow owner k) := by
  unfold State.closeWindow
  dsimp only
  split
  · exact updConv_calm h
  · next ht =>
      split
      · exact h
      · split
        · exact holdError_calm (updConv_calm h)
        · split
          · next ht2 =>
              exact updConv_calm (issueHalf_calm h _ ht2 :)
          · exact holdError_calm (updConv_calm h)

theorem dropMop_calm {s : State} {id : Nat} (h : Calm b s) : Calm b (s.dropMop id) := h

theorem discardSuspended_calm {s : State} {t : Nat} (h : Calm b s) :
    Calm b (s.discardSuspended t) := foldl_calm h fun _ _ h1 => foldl_calm (dropMop_calm h1) fun _ _ h2 => updAccum_calm h2

theorem convIssue_calm {s : State} {owner k issuer : Nat} {pc : Dword} (h : Calm b s) :
    ExceptCalm b (s.convIssue owner k issuer pc) := by
  unfold State.convIssue
  dsimp only
  split
  · split
    · exact exceptCalm_ok (updConv_calm h)
    · exact exceptCalm_map (issueHalf_calm h) fun _ h1 => updConv_calm h1
    · split
      exacts [exceptCalm_ok (updConv_calm h), exceptCalm_map (issueTile_calm h) fun _ h1 => updConv_calm h1]
  · split
    exacts [exceptCalm_map (issueHalf_calm h) fun _ h1 => updConv_calm h1, exceptCalm_ok (updConv_calm h)]

theorem soloIssue_calm {s : State} {owner k : Nat} (h : Calm b s) :
    Calm b (s.soloIssue owner k) := by
  unfold State.soloIssue
  dsimp only
  split
  · next ht =>
      split
      · exact closeWindow_calm h
      · split
        · exact updConv_calm (closeWindow_calm h)
        · split
          · exact closeWindow_calm h
          · split
            · exact holdError_calm (updConv_calm (closeWindow_calm h))
            · split
              · exact closeWindow_calm h
              · split
                · next ht3 =>
                    exact (convIssue_calm (closeWindow_calm h) _ ht3 :)
                · exact holdError_calm (updConv_calm (closeWindow_calm h))
  · split
    · exact updConv_calm h
    · next ht =>
        split
        · exact h
        · split
          · exact holdError_calm (updConv_calm h)
          · split
            · exact h
            · split
              · next ht2 =>
                  exact (convIssue_calm h _ ht2 :)
              · exact holdError_calm (updConv_calm h)

theorem openWindow_calm {s : State} {owner k : Nat} (h : Calm b s) :
    Calm b (s.openWindow owner k) := by
  unfold State.openWindow
  dsimp only
  split
  · split
    exacts [updConv_calm h, h]
  · exact h

theorem convExit_calm {s : State} {t owner : Nat} {k half : Nat} (h : Calm b s) :
    Calm b (s.convExit t owner k half) := by
  unfold State.convExit
  dsimp only
  split
  · split
    exacts [soloIssue_calm (updConv_calm h), openWindow_calm (updConv_calm h)]
  · exact h

theorem fq12_calm {s : State} {ctx code : Nat} {addr aux : Nat} (h : Calm b s) :
    Calm b (s.fq12 ctx code addr aux) := fqWrite_calm h

theorem writeStamp_calm {s : State} {c : Context} {va kind : Nat} {bs : List Byte} (h : Calm b s) :
    Calm b (s.writeStamp c va kind bs) := by
  unfold State.writeStamp
  split
  · next ht =>
      exact vwriteOption_calm h _ ht
  · exact fq12_calm h

theorem writeEnergy_calm {s : State} {ctx : Nat} {p : Nat → Bool} (h : Calm b s) :
    Calm b (s.writeEnergy ctx p) := writeStamp_calm h

theorem leaveCores_calm {s : State} {m : Nat} (h : Calm b s) : Calm b (s.leaveCores m) := by
  unfold State.leaveCores
  dsimp only
  split
  exacts [h, writeEnergy_calm h]

theorem ask_calm {s : State} {ctx dev tctx : Nat} {token : Dword} {op : RemoteOp} (h : Calm b s) :
    Calm b (s.ask ctx dev tctx token op) := h

theorem dropSubs_calm {s : State} {m : Nat} {park : Bool} (h : Calm b s) :
    Calm b (s.dropSubs m park) := by
  unfold State.dropSubs
  obtain ⟨peerOf, hp⟩ := exists_eq (a' := State.peerOf)
  rw [← hp]
  refine foldl_calm (updFly_calm (ite_calm (foldl_calm h fun _ _ h1 => elim_calm h1 fun _ => updThr_calm h1 fun x => decCtr_lasting x _ _) h)) fun _ _ h1 => ?_
  split
  exacts [ask_calm h1, h1]

theorem relAtEnd_calm {s : State} {m : Nat} (h : Calm b s) : Calm b (s.relAtEnd m) :=
  foldl_calm (foldl_calm h fun _ _ h1 => foldl_calm (dropMop_calm h1) fun _ _ h2 => updAccum_calm h2) (fun _ _ h1 => by
    split
    · exact h1
    · split
      exacts [updResv_calm h1, updResv_calm h1]
)

theorem chargeLines_calm {s : State} {ctx core : Nat} {ls : List (Nat × Nat)} (h : Calm b s) :
    Calm b (s.chargeLines ctx core ls) := by
  unfold State.chargeLines
  split <;> exact h

theorem finish_calm {s : State} {id t : Nat} {pc : Dword} {c : Ctr} {moved : List (Nat × Nat)} {err : Option Failure}
    (h : Calm b s) :
    Calm b (s.finish id t pc c moved err) := h

theorem endJob_calm {s : State} {j : Job} {err : Option Failure} (h : Calm b s) :
    Calm b (s.endJob j err) := by
  unfold State.endJob
  split
  exacts [chargeLines_calm h, h]

theorem orphan_calm {s : State} {m : Nat} {g : Option Nat} (h : Calm b s) :
    Calm b (s.orphan m g) := by
  unfold State.orphan
  exact fqWrite_calm h

theorem dropParked_calm {s : State} {m : Nat} (h : Calm b s) : Calm b (s.dropParked m) :=
  foldl_calm h (fun _ _ h1 => endJob_calm (foldl_calm h1 (fun _ _ h2 => orphan_calm h2)))

theorem updEntry_calm {s : State} {m e : Nat} {f : Entry → Entry} (h : Calm b s) :
    Calm b (s.updEntry m e f) := updTeam_calm h fun _ => rfl

theorem dropFlushes_calm {s : State} {m e : Nat} {p : Nat → Bool} (h : Calm b s) :
    Calm b (s.dropFlushes m e p) := foldl_calm h (fun _ _ h1 => endJob_calm h1)

theorem settleFill_calm {s : State} {id : Nat} (h : Calm b s) : Calm b (s.settleFill id) := by
  unfold State.settleFill
  split
  · exact h
  · split
    exacts [h, endJob_calm h]

theorem dropFill_calm {s : State} {j : Job} (h : Calm b s) : Calm b (s.dropFill j) := by
  unfold State.dropFill
  dsimp only
  split
  · exact settleFill_calm h
  · split
    exacts [h, endJob_calm h]

theorem unbindOf_calm {s : State} {m e : Nat} {program : Bool} {next : DestState} {p : Nat → Bool} (h : Calm b s) :
    Calm b (s.unbindOf m e program next p) := by
  unfold State.unbindOf
  have hd := updEntry_calm (m := m) (e := e) (f := fun x => { x with
    dests := mapFrom (fun i d => if p i then { state := next } else d) 0 x.dests }) (foldl_calm (l :=
      (mapFrom Prod.mk 0 ((s.entry m e).dests.zip (region (s.entry m e).desc).dests)).filter fun y =>
        p y.1 && y.2.1.state == .arriving) h fun s1 y h1 =>
      ite_calm (p := program = true) (writeSpad_calm (a := (s.team m).addr y.2.2.2.2) (bs := stampBytes 2 (s.entry m e).seq) h1)
        (orphan_calm (m := m) (g := y.2.2.1) h1))
  exact dropFlushes_calm (elim_calm hd fun _ => dropFill_calm hd)

theorem unbind_calm {s : State} {m e : Nat} {program : Bool} {next : DestState} (h : Calm b s) :
    Calm b (s.unbind m e program next) := unbindOf_calm h

theorem unbindAll_calm {s : State} {m : Nat} (h : Calm b s) : Calm b (s.unbindAll m) :=
  foldl_calm h (fun _ _ h1 => unbind_calm h1)

/-- A change of a team's life, where another state with the same has its own change. -/
theorem updTeam_life_calm {s : State} {m : Nat} {l : TeamLife} {f : Team → Team} (h : Calm b s)
    (hf : ∀ x, ((f x).launch, (f x).idx, (f x).life) = (x.launch, x.idx, l)) : Calm (withLife b m l) (s.updTeam m f) := by
  have hm : ∀ (k : List Team) (n : Nat) (g : Team → Team), (∀ x, ((g x).launch, (g x).idx, (g x).life) = (x.launch, x.idx, l)) →
      (upd k n g).map (fun m : Team => (m.launch, m.idx, m.life)) =
      upd (k.map fun m : Team => (m.launch, m.idx, m.life)) n fun x => (x.1, x.2.1, l) := by
    intro k
    induction k with
    | nil => exact fun _ _ _ => rfl
    | cons x r ih =>
      intro n g hg
      cases n with
      | zero => simp only [upd, List.map_cons, hg]
      | succ n => simp only [upd, List.map_cons, ih n g hg]
  have hs : lasting (s.updTeam m f) =
      { lasting s with teams := upd (lasting s).teams m fun x => (x.1, x.2.1, l) } := by
    simp only [lasting, State.updTeam, hm s.teams m f hf]
  have hb : lasting (withLife b m l) = { lasting b with teams := upd (lasting b).teams m fun x => (x.1, x.2.1, l) } := by
    simp only [lasting, withLife, State.updTeam,
      hm b.teams m (fun t => { t with life := l }) fun _ => rfl]
  unfold Calm at h ⊢
  rw [hs, hb, h]

theorem retireTeam_calm {s : State} {m : Nat} (h : Calm b s) : Calm (withLife b m .retired) (s.retireTeam m) :=
  updTeam_life_calm (dropSubs_calm (relAtEnd_calm (dropParked_calm (unbindAll_calm h)))) fun _ => rfl

theorem freeResvs_calm {s : State} {m : Nat} (h : Calm b s) : Calm b (s.freeResvs m) := updTeam_calm (updFly_calm h) fun _ => rfl

theorem parkTeam_calm {s : State} {m : Nat} (h : Calm b s) : Calm (withLife b m .parked) (s.parkTeam m) :=
  updTeam_life_calm (updCtx_calm (dropSubs_calm (freeResvs_calm (unbindAll_calm h)))) fun _ => rfl

theorem withLife_self (s : State) (m : Nat) : withLife s m (s.team m).life = s := by
  have ht : upd s.teams m (fun t => { t with life := (s.team m).life }) = s.teams := upd_self fun x hx => by
    simp [State.team, hx]
  rw [withLife, State.updTeam, ht]

/-- What becomes of a team changes its life only, as far as lasts. -/
theorem checkTeam_calm {s : State} {m : Nat} (h : Calm b s) : ∃ l, Calm (withLife b m l) (s.checkTeam m) := by
  have hself : ∃ l, Calm (withLife b m l) s := by
    have := updTeam_life_calm (m := m) (l := (s.team m).life) (f := fun t => { t with life := (s.team m).life }) h fun _ => rfl
    rw [show s.updTeam m (fun t => { t with life := (s.team m).life }) = s from withLife_self s m] at this
    exact ⟨_, this⟩
  unfold State.checkTeam
  dsimp only
  split
  · split
    exacts [⟨_, leaveCores_calm (retireTeam_calm h)⟩, hself]
  · split
    · exact ⟨_, leaveCores_calm (retireTeam_calm h)⟩
    · split
      exacts [⟨_, leaveCores_calm (parkTeam_calm h)⟩, hself]
  · exact hself

theorem unbindGroup_calm {s : State} {g : Nat} (h : Calm b s) : Calm b (s.unbindGroup g) :=
  foldl_calm h (fun _ _ h1 => by
    dsimp only
    split
    exacts [unbindOf_calm h1, h1]
)

end Sys2Proof.Proofs
end

section
/-! PROOFS. EXIT, and what the end of a thread leaves (R85, R156, R177). -/

namespace Sys2Proof.Proofs

open Sys2Proof.Machine Sys2Proof.Safety Sys2Proof.Laws

/-! What is read of a state that is calm. -/

section

variable {b s : State} (h : Calm b s)
include h

theorem Calm.units : s.units = b.units := congrArg Lasting.units h

theorem Calm.folds : s.folds = b.folds := congrArg Lasting.folds h

theorem Calm.cur : s.cur = b.cur := congrArg Lasting.cur h

theorem Calm.unit : s.unit = b.unit := by
  simp only [State.unit, State.unitAt, h.units, h.cur]

theorem Calm.threads : s.threads.map lastingThread = b.threads.map lastingThread := congrArg Lasting.threads h

theorem Calm.thr (k : Nat) : lastingThread (s.thr k) = lastingThread (b.thr k) := by
  have ht := congrArg (fun l => (l[k]?).getD (lastingThread .gone)) h.threads
  rw [List.getElem?_map, List.getElem?_map, Option.getD_map, Option.getD_map] at ht
  exact ht

theorem Calm.grp (g : Nat) : lastingGroup (s.grp g) = lastingGroup (b.grp g) := by
  have ht := congrArg (fun l : List Machine.Group => (l[g]?).getD (lastingGroup .gone)) (congrArg Lasting.groups h)
  simp only [lasting, List.getElem?_map, Option.getD_map] at ht
  exact ht

theorem Calm.life (k : Nat) : (s.thr k).life = (b.thr k).life := by
  have := congrArg Thread.life (h.thr k)
  exact this

theorem Calm.bars (g : Nat) : (s.grp g).bars = (b.grp g).bars := by
  have := congrArg Machine.Group.bars (h.grp g)
  exact this

end

/-! The end of a thread. -/

/-- A thread has left its unit and its fold, and its group's barriers have taken notice. -/
def withoutThread (s : State) (k : Nat) : State :=
  ((s.leaveUnit k).updThr k fun x => { x with life := .exited }).updGrp (s.thr k).group fun x =>
    { x with bars := x.bars.map Barrier.exit }

theorem grp_updGrp_part {β : Type} {part : Machine.Group → β} {f : Machine.Group → Machine.Group} (h : ∀ x, part (f x) = part x)
    (s : State) (g k : Nat) : part ((s.updGrp g f).grp k) = part (s.grp k) := by
  simp only [State.grp, State.updGrp, getElem?_upd]
  split
  · cases s.groups[k]? with
    | none => rfl
    | some x => exact h x
  · rfl

theorem endThread_calm (s : State) (k : Nat) :
    ∃ l, Calm (withLife (withoutThread s k) (s.grp (s.thr k).group).team l) (s.endThread k) := by
  unfold State.endThread
  dsimp only
  have hbase : Calm (withoutThread s k) (withoutThread s k) := .refl _
  generalize hs1 : (List.range 16).foldl _ _ = s1
  have hc : Calm (withoutThread s k) s1 := by
    rw [← hs1]
    exact foldl_calm hbase fun _ _ h1 => convExit_calm h1
  have hteam : (s1.grp (s.thr k).group).team = (s.grp (s.thr k).group).team := by
    have h1 := congrArg Machine.Group.team (hc.grp (s.thr k).group)
    exact Eq.trans h1 (grp_updGrp_part (part := Machine.Group.team)
      (f := fun x => { x with bars := x.bars.map Barrier.exit }) (fun _ => rfl) s _ _)
  rw [hteam]
  exact checkTeam_calm hc

theorem barrier_exit (x : Barrier) : x.exit =
    if x.explicit then x
    else if x.expect ≤ 1 then { x with expect := 0 }
    else if x.expect - 1 ≤ x.count then { x with expect := x.expect - 1, phase := x.phase + 1, count := 0 }
    else { x with expect := x.expect - 1 } := by
  simp only [Barrier.exit, Barrier.settle]

theorem grp_updGrp_self (s : State) (g : Nat) (f : Machine.Group → Machine.Group) (hf : (f .gone).bars = Machine.Group.gone.bars) :
    ((s.updGrp g f).grp g).bars = (f (s.grp g)).bars := by
  simp only [State.grp, State.updGrp, getElem?_upd, if_true]
  cases s.groups[g]? with
  | none => exact hf.symm
  | some x => rfl

theorem leaveUnit_gone (s : State) (k : Nat) : ∀ u ∈ (s.leaveUnit k).units, ∀ p ∈ u.lanes, p.2 ≠ k := by
  intro u hu p hp
  obtain ⟨v, -, rfl⟩ := List.mem_map.mp hu
  split at hp
  · simpa using (List.mem_filter.mp hp).2
  · rename_i hno
    exact fun he => hno (List.any_eq_true.mpr ⟨p, hp, by simpa using he⟩)

theorem leaveUnit_no_fold (s : State) (k : Nat) : ∀ f ∈ (s.leaveUnit k).folds, k ∉ f.threads := by
  intro f hf
  obtain ⟨v, -, rfl⟩ := List.mem_map.mp (List.mem_of_mem_filter hf)
  simp

/-- A unit that its last thread has left is no longer live. -/
theorem leaveUnit_idle {s : State} (h : s.unit.lanes = [] → s.unit.live = false) (k : Nat) :
    (s.leaveUnit k).unit.lanes = [] → (s.leaveUnit k).unit.live = false := by
  have hu : (s.leaveUnit k).unit = ((s.units.map _)[s.cur]?).getD .gone := rfl
  rw [hu, List.getElem?_map]
  cases hc : s.units[s.cur]? with
  | none => exact fun _ => rfl
  | some u =>
    have hs : s.unit = u := by simp [State.unit, State.unitAt, hc]
    rw [hs] at h
    simp only [Option.map_some, Option.getD_some]
    split
    · intro hl
      simpa using hl
    · exact h

/-- Threads end one after the other. -/
theorem endAll_idle (l : List (Nat × Nat)) {s : State} (h : s.unit.lanes = [] → s.unit.live = false) :
    (l.foldl (fun t p => t.endThread p.2) s).unit.lanes = [] → (l.foldl (fun t p => t.endThread p.2) s).unit.live = false := by
  induction l generalizing s with
  | nil => exact h
  | cons p r ih =>
    obtain ⟨l, hc⟩ := endThread_calm s p.2
    have hu : (s.endThread p.2).unit = (s.leaveUnit p.2).unit := hc.unit
    rw [List.foldl_cons]
    exact ih (by rw [hu]; exact leaveUnit_idle h p.2)

/-- A unit that no thread is left in writes no packet. -/
theorem clauseTrace_idle {s : State} (h : s.unit.live = false) (e n : Nat) (target : Dword) : s.clauseTrace e n target = s := by
  unfold State.clauseTrace
  split
  · rfl
  · simp [h]

theorem takeAll_nil_of_idle {s : State} (h : s.unit.lanes = [] → s.unit.live = false) (note : State → Nat × Nat → State) :
    s.takeAll note [] = s := by
  by_cases hl : s.unit.lanes = []
  · simp only [State.takeAll, clauseTrace_idle (h hl), ite_self, List.foldl_nil, State.takeTraps]
  · exact takeAll_nil note hl

/-! EXIT. -/

theorem exec_exit (g : Nat) (s : State) : exec (.exit g) s = execExit g s := rfl

/-- What a change of contexts leaves alone in each of them. -/
theorem ctx_updCtx_part {β : Type} {part : Context → β} {f : Context → Context} (hp : ∀ x, part (f x) = part x)
    (hn : ∀ x, (f x).num = x.num) (s : State) (c k : Nat) : part ((s.updCtx c f).ctx k) = part (s.ctx k) := by
  have hl : ∀ l : List Context, part (((l.map fun x => if x.num = c then f x else x).find? fun x => x.num == k).getD .gone) =
      part ((l.find? fun x => x.num == k).getD .gone) := by
    intro l
    induction l with
    | nil => rfl
    | cons x r ih =>
      have hx : (if x.num = c then f x else x).num = x.num := by split <;> simp [hn]
      simp only [List.map_cons, List.find?_cons, hx]
      split
      · simp only [Option.getD_some]
        split <;> simp [hp]
      · exact ih
  exact hl s.ctxs

theorem charge_debug (x : Context) (core n : Nat) : (x.charge core n).debug = x.debug ∧ (x.charge core n).num = x.num := by
  unfold Context.charge
  split
  · exact ⟨rfl, rfl⟩
  · split <;> exact ⟨rfl, rfl⟩

/-- A charge changes no debug descriptor. -/
theorem untraced_pay {s : State} (h : Untraced s) (c k n : Nat) (ok : List (Nat × Nat)) : Untraced (s.pay c k n ok) := by
  unfold State.pay
  split
  · exact h
  · exact (ctx_updCtx_part (fun x => (charge_debug x k _).1) (fun x => (charge_debug x k _).2) s c (ctxAt s)).trans h

theorem exitStatus_ready {s : State} {k : Nat} (h : (s.thr k).st = 0 ∧ (s.thr k).mx = 0 ∧ (s.thr k).gx = 0 ∧ (s.thr k).ct = 0 ∧
    (s.thr k).held = []) : s.exitStatus k = .ready := by
  obtain ⟨hst, hmx, hgx, hct, hh⟩ := h
  simp [State.exitStatus, hst, hmx, hgx, hct, hh, leastBy]

/-- A word that ends its participants. -/
theorem run_ends {s : State} {w : Work} (h : Issues s w.guard w.uses) (ho : ∀ p ∈ s.parts w.guard, w.own s p = .ready)
    (hh : s.parts w.guard ≠ [] → w.hold s (s.parts w.guard) = false)
    (hc : ∀ p ∈ s.parts w.guard, w.chk s (s.parts w.guard) p = none) (he : w.ends = true)
    (hi : (w.act (s.pay (ctxAt s) s.unit.core (s.costNow w.cost) (s.parts w.guard)) (s.parts w.guard)).unit.lanes = [] →
      (w.act (s.pay (ctxAt s) s.unit.core (s.costNow w.cost) (s.parts w.guard)) (s.parts w.guard)).unit.live = false) :
    s.run w = .next (w.fin (w.act (s.pay (ctxAt s) s.unit.core (s.costNow w.cost) (s.parts w.guard)) (s.parts w.guard)).issued) := by
  unfold State.run
  rw [prep_issues h ho hh hc]
  simp only [he, if_true]
  rw [show (s.launch (s.team (s.grp s.unit.group).team).launch).ctx = ctxAt s from rfl, takeAll_nil_of_idle hi]

/-- Settles O14: the participants end one after the other, and a thread that ends leaves its unit, its fold and its barriers, which
nothing that its convergence registers and its team then do changes again. -/
theorem exitEndsParticipantsAndFreesTheirBarriers : Obligations.ExitEndsParticipantsAndFreesTheirBarriers := by
  unfold Obligations.ExitEndsParticipantsAndFreesTheirBarriers
  refine ⟨fun s g hs hr hi hu hp => ?_, fun s k hk => ?_⟩
  · rw [exec_exit, execExit, run_ends hi (fun p hpp => exitStatus_ready (hp p hpp)) (fun _ => rfl) (fun _ _ => rfl) rfl]
    · simp only [clauseTrace_untraced (untraced_pay hu ..), ite_self]
      unfold State.pay ends
      split <;> rfl
    · simp only [clauseTrace_untraced (untraced_pay hu ..), ite_self]
      exact endAll_idle _ fun hl => absurd (by rwa [pay_unit] at hl) hi.lanes
  · obtain ⟨l, hc⟩ := endThread_calm s k
    refine ⟨hc.life k |>.trans (congrArg Thread.life (thr_updThr_self (s := s.leaveUnit k) hk _)), ?_, ?_, ?_⟩
    · rw [hc.units]
      exact leaveUnit_gone s k
    · rw [hc.folds]
      exact leaveUnit_no_fold s k
    · rw [hc.bars]
      exact (grp_updGrp_self _ _ _ rfl).trans (List.map_congr_left fun x _ => barrier_exit x)

end Sys2Proof.Proofs
end

section
/-! PROOFS. ERET in a handler (R411). -/

namespace Sys2Proof.Proofs

open Sys2Proof.Machine Sys2Proof.Safety Sys2Proof.Laws

theorem unsuspend_calm {b s : State} (h : Calm b s) (k : Nat) : Calm b (s.unsuspend k) :=
  foldl_calm h fun _ _ h1 => foldl_calm (updFly_calm h1) fun _ _ h2 => updAccum_calm h2

/-- A thread stands alone in a unit that is to fetch the clause again in which its resume point is. -/
def StandsAgain (us : List IssueUnit) (p : Nat × Nat) (resume : Dword) : Prop :=
  ∃ u ∈ us, u.live = true ∧ u.lanes = [p] ∧ u.words = [] ∧ u.hdr.toNat = resume.toNat % 2 ^ 57 ∧ u.idx = bits resume.toNat 57 4

/-- The threads of a list have returned. -/
structure Returned (s t : State) (l : List (Nat × Nat)) : Prop where
  at_ : t.cur < t.units.length
  lanes : t.unit.lanes = s.unit.lanes.filter fun q => q.2 ∉ l.map Prod.snd
  idle : t.unit.lanes = [] → t.unit.live = false
  threads : t.threads.length = s.threads.length
  back : ∀ p ∈ l, (t.thr p.2).hmode = 0
  others : ∀ k, k ∉ l.map Prod.snd → lastingThread (t.thr k) = lastingThread (s.thr k)
  stands : ∀ p ∈ l, StandsAgain t.units p (s.thr p.2).resume

theorem Returned.nil {s : State} (hs : UnitOk s) (hl : s.unit.lanes ≠ []) : Returned s s [] where
  at_ := hs.at_
  lanes := by simp
  idle := fun h => absurd h hl
  threads := rfl
  back := by simp
  others := fun _ _ => rfl
  stands := by simp

theorem resume_header (r : Dword) : (r &&& 0x1FFFFFFFFFFFFFF).toNat = r.toNat % 2 ^ 57 := by
  rw [BitVec.toNat_and]
  exact Nat.and_two_pow_sub_one_eq_mod r.toNat 57

/-- A thread in a handler, once its mode and what it has told of are put back. -/
def backIn (t : State) (p : Nat × Nat) : State :=
  let rep := decide ((t.thr p.2).repcount ≠ 0) && t.atRep (t.team (t.teamOf p.2)).launch (t.thr p.2).resume
  (t.updThr p.2 fun x => { x with hmode := 0, resuming := rep, repcount := if rep then x.repcount else 0, failures := [] }).unsuspend p.2

/-- The unit that a returning thread goes on in. -/
def againUnit (t : State) (p : Nat × Nat) : IssueUnit :=
  { t.unit.goto ((t.thr p.2).resume &&& 0x1FFFFFFFFFFFFFF) with
    lanes := [p], idx := bits (t.thr p.2).resume.toNat 57 4, live := true, packet := 0, fold := 255 }

theorem eretOne_handler {t : State} {p : Nat × Nat} (hm : (t.thr p.2).hmode = 1) (hp : (t.thr p.2).preempt = 0) :
    t.eretOne p = some (((backIn t p).leaveUnit p.2).enroll [againUnit t p]) := by
  unfold State.eretOne
  simp only [hp, hm, ne_eq, not_true_eq_false, if_false, show ¬ (1 : Nat) = 2 by decide, backIn, againUnit]

/-- What is as before but for the thread that returns. -/
theorem backIn_calm (t : State) (p : Nat × Nat) : Calm (t.updThr p.2 fun x => { x with
    hmode := 0,
    resuming := decide ((t.thr p.2).repcount ≠ 0) && t.atRep (t.team (t.teamOf p.2)).launch (t.thr p.2).resume,
    repcount := if decide ((t.thr p.2).repcount ≠ 0) && t.atRep (t.team (t.teamOf p.2)).launch (t.thr p.2).resume then x.repcount else 0,
    failures := [] }) (backIn t p) := unsuspend_calm (.refl _) p.2

theorem thr_updThr_other {s : State} {k j : Nat} (h : k ≠ j) (f : Thread → Thread) : (s.updThr j f).thr k = s.thr k := by
  simp only [State.thr, State.updThr, getElem?_upd, if_neg h]

/-- One more thread returns. -/
theorem Returned.snoc {s t : State} {l : List (Nat × Nat)} {p : Nat × Nat} (h : Returned s t l) (hp : p.2 ∉ l.map Prod.snd)
    (hk : p.2 < s.threads.length) (hm : (s.thr p.2).hmode = 1) (hz : (s.thr p.2).preempt = 0) :
    ∃ t', t.eretOne p = some t' ∧ Returned s t' (l ++ [p]) := by
  have hthr := h.others _ hp
  have hmode : (t.thr p.2).hmode = 1 := Eq.trans (congrArg Thread.hmode hthr :) hm
  have hzero : (t.thr p.2).preempt = 0 := Eq.trans (congrArg Thread.preempt hthr :) hz
  have hres : (t.thr p.2).resume = (s.thr p.2).resume := (congrArg Thread.resume hthr :)
  have hcalm := backIn_calm t p
  have hunits : (backIn t p).units = t.units := hcalm.units
  have hunit : (backIn t p).unit = t.unit := hcalm.unit
  have hcur : (backIn t p).cur = t.cur := hcalm.cur
  have hlen : (backIn t p).threads.length = t.threads.length := by
    have := congrArg List.length hcalm.threads
    simpa [length_upd] using this
  have hat : (backIn t p).cur < (backIn t p).units.length := by rw [hunits, hcur]; exact h.at_
  obtain ⟨b, hb, hbl⟩ := leaveUnit_unit hat p.2
  obtain ⟨hat', hunit'⟩ := unit_of_append (s := (backIn t p).leaveUnit p.2)
    (t := ((backIn t p).leaveUnit p.2).enroll [againUnit t p]) (by rw [leaveUnit_units_length]; exact hat) rfl rfl
  refine ⟨_, eretOne_handler hmode hzero, ⟨hat', ?_, ?_, hlen.trans h.threads, ?_, ?_, ?_⟩⟩
  · rw [hunit', hb, hunit]
    simp only [leftBy, h.lanes, List.filter_filter, List.map_append, List.mem_append, List.map_cons, List.map_nil,
      List.mem_singleton, not_or, Bool.decide_and, Bool.and_comm]
  · rw [hunit']
    exact leaveUnit_idle (by rw [hunit]; exact h.idle) p.2
  · intro q hq
    have hback : ∀ k, (((backIn t p).leaveUnit p.2).enroll [againUnit t p]).thr k = (backIn t p).thr k := fun _ => rfl
    rw [hback]
    obtain hq | rfl := by simpa using hq
    · have hne : q.2 ≠ p.2 := fun he => hp (he ▸ List.mem_map_of_mem hq)
      have := congrArg Thread.hmode (hcalm.thr q.2)
      rw [thr_updThr_other hne] at this
      exact this.trans (h.back q hq)
    · have := congrArg Thread.hmode (hcalm.thr q.2)
      rw [thr_updThr_self (by rw [h.threads]; exact hk)] at this
      exact this
  · intro k hkl
    simp only [List.map_append, List.mem_append, List.map_cons, List.map_nil, List.mem_singleton, not_or] at hkl
    have := hcalm.thr k
    rw [thr_updThr_other hkl.2] at this
    exact this.trans (h.others k hkl.1)
  · intro q hq
    obtain hq | rfl := by simpa using hq
    · obtain ⟨u, hu, hlive, hlanes, hrest⟩ := h.stands q hq
      refine ⟨u, List.mem_append_left _ (mem_leaveUnit (by rw [hunits]; exact hu) ?_), hlive, hlanes, hrest⟩
      rw [hlanes]
      simpa using fun he : q.2 = p.2 => hp (he ▸ List.mem_map_of_mem hq)
    · exact ⟨_, List.mem_append_right _ List.mem_cons_self, rfl, rfl, rfl, by rw [← resume_header, ← hres]; rfl, by rw [← hres]; rfl⟩

/-- The threads of a unit return one after the other. -/
theorem Returned.all {s t : State} {l : List (Nat × Nat)} (h : Returned s t l) (r : List (Nat × Nat))
    (hn : ((l ++ r).map Prod.snd).Nodup)
    (hr : ∀ p ∈ r, p.2 < s.threads.length ∧ (s.thr p.2).hmode = 1 ∧ (s.thr p.2).preempt = 0) :
    ∃ t', t.eretAll r = some t' ∧ Returned s t' (l ++ r) := by
  induction r generalizing t l with
  | nil => exact ⟨t, rfl, by simpa using h⟩
  | cons p r ih =>
    obtain ⟨hk, hm, hz⟩ := hr p List.mem_cons_self
    have hp : p.2 ∉ l.map Prod.snd := by
      rw [List.map_append, List.nodup_append] at hn
      exact fun he => hn.2.2 _ he _ (by simp) rfl
    obtain ⟨t1, ht1, h1⟩ := h.snoc hp hk hm hz
    obtain ⟨t2, ht2, h2⟩ := ih h1 (by simpa using hn) fun q hq => hr q (List.mem_cons_of_mem _ hq)
    exact ⟨t2, by rw [State.eretAll, ht1]; exact ht2, by simpa using h2⟩

/-! The word. -/

theorem exec_eret (s : State) : exec .eret s = execEret s := rfl

/-- A privileged word of privileged participants is performed. -/
theorem withPriv_privileged {s : State} {w : Work} (h : ∀ p ∈ s.parts w.guard, s.privileged p.2 = true) (go : State → Out) :
    s.withPriv w go = go s := by
  have hf : (s.parts w.guard).filter (fun p => !s.privileged p.2) = [] := List.filter_eq_nil_iff.mpr fun p hp => by simp [h p hp]
  unfold State.withPriv
  simp [hf]

/-- A word that may leave its unit without threads. -/
theorem run_leaving {s t : State} {w : Work} (h : Issues s w.guard w.uses) (ho : ∀ p ∈ s.parts w.guard, w.own s p = .ready)
    (hh : s.parts w.guard ≠ [] → w.hold s (s.parts w.guard) = false)
    (hc : ∀ p ∈ s.parts w.guard, w.chk s (s.parts w.guard) p = none) (ht : w.act s (s.parts w.guard) = t)
    (hi : t.unit.lanes = [] → t.unit.live = false) (he : w.ends = false) :
    s.run w = .next (w.fin (t.pay (ctxAt s) s.unit.core (s.costNow w.cost) (s.parts w.guard)).issued) := by
  unfold State.run
  rw [prep_issues h ho hh hc]
  simp only [he, Bool.false_eq_true, if_false, ht]
  rw [show (s.launch (s.team (s.grp s.unit.group).team).launch).ctx = ctxAt s from rfl,
    takeAll_nil_of_idle (by rw [pay_unit]; exact hi)]

/-- A unit that holds a thread which the unit at issue does not is left alone by its issue. -/
theorem mem_issued {s : State} {u : IssueUnit} {p : Nat × Nat} (hu : u ∈ s.units) (hp : p ∈ u.lanes) (hn : p ∉ s.unit.lanes) :
    u ∈ s.issued.units := by
  obtain ⟨k, hk⟩ := List.mem_iff_getElem?.mp hu
  have hne : k ≠ s.cur := by
    rintro rfl
    exact hn (by simpa [State.unit, State.unitAt, hk] using hp)
  refine List.mem_of_getElem? (i := k) ?_
  have hi : s.issued.units = upd s.units s.cur _ := rfl
  rw [hi, getElem?_upd, if_neg hne]
  exact hk

/-- Settles O15: the participants return one after the other, and no return changes the unit that another went on in. -/
theorem eretResumesWhereTheFaultWas : Obligations.EretResumesWhereTheFaultWas := by
  unfold Obligations.EretResumesWhereTheFaultWas
  intro s hs hr hi hu hp
  have hin : ∀ p ∈ s.parts 0, p ∈ s.unit.lanes := fun p hpp => (List.mem_filter.mp hpp).1
  obtain ⟨t, ht, h⟩ := (Returned.nil hs hi.lanes).all (s.parts 0) (hs.once.sublist (List.filter_sublist.map Prod.snd))
    fun p hpp => ⟨hs.threads p (hin p hpp), hp p hpp⟩
  rw [List.nil_append] at h
  refine ⟨(t.pay (ctxAt s) s.unit.core (s.costNow 2) (s.parts 0)).issued, ?_, fun p hpp => ?_⟩
  · rw [exec_eret, execEret, State.runPriv, withPriv_privileged fun p hpp => by simp [State.privileged, (hp p hpp).1],
      run_leaving (t := t) hi (fun _ _ => rfl) (fun _ => by simp [ht]) (fun p hpp => by simp [(hp p hpp).1])
        (by simp only [clauseTrace_untraced hu, ite_self, ht, Option.getD_some]) h.idle rfl]
  have hpay : ∀ c k n ok, (t.pay c k n ok).units = t.units ∧ (t.pay c k n ok).threads = t.threads ∧ (t.pay c k n ok).unit = t.unit := by
    intro c k n ok
    unfold State.pay
    split <;> exact ⟨rfl, rfl, rfl⟩
  obtain ⟨hunits, hthreads, hunit⟩ := hpay (ctxAt s) s.unit.core (s.costNow 2) (s.parts 0)
  obtain ⟨u, hmem, hlive, hlanes, hrest⟩ := h.stands p hpp
  refine ⟨(thr_issued_part (part := Thread.hmode) (fun _ _ => rfl) _ p.2).trans ?_, u,
    mem_issued (p := p) (by rw [hunits]; exact hmem) (by simp [hlanes]) ?_, hlive, hlanes, hrest⟩
  · rw [State.thr, hthreads]
    exact h.back p hpp
  · rw [hunit, h.lanes]
    simpa using fun _ => ⟨p.1, hpp⟩

end Sys2Proof.Proofs
end

section
/-! PROOFS. Faults of a word's operands and address, of a thread alone in its unit (R71, R86, R258, R398 to R401). -/

namespace Sys2Proof.Proofs

open Sys2Proof.Machine Sys2Proof.Safety Sys2Proof.Laws

/-! A double fault ends the group (R401). -/

theorem Calm.threads_length {b s : State} (h : Calm b s) : s.threads.length = b.threads.length := by
  have := congrArg List.length h.threads
  simpa only [List.length_map] using this

theorem lostErrors_calm {b s : State} (h : Calm b s) (l : List HeldError) (k : Nat) :
    Calm b (l.foldl (fun s h => s.lostError k h) s) := foldl_calm h fun _ _ h1 => lostError_calm h1

theorem withoutThread_life (s : State) (k j : Nat) : ((withoutThread s k).thr j).life =
    if j = k then Life.exited else (s.thr j).life := by
  have hw : (withoutThread s k).thr j = ((s.leaveUnit k).updThr k fun x => { x with life := .exited }).thr j := rfl
  have hs : (s.leaveUnit k).thr j = s.thr j := rfl
  rw [hw]
  split
  · next h =>
    subst h
    simp only [State.thr, State.updThr, getElem?_upd, if_true]
    cases (s.leaveUnit j).threads[j]? <;> rfl
  · next h => rw [thr_updThr_other h, hs]

/-- A thread that is halted has exited, and no other thread's life changes. -/
theorem haltThread_life (s : State) (k j : Nat) : ((s.haltThread k).thr j).life =
    if j = k then Life.exited else (s.thr j).life := by
  unfold State.haltThread
  split
  · next h =>
    split
    · next hj => rw [hj, h]
    · rfl
  · have hc : Calm s (((((s.thr k).held.foldl (fun s h => s.lostError k h) s).updThr k fun x => { x with held := [] }).discardSuspended k)) :=
      discardSuspended_calm (updThr_calm (lostErrors_calm (.refl s) _ k) fun _ => rfl)
    obtain ⟨l, he⟩ := endThread_calm _ k
    exact (he.life j).trans ((withoutThread_life _ k j).trans (by rw [hc.life]))

theorem haltAll_life (l : List Nat) (s : State) (j : Nat) : ((l.foldl State.haltThread s).thr j).life =
    if j ∈ l then Life.exited else (s.thr j).life := by
  induction l generalizing s with
  | nil => rfl
  | cons k r ih =>
    rw [List.foldl_cons, ih, haltThread_life]
    by_cases hj : j ∈ r
    · simp [hj]
    · by_cases hk : j = k <;> simp [hj, hk]

theorem mem_allPosFrom {α : Type} {p : α → Bool} {l : List α} {j k : Nat} :
    k ∈ allPosFrom p j l ↔ ∃ i x, k = j + i ∧ l[i]? = some x ∧ p x = true := by
  induction l generalizing j with
  | nil => simp [allPosFrom]
  | cons y r ih =>
    have hrest : (∃ i x, k = j + i ∧ (y :: r)[i]? = some x ∧ p x = true) ↔
        (k = j ∧ p y = true) ∨ ∃ i x, k = j + 1 + i ∧ r[i]? = some x ∧ p x = true := by
      constructor
      · rintro ⟨i, x, hi, hx, hp⟩
        cases i with
        | zero =>
          obtain rfl : y = x := by simpa using hx
          exact .inl ⟨hi, hp⟩
        | succ i => exact .inr ⟨i, x, by omega, by simpa using hx, hp⟩
      · rintro (⟨hk, hp⟩ | ⟨i, x, hi, hx, hp⟩)
        · exact ⟨0, y, hk, rfl, hp⟩
        · exact ⟨i + 1, x, by omega, by simpa using hx, hp⟩
    rw [hrest, allPosFrom]
    split
    · next h => rw [List.mem_cons, ih]; simp [h]
    · next h => rw [ih]; simp [h]

theorem mem_threadsIn {s : State} {g k : Nat} : k ∈ s.threadsIn g ↔ k < s.threads.length ∧ (s.thr k).group = g := by
  simp only [State.threadsIn, allPos, mem_allPosFrom, Nat.zero_add, State.thr, beq_iff_eq]
  constructor
  · rintro ⟨_, x, rfl, hx, hg⟩
    exact ⟨(List.getElem?_eq_some_iff.mp hx).1, by simpa [hx] using hg⟩
  · rintro ⟨hk, hg⟩
    exact ⟨k, _, rfl, thr_stands hk, hg⟩

/-- Every thread of a group that is halted has exited. -/
theorem haltGroup_life {s : State} {g k : Nat} (hk : k < s.threads.length) (hg : (s.thr k).group = g) :
    ((s.haltGroup g).thr k).life = .exited := by
  rw [State.haltGroup, haltAll_life, if_pos (mem_threadsIn.mpr ⟨hk, hg⟩)]

/-- A fault in a handler ends every thread of the group. -/
theorem takeTrap_double {s : State} {p : Nat × Nat} (hm : (s.thr p.2).hmode ≠ 0) (f : Trap) {k : Nat} (hk : k < s.threads.length)
    (hg : (s.thr k).group = (s.thr p.2).group) : ((s.takeTrap p f).thr k).life = .exited := by
  have hc : ∀ info, Calm s (s.fqWrite (s.ctxOf p.2) info) := fun _ => fqWrite_calm (.refl s)
  simp only [State.takeTrap, hm, if_false, State.doubleFault]
  refine haltGroup_life ?_ (Eq.trans (congrArg Thread.group ((hc _).thr k) :) hg)
  rw [(hc _).threads_length]
  exact hk

/-! How the unit of a faulting thread goes on. -/

/-- Going on at the next word changes no thread's life. -/
theorem advance_life (s : State) (k : Nat) : ((s.advance).thr k).life = (s.thr k).life := by
  have hn : ∀ t : State, ((t.nextWord).thr k).life = (t.thr k).life := fun t => by
    unfold State.nextWord
    split
    · exact congrArg Thread.life ((clauseTrace_traced t 0 t.unit.issued 0).thr k)
    · rfl
  unfold State.advance
  split
  · exact hn _
  · split
    · rfl
    · exact (hn _).trans (thr_each_part (part := Thread.life)
        (f := fun _ x => { x with repcount := 0, resuming := false }) (fun _ _ => rfl) _ _ _)

/-- A word of which a fault is all there is, in a unit that is not traced. -/
theorem run_faults {s : State} {w : Work} {p : Nat × Nat} {f : Trap} (hu : Untraced s) (hp : s.prep w = .go [] [(p, f)])
    (ha : w.act s [] = s) (hn : w.note = fun s _ => s) (hf : f.pc = none) (he : w.ends = false) :
    s.run w = .next (w.fin (s.takeTrap p f).issued) := by
  unfold State.run
  rw [hp]
  simp only [he, Bool.false_eq_true, if_false, ha, hn, State.pay, if_true, takeAll_one hu hf]

/-- A part of the unit at issue that the change of a unit leaves alone. -/
theorem unit_updUnit_part {β : Type} {part : IssueUnit → β} {f : IssueUnit → IssueUnit} (h : ∀ u, part (f u) = part u) (s : State)
    (k : Nat) : part (s.updUnit k f).unit = part s.unit := by
  have hx : (s.updUnit k f).unit = ((upd s.units k f)[s.cur]?).getD .gone := rfl
  rw [hx, getElem?_upd, State.unit, State.unitAt]
  split
  · cases s.units[s.cur]? with
    | none => rfl
    | some u => exact h u
  · rfl

/-- A unit that no thread is left in goes on: nothing else changes. -/
theorem advance_idle {s : State} (hr : s.unit.rep = none) (hl : s.unit.live = false) :
    ∃ f : IssueUnit → IssueUnit, s.advance = s.updUnit s.cur f := by
  have hu : (s.updUnit s.cur fun u => { u with scope := none }).unit.live = false :=
    (unit_updUnit_part (part := IssueUnit.live) (f := fun u => { u with scope := none }) (fun _ => rfl) s s.cur).trans hl
  unfold State.advance
  rw [hr]
  simp only [State.nextWord, clauseTrace_idle hu]
  split
  · exact ⟨_, updUnit_updUnit ..⟩
  · exact ⟨_, updUnit_updUnit ..⟩

/-- What a fault in a program leaves, of a thread alone in its unit. -/
theorem faults_program {s : State} {p : Nat × Nat} {f : Trap} (hs : UnitOk s) (hr : s.unit.rep = none) (hl : s.unit.lanes = [p])
    (hm : (s.thr p.2).hmode = 0) (ht : s.targetBad (launchAt s p) (s.ctxOf p.2).handler = false) (hf : f.resume = none)
    (hpc : f.pc = none) :
    SameMemory s (s.takeTrap p f).issued.advance ∧ (s.takeTrap p f).issued.advance.fly = s.fly ∧
      ((s.takeTrap p f).issued.advance.thr p.2).hmode = 1 ∧
      ((s.takeTrap p f).issued.advance.thr p.2).resume = resumeOf s.unit.hdr s.unit.idx ∧
      ((s.takeTrap p f).issued.advance.thr p.2).v = (s.thr p.2).v ∧
      StandsAt (s.takeTrap p f).issued.advance p (s.ctxOf p.2).handler ∧
      ((s.takeTrap p f).issued.advance.thr p.2).frec = ({ s.infoOf p.2 with
        pc := s.pc, cls := f.cls, code := f.code, addr := f.addr, access := f.access, aux := f.aux,
        rep := (s.thr p.2).repcount, resume := resumeOf s.unit.hdr s.unit.idx } : FaultInfo).words := by
  obtain ⟨hlive, hmem, hthr, ⟨u, hu, hulive, hup, hat⟩, hfly, -, -⟩ := takeTrap_alone hs hl hm ht f
  obtain ⟨ask, hv⟩ := takeTrap_program hm ht f
  obtain ⟨-, hgone⟩ := vector_unit_gone hl hs.at_ (trapInfo s p f) 1 (s.ctxOf p.2).handler ask
  obtain ⟨-, b, hunit, -⟩ := vector_unit hs.at_ p (trapInfo s p f) 1 (s.ctxOf p.2).handler ask
  rw [← hv] at hgone hunit
  have hpart : ∀ {β : Type} (part : IssueUnit → β), (∀ u n, part { u with expired := none, blocked := false, issued := n } = part u) →
      part (s.takeTrap p f).issued.unit = part (s.takeTrap p f).unit := fun part hp =>
    unit_updUnit_part (part := part) (fun u => hp u _) _ _
  have hrep : (s.takeTrap p f).issued.unit.rep = none := by
    rw [hpart IssueUnit.rep fun _ _ => rfl, hunit]
    exact hr
  have hlanes : (s.takeTrap p f).issued.unit.lanes = [] := (hpart IssueUnit.lanes fun _ _ => rfl).trans hgone
  obtain ⟨go, hgo⟩ := advance_idle hrep ((hpart IssueUnit.live fun _ _ => rfl).trans hlive)
  have hinfo : trapInfo s p f = { s.infoOf p.2 with
      pc := s.pc, cls := f.cls, code := f.code, addr := f.addr, access := f.access, aux := f.aux,
      rep := (s.thr p.2).repcount, resume := resumeOf s.unit.hdr s.unit.idx } := by
    simp only [trapInfo, State.infoOf, State.resumeHere, State.repLeft, hr, hf, hpc, Option.getD_none]
  have hadv : (s.takeTrap p f).issued.advance.thr p.2 = (s.takeTrap p f).issued.thr p.2 := by rw [hgo]; rfl
  rw [hadv, hthr, hinfo]
  refine ⟨sameMemory_trans hmem (by rw [hgo]; exact sameMemory_of_sto rfl rfl), by rw [hgo]; exact hfly, rfl, rfl, rfl,
    ⟨u, ?_, hulive, hup, hat⟩, by dsimp only⟩
  obtain ⟨k, hk⟩ := List.mem_iff_getElem?.mp hu
  have hne : k ≠ (s.takeTrap p f).issued.cur := by
    rintro rfl
    have : (s.takeTrap p f).issued.unit = u := by rw [State.unit, State.unitAt, hk]; rfl
    rw [this] at hlanes
    simp [hlanes] at hup
  rw [hgo]
  refine List.mem_of_getElem? (i := k) ?_
  rw [updUnit_units, getElem?_upd, if_neg hne]
  exact hk

/-! The words. -/

theorem exec_ld (d a b : Opnd) (t : MemTy) (acq : Bool) (s : State) : exec (.ld d a b t acq) s = execLd d a b t acq s := rfl

/-- A word that does no more than fault, with what it does when it issues for no participant. -/
def Faults (s : State) (i : Instr) (p : Nat × Nat) (f : Trap) : Prop :=
  exec i s = .next (s.takeTrap p f).issued.advance ∧ f.resume = none ∧ f.pc = none

/-- A register that a word names does not exist, or starts a pair at an odd one (R71). -/
theorem prep_bad {s : State} {w : Work} {p : Nat × Nat} (hl : s.unit.lanes = [p])
    (h : (w.uses.any fun u => u.bad s.unit.rep (s.grp s.unit.group).budget) = true) :
    s.prep w = .go [] [(p, { cls := 1, code := 3 })] := by
  simp only [State.prep, h, if_true, hl, List.map_cons, List.map_nil]

theorem arith_act_nil (s : State) (c g : Nat) (d : Opnd) (dn : Nat) (dRead : Bool) (a : Opnd) (an : Nat) (b : Opnd) (bn : Nat)
    (f : Word → Dword → Dword → Dword → Dword × Word) : (arith c g d dn dRead a an b bn f).act s [] = s := by
  have hp : ∀ o v, s.putDst [] o v = s := by
    intro o v
    cases o with
    | v n => exact each_nil s fun p x => { x with v := setRegs x.v n (v p) }
    | s n | zero | lane | lit n => rfl
  simp only [arith, hp, each_nil]

/-- An operand of the only participant traps. -/
theorem prep_operand {s : State} {w : Work} {p : Nat × Nat} {f : Trap} (hp : s.parts w.guard = [p])
    (hb : (w.uses.any fun u => u.bad s.unit.rep (s.grp s.unit.group).budget) = false) (hlow : ∀ u ∈ w.uses, u.low = false)
    (hf : firstTrap (w.uses.map (s.useStatus p.2 s.emptyBit)) = some f) : s.prep w = .go [] [(p, f)] := by
  have hl : w.uses.filter Use.low = [] := List.filter_eq_nil_iff.mpr fun u hu => by simp [hlow u hu]
  have hall : (w.uses.filter fun u => !u.low || true) = w.uses := List.filter_eq_self.mpr fun _ _ => by simp
  have hready : ¬ (w.uses.map (s.useStatus p.2 s.emptyBit)).all (· == .ready) = true := by
    intro h
    obtain ⟨x, hx, hxf⟩ := List.exists_of_findSome?_eq_some hf
    have := List.all_eq_true.mp h x hx
    simp only [beq_iff_eq] at this
    rw [this] at hxf
    cases hxf
  have hst : s.statuses w s.emptyBit [p] = [(p, w.uses.map (s.useStatus p.2 s.emptyBit))] := by
    simp [State.statuses, hl, firstTrap, State.statusList, hready]
  simp only [State.prep, hb, Bool.false_eq_true, if_false, hp, hst, List.filterMap_cons, List.filterMap_nil, hf, Option.map_some,
    List.filter_cons, List.filter_nil, Option.isNone_some, List.any_nil, List.map_nil, ne_eq, not_true_eq_false, decide_false,
    Bool.false_and, Bool.or_self, List.append_nil, sortBy, insertBy]

theorem add_faults {s : State} {d a b : Opnd} {p : Nat × Nat} (hu : Untraced s) (hr : s.unit.rep = none) (hl : s.unit.lanes = [p])
    (h : [dstUse d 1 false, srcUse a 1 2, srcUse b 1 1].any (fun u => u.bad none (s.grp s.unit.group).budget) = true) :
    Faults s (.add d a b 0) p { cls := 1, code := 3 } :=
  ⟨run_faults hu (prep_bad hl (by rw [hr]; exact h)) (arith_act_nil ..) rfl rfl rfl, rfl, rfl⟩

theorem add64_faults {s : State} {d a b : Opnd} {p : Nat × Nat} (hu : Untraced s) (hr : s.unit.rep = none) (hl : s.unit.lanes = [p])
    (h : [dstUse d 2 false, srcUse a 2 2, srcUse b 2 1].any (fun u => u.bad none (s.grp s.unit.group).budget) = true) :
    Faults s (.add64 d a b 0) p { cls := 1, code := 3 } :=
  ⟨run_faults hu (prep_bad hl (by rw [hr]; exact h)) (arith_act_nil ..) rfl rfl rfl, rfl, rfl⟩

/-- A failed source register gives the class and code of its failure (R86, R182). -/
theorem mov_faults {s : State} {d : Opnd} {k : Nat} {e : Failure} {p : Nat × Nat} (hu : Untraced s) (hr : s.unit.rep = none)
    (hp : s.parts 0 = [p]) (hi : Issues s 0 [dstUse d 1 false]) (hk : k < (s.grp s.unit.group).budget) (hk' : k < 96)
    (he : (s.thr p.2).reg k = .failed e) : Faults s (.mov d (.v k) 0) p e.readTrap := by
  refine ⟨run_faults hu (prep_operand hp ?_ ?_ ?_) (arith_act_nil ..) rfl rfl rfl, rfl, rfl⟩
  · have hd := hi.operands.1 _ List.mem_cons_self
    rw [hr] at hd
    have hs : (srcUse (.v k) 1 2).bad none (s.grp s.unit.group).budget = false := by
      simp [srcUse, Use.bad, Use.now, Use.atRep, opndBad]
      exact ⟨⟨hk, hk'⟩, by simp [Nat.mod_one]⟩
    rw [hr]
    exact List.any_eq_false.mpr fun u hu => by
      obtain rfl | rfl | rfl := by simpa [int2, arith] using hu
      · simp [hd]
      · simp [hs]
      · simp [srcUse, Use.bad, Use.now, Use.atRep, opndBad]
  · simp [int2, arith, dstUse, srcUse]
  · have hd : s.useStatus p.2 s.emptyBit (dstUse d 1 false) = .ready :=
      useStatus_ready (fun r hm => hi.operands.2 p (by simp [hp]) _ List.mem_cons_self (fun h => nomatch h) r hm) _
    have hs : s.useStatus p.2 s.emptyBit (srcUse (.v k) 1 2) = .trap e.readTrap := by
      simp [State.useStatus, srcUse, Use.now, Use.atRep, hr, State.regsOf, he, Reg.failure]
    simp [int2, arith, hd, hs, firstTrap]

/-- No load starts for no participant. -/
theorem startLoads_nil (s : State) (d : Opnd) (words : Nat) (sext : Bool) (ctr : Option Ctr) (sc : Scope) (acq : Option Scope) :
    s.startLoads d words sext ctr sc acq [] = s := by
  have hc : s.charged s.nextId [] (fun _ => []) = s := by
    simp [State.charged, State.updFly]
  have ha : s.accessed s.nextId [] = s := rfl
  simp only [State.startLoads, ha, State.askLine, ite_self, List.foldl_nil, hc]

/-- A misaligned load (R258). -/
theorem ld_faults {s : State} {d a b : Opnd} {t : MemTy} {p : Nat × Nat} {place : Place} (hu : Untraced s) (hp : s.parts 0 = [p])
    (hi : Issues s 0 [fillUse d t.words, srcUse a 2 2, srcUse b 1 1])
    (hx : s.xlate s.unitCtx (s.globVa p a b).toNat 1 = .ok place) (hm : (s.globVa p a b).toNat % memBytes t ≠ 0) :
    Faults s (.ld d a b t false) p { cls := 5, code := 1, addr := s.globVa p a b, access := 1 } := by
  refine ⟨run_faults hu ?_ ?_ rfl rfl rfl, rfl, rfl⟩
  · have hat : s.globAt (s.globVa p a b) (memBytes t) 1 1 =
        .error { cls := 5, code := 1, addr := s.globVa p a b, access := 1 } := by
      rw [State.globAt, hx]
      exact if_pos hm
    rw [prep_checked hi (fun _ _ => rfl) fun _ => ?_]
    · simp only [hp, hat, accTrapOf, List.filter_cons, List.filter_nil, Option.isNone_some, List.filterMap_cons, List.filterMap_nil,
        Option.map_some, sortBy, insertBy, Bool.false_eq_true, if_false]
    · simp only [hp, State.accHeld, hat, List.any_cons, List.any_nil, Bool.or_false, List.any_eq_false]
      intro o _
      split <;> simp_all
  · exact startLoads_nil ..

/-- Settles O60: each of the words does no more than fault; in a program the thread goes to its handler, in a handler its group
ends. -/
theorem operandFaultsEnterTheHandler : Obligations.OperandFaultsEnterTheHandler := by
  unfold Obligations.OperandFaultsEnterTheHandler
  intro s i f p hs hu hr hl hp hi
  obtain ⟨hx, hres, hpc⟩ : Faults s i p f := by
    obtain ⟨d, a, b, rfl, hb, rfl⟩ | ⟨d, a, b, rfl, hb, rfl⟩ | ⟨d, k, e, rfl, his, hk, hk', he, rfl⟩ |
      ⟨d, a, b, t, place, rfl, his, -, hpl, hm, rfl⟩ := hi
    · exact add_faults hu hr hl hb
    · exact add64_faults hu hr hl hb
    · exact mov_faults hu hr hp his hk hk' he
    · exact ld_faults hu hp his hpl hm
  refine ⟨fun hm ht => ⟨_, hx, faults_program hs hr hl hm ht hres hpc⟩, fun hm => ⟨_, hx, fun k hk hg => ?_⟩⟩
  have hlane : p ∈ s.unit.lanes := by simp [hl]
  rw [advance_life, thr_issued_part (part := Thread.life) fun _ _ => rfl]
  exact takeTrap_double hm f hk (hg.trans (hs.group p hlane).symm)

end Sys2Proof.Proofs
end

section
/-! PROOFS. Words that wait for something of their own, and words after which the unit may stand without threads. -/

namespace Sys2Proof.Proofs

open Sys2Proof.Machine Sys2Proof.Safety Sys2Proof.Laws

/-- The statuses of participants whose operands are ready are those of their own waits, while none of these traps. -/
theorem statusList_own {s : State} {w : Work} {eb : Bool} {ps : List (Nat × Nat)} {lead : Bool}
    (hu : ∀ p ∈ ps, ∀ u ∈ w.uses, (u.low = true → lead = true ∧ ps.head? = some p) → s.useStatus p.2 eb u = .ready)
    (ho : ∀ p ∈ ps, firstTrap [w.own s p] = none) : s.statusList w eb lead ps = ps.map fun p => (p, [w.own s p]) := by
  induction ps generalizing lead with
  | nil => rfl
  | cons p r ih =>
    have hall : ((w.uses.filter fun u => !u.low || lead).map (s.useStatus p.2 eb)).all (· == .ready) = true := by
      simp only [List.all_map, List.all_eq_true]
      intro u hm
      have hf := List.of_mem_filter hm
      have : s.useStatus p.2 eb u = .ready :=
        hu p List.mem_cons_self u (List.mem_of_mem_filter hm) fun hl => ⟨by simpa [hl] using hf, rfl⟩
      simp [this]
    simp only [State.statusList, hall, if_true, ho p List.mem_cons_self, List.map_cons, List.cons.injEq, true_and]
    refine ih (fun q hq u hm hl => ?_) fun q hq => ho q (List.mem_cons_of_mem _ hq)
    refine hu q (List.mem_cons_of_mem _ hq) u hm fun h => ?_
    simpa using (hl h).1

theorem statuses_own {s : State} {w : Work} (h : Issues s w.guard w.uses)
    (ho : ∀ p ∈ s.parts w.guard, firstTrap [w.own s p] = none) :
    s.statuses w s.emptyBit (s.parts w.guard) = (s.parts w.guard).map fun p => (p, [w.own s p]) := by
  have hu : ∀ p ∈ s.parts w.guard, ∀ u ∈ w.uses, (u.low = true → (s.parts w.guard).head? = some p) →
      s.useStatus p.2 s.emptyBit u = .ready := fun p hp u hu hl => useStatus_ready (h.operands.2 p hp u hu hl) _
  have hn : ((s.parts w.guard).head?.bind fun p => firstTrap ((w.uses.filter Use.low).map (s.useStatus p.2 s.emptyBit))) = none := by
    cases hp : s.parts w.guard with
    | nil => rfl
    | cons p r =>
      rw [hp] at hu
      simp only [List.head?_cons, Option.bind_some, firstTrap, List.findSome?_eq_none_iff, List.mem_map]
      rintro x ⟨u, hm, rfl⟩
      rw [hu p List.mem_cons_self u (List.mem_of_mem_filter hm) fun _ => rfl]
  unfold State.statuses
  rw [hn]
  exact statusList_own (fun p hp u hm hl => hu p hp u hm fun h => (hl h).2) ho

/-- A word that stalls for a participant's own wait: those that wait are held. -/
theorem run_waits {s : State} {w : Work} (h : Issues s w.guard w.uses)
    (ho : ∀ p ∈ s.parts w.guard, firstTrap [w.own s p] = none) (hs : ∃ p ∈ s.parts w.guard, (w.own s p).stalls = true) :
    s.run w = waits s (((s.parts w.guard).filter fun p => w.own s p == .hold).map Prod.snd) := by
  have hb : (w.uses.any fun u => u.bad s.unit.rep (s.grp s.unit.group).budget) = false :=
    List.any_eq_false.2 fun u hu => by simp [h.operands.1 u hu]
  have ht : ∀ x ∈ (s.parts w.guard).map (fun p => (p, [w.own s p])), ((firstTrap x.2).map fun f => (x.1, f)) = none := by
    intro x hx
    obtain ⟨p, hp, rfl⟩ := List.mem_map.1 hx
    simp [ho p hp]
  have hnil : ((s.parts w.guard).map fun p => (p, [w.own s p])).filterMap (fun x => (firstTrap x.2).map fun f => (x.1, f)) = [] :=
    List.filterMap_eq_nil_iff.mpr ht
  have hself : (((s.parts w.guard).map fun p => (p, [w.own s p])).filter fun x => ((firstTrap x.2).map fun f => (x.1, f)).isNone) =
      (s.parts w.guard).map fun p => (p, [w.own s p]) := List.filter_eq_self.mpr fun x hx => by rw [ht x hx]; rfl
  have hany : (((s.parts w.guard).map fun p => (p, [w.own s p])).any
      fun x => x.2.any Status.stalls || (s.accesses && s.acquiring x.1.2)) = true := by
    obtain ⟨p, hp, hps⟩ := hs
    exact List.any_eq_true.mpr ⟨_, List.mem_map_of_mem hp, by simp [hps]⟩
  have hheld : ((((s.parts w.guard).map fun p => (p, [w.own s p])).filter fun x => x.2.contains .hold).map fun x => x.1.2) =
      ((s.parts w.guard).filter fun p => w.own s p == .hold).map Prod.snd := by
    have hc : ((fun x : (Nat × Nat) × List Status => x.2.contains .hold) ∘ fun p => (p, [w.own s p])) =
        fun p => w.own s p == .hold := by
      funext p
      cases h : w.own s p <;> simp [h]
    rw [List.filter_map, List.map_map, hc]
    rfl
  have hp : s.prep w = .stall (((s.parts w.guard).filter fun p => w.own s p == .hold).map Prod.snd) [] := by
    unfold State.prep
    simp only [hb, statuses_own h ho]
    rw [hnil, hself]
    simp only [hany, Bool.true_or, if_true, hheld, Bool.false_eq_true, if_false]
  rw [State.run, hp]
  simp only [takeAll_nil _ h.lanes, waits]

/-- The effect of a word after which the unit goes on, also without threads. -/
theorem run_effect_leaving {s t : State} {w : Work} (h : Issues s w.guard w.uses) (ho : ∀ p ∈ s.parts w.guard, w.own s p = .ready)
    (hh : s.parts w.guard ≠ [] → w.hold s (s.parts w.guard) = false)
    (hc : ∀ p ∈ s.parts w.guard, w.chk s (s.parts w.guard) p = none) (ht : w.act s (s.parts w.guard) = t)
    (hi : t.unit.lanes = [] → t.unit.live = false) (he : w.ends = false) :
    s.run w = .next (goesOn s t w.guard w.cost w.fin) := by
  rw [run_leaving h ho hh hc ht hi he]
  unfold State.pay goesOn
  split <;> rfl

end Sys2Proof.Proofs
end

section
/-! PROOFS. REFORM, YIELD and ELECT, and the folds (R171, R189, R190, R194 to R196). -/

namespace Sys2Proof.Proofs

open Sys2Proof.Machine Sys2Proof.Safety Sys2Proof.Laws

theorem exec_reform (g : Nat) (s : State) : exec (.reform g) s = execReform g s := rfl

theorem exec_yield (g : Nat) (s : State) : exec (.yield g) s = execYield g s := rfl

theorem exec_elect (d : Opnd) (q g : Nat) (s : State) : exec (.elect d q g) s = execElect d q g s := rfl

/-! Filing a thread. -/

/-- What filing leaves of a thread that was asked to stop or is in a step. -/
def askKept (s : State) (k idx : Nat) : State :=
  s.updThr k fun y => { y with
    ask := (y.ask.or (s.unit.stopAsk.map fun c => (c, s.unit.bkptCode))).or
      (if s.unit.stepping && decide (idx = 0) then some (4, 0) else none),
    step := (y.step || s.unit.stepping) && !(s.unit.stepping && decide (idx = 0)) }

/-- A fold of a thread's key that has room. -/
def foldFits (s : State) (k core idx : Nat) (hdr : Dword) (f : Fold) : Prop :=
  f ∈ s.folds ∧ f.core = core ∧ f.group = (s.thr k).group ∧ f.hdr = hdr ∧ f.idx = idx ∧
    f.threads.length < (s.launchOf k).record.width

/-- A thread joins a fold. -/
def joinFold (k clk : Nat) (re : Bool) (f y : Fold) : Fold :=
  if y.core = f.core ∧ y.num = f.num then { y with threads := y.threads ++ [k], last := clk, rewait := y.rewait || re } else y

/-- The fold that a thread opens. -/
def newFold (s : State) (k core n idx : Nat) (hdr : Dword) (re : Bool) : Fold :=
  { core := core, num := n, group := (s.thr k).group, hdr := hdr, idx := idx, rewait := re, threads := [k], since := s.clk,
    last := s.clk, order := s.nextId }

theorem mem_of_leastBy {α : Type} {key : α → Nat} {l : List α} {x : α} (h : leastBy key l = some x) : x ∈ l := by
  induction l generalizing x with
  | nil => cases h
  | cons y r ih =>
    rw [leastBy] at h
    split at h
    · obtain rfl := Option.some.inj h
      exact List.mem_cons_self
    · next z hz =>
      split at h
      · obtain rfl := Option.some.inj h
        exact List.mem_cons_of_mem _ (ih hz)
      · obtain rfl := Option.some.inj h
        exact List.mem_cons_self

/-- A thread is filed in a fold that has room, or in one that was free. -/
theorem fileFold_cases {s t : State} {k core idx : Nat} {hdr : Dword} {re : Bool} (h : s.fileFold k core hdr idx re = some t) :
    (∃ f, foldFits s k core idx hdr f ∧ t = { (askKept s k idx).leaveUnit k with
      folds := ((askKept s k idx).leaveUnit k).folds.map (joinFold k s.clk re f) }) ∨
    ∃ n, t = ({ (askKept s k idx).leaveUnit k with
      folds := ((askKept s k idx).leaveUnit k).folds ++ [newFold s k core n idx hdr re] } : State).takeId := by
  unfold State.fileFold at h
  dsimp only at h
  split at h
  · next f hf =>
    obtain rfl := Option.some.inj h
    refine .inl ⟨f, ?_, rfl⟩
    have hm := mem_of_leastBy hf
    obtain ⟨hm, hkey⟩ := List.mem_filter.mp hm
    simp only [Bool.and_eq_true, beq_iff_eq, decide_eq_true_eq] at hkey
    obtain ⟨⟨⟨⟨hc, hg⟩, hh⟩, hi⟩, hw⟩ := hkey
    exact ⟨hm, hc, hg, hh, hi, hw⟩
  · split at h
    · cases h
    · next n _ =>
      obtain rfl := Option.some.inj h
      exact .inr ⟨n, rfl⟩

/-- The folds that a thread leaves which stands in none. -/
theorem leaveUnit_folds {s : State} {k : Nat} (h : ∀ f ∈ s.folds, f.threads ≠ [] ∧ k ∉ f.threads) : (s.leaveUnit k).folds = s.folds := by
  have hm : (s.folds.map fun f => { f with threads := f.threads.filter (· ≠ k) }) = s.folds :=
    (List.map_congr_left fun f hf => by
      have : f.threads.filter (· ≠ k) = f.threads := List.filter_eq_self.mpr fun j hj => by
        simpa using fun he : j = k => (h f hf).2 (he ▸ hj)
      rw [this]; rfl).trans (List.map_id s.folds)
  have hl : (s.leaveUnit k).folds = (s.folds.map fun f => { f with threads := f.threads.filter (· ≠ k) }).filter
      fun f => f.threads ≠ [] := rfl
  rw [hl, hm]
  exact List.filter_eq_self.mpr fun f hf => by simpa using (h f hf).1

theorem fileFold_idle {s t : State} {k core idx : Nat} {hdr : Dword} {re : Bool} (h : s.fileFold k core hdr idx re = some t)
    (hl : s.unit.lanes = [] → s.unit.live = false) : t.unit.lanes = [] → t.unit.live = false := by
  have hi := leaveUnit_idle (s := askKept s k idx) hl k
  obtain ⟨f, -, rfl⟩ | ⟨n, rfl⟩ := fileFold_cases h
  · exact hi
  · exact hi

theorem fileAll_idle (hdr : Dword) (idx : Nat) (l : List (Nat × Nat)) {s : State} (hl : s.unit.lanes = [] → s.unit.live = false) :
    (s.fileAll hdr idx l).1.unit.lanes = [] → (s.fileAll hdr idx l).1.unit.live = false := by
  induction l generalizing s with
  | nil => exact hl
  | cons p r ih =>
    rw [State.fileAll]
    split
    · exact hl
    · next t ht => exact ih (fileFold_idle ht hl)

/-- A filed thread's fold, its units, and the room of the folds. -/
theorem fileFold_files {s t : State} {k core idx : Nat} {hdr : Dword} {re : Bool} (h : s.fileFold k core hdr idx re = some t)
    (hn : (s.folds.map fun f => (f.core, f.num)).Nodup) (hf : ∀ f ∈ s.folds, f.threads ≠ [] ∧ k ∉ f.threads) :
    (∃ f ∈ t.folds, f.core = core ∧ f.group = (s.thr k).group ∧ f.hdr = hdr ∧ f.idx = idx ∧
      (re = true → f.rewait = true) ∧ k ∈ f.threads) ∧
    (∀ u ∈ t.units, ∀ p ∈ u.lanes, p.2 ≠ k) ∧
    ((s.launchOf k).record.width ≥ 1 → (∀ f ∈ s.folds, f.threads.length ≤ (s.launchOf k).record.width) →
      ∀ f ∈ t.folds, f.threads.length ≤ (s.launchOf k).record.width) := by
  have hfolds : ((askKept s k idx).leaveUnit k).folds = s.folds := leaveUnit_folds (s := askKept s k idx) hf
  have hgone := leaveUnit_gone (askKept s k idx) k
  obtain ⟨f, ⟨hm, hc, hg, hh, hi, hw⟩, rfl⟩ | ⟨n, rfl⟩ := fileFold_cases h
  · refine ⟨⟨joinFold k s.clk re f f, ?_, ?_⟩, hgone, fun hw1 hwid y hy => ?_⟩
    · exact List.mem_map_of_mem (by rw [hfolds]; exact hm)
    · rw [joinFold, if_pos ⟨rfl, rfl⟩]
      exact ⟨hc, hg, hh, hi, fun hre => by simp [hre], by simp⟩
    · rw [hfolds] at hy
      obtain ⟨y, hym, rfl⟩ := List.mem_map.mp hy
      unfold joinFold
      split
      · next hkey =>
        obtain rfl : y = f := List.inj_on_of_nodup_map hn hym hm (Prod.ext hkey.1 hkey.2)
        simpa using hw
      · exact hwid y hym
  · refine ⟨⟨newFold s k core n idx hdr re, List.mem_append_right _ List.mem_cons_self, rfl, rfl, rfl, rfl, fun h => h,
      List.mem_cons_self⟩, hgone, fun hw1 hwid y hy => ?_⟩
    obtain hy | hy := List.mem_append.mp hy
    · exact hwid y (by rwa [hfolds] at hy)
    · obtain rfl := List.mem_singleton.mp hy
      exact hw1

/-! The words. -/

/-- REFORM files every participant, or those before the first that finds no fold. -/
theorem reform_files {s : State} {g : Nat} (hi : Issues s g []) (hu : Untraced s) :
    ((s.fileAll s.nextPc.1 s.nextPc.2 (s.parts g)).2 = [] →
      exec (.reform g) s = does s g 1 fun _ => (s.fileAll s.nextPc.1 s.nextPc.2 (s.parts g)).1) ∧
    ((s.fileAll s.nextPc.1 s.nextPc.2 (s.parts g)).2 ≠ [] →
      exec (.reform g) s = waits (s.fileAll s.nextPc.1 s.nextPc.2 (s.parts g)).1 []) := by
  have hprep : ∀ act, s.prep { guard := g, act := act } = .go (s.parts g) [] := fun act =>
    prep_issues (w := { guard := g, act := act }) hi (fun _ _ => rfl) (fun _ => rfl) fun _ _ => rfl
  refine ⟨fun hf => ?_, fun hf => ?_⟩
  · rw [exec_reform, execReform]
    simp only [hprep, hf]
    exact run_effect_leaving hi (fun _ _ => rfl) (fun _ => rfl) (fun _ _ => rfl)
      (by simp only [clauseTrace_untraced hu, ite_self]) (fileAll_idle _ _ _ fun hl => absurd hl hi.lanes) rfl
  · rw [exec_reform, execReform]
    simp only [hprep]
    cases hc : (s.fileAll s.nextPc.1 s.nextPc.2 (s.parts g)).2 with
    | nil => exact absurd hc hf
    | cons p r => rfl

theorem yield_stamps {s : State} {g : Nat} (hi : Issues s g []) (hp : s.parts g ≠ []) :
    exec (.yield g) s = does s g 1 fun t =>
      (t.updUnit t.cur fun u => { u with stamp := s.clk + (s.launchOfUnit s.cur).record.foldage + 8 }).each
        s.unit.lanes fun _ x => { x with since := s.clk } := by
  rw [exec_yield, execYield]
  refine run_effect hi (fun _ _ => rfl) (fun _ => rfl) (fun _ _ => rfl) (if_neg hp) ?_ rfl
  have hl : (s.updUnit s.cur fun u => { u with stamp := s.clk + (s.launchOfUnit s.cur).record.foldage + 8 }).unit.lanes =
      s.unit.lanes := updUnit_lanes (f := fun u => { u with stamp := s.clk + (s.launchOfUnit s.cur).record.foldage + 8 })
    (fun _ => rfl) s s.cur
  rw [each_unit, hl]
  exact hi.lanes

theorem elect_counts {s : State} {d : Opnd} {q g : Nat} (hi : Issues s g [dstUse d 1 false]) :
    exec (.elect d q g) s = does s g 1 fun t =>
      (t.putDst (s.parts g) d fun _ => [BitVec.ofNat 32 (s.parts g).length]).putPred (s.parts g) q fun p =>
        ((s.parts g).head?.map Prod.fst) == some p.1 := by
  rw [exec_elect, execElect]
  refine run_effect hi (fun _ _ => rfl) (fun _ => rfl) (fun _ _ => rfl) ?_ (by simpa using hi.lanes) rfl
  cases hp : s.parts g with
  | nil => simp only [State.putPred, each_nil]
  | cons p r =>
    have hfun : (fun q : Nat × Nat => q.1 == p.1) = fun q => some p.1 == some q.1 := by
      funext q
      by_cases h : q.1 = p.1
      · simp [h]
      · simp [h, Ne.symm h]
    simp only [lowest, List.headD_cons, List.head?_cons, Option.map_some, hfun]

/-- Settles O16: REFORM files and goes on or waits, YIELD and ELECT go on, and a thread that is filed stands in a fold with room. -/
theorem regroupingWordsComplete : Obligations.RegroupingWordsComplete := by
  unfold Obligations.RegroupingWordsComplete
  exact ⟨fun s d q g => ⟨fun hi hu => reform_files hi hu, yield_stamps, elect_counts⟩,
    fun s t k core idx hdr re h hn hf => fileFold_files h hn hf⟩

end Sys2Proof.Proofs
end

section
/-! PROOFS. Arrivals at barriers (R176, R177, R197). -/

namespace Sys2Proof.Proofs

open Sys2Proof.Machine Sys2Proof.Safety Sys2Proof.Laws

/-- A source of a word that REP does not step. -/
theorem val32_src (s : State) (p : Nat × Nat) (o : Opnd) : val32 s p o 0 = s.src p o := by
  rw [val32, stepped_zero]

theorem exec_arrive (d : Opnd) (b g : Nat) (s : State) : exec (.arrive d b g) s = execArrive d b g s := rfl

theorem exec_arriveCount (d a : Opnd) (b g : Nat) (s : State) : exec (.arriveCount d a b g) s = execArriveCount d a b g s := rfl

theorem exec_arriveExpect (d a : Opnd) (b g : Nat) (s : State) : exec (.arriveExpect d a b g) s = execArriveExpect d a b g s := rfl

/-- The barrier as arrivals leave it, and the phases that the participants read. -/
def landsArrivals (s : State) (d : Opnd) (b g : Nat) (r : List ((Nat × Nat) × Option (BitVec 16)) × Barrier) (t : State) : State :=
  (t.updBar s.unit.group b fun _ => r.2).putDst (s.parts g) d fun p => [((phaseFor r.1 p).getD 0).setWidth 32]

theorem updBar_unit (s : State) (g b : Nat) (f : Barrier → Barrier) : (s.updBar g b f).unit = s.unit := rfl

/-- An arrival of counts that the participants give, none of which goes past EXPECT. -/
theorem run_arrive {s : State} {us : List Use} {d : Opnd} {b g : Nat} {c : State → Nat × Nat → Nat}
    (hi : Issues s g (dstUse d 1 false :: us))
    (h : ∀ p ∈ s.parts g, (phaseFor (arriveAll (c s) (s.bar b) (s.parts g)).1 p).isSome) :
    s.run (arriveWork us d b g c) = does s g 1 (landsArrivals s d b g (arriveAll (c s) (s.bar b) (s.parts g))) := by
  refine run_effect hi (fun _ _ => rfl) (fun _ => rfl) (fun p hp => ?_) rfl ?_ rfl
  · have hs := h p hp
    simp only [Option.isSome_iff_ne_none, ne_eq] at hs
    simp [arriveWork, hs]
  · rw [landsArrivals, putDst_unit, updBar_unit]
    exact hi.lanes

theorem arriveExpect_lands {s : State} {d a : Opnd} {b g : Nat} (hi : Issues s g [dstUse d 1 false, srcUse a 1 0])
    (h : ∀ p ∈ s.parts g, 1 ≤ (s.src p a).toNat ∧ (s.src p a).toNat ≤ 8192) :
    exec (.arriveExpect d a b g) s =
      does s g 1 (landsArrivals s d b g (expectAll (fun p => (s.src p a).toNat) (s.bar b) (s.parts g))) := by
  rw [exec_arriveExpect, execArriveExpect]
  refine run_effect hi (fun _ _ => rfl) (fun _ => rfl) (fun p hp => ?_) rfl ?_ rfl
  · obtain ⟨h1, h2⟩ := h p hp
    have hz : s.src p a ≠ 0 := fun he => by simp [he] at h1
    exact if_neg fun h => h.elim hz (by omega)
  · rw [landsArrivals, putDst_unit, updBar_unit]
    exact hi.lanes

/-! One arrival. -/

theorem arrive_past {b : Barrier} {c : Nat} (hc : 0 < c) (h : b.expect < b.count + c) : b.arrive c = none := by
  simp [Barrier.arrive, Nat.pos_iff_ne_zero.mp hc, h]

theorem arrive_completes {b : Barrier} {c : Nat} (hc : 0 < c) (h : b.count + c = b.expect) :
    b.arrive c = some { b with phase := b.phase + 1, count := 0 } := by
  simp [Barrier.arrive, Nat.pos_iff_ne_zero.mp hc, h, Barrier.settle]

theorem arrive_counts {b : Barrier} {c : Nat} (hc : 0 < c) (h : b.count + c < b.expect) :
    b.arrive c = some { b with count := b.count + c } := by
  have h1 : ¬ b.expect < b.count + c := by omega
  have h2 : ¬ b.expect ≤ b.count + c := by omega
  simp [Barrier.arrive, Nat.pos_iff_ne_zero.mp hc, h1, h2, Barrier.settle]

/-- A phase is past when the barrier's is 1 to 32767 later. -/
theorem passed_iff (b : Barrier) (ph : BitVec 16) :
    b.passed ph = true ↔ ∃ k, 1 ≤ k ∧ k ≤ 32767 ∧ b.phase = ph + BitVec.ofNat 16 k := by
  simp only [Barrier.passed, Bool.and_eq_true, decide_eq_true_eq]
  constructor
  · rintro ⟨h1, h2⟩
    exact ⟨(b.phase - ph).toNat, h1, h2, by rw [BitVec.ofNat_toNat, BitVec.setWidth_eq, BitVec.add_comm, BitVec.sub_add_cancel]⟩
  · rintro ⟨k, h1, h2, hk⟩
    have : (b.phase - ph).toNat = k := by
      rw [hk]
      bv_omega
    omega

/-- Settles O17: an arrival lands where each participant's has a phase, and the barrier's counts say what one arrival does. -/
theorem arrivalsReadTheirPhase : Obligations.ArrivalsReadTheirPhase := by
  unfold Obligations.ArrivalsReadTheirPhase
  refine ⟨fun s d a b g => ⟨fun hi h => ?_, fun hi h => ?_, fun hi h => ?_⟩,
    fun b c e => ⟨rfl, arrive_past, arrive_completes, arrive_counts, rfl, passed_iff b⟩⟩
  · rw [exec_arrive, execArrive]
    exact run_arrive hi h
  · simp only [val32_src] at h ⊢
    rw [exec_arriveCount, execArriveCount]
    exact run_arrive hi h
  · simp only [val32_src] at h ⊢
    exact arriveExpect_lands hi h

end Sys2Proof.Proofs
end

section
/-! PROOFS. BWAIT and BSYNC (R198, R199). -/

namespace Sys2Proof.Proofs

open Sys2Proof.Machine Sys2Proof.Safety Sys2Proof.Laws

theorem exec_bwait (a : Opnd) (b g : Nat) (s : State) : exec (.bwait a b g) s = execBwait a b g s := rfl

theorem exec_bsync (b g : Nat) (s : State) : exec (.bsync b g) s = execBsync b g s := rfl

/-- How a participant fares that waits for something which has come about or not. -/
def waitFor (c : Bool) : Status := if c then .ready else .hold

theorem firstTrap_waitFor (c : Bool) : firstTrap [waitFor c] = none := by cases c <;> rfl

theorem waitFor_stalls (c : Bool) : (waitFor c).stalls = !c := by cases c <;> rfl

theorem waitFor_held (c : Bool) : (waitFor c == .hold) = !c := by cases c <;> rfl

/-- A word that waits for something in each participant. -/
theorem run_waitsFor {s : State} {w : Work} {past : Nat × Nat → Bool} (h : Issues s w.guard w.uses)
    (ho : ∀ p ∈ s.parts w.guard, w.own s p = waitFor (past p)) (hs : ∃ p ∈ s.parts w.guard, past p = false) :
    s.run w = waits s (((s.parts w.guard).filter fun p => !past p).map Prod.snd) := by
  obtain ⟨p, hp, hpp⟩ := hs
  rw [run_waits h (fun q hq => by rw [ho q hq, firstTrap_waitFor]) ⟨p, hp, by rw [ho p hp, waitFor_stalls, hpp]; rfl⟩]
  congr 2
  exact List.filter_congr fun q hq => by rw [ho q hq, waitFor_held]

/-! BSYNC. -/

/-- The wait of BSYNC, once the arrivals have been made. -/
def bsyncWork (b g : Nat) : Work :=
  { guard := g,
    own := fun s p => if (s.bar b).passed ((s.thr p.2).bsync.setWidth 16) then .ready else .hold,
    act := fun s ok => s.each ok fun _ x => { x with bsync := x.bsync &&& 0x7FFFFFFF } }

theorem execBsync_eq (b g : Nat) (s : State) : execBsync b g s = (s.bsyncArrive b g).run (bsyncWork b g) := rfl

/-- Only what the change does to participants counts. -/
theorem each_congr {s : State} {ok : List (Nat × Nat)} {f f' : Nat × Nat → Thread → Thread} (h : ∀ p ∈ ok, f p = f' p) :
    s.each ok f = s.each ok f' := by
  have hm : ∀ (l : List Thread) (k : Nat),
      mapFrom (fun i x => match ok.find? fun p => p.2 == i with | some p => f p x | none => x) k l =
      mapFrom (fun i x => match ok.find? fun p => p.2 == i with | some p => f' p x | none => x) k l := by
    intro l
    induction l with
    | nil => exact fun _ => rfl
    | cons x r ih =>
      intro k
      rw [mapFrom, mapFrom, ih]
      congr 1
      split
      · next p hp => rw [h p (List.mem_of_find?_eq_some hp)]
      · rfl
  exact congrArg (fun l => { s with threads := l }) (hm s.threads 0)

/-- A change of no barrier. -/
theorem updBar_self (s : State) (g b : Nat) : s.updBar g b (fun _ => (s.grp g).bar b) = s := by
  have hg : upd s.groups g (fun x => { x with bars := upd x.bars b fun _ => (s.grp g).bar b }) = s.groups := by
    refine upd_self fun x hx => ?_
    have hb : upd x.bars b (fun _ => (s.grp g).bar b) = x.bars := upd_self fun y hy => by
      simp [State.grp, hx, Group.bar, hy]
    rw [hb]
  rw [State.updBar, State.updGrp, hg]

/-- Where every participant has arrived, BSYNC only waits. -/
theorem bsyncArrive_done {s : State} {b g : Nat} (hl : s.unit.lanes ≠ [])
    (h : ∀ p ∈ s.parts g, (s.thr p.2).bsync.getLsbD 31 = true) : s.bsyncArrive b g = s := by
  have hn : ((s.parts g).filter fun p => !(s.thr p.2).bsync.getLsbD 31) = [] := List.filter_eq_nil_iff.mpr fun p hp => by simp [h p hp]
  simp only [State.bsyncArrive, hn, arriveAll, List.filter_nil, List.map_nil]
  have hu : s.updBar s.unit.group b (fun _ => s.bar b) = s := updBar_self s s.unit.group b
  rw [hu, each_nil, takeAll_nil _ hl]

/-- The wait of BSYNC goes on or waits. -/
theorem run_bsyncWork {s : State} {b g : Nat} (hi : Issues s g []) :
    ((∀ p ∈ s.parts g, (s.bar b).passed ((s.thr p.2).bsync.setWidth 16) = true) → s.run (bsyncWork b g) = does s g 1 fun t =>
      t.each (s.parts g) fun _ x => { x with bsync := x.bsync &&& 0x7FFFFFFF }) ∧
    ((∃ p ∈ s.parts g, (s.bar b).passed ((s.thr p.2).bsync.setWidth 16) = false) → s.run (bsyncWork b g) =
      waits s (((s.parts g).filter fun p => !(s.bar b).passed ((s.thr p.2).bsync.setWidth 16)).map Prod.snd)) :=
  ⟨fun h => run_effect hi (fun p hp => if_pos (h p hp)) (fun _ => rfl) (fun _ _ => rfl) rfl hi.lanes rfl,
    fun h => run_waitsFor (past := fun p => (s.bar b).passed ((s.thr p.2).bsync.setWidth 16)) hi (fun _ _ => rfl) h⟩

/-- What the arrival of a lone participant leaves. -/
def bsyncArrived (s : State) (b : Nat) (p : Nat × Nat) (x : Barrier) : State :=
  (s.updBar s.unit.group b fun _ => x).each [p] fun _ y => { y with bsync := bsyncWord b (s.bar b).phase }

/-- The arrival of a lone participant. -/
theorem bsyncArrive_one {s : State} {b g : Nat} {p : Nat × Nat} {x : Barrier} (hl : s.unit.lanes ≠ []) (hp : s.parts g = [p])
    (hb : (s.thr p.2).bsync.getLsbD 31 = false) (hx : (s.bar b).arrive 1 = some x) :
    s.bsyncArrive b g = bsyncArrived s b p x := by
  have hn : ((s.parts g).filter fun p => !(s.thr p.2).bsync.getLsbD 31) = [p] := by
    rw [hp, List.filter_cons, hb]
    rfl
  have hph : phaseFor [(p, some (s.bar b).phase)] p = some (s.bar b).phase := by simp [phaseFor]
  have ha : arriveAll (fun _ => 1) (s.bar b) [p] = ([(p, some (s.bar b).phase)], x) := by simp [arriveAll, hx]
  have hin : ([p].filter fun q => (phaseFor [(p, some (s.bar b).phase)] q).isSome) = [p] := by simp [hph]
  have hout : ([p].filter fun q => (phaseFor [(p, some (s.bar b).phase)] q).isNone) = [] := by simp [hph]
  simp only [State.bsyncArrive, hn, ha, hin, hout, List.map_nil]
  rw [takeAll_nil _ (by rw [each_unit, updBar_unit]; exact hl), bsyncArrived]
  refine each_congr fun q hq => ?_
  obtain rfl := List.mem_singleton.mp hq
  simp only [hph, Option.getD_some]

/-- The participants depend on the unit and the predicates only. -/
theorem parts_congr {s t : State} (hu : t.unit = s.unit) (hr : s.unit.rep = none) (hp : ∀ k, (t.thr k).preds = (s.thr k).preds)
    (g : Nat) : t.parts g = s.parts g := by
  simp only [State.parts, State.joins, hu, hr, hp]

theorem bsyncWord_phase (b : Nat) (ph : BitVec 16) : (bsyncWord b ph).setWidth 16 = ph := by
  have hb : BitVec.ofNat 32 (b % 16 * 65536) = (BitVec.ofNat 32 (b % 16)) <<< 16 := by
    apply BitVec.eq_of_toNat_eq
    simp [Nat.shiftLeft_eq]
  rw [bsyncWord, hb]
  ext i hi
  simp

/-! Going on at the next word. -/

theorem nextWord_groups (s : State) : s.nextWord.groups = s.groups := by
  unfold State.nextWord
  split
  · exact (clauseTrace_traced s 0 s.unit.issued 0).groups
  · rfl

theorem nextWord_threads (s : State) : s.nextWord.threads = s.threads := by
  unfold State.nextWord
  split
  · exact (clauseTrace_traced s 0 s.unit.issued 0).threads
  · rfl

/-- A part of the unit that no change of its place touches. -/
theorem nextWord_unit_part {β : Type} {part : IssueUnit → β} (hp : ∀ u k, part { u with packet := k } = part u)
    (hg : ∀ u hdr, part (u.goto hdr) = part u) (hi : ∀ u k, part { u with idx := k } = part u) {s : State} (hl : s.unit.lanes ≠ []) :
    part s.nextWord.unit = part s.unit := by
  unfold State.nextWord
  split
  · have ht := clauseTrace_traced s 0 s.unit.issued 0
    obtain ⟨k, hk⟩ := ht.unit hl
    rw [← ht.cur, unit_updUnit (by rw [ht.lanes]; exact hl), hk, hg, hp]
  · exact unit_updUnit_part (fun u => hi u _) s s.cur

theorem advance_groups (s : State) : s.advance.groups = s.groups := by
  unfold State.advance
  split
  · exact nextWord_groups _
  · split
    · rfl
    · exact nextWord_groups _

theorem advance_unit_group {s : State} (hl : s.unit.lanes ≠ []) : s.advance.unit.group = s.unit.group := by
  have hn : ∀ {t : State}, t.unit.lanes ≠ [] → t.nextWord.unit.group = t.unit.group :=
    nextWord_unit_part (part := IssueUnit.group) (fun _ _ => rfl) (fun _ _ => rfl) fun _ _ => rfl
  have hu : ∀ f : IssueUnit → IssueUnit, (∀ u, (f u).lanes = u.lanes) → (s.updUnit s.cur f).unit.lanes ≠ [] := fun f hf => by
    rw [updUnit_lanes hf]
    exact hl
  unfold State.advance
  split
  · exact (hn (hu (fun u => { u with scope := none }) fun _ => rfl)).trans
      (unit_updUnit_part (part := IssueUnit.group) (f := fun u => { u with scope := none }) (fun _ => rfl) s s.cur)
  · next r _ =>
    split
    · exact unit_updUnit_part (part := IssueUnit.group) (f := fun u => { u with rep := some { r with k := r.k + 1 } })
        (fun _ => rfl) s s.cur
    · refine (hn ?_).trans
        (unit_updUnit_part (part := IssueUnit.group) (f := fun u => { u with rep := none, scope := none }) (fun _ => rfl) s s.cur)
      exact hu (fun u => { u with rep := none, scope := none }) fun _ => rfl

theorem advance_threads {s : State} (hr : s.unit.rep = none) : s.advance.threads = s.threads := by
  unfold State.advance
  rw [hr]
  exact nextWord_threads _

theorem issued_unit_part {β : Type} {part : IssueUnit → β} (h : ∀ u n, part { u with expired := none, blocked := false, issued := n } = part u)
    (s : State) : part s.issued.unit = part s.unit := unit_updUnit_part (part := part) (fun u => h u _) s s.cur

section

variable (s : State) {t : State} (g c : Nat)

/-- How a word's effect goes on. -/
theorem goesOn_eq : goesOn s t g c State.advance = (t.pay (ctxAt s) s.unit.core (s.costNow c) (s.parts g)).issued.advance := by
  unfold goesOn State.pay
  split <;> rfl

theorem pay_threads (k j n : Nat) (ok : List (Nat × Nat)) : (t.pay k j n ok).threads = t.threads := by
  unfold State.pay
  split <;> rfl

theorem pay_groups (k j n : Nat) (ok : List (Nat × Nat)) : (t.pay k j n ok).groups = t.groups := by
  unfold State.pay
  split <;> rfl

/-- Whatever goes on at its next word keeps its group and the barriers. -/
theorem goesOn_bar (hl : t.unit.lanes ≠ []) (b : Nat) : (goesOn s t g c State.advance).bar b = t.bar b := by
  have hl' : (t.pay (ctxAt s) s.unit.core (s.costNow c) (s.parts g)).issued.unit.lanes ≠ [] := by
    rw [issued_unit_part (part := IssueUnit.lanes) fun _ _ => rfl, pay_unit]
    exact hl
  have hi : ∀ x : State, x.issued.groups = x.groups := fun _ => rfl
  rw [goesOn_eq, State.bar, State.grp, advance_groups, advance_unit_group hl', hi, pay_groups,
    issued_unit_part (part := IssueUnit.group) fun _ _ => rfl, pay_unit]
  rfl

theorem goesOn_thr_part {β : Type} {part : Thread → β} (h : ∀ x n, part { x with since := n, waits := false } = part x)
    (hr : t.unit.rep = none) (k : Nat) : part ((goesOn s t g c State.advance).thr k) = part (t.thr k) := by
  have hr' : (t.pay (ctxAt s) s.unit.core (s.costNow c) (s.parts g)).issued.unit.rep = none := by
    rw [issued_unit_part (part := IssueUnit.rep) fun _ _ => rfl, pay_unit]
    exact hr
  rw [goesOn_eq, State.thr, advance_threads hr', ← State.thr, thr_issued_part h, State.thr, pay_threads]
  rfl

end

/-! A unit that waits. -/

theorem block_unit {s : State} (hl : s.unit.lanes ≠ []) (held : List Nat) : (s.block held).unit = { s.unit with blocked := true } :=
  unit_updUnit hl _

theorem block_bar {s : State} (hl : s.unit.lanes ≠ []) (held : List Nat) (b : Nat) : (s.block held).bar b = s.bar b := by
  have hg : (s.block held).groups = s.groups := rfl
  rw [State.bar, State.grp, hg, block_unit hl]
  rfl

theorem block_thr_part {β : Type} {part : Thread → β} (h : ∀ x n w, part { x with since := n, waits := w } = part x)
    (s : State) (held : List Nat) (k : Nat) : part ((s.block held).thr k) = part (s.thr k) :=
  thr_each_part (fun p x => h x _ (held.contains p.2)) (s.updUnit s.cur fun u => { u with blocked := true }) s.unit.lanes k

/-! The first arrival of a lone participant. -/

section

variable {s : State} {b g : Nat} {p : Nat × Nat} {x : Barrier}

theorem bsyncArrived_sameParts (hr : s.unit.rep = none) : (bsyncArrived s b p x).parts g = s.parts g :=
  parts_congr (s := s) (t := bsyncArrived s b p x) rfl hr (fun k => thr_each_part (part := Thread.preds)
    (f := fun _ y => { y with bsync := bsyncWord b (s.bar b).phase }) (fun _ _ => rfl) (s.updBar s.unit.group b fun _ => x) [p] k) g

theorem bsyncArrived_issues (hi : Issues s g []) (hr : s.unit.rep = none) : Issues (bsyncArrived s b p x) g [] :=
  ⟨hi.lanes, ⟨nofun, fun _ _ _ h => nomatch h⟩, fun ha q hq => hi.free ha q (bsyncArrived_sameParts hr ▸ hq)⟩

theorem bsyncArrived_bar (hg : s.unit.group < s.groups.length) (hbar : b < (s.grp s.unit.group).bars.length) :
    (bsyncArrived s b p x).bar b = x := by
  have hx : (bsyncArrived s b p x).bar b =
      ((((upd s.groups s.unit.group fun y => { y with bars := upd y.bars b fun _ => x })[s.unit.group]?).getD .gone).bars[b]?).getD {} := rfl
  have hs : (s.grp s.unit.group).bars = s.groups[s.unit.group].bars := by simp [State.grp, hg]
  rw [hs] at hbar
  rw [hx, getElem?_upd, if_pos rfl, List.getElem?_eq_getElem hg]
  simp [getElem?_upd, hbar]

theorem bsyncArrived_word (hs : UnitOk s) (hp : s.parts g = [p]) :
    ((bsyncArrived s b p x).thr p.2).bsync = bsyncWord b (s.bar b).phase := by
  have hk := hs.threads p (List.mem_filter.mp (hp ▸ List.mem_singleton_self p : p ∈ s.parts g)).1
  exact congrArg Thread.bsync (thr_each_same (s := s.updBar s.unit.group b fun _ => x) (List.mem_singleton_self p) hk
    fun y => { y with bsync := bsyncWord b (s.bar b).phase })

/-- The last arrival completes the phase, and the wait is over at once. -/
theorem bsync_last (hi : Issues s g []) (hr : s.unit.rep = none) (hs : UnitOk s) (hp : s.parts g = [p])
    (hg : s.unit.group < s.groups.length) (hbar : b < (s.grp s.unit.group).bars.length)
    (hb : (s.thr p.2).bsync.getLsbD 31 = false) (hx : (s.bar b).arrive 1 = some x) (hph : x.phase = (s.bar b).phase + 1) :
    ∃ t, exec (.bsync b g) s = .next t ∧ t.bar b = x ∧ (t.thr p.2).bsync.getLsbD 31 = false := by
  have hparts := (bsyncArrived_sameParts (b := b) (g := g) (p := p) (x := x) hr).trans hp
  have hword := bsyncArrived_word (b := b) (x := x) hs hp
  have hbx := bsyncArrived_bar (p := p) (x := x) hg hbar
  have hk := hs.threads p (List.mem_filter.mp (hp ▸ List.mem_singleton_self p : p ∈ s.parts g)).1
  have hpass : ∀ q ∈ (bsyncArrived s b p x).parts g, ((bsyncArrived s b p x).bar b).passed
      (((bsyncArrived s b p x).thr q.2).bsync.setWidth 16) = true := by
    rw [hparts]
    intro q hq
    obtain rfl := List.mem_singleton.mp hq
    rw [hword, bsyncWord_phase, hbx, passed_iff]
    exact ⟨1, le_refl _, by omega, hph⟩
  refine ⟨_, ((exec_bsync b g s).trans ((execBsync_eq b g s).trans ?_)).trans ((run_bsyncWork (bsyncArrived_issues hi hr)).1 hpass), ?_, ?_⟩
  · rw [bsyncArrive_one hi.lanes hp hb hx]
  · rw [goesOn_bar _ _ _ (by rw [each_unit]; exact hi.lanes)]
    exact hbx
  · have hgo := goesOn_thr_part (part := Thread.bsync) (bsyncArrived s b p x) g 1 (fun _ _ => rfl)
      (t := (bsyncArrived s b p x).each ((bsyncArrived s b p x).parts g) fun _ y => { y with bsync := y.bsync &&& 0x7FFFFFFF })
      hr p.2
    rw [hgo, hparts, thr_each_same (List.mem_singleton_self p) (by rw [bsyncArrived, each_threads_length]; exact hk)
        fun y => { y with bsync := y.bsync &&& 0x7FFFFFFF }]
    simp

/-- Any other arrival counts, and the unit waits for the phase. -/
theorem bsync_other (hi : Issues s g []) (hr : s.unit.rep = none) (hs : UnitOk s) (hp : s.parts g = [p])
    (hg : s.unit.group < s.groups.length) (hbar : b < (s.grp s.unit.group).bars.length)
    (hb : (s.thr p.2).bsync.getLsbD 31 = false) (hx : (s.bar b).arrive 1 = some x) (hph : x.phase = (s.bar b).phase) :
    ∃ t, exec (.bsync b g) s = .next t ∧ t.bar b = x ∧ t.unit.blocked = true ∧ t.unit.idx = s.unit.idx ∧
      (t.thr p.2).bsync = bsyncWord b (s.bar b).phase := by
  have hparts := (bsyncArrived_sameParts (b := b) (g := g) (p := p) (x := x) hr).trans hp
  have hword := bsyncArrived_word (b := b) (x := x) hs hp
  have hbx := bsyncArrived_bar (p := p) (x := x) hg hbar
  have hwait : ∃ q ∈ (bsyncArrived s b p x).parts g, ((bsyncArrived s b p x).bar b).passed
      (((bsyncArrived s b p x).thr q.2).bsync.setWidth 16) = false := by
    refine ⟨p, by rw [hparts]; exact List.mem_singleton_self p, ?_⟩
    rw [hword, bsyncWord_phase, hbx, Barrier.passed, hph, BitVec.sub_self]
    rfl
  refine ⟨_, ((exec_bsync b g s).trans ((execBsync_eq b g s).trans ?_)).trans ((run_bsyncWork (bsyncArrived_issues hi hr)).2 hwait),
    ?_, ?_, ?_, ?_⟩
  · rw [bsyncArrive_one hi.lanes hp hb hx]
  · rw [block_bar (s := bsyncArrived s b p x) hi.lanes, hbx]
  · rw [block_unit (s := bsyncArrived s b p x) hi.lanes]
  · rw [block_unit (s := bsyncArrived s b p x) hi.lanes]
    rfl
  · rw [block_thr_part (part := Thread.bsync) fun _ _ _ => rfl, hword]

end

/-- Settles O18: each participant waits for its phase; BSYNC's first arrival counts, and its wait starts with the phase found. -/
theorem barrierWaitsEndWithTheirPhase : Obligations.BarrierWaitsEndWithTheirPhase := by
  unfold Obligations.BarrierWaitsEndWithTheirPhase
  refine fun s a b g => ⟨fun hi => ?_, fun hi hr hb => ?_, fun p hi hr hs hp hb hg hbar he hlt => ?_⟩
  · simp only [val32_src]
    rw [exec_bwait, execBwait]
    exact ⟨fun h => run_effect hi (fun p hp => if_pos (h p hp)) (fun _ => rfl) (fun _ _ => rfl) rfl hi.lanes rfl,
      fun h => run_waitsFor (past := fun p => (s.bar b).passed ((s.src p a).setWidth 16)) hi (fun _ _ => rfl) h⟩
  · rw [exec_bsync, execBsync_eq, bsyncArrive_done hi.lanes hb]
    exact run_bsyncWork hi
  · obtain hc | hc : (s.bar b).count + 1 = (s.bar b).expect ∨ (s.bar b).count + 1 < (s.bar b).expect := by omega
    · obtain ⟨t, ht, hbt, hw⟩ := bsync_last hi hr hs hp hg hbar hb (arrive_completes Nat.one_pos hc) rfl
      exact ⟨t, ht, fun _ => ⟨by rw [hbt], by rw [hbt], hw⟩, fun h => absurd h (by omega)⟩
    · obtain ⟨t, ht, hbt, hrest⟩ := bsync_other hi hr hs hp hg hbar hb (arrive_counts Nat.one_pos hc) rfl
      exact ⟨t, ht, fun h => absurd h (by omega), fun _ => ⟨by rw [hbt], hrest⟩⟩

end Sys2Proof.Proofs
end

section
/-! PROOFS. Convergence registers: KDECL, SIGN and one signature (R178, R179, R202, R203, R309). -/

namespace Sys2Proof.Proofs

open Sys2Proof.Machine Sys2Proof.Safety Sys2Proof.Laws

theorem exec_kdecl (k : Nat) (a b : Opnd) (g : Nat) (s : State) : exec (.kdecl k a b g) s = execKdecl k a b g s := rfl

theorem exec_sign (k q g : Nat) (s : State) : exec (.sign k q g) s = execSign k q g s := rfl

theorem updConv_unit (s : State) (o k : Nat) (f : Conv → Conv) : (s.updConv o k f).unit = s.unit := rfl

/-- KDECL of an idle register, with members that the group has. -/
theorem kdecl_declares {s : State} {a b : Opnd} {k g : Nat} {p : Nat × Nat} {r : List (Nat × Nat)}
    (hi : Issues s g [lowUse a 1, lowUse b 1]) (hp : s.parts g = p :: r) (h1 : 1 ≤ (s.src p b).toNat)
    (h2 : (s.src p b).toNat ≤ 8192) (h3 : (s.src p a).toNat + (s.src p b).toNat ≤ (s.grp s.unit.group).nthreads)
    (hd : (s.conv (s.convOwner s.unit.group k) k).declared = false) :
    exec (.kdecl k a b g) s = does s g 1 fun t => t.updConv (s.convOwner s.unit.group k) k fun _ =>
      { declared := true, lo := (s.src p a).toNat, n := (s.src p b).toNat,
        left := if s.convShared s.unit.group k then 2 * (s.src p b).toNat else (s.src p b).toNat } := by
  rw [exec_kdecl, execKdecl]
  refine run_effect hi (fun _ _ => rfl) (fun _ => rfl) (fun q _ => ?_) ?_ (by rw [updConv_unit]; exact hi.lanes) rfl
  · have hn : ¬ ((s.src p b).toNat = 0 ∨ 8192 < (s.src p b).toNat ∨
        (s.grp s.unit.group).nthreads < (s.src p a).toNat + (s.src p b).toNat) := by omega
    simp only [hp, lowest, List.headD_cons, hn, hd, if_false, Bool.false_eq_true]
  · simp only [hp]

/-- A word by which each participant signs, where none has to wait and none traps. -/
theorem run_signs {s : State} {us : List Use} {g c q : Nat} {one : State → Nat × Nat → Sig} (hi : Issues s g us)
    (ht : (State.signAll one s (s.parts g)).2.1 = []) (hw : (State.signAll one s (s.parts g)).2.2.2 = false)
    (hl : (State.signAll one s (s.parts g)).1.unit.lanes ≠ []) (hh : ∀ p ∈ s.parts g, one s p ≠ .hold) :
    s.run (signWork us g c q one) = does s g c fun _ => (State.signAll one s (s.parts g)).1.putPred (s.parts g) q fun p =>
      (State.signAll one s (s.parts g)).2.2.1 == some p := by
  refine run_effect hi (fun p hp => ?_) (fun _ => hw) (fun p _ => ?_) rfl (by rw [putPred_unit]; exact hl) rfl
  · cases hc : one s p with
    | hold => exact absurd hc (hh p hp)
    | made t last | stall | trap f => simp only [signWork, hc]
  · simp only [signWork, ht, List.map_nil, look]

/-! One signature. -/

/-- What SIGN records of a round. -/
def signRound : Round := ⟨0, 0, .zero, .zero, 0⟩

/-- The signature of a member on a register that is not shared. -/
def signatureOf (s : State) (c : Conv) (p : Nat × Nat) : Signature := ⟨0, (s.thr p.2).idx - c.lo, p.2, s.pc, [], []⟩

theorem signOne_eq {s : State} {k : Nat} (hs : s.convShared s.unit.group k = false) (p : Nat × Nat) :
    s.signOne 0 k 0 .zero .zero p =
      match s.signTrap k 0 0 signRound p with
      | some f => .trap f
      | none => s.sign (s.convOwner s.unit.group k) k 0 signRound
        (signatureOf s (s.conv (s.convOwner s.unit.group k) k) p) p := by
  simp only [State.signOne, hs, Bool.false_eq_true, if_false, if_true, show ¬ (0 : Nat) = 3 by decide]
  rfl

/-- A thread that is no member, or has signed, traps. -/
theorem signOne_traps {s : State} {k : Nat} {p : Nat × Nat} (hs : s.convShared s.unit.group k = false)
    (h : (s.conv (s.convOwner s.unit.group k) k).declared = false ∨
      (s.conv (s.convOwner s.unit.group k) k).member (s.thr p.2).idx = false ∨
      (s.conv (s.convOwner s.unit.group k) k).hasSigned 0
        ((s.thr p.2).idx - (s.conv (s.convOwner s.unit.group k) k).lo) = true) :
    s.signOne 0 k 0 .zero .zero p = .trap { cls := 7, code := 4 } := by
  have ht : s.signTrap k 0 0 signRound p = some { cls := 7, code := 4 } := by
    rw [State.signTrap]
    refine if_pos ?_
    obtain h | h | h := h <;> simp [h]
  rw [signOne_eq hs, ht]

theorem conv_updConv {s : State} {o k : Nat} (ho : o < s.groups.length) (hk : k < (s.grp o).convs.length) (f : Conv → Conv) :
    (s.updConv o k f).conv o k = f (s.conv o k) := by
  have hx : (s.updConv o k f).conv o k =
      ((((upd s.groups o fun y => { y with convs := upd y.convs k f })[o]?).getD .gone).convs[k]?).getD {} := rfl
  have hg : s.grp o = s.groups[o] := by simp [State.grp, ho]
  rw [hg] at hk
  rw [hx, getElem?_upd, if_pos rfl, List.getElem?_eq_getElem ho]
  simp [getElem?_upd, hk, State.conv, hg]

/-- The pair window changes nothing else of a register. -/
theorem openWindow_part {β : Type} {part : Conv → β} (hp : ∀ c w r h, part { c with window := w, ran := r, first := h } = part c)
    {s : State} {o k : Nat} (ho : o < s.groups.length) (hk : k < (s.grp o).convs.length) :
    part ((s.openWindow o k).conv o k) = part (s.conv o k) := by
  unfold State.openWindow
  dsimp only
  split
  · split
    · rw [conv_updConv ho hk]
      exact hp ..
    · rfl
  · rfl

theorem updConv_bounds {s : State} {o k : Nat} (ho : o < s.groups.length) (hk : k < (s.grp o).convs.length) (f : Conv → Conv) :
    o < (s.updConv o k f).groups.length ∧ k < ((s.updConv o k f).grp o).convs.length := by
  have hl : (s.updConv o k f).groups.length = s.groups.length := length_upd ..
  have hg : s.grp o = s.groups[o] := by simp [State.grp, ho]
  have hx : (s.updConv o k f).grp o = ((upd s.groups o fun y => { y with convs := upd y.convs k f })[o]?).getD .gone := rfl
  rw [hg] at hk
  rw [hx, getElem?_upd, if_pos rfl, List.getElem?_eq_getElem ho]
  simpa [hl, ho, length_upd] using hk

/-- What a signature changes of a register. -/
def signedConv (r : Round) (sg : Signature) (c : Conv) : Conv :=
  { c with
    left := c.left - 1, signed := c.signed ++ [sg], rounds := if (look c.rounds 0).isSome then c.rounds else c.rounds ++ [(0, r)] }

/-- A signature that is not the last of its round. -/
theorem sign_records {s : State} {o k : Nat} {r : Round} {sg : Signature} {p : Nat × Nat} (ho : o < s.groups.length)
    (hk : k < (s.grp o).convs.length) (hw : (s.conv o k).window = none) (hl : 1 < (s.conv o k).left) :
    s.sign o k 0 r sg p = .made ((s.updConv o k (signedConv r sg)).openWindow o k) false := by
  have hover : s.windowOver (s.conv o k) = false := by simp [State.windowOver, hw]
  have hleft : ((s.updConv o k (signedConv r sg)).conv o k).left ≠ 0 := by
    rw [conv_updConv ho hk]
    simp only [signedConv]
    omega
  simp only [State.sign, hover, Bool.false_and, Bool.false_eq_true, if_false]
  exact if_neg hleft

/-- A member's signature that is not the last of its round is recorded. -/
theorem signOne_records {s : State} {o k : Nat} {p : Nat × Nat} (hs : s.convShared s.unit.group k = false)
    (ho : s.convOwner s.unit.group k = o) (hg : o < s.groups.length) (hk : k < (s.grp o).convs.length)
    (hd : (s.conv o k).declared = true) (hm : (s.conv o k).member (s.thr p.2).idx = true)
    (hn : (s.conv o k).hasSigned 0 ((s.thr p.2).idx - (s.conv o k).lo) = false)
    (hr : (s.conv o k).rounds = [] ∨ (s.conv o k).rounds = [(0, signRound)]) (hw : (s.conv o k).window = none)
    (hl : 1 < (s.conv o k).left) :
    ∃ t, s.signOne 0 k 0 .zero .zero p = .made t false ∧ (t.conv o k).left = (s.conv o k).left - 1 ∧
      (t.conv o k).hasSigned 0 ((s.thr p.2).idx - (s.conv o k).lo) = true ∧ (t.conv o k).rounds = [(0, signRound)] := by
  have ht : s.signTrap k 0 0 signRound p = none := by
    rw [State.signTrap]
    obtain hr | hr := hr <;> simp [ho, hd, hm, hn, hr, signRound]
  obtain ⟨hg', hk'⟩ := updConv_bounds hg hk (signedConv signRound (signatureOf s (s.conv o k) p))
  have hopen : ∀ {β : Type} (part : Conv → β), (∀ c w r h, part { c with window := w, ran := r, first := h } = part c) →
      part (((s.updConv o k (signedConv signRound (signatureOf s (s.conv o k) p))).openWindow o k).conv o k) =
      part (signedConv signRound (signatureOf s (s.conv o k) p) (s.conv o k)) := fun part hp => by
    rw [openWindow_part hp hg' hk', conv_updConv hg hk]
  refine ⟨_, ?_, hopen Conv.left fun _ _ _ _ => rfl, ?_, ?_⟩
  · rw [signOne_eq hs, ht, ho]
    exact sign_records hg hk hw hl
  · rw [hopen (fun c => c.hasSigned 0 ((s.thr p.2).idx - (s.conv o k).lo)) fun _ _ _ _ => rfl]
    simp [signedConv, Conv.hasSigned, signatureOf]
  · rw [hopen Conv.rounds fun _ _ _ _ => rfl]
    obtain hr | hr := hr <;> simp [signedConv, hr, look]

/-- Settles O19: KDECL declares, SIGN signs for each participant, and a signature is recorded or traps. -/
theorem convergenceRegistersCountSignatures : Obligations.ConvergenceRegistersCountSignatures := by
  unfold Obligations.ConvergenceRegistersCountSignatures
  refine ⟨fun s a b k q g => ⟨fun hi p r hp => ?_, fun hi ht hw hl hh => ?_⟩, fun s k p hs => ⟨signOne_traps hs, ?_⟩⟩
  · simp only [val32_src]
    exact fun h1 h2 h3 hd => kdecl_declares hi hp h1 h2 h3 hd
  · exact (exec_sign k q g s).trans (run_signs hi ht hw hl hh)
  · exact fun hg hk hd hm hn hr hw hl => signOne_records hs rfl hg hk hd hm hn hr hw hl

end Sys2Proof.Proofs
end

section
/-! PROOFS. WAITC and MWAIT (R64, R181, R204, R205). -/

namespace Sys2Proof.Proofs

open Sys2Proof.Machine Sys2Proof.Safety Sys2Proof.Laws

theorem exec_waitc (c : Ctr) (th g : Nat) (s : State) : exec (.waitc c th g) s = execWaitc c th g s := rfl

theorem exec_mwait (d a b : Opnd) (sp : Bool) (s : State) : exec (.mwait d a b sp) s = execMwait d a b sp s := rfl

/-! WAITC. -/

/-- A participant's counter is above the threshold, or an operation older than the threshold lets be open is open. -/
def stillOpen (s : State) (c : Ctr) (th : Nat) (p : Nat × Nat) : Bool := decide (th < (s.thr p.2).ctr c) || !(s.thr p.2).recentOnly c th

theorem waitStatus_plain {s : State} {c : Ctr} {th : Nat} {p : Nat × Nat}
    (ht : stillOpen s c th p = true → c = .mx → s.suspTrap p.2 ((s.thr p.2).awaits c th) = none)
    (hh : (s.thr p.2).heldOn c = none) : s.waitStatus p.2 c th = waitFor (!stillOpen s c th p) := by
  have hif : (th < (s.thr p.2).ctr c || !(s.thr p.2).recentOnly c th) = stillOpen s c th p := rfl
  simp only [State.waitStatus, hh]
  cases ho : stillOpen s c th p with
  | false =>
    rw [ho] at hif
    simp only [hif, Bool.false_eq_true, if_false, waitFor, Bool.not_false, if_true]
  | true =>
    have hn : (if c = .mx then s.suspTrap p.2 ((s.thr p.2).awaits c th) else none) = none := by
      split
      · next hc => exact ht ho hc
      · rfl
    rw [ho] at hif
    simp only [hif, if_true, hn, waitFor, Bool.not_true, Bool.false_eq_true, if_false]

theorem waitc_goes {s : State} {c : Ctr} {th g : Nat} (hi : Issues s g [])
    (h : ∀ p ∈ s.parts g, stillOpen s c th p = false ∧ (s.thr p.2).heldOn c = none) :
    exec (.waitc c th g) s = does s g 1 fun t =>
      if c = .mx ∧ th = 0 then t.each (s.parts g) fun _ x => { x with tiled := false } else t := by
  rw [exec_waitc, execWaitc]
  refine run_effect hi (fun p hp => ?_) (fun _ => rfl) (fun _ _ => rfl) rfl ?_ rfl
  · obtain ⟨ho, hh⟩ := h p hp
    exact (waitStatus_plain (fun ht => absurd ht (by simp [ho])) hh).trans (by rw [ho]; rfl)
  · split
    · rw [each_unit]
      exact hi.lanes
    · exact hi.lanes

theorem waitc_waits {s : State} {c : Ctr} {th g : Nat} (hi : Issues s g [])
    (h : ∀ p ∈ s.parts g, (c = .mx → s.suspTrap p.2 ((s.thr p.2).awaits c th) = none) ∧ (s.thr p.2).heldOn c = none)
    (ho : ∃ p ∈ s.parts g, stillOpen s c th p = true) :
    exec (.waitc c th g) s = waits s (((s.parts g).filter (stillOpen s c th)).map Prod.snd) := by
  obtain ⟨p, hp, hpo⟩ := ho
  rw [exec_waitc, execWaitc, run_waitsFor (past := fun p => !stillOpen s c th p) hi
    (fun q hq => waitStatus_plain (fun _ => (h q hq).1) (h q hq).2) ⟨p, hp, by simp [hpo]⟩]
  simp only [Bool.not_not]

/-! MWAIT. -/

/-- What MWAIT reads and writes. -/
def mwaitUses (d a b : Opnd) (sp : Bool) : List Use := [dstUse d 2 false, srcUse a (if sp then 1 else 2) 0, srcUse b 2 0]

/-- The wait of MWAIT, once what it needs has been asked for. -/
def mwaitWork (d a b : Opnd) (sp : Bool) : Work :=
  { uses := mwaitUses d a b sp,
    own := fun s p => s.mwaitStatus p a b sp,
    act := fun s ok =>
      let s1 := s.putDst ok d fun p => wordsOf 2 (s.mwaitValue p a sp)
      let s2 := ok.foldl (fun r p => r.dropWords p.2) s1
      if ok = [] then s2 else s2.acquire s.unit.core (if sp then .clu else .dev) }

theorem execMwait_eq (d a b : Opnd) (sp : Bool) (s : State) : execMwait d a b sp s = (s.mwaitAsks d a b sp).run (mwaitWork d a b sp) := rfl

/-- A thread reads its stamp. -/
def ReadsStamp (s : State) (a : Opnd) (sp : Bool) (p : Nat × Nat) (x : Dword) : Prop :=
  ∃ q, s.stampPlace p a sp = .ok q ∧ s.unflushedTrap (s.stampVa p a sp).toNat q 1 = none ∧
    s.stampAt p q (s.stampVa p a sp) = .ok (some x)

/-- A stamp shows the sequence number, or a status other than pending. -/
def stampShows (s : State) (b : Opnd) (p : Nat × Nat) (x : Dword) : Bool :=
  decide (bits x.toNat 62 2 ≠ 0) || decide ((val64 s p b 0).toNat % 2 ^ 62 ≤ x.toNat % 2 ^ 62)

theorem val64_src (s : State) (p : Nat × Nat) (o : Opnd) : val64 s p o 0 = s.src64 p o := by
  rw [val64, stepped_zero]

theorem stampEnds_eq (s : State) (b : Opnd) (p : Nat × Nat) (x : Dword) : stampEnds x (s.src64 p b) = stampShows s b p x := by
  simp only [stampEnds, stampShows, val64_src, bits, Nat.pow_zero, Nat.div_one]

section

variable {s : State} {a b : Opnd} {sp : Bool} {p : Nat × Nat} {x : Dword} (h : ReadsStamp s a sp p x)
include h

theorem mwaitStatus_shows : s.mwaitStatus p a b sp = waitFor (stampShows s b p x) := by
  obtain ⟨q, hq, hu, hx⟩ := h
  simp only [State.mwaitStatus, hq, hu, hx, stampEnds_eq]
  rfl

theorem mwaitValue_stamp : s.mwaitValue p a sp = x := by
  obtain ⟨q, hq, -, hx⟩ := h
  simp only [State.mwaitValue, hq, hx]

/-- A stamp that is there and ends the wait is not asked for again. -/
theorem mwaitAsk_shown (hs : stampShows s b p x = true) : s.mwaitAsk p a b sp = s := by
  obtain ⟨q, hq, -, hx⟩ := h
  unfold State.mwaitAsk
  simp only [hq]
  split
  · next heq =>
    obtain rfl := Except.ok.inj heq
    simp only [hx, stampEnds_eq, hs, if_true]
  · rfl

end

theorem mwaitAsk_here {s : State} {a b : Opnd} {sp : Bool} {p : Nat × Nat} (h : ∀ e o, s.stampPlace p a sp ≠ .ok (.peer e o)) :
    s.mwaitAsk p a b sp = s := by
  unfold State.mwaitAsk
  split
  · next e o heq => exact absurd heq (h e o)
  · rfl

theorem mwaitAsks_none {s : State} {d a b : Opnd} {sp : Bool} (hi : Issues s 0 (mwaitUses d a b sp))
    (h : ∀ p ∈ s.parts 0, s.mwaitAsk p a b sp = s) : s.mwaitAsks d a b sp = s := by
  have hp : s.prep { uses := mwaitUses d a b sp } = .go (s.parts 0) [] :=
    prep_issues (w := { uses := mwaitUses d a b sp }) hi (fun _ _ => rfl) (fun _ => rfl) fun _ _ => rfl
  have hf : ∀ l : List (Nat × Nat), (∀ p ∈ l, s.mwaitAsk p a b sp = s) → l.foldl (fun r p => r.mwaitAsk p a b sp) s = s := by
    intro l
    induction l with
    | nil => exact fun _ => rfl
    | cons p r ih =>
      intro hl
      rw [List.foldl_cons, hl p List.mem_cons_self]
      exact ih fun q hq => hl q (List.mem_cons_of_mem _ hq)
  unfold State.mwaitAsks
  rw [show [dstUse d 2 false, srcUse a (if sp then 1 else 2) 0, srcUse b 2 0] = mwaitUses d a b sp from rfl, hp]
  exact hf _ h

/-- Only what participants get counts. -/
theorem putDst_congr {s : State} {ok : List (Nat × Nat)} {d : Opnd} {f f' : Nat × Nat → List Word} (h : ∀ p ∈ ok, f p = f' p) :
    s.putDst ok d f = s.putDst ok d f' := by
  cases d with
  | v n => exact each_congr fun p hp => by rw [h p hp]
  | s n =>
    simp only [State.putDst]
    split
    · next p hp => rw [h p (List.mem_of_head? hp)]
    · rfl
  | zero | lane | lit x => rfl

theorem dropWords_unit (l : List (Nat × Nat)) (s : State) : (l.foldl (fun r p => r.dropWords p.2) s).unit = s.unit := by
  induction l generalizing s with
  | nil => rfl
  | cons p r ih => exact ih _

theorem acquire_unit (s : State) (k : Nat) (sc : Scope) : (s.acquire k sc).unit = s.unit := by
  cases sc <;> rfl

theorem mwait_goes {s : State} {d a b : Opnd} {sp : Bool} {stamp : Nat × Nat → Dword} (hi : Issues s 0 (mwaitUses d a b sp))
    (hr : ∀ p ∈ s.parts 0, ReadsStamp s a sp p (stamp p)) (hs : ∀ p ∈ s.parts 0, stampShows s b p (stamp p) = true)
    (hp : s.parts 0 ≠ []) :
    exec (.mwait d a b sp) s = does s 0 1 fun t =>
      ((s.parts 0).foldl (fun r p => r.dropWords p.2) (t.putDst (s.parts 0) d fun p => wordsOf 2 (stamp p))).acquire
        s.unit.core (if sp then .clu else .dev) := by
  rw [exec_mwait, execMwait_eq, mwaitAsks_none hi fun p hpp => mwaitAsk_shown (hr p hpp) (hs p hpp)]
  refine run_effect hi (fun p hpp => ?_) (fun _ => rfl) (fun _ _ => rfl) ?_ ?_ rfl
  · exact (mwaitStatus_shows (hr p hpp)).trans (by rw [hs p hpp]; rfl)
  · have hd : s.putDst (s.parts 0) d (fun p => wordsOf 2 (s.mwaitValue p a sp)) =
        s.putDst (s.parts 0) d fun p => wordsOf 2 (stamp p) := putDst_congr fun p hpp => by rw [mwaitValue_stamp (hr p hpp)]
    have hg : (mwaitWork d a b sp).guard = 0 := rfl
    exact (if_neg hp).trans (by rw [hg, hd])
  · rw [acquire_unit, dropWords_unit, putDst_unit]
    exact hi.lanes

theorem mwait_waits {s : State} {d a b : Opnd} {sp : Bool} {stamp : Nat × Nat → Dword} (hi : Issues s 0 (mwaitUses d a b sp))
    (hr : ∀ p ∈ s.parts 0, ReadsStamp s a sp p (stamp p)) (hn : ∀ p ∈ s.parts 0, ∀ e o, s.stampPlace p a sp ≠ .ok (.peer e o))
    (hs : ∃ p ∈ s.parts 0, stampShows s b p (stamp p) = false) :
    exec (.mwait d a b sp) s = waits s (((s.parts 0).filter fun p => !stampShows s b p (stamp p)).map Prod.snd) := by
  rw [exec_mwait, execMwait_eq, mwaitAsks_none hi fun p hpp => mwaitAsk_here (hn p hpp)]
  exact run_waitsFor (past := fun p => stampShows s b p (stamp p)) hi (fun p hpp => mwaitStatus_shows (hr p hpp)) hs

/-- Settles O20: a participant's own wait decides whether WAITC and MWAIT go on. -/
theorem waitsForCountersAndStamps : Obligations.WaitsForCountersAndStamps := by
  unfold Obligations.WaitsForCountersAndStamps
  refine fun s d a b c th g sp => ⟨fun hi => ⟨waitc_goes hi, waitc_waits hi⟩, fun hi stamp hr => ⟨?_, ?_⟩⟩
  · exact fun hs hp => mwait_goes hi hr hs hp
  · exact fun hn hs => mwait_waits hi hr hn hs

end Sys2Proof.Proofs
end

section
/-! PROOFS. SRD and SWR (R12, R42, R164, R199, R408 to R410). -/

namespace Sys2Proof.Proofs

open Sys2Proof.Machine Sys2Proof.Safety Sys2Proof.Laws

theorem exec_srd (d : Opnd) (n g : Nat) (s : State) : exec (.srd d n g) s = execSrd d n g s := rfl

theorem exec_swr (a : Opnd) (n g : Nat) (s : State) : exec (.swr a n g) s = execSwr a n g s := rfl

theorem srWide_iff (n : Nat) : srWide n = true ↔ n = 0x0E ∨ n = 0x14 ∨ n = 0x15 ∨ n = 0x30 := by
  simp [srWide, or_assoc]

/-- SRD of a register of k words. -/
theorem srd_reads {s : State} {d : Opnd} {n g k : Nat} (hk : (if srWide n then 2 else 1) = k) (hi : Issues s g [dstUse d k false]) :
    exec (.srd d n g) s = writes s g 2 d fun p => wordsOf k (BitVec.ofNat 64 (s.special p n)) := by
  subst hk
  rw [exec_srd, execSrd]
  exact run_effect hi (fun _ _ => rfl) (fun _ => rfl) (fun _ _ => rfl) rfl (by rw [putDst_unit]; exact hi.lanes) rfl

/-- SWR writes its register in every participant. -/
theorem swr_writes {s : State} {a : Opnd} {n g k : Nat} (hk : (if srWide n then 2 else 1) = k) (hi : Issues s g [srcUse a k 0])
    (hp : n = 0x08 ∨ ∀ p ∈ s.parts g, s.privileged p.2 = true) :
    exec (.swr a n g) s = does s g 2 fun t => t.each (s.parts g) fun p x => x.setSpecial n (s.val p a k 0) := by
  subst hk
  have hrun := run_effect (t := s.each (s.parts g) fun p x => x.setSpecial n (s.val p a (if srWide n then 2 else 1) 0))
    (w := { uses := [srcUse a (if srWide n then 2 else 1) 0], guard := g, cost := 2,
            act := fun s ok => s.each ok fun p x => x.setSpecial n (s.val p a (if srWide n then 2 else 1) 0) })
    hi (fun _ _ => rfl) (fun _ => rfl) (fun _ _ => rfl) rfl (by rw [each_unit]; exact hi.lanes) rfl
  rw [exec_swr, execSwr]
  split
  · exact hrun
  · next hn => exact (withPriv_privileged (hp.resolve_left hn) _).trans hrun

theorem narrow {n : Nat} (h : ¬ (n = 0x0E ∨ n = 0x14 ∨ n = 0x15 ∨ n = 0x30)) : (if srWide n then 2 else 1) = 1 :=
  if_neg (by rwa [srWide_iff])

/-- SWR of a register of 32 bits. -/
theorem swr_sets {s : State} {a : Opnd} {n g : Nat} (hn : ¬ (n = 0x0E ∨ n = 0x14 ∨ n = 0x15 ∨ n = 0x30))
    (hi : Issues s g [srcUse a 1 0]) (hp : n = 0x08 ∨ ∀ p ∈ s.parts g, s.privileged p.2 = true) {f : Thread → Word → Thread}
    (hf : ∀ (x : Thread) (w : Word), x.setSpecial n (w.setWidth 64) = f x w) :
    exec (.swr a n g) s = does s g 2 fun t => t.each (s.parts g) fun p x => f x (val32 s p a 0) := by
  rw [swr_writes (narrow hn) hi hp]
  simp only [val_one, hf]

theorem setSpecial_mode (x : Thread) (w : Word) :
    x.setSpecial 0x08 (w.setWidth 64) = { x with mode := (w &&& 0xFF) ||| (x.mode &&& 0x300 &&& ~~~w) } := by
  simp only [Thread.setSpecial, if_true, lo32_setWidth]

theorem setSpecial_repcount (x : Thread) (w : Word) : x.setSpecial 0x09 (w.setWidth 64) = { x with repcount := w.toNat } := by
  simp [Thread.setSpecial]

theorem setSpecial_bsync (x : Thread) (w : Word) : x.setSpecial 0x12 (w.setWidth 64) = { x with bsync := w &&& 0x800FFFFF } := by
  simp [Thread.setSpecial]

theorem setSpecial_hs {n : Nat} (h1 : 0x18 ≤ n) (h2 : n < 0x1C) (x : Thread) (w : Word) :
    x.setSpecial n (w.setWidth 64) = { x with hs := upd x.hs (n - 0x18) fun _ => w } := by
  have h : ¬ n = 0x08 ∧ ¬ n = 0x09 ∧ ¬ n = 0x12 ∧ ¬ n = 0x14 ∧ n < 0x20 := by omega
  simp [Thread.setSpecial, h]

theorem setSpecial_frec {n : Nat} (h1 : 0x20 ≤ n) (x : Thread) (w : Word) :
    x.setSpecial n (w.setWidth 64) = { x with frec := upd x.frec (n - 0x20) fun _ => w } := by
  have h : ¬ n = 0x08 ∧ ¬ n = 0x09 ∧ ¬ n = 0x12 ∧ ¬ n = 0x14 ∧ ¬ n < 0x20 := by omega
  simp [Thread.setSpecial, h]

/-! What SRD reads. -/

theorem special_hs (s : State) (p : Nat × Nat) {k : Nat} (h : k < 4) :
    s.special p (0x18 + k) = (((s.thr p.2).hs[k]?).getD 0).toNat := by
  interval_cases k <;> rfl

theorem special_frec (s : State) (p : Nat × Nat) {k : Nat} (h : k < 16) :
    s.special p (0x20 + k) = (((s.thr p.2).frec[k]?).getD 0).toNat := by
  interval_cases k <;> rfl

theorem b2n_eq (c : Bool) : b2n c = if c then 1 else 0 := rfl

theorem special_kind (s : State) (p : Nat × Nat) :
    bits (s.special p 0x05) 0 1 = (if (s.grp (s.thr p.2).group).consumer then 1 else 0) ∧
    bits (s.special p 0x05) 1 1 = if (s.launch (s.team (s.grp (s.thr p.2).group).team).launch).record.paired then 1 else 0 := by
  have h : ∀ x y z : Bool, bits (b2n x + 2 * b2n y + 4 * b2n z) 0 1 = (if x then 1 else 0) ∧
      bits (b2n x + 2 * b2n y + 4 * b2n z) 1 1 = if y then 1 else 0 := by decide
  exact h _ _ _

theorem special_context (s : State) (p : Nat × Nat) : bits (s.special p 0x16) 0 6 = (s.ctxOf p.2).num % 64 := by
  have h : s.special p 0x16 = (s.ctxOf p.2).num + 64 * b2n (s.ctxOf p.2).sys := rfl
  rw [h, bits]
  omega

/-- Settles O32: SRD reads, SWR writes, each in every participant; what a register holds is the model's `special`. -/
theorem specialRegistersReadAndWrite : Obligations.SpecialRegistersReadAndWrite := by
  unfold Obligations.SpecialRegistersReadAndWrite
  refine ⟨fun s d a n g => ⟨fun hn hi => ?_, fun hn hi => ?_, fun hi => ⟨?_, fun hp => ⟨?_, ?_, fun h1 h2 => ?_, fun h1 h2 => ?_⟩⟩,
    fun hi hp hn => ?_⟩, fun s p => ?_⟩
  · exact (srd_reads (narrow hn) hi).trans (by simp only [wordsOf_one_ofNat])
  · exact srd_reads (if_pos ((srWide_iff n).mpr hn)) hi
  · rintro rfl
    have h := swr_sets (by decide) hi (.inl rfl) setSpecial_mode
    exact h
  · rintro rfl
    have h := swr_sets (by decide) hi (.inr hp) setSpecial_repcount
    exact h
  · rintro rfl
    have h := swr_sets (by decide) hi (.inr hp) setSpecial_bsync
    exact h
  · have h := swr_sets (by omega) hi (.inr hp) (setSpecial_hs h1 h2)
    exact h
  · have h := swr_sets (by omega) hi (.inr hp) (setSpecial_frec h1)
    exact h
  · subst hn
    rw [swr_writes rfl hi (.inr hp)]
    rfl
  · exact ⟨rfl, rfl, rfl, rfl, rfl, rfl, rfl, rfl, rfl, rfl, rfl, rfl, rfl, rfl, rfl, rfl, rfl, rfl, fun _ => special_hs s p,
      fun _ => special_frec s p, (special_kind s p).1, (special_kind s p).2, special_context s p⟩

end Sys2Proof.Proofs
end

section
/-! PROOFS. TLBI and GRANT (R416, R417). -/

namespace Sys2Proof.Proofs

open Sys2Proof.Machine Sys2Proof.Safety Sys2Proof.Laws

theorem exec_tlbi (page : Bool) (a b : Opnd) (g : Nat) (s : State) : exec (.tlbi page a b g) s = execTlbi page a b g s := rfl

theorem exec_grant (d a b : Opnd) (g : Nat) (s : State) : exec (.grant d a b g) s = execGrant d a b g s := rfl

/-! The translations that are held. -/

theorem Traced.tlb {s t : State} (h : Traced s t) : t.sto.tlb = s.sto.tlb := h.elim fun _ h => h.tlb

theorem nextWord_tlb (s : State) : s.nextWord.sto.tlb = s.sto.tlb := by
  unfold State.nextWord
  split
  · exact (clauseTrace_traced s 0 s.unit.issued 0).tlb
  · rfl

theorem advance_tlb (s : State) : s.advance.sto.tlb = s.sto.tlb := by
  unfold State.advance
  split
  · exact nextWord_tlb _
  · split
    · rfl
    · exact nextWord_tlb _

theorem goesOn_tlb (s : State) {t : State} (g c : Nat) : (goesOn s t g c State.advance).sto.tlb = t.sto.tlb := by
  have hi : ∀ x : State, x.issued.sto = x.sto := fun _ => rfl
  rw [goesOn_eq, advance_tlb, hi]
  unfold State.pay
  split <;> rfl

/-- A translation of a context that does not reach into a range. -/
def OutOfRange (c : Nat) (r : Nat × Nat) (x : TlbEntry) : Prop :=
  x.ctx = c → (x.page + x.pages) * 4096 ≤ r.1 ∨ r.1 + r.2 ≤ x.page * 4096

theorem invalidate_tlb (s : State) (c : Nat) (r : Nat × Nat) :
    ∀ x ∈ (s.invalidate c r).sto.tlb, x ∈ s.sto.tlb ∧ OutOfRange c r x := by
  intro x hx
  obtain ⟨hm, hg⟩ := List.mem_filter.mp hx
  refine ⟨hm, fun hc => ?_⟩
  simp only [hc, beq_self_eq_true, Bool.true_and, Bool.not_eq_true', Bool.and_eq_false_iff, decide_eq_false_iff_not] at hg
  omega

/-- The translations left once the ranges of several threads are invalidated. -/
theorem invalidateAll_tlb (c : Nat) (range : Nat × Nat → Nat × Nat) (l : List (Nat × Nat)) (s : State) :
    ∀ x ∈ (l.foldl (fun r p => r.invalidate c (range p)) s).sto.tlb, x ∈ s.sto.tlb ∧ ∀ p ∈ l, OutOfRange c (range p) x := by
  induction l generalizing s with
  | nil => exact fun x hx => ⟨hx, by simp⟩
  | cons p r ih =>
    intro x hx
    obtain ⟨hm, hr⟩ := ih _ x hx
    obtain ⟨hm, hp⟩ := invalidate_tlb s c (range p) x hm
    exact ⟨hm, fun q hq => (List.mem_cons.mp hq).elim (fun h => h ▸ hp) (hr q)⟩

theorem invalidateAll_unit (c : Nat) (range : Nat × Nat → Nat × Nat) (l : List (Nat × Nat)) (s : State) :
    (l.foldl (fun r p => r.invalidate c (range p)) s).unit = s.unit := by
  induction l generalizing s with
  | nil => rfl
  | cons p r ih => exact ih _

/-! TLBI. -/

/-- The range that a participant names. -/
def namedRange (page : Bool) (s : State) (a b : Opnd) (p : Nat × Nat) : Nat × Nat :=
  tlbiRange page (s.src64 p a).toNat ((s.src p b).toNat % 8)

/-- TLBI as a word. -/
def tlbiWork (page : Bool) (a b : Opnd) (g : Nat) : Work :=
  { uses := [srcUse a (if page then 2 else 1) 0, srcUse b 1 0], guard := g, cost := 2,
    own := fun s p =>
      if page && decide (4 < (s.src p b).toNat % 8) then .trap { cls := 1, code := 1 }
      else if s.usesRange s.unitCtx.num (namedRange page s a b p) then .stall
      else .ready,
    act := fun s ok => ok.foldl (fun r p => r.invalidate s.unitCtx.num (namedRange page s a b p)) s }

theorem execTlbi_eq (page : Bool) (a b : Opnd) (g : Nat) (s : State) : execTlbi page a b g s = s.runPriv (tlbiWork page a b g) := rfl

section

variable {s : State} {a b : Opnd} {g : Nat} {page : Bool}
  (hi : Issues s g [srcUse a (if page then 2 else 1) 0, srcUse b 1 0]) (hv : ∀ p ∈ s.parts g, s.privileged p.2 = true)
  (hz : page = true → ∀ p ∈ s.parts g, (s.src p b).toNat % 8 ≤ 4)
include hz

theorem tlbi_own {p : Nat × Nat} (hp : p ∈ s.parts g) : (tlbiWork page a b g).own s p =
    if s.usesRange s.unitCtx.num (namedRange page s a b p) then .stall else .ready := by
  have hf : (page && decide (4 < (s.src p b).toNat % 8)) = false := by
    cases page with
    | false => rfl
    | true =>
      have := hz rfl p hp
      simp only [Bool.true_and, decide_eq_false_iff_not]
      omega
  simp only [tlbiWork, hf, Bool.false_eq_true, if_false]

include hi hv

theorem tlbi_waits (h : ∃ p ∈ s.parts g, s.usesRange s.unitCtx.num (namedRange page s a b p) = true) :
    exec (.tlbi page a b g) s = waits s [] := by
  obtain ⟨p, hp, hu⟩ := h
  have hown : ∀ q ∈ s.parts g, (tlbiWork page a b g).own s q = .stall ∨ (tlbiWork page a b g).own s q = .ready := fun q hq => by
    rw [tlbi_own hz hq]
    split
    exacts [.inl rfl, .inr rfl]
  have hheld : (s.parts g).filter (fun q => (tlbiWork page a b g).own s q == .hold) = [] :=
    List.filter_eq_nil_iff.mpr fun q hq => by obtain h | h := hown q hq <;> simp [h]
  rw [exec_tlbi, execTlbi_eq, State.runPriv, withPriv_privileged hv, run_waits hi
    (fun q hq => by obtain h | h := hown q hq <;> rw [h] <;> rfl) ⟨p, hp, by rw [tlbi_own hz hp, if_pos hu]; rfl⟩]
  rw [show (tlbiWork page a b g).guard = g from rfl, hheld]
  rfl

theorem tlbi_invalidates (h : ∀ p ∈ s.parts g, s.usesRange s.unitCtx.num (namedRange page s a b p) = false) :
    ∃ t, exec (.tlbi page a b g) s = .next t ∧
      ∀ x ∈ t.sto.tlb, x ∈ s.sto.tlb ∧ ∀ p ∈ s.parts g, OutOfRange s.unitCtx.num (namedRange page s a b p) x := by
  refine ⟨_, (exec_tlbi page a b g s).trans ((execTlbi_eq page a b g s).trans ((withPriv_privileged hv _).trans (run_effect hi
    (fun p hp => by rw [tlbi_own hz hp, h p hp]; rfl) (fun _ => rfl) (fun _ _ => rfl) rfl
      (by rw [tlbiWork, invalidateAll_unit]; exact hi.lanes) rfl))), ?_⟩
  rw [show (tlbiWork page a b g).fin = State.advance from rfl, goesOn_tlb]
  exact invalidateAll_tlb _ _ _ s

end

/-! GRANT. -/

theorem grant_gives {s : State} {d a b : Opnd} {g : Nat} {token : Nat × Nat → Dword}
    (hi : Issues s g [dstUse d 2 false, srcUse a 1 0, srcUse b 1 0]) (hv : ∀ p ∈ s.parts g, s.privileged p.2 = true)
    (ht : ∀ p ∈ s.parts g, s.grantToken s.unitCtx (s.src p a).toNat (s.src p b).toNat = some (token p)) :
    exec (.grant d a b g) s = writes s g 2 d fun p => wordsOf 2 (token p) := by
  rw [exec_grant, execGrant, State.runPriv, withPriv_privileged hv]
  refine run_effect hi (fun _ _ => rfl) (fun _ => rfl) (fun p hp => by simp only [ht p hp]; rfl)
    (putDst_congr fun p hp => by rw [ht p hp]; rfl) (by rw [putDst_unit]; exact hi.lanes) rfl

/-- Settles O36: TLBI waits or takes the ranges' translations away, and GRANT gives each participant its token. -/
theorem translationsAndTokensComplete : Obligations.TranslationsAndTokensComplete := by
  unfold Obligations.TranslationsAndTokensComplete
  refine fun s d a b g page => ⟨fun hi hv hz => ?_, fun hi hv token ht => ?_⟩
  · simp only [val32_src, val64_src] at hz ⊢
    refine ⟨tlbi_waits hi hv hz, fun h => ?_⟩
    obtain ⟨t, ht, hx⟩ := tlbi_invalidates hi hv hz h
    exact ⟨t, ht, fun x hm => (hx x hm).1, fun p hp x hm hc => (hx x hm).2 p hp hc⟩
  · simp only [val32_src] at ht
    exact grant_gives hi hv ht

end Sys2Proof.Proofs
end

section
/-! PROOFS. The HALTs (R404, R412). -/

namespace Sys2Proof.Proofs

open Sys2Proof.Machine Sys2Proof.Safety Sys2Proof.Laws

/-! Teams whose threads end. -/

/-- Threads of one team may have ended, and its life may have changed. -/
structure Ended (m : Nat) (s t : State) : Prop where
  team : ∀ j, j ≠ m → (t.team j).life = (s.team j).life
  teamOf : ∀ k, t.teamOf k = s.teamOf k
  threads : t.threads.length = s.threads.length
  life : ∀ k, (t.thr k).life = .exited ∨ (t.thr k).life = (s.thr k).life
  idle : (s.unit.lanes = [] → s.unit.live = false) → t.unit.lanes = [] → t.unit.live = false

theorem Ended.refl (m : Nat) (s : State) : Ended m s s := ⟨fun _ _ => rfl, fun _ => rfl, rfl, fun _ => .inr rfl, fun h => h⟩

theorem Ended.trans {m : Nat} {s t u : State} (h : Ended m s t) (h' : Ended m t u) : Ended m s u where
  team j hj := (h'.team j hj).trans (h.team j hj)
  teamOf k := (h'.teamOf k).trans (h.teamOf k)
  threads := h'.threads.trans h.threads
  life k := (h'.life k).elim .inl fun h1 => (h.life k).imp h1.trans h1.trans
  idle hs := h'.idle (h.idle hs)

theorem Ended.foldl {α : Type} {m : Nat} {f : State → α → State} {l : List α} {s : State}
    (h : ∀ t x, x ∈ l → Ended m s t → Ended m t (f t x)) : Ended m s (l.foldl f s) := by
  have hall : ∀ (r : List α) (t : State), (∀ x ∈ r, x ∈ l) → Ended m s t → Ended m s (r.foldl f t) := by
    intro r
    induction r with
    | nil => exact fun _ _ ht => ht
    | cons x r ih =>
      exact fun t hr ht => ih _ (fun y hy => hr y (List.mem_cons_of_mem _ hy)) (ht.trans (h t x (hr x List.mem_cons_self) ht))
  exact hall l s (fun _ h => h) (.refl m s)

theorem Calm.teamLife {b s : State} (h : Calm b s) (m : Nat) : (s.team m).life = (b.team m).life := by
  have ht := congrArg (fun l => ((l.teams[m]?).getD ((fun t : Team => (t.launch, t.idx, t.life)) .gone)).2.2) h
  simp only [lasting, List.getElem?_map, Option.getD_map] at ht
  exact ht

theorem Calm.teamOf {b s : State} (h : Calm b s) (k : Nat) : s.teamOf k = b.teamOf k := by
  have hg : (s.thr k).group = (b.thr k).group := (congrArg Thread.group (h.thr k) :)
  have ht : (s.grp (b.thr k).group).team = (b.grp (b.thr k).group).team := (congrArg Machine.Group.team (h.grp _) :)
  simp only [State.teamOf, hg, ht]

theorem Calm.ended {b s : State} (h : Calm b s) (m : Nat) : Ended m b s :=
  ⟨fun j _ => h.teamLife j, h.teamOf, h.threads_length, fun k => .inr (h.life k), fun hb => by rw [h.unit]; exact hb⟩

theorem updTeam_ended (s : State) (m : Nat) (f : Team → Team) : Ended m s (s.updTeam m f) := by
  refine ⟨fun j hj => ?_, fun _ => rfl, rfl, fun _ => .inr rfl, fun h => h⟩
  simp only [State.team, State.updTeam, getElem?_upd, if_neg hj]

/-- A part of the threads that a change of one leaves alone. -/
theorem thr_updThr_part {β : Type} {part : Thread → β} {f : Thread → Thread} (hf : ∀ x, part (f x) = part x) (s : State) (k j : Nat) :
    part ((s.updThr k f).thr j) = part (s.thr j) := by
  by_cases h : j = k
  · subst h
    simp only [State.thr, State.updThr, getElem?_upd, if_true]
    cases s.threads[j]? with
    | none => rfl
    | some x => exact hf x
  · rw [thr_updThr_other h]

theorem withoutThread_ended (s : State) (k m : Nat) : Ended m s (withoutThread s k) where
  team _ _ := rfl
  teamOf j := by
    have hthr : ((withoutThread s k).thr j).group = (s.thr j).group :=
      thr_updThr_part (part := Thread.group) (f := fun x => { x with life := .exited }) (fun _ => rfl) (s.leaveUnit k) k j
    have hgrp : ∀ g, ((withoutThread s k).grp g).team = (s.grp g).team := grp_updGrp_part (part := Machine.Group.team)
      (f := fun x => { x with bars := x.bars.map Barrier.exit }) (fun _ => rfl) ((s.leaveUnit k).updThr k _) _
    simp only [State.teamOf, hthr, hgrp]
  threads := length_upd ..
  life j := by
    rw [withoutThread_life]
    split
    exacts [.inl rfl, .inr rfl]
  idle h := leaveUnit_idle h k

theorem endThread_ended (s : State) (k : Nat) : Ended (s.teamOf k) s (s.endThread k) := by
  obtain ⟨l, hc⟩ := endThread_calm s k
  exact ((withoutThread_ended s k _).trans (updTeam_ended _ (s.teamOf k) _)).trans (hc.ended _)

theorem haltThread_ended (s : State) (k : Nat) : Ended (s.teamOf k) s (s.haltThread k) := by
  unfold State.haltThread
  split
  · exact .refl _ s
  · have hc : Calm s (((((s.thr k).held.foldl (fun s h => s.lostError k h) s).updThr k fun x => { x with held := [] }).discardSuspended k)) :=
      discardSuspended_calm (updThr_calm (lostErrors_calm (.refl s) _ k) fun _ => rfl)
    have he := endThread_ended (((((s.thr k).held.foldl (fun s h => s.lostError k h) s).updThr k fun x => { x with held := [] }).discardSuspended k)) k
    rw [hc.teamOf] at he
    exact (hc.ended _).trans he

theorem mem_threadsOf {s : State} {m k : Nat} : k ∈ s.threadsOf m ↔ k < s.threads.length ∧ s.teamOf k = m := by
  simp only [State.threadsOf, allPos, mem_allPosFrom, Nat.zero_add, State.teamOf, State.thr, beq_iff_eq]
  constructor
  · rintro ⟨_, x, rfl, hx, hg⟩
    exact ⟨(List.getElem?_eq_some_iff.mp hx).1, by simpa [hx] using hg⟩
  · rintro ⟨hk, hg⟩
    exact ⟨k, _, rfl, thr_stands hk, hg⟩

/-- The threads of a parked team have delivered what they hold. -/
def settledTeam (s : State) (m : Nat) : State :=
  (s.threadsOf m).foldl (fun s t =>
    ((s.thr t).held.foldl (fun s h => s.lostError t h) s |>.updThr t fun x => { x with held := [] }).discardSuspended t) s

theorem settledTeam_calm (s : State) (m : Nat) : Calm s (settledTeam s m) :=
  foldl_calm (.refl s) fun _ t h1 => discardSuspended_calm (updThr_calm (lostErrors_calm h1 _ t) fun _ => rfl)

/-- Every thread of a team has exited. -/
def exitedTeam (s : State) (m : Nat) : State :=
  { s with threads := s.threads.map fun (t : Thread) => if (s.grp t.group).team = m then { t with life := .exited } else t }

theorem exitedTeam_thr {s : State} {m k : Nat} (hk : k < s.threads.length) : (exitedTeam s m).thr k =
    if s.teamOf k = m then { s.thr k with life := .exited } else s.thr k := by
  have h : (exitedTeam s m).thr k = ((s.threads.map _)[k]?).getD .gone := rfl
  rw [h, List.getElem?_map, thr_stands hk]
  rfl

theorem exitedTeam_ended (s : State) (m : Nat) : Ended m s (exitedTeam s m) := by
  have hthr : ∀ k, (exitedTeam s m).thr k = s.thr k ∨ (exitedTeam s m).thr k = { s.thr k with life := .exited } := by
    intro k
    by_cases hk : k < s.threads.length
    · rw [exitedTeam_thr hk]
      split
      exacts [.inr rfl, .inl rfl]
    · refine .inl ?_
      simp [State.thr, exitedTeam, hk]
  refine ⟨fun _ _ => rfl, fun k => ?_, List.length_map .., fun k => ?_, fun h => h⟩
  · obtain h | h := hthr k <;> simp only [State.teamOf, h] <;> rfl
  · obtain h | h := hthr k <;> rw [h]
    exacts [.inr rfl, .inl rfl]

theorem retireTeam_ended (s : State) (m : Nat) : Ended m s (s.retireTeam m) :=
  (updTeam_ended s m _).trans ((retireTeam_calm (.refl s)).ended m)

/-- A team that ends. -/
theorem endTeam_ended (s : State) (m : Nat) : Ended m s (s.endTeam m) := by
  unfold State.endTeam
  split
  · exact .refl m s
  · exact updTeam_ended ..
  · exact ((settledTeam_calm s m).ended m).trans ((exitedTeam_ended _ m).trans (retireTeam_ended _ m))
  · refine Ended.foldl fun t k hk ht => ?_
    have := haltThread_ended t k
    rwa [ht.teamOf, (mem_threadsOf.mp hk).2] at this

/-- Every thread of a team that was on the machine has exited. -/
theorem endTeam_exits {s : State} {m k : Nat} (hk : k < s.threads.length) (hm : s.teamOf k = m) (hr : (s.team m).life ≠ .retired)
    (hw : (s.team m).life ≠ .waiting) : ((s.endTeam m).thr k).life = .exited := by
  have hmem := mem_threadsOf.mpr ⟨hk, hm⟩
  unfold State.endTeam
  split
  · next h => exact absurd h hr
  · next h => exact absurd h hw
  · have hc := settledTeam_calm s m
    have hlife := (retireTeam_calm (.refl (exitedTeam (settledTeam s m) m)) (m := m)).life k
    refine hlife.trans ?_
    have hx : ((exitedTeam (settledTeam s m) m).thr k).life = .exited := by
      rw [exitedTeam_thr (by rw [hc.threads_length]; exact hk), if_pos (by rw [hc.teamOf]; exact hm)]
    exact hx
  · rw [haltAll_life, if_pos hmem]

/-- Every thread of a launch's teams that were on the machine has exited. -/
theorem endTeams_exit {k m : Nat} (l : List Nat) {s : State} (hm : m ∈ l) (hk : k < s.threads.length) (ht : s.teamOf k = m)
    (h : (s.thr k).life = .exited ∨ ((s.team m).life ≠ .retired ∧ (s.team m).life ≠ .waiting)) :
    ((l.foldl State.endTeam s).thr k).life = .exited := by
  have hkeep : ∀ (r : List Nat) (s : State), (s.thr k).life = .exited → ((r.foldl State.endTeam s).thr k).life = .exited := by
    intro r
    induction r with
    | nil => exact fun _ h => h
    | cons j r ih => exact fun s h => ih _ (((endTeam_ended s j).life k).elim (fun h1 => h1) fun h1 => h1.trans h)
  induction l generalizing s with
  | nil => cases hm
  | cons j r ih =>
    obtain h | ⟨hr, hw⟩ := h
    · exact hkeep _ _ h
    · have he := endTeam_ended s j
      by_cases hj : m = j
      · subst hj
        exact hkeep r _ (endTeam_exits hk ht hr hw)
      · refine ih ((List.mem_cons.mp hm).resolve_left hj) (by rw [he.threads]; exact hk) (by rw [he.teamOf]; exact ht) (.inr ?_)
        rw [he.team m hj]
        exact ⟨hr, hw⟩

/-! The words. -/

theorem exec_haltThread (s : State) : exec .haltThread s = execHaltThread s := rfl

theorem exec_haltGroup (s : State) : exec .haltGroup s = execHaltGroup s := rfl

theorem exec_haltKernel (s : State) : exec .haltKernel s = execHaltKernel s := rfl

theorem exec_haltPark (s : State) : exec .haltPark s = execHaltPark s := rfl

/-- A HALT of a lone thread that takes no pre-emption trap: what it does, and the unit issues. -/
theorem run_halt {s : State} {p : Nat × Nat} {f : State → Nat × Nat → State} {own : State → Nat × Nat → Status} (hi : Issues s 0 [])
    (hu : Untraced s) (hp : s.parts 0 = [p]) (hv : s.privileged p.2 = true) (hz : (s.thr p.2).preempt = 0) (ho : own s p = .ready)
    {u : State} (hf : f (s.pay (ctxAt s) s.unit.core (s.costNow 2) [p]) p = u) (hl : u.unit.lanes = [] → u.unit.live = false) :
    s.runPriv { haltWork f with own := own } = .next u.issued := by
  have hthr : (s.pay (ctxAt s) s.unit.core (s.costNow 2) [p]).thr p.2 = s.thr p.2 := by
    rw [State.thr, pay_threads]
    rfl
  have ht : (s.pay (ctxAt s) s.unit.core (s.costNow 2) [p]).haltTraps p = false := by simp [State.haltTraps, hthr, hz]
  have hact : (haltWork f).act (s.pay (ctxAt s) s.unit.core (s.costNow 2) [p]) [p] = u := by
    simp only [haltWork, clauseTrace_untraced (untraced_pay hu _ _ _ _), ite_self, List.foldl_cons, List.foldl_nil, ht,
      Bool.false_eq_true, if_false, hf]
  have hg : s.parts ({ haltWork f with own := own } : Work).guard = [p] := hp
  rw [State.runPriv, withPriv_privileged fun q hq => by
    obtain rfl := List.mem_singleton.mp (hg ▸ hq)
    exact hv]
  rw [run_ends hi (fun q hq => by
    obtain rfl := List.mem_singleton.mp (hg ▸ hq)
    exact ho) (fun _ => rfl) (fun _ _ => rfl) rfl (by rw [hg]; exact hact ▸ hl), hg]
  exact congrArg (fun x => Host.Outcome.next x.issued) hact

/-- A charge changes nothing that lasts. -/
theorem pay_calm (s : State) (c k n : Nat) (ok : List (Nat × Nat)) : Calm s (s.pay c k n ok) := by
  unfold State.pay
  split <;> rfl

theorem issued_life (s : State) (k : Nat) : (s.issued.thr k).life = (s.thr k).life :=
  thr_issued_part (part := Thread.life) (fun _ _ => rfl) s k

theorem haltGroup_ended {s : State} {g m : Nat} (hm : ∀ k ∈ s.threadsIn g, s.teamOf k = m) : Ended m s (s.haltGroup g) := by
  refine ((unbindGroup_calm (.refl s)).ended m).trans (Ended.foldl fun t k hk ht => ?_)
  have := haltThread_ended t k
  have hc : Calm s (s.unbindGroup g) := unbindGroup_calm (.refl s)
  rwa [ht.teamOf, hc.teamOf, hm k hk] at this

theorem updLaunch_calm {b s : State} (h : Calm b s) (l : Nat) (f : Launch → Launch) : Calm b (s.updLaunch l f) := h

/-- A launch's threads on the machine have exited. -/
theorem endLaunch_exits {s : State} {l k : Nat} (hk : k < s.threads.length) (ht : s.teamOf k < s.teams.length)
    (hl : (s.team (s.teamOf k)).launch = l) (hr : (s.team (s.teamOf k)).life ≠ .retired) (hw : (s.team (s.teamOf k)).life ≠ .waiting) :
    ((s.endLaunch l).thr k).life = .exited := by
  refine endTeams_exit (m := s.teamOf k) _ (mem_allPosFrom.mpr ⟨s.teamOf k, s.team (s.teamOf k), (Nat.zero_add _).symm, ?_, ?_⟩) hk rfl
    (.inr ⟨hr, hw⟩)
  · have : (s.updLaunch l fun x => { x with ended := true }).teams = s.teams := rfl
    rw [this, State.team, List.getElem?_eq_getElem ht]
    rfl
  · simpa using hl

theorem endLaunch_idle {s : State} (l : Nat) (h : s.unit.lanes = [] → s.unit.live = false) :
    (s.endLaunch l).unit.lanes = [] → (s.endLaunch l).unit.live = false := by
  have hall : ∀ (r : List Nat) (t : State), (t.unit.lanes = [] → t.unit.live = false) →
      (r.foldl State.endTeam t).unit.lanes = [] → (r.foldl State.endTeam t).unit.live = false := by
    intro r
    induction r with
    | nil => exact fun _ h => h
    | cons m r ih => exact fun t ht => ih _ ((endTeam_ended t m).idle ht)
  exact hall _ _ h

/-- A thread that is parked has left its unit, and what becomes of its team changes neither. -/
theorem parkThread_calm (s : State) (k : Nat) : ∃ m l, Calm (withLife ((s.leaveUnit k).updThr k fun x => { x with
    life := .parked, held := x.held.filter fun h => decide (x.saved ≤ h.id) }) m l) (s.parkThread k) :=
  ⟨_, checkTeam_calm (m := ((s.leaveUnit k).updThr k fun x => { x with
    life := .parked, held := x.held.filter fun h => decide (x.saved ≤ h.id) }).teamOf k) (.refl _)⟩

theorem parkThread_life {s : State} {k : Nat} (hk : k < s.threads.length) : ((s.parkThread k).thr k).life = .parked := by
  obtain ⟨m, l, hc⟩ := parkThread_calm s k
  refine (hc.life k).trans ?_
  have h : ((s.leaveUnit k).updThr k fun x => { x with
      life := .parked, held := x.held.filter fun h => decide (x.saved ≤ h.id) }).thr k = { s.thr k with
      life := .parked, held := (s.thr k).held.filter fun h => decide ((s.thr k).saved ≤ h.id) } := thr_updThr_self (s := s.leaveUnit k) hk _
  exact congrArg Thread.life h

theorem parkThread_gone (s : State) (k : Nat) : ∀ u ∈ (s.parkThread k).units, ∀ q ∈ u.lanes, q.2 ≠ k := by
  obtain ⟨m, l, hc⟩ := parkThread_calm s k
  rw [hc.units]
  exact leaveUnit_gone s k

theorem parkThread_idle {s : State} (h : s.unit.lanes = [] → s.unit.live = false) (k : Nat) :
    (s.parkThread k).unit.lanes = [] → (s.parkThread k).unit.live = false := by
  obtain ⟨m, l, hc⟩ := parkThread_calm s k
  rw [hc.unit]
  exact leaveUnit_idle h k

/-- Whoever stands in no unit does not come to stand in one by an issue. -/
theorem issued_gone {s : State} {k : Nat} (h : ∀ u ∈ s.units, ∀ q ∈ u.lanes, q.2 ≠ k) :
    ∀ u ∈ s.issued.units, ∀ q ∈ u.lanes, q.2 ≠ k := by
  intro u hu
  obtain ⟨j, hj⟩ := List.mem_iff_getElem?.mp hu
  have hi : s.issued.units = upd s.units s.cur _ := rfl
  rw [hi, getElem?_upd] at hj
  split at hj
  · obtain ⟨v, hv, rfl⟩ := Option.map_eq_some_iff.mp hj
    exact h v (List.mem_of_getElem? hv)
  · exact h u (List.mem_of_getElem? hj)

theorem pay_teams {t : State} (c k n : Nat) (ok : List (Nat × Nat)) : (t.pay c k n ok).teams = t.teams := by
  unfold State.pay
  split <;> rfl

/-- Settles O38: a HALT ends or parks its threads before anything else becomes of their teams. -/
theorem haltsEndThreads : Obligations.HaltsEndThreads := by
  unfold Obligations.HaltsEndThreads
  intro s p hs hu hr hl hp hi hv _ hz
  have hmem : p ∈ s.unit.lanes := by simp [hl]
  have hk := hs.threads p hmem
  have hpay := pay_calm s (ctxAt s) s.unit.core (s.costNow 2) [p]
  have hidle : (s.pay (ctxAt s) s.unit.core (s.costNow 2) [p]).unit.lanes = [] →
      (s.pay (ctxAt s) s.unit.core (s.costNow 2) [p]).unit.live = false := fun h => absurd h (by simp [pay_unit, hl])
  have hthreads := pay_threads (t := s) (ctxAt s) s.unit.core (s.costNow 2) [p]
  have hthr : ∀ k, (s.pay (ctxAt s) s.unit.core (s.costNow 2) [p]).thr k = s.thr k := fun k => by simp only [State.thr, hthreads]
  have hteam : ∀ m, (s.pay (ctxAt s) s.unit.core (s.costNow 2) [p]).team m = s.team m := fun m => by simp only [State.team, pay_teams]
  generalize hq : s.pay (ctxAt s) s.unit.core (s.costNow 2) [p] = q at hpay hidle hthreads hthr hteam
  have hlen : ∀ {k}, k < s.threads.length → k < q.threads.length := fun h => hthreads ▸ h
  have hgrp : (q.thr p.2).group = s.unit.group := (hthr p.2 ▸ hs.group p hmem :)
  refine ⟨⟨_, run_halt hi hu hp hv hz rfl rfl (hq ▸ (haltThread_ended _ p.2).idle hidle), ?_⟩,
    ⟨_, run_halt hi hu hp hv hz rfl rfl ?_, fun k hk hg => ?_⟩,
    ⟨_, run_halt hi hu hp hv hz rfl rfl (hq ▸ endLaunch_idle _ hidle), fun k hk hl ht hr hw => ?_⟩,
    fun hm hst hun => ⟨_, run_halt hi hu hp hv hz ?_ rfl (hq ▸ parkThread_idle hidle p.2), ?_, ?_⟩⟩
  · rw [hq, issued_life, haltThread_life, if_pos rfl]
  · rw [hq, hgrp]
    refine (haltGroup_ended (m := (q.grp s.unit.group).team) fun k hk => ?_).idle hidle
    rw [State.teamOf, (mem_threadsIn.mp hk).2]
  · rw [hq, issued_life, hgrp]
    exact haltGroup_life (hlen hk) (hthr k ▸ hg)
  · have hof : q.teamOf k = s.teamOf k := hpay.teamOf k
    rw [hq, issued_life, hpay.teamOf, hteam]
    refine endLaunch_exits (hlen hk) ?_ ?_ ?_ ?_
    · rw [hof, ← hq, pay_teams]
      exact ht
    · rw [hof, hteam]
      exact hl
    · rw [hof, hteam]
      exact hr
    · rw [hof, hteam]
      exact hw
  · simp [hm, hst, hun]
  · rw [hq, issued_life]
    exact parkThread_life (hlen hk)
  · rw [hq]
    exact issued_gone (parkThread_gone q p.2)

end Sys2Proof.Proofs
end

section
/-! PROOFS. How a word's effect goes on at the next word: what that leaves as the effect has it. -/

namespace Sys2Proof.Proofs

open Sys2Proof.Machine Sys2Proof.Safety Sys2Proof.Laws

/-- Nothing but units, threads, and what a write of device memory may change. -/
def Onward (t u : State) : Prop := ∃ us ts, Kept { t with units := us, threads := ts } u

theorem Onward.trans {s t u : State} (h : Onward s t) (h' : Onward t u) : Onward s u := by
  obtain ⟨us, ts, h⟩ := h
  obtain ⟨us', ts', h'⟩ := h'
  have hu : unwritten { s with units := us', threads := ts' } { t with units := us', threads := ts' } =
      { unwritten { s with units := us, threads := ts } t with units := us', threads := ts' } := rfl
  have hk : Kept { s with units := us', threads := ts' } { t with units := us', threads := ts' } := ⟨by rw [hu, h.back], h.nodes, h.ids⟩
  exact ⟨us', ts', hk.trans h'⟩

theorem Kept.onward {t u : State} (h : Kept t u) : Onward t u := ⟨t.units, t.threads, h⟩

theorem Onward.of (t : State) (us : List IssueUnit) (ts : List Thread) : Onward t { t with units := us, threads := ts } := ⟨us, ts, .refl _⟩

theorem clauseTrace_onward (s : State) (e n : Nat) (x : Dword) : Onward s (s.clauseTrace e n x) :=
  (clauseTrace_traced s e n x).elim fun _ h => ⟨_, _, h⟩

theorem nextWord_onward (s : State) : Onward s s.nextWord := by
  unfold State.nextWord
  split
  · exact (clauseTrace_onward ..).trans (.of _ _ _)
  · exact .of s _ _

theorem advance_onward (s : State) : Onward s s.advance := by
  unfold State.advance
  split
  · exact (Onward.of s _ s.threads).trans (nextWord_onward _)
  · split
    · exact .of s _ _
    · exact (Onward.of s _ _).trans (nextWord_onward _)

theorem pay_kept (t : State) (c k n : Nat) (ok : List (Nat × Nat)) : Kept t (t.pay c k n ok) := by
  unfold State.pay
  split <;> exact .of_back rfl rfl

theorem goesOn_onward (s t : State) (g c : Nat) : Onward t (goesOn s t g c State.advance) := by
  rw [goesOn_eq]
  exact ((pay_kept ..).onward.trans (.of _ _ _)).trans (advance_onward _)

section

variable {t u : State} (h : Onward t u)
include h

/-- A part of the state that neither a write of device memory nor a move of units and threads touches. -/
theorem Onward.same {β : Type} (f : State → β) (hf : ∀ (x : State) us ts, f { x with units := us, threads := ts } = f x)
    (hw : ∀ x y : State, f (unwritten x y) = f y) : f u = f t := by
  obtain ⟨us, ts, hk⟩ := h
  rw [← hw { t with units := us, threads := ts } u, hk.same f, hf]

theorem Onward.teams : u.teams = t.teams := h.same State.teams (fun _ _ _ => rfl) fun _ _ => rfl

theorem Onward.groups : u.groups = t.groups := h.same State.groups (fun _ _ _ => rfl) fun _ _ => rfl

theorem Onward.ops : u.fly.ops = t.fly.ops := h.same (fun x => x.fly.ops) (fun _ _ _ => rfl) fun _ _ => rfl

theorem Onward.mops : u.fly.mops = t.fly.mops := h.same (fun x => x.fly.mops) (fun _ _ _ => rfl) fun _ _ => rfl

theorem Onward.jobs : u.fly.jobs = t.fly.jobs := h.same (fun x => x.fly.jobs) (fun _ _ _ => rfl) fun _ _ => rfl

theorem Onward.parkedSlots : u.fly.parkedSlots = t.fly.parkedSlots :=
  h.same (fun x => x.fly.parkedSlots) (fun _ _ _ => rfl) fun _ _ => rfl

/-- Nodes that are not spilled to memory are as before. -/
theorem Onward.nodes (n : TreeNode) (hn : n ∈ t.fly.nodes) (hp : ∀ k a, n.place ≠ .spill k a) : n ∈ u.fly.nodes := by
  obtain ⟨us, ts, hk⟩ := h
  exact hk.nodes n hn hp

theorem Onward.entry (m e : Nat) : u.entry m e = t.entry m e := by
  simp only [State.entry, State.team, h.teams]

end

/-- A part of a thread that neither its waiting time nor the end of its repeats touches. -/
def Steady {β : Type} (part : Thread → β) : Prop := ∀ x n b k c, part { x with since := n, waits := b, repcount := k, resuming := c } = part x

theorem advance_thr_part {β : Type} {part : Thread → β} (h : Steady part) (s : State) (k : Nat) :
    part (s.advance.thr k) = part (s.thr k) := by
  have hn : ∀ t : State, t.nextWord.thr k = t.thr k := fun t => by
    simp only [State.thr, nextWord_threads]
  unfold State.advance
  split
  · rw [hn]
    rfl
  · split
    · rfl
    · rw [hn]
      exact thr_each_part (part := part) (f := fun _ x => { x with repcount := 0, resuming := false })
        (fun _ x => h x x.since x.waits 0 false) _ _ _

/-- Such a part is as the effect has it, also of repeated words. -/
theorem goesOn_steady {β : Type} {part : Thread → β} (h : Steady part) (s t : State) (g c k : Nat) :
    part ((goesOn s t g c State.advance).thr k) = part (t.thr k) := by
  rw [goesOn_eq, advance_thr_part h, thr_issued_part fun x n => h x n false x.repcount x.resuming, State.thr, pay_threads]
  rfl

/-! What a unit that is not traced writes: nothing. -/

theorem untraced_of_group {s t : State} (hu : Untraced s) (hg : t.unit.group = s.unit.group) (h : t.groups = s.groups)
    (ht : t.teams = s.teams) (hl : t.launches = s.launches) (hc : ∀ k, (t.ctx k).debug = (s.ctx k).debug) : Untraced t := by
  have ha : ctxAt t = ctxAt s := by simp only [ctxAt, State.launch, State.team, State.grp, hg, h, ht, hl]
  rw [Untraced, ha, hc]
  exact hu

theorem untraced_updUnit {s : State} (hu : Untraced s) {f : IssueUnit → IssueUnit} (hf : ∀ u, (f u).group = u.group) (k : Nat) :
    Untraced (s.updUnit k f) :=
  untraced_of_group hu (unit_updUnit_part (part := IssueUnit.group) hf s k) rfl rfl rfl fun _ => rfl

theorem nextWord_unwritten {s : State} (hu : Untraced s) : s.nextWord.sto = s.sto := by
  unfold State.nextWord
  split
  · rw [clauseTrace_untraced hu]
    rfl
  · rfl

theorem advance_unwritten {s : State} (hu : Untraced s) : s.advance.sto = s.sto := by
  unfold State.advance
  split
  · exact nextWord_unwritten (untraced_updUnit hu (f := fun u => { u with scope := none }) (fun _ => rfl) _)
  · split
    · rfl
    · exact nextWord_unwritten (untraced_updUnit hu (f := fun u => { u with rep := none, scope := none }) (fun _ => rfl) _)

/-- The memories are as the effect of a word leaves them, in a unit that is not traced. -/
theorem goesOn_unwritten {t : State} (hu : Untraced t) (s : State) (g c : Nat) : (goesOn s t g c State.advance).sto = t.sto := by
  have hi : Untraced (t.pay (ctxAt s) s.unit.core (s.costNow c) (s.parts g)).issued :=
    untraced_of_group (untraced_pay hu (ctxAt s) s.unit.core (s.costNow c) (s.parts g))
      (issued_unit_part (part := IssueUnit.group) (fun _ _ => rfl) _) rfl rfl rfl fun _ => rfl
  have hp : ∀ x : State, x.issued.sto = x.sto := fun _ => rfl
  rw [goesOn_eq, advance_unwritten hi, hp]
  unfold State.pay
  split <;> rfl

end Sys2Proof.Proofs
end

section
/-! PROOFS. Images that words read and write (R413 to R415): what their bytes' way to memory and to other devices leaves alone. -/

namespace Sys2Proof.Proofs

open Sys2Proof.Machine Sys2Proof.Safety Sys2Proof.Laws

/-- The state with what writes and requests to other devices may change put back as in `s`. -/
def unsent (s t : State) : State :=
  { unwritten s t with sto := s.sto, fabric := s.fabric, nextId := s.nextId }

/-- Writes and requests to other devices may lead from `s` to `t`. -/
def Sent (s t : State) : Prop := unsent s t = s

theorem Sent.refl (s : State) : Sent s s := rfl

theorem Sent.trans {s t u : State} (h : Sent s t) (h' : Sent t u) : Sent s u := by
  have hu : unsent s (unsent t u) = unsent s u := rfl
  unfold Sent at h h' ⊢
  rw [← hu, h', h]

theorem Kept.sent {s t : State} (h : Kept s t) : Sent s t := by
  have hu : unsent s (unwritten s t) = unsent s t := rfl
  unfold Sent
  rw [← hu, h.back]
  rfl

theorem Sent.foldl {α : Type} {f : State → α → State} (h : ∀ s x, Sent s (f s x)) (l : List α) (s : State) : Sent s (l.foldl f s) := by
  induction l generalizing s with
  | nil => exact Sent.refl s
  | cons x r ih => exact (h s x).trans (ih (f s x))

theorem Sent.foldl_fst {α β : Type} {f : State × β → α → State × β} (h : ∀ x a, Sent x.1 (f x a).1) (l : List α) (x : State × β) :
    Sent x.1 (l.foldl f x).1 := by
  induction l generalizing x with
  | nil => exact Sent.refl x.1
  | cons a r ih => exact (h x a).trans (ih (f x a))

section

variable {s t : State} (h : Sent s t)
include h

theorem Sent.same {β : Type} (f : State → β) : f (unsent s t) = f s := congrArg f h

theorem Sent.threads : t.threads = s.threads := h.same State.threads

theorem Sent.thr (k : Nat) : t.thr k = s.thr k := by
  simp only [State.thr, h.threads]

theorem Sent.units : t.units = s.units := h.same State.units

theorem Sent.cur : t.cur = s.cur := h.same State.cur

theorem Sent.unit : t.unit = s.unit := by
  simp only [State.unit, State.unitAt, h.units, h.cur]

theorem Sent.teams : t.teams = s.teams := h.same State.teams

theorem Sent.groups : t.groups = s.groups := h.same State.groups

theorem Sent.ops : t.fly.ops = s.fly.ops := h.same fun x => x.fly.ops

theorem Sent.parkedSlots : t.fly.parkedSlots = s.fly.parkedSlots := h.same fun x => x.fly.parkedSlots

theorem Sent.entry (m e : Nat) : t.entry m e = s.entry m e := by
  simp only [State.entry, State.team, h.teams]

end

theorem noteTlb_sent (s : State) (c : Context) (va : Nat) : Sent s (s.noteTlb c va) := by
  unfold State.noteTlb
  split
  · exact .refl s
  · dsimp only
    split
    · exact .refl s
    · split
      · rfl
      · exact .refl s

theorem imageUsed_sent (s : State) (va len : Nat) : Sent s (s.imageUsed va len) := Sent.foldl (fun s => noteTlb_sent s _) _ s

theorem shadowWrite_sent (s : State) (m va pa : Nat) : Sent s (s.shadowWrite m va pa) := by
  unfold State.shadowWrite
  dsimp only
  split <;> rfl

theorem ask_sent (s : State) (ctx dev tctx : Nat) (token : Dword) (op : RemoteOp) : Sent s (s.ask ctx dev tctx token op) := rfl

theorem chargeLines_sent (s : State) (ctx core : Nat) (ls : List (Nat × Nat)) : Sent s (s.chargeLines ctx core ls) := by
  unfold State.chargeLines
  split <;> rfl

theorem writeSpad_sent (s : State) (a : Nat) (bs : List Byte) : Sent s (s.writeSpad a bs) := rfl

theorem writeAt_sent (s : State) (p : Place) (bs : List Byte) : Sent s (s.writeAt p bs) := by
  cases p with
  | mem a => exact (writePhys_kept s a bs).sent
  | spad a => exact writeSpad_sent s a bs
  | ws a => exact .refl s
  | peer e o => exact .refl s

theorem writeRuns_sent (s : State) (c : Context) (rs : List (Nat × Place × List Byte)) : Sent s (s.writeRuns c rs).1 :=
  Sent.foldl_fst (fun x r => by
    split
    · split
      · exact .refl x.1
      · exact ask_sent ..
    · exact writeAt_sent ..) rs (s, [])

theorem putImage_sent (s : State) (va : Nat) (bs : List Byte) : Sent s (s.putImage va bs).1 :=
  ((Sent.foldl (fun s _ => shadowWrite_sent s _ _ _) _ s).trans (imageUsed_sent _ va bs.length)).trans (writeRuns_sent ..)

theorem takeId_sent (s : State) : Sent s s.takeId := rfl

/-! Records for the host. -/

/-- Besides writes of device memory, interrupts may be raised. -/
def Posted (s t : State) : Prop := ∃ m w, Kept { s with msi := m, msixPending := w } t

theorem Kept.posted {s t : State} (h : Kept s t) : Posted s t := ⟨s.msi, s.msixPending, h⟩

theorem Posted.refl (s : State) : Posted s s := (Kept.refl s).posted

theorem Posted.trans {s t u : State} (h : Posted s t) (h' : Posted t u) : Posted s u := by
  obtain ⟨m, w, h⟩ := h
  obtain ⟨m', w', h'⟩ := h'
  have hu : unwritten { s with msi := m', msixPending := w' } { t with msi := m', msixPending := w' } =
      { unwritten { s with msi := m, msixPending := w } t with msi := m', msixPending := w' } := rfl
  have hk : Kept { s with msi := m', msixPending := w' } { t with msi := m', msixPending := w' } := ⟨by rw [hu, h.back], h.nodes, h.ids⟩
  exact ⟨m', w', hk.trans h'⟩

theorem Posted.foldl {α : Type} {f : State → α → State} (h : ∀ s x, Posted s (f s x)) (l : List α) (s : State) :
    Posted s (l.foldl f s) := by
  induction l generalizing s with
  | nil => exact .refl s
  | cons x r ih => exact (h s x).trans (ih (f s x))

section

variable {s t : State} (h : Posted s t)
include h

theorem Posted.threads : t.threads = s.threads := h.elim fun _ h => h.elim fun _ h => h.threads

theorem Posted.ops : t.fly.ops = s.fly.ops := h.elim fun _ h => h.elim fun _ h => h.ops

theorem Posted.unit : t.unit = s.unit := h.elim fun _ h => h.elim fun _ h => h.unit

end

theorem sendMsi_posted (s : State) (vec : Nat) : Posted s (s.sendMsi vec) := by
  unfold State.sendMsi
  dsimp only
  split
  exacts [⟨_, _, .refl _⟩, ⟨_, _, .refl _⟩]

theorem vwriteGet_posted (s : State) (c : Context) (va : Nat) (bs : List Byte) : Posted s ((s.vwrite c va bs).getD s) := by
  cases h : s.vwrite c va bs with
  | none => exact .refl s
  | some t => exact (vwrite_kept h).posted

theorem fqWrite_posted (s : State) (c : Context) (f : FaultInfo) : Posted s (s.fqWrite c f) := by
  unfold State.fqWrite
  dsimp only
  split
  · exact Posted.refl s
  · split
    · exact vwriteGet_posted ..
    · split
      · exact Posted.refl s
      · next ht1 =>
        split
        · exact (vwrite_kept ht1).posted
        · next ht2 =>
          have hk := ((vwrite_kept ht1).trans (vwrite_kept ht2)).posted
          split
          exacts [hk.trans (sendMsi_posted ..), hk]

theorem lostError_posted (s : State) (k : Nat) (h : HeldError) : Posted s (s.lostError k h) := by
  unfold State.lostError
  exact fqWrite_posted s _ _

/-! A store that counts while it is under way. -/

/-- Besides writes and requests, threads count an operation that is under way. -/
def Saved (s t : State) : Prop := ∃ ts os, Sent { s with threads := ts, fly := { s.fly with ops := os } } t

theorem Sent.saved {s t : State} (h : Sent s t) : Saved s t := ⟨s.threads, s.fly.ops, h⟩

section

variable {s t : State} (h : Saved s t)
include h

theorem Saved.unit : t.unit = s.unit := h.elim fun _ h => h.elim fun _ h => h.unit

theorem Saved.teams : t.teams = s.teams := h.elim fun _ h => h.elim fun _ h => h.teams

theorem Saved.groups : t.groups = s.groups := h.elim fun _ h => h.elim fun _ h => h.groups

theorem Saved.parkedSlots : t.fly.parkedSlots = s.fly.parkedSlots := h.elim fun _ h => h.elim fun _ h => h.parkedSlots

theorem Saved.entry (m e : Nat) : t.entry m e = s.entry m e := by
  simp only [State.entry, State.team, h.teams]

end

/-- Counting an operation after what is sent. -/
theorem Sent.count {s t : State} (h : Sent s t) (k : Nat) (f : Thread → Thread) (id u : Nat) (pc : Dword) (c : Ctr)
    (stamp : Option (Nat × Nat)) (reqs : List (Nat × Nat)) (lines : List Nat) (moved : List (Nat × Nat)) (err : Option Failure) :
    Saved s ((t.updThr k f).finishParts id u pc c stamp reqs lines moved err) := by
  refine ⟨((t.updThr k f).finishParts id u pc c stamp reqs lines moved err).threads,
    ((t.updThr k f).finishParts id u pc c stamp reqs lines moved err).fly.ops, ?_⟩
  have hs : ∀ (x y : State) ts os, Sent x y →
      Sent { x with threads := ts, fly := { x.fly with ops := os } } { y with threads := ts, fly := { y.fly with ops := os } } := by
    intro x y ts os hxy
    have hu : unsent { x with threads := ts, fly := { x.fly with ops := os } } { y with threads := ts, fly := { y.fly with ops := os } } =
        { unsent x y with threads := ts, fly := { (unsent x y).fly with ops := os } } := rfl
    unfold Sent at hxy ⊢
    rw [hu, hxy]
  exact hs s t _ _ h

theorem saveImage_saved (s : State) (k va : Nat) (bs : List Byte) : Saved s (s.saveImage k va bs) := by
  have hput : Sent s (s.takeId.putImage va bs).1 := (takeId_sent s).trans (putImage_sent ..)
  unfold State.saveImage
  dsimp only
  split
  · exact ((hput.trans (imageUsed_sent ..)).trans (chargeLines_sent ..)).saved
  · exact hput.count ..

/-! Words that read other devices. -/

/-- A word whose reads of other devices have all been answered has its effect, and the answers are dropped. -/
theorem runAfter_goes {s t : State} {w : Work} {need : State → List (Nat × Nat) → List (Reader × Nat × Nat × Nat)}
    (h : Issues s w.guard w.uses) (ho : ∀ p ∈ s.parts w.guard, w.own s p = .ready)
    (hh : s.parts w.guard ≠ [] → w.hold s (s.parts w.guard) = false)
    (hc : ∀ p ∈ s.parts w.guard, w.chk s (s.parts w.guard) p = none)
    (hn : ∀ x ∈ need s (s.parts w.guard), (s.peerAnswer x.1).isSome = true) (ht : w.act s (s.parts w.guard) = t)
    (hl : t.unit.lanes ≠ []) (he : w.ends = false) :
    s.runAfter w need = .next ((s.parts w.guard).foldl (fun r p => r.dropWords p.2) (goesOn s t w.guard w.cost w.fin)) := by
  have hprep : s.prep { w with chk := fun _ _ _ => none } = .go (s.parts w.guard) [] :=
    prep_issues (w := { w with chk := fun _ _ _ => none }) h ho hh fun _ _ => rfl
  have hdue : (need s (s.parts w.guard)).filter (fun x => (s.peerAnswer x.1).isNone) = [] :=
    List.filter_eq_nil_iff.mpr fun x hx => by
      rw [← Option.not_isSome, hn x hx]
      exact Bool.false_ne_true
  rw [State.runAfter, hprep]
  simp only [hdue, decide_true, Bool.or_true, if_true]
  rw [run_effect h ho hh hc ht hl he]

/-- A privileged word whose reads have all been answered has its effect, and the answers are dropped. -/
theorem run_after {s t : State} {w : Work} {need : State → List (Nat × Nat) → List (Reader × Nat × Nat × Nat)}
    (h : Issues s w.guard w.uses) (hv : ∀ p ∈ s.parts w.guard, s.privileged p.2 = true)
    (ho : ∀ p ∈ s.parts w.guard, w.own s p = .ready) (hh : w.hold s (s.parts w.guard) = false)
    (hc : ∀ p ∈ s.parts w.guard, w.chk s (s.parts w.guard) p = none)
    (hn : ∀ x ∈ need s (s.parts w.guard), (s.peerAnswer x.1).isSome = true) (ht : w.act s (s.parts w.guard) = t)
    (hl : t.unit.lanes ≠ []) (he : w.ends = false) :
    s.runPrivAfter w need =
      .next ((s.parts w.guard).foldl (fun r p => r.dropWords p.2) (goesOn s t w.guard w.cost w.fin)) := by
  rw [State.runPrivAfter, withPriv_privileged hv, runAfter_goes h ho (fun _ => hh) hc hn ht hl he]

/-- The same, where what matters is told by the effect. -/
theorem run_after_next {s : State} {w : Work} {need : State → List (Nat × Nat) → List (Reader × Nat × Nat × Nat)} {Q : State → Prop}
    (h : Issues s w.guard w.uses) (hv : ∀ p ∈ s.parts w.guard, s.privileged p.2 = true)
    (ho : ∀ p ∈ s.parts w.guard, w.own s p = .ready) (hh : w.hold s (s.parts w.guard) = false)
    (hc : ∀ p ∈ s.parts w.guard, w.chk s (s.parts w.guard) p = none)
    (hn : ∀ x ∈ need s (s.parts w.guard), (s.peerAnswer x.1).isSome = true) (he : w.ends = false)
    (hQ : ∀ t, w.act s (s.parts w.guard) = t →
      t.unit.lanes ≠ [] ∧ Q ((s.parts w.guard).foldl (fun r p => r.dropWords p.2) (goesOn s t w.guard w.cost w.fin))) :
    ∃ t, s.runPrivAfter w need = .next t ∧ Q t := by
  obtain ⟨hl, hq⟩ := hQ _ rfl
  exact ⟨_, run_after h hv ho hh hc hn rfl hl he, hq⟩

/-- A word's next state, where what matters is told by the effect. -/
theorem run_next {s : State} {w : Work} {Q : State → Prop} (h : Issues s w.guard w.uses)
    (ho : ∀ p ∈ s.parts w.guard, w.own s p = .ready) (hh : s.parts w.guard ≠ [] → w.hold s (s.parts w.guard) = false)
    (hc : ∀ p ∈ s.parts w.guard, w.chk s (s.parts w.guard) p = none) (he : w.ends = false)
    (hQ : ∀ t, w.act s (s.parts w.guard) = t → t.unit.lanes ≠ [] ∧ Q (goesOn s t w.guard w.cost w.fin)) :
    ∃ t, s.run w = .next t ∧ Q t := by
  obtain ⟨hl, hq⟩ := hQ _ rfl
  exact ⟨_, run_effect h ho hh hc rfl hl he, hq⟩

end Sys2Proof.Proofs
end

section
/-! PROOFS. Windows and slots that are saved and loaded (R347, R415). -/

namespace Sys2Proof.Proofs

open Sys2Proof.Machine Sys2Proof.Safety Sys2Proof.Laws

theorem exec_svwinWin (e : Nat) (a : Opnd) (s : State) : exec (.svwinWin e a) s = execSvwinWin e a s := rfl

theorem exec_ldwinWin (e : Nat) (a : Opnd) (s : State) : exec (.ldwinWin e a) s = execLdwinWin e a s := rfl

theorem exec_svwinSlot (e : Nat) (a b : Opnd) (s : State) : exec (.svwinSlot e a b) s = execSvwinSlot e a b s := rfl

theorem exec_ldwinSlot (e : Nat) (a b : Opnd) (s : State) : exec (.ldwinSlot e a b) s = execLdwinSlot e a b s := rfl

/-- A destination that a change of its entry sets. -/
theorem dest_updEntry {s : State} {m e i : Nat} {d : Dest} (hm : m < s.teams.length) (he : e < (s.team m).entries.length)
    (hi : i < (s.entry m e).dests.length) :
    (((s.updEntry m e fun x => { x with dests := upd x.dests i fun _ => d }).entry m e).dests[i]?).getD {} = d := by
  have ht : ((s.updEntry m e fun x => { x with dests := upd x.dests i fun _ => d }).team m) =
      { s.team m with entries := upd (s.team m).entries e fun x => { x with dests := upd x.dests i fun _ => d } } := by
    simp [State.updEntry, State.updTeam, State.team, getElem?_upd, hm]
  have hx : (s.team m).entries[e]? = some (s.entry m e) := by
    simp [State.entry, List.getElem?_eq_getElem he]
  have hn : ((s.updEntry m e fun x => { x with dests := upd x.dests i fun _ => d }).entry m e) =
      { s.entry m e with dests := upd (s.entry m e).dests i fun _ => d } := by
    rw [State.entry, ht]
    simp [getElem?_upd, hx]
  rw [hn]
  simp [getElem?_upd, hi]

/-- A lone participant's answers are dropped: its destinations stay. -/
theorem dropWords_entry (s : State) (l : List (Nat × Nat)) (m e : Nat) :
    (l.foldl (fun r p => r.dropWords p.2) s).entry m e = s.entry m e := by
  induction l generalizing s with
  | nil => rfl
  | cons p r ih => exact ih _

section

variable {s : State} {a b : Opnd} {e : Nat} {p : Nat × Nat}

/-- A lone participant whose stores are few has room for another. -/
theorem saveFull_lone (h : (s.thr p.2).st < 63) (va len : Nat) : s.saveFull p va len = false := by
  simp [State.saveFull, Nat.not_le.mpr h]

/-- SVWIN of a window parks a destination that is arriving, and leaves any other as it is. -/
theorem svwinWin_parks (hp : s.parts 0 = [p]) (hv : s.privileged p.2 = true) (hi : Issues s 0 [lowUse a 2])
    (hm : s.unitTeam < s.teams.length) (he : e < (s.team s.unitTeam).entries.length)
    (hd : (s.winDest e).2.1 < (s.entry s.unitTeam e).dests.length)
    (himg : s.imageTrap (s.src64 p a) (s.winImage e).length 2 256 = none) (hw : (s.winDest e).2.2.1 = false)
    (hst : (s.thr p.2).st < 63) :
    ∃ t, exec (.svwinWin e a) s = .next t ∧ (((t.entry s.unitTeam e).dests[(s.winDest e).2.1]?).getD {}).state =
      if (((s.entry s.unitTeam e).dests[(s.winDest e).2.1]?).getD {}).state = .arriving then .parked (s.src64 p a)
      else (((s.entry s.unitTeam e).dests[(s.winDest e).2.1]?).getD {}).state := by
  have hsaved := saveImage_saved s p.2 (s.src64 p a).toNat (s.winImage e)
  have hlow : lowest [p] = p := rfl
  rw [exec_svwinWin, execSvwinWin, State.runPriv, withPriv_privileged fun q hq => by
    obtain rfl := List.mem_singleton.mp (hp ▸ hq)
    exact hv]
  refine ⟨_, run_effect hi (fun _ _ => rfl) (fun _ => ?_) (fun q hq => ?_) rfl ?_ rfl, ?_⟩
  · rw [hp]
    exact saveFull_lone hst ..
  · rw [hp]
    exact himg
  · rw [hp]
    dsimp only
    split <;> exact hsaved.unit ▸ hi.lanes
  · rw [(goesOn_onward ..).entry, hp]
    dsimp only
    by_cases hx : (((s.entry s.unitTeam e).dests[(s.winDest e).2.1]?).getD {}).state = .arriving
    · rw [if_pos ⟨hx, hw⟩, if_pos hx, dest_updEntry (by rw [State.updFly, hsaved.teams]; exact hm)
        (by simp only [State.team, State.updFly, hsaved.teams]; exact he)]
      exact lt_of_lt_of_eq hd (congrArg (fun x : Entry => x.dests.length) (hsaved.entry ..).symm)
    · rw [if_neg fun h => hx h.1, if_neg hx, hsaved.entry]

/-- An image that can be read has its address within the address space. -/
theorem image_inside {t len align : Nat} {va : Dword} (hlen : 0 < len) (h : s.imageReadTrap t va len align = none) :
    va.toNat < 2 ^ 57 := by
  by_contra hout
  have hx : s.xlate s.unitCtx va.toNat 1 = .error (4, 4) := by
    rw [State.xlate, if_pos (Nat.le_of_not_lt hout)]
  have hmem : va.toNat ∈ blockStarts 4096 va.toNat len := by
    refine List.mem_map.mpr ⟨0, List.mem_range.mpr ?_, by simp⟩
    omega
  have hbad := (Option.or_eq_none_iff.mp (Option.or_eq_none_iff.mp h).1).1
  have := List.findSome?_eq_none_iff.mp hbad _ hmem
  rw [hx] at this
  exact nomatch this

/-- An image that can be read has bytes. -/
theorem image_bytes {t len align : Nat} {va : Dword} (h : s.imageReadTrap t va len align = none) :
    ∃ bs, s.getImage t va.toNat len = .ok bs := by
  have hread := (Option.or_eq_none_iff.mp (Option.or_eq_none_iff.mp h).2).2
  cases hg : s.getImage t va.toNat len with
  | ok bs => exact ⟨bs, rfl⟩
  | error f => simp [hg] at hread

/-- A destination's state as the header of its image gives it (R415). -/
def loadedState (h : List Byte) (old : DestState) : DestState :=
  if sliceVal h 8 1 = 0 then old
  else if sliceVal h 8 1 = 1 then .absent
  else if sliceVal h 8 1 = 3 ∨ bits (sliceVal h 0 8) 62 2 = 0 then .present
  else .absent

/-- What LDWIN checks once its header can be read. -/
theorem ldwinTrap_header {h : List Byte} (hr : s.imageReadTrap p.2 (s.src64 p a) 24 256 = none)
    (hh : s.getImage p.2 (s.src64 p a).toNat 24 = .ok h) : s.ldwinTrap p.2 e (s.src64 p a) =
      if (s.entry s.unitTeam e).dests.all (fun d => d.state == .unbound) then some { cls := 6, code := 2 }
      else if sliceVal h 8 1 = 0 then none
      else if (((s.entry s.unitTeam e).dests[(s.winDest e).2.1]?).getD {}).state = .unbound then some { cls := 6, code := 2 }
      else if sliceVal h 8 1 = 1 then none
      else s.imageReadTrap p.2 (s.src64 p a + 256) (s.winDest e).1.size 1 := by
  obtain ⟨get, hget⟩ := exists_eq (a' := State.getImage)
  obtain ⟨read, hread⟩ := exists_eq (a' := State.imageReadTrap)
  rw [← hget] at hh
  rw [← hread] at hr ⊢
  rw [State.ldwinTrap, ← hget, ← hread]
  simp only [hr, hh]

/-- LDWIN finds the bytes of a window that the header says has some. -/
theorem ldwin_body {h : List Byte} (ht : s.ldwinTrap p.2 e (s.src64 p a) = none)
    (hh : s.getImage p.2 (s.src64 p a).toNat 24 = .ok h) (h0 : sliceVal h 8 1 ≠ 0) (h1 : sliceVal h 8 1 ≠ 1) :
    ∃ bs, s.getImage p.2 ((s.src64 p a).toNat + 256) (s.winDest e).1.size = .ok bs := by
  have hr : s.imageReadTrap p.2 (s.src64 p a) 24 256 = none := by
    by_contra hne
    obtain ⟨f, hf⟩ := Option.ne_none_iff_exists'.mp hne
    obtain ⟨read, hread⟩ := exists_eq (a' := State.imageReadTrap)
    rw [← hread] at hf
    rw [State.ldwinTrap, ← hread] at ht
    simp [hf] at ht
  rw [ldwinTrap_header hr hh, if_neg h0, if_neg h1] at ht
  have hbody : s.imageReadTrap p.2 (s.src64 p a + 256) (s.winDest e).1.size 1 = none := by
    split at ht
    · exact nomatch ht
    · split at ht
      exacts [(nomatch ht), ht]
  obtain ⟨bs, hbs⟩ := image_bytes hbody
  have hin := image_inside (by omega) hr
  have hadd : (s.src64 p a + 256).toNat = (s.src64 p a).toNat + 256 := by
    rw [BitVec.toNat_add]
    simp
    omega
  exact ⟨bs, hadd ▸ hbs⟩

/-- LDWIN of a window brings back the state that the image holds. -/
theorem ldwinWin_sets (hp : s.parts 0 = [p]) (hv : s.privileged p.2 = true) (hi : Issues s 0 [lowUse a 2])
    (hm : s.unitTeam < s.teams.length) (he : e < (s.team s.unitTeam).entries.length)
    (hd : (s.winDest e).2.1 < (s.entry s.unitTeam e).dests.length)
    (hopen : s.imageOpen (s.src64 p a) = false)
    (hpend : s.imagePending (s.src64 p a).toNat (256 + (s.winDest e).1.size) = false)
    (htrap : s.ldwinTrap p.2 e (s.src64 p a) = none)
    (hneed : ∀ x ∈ s.ldwinNeeds p.2 e (s.src64 p a).toNat, (s.peerAnswer x.1).isSome = true)
    {h : List Byte} (hh : s.getImage p.2 (s.src64 p a).toNat 24 = .ok h) :
    ∃ t, exec (.ldwinWin e a) s = .next t ∧ (((t.entry s.unitTeam e).dests[(s.winDest e).2.1]?).getD {}).state =
      loadedState h (((s.entry s.unitTeam e).dests[(s.winDest e).2.1]?).getD {}).state := by
  have hset : ∀ (u : State) (x : DestState), Sent s u → (((u.updEntry s.unitTeam e fun y =>
      { y with dests := upd y.dests (s.winDest e).2.1 fun _ => { state := x } }).entry s.unitTeam e).dests[(s.winDest e).2.1]?).getD {} =
        { state := x } := by
    intro u x hu
    rw [dest_updEntry (by rw [hu.teams]; exact hm) (by simp only [State.team, hu.teams]; exact he) (by rw [hu.entry]; exact hd)]
  have hs0 : Sent s ((s.imageUsed (s.src64 p a).toNat 24).chargeLines s.unitCtx.num s.unit.core
      (s.imageMoved p.2 (s.src64 p a).toNat 24 1)) := (imageUsed_sent ..).trans (chargeLines_sent ..)
  have hdest : ∀ T : State, T.unit = s.unit → (((T.entry s.unitTeam e).dests[(s.winDest e).2.1]?).getD {}).state =
      loadedState h (((s.entry s.unitTeam e).dests[(s.winDest e).2.1]?).getD {}).state → T.unit.lanes ≠ [] ∧
      ((((goesOn s T 0 2 State.advance).dropWords p.2).entry s.unitTeam e).dests[(s.winDest e).2.1]?.getD {}).state =
        loadedState h (((s.entry s.unitTeam e).dests[(s.winDest e).2.1]?).getD {}).state := by
    intro T hu hT
    refine ⟨hu ▸ hi.lanes, ?_⟩
    have hx : ((goesOn s T 0 2 State.advance).dropWords p.2).entry s.unitTeam e = T.entry s.unitTeam e := (goesOn_onward ..).entry ..
    rw [hx]
    exact hT
  obtain ⟨get, hget⟩ := exists_eq (a' := State.getImage)
  have hbody := fun h0 h1 => ldwin_body (e := e) htrap hh h0 h1
  rw [exec_ldwinWin, execLdwinWin]
  rw [← hget] at hh hbody ⊢
  refine run_after_next hi (by rw [hp]; simpa using hv) ?_ rfl ?_ ?_ rfl fun T hT => ?_
  · rw [hp]
    simp [hopen, hpend, lowest]
  · rw [hp]
    exact fun _ _ => htrap
  · rw [hp]
    exact hneed
  · rw [hp] at hT ⊢
    dsimp only at hT
    rw [hh] at hT
    dsimp only at hT
    by_cases h0 : sliceVal h 8 1 = 0
    · rw [if_pos h0] at hT
      subst hT
      exact hdest _ hs0.unit (by rw [loadedState, if_pos h0, hs0.entry])
    · rw [if_neg h0] at hT
      by_cases h1 : sliceVal h 8 1 = 1
      · rw [if_pos h1] at hT
        subst hT
        exact hdest _ hs0.unit (by rw [loadedState, if_neg h0, if_pos h1, hset _ _ hs0])
      · obtain ⟨bs, hbs⟩ := hbody h0 h1
        rw [if_neg h1, hbs] at hT
        dsimp only at hT
        subst hT
        have hs2 := (((hs0.trans (writeSpad_sent _ ((s.team s.unitTeam).addr (s.winDest e).2.2.2.2) (h.take 8))).trans
          (writeSpad_sent _ ((s.team s.unitTeam).addr (s.winDest e).2.2.2.1) bs)).trans
          (imageUsed_sent _ ((s.src64 p a).toNat + 256) (s.winDest e).1.size)).trans
          (chargeLines_sent _ s.unitCtx.num s.unit.core (s.imageMoved p.2 ((s.src64 p a).toNat + 256) (s.winDest e).1.size 1))
        exact hdest _ hs2.unit (by rw [loadedState, if_neg h0, if_neg h1, hset _ _ hs2])

/-- SVWIN of a slot remembers its image. -/
theorem svwinSlot_remembers {y : Nat} (hy : (s.src p b).toNat % 2 ^ 24 = y) (hp : s.parts 0 = [p]) (hv : s.privileged p.2 = true)
    (hi : Issues s 0 [lowUse a 2, lowUse b 1]) (h1 : (s.slot s.unitTeam y).state ≠ 1) (h4 : (s.slot s.unitTeam y).state ≠ 4)
    (hslot : s.saveSlotTrap y (s.slot s.unitTeam y).ring = none) (himg : s.imageTrap (s.src64 p a) 720 2 16 = none)
    (hst : (s.thr p.2).st < 63) :
    ∃ t, exec (.svwinSlot e a b) s = .next t ∧
      ∃ z ∈ t.fly.parkedSlots, z.team = s.unitTeam ∧ z.slot = y ∧ z.image = s.src64 p a ∧ z.count = 0 := by
  rw [exec_svwinSlot, execSvwinSlot, State.runPriv, withPriv_privileged fun q hq => by
    obtain rfl := List.mem_singleton.mp (hp ▸ hq)
    exact hv]
  refine run_next hi (fun _ _ => rfl) (fun _ => ?_) (fun q hq => ?_) rfl fun T hT => ?_
  · rw [hp]
    simp only [lowest, List.headD_cons, hy, saveFull_lone hst, Bool.or_false, Bool.or_eq_false_iff, beq_eq_false_iff_ne]
    exact ⟨h1, h4⟩
  · rw [hp]
    simp only [lowest, List.headD_cons, hy, hslot, himg, Option.or_none]
  · rw [hp] at hT
    dsimp only at hT
    subst hT
    refine ⟨?_, ?_⟩
    · have hu : ∀ bs, (s.saveImage p.2 (s.src64 p a).toNat bs).unit = s.unit := fun bs => (saveImage_saved s p.2 _ bs).unit
      exact (hu _).symm ▸ hi.lanes
    rw [(goesOn_onward ..).parkedSlots]
    exact ⟨_, List.mem_append_right _ (List.mem_singleton_self _), rfl, hy, rfl, rfl⟩

/-- LDWIN of a slot that no parked push has followed writes its bytes to the slot. -/
theorem ldwinSlot_loads {y : Nat} {bs : List Byte} (hy : (s.src p b).toNat % 2 ^ 24 = y) (hp : s.parts 0 = [p])
    (hv : s.privileged p.2 = true) (hi : Issues s 0 [lowUse a 2, lowUse b 1])
    (htrap : s.imageReadTrap p.2 (s.src64 p a) 720 16 = none) (hpend : s.imagePending (s.src64 p a).toNat 720 = false)
    (hneed : ∀ x ∈ s.imageNeeds p.2 (s.src64 p a).toNat 720 16, (s.peerAnswer x.1).isSome = true)
    (hbs : s.getImage p.2 (s.src64 p a).toNat 720 = .ok bs)
    (hslot : s.saveSlotTrap y (bit (sliceVal bs 128 8) 60) = none) (hc : sliceVal bs 712 8 = 0)
    (hz : ∀ z ∈ s.fly.parkedSlots, ¬ (z.team = s.unitTeam ∧ z.image = s.src64 p a)) :
    ∃ u, (does s 0 2 fun t =>
        ((t.imageUsed (s.src64 p a).toNat 720).chargeLines s.unitCtx.num s.unit.core
          (s.imageMoved p.2 (s.src64 p a).toNat 720 1)).writeSpad
            ((s.team s.unitTeam).addr y) (bs.take (if bit (sliceVal bs 128 8) 60 then 576 else 144))) = .next u ∧
      exec (.ldwinSlot e a b) s = .next (u.dropWords p.2) := by
  have hfind : s.fly.parkedSlots.find? (fun z => z.team == s.unitTeam && z.image == s.src64 p a) = none := by
    rw [List.find?_eq_none]
    intro z hm
    simpa using hz z hm
  have hsent := ((imageUsed_sent s (s.src64 p a).toNat 720).trans (chargeLines_sent _ s.unitCtx.num s.unit.core
    (s.imageMoved p.2 (s.src64 p a).toNat 720 1))).trans (writeSpad_sent _ ((s.team s.unitTeam).addr y)
      (bs.take (if bit (sliceVal bs 128 8) 60 then 576 else 144)))
  refine ⟨_, rfl, ?_⟩
  obtain ⟨get, hget⟩ := exists_eq (a' := State.getImage)
  rw [exec_ldwinSlot, execLdwinSlot]
  rw [← hget] at hbs ⊢
  refine (run_after hi (by rw [hp]; simpa using hv) ?_ rfl ?_ ?_ ?_ (hsent.unit ▸ hi.lanes) rfl).trans ?_
  · rw [hp]
    simp [hpend, lowest]
  · rw [hp]
    intro q hq
    simp only [lowest, List.headD_cons, hy, htrap, hbs, hslot, Option.or_none]
  · rw [hp]
    exact hneed
  · rw [hp]
    dsimp only
    rw [hbs]
    dsimp only
    rw [hfind, if_pos hc, hy]
  · rw [hp]
    rfl

end

/-- Settles O35: what an image's bytes go through leaves the entries and slots that the word then changes. -/
theorem windowsAndSlotsSaveAndLoad : Obligations.WindowsAndSlotsSaveAndLoad := by
  unfold Obligations.WindowsAndSlotsSaveAndLoad
  intro s a b e p hs hp hv
  simp only [val64_src, val32_src]
  refine ⟨fun hi hm he hd => ⟨fun himg hw hst => svwinWin_parks hp hv hi hm he hd himg hw hst, fun h hopen hpend htrap hneed hh => ?_⟩,
    fun hi => ⟨fun h1 h4 hslot himg hst => svwinSlot_remembers rfl hp hv hi h1 h4 hslot himg hst,
      fun bs htrap hpend hneed hbs hslot hc hz => ldwinSlot_loads rfl hp hv hi htrap hpend hneed hbs hslot hc hz⟩⟩
  obtain ⟨t, ht, hst⟩ := ldwinWin_sets hp hv hi hm he hd hopen hpend htrap hneed hh
  refine ⟨fun h0 => ⟨t, ht, ?_⟩, fun h1 => ⟨t, ht, ?_⟩, fun h2 => ⟨t, ht, ?_⟩⟩
  · rw [hst, loadedState, if_pos h0]
  · rw [hst, loadedState, if_neg (by omega), if_pos h1]
  · rw [hst, loadedState, if_neg (by omega), if_neg (by omega)]

end Sys2Proof.Proofs
end

section
/-! PROOFS. The walk gives all addresses of a page the same translation, so noting one changes none (R393 to R395). -/

namespace Sys2Proof.Proofs

open Sys2Proof.Machine Sys2Proof.Safety Sys2Proof.Laws

/-! Entries of tables. -/

section

variable {reserved : Nat → Nat → Bool} {read : Nat → Nat → Option (List Byte)}

/-- A valid entry stands at an index of a table of the walk. -/
structure EntryAt (reserved : Nat → Nat → Bool) (read : Nat → Nat → Option (List Byte)) (level table i e : Nat) : Prop where
  inside : reserved (table + 8 * i) 8 = false
  read : ∃ bs, read (table + 8 * i) 8 = some bs ∧ bytesVal bs = e
  valid : bit e 0 = true
  good : badEntry level e = false

/-- The walk's step at a valid entry. -/
theorem walkAt_entry {level table va e : Nat} {down : Nat → Except (Nat × Nat) Leaf}
    (h : EntryAt reserved read level table (bits va (12 + 9 * level) 9) e) : walkAt reserved read down va level table = down e := by
  obtain ⟨bs, hr, rfl⟩ := h.read
  rw [walkAt]
  simp [h.inside, hr, h.valid, h.good]

theorem walkAt_ok {level table va : Nat} {down : Nat → Except (Nat × Nat) Leaf} {l : Leaf}
    (h : walkAt reserved read down va level table = .ok l) :
    ∃ e, EntryAt reserved read level table (bits va (12 + 9 * level) 9) e ∧ down e = .ok l := by
  unfold walkAt at h
  dsimp only at h
  split at h
  · exact nomatch h
  · next hin =>
    split at h
    · exact nomatch h
    · next bs hr =>
      split at h
      · exact nomatch h
      · next hv =>
        split at h
        · exact nomatch h
        · next hg => exact ⟨_, ⟨by simpa using hin, ⟨bs, hr, rfl⟩, by simpa using hv, by simpa using hg⟩, h⟩

end

/-- Whether an address is reserved is the same for a whole table. -/
theorem reserved_table (s : State) {table i j : Nat} (ht : table % 4096 = 0) (hi : i < 512) (hj : j < 512) :
    s.reserved (table + 8 * i) 8 = s.reserved (table + 8 * j) 8 := by
  have hc : s.capacity % 4096 = 0 := by
    rw [State.capacity]
    omega
  have h1 : table + 8 * i < 2 ^ 20 ↔ table + 8 * j < 2 ^ 20 := by omega
  have h2 : s.capacity - 2 ^ 32 < table + 8 * i + 8 ↔ s.capacity - 2 ^ 32 < table + 8 * j + 8 := by omega
  have h3 : table + 8 * i < s.capacity ↔ table + 8 * j < s.capacity := by omega
  simp only [State.reserved, h1, h2, h3]

/-- How many entries of its table an entry stands together with (R394), at each level of a leaf. -/
def groupLen (level : Nat) : Nat := if level = 0 then 16 else 32

/-- The size of the page that a leaf entry gives. -/
def leafSize (level e : Nat) : Nat := if bit e 6 then groupLen level * pageSize level else pageSize level

/-- The entries of the group that an address's entry belongs to, as they are read. -/
def groupRead (read : Nat → Nat → Option (List Byte)) (level table i : Nat) : List (Option (List Byte)) :=
  (List.range (groupLen level)).map fun j => read (table + 8 * (i / groupLen level * groupLen level + j)) 8

/-- What a leaf entry says of an address. -/
def leafPlace (e off : Nat) : Place :=
  if bit e 7 then .peer (bits e 40 17) (bits e 12 28 * 4096 + off) else .mem (bits e 12 45 * 4096 + off)

/-- Whether the page of a leaf entry may be used. -/
def leafAllowed (s : State) (c : Context) (e size : Nat) : Bool :=
  if bit e 7 then decide (bits e 40 17 < c.peerCount) && s.feature 2
  else !s.reserved (bits e 12 45 * 4096 / size * size) size

theorem leaf_last {peer known bad : Bool} {x y l : Leaf} :
    (if peer then (if known then Except.ok x else .error (4, 3)) else if bad then .error (4, 3) else .ok y : Except (Nat × Nat) Leaf) =
      .ok l ↔ (if peer then known else !bad) = true ∧ l = if peer then x else y := by
  cases peer <;> cases known <;> cases bad <;> simp [eq_comm]

/-- A leaf that the walk gives. -/
theorem leafOf_ok {s : State} {c : Context} {va level table e : Nat} {l : Leaf} :
    s.leafOf c va level table e = .ok l ↔
      (bit e 6 = true → (groupRead s.readPhys level table (bits va (12 + 9 * level) 9)).any (fun x => x.isNone) = false ∧
        badGroup level ((groupRead s.readPhys level table (bits va (12 + 9 * level) 9)).map fun x => bytesVal (x.getD [])) = false) ∧
      leafAllowed s c e (leafSize level e) = true ∧
      l = ⟨leafPlace e (va % pageSize level), bits e 2 3, leafSize level e⟩ := by
  obtain ⟨read, hread⟩ := exists_eq (a' := State.readPhys)
  obtain ⟨res, hres⟩ := exists_eq (a' := State.reserved)
  rw [State.leafOf, leafAllowed, ← hread, ← hres]
  have hg : (List.range (if level = 0 then 16 else 32)).map (fun j => read s (table + 8 * (bits va (12 + 9 * level) 9 /
      (if level = 0 then 16 else 32) * (if level = 0 then 16 else 32) + j)) 8) =
      groupRead (read s) level table (bits va (12 + 9 * level) 9) := rfl
  have hz : (if bit e 6 = true then (if level = 0 then 16 else 32) * pageSize level else pageSize level) = leafSize level e := rfl
  rw [hg, hz]
  generalize groupRead (read s) level table (bits va (12 + 9 * level) 9) = grp
  generalize leafSize level e = size
  have hleaf := leaf_last (peer := bit e 7) (known := decide (bits e 40 17 < c.peerCount) && s.feature 2)
    (bad := res s (bits e 12 45 * 4096 / size * size) size) (l := l)
    (x := ⟨.peer (bits e 40 17) (bits e 12 28 * 4096 + va % pageSize level), bits e 2 3, size⟩)
    (y := ⟨.mem (bits e 12 45 * 4096 + va % pageSize level), bits e 2 3, size⟩)
  have hplace : (⟨leafPlace e (va % pageSize level), bits e 2 3, size⟩ : Leaf) =
      if bit e 7 then ⟨.peer (bits e 40 17) (bits e 12 28 * 4096 + va % pageSize level), bits e 2 3, size⟩
      else ⟨.mem (bits e 12 45 * 4096 + va % pageSize level), bits e 2 3, size⟩ := by
    unfold leafPlace
    split <;> rfl
  rw [hplace]
  cases h6 : bit e 6 with
  | false => simpa using hleaf
  | true =>
    simp only [Bool.true_and, forall_const]
    split
    · next h => simp [h]
    · next h =>
      split
      · next hb => simp [hb]
      · next hb =>
        rw [hleaf]
        simp [h, hb]

/-! Entries that stand together. -/

/-- What the entries of a group have in common with its first. -/
structure InGroup (level first j e : Nat) : Prop where
  valid : bit e 0 = true
  good : badEntry level e = false
  low : bits e 0 12 = bits first 0 12
  frame : bits e 12 45 = bits first 12 45 + j * 512 ^ level

theorem group_entries {read : Nat → Nat → Option (List Byte)} {level table i : Nat}
    (hall : (groupRead read level table i).any (fun x => x.isNone) = false)
    (hgood : badGroup level ((groupRead read level table i).map fun x => bytesVal (x.getD [])) = false) :
    ∃ first, bits first 12 45 % (groupLen level * 512 ^ level) = 0 ∧ ∀ j < groupLen level, ∃ bs,
      read (table + 8 * (i / groupLen level * groupLen level + j)) 8 = some bs ∧ InGroup level first j (bytesVal bs) := by
  refine ⟨((groupRead read level table i).map fun x => bytesVal (x.getD [])).headD 0, ?_, fun j hj => ?_⟩
  · have h := hgood
    simp only [badGroup, Bool.or_eq_false_iff, decide_eq_false_iff_not, not_not] at h
    simpa [groupRead] using h.1
  · obtain ⟨bs, hbs⟩ : ∃ bs, read (table + 8 * (i / groupLen level * groupLen level + j)) 8 = some bs := by
      refine Option.isSome_iff_exists.mp ?_
      have := List.any_eq_false.mp hall _ (List.mem_map_of_mem (List.mem_range.mpr hj))
      simpa [Option.isSome_iff_ne_none] using this
    refine ⟨bs, hbs, ?_⟩
    have hat : ((groupRead read level table i).map fun x => bytesVal (x.getD []))[j]? = some (bytesVal bs) := by
      simp [groupRead, hj, hbs]
    generalize (groupRead read level table i).map (fun x => bytesVal (x.getD [])) = es at hat hgood
    simp only [badGroup, Bool.or_eq_false_iff] at hgood
    have hm := List.any_eq_false.mp hgood.2 _ (List.mem_of_getElem? (i := j) (by rw [getElem?_mapFrom, hat, Option.map_some]))
    simp only [id_eq, Nat.zero_add, Bool.not_eq_true, Bool.or_eq_false_iff, Bool.not_eq_false', decide_eq_false_iff_not, not_not] at hm
    obtain ⟨⟨⟨hv, hb⟩, hl⟩, hf⟩ := hm
    exact ⟨hv, hb, hl, hf⟩

section

variable {level first j e : Nat} (h : InGroup level first j e)
include h

theorem InGroup.bit_low {k : Nat} (hk : k < 12) : bit e k = bit first k := by
  have hl := h.low
  simp only [bits, pow_zero, Nat.div_one] at hl
  have hd : e / 2 ^ k % 2 = first / 2 ^ k % 2 := by interval_cases k <;> omega
  rw [bit, bit, hd]

theorem InGroup.perms : bits e 2 3 = bits first 2 3 := by
  have hl := h.low
  simp only [bits, pow_zero, Nat.div_one] at hl ⊢
  omega

variable (hj : j < groupLen level) (ha : bits first 12 45 % (groupLen level * 512 ^ level) = 0)
include hj ha

/-- The group's page. -/
theorem InGroup.base : bits e 12 45 * 4096 / (groupLen level * pageSize level) * (groupLen level * pageSize level) =
    bits first 12 45 * 4096 := by
  obtain ⟨q, hq⟩ := Nat.dvd_of_mod_eq_zero ha
  have hr : j * 512 ^ level < groupLen level * 512 ^ level := Nat.mul_lt_mul_of_pos_right hj (by positivity)
  have hs : groupLen level * pageSize level = groupLen level * 512 ^ level * 4096 := by rw [pageSize]; ring
  rw [h.frame, hq, hs]
  generalize groupLen level * 512 ^ level = n at hr
  rw [Nat.mul_div_mul_right _ _ (by omega), Nat.mul_add_div (by omega), Nat.div_eq_of_lt hr, Nat.add_zero]
  ring

variable (hlev : level < 2)
include hlev

/-- The fields of a leaf that names a peer window. -/
theorem InGroup.peer : bits e 40 17 = bits first 40 17 ∧ bits e 12 28 = bits first 12 28 + j * 512 ^ level := by
  have hf := h.frame
  obtain rfl | rfl : level = 0 ∨ level = 1 := by omega
  all_goals
    simp only [groupLen, bits] at hf hj ha ⊢
    simp at hj ha
    omega

/-- What an entry of a group says of an address is what the first says of its place in the group's page. -/
theorem InGroup.place {off : Nat} : leafPlace e off = (leafPlace first 0).add (j * pageSize level + off) := by
  obtain ⟨hp, ho⟩ := h.peer hj ha hlev
  have hs : j * pageSize level = j * 512 ^ level * 4096 := by rw [pageSize]; ring
  rw [leafPlace, leafPlace, h.bit_low (by omega)]
  split
  · rw [Place.add, hp, ho, hs, Nat.add_mul, Nat.add_zero, Nat.add_assoc]
  · rw [Place.add, h.frame, hs, Nat.add_mul, Nat.add_zero, Nat.add_assoc]

theorem InGroup.allowed (s : State) (c : Context) : leafAllowed s c e (groupLen level * pageSize level) =
    if bit first 7 then decide (bits first 40 17 < c.peerCount) && s.feature 2
    else !s.reserved (bits first 12 45 * 4096) (groupLen level * pageSize level) := by
  rw [leafAllowed, h.bit_low (by omega), (h.peer hj ha hlev).1, h.base hj ha]

end

/-- An address of a group's page has its entry in the group, as far into it as the address is into the page. -/
theorem group_index {level va x : Nat} (hlev : level < 2)
    (h : x / (groupLen level * pageSize level) = va / (groupLen level * pageSize level)) :
    bits x (12 + 9 * level) 9 / groupLen level = bits va (12 + 9 * level) 9 / groupLen level ∧
      bits x (12 + 9 * level) 9 % groupLen level * pageSize level + x % pageSize level = x % (groupLen level * pageSize level) := by
  obtain rfl | rfl : level = 0 ∨ level = 1 := by omega
  all_goals
    simp only [groupLen, pageSize, bits] at h ⊢
    simp at h ⊢
    omega

/-! Pages. -/

/-- At every address of a page the walk's entry at a level gives the page's translation. -/
def PageAt (s : State) (c : Context) (level table va e : Nat) (l : Leaf) : Prop :=
  4096 ∣ l.size ∧ l.size ∣ 2 ^ (12 + 9 * (level + 1)) ∧ ∃ place, ∀ x, x / l.size = va / l.size → ∃ e',
    EntryAt s.reserved s.readPhys level table (bits x (12 + 9 * level) 9) e' ∧ bit e' 5 = bit e 5 ∧
    s.leafOf c x level table e' = .ok ⟨Place.add place (x % l.size), l.perms, l.size⟩

section

variable {s : State} {c : Context} {va level table e : Nat} {l : Leaf}

/-- A page of one entry. -/
theorem single_page (hlev : level ≤ 2) (he : EntryAt s.reserved s.readPhys level table (bits va (12 + 9 * level) 9) e)
    (h6 : bit e 6 = false) (hl : s.leafOf c va level table e = .ok l) : PageAt s c level table va e l := by
  obtain ⟨-, hal, rfl⟩ := leafOf_ok.mp hl
  have hsize : leafSize level e = pageSize level := by simp [leafSize, h6]
  have hidx : ∀ x, x / pageSize level = va / pageSize level → bits x (12 + 9 * level) 9 = bits va (12 + 9 * level) 9 := by
    have hp : pageSize level = 2 ^ (12 + 9 * level) := by
      rw [pageSize, Nat.pow_add, Nat.pow_mul]
    intro x hx
    rw [bits, bits, ← hp, hx]
  have hplace : ∀ off, leafPlace e off = (leafPlace e 0).add off := fun off => by
    unfold leafPlace
    split <;> simp [Place.add]
  refine ⟨?_, ?_, leafPlace e 0, fun x hx => ⟨e, ?_, rfl, ?_⟩⟩
  · rw [hsize]
    exact Dvd.intro _ rfl
  · rw [hsize]
    interval_cases level <;> simp [pageSize]
  · rw [hidx x (hsize ▸ hx)]
    exact he
  · rw [leafOf_ok]
    refine ⟨fun h => absurd h (by simp [h6]), hal, ?_⟩
    rw [hplace (x % pageSize level), hsize]

/-- A page of a group of entries. -/
theorem group_page (hlev : level ≤ 2) (ht : table % 4096 = 0)
    (he : EntryAt s.reserved s.readPhys level table (bits va (12 + 9 * level) 9) e) (hleaf : bit e 5 = true)
    (h6 : bit e 6 = true) (hl : s.leafOf c va level table e = .ok l) : PageAt s c level table va e l := by
  obtain ⟨hgrp, hal, rfl⟩ := leafOf_ok.mp hl
  obtain ⟨hall, hgood⟩ := hgrp h6
  have hsize : leafSize level e = groupLen level * pageSize level := by simp [leafSize, h6]
  have hlev : level < 2 := by
    by_contra h
    obtain rfl : level = 2 := by omega
    have := he.good
    simp [badEntry, hleaf, h6] at this
  have hn : 0 < groupLen level := by unfold groupLen; split <;> omega
  obtain ⟨first, ha, hentries⟩ := group_entries hall hgood
  have hat : ∀ x, x / (groupLen level * pageSize level) = va / (groupLen level * pageSize level) → ∃ e' j, j < groupLen level ∧
      EntryAt s.reserved s.readPhys level table (bits x (12 + 9 * level) 9) e' ∧ InGroup level first j e' ∧
      j = bits x (12 + 9 * level) 9 % groupLen level := by
    intro x hx
    obtain ⟨hidx, -⟩ := group_index hlev hx
    have hj : bits x (12 + 9 * level) 9 % groupLen level < groupLen level := Nat.mod_lt _ hn
    obtain ⟨bs, hbs, hin⟩ := hentries _ hj
    rw [← hidx, Nat.mul_comm (_ / _), Nat.div_add_mod] at hbs
    refine ⟨_, _, hj, ⟨?_, ⟨bs, hbs, rfl⟩, hin.valid, hin.good⟩, hin, rfl⟩
    have hb : ∀ y, bits y (12 + 9 * level) 9 < 512 := fun y => Nat.mod_lt _ (by decide)
    rw [reserved_table s ht (hb x) (hb va)]
    exact he.inside
  obtain ⟨e0, j0, hj0, he0, hin0, -⟩ := hat va rfl
  obtain rfl : e0 = e := by
    obtain ⟨bs, hbs, rfl⟩ := he.read
    obtain ⟨bs0, hbs0, rfl⟩ := he0.read
    rw [hbs] at hbs0
    rw [Option.some.inj hbs0]
  refine ⟨?_, ?_, leafPlace first 0, fun x hx => ?_⟩
  · rw [hsize]
    exact Dvd.dvd.mul_left (Dvd.intro _ rfl) _
  · rw [hsize]
    interval_cases level <;> simp [pageSize, groupLen]
  · obtain ⟨e', j, hj, he', hin, rfl⟩ := hat x (hsize ▸ hx)
    obtain ⟨hidx, hoff⟩ := group_index hlev (hsize ▸ hx : x / (groupLen level * pageSize level) = va / (groupLen level * pageSize level))
    have hbit : ∀ k < 12, bit e' k = bit e0 k := fun k hk => (hin.bit_low hk).trans (hin0.bit_low hk).symm
    have hsize' : leafSize level e' = groupLen level * pageSize level := by simp [leafSize, hbit 6 (by omega), h6]
    refine ⟨e', he', hbit 5 (by omega), leafOf_ok.mpr ⟨fun _ => ?_, ?_, ?_⟩⟩
    · rw [groupRead, hidx]
      exact ⟨hall, hgood⟩
    · rw [hsize', hin.allowed hj ha hlev, ← hin0.allowed hj0 ha hlev, ← hsize]
      exact hal
    · rw [hsize', hsize, hin.place hj ha hlev, hoff, hin.perms, hin0.perms]

end

/-- The walk gives every address of a page its place in it. -/
theorem walk_page {s : State} {c : Context} {va k table : Nat} {l : Leaf} (ht : k ≤ 2 → table % 4096 = 0)
    (h : s.walkFrom c va k table = .ok l) : 4096 ∣ l.size ∧ l.size ∣ 2 ^ (12 + 9 * (k + 1)) ∧ ∃ place, ∀ x, x / l.size = va / l.size →
      s.walkFrom c x k table = .ok ⟨Place.add place (x % l.size), l.perms, l.size⟩ := by
  have hleaf : ∀ {level table e}, level ≤ 2 → table % 4096 = 0 →
      EntryAt s.reserved s.readPhys level table (bits va (12 + 9 * level) 9) e → bit e 5 = true →
      s.leafOf c va level table e = .ok l → PageAt s c level table va e l := by
    intro level table e hlev ht he h5 hl
    cases h6 : bit e 6 with
    | false => exact single_page hlev he h6 hl
    | true => exact group_page hlev ht he h5 h6 hl
  induction k generalizing table with
  | zero =>
    rw [walkFrom_zero] at h
    obtain ⟨e, he, hl⟩ := walkAt_ok h
    have h5 : bit e 5 = true := by
      have := he.good
      simp only [badEntry, Bool.or_eq_false_iff] at this
      simpa using this.1.1.1.1.2
    obtain ⟨hd, hs, place, hp⟩ := hleaf (by omega) (ht (by omega)) he h5 hl
    refine ⟨hd, hs, place, fun x hx => ?_⟩
    obtain ⟨e', he', -, hl'⟩ := hp x hx
    rw [walkFrom_zero, walkAt_entry he', hl']
  | succ k ih =>
    rw [walkFrom_succ] at h
    obtain ⟨e, he, hl⟩ := walkAt_ok h
    cases h5 : bit e 5 with
    | true =>
      rw [h5, if_pos rfl] at hl
      have hlev : k + 1 ≤ 2 := by
        have := he.good
        simp only [badEntry, Bool.or_eq_false_iff] at this
        have h3 := this.1.1.1.2
        rw [h5] at h3
        simp at h3
        omega
      obtain ⟨hd, hs, place, hp⟩ := hleaf hlev (ht hlev) he h5 hl
      refine ⟨hd, hs, place, fun x hx => ?_⟩
      obtain ⟨e', he', h5', hl'⟩ := hp x hx
      rw [walkFrom_succ, walkAt_entry he', h5', h5, if_pos rfl, hl']
    | false =>
      rw [h5, if_neg Bool.false_ne_true] at hl
      obtain ⟨hd, hs, place, hp⟩ := ih (fun _ => Nat.mul_mod_left _ _) hl
      refine ⟨hd, hs.trans (pow_dvd_pow 2 (by omega)), place, fun x hx => ?_⟩
      have hidx : bits x (12 + 9 * (k + 1)) 9 = bits va (12 + 9 * (k + 1)) 9 := by
        obtain ⟨n, hn⟩ := hs
        rw [bits, bits, hn, ← Nat.div_div_eq_div_mul, ← Nat.div_div_eq_div_mul, hx]
      rw [walkFrom_succ, walkAt_entry (hidx ▸ he), h5, if_neg Bool.false_ne_true, hp x hx]

theorem walkPage_page {s : State} {c : Context} {va : Nat} {l : Leaf} (h : s.walkPage c va = .ok l) : 4096 ∣ l.size ∧ 0 < l.size ∧
    ∃ place, ∀ x, x / l.size = va / l.size → s.walkPage c x = .ok ⟨Place.add place (x / 4096 * 4096 % l.size), l.perms, l.size⟩ := by
  obtain ⟨⟨n, hn⟩, hs, place, hp⟩ := walk_page (by omega) h
  have hround : ∀ x, x / 4096 * 4096 / l.size = x / l.size := fun x => by
    rw [hn, ← Nat.div_div_eq_div_mul, Nat.mul_div_cancel _ (by decide), ← Nat.div_div_eq_div_mul]
  refine ⟨⟨n, hn⟩, Nat.pos_of_dvd_of_pos hs (by positivity), place, fun x hx => ?_⟩
  exact hp _ (by rw [hround, hround, hx])

theorem Place.add_add (p : Place) (m n : Nat) : Place.add (Place.add p m) n = Place.add p (m + n) := by
  cases p <;> simp [Place.add, Nat.add_assoc]

/-! Noting a translation. -/

/-- The translation that is noted of a page. -/
def noted (c : Context) (va : Nat) (l b : Leaf) : TlbEntry :=
  ⟨c.num, va / l.size * l.size / 4096, l.size / 4096, b.place, b.perms⟩

theorem noteTlb_cases (s : State) (c : Context) (va : Nat) : s.noteTlb c va = s ∨ ∃ l b, s.walkPage c va = .ok l ∧
    s.walkPage c (va / l.size * l.size) = .ok b ∧ s.noteTlb c va = s.updSto fun m => { m with tlb := m.tlb ++ [noted c va l b] } := by
  obtain ⟨walk, hw⟩ := exists_eq (a' := State.walkPage)
  rw [State.noteTlb, ← hw]
  cases hl : walk s c va with
  | error e => exact .inl rfl
  | ok l =>
    dsimp only
    split
    · exact .inl rfl
    · cases hb : walk s c (va / l.size * l.size) with
      | error e => exact .inl rfl
      | ok b => exact .inr ⟨l, b, rfl, hb, rfl⟩

/-- What is noted of a page gives its addresses what the walk gives them. -/
theorem noted_same {s : State} {c : Context} {va x : Nat} {l b : Leaf} (hl : s.walkPage c va = .ok l)
    (hb : s.walkPage c (va / l.size * l.size) = .ok b) (hx : (noted c va l b).covers c.num (x / 4096) = true) :
    ∃ now, s.walkPage c x = .ok now ∧
      (⟨(noted c va l b).place.add ((x / 4096 - (noted c va l b).page) * 4096), (noted c va l b).perms,
        (noted c va l b).pages * 4096⟩ : Leaf).same now = true := by
  obtain ⟨⟨n, hn⟩, hpos, place, hp⟩ := walkPage_page hl
  have hbase : va / l.size * l.size / 4096 = va / l.size * n := by
    rw [hn, show va / (4096 * n) * (4096 * n) = va / (4096 * n) * n * 4096 by ring, Nat.mul_div_cancel _ (by decide)]
  have hn0 : 0 < n := by
    rcases Nat.eq_zero_or_pos n with rfl | h
    · omega
    · exact h
  have hpages : l.size / 4096 = n := by rw [hn, Nat.mul_div_cancel_left _ (by decide)]
  simp only [TlbEntry.covers, noted, hbase, hpages, Bool.and_eq_true, decide_eq_true_eq] at hx
  obtain ⟨⟨-, h1⟩, h2⟩ := hx
  have hq : x / 4096 / n = va / l.size := by
    refine Nat.div_eq_of_lt_le h1 ?_
    rw [Nat.add_mul, Nat.one_mul]
    exact h2
  have hin : x / l.size = va / l.size := by
    rw [← hq, Nat.div_div_eq_div_mul, ← hn]
  have hzero := hp (va / l.size * l.size) (Nat.mul_div_cancel _ hpos)
  rw [hb] at hzero
  obtain rfl := Except.ok.inj hzero
  refine ⟨_, hp x hin, ?_⟩
  have h0 : va / l.size * n * 4096 % l.size = 0 := by
    rw [Nat.mul_assoc, Nat.mul_comm n, ← hn, Nat.mul_mod_left]
  have hoff : x / 4096 * 4096 % l.size = (x / 4096 - va / l.size * n) * 4096 := by
    have hm : x / 4096 * 4096 % l.size = 4096 * (x / 4096 % n) := by rw [hn, Nat.mul_comm (x / 4096), Nat.mul_mod_mul_left]
    have := Nat.div_add_mod (x / 4096) n
    rw [hq, Nat.mul_comm n] at this
    rw [hm]
    omega
  simp [Leaf.same, noted, hbase, h0, hoff, Place.add_add]

/-- Noting a translation changes no translation of its context. -/
theorem noteTlb_xlate (s : State) (c : Context) (va x need : Nat) : (s.noteTlb c va).xlate c x need = s.xlate c x need := by
  obtain h | ⟨l, b, hl, hb, h⟩ := noteTlb_cases s c va
  · rw [h]
  · rw [h]
    have hbytes : SameBytes s (s.updSto fun m => { m with tlb := m.tlb ++ [noted c va l b] }) := ⟨rfl, rfl, rfl, rfl, rfl, rfl, rfl⟩
    have hheld : (s.updSto fun m => { m with tlb := m.tlb ++ [noted c va l b] }).pageHeld c x = s.pageHeld c x ++
        (([noted c va l b].filter fun e => e.covers c.num (x / 4096)).map fun e =>
          ⟨e.place.add ((x / 4096 - e.page) * 4096), e.perms, e.pages * 4096⟩) := by
      simp only [State.pageHeld, State.updSto, List.filter_append, List.map_append]
    have hc : (s.updSto fun m => { m with tlb := m.tlb ++ [noted c va l b] }).pageChoices c x = s.pageChoices c x := by
      simp only [State.pageChoices, hbytes.walkPage, hheld]
      cases hx : (noted c va l b).covers c.num (x / 4096) with
      | false => simp [hx]
      | true =>
        obtain ⟨now, hnow, hsame⟩ := noted_same hl hb hx
        simp [hx, hnow, hsame]
    simp only [State.xlate, hc, hbytes.pick]

theorem noteTlbs_xlate (s : State) (c : Context) (vas : List Nat) (x need : Nat) :
    (s.noteTlbs c vas).xlate c x need = s.xlate c x need := by
  have hall : ∀ (l : List Nat) (s : State), (l.foldl (fun s a => s.noteTlb c a) s).xlate c x need = s.xlate c x need := by
    intro l
    induction l with
    | nil => exact fun _ => rfl
    | cons a r ih => exact fun s => (ih _).trans (noteTlb_xlate s c a x need)
  exact hall _ s

/-- Noting translations changes the translations that are held only. -/
theorem noteTlbs_eq (s : State) (c : Context) (vas : List Nat) : ∃ tl, s.noteTlbs c vas = s.updSto fun y => { y with tlb := tl } := by
  have hall : ∀ (l : List Nat) (s : State), ∃ tl, l.foldl (fun s a => s.noteTlb c a) s = s.updSto fun y => { y with tlb := tl } := by
    intro l
    induction l with
    | nil => exact fun s => ⟨s.sto.tlb, rfl⟩
    | cons a r ih =>
      intro s
      obtain ⟨tl, h⟩ := ih (s.noteTlb c a)
      rw [List.foldl_cons, h]
      obtain h1 | ⟨l, b, -, -, h1⟩ := noteTlb_cases s c a
      all_goals
        rw [h1]
        exact ⟨tl, rfl⟩
  exact hall _ s

end Sys2Proof.Proofs
end

section
/-! PROOFS. Blocks of registers that are saved and loaded (R413, R414). -/

namespace Sys2Proof.Proofs

open Sys2Proof.Machine Sys2Proof.Safety Sys2Proof.Laws

/-! Numbers as bytes. -/

@[simp] theorem valBytes_length (n x : Nat) : (valBytes n x).length = n := by
  induction n generalizing x with
  | zero => rfl
  | succ n ih => simp [valBytes, ih]

theorem bytesVal_valBytes (n x : Nat) : bytesVal (valBytes n x) = x % 256 ^ n := by
  induction n generalizing x with
  | zero => simp [valBytes, bytesVal, Nat.mod_one]
  | succ n ih =>
    have h8 : (BitVec.ofNat 8 x).toNat = x % 256 := BitVec.toNat_ofNat ..
    rw [valBytes, bytesVal, ih, h8, Nat.pow_succ', Nat.mod_mul]

@[simp] theorem wordBytes_length (ws : List Word) : (wordBytes ws).length = 4 * ws.length := by
  induction ws with
  | nil => rfl
  | cons w ws ih =>
    have h : wordBytes (w :: ws) = valBytes 4 w.toNat ++ wordBytes ws := rfl
    rw [h, List.length_append, ih, valBytes_length, List.length_cons]
    omega

/-- The bytes of a word stand where its place says. -/
theorem sliceVal_wordBytes {ws : List Word} {i : Nat} {w : Word} (h : ws[i]? = some w) (tail : List Byte) :
    sliceVal (wordBytes ws ++ tail) (4 * i) 4 = w.toNat := by
  induction ws generalizing i with
  | nil => simp at h
  | cons x ws ih =>
    have hx : wordBytes (x :: ws) ++ tail = valBytes 4 x.toNat ++ (wordBytes ws ++ tail) := by
      rw [← List.append_assoc]
      rfl
    rw [hx]
    cases i with
    | zero =>
      obtain rfl : x = w := by simpa using h
      rw [sliceVal, Nat.mul_zero, List.drop_zero, List.take_append_of_le_length (by simp), List.take_of_length_le (by simp),
        bytesVal_valBytes, Nat.mod_eq_of_lt (by have := x.isLt; omega)]
    | succ i =>
      have hd : (valBytes 4 x.toNat ++ (wordBytes ws ++ tail)).drop (4 * (i + 1)) = (wordBytes ws ++ tail).drop (4 * i) := by
        rw [List.drop_append, valBytes_length, List.drop_eq_nil_of_le (by simp +arith), List.nil_append]
        congr 1
      rw [sliceVal, hd]
      exact ih (by simpa using h)

/-! The states of registers in an image. -/

theorem stateCode_lt (r : Reg) : r.stateCode < 4 := by
  cases r <;> simp [Reg.stateCode]

theorem stateBits_lt (rs : List Reg) : stateBits rs < 4 ^ rs.length := by
  induction rs with
  | nil => exact Nat.one_pos
  | cons r rs ih =>
    have h : stateBits (r :: rs) = r.stateCode + 4 * stateBits rs := rfl
    have := stateCode_lt r
    rw [h, List.length_cons, pow_succ]
    omega

theorem bits_stateBits {rs : List Reg} {k : Nat} {r : Reg} (h : rs[k]? = some r) : bits (stateBits rs) (2 * k) 2 = r.stateCode := by
  induction rs generalizing k with
  | nil => simp at h
  | cons x rs ih =>
    have hx : stateBits (x :: rs) = x.stateCode + 4 * stateBits rs := rfl
    have := stateCode_lt x
    cases k with
    | zero =>
      obtain rfl : x = r := by simpa using h
      rw [hx, bits]
      omega
    | succ k =>
      rw [← ih (k := k) (by simpa using h), hx, bits, bits, Nat.mul_succ, Nat.pow_add, Nat.mul_comm (2 ^ (2 * k)), ← Nat.div_div_eq_div_mul]
      congr 2
      omega

/-! A block of registers. -/

/-- The registers of a block. -/
def blockRegs (x : Thread) (blk : Nat) : List Reg := (List.range 32).map fun i => (x.v[32 * blk + i]?).getD (.full 0)

theorem regBlock_eq (x : Thread) (blk : Nat) :
    x.regBlock blk = wordBytes ((blockRegs x blk).map Reg.word) ++ valBytes 8 (stateBits (blockRegs x blk)) := rfl

@[simp] theorem blockRegs_length (x : Thread) (blk : Nat) : (blockRegs x blk).length = 32 := by simp [blockRegs]

theorem blockRegs_at {x : Thread} {blk i : Nat} {r : Reg} (hi : i < 32) (h : x.v[32 * blk + i]? = some r) :
    (blockRegs x blk)[i]? = some r := by
  simp [blockRegs, hi, h]

@[simp] theorem regBlock_length (x : Thread) (blk : Nat) : (x.regBlock blk).length = 136 := by
  simp [regBlock_eq]

theorem regBlock_states (x : Thread) (blk : Nat) : sliceVal (x.regBlock blk) 128 8 = stateBits (blockRegs x blk) := by
  have hlt := stateBits_lt (blockRegs x blk)
  rw [blockRegs_length] at hlt
  have hd : (x.regBlock blk).drop 128 = valBytes 8 (stateBits (blockRegs x blk)) := by
    rw [regBlock_eq, List.drop_append_of_le_length (by simp), List.drop_eq_nil_of_le (by simp), List.nil_append]
  rw [sliceVal, hd, List.take_of_length_le (by simp), bytesVal_valBytes]
  omega

theorem regBlock_word {x : Thread} {blk i : Nat} {r : Reg} (hi : i < 32) (h : x.v[32 * blk + i]? = some r) :
    sliceVal ((x.regBlock blk).take 128) (4 * i) 4 = r.word.toNat := by
  have ht : (x.regBlock blk).take 128 = wordBytes ((blockRegs x blk).map Reg.word) ++ [] := by
    rw [regBlock_eq, List.take_append_of_le_length (by simp), List.take_of_length_le (by simp), List.append_nil]
  rw [ht]
  exact sliceVal_wordBytes (by rw [List.getElem?_map, blockRegs_at hi h]; rfl) []

/-- A register as it is loaded. -/
theorem loadRegs_at (rs : List Reg) (lo : Nat) (bs : List Byte) (states : Nat) (fail : Nat → Failure) (i : Nat) :
    (loadRegs rs lo bs states fail)[i]? = (rs[i]?).map fun r =>
      if lo ≤ i ∧ i < lo + bs.length / 4 then
        if bits states (2 * (i - lo)) 2 = 2 then .failed (fail i) else .full (BitVec.ofNat 32 (sliceVal bs (4 * (i - lo)) 4))
      else r := by
  rw [loadRegs, getElem?_mapFrom, Nat.zero_add]

/-- A block of registers comes back from its own bytes. -/
theorem loadRegs_regBlock (x y : Thread) (blk : Nat) (f : Nat → Failure) {i : Nat} (hi : i < y.v.length) :
    (i < 32 * blk ∨ 32 * blk + 32 ≤ i →
      (loadRegs y.v (32 * blk) ((x.regBlock blk).take 128) (sliceVal (x.regBlock blk) 128 8) f)[i]? = y.v[i]?) ∧
    (32 * blk ≤ i → i < 32 * blk + 32 → ∀ r, x.v[i]? = some r →
      (loadRegs y.v (32 * blk) ((x.regBlock blk).take 128) (sliceVal (x.regBlock blk) 128 8) f)[i]? =
        some (if r.stateCode = 2 then .failed (f i) else .full r.word)) := by
  have hlen : ((x.regBlock blk).take 128).length / 4 = 32 := by simp
  obtain ⟨r0, hr0⟩ : ∃ r, y.v[i]? = some r := ⟨_, List.getElem?_eq_getElem hi⟩
  rw [loadRegs_at, hlen, hr0, Option.map_some]
  refine ⟨fun hout => by rw [if_neg (by omega)], fun h1 h2 r hr => ?_⟩
  obtain ⟨k, rfl⟩ : ∃ k, i = 32 * blk + k := ⟨i - 32 * blk, by omega⟩
  rw [if_pos ⟨h1, h2⟩, Nat.add_sub_cancel_left, regBlock_states, bits_stateBits (blockRegs_at (by omega) hr),
    regBlock_word (by omega) hr, BitVec.ofNat_toNat, BitVec.setWidth_eq]

/-! The words. -/

theorem exec_svrf (blk : Nat) (a b : Opnd) (g : Nat) (s : State) : exec (.svrf blk a b g) s = execSvrf blk a b g s := rfl

theorem exec_ldrf (blk : Nat) (a b : Opnd) (g : Nat) (s : State) : exec (.ldrf blk a b g) s = execLdrf blk a b g s := rfl

theorem dropWords_thr (s : State) (l : List (Nat × Nat)) (k : Nat) : (l.foldl (fun r p => r.dropWords p.2) s).thr k = s.thr k := by
  induction l generalizing s with
  | nil => rfl
  | cons p r ih => exact ih _

theorem loadBlock_unit (s : State) (blk : Nat) (p : Nat × Nat) (b : Nat) (bs : List Byte) : (s.loadBlock blk p b bs).unit = s.unit := by
  unfold State.loadBlock
  split
  · rfl
  · rfl
  · exact (foldl_calm (.refl s) fun _ _ h => endJob_calm h : Calm s ((s.fly.jobs.filter _).foldl (fun s j => s.endJob j none) s)).unit
  · rfl
  · rfl

section

variable {s : State} {a b : Opnd} {blk g : Nat} {p : Nat × Nat} {bs : List Byte}

/-- LDRF of an image that can be read loads its block. -/
theorem ldrf_loads (hp : s.parts g = [p]) (hv : s.privileged p.2 = true) (hi : Issues s g [srcUse a 2 0, srcUse b 1 0])
    (hun : s.unperformed p.2 = false) (htrap : s.imageReadTrap p.2 (s.src64 p a) (blockBytes blk) 64 = none)
    (hpend : s.imagePending (s.src64 p a).toNat (blockBytes blk) = false)
    (hneed : ∀ x ∈ s.imageNeeds p.2 (s.src64 p a).toNat (blockBytes blk) 64, (s.peerAnswer x.1).isSome = true)
    (hbs : s.getImage p.2 (s.src64 p a).toNat (blockBytes blk) = .ok bs) :
    ∃ t T, exec (.ldrf blk a b g) s = .next t ∧ Sent (s.loadBlock blk p (s.src p b).toNat bs) T ∧
      ∀ k, t.thr k = (goesOn s T g 2 State.advance).thr k := by
  have hsent : Sent (s.loadBlock blk p (s.src p b).toNat bs) (((s.loadBlock blk p (s.src p b).toNat bs).imageUsed (s.src64 p a).toNat
      (blockBytes blk)).chargeLines s.unitCtx.num s.unit.core (s.imageMoved p.2 (s.src64 p a).toNat (blockBytes blk) 1)) :=
    (imageUsed_sent ..).trans (chargeLines_sent ..)
  obtain ⟨get, hget⟩ := exists_eq (a' := State.getImage)
  rw [exec_ldrf, execLdrf]
  rw [← hget] at hbs ⊢
  refine ⟨_, _, run_after (t := ((s.loadBlock blk p (s.src p b).toNat bs).imageUsed (s.src64 p a).toNat
    (blockBytes blk)).chargeLines s.unitCtx.num s.unit.core (s.imageMoved p.2 (s.src64 p a).toNat (blockBytes blk) 1)) hi (by rw [hp]; simpa using hv) ?_ rfl ?_ ?_ ?_ ?_ rfl, hsent, fun k => ?_⟩
  · rw [hp]
    simp [hun, hpend]
  · rw [hp]
    simpa using htrap
  · rw [hp]
    simpa using hneed
  · rw [hp]
    simp only [List.foldl_cons, List.foldl_nil, hbs]
  · rw [hsent.unit, loadBlock_unit]
    exact hi.lanes
  · rw [dropWords_thr]

/-- The registers that LDRF of a block of them brings back. -/
theorem ldrf_registers {T : State} (hk : p.2 < s.threads.length) (hb : blk < 3)
    (hT : Sent (s.loadBlock blk p (s.src p b).toNat bs) T) (hlen : bs.length = 136) {i : Nat} (hi : i < 32)
    (hv : 32 * blk + i < (s.thr p.2).v.length) (hfull : bits (sliceVal bs 128 8) (2 * i) 2 = 0) (c : Nat) :
    ((goesOn s T g c State.advance).thr p.2).reg (32 * blk + i) = .full (BitVec.ofNat 32 (sliceVal bs (4 * i) 4)) := by
  have hthr : T.thr p.2 = { s.thr p.2 with
      v := loadRegs (s.thr p.2).v (32 * blk) (bs.take 128) (sliceVal bs 128 8) fun i =>
        (look (s.thr p.2).failures i).getD (s.freeFailure i) } := by
    rw [hT.thr]
    obtain rfl | rfl | rfl : blk = 0 ∨ blk = 1 ∨ blk = 2 := by omega
    all_goals exact thr_updThr_self hk _
  have hslice : sliceVal (bs.take 128) (4 * i) 4 = sliceVal bs (4 * i) 4 := by
    rw [sliceVal, sliceVal, List.drop_take, List.take_take]
    congr 2
    omega
  have hreg : (goesOn s T g c State.advance |>.thr p.2).v = (T.thr p.2).v := goesOn_steady (part := Thread.v) (fun _ _ _ _ _ => rfl) s T g c p.2
  rw [Thread.reg, hreg, hthr, loadRegs_at, List.getElem?_eq_getElem hv, List.length_take, hlen, Option.map_some, Option.getD_some,
    if_pos ⟨by omega, by omega⟩, Nat.add_sub_cancel_left, hfull, if_neg (by omega), hslice]

/-- What LDRF of the control block brings back of a thread. -/
theorem ldrf_control {T : State} (hk : p.2 < s.threads.length) (hT : Sent (s.loadBlock 3 p (s.src p b).toNat bs) T)
    (hr : s.unit.rep = none) (c : Nat) :
    let x := (goesOn s T g c State.advance).thr p.2
    x.resume = BitVec.ofNat 64 (sliceVal bs 0 8) &&& 0x1FFFFFFFFFFFFFFF ∧ x.mode = BitVec.ofNat 32 (sliceVal bs 12 4) &&& 0x3FF ∧
      x.repcount = sliceVal bs 16 4 ∧ x.bsync = BitVec.ofNat 32 (sliceVal bs 20 4) &&& 0x800FFFFF := by
  have hrep : T.unit.rep = none := by
    rw [hT.unit, loadBlock_unit]
    exact hr
  have hself : (s.loadCtl p.2 bs).thr p.2 = _ := thr_updThr_self hk _
  have hthr : T.thr p.2 = (s.loadCtl p.2 bs).thr p.2 := hT.thr p.2
  have hpart := goesOn_thr_part (part := fun x : Thread => (x.resume, x.mode, x.repcount, x.bsync)) s g c (fun _ _ => rfl) hrep p.2
  rw [hthr, hself] at hpart
  simp only [Prod.mk.injEq] at hpart
  exact hpart

/-- What saving a block does beyond its bytes: errors past sixteen are recorded, and a group's tails are kept. -/
structure Filed (s t : State) : Prop where
  unit : t.unit = s.unit
  ops : t.fly.ops = s.fly.ops
  length : t.threads.length = s.threads.length
  st : ∀ k, (t.thr k).st = (s.thr k).st
  v : ∀ k, (t.thr k).v = (s.thr k).v

theorem Posted.filed {s t : State} (h : Posted s t) (k n : Nat) (held : List HeldError) :
    Filed s (t.updThr k fun x => { x with held := held, saved := n }) where
  unit := h.unit
  ops := h.ops
  length := (length_upd ..).trans (congrArg List.length h.threads)
  st j := (thr_updThr_part (part := Thread.st) (f := fun x => { x with held := held, saved := n }) (fun _ => rfl) t k j).trans
    (by simp only [State.thr, h.threads])
  v j := (thr_updThr_part (part := Thread.v) (f := fun x => { x with held := held, saved := n }) (fun _ => rfl) t k j).trans
    (by simp only [State.thr, h.threads])

theorem savedBlock_filed (s : State) (blk : Nat) (p : Nat × Nat) (id : Nat) : Filed s (s.savedBlock blk p id) := by
  unfold State.savedBlock
  split
  · exact (Posted.foldl (fun s h => lostError_posted s p.2 h) _ s).filed ..
  · exact ⟨rfl, rfl, rfl, fun _ => rfl, fun _ => rfl⟩
  · exact ⟨rfl, rfl, rfl, fun _ => rfl, fun _ => rfl⟩

/-- The state that SVRF's bytes leave. -/
def imaged (s : State) (a b : Opnd) (blk : Nat) (p : Nat × Nat) : State × List (Nat × Nat) :=
  s.takeId.putImage (s.src64 p a).toNat (s.blockImage blk p (s.src p b).toNat s.nextId)

/-- What SVRF does for its participant. -/
def svrfDone (s : State) (a b : Opnd) (blk : Nat) (p : Nat × Nat) : State :=
  (((imaged s a b blk p).1.savedBlock blk p s.nextId).updThr p.2 fun x => x.incCtr .st s.nextId).finishParts s.nextId p.2 s.pc .st none
    (imaged s a b blk p).2 (dedup ((s.imageLines (s.src64 p a).toNat (blockBytes blk) 2).map fun x => x.2 / 128))
    (s.imageMoved p.2 (s.src64 p a).toNat (blockBytes blk) 2) none

theorem imaged_sent (s : State) (a b : Opnd) (blk : Nat) (p : Nat × Nat) : Sent s (imaged s a b blk p).1 :=
  (takeId_sent s).trans (putImage_sent ..)

theorem svrfDone_unit (s : State) (a b : Opnd) (blk : Nat) (p : Nat × Nat) : (svrfDone s a b blk p).unit = s.unit :=
  (savedBlock_filed _ blk p s.nextId).unit.trans (imaged_sent s a b blk p).unit

/-- SVRF saves its block. -/
theorem svrf_saves (hp : s.parts g = [p]) (hv : s.privileged p.2 = true) (hi : Issues s g [srcUse a 2 0, srcUse b 1 0])
    (hw : s.blockWaits blk p (s.src p b).toNat = false) (hst : (s.thr p.2).st < 63)
    (himg : s.imageTrap (s.src64 p a) (blockBytes blk) 2 64 = none) :
    exec (.svrf blk a b g) s = .next (goesOn s (svrfDone s a b blk p) g 2 State.advance) := by
  rw [exec_svrf, execSvrf, State.runPriv, withPriv_privileged fun q hq => by
    obtain rfl := List.mem_singleton.mp (hp ▸ hq)
    exact hv]
  refine run_effect hi ?_ (fun _ => ?_) ?_ ?_ (svrfDone_unit s a b blk p ▸ hi.lanes) rfl
  · rw [hp]
    simp [hw]
  · rw [hp]
    simp only [State.ctrFull, List.any_cons, List.any_nil, Thread.ctr, Bool.or_false]
    exact decide_eq_false (by omega)
  · rw [hp]
    simpa using himg
  · rw [hp]
    rfl

section

variable (s a b blk g p)

theorem svrf_counts (hk : p.2 < s.threads.length) :
    ((goesOn s (svrfDone s a b blk p) g 2 State.advance).thr p.2).st = (s.thr p.2).st + 1 := by
  have hf := savedBlock_filed (imaged s a b blk p).1 blk p s.nextId
  have hs := imaged_sent s a b blk p
  have hthr : (svrfDone s a b blk p).thr p.2 = (((imaged s a b blk p).1.savedBlock blk p s.nextId).thr p.2).incCtr .st s.nextId :=
    thr_updThr_self (s := (imaged s a b blk p).1.savedBlock blk p s.nextId) (by rw [hf.length, hs.threads]; exact hk) _
  rw [goesOn_steady (part := Thread.st) (fun _ _ _ _ _ => rfl), hthr]
  exact congrArg (· + 1) ((hf.st p.2).trans (congrArg Thread.st (hs.thr p.2)))

theorem svrf_registers : ((goesOn s (svrfDone s a b blk p) g 2 State.advance).thr p.2).v = (s.thr p.2).v := by
  have hf := savedBlock_filed (imaged s a b blk p).1 blk p s.nextId
  have hs := imaged_sent s a b blk p
  have hthr := thr_updThr_part (part := Thread.v) (f := fun x => x.incCtr .st s.nextId) (fun _ => rfl)
    ((imaged s a b blk p).1.savedBlock blk p s.nextId) p.2 p.2
  rw [goesOn_steady (part := Thread.v) (fun _ _ _ _ _ => rfl)]
  exact hthr.trans ((hf.v p.2).trans (congrArg Thread.v (hs.thr p.2)))

/-- The store is under way. -/
theorem svrf_under_way (hid : ∀ o ∈ s.fly.ops, o.id ≠ s.nextId) :
    ∃ o ∈ (goesOn s (svrfDone s a b blk p) g 2 State.advance).fly.ops, o.thread = p.2 ∧ ∃ rs, o.kind = .parts rs none .st none := by
  have hops : (((imaged s a b blk p).1.savedBlock blk p s.nextId).updThr p.2 fun x => x.incCtr .st s.nextId).fly.ops = s.fly.ops :=
    (savedBlock_filed _ blk p s.nextId).ops.trans (imaged_sent s a b blk p).ops
  have hnew : (s.fly.ops.any fun o => o.id == s.nextId) = false := by simpa using hid
  rw [(goesOn_onward ..).ops]
  simp only [svrfDone, State.finishParts, State.updFly, hops, hnew, Bool.false_eq_true, if_false]
  exact ⟨_, List.mem_append_right _ (List.mem_singleton_self _), rfl, _, rfl⟩

end

end

/-! The image in memory. -/

/-- A write of device memory changes no debug descriptor. -/
theorem dumpCopies_debug (fuel : Nat) (s : State) (g k : Nat) : ((s.dumpCopies fuel g).ctx k).debug = (s.ctx k).debug := by
  have hfold : ∀ {α : Type} {f : State → α → State}, (∀ s x, ((f s x).ctx k).debug = (s.ctx k).debug) → ∀ (l : List α) (s : State),
      ((l.foldl f s).ctx k).debug = (s.ctx k).debug := by
    intro α f hf l
    induction l with
    | nil => exact fun _ => rfl
    | cons x r ih => exact fun s => (ih _).trans (hf s x)
  have hsto : ∀ (x : State) (f : Storage → Storage), ((x.updSto f).ctx k).debug = (x.ctx k).debug := fun _ _ => rfl
  induction fuel generalizing s g with
  | zero => rfl
  | succ n ih =>
    unfold State.dumpCopies
    refine hfold (fun s c => ?_) s.ctxs s
    split
    · rfl
    · next d _ =>
      split
      · have hone := ctx_updCtx_part (part := Context.debug) (f := fun x => { x with dump := some (d.without g) }) (fun _ => rfl)
          (fun _ => rfl) s c.num k
        dsimp only
        refine (hsto _ _).trans ((hfold ih _ _).trans ?_)
        exact hone
      · rfl

theorem writePhys_debug (s : State) (pa : Nat) (bs : List Byte) (k : Nat) : ((s.writePhys pa bs).ctx k).debug = (s.ctx k).debug := by
  have hdump : ∀ (l : List Nat) (s : State), ((l.foldl State.dumpCopy s).ctx k).debug = (s.ctx k).debug := by
    intro l
    induction l with
    | nil => exact fun _ => rfl
    | cons g r ih => exact fun s => (ih _).trans (dumpCopies_debug ..)
  have hnum : ∀ (l : List Nat) (s : State), ((l.foldl State.number s).ctx k) = s.ctx k := by
    intro l
    induction l with
    | nil => exact fun _ => rfl
    | cons g r ih =>
      intro s
      have h1 : (s.number g).ctx k = s.ctx k := by
        unfold State.number
        split <;> rfl
      exact (ih _).trans h1
  unfold State.writePhys
  split
  · rfl
  · rw [hnum]
    exact hdump _ s

/-- Bytes read back as they were written. -/
theorem readCells_writeCells {l : List Host.Cell} (h : cellsWf l = true) (a : Nat) (bs : List Byte) :
    readCells (writeCells l a bs) a bs.length = bs := by
  refine List.ext_getElem (by simp [readCells]) fun i h1 h2 => ?_
  simp [readCells, cellGet_writeCells_same h a bs h2]

theorem readCells_writePhys {s : State} (h : MemoryInv s) {pa : Nat} {bs : List Byte} (hc : pa + bs.length ≤ s.capacity) :
    readCells (s.writePhys pa bs).sto.mem pa bs.length = bs := by
  have hdump : Memory.wf (((blocksOf 65536 pa bs.length).foldl State.dumpCopy s).sto) = true := foldl_wf h fun _ _ h => dumpCopy_wf h _
  have hnum : ∀ (l : List Nat) (s : State), (l.foldl State.number s).sto = s.sto := by
    intro l
    induction l with
    | nil => exact fun _ => rfl
    | cons g r ih => exact fun s => (ih _).trans (number_sto ..)
  unfold State.writePhys
  rw [if_neg (by omega), hnum]
  exact readCells_writeCells (wf_parts hdump).1 pa bs

/-- Noting the lines that a team writes changes the shadow records only. -/
theorem shadowWrites_eq (s : State) (l : List (Nat × Nat)) :
    ∃ sh, l.foldl (fun s x => s.shadowWrite s.unitTeam x.1 x.2) s = s.updSto fun y => { y with shadow := sh } := by
  induction l generalizing s with
  | nil => exact ⟨s.sto.shadow, rfl⟩
  | cons x r ih =>
    obtain ⟨sh, h⟩ : ∃ sh, s.shadowWrite s.unitTeam x.1 x.2 = s.updSto fun y => { y with shadow := sh } := by
      unfold State.shadowWrite
      dsimp only
      split
      exacts [⟨_, rfl⟩, ⟨s.sto.shadow, rfl⟩]
    obtain ⟨sh', h'⟩ := ih (s.shadowWrite s.unitTeam x.1 x.2)
    rw [List.foldl_cons, h', h]
    exact ⟨sh', rfl⟩

/-- A range within a page of device memory is one span. -/
theorem spans_page {s : State} {c : Context} {va len need pa : Nat} (hlen : 0 < len) (hp : va % 4096 + len ≤ 4096)
    (hx : s.xlate c va need = .ok (.mem pa)) : s.spans c va len need = [(va, len, .mem pa)] := by
  have hstart : blockStarts 4096 va len = [va] := by
    have h1 : (va % 4096 + len + 4096 - 1) / 4096 = 1 := by omega
    simp only [blockStarts, h1]
    rfl
  have hn : min (va + len) ((va / 4096 + 1) * 4096) - va = len := by omega
  simp only [State.spans, hstart, List.flatMap_cons, List.flatMap_nil, hx, hn, List.append_nil]

/-- An image that stands within a page is written there. -/
theorem putImage_page {s : State} {va pa : Nat} {bs : List Byte} (hlen : 0 < bs.length) (hp : va % 4096 + bs.length ≤ 4096)
    (hx : s.xlate s.unitCtx va 2 = .ok (.mem pa)) : ∃ t, (s.putImage va bs).1 = t.writePhys pa bs ∧ Sent s t ∧
      t.sto.mem = s.sto.mem ∧ t.sto.spad = s.sto.spad ∧ t.sto.ws = s.sto.ws ∧ t.fw = s.fw ∧ t.ctxs = s.ctxs := by
  obtain ⟨sh, hsh⟩ := shadowWrites_eq s (s.imageLines va bs.length 2)
  have hview : SameBytes s (s.updSto fun y => { y with shadow := sh }) := ⟨rfl, rfl, rfl, rfl, rfl, rfl, rfl⟩
  have hx' : (((s.updSto fun y => { y with shadow := sh }).imageUsed va bs.length)).xlate s.unitCtx va 2 = .ok (.mem pa) := by
    have h1 := noteTlbs_xlate (s.updSto fun y => { y with shadow := sh }) s.unitCtx (blockStarts 4096 va bs.length) va 2
    exact h1.trans ((hview.xlate rfl ..).trans hx)
  obtain ⟨tl, htl⟩ := noteTlbs_eq (s.updSto fun y => { y with shadow := sh }) s.unitCtx (blockStarts 4096 va bs.length)
  refine ⟨(s.updSto fun y => { y with shadow := sh }).imageUsed va bs.length, ?_, ?_, ?_⟩
  · rw [State.putImage, hsh]
    rw [State.putRange, spans_page hlen hp hx']
    simp [State.writeRuns, State.writeAt]
  · exact Sent.trans (t := s.updSto fun y => { y with shadow := sh }) (Sent.refl s) (imageUsed_sent ..)
  · have h : (s.updSto fun y => { y with shadow := sh }).imageUsed va bs.length =
        (s.updSto fun y => { y with shadow := sh }).updSto fun y => { y with tlb := tl } := htl
    rw [h]
    exact ⟨rfl, rfl, rfl, rfl, rfl⟩

theorem blockImage_registers (s : State) {blk : Nat} (hb : blk < 3) (p : Nat × Nat) (b id : Nat) :
    s.blockImage blk p b id = (s.thr p.2).regBlock blk := by
  obtain rfl | rfl | rfl : blk = 0 ∨ blk = 1 ∨ blk = 2 := by omega
  all_goals rfl

/-- Saving registers changes, besides their image, the thread's counter and the operations. -/
theorem svrfDone_keeps (s : State) (a b : Opnd) {blk : Nat} (hb : blk < 3) (p : Nat × Nat) :
    let t := svrfDone s a b blk p
    let w := (imaged s a b blk p).1
    t.sto = w.sto ∧ t.ctxs = w.ctxs ∧ t.groups = w.groups ∧ t.teams = w.teams ∧ t.launches = w.launches := by
  dsimp only
  rw [svrfDone]
  generalize imaged s a b blk p = w
  have hsaved : w.1.savedBlock blk p s.nextId = w.1 := by
    obtain rfl | rfl | rfl : blk = 0 ∨ blk = 1 ∨ blk = 2 := by omega
    all_goals rfl
  rw [hsaved]
  exact ⟨rfl, rfl, rfl, rfl, rfl⟩

/-- SVRF of a block of registers leaves its image in memory. -/
theorem svrf_memory {s : State} {a b : Opnd} {blk pa : Nat} {p : Nat × Nat} (hb : blk < 3)
    (hx : s.xlate s.unitCtx (s.src64 p a).toNat 2 = .ok (.mem pa)) (hpage : (s.src64 p a).toNat % 4096 + 136 ≤ 4096)
    (hc : pa + 136 ≤ s.capacity) (hm : MemoryInv s) (hu : Untraced s) (g : Nat) :
    readCells (goesOn s (svrfDone s a b blk p) g 2 State.advance).sto.mem pa 136 = (s.thr p.2).regBlock blk := by
  have hlen := regBlock_length (s.thr p.2) blk
  have hview : SameBytes s s.takeId := ⟨rfl, rfl, rfl, rfl, rfl, rfl, rfl⟩
  obtain ⟨t, ht, hsent, hmem, hspad, hws, hfw, hctxs⟩ := putImage_page (s := s.takeId) (bs := (s.thr p.2).regBlock blk) (pa := pa)
    (va := (s.src64 p a).toNat) (by omega) (by omega) ((hview.xlate rfl ..).trans hx)
  have himg : (imaged s a b blk p).1 = t.writePhys pa ((s.thr p.2).regBlock blk) := by
    rw [imaged, blockImage_registers s hb, ht]
  obtain ⟨hsto, hctx, hgroups, hteams, hlaunches⟩ := svrfDone_keeps s a b hb p
  have hs := imaged_sent s a b blk p
  have hun : Untraced (svrfDone s a b blk p) := by
    refine untraced_of_group hu (by rw [svrfDone_unit]) (hgroups.trans hs.groups) (hteams.trans hs.teams)
      (hlaunches.trans (hs.same State.launches)) fun k => ?_
    have hk := writePhys_debug t pa ((s.thr p.2).regBlock blk) k
    rw [himg] at hctx
    simp only [State.ctx, hctx, hctxs] at hk ⊢
    exact hk
  have hwf : MemoryInv t := wf_of_parts (hmem ▸ (wf_parts hm).1) (hspad ▸ (wf_parts hm).2.1) (hws ▸ (wf_parts hm).2.2)
  have hcap : t.capacity = s.capacity := by
    have hf : t.fw = s.fw := hfw
    simp only [State.capacity, State.channelsInService, hf]
  have hread := readCells_writePhys hwf (pa := pa) (bs := (s.thr p.2).regBlock blk) (by omega)
  rw [goesOn_unwritten hun, hsto, himg]
  rwa [hlen] at hread

/-- Settles O34: an image's bytes go out and come back in place, and what counts and lands besides leaves the block alone. -/
theorem registerBlocksSaveAndLoad : Obligations.RegisterBlocksSaveAndLoad := by
  unfold Obligations.RegisterBlocksSaveAndLoad
  refine ⟨fun s a b blk g p hs hp hv hi hun => ?_, fun x y blk f hxy => ?_⟩
  · simp only [val64_src, val32_src]
    have hk : p.2 < s.threads.length := hs.threads p (List.mem_filter.mp (hp ▸ List.mem_singleton_self p : p ∈ s.parts g)).1
    refine ⟨fun hw hst himg => ⟨_, svrf_saves hp hv hi hw hst himg, svrf_counts s a b blk g p hk, svrf_under_way s a b blk g p,
      fun hb => ⟨svrf_registers s a b blk g p, fun pa hx hpage hc hm hu => svrf_memory hb hx hpage hc hm hu g⟩⟩,
      fun bs htrap hpend hneed hbs => ?_⟩
    obtain ⟨t, T, ht, hT, hthr⟩ := ldrf_loads hp hv hi hun htrap hpend hneed hbs
    refine ⟨t, ht, fun hb hlen i hi' hv' hfull => ?_, fun h3 hr => ?_⟩
    · rw [hthr]
      exact ldrf_registers hk hb hT hlen hi' hv' hfull 2
    · subst h3
      rw [hthr]
      exact ldrf_control hk hT hr 2
  · have hlen : (loadRegs y.v (32 * blk) ((x.regBlock blk).take 128) (sliceVal (x.regBlock blk) 128 8) f).length = y.v.length :=
      length_mapFrom ..
    refine ⟨hlen, fun i hi => ?_⟩
    obtain ⟨hout, hin⟩ := loadRegs_regBlock x y blk f hi
    exact ⟨hout, fun h1 h2 w hw => hin h1 h2 _ hw, fun h1 h2 e he => hin h1 h2 _ he⟩

end Sys2Proof.Proofs
end

section
/-! PROOFS. Loads that are performed, and what a unit that is not traced leaves exactly (R240, R265, R266). -/

namespace Sys2Proof.Proofs

open Sys2Proof.Machine Sys2Proof.Safety Sys2Proof.Laws

/-! Exactly what going on changes. -/

/-- Nothing but units and threads. -/
def Moved (t u : State) : Prop := ∃ us ts, u = { t with units := us, threads := ts }

theorem Moved.trans {s t u : State} (h : Moved s t) (h' : Moved t u) : Moved s u := by
  obtain ⟨us, ts, rfl⟩ := h
  obtain ⟨us', ts', rfl⟩ := h'
  exact ⟨us', ts', rfl⟩

theorem nextWord_moved {s : State} (hu : Untraced s) : Moved s s.nextWord := by
  unfold State.nextWord
  split
  · rw [clauseTrace_untraced hu]
    exact ⟨_, _, rfl⟩
  · exact ⟨_, _, rfl⟩

theorem advance_moved {s : State} (hu : Untraced s) : Moved s s.advance := by
  unfold State.advance
  split
  · exact Moved.trans ⟨_, _, rfl⟩ (nextWord_moved (untraced_updUnit hu (f := fun u => { u with scope := none }) (fun _ => rfl) _))
  · split
    · exact ⟨_, _, rfl⟩
    · refine Moved.trans ⟨_, _, rfl⟩ (nextWord_moved ?_)
      exact untraced_updUnit hu (f := fun u => { u with rep := none, scope := none }) (fun _ => rfl) _

theorem goesOn_moved {t : State} (hu : Untraced t) (s : State) (g c : Nat) : ∃ us ts cs,
    goesOn s t g c State.advance = { t with units := us, threads := ts, ctxs := cs } := by
  have hi : Untraced (t.pay (ctxAt s) s.unit.core (s.costNow c) (s.parts g)).issued :=
    untraced_of_group (untraced_pay hu (ctxAt s) s.unit.core (s.costNow c) (s.parts g))
      (issued_unit_part (part := IssueUnit.group) (fun _ _ => rfl) _) rfl rfl rfl fun _ => rfl
  obtain ⟨us, ts, h⟩ := advance_moved hi
  obtain ⟨cs, hp⟩ : ∃ cs, t.pay (ctxAt s) s.unit.core (s.costNow c) (s.parts g) = { t with ctxs := cs } := by
    unfold State.pay
    split
    exacts [⟨_, rfl⟩, ⟨_, rfl⟩]
  rw [goesOn_eq, h, hp]
  exact ⟨us, ts, cs, rfl⟩

/-! What accesses note: translations, visitor lines, tokens and charges. -/

/-- The state with what accesses note put back as in `s`. -/
def unnoted (s t : State) : State :=
  { t with sto := { t.sto with tlb := s.sto.tlb, visitors := s.sto.visitors, held := s.sto.held }, ctxs := s.ctxs }

/-- Accesses may note what leads from `s` to `t`; debug descriptors stay. -/
structure Noted (s t : State) : Prop where
  back : unnoted s t = s
  debug : ∀ k, (t.ctx k).debug = (s.ctx k).debug

theorem Noted.refl (s : State) : Noted s s := ⟨rfl, fun _ => rfl⟩

theorem Noted.trans {s t u : State} (h : Noted s t) (h' : Noted t u) : Noted s u where
  back := by
    have hu : unnoted s (unnoted t u) = unnoted s u := rfl
    rw [← hu, h'.back, h.back]
  debug k := (h'.debug k).trans (h.debug k)

theorem Noted.foldl {α : Type} {f : State → α → State} (h : ∀ s x, Noted s (f s x)) (l : List α) (s : State) : Noted s (l.foldl f s) := by
  induction l generalizing s with
  | nil => exact .refl s
  | cons x r ih => exact (h s x).trans (ih (f s x))

theorem Noted.same {s t : State} (h : Noted s t) {β : Type} (f : State → β) : f (unnoted s t) = f s := congrArg f h.back

theorem Noted.unit {s t : State} (h : Noted s t) : t.unit = s.unit := h.same State.unit

/-- States whose memories and free values are the same, whatever is held of them. -/
theorem memory_same {s t : State} (hm : t.sto.mem = s.sto.mem) (hd : t.sto.dead = s.sto.dead) (hs : t.sto.spad = s.sto.spad)
    (hw : t.sto.ws = s.sto.ws) (hf : t.fresh = s.fresh) : SameMemory s t := by
  refine fun a => ⟨?_, by rw [hs], by rw [hw]⟩
  simp only [State.memByte, State.pick, hm, hd, hf]
  rfl

/-- Every byte of memory reads the same. -/
theorem Noted.memory {s t : State} (h : Noted s t) : SameMemory s t :=
  memory_same (h.same fun x => x.sto.mem) (h.same fun x => x.sto.dead) (h.same fun x => x.sto.spad) (h.same fun x => x.sto.ws)
    (h.same State.fresh)

theorem noteTlb_noted (s : State) (c : Context) (va : Nat) : Noted s (s.noteTlb c va) := by
  obtain h | ⟨l, b, -, -, h⟩ := noteTlb_cases s c va
  all_goals
    rw [h]
    exact ⟨rfl, fun _ => rfl⟩

theorem noteVisitor_noted (s : State) (core line : Nat) (sc : Scope) : Noted s (s.noteVisitor core line sc) := by
  unfold State.noteVisitor
  dsimp only
  split
  · exact ⟨rfl, fun _ => rfl⟩
  · exact ⟨rfl, fun _ => rfl⟩
  · split
    · exact .refl s
    · split
      exacts [.refl s, ⟨rfl, fun _ => rfl⟩]

theorem noteToken_noted (s : State) (core line : Nat) : Noted s (s.noteToken core line) := by
  unfold State.noteToken
  split
  exacts [⟨rfl, fun _ => rfl⟩, .refl s]

theorem charge_noted (s : State) (ctx core n : Nat) : Noted s (s.charge ctx core n) :=
  ⟨rfl, fun k => ctx_updCtx_part (fun x => (charge_debug x core _).1) (fun x => (charge_debug x core _).2) s ctx k⟩

theorem chargeLines_noted (s : State) (ctx core : Nat) (ls : List (Nat × Nat)) : Noted s (s.chargeLines ctx core ls) := by
  unfold State.chargeLines
  split
  exacts [.refl s, charge_noted ..]

/-! Loads that are performed. -/

/-- Performing loads may lead from `s` to `t`: besides what accesses note, the operations under way change. -/
def Sampled (s t : State) : Prop := Noted { s with fly := { s.fly with ops := t.fly.ops } } t

theorem Noted.sampled {s t : State} (h : Noted s t) : Sampled s t := by
  have ho : t.fly.ops = s.fly.ops := h.same fun x => x.fly.ops
  unfold Sampled
  rw [ho]
  exact h

theorem Sampled.refl (s : State) : Sampled s s := (Noted.refl s).sampled

theorem Sampled.trans {s t u : State} (h : Sampled s t) (h' : Sampled t u) : Sampled s u := by
  have hk : Noted { s with fly := { s.fly with ops := u.fly.ops } } { t with fly := { t.fly with ops := u.fly.ops } } := by
    refine ⟨?_, h.debug⟩
    have hu : unnoted { s with fly := { s.fly with ops := u.fly.ops } } { t with fly := { t.fly with ops := u.fly.ops } } =
      { unnoted { s with fly := { s.fly with ops := t.fly.ops } } t with fly :=
        { (unnoted { s with fly := { s.fly with ops := t.fly.ops } } t).fly with ops := u.fly.ops } } := rfl
    rw [hu, h.back]
  exact hk.trans h'

theorem Sampled.foldl {α : Type} {f : State → α → State} (h : ∀ s x, Sampled s (f s x)) (l : List α) (s : State) :
    Sampled s (l.foldl f s) := by
  induction l generalizing s with
  | nil => exact .refl s
  | cons x r ih => exact (h s x).trans (ih (f s x))

section

variable {s t : State} (h : Sampled s t)
include h

theorem Sampled.unit : t.unit = s.unit :=
  Noted.unit (s := { s with fly := { s.fly with ops := t.fly.ops } }) h

theorem Sampled.memory : SameMemory s t :=
  Noted.memory (s := { s with fly := { s.fly with ops := t.fly.ops } }) h

end

theorem sampleOne_sampled (s : State) (id : Nat) : Sampled s (s.sampleOne id) := by
  obtain ⟨seen, hseen⟩ := exists_eq (a' := State.seenWith)
  rw [State.sampleOne, ← hseen]
  split
  · exact .refl s
  · have hset : ∀ k, Sampled s (s.setOp id k) := fun _ => Noted.refl _
    split
    · dsimp only
      split
      · exact ((hset _).trans (noteVisitor_noted ..).sampled).trans (noteToken_noted ..).sampled
      · exact hset _
    · exact .refl s

theorem sampleLoads_sampled (s : State) (p : Op → Bool) : Sampled s (s.sampleLoads p) := Sampled.foldl (fun s (o : Op) => sampleOne_sampled s o.id) _ s

theorem settleLoads_sampled (s : State) (ok : List (Nat × Nat)) : Sampled s (s.settleLoads ok) :=
  Sampled.foldl (fun s _ => sampleLoads_sampled s _) ok s

end Sys2Proof.Proofs
end

section
/-! PROOFS. FENCE and PREF (R240, R241, R265, R266). -/

namespace Sys2Proof.Proofs

open Sys2Proof.Machine Sys2Proof.Safety Sys2Proof.Laws

theorem exec_fence (sc : Scope) (k : FenceKind) (g : Nat) (s : State) : exec (.fence sc k g) s = execFence sc k g s := rfl

theorem exec_pref (a b : Opnd) (s : State) : exec (.pref a b) s = execPref a b s := rfl

theorem shadowRelease_unit (s : State) (m : Nat) (sc : Scope) : (s.shadowRelease m sc).unit = s.unit := by
  unfold State.shadowRelease
  split <;> rfl

/-- What a fence leaves. -/
def fenced (s : State) (sc : Scope) (k : FenceKind) (g : Nat) : State :=
  let read := s.settleLoads (s.parts g)
  let out := if k ≠ .acq then read.shadowRelease s.unitTeam (s.scopeOf sc) else read
  if k = .rel then out else out.acquire s.unit.core (s.scopeOf sc)

theorem fenced_unit (s : State) (sc : Scope) (k : FenceKind) (g : Nat) : (fenced s sc k g).unit = s.unit := by
  have hread : (s.settleLoads (s.parts g)).unit = s.unit := (settleLoads_sampled ..).unit
  unfold fenced
  dsimp only
  split <;> split <;> simp only [acquire_unit, shadowRelease_unit, hread]

/-- A fence whose participants wait for nothing has its effect. -/
theorem fence_goes {s : State} {sc : Scope} {k : FenceKind} {g : Nat} (hi : Issues s g []) (hne : s.parts g ≠ [])
    (hd : ∀ p ∈ s.parts g, s.atomicDue p.2 = false ∧ s.readsDue p.2 = false)
    (ho : ∀ p ∈ s.parts g, (if decide (k ≠ .acq) = true then s.releaseStatus p else (s.waitStatus p.2 .st 63).plain) = .ready) :
    exec (.fence sc k g) s = does s g 2 fun _ => fenced s sc k g := by
  rw [exec_fence, execFence]
  refine run_effect hi ho (fun _ => ?_) (fun _ _ => rfl) ?_ (fenced_unit s sc k g ▸ hi.lanes) rfl
  · refine List.any_eq_false.mpr fun p hp => ?_
    simp [hd p hp]
  · dsimp only
    rw [if_neg hne]
    simp only [decide_eq_true_eq]
    rfl

/-- What one participant's PREF notes. -/
def prefetched (s : State) (a b : Opnd) (r : State) (p : Nat × Nat) : State :=
  match s.xlate s.unitCtx (s.globVa p a b).toNat 1 with
  | .ok (.mem pa) =>
    let r := (r.noteTlb s.unitCtx (s.globVa p a b).toNat).chargeLines s.unitCtx.num s.unit.core
      (if (s.thr p.2).hmode = 2 then [] else [(3, pa / 128)])
    if s.scopeOf .core = .core ∨ s.scopeOf .core = .clu then
      (r.noteVisitor s.unit.core (pa / 128) (s.scopeOf .core)).noteToken s.unit.core (pa / 128)
    else r
  | _ => r

theorem prefetched_noted (s : State) (a b : Opnd) (r : State) (p : Nat × Nat) : Noted r (prefetched s a b r p) := by
  obtain ⟨xl, hx⟩ := exists_eq (a' := State.xlate)
  rw [prefetched, ← hx]
  split
  · dsimp only
    split
    · exact (((noteTlb_noted ..).trans (chargeLines_noted ..)).trans (noteVisitor_noted ..)).trans (noteToken_noted ..)
    · exact (noteTlb_noted ..).trans (chargeLines_noted ..)
  · exact .refl r

/-- PREF notes what a load would. -/
theorem pref_goes {s : State} {a b : Opnd} (hi : Issues s 0 [srcUse a 2 0, srcUse b 1 0]) :
    exec (.pref a b) s = does s 0 2 fun t => (s.parts 0).foldl (prefetched s a b) t := by
  obtain ⟨xl, hx⟩ := exists_eq (a' := State.xlate)
  have hn := Noted.foldl (prefetched_noted s a b) (s.parts 0) s
  have hp : prefetched s a b = prefetched s a b := rfl
  conv_rhs at hp => unfold prefetched
  rw [exec_pref, execPref, ← hx]
  rw [← hx] at hp
  exact run_effect hi (fun _ _ => rfl) (fun _ => rfl) (fun _ _ => rfl) (by rw [hp] <;> rfl) (hn.unit ▸ hi.lanes) rfl

/-- PREF changes no byte, no register and nothing of the machine but what accesses note. -/
theorem pref_keeps {s t : State} (hu : Untraced s) (h : Noted s t) (g c : Nat) :
    SameMemory s (goesOn s t g c State.advance) ∧ SameMachine s (goesOn s t g c State.advance) ∧
      ∀ k, SameControl (s.thr k) ((goesOn s t g c State.advance).thr k) ∧ ((goesOn s t g c State.advance).thr k).v = (s.thr k).v := by
  have hthreads : t.threads = s.threads := h.same State.threads
  have hthr : ∀ k, t.thr k = s.thr k := fun k => by simp only [State.thr, hthreads]
  have hu' : Untraced t := untraced_of_group hu (by rw [h.unit]) (h.same State.groups) (h.same State.teams) (h.same State.launches) h.debug
  refine ⟨?_, ?_, fun k => ?_⟩
  · obtain ⟨us, ts, cs, hg⟩ := goesOn_moved hu' s g c
    rw [hg]
    exact h.memory
  · obtain ⟨us, ts, cs, hg⟩ := goesOn_moved hu' s g c
    have hgr : t.groups = s.groups := h.same State.groups
    rw [hg]
    exact ⟨by simp only [hgr], h.same State.teams, h.same State.launches, h.same State.fly, h.same State.bar0, h.same State.fabric,
      h.same State.fw, h.same State.health⟩
  · have hp := fun {β : Type} (part : Thread → β) (hs : Steady part) => (goesOn_steady hs s t g c k).trans (congrArg part (hthr k))
    exact ⟨⟨hp Thread.preds fun _ _ _ _ _ => rfl, hp Thread.calls fun _ _ _ _ _ => rfl, hp Thread.regions fun _ _ _ _ _ => rfl,
      hp Thread.rdepth fun _ _ _ _ _ => rfl, hp Thread.mode fun _ _ _ _ _ => rfl, hp Thread.bsync fun _ _ _ _ _ => rfl,
      hp Thread.hmode fun _ _ _ _ _ => rfl, hp Thread.resume fun _ _ _ _ _ => rfl, hp Thread.hs fun _ _ _ _ _ => rfl,
      hp Thread.frec fun _ _ _ _ _ => rfl, hp Thread.st fun _ _ _ _ _ => rfl, hp Thread.mx fun _ _ _ _ _ => rfl,
      hp Thread.gx fun _ _ _ _ _ => rfl, hp Thread.ct fun _ _ _ _ _ => rfl, hp Thread.held fun _ _ _ _ _ => rfl,
      hp Thread.life fun _ _ _ _ _ => rfl⟩, hp Thread.v fun _ _ _ _ _ => rfl⟩

/-- Settles O25: a fence's participants wait for nothing, so it has its effect; PREF only notes what accesses note. -/
theorem fencesAndPrefetchesComplete : Obligations.FencesAndPrefetchesComplete := by
  unfold Obligations.FencesAndPrefetchesComplete
  refine fun s a b sc g => ⟨fun hi hne hd => ⟨fun h => ?_, fun h => ?_⟩, fun hi hu => ?_⟩
  · refine fence_goes hi hne hd fun p hp => ?_
    obtain ⟨hst, hrec, hheld⟩ := h p hp
    have hopen : stillOpen s .st 63 p = false := by
      have hle : decide (63 < (s.thr p.2).ctr .st) = false := decide_eq_false (Nat.not_lt.mpr hst)
      rw [stillOpen, hle, hrec]
      rfl
    rw [if_neg (by decide), waitStatus_plain (fun ht => absurd ht (by simp [hopen])) hheld, hopen]
    rfl
  · have ho : ∀ k : FenceKind, k ≠ .acq → ∀ p ∈ s.parts g,
        (if decide (k ≠ .acq) = true then s.releaseStatus p else (s.waitStatus p.2 .st 63).plain) = .ready := fun k hk p hp => by
      rw [if_pos (by simpa using hk)]
      exact h p hp
    exact ⟨fence_goes hi hne hd (ho .rel (by decide)), fence_goes hi hne hd (ho .ar (by decide)),
      fence_goes hi hne hd (ho .full (by decide))⟩
  · exact ⟨_, pref_goes hi, pref_keeps hu (Noted.foldl (prefetched_noted s a b) (s.parts 0) s) 0 2⟩

end Sys2Proof.Proofs
end

section
/-! PROOFS. Loads that the statement leaves open: nothing keeps two operations under way from bearing one number, and what is done to one
by its number is then done to both. -/

namespace Sys2Proof.Proofs

open Sys2Proof.Machine Sys2Proof.Safety Sys2Proof.Laws

/-- A machine at word 1 of a clause of one word: v0:v1 and s0:s1 hold 0x40000100, v2 holds 8. -/
def accessing : State :=
  let s := (State.reset.fetchState 0x10000000).updThr 0 fun x => { x with v := .full 0x40000100 :: .full 0 :: .full 8 :: x.v.drop 3 }
  let s := s.updGrp 0 fun g => { g with s := .full 0x40000100 :: g.s.drop 1 }
  { s with
    agenda := []
    units := [{ core := 0, dp := 0, group := 0, lanes := [(0, 0)], hdr := 0x40000000, idx := 1, words := [0, 0], instrs := 1, scope := some .dev,
                waited := true }] }

/-- A load of the eight bytes that a store which it does not see writes, under one number. -/
def clash : State :=
  { accessing with
    nextId := 1
    fly := { accessing.fly with ops := [
      { id := 0, batch := 0, thread := 0, core := 0, pc := 0,
        kind := .load .zero 0 (.mem 0x40000108) 8 false none .dev none [] },
      { id := 0, batch := 0, thread := 0, core := 0, pc := 0, kind := .store (.mem 0x40000108) (valBytes 8 1) true false }] } }

/-- Whether an operation brings a value. -/
def bringsValue (x : Dword) (o : Op) : Bool :=
  match o.kind with
  | .fill _ _ (.ok y) _ => y == x
  | _ => false

/-- Whether an outcome is a next state with a property of its operations. -/
def nextOps (o : Out) (p : List Op → Bool) : Bool :=
  match o with
  | .next t => p t.fly.ops
  | _ => false

theorem nextOps_of {o : Out} {p : List Op → Bool} {t : State} (h : nextOps o p = true) (ht : o = .next t) : p t.fly.ops = true := by
  subst ht
  exact h

/-- The lines that a core holds tokens of once it has noted one. -/
def tokens (s : State) (core line : Nat) : List (Nat × Nat) := (s.noteToken core line).sto.held

theorem noteToken_eq (s : State) (core line : Nat) :
    s.noteToken core line = s.updSto fun m => { m with held := tokens s core line } := by
  unfold tokens State.noteToken
  split <;> rfl

theorem clash_misses : nextOps (exec (.ld (.v 94) (.v 0) (.v 2) .n64 true) clash) (fun l => !l.any (bringsValue 1)) = true := by
  rw [exec_ld]
  simp only [execLd, State.startLoads, State.startLoad, State.sampleLoads, State.sampleOne, noteToken_eq]
  decide +kernel

theorem clash_issues : Issues clash 0 [fillUse (.v 94) 2, srcUse (.v 0) 2 2, srcUse (.v 2) 1 1] := by
  refine ⟨by decide +kernel, ⟨by decide +kernel, by decide +kernel⟩, by decide +kernel⟩

theorem clash_unit : UnitOk clash :=
  ⟨by decide +kernel, by decide +kernel, by decide +kernel, by decide +kernel, by decide +kernel, by decide +kernel, by
    intro k hk hne
    have hlen : clash.units.length = 1 := rfl
    have hcur : clash.cur = 0 := rfl
    omega⟩

theorem clash_untraced : Untraced clash := by
  unfold Untraced
  decide +kernel

/-- Refutes O21: the acquiring load has the thread's older load performed first, by its number; a store of that number is then a
store no more, and the bytes that the access would have seen are not those that the load brings. -/
theorem not_loadsStartAtTheirAddresses : ¬ Obligations.LoadsStartAtTheirAddresses := by
  unfold Obligations.LoadsStartAtTheirAddresses
  intro h
  have hld := (h clash (.v 94) (.v 0) (.v 2) .n64 true false false 0 0 0 (fun _ => .mem 0x40000108) (fun _ => valBytes 8 1) clash_unit
    clash_untraced (fun p hp => ⟨(by decide +kernel : ∀ p ∈ clash.parts 0, clash.atomicDue p.2 = false) p hp, fun _ _ => nofun⟩)).1
    clash_issues (fun p hp => (by decide +kernel : ∀ p ∈ clash.parts 0, clash.globAt (clash.globVa p (.v 0) (.v 2)) 8 1 1 =
      .ok (.mem 0x40000108) ∧ clash.unflushedTrap (clash.globVa p (.v 0) (.v 2)).toNat (.mem 0x40000108) 1 = none) p hp)
  obtain ⟨u, hu, -, hstarted⟩ := hld.2 (fun p hp => (by decide +kernel : ∀ p ∈ clash.parts 0, clash.seen (clash.thr p.2).core p.2
    (.mem 0x40000108) 8 (clash.scopeOf .core) = some (valBytes 8 1)) p hp) (by decide +kernel) rfl rfl
  obtain ⟨o, ho, -, -, hkind, -⟩ := hstarted (0, 0) (by decide +kernel)
  have hmiss := nextOps_of clash_misses hu
  have hval : bringsValue 1 o = true := by
    rw [bringsValue, hkind]
    decide +kernel
  have hany : u.fly.ops.any (bringsValue 1) = true := List.any_eq_true.mpr ⟨o, ho, hval⟩
  rw [hany] at hmiss
  exact nomatch hmiss

end Sys2Proof.Proofs
end

section
/-! PROOFS. A scatter from the share that loses a store: a plain read that a later lane has performed first may bear its number. -/

namespace Sys2Proof.Proofs

open Sys2Proof.Machine Sys2Proof.Safety Sys2Proof.Laws

/-- Two lanes that scatter; the second has a load of the share under way, whose number is the one that comes next. -/
def rivals : State :=
  let one := accessing.thr 0
  { accessing with
    threads := [one, { one with idx := 1 }]
    units := accessing.units.map fun u => { u with lanes := [(0, 0), (1, 1)] }
    fly := { accessing.fly with ops := [
      { id := accessing.nextId, batch := 0, thread := 1, core := 0, pc := 0,
        kind := .load .zero 0 (.spad 8) 8 false none .clu none [] }] } }

/-- Whether an operation is a store of a thread. -/
def isStoreOf (t : Nat) (o : Op) : Bool :=
  match o.kind with
  | .store .. => o.thread == t
  | _ => false

theorem rivals_unit : UnitOk rivals := by
  refine ⟨by decide +kernel, by decide +kernel, by decide +kernel, by decide +kernel, by decide +kernel, by decide +kernel, ?_⟩
  intro k hk hne
  have hlen : rivals.units.length = 1 := rfl
  have hcur : rivals.cur = 0 := rfl
  omega

theorem rivals_issues : Issues rivals 0 (gatherUses (.v 2) 1 0 (.v 2)) :=
  ⟨by decide +kernel, ⟨by decide +kernel, by decide +kernel⟩, by decide +kernel⟩

theorem rivals_misses :
    nextOps (exec (.gst (.v 2) 0 3 false (.v 2) true false 3) rivals) (fun l => !l.any (isStoreOf 0)) = true := by
  decide +kernel

theorem rivals_indexed : rivals.indexed (.v 2) false false (rivals.parts 0) = [(0, 0), (1, 1)] := by
  decide +kernel

/-- What the two lanes ask of memory and of the share. -/
theorem rivals_aim : ∀ p ∈ [(0, 0), (1, 1)], (rivals.thr p.2).st < 63 ∧
    rivals.spadHeld p.2 ((rivals.src p (.v 2)).toNat % 2 ^ 24) (2 ^ 3) = false ∧
    rivals.globAt (rivals.gatherVa p 0 (.v 2) false false 3) (2 ^ 3) 2 2 = .ok (.mem 0x40000140) ∧
    rivals.gatherSpad p (.v 2) (2 ^ 3) 2 = .ok (.spad 8) ∧
    rivals.seen (rivals.thr p.2).core p.2 (.spad 8) (2 ^ 3) .clu = some (valBytes 8 0) := by
  decide +kernel

/-- Refutes O22: the second lane's load, which is performed before its read of the share, bears the number that the first lane's
store has got. -/
theorem not_shareAccessesWaitOrGather : ¬ Obligations.ShareAccessesWaitOrGather := by
  unfold Obligations.ShareAccessesWaitOrGather
  intro h
  have hgst := ((h rivals (.v 2) (.v 0) (.v 2) .n64 false false 0 3 3 (fun _ => .mem 0x40000140) (fun _ => 8) (fun _ => valBytes 8 0)
    rivals_unit (fun p hp => ⟨(by decide +kernel : ∀ p ∈ rivals.parts 0, rivals.atomicDue p.2 = false) p hp, fun _ _ => nofun⟩)).2
    rivals_issues (fun p hp => (by decide +kernel : ∀ p ∈ rivals.parts 0, rivals.gatherStatus p 0 (some (.v 2, 1)) = .ready) p
      (List.mem_filter.mp hp).1)).2
  rw [rivals_indexed] at hgst
  obtain ⟨u, hu, hstarted⟩ := hgst rivals_aim
  obtain ⟨o, ho, hthread, shown, counted, hkind⟩ := hstarted (0, 0) (by decide)
  have hmiss := nextOps_of rivals_misses hu
  have hval : isStoreOf 0 o = true := by
    rw [isStoreOf, hkind]
    exact beq_iff_eq.mpr hthread
  have hany : u.fly.ops.any (isStoreOf 0) = true := List.any_eq_true.mpr ⟨o, ho, hval⟩
  rw [hany] at hmiss
  exact nomatch hmiss

end Sys2Proof.Proofs
end

section
/-! PROOFS. Operations that a word puts under way (R180, R240, R246). -/

namespace Sys2Proof.Proofs

open Sys2Proof.Machine Sys2Proof.Safety Sys2Proof.Laws

/-! What a fold of steps keeps, and what each of its steps brings about. -/

section

variable {σ α : Type} {R : σ → σ → Prop} {f : σ → α → σ}

/-- A fold of steps that each stand in a transitive relation. -/
theorem foldl_related (hr : ∀ z, R z z) (ht : ∀ {x y z}, R x y → R y z → R x z) (l : List α) (s : σ)
    (h : ∀ z, ∀ x ∈ l, R z (f z x)) : R s (l.foldl f s) := by
  induction l generalizing s with
  | nil => exact hr s
  | cons x r ih => exact ht (h s x (by simp)) (ih (f s x) fun z y hy => h z y (by simp [hy]))

/-- What a step brings about and later steps keep. -/
theorem foldl_brings (hr : ∀ z, R z z) (ht : ∀ {x y z}, R x y → R y z → R x z) {P : α → σ → Prop} (l : List α) (s : σ)
    (h : ∀ z, ∀ x ∈ l, R z (f z x)) (hp : ∀ x z z', P x z → R z z' → P x z') (hn : ∀ z, R s z → ∀ x ∈ l, P x (f z x)) :
    ∀ x ∈ l, P x (l.foldl f s) := by
  induction l generalizing s with
  | nil => exact fun _ hx => nomatch hx
  | cons y r ih =>
    intro x hx
    obtain rfl | hx := List.mem_cons.mp hx
    · exact hp x _ _ (hn s (hr s) x (by simp)) (foldl_related hr ht r _ fun z y hy => h z y (by simp [hy]))
    · exact ih (f s y) (fun z x hx => h z x (by simp [hx])) (fun z hz x hx => hn z (ht (h s y (by simp)) hz) x (by simp [hx])) x hx

/-- What a fold adds to a count: each step adds its own weight to the count of its key. -/
theorem foldl_counts (hr : ∀ z, R z z) (ht : ∀ {x y z}, R x y → R y z → R x z) {n : σ → Nat → Nat} {key w : α → Nat} (l : List α) (s : σ)
    (h : ∀ z, ∀ x ∈ l, R z (f z x)) (hl : (l.map key).Nodup)
    (hn : ∀ z, R s z → ∀ x ∈ l, ∀ x' ∈ l, n (f z x) (key x') = n z (key x') + if key x = key x' then w x else 0) :
    ∀ x ∈ l, n (l.foldl f s) (key x) = n s (key x) + w x := by
  have other : ∀ (r : List α) (s : σ) (k : Nat), (∀ z, ∀ x ∈ r, R z (f z x)) → (∀ z, R s z → ∀ x ∈ r, n (f z x) k = n z k) →
      n (r.foldl f s) k = n s k := by
    intro r
    induction r with
    | nil => exact fun _ _ _ _ => rfl
    | cons y r ih =>
      intro s k h hk
      exact (ih (f s y) k (fun z x hx => h z x (by simp [hx])) fun z hz x hx => hk z (ht (h s y (by simp)) hz) x (by simp [hx])).trans
        (hk s (hr s) y (by simp))
  induction l generalizing s with
  | nil => exact fun _ hx => nomatch hx
  | cons y r ih =>
    obtain ⟨hy, hl⟩ := List.nodup_cons.mp hl
    have hne : ∀ x ∈ r, key x ≠ key y := fun x hx he => hy (he ▸ List.mem_map_of_mem hx)
    intro x hx
    obtain rfl | hx := List.mem_cons.mp hx
    · have hs := hn s (hr s) x (by simp) x (by simp)
      rw [if_pos rfl] at hs
      refine (other r _ (key x) (fun z y hy => h z y (by simp [hy])) fun z hz y hy => ?_).trans hs
      have hz' := hn z (ht (h s x (by simp)) hz) y (by simp [hy]) x (by simp)
      rwa [if_neg (hne y hy)] at hz'
    · have hs := hn s (hr s) y (by simp) x (by simp [hx])
      rw [if_neg (hne x hx).symm] at hs
      rw [List.foldl_cons, ih (f s y) (fun z x hx => h z x (by simp [hx])) hl
        (fun z hz x hx x' hx' => hn z (ht (h s y (by simp)) hz) x (by simp [hx]) x' (by simp [hx'])) x hx, hs]
      rfl

end

/-! States that differ in what is under way. -/

/-- A word may put operations under way from `s` to `t`: memory, the unit, the placing of the threads and the contexts stay. -/
structure Begun (s t : State) : Prop where
  memory : SameMemory s t
  unit : t.unit = s.unit
  size : t.threads.length = s.threads.length
  core : ∀ k, (t.thr k).core = (s.thr k).core
  ctx : ctxAt t = ctxAt s
  debug : ∀ k, (t.ctx k).debug = (s.ctx k).debug

theorem sameMemory_refl (s : State) : SameMemory s s := fun _ => ⟨rfl, rfl, rfl⟩

theorem Begun.refl (s : State) : Begun s s := ⟨sameMemory_refl s, rfl, rfl, fun _ => rfl, rfl, fun _ => rfl⟩

theorem Begun.trans {s t u : State} (h : Begun s t) (h' : Begun t u) : Begun s u where
  memory := sameMemory_trans h.memory h'.memory
  unit := h'.unit.trans h.unit
  size := h'.size.trans h.size
  core k := (h'.core k).trans (h.core k)
  ctx := h'.ctx.trans h.ctx
  debug k := (h'.debug k).trans (h.debug k)

section

variable {s t : State} (h : Begun s t)
include h

theorem Begun.untraced (hu : Untraced s) : Untraced t := by
  rw [Untraced, h.ctx, h.debug]
  exact hu

theorem Begun.pc : t.pc = s.pc := by rw [State.pc, h.unit, State.pc]

end

theorem Noted.begun {s t : State} (h : Noted s t) : Begun s t where
  memory := h.memory
  unit := h.unit
  size := h.same fun x => x.threads.length
  core k := h.same fun x => (x.thr k).core
  ctx := h.same ctxAt
  debug := h.debug

theorem Sampled.begun {s t : State} (h : Sampled s t) : Begun s t where
  memory := h.memory
  unit := h.unit
  size := Noted.same (s := { s with fly := { s.fly with ops := t.fly.ops } }) h fun x => x.threads.length
  core k := Noted.same (s := { s with fly := { s.fly with ops := t.fly.ops } }) h fun x => (x.thr k).core
  ctx := Noted.same (s := { s with fly := { s.fly with ops := t.fly.ops } }) h ctxAt
  debug := h.debug

theorem updThr_begun {f : Thread → Thread} (hf : ∀ x, (f x).core = x.core) (s : State) (k : Nat) : Begun s (s.updThr k f) where
  memory := sameMemory_of_sto rfl rfl
  unit := rfl
  size := length_upd ..
  core j := thr_updThr_part (part := Thread.core) hf s k j
  ctx := rfl
  debug _ := rfl

theorem each_begun {f : Nat × Nat → Thread → Thread} (hf : ∀ p x, (f p x).core = x.core) (s : State) (ok : List (Nat × Nat)) :
    Begun s (s.each ok f) where
  memory := sameMemory_of_sto rfl rfl
  unit := rfl
  size := length_mapFrom ..
  core := thr_each_part (part := Thread.core) hf s ok
  ctx := rfl
  debug _ := rfl

theorem updGrp_begun {f : Machine.Group → Machine.Group} (hf : ∀ x, (f x).team = x.team) (s : State) (g : Nat) : Begun s (s.updGrp g f) where
  memory := sameMemory_of_sto rfl rfl
  unit := rfl
  size := rfl
  core _ := rfl
  ctx := by
    have hteam : ((s.updGrp g f).grp s.unit.group).team = (s.grp s.unit.group).team := grp_updGrp_part (part := Machine.Group.team) hf ..
    have hc : ctxAt (s.updGrp g f) = (s.launch (s.team ((s.updGrp g f).grp s.unit.group).team).launch).ctx := rfl
    rw [hc, hteam, ctxAt]
  debug _ := rfl

theorem updFly_begun (s : State) (f : Flight → Flight) : Begun s (s.updFly f) :=
  ⟨sameMemory_of_sto rfl rfl, rfl, rfl, fun _ => rfl, rfl, fun _ => rfl⟩

theorem takeId_begun (s : State) : Begun s s.takeId := ⟨sameMemory_of_sto rfl rfl, rfl, rfl, fun _ => rfl, rfl, fun _ => rfl⟩

theorem shadowRelease_begun (s : State) (m : Nat) (sc : Scope) : Begun s (s.shadowRelease m sc) := by
  unfold State.shadowRelease
  split
  case h_3 => exact .refl s
  all_goals exact ⟨memory_same rfl rfl rfl rfl rfl, rfl, rfl, fun _ => rfl, rfl, fun _ => rfl⟩

theorem emptyDst_begun (s : State) (ok : List (Nat × Nat)) (d : Opnd) (n : Nat) (id : Nat × Nat → Nat) : Begun s (s.emptyDst ok d n id) := by
  unfold State.emptyDst
  dsimp only
  split
  · refine each_begun ?_ s ok
    exact fun _ _ => rfl
  · split
    · refine updGrp_begun ?_ s _
      exact fun _ => rfl
    · exact .refl s
  · exact .refl s

theorem startOp_begun (s : State) (k batch va : Nat) (kind : OpKind) : Begun s (s.startOp k batch va kind) :=
  (updFly_begun ..).trans (takeId_begun _)

theorem incCtr_core (x : Thread) (c : Ctr) (id : Nat) : (x.incCtr c id).core = x.core := by
  cases c <;> rfl

theorem start_begun (s : State) (p : Nat × Nat) (batch va : Nat) (dst : Opnd) (words : Nat) (ctr : Option Ctr) (kind : OpKind) :
    Begun s (s.start p batch va dst words ctr kind) := by
  unfold State.start
  refine Begun.trans ?_ ((emptyDst_begun ..).trans (startOp_begun ..))
  split
  · exact updThr_begun (fun x => incCtr_core x _ _) s _
  · exact .refl s

theorem accessed_noted {s : State} (hu : Untraced s) (batch : Nat) (l : List Acc) : Noted s (s.accessed batch l) := by
  have hsample : ∀ a b c, s.sample batch a b c = s := fun a b c => by
    have hd : (s.ctx (s.launchOfUnit s.cur).ctx).debug = none := hu
    rw [State.sample]
    simp only [hd]
  unfold State.accessed
  dsimp only
  refine Noted.trans (t := match linesOf l with
      | [] => s
      | x :: _ => s.sample batch x.1 (l.map Acc.p) (l.map fun a => a.va / 32).eraseDups.length) ?_
    (Noted.foldl (fun z a => ?_) l _)
  · split
    · exact .refl s
    · rw [hsample]
      exact .refl s
  · split
    exacts [noteTlb_noted .., noteTlb_noted .., .refl z]

/-! The operations under way. -/

/-- What stays of an operation while words issue: its number, its thread, its place in the program and its kind, whether or not a
store is shown. -/
def opShape (o : Op) : Nat × Nat × Dword × OpKind :=
  (o.id, o.thread, o.pc, match o.kind with | .store q bs _ c => .store q bs false c | k => k)

/-- Nothing is under way in `s` that is not in `t`. -/
def KeepsOps (s t : State) : Prop := ∀ o ∈ s.fly.ops, ∃ o' ∈ t.fly.ops, opShape o' = opShape o

/-- Operations have been put under way. -/
def Started (s t : State) : Prop := Begun s t ∧ KeepsOps s t

theorem Started.refl (s : State) : Started s s := ⟨.refl s, fun o ho => ⟨o, ho, rfl⟩⟩

theorem Started.trans {s t u : State} (h : Started s t) (h' : Started t u) : Started s u := by
  refine ⟨h.1.trans h'.1, fun o ho => ?_⟩
  obtain ⟨o', ho', he⟩ := h.2 o ho
  obtain ⟨o'', ho'', he'⟩ := h'.2 o' ho'
  exact ⟨o'', ho'', he'.trans he⟩

/-- Marks on operations that are no part of their shape. -/
theorem marked_started {g : Op → Op} (hg : ∀ o, opShape (g o) = opShape o) (s : State) :
    Started s (s.updFly fun f => { f with ops := f.ops.map g }) :=
  ⟨updFly_begun .., fun o ho => ⟨g o, List.mem_map_of_mem ho, hg o⟩⟩

theorem charged_started (s : State) (batch : Nat) (l : List Acc) (side : Nat × Nat → List (Nat × Nat)) :
    Started s (s.charged batch l side) := by
  refine marked_started (fun o => ?_) s
  split <;> rfl

theorem showAll_started (s : State) (core : Nat) : Started s (s.showAll core) := by
  refine marked_started (fun o => ?_) s
  split
  next hk =>
    split
    · simp only [opShape, hk]
    · rfl
  · rfl

@[simp] theorem emptyDst_fly (s : State) (ok : List (Nat × Nat)) (d : Opnd) (n : Nat) (id : Nat × Nat → Nat) :
    (s.emptyDst ok d n id).fly = s.fly := by
  unfold State.emptyDst
  dsimp only
  split
  · rfl
  · split <;> rfl
  · rfl

theorem start_ops (s : State) (p : Nat × Nat) (batch va : Nat) (dst : Opnd) (words : Nat) (ctr : Option Ctr) (kind : OpKind) :
    ∃ o, (s.start p batch va dst words ctr kind).fly.ops = s.fly.ops ++ [o] ∧ o.thread = p.2 ∧ o.pc = s.pc ∧ o.kind = kind := by
  let s1 := match ctr with | some c => s.updThr p.2 fun x => x.incCtr c s.nextId | none => s
  have hfly : s1.fly = s.fly := by
    cases ctr <;> rfl
  have hpc : (s1.emptyDst [p] dst words fun _ => s.nextId).pc = s.pc := by
    rw [(emptyDst_begun ..).pc]
    cases ctr <;> rfl
  have hops : (s.start p batch va dst words ctr kind).fly.ops =
    (s1.emptyDst [p] dst words fun _ => s.nextId).fly.ops ++ [_] := rfl
  refine ⟨_, hops.trans (by rw [emptyDst_fly, hfly]), rfl, hpc, rfl⟩

theorem start_started (s : State) (p : Nat × Nat) (batch va : Nat) (dst : Opnd) (words : Nat) (ctr : Option Ctr) (kind : OpKind) :
    Started s (s.start p batch va dst words ctr kind) := by
  obtain ⟨o, hops, -⟩ := start_ops s p batch va dst words ctr kind
  exact ⟨start_begun .., fun x hx => ⟨x, by rw [hops]; exact List.mem_append_left _ hx, rfl⟩⟩

/-- A part of the threads other than their v registers. -/
theorem emptyDst_thr_part {β : Type} {part : Thread → β} (h : ∀ x v, part { x with v := v } = part x) (s : State) (ok : List (Nat × Nat))
    (d : Opnd) (n : Nat) (id : Nat × Nat → Nat) (k : Nat) : part ((s.emptyDst ok d n id).thr k) = part (s.thr k) := by
  unfold State.emptyDst
  dsimp only
  split
  · refine thr_each_part (part := part) ?_ s ok k
    exact fun _ x => h x _
  · split <;> rfl
  · rfl

/-- The stores that count of a thread: one more where the operation counts. -/
theorem start_st (s : State) (p : Nat × Nat) (batch va : Nat) (dst : Opnd) (words : Nat) (ctr : Option Ctr) (kind : OpKind) {k : Nat}
    (hk : k < s.threads.length) : ((s.start p batch va dst words ctr kind).thr k).st =
      (s.thr k).st + if p.2 = k ∧ ctr = some .st then 1 else 0 := by
  refine (emptyDst_thr_part (part := Thread.st) (fun _ _ => rfl) ..).trans ?_
  cases ctr with
  | none => simp
  | some c =>
    dsimp only
    by_cases hp : p.2 = k
    · subst hp
      rw [thr_updThr_self hk]
      cases c <;> simp [Thread.incCtr, Thread.setCtr, Thread.ctr]
    · rw [thr_updThr_other (Ne.symm hp)]
      simp [hp]

end Sys2Proof.Proofs
end

section
/-! PROOFS. Stores that are queued (R180, R246, R257 to R261). -/

namespace Sys2Proof.Proofs

open Sys2Proof.Machine Sys2Proof.Safety Sys2Proof.Laws

theorem exec_st (d a b : Opnd) (t : MemTy) (rel : Bool) (s : State) : exec (.st d a b t rel) s = execSt d a b t rel s := rfl

theorem exec_sts (d a b : Opnd) (t : MemTy) (s : State) : exec (.sts d a b t) s = execSts d a b t s := rfl

theorem exec_gst (d : Opnd) (base sz : Nat) (sx : Bool) (b : Opnd) (sp iw : Bool) (sh : Nat) (s : State) :
    exec (.gst d base sz sx b sp iw sh) s = execGst d base sz sx b sp iw sh s := rfl

/-- The accesses of participants whose addresses translate. -/
theorem accsOf_ok {f : Nat × Nat → Except Trap Place} {at_ : Nat × Nat → Place} {ok : List (Nat × Nat)}
    (h : ∀ p ∈ ok, f p = .ok (at_ p)) (va : Nat × Nat → Nat) (n : Nat) :
    accsOf f va n ok = ok.map fun p => ⟨p, va p, at_ p, n⟩ := by
  rw [accsOf, ← List.filterMap_eq_map']
  refine List.filterMap_congr fun p hp => ?_
  rw [h p hp]

/-- Accesses whose first one is no peer's ask nothing of another device. -/
theorem askLine_here (s : State) {l : List Acc} (h : ∀ a ∈ l, ∀ e o, a.at_ ≠ .peer e o) (op : Nat → RemoteOp) :
    s.askLine l op = (s, none) := by
  unfold State.askLine
  split
  next e off p va len r => exact absurd rfl (h _ List.mem_cons_self _ _)
  · rfl

/-- The store that an access puts under way. -/
def storeOf (s : State) (x : Acc × List Byte) : OpKind := .store x.1.at_ x.2 false (!ownSlice (s.thr x.1.p.2).core x.1.at_)

theorem startStore_eq {s : State} {a : Acc} (h : ∀ e o, a.at_ ≠ .peer e o) (batch : Nat) (req : Option Nat) (elem : Bool) (bs : List Byte) :
    ∃ g : Op → Op, (∀ o, opShape (g o) = opShape o) ∧ s.startStore batch req elem a bs =
      (s.start a.p batch a.va .zero 0 (if !ownSlice (s.thr a.p.2).core a.at_ then some .st else none) (storeOf s (a, bs))).updFly
        fun f => { f with ops := f.ops.map g } := by
  have hid : ∀ z : State, z = z.updFly fun f => { f with ops := f.ops.map id } := fun z => by simp [State.updFly]
  unfold State.startStore
  dsimp only
  split
  next e off he => exact absurd he (h e off)
  · cases elem
    · exact ⟨id, fun _ => rfl, hid _⟩
    · refine ⟨fun o => if o.id = s.nextId then { o with elem := true } else o, fun o => ?_, rfl⟩
      dsimp only
      split <;> rfl

/-- Whether an operation of a shape is under way. -/
def UnderWay (k : Nat) (pc : Dword) (kind : OpKind) (z : State) : Prop :=
  ∃ o ∈ z.fly.ops, (opShape o).2 = (k, pc, kind)

theorem UnderWay.started {k : Nat} {pc : Dword} {kind : OpKind} {z z' : State} (h : UnderWay k pc kind z) (hz : Started z z') :
    UnderWay k pc kind z' := by
  obtain ⟨o, ho, hs⟩ := h
  obtain ⟨o', ho', hs'⟩ := hz.2 o ho
  exact ⟨o', ho', hs' ▸ hs⟩

/-- A store of a shape is under way, shown or not. -/
theorem UnderWay.store {k : Nat} {pc : Dword} {q : Place} {bs : List Byte} {c : Bool} {z : State}
    (h : UnderWay k pc (.store q bs false c) z) :
    ∃ o ∈ z.fly.ops, o.thread = k ∧ o.pc = pc ∧ ∃ shown, o.kind = .store q bs shown c := by
  obtain ⟨o, ho, hs⟩ := h
  obtain ⟨hk, hpc, hkind⟩ : o.thread = k ∧ o.pc = pc ∧ (opShape o).2.2.2 = .store q bs false c := by
    simpa [opShape, Prod.ext_iff] using hs
  refine ⟨o, ho, hk, hpc, ?_⟩
  unfold opShape at hkind
  split at hkind
  next hc =>
    cases hkind
    exact ⟨_, hc⟩
  next hn => exact ⟨false, hkind⟩

/-- Stores that go to no peer and are put under way one after the other. -/
theorem startStore_fold {s : State} {l : List (Acc × List Byte)} (h : ∀ x ∈ l, ∀ e o, x.1.at_ ≠ .peer e o)
    (hn : (l.map fun x => x.1.p.2).Nodup) (hk : ∀ x ∈ l, x.1.p.2 < s.threads.length) (batch : Nat) (req : Option Nat) (elem : Bool) :
    Started s (l.foldl (fun z a => z.startStore batch req elem a.1 a.2) s) ∧ ∀ x ∈ l,
      ((l.foldl (fun z a => z.startStore batch req elem a.1 a.2) s).thr x.1.p.2).st =
        (s.thr x.1.p.2).st + (if ownSlice (s.thr x.1.p.2).core x.1.at_ then 0 else 1) ∧
      UnderWay x.1.p.2 s.pc (storeOf s x) (l.foldl (fun z a => z.startStore batch req elem a.1 a.2) s) := by
  have hstep : ∀ z, ∀ x ∈ l, Started z (z.startStore batch req elem x.1 x.2) := fun z x hx => by
    obtain ⟨g, hg, he⟩ := startStore_eq (s := z) (h x hx) batch req elem x.2
    rw [he]
    exact (start_started ..).trans (marked_started hg _)
  refine ⟨foldl_related .refl .trans l s hstep, fun x hx => ⟨?_, ?_⟩⟩
  · refine foldl_counts (n := fun z k => (z.thr k).st) (key := fun x : Acc × List Byte => x.1.p.2)
      (w := fun x => if ownSlice (s.thr x.1.p.2).core x.1.at_ then 0 else 1) .refl .trans l s hstep hn
      (fun z hz x hx x' hx' => ?_) x hx
    obtain ⟨g, -, he⟩ := startStore_eq (s := z) (h x hx) batch req elem x.2
    have hthr : ∀ (y : State) (f : Flight → Flight) k, (y.updFly f).thr k = y.thr k := fun _ _ _ => rfl
    rw [he, hthr, start_st _ _ _ _ _ _ _ _ (by rw [hz.1.size]; exact hk x' hx'), hz.1.core]
    by_cases ho : ownSlice (s.thr x.1.p.2).core x.1.at_ <;> simp [ho]
  · refine foldl_brings .refl .trans (P := fun x z => UnderWay x.1.p.2 s.pc (storeOf s x) z) l s hstep
      (fun _ _ _ => UnderWay.started) (fun z hz x hx => ?_) x hx
    obtain ⟨g, hg, he⟩ := startStore_eq (s := z) (h x hx) batch req elem x.2
    obtain ⟨o, hops, hthread, hpc, hkind⟩ := start_ops z x.1.p batch x.1.va .zero 0
      (if !ownSlice (z.thr x.1.p.2).core x.1.at_ then some .st else none) (storeOf z (x.1, x.2))
    have hkind' : storeOf z (x.1, x.2) = storeOf s x := by rw [storeOf, storeOf, hz.1.core]
    rw [he]
    refine UnderWay.started (z := z.start ..) ⟨o, hops ▸ by simp, ?_⟩ (marked_started hg _)
    rw [opShape, hthread, hpc, hkind, hkind', hz.1.pc]
    rfl

/-- Stores are queued from `s` to `u`: one for each participant, counted unless it goes to its core's own slice; and memory is as it was. -/
def StoresQueued (s u : State) (ps : List (Nat × Nat)) (at_ : Nat × Nat → Place) (bytes : Nat × Nat → List Byte) : Prop :=
  SameMemory s u ∧ ∀ p ∈ ps, (u.thr p.2).st = (s.thr p.2).st + (if ownSlice (s.thr p.2).core (at_ p) then 0 else 1) ∧
    ∃ o ∈ u.fly.ops, o.thread = p.2 ∧ o.pc = s.pc ∧ ∃ shown,
      o.kind = .store (at_ p) (bytes p) shown (!ownSlice (s.thr p.2).core (at_ p))

/-- The unit goes on over what has been put under way. -/
theorem goesOn_started {s z t : State} (hu : Untraced s) (hz : Begun s z) (ht : Started z t) (g c : Nat) :
    SameMemory s (goesOn s t g c State.advance) ∧ (goesOn s t g c State.advance).fly.ops = t.fly.ops := by
  obtain ⟨us, ts, cs, hg⟩ := goesOn_moved ((hz.trans ht.1).untraced hu) s g c
  rw [hg]
  exact ⟨(hz.trans ht.1).memory, rfl⟩

/-- The stores of participants, put under way one after the other over a state that has the threads of `s`. -/
theorem stores_queued {s z t : State} (hu : Untraced s) (hz : Begun s z) (hthreads : z.threads = s.threads) {ps : List (Nat × Nat)}
    (hn : (ps.map Prod.snd).Nodup) (hk : ∀ p ∈ ps, p.2 < s.threads.length) {at_ : Nat × Nat → Place}
    (hat : ∀ p ∈ ps, ∀ e o, at_ p ≠ .peer e o) {va : Nat × Nat → Nat} {n : Nat} {bytes : Nat × Nat → List Byte} {batch : Nat}
    {req : Option Nat} {elem : Bool}
    (ht : Started ((ps.map fun p => ((⟨p, va p, at_ p, n⟩ : Acc), bytes p)).foldl (fun z a => z.startStore batch req elem a.1 a.2) z) t)
    (hsame : t.threads = ((ps.map fun p => ((⟨p, va p, at_ p, n⟩ : Acc), bytes p)).foldl
      (fun z a => z.startStore batch req elem a.1 a.2) z).threads) (g c : Nat) :
    t.unit = s.unit ∧ StoresQueued s (goesOn s t g c State.advance) ps at_ bytes := by
  have hthr : ∀ k, z.thr k = s.thr k := fun k => by rw [State.thr, hthreads, State.thr]
  obtain ⟨hall, heach⟩ := startStore_fold (s := z) (l := ps.map fun p => ((⟨p, va p, at_ p, n⟩ : Acc), bytes p)) 
    (List.forall_mem_map.mpr hat) (by rw [List.map_map]; exact hn) (List.forall_mem_map.mpr (hthreads ▸ hk)) batch req elem
  obtain ⟨hmem, hops⟩ := goesOn_started hu hz (hall.trans ht) g c
  refine ⟨((hall.trans ht).1.unit).trans hz.unit, hmem, fun p hp => ?_⟩
  obtain ⟨hst, hop⟩ := heach _ (List.mem_map_of_mem hp)
  refine ⟨?_, ?_⟩
  · rw [goesOn_steady (part := Thread.st) (fun _ _ _ _ _ => rfl), State.thr, hsame, ← State.thr, hst, hthr]
  · rw [hops, ← hz.pc, ← hthr]
    exact (hop.started ht).store

section

variable {s z : State} (hu : Untraced s) (hz : Begun s z) (hthreads : z.threads = s.threads) {ps : List (Nat × Nat)}
  (hn : (ps.map Prod.snd).Nodup) (hk : ∀ p ∈ ps, p.2 < s.threads.length) {at_ : Nat × Nat → Place}
  (hat : ∀ p ∈ ps, ∀ e o, at_ p ≠ .peer e o) (va : Nat × Nat → Nat) (n : Nat) (bytes : Nat × Nat → List Byte) (g c : Nat)
include hu hz hthreads hn hk hat

theorem startStores_queued :
    (z.startStores (ps.map fun p => ((⟨p, va p, at_ p, n⟩ : Acc), bytes p))).unit = s.unit ∧
      StoresQueued s (goesOn s (z.startStores (ps.map fun p => ((⟨p, va p, at_ p, n⟩ : Acc), bytes p))) g c State.advance) ps at_ bytes := by
  have ha := accessed_noted (hz.untraced hu) z.nextId ((ps.map fun p => ((⟨p, va p, at_ p, n⟩ : Acc), bytes p)).map Prod.fst)
  have hpeer : ∀ a ∈ (ps.map fun p => ((⟨p, va p, at_ p, n⟩ : Acc), bytes p)).map Prod.fst, ∀ e o, a.at_ ≠ .peer e o := by
    rw [List.map_map]
    exact List.forall_mem_map.mpr hat
  unfold State.startStores
  dsimp only
  rw [askLine_here _ hpeer]
  split
  · exact stores_queued hu (hz.trans ha.begun) ((ha.same State.threads).trans hthreads) hn hk hat
      ((charged_started ..).trans (showAll_started ..)) rfl g c
  · exact stores_queued hu (hz.trans ha.begun) ((ha.same State.threads).trans hthreads) hn hk hat (charged_started ..) rfl g c

theorem startElems_queued :
    (z.startElems (ps.map fun p => ((⟨p, va p, at_ p, n⟩ : Acc), bytes p))).unit = s.unit ∧
      StoresQueued s (goesOn s (z.startElems (ps.map fun p => ((⟨p, va p, at_ p, n⟩ : Acc), bytes p))) g c State.advance) ps at_ bytes := by
  have ha := accessed_noted (hz.untraced hu) z.nextId ((ps.map fun p => ((⟨p, va p, at_ p, n⟩ : Acc), bytes p)).map Prod.fst)
  exact stores_queued hu (hz.trans ha.begun) ((ha.same State.threads).trans hthreads) hn hk hat (charged_started ..) rfl g c

end

/-- A thread without an atomic under way is not held up by one. -/
theorem accHeld_idle {s : State} {ps : List (Nat × Nat)} (h : ∀ p ∈ ps, s.atomicDue p.2 = false) (f : Nat × Nat → Except Trap Place) :
    s.accHeld ps f = false := by
  refine List.any_eq_false.mpr fun p hp => ?_
  rw [Bool.not_eq_true]
  refine List.any_eq_false.mpr fun o ho => ?_
  have hd := List.any_eq_false.mp (h p hp) o ho
  simp only [Bool.and_eq_true, not_and] at hd ⊢
  intro ht
  have hk := hd ht
  split
  next hkind _ => simp [hkind] at hk
  · exact Bool.false_ne_true

/-- A store that finds room on ctr.st, or counts nothing there. -/
theorem storeFull_room {s : State} {p : Nat × Nat} {q : Place} (h : ownSlice (s.thr p.2).core q = true ∨ (s.thr p.2).st < 63) :
    s.storeFull p (.ok q) = false := by
  unfold State.storeFull
  obtain h | h := h
  · simp [h]
  · simp [Nat.not_le.mpr h]

theorem parts_lanes (s : State) (g : Nat) : (s.parts g).Sublist s.unit.lanes := List.filter_sublist

/-- The participants of a unit are threads that exist, each once. -/
theorem unitOk_participants {s : State} (h : UnitOk s) {ps : List (Nat × Nat)} (hs : ps.Sublist s.unit.lanes) :
    (ps.map Prod.snd).Nodup ∧ ∀ p ∈ ps, p.2 < s.threads.length :=
  ⟨(hs.map _).nodup h.once, fun p hp => h.threads p (hs.subset hp)⟩

/-- What a released store starts from. -/
theorem settled_begun (s : State) (ok : List (Nat × Nat)) (m : Nat) (sc : Scope) : Begun s ((s.settleLoads ok).shadowRelease m sc) :=
  (settleLoads_sampled s ok).begun.trans (shadowRelease_begun ..)

theorem settled_threads (s : State) (ok : List (Nat × Nat)) (m : Nat) (sc : Scope) :
    ((s.settleLoads ok).shadowRelease m sc).threads = s.threads := by
  have hr : ∀ z : State, (z.shadowRelease m sc).threads = z.threads := fun z => by
    unfold State.shadowRelease
    split <;> rfl
  exact (hr _).trans (Noted.same (s := { s with fly := { s.fly with ops := (s.settleLoads ok).fly.ops } }) (settleLoads_sampled s ok)
    State.threads)

section

variable {s : State} {d a b : Opnd} {t : MemTy} {at_ : Nat × Nat → Place} (hs : UnitOk s) (hu : Untraced s)
  (hat : ∀ p ∈ s.parts 0, s.atomicDue p.2 = false ∧ ∀ e o, at_ p ≠ .peer e o)
  (hroom : ∀ p ∈ s.parts 0, ownSlice (s.thr p.2).core (at_ p) = true ∨ (s.thr p.2).st < 63)
include hs hu hat

section

include hroom

theorem st_queues {rel : Bool} (hi : Issues s 0 [srcUse d t.words 4, srcUse a 2 2, srcUse b 1 1])
    (hrel : rel = true → ∀ p ∈ s.parts 0, s.releaseStatus p = .ready)
    (htr : ∀ p ∈ s.parts 0, s.globAt (s.globVa p a b) (memBytes t) 2 2 = .ok (at_ p)) :
    ∃ u, exec (.st d a b t rel) s = .next u ∧
      StoresQueued s u (s.parts 0) at_ fun p => valBytes (memBytes t) (s.val p d t.words 4).toNat := by
  obtain ⟨hn, hk⟩ := unitOk_participants hs (parts_lanes s 0)
  obtain ⟨z, hz, hb, hthreads⟩ : ∃ z, (if rel && decide (s.parts 0 ≠ []) then
      (s.settleLoads (s.parts 0)).shadowRelease s.unitTeam (s.scopeOf .core) else s) = z ∧ Begun s z ∧ z.threads = s.threads := by
    split
    exacts [⟨_, rfl, settled_begun .., settled_threads ..⟩, ⟨_, rfl, .refl s, rfl⟩]
  rw [exec_st, execSt]
  refine run_next hi (fun p hp => ?_) (fun _ => ?_) (fun p hp => ?_) rfl fun t' ht => ?_
  · dsimp only
    split
    next hr => exact hrel hr p hp
    · rfl
  · dsimp only
    rw [accHeld_idle fun p hp => (hat p hp).1, Bool.false_or]
    refine List.any_eq_false.mpr fun p hp => ?_
    rw [htr p hp, storeFull_room (hroom p hp)]
    exact Bool.false_ne_true
  · dsimp only
    rw [htr p hp]
    rfl
  · subst ht
    dsimp only
    rw [hz, accsOf_ok htr, List.map_map]
    obtain ⟨hunit, hq⟩ := startStores_queued hu hb hthreads hn hk (fun p hp => (hat p hp).2) (fun p => (s.globVa p a b).toNat) (memBytes t)
      (fun p => valBytes (memBytes t) (s.val p d t.words 4).toNat) 0 2
    exact ⟨(congrArg IssueUnit.lanes hunit).symm ▸ hi.lanes, hq⟩

theorem sts_queues (hi : Issues s 0 [srcUse d t.words 4, srcUse a 1 2, srcUse b 1 1])
    (htr : ∀ p ∈ s.parts 0, s.spadAt (s.spadVa p a b) (memBytes t) 2 = .ok (at_ p) ∧
      s.waitMeets p.2 (intVa (s.spadVa p a b)) (memBytes t) = false) :
    ∃ u, exec (.sts d a b t) s = .next u ∧
      StoresQueued s u (s.parts 0) at_ fun p => valBytes (memBytes t) (s.val p d t.words 4).toNat := by
  obtain ⟨hn, hk⟩ := unitOk_participants hs (parts_lanes s 0)
  rw [exec_sts, execSts]
  refine run_next hi (fun _ _ => rfl) (fun _ => ?_) (fun p hp => ?_) rfl fun t' ht => ?_
  · refine List.any_eq_false.mpr fun p hp => ?_
    obtain ⟨hspad, hwait⟩ := htr p hp
    dsimp only
    rw [hspad, storeFull_room (hroom p hp), hwait]
    exact Bool.false_ne_true
  · dsimp only
    rw [(htr p hp).1]
    rfl
  · subst ht
    dsimp only
    rw [accsOf_ok fun p hp => (htr p hp).1, List.map_map]
    obtain ⟨hunit, hq⟩ := startStores_queued hu (.refl s) rfl hn hk (fun p hp => (hat p hp).2) (fun p => intVa (s.spadVa p a b))
      (memBytes t) (fun p => valBytes (memBytes t) (s.val p d t.words 4).toNat) 0 2
    exact ⟨(congrArg IssueUnit.lanes hunit).symm ▸ hi.lanes, hq⟩

end

theorem gst_queues {sx iw : Bool} {base sz sh : Nat} (hi : Issues s 0 (gatherUses d (if sz = 3 then 2 else 1) base b))
    (hown : ∀ p ∈ s.indexed b iw sx (s.parts 0), s.gatherStatus p base (some (d, if sz = 3 then 2 else 1)) = .ready ∧ (s.thr p.2).st < 63)
    (htr : ∀ p ∈ s.indexed b iw sx (s.parts 0), s.globAt (s.gatherVa p base b iw sx sh) (2 ^ sz) 2 2 = .ok (at_ p)) :
    ∃ u, exec (.gst d base sz sx b false iw sh) s = .next u ∧ StoresQueued s u (s.indexed b iw sx (s.parts 0)) at_
      fun p => valBytes (2 ^ sz) (s.val p d (if sz = 3 then 2 else 1) 0).toNat := by
  have hsub : (s.indexed b iw sx (s.parts 0)).Sublist (s.parts 0) := List.filter_sublist
  obtain ⟨hn, hk⟩ := unitOk_participants hs (hsub.trans (parts_lanes s 0))
  have hmem : ∀ p ∈ s.parts 0, (s.gatherIndex p b iw sx).isSome = true → p ∈ s.indexed b iw sx (s.parts 0) :=
    fun p hp hx => List.mem_filter.mpr ⟨hp, hx⟩
  obtain ⟨z, hz, hb, hthreads⟩ : ∃ z, (if s.indexed b iw sx (s.parts 0) = [] then s else s.charge s.unitCtx.num s.unit.core 2) = z ∧
      Begun s z ∧ z.threads = s.threads := by
    split
    exacts [⟨_, rfl, .refl s, rfl⟩, ⟨_, rfl, (charge_noted ..).begun, rfl⟩]
  rw [exec_gst, execGst]
  simp only [and_true]
  refine run_next hi (fun p hp => ?_) (fun _ => ?_) (fun p hp => ?_) rfl fun t' ht => ?_
  · dsimp only
    split
    next hx => exact (hown p (hmem p hp hx)).1
    · rfl
  · dsimp only
    rw [accHeld_idle fun p hp => (hat p (hsub.subset hp)).1, Bool.false_or]
    refine List.any_eq_false.mpr fun p hp => ?_
    simp [Nat.not_le.mpr (hown p hp).2]
  · dsimp only
    split
    · rfl
    next hx =>
      rw [htr p (hmem p hp (Option.isSome_iff_ne_none.mpr (by simpa using hx)))]
      rfl
  · subst ht
    dsimp only
    rw [hz, accsOf_ok htr, List.map_map]
    obtain ⟨hunit, hq⟩ := startElems_queued hu hb hthreads hn hk (fun p hp => (hat p (hsub.subset hp)).2)
      (fun p => (s.gatherVa p base b iw sx sh).toNat) (2 ^ sz) (fun p => valBytes (2 ^ sz) (s.val p d (if sz = 3 then 2 else 1) 0).toNat) 0 0
    exact ⟨(congrArg IssueUnit.lanes hunit).symm ▸ hi.lanes, hq⟩

end

/-- Settles O23: the stores start one after the other, over the state that a release leaves; each counts for its own thread. -/
theorem storesAreQueued : Obligations.StoresAreQueued := by
  unfold Obligations.StoresAreQueued
  exact fun s d a b t rel sx iw base sz sh at_ hs hu hat hroom => ⟨fun hi hrel htr => st_queues hs hu hat hroom hi hrel htr,
    fun hi htr => sts_queues hs hu hat hroom hi htr, fun hi hown htr => gst_queues hs hu hat hi hown htr⟩

end Sys2Proof.Proofs
end

section
/-! PROOFS. Atomics that are queued (R240, R262 to R264). -/

namespace Sys2Proof.Proofs

open Sys2Proof.Machine Sys2Proof.Safety Sys2Proof.Laws

theorem exec_atom (d a : Opnd) (nr : Bool) (o : Aop) (t : ATy) (r : MOrd) (g : Nat) (s : State) :
    exec (.atom d a nr o t r g) s = execAtom d a nr o t r g s := rfl

theorem exec_cas (d a : Opnd) (w64 : Bool) (r : MOrd) (g : Nat) (s : State) : exec (.cas d a w64 r g) s = execCas d a w64 r g s := rfl

/-- The scope that an acquiring atomic keeps. -/
theorem acqScope_eq (r : MOrd) (sc : Scope) :
    (if ordAcq r then some sc else none) = if r = .acq ∨ r = .ar then some sc else none := by
  cases r <;> rfl

/-- What the atomics of a word have in common: operator, type, destination, whether they return, and the scope they acquire at. -/
structure AtomicSpec where
  aop : Nat
  ty : ATy
  d : Opnd
  ret : Bool
  acq : Option Scope

/-- The atomic that an access puts under way, with operand `x` and comparand `c`. -/
def AtomicSpec.kind (m : AtomicSpec) (at_ : Place) (x c : Dword) (lead : Bool) : OpKind :=
  .atomic at_ m.aop m.ty x c (if m.ret then dstFor m.d lead else .zero) m.ret m.acq

theorem startAtomic_eq {s : State} {m : AtomicSpec} {a : Acc} (h : ∀ e o, a.at_ ≠ .peer e o) (x c : Dword) (batch : Nat) (lead : Bool) :
    s.startAtomic m.aop m.ty x c m.d m.ret m.acq batch lead a =
      s.start a.p batch a.va (if m.ret then dstFor m.d lead else .zero) (if m.ret then atyWords m.ty else 0)
        (if m.ret then none else some .st) (m.kind a.at_ x c lead) := by
  unfold State.startAtomic
  dsimp only
  split
  next e off he => exact absurd he (h e off)
  · rfl

theorem UnderWay.atomic {k : Nat} {pc : Dword} {q : Place} {aop : Nat} {ty : ATy} {x c : Dword} {d : Opnd} {ret : Bool}
    {acq : Option Scope} {z : State} (h : UnderWay k pc (.atomic q aop ty x c d ret acq) z) :
    ∃ o ∈ z.fly.ops, o.thread = k ∧ o.pc = pc ∧ o.kind = .atomic q aop ty x c d ret acq := by
  obtain ⟨o, ho, hs⟩ := h
  obtain ⟨hk, hpc, hkind⟩ : o.thread = k ∧ o.pc = pc ∧ (opShape o).2.2.2 = .atomic q aop ty x c d ret acq := by
    simpa [opShape, Prod.ext_iff] using hs
  refine ⟨o, ho, hk, hpc, ?_⟩
  unfold opShape at hkind
  split at hkind
  · exact nomatch hkind
  · exact hkind

section

variable (m : AtomicSpec) (x c : Nat × Nat → Dword) (lead : Nat × Nat → Bool) (batch : Nat)

/-- Puts a participant's atomic under way. -/
def atomicStep (z : State) (a : Acc) : State := z.startAtomic m.aop m.ty (x a.p) (c a.p) m.d m.ret m.acq batch (lead a.p) a

variable {s : State} {l : List Acc} (h : ∀ a ∈ l, ∀ e o, a.at_ ≠ .peer e o)
include h

theorem startAtomic_fold :
    Started s (l.foldl (atomicStep m x c lead batch) s) ∧ ∀ a ∈ l,
      UnderWay a.p.2 s.pc (m.kind a.at_ (x a.p) (c a.p) (lead a.p)) (l.foldl (atomicStep m x c lead batch) s) := by
  have hstep : ∀ z, ∀ a ∈ l, Started z (atomicStep m x c lead batch z a) := fun z a ha => by
    rw [atomicStep, startAtomic_eq (h a ha)]
    exact start_started ..
  refine ⟨foldl_related .refl .trans l s hstep, fun a ha => ?_⟩
  refine foldl_brings .refl .trans (P := fun a z => UnderWay a.p.2 s.pc (m.kind a.at_ (x a.p) (c a.p) (lead a.p)) z) l s hstep
    (fun _ _ _ => UnderWay.started) (fun z hz a ha => ?_) a ha
  rw [atomicStep, startAtomic_eq (h a ha)]
  obtain ⟨o, hops, hthread, hpc, hkind⟩ := start_ops z a.p batch a.va (if m.ret then dstFor m.d (lead a.p) else .zero)
    (if m.ret then atyWords m.ty else 0) (if m.ret then none else some .st) (m.kind a.at_ (x a.p) (c a.p) (lead a.p))
  refine ⟨o, hops ▸ by simp, ?_⟩
  rw [opShape, hthread, hpc, hkind, hz.1.pc]
  rfl

/-- Atomics that return nothing count on ctr.st. -/
theorem startAtomic_st (hret : m.ret = false) (hn : (l.map fun a => a.p.2).Nodup) (hk : ∀ a ∈ l, a.p.2 < s.threads.length) :
    ∀ a ∈ l, ((l.foldl (atomicStep m x c lead batch) s).thr a.p.2).st = (s.thr a.p.2).st + 1 := by
  have hstep : ∀ z, ∀ a ∈ l, Started z (atomicStep m x c lead batch z a) := fun z a ha => by
    rw [atomicStep, startAtomic_eq (h a ha)]
    exact start_started ..
  refine foldl_counts (n := fun z k => (z.thr k).st) (key := fun a : Acc => a.p.2) (w := fun _ => 1) .refl .trans l s hstep hn
    fun z hz a ha a' ha' => ?_
  rw [atomicStep, startAtomic_eq (h a ha), start_st _ _ _ _ _ _ _ _ (by rw [hz.1.size]; exact hk a' ha'), hret]
  simp

end

section

variable {s : State} {g : Nat} {r : MOrd} {at_ : Nat × Nat → Place} (hs : UnitOk s) (hu : Untraced s)
  (hat : ∀ p ∈ s.parts g, s.atomicDue p.2 = false ∧ ∀ e o, at_ p ≠ .peer e o)
  (hrel : ordRel r = true → ∀ p ∈ s.parts g, s.releaseStatus p = .ready)
include hs hu hat hrel

/-- An atomic word's participants each have their atomic under way; and memory is as it was. -/
theorem atomicWork_queues {uses : List Use} {a d : Opnd} {aop : Nat} {ty : ATy} {x c : State → Nat × Nat → Dword} {ret : Bool}
    (hi : Issues s g (uses ++ [srcUse a 2 0]))
    (htr : ∀ p ∈ s.parts g, s.globAt (s.src64 p a) (atyBytes ty) 3 3 = .ok (at_ p) ∧
      s.unflushedTrap (s.src64 p a).toNat (at_ p) 3 = none)
    (hroom : ret = false → ∀ p ∈ s.parts g, (s.thr p.2).st < 63) :
    ∃ u, s.run (atomicWork uses a aop ty x c d ret r g) = .next u ∧
      (SameMemory s u ∧ ∀ p ∈ s.parts g, ∃ o ∈ u.fly.ops, o.thread = p.2 ∧ o.pc = s.pc ∧
        o.kind = .atomic (at_ p) aop ty (x s p) (c s p) (if ret then dstFor d ((s.parts g).head? == some p) else .zero) ret
          (if ordAcq r then some (s.scopeOf .dev) else none)) ∧
      (ret = false → ∀ p ∈ s.parts g, (u.thr p.2).st = (s.thr p.2).st + 1) := by
  obtain ⟨hn, hk⟩ := unitOk_participants hs (parts_lanes s g)
  obtain ⟨z, hz, hb, hthreads⟩ : ∃ z, (if ordRel r && decide (s.parts g ≠ []) then
      (s.settleLoads (s.parts g)).shadowRelease s.unitTeam (s.scopeOf .dev) else s) = z ∧ Begun s z ∧ z.threads = s.threads := by
    split
    exacts [⟨_, rfl, settled_begun .., settled_threads ..⟩, ⟨_, rfl, .refl s, rfl⟩]
  refine run_next hi (fun p hp => ?_) (fun _ => ?_) (fun p hp => ?_) rfl fun t' ht => ?_
  · dsimp only [atomicWork]
    split
    next hr => exact hrel hr p hp
    · rfl
  · dsimp only [atomicWork]
    rw [accHeld_idle fun p hp => (hat p hp).1, Bool.false_or]
    cases ret with
    | true => rfl
    | false =>
      refine List.any_eq_false.mpr fun p hp => ?_
      simp [Thread.ctr, Nat.not_le.mpr (hroom rfl p hp)]
  · dsimp only [atomicWork]
    rw [(htr p hp).1]
    exact (htr p hp).2
  · let m : AtomicSpec := ⟨aop, ty, d, ret, if ordAcq r then some (s.scopeOf .dev) else none⟩
    let l := (s.parts g).map fun p => (⟨p, (s.src64 p a).toNat, at_ p, atyBytes ty⟩ : Acc)
    have hlead : l.head?.map Acc.p = (s.parts g).head? := by
      rw [List.head?_map, Option.map_map]
      exact Option.map_id'
    have hact : t' = (l.foldl (atomicStep m (x s) (c s) (fun p => (s.parts g).head? == some p) s.nextId)
        (z.accessed s.nextId l)).charged s.nextId l fun _ => [] := by
      rw [← ht]
      dsimp only [atomicWork]
      rw [hz, accsOf_ok fun p hp => (htr p hp).1, hlead]
      rfl
    have hpeer : ∀ a ∈ l, ∀ e o, a.at_ ≠ .peer e o := List.forall_mem_map.mpr fun p hp => (hat p hp).2
    have ha := accessed_noted (hb.untraced hu) s.nextId l
    have hb' := hb.trans ha.begun
    have hthreads' : (z.accessed s.nextId l).threads = s.threads := (ha.same State.threads).trans hthreads
    have hthr : ∀ k, (z.accessed s.nextId l).thr k = s.thr k := fun k => by rw [State.thr, hthreads', State.thr]
    obtain ⟨hall, heach⟩ := startAtomic_fold m (x s) (c s) (fun p => (s.parts g).head? == some p) s.nextId (s := z.accessed s.nextId l) hpeer
    have hall' := hall.trans (charged_started _ s.nextId l fun _ => [])
    obtain ⟨hmem, hops⟩ := goesOn_started hu hb' hall' g 2
    subst hact
    refine ⟨(congrArg IssueUnit.lanes (hall'.1.unit.trans hb'.unit)).symm ▸ hi.lanes, ⟨hmem, fun p hp => ?_⟩, fun hret p hp => ?_⟩
    · have hop := ((heach _ (List.mem_map_of_mem hp)).started (charged_started _ s.nextId l fun _ => [])).atomic
      rw [hb'.pc, ← hops] at hop
      exact hop
    · have hst := startAtomic_st m (x s) (c s) (fun p => (s.parts g).head? == some p) s.nextId (s := z.accessed s.nextId l) hpeer hret
        (by rw [List.map_map]; exact hn) (List.forall_mem_map.mpr (hthreads' ▸ hk)) _ (List.mem_map_of_mem hp)
      rw [hthr] at hst
      exact (goesOn_steady (part := Thread.st) (fun _ _ _ _ _ => rfl) ..).trans hst

end

/-- Settles O24: ATOM and CAS are one work, whose atomics start one after the other over the state that a release leaves. -/
theorem atomicsAreQueued : Obligations.AtomicsAreQueued := by
  unfold Obligations.AtomicsAreQueued
  intro s d a nr w64 op t r g at_ hs hu hat hrel
  refine ⟨fun hi haim hroom => ?_, fun hi haim => ?_⟩
  · obtain ⟨u, he, ⟨hmem, hops⟩, hst⟩ := atomicWork_queues (uses := [srcUse d (atyWords t) 0]) (ret := !nr) (d := d) (aop := aopCode op)
      (x := fun s p => s.val p d (atyWords t) 0) (c := fun _ _ => 0) hs hu hat hrel hi haim fun h => hroom (by simpa using h)
    simp only [acqScope_eq] at hops
    exact ⟨u, he, ⟨hmem, hops⟩, fun h => hst (by simp [h])⟩
  · have hbytes : atyBytes (if w64 then .n64 else .n32) = 4 * if w64 then 2 else 1 := by
      cases w64 <;> rfl
    obtain ⟨u, he, ⟨hmem, hops⟩, -⟩ := atomicWork_queues (uses := [srcUse d (2 * if w64 then 2 else 1) 0]) (ret := true) (d := d) (aop := 7)
      (ty := if w64 then .n64 else .n32) (x := fun s p => s.val p (opndPlus d (if w64 then 2 else 1)) (if w64 then 2 else 1) 0)
      (c := fun s p => s.val p d (if w64 then 2 else 1) 0) hs hu hat hrel hi (hbytes ▸ haim) nofun
    simp only [acqScope_eq] at hops
    exact ⟨u, he, hmem, hops⟩

end Sys2Proof.Proofs
end

section
/-! PROOFS. Reservations, and matrix reads by every participant (R275, R302, R305, R315, R317). -/

namespace Sys2Proof.Proofs

open Sys2Proof.Machine Sys2Proof.Safety Sys2Proof.Laws

theorem exec_mrsv (d : Opnd) (q g : Nat) (s : State) : exec (.mrsv d q g) s = execMrsv d q g s := rfl

theorem exec_mstatEng (d : Opnd) (r k g : Nat) (s : State) : exec (.mstatEng d r k g) s = execMstatEng d r k g s := rfl

theorem exec_mstatAcc (d : Opnd) (r k g : Nat) (s : State) : exec (.mstatAcc d r k g) s = execMstatAcc d r k g s := rfl

theorem exec_mdrainReg (r k : Nat) (a : Opnd) (col rowb g : Nat) (s : State) :
    exec (.mdrainReg r k a col rowb g) s = execMdrainReg r k a col rowb g s := rfl

/-! Reservations. -/

/-- The first position from `k` on with a property: what stands there has it, and nothing before it. -/
theorem posFrom_spec {α : Type} {p : α → Bool} {l : List α} {k n : Nat} (h : posFrom p k l = some n) :
    k ≤ n ∧ (∃ x, l[n - k]? = some x ∧ p x = true) ∧ ∀ m, k ≤ m → m < n → ∃ x, l[m - k]? = some x ∧ p x = false := by
  induction l generalizing k with
  | nil => exact nomatch h
  | cons x r ih =>
    unfold posFrom at h
    split at h
    next hx =>
      cases h
      exact ⟨le_refl _, ⟨x, by simp, hx⟩, fun m hk hm => absurd hk (Nat.not_le.mpr hm)⟩
    next hx =>
      obtain ⟨hk, ⟨y, hy, hp⟩, hbefore⟩ := ih h
      have hshift : ∀ m, k + 1 ≤ m → (x :: r)[m - k]? = r[m - (k + 1)]? := fun m hm => by
        obtain ⟨j, rfl⟩ := Nat.exists_eq_add_of_le hm
        rw [Nat.add_sub_cancel_left, show k + 1 + j - k = j + 1 by omega, List.getElem?_cons_succ]
      refine ⟨by omega, ⟨y, by rw [hshift n hk, hy], hp⟩, fun m hkm hm => ?_⟩
      obtain rfl | hkm := Nat.eq_or_lt_of_le hkm
      · exact ⟨x, by simp, by simpa using hx⟩
      · rw [hshift m hkm]
        exact hbefore m hkm hm

/-- MRSV's reservation is the first that is free, of an engine of its order that is free. -/
theorem freeResv_spec {s : State} {e n : Nat} (h : s.freeResv = some (e, n)) : s.engineFree e = true ∧ e ∈ s.engineOrder ∧
    (∀ m < n, ((s.team s.unitTeam).resv m).held = true) ∧ ((s.team s.unitTeam).resv n).held = false := by
  unfold State.freeResv at h
  split at h
  next x y he hn =>
    obtain ⟨rfl, rfl⟩ : x = e ∧ y = n := by simpa using h
    obtain ⟨-, ⟨r, hr, hfree⟩, hbefore⟩ := posFrom_spec hn
    refine ⟨List.find?_some he, List.mem_of_find?_eq_some he, fun m hm => ?_, ?_⟩
    · obtain ⟨r', hr', hheld⟩ := hbefore m (Nat.zero_le m) hm
      rw [Team.resv, show (s.team s.unitTeam).resvs[m]? = some r' from hr']
      simpa using hheld
    · rw [Team.resv, show (s.team s.unitTeam).resvs[y]? = some r from hr]
      simpa using hfree
  · exact nomatch h

section

variable {s : State} {d : Opnd} {q g : Nat} (hi : Issues s g [dstUse d 1 false]) (hne : s.parts g ≠ [])
include hi hne

theorem mrsv_reserves {e n : Nat} (h : s.freeResv = some (e, n)) : exec (.mrsv d q g) s = does s g 2 fun t =>
    ((t.updResv s.unitTeam n fun _ => { held := true, eng := e }).putDst (s.parts g) d fun _ =>
      [BitVec.ofNat 32 n]).putPred (s.parts g) q fun _ => true := by
  refine run_effect hi (fun _ _ => rfl) (fun _ => rfl) (fun _ _ => rfl) ?_ ?_ rfl
  · dsimp only
    rw [if_neg hne, h]
  · dsimp only
    rw [State.putPred, each_unit, putDst_unit]
    exact hi.lanes

theorem mrsv_refuses (h : s.freeResv = none) : exec (.mrsv d q g) s = does s g 2 fun t =>
    (t.putDst (s.parts g) d fun _ => [0xFFFFFFFF]).putPred (s.parts g) q fun _ => false := by
  refine run_effect hi (fun _ _ => rfl) (fun _ => rfl) (fun _ _ => rfl) ?_ ?_ rfl
  · dsimp only
    rw [if_neg hne, h]
  · dsimp only
    rw [State.putPred, each_unit, putDst_unit]
    exact hi.lanes

end

theorem mstatEng_reads {s : State} {d : Opnd} {r k g : Nat} (hi : Issues s g [dstUse d 2 false])
    (h : s.resvTrap s.unitTeam r true = none) : exec (.mstatEng d r k g) s = writes s g 2 d fun _ =>
      [((s.team s.unitTeam).resv r).bfetch, BitVec.ofNat 32
        ((if s.engineFenced ((s.team s.unitTeam).resv r).eng then 1 else 0) +
          8 * (((s.team s.unitTeam).resv r).eng / 4 % 6) + 64 * (((s.team s.unitTeam).resv r).eng % 4))] :=
  run_effect hi (fun _ _ => rfl) (fun _ => rfl) (fun _ _ => h) rfl (by rw [putDst_unit]; exact hi.lanes) rfl

/-! Operations of every participant. -/

/-- What each step of a fold brings about for its own key, and the steps of other keys keep. -/
theorem foldl_brings_apart {σ α : Type} {R : σ → σ → Prop} {f : σ → α → σ} {key : α → Nat} {P : α → σ → Prop} (hr : ∀ z, R z z)
    (ht : ∀ {x y z}, R x y → R y z → R x z) (l : List α) (s : σ) (hl : (l.map key).Nodup) (h : ∀ z, ∀ x ∈ l, R z (f z x))
    (hp : ∀ z, ∀ x ∈ l, ∀ x' ∈ l, key x ≠ key x' → P x z → P x (f z x')) (hn : ∀ z, R s z → ∀ x ∈ l, P x (f z x)) :
    ∀ x ∈ l, P x (l.foldl f s) := by
  induction l generalizing s with
  | nil => exact fun _ hx => nomatch hx
  | cons y r ih =>
    obtain ⟨hy, hl⟩ := List.nodup_cons.mp hl
    intro x hx
    obtain rfl | hx := List.mem_cons.mp hx
    · have hkeep : ∀ (r' : List α) (z : σ), (∀ x' ∈ r', x' ∈ r) → P x z → P x (r'.foldl f z) := fun r' => by
        induction r' with
        | nil => exact fun _ _ h => h
        | cons x' r' ihr =>
          exact fun z hsub hz => ihr _ (fun w hw => hsub w (by simp [hw])) (hp z x (by simp) x' (by simp [hsub x'])
            (fun he => hy (he ▸ List.mem_map_of_mem (hsub x' (by simp)))) hz)
      exact hkeep r _ (fun _ h => h) (hn s (hr s) x (by simp))
    · exact ih (f s y) hl (fun z x hx => h z x (by simp [hx]))
        (fun z x hx x' hx' => hp z x (by simp [hx]) x' (by simp [hx']))
        (fun z hz x hx => hn z (ht (h s y (by simp)) hz) x (by simp [hx])) x hx

/-- Matrix operations have been queued: the unit, the threads and their v registers are there as before, and so is each operation. -/
structure Queued (s t : State) : Prop where
  unit : t.unit = s.unit
  size : t.threads.length = s.threads.length
  regs : ∀ k, (t.thr k).v.length = (s.thr k).v.length
  mops : ∀ o ∈ s.fly.mops, o ∈ t.fly.mops

theorem Queued.refl (s : State) : Queued s s := ⟨rfl, rfl, fun _ => rfl, fun _ h => h⟩

theorem Queued.trans {s t u : State} (h : Queued s t) (h' : Queued t u) : Queued s u :=
  ⟨h'.unit.trans h.unit, h'.size.trans h.size, fun k => (h'.regs k).trans (h.regs k), fun o ho => h'.mops o (h.mops o ho)⟩

theorem emptyDst_queued (s : State) (ok : List (Nat × Nat)) (d : Opnd) (n : Nat) (id : Nat × Nat → Nat) :
    Queued s (s.emptyDst ok d n id) := by
  have hb := emptyDst_begun s ok d n id
  refine ⟨hb.unit, hb.size, fun k => ?_, fun o ho => by rwa [emptyDst_fly]⟩
  unfold State.emptyDst
  dsimp only
  split
  · refine thr_each_part (part := fun x => x.v.length) ?_ s ok k
    exact fun _ x => length_mapFrom ..
  · split <;> rfl
  · rfl

theorem enqueue_queued (s : State) (m r k t : Nat) (pc : Dword) (kind : MKind) : Queued s (s.enqueue m r k t pc kind) :=
  ⟨rfl, rfl, fun _ => rfl, fun _ ho => List.mem_append_left _ ho⟩

/-- The registers of a destination wait for the operation that fills them. -/
theorem emptyDst_reg {s : State} {p : Nat × Nat} (hp : p.2 < s.threads.length) {n w id i : Nat} (hi : i < w)
    (hl : n + i < (s.thr p.2).v.length) : ((s.emptyDst [p] (.v n) w fun _ => id).thr p.2).reg (n + i) = .empty id := by
  have hfind : ([p].find? fun q : Nat × Nat => q.2 == p.2) = some p := by simp
  have hthr := thr_each_of_find hp hfind fun _ x =>
    { x with v := mapFrom (fun j r => if n ≤ j ∧ j < n + w then Reg.empty id else r) 0 x.v }
  unfold State.emptyDst
  dsimp only
  rw [hthr, Thread.reg, getElem?_mapFrom, List.getElem?_eq_getElem hl]
  simp [hi]

theorem emptyDst_thr_other {s : State} {p : Nat × Nat} {k : Nat} (h : p.2 ≠ k) (d : Opnd) (n : Nat) (id : Nat × Nat → Nat) :
    (s.emptyDst [p] d n id).thr k = s.thr k := by
  unfold State.emptyDst
  dsimp only
  split
  · exact thr_each_other (by simpa using h) _
  · split <;> rfl
  · rfl

theorem emptyDst_nextId (s : State) (ok : List (Nat × Nat)) (d : Opnd) (n : Nat) (id : Nat × Nat → Nat) :
    (s.emptyDst ok d n id).nextId = s.nextId := by
  unfold State.emptyDst
  dsimp only
  split
  · rfl
  · split <;> rfl
  · rfl

section

variable (r k w : Nat) (dst : Nat × Nat → Opnd) (kind : Nat × Nat → MKind)

/-- Queues a participant's operation, for which its destination waits. -/
def queueRead (z : State) (p : Nat × Nat) : State :=
  (z.emptyDst [p] (dst p) w fun _ => z.nextId).enqueue z.unitTeam r k p.2 z.pc (kind p)

/-- A participant's operation is queued, and its destination waits for it. -/
def AwaitsRead (len : Nat) (p : Nat × Nat) (z : State) : Prop :=
  ∃ o ∈ z.fly.mops, o.thread = p.2 ∧ o.res = r ∧ o.acc = k ∧ o.kind = kind p ∧
    ∀ n i, dst p = .v n → i < w → n + i < len → (z.thr p.2).reg (n + i) = .empty o.id

theorem queueRead_queued (z : State) (p : Nat × Nat) : Queued z (queueRead r k w dst kind z p) :=
  (emptyDst_queued ..).trans (enqueue_queued ..)

theorem queueRead_awaits {z : State} {p : Nat × Nat} (hp : p.2 < z.threads.length) :
    AwaitsRead r k w dst kind (z.thr p.2).v.length p (queueRead r k w dst kind z p) := by
  refine ⟨_, List.mem_append_right _ List.mem_cons_self, rfl, rfl, rfl, rfl, fun n i hd hi hl => ?_⟩
  have hthr : ∀ y : State, (y.enqueue z.unitTeam r k p.2 z.pc (kind p)).thr p.2 = y.thr p.2 := fun _ => rfl
  rw [queueRead, hthr, hd, emptyDst_reg hp hi hl, emptyDst_nextId]

theorem AwaitsRead.other {len : Nat} {p p' : Nat × Nat} {z : State} (h : AwaitsRead r k w dst kind len p z) (hp : p.2 ≠ p'.2) :
    AwaitsRead r k w dst kind len p (queueRead r k w dst kind z p') := by
  obtain ⟨o, ho, hthread, hres, hacc, hkind, hregs⟩ := h
  refine ⟨o, (queueRead_queued ..).mops o ho, hthread, hres, hacc, hkind, fun n i hd hi hl => ?_⟩
  have hthr : (queueRead r k w dst kind z p').thr p.2 = z.thr p.2 := emptyDst_thr_other (Ne.symm hp) ..
  rw [hthr]
  exact hregs n i hd hi hl

theorem queueReads_await {l : List (Nat × Nat)} {s : State} (hn : (l.map Prod.snd).Nodup) (hk : ∀ p ∈ l, p.2 < s.threads.length) :
    Queued s (l.foldl (queueRead r k w dst kind) s) ∧
      ∀ p ∈ l, AwaitsRead r k w dst kind (s.thr p.2).v.length p (l.foldl (queueRead r k w dst kind) s) := by
  refine ⟨foldl_related .refl .trans l s fun z p _ => queueRead_queued .., ?_⟩
  refine foldl_brings_apart (R := Queued) (f := queueRead r k w dst kind) (key := Prod.snd) (P := fun p z => AwaitsRead r k w dst kind (s.thr p.2).v.length p z) .refl .trans l s hn
    (fun z p _ => queueRead_queued ..) (fun z p _ p' _ hp h => h.other _ _ _ _ _ hp) fun z hz p hp => ?_
  rw [← hz.regs]
  exact queueRead_awaits _ _ _ _ _ (hz.size ▸ hk p hp)

end

/-- What is queued stays so while the unit goes on. -/
theorem AwaitsRead.goesOn {r k w len : Nat} {dst : Nat × Nat → Opnd} {kind : Nat × Nat → MKind} {p : Nat × Nat} {t : State}
    (h : AwaitsRead r k w dst kind len p t) (s : State) (g c : Nat) :
    AwaitsRead r k w dst kind len p (Safety.goesOn s t g c State.advance) := by
  obtain ⟨o, ho, hthread, hres, hacc, hkind, hregs⟩ := h
  refine ⟨o, (goesOn_onward s t g c).mops ▸ ho, hthread, hres, hacc, hkind, fun n i hd hi hl => ?_⟩
  exact (goesOn_steady (part := fun x => x.reg (n + i)) (fun _ _ _ _ _ => rfl) s t g c p.2).trans (hregs n i hd hi hl)

section

variable {s : State} {r k g : Nat} (hs : UnitOk s) (hc : ∀ q ∈ s.parts g, s.accStatus r [k] q = .ready)
include hs hc

theorem mdrainReg_queues {n col rowb : Nat} (hi : Issues s g [{ o := .v n, n := 16, vOnly := true }]) (htr : s.accTrap r [k] 2 = none) :
    ∃ t, exec (.mdrainReg r k (.v n) col rowb g) s = .next t ∧ ∀ p ∈ s.parts g, 16 * rowb + p.1 < 64 →
      AwaitsRead r k 16 (fun _ => .v n) (fun p => .drainReg p.2 n (16 * rowb + p.1) col) (s.thr p.2).v.length p t := by
  have hsub : ((s.parts g).filter fun p => decide (16 * rowb + p.1 < 64)).Sublist (s.parts g) := List.filter_sublist
  obtain ⟨hn, hk⟩ := unitOk_participants hs (hsub.trans (parts_lanes s g))
  obtain ⟨hq, hall⟩ := queueReads_await r k 16 (fun _ => .v n) (fun p => .drainReg p.2 n (16 * rowb + p.1) col) hn hk
  rw [exec_mdrainReg, execMdrainReg]
  refine run_next hi hc (fun _ => rfl) (fun _ _ => htr) rfl fun t ht => ?_
  subst ht
  refine ⟨?_, fun p hp hrow => (hall p (List.mem_filter.mpr ⟨hp, by simpa using hrow⟩)).goesOn ..⟩
  exact fun h => hi.lanes ((congrArg IssueUnit.lanes hq.unit).symm.trans h)

theorem mstatAcc_queues {d : Opnd} (hi : Issues s g [fillUse d 2]) (htr : s.resvTrap s.unitTeam r true = none) :
    ∃ t, exec (.mstatAcc d r k g) s = .next t ∧ ∃ dst : Nat × Nat → Opnd, (∀ p n, d = .v n → dst p = .v n) ∧ ∀ p ∈ s.parts g,
      AwaitsRead r k 2 dst (fun p => .stat p.2 d) (s.thr p.2).v.length p t := by
  obtain ⟨hn, hk⟩ := unitOk_participants hs (parts_lanes s g)
  let dst : Nat × Nat → Opnd := fun p => match d with | .s _ => if p = lowest (s.parts g) then d else .zero | d => d
  obtain ⟨hq, hall⟩ := queueReads_await r k 2 dst (fun p => .stat p.2 d) hn hk
  have hstep : queueRead r k 2 dst (fun p => .stat p.2 d) = fun z p => (match d with
      | .s _ => if p = lowest (s.parts g) then z.emptyDst [p] d 2 fun _ => z.nextId else z
      | d => z.emptyDst [p] d 2 fun _ => z.nextId).enqueue z.unitTeam r k p.2 z.pc (.stat p.2 d) := by
    funext z p
    unfold queueRead
    cases d with
    | s n =>
      dsimp only [dst]
      split <;> rfl
    | _ => rfl
  rw [exec_mstatAcc, execMstatAcc]
  refine run_next hi hc (fun _ => rfl) (fun _ _ => htr) rfl fun t ht => ?_
  subst ht
  rw [hstep] at hq hall
  refine ⟨?_, dst, fun p n hd => ?_, fun p hp => (hall p hp).goesOn ..⟩
  · exact fun h => hi.lanes ((congrArg IssueUnit.lanes hq.unit).symm.trans h)
  · subst hd
    rfl

end

/-- Settles O26: MRSV's reservation is the first free one; a matrix read queues its operations one after the other, each for a thread
of its own. -/
theorem reservationsAndMatrixReadsComplete : Obligations.ReservationsAndMatrixReadsComplete := by
  unfold Obligations.ReservationsAndMatrixReadsComplete
  refine ⟨fun s d q g r k => ⟨fun hi hne => ⟨fun e n h => mrsv_reserves hi hne h, fun h => mrsv_refuses hi hne h⟩,
    fun e n h => freeResv_spec h, fun hi h => mstatEng_reads hi h⟩, fun s d a r k col rowb g hs hc => ⟨fun hi htr ha => ?_, fun hi htr => ?_⟩⟩
  · obtain ⟨n, rfl⟩ := ha
    obtain ⟨t, ht, hall⟩ := mdrainReg_queues hs hc hi htr
    refine ⟨t, ht, fun p hp hrow n' hn => ?_⟩
    cases hn
    obtain ⟨o, ho, hthread, hres, hacc, hkind, hregs⟩ := hall p hp hrow
    exact ⟨o, ho, hthread, hres, hacc, hkind, fun i hi hl => hregs n i rfl hi hl⟩
  · obtain ⟨t, ht, dst, hd, hall⟩ := mstatAcc_queues hs hc hi htr
    refine ⟨t, ht, fun p hp => ?_⟩
    obtain ⟨o, ho, hthread, hres, hacc, hkind, hregs⟩ := hall p hp
    exact ⟨o, ho, hthread, hres, hacc, hkind, fun n i hn hi hl => hregs n i (hd p n hn) hi hl⟩

end Sys2Proof.Proofs
end

section
/-! PROOFS. The matrix words that act once, for the lowest-lane participant (R276, R302, R306, R307, R313 to R316). -/

namespace Sys2Proof.Proofs

open Sys2Proof.Machine Sys2Proof.Safety Sys2Proof.Laws

theorem exec_mrel (r g : Nat) (s : State) : exec (.mrel r g) s = execMrel r g s := rfl

theorem exec_minit (r k : Nat) (spad : Bool) (a b : Opnd) (g : Nat) (s : State) :
    exec (.minit r k spad a b g) s = execMinit r k spad a b g s := rfl

theorem exec_mfin (r k g : Nat) (s : State) : exec (.mfin r k g) s = execMfin r k g s := rfl

theorem exec_mguide (r k : Nat) (a : Opnd) (g : Nat) (s : State) : exec (.mguide r k a g) s = execMguide r k a g s := rfl

theorem exec_mdrainSpad (r k : Nat) (a : Opnd) (g : Nat) (s : State) : exec (.mdrainSpad r k a g) s = execMdrainSpad r k a g s := rfl

theorem exec_mdrainTree (r k : Nat) (a : Opnd) (g : Nat) (s : State) : exec (.mdrainTree r k a g) s = execMdrainTree r k a g s := rfl

theorem exec_mstore (r k : Nat) (f : SFmt) (glob : Bool) (a : Opnd) (g : Nat) (s : State) :
    exec (.mstore r k f glob a g) s = execMstore r k f glob a g s := rfl

/-! Teams, reservations and accumulators that are changed. -/

theorem team_updTeam_self {s : State} {m : Nat} (h : m < s.teams.length) (f : Team → Team) : (s.updTeam m f).team m = f (s.team m) := by
  simp [State.team, State.updTeam, getElem?_upd, h]

theorem resv_updResv_self {s : State} {m r : Nat} (hm : m < s.teams.length) (hr : r < (s.team m).resvs.length) (f : Resv → Resv) :
    ((s.updResv m r f).team m).resv r = f ((s.team m).resv r) := by
  rw [State.updResv, team_updTeam_self hm, Team.resv, getElem?_upd, if_pos rfl, List.getElem?_eq_getElem hr, Team.resv,
    List.getElem?_eq_getElem hr]
  rfl

theorem accum_upd_self {x : Resv} {k : Nat} (hk : k < x.accs.length) (f : Accum → Accum) :
    Resv.accum { x with accs := upd x.accs k f } k = f (x.accum k) := by
  rw [Resv.accum, getElem?_upd, if_pos rfl, List.getElem?_eq_getElem hk, Resv.accum, List.getElem?_eq_getElem hk]
  rfl

/-- The group's team, once the unit has gone on. -/
theorem goesOn_unitTeam (s : State) {t : State} (g c : Nat) (hl : t.unit.lanes ≠ []) :
    (goesOn s t g c State.advance).unitTeam = t.unitTeam := by
  have hl' : (t.pay (ctxAt s) s.unit.core (s.costNow c) (s.parts g)).issued.unit.lanes ≠ [] := by
    rw [issued_unit_part (part := IssueUnit.lanes) fun _ _ => rfl, pay_unit]
    exact hl
  have hg : (goesOn s t g c State.advance).unit.group = t.unit.group := by
    rw [goesOn_eq, advance_unit_group hl', issued_unit_part (part := IssueUnit.group) fun _ _ => rfl, pay_unit]
  simp only [State.unitTeam, State.grp, hg, (goesOn_onward s t g c).groups]

/-! One operation, counted on ctr.mx. -/

/-- From `s` to `t` a thread's matrix operation has been queued, and its accumulator will be as `image`. -/
structure MxQueued (s t : State) (p : Nat × Nat) (r k : Nat) (kind : MKind) (image : AccImage) : Prop where
  counted : (t.thr p.2).mx = (s.thr p.2).mx + 1
  queued : ∃ o ∈ t.fly.mops, o.thread = p.2 ∧ o.pc = s.pc ∧ o.team = s.unitTeam ∧ o.res = r ∧ o.acc = k ∧
    o.eng = ((s.team s.unitTeam).resv r).eng ∧ o.kind = kind ∧ o.started = false
  ahead : k < ((s.team s.unitTeam).resv r).accs.length → t.accAhead r k = image

section

variable {s : State} {p : Nat × Nat} {r k : Nat}

theorem issueMx_queues (hp : p.2 < s.threads.length) (kind : MKind) : MxQueued s (s.issueMx p r k kind) p r k kind (s.accAhead r k) where
  counted := by
    have hthr : (s.issueMx p r k kind).thr p.2 = (s.updThr p.2 fun t => t.incCtr .mx s.nextId).thr p.2 := rfl
    rw [hthr, thr_updThr_self hp]
    rfl
  queued := ⟨_, List.mem_append_right _ List.mem_cons_self, rfl, rfl, rfl, rfl, rfl, rfl, rfl, rfl⟩
  ahead _ := rfl

section

variable (hm : s.unitTeam < s.teams.length) (hr : r < (s.team s.unitTeam).resvs.length)
include hm hr

/-- The word then says what the accumulator will be. -/
theorem setAhead_queues (hp : p.2 < s.threads.length) (kind : MKind) (f : AccImage → AccImage) :
    MxQueued s ((s.issueMx p r k kind).setAhead r k f) p r k kind (f (s.accAhead r k)) where
  counted := (issueMx_queues (r := r) (k := k) hp kind).counted
  queued := (issueMx_queues (r := r) (k := k) hp kind).queued
  ahead hk := by
    have hself := resv_updResv_self (s := s.issueMx p r k kind) hm hr fun x => { x with accs := upd x.accs k fun a => { a with ahead := f a.ahead } }
    have hacc := accum_upd_self (x := ((s.issueMx p r k kind).team s.unitTeam).resv r) hk fun a => { a with ahead := f a.ahead }
    have hahead : ((s.issueMx p r k kind).setAhead r k f).accAhead r k =
      (((((s.issueMx p r k kind).updResv s.unitTeam r fun x => { x with accs := upd x.accs k fun a => { a with ahead := f a.ahead } }).team
        s.unitTeam).resv r).accum k).ahead := rfl
    rw [hahead, hself, hacc]
    rfl

/-- MREL marks its reservation, which changes no accumulator. -/
theorem releasing_queues (hp : p.2 < s.threads.length) (kind : MKind) :
    MxQueued s ((s.issueMx p r k kind).updResv s.unitTeam r fun x => { x with releasing := true }) p r k kind (s.accAhead r k) where
  counted := (issueMx_queues (r := r) (k := k) hp kind).counted
  queued := (issueMx_queues (r := r) (k := k) hp kind).queued
  ahead _ := by
    have hself := resv_updResv_self (s := s.issueMx p r k kind) hm hr fun x => { x with releasing := true }
    have hahead : ((s.issueMx p r k kind).updResv s.unitTeam r fun x => { x with releasing := true }).accAhead r k =
      (((((s.issueMx p r k kind).updResv s.unitTeam r fun x => { x with releasing := true }).team s.unitTeam).resv r).accum k).ahead := rfl
    rw [hahead, hself]
    rfl

end

/-- The word that acts once goes on, and what it has queued stands. -/
theorem leadWork_queues {uses : List Use} {g : Nat} {ks : List Nat} {chk : State → Nat × Nat → Option Trap}
    {act : State → Nat × Nat → State} {rest : List (Nat × Nat)} {kind : MKind} {image : AccImage} (hi : Issues s g uses)
    (hp : s.parts g = p :: rest) (hmx : (s.thr p.2).mx < 63) (hc : ∀ q ∈ s.parts g, s.accStatus r ks q = .ready)
    (hchk : chk s p = none) (hunit : (act s p).unit = s.unit) (hq : MxQueued s (act s p) p r k kind image) :
    ∃ t, s.run (leadWork uses g (some .mx) r ks chk act) = .next t ∧ (t.thr p.2).mx = (s.thr p.2).mx + 1 ∧
      (∃ o ∈ t.fly.mops, o.thread = p.2 ∧ o.pc = s.pc ∧ o.team = s.unitTeam ∧ o.res = r ∧ o.acc = k ∧
        o.eng = ((s.team s.unitTeam).resv r).eng ∧ o.kind = kind ∧ o.started = false) ∧
      (k < ((s.team s.unitTeam).resv r).accs.length → t.accAhead r k = image) := by
  have hl : (act s p).unit.lanes ≠ [] := fun h => hi.lanes ((congrArg IssueUnit.lanes hunit).symm.trans h)
  refine run_next hi hc (fun _ => ?_) (fun q _ => ?_) rfl fun t ht => ?_
  · dsimp only [leadWork]
    rw [hp]
    exact decide_eq_false (Nat.not_le.mpr hmx)
  · dsimp only [leadWork]
    rw [hp]
    exact hchk
  · dsimp only [leadWork] at ht
    rw [hp] at ht
    subst ht
    obtain ⟨o, ho, hop⟩ := hq.queued
    refine ⟨hl, ?_, ⟨o, (goesOn_onward s (act s p) _ _).mops ▸ ho, hop⟩, fun hk => ?_⟩
    · exact (goesOn_steady (part := Thread.mx) (fun _ _ _ _ _ => rfl) ..).trans hq.counted
    · have hteam : (leadWork uses g (some .mx) r ks chk act).fin = State.advance := rfl
      rw [hteam, State.accAhead, goesOn_unitTeam s _ _ hl, State.team, (goesOn_onward ..).teams]
      exact hq.ahead hk

end

theorem accTrap_none {s : State} {r n : Nat} {ks : List Nat} (h : s.resvTrap s.unitTeam r false = none)
    (hk : ∀ k ∈ ks, (s.accAhead r k).state = n) : s.accTrap r ks n = none := by
  rw [State.accTrap, h, Option.none_or, if_neg]
  simpa using hk

/-- Settles O27: each word is of the shared form of R302; it queues one operation and says what the accumulator will be. -/
theorem matrixWordsQueueOneOperation : Obligations.MatrixWordsQueueOneOperation := by
  unfold Obligations.MatrixWordsQueueOneOperation
  intro s a b r k g spad glob f p rest hs hp hmx hm hr
  have hk : p.2 < s.threads.length := (unitOk_participants hs (parts_lanes s g)).2 p (hp ▸ List.mem_cons_self)
  simp only [val64_src, val32_src]
  refine ⟨fun hi hc htr => ?_, fun hi hc hheld hspan hor hsp => ?_, fun hi hc hheld h1 => ?_, fun hi hc hheld h2 h2' hp1 hp2 => ?_,
    fun hi hc hheld h2 hsh hal hpi => ?_, fun hi hc hheld h1 htree => ?_, fun hi hc hheld h2 hal hpi hbase => ?_⟩
  · exact leadWork_queues hi hp hmx hc htr rfl (releasing_queues hm hr hk .rel)
  · refine leadWork_queues hi hp hmx hc ?_ rfl (setAhead_queues hm hr hk _ _)
    dsimp only
    rw [hheld, Option.none_or, if_neg]
    · split
      next hs => exact hsp hs
      · rfl
    · rw [Nat.min_eq_right hspan]
      omega
  · refine leadWork_queues hi hp hmx hc ?_ rfl (setAhead_queues hm hr hk _ _)
    exact accTrap_none hheld (by simpa using h1)
  · refine leadWork_queues hi hp hmx hc ?_ rfl (issueMx_queues hk _)
    rw [accTrap_none hheld (by simpa using ⟨h2, h2'⟩), hp1, hp2]
    rfl
  · refine leadWork_queues hi hp hmx hc ?_ rfl (issueMx_queues hk _)
    dsimp only
    rw [accTrap_none hheld (by simpa using h2), hsh, Option.none_or, Option.none_or, if_neg]
    omega
  · refine leadWork_queues hi hp hmx hc ?_ rfl (setAhead_queues hm hr hk _ _)
    obtain ⟨t, ht, hlabels⟩ := htree
    dsimp only
    rw [accTrap_none hheld (by simpa using h1), Option.none_or, ht]
    dsimp only
    rw [if_neg]
    rintro ⟨hne, hbad⟩
    obtain hl | ⟨helems, hl⟩ := hlabels
    · exact hne hl
    · obtain hbad | hbad := hbad
      · omega
      · obtain ⟨l, hmem, hb⟩ := List.any_eq_true.mp hbad
        rw [hl l hmem] at hb
        exact nomatch hb
  · refine leadWork_queues hi hp hmx hc ?_ rfl (issueMx_queues hk _)
    dsimp only
    rw [accTrap_none hheld (by simpa using h2), Option.none_or]
    have hbad : ¬ ((s.src p (opndPlus a (if glob then 2 else 1))).toNat % 2 ^ 16 % 16 ≠ 0 ∨
        (s.src p (opndPlus a (if glob then 2 else 1))).toNat % 2 ^ 16 < 48 * SFmt.bytes f) := by omega
    cases glob with
    | true =>
      obtain ⟨hlow, halign⟩ := hbase
      simp only [if_true] at hbad hlow halign ⊢
      rw [if_neg (Nat.not_le.mpr hlow), if_neg]
      rintro (h | h)
      exacts [h halign, hbad h]
    | false =>
      simp only [Bool.false_eq_true, if_false] at hbad hbase ⊢
      rw [hbase, Option.none_or, if_neg hbad]

end Sys2Proof.Proofs
end

section
/-! PROOFS. The tile words: each participant's signature, and the issue that the last one makes (R179, R296 to R299, R309 to R312). -/

namespace Sys2Proof.Proofs

open Sys2Proof.Machine Sys2Proof.Safety Sys2Proof.Laws

theorem exec_mma (k h : Nat) (a b : Opnd) (s : State) : exec (.mma k h a b) s = execMma k h a b s := rfl

theorem exec_mmas (k h : Nat) (a b : Opnd) (s : State) : exec (.mmas k h a b) s = execMmas k h a b s := rfl

theorem exec_gmma (k h : Nat) (a b : Opnd) (s : State) : exec (.gmma k h a b) s = execGmma k h a b s := rfl

theorem mapFrom_same {α : Type} {f : Nat → α → α} (h : ∀ n x, f n x = x) (k : Nat) (l : List α) : mapFrom f k l = l := by
  induction l generalizing k with
  | nil => rfl
  | cons x r ih => rw [mapFrom, h, ih]

/-- A change of the participants that changes none of them. -/
theorem each_same {f : Nat × Nat → Thread → Thread} (h : ∀ p x, f p x = x) (s : State) (ok : List (Nat × Nat)) : s.each ok f = s := by
  unfold State.each
  rw [mapFrom_same fun t x => ?_]
  split
  exacts [h .., rfl]

/-- Predicate 0 is always true: nothing writes it. -/
theorem putPred_zero (s : State) (ok : List (Nat × Nat)) (f : Nat × Nat → Bool) : s.putPred ok 0 f = s :=
  each_same (fun _ _ => rfl) s ok

/-- A tile word's participants sign. -/
theorem tile_signs {s : State} {us : List Use} {one : State → Nat × Nat → Sig} (hi : Issues s 0 us)
    (ht : (State.signAll one s (s.parts 0)).2.1 = []) (hw : (State.signAll one s (s.parts 0)).2.2.2 = false)
    (hl : (State.signAll one s (s.parts 0)).1.unit.lanes ≠ []) (hh : ∀ p ∈ s.parts 0, one s p ≠ .hold) :
    s.run (signWork us 0 0 0 one) = does s 0 0 fun _ => (State.signAll one s (s.parts 0)).1 := by
  rw [run_signs hi ht hw hl hh, putPred_zero]

/-- A tile word's single participant signs. -/
theorem tile_sign {s t : State} {us : List Use} {one : State → Nat × Nat → Sig} {p : Nat × Nat} {last : Bool} (hi : Issues s 0 us)
    (hp : s.parts 0 = [p]) (ho : one s p = .made t last) (hu : t.unit = s.unit) :
    s.run (signWork us 0 0 0 one) = .next (goesOn s t 0 0 State.advance) := by
  have hall : State.signAll one s (s.parts 0) = (t, [], if last then some p else none, false) := by
    rw [hp]
    simp only [State.signAll, ho]
  have hgo := tile_signs (one := one) hi (by rw [hall]) (by rw [hall]) (by rw [hall, hu]; exact hi.lanes) (by
    rw [hp]
    intro q hq
    rw [List.mem_singleton.mp hq, ho]
    exact Sig.noConfusion)
  rw [hgo, hall]
  rfl

/-! What an issue leaves of the groups. -/

theorem issueTile_groups {s t : State} {m issuer : Nat} {pc : Dword} {x : Issue} (h : s.issueTile m issuer pc x = .ok t) :
    t.groups = s.groups := by
  unfold State.issueTile at h
  dsimp only at h
  split at h
  · exact nomatch h
  · split at h
    · exact nomatch h
    · split at h
      · exact nomatch h
      · split at h
        · exact nomatch h
        · split at h
          · exact nomatch h
          · cases h
            rfl

/-- What changes of a team while its groups, threads and operations stay. -/
def Reteamed (s t : State) : Prop := ∃ ts, t = { s with teams := ts }

theorem Reteamed.refl (s : State) : Reteamed s s := ⟨_, rfl⟩

theorem Reteamed.trans {s t u : State} (h : Reteamed s t) (h' : Reteamed t u) : Reteamed s u := by
  obtain ⟨ts, rfl⟩ := h
  obtain ⟨ts', rfl⟩ := h'
  exact ⟨ts', rfl⟩

theorem setSplit_reteamed (s : State) (o k half : Nat) : Reteamed s (s.setSplit o k half) := by
  unfold State.setSplit
  split
  · exact .refl s
  · exact foldl_related .refl .trans _ s fun z a _ => ⟨_, rfl⟩

/-- An issue of a half is that of its tile, where there is one. -/
theorem issueHalf_some {s t : State} {o k half issuer : Nat} {pc : Dword} {split : Bool} {x : Issue}
    (hx : s.issueOf o k half false = some x) (ht : s.issueTile (s.grp o).team issuer pc x = .ok t) :
    ∃ u, s.issueHalf o k half issuer pc split = .ok u ∧ Reteamed t u := by
  unfold State.issueHalf
  simp only [hx, ht]
  cases split
  · exact ⟨_, rfl, .refl t⟩
  · exact ⟨_, rfl, setSplit_reteamed ..⟩

theorem issueHalf_groups {s t : State} {o k half issuer : Nat} {pc : Dword} {split : Bool}
    (h : s.issueHalf o k half issuer pc split = .ok t) : t.groups = s.groups := by
  unfold State.issueHalf at h
  split at h
  · cases h
    rfl
  next x hx =>
    split at h
    · exact nomatch h
    next u hu =>
      cases h
      obtain ⟨ts, hts⟩ := setSplit_reteamed u o k half
      split
      · rw [hts]
        exact issueTile_groups (t := u) hu
      · exact issueTile_groups hu

/-- The register is idle behind its issue, whatever it issued. -/
theorem convIssue_idle {s t : State} {o k issuer : Nat} {pc : Dword} (h : s.convIssue o k issuer pc = .ok t) :
    ∃ u : State, u.groups = s.groups ∧ t = u.updConv o k fun _ => Conv.idle := by
  have hmap : ∀ {x : Except Trap State}, (∀ u : State, x = .ok u → u.groups = s.groups) →
      (x.map fun u : State => u.updConv o k fun _ => Conv.idle) = .ok t →
        ∃ u : State, u.groups = s.groups ∧ t = u.updConv o k fun _ => Conv.idle := by
    intro x hx h
    cases x with
    | error f => exact nomatch h
    | ok u =>
      cases h
      exact ⟨u, hx u rfl, rfl⟩
  unfold State.convIssue at h
  dsimp only at h
  split at h
  · split at h
    · cases h
      exact ⟨s, rfl, rfl⟩
    · exact hmap (fun u hu => issueHalf_groups hu) h
    · split at h
      · cases h
        exact ⟨s, rfl, rfl⟩
      · exact hmap (fun u hu => issueTile_groups hu) h
  · split at h
    · exact hmap (fun u hu => issueHalf_groups hu) h
    · cases h
      exact ⟨s, rfl, rfl⟩

/-- A register's single issue, where its tile is issued: then the register is idle. -/
theorem convIssue_one {s t : State} {o k issuer : Nat} {pc : Dword} {x : Issue} (hx : s.issuesOf o k = [x])
    (ht : s.issueTile (s.grp o).team issuer pc x = .ok t) :
    ∃ u, Reteamed t u ∧ s.convIssue o k issuer pc = .ok (u.updConv o k fun _ => Conv.idle) := by
  have hlist : ∀ {y : Option Issue}, y.toList = [x] → y = some x := by
    intro y hy
    cases y with
    | none => exact nomatch hy
    | some z =>
      rw [show z = x by simpa using hy]
  have hhalf : ∀ {half : Nat} {split : Bool}, s.issueOf o k half false = some x →
      ∃ u, Reteamed t u ∧ (s.issueHalf o k half issuer pc split).map (fun u => u.updConv o k fun _ => Conv.idle) =
        .ok (u.updConv o k fun _ => Conv.idle) := by
    intro half split hsome
    obtain ⟨u, hu, hr⟩ := issueHalf_some (split := split) hsome ht
    exact ⟨u, hr, by rw [hu]; rfl⟩
  unfold State.issuesOf at hx
  unfold State.convIssue
  dsimp only at hx ⊢
  split at hx
  next hpair =>
    rw [if_pos hpair]
    rcases hopen : (s.conv o k).openHalves with _ | ⟨half, _ | ⟨half', r⟩⟩ <;> rw [hopen] at hx <;> dsimp only at hx ⊢
    · exact nomatch hx
    · exact hhalf (hlist hx)
    · rw [hlist hx]
      exact ⟨t, .refl t, by simp only [ht]; rfl⟩
  next hpair =>
    rw [if_neg hpair]
    split at hx
    next hcarries =>
      rw [if_pos hcarries]
      exact hhalf (hlist hx)
    · exact nomatch hx

/-! A tile that passes the checks at issue. -/

/-- The descriptor words of an issue's first A, its second A, and B. -/
def wordsA (s : State) (x : Issue) : List Word := s.descWords x.aGroup x.aOpnd (descLen (spaceA (mhdr x.h0).asrc))

def wordsA2 (s : State) (x : Issue) : List Word := s.descWords x.aGroup2 x.aOpnd2 (descLen (spaceA (mhdr x.h0).asrc))

def wordsB (s : State) (x : Issue) : List Word := s.descWords x.bGroup x.bOpnd (descLen (mhdr x.h0).bsrc)

/-- The elements of a group's scale, as the operands' descriptors are read with. -/
def perGroup (x : Issue) (z : Shape) : Nat := if (mhdr x.h0).group = 0 then 0 else max 1 (z.depth / (mhdr x.h0).group)

/-- The checks that a tile passes at issue (R291, R309, R312). -/
structure Passes (s : State) (m : Nat) (x : Issue) (z : Shape) : Prop where
  shape : (mhdr x.h0).shape x.op = some z
  fields : (mhdr x.h0).bad x.op z = false
  held : s.resvTrap m (mhdr x.h0).res false = none
  opndA : spaceA (mhdr x.h0).asrc ≠ 0 → s.checkOpnd m (dieOfCore (((s.team m).resv (mhdr x.h0).res).eng / 4))
    (mopnd (spaceA (mhdr x.h0).asrc) (wordsA s x) 64 z.kept (mhdr x.h0).af (perGroup x z)) (wordsA s x) = none
  opndA2 : spaceA (mhdr x.h0).asrc ≠ 0 → x.joint = true → s.checkOpnd m (dieOfCore (((s.team m).resv (mhdr x.h0).res).eng / 4))
    (mopnd (spaceA (mhdr x.h0).asrc) (wordsA2 s x) 64 z.kept (mhdr x.h0).af (perGroup x z)) (wordsA2 s x) = none
  opndB : (mhdr x.h0).bsrc ≠ 0 → s.checkOpnd m (dieOfCore (((s.team m).resv (mhdr x.h0).res).eng / 4))
    (mopnd (mhdr x.h0).bsrc (wordsB s x) z.depth 48 (mhdr x.h0).bf (perGroup x z)) (wordsB s x) = none
  targets : ∀ e ∈ (mhdr x.h0).targets x.op z (x.accs (mhdr x.h0) z),
    ((((s.team m).resv (mhdr x.h0).res).accum e.acc).ahead).refuses x.chunk.toNat e = false

/-- A tile is in its engine's queue, counted on ctr.mx of the thread that issued it. -/
structure TileQueued (s t : State) (m issuer : Nat) (pc : Dword) (x : Issue) (z : Shape) : Prop where
  groups : t.groups = s.groups
  unit : t.unit = s.unit
  counted : (t.thr issuer).mx = (s.thr issuer).mx + 1
  queued : ∃ o ∈ t.fly.mops, o.thread = issuer ∧ o.pc = pc ∧ o.team = m ∧ o.res = (mhdr x.h0).res ∧ o.started = false ∧
    o.kind = .tile (if x.joint then 3 else if x.op = 2 then 2 else 1) x.h0 x.chunk x.seed (x.accs (mhdr x.h0) z) (wordsA s x)
      (wordsB s x) (wordsA2 s x) x.rowsA x.rowsA2 x.rowsB 0

theorem TileQueued.reteamed {s t u : State} {m issuer : Nat} {pc : Dword} {x : Issue} {z : Shape}
    (h : TileQueued s t m issuer pc x z) (hr : Reteamed t u) : TileQueued s u m issuer pc x z := by
  obtain ⟨ts, rfl⟩ := hr
  exact ⟨h.groups, h.unit, h.counted, h.queued⟩

theorem issueTile_queues {s : State} {m issuer : Nat} {pc : Dword} {x : Issue} {z : Shape} (h : Passes s m x z)
    (hk : issuer < s.threads.length) : ∃ t, s.issueTile m issuer pc x = .ok t ∧ TileQueued s t m issuer pc x z := by
  have hchecks : ((if spaceA (mhdr x.h0).asrc = 0 then none else s.checkOpnd m (dieOfCore (((s.team m).resv (mhdr x.h0).res).eng / 4))
        (mopnd (spaceA (mhdr x.h0).asrc) (wordsA s x) 64 z.kept (mhdr x.h0).af (perGroup x z)) (wordsA s x)).or
      (if spaceA (mhdr x.h0).asrc = 0 || !x.joint then none else s.checkOpnd m (dieOfCore (((s.team m).resv (mhdr x.h0).res).eng / 4))
        (mopnd (spaceA (mhdr x.h0).asrc) (wordsA2 s x) 64 z.kept (mhdr x.h0).af (perGroup x z)) (wordsA2 s x))).or
      (if (mhdr x.h0).bsrc = 0 then none else s.checkOpnd m (dieOfCore (((s.team m).resv (mhdr x.h0).res).eng / 4))
        (mopnd (mhdr x.h0).bsrc (wordsB s x) z.depth 48 (mhdr x.h0).bf (perGroup x z)) (wordsB s x)) = none := by
    simp only [Option.or_eq_none_iff, ite_eq_left_iff]
    refine ⟨⟨h.opndA, fun hj => ?_⟩, h.opndB⟩
    simp only [Bool.or_eq_true, decide_eq_true_eq, Bool.not_eq_true', not_or, Bool.not_eq_false] at hj
    exact h.opndA2 hj.1 hj.2
  have htargets : ((mhdr x.h0).targets x.op z (x.accs (mhdr x.h0) z)).any (fun b =>
      ((((s.team m).resv (mhdr x.h0).res).accum b.acc).ahead).refuses x.chunk.toNat b) = false :=
    List.any_eq_false.mpr fun e he => by
      rw [h.targets e he]
      exact Bool.false_ne_true
  unfold State.issueTile
  simp only [h.held, h.shape, h.fields, Bool.false_eq_true, if_false]
  unfold wordsA wordsA2 wordsB perGroup at hchecks
  rw [hchecks]
  dsimp only
  rw [htargets]
  refine ⟨_, rfl, rfl, rfl, ?_, ⟨_, List.mem_append_right _ List.mem_cons_self, rfl, rfl, rfl, rfl, rfl, rfl⟩⟩
  exact (congrArg Thread.mx (thr_updThr_self (s := s.updResv m (mhdr x.h0).res _) hk _)).trans rfl

/-! A tile word's signature. -/

/-- What a signature changes of a register, in the record of its half's round. -/
def signedAs (key : Nat) (r : Round) (sg : Signature) (c : Conv) : Conv :=
  { c with
    left := c.left - 1, signed := c.signed ++ [sg], rounds := if (look c.rounds key).isSome then c.rounds else c.rounds ++ [(key, r)] }

section

variable {s : State} {o k key : Nat} {r : Round} {sg : Signature} {p : Nat × Nat}

/-- The last signer's issue has to wait for nothing. -/
theorem issueStatus_ready {x : Issue} {z : Shape} (hx : s.issuesOf o k = [x]) (hz : (mhdr x.h0).shape x.op = some z)
    (hmx : (s.thr p.2).mx < 63) (hregs : ∀ e ∈ s.issueRegs x, e.isFull = true)
    (hacc : s.accStatus (mhdr x.h0).res (x.accs (mhdr x.h0) z) p = .ready) : s.issueStatus o k p = .ready := by
  have hfull : ∀ e : Reg, e.isFull = true → e.failure = none ∧ e.isEmpty = false := fun e he => by
    cases e with
    | full x => exact ⟨rfl, rfl⟩
    | empty i => exact nomatch he
    | failed f => exact nomatch he
  have hfailed : s.issueFailed x = none := List.findSome?_eq_none_iff.mpr fun e he => (hfull e (hregs e he)).1
  have hempty : s.issueEmpty x = false := List.any_eq_false.mpr fun e he => by
    rw [(hfull e (hregs e he)).2]
    exact Bool.false_ne_true
  unfold State.issueStatus
  rw [hx]
  dsimp only
  rw [if_neg (Nat.not_le.mpr hmx), hfailed, hempty, hz]
  exact hacc

variable (ho : o < s.groups.length) (hk : k < (s.grp o).convs.length) (hw : s.windowOver (s.conv o k) = false)
include ho hk hw

/-- A signature that is not the last of its round. -/
theorem sign_made (hl : 1 < (s.conv o k).left) :
    s.sign o k key r sg p = .made ((s.updConv o k (signedAs key r sg)).openWindow o k) false := by
  have hleft : ((s.updConv o k (signedAs key r sg)).conv o k).left ≠ 0 := by
    rw [conv_updConv ho hk]
    simp only [signedAs]
    omega
  simp only [State.sign, hw, Bool.false_and, Bool.false_eq_true, if_false]
  exact if_neg hleft

/-- The last signature of a round, whose issue passes its checks. -/
theorem sign_issues (hl : (s.conv o k).left = 1) {x : Issue} {z : Shape}
    (hx : (s.updConv o k (signedAs key r sg)).issuesOf o k = [x]) (hp : p.2 < s.threads.length) (hmx : (s.thr p.2).mx < 63)
    (hregs : ∀ e ∈ (s.updConv o k (signedAs key r sg)).issueRegs x, e.isFull = true)
    (hacc : (s.updConv o k (signedAs key r sg)).accStatus (mhdr x.h0).res (x.accs (mhdr x.h0) z) p = .ready)
    (hpass : Passes (s.updConv o k (signedAs key r sg)) (s.grp o).team x z) :
    ∃ u, TileQueued (s.updConv o k (signedAs key r sg)) u (s.grp o).team p.2 s.pc x z ∧
      s.sign o k key r sg p = .made (u.updConv o k fun _ => Conv.idle) true := by
  have hleft : ((s.updConv o k (signedAs key r sg)).conv o k).left = 0 := by
    rw [conv_updConv ho hk]
    simp only [signedAs, hl]
  have hteam : ((s.updConv o k (signedAs key r sg)).grp o).team = (s.grp o).team :=
    grp_updGrp_part (part := Machine.Group.team) (f := fun g => { g with convs := upd g.convs k (signedAs key r sg) }) (fun _ => rfl) ..
  obtain ⟨t, ht, hq⟩ := issueTile_queues (issuer := p.2) (pc := s.pc) hpass hp
  rw [← hteam] at ht
  obtain ⟨u, hu, hc⟩ := convIssue_one hx ht
  have hready := issueStatus_ready (p := p) hx hpass.shape hmx hregs hacc
  refine ⟨u, hq.reteamed hu, ?_⟩
  simp only [State.sign, hw, Bool.false_and, Bool.false_eq_true, if_false]
  refine (if_pos hleft).trans ?_
  unfold signedAs at hready hc
  rw [hready]
  dsimp only
  rw [hc]

end

/-- Once a register has issued it is idle: no signature is awaited and none is recorded. -/
theorem sign_last {s t : State} {o k key : Nat} {r : Round} {sg : Signature} {p : Nat × Nat} (h : s.sign o k key r sg p = .made t true)
    (ho : o < s.groups.length) (hk : k < (s.grp o).convs.length) :
    (s.conv o k).left ≤ 1 ∧ (t.conv o k).left = 0 ∧ (t.conv o k).signed = [] := by
  obtain ⟨hg, hc⟩ := updConv_bounds ho hk (signedAs key r sg)
  unfold State.sign at h
  dsimp only at h
  split at h
  · exact nomatch h
  · split at h
    next hleft =>
      have hleft' : ((s.updConv o k (signedAs key r sg)).conv o k).left = 0 := hleft
      rw [conv_updConv ho hk] at hleft'
      split at h
      · exact nomatch h
      · exact nomatch h
      · exact nomatch h
      · split at h
        next u hu =>
          cases h
          obtain ⟨v, hv, rfl⟩ := convIssue_idle hu
          have hidle : (v.updConv o k fun _ => Conv.idle).conv o k = Conv.idle := by
            refine conv_updConv (hv ▸ hg) ?_ _
            rw [State.grp, hv]
            exact hc
          rw [hidle]
          exact ⟨Nat.sub_eq_zero_iff_le.mp hleft', rfl, rfl⟩
        · exact nomatch h
    · exact nomatch h

theorem openWindow_unit (s : State) (o k : Nat) : (s.openWindow o k).unit = s.unit := by
  unfold State.openWindow
  dsimp only
  split
  · split <;> rfl
  · rfl

theorem goesOn_conv (s t : State) (g c o k : Nat) : (goesOn s t g c State.advance).conv o k = t.conv o k := by
  simp only [State.conv, State.grp, (goesOn_onward s t g c).groups]

/-! The words MMA, MMAS and GMMA: opcodes 1 to 3. -/

/-- The register that a tile word signs, its half, and the header that it reads. -/
def tileOwner (s : State) (k : Nat) : Nat := s.convOwner s.unit.group k

def tileConv (s : State) (k : Nat) : Conv := s.conv (tileOwner s k) k

def tileHalf (s : State) (k : Nat) : Nat := if s.convShared s.unit.group k then (s.grp s.unit.group).half else 0

def tileKey (s : State) (k op : Nat) : Nat := if op = 3 then tileHalf s k else 0

def tileHeader (s : State) (h : Nat) : Word := ((s.grp s.unit.group).reg (2 * h)).word

def tileRound (s : State) (h : Nat) (a b : Opnd) (op : Nat) : Round := ⟨op, h, a, b, shapeOf (tileHeader s h)⟩

/-- The rows that a participant supplies of A and of B. -/
def tileRowA (s : State) (k h : Nat) (a : Opnd) (q : Shape) : Use := rowUse (tileConv s k) a 64 (mhdr (tileHeader s h)).af q.kept

def tileRowB (s : State) (k h : Nat) (b : Opnd) (q : Shape) : Use := rowUse (tileConv s k) b q.depth (mhdr (tileHeader s h)).bf 48

def tileSignature (s : State) (k h : Nat) (a b : Opnd) (q : Shape) (p : Nat × Nat) : Signature :=
  ⟨tileHalf s k, (s.thr p.2).idx - (tileConv s k).lo, p.2, s.pc,
    if (mhdr (tileHeader s h)).asrc = 0 then s.rowWordsOf p.2 (tileRowA s k h a q) else [],
    if (mhdr (tileHeader s h)).bsrc = 0 then s.rowWordsOf p.2 (tileRowB s k h b q) else []⟩

/-- A member that has not signed, whose operand fields and row registers are as the header asks (R179, R287, R308). -/
structure Signs (s : State) (k h : Nat) (a b : Opnd) (q : Shape) (p : Nat × Nat) : Prop where
  declared : (tileConv s k).declared = true
  member : (tileConv s k).member (s.thr p.2).idx = true
  unsigned : (tileConv s k).hasSigned (tileHalf s k) ((s.thr p.2).idx - (tileConv s k).lo) = false
  kindA : kindOk (spaceA (mhdr (tileHeader s h)).asrc) a = true
  kindB : kindOk (mhdr (tileHeader s h)).bsrc b = true
  rowsA : (mhdr (tileHeader s h)).asrc = 0 → 64 % (tileConv s k).n = 0 ∧ s.rowStatus p.2 (tileRowA s k h a q) = .ready
  rowsB : (mhdr (tileHeader s h)).bsrc = 0 → q.depth % (tileConv s k).n = 0 ∧ s.rowStatus p.2 (tileRowB s k h b q) = .ready

section

variable {s : State} {k h op : Nat} {a b : Opnd} {q : Shape} {p : Nat × Nat} (hs : Signs s k h a b q p) (hop : op ≠ 0)
  (hq : (mhdr (tileHeader s h)).shape op = some q) (hpair : op = 3 → s.convShared s.unit.group k = true)
  (hrounds : ∀ x ∈ (tileConv s k).rounds, x.2.op = op ∧ (x.1 = tileKey s k op → x.2 = tileRound s h a b op))
include hs hop hq hpair hrounds

/-- Such a member's signature is made. -/
theorem signOne_tile : s.signOne op k h a b p =
    s.sign (tileOwner s k) k (tileKey s k op) (tileRound s h a b op) (tileSignature s k h a b q p) p := by
  have htrap : s.signTrap k (tileHalf s k) (tileKey s k op) (tileRound s h a b op) p = none := by
    have hdecl := hs.declared
    have hmember := hs.member
    have hunsigned := hs.unsigned
    unfold tileConv tileOwner at hdecl hmember hunsigned
    rw [State.signTrap, hdecl, hmember, hunsigned, if_neg (by decide), if_neg, if_neg]
    · rw [List.any_eq_true]
      rintro ⟨x, hx, hbad⟩
      obtain ⟨hxop, hxr⟩ := hrounds x hx
      simp only [Bool.or_eq_true, bne_iff_ne, Bool.and_eq_true, beq_iff_eq] at hbad
      obtain hbad | ⟨hkey, hbad⟩ := hbad
      exacts [hbad hxop, hbad (hxr hkey)]
    · rintro ⟨h3, hshared⟩
      rw [hpair h3] at hshared
      exact nomatch hshared
  have hsts : ∀ x ∈ (if decide ((mhdr (tileHeader s h)).asrc = 0) then [s.rowStatus p.2 (tileRowA s k h a q)] else []) ++
      (if decide ((mhdr (tileHeader s h)).bsrc = 0) then [s.rowStatus p.2 (tileRowB s k h b q)] else []), x = .ready := by
    intro x hx
    simp only [List.mem_append, decide_eq_true_eq] at hx
    obtain hx | hx := hx
    · split at hx
      next h0 => rw [List.mem_singleton.mp hx, (hs.rowsA h0).2]
      · exact nomatch hx
    · split at hx
      next h0 => rw [List.mem_singleton.mp hx, (hs.rowsB h0).2]
      · exact nomatch hx
  have hfirst : firstTrap ((if decide ((mhdr (tileHeader s h)).asrc = 0) then [s.rowStatus p.2 (tileRowA s k h a q)] else []) ++
      (if decide ((mhdr (tileHeader s h)).bsrc = 0) then [s.rowStatus p.2 (tileRowB s k h b q)] else [])) = none :=
    List.findSome?_eq_none_iff.mpr fun x hx => by rw [hsts x hx]
  have hstalls : ((if decide ((mhdr (tileHeader s h)).asrc = 0) then [s.rowStatus p.2 (tileRowA s k h a q)] else []) ++
      (if decide ((mhdr (tileHeader s h)).bsrc = 0) then [s.rowStatus p.2 (tileRowB s k h b q)] else [])).any Status.stalls = false :=
    List.any_eq_false.mpr fun x hx => by
      rw [hsts x hx]
      exact Bool.false_ne_true
  have hlines : ((decide ((mhdr (tileHeader s h)).asrc = 0) && decide (64 % (tileConv s k).n ≠ 0)) ||
      (decide ((mhdr (tileHeader s h)).bsrc = 0) && decide (q.depth % (tileConv s k).n ≠ 0))) = false := by
    simp only [Bool.or_eq_false_iff, Bool.and_eq_false_imp, decide_eq_true_eq, decide_eq_false_iff_not, not_not]
    exact ⟨fun h0 => (hs.rowsA h0).1, fun h0 => (hs.rowsB h0).1⟩
  have hkindA := hs.kindA
  have hkindB := hs.kindB
  unfold tileHalf tileKey tileRound tileHeader tileHalf at htrap
  unfold tileHeader at hq hkindA hkindB
  unfold State.signOne
  dsimp only
  unfold tileRowA tileRowB tileConv tileOwner tileHeader at hfirst hstalls
  unfold tileConv tileOwner tileHeader at hlines
  rw [if_neg hop, htrap]
  dsimp only
  rw [if_neg hop, hq]
  dsimp only
  rw [hkindA, hkindB, hlines, hfirst, hstalls]
  simp only [Bool.not_true, Bool.or_false, Bool.false_eq_true, if_false, decide_eq_true_eq]
  rfl

section

variable {n : Nat} (hi : Issues s 0 (tileUses h n a b)) (hp : s.parts 0 = [p]) (ho : tileOwner s k < s.groups.length)
  (hk : k < (s.grp (tileOwner s k)).convs.length) (hw : s.windowOver (tileConv s k) = false)
include hi hp ho hk hw

/-- One that is not the last of its round is recorded. -/
theorem tile_records (hl : 1 < (tileConv s k).left) :
    ∃ t, s.run (signWork (tileUses h n a b) 0 0 0 fun s p => s.signOne op k h a b p) = .next t ∧
      (t.conv (tileOwner s k) k).left = (tileConv s k).left - 1 ∧ tileSignature s k h a b q p ∈ (t.conv (tileOwner s k) k).signed := by
  have hsign := (signOne_tile hs hop hq hpair hrounds).trans (sign_made ho hk hw hl)
  obtain ⟨hg, hc⟩ := updConv_bounds ho hk (signedAs (tileKey s k op) (tileRound s h a b op) (tileSignature s k h a b q p))
  refine ⟨_, tile_sign hi hp hsign (openWindow_unit ..), ?_, ?_⟩
  · rw [goesOn_conv, openWindow_part (part := Conv.left) (fun _ _ _ _ => rfl) hg hc, conv_updConv ho hk]
    rfl
  · rw [goesOn_conv, openWindow_part (part := Conv.signed) (fun _ _ _ _ => rfl) hg hc, conv_updConv ho hk]
    exact List.mem_append_right _ List.mem_cons_self

/-- The last one issues the register's tile, and the register is idle. -/
theorem tile_issues (hl : (tileConv s k).left = 1) {x : Issue} {z : Shape} {s1 : State}
    (hs1 : s1 = s.updConv (tileOwner s k) k (signedAs (tileKey s k op) (tileRound s h a b op) (tileSignature s k h a b q p)))
    (hx : s1.issuesOf (tileOwner s k) k = [x]) (hthread : p.2 < s.threads.length) (hmx : (s.thr p.2).mx < 63)
    (hregs : ∀ e ∈ s1.issueRegs x, e.isFull = true)
    (hacc : s1.accStatus (mhdr x.h0).res (x.accs (mhdr x.h0) z) p = .ready)
    (hpass : Passes s1 (s.grp (tileOwner s k)).team x z) :
    ∃ t, s.run (signWork (tileUses h n a b) 0 0 0 fun s p => s.signOne op k h a b p) = .next t ∧
      (t.conv (tileOwner s k) k).declared = false ∧ (t.conv (tileOwner s k) k).signed = [] ∧ (t.thr p.2).mx = (s.thr p.2).mx + 1 ∧
      ∃ o ∈ t.fly.mops, o.thread = p.2 ∧ o.pc = s.pc ∧ o.team = (s.grp (tileOwner s k)).team ∧ o.res = (mhdr x.h0).res ∧
        o.started = false ∧ o.kind = .tile (if x.joint then 3 else if x.op = 2 then 2 else 1) x.h0 x.chunk x.seed
          (x.accs (mhdr x.h0) z) (wordsA s1 x) (wordsB s1 x) (wordsA2 s1 x) x.rowsA x.rowsA2 x.rowsB 0 := by
  subst hs1
  obtain ⟨hg, hc⟩ := updConv_bounds ho hk (signedAs (tileKey s k op) (tileRound s h a b op) (tileSignature s k h a b q p))
  obtain ⟨u, hu, hmade⟩ := sign_issues ho hk hw hl hx hthread hmx hregs hacc hpass
  have hsign := (signOne_tile hs hop hq hpair hrounds).trans hmade
  have hidle : (u.updConv (tileOwner s k) k fun _ => Conv.idle).conv (tileOwner s k) k = Conv.idle := by
    refine conv_updConv (hu.groups ▸ hg) ?_ _
    rw [State.grp, hu.groups]
    exact hc
  obtain ⟨o, ho', hop'⟩ := hu.queued
  refine ⟨_, tile_sign hi hp hsign hu.unit, ?_, ?_, ?_, o, ?_, hop'⟩
  · rw [goesOn_conv, hidle]
    rfl
  · rw [goesOn_conv, hidle]
    rfl
  · exact (goesOn_steady (part := Thread.mx) (fun _ _ _ _ _ => rfl) ..).trans hu.counted
  · rw [(goesOn_onward ..).mops]
    exact ho'

end

end

/-- Settles O28: the participants of a tile word sign; the last signature of a round issues the tile, unless a check refuses it. -/
theorem tileWordsSign : Obligations.TileWordsSign := by
  unfold Obligations.TileWordsSign
  refine ⟨fun s k h a b => ⟨fun hi ht hw hl hh => ?_, fun hi ht hw hl hh => ?_, fun hi ht hw hl hh => ?_,
    fun _ _ _ _ _ _ hm ho hk => sign_last hm ho hk⟩, fun s k h a b p q hs hp => ?_⟩
  · exact tile_signs (one := fun s p => s.signOne 1 k h a b p) hi ht hw hl hh
  · exact tile_signs (one := fun s p => s.signOne 2 k h a b p) hi ht hw hl hh
  · exact tile_signs (one := fun s p => s.signOne 3 k h a b p) hi ht hw hl hh
  · intro g owner c half member w y ua ub ho hk hw hdecl hmember hunsigned hkindA hkindB hrowsA hrowsB
    have hsigns : Signs s k h a b q p := ⟨hdecl, hmember, hunsigned, hkindA, hkindB, hrowsA, hrowsB⟩
    have hthread : p.2 < s.threads.length := (unitOk_participants hs (parts_lanes s 0)).2 p (hp ▸ List.mem_cons_self)
    refine ⟨?_, ?_, ?_⟩
    all_goals
      intro hi hq hpair hrounds
      refine ⟨tile_records hsigns (by decide) hq hpair hrounds hi hp ho hk hw, ?_⟩
      intro s1 m x z hl hx hd sa per die wa wa2 wb hshape hbad hmx hregs hacc hres hA hA2 hB ht
      exact tile_issues hsigns (by decide) hq hpair hrounds hi hp ho hk hw hl rfl hx hthread hmx hregs hacc
        ⟨hshape, hbad, hres, hA, hA2, hB, ht⟩

end Sys2Proof.Proofs
end

section
/-! PROOFS. The window words (R217, R218, R220, R225, R267 to R272). -/

namespace Sys2Proof.Proofs

open Sys2Proof.Machine Sys2Proof.Safety Sys2Proof.Laws

theorem exec_wbind (e : Nat) (a : Opnd) (f : WFrom) (g : Nat) (s : State) : exec (.wbind e a f g) s = execWbind e a f g s := rfl

theorem exec_wunb (e g : Nat) (s : State) : exec (.wunb e g) s = execWunb e g s := rfl

theorem exec_touch (e q g : Nat) (s : State) : exec (.touch e q g) s = execTouch e q g s := rfl

theorem exec_wstat (e : Nat) (d : Opnd) (g : Nat) (s : State) : exec (.wstat e d g) s = execWstat e d g s := rfl

theorem exec_wflush (e g : Nat) (s : State) : exec (.wflush e g) s = execWflush e g s := rfl

/-! What the words' effects leave of the unit. -/

theorem orderRead_sampled (s : State) (core t : Nat) (q : Place) (n : Nat) (sc : Scope) : Sampled s (s.orderRead core t q n sc) := by
  unfold State.orderRead
  dsimp only
  split
  · exact ((sampleLoads_sampled ..).trans (noteVisitor_noted ..).sampled).trans (noteToken_noted ..).sampled
  · exact sampleLoads_sampled ..

theorem bindReads_sampled (s : State) (p : Nat × Nat) (a : Opnd) (f : WFrom) : Sampled s (s.bindReads p a f) := by
  obtain ⟨xl, hx⟩ := exists_eq (a' := State.xlate)
  unfold State.bindReads
  rw [← hx]
  cases f with
  | reg => exact .refl s
  | spad => exact orderRead_sampled ..
  | glob =>
    refine Sampled.foldl (fun r y => ?_) _ s
    split
    exacts [orderRead_sampled .., .refl r]

section

variable {s : State} {a : Opnd} {w : WFrom} {e q g : Nat} {p : Nat × Nat} {rest : List (Nat × Nat)} (hp : s.parts g = p :: rest)
include hp

/-! WBIND and WUNB. -/

theorem wbind_binds {desc : BitVec 512} (hi : Issues s g [bindUse a w]) (hat : s.atomicDue p.2 = false)
    (hspad : w = .spad → s.spadHeld p.2 ((s.src p a).toNat % 2 ^ 24) 64 = false)
    (hn : ∀ x ∈ s.bindNeeds (s.parts g) a w, (s.peerAnswer x.1).isSome = true) (hd : s.bindSource p a w = .ok desc)
    (hr : regionBad desc (s.team s.unitTeam).size s.teamGroups = false) :
    exec (.wbind e a w g) s = .next ((s.parts g).foldl (fun r q => r.dropWords q.2)
      (goesOn s (((s.bindReads p a w).unbind s.unitTeam e (s.byProgram p) .unbound).updEntry s.unitTeam e fun _ =>
        { desc := desc, seq := 0, dests := (region desc).dests.map fun _ => { state := .absent } }) g 2 State.advance)) := by
  have hunit : (((s.bindReads p a w).unbind s.unitTeam e (s.byProgram p) .unbound).updEntry s.unitTeam e fun _ =>
      { desc := desc, seq := 0, dests := (region desc).dests.map fun _ => { state := .absent } }).unit = s.unit :=
    (unbind_calm (.refl _)).unit.trans (bindReads_sampled s p a w).unit
  have hlow : lowest (s.parts g) = p := by rw [hp]; rfl
  rw [exec_wbind, execWbind]
  refine runAfter_goes hi (fun _ _ => rfl) (fun _ => ?_) (fun _ _ => ?_) hn ?_ (hunit ▸ hi.lanes) rfl
  · dsimp only
    rw [hp]
    refine List.any_eq_false.mpr fun x hx => ?_
    rw [List.mem_singleton.mp hx, hat]
    by_cases hw : w = .spad
    · rw [hspad hw, Bool.and_false, Bool.or_false]
      exact Bool.false_ne_true
    · simp [hw]
  · dsimp only
    rw [hlow, hd]
    dsimp only
    rw [hr]
    rfl
  · dsimp only
    rw [hp]
    dsimp only
    rw [hd]

theorem wunb_unbinds (hi : Issues s g []) (h : (s.entry s.unitTeam e).unbound = false) :
    exec (.wunb e g) s = does s g 2 fun t =>
      t.unbindOf s.unitTeam e (s.byProgram p) .unbound fun i => s.byProgram p || s.ownDest e i := by
  have hlow : lowest (s.parts g) = p := by rw [hp]; rfl
  have hne : s.parts g ≠ [] := by rw [hp]; exact List.cons_ne_nil _ _
  rw [exec_wunb, execWunb]
  refine run_effect hi (fun _ _ => rfl) (fun _ => rfl) (fun _ _ => rfl) ?_
    ((unbindOf_calm (.refl s)).unit.symm ▸ hi.lanes) rfl
  dsimp only
  rw [h, hlow]
  simp only [hne, decide_false, Bool.or_false, Bool.false_eq_true, if_false]

omit hp in
theorem wunb_idle (hi : Issues s g []) (h : (s.entry s.unitTeam e).unbound = true) : exec (.wunb e g) s = does s g 2 fun t => t := by
  rw [exec_wunb, execWunb]
  refine run_effect hi (fun _ _ => rfl) (fun _ => rfl) (fun _ _ => rfl) ?_ hi.lanes rfl
  dsimp only
  rw [h, Bool.or_true, if_pos rfl]

end

/-! TOUCH. -/

/-- What TOUCH of a bound entry leaves: it answers, and starts the fill that is not under way where there is room. -/
def touched (s : State) (e q g : Nat) (p : Nat × Nat) : State :=
  if (s.entry s.unitTeam e).touched then s.putPred (s.parts g) q fun _ => true
  else if s.copyFull (s.team s.unitTeam).cluster then s.putPred (s.parts g) q fun _ => false
  else match s.fillOf s.unitTeam e with
    | some j => (s.enterQueue j).putPred (s.parts g) q fun _ => true
    | none => ((s.updThr p.2 fun x => x.incCtr .gx s.nextId).newFill s.unitTeam e (some p.2) [] s.pc).putPred (s.parts g) q fun _ => true

theorem newFill_unit (s : State) (m e : Nat) (t : Option Nat) (first : List Nat) (pc : Dword) : (s.newFill m e t first pc).unit = s.unit := by
  unfold State.newFill
  dsimp only
  split <;> rfl

theorem touched_unit (s : State) (e q g : Nat) (p : Nat × Nat) : (touched s e q g p).unit = s.unit := by
  unfold touched
  split
  · rfl
  · split
    · rfl
    · split
      · rfl
      · exact newFill_unit ..

section

variable {s : State} {e q g : Nat} {p : Nat × Nat} {rest : List (Nat × Nat)} (hp : s.parts g = p :: rest) (hi : Issues s g [])
include hp hi

theorem touch_does (hb : (s.entry s.unitTeam e).unbound = false) (hroom : s.touchStarts e = true → (s.thr p.2).gx < 63) :
    exec (.touch e q g) s = does s g 2 fun _ => touched s e q g p := by
  rw [exec_touch, execTouch]
  refine run_effect hi (fun _ _ => rfl) (fun _ => ?_) (fun _ _ => ?_) ?_ ((touched_unit ..).symm ▸ hi.lanes) rfl
  · dsimp only
    rw [hp]
    cases hs : s.touchStarts e with
    | false => rfl
    | true => simp [State.lowestFull, Thread.ctr, Nat.not_le.mpr (hroom hs)]
  · dsimp only
    rw [hb]
    rfl
  · dsimp only
    unfold touched
    rw [hp] <;> rfl

/-! WSTAT and WFLUSH. -/

omit hp hi in
theorem entry_updEntry_self {m : Nat} (hm : m < s.teams.length) (he : e < (s.team m).entries.length) (f : Entry → Entry) :
    (s.updEntry m e f).entry m e = f (s.entry m e) := by
  rw [State.entry, State.updEntry, team_updTeam_self hm, getElem?_upd, if_pos rfl, List.getElem?_eq_getElem he, State.entry,
    List.getElem?_eq_getElem he]
  rfl

theorem wflush_queues (hs : UnitOk s) (hm : s.unitTeam < s.teams.length) (he : e < (s.team s.unitTeam).entries.length)
    (hfull : s.copyFull (s.team s.unitTeam).cluster = false) (hst : (s.thr p.2).st < 63)
    (hd : (destOf (region (s.entry s.unitTeam e).desc) (s.grp s.unit.group).idx).2 = false)
    (hstate : (((s.entry s.unitTeam e).dests[(destOf (region (s.entry s.unitTeam e).desc) (s.grp s.unit.group).idx).1]?).getD {}).state =
        .present ∨
      (((s.entry s.unitTeam e).dests[(destOf (region (s.entry s.unitTeam e).desc) (s.grp s.unit.group).idx).1]?).getD {}).state = .arriving) :
    ∃ t, exec (.wflush e g) s = .next t ∧ (t.thr p.2).st = (s.thr p.2).st + 1 ∧
      (t.entry s.unitTeam e).seq = (s.entry s.unitTeam e).seq + 1 ∧
      ∃ j ∈ t.fly.jobs, j.team = s.unitTeam ∧ j.entry = e ∧
        j.flush = some (destOf (region (s.entry s.unitTeam e).desc) (s.grp s.unit.group).idx).1 ∧
        j.seq = (s.entry s.unitTeam e).seq + 1 ∧ j.desc = (s.entry s.unitTeam e).desc ∧ j.starter = some p.2 ∧ j.begun = false := by
  have hthread : p.2 < s.threads.length := (unitOk_participants hs (parts_lanes s g)).2 p (hp ▸ List.mem_cons_self)
  rw [exec_wflush, execWflush]
  refine run_next hi (fun _ _ => rfl) (fun _ => ?_) (fun _ _ => ?_) rfl fun t ht => ?_
  · dsimp only
    rw [hp, hfull]
    exact decide_eq_false (Nat.not_le.mpr hst)
  · dsimp only
    rw [hd, if_neg]
    obtain h | h := hstate <;> simp [h]
  · dsimp only at ht
    rw [hp] at ht
    dsimp only at ht
    subst ht
    refine ⟨hi.lanes, ?_, ?_, ?_⟩
    · rw [goesOn_steady (part := Thread.st) (fun _ _ _ _ _ => rfl)]
      exact (congrArg Thread.st (thr_updThr_self hthread _)).trans rfl
    · rw [(goesOn_onward ..).entry]
      exact (congrArg Entry.seq (entry_updEntry_self (s := s.updThr p.2 _) hm he _)).trans rfl
    · rw [(goesOn_onward ..).jobs]
      exact ⟨_, List.mem_append_right _ List.mem_cons_self, rfl, rfl, rfl, rfl, rfl, rfl, rfl⟩

omit hp hi in
theorem wstat_reads {d : Opnd} (hi : Issues s g [dstUse d 1 false]) : exec (.wstat e d g) s = writes s g 2 d fun _ => [s.wstat e] := by
  rw [exec_wstat, execWstat]
  exact run_effect hi (fun _ _ => rfl) (fun _ => rfl) (fun _ _ => rfl) rfl (by rw [putDst_unit]; exact hi.lanes) rfl

end

/-- Settles O29: each window word acts once, and what it reads of the entry says which of its effects it has. -/
theorem windowWordsComplete : Obligations.WindowWordsComplete := by
  unfold Obligations.WindowWordsComplete
  intro s d a w e q g p rest hp
  refine ⟨fun desc hi hat hspad hn hd hr => ⟨_, rfl, wbind_binds hp hi hat hspad hn hd hr⟩,
    fun hi => ⟨fun h => wunb_unbinds hp hi h, fun h => wunb_idle hi h, fun hb => ⟨fun ht => ?_, fun ht hf => ?_, fun ht hf hj hroom => ?_,
      fun j ht hf hj => ?_⟩⟩, fun hi => ?_, fun hi hs hm he hfull hst hd hstate => wflush_queues hp hi hs hm he hfull hst hd hstate⟩
  · have hns : s.touchStarts e = false := by simp [State.touchStarts, ht]
    rw [touch_does hp hi hb (by simp [hns])]
    unfold touched
    rw [if_pos ht]
    rfl
  · have hns : s.touchStarts e = false := by simp [State.touchStarts, hf]
    rw [touch_does hp hi hb (by simp [hns])]
    unfold touched
    rw [ht, hf]
    rfl
  · rw [touch_does hp hi hb fun _ => hroom]
    unfold touched
    rw [ht, hf, hj]
    rfl
  · have hns : s.touchStarts e = false := by simp [State.touchStarts, hj]
    rw [touch_does hp hi hb (by simp [hns])]
    unfold touched
    rw [ht, hf, hj]
    rfl
  · rw [wstat_reads hi]
    have hbit : ∀ (b : Bool) (n : Nat), b2n b * n = if b then n else 0 := fun b n => by
      cases b <;> simp [b2n]
    unfold State.wstat
    dsimp only
    rw [hbit, hbit]
    generalize (((s.entry s.unitTeam e).dests[(destOf (region (s.entry s.unitTeam e).desc) (s.grp s.unit.group).idx).1]?).getD {}).state = st
    cases st <;> rfl

end Sys2Proof.Proofs
end

section
/-! PROOFS. CONTRIB and TSTAT (R331 to R333). -/

namespace Sys2Proof.Proofs

open Sys2Proof.Machine Sys2Proof.Safety Sys2Proof.Laws

theorem exec_contrib (e a b : Opnd) (g : Nat) (s : State) : exec (.contrib e a b g) s = execContrib e a b g s := rfl

theorem exec_tstat (d a b : Opnd) (g : Nat) (s : State) : exec (.tstat d a b g) s = execTstat d a b g s := rfl

/-! CONTRIB. -/

/-- Contributions lead from `s` to `z`: what operands, labels and tree sets are read from is as before, and no node is lost. -/
structure Contributed (s z : State) : Prop where
  unit : z.unit = s.unit
  size : z.threads.length = s.threads.length
  groups : z.groups = s.groups
  teams : z.teams = s.teams
  launches : z.launches = s.launches
  sets : z.fly.sets = s.fly.sets
  thread : ∀ k, (z.thr k).v = (s.thr k).v ∧ (z.thr k).group = (s.thr k).group ∧ (z.thr k).core = (s.thr k).core
  nodes : ∀ n ∈ s.fly.nodes, n ∈ z.fly.nodes

theorem Contributed.refl (s : State) : Contributed s s := ⟨rfl, rfl, rfl, rfl, rfl, rfl, fun _ => ⟨rfl, rfl, rfl⟩, fun _ h => h⟩

theorem Contributed.trans {s t u : State} (h : Contributed s t) (h' : Contributed t u) : Contributed s u where
  unit := h'.unit.trans h.unit
  size := h'.size.trans h.size
  groups := h'.groups.trans h.groups
  teams := h'.teams.trans h.teams
  launches := h'.launches.trans h.launches
  sets := h'.sets.trans h.sets
  thread k := by
    obtain ⟨hv, hg, hc⟩ := h.thread k
    obtain ⟨hv', hg', hc'⟩ := h'.thread k
    exact ⟨hv'.trans hv, hg'.trans hg, hc'.trans hc⟩
  nodes n hn := h'.nodes n (h.nodes n hn)

section

variable {s z : State} (h : Contributed s z) (p : Nat × Nat)
include h

theorem Contributed.src (o : Opnd) : z.src p o = s.src p o := by
  obtain ⟨hv, hg, -⟩ := h.thread p.2
  cases o <;> simp only [State.src, State.grp, Thread.reg, hv, hg, h.groups]

theorem Contributed.src64 (o : Opnd) : z.src64 p o = s.src64 p o := by
  obtain ⟨hv, hg, -⟩ := h.thread p.2
  cases o <;> simp only [State.src64, State.grp, Thread.reg, hv, hg, h.groups]

theorem Contributed.labelled (e b : Opnd) : z.labelled p e b = s.labelled p e b := by
  have hset : ∀ c i, z.treeSet c i = s.treeSet c i := fun c i => by simp only [State.treeSet, h.sets]
  have hlaunch : z.launchOf p.2 = s.launchOf p.2 := by
    obtain ⟨-, hg, -⟩ := h.thread p.2
    simp only [State.launchOf, State.launch, State.team, State.teamOf, State.grp, hg, h.groups, h.teams, h.launches]
  have hnamed : ∀ i, z.treeNamed p.2 i = s.treeNamed p.2 i := fun i => by simp only [State.treeNamed, hlaunch, hset]
  simp only [State.labelled, h.src, h.src64, hnamed]

theorem Contributed.pc : z.pc = s.pc := by rw [State.pc, h.unit, State.pc]

end

/-- The node that a participant's contribution is. -/
def nodeOf (s : State) (p : Nat × Nat) (t : TreeSet) (e a b : Opnd) (n : TreeNode) : Prop :=
  n.origin = some (p.2, s.pc) ∧ n.ctx = t.ctx ∧ n.handle = t.handle ∧ n.elem = (s.src p e).toNat ∧ n.epoch = t.seq ∧
    n.level = bits (s.src64 p b).toNat 38 6 ∧ n.index = bits (s.src64 p b).toNat 0 38 ∧ n.place = .toCore (s.thr p.2).core ∧
    n.value = if t.op = 0 then (s.src p a).setWidth 64 else s.src64 p a

/-- A participant contributes. -/
def contributes (s : State) (t : TreeSet) (p : Nat × Nat) (e a b : Opnd) : State :=
  (s.updThr p.2 fun x => x.incCtr .ct s.nextId).contribute t (s.thr p.2).core (s.src p e).toNat (bits (s.src64 p b).toNat 38 6)
    (bits (s.src64 p b).toNat 0 38) (if t.op = 0 then (s.src p a).setWidth 64 else s.src64 p a) (some (p.2, s.pc))

theorem contributes_contributed (s : State) (t : TreeSet) (p : Nat × Nat) (e a b : Opnd) : Contributed s (contributes s t p e a b) where
  unit := rfl
  size := length_upd ..
  groups := rfl
  teams := rfl
  launches := rfl
  sets := rfl
  thread k := by
    have hp := fun {β : Type} (part : Thread → β) (hf : ∀ x, part (x.incCtr .ct s.nextId) = part x) =>
      thr_updThr_part (part := part) hf s p.2 k
    exact ⟨hp Thread.v fun _ => rfl, hp Thread.group fun _ => rfl, hp Thread.core fun _ => rfl⟩
  nodes n hn := List.mem_append_left _ hn

theorem contributes_ct (s : State) (t : TreeSet) (p : Nat × Nat) (e a b : Opnd) {k : Nat} (hk : k < s.threads.length) :
    ((contributes s t p e a b).thr k).ct = (s.thr k).ct + if p.2 = k then 1 else 0 := by
  have hthr : (contributes s t p e a b).thr k = (s.updThr p.2 fun x => x.incCtr .ct s.nextId).thr k := rfl
  rw [hthr]
  by_cases hp : p.2 = k
  · subst hp
    rw [thr_updThr_self hk, if_pos rfl]
    rfl
  · rw [thr_updThr_other (Ne.symm hp), if_neg hp]
    rfl

/-- What CONTRIB does for a participant. -/
def contribStep (e a b : Opnd) (s : State) (p : Nat × Nat) : State :=
  match s.labelled p e b with
  | .error _ => s
  | .ok t => contributes s t p e a b

theorem contribStep_contributed (e a b : Opnd) (s : State) (p : Nat × Nat) : Contributed s (contribStep e a b s p) := by
  unfold contribStep
  split
  exacts [.refl s, contributes_contributed ..]

/-- The participants' contributions, one after the other. -/
theorem contribs {s : State} {l : List (Nat × Nat)} {e a b : Opnd} {t : Nat × Nat → TreeSet} (hn : (l.map Prod.snd).Nodup)
    (hk : ∀ p ∈ l, p.2 < s.threads.length) (ht : ∀ p ∈ l, s.labelled p e b = .ok (t p)) :
    Contributed s (l.foldl (contribStep e a b) s) ∧ ∀ p ∈ l,
      ((l.foldl (contribStep e a b) s).thr p.2).ct = (s.thr p.2).ct + 1 ∧
      ∃ n ∈ (l.foldl (contribStep e a b) s).fly.nodes, nodeOf s p (t p) e a b n := by
  have hstep : ∀ z, ∀ p ∈ l, Contributed z (contribStep e a b z p) := fun z p _ => contribStep_contributed ..
  have hgo : ∀ z, Contributed s z → ∀ p ∈ l, contribStep e a b z p = contributes z (t p) p e a b := fun z hz p hp => by
    rw [contribStep, hz.labelled, ht p hp]
  refine ⟨foldl_related .refl .trans l s hstep, fun p hp => ⟨?_, ?_⟩⟩
  · refine foldl_counts (n := fun z k => (z.thr k).ct) (key := Prod.snd) (w := fun _ => 1) .refl .trans l s hstep hn
      (fun z hz x hx x' hx' => ?_) p hp
    rw [hgo z hz x hx, contributes_ct _ _ _ _ _ _ (hz.size ▸ hk x' hx')]
  · refine foldl_brings .refl .trans (P := fun p z => ∃ n ∈ z.fly.nodes, nodeOf s p (t p) e a b n) l s hstep
      (fun p z z' ⟨n, hmem, hnode⟩ hz => ⟨n, hz.nodes n hmem, hnode⟩) (fun z hz p hp => ?_) p hp
    rw [hgo z hz p hp]
    refine ⟨_, List.mem_append_right _ List.mem_cons_self, ?_⟩
    simp [nodeOf, hz.src, hz.src64, hz.pc, (hz.thread p.2).2.2]

/-! TSTAT. -/

/-- TSTAT's operations lead from `s` to `z`: the elements and the device's number are as before, and nothing under way is lost. -/
structure Stated (s z : State) : Prop where
  unit : z.unit = s.unit
  bar0 : z.bar0 = s.bar0
  elems : z.fly.elems = s.fly.elems
  ops : ∀ o ∈ s.fly.ops, o ∈ z.fly.ops
  out : ∀ r ∈ s.fabric.out, r ∈ z.fabric.out

theorem Stated.refl (s : State) : Stated s s := ⟨rfl, rfl, rfl, fun _ h => h, fun _ h => h⟩

theorem Stated.trans {s t u : State} (h : Stated s t) (h' : Stated t u) : Stated s u :=
  ⟨h'.unit.trans h.unit, h'.bar0.trans h.bar0, h'.elems.trans h.elems, fun o ho => h'.ops o (h.ops o ho),
    fun r hr => h'.out r (h.out r hr)⟩

theorem emptyDst_stated (s : State) (ok : List (Nat × Nat)) (d : Opnd) (n : Nat) (id : Nat × Nat → Nat) : Stated s (s.emptyDst ok d n id) := by
  unfold State.emptyDst
  dsimp only
  split
  · exact ⟨rfl, rfl, rfl, fun _ h => h, fun _ h => h⟩
  · split
    · exact ⟨rfl, rfl, rfl, fun _ h => h, fun _ h => h⟩
    · exact .refl s
  · exact .refl s

theorem startOp_stated (s : State) (t batch va : Nat) (kind : OpKind) : Stated s (s.startOp t batch va kind) :=
  ⟨rfl, rfl, rfl, fun _ h => List.mem_append_left _ h, fun _ h => h⟩

theorem tstatKind_stated (s : State) (t : TreeSet) (elem : Nat) (dst : Opnd) : Stated s (s.tstatKind t elem dst).1 := by
  unfold State.tstatKind
  split
  · exact .refl s
  · exact ⟨rfl, rfl, rfl, fun _ h => h, fun _ h => List.mem_append_left _ h⟩

/-- What TSTAT does for a participant: `m` its element, `dst` its destination, `batch` the word's number. -/
def statStep (t : TreeSet) (m batch : Nat) (dst : Opnd) (r : State) (p : Nat × Nat) : State :=
  ((r.tstatKind t m dst).1.emptyDst [p] dst 2 fun _ => (r.tstatKind t m dst).1.nextId).startOp p.2 batch 0 (r.tstatKind t m dst).2

/-- A participant's destination of TSTAT: of scalar registers the lowest one's only. -/
def statDst (d : Opnd) (ok : List (Nat × Nat)) (p : Nat × Nat) : Opnd :=
  match d with
  | .s _ => if p = lowest ok then d else .zero
  | d => d

/-- The same, of the element that its operands name, where there is one. -/
def tstatStep (s : State) (d a b : Opnd) (ok : List (Nat × Nat)) (r : State) (p : Nat × Nat) : State :=
  match s.statTree p a b with
  | .error _ => r
  | .ok t => statStep t (s.src p a).toNat s.nextId (statDst d ok p) r p

theorem statStep_stated (t : TreeSet) (m batch : Nat) (dst : Opnd) (r : State) (p : Nat × Nat) : Stated r (statStep t m batch dst r p) :=
  ((tstatKind_stated ..).trans (emptyDst_stated ..)).trans (startOp_stated ..)

/-- The bits of TSTAT's word: the epoch, and the state and cause of the element where they have the widths of their fields. -/
theorem elemWord_bits (t : TreeSet) (x : Nat × Nat) : bits (elemWord t x).toNat 0 48 = t.seq % 2 ^ 48 ∧
    (x.1 < 4 → x.2 < 16 → bits (elemWord t x).toNat 62 2 = x.1 ∧ bits (elemWord t x).toNat 58 4 = x.2) := by
  unfold elemWord bits
  rw [BitVec.toNat_ofNat]
  refine ⟨by omega, fun h1 h2 => ⟨by omega, by omega⟩⟩

/-- A participant's TSTAT is under way: its word is on its way, or asked of the device of the root's meeting place. -/
def StatUnderWay (s : State) (t : TreeSet) (m : Nat) (p : Nat × Nat) (z : State) : Prop :=
  (s.nodeHome t t.top 0 = none → ∃ o ∈ z.fly.ops, o.thread = p.2 ∧
    ∃ dst w, o.kind = .fill dst 2 (.ok w) none ∧ bits w.toNat 0 48 = t.seq % 2 ^ 48 ∧
      ((s.elemState t.ctx t.handle m t.seq).1 < 4 → (s.elemState t.ctx t.handle m t.seq).2 < 16 →
        bits w.toNat 62 2 = (s.elemState t.ctx t.handle m t.seq).1 ∧ bits w.toNat 58 4 = (s.elemState t.ctx t.handle m t.seq).2)) ∧
  (∀ x, s.nodeHome t t.top 0 = some x → ∃ o ∈ z.fly.ops, o.thread = p.2 ∧
    ∃ id dst, o.kind = .remote id dst 2 0 8 false none none none ∧ ∃ r ∈ z.fabric.out, r.id = id ∧ r.op = .treeStat t.handle m)

theorem StatUnderWay.stated {s z z' : State} {t : TreeSet} {m : Nat} {p : Nat × Nat} (h : StatUnderWay s t m p z) (hz : Stated z z') :
    StatUnderWay s t m p z' := by
  refine ⟨fun hn => ?_, fun x hx => ?_⟩
  · obtain ⟨o, ho, hrest⟩ := h.1 hn
    exact ⟨o, hz.ops o ho, hrest⟩
  · obtain ⟨o, ho, hthread, id, dst, hkind, r, hr, hrest⟩ := h.2 x hx
    exact ⟨o, hz.ops o ho, hthread, id, dst, hkind, r, hz.out r hr, hrest⟩

theorem statStep_underWay {s z : State} (hz : Stated s z) (t : TreeSet) (m batch : Nat) (dst : Opnd) (p : Nat × Nat) :
    StatUnderWay s t m p (statStep t m batch dst z p) := by
  have hhome : z.nodeHome t t.top 0 = s.nodeHome t t.top 0 := by simp only [State.nodeHome, hz.bar0]
  have hstate : z.elemState t.ctx t.handle m t.seq = s.elemState t.ctx t.handle m t.seq := by simp only [State.elemState, hz.elems]
  refine ⟨fun hn => ?_, fun x hx => ?_⟩
  · have hkind : (z.tstatKind t m dst).2 = .fill dst 2 (.ok (elemWord t (s.elemState t.ctx t.handle m t.seq))) none := by
      simp only [State.tstatKind, hhome, hn, hstate]
    obtain ⟨hseq, hbits⟩ := elemWord_bits t (s.elemState t.ctx t.handle m t.seq)
    exact ⟨_, List.mem_append_right _ List.mem_cons_self, rfl, dst, _, hkind, hseq, hbits⟩
  · have hkind : z.tstatKind t m dst = (z.ask t.ctx x.2 t.ctx x.1 (.treeStat t.handle m), .remote z.nextId dst 2 0 8 false none none none) := by
      simp only [State.tstatKind, hhome, hx]
    have hout : ∃ r ∈ (z.tstatKind t m dst).1.fabric.out, r.id = z.nextId ∧ r.op = .treeStat t.handle m := by
      rw [hkind]
      exact ⟨_, List.mem_append_right _ List.mem_cons_self, rfl, rfl⟩
    obtain ⟨r, hr, hrest⟩ := hout
    exact ⟨_, List.mem_append_right _ List.mem_cons_self, rfl, z.nextId, dst, congrArg Prod.snd hkind, r,
      ((emptyDst_stated ..).trans (startOp_stated ..)).out r hr, hrest⟩

theorem StatUnderWay.goesOn {s t : State} {x : TreeSet} {m : Nat} {p : Nat × Nat} (h : StatUnderWay s x m p t) (s' : State) (g c : Nat) :
    StatUnderWay s x m p (Safety.goesOn s' t g c State.advance) := by
  have ho := goesOn_onward s' t g c
  have hfabric : (Safety.goesOn s' t g c State.advance).fabric = t.fabric := ho.same State.fabric (fun _ _ _ => rfl) fun _ _ => rfl
  refine ⟨fun hn => ?_, fun x hx => ?_⟩
  · rw [ho.ops]
    exact h.1 hn
  · rw [ho.ops, hfabric]
    exact h.2 x hx

/-- Settles O30: the participants contribute, or ask for their element, one after the other; none changes what the next one reads. -/
theorem treeWordsComplete : Obligations.TreeWordsComplete := by
  unfold Obligations.TreeWordsComplete
  intro s d e a b g t hs
  obtain ⟨hn, hk⟩ := unitOk_participants hs (parts_lanes s g)
  simp only [val32_src, val64_src]
  refine ⟨fun hi h => ?_, fun hi h => ?_⟩
  · obtain ⟨hall, heach⟩ := contribs (a := a) hn hk fun p hp => (h p hp).2.1
    rw [exec_contrib, execContrib]
    refine run_next hi (fun p hp => (h p hp).2.2) (fun _ => ?_) (fun _ _ => rfl) rfl fun u hu => ?_
    · refine List.any_eq_false.mpr fun p hp => ?_
      simp [Thread.ctr, Nat.not_le.mpr (h p hp).1]
    · have hact : u = (s.parts g).foldl (contribStep e a b) s := hu.symm
      subst hact
      refine ⟨hall.unit ▸ hi.lanes, fun p hp => ?_⟩
      obtain ⟨hct, n, hmem, hnode⟩ := heach p hp
      obtain ⟨-, -, -, -, -, -, -, hplace, -⟩ := id hnode
      refine ⟨(goesOn_steady (part := Thread.ct) (fun _ _ _ _ _ => rfl) ..).trans hct, n, ?_, hnode⟩
      exact (goesOn_onward ..).nodes n hmem fun k a => by rw [hplace]; exact NodePlace.noConfusion
  · have htree : ∀ p ∈ s.parts g, s.statTree p a b = .ok (t p) := fun p hp => by
      obtain ⟨hnamed, helem⟩ := h p hp
      rw [State.statTree, hnamed]
      exact if_neg (Nat.not_le.mpr helem)
    rw [exec_tstat, execTstat]
    refine run_next hi (fun _ _ => rfl) (fun _ => rfl) (fun p hp => ?_) rfl fun u hu => ?_
    · dsimp only
      rw [htree p hp]
    · have hact : u = (s.parts g).foldl (tstatStep s d a b (s.parts g)) s := hu.symm
      subst hact
      have hgo : ∀ z, ∀ p ∈ s.parts g, ∃ dst, tstatStep s d a b (s.parts g) z p = statStep (t p) (s.src p a).toNat s.nextId dst z p :=
        fun z p hp => ⟨statDst d (s.parts g) p, by simp only [tstatStep, htree p hp]⟩
      have hstep : ∀ z, ∀ p ∈ s.parts g, Stated z (tstatStep s d a b (s.parts g) z p) := fun z p hp => by
        obtain ⟨dst, he⟩ := hgo z p hp
        rw [he]
        exact statStep_stated ..
      have hall := foldl_related .refl .trans (s.parts g) s hstep
      have heach := foldl_brings .refl .trans (P := fun p z => StatUnderWay s (t p) (s.src p a).toNat p z) (s.parts g) s hstep
        (fun _ _ _ => StatUnderWay.stated) fun z hz p hp => by
          obtain ⟨dst, he⟩ := hgo z p hp
          rw [he]
          exact statStep_underWay hz ..
      exact ⟨hall.unit ▸ hi.lanes, fun p hp => (heach p hp).goesOn ..⟩

end Sys2Proof.Proofs
end

section
/-! PROOFS. SLOAD, SPOLL and UNSUB (R342 to R344). -/

namespace Sys2Proof.Proofs

open Sys2Proof.Machine Sys2Proof.Safety Sys2Proof.Laws

theorem exec_sload (q : Nat) (ring : Bool) (a b : Opnd) (g : Nat) (s : State) : exec (.sload q ring a b g) s = execSload q ring a b g s := rfl

theorem exec_spoll (d a b : Opnd) (w64 peek : Bool) (s : State) : exec (.spoll d a b w64 peek) s = execSpoll d a b w64 peek s := rfl

theorem exec_unsub (b : Opnd) (g : Nat) (s : State) : exec (.unsub b g) s = execUnsub b g s := rfl

/-! What slots are written by, and what asking another device leaves alone. -/

/-- The unit, the threads and what standing loads have under way are as before. -/
structure Slotted (s t : State) : Prop where
  unit : t.unit = s.unit
  threads : t.threads = s.threads
  ops : t.fly.ops = s.fly.ops
  reqs : t.fly.reqs = s.fly.reqs
  pushes : t.fly.pushes = s.fly.pushes

theorem Slotted.refl (s : State) : Slotted s s := ⟨rfl, rfl, rfl, rfl, rfl⟩

theorem Slotted.trans {s t u : State} (h : Slotted s t) (h' : Slotted t u) : Slotted s u :=
  ⟨h'.unit.trans h.unit, h'.threads.trans h.threads, h'.ops.trans h.ops, h'.reqs.trans h.reqs, h'.pushes.trans h.pushes⟩

theorem Slotted.thr {s t : State} (h : Slotted s t) (k : Nat) : t.thr k = s.thr k := by simp only [State.thr, h.threads]

theorem Slotted.pc {s t : State} (h : Slotted s t) : t.pc = s.pc := by rw [State.pc, h.unit, State.pc]

theorem Sent.slotted {s t : State} (h : Sent s t) : Slotted s t :=
  ⟨h.unit, h.threads, h.ops, h.same fun x => x.fly.reqs, h.same fun x => x.fly.pushes⟩

theorem setSlot_slotted (s : State) (m slot : Nat) (x : Slot) : Slotted s (s.setSlot m slot x) :=
  ((Sent.foldl (fun s _ => writeSpad_sent s _ _) _ s).trans (writeSpad_sent ..)).slotted

theorem askFor_slotted (s : State) (ctx : Nat) (who : Reader) (entry : Nat) (op : RemoteOp) : Slotted s (s.askFor ctx who entry op) := by
  unfold State.askFor
  split
  · exact .refl s
  · split
    · exact ⟨rfl, rfl, rfl, rfl, rfl⟩
    · exact (ask_sent ..).slotted.trans ⟨rfl, rfl, rfl, rfl, rfl⟩

theorem acquire_slotted (s : State) (core : Nat) (sc : Scope) : Slotted s (s.acquire core sc) := by
  cases sc <;> exact ⟨rfl, rfl, rfl, rfl, rfl⟩

/-! How a word goes on that says so itself. -/

/-- The state in which a word that led to `t` has been charged and has issued. -/
def paid (s t : State) (g c : Nat) : State := (t.pay (ctxAt s) s.unit.core (s.costNow c) (s.parts g)).issued

theorem goesOn_paid (s t : State) (g c : Nat) (fin : State → State) : goesOn s t g c fin = fin (paid s t g c) := rfl

section

variable (s t : State) (g c : Nat)

theorem paid_unit_part {β : Type} {part : IssueUnit → β}
    (h : ∀ u n, part { u with expired := none, blocked := false, issued := n } = part u) : part (paid s t g c).unit = part t.unit := by
  rw [paid, issued_unit_part h, pay_unit]

theorem paid_pc : (paid s t g c).pc = t.pc := paid_unit_part (part := fun u => wordAddr u.hdr u.idx) s t g c fun _ _ => rfl

theorem paid_reqs : (paid s t g c).fly.reqs = t.fly.reqs := (pay_kept t ..).same fun x => x.fly.reqs

theorem paid_thr_part {β : Type} {part : Thread → β} (h : ∀ x n, part { x with since := n, waits := false } = part x) (k : Nat) :
    part ((paid s t g c).thr k) = part (t.thr k) := by
  rw [paid, thr_issued_part h, State.thr, pay_threads]
  rfl

theorem paid_blocked (hl : t.unit.lanes ≠ []) : (paid s t g c).unit.blocked = false := by
  rw [paid, State.issued]
  have hu := unit_updUnit (s := t.pay (ctxAt s) s.unit.core (s.costNow c) (s.parts g)) (by rw [pay_unit]; exact hl)
  exact congrArg IssueUnit.blocked (hu _)

end

/-! SLOAD. -/

section

variable {s t : State} {q g : Nat} {ring : Bool} {a b : Opnd} {p : Nat × Nat}

/-- The request that a participant of SLOAD sends. -/
def requestOf (s : State) (p : Nat × Nat) (line : Place) (a b : Opnd) : SloadReq :=
  { id := s.nextId, thread := p.2, pc := s.pc, line := line, va := s.src64 p a, team := s.unitTeam,
    slot := (s.src p b).toNat % 2 ^ 24, answer := none }

/-- The state in which a participant's request is under way and counted. -/
def requested (s : State) (p : Nat × Nat) (line : Place) (ring : Bool) (a b : Opnd) : State :=
  (((s.setSlot s.unitTeam ((s.src p b).toNat % 2 ^ 24) (Slot.fresh ring (bits (s.src64 p a).toNat 7 50))).updThr p.2 fun x =>
    x.incCtr .gx s.nextId).updFly fun f => { f with reqs := f.reqs ++ [requestOf s p line a b] }).takeId

/-- What SLOAD asks of its slot (R342). -/
def Slot.loadable (x : Slot) : Prop := x.state = 0 ∨ x.state = 3 ∨ x.state = 5 ∨ x.state = 6

theorem requested_sends (s : State) (p : Nat × Nat) (line : Place) (ring : Bool) (a b : Opnd) :
    (requested s p line ring a b).unit = s.unit ∧
    (requested s p line ring a b).threads = (s.updThr p.2 fun x => x.incCtr .gx s.nextId).threads ∧
    (requested s p line ring a b).fly.reqs = s.fly.reqs ++ [requestOf s p line a b] := by
  have hset := setSlot_slotted s s.unitTeam ((s.src p b).toNat % 2 ^ 24) (Slot.fresh ring (bits (s.src64 p a).toNat 7 50))
  obtain ⟨y, hy⟩ := exists_eq (a' := s.setSlot s.unitTeam ((s.src p b).toNat % 2 ^ 24) (Slot.fresh ring (bits (s.src64 p a).toNat 7 50)))
  unfold requested
  rw [← hy] at hset ⊢
  exact ⟨hset.unit, congrArg (fun l => upd l p.2 fun x : Thread => x.incCtr .gx s.nextId) hset.threads,
    congrArg (fun l => l ++ [requestOf s p line a b]) hset.reqs⟩

/-- A request is sent and counted, also of a peer's line. -/
theorem sloadStart_sends {line : Place} (hno : s.sloadReq p.2 = none) (hline : s.sloadLine p ring a b = .ok line)
    (hst : Slot.loadable (s.slot s.unitTeam ((s.src p b).toNat % 2 ^ 24))) :
    ∃ z, s.sloadStart ring a b p = .ok z ∧ Slotted (requested s p line ring a b) z := by
  have hfree : ¬ ((s.slot s.unitTeam ((s.src p b).toNat % 2 ^ 24)).state = 1 ∨ (s.slot s.unitTeam ((s.src p b).toNat % 2 ^ 24)).state = 2 ∨
      (s.slot s.unitTeam ((s.src p b).toNat % 2 ^ 24)).state = 4 ∨ 6 < (s.slot s.unitTeam ((s.src p b).toNat % 2 ^ 24)).state) := by
    unfold Slot.loadable at hst
    omega
  have htlb := (noteTlb_sent (requested s p line ring a b) s.unitCtx (s.src64 p a).toNat).slotted
  unfold State.sloadStart
  simp only [hno, hline, Option.isSome_none, Bool.false_eq_true, if_false, hfree]
  refine ⟨_, rfl, ?_⟩
  split
  · exact htlb.trans (askFor_slotted ..)
  · exact htlb

/-- Whether any of the unit's threads waits for a request of its own at the word at issue. -/
theorem sloadReq_isSome {r : SloadReq} (hr : r ∈ s.fly.reqs) (hk : r.thread = p.2) (hpc : r.pc = s.pc) : (s.sloadReq p.2).isSome = true := by
  refine List.find?_isSome.mpr ⟨r, hr, ?_⟩
  simp [hk, hpc]

theorem sload_sends {line : Place} (hs : UnitOk s) (hp : s.parts g = [p]) (hi : Issues s g [srcUse a 2 0, srcUse b 1 0])
    (hno : s.sloadReq p.2 = none) (hline : s.sloadLine p ring a b = .ok line)
    (hst : Slot.loadable (s.slot s.unitTeam ((s.src p b).toNat % 2 ^ 24)))
    (hgx : (s.thr p.2).gx < 63) :
    ∃ t, exec (.sload q ring a b g) s = .next t ∧ t.unit.blocked = true ∧ t.unit.idx = s.unit.idx ∧
      (t.thr p.2).gx = (s.thr p.2).gx + 1 ∧ ∃ r ∈ t.fly.reqs, r = requestOf s p line a b := by
  have hlane : p ∈ s.unit.lanes := (parts_lanes s g).subset (hp ▸ List.mem_singleton_self p)
  have hk := hs.threads p hlane
  obtain ⟨z, hz, hsent⟩ := sloadStart_sends hno hline hst
  obtain ⟨hunit, hthreads, hreqs⟩ := requested_sends s p line ring a b
  replace hunit := hsent.unit.trans hunit
  replace hthreads := hsent.threads.trans hthreads
  replace hreqs := hsent.reqs.trans hreqs
  have hdone : s.sloadDone (s.parts g) = false := by simp [State.sloadDone, hp, hno]
  rw [exec_sload, execSload]
  dsimp only
  rw [hdone]
  refine run_next hi (fun x hx => ?_) (fun _ => ?_) (fun x hx => ?_) rfl fun u hu => ?_
  · obtain rfl := List.mem_singleton.mp (hp ▸ hx)
    dsimp only
    rw [hno]
  · simp [hp, Nat.not_le.mpr hgx]
  · dsimp only
    rw [hp]
    simp only [inTurn, hz, List.find?_nil, Option.map_none]
  · have hact : z = u := by
      rw [← hu]
      simp [inTurn, hp, hz]
    subst hact
    clear hu
    have hl : z.unit.lanes ≠ [] := hunit ▸ hi.lanes
    refine ⟨hl, ?_⟩
    let cost := if (s.parts g).any fun p => (s.sloadReq p.2).isSome then 0 else 2
    have hpc : (paid s z g cost).pc = s.pc := (paid_pc ..).trans (by rw [State.pc, hunit, State.pc])
    have hreq : requestOf s p line a b ∈ (paid s z g cost).fly.reqs :=
      (paid_reqs s z g cost).symm ▸ hreqs ▸ List.mem_append_right _ List.mem_cons_self
    have hlanes : (paid s z g cost).unit.lanes = s.unit.lanes :=
      (paid_unit_part (part := IssueUnit.lanes) s z g cost fun _ _ => rfl).trans (congrArg IssueUnit.lanes hunit)
    have hwait : ((paid s z g cost).unit.lanes.any fun p => ((paid s z g cost).sloadReq p.2).isSome) = true := by
      rw [hlanes]
      exact List.any_eq_true.mpr ⟨p, hlane, sloadReq_isSome hreq rfl hpc.symm⟩
    rw [goesOn_paid]
    dsimp only
    rw [if_pos hwait, block_unit (by rw [hlanes]; exact hi.lanes)]
    refine ⟨rfl, ?_, ?_, _, hreq, rfl⟩
    · exact (paid_unit_part (part := IssueUnit.idx) s z g cost fun _ _ => rfl).trans (congrArg IssueUnit.idx hunit)
    · have hthr : z.thr p.2 = (s.thr p.2).incCtr .gx s.nextId := by
        rw [State.thr, hthreads, ← State.thr, thr_updThr_self hk]
      rw [block_thr_part (part := Thread.gx) fun _ _ _ => rfl, paid_thr_part (part := Thread.gx) s z g cost fun _ _ => rfl, hthr]
      rfl

omit t in
theorem advance_blocked {s : State} (hr : s.unit.rep = none) (hl : s.unit.lanes ≠ []) : s.advance.unit.blocked = s.unit.blocked := by
  rw [State.advance, hr]
  dsimp only
  have hlanes : (s.updUnit s.cur fun u => { u with scope := none }).unit.lanes = s.unit.lanes :=
    updUnit_lanes (f := fun u => { u with scope := none }) (fun _ => rfl) s s.cur
  rw [nextWord_unit_part (part := IssueUnit.blocked) (fun _ _ => rfl) (fun _ _ => rfl) (fun _ _ => rfl) (by rw [hlanes]; exact hl),
    unit_updUnit hl]

theorem sloadReq_none (h : ∀ z ∈ t.fly.reqs, ¬ (z.thread = p.2 ∧ z.pc = t.pc)) : t.sloadReq p.2 = none :=
  List.find?_eq_none.mpr fun z hz => by simpa using h z hz

/-- The participants read their answers, and their requests at the word at issue are done. -/
def sloadRead (s : State) (ok : List (Nat × Nat)) (q : Nat) : State :=
  (s.putPred ok q fun p => ((s.sloadReq p.2).bind SloadReq.answer).getD false).updFly fun f =>
    { f with reqs := f.reqs.filter fun r => !(r.pc == s.pc && ok.any fun p => p.2 == r.thread) }

theorem sload_answers {r : SloadReq} {yes : Bool} (hs : UnitOk s) (hp : s.parts g = [p]) (hi : Issues s g [srcUse a 2 0, srcUse b 1 0])
    (hr : s.sloadReq p.2 = some r) (hyes : r.answer = some yes) (hall : ∀ u ∈ s.unit.lanes, u = p) (hrep : s.unit.rep = none) :
    ∃ t, exec (.sload q ring a b g) s = .next t ∧ t.unit.blocked = false ∧ (t.thr p.2).preds = setPred (s.thr p.2).preds q yes ∧
      ∀ z ∈ t.fly.reqs, ¬ (z.thread = p.2 ∧ z.pc = s.pc) := by
  have hlane : p ∈ s.unit.lanes := (parts_lanes s g).subset (hp ▸ List.mem_singleton_self p)
  have hdone : s.sloadDone (s.parts g) = true := by simp [State.sloadDone, hp, hr, hyes]
  rw [exec_sload, execSload]
  dsimp only
  rw [hdone]
  refine run_next hi (fun x hx => ?_) (fun _ => ?_) (fun x hx => ?_) rfl fun u hu => ?_
  · obtain rfl := List.mem_singleton.mp (hp ▸ hx)
    dsimp only
    rw [hr]
    simp [hyes]
  · simp [hp, hr]
  · simp [hp, inTurn, State.sloadStart, hr]
  · have hact : sloadRead s (s.parts g) q = u := by
      rw [← hu] <;> rfl
    subst hact
    clear hu
    refine ⟨hi.lanes, ?_⟩
    let cost := if (s.parts g).any fun p => (s.sloadReq p.2).isSome then 0 else 2
    let z := sloadRead s (s.parts g) q
    have hpc : (paid s z g cost).pc = s.pc := paid_pc ..
    have hnone : ∀ r ∈ (paid s z g cost).fly.reqs, ¬ (r.thread = p.2 ∧ r.pc = s.pc) := fun r hr ⟨hk, hrpc⟩ => by
      have hleft := (List.mem_filter.mp (paid_reqs s z g cost ▸ hr : r ∈ z.fly.reqs)).2
      simp [hp, hk, hrpc] at hleft
    have hlanes : (paid s z g cost).unit.lanes = s.unit.lanes := paid_unit_part (part := IssueUnit.lanes) s z g cost fun _ _ => rfl
    have hpast : ¬ ((paid s z g cost).unit.lanes.any fun p => ((paid s z g cost).sloadReq p.2).isSome) = true := by
      rw [hlanes]
      refine Bool.eq_false_iff.mp (List.any_eq_false.mpr fun x hx => ?_)
      rw [hall x hx, sloadReq_none (by rwa [hpc])]
      exact Bool.false_ne_true
    have hprep : (paid s z g cost).unit.rep = none := (paid_unit_part (part := IssueUnit.rep) s z g cost fun _ _ => rfl).trans hrep
    rw [goesOn_paid]
    dsimp only
    rw [if_neg hpast]
    refine ⟨(advance_blocked hprep (by rw [hlanes]; exact hi.lanes)).trans (paid_blocked s z g cost hi.lanes), ?_, ?_⟩
    · have hthr : z.thr p.2 = { s.thr p.2 with preds := setPred (s.thr p.2).preds q yes } := by
        have hz : z.thr p.2 = (s.each (s.parts g) fun p x =>
          { x with preds := setPred x.preds q (((s.sloadReq p.2).bind SloadReq.answer).getD false) }).thr p.2 := rfl
        rw [hz, thr_each_of_find (p := p) (hs.threads p hlane) (by rw [hp]; simp)]
        simp only [hr, hyes, Option.bind_some, Option.getD_some]
      rw [State.thr, advance_threads hprep, ← State.thr, paid_thr_part (part := Thread.preds) s z g cost fun _ _ => rfl, hthr]
    · rwa [(advance_onward _).same (fun x => x.fly.reqs) (fun _ _ _ => rfl) fun _ _ => rfl]

end

/-! SPOLL. -/

theorem takeSlot_lands {z : State} {m slot batch words b : Nat} {o : Op} {dst : Opnd} {w64 peek : Bool} {v : Dword} (ho : o ∈ z.fly.ops)
    (hb : o.batch = batch) (hk : o.kind = .take dst words slot b w64 peek) (hm : z.teamOf o.thread = m)
    (hst : (z.slot m slot).state ≠ 6) (hv : z.slotElem m slot b w64 = some v) :
    ∃ o' ∈ (z.takeSlot m slot batch).fly.ops, o'.thread = o.thread ∧ o'.kind = .fill dst words (.ok v) none := by
  refine ⟨{ o with kind := .fill dst words (.ok v) none }, ?_, rfl, rfl⟩
  unfold State.takeSlot
  dsimp only
  rw [(acquire_slotted ..).ops]
  have hmem : ∀ f : Op → Op, f o = { o with kind := .fill dst words (.ok v) none } →
      { o with kind := .fill dst words (.ok v) none } ∈ z.fly.ops.map f := fun f hf => hf ▸ List.mem_map_of_mem ho
  split
  · refine hmem _ ?_
    simp [hb, State.takeOf, hk, hm, hv]
  · rw [(setSlot_slotted ..).ops]
    refine hmem _ ?_
    simp [hb, State.takeOf, hk, hm, hv]

theorem takeSlot_unit (z : State) (m slot batch : Nat) : (z.takeSlot m slot batch).unit = z.unit := by
  unfold State.takeSlot
  dsimp only
  rw [(acquire_slotted ..).unit]
  split
  exacts [rfl, (setSlot_slotted ..).unit]

section

variable {s : State} {d a b : Opnd} {w64 peek : Bool} {p : Nat × Nat} {slot elem : Nat}

/-- The state in which a lone participant's take is under way. -/
def taking (s : State) (p : Nat × Nat) (d : Opnd) (w64 peek : Bool) (slot elem : Nat) : State :=
  (s.emptyDst [p] (dstFor d true) (if w64 then 2 else 1) fun _ => s.nextId).startOp p.2 s.nextId slot
    (.take (dstFor d true) (if w64 then 2 else 1) slot elem w64 peek)

theorem taking_takes (s : State) (p : Nat × Nat) (d : Opnd) (w64 peek : Bool) (slot elem : Nat) :
    ∃ o ∈ (taking s p d w64 peek slot elem).fly.ops, o.thread = p.2 ∧ o.batch = s.nextId ∧
      o.kind = .take (dstFor d true) (if w64 then 2 else 1) slot elem w64 peek :=
  ⟨_, List.mem_append_right _ List.mem_cons_self, rfl, rfl, rfl⟩

/-- Emptying a destination leaves the storage and the teams, and each thread's team. -/
theorem emptyDst_storage (s : State) (ok : List (Nat × Nat)) (d : Opnd) (n : Nat) (id : Nat × Nat → Nat) :
    (s.emptyDst ok d n id).sto = s.sto ∧ (s.emptyDst ok d n id).teams = s.teams := by
  unfold State.emptyDst
  dsimp only
  split
  · exact ⟨rfl, rfl⟩
  · split <;> exact ⟨rfl, rfl⟩
  · exact ⟨rfl, rfl⟩

theorem emptyDst_teamOf (s : State) (ok : List (Nat × Nat)) (d : Opnd) (n : Nat) (id : Nat × Nat → Nat) (k : Nat) :
    (s.emptyDst ok d n id).teamOf k = s.teamOf k := by
  have hgrp : ∀ j, ((s.emptyDst ok d n id).grp j).team = (s.grp j).team := fun j => by
    unfold State.emptyDst
    dsimp only
    split
    · rfl
    · split
      · refine grp_updGrp_part (part := Machine.Group.team) ?_ s _ j
        exact fun _ => rfl
      · rfl
    · rfl
  have hgroup : ((s.emptyDst ok d n id).thr k).group = (s.thr k).group := emptyDst_thr_part (part := Thread.group) (fun _ _ => rfl) ..
  rw [State.teamOf, hgroup, hgrp, State.teamOf]

/-- What a take reads of its slot is in the storage. -/
theorem slot_congr {z : State} (hs : z.sto = s.sto) (ht : z.teams = s.teams) (m slot elem : Nat) (w64 : Bool) :
    z.slot m slot = s.slot m slot ∧ z.slotElem m slot elem w64 = s.slotElem m slot elem w64 := by
  have haddr : ∀ m slot e, z.slotAddr m slot e = s.slotAddr m slot e := fun m slot e => by
    rw [State.slotAddr, State.slotAddr, State.team, State.team, ht]
  have hword : ∀ m slot e h, z.slotWord m slot e h = s.slotWord m slot e h := fun m slot e h => by
    rw [State.slotWord, State.slotWord, haddr, hs]
  have hbad : ∀ a n, z.spadBad a n = s.spadBad a n := fun a n => by rw [State.spadBad, State.spadBad, hs]
  have hslot : ∀ m slot, z.slot m slot = s.slot m slot := fun m slot => by simp only [State.slot, hword]
  exact ⟨hslot m slot, by simp only [State.slotElem, hslot, haddr, hbad, hs]⟩

theorem spoll_takes (hs : UnitOk s) (hp : s.parts 0 = [p])
    (hi : Issues s 0 [fillUse d (if w64 then 2 else 1), srcUse a 1 0, srcUse b 1 0]) (hat : s.atomicDue p.2 = false)
    (hspoll : s.spollAt p a b w64 = .ok (slot, elem)) :
    ((s.slot s.unitTeam slot).state = 1 → ∃ t, exec (.spoll d a b w64 peek) s = .next t ∧
      ∃ o ∈ t.fly.ops, o.thread = p.2 ∧ ∃ dst, o.kind = .take dst (if w64 then 2 else 1) slot elem w64 peek) ∧
    ((s.slot s.unitTeam slot).state ≠ 1 → (s.slot s.unitTeam slot).state ≠ 6 → ∀ v, s.slotElem s.unitTeam slot elem w64 = some v →
      ∃ t, exec (.spoll d a b w64 peek) s = .next t ∧
        ∃ o ∈ t.fly.ops, o.thread = p.2 ∧ ∃ dst, o.kind = .fill dst (if w64 then 2 else 1) (.ok v) none) := by
  let z := taking s p d w64 peek slot elem
  let z' := if (s.slot s.unitTeam slot).state = 1 then z else z.takeSlot s.unitTeam slot s.nextId
  have hunit : z.unit = s.unit := ((emptyDst_stated ..).trans (startOp_stated ..)).unit
  have hunit' : z'.unit = s.unit := by
    unfold z'
    split
    exacts [hunit, (takeSlot_unit ..).trans hunit]
  have hgo : ∃ t, exec (.spoll d a b w64 peek) s = .next t ∧ t.fly.ops = z'.fly.ops := by
    rw [exec_spoll, execSpoll]
    refine run_next hi (fun _ _ => rfl) (fun _ => ?_) (fun x hx => ?_) rfl fun u hu => ?_
    · simp [hp, hat]
    · obtain rfl := List.mem_singleton.mp (hp ▸ hx)
      dsimp only
      rw [hspoll]
    · have hact : z' = u := by
        rw [← hu]
        dsimp only
        rw [hp]
        simp only [List.foldl_cons, List.foldl_nil, hspoll, List.contains_nil, Bool.false_eq_true, if_false, List.nil_append, lowest,
          List.headD_cons, beq_self_eq_true] <;> rfl
      subst hact
      exact ⟨hunit' ▸ hi.lanes, (goesOn_onward ..).ops⟩
  obtain ⟨t, ht, hops⟩ := hgo
  obtain ⟨o, ho, hthread, hbatch, hkind⟩ := taking_takes s p d w64 peek slot elem
  have hsto := emptyDst_storage s [p] (dstFor d true) (if w64 then 2 else 1) fun _ => s.nextId
  obtain ⟨hslot, helem⟩ := slot_congr (z := z) (s := s) hsto.1 hsto.2 s.unitTeam slot elem w64
  refine ⟨fun h1 => ⟨t, ht, o, ?_, hthread, _, hkind⟩, fun h1 h6 v hv => ?_⟩
  · rw [hops]
    unfold z'
    rwa [if_pos h1]
  · have hlane : p ∈ s.unit.lanes := (parts_lanes s 0).subset (hp ▸ List.mem_singleton_self p)
    have hteam : z.teamOf o.thread = s.unitTeam := by
      have hz : z.teamOf p.2 = (s.emptyDst [p] (dstFor d true) (if w64 then 2 else 1) fun _ => s.nextId).teamOf p.2 := rfl
      rw [hthread, hz, emptyDst_teamOf, State.teamOf, hs.group p hlane, State.unitTeam]
    obtain ⟨o', ho', hthread', hkind'⟩ := takeSlot_lands ho hbatch hkind hteam (hslot.symm ▸ h6) (helem.trans hv)
    refine ⟨t, ht, o', ?_, hthread'.trans hthread, _, hkind'⟩
    rw [hops]
    unfold z'
    rwa [if_neg h1]

end

/-! UNSUB. -/

section

variable {s : State} {b : Opnd} {g : Nat} {p : Nat × Nat}

theorem unsub_idle (hi : Issues s g [srcUse b 1 0]) (hp : s.parts g = [p])
    (ht : s.slotTrap ((s.src p b).toNat % 2 ^ 24) 144 = none) (h1 : (s.slot s.unitTeam ((s.src p b).toNat % 2 ^ 24)).state ≠ 1)
    (h2 : (s.slot s.unitTeam ((s.src p b).toNat % 2 ^ 24)).state ≠ 2) : exec (.unsub b g) s = does s g 2 fun t => t := by
  rw [exec_unsub, execUnsub]
  refine run_effect hi (fun x hx => ?_) (fun _ => rfl) (fun _ _ => rfl) ?_ hi.lanes rfl
  · obtain rfl := List.mem_singleton.mp (hp ▸ hx)
    simp only [State.unsubStatus, ht, h1, h2, false_and, or_self, if_false]
  · dsimp only
    simp only [hp, List.foldl_cons, List.foldl_nil, State.unsubOne, h2, if_false]

/-- The message that a participant's UNSUB sends. -/
def unsubOf (s : State) (b : Opnd) (p : Nat × Nat) : Push :=
  { id := s.nextId, sub := ((s.subOf s.unitTeam ((s.src p b).toNat % 2 ^ 24)).map Sub.id).getD s.nextId, team := s.unitTeam,
    slot := (s.src p b).toNat % 2 ^ 24, dev := none, body := .unsub, thread := some p.2, pc := s.pc, addr := 0, err := none }

/-- The state in which a participant's message is on its way and counted. -/
def unsubbed (s : State) (b : Opnd) (p : Nat × Nat) : State :=
  (((s.updSlot s.unitTeam ((s.src p b).toNat % 2 ^ 24) fun x => { x with state := 4 }).updThr p.2 fun t =>
    t.incCtr .st s.nextId).updFly fun f => { f with pushes := f.pushes ++ [unsubOf s b p] }).takeId

theorem unsubbed_sends (s : State) (b : Opnd) (p : Nat × Nat) : (unsubbed s b p).unit = s.unit ∧
    (unsubbed s b p).threads = (s.updThr p.2 fun x => x.incCtr .st s.nextId).threads ∧
    (unsubbed s b p).fly.pushes = s.fly.pushes ++ [unsubOf s b p] := by
  have hset := setSlot_slotted s s.unitTeam ((s.src p b).toNat % 2 ^ 24)
    { s.slot s.unitTeam ((s.src p b).toNat % 2 ^ 24) with state := 4 }
  unfold unsubbed State.updSlot
  obtain ⟨y, hy⟩ := exists_eq (a' := s.setSlot s.unitTeam ((s.src p b).toNat % 2 ^ 24)
    { s.slot s.unitTeam ((s.src p b).toNat % 2 ^ 24) with state := 4 })
  rw [← hy] at hset ⊢
  exact ⟨hset.unit, congrArg (fun l => upd l p.2 fun x : Thread => x.incCtr .st s.nextId) hset.threads,
    congrArg (fun l => l ++ [unsubOf s b p]) hset.pushes⟩

/-- A subscribed slot's home is told, also where it is a peer's. -/
theorem unsubOne_sends (h2 : (s.slot s.unitTeam ((s.src p b).toNat % 2 ^ 24)).state = 2) : Slotted (unsubbed s b p) (s.unsubOne b p) := by
  unfold State.unsubOne
  simp only [h2, if_true]
  split
  · split
    exacts [askFor_slotted .., .refl _]
  · exact .refl _

theorem unsub_sends (hs : UnitOk s) (hi : Issues s g [srcUse b 1 0]) (hp : s.parts g = [p])
    (ht : s.slotTrap ((s.src p b).toNat % 2 ^ 24) 144 = none) (h2 : (s.slot s.unitTeam ((s.src p b).toNat % 2 ^ 24)).state = 2)
    (hst : (s.thr p.2).st < 63) :
    ∃ t, exec (.unsub b g) s = .next t ∧ (t.thr p.2).st = (s.thr p.2).st + 1 ∧ ∃ z ∈ t.fly.pushes, z = unsubOf s b p := by
  have hk := hs.threads p ((parts_lanes s g).subset (hp ▸ List.mem_singleton_self p))
  obtain ⟨hunit, hthreads, hpushes⟩ := unsubbed_sends s b p
  have hone := unsubOne_sends h2
  rw [exec_unsub, execUnsub]
  refine run_next hi (fun x hx => ?_) (fun _ => rfl) (fun _ _ => rfl) rfl fun u hu => ?_
  · obtain rfl := List.mem_singleton.mp (hp ▸ hx)
    simp only [State.unsubStatus, ht, h2]
    exact if_neg (by omega)
  · have hact : s.unsubOne b p = u := by
      rw [← hu]
      dsimp only
      rw [hp] <;> rfl
    subst hact
    have hthr : (s.unsubOne b p).thr p.2 = (s.thr p.2).incCtr .st s.nextId := by
      rw [hone.thr, State.thr, hthreads, ← State.thr, thr_updThr_self hk]
    refine ⟨hone.unit.trans hunit ▸ hi.lanes, ?_, _, ?_, rfl⟩
    · exact (goesOn_steady (part := Thread.st) (fun _ _ _ _ _ => rfl) ..).trans (congrArg Thread.st hthr)
    · rw [(goesOn_onward ..).same (fun x => x.fly.pushes) (fun _ _ _ => rfl) fun _ _ => rfl, hone.pushes, hpushes]
      exact List.mem_append_right _ List.mem_cons_self

end

/-- Settles O31: a lone participant's request, take or message, which no part of the word's way on touches. -/
theorem standingLoadWordsComplete : Obligations.StandingLoadWordsComplete := by
  unfold Obligations.StandingLoadWordsComplete
  intro s d a b q g ring w64 peek p hs hp
  simp only [val32_src]
  refine ⟨fun hi => ⟨fun line hno hline hst hgx => ?_, fun r yes hr hyes hall hrep => sload_answers hs hp hi hr hyes hall hrep⟩,
    fun hg hi hat slot elem hspoll => spoll_takes hs (hg ▸ hp) hi hat hspoll,
    fun hi ht => ⟨fun h1 h2 => unsub_idle hi hp ht h1 h2, fun h2 hst => ?_⟩⟩
  · obtain ⟨t, hex, hblocked, hidx, hcount, r, hr, rfl⟩ := sload_sends (q := q) hs hp hi hno hline hst hgx
    exact ⟨t, hex, hblocked, hidx, hcount, _, hr, rfl, rfl, rfl, rfl, rfl, rfl⟩
  · obtain ⟨t, hex, hcount, z, hz, rfl⟩ := unsub_sends hs hi hp ht h2 hst
    exact ⟨t, hex, hcount, _, hz, rfl, rfl, rfl, rfl⟩

end Sys2Proof.Proofs
end

section
/-! PROOFS. Events of the issue units (R84, R172, R173, R187, R198, R199, R205, R212, R441). -/

namespace Sys2Proof.Proofs

open Sys2Proof.Machine Sys2Proof.Safety Sys2Proof.Laws

theorem exec_clauseIssue (s : State) : exec .clauseIssue s = execClauseIssue s := rfl

theorem exec_foldForm (core fold : Nat) (s : State) : exec (.foldForm core fold) s = execFoldForm core fold s := rfl

theorem exec_foldAgeLimit (core fold : Nat) (s : State) : exec (.foldAgeLimit core fold) s = execFoldAgeLimit core fold s := rfl

theorem exec_unitExpired (u : Nat) (s : State) : exec (.unitExpired u) s = execUnitExpired u s := rfl

theorem exec_unitStop (u : Nat) (s : State) : exec (.unitStop u) s = execUnitStop u s := rfl

theorem exec_persistentRequest (core line : Nat) (s : State) :
    exec (.persistentRequest core line) s = execPersistentRequest core line s := rfl

theorem exec_bwaitRelease (u : Nat) (s : State) : exec (.bwaitRelease u) s = execBwaitRelease u s := rfl

theorem exec_mwaitWake (u : Nat) (s : State) : exec (.mwaitWake u) s = execMwaitWake u s := rfl

/-! CLAUSE_ISSUE. -/

/-- A unit that has passed its header's wait before enters its clause at once. -/
theorem issueClause_waited {s : State} {ws : List Word} {m : Nat} (hl : s.unit.lanes ≠ []) (hw : s.unit.waited = true)
    (hf : s.fetchClause (s.team (s.grp s.unit.group).team).launch s.unit.hdr = .ok (ws, m)) (hm : s.unit.idx ≤ m) :
    s.issueClause = (s.noteTlbs (s.ctx (s.launch (s.team (s.grp s.unit.group).team).launch).ctx)
      [bits s.unit.hdr.toNat 0 57, bits s.unit.hdr.toNat 0 57 + 4 * (ws.length - 1)]).updUnit s.cur fun x =>
        IssueUnit.enter { x with words := ws, instrs := m } := by
  obtain ⟨fetch, hfetch⟩ := exists_eq (a' := State.fetchClause)
  unfold State.issueClause
  rw [← hfetch] at hf ⊢
  simp only [hf, Nat.not_lt.mpr hm, if_false, hw, if_true]
  rw [updUnit_updUnit]
  rfl

/-- What a clause's fetch changes besides the unit: translations that are held. -/
theorem noteTlbs_updUnit (s : State) (c : Context) (vas : List Nat) (f : IssueUnit → IssueUnit) (hl : s.unit.lanes ≠ []) :
    ((s.noteTlbs c vas).updUnit s.cur f).unit = f s.unit ∧ ((s.noteTlbs c vas).updUnit s.cur f).threads = s.threads ∧
      ∃ tl, ((s.noteTlbs c vas).updUnit s.cur f).sto = { s.sto with tlb := tl } := by
  obtain ⟨tl, htl⟩ := noteTlbs_eq s c vas
  rw [htl]
  exact ⟨unit_updUnit (s := s.updSto fun y => { y with tlb := tl }) hl f, rfl, tl, rfl⟩

theorem clauseIssue_issues {s : State} {ws : List Word} {m : Nat} (hlive : s.unit.live = true) (hstop : s.unit.stopped = false)
    (hwords : s.unit.words = []) (hl : s.unit.lanes ≠ [])
    (hf : s.fetchClause (s.team (s.grp s.unit.group).team).launch s.unit.hdr = .ok (ws, m)) (hm : s.unit.idx ≤ m)
    (hb : bit (ws.headD 0).toNat 8 = false) :
    ∃ t, exec .clauseIssue s = .next t ∧ t.unit.words = ws ∧ t.unit.instrs = m ∧ t.unit.idx = max 1 s.unit.idx ∧
      t.unit.waited = true ∧ t.threads = s.threads ∧ t.sto = { s.sto with tlb := t.sto.tlb } := by
  have hif : exec .clauseIssue s = .next s.issueClause := by
    rw [exec_clauseIssue, execClauseIssue, hlive, hstop, hwords]
    rfl
  rw [hif]
  cases hw : s.unit.waited with
  | false =>
    rw [issueClause_fetched hl hw hf hm hb]
    obtain ⟨hu, ht, tl, htl⟩ := noteTlbs_updUnit s (s.ctx (s.launch (s.team (s.grp s.unit.group).team).launch).ctx)
      [bits s.unit.hdr.toNat 0 57, bits s.unit.hdr.toNat 0 57 + 4 * (ws.length - 1)] (fetchedUnit ws m) hl
    refine ⟨_, rfl, ?_⟩
    rw [hu, htl]
    exact ⟨rfl, rfl, rfl, rfl, ht, rfl⟩
  | true =>
    rw [issueClause_waited hl hw hf hm]
    obtain ⟨hu, ht, tl, htl⟩ := noteTlbs_updUnit s (s.ctx (s.launch (s.team (s.grp s.unit.group).team).launch).ctx)
      [bits s.unit.hdr.toNat 0 57, bits s.unit.hdr.toNat 0 57 + 4 * (ws.length - 1)]
      (fun x => IssueUnit.enter { x with words := ws, instrs := m }) hl
    refine ⟨_, rfl, ?_⟩
    rw [hu, htl]
    exact ⟨rfl, rfl, rfl, hw, ht, rfl⟩

/-! Folds. -/

/-- The unit that a fold forms. -/
def formed (s : State) (f : Fold) : IssueUnit :=
  { core := f.core, dp := s.leastDp f.core, group := f.group, lanes := mapFrom Prod.mk 0 f.threads, hdr := f.hdr,
    idx := f.idx, waited := decide (0 < f.idx) && !f.rewait, stamp := s.clk, fold := f.num, rank := f.num,
    stopAsk := ((f.threads.map s.thr).findSome? Thread.ask).map Prod.fst,
    bkptCode := (((f.threads.map s.thr).findSome? Thread.ask).map Prod.snd).getD 0, stepping := (f.threads.map s.thr).any Thread.step }

theorem mapFrom_lanes (l : List Nat) (k : Nat) : (mapFrom Prod.mk k l).map Prod.snd = l ∧
    (mapFrom Prod.mk k l).map Prod.fst = List.range' k l.length := by
  induction l generalizing k with
  | nil => exact ⟨rfl, rfl⟩
  | cons x r ih =>
    obtain ⟨h1, h2⟩ := ih (k + 1)
    exact ⟨congrArg (x :: ·) h1, congrArg (k :: ·) h2⟩

/-- A fold of threads that no debugger holds forms a unit, and is free. -/
theorem formFold_forms {s : State} {f : Fold} (h : ∀ k ∈ f.threads, (s.thr k).stopped = false) :
    (s.formFold f).folds = s.folds.filter (fun x => !(x.core == f.core && x.num == f.num)) ∧
    ∃ n, { formed s f with slot := n } ∈ (s.formFold f).units := by
  have hany : (f.threads.map s.thr).any Thread.stopped = false := by simpa using h
  unfold State.formFold
  dsimp only
  rw [hany, if_neg Bool.false_ne_true]
  exact ⟨rfl, _, List.mem_append_right _ List.mem_cons_self⟩

/-- The fold that forms next stands on the core. -/
theorem nextFold_core {s : State} {core : Nat} {f : Fold} (h : s.nextFold core = some f) : f.core = core := by
  have hmem : ∀ {l : List Fold}, leastBy Fold.order l = some f → f ∈ l := mem_of_leastBy
  unfold State.nextFold at h
  dsimp only at h
  split at h
  · obtain h | ⟨-, h⟩ := Option.or_eq_some_iff.mp h
    all_goals simpa using (List.mem_filter.mp (List.mem_filter.mp (hmem h)).1).2
  · exact absurd h nofun

theorem foldForm_forms {s : State} {core fold : Nat} {f : Fold} (hf : s.nextFold core = some f) (hnum : f.num = fold)
    (hstop : ∀ k ∈ f.threads, (s.thr k).stopped = false) :
    ∃ t, exec (.foldForm core fold) s = .next t ∧
      (s.foldFull f = false → s.foldAged f = true → exec (.foldAgeLimit core fold) s = .next t) ∧
      (∀ y ∈ t.folds, ¬ (y.core = core ∧ y.num = fold)) ∧
      ∃ y ∈ t.units, y.live = true ∧ y.core = core ∧ y.group = f.group ∧ y.hdr = f.hdr ∧ y.idx = f.idx ∧ y.words = [] ∧
        y.lanes.map Prod.snd = f.threads ∧ y.lanes.map Prod.fst = List.range f.threads.length := by
  obtain ⟨form, hform⟩ := exists_eq (a' := State.formFold)
  obtain ⟨hfolds, n, hn⟩ := formFold_forms hstop
  obtain ⟨hsnd, hfst⟩ := mapFrom_lanes f.threads 0
  have hcore := nextFold_core hf
  rw [exec_foldForm, execFoldForm, exec_foldAgeLimit, execFoldAgeLimit, ← hform]
  rw [← hform] at hfolds hn
  simp only [hf, hnum]
  refine ⟨form s f, if_pos trivial, fun h1 h2 => by simp [h1, h2], ?_, _, hn, rfl, hcore, rfl, rfl, rfl, rfl, hsnd,
    hfst.trans List.range_eq_range'.symm⟩
  rw [hfolds]
  intro y hy
  have := (List.mem_filter.mp hy).2
  rw [hcore, hnum] at this
  simpa [← imp_iff_not_or] using this

/-! UNIT_EXPIRED and PERSISTENT_REQUEST. -/

theorem unitExpired_expires {s : State} {u : Nat} (hlive : (s.unitAt u).live = true) (hstop : (s.unitAt u).stopped = false)
    (hrun : s.runnable (s.unitAt u) ≠ []) (hexp : (s.unitAt u).expired = none)
    (hprog : (s.recordOf (s.unitAt u).group).progress = true) (hpause : s.paused (s.grp (s.unitAt u).group).team = false)
    (hq : (s.recordOf (s.unitAt u).group).quantum ≤ 2 * s.waiting (s.unitAt u)) :
    exec (.unitExpired u) s = .next (s.updUnit u fun y => { y with expired := some s.clk }) := by
  have hall : s.expires (s.unitAt u) = true := by simp [State.expires, hlive, hstop, hrun, hexp, hprog, hpause, hq]
  rw [exec_unitExpired, execUnitExpired, if_pos hall]

theorem persistentRequest_asks {s : State} {core line : Nat} (hdie : s.homeOf line / 48 = dieOfCore core)
    (hasks : s.asks core line = true) (hnew : (line, core) ∉ s.sto.persistent) :
    exec (.persistentRequest core line) s =
      .next (s.updSto fun m => { m with persistent := m.persistent ++ [(line, core)] }) := by
  rw [exec_persistentRequest, execPersistentRequest]
  refine if_pos ?_
  simp [hdie, hasks, hnew]

/-! A unit stops. -/

/-- Pausing a team's promise leaves the units. -/
theorem pausing_units (s : State) (m : Nat) (f : State → State) : (s.pausing m f).units = (f s).units := by
  unfold State.pausing
  dsimp only
  split <;> rfl

/-- Of the threads it changes at most since when they wait. -/
theorem pausing_thr_part {β : Type} {part : Thread → β} (h : ∀ x n, part { x with since := n } = part x) (s : State) (m : Nat)
    (f : State → State) (k : Nat) : part ((s.pausing m f).thr k) = part ((f s).thr k) := by
  have hmap : ∀ (g : Thread → Thread) (l : List Thread), (∀ x, part (g x) = part x) →
      part (((l.map g)[k]?).getD .gone) = part ((l[k]?).getD .gone) := fun g l hg => by
    rw [List.getElem?_map]
    cases l[k]? with
    | none => rfl
    | some x => exact hg x
  unfold State.pausing
  dsimp only
  split
  · rfl
  · refine hmap _ _ fun x => ?_
    split
    exacts [h x _, rfl]

/-- A debugger holds a unit and its threads. -/
def held (s : State) (u : Nat) (x : IssueUnit) : State :=
  { s.updUnit u fun x => { x with stopped := true, stopAsk := none, blocked := false } with
    threads := mapFrom (fun t (y : Thread) =>
      if x.lanes.any fun p => p.2 == t then
        { y with stopped := true, resume := if y.hmode = 0 then x.hdr ||| BitVec.ofNat 64 (x.idx % 16 * 2 ^ 57) else y.resume }
      else y) 0 s.threads }

/-- Where no debugger traces it, a unit's stop holds it and pauses its team. -/
theorem stopNow_untraced {s : State} {u : Nat} (hd : (s.ctx (s.launchOfUnit u).ctx).debug = none) (cause : Nat) :
    s.stopNow u cause = (s.updUnit u fun x => { x with packet := s.clk }).pausing (s.grp (s.unitAt u).group).team fun s' =>
      held s' u (s.unitAt u) := by
  have htrace : ∀ packet, s.unitTrace u packet = s.updUnit u fun x => { x with packet := s.clk } := fun packet => by
    rw [State.unitTrace, State.trace, hd]
  unfold State.stopNow
  simp only [htrace]
  have hd' : ((s.updUnit u fun x => { x with packet := s.clk }).ctx (s.launchOfUnit u).ctx).debug = none := hd
  simp only [hd']
  rfl

theorem unitAt_updUnit_self {s : State} {u : Nat} (h : u < s.units.length) (f : IssueUnit → IssueUnit) :
    (s.updUnit u f).unitAt u = f (s.unitAt u) := by
  rw [State.unitAt, State.updUnit, getElem?_upd, if_pos rfl, State.unitAt, List.getElem?_eq_getElem h]
  rfl

theorem unitStop_stops {s : State} {u c : Nat} (hask : (s.unitAt u).stopAsk = some c) (hlive : (s.unitAt u).live = true)
    (hstop : (s.unitAt u).stopped = false) (hat : (s.unitAt u).atStop = true) (hu : u < s.units.length)
    (hd : (s.ctx (s.launchOfUnit u).ctx).debug = none) :
    ∃ t, exec (.unitStop u) s = .next t ∧ (t.unitAt u).stopped = true ∧ (t.unitAt u).stopAsk = none ∧
      ∀ p ∈ (s.unitAt u).lanes, p.2 < s.threads.length → (t.thr p.2).stopped = true ∧
        (t.thr p.2).resume = if (s.thr p.2).hmode = 0 then resumeOf (s.unitAt u).hdr (s.unitAt u).idx else (s.thr p.2).resume := by
  let s1 := s.updUnit u fun x => { x with packet := s.clk }
  let t := s1.pausing (s.grp (s.unitAt u).group).team fun s' => held s' u (s.unitAt u)
  have hex : exec (.unitStop u) s = .next t := by
    rw [exec_unitStop, execUnitStop]
    simp only [hask, hlive, hstop, hat, Bool.not_false, Bool.and_self, if_true]
    rw [stopNow_untraced hd]
  have hunit : t.unitAt u = { s1.unitAt u with stopped := true, stopAsk := none, blocked := false } := by
    have hs1 : u < s1.units.length := (length_upd ..).symm ▸ hu
    rw [State.unitAt, pausing_units]
    exact unitAt_updUnit_self hs1 _
  refine ⟨t, hex, by rw [hunit], by rw [hunit], fun p hp hk => ?_⟩
  have hthr : (held s1 u (s.unitAt u)).thr p.2 = { s.thr p.2 with
      stopped := true
      resume := if (s.thr p.2).hmode = 0 then resumeOf (s.unitAt u).hdr (s.unitAt u).idx else (s.thr p.2).resume } := by
    have hin : ((s.unitAt u).lanes.any fun q => q.2 == p.2) = true := List.any_eq_true.mpr ⟨p, hp, beq_self_eq_true _⟩
    rw [State.thr, held]
    dsimp only
    rw [getElem?_mapFrom, show s1.threads[p.2]? = some (s.thr p.2) from thr_stands hk, Option.map_some, Nat.zero_add, if_pos hin]
    rfl
  have hpart : ∀ {β : Type} (part : Thread → β), (∀ x n, part { x with since := n } = part x) →
      part (t.thr p.2) = part ((held s1 u (s.unitAt u)).thr p.2) := fun part h => pausing_thr_part h ..
  exact ⟨(hpart Thread.stopped fun _ _ => rfl).trans (by rw [hthr]), (hpart Thread.resume fun _ _ => rfl).trans (by rw [hthr])⟩

/-! Waits that end. -/

section

variable {s : State} {u : Nat}

/-- The state in which a unit's wait has ended and its datapath is taken. -/
def woken (s : State) (u : Nat) : State :=
  { ({ s with cur := u } : State).wake u with taken := (s.unitAt u).path :: s.taken }

theorem wakeFor_woken (h : s.taken.contains (s.unitAt u).path = false) (go : State → Out) :
    ({ s with cur := u } : State).wakeFor u go = go (woken s u) := by
  have h' : ({ s with cur := u } : State).taken.contains (({ s with cur := u } : State).unitAt u).path = false := h
  unfold State.wakeFor
  dsimp only
  rw [if_neg (by rw [h']; exact Bool.false_ne_true)]
  rfl

/-- Since when they wait is all that a wake changes of the threads. -/
theorem woken_thr_part {β : Type} {part : Thread → β} (h : ∀ x n, part { x with since := n, waits := false } = part x) (k : Nat) :
    part ((woken s u).thr k) = part (s.thr k) :=
  thr_each_part (f := fun _ x => { x with since := if x.waits then s.clk else x.since, waits := false }) (fun _ x => h x _)
    (({ s with cur := u } : State).updUnit u fun x => { x with blocked := false }) (s.unitAt u).lanes k

theorem woken_unit_part {β : Type} {part : IssueUnit → β} (h : ∀ x, part { x with blocked := false } = part x) :
    part (woken s u).unit = part (s.unitAt u) :=
  unit_updUnit_part (f := fun x => { x with blocked := false }) h { s with cur := u } u

theorem woken_parts (g : Nat) : (woken s u).parts g = ({ s with cur := u } : State).parts g := by
  have hpart : ∀ k, ((woken s u).thr k).preds = (s.thr k).preds := woken_thr_part fun _ _ => rfl
  have hjoin : ∀ k n, ((woken s u).thr k).joinAt n = (s.thr k).joinAt n := fun k n =>
    woken_thr_part (part := fun x => x.joinAt n) (fun _ _ => rfl) k
  have hlanes : (woken s u).unit.lanes = (s.unitAt u).lanes := woken_unit_part fun _ => rfl
  have hrep : (woken s u).unit.rep = (s.unitAt u).rep := woken_unit_part fun _ => rfl
  simp only [State.parts, State.joins, hlanes, hrep, hpart, hjoin]
  rfl

theorem woken_src (p : Nat × Nat) (o : Opnd) : (woken s u).src p o = s.src p o ∧ (woken s u).src64 p o = s.src64 p o := by
  have hv : ((woken s u).thr p.2).v = (s.thr p.2).v := woken_thr_part (fun _ _ => rfl) _
  have hg : ((woken s u).thr p.2).group = (s.thr p.2).group := woken_thr_part (fun _ _ => rfl) _
  have hgroups : (woken s u).groups = s.groups := rfl
  constructor <;> cases o <;> simp only [State.src, State.src64, State.grp, Thread.reg, hv, hg, hgroups]

theorem woken_group : (woken s u).unit.group = (s.unitAt u).group := woken_unit_part fun _ => rfl

theorem woken_bar (b : Nat) : (woken s u).bar b = ({ s with cur := u } : State).bar b := by
  rw [State.bar, woken_group]
  rfl

theorem woken_bsync (k : Nat) : ((woken s u).thr k).bsync = (s.thr k).bsync := woken_thr_part (fun _ _ => rfl) k

theorem bwaitRelease_bwait {a : Opnd} {b g : Nat} (hw : s.wordOf u = some (.bwait a b g))
    (hfree : s.taken.contains (s.unitAt u).path = false) (hi : Issues (woken s u) g [srcUse a 1 0])
    (h : ∀ p ∈ (woken s u).parts g, ((woken s u).bar b).passed ((val32 (woken s u) p a 0).setWidth 16) = true) :
    exec (.bwaitRelease u) s = does (woken s u) g 1 fun t => t := by
  have hall : ((({ s with cur := u } : State).parts g).all fun p =>
      (({ s with cur := u } : State).bar b).passed ((({ s with cur := u } : State).src p a).setWidth 16)) = true := by
    refine List.all_eq_true.mpr fun p hp => ?_
    have := h p (by rwa [woken_parts])
    rw [val32_src, (woken_src p a).1, woken_bar] at this
    exact this
  rw [exec_bwaitRelease, execBwaitRelease]
  simp only [hw]
  rw [if_pos hall, wakeFor_woken hfree, execBwait]
  simp only [val32_src] at h
  exact run_effect hi (fun p hp => if_pos (h p hp)) (fun _ => rfl) (fun _ _ => rfl) rfl hi.lanes rfl

theorem bwaitRelease_bsync {b g : Nat} (hw : s.wordOf u = some (.bsync b g))
    (hfree : s.taken.contains (s.unitAt u).path = false) (hi : Issues (woken s u) g [])
    (h : ∀ p ∈ (woken s u).parts g, ((woken s u).thr p.2).bsync.getLsbD 31 = true ∧
      ((woken s u).bar b).passed (((woken s u).thr p.2).bsync.setWidth 16) = true) :
    exec (.bwaitRelease u) s = does (woken s u) g 1 fun t =>
      t.each ((woken s u).parts g) fun _ x => { x with bsync := x.bsync &&& 0x7FFFFFFF } := by
  have hall : ((({ s with cur := u } : State).parts g).all fun p => (({ s with cur := u } : State).thr p.2).bsync.getLsbD 31 &&
      (({ s with cur := u } : State).bar b).passed ((({ s with cur := u } : State).thr p.2).bsync.setWidth 16)) = true := by
    refine List.all_eq_true.mpr fun p hp => ?_
    obtain ⟨h1, h2⟩ := h p (by rwa [woken_parts])
    rw [woken_bsync] at h1 h2
    rw [woken_bar] at h2
    exact Bool.and_eq_true_iff.mpr ⟨h1, h2⟩
  rw [exec_bwaitRelease, execBwaitRelease]
  simp only [hw]
  rw [if_pos hall, wakeFor_woken hfree, execBsync_eq, bsyncArrive_done hi.lanes fun p hp => (h p hp).1]
  exact (run_bsyncWork hi).1 fun p hp => (h p hp).2

/-- MWAIT reads of a state what waking its unit leaves. -/
theorem woken_mwaitStatus (p : Nat × Nat) (a b : Opnd) (sp : Bool) :
    (woken s u).mwaitStatus p a b sp = ({ s with cur := u } : State).mwaitStatus p a b sp := by
  have hsrc : ∀ o, (woken s u).src p o = ({ s with cur := u } : State).src p o := fun o => (woken_src p o).1
  have hsrc64 : ∀ o, (woken s u).src64 p o = ({ s with cur := u } : State).src64 p o := fun o => (woken_src p o).2
  have hteam : (woken s u).unitTeam = ({ s with cur := u } : State).unitTeam := by
    rw [State.unitTeam, woken_group]
    rfl
  have hctx : (woken s u).unitCtx = ({ s with cur := u } : State).unitCtx := by
    rw [State.unitCtx, hteam]
    rfl
  have hcore : ((woken s u).thr p.2).core = (({ s with cur := u } : State).thr p.2).core := woken_thr_part (fun _ _ => rfl) _
  have hview : SameView { s with cur := u } (woken s u) := ⟨rfl, rfl, rfl, rfl, rfl, rfl⟩
  have hva : (woken s u).stampVa p a sp = ({ s with cur := u } : State).stampVa p a sp := by
    simp only [State.stampVa, hsrc, hsrc64]
  have hplace : (woken s u).stampPlace p a sp = ({ s with cur := u } : State).stampPlace p a sp := by
    have ht : ∀ m, (woken s u).team m = ({ s with cur := u } : State).team m := fun _ => rfl
    simp only [State.stampPlace, hsrc, hsrc64, hteam, hctx, hview.xlate, ht]
  have htrap : ∀ x q n, (woken s u).unflushedTrap x q n = ({ s with cur := u } : State).unflushedTrap x q n := fun x q n => by
    have hun : ∀ m pa, (woken s u).unflushed m pa = ({ s with cur := u } : State).unflushed m pa := fun _ _ => rfl
    have ht : ∀ m, (woken s u).team m = ({ s with cur := u } : State).team m := fun _ => rfl
    simp only [State.unflushedTrap, hteam, hun, ht]
  have hat : ∀ q va, (woken s u).stampAt p q va = ({ s with cur := u } : State).stampAt p q va := fun q va => by
    have hseen : ∀ c k q n sc, (woken s u).seen c k q n sc = ({ s with cur := u } : State).seen c k q n sc := fun _ _ _ _ _ => rfl
    have hans : ∀ who, (woken s u).peerAnswer who = ({ s with cur := u } : State).peerAnswer who := fun _ => rfl
    simp only [State.stampAt, hcore, hseen, hans]
  simp only [State.mwaitStatus, hva, hplace, htrap, hat, hsrc64]

theorem mwaitWake_wakes {d a b : Opnd} {sp : Bool} {stamp : Nat × Nat → Dword} (hw : s.wordOf u = some (.mwait d a b sp))
    (hfree : s.taken.contains (s.unitAt u).path = false) (hi : Issues (woken s u) 0 (mwaitUses d a b sp))
    (hne : (woken s u).parts 0 ≠ [])
    (h : ∀ p ∈ (woken s u).parts 0, ({ s with cur := u } : State).mwaitStatus p a b sp = .ready ∧
      (∃ q, (woken s u).stampPlace p a sp = .ok q ∧
        (woken s u).stampAt p q ((woken s u).stampVa p a sp) = .ok (some (stamp p))) ∧
      (bits (stamp p).toNat 62 2 ≠ 0 ∨ (val64 (woken s u) p b 0).toNat % 2 ^ 62 ≤ (stamp p).toNat % 2 ^ 62)) :
    exec (.mwaitWake u) s = does (woken s u) 0 1 fun t =>
      (((woken s u).parts 0).foldl (fun r p => r.dropWords p.2) (t.putDst ((woken s u).parts 0) d fun p => wordsOf 2 (stamp p))).acquire
        (woken s u).unit.core (if sp then .clu else .dev) := by
  have hall : ((({ s with cur := u } : State).parts 0).all fun p =>
      ({ s with cur := u } : State).mwaitStatus p a b sp == .ready) = true :=
    List.all_eq_true.mpr fun p hp => by rw [(h p (by rwa [woken_parts])).1, beq_self_eq_true]
  have hreads : ∀ p ∈ (woken s u).parts 0, ReadsStamp (woken s u) a sp p (stamp p) := fun p hp => by
    obtain ⟨hready, ⟨q, hq, hx⟩, -⟩ := h p hp
    refine ⟨q, hq, ?_, hx⟩
    rw [← woken_mwaitStatus, State.mwaitStatus, hq] at hready
    cases hu : (woken s u).unflushedTrap ((woken s u).stampVa p a sp).toNat q 1 with
    | none => rfl
    | some f => simp only [hu] at hready; exact absurd hready nofun
  rw [exec_mwaitWake, execMwaitWake]
  simp only [hw]
  rw [if_pos hall, wakeFor_woken hfree]
  exact mwait_goes hi hreads (fun p hp => by simpa [stampShows] using (h p hp).2.2) hne

end

/-- Settles O39: each event's conditions hold, and it performs its one change of the state, or the word that the unit waits at. -/
theorem coreEventsHaveTheirEffect : Obligations.CoreEventsHaveTheirEffect := by
  unfold Obligations.CoreEventsHaveTheirEffect
  intro s u core fold line
  exact ⟨fun ws m _ hlive hstop hwords hl hf hm hb => clauseIssue_issues hlive hstop hwords hl hf hm hb,
    fun f hf hnum hstop => foldForm_forms hf hnum hstop,
    fun hlive hstop hrun hexp hprog hpause hq => unitExpired_expires hlive hstop hrun hexp hprog hpause hq,
    fun c hask hlive hstop hat hu hd => unitStop_stops hask hlive hstop hat hu hd,
    fun hdie hasks hnew => persistentRequest_asks hdie hasks hnew,
    fun a b g hw hfree hi h => bwaitRelease_bwait hw hfree hi h,
    fun b g hw hfree hi _ h => bwaitRelease_bsync hw hfree hi h,
    fun d a b sp stamp hw hfree hi hne h => mwaitWake_wakes hw hfree hi hne h⟩

end Sys2Proof.Proofs
end

section
/-! PROOFS. Events of the matrix engines (R277, R285, R299, R302, R305, R307, R312, R314, R315). -/

namespace Sys2Proof.Proofs

open Sys2Proof.Machine Sys2Proof.Safety Sys2Proof.Laws

theorem exec_matrixOpStart (eng : Nat) (s : State) : exec (.matrixOpStart eng) s = execMatrixOpStart eng s := rfl

theorem exec_matrixOpComplete (eng : Nat) (s : State) :
    exec (.matrixOpComplete eng) s = execMatrixOpComplete eng s := rfl

theorem exec_pairWindowClose (owner k : Nat) (s : State) :
    exec (.pairWindowClose owner k) s = execPairWindowClose owner k s := rfl

theorem exec_engineFence (eng : Nat) (s : State) : exec (.engineFence eng) s = execEngineFence eng s := rfl

/-- A reservation with an operation left is not settled. -/
theorem settleResv_busy {s : State} {m r : Nat} {o : MOp} (ho : o ∈ s.fly.mops) (hm : o.team = m) (hr : o.res = r) :
    s.settleResv m r = s := by
  have hb : (s.fly.mops.any fun o => o.team == m && o.res == r) = true :=
    List.any_eq_true.mpr ⟨o, ho, by simp [hm, hr]⟩
  simp [State.settleResv, hb]

/-- The word lists of ranges of which none has such an entry hold nothing. -/
theorem dedup_map_nil {α : Type} {rs : List α} {f : α → List Nat} (h : ∀ r ∈ rs, f r = []) :
    dedup (rs.map f).flatten = [] := by
  have : (rs.map f).flatten = [] := by
    rw [List.flatten_eq_nil_iff]
    intro l hl
    obtain ⟨r, hr, rfl⟩ := List.mem_map.mp hl
    exact h r hr
  simp [this, dedup]

/-- An operation whose share ranges are all present starts. -/
theorem startMop_starts {s : State} {eng : Nat} {o : MOp} (ho : s.headMop eng = some o) (hst : o.started = false)
    (hsu : o.susp = none) (hd : o.doomed = none)
    (hr : ∀ r ∈ o.spadRanges, s.absentIn o.team r.1 r.2 = [] ∧ s.arrivingIn o.team r.1 r.2 = [])
    (ht : ∀ t f, s.runTile o ≠ (t, .suspended f)) :
    s.startMop eng = s.updMop o.id fun x => { x with started := true, waits := [] } := by
  have ha : dedup (o.spadRanges.map fun r => s.absentIn o.team r.1 r.2).flatten = [] :=
    dedup_map_nil fun r h => (hr r h).1
  have hw : dedup (o.spadRanges.map fun r => s.absentIn o.team r.1 r.2 ++ s.arrivingIn o.team r.1 r.2).flatten = [] :=
    dedup_map_nil fun r h => by simp [hr r h]
  unfold State.startMop
  simp only [ho, hst, hsu, hd, ha, hw, Option.isSome_none, Bool.or_self, Bool.false_eq_true, ↓reduceIte, List.foldl_nil,
    ne_eq, not_true_eq_false]

theorem headMop_mem {s : State} {eng : Nat} {o : MOp} (ho : s.headMop eng = some o) : o ∈ s.fly.mops :=
  List.mem_of_find?_eq_some ho

/-- MATRIX_OP_START of an operation whose operands are present (R302). -/
theorem matrixOpStart_takes {s : State} {eng : Nat} {o : MOp} (ho : s.headMop eng = some o) (hst : o.started = false)
    (hsu : o.susp = none) (hd : o.doomed = none)
    (hr : ∀ r ∈ o.spadRanges, s.absentIn o.team r.1 r.2 = [] ∧ s.arrivingIn o.team r.1 r.2 = [])
    (ht : ∀ t f, s.runTile o ≠ (t, .suspended f)) :
    exec (.matrixOpStart eng) s = .next (s.updMop o.id fun x => { x with started := true, waits := [] }) := by
  rw [exec_matrixOpStart]
  simp only [execMatrixOpStart, ho, startMop_starts ho hst hsu hd hr ht]
  have hm : (if o.id = o.id then { o with started := true, waits := [] } else o) ∈
      (s.updMop o.id fun x => { x with started := true, waits := [] }).fly.mops :=
    List.mem_map.mpr ⟨o, headMop_mem ho, rfl⟩
  rw [if_pos rfl] at hm
  rw [settleResv_busy hm rfl rfl]

/-- MATRIX_OP_COMPLETE of a started operation completes it, and settles its reservation. -/
theorem matrixOpComplete_completes {s : State} {eng : Nat} {o : MOp} (ho : s.headMop eng = some o)
    (hst : o.started = true) (hsu : o.susp = none) :
    exec (.matrixOpComplete eng) s = .next ((s.completeMop o).settleResv o.team o.res) := by
  rw [exec_matrixOpComplete]
  simp [execMatrixOpComplete, ho, hst, hsu]

theorem completeMop_rel {s : State} {o : MOp} (hd : o.doomed = none) (hk : o.kind = .rel) :
    s.completeMop o = (s.updResv o.team o.res fun _ => {}).endMop o none := by
  simp [State.completeMop, hd, hk]

theorem completeMop_fin {s : State} {o : MOp} (hd : o.doomed = none) (hk : o.kind = .fin)
    (he : s.engineFenced o.eng = false) (hs : (((s.team o.team).resv o.res).accum o.acc).now.state = 1) :
    s.completeMop o = (s.updAccum o.team o.res o.acc fun x => { x with
      base := (List.range 3072).map fun e => fl32 (x.val e)
        (((rootVals 12 (((s.team o.team).resv o.res).accum o.acc).stack)[e]?).getD 0),
      stack := [], now := { x.now with state := 2, labels := [] } }).endMop o none := by
  simp [State.completeMop, hd, hk, he, hs]

theorem completeMop_drainReg {s : State} {o : MOp} {t d row col : Nat} (hd : o.doomed = none)
    (hk : o.kind = .drainReg t d row col) (he : s.engineFenced o.eng = false)
    (hs : (((s.team o.team).resv o.res).accum o.acc).now.state = 2) :
    s.completeMop o = (s.landRegs t o.id (.v d) ((List.range 16).map fun i =>
      .full ((((s.team o.team).resv o.res).accum o.acc).val (48 * row + 16 * col + i)))).dropMop o.id := by
  simp [State.completeMop, hd, hk, he, hs]

/-- The half of a pair whose window is over issues alone, and the window closes (R312). -/
theorem closeWindow_closes {s t : State} {owner k h : Nat} {sg : Signature} (hh : (s.conv owner k).first = h)
    (hsg : (s.conv owner k).lastSigner ((s.conv owner k).openHalves.filter (· == h)) = some sg)
    (hmx : (s.thr sg.thread).mx < 63)
    (hy : ∀ y ∈ s.issueOf owner k h false, s.issueWaits (s.grp owner).team y = false ∧ s.issueFailed y = none)
    (hi : s.issueHalf owner k h sg.thread sg.pc true = .ok t) :
    s.closeWindow owner k = t.updConv owner k fun c => { c with doneHalves := c.doneHalves ++ [h], window := none } := by
  subst hh
  have hw : (s.issueOf owner k (s.conv owner k).first false).toList.any (s.issueWaits (s.grp owner).team) = false := by
    simp only [List.any_eq_false, Option.mem_toList]
    intro y hm
    simp [(hy y hm).1]
  have hf : (s.issueOf owner k (s.conv owner k).first false).toList.findSome? s.issueFailed = none := by
    simp only [List.findSome?_eq_none_iff, Option.mem_toList]
    exact fun y hm => (hy y hm).2
  unfold State.closeWindow
  simp [hsg, hw, hf, hi, Nat.not_le.mpr hmx]

/-! The sites of the cores are not a fenced engine's. -/

/-- The engine's operations, reservations and records leave the cores at their sites. -/
structure SameSites (s t : State) : Prop where
  site : t.health.coreSite = s.health.coreSite

theorem SameSites.refl (s : State) : SameSites s s := ⟨rfl⟩

theorem SameSites.trans {s t u : State} (h : SameSites s t) (h' : SameSites t u) : SameSites s u := ⟨h'.site.trans h.site⟩

theorem Posted.sites {s t : State} (h : Posted s t) : SameSites s t := by
  obtain ⟨_, _, h⟩ := h
  exact ⟨h.same fun z => z.health.coreSite⟩

theorem SameSites.engineSiteOf {s t : State} (h : SameSites s t) (eng : Nat) : t.engineSiteOf eng = s.engineSiteOf eng := by
  simp only [State.engineSiteOf, State.coreSiteOf, h.site]

theorem endMop_sites (s : State) (o : MOp) (err : Option Failure) : SameSites s (s.endMop o err) := by
  unfold State.endMop
  dsimp only
  obtain ⟨tl, htl⟩ := noteTlbs_eq (s.dropMop o.id) (s.ctx (s.launch (s.team o.team).launch).ctx) o.globals
  rw [htl]
  split <;> exact ⟨rfl⟩

theorem landRegs_sites (s : State) (t id : Nat) (d : Opnd) (xs : List Reg) : SameSites s (s.landRegs t id d xs) := by
  cases d <;> exact ⟨rfl⟩

theorem fenceMop_sites (s : State) (o : MOp) : SameSites s (s.fenceMop o) := by
  unfold State.fenceMop
  split
  · exact .refl s
  · exact .refl s
  · exact (landRegs_sites s _ _ _ _).trans ⟨rfl⟩
  · exact endMop_sites s o _

theorem foldl_fenceMop_sites (l : List MOp) (z : State) : SameSites z (l.foldl State.fenceMop z) :=
  foldl_related .refl .trans _ _ fun z o _ => fenceMop_sites z o

theorem failAccs_sites (m r : Nat) (l : List Nat) (z : State) : SameSites z (l.foldl (fun s k => s.failAcc m r k) z) :=
  foldl_related .refl .trans _ _ fun _ _ _ => ⟨rfl⟩

theorem fenceEngine_sites (s : State) (eng : Nat) : SameSites s (s.fenceEngine eng) := by
  unfold State.fenceEngine
  split
  · exact .refl s
  · refine SameSites.trans ?_ (foldl_related .refl .trans _ _ fun z x _ => failAccs_sites x.1 x.2.1 _ z)
    exact ⟨(foldl_fenceMop_sites _ _).site⟩

theorem containRecord_sites (s : State) (l kind addr : Nat) : SameSites s (s.containRecord l kind addr) := by
  unfold State.containRecord State.fq12
  exact (fqWrite_posted s _ _).sites

/-- The records of a fenced engine's holders all name its site. -/
theorem foldl_containRecord_site (s : State) (eng : Nat) (ls : List Nat) (t : State) (h : SameSites s t) :
    ls.foldl (fun z l => z.containRecord l 1 (z.engineSiteOf eng)) t =
      ls.foldl (fun z l => z.containRecord l 1 (s.engineSiteOf eng)) t := by
  induction ls generalizing t with
  | nil => simp only [List.foldl_nil]
  | cons l r ih =>
    rw [List.foldl_cons, List.foldl_cons, h.engineSiteOf]
    exact ih (t.containRecord l 1 (s.engineSiteOf eng)) (h.trans (containRecord_sites t l 1 (s.engineSiteOf eng)))

/-- Settles O42: each event by the branch of its function that the clause names. -/
theorem matrixEnginesRun : Obligations.MatrixEnginesRun := by
  unfold Obligations.MatrixEnginesRun
  intro s eng owner k
  refine ⟨fun o ho => ⟨fun hst hsu hd hr ht => matrixOpStart_takes ho hst hsu hd hr ht, fun hst hsu hd => ?_⟩, ?_, ?_⟩
  · refine ⟨fun hk => ?_, fun hk he hs => ?_, fun t d row col hk he hs => ?_⟩
    · rw [matrixOpComplete_completes ho hst hsu, completeMop_rel hd hk]
    · rw [matrixOpComplete_completes ho hst hsu, completeMop_fin hd hk he hs]
    · rw [matrixOpComplete_completes ho hst hsu, completeMop_drainReg hd hk he hs]
  · intro h sg t hp hdc hl hw hh hsg hmx hy hi
    have hsh : s.windowShut (s.grp owner).team (s.conv owner k) = true := by
      simp [State.windowShut, hw, hp]
    rw [exec_pairWindowClose]
    simp [execPairWindowClose, hp, hl, hsh, closeWindow_closes hh hsg hmx hy hi]
  · intro he hf hc h3
    rw [exec_engineFence]
    have hs := foldl_containRecord_site s eng (s.holdersOf eng) _ (fenceEngine_sites s eng)
    simp only [execEngineFence, hf, hc, Nat.not_le.mpr he, Nat.not_le.mpr h3, decide_false, Bool.or_self, Bool.false_eq_true,
      ↓reduceIte, hs]

end Sys2Proof.Proofs
end

section
/-! PROOFS. Commands on contexts, their queues and launches (R372, R373, R389 to R391, R403). -/

namespace Sys2Proof.Proofs

open Sys2Proof.Machine Sys2Proof.Safety Sys2Proof.Laws

theorem exec_create (c a : Nat) (s : State) : exec (.create c a) s = .next (s.after (s.cmdCreate c a)) := rfl

theorem exec_destroy (c : Nat) (s : State) : exec (.destroy c) s = .next (s.after (s.cmdDestroy c)) := rfl

theorem exec_qenable (c a : Nat) (s : State) : exec (.qenable c a) s = .next (s.after (s.cmdQenable c (a % 64))) := rfl

theorem exec_qdisable (c a : Nat) (s : State) : exec (.qdisable c a) s = .next (s.after (s.cmdQdisable c (a % 64))) := rfl

theorem exec_tlbiCommand (c a0 a1 : Nat) (s : State) :
    exec (.tlbiCommand c a0 a1) s = .next (s.after (s.cmdTlbi c a0 a1)) := rfl

theorem exec_suspend (c : Nat) (s : State) : exec (.suspend c) s = .next (s.after (s.cmdSuspend c)) := rfl

theorem exec_resume (c : Nat) (s : State) : exec (.resume c) s = .next (s.after (s.cmdResume c)) := rfl

theorem exec_ezero (c a : Nat) (s : State) : exec (.ezero c a) s = .next (s.after (s.cmdEzero c a)) := rfl

theorem exec_endlaunch (c a0 a1 : Nat) (s : State) :
    exec (.endlaunch c a0 a1) s = .next (s.after (s.cmdEndlaunch c (a0 % 64) a1)) := rfl

theorem after_done (s t : State) : s.after (.done t) = t := rfl

theorem after_refused (s : State) : s.after .refused = s := rfl

theorem after_cmdIf (s t : State) (ok : Bool) : s.after (cmdIf ok t) = if ok then t else s := by
  cases ok <;> rfl

/-! Positions of list entries that meet a test. -/

theorem allPosFrom_eq_nil {α : Type} {p : α → Bool} {l : List α} {j : Nat} (h : ∀ x ∈ l, p x = false) :
    allPosFrom p j l = [] := by
  rw [List.eq_nil_iff_forall_not_mem]
  intro k hk
  obtain ⟨i, x, -, hx, hp⟩ := mem_allPosFrom.mp hk
  exact absurd hp (by simp [h x (List.mem_of_getElem? hx)])

theorem allPos_eq_nil {α : Type} {p : α → Bool} {l : List α} (h : ∀ x ∈ l, p x = false) : allPos p l = [] :=
  allPosFrom_eq_nil h

/-! CREATE and DESTROY. -/

/-- A descriptor and tables that keep every rule make the context they describe (R389). -/
theorem cmdCreate_creates {s t : State} {c a : Nat} {d b : List Byte} {ws : List (Nat × Nat)} (hc : c < 64)
    (hx : ¬ s.hasCtx c = true) (hd : s.readPhys a 128 = some d)
    (hb : s.vread (contextOf c d) (contextOf c d).dispatch.toNat 4096 = .ok b) (hws : wsRegions b = some ws)
    (hbad : contextBad d = false) (hm : s.regionsMeet ws = false)
    (h64 : (BitVec.ofNat 64 (sliceVal b 2080 8)).toNat % 64 = 0) (hn : sliceVal b 2088 4 ≤ 2 ^ 20)
    (hz : (b.drop 2092).all (fun n => n == 0) = true)
    (hf : s.firstWrites { contextOf c d with
      wsreg := ws, treeTab := BitVec.ofNat 64 (sliceVal b 2080 8), treeCount := sliceVal b 2088 4 } = some t) :
    s.cmdCreate c a = .done { t with ctxs := t.ctxs ++ [{ contextOf c d with
      wsreg := ws, treeTab := BitVec.ofNat 64 (sliceVal b 2080 8), treeCount := sliceVal b 2088 4 }] } := by
  have hz' : (b.drop 2092).any (fun x => x != 0) = false := by
    simpa [List.any_eq_false, List.all_eq_true] using hz
  unfold State.cmdCreate
  rw [if_neg (not_or.mpr ⟨Nat.not_le.mpr hc, hx⟩), hd]
  simp only [hb, State.newCtx, hws, Option.bind_some, hbad, hm, h64, hz', Nat.not_lt.mpr hn, ne_eq, not_true_eq_false,
    decide_false, Bool.or_self, Bool.false_eq_true, ↓reduceIte, hf, Option.map_some, Option.elim_some]

/-- The contexts that removing one leaves, with no translation and no subscription of it. -/
theorem removeCtx_removes (s : State) (c : Nat) : (∀ y ∈ (s.removeCtx c).ctxs, y.num ≠ c) ∧
    (∀ e ∈ (s.removeCtx c).sto.tlb, e.ctx ≠ c) ∧ ∀ y ∈ (s.removeCtx c).fly.subs, y.ctx ≠ c := by
  refine ⟨fun y hy => ?_, fun e he => ?_, fun y hy => ?_⟩
  · simpa using (List.mem_filter.mp hy).2
  · simpa using (List.mem_filter.mp he).2
  · simpa using (List.mem_filter.mp hy).2

/-- DESTROY of a context with no launch in flight and nothing under way (R390). -/
theorem cmdDestroy_removes {s : State} {c : Nat} (hx : s.hasCtx c = true)
    (hl : s.launches.all (fun l => l.ctx != c || l.finished) = true)
    (hb : (s.updCtx c fun y => { y with queues := y.queues.map fun q => { q with enabled := false, watched := none } }).ctxBusy c
      = false) :
    ∃ t : State, s.cmdDestroy c = .done (t.removeCtx c) := by
  refine ⟨s.updCtx c fun y =>
    { y with queues := y.queues.map fun q => { q with enabled := false, watched := none } }, ?_⟩
  have hn : allPos (fun (x : Launch) => x.ctx == c && !x.finished && !x.ended) (s.updCtx c fun y =>
      { y with queues := y.queues.map fun q => { q with enabled := false, watched := none } }).launches = [] := by
    refine allPos_eq_nil fun x hm => ?_
    have h := List.all_eq_true.mp hl x hm
    cases hc : x.ctx == c <;> cases hf : x.finished <;> simp_all
  unfold State.cmdDestroy
  simp only [hx, hn, hb, ↓reduceIte, List.foldl_nil, Bool.false_eq_true]

/-! The queues. -/

/-- QENABLE of a queue record that is in order (R372, R373). -/
theorem cmdQenable_enables {s : State} {c q : Nat} {bs h : List Byte} (hx : s.hasCtx c = true)
    (he : (s.queue c q).enabled = false) (hr : s.vread (s.ctx c) ((s.ctx c).dispatch.toNat + 32 * q) 32 = .ok bs)
    (hb : queueBad bs = false) (hen : bit (sliceVal bs 25 1) 0 = true)
    (hh : s.vread (s.ctx c) (sliceVal bs 16 8) 8 = .ok h) :
    s.cmdQenable c q = .done (s.updQueue c q fun _ =>
      { enabled := true, ring := BitVec.ofNat 64 (sliceVal bs 0 8), tailAt := BitVec.ofNat 64 (sliceVal bs 8 8),
        headAt := BitVec.ofNat 64 (sliceVal bs 16 8), log2n := sliceVal bs 24 1, vec := sliceVal bs 26 2,
        head := bytesVal h, tail := bytesVal h, watched := s.watchLine (s.ctx c) (sliceVal bs 8 8) }) := by
  unfold State.cmdQenable
  simp only [hx, he, hr, hb, hen, hh, Bool.not_true, Bool.or_self, Bool.false_eq_true, ↓reduceIte]

/-! Translations, suspension and launches. -/

/-- A TLBI of a range that no access uses drops the translations of the range (R391). -/
theorem cmdTlbi_invalidates {s : State} {c a0 a1 : Nat} (hx : s.hasCtx c = true) (ht : a1 % 4 < 2)
    (hs : a1 % 4 = 1 → bits a1 8 3 ≤ 4) (hu : s.usesRange c (tlbiRange (a1 % 4 == 1) a0 (bits a1 8 3)) = false) :
    s.cmdTlbi c a0 a1 = .done (s.invalidate c (tlbiRange (a1 % 4 == 1) a0 (bits a1 8 3))) := by
  have hp : (decide (a1 % 4 = 1) && decide (4 < bits a1 8 3)) = false := by
    by_cases h : a1 % 4 = 1
    · simp [Nat.not_lt.mpr (hs h)]
    · simp [h]
  have hd : (a1 % 4 == 1) = decide (a1 % 4 = 1) := rfl
  rw [hd] at hu ⊢
  unfold State.cmdTlbi
  simp only [hx, hp, hu, Nat.not_lt.mpr (Nat.lt_succ_iff.mp ht), Bool.not_true, decide_false, Bool.or_self, Bool.false_eq_true,
    ↓reduceIte]

/-- SUSPEND of a context of which no team is placed (R403). -/
theorem cmdSuspend_suspends {s : State} {c : Nat} (hx : s.hasCtx c = true) (hs : s.saveEntry.isSome = true)
    (ht : ∀ t ∈ s.teams, (s.launch t.launch).ctx = c → t.life ≠ .placed) :
    s.cmdSuspend c = .done (s.updCtx c fun y => { y with suspended := true }) := by
  have hn : allPos (fun (t : Team) => t.life == .placed && (s.launch t.launch).ctx == c) s.teams = [] := by
    refine allPos_eq_nil fun t hm => ?_
    by_cases hc : (s.launch t.launch).ctx = c
    · simp [ht t hm hc]
    · simp [hc]
  unfold State.cmdSuspend
  simp only [hn, hx, hs, Bool.and_self, List.foldl_nil, cmdIf, ↓reduceIte]

/-- A command of a context that does not exist is refused. -/
theorem commands_refused {s : State} {c a0 a1 : Nat} (hx : s.hasCtx c = false) :
    s.cmdDestroy c = .refused ∧ s.cmdQenable c (a0 % 64) = .refused ∧ s.cmdQdisable c (a0 % 64) = .refused ∧
      s.cmdTlbi c a0 a1 = .refused ∧ s.cmdSuspend c = .refused ∧ s.cmdResume c = .refused ∧ s.cmdEzero c a0 = .refused := by
  refine ⟨?_, ?_, ?_, ?_, ?_, ?_, ?_⟩
  · simp [State.cmdDestroy, hx]
  · simp [State.cmdQenable, hx]
  · simp [State.cmdQdisable, hx, cmdIf]
  · simp [State.cmdTlbi, hx]
  · simp [State.cmdSuspend, hx, cmdIf]
  · simp [State.cmdResume, hx, cmdIf]
  · simp [State.cmdEzero, hx, cmdIf]

/-- Settles O47: each command by its function, in the branch that its hypotheses name. -/
theorem contextCommandsHaveTheirEffect : Obligations.ContextCommandsHaveTheirEffect := by
  unfold Obligations.ContextCommandsHaveTheirEffect
  intro s c a0 a1
  dsimp only
  refine ⟨?_, ?_, ?_, fun hx => ⟨?_, ?_, ?_, ?_, ?_, ?_, ?_, ?_, ?_⟩, ?_, ?_⟩
  · intro d b ws t hc hx hd hb hws hbad hm h64 hn hz hf
    rw [exec_create, cmdCreate_creates hc hx hd hb hws hbad hm h64 hn hz hf, after_done]
  · intro h
    rw [exec_create, State.cmdCreate, if_pos h, after_refused]
  · intro hx
    obtain ⟨h1, h2, h3, h4, h5, h6, h7⟩ :=
      commands_refused (s := s) (c := c) (a0 := a0) (a1 := a1) (Bool.eq_false_iff.mpr hx)
    refine ⟨?_, ?_, ?_, ?_, ?_, ?_, ?_⟩
    · rw [exec_destroy, h1, after_refused]
    · rw [exec_qenable, h2, after_refused]
    · rw [exec_qdisable, h3, after_refused]
    · rw [exec_tlbiCommand, h4, after_refused]
    · rw [exec_suspend, h5, after_refused]
    · rw [exec_resume, h6, after_refused]
    · rw [exec_ezero, h7, after_refused]
  · intro hl hb
    obtain ⟨t, ht⟩ := cmdDestroy_removes hx hl hb
    exact ⟨t.removeCtx c, by rw [exec_destroy, ht, after_done], removeCtx_removes t c⟩
  · intro bs h he hr hb hen hh
    rw [exec_qenable, cmdQenable_enables hx he hr hb hen hh, after_done]
  · rw [exec_qdisable, State.cmdQdisable, after_cmdIf, if_pos hx]
  · intro ht hs hu
    refine ⟨_, ?_, fun e he => (invalidate_tlb s c _ e he).2⟩
    rw [exec_tlbiCommand, cmdTlbi_invalidates hx ht hs hu, after_done]
  · intro hs ht
    rw [exec_suspend, cmdSuspend_suspends hx hs ht, after_done]
  · intro hs
    rw [exec_suspend, State.cmdSuspend, after_cmdIf, hs]
    simp
  · rw [exec_resume, State.cmdResume, after_cmdIf, if_pos hx]
  · intro hp
    rw [exec_ezero, State.cmdEzero, after_cmdIf, hx, hp, Bool.and_self, if_pos rfl]
  · intro hp
    rw [exec_ezero, State.cmdEzero, after_cmdIf, hp, Bool.and_false]
    simp
  · intro l hl
    rw [exec_endlaunch, State.cmdEndlaunch, hl, after_done]
  · intro hl
    rw [exec_endlaunch, State.cmdEndlaunch, hl, after_refused]

end Sys2Proof.Proofs
end

section
/-! PROOFS. Commands of the device, of debugging and of the control queue (R390, R391, R439 to R444, R453, R485, R486). -/

namespace Sys2Proof.Proofs

open Sys2Proof.Machine Sys2Proof.Safety Sys2Proof.Laws

theorem exec_setsave (a : Nat) (s : State) : exec (.setsave a) s = .next (s.after (s.cmdSetsave a)) := rfl

theorem exec_plimit (a : Nat) (s : State) : exec (.plimit a) s = .next (s.after (s.cmdPlimit a)) := rfl

theorem exec_debugCmd (c a : Nat) (s : State) : exec (.debugCmd c a) s = .next (s.after (s.cmdDebug c a)) := rfl

theorem exec_stop (c a0 a1 : Nat) (s : State) : exec (.stop c a0 a1) s = .next (s.after (s.cmdStop c (a0 % 64) a1)) := rfl

theorem exec_cont (c a0 a1 : Nat) (s : State) : exec (.cont c a0 a1) s = .next (s.after (s.cmdCont c (a0 % 64) a1)) := rfl

theorem exec_dumpend (c : Nat) (s : State) : exec (.dumpend c) s = .next (s.after (s.cmdDumpend c)) := rfl

theorem exec_dump (c a0 a1 : Nat) (s : State) : exec (.dump c a0 a1) s = .next (s.after (s.cmdDump c a0 a1)) := rfl

theorem exec_attest (a0 a1 : Nat) (s : State) : exec (.attest a0 a1) s = .next (s.after (s.cmdAttest a0 a1)) := rfl

theorem exec_controlQueueNotify (s : State) : exec .controlQueueNotify s = execControlQueueNotify s := rfl

theorem exec_traceWrittenFlush (c : Nat) (s : State) : exec (.traceWrittenFlush c) s = execTraceWrittenFlush c s := rfl

/-! STOP: what is asked of units, of filed threads and of parked ones (R441). -/

/-- Every unit of a launch that is stopped by STOP, outside the save routine, is stopped or asked to stop. -/
theorem stopLaunch_units (s : State) (l : Nat) {u : IssueUnit} (hu : u ∈ (s.stopLaunch l).units) (hlive : u.live = true)
    (hl : s.launchOfGroup u.group = l) (hs : (s.team (s.grp u.group).team).life ≠ .saving)
    (hp : (s.team (s.grp u.group).team).life ≠ .parked) : u.stopped = true ∨ u.stopAsk.isSome = true := by
  obtain ⟨x, -, rfl⟩ := List.mem_map.mp hu
  split
  · exact .inr rfl
  · next hc =>
    rw [if_neg hc] at hlive hl hs hp
    cases hst : x.stopped
    · cases ha : x.stopAsk
      · exact absurd (by simp [hlive, hst, ha, hl, hs, hp]) hc
      · exact .inr rfl
    · exact .inl rfl

theorem thr_mapFrom (s : State) (f : Nat → Thread → Thread) {k : Nat} (hk : k < s.threads.length) :
    ((mapFrom f 0 s.threads)[k]?).getD .gone = f k (s.thr k) := by
  simp only [State.thr, getElem?_mapFrom, Nat.zero_add, List.getElem?_eq_getElem hk, Option.map_some, Option.getD_some]

/-- What STOP makes of a thread. -/
theorem stopLaunch_thr (s : State) (l : Nat) {k : Nat} (hk : k < s.threads.length) :
    (s.stopLaunch l).thr k =
      let away := (s.team (s.teamOf k)).life == .saving || (s.team (s.teamOf k)).life == .parked
      if s.launchOfGroup (s.thr k).group == l && away && (s.thr k).life != .exited then { s.thr k with stopped := true }
      else if ((s.folds.filter fun f => s.launchOfGroup f.group == l).flatMap Fold.threads).contains k then
        { s.thr k with ask := (s.thr k).ask.or (some (3, 0)) }
      else s.thr k := by
  exact thr_mapFrom s _ hk

theorem stopLaunch_away {s : State} {l k : Nat} (hk : k < s.threads.length) (hl : s.launchOfGroup (s.thr k).group = l)
    (he : (s.thr k).life ≠ .exited) (ha : (s.team (s.teamOf k)).life = .saving ∨ (s.team (s.teamOf k)).life = .parked) :
    ((s.stopLaunch l).thr k).stopped = true := by
  have haway : ((s.team (s.teamOf k)).life == .saving || (s.team (s.teamOf k)).life == .parked) = true := by simpa using ha
  rw [stopLaunch_thr s l hk]
  simp [hl, he, haway]

theorem stopLaunch_filed {s : State} {l k : Nat} {f : Fold} (hk : k < s.threads.length) (hf : f ∈ s.folds)
    (hl : s.launchOfGroup f.group = l) (hm : k ∈ f.threads) :
    ((s.stopLaunch l).thr k).stopped = true ∨ ((s.stopLaunch l).thr k).ask.isSome = true := by
  have hc : ((s.folds.filter fun f => s.launchOfGroup f.group == l).flatMap Fold.threads).contains k = true := by
    simp only [List.contains_iff_mem, List.mem_flatMap, List.mem_filter, beq_iff_eq]
    exact ⟨f, ⟨hf, hl⟩, hm⟩
  rw [stopLaunch_thr s l hk]
  simp only [hc, ↓reduceIte]
  split
  · exact .inl rfl
  · exact .inr (by cases (s.thr k).ask <;> rfl)

/-! CONT releases the units of a launch's teams (R443). -/

/-- Releasing a team releases its units, and keeps every group in its team. -/
theorem contTeam_units (s : State) (m : Nat) (step : Bool) : (s.contTeam m step).units =
    s.units.map fun (u : IssueUnit) => if (s.grp u.group).team == m then u.release step else u := by
  unfold State.contTeam
  rw [pausing_units]

theorem contTeam_team (s : State) (m : Nat) (step : Bool) (g : Nat) : ((s.contTeam m step).grp g).team = (s.grp g).team := by
  unfold State.contTeam State.pausing
  dsimp only
  split
  · rfl
  · simp only [State.grp, State.updTeam, List.getElem?_map]
    cases s.groups[g]? with
    | none => rfl
    | some x => by_cases hx : x.team = m <;> simp [hx]

theorem contTeam_unitAt {s : State} {k : Nat} (m : Nat) (step : Bool) (hk : k < s.units.length) :
    (s.contTeam m step).unitAt k =
      if (s.grp (s.unitAt k).group).team = m then (s.unitAt k).release step else s.unitAt k := by
  simp only [State.unitAt, contTeam_units, List.getElem?_map, List.getElem?_eq_getElem hk, Option.map_some, Option.getD_some,
    beq_iff_eq]

theorem release_of_stopped {u : IssueUnit} (h : u.stopped = true) (step : Bool) :
    u.release step = { u with stopped := false, stepping := step, blocked := false } := if_pos h

theorem release_of_running {u : IssueUnit} (h : u.stopped = false) (step : Bool) : u.release step = u := by
  simp [IssueUnit.release, h]

/-- A unit that a CONT has released, or that it has yet to release for a team of a list. -/
def Released (step : Bool) (ms : List Nat) (s : State) (k : Nat) : Prop :=
  (s.unitAt k).stopped = false ∧ (s.unitAt k).stepping = step ∨
    (s.unitAt k).stopped = true ∧ (s.grp (s.unitAt k).group).team ∈ ms

theorem contTeam_released {step : Bool} {m : Nat} {ms : List Nat} {s : State} {k : Nat} (hk : k < s.units.length)
    (h : Released step (m :: ms) s k) : Released step ms (s.contTeam m step) k := by
  unfold Released
  rw [contTeam_unitAt m step hk, contTeam_team]
  obtain ⟨hs, hp⟩ | ⟨hs, hm⟩ := h
  · rw [release_of_running hs, ite_self]
    exact .inl ⟨hs, hp⟩
  · by_cases he : (s.grp (s.unitAt k).group).team = m
    · rw [if_pos he, release_of_stopped hs]
      exact .inl ⟨rfl, rfl⟩
    · rw [if_neg he]
      exact .inr ⟨hs, (List.mem_cons.mp hm).resolve_left he⟩

theorem contTeams_released {step : Bool} (ms : List Nat) {s : State} {k : Nat} (hk : k < s.units.length)
    (h : Released step ms s k) : Released step [] (ms.foldl (fun s m => s.contTeam m step) s) k := by
  induction ms generalizing s with
  | nil => exact h
  | cons m r ih => exact ih (by rw [contTeam_units, List.length_map]; exact hk) (contTeam_released hk h)

theorem contLaunch_releases {s : State} {l k : Nat} (step : Bool) (hk : k < s.units.length)
    (hm : (s.grp (s.unitAt k).group).team ∈ (s.launch l).teams) (hs : (s.unitAt k).stopped = true) :
    ((s.contLaunch l step).unitAt k).stopped = false ∧ ((s.contLaunch l step).unitAt k).stepping = step :=
  (contTeams_released _ hk (.inr ⟨hs, hm⟩)).resolve_right fun h => nomatch h.2

/-! ATTEST's report, DUMP and the control queue. -/

theorem secret_length (k n : Nat) (bs : List Byte) : (secret k n bs).length = n := by simp [secret]

theorem readPhys_length {s : State} {pa n : Nat} {bs : List Byte} (h : s.readPhys pa n = some bs) : bs.length = n := by
  unfold State.readPhys at h
  split at h
  · exact nomatch h
  · obtain rfl := Option.some.inj h
    simp [State.memBytes]

/-- The report is 512 bytes of fields, the signature and the certificates (R485). -/
theorem report_length (s : State) {nonce : List Byte} (h : nonce.length = 64) : (s.report nonce).length = 8192 := by
  simp only [State.report, List.length_append, valBytes_length, secret_length, zeros, List.length_replicate, h]

/-- A command's outcome, stamped where it has ended. -/
theorem controlQueueNotify_stamps {s : State} {bs : List Byte} (h : s.nextCommand = some bs)
    (hz : (bs.drop 32).all (fun b => b == 0) = true) :
    exec .controlQueueNotify s =
      match s.command (sliceVal bs 0 4) (sliceVal bs 4 4) (sliceVal bs 8 8) (sliceVal bs 16 8) with
      | .done t => .next (t.stampCommand (sliceVal bs 24 8) 0)
      | .refused => .next (s.stampCommand (sliceVal bs 24 8) 1)
      | .wait t => .next t := by
  have hz' : (bs.drop 32).any (fun x => x != 0) = false := by simpa [List.any_eq_false, List.all_eq_true] using hz
  rw [exec_controlQueueNotify]
  simp only [execControlQueueNotify, h, hz', Bool.false_eq_true, ↓reduceIte] <;> rfl

/-- DUMP begins where nothing stands against it: the launches are to stop, and the cut is made once they stand still (R453). -/
theorem cmdDump_begins {s : State} {c a0 a1 : Nat} (hf : s.feature 4 = true) (hc : s.hasCtx c = true)
    (hs : s.saveEntry.isSome = true) (hd : (s.ctx c).dump = none) (ha : a0 % 4096 = 0) (hz : 64 ≤ bits a1 0 40)
    (hp : s.physOk a0 (bits a1 0 40) = true) :
    s.after (s.cmdDump c a0 a1) = if ((s.flyingOf c).foldl State.stopLaunch s).still c then
      ((s.flyingOf c).foldl State.stopLaunch s).cutDump c a0 (bits a1 0 40) else (s.flyingOf c).foldl State.stopLaunch s := by
  have hn : s.saveEntry.isNone = false := by
    rw [← Option.not_isSome, hs]
    rfl
  unfold State.cmdDump
  simp only [hd, hf, hc, hn, ha, hp, Nat.not_lt.mpr hz, Bool.not_true, ne_eq, not_true_eq_false, decide_false, Bool.or_self,
    Bool.false_eq_true, ↓reduceIte] <;> rfl

/-- Settles O48: each command by its function, STOP and CONT by what they make of each unit and thread. -/
theorem deviceCommandsHaveTheirEffect : Obligations.DeviceCommandsHaveTheirEffect := by
  unfold Obligations.DeviceCommandsHaveTheirEffect
  intro s c a0 a1
  dsimp only
  refine ⟨?_, ?_, fun hx => ⟨?_, ?_⟩, ?_, ?_, ?_, ?_, fun d hx hd => ⟨?_, ?_⟩, ?_, ?_, ?_⟩
  · intro h4 h57 ht
    have hb : s.teams.any (fun (t : Team) => t.life == .saving || t.life == .parked) = false := by
      simp only [List.any_eq_false, Bool.or_eq_true, beq_iff_eq, not_or]
      exact ht
    rw [exec_setsave, State.cmdSetsave, after_cmdIf, hb, decide_eq_true h4, decide_eq_true h57, Bool.not_false,
      Bool.and_self, Bool.and_self, if_pos rfl]
  · rw [exec_plimit, State.cmdPlimit, after_cmdIf]
    simp only [Bool.and_eq_true, decide_eq_true_eq]
  · rw [exec_debugCmd, State.cmdDebug, hx]
    rfl
  · intro bs h0 h256 hr hb
    rw [exec_debugCmd, State.cmdDebug, hx]
    simp only [Bool.not_true, Bool.false_eq_true, ↓reduceIte, h0, hr, after_cmdIf, h256, hb, decide_true, Bool.not_false,
      Bool.and_self]
  · intro l hl
    refine ⟨s.stopLaunch l, ?_, fun u hu => stopLaunch_units s l hu, fun k hk => stopLaunch_away hk,
      fun f hf hl k hm hk => stopLaunch_filed hk hf hl hm, rfl, rfl⟩
    rw [exec_stop, State.cmdStop, hl, after_done]
  · intro l hl _
    refine ⟨s.contLaunch l (bit a1 63), ?_, fun k hk hm hs => contLaunch_releases _ hk hm hs⟩
    rw [exec_cont, State.cmdCont, hl, after_done]
  · intro d hd
    rw [exec_dumpend, State.cmdDumpend, after_cmdIf, hd]
    rfl
  · intro hf hc hs hd ha hz hp
    rw [exec_dump, cmdDump_begins hf hc hs hd ha hz hp]
    exact ⟨fun h => by rw [h]; simp, fun h => by rw [if_pos h]⟩
  · intro hcomp
    rw [exec_dump, State.cmdDump, hd]
    simp [hcomp, after_refused]
  · intro hcomp
    rw [exec_dump, State.cmdDump, hd]
    simp only [hx, hcomp, Bool.not_false, Bool.and_self, ↓reduceIte, after_done, State.endCut]
  · intro nonce hd hr hf h4096 hn hw
    refine ⟨?_, report_length s (readPhys_length hr)⟩
    rw [exec_attest, State.cmdAttest, hd]
    simp only [Bool.false_eq_true, ↓reduceIte, hr, after_cmdIf, hf, h4096, hn, hw, decide_true, Bool.and_self]
  · intro bs h hz
    refine ⟨fun t ht => ?_, fun ht => ?_, fun t ht => ?_⟩
    all_goals rw [controlQueueNotify_stamps h hz, ht]
  · intro d hd ho hn
    rw [exec_traceWrittenFlush]
    simp [execTraceWrittenFlush, hd, ho, hn]

end Sys2Proof.Proofs
end

section
/-! PROOFS. The host interface (R421, R434 to R437, R481 to R483). -/

namespace Sys2Proof.Proofs

open Sys2Proof.Machine Sys2Proof.Safety Sys2Proof.Laws

theorem exec_registerWrite (off : Nat) (x : Dword) (s : State) :
    exec (.registerWrite off x) s = execRegisterWrite off x s := rfl

theorem exec_fctlCommit (s : State) : exec .fctlCommit s = execFctlCommit s := rfl

theorem exec_podnumWrite (x : Dword) (s : State) : exec (.podnumWrite x) s = execPodnumWrite x s := rfl

theorem exec_rcvctlStart (s : State) : exec .rcvctlStart s = execRcvctlStart s := rfl

theorem exec_rcvctlDone (s : State) : exec .rcvctlDone s = execRcvctlDone s := rfl

theorem exec_rcvdataWrite (x : Dword) (s : State) : exec (.rcvdataWrite x) s = execRcvdataWrite x s := rfl

theorem exec_firmwareVerifyDone (s : State) : exec .firmwareVerifyDone s = execFirmwareVerifyDone s := rfl

theorem exec_hostWrite (a : Nat) (bs : List Byte) (s : State) : exec (.hostWrite a bs) s = execHostWrite a bs s := rfl

theorem exec_hostRead (a n : Nat) (s : State) : exec (.hostRead a n) s = execHostRead a n s := rfl

/-! Writes of BAR 0 and BAR 4. -/

/-- An aligned write of eight bytes goes to BAR 4, or to the registers of BAR 0. -/
theorem registerWrite_writes {s : State} {off : Nat} (x : Dword) (h8 : off % 8 = 0) (h32 : off < 2 ^ 32) :
    exec (.registerWrite off x) s =
      .next (if 2 ^ 20 ≤ off then s.writeMsix (off - 2 ^ 20) 8 x else s.updBar0 fun b => b.write off 8 x) := by
  have hb : bit off 32 = false := by
    have h0 : off / 2 ^ 32 = 0 := Nat.div_eq_of_lt h32
    rw [bit, h0]
    decide
  rw [exec_registerWrite]
  simp only [execRegisterWrite, hb, Bool.false_eq_true, ↓reduceIte, Nat.mod_eq_of_lt h32, h8, ne_eq, not_true_eq_false]
  split <;> rfl

/-- What a write of eight bytes makes of the registers of BAR 0 (R435). -/
theorem updBar0_write (s : State) {off : Nat} (x : Dword) (h8 : off % 8 = 0) :
    (s.updBar0 fun b => b.write off 8 x) =
      if off < 0x20 then s
      else if off < 0x40 then
        (if s.bar0.committed then s
        else { s with bar0 := { s.bar0 with
          faccept := BitVec.ofNat 256 (setBits s.bar0.faccept.toNat (8 * (off - 0x20)) 64 x.toNat) } })
      else if off = 0x48 then
        { s with bar0 := { s.bar0 with cqRing := BitVec.ofNat 64 (setBits s.bar0.cqRing.toNat 0 64 x.toNat) } }
      else if off = 0x50 then
        { s with bar0 := { s.bar0 with cqTail := BitVec.ofNat 64 (setBits s.bar0.cqTail.toNat 0 64 x.toNat) } }
      else s := by
  unfold State.updBar0 Bar0.write
  by_cases h1 : off < 0x20
  · have hn : ¬ (0x20 ≤ off ∧ off + 8 ≤ 0x40) ∧ ¬ (0x48 ≤ off ∧ off + 8 ≤ 0x50) ∧ ¬ (0x50 ≤ off ∧ off + 8 ≤ 0x58) := by omega
    simp only [hn.1, hn.2.1, hn.2.2, h1, ↓reduceIte]
  by_cases h2 : off < 0x40
  · have hy : 0x20 ≤ off ∧ off + 8 ≤ 0x40 := by omega
    simp only [hy, h1, h2, and_self, ↓reduceIte]
    cases hc : s.bar0.committed <;> simp
  have h2' : ¬ (0x20 ≤ off ∧ off + 8 ≤ 0x40) := by omega
  by_cases h3 : off = 0x48
  · subst h3
    simp
  have h3' : ¬ (0x48 ≤ off ∧ off + 8 ≤ 0x50) := by omega
  by_cases h4 : off = 0x50
  · subst h4
    simp
  have h4' : ¬ (0x50 ≤ off ∧ off + 8 ≤ 0x58) := by omega
  simp only [h1, h2, h2', h3, h3', h4, h4', ↓reduceIte]

/-! Reads of BAR 2 and BAR 0. -/

/-- A host read of memory with no bad byte in it, or of nothing of it, gives each byte its value. -/
theorem hostRead_bytes {s : State} {a n : Nat} (ha : a < 2 ^ 40)
    (hg : min n (s.capacity - 2 ^ 32 - a) = 0 ∨ s.memBad a (min n (s.capacity - 2 ^ 32 - a)) = false) :
    exec (.hostRead a n) s = .next { s with
      hostReads := s.hostReads ++ [⟨a, some ((List.range n).map fun i => s.hostByte (a + i))⟩] } := by
  have hb : (s.bar0.booted && decide (0 < min n (s.capacity - 2 ^ 32 - a)) &&
      s.memBad a (min n (s.capacity - 2 ^ 32 - a))) = false := by
    obtain hg | hg := hg
    · rw [hg, decide_eq_false (Nat.lt_irrefl 0), Bool.and_false, Bool.false_and]
    · rw [hg, Bool.and_false]
  rw [exec_hostRead]
  simp only [execHostRead, Nat.not_le.mpr ha, ↓reduceIte, hb, Bool.false_eq_true]

theorem hostByte_inside {s : State} {a : Nat} (hb : s.bar0.booted = true) (ha : a < s.capacity - 2 ^ 32) :
    s.hostByte a = s.memByte a := by
  simp only [State.hostByte, Nat.not_le.mpr ha, hb, Bool.true_eq_false, or_self, ↓reduceIte]

theorem hostByte_beyond {s : State} {a : Nat} (ha : s.capacity - 2 ^ 32 ≤ a) : s.hostByte a = 0xFF := by
  simp only [State.hostByte, ha, true_or, ↓reduceIte]

/-- The pod number reads as it was written, zero-extended. -/
theorem podnum_reads (p : Option (BitVec 12)) :
    BitVec.ofNat 64 ((p.map BitVec.toNat).getD 0) = (p.getD 0).setWidth 64 := by
  cases p with
  | none => rfl
  | some x => exact BitVec.ofNat_toNat 64 x

theorem slot_updSlotFw (s : State) {k : Nat} (f : FwSlot → FwSlot) (hk : k < s.fw.slots.length) :
    (s.updSlotFw k f).fw.slot k = f (s.fw.slot k) := by
  simp only [State.updSlotFw, State.updFw, Firmware.slot, getElem?_upd, ↓reduceIte, List.getElem?_eq_getElem hk, Option.map_some,
    Option.getD_some]

/-- Settles O49: each write and read by its function, in the branch that its hypotheses name. -/
theorem hostWritesAndReads : Obligations.HostWritesAndReads := by
  unfold Obligations.HostWritesAndReads
  intro s x off a n bs
  dsimp only
  refine ⟨?_, ?_, ?_, ?_, ?_, ?_, rfl, fun hb => ⟨?_, ?_⟩, ?_, ?_, ?_, ?_, ?_, ?_, ?_, rfl, rfl, podnum_reads _, rfl⟩
  · intro h8 h32
    rw [registerWrite_writes x h8 h32, updBar0_write s x h8]
    by_cases h20 : 2 ^ 20 ≤ off
    · have hn : ¬ off < 0x20 ∧ ¬ off < 0x40 ∧ off ≠ 0x48 ∧ off ≠ 0x50 ∧ ¬ off < 2 ^ 20 := by omega
      obtain ⟨h1, h2, h3, h4, h5⟩ := hn
      rw [if_pos h20, if_neg h1, if_neg h2, if_neg h3, if_neg h4, if_neg h5]
    · rw [if_neg h20, if_pos (Nat.not_le.mp h20)]
  · intro hc h0 hz
    rw [exec_fctlCommit]
    exact (if_neg (by simp [hc])).trans (if_pos ⟨hz, h0⟩)
  · intro hc h
    rw [exec_fctlCommit]
    refine (if_neg (by simp [hc])).trans (if_neg ?_)
    rintro ⟨hz, h0⟩
    obtain h | h := h
    · exact Bool.false_ne_true (h.symm.trans h0)
    · exact h hz
  · rw [show bits x.toNat 0 9 = x.toNat % 512 by simp [bits]]
    rfl
  · intro hc hp
    rw [exec_podnumWrite]
    exact if_pos (by simp [hc, hp])
  · intro hp
    rw [exec_podnumWrite]
    exact if_neg (by cases h : s.bar0.podnum <;> simp_all)
  · rw [exec_rcvctlStart]
    exact if_neg (by simp [hb])
  · rw [exec_rcvctlDone]
    exact if_neg (by simp [hb])
  · intro ho hl
    rw [exec_rcvdataWrite]
    exact if_pos (Bool.and_eq_true_iff.mpr ⟨ho, decide_eq_true hl⟩)
  · intro h
    rw [exec_rcvdataWrite]
    refine if_neg ?_
    rw [Bool.and_eq_true, decide_eq_true_eq]
    rintro ⟨ho, hl⟩
    obtain h | h := h
    · exact Bool.false_ne_true (h.symm.trans ho)
    · exact Nat.not_lt.mpr hl h
  · intro hbusy
    rw [exec_firmwareVerifyDone, execFirmwareVerifyDone, if_pos hbusy]
    refine ⟨_, rfl, rfl, fun hp hl hk => ⟨?_, ?_⟩, fun hp => ?_⟩
    · exact congrArg (!·) (Bool.and_eq_true_iff.mpr ⟨hp, decide_eq_true hl⟩)
    · have hok := Bool.and_eq_true_iff.mpr ⟨hp, decide_eq_true hl⟩
      exact (congrArg FwSlot.gen (slot_updSlotFw (s.updBar0 _) _ hk)).trans (if_pos hok)
    · exact congrArg (!·) (Bool.and_eq_false_iff.mpr (.inl hp))
  · intro hb h20 hne hcap
    have hlo : max a (2 ^ 20) = a := Nat.max_eq_left h20
    have hhi : min (a + bs.length) (s.capacity - 2 ^ 32) = a + bs.length := Nat.min_eq_left hcap
    have hlt : a < a + bs.length := Nat.lt_add_of_pos_right (List.length_pos_iff.mpr hne)
    rw [exec_hostWrite]
    simp only [execHostWrite, hlo, hhi, hb, hlt, decide_true, Bool.and_self, ↓reduceIte, Nat.sub_self, List.drop_zero,
      Nat.add_sub_cancel_left, List.take_length]
  · intro hb ha hcap hm
    have hmin : min n (s.capacity - 2 ^ 32 - a) = n := by omega
    rw [hostRead_bytes ha (.inr (hmin.symm ▸ hm))]
    have hbytes : ((List.range n).map fun i => s.hostByte (a + i)) = s.memBytes a n :=
      List.map_congr_left fun i hi => hostByte_inside hb (by have := List.mem_range.mp hi; omega)
    rw [hbytes]
  · intro hcap ha
    rw [hostRead_bytes ha (.inl (by omega))]
    have hones : ((List.range n).map fun i => s.hostByte (a + i)) = List.replicate n 0xFF := by
      rw [List.map_congr_left (g := fun _ => 0xFF) fun i _ => hostByte_beyond (by omega)]
      simp
    rw [hones]
  · intro h20 hn hal
    rw [exec_hostRead]
    simp only [execHostRead, Nat.le_add_right, ↓reduceIte, Nat.add_sub_cancel_left, h20, State.readBar0, hn, hal, and_self]

end Sys2Proof.Proofs
end

section
/-! PROOFS. Events of standing loads (R341 to R345). -/

namespace Sys2Proof.Proofs

open Sys2Proof.Machine Sys2Proof.Safety Sys2Proof.Laws

theorem exec_pushSend (line : Nat) (s : State) : exec (.pushSend line) s = execPushSend line s := rfl

theorem exec_pushLands (id : Nat) (s : State) : exec (.pushLands id) s = execPushLands id s := rfl

theorem exec_sloadFillLands (id : Nat) (s : State) : exec (.sloadFillLands id) s = execSloadFillLands id s := rfl

theorem exec_unsubAckLands (id : Nat) (s : State) : exec (.unsubAckLands id) s = execUnsubAckLands id s := rfl

theorem exec_sloadAnswer (id : Nat) (s : State) : exec (.sloadAnswer id) s = execSloadAnswer id s := rfl

theorem exec_subscriptionGrantExpiry (id : Nat) (s : State) :
    exec (.subscriptionGrantExpiry id) s = execSubscriptionGrantExpiry id s := rfl

theorem exec_pushUndeliverable (dev : Nat) (s : State) :
    exec (.pushUndeliverable dev) s = execPushUndeliverable dev s := rfl

/-! Pushes that a home sends. -/

theorem sendAll_fly (s : State) (subs : List Sub) (body : PushBody) :
    (s.sendAll subs body).fly.dirty = s.fly.dirty ∧ ∀ p ∈ s.fly.pushes, p ∈ (s.sendAll subs body).fly.pushes := by
  unfold State.sendAll
  induction subs generalizing s with
  | nil => exact ⟨rfl, fun _ h => h⟩
  | cons x r ih =>
    obtain ⟨hd, hp⟩ := ih ((s.updFly fun f => { f with pushes := f.pushes ++
      [⟨s.nextId, x.id, x.team, x.slot, x.dev, body, none, 0, 0, none, s.wall⟩] }).takeId)
    exact ⟨hd, fun p h => hp p (List.mem_append_left _ h)⟩

/-- Each of the subscriptions is sent the push. -/
theorem sendAll_sends (s : State) {subs : List Sub} (body : PushBody) {x : Sub} (hx : x ∈ subs) :
    ∃ p ∈ (s.sendAll subs body).fly.pushes, p.sub = x.id ∧ p.team = x.team ∧ p.slot = x.slot ∧ p.dev = x.dev ∧ p.body = body := by
  induction subs generalizing s with
  | nil => exact nomatch hx
  | cons y r ih =>
    obtain rfl | hr := List.mem_cons.mp hx
    · refine ⟨_, (sendAll_fly _ r body).2 _ (List.mem_append_right _ (List.mem_singleton_self _)), rfl, rfl, rfl, rfl, rfl⟩
    · exact ih _ hr

/-- Memory reads alike whatever is under way. -/
theorem readPhys_updFly (s : State) (f : Flight → Flight) (pa n : Nat) : (s.updFly f).readPhys pa n = s.readPhys pa n :=
  SameBytes.readPhys ⟨rfl, rfl, rfl, rfl, rfl, rfl, rfl⟩ pa n

/-- A due push chooses the second case. -/
theorem match_dirty {β : Type} {x : Option Dirty} {d : Dirty} (h : x = some d) (a : β) (F : Dirty → β) :
    (match (generalizing := false) x with | none => a | some d => F d) = F d := by
  subst h
  rfl

/-- PUSH_SEND of a line of this device, with the line as it stands (R341). -/
theorem pushSend_sends {s : State} {line : Nat} {d : Dirty} {bs : List Byte} (hl : line < 2 ^ 60)
    (hd : s.fly.dirty.find? (fun d => d.line == line) = some d) (hr : s.readPhys (line * 128) 128 = some bs) :
    exec (.pushSend line) s = .next ((s.updFly fun f => { f with dirty := f.dirty.filter fun x => x.line ≠ line }).sendAll
      ((s.fly.subs.filter fun x => x.line == line).filter fun x => newerSeq d.seq x.start) (.data d.seq bs)) := by
  rw [exec_pushSend]
  unfold execPushSend
  rw [if_neg (Nat.not_le.mpr hl)]
  refine (match_dirty hd _ _).trans ?_
  generalize hs : (s.updFly fun f => { f with dirty := f.dirty.filter fun x => x.line ≠ line }) = t
  have ht : t.readPhys (line * 128) 128 = some bs := by rw [← hs, readPhys_updFly, hr]
  simp only [ht]

/-! A push that lands. -/

/-- The slot of a push is not parked. -/
theorem parkedAt_none {s : State} {p : Push} (h : ∀ z ∈ s.fly.parkedSlots, ¬ (z.team = p.team ∧ z.slot = p.slot)) :
    s.parkedAt p = none := by
  simp only [State.parkedAt, List.find?_eq_none, Bool.and_eq_true, beq_iff_eq]
  exact h

/-- Where no store under way meets the slot, a push lands as it is. -/
theorem landSlot_quiet {s : State} {m slot q : Nat} {bs : List Byte}
    (h : ∀ o ∈ s.fly.ops, ∀ a bs shown counted, o.kind = .store (.spad a) bs shown counted →
      meets a bs.length (s.slotAddr m slot 0) 576 = false) :
    s.landSlot m slot q bs = s.landPush m slot q bs := by
  have hr : s.racing m slot = [] := by
    rw [State.racing, List.filter_eq_nil_iff]
    intro o ho
    split
    · next a bs shown counted hk => simp [h o ho a bs shown counted hk]
    · simp
  simp only [State.landSlot, hr, List.foldl_nil]

section

variable {s : State} {id : Nat} {p : Push} (hp : s.pushAt id = some p) (hf : s.firstPush p = true)
  (hdrop : s.pushDropped p = false) (hpark : ∀ z ∈ s.fly.parkedSlots, ¬ (z.team = p.team ∧ z.slot = p.slot))
include hp hf hdrop hpark

theorem pushLands_data {q : Nat} {bs : List Byte} (hdev : p.dev = none) (hb : p.body = .data q bs)
    (hq : ∀ o ∈ s.fly.ops, ∀ a bs shown counted, o.kind = .store (.spad a) bs shown counted →
      meets a bs.length (s.slotAddr p.team p.slot 0) 576 = false) :
    exec (.pushLands id) s = .next (
      if (s.slot p.team p.slot).state = 2 ∨ (s.slot p.team p.slot).state = 4 then (s.dropPush p).landPush p.team p.slot q bs
      else s.dropPush p) := by
  have hslot : (s.dropPush p).slot p.team p.slot = s.slot p.team p.slot := (slot_congr rfl rfl p.team p.slot 0 false).1
  have hnone : (s.dropPush p).parkedAt p = none := parkedAt_none hpark
  have hland : (s.dropPush p).landSlot p.team p.slot q bs = (s.dropPush p).landPush p.team p.slot q bs := landSlot_quiet hq
  rw [exec_pushLands]
  simp only [execPushLands, hp, hf, hdrop, hdev, hb, hnone, hslot, hland, Bool.not_true, Bool.or_self, Bool.false_eq_true,
    ↓reduceIte]
  split <;> rfl

theorem pushLands_final {state cause : Nat} (hdev : p.dev = none) (hb : p.body = .final state cause) :
    exec (.pushLands id) s =
      .next ((s.dropPush p).updSlot p.team p.slot fun x => { x with state := state, cause := cause }) := by
  have hnone : (s.dropPush p).parkedAt p = none := parkedAt_none hpark
  rw [exec_pushLands]
  simp only [execPushLands, hp, hf, hdrop, hdev, hb, hnone, Bool.not_true, Bool.or_self, Bool.false_eq_true, ↓reduceIte] <;> rfl

theorem sloadFillLands_fill {q state j : Nat} {bs : List Byte} (hb : p.body = .fill q bs state) (hth : p.thread = some j)
    (herr : p.err = none)
    (hq : ∀ o ∈ s.fly.ops, ∀ a bs shown counted, o.kind = .store (.spad a) bs shown counted →
      meets a bs.length (s.slotAddr p.team p.slot 0) 576 = false) :
    exec (.sloadFillLands id) s = .next ((((s.dropPush p).landPush p.team p.slot q bs).updSlot p.team p.slot
      fun x => { x with state := state }).updThr j fun x => x.decCtr .gx p.id) := by
  have hnone : (s.dropPush p).parkedAt p = none := parkedAt_none hpark
  have hland : (s.dropPush p).landSlot p.team p.slot q bs = (s.dropPush p).landPush p.team p.slot q bs := landSlot_quiet hq
  rw [exec_sloadFillLands]
  simp only [execSloadFillLands, hp, hf, hdrop, hb, hnone, hland, hth, herr, State.settlePush, Bool.not_true, Bool.or_self,
    Bool.false_eq_true, ↓reduceIte]

omit hdrop in
theorem unsubAckLands_ack {j : Nat} (hb : p.body = .ack) (hth : p.thread = some j) (herr : p.err = none) :
    exec (.unsubAckLands id) s = .next (((s.dropPush p).updSlot p.team p.slot
      fun x => { x with state := 0 }).updThr j fun x => x.decCtr .st p.id) := by
  have hnone : (s.dropPush p).parkedAt p = none := parkedAt_none hpark
  rw [exec_unsubAckLands]
  simp only [execUnsubAckLands, hp, hf, hb, hnone, hth, herr, State.settlePush, ↓reduceIte]

end

/-- The home of an UNSUB's line removes the entry and answers behind every push on its way (R344). -/
theorem unsubAckLands_unsub {s : State} {id : Nat} {p : Push} (hp : s.pushAt id = some p) (hb : p.body = .unsub)
    (hr : ∀ r ∈ s.fly.reads, r.who ≠ .unsub p.id) :
    exec (.unsubAckLands id) s = .next (((s.dropPush p).dropSub fun x => x.id == p.sub).updFly fun f =>
      { f with pushes := f.pushes ++ [{ p with body := .ack, err := none }] }) := by
  have hn : (s.fly.reads.any fun r => r.who == .unsub p.id) = false := by
    simp only [List.any_eq_false, beq_iff_eq]
    exact hr
  rw [exec_unsubAckLands]
  simp only [execUnsubAckLands, hp, hb, hn, Bool.false_eq_true, ↓reduceIte]

/-! The home's answer. -/

/-- A place of this device's memory chooses the first case. -/
theorem match_mem {β : Type} {p : Place} {a : Nat} (h : p = .mem a) (F : Nat → β) (G : Nat → Nat → β) (c : β) :
    (match (generalizing := false) p with | .mem a => F a | .peer e o => G e o | _ => c) = F a := by
  subst h
  rfl

/-- SLOAD_ANSWER of a line of this device: a subscription where its table has room, else the line alone (R342). -/
theorem sloadAnswer_answers {s : State} {id pa : Nat} {r : SloadReq} {bs : List Byte}
    (hr : s.fly.reqs.find? (fun r => r.id == id && r.answer.isNone) = some r) (hl : r.line = .mem pa)
    (hb : s.readPhys pa 128 = some bs) :
    exec (.sloadAnswer id) s = .next (s.answer r (if s.tableFull (pa / 128) then none else some (pa / 128))
      (.fill (s.lineSeq (pa / 128)) bs (if s.tableFull (pa / 128) then 3 else 2)) none) := by
  rw [exec_sloadAnswer, execSloadAnswer, hr]
  refine (match_mem hl _ _ _).trans ?_
  rw [hb]
  cases s.tableFull (pa / 128) <;> rfl

theorem answer_answers (s : State) {r : SloadReq} (hr : r ∈ s.fly.reqs) (line : Option Nat) (body : PushBody) :
    (∃ p ∈ (s.answer r line body none).fly.pushes, p.team = r.team ∧ p.slot = r.slot ∧ p.thread = some r.thread ∧ p.err = none ∧
      p.body = body) ∧
    (∃ x ∈ (s.answer r line body none).fly.reqs, x.id = r.id ∧ x.answer = some line.isSome) ∧
    ∀ l, line = some l → ∃ x ∈ (s.answer r line body none).fly.subs, x.line = l ∧ x.team = r.team ∧ x.slot = r.slot := by
  refine ⟨⟨_, List.mem_append_right _ (List.mem_singleton_self _), rfl, rfl, rfl, rfl, rfl⟩,
    ⟨_, List.mem_map_of_mem hr, ?_, ?_⟩, ?_⟩
  · rw [if_pos rfl]
  · rw [if_pos rfl]
  · rintro l rfl
    exact ⟨_, List.mem_append_right _ (List.mem_singleton_self _), rfl, rfl, rfl⟩

/-! A device that pushes have not reached (R345). -/

/-- What ends slots and writes records keeps subscriptions and pushes. -/
structure SameFeed (s t : State) : Prop where
  subs : t.fly.subs = s.fly.subs
  pushes : t.fly.pushes = s.fly.pushes
  parked : t.fly.parkedSlots = s.fly.parkedSlots

theorem SameFeed.refl (s : State) : SameFeed s s := ⟨rfl, rfl, rfl⟩

theorem SameFeed.trans {s t u : State} (h : SameFeed s t) (h' : SameFeed t u) : SameFeed s u :=
  ⟨h'.subs.trans h.subs, h'.pushes.trans h.pushes, h'.parked.trans h.parked⟩

theorem Posted.feed {s t : State} (h : Posted s t) : SameFeed s t := by
  obtain ⟨_, _, h⟩ := h
  exact ⟨h.same fun z => z.fly.subs, h.same fun z => z.fly.pushes, h.same fun z => z.fly.parkedSlots⟩

theorem updImage_feed (s : State) (z : ParkedSlot) (off : Nat) (f : Nat → Nat) : SameFeed s (s.updImage z off f) := by
  unfold State.updImage
  dsimp only
  split
  · exact .refl s
  · exact (vwriteGet_posted ..).feed

theorem endParked_feed (s : State) (z : ParkedSlot) (state cause : Nat) : SameFeed s (s.endParked z state cause) := by
  unfold State.endParked
  exact (foldl_related .refl .trans _ _ fun s e _ => updImage_feed s z _ _).trans (updImage_feed _ z _ _)

theorem setSlot_feed (s : State) (m slot : Nat) (x : Slot) : SameFeed s (s.setSlot m slot x) := by
  unfold State.setSlot
  have hw (z : State) (a : Nat) (bs : List Byte) : SameFeed z (z.writeSpad a bs) := ⟨rfl, rfl, rfl⟩
  exact (foldl_related .refl .trans _ _ fun z _ _ => hw z _ _).trans (hw _ _ _)

theorem fq12_feed (s : State) (c code a x : Nat) : SameFeed s (s.fq12 c code a x) := by
  unfold State.fq12
  exact (fqWrite_posted ..).feed

/-- The push with which the port ends a subscription to a device. -/
def endPush (x : Sub) : Push := ⟨0, x.id, x.team, x.slot, none, .final 5 3, none, 0, 0, none, 0⟩

/-- The end of a subscription to a device reaches its slot, or the slot's image. -/
def endSub (s : State) (x : Sub) : State :=
  match s.parkedAt (endPush x) with
  | some z => s.endParked z 5 3
  | none => s.updSlot x.team x.slot fun y => if y.state = 1 then y else y.ended 5 3

theorem endSub_feed (s : State) (x : Sub) : SameFeed s (endSub s x) := by
  unfold endSub
  split
  · exact endParked_feed ..
  · exact setSlot_feed ..

/-- The subscriptions to lines of a device. -/
def subsTo (s : State) (dev : Nat) : List Sub := s.fly.subs.filter fun x => s.subHome x == some dev

/-- Whether a push is for a subscription to a device's lines. -/
def isTo (s : State) (dev : Nat) (p : Push) : Bool := (subsTo s dev).any fun x => x.id == p.sub

/-- Whether a push between this device and another is lost with it. -/
def losesPush (s : State) (dev : Nat) (p : Push) : Bool :=
  p.dev == some dev || (isTo s dev p && (match p.body with | .data _ _ => true | .final _ _ => true | _ => false))

/-- What becomes of a push that is not lost: a fill on its way brings the end. -/
def cutPush (s : State) (dev : Nat) (p : Push) : Push :=
  match p.body with
  | .fill _ _ _ => if isTo s dev p then { p with body := .bad 5 3 } else p
  | _ => p

/-- The machine without the subscriptions and pushes of a device. -/
def cutOff (s : State) (dev : Nat) : State :=
  (s.dropSub fun x => x.dev == some dev || s.subHome x == some dev).updFly fun f =>
    { f with pushes := (f.pushes.filter fun p => !losesPush s dev p).map (cutPush s dev) }

theorem pushUndeliverable_held {s : State} {dev : Nat}
    (h : ∃ p ∈ s.fly.pushes, (p.dev = some dev ∨ isTo s dev p = true) ∧ p.since + 2000000 * wallNs ≤ s.wall) :
    exec (.pushUndeliverable dev) s = .next ((dedup ((subsTo s dev).map Sub.ctx)).foldl (fun s c => s.fq12 c 6 0 0)
      ((subsTo s dev).foldl endSub (cutOff s dev))) := by
  rw [exec_pushUndeliverable]
  refine congrArg Host.Outcome.next (if_pos ?_)
  obtain ⟨p, hp, ho, hs⟩ := h
  refine List.any_eq_true.mpr ⟨p, hp, ?_⟩
  rw [Bool.and_eq_true, Bool.or_eq_true, beq_iff_eq, decide_eq_true_eq]
  exact ⟨ho, hs⟩

theorem pushUndeliverable_early {s : State} {dev : Nat} (h : ∀ p ∈ s.fly.pushes, ¬ p.since + 2000000 * wallNs ≤ s.wall) :
    exec (.pushUndeliverable dev) s = .next s := by
  rw [exec_pushUndeliverable]
  refine congrArg Host.Outcome.next (if_neg ?_)
  rw [List.any_eq_true]
  rintro ⟨p, hp, ho⟩
  rw [Bool.and_eq_true, decide_eq_true_eq] at ho
  exact h p hp ho.2

/-- What the port's records and the ends of slots keep of the machine that has been cut off. -/
theorem endSubs_feed (s : State) (xs : List Sub) (cs : List Nat) :
    SameFeed s (cs.foldl (fun s c => s.fq12 c 6 0 0) (xs.foldl endSub s)) :=
  (foldl_related .refl .trans _ _ fun s x _ => endSub_feed s x).trans
    (foldl_related .refl .trans _ _ fun s c _ => fq12_feed s c 6 0 0)

/-- Where no push of this device's own is for a subscription to the device, only pushes to it are lost. -/
theorem cutOff_foreign {s : State} {dev : Nat} (h : ∀ p ∈ s.fly.pushes, isTo s dev p = false) :
    cutOff s dev = s.updFly fun f => { f with
      subs := f.subs.filter (fun y => y.dev ≠ some dev ∧ s.subHome y ≠ some dev),
      pushes := f.pushes.filter fun p => p.dev ≠ some dev } := by
  have hpush : (s.fly.pushes.filter fun p => !losesPush s dev p).map (cutPush s dev) =
      s.fly.pushes.filter fun p => p.dev ≠ some dev := by
    have hf : (s.fly.pushes.filter fun p => !losesPush s dev p) = s.fly.pushes.filter fun p => p.dev ≠ some dev :=
      List.filter_congr fun p hp => by
        by_cases hd : p.dev = some dev <;> simp [losesPush, h p hp, hd]
    rw [hf]
    refine (List.map_congr_left fun p hp => ?_).trans (List.map_id _)
    unfold cutPush
    split
    · rw [h p (List.mem_of_mem_filter hp), if_neg Bool.false_ne_true]
      rfl
    · rfl
  have hsub : (s.fly.subs.filter fun x => !(x.dev == some dev || s.subHome x == some dev)) =
      s.fly.subs.filter fun y => y.dev ≠ some dev ∧ s.subHome y ≠ some dev :=
    List.filter_congr fun x _ => by
      by_cases hd : x.dev = some dev <;> by_cases hh : s.subHome x = some dev <;> simp [hd, hh]
  exact congrArg₂ (fun a b => s.updFly fun f => { f with subs := a, pushes := b }) hsub hpush

/-- The only subscription to a device's lines. -/
theorem subsTo_single {s : State} {dev : Nat} {x : Sub} (hx : x ∈ s.fly.subs) (hh : s.subHome x = some dev)
    (ho : ∀ y ∈ s.fly.subs, y ≠ x → s.subHome y ≠ some dev) (hd : s.fly.subs.Nodup) : subsTo s dev = [x] := by
  have hf : subsTo s dev = s.fly.subs.filter (· == x) := List.filter_congr fun y hy => by
    by_cases h : y = x
    · subst h
      simp [hh]
    · simp [h, ho y hy h]
  rw [hf, List.filter_beq, List.count_eq_one_of_mem hd hx]
  rfl

/-- Settles O44: each event by the branch of its function that the clause names. -/
theorem standingLoadsAreServed : Obligations.StandingLoadsAreServed := by
  unfold Obligations.StandingLoadsAreServed
  intro s id line dev
  dsimp only
  refine ⟨?_, ?_, fun p hp hf hdrop hdev hpark => ⟨?_, ?_, ?_, ?_⟩, ?_, ?_, ?_, ?_, ?_, ?_⟩
  · intro d bs hl hd hr
    refine ⟨_, pushSend_sends hl hd hr, fun y hy => ?_, fun x hx hxl hn => ?_⟩
    · rw [(sendAll_fly ..).1] at hy
      simpa using (List.mem_filter.mp hy).2
    · exact sendAll_sends _ _ (List.mem_filter.mpr ⟨List.mem_filter.mpr ⟨hx, by simpa using hxl⟩, hn⟩)
  · exact fun p hp hb hr => unsubAckLands_unsub hp hb hr
  · exact fun q bs hb hq => pushLands_data hp hf hdrop hpark hdev hb hq
  · exact fun state cause hb => pushLands_final hp hf hdrop hpark hdev hb
  · exact fun q bs state j hb hth herr hq => sloadFillLands_fill hp hf hdrop hpark hb hth herr hq
  · exact fun j hb hth herr => unsubAckLands_ack hp hf hpark hb hth herr
  · intro r pa bs hr hl hb
    obtain ⟨hpush, ⟨x, hx, hxi, hxa⟩, hsub⟩ := answer_answers s (List.mem_of_find?_eq_some hr)
      (if s.tableFull (pa / 128) then none else some (pa / 128))
      (.fill (s.lineSeq (pa / 128)) bs (if s.tableFull (pa / 128) then 3 else 2))
    refine ⟨_, sloadAnswer_answers hr hl hb, hpush, ⟨x, hx, hxi, hxa.trans ?_⟩, fun hfull => hsub _ ?_⟩
    · cases s.tableFull (pa / 128) <;> rfl
    · rw [hfull]
      rfl
  · intro x hx hdev hexp
    refine ⟨(s.sendAll [x] (.final 5 2)).dropSub fun y => y.id == x.id, ?_, ?_, ?_⟩
    · rw [exec_subscriptionGrantExpiry]
      simp only [execSubscriptionGrantExpiry, hx, hdev, hexp, Bool.and_self, Bool.true_or, ↓reduceIte]
    · exact fun y hy => by simpa using (List.mem_filter.mp hy).2
    · obtain ⟨p, hp, hs, -, -, -, hb⟩ := sendAll_sends s (subs := [x]) (.final 5 2) (List.mem_singleton_self x)
      exact ⟨p, hp, hs, hb⟩
  · exact fun h => pushUndeliverable_early h
  · intro hno ⟨p, hp, hpd, hold⟩
    have hto : subsTo s dev = [] := List.filter_eq_nil_iff.mpr fun x hx => by simpa using hno x hx
    have his : ∀ p ∈ s.fly.pushes, isTo s dev p = false := fun p _ => by rw [isTo, hto]; rfl
    rw [pushUndeliverable_held ⟨p, hp, .inl hpd, hold⟩, hto, cutOff_foreign his]
    have hsub : (s.fly.subs.filter fun y => y.dev ≠ some dev ∧ s.subHome y ≠ some dev) =
        s.fly.subs.filter fun x => x.dev ≠ some dev :=
      List.filter_congr fun x hx => by simp [hno x hx]
    exact congrArg (fun l => Host.Outcome.next (s.updFly fun f => { f with
      subs := l, pushes := f.pushes.filter fun p => p.dev ≠ some dev })) hsub
  · intro x hx hh ho hd hpark hps hst ⟨p, hp, hpd, hold⟩
    have hto := subsTo_single hx hh ho hd
    have his : ∀ p ∈ s.fly.pushes, isTo s dev p = false := fun p hp => by
      simp [isTo, hto, (hps p hp).symm]
    rw [pushUndeliverable_held ⟨p, hp, .inl hpd, hold⟩, hto]
    have hnone : (cutOff s dev).parkedAt (endPush x) = none := parkedAt_none fun z hz => by
      have hz : z ∈ s.fly.parkedSlots := hz
      rw [hpark] at hz
      exact nomatch hz
    have hslot : (cutOff s dev).slot x.team x.slot = s.slot x.team x.slot := (slot_congr rfl rfl x.team x.slot 0 false).1
    have hend : endSub (cutOff s dev) x = (cutOff s dev).updSlot x.team x.slot fun y => { y with state := 5, cause := 3 } := by
      simp only [endSub, hnone, State.updSlot, hslot, hst, ↓reduceIte]
      rfl
    rw [List.foldl_cons, List.foldl_nil, hend, cutOff_foreign his]
    rfl
  · intro x p q bs st hx hh hp hpx hpd hb ⟨z, hz, hzd, hold⟩
    have hxto : x ∈ subsTo s dev := List.mem_filter.mpr ⟨hx, by simpa using hh⟩
    have his : ∀ p : Push, p.sub = x.id → isTo s dev p = true := fun p hp =>
      List.any_eq_true.mpr ⟨x, hxto, by simpa using hp.symm⟩
    have hfeed := endSubs_feed (cutOff s dev) (subsTo s dev) (dedup ((subsTo s dev).map Sub.ctx))
    refine ⟨_, pushUndeliverable_held ⟨z, hz, hzd.imp_right (his z), hold⟩, ?_, ?_⟩
    · rw [hfeed.pushes]
      refine List.mem_map.mpr ⟨p, List.mem_filter.mpr ⟨hp, ?_⟩, ?_⟩
      · simp [losesPush, hpd, hb]
      · simp only [cutPush, hb, his p hpx, ↓reduceIte]
    · rw [hfeed.subs]
      intro y hy
      have := (List.mem_filter.mp hy).2
      simp only [Bool.not_or, Bool.and_eq_true, Bool.not_eq_true', beq_eq_false_iff_ne] at this
      exact this.2

end Sys2Proof.Proofs
end

section
/-! PROOFS. Events of the sum trees (R323 to R329, R332, R433). -/

namespace Sys2Proof.Proofs

open Sys2Proof.Machine Sys2Proof.Safety Sys2Proof.Laws

theorem exec_rickNodeArrival (id : Nat) (s : State) : exec (.rickNodeArrival id) s = execRickNodeArrival id s := rfl

theorem exec_treeStampWrite (elem : Nat) (s : State) : exec (.treeStampWrite elem) s = execTreeStampWrite elem s := rfl

theorem exec_coreRickTimeout (id : Nat) (s : State) : exec (.coreRickTimeout id) s = execCoreRickTimeout id s := rfl

theorem exec_portRickTimeout (id : Nat) (s : State) : exec (.portRickTimeout id) s = execPortRickTimeout id s := rfl

theorem exec_nodeWaitTimeout (id : Nat) (s : State) : exec (.nodeWaitTimeout id) s = execNodeWaitTimeout id s := rfl

/-! Nodes that no contribution hangs on. -/

theorem settle_of_origin_none {x : TreeNode} (h : x.origin = none) (s : State) (err : Option Failure) : s.settle x err = s := by
  simp [State.settle, h]

/-- What settling a contribution changes: the counted operations of its thread. -/
theorem settle_eq (s : State) (x : TreeNode) (err : Option Failure) : ∃ os, s.settle x err = s.updFly fun f => { f with ops := os } := by
  unfold State.settle
  split
  · exact ⟨s.fly.ops, rfl⟩
  · exact ⟨_, rfl⟩

/-- A contribution that is settled completes on ctr.ct. -/
theorem settle_completes (s : State) {x : TreeNode} {k : Nat} {pc : Dword} (h : x.origin = some (k, pc)) (err : Option Failure) :
    ∃ o ∈ (s.settle x err).fly.ops, o.thread = k ∧ o.kind = .done .ct err := by
  simp only [State.settle, h]
  exact ⟨_, List.mem_append_right _ (List.mem_singleton_self _), rfl, rfl⟩

theorem hold_nodes (s : State) (x : TreeNode) (p : NodePlace) : (s.hold x p).fly.nodes =
    s.fly.nodes ++ [{ x with place := p, origin := none, drain := false, since := s.clk }] := by
  unfold State.hold
  obtain ⟨os, h⟩ := settle_eq s x none
  rw [h]
  rfl

theorem hold_completes (s : State) {x : TreeNode} (p : NodePlace) {k : Nat} {pc : Dword} (h : x.origin = some (k, pc)) :
    ∃ o ∈ (s.hold x p).fly.ops, o.thread = k ∧ o.kind = .done .ct none := settle_completes s h none

/-! A node that stands at a rick (R325). -/

/-- A node of the tree's epoch, of an open element and with no overlapping entry, is tried at its rick. -/
theorem arriveAt_ricks {s : State} {x : TreeNode} {t : TreeSet} {p : NodePlace} (ht : s.treeSet x.ctx x.handle = some t)
    (he : x.epoch = t.seq) (hl : x.leaves = t.leaves) (hop : x.op = t.op)
    (hs : (s.elemState x.ctx x.handle x.elem x.epoch).1 = 2)
    (ho : ∀ y ∈ s.fly.nodes, sameElem x y = true → standsAt p y.place = true → overlaps x y = false) :
    s.arriveAt x p = s.rick t p 40 x := by
  have hearly : s.early x = false := by simp [State.early, ht, he]
  have hover : (s.fly.nodes.any fun y => sameElem x y && standsAt p y.place && overlaps x y) = false := by
    simp only [List.any_eq_false, Bool.and_eq_true, not_and, Bool.not_eq_true, and_imp]
    exact ho
  have hstate : ∃ c, s.elemState x.ctx x.handle x.elem x.epoch = (2, c) := ⟨_, Prod.ext hs rfl⟩
  obtain ⟨c, hc⟩ := hstate
  unfold State.arriveAt
  simp only [ht, hearly, he, hl, hop, Bool.false_and, Bool.false_eq_true, ↓reduceIte, ne_eq, not_true_eq_false, decide_false,
    or_self]
  rw [← he, hc]
  simp only [hover, Bool.false_eq_true, ↓reduceIte]

/-- A node below the top whose sibling covers a leaf and does not stand at the rick rests there. -/
theorem rick_rests {s : State} {t : TreeSet} {p : NodePlace} {x : TreeNode} (fuel : Nat) (hlv : x.level ≠ t.top)
    (hsib : (x.index ^^^ 1) * 2 ^ x.level < t.leaves)
    (hno : ∀ y ∈ s.fly.nodes, sameElem x y = true → standsAt p y.place = true → y.level = x.level → y.index ≠ x.index ^^^ 1) :
    s.rick t p (fuel + 1) x = s.restAt t p x := by
  have hf : (s.fly.nodes.find? fun y =>
      sameElem x y && standsAt p y.place && y.level == x.level && y.index == x.index ^^^ 1) = none := by
    simp only [List.find?_eq_none, Bool.and_eq_true, beq_iff_eq, not_and, and_imp]
    exact hno
  rw [State.rick]
  simp only [hlv, Nat.not_le.mpr hsib, hf, ↓reduceIte]

/-- The parent of two siblings. -/
def parentNode (t : TreeSet) (x y : TreeNode) : TreeNode :=
  { x with level := x.level + 1, index := x.index / 2,
           value := if x.index % 2 = 0 then treeOp t.op x.value y.value else treeOp t.op y.value x.value,
           origin := none, drain := false }

/-- A node that meets its sibling in a slice pairs with it, and the parent is tried. -/
theorem rick_pairs {s : State} {t : TreeSet} {p : NodePlace} {x y : TreeNode} {k : Nat} (fuel : Nat) (hlv : x.level ≠ t.top)
    (hsib : (x.index ^^^ 1) * 2 ^ x.level < t.leaves)
    (hf : (s.fly.nodes.find? fun y =>
      sameElem x y && standsAt p y.place && y.level == x.level && y.index == x.index ^^^ 1) = some y)
    (hx : x.origin = none) (hy : y.origin = none) (hp : y.place = .sliceRick k) :
    s.rick t p (fuel + 1) x = (s.liftNode y).rick t p fuel (parentNode t x y) := by
  have hu : (s.liftNode y).unreadable y.place = false := by rw [hp]; rfl
  rw [State.rick]
  simp only [hlv, Nat.not_le.mpr hsib, hf, settle_of_origin_none hx, settle_of_origin_none hy, hu, Bool.false_eq_true, ↓reduceIte]
  rfl

/-- A node rests at a slice that has room, or goes on to its meeting place's slice. -/
theorem restAt_slice_nodes {s : State} {t : TreeSet} {x : TreeNode} {k : Nat} (hh : s.goalHome t x = none)
    (hroom : (s.rickNodes (.sliceRick k)).length < 4096) (ho : x.origin = none) (hd : x.drain = false) :
    (s.restAt t (.sliceRick k) x).fly.nodes = s.fly.nodes ++ [{ x with
      place := if s.goalSlice t x = k then .sliceRick k else .toSlice (s.goalSlice t x), drain := false, since := s.clk }] := by
  have hroom' : (s.fly.nodes.filter fun y => y.place == .sliceRick k).length < 4096 := hroom
  by_cases hg : s.goalSlice t x = k
  · simp only [State.restAt, State.atGoal, hh, hg, Option.isNone_none, beq_self_eq_true, Bool.and_self, ↓reduceIte,
      State.holdAtSlice, hroom', hold_nodes, ho]
  · simp only [State.restAt, State.atGoal, hh, hg, Option.isNone_none, beq_eq_false_iff_ne.mpr hg, Bool.and_false,
      Bool.false_eq_true, ↓reduceIte, State.sendOn, hd]
    rfl

theorem xor_one_ne (n : Nat) : n ≠ n ^^^ 1 := fun h => by
  have h' := congrArg (n ^^^ ·) h
  simp at h'

/-! Elements. -/

theorem setElem_elemState (s : State) (x : TreeNode) (state cause status : Nat) (stamped : Bool) :
    (s.setElem x state cause status stamped).elemState x.ctx x.handle x.elem x.epoch = (state, cause) := by
  have hrest : (s.fly.elems.filter fun y =>
      !(y.ctx == x.ctx && y.handle == x.handle && y.elem == x.elem && y.seq == x.epoch)).find?
      (fun y => y.ctx == x.ctx && y.handle == x.handle && y.elem == x.elem && y.seq == x.epoch) = none := by
    rw [List.find?_eq_none]
    intro y hy
    have hn := (List.mem_filter.mp hy).2
    rwa [Bool.not_eq_true', ← Bool.not_eq_true] at hn
  simp only [State.setElem, State.elemState, State.updFly, List.find?_append, hrest, Option.none_or, List.find?_cons, beq_self_eq_true,
    Bool.and_self]

/-- An open element whose root's meeting place is here fails, and what is held of it is dropped (R329). -/
theorem failElem_here {s : State} {x : TreeNode} {cause : Nat}
    (hn : (s.treeSet x.ctx x.handle).bind (fun t => s.nodeHome t t.top 0) = none)
    (hs : (s.elemState x.ctx x.handle x.elem x.epoch).1 = 2) :
    s.failElem x cause = (s.setElem x 1 cause 1 false).dropElem x := by
  unfold State.failElem
  rw [hn]
  exact congrArg (State.dropElem · x) (if_pos hs)

theorem dropElem_drops (s : State) (x : TreeNode) :
    ∀ y ∈ (s.dropElem x).fly.nodes, sameElem x y = true → y.origin.isSome = true ∨ y.drain = true := by
  intro y hy hsame
  have h := (List.mem_filter.mp hy).2
  simpa [hsame] using h

/-! Ports. -/

/-- Records keep the nodes' numbers. -/
theorem Posted.nodeIds {s t : State} (h : Posted s t) : t.fly.nodes.map TreeNode.id = s.fly.nodes.map TreeNode.id := by
  obtain ⟨_, _, h⟩ := h
  exact h.ids

theorem Posted.fabric {s t : State} (h : Posted s t) : t.fabric = s.fabric := by
  obtain ⟨_, _, h⟩ := h
  exact h.same State.fabric

/-- A node that its port refuses is gone, and nothing leaves over the fabric. -/
theorem refuseNode_leaves (s : State) (x : TreeNode) :
    (s.refuseNode x).fly.nodes.map TreeNode.id = s.fly.nodes.map TreeNode.id ∧ (s.refuseNode x).fabric = s.fabric := by
  unfold State.refuseNode State.fq12
  obtain ⟨os, h⟩ := settle_eq s x (x.origin.map fun o => ⟨5, 5, 0, 0, o.2⟩)
  rw [h]
  dsimp only
  split
  · exact ⟨rfl, rfl⟩
  · have hp := fqWrite_posted (s.updFly fun f => { f with ops := os }) ((s.updFly fun f => { f with ops := os }).ctx x.ctx)
      { cls := 12, code := 6, addr := BitVec.ofNat 64 0, aux := BitVec.ofNat 64 0, context := x.ctx, time := s.clk }
    exact ⟨hp.nodeIds, hp.fabric⟩

theorem liftNode_lacks (s : State) (x : TreeNode) : ∀ y ∈ (s.liftNode x).fly.nodes, y.id ≠ x.id := fun y hy => by
  simpa using (List.mem_filter.mp hy).2

/-! The events. -/

section

variable {s : State} {id : Nat} {x : TreeNode} {t : TreeSet} (hx : s.node id = some x)
  (ht : s.treeSet x.ctx x.handle = some t) (he : x.epoch = t.seq) (hl : x.leaves = t.leaves) (hop : x.op = t.op)
  (hs : (s.elemState x.ctx x.handle x.elem x.epoch).1 = 2) (hlv : x.level < t.top)
  (hsib : (x.index ^^^ 1) * 2 ^ x.level < t.leaves)
include hx ht he hl hop hs hlv hsib

/-- A node that comes to a core rick with room and without its sibling is held there, and its contribution is taken. -/
theorem rickNodeArrival_core {c : Nat} (hp : x.place = .toCore c)
    (hno : ∀ y ∈ (s.liftNode x).fly.nodes, sameElem x y = true → y.place ≠ .coreRick c)
    (hroom : ((s.liftNode x).rickNodes (.coreRick c)).length < 512) :
    exec (.rickNodeArrival id) s = .next ((s.liftNode x).hold x (.coreRick c)) := by
  have hst : ∀ y ∈ (s.liftNode x).fly.nodes, sameElem x y = true → standsAt (.coreRick c) y.place = true → False := by
    intro y hy hsame hstand
    refine hno y hy hsame ?_
    unfold standsAt at hstand
    split at hstand <;> simp_all
  have harr : (s.liftNode x).arriveAt x (.coreRick c) = (s.liftNode x).rick t (.coreRick c) 40 x :=
    arriveAt_ricks ht he hl hop hs fun y hy h1 h2 => (hst y hy h1 h2).elim
  have hrest : (s.liftNode x).rick t (.coreRick c) 40 x = (s.liftNode x).restAt t (.coreRick c) x :=
    rick_rests 39 (Nat.ne_of_lt hlv) hsib fun y hy h1 h2 => (hst y hy h1 h2).elim
  have hhold : (s.liftNode x).holdAtCore t x c = (s.liftNode x).hold x (.coreRick c) := by
    unfold State.holdAtCore
    rw [decide_eq_true hroom]
    cases ((s.liftNode x).rickNodes (.coreRick c)).head? <;> rfl
  rw [exec_rickNodeArrival]
  simp only [execRickNodeArrival, hx, hp, harr, hrest, State.restAt, hhold]

/-- Siblings that meet at a slice pair, and their parent rests there or goes on. -/
theorem rickNodeArrival_slice {k : Nat} {y : TreeNode} (hp : x.place = .toSlice k) (hox : x.origin = none)
    (hoy : y.origin = none) (hpy : y.place = .sliceRick k)
    (hone : ((s.liftNode x).fly.nodes.filter fun z => sameElem x z && standsAt (.sliceRick k) z.place) = [y])
    (hly : y.level = x.level) (hiy : y.index = x.index ^^^ 1) (hlv' : x.level + 1 < t.top)
    (hsib' : (x.index / 2 ^^^ 1) * 2 ^ (x.level + 1) < t.leaves) :
    exec (.rickNodeArrival id) s =
      .next (((s.liftNode x).liftNode y).restAt t (.sliceRick k) (parentNode t x y)) := by
  have hmem : ∀ z, z ∈ (s.liftNode x).fly.nodes → sameElem x z = true → standsAt (.sliceRick k) z.place = true → z = y :=
    fun z hz h1 h2 => List.mem_singleton.mp (hone ▸ List.mem_filter.mpr ⟨hz, by rw [h1, h2]; rfl⟩)
  have hy : y ∈ (s.liftNode x).fly.nodes ∧ (sameElem x y && standsAt (.sliceRick k) y.place) = true :=
    List.mem_filter.mp (hone ▸ List.mem_singleton_self y)
  have harr : (s.liftNode x).arriveAt x (.sliceRick k) = (s.liftNode x).rick t (.sliceRick k) 40 x := by
    refine arriveAt_ricks ht he hl hop hs fun z hz h1 h2 => ?_
    rw [hmem z hz h1 h2]
    simp [overlaps, hly, hiy, xor_one_ne]
  have hfind : ((s.liftNode x).fly.nodes.find? fun z =>
      sameElem x z && standsAt (.sliceRick k) z.place && z.level == x.level && z.index == x.index ^^^ 1) = some y := by
    cases hf : ((s.liftNode x).fly.nodes.find? fun z =>
        sameElem x z && standsAt (.sliceRick k) z.place && z.level == x.level && z.index == x.index ^^^ 1) with
    | none =>
      refine absurd (List.find?_eq_none.mp hf y hy.1) (not_not.mpr ?_)
      rw [hy.2, hly, hiy, beq_self_eq_true, beq_self_eq_true]
      rfl
    | some z =>
      have hz := List.find?_some hf
      simp only [Bool.and_eq_true] at hz
      rw [hmem z (List.mem_of_find?_eq_some hf) hz.1.1.1 hz.1.1.2]
  have hpair := rick_pairs 39 (Nat.ne_of_lt hlv) hsib hfind hox hoy hpy
  have hrest : ((s.liftNode x).liftNode y).rick t (.sliceRick k) 39 (parentNode t x y) =
      ((s.liftNode x).liftNode y).restAt t (.sliceRick k) (parentNode t x y) := by
    refine rick_rests 38 (Nat.ne_of_lt hlv') hsib' fun z hz h1 h2 => ?_
    obtain ⟨hz', hid⟩ := List.mem_filter.mp hz
    rw [hmem z hz' h1 h2] at hid
    exact absurd hid (by simp)
  rw [exec_rickNodeArrival]
  simp only [execRickNodeArrival, hx, hp, harr, hpair, hrest]

end

/-- A node that has waited 1 ms leaves, and its element fails with cause 2 (R328). -/
theorem nodeWaitTimeout_fails {s : State} {id k : Nat} {x : TreeNode} (hx : s.node id = some x) (hp : x.place = .waiting k)
    (hw : x.since + 1000000 * wallNs ≤ s.wall)
    (hn : (s.treeSet x.ctx x.handle).bind (fun t => s.nodeHome t t.top 0) = none)
    (hs : (s.elemState x.ctx x.handle x.elem x.epoch).1 = 2) :
    ∃ t, exec (.nodeWaitTimeout id) s = .next t ∧ t.elemState x.ctx x.handle x.elem x.epoch = (1, 2) ∧
      (∀ y ∈ t.fly.nodes, sameElem x y = true → y.origin.isSome = true ∨ y.drain = true) ∧
      t.fly.ops = ((s.liftNode x).settle x (x.origin.map fun o => ⟨10, 0x0B02, 0, 0, o.2⟩)).fly.ops := by
  obtain ⟨os, hos⟩ := settle_eq (s.liftNode x) x (x.origin.map fun o => ⟨10, 0x0B02, 0, 0, o.2⟩)
  have hfail := failElem_here (s := (s.liftNode x).updFly fun f => { f with ops := os }) (x := x) (cause := 2) hn hs
  refine ⟨(((s.liftNode x).updFly fun f => { f with ops := os }).setElem x 1 2 1 false).dropElem x, ?_,
    setElem_elemState _ x 1 2 1 false, dropElem_drops _ x, by rw [hos]; rfl⟩
  rw [exec_nodeWaitTimeout]
  simp only [execNodeWaitTimeout, hx, hp, hw, ↓reduceIte, hos, hfail]

/-- Settles O43: each event by its function; a node's arrival by what it meets at its rick. -/
theorem treeNodesMove : Obligations.TreeNodesMove := by
  unfold Obligations.TreeNodesMove
  intro s id elem
  dsimp only
  refine ⟨fun x t hx ht he hl hop hs hlv hsib => ⟨?_, ?_⟩, ?_, fun x t c hx ht hp h64 hg => ⟨?_, ?_⟩,
    fun x t port d hx ht hp h256 hg => ⟨?_, ?_⟩, ?_⟩
  · intro c hp hno hroom
    exact ⟨_, rickNodeArrival_core hx ht he hl hop hs hlv hsib hp hno hroom, hold_nodes ..,
      fun k pc ho => hold_completes _ _ ho⟩
  · intro k y hp hox hoy hpy hone hly hiy hlv' hsib' hhome hroom
    refine ⟨_, rickNodeArrival_slice hx ht he hl hop hs hlv hsib hp hox hoy hpy hone hly hiy hlv' hsib', ?_⟩
    have hgoal : t.goal (parentNode t x y) = (x.level + 2, x.index / 2 / 2) := if_neg (Nat.ne_of_lt hlv')
    have hh : ((s.liftNode x).liftNode y).goalHome t (parentNode t x y) = none := by
      rw [State.goalHome, hgoal]
      exact hhome
    have hs' : ((s.liftNode x).liftNode y).goalSlice t (parentNode t x y) =
        s.nodeSlice x.handle x.elem (x.level + 2) (x.index / 2 / 2) := by
      rw [State.goalSlice, hgoal]
      rfl
    have hlen : (((s.liftNode x).liftNode y).rickNodes (.sliceRick k)).length < 4096 :=
      Nat.lt_of_le_of_lt (List.Sublist.length_le
        ((List.filter_sublist.trans List.filter_sublist).filter _)) hroom
    rw [restAt_slice_nodes hh hlen rfl rfl, hs']
    simp only [parentNode, hox]
    rfl
  · intro e t he ht hst hseq
    rw [exec_treeStampWrite]
    simp only [execTreeStampWrite, he, ht, hst, hseq, bne_self_eq_false, Bool.or_self, Bool.false_eq_true, ↓reduceIte] <;> rfl
  · intro hn
    have hb : s.behind t x = false := by simp [State.behind, hn]
    rw [exec_coreRickTimeout]
    simp only [execCoreRickTimeout, hx, hp, ht, h64, hb, and_self, ↓reduceIte, State.sendOn]
    have hg' : (s.liftNode x).goalHome t x = none := hg
    rw [hg']
    rfl
  · intro hn
    have hb : s.behind t x = true := by simp [State.behind, hn, hg]
    rw [exec_coreRickTimeout]
    simp only [execCoreRickTimeout, hx, hp, ht, hb, Bool.true_eq_false, and_false, ↓reduceIte]
  · intro hbit
    refine ⟨(s.liftNode x).refuseNode x, ?_, fun y hy => ?_, congrArg Fabric.out (refuseNode_leaves _ x).2⟩
    · have hg' : (s.liftNode x).goalHome t x = some d := hg
      rw [exec_portRickTimeout]
      simp only [execPortRickTimeout, hx, hp, ht, h256, ↓reduceIte, State.leavePort, hg', hbit, Bool.false_eq_true]
    · have hm : y.id ∈ (s.liftNode x).fly.nodes.map TreeNode.id := (refuseNode_leaves (s.liftNode x) x).1 ▸ List.mem_map_of_mem hy
      obtain ⟨z, hz, hzy⟩ := List.mem_map.mp hm
      exact hzy ▸ liftNode_lacks s x z hz
  · intro hbit
    have hg' : (s.liftNode x).goalHome t x = some d := hg
    obtain ⟨os, hos⟩ := settle_eq (s.liftNode x) x none
    refine ⟨((s.liftNode x).settle x none).ask x.ctx d.2 x.ctx d.1
      (.node x.handle x.elem (x.epoch % 256) x.leaves x.op x.level x.index x.value), ?_, ?_, ?_⟩
    · rw [exec_portRickTimeout]
      simp only [execPortRickTimeout, hx, hp, ht, h256, ↓reduceIte, State.leavePort, hg', hbit]
    · rw [hos]
      rfl
    · exact ⟨_, List.mem_append_right _ (List.mem_singleton_self _), rfl, rfl, rfl, rfl⟩
  · intro x k hx hp hw hn hs
    obtain ⟨t, ht, hst, hnodes, hops⟩ := nodeWaitTimeout_fails hx hp hw hn hs
    exact ⟨t, ht, hst, hnodes, fun j pc ho => by rw [ho] at hops; exact hops ▸ settle_completes _ ho _⟩

end Sys2Proof.Proofs
end

section
/-! PROOFS. Events of the dispatcher (R373 to R375, R378, R379, R381 to R384). -/

namespace Sys2Proof.Proofs

open Sys2Proof.Machine Sys2Proof.Safety Sys2Proof.Laws

theorem exec_queueTailNotify (c q : Nat) (s : State) : exec (.queueTailNotify c q) s = execQueueTailNotify c q s := rfl

theorem exec_queueTailPoll (c q : Nat) (s : State) : exec (.queueTailPoll c q) s = execQueueTailPoll c q s := rfl

theorem exec_launchRecordCopy (c q : Nat) (s : State) : exec (.launchRecordCopy c q) s = execLaunchRecordCopy c q s := rfl

theorem exec_teamPlace (l : Nat) (s : State) : exec (.teamPlace l) s = execTeamPlace l s := rfl

theorem exec_placementStarvation (l : Nat) (s : State) :
    exec (.placementStarvation l) s = execPlacementStarvation l s := rfl

theorem exec_rangePrefetch (l : Nat) (s : State) : exec (.rangePrefetch l) s = execRangePrefetch l s := rfl

theorem exec_launchComplete (l : Nat) (s : State) : exec (.launchComplete l) s = execLaunchComplete l s := rfl

theorem exec_deadRangeDiscard (l : Nat) (s : State) : exec (.deadRangeDiscard l) s = execDeadRangeDiscard l s := rfl

theorem exec_weightStoreLoad (l : Nat) (s : State) : exec (.weightStoreLoad l) s = execWeightStoreLoad l s := rfl

/-! Launches. -/

theorem launch_updLaunch_self {s : State} {l : Nat} (f : Launch → Launch) (h : l < s.launches.length) :
    (s.updLaunch l f).launch l = f (s.launch l) := by
  simp only [State.launch, State.updLaunch, getElem?_upd, ↓reduceIte, List.getElem?_eq_getElem h, Option.map_some, Option.getD_some]

theorem Posted.launches {s t : State} (h : Posted s t) : t.launches = s.launches := by
  obtain ⟨_, _, h⟩ := h
  exact h.launches

theorem writeStamp_posted (s : State) (c : Context) (va kind : Nat) (bs : List Byte) : Posted s (s.writeStamp c va kind bs) := by
  unfold State.writeStamp
  split
  · next h => exact (vwrite_kept h).posted
  · unfold State.fq12
    exact fqWrite_posted ..

theorem Posted.copyTurn {s t : State} (h : Posted s t) : t.copyTurn = s.copyTurn := by
  obtain ⟨_, _, h⟩ := h
  exact h.same State.copyTurn

theorem stamped_posted {s : State} {at_ : Nat} {c : Context} {bs : List Byte} (p : Prop) [Decidable p] :
    Posted s (if p then s else s.writeStamp c at_ 1 bs) := by
  split
  exacts [.refl s, writeStamp_posted ..]

theorem irq_posted {s : State} {vec : Nat} (p : Prop) [Decidable p] : Posted s (if p then s.sendMsi vec else s) := by
  split
  exacts [sendMsi_posted .., .refl s]

/-- A launch is stamped with records for the host, and has then finished. -/
theorem stampLaunch_eq (s : State) (l status : Nat) : ∃ t, Posted s t ∧
    s.stampLaunch l status = t.updLaunch l fun y => { y with finished := true, block := none } :=
  ⟨_, (stamped_posted _).trans (irq_posted _), rfl⟩

theorem fq12_posted (s : State) (c code a x : Nat) : Posted s (s.fq12 c code a x) := by
  unfold State.fq12
  exact fqWrite_posted ..

/-- A launch that is refused has finished; of launches and the turn no more changes. -/
theorem refuseLaunch_launches (s : State) (l cause : Nat) : (s.refuseLaunch l cause).copyTurn = s.copyTurn ∧
    (s.refuseLaunch l cause).launches =
    upd s.launches l fun y => { y with record := { y.record with ranges := [], trees := [] }, finished := true, block := none } := by
  obtain ⟨t, ht, hs⟩ := stampLaunch_eq
    (s.updLaunch l fun y => { y with record := { y.record with ranges := [], trees := [] } }) l 1
  have hr : s.refuseLaunch l cause = ((s.updLaunch l fun y => { y with record := { y.record with ranges := [], trees := [] }
    }).stampLaunch l 1).fq12 (s.launch l).ctx 4 0 cause := rfl
  have hp := fq12_posted ((s.updLaunch l fun y => { y with record := { y.record with ranges := [], trees := [] }
    }).stampLaunch l 1) (s.launch l).ctx 4 0 cause
  rw [← hr] at hp
  rw [hs] at hp
  refine ⟨hp.copyTurn.trans ht.copyTurn, hp.launches.trans ?_⟩
  rw [State.updLaunch, ht.launches]
  exact upd_upd ..

/-! Queues. -/

/-- A queue whose tail can be read, and is in order, takes it (R374). -/
theorem readTail_takes {s : State} {c q : Nat} {bs : List Byte} (he : (s.queue c q).enabled = true)
    (hr : s.vread (s.ctx c) (s.queue c q).tailAt.toNat 8 = .ok bs) (hlo : (s.queue c q).head ≤ bytesVal bs)
    (hhi : bytesVal bs ≤ (s.queue c q).head + 2 ^ (s.queue c q).log2n) :
    s.readTail c q = s.updQueue c q fun y => { y with tail := bytesVal bs } := by
  have hn : ¬ (bytesVal bs < (s.queue c q).head ∨ (s.queue c q).head + 2 ^ (s.queue c q).log2n < bytesVal bs) := by omega
  unfold State.readTail
  simp only [he, hr, hn, ↓reduceIte]

/-- Where memory and the translations are the same, a range consists of the same pieces, and reads the same. -/
theorem SameBytes.pieces {s t : State} (h : SameBytes s t) (ht : t.sto.tlb = s.sto.tlb) (c : Context) (need fuel va n : Nat) :
    t.pieces c need fuel va n = s.pieces c need fuel va n := by
  induction fuel generalizing va n with
  | zero => rfl
  | succ k ih => simp only [State.pieces, h.xlate ht, ih]

theorem SameBytes.vread {s t : State} (h : SameBytes s t) (ht : t.sto.tlb = s.sto.tlb) (c : Context) (va n : Nat) :
    t.vread c va n = s.vread c va n := by
  simp only [State.vread, h.pieces ht, h.memBad, h.memBytes]

/-- Whether a write through the page table succeeds depends on the pieces alone. -/
theorem SameBytes.vwrite {s t u : State} (h : SameBytes s t) (ht : t.sto.tlb = s.sto.tlb) {c : Context} {va : Nat} {bs : List Byte}
    (hw : s.vwrite c va bs = some u) : ∃ v, t.vwrite c va bs = some v := by
  unfold State.vwrite at hw ⊢
  rw [h.pieces ht]
  split at hw
  · exact nomatch hw
  · exact ⟨_, rfl⟩

/-- The machine with a launch of a record that has been copied. -/
def withRecord (s : State) (c q i : Nat) (bs : List Byte) : State :=
  { s with launches := s.launches ++ [{ ctx := c, queue := q, index := i, record := launchRecOf bs, since := s.wall }] }

/-- The record that has been copied is the last launch; if it has not finished, the record is as it was read (R378). -/
theorem copied_launches (s : State) (c q i : Nat) (bs : List Byte) :
    (s.copied c q i bs).launches.length = s.launches.length + 1 ∧ (s.copied c q i bs).copyTurn = s.copyTurn ∧
      ∃ y, (s.copied c q i bs).launches[s.launches.length]? = some y ∧ y.ctx = c ∧ y.queue = q ∧ y.index = i ∧
        (y.finished = false → y.record = launchRecOf bs) := by
  obtain ⟨cause, hc⟩ : ∃ cause, s.copied c q i bs = if cause = 0 then withRecord s c q i bs
    else (withRecord s c q i bs).refuseLaunch s.launches.length cause := ⟨_, rfl⟩
  rw [hc]
  split
  · exact ⟨List.length_append, rfl, _, List.getElem?_concat_length, rfl, rfl, rfl, fun _ => rfl⟩
  · obtain ⟨hturn, hl⟩ := refuseLaunch_launches (withRecord s c q i bs) s.launches.length cause
    refine ⟨?_, hturn, ?_⟩
    · rw [hl, length_upd]
      exact List.length_append
    · rw [hl]
      refine ⟨_, (getElem?_upd ..).trans ((if_pos rfl).trans (congrArg _ List.getElem?_concat_length)), rfl, rfl, rfl, ?_⟩
      exact fun h => nomatch h

/-- The next record of the queue whose turn it is: HEAD follows in memory, and the launch is the last (R375). -/
theorem launchRecordCopy_copies {s t : State} {c q : Nat} {bs : List Byte} (hn : s.copyNext = some (64 * c + q))
    (hf : (s.launches.filter fun x => !x.finished).length < 512)
    (hr : s.vread (s.ctx c) ((s.queue c q).ring.toNat + 512 * ((s.queue c q).head % 2 ^ (s.queue c q).log2n)) 512 = .ok bs)
    (hw : s.vwrite (s.ctx c) (s.queue c q).headAt.toNat (valBytes 8 ((s.queue c q).head + 1)) = some t) :
    ∃ z : State, z.copyTurn = (64 * c + q + 1) % 4096 ∧ z.launches = t.launches ∧
      exec (.launchRecordCopy c q) s = .next (z.copied c q (s.queue c q).head bs) := by
  have hb : SameBytes s { s with copyTurn := (64 * c + q + 1) % 4096 } := ⟨rfl, rfl, rfl, rfl, rfl, rfl, rfl⟩
  obtain ⟨u, hu⟩ := hb.vwrite rfl hw
  have hk := vwrite_kept hu
  refine ⟨u.updQueue c q fun y => { y with head := (s.queue c q).head + 1 }, hk.same State.copyTurn,
    hk.launches.trans (vwrite_kept hw).launches.symm, ?_⟩
  rw [exec_launchRecordCopy]
  unfold execLaunchRecordCopy
  have hr' := (hb.vread rfl (s.ctx c) ((s.queue c q).ring.toNat + 512 * ((s.queue c q).head % 2 ^ (s.queue c q).log2n)) 512).trans hr
  simp only [hn, State.inFlight, hf, and_self, ↓reduceIte]
  have hctx : State.ctx { s with copyTurn := (64 * c + q + 1) % 4096 } c = s.ctx c := rfl
  simp only [hctx, hr', hu]

/-! Placement. -/

/-- The largest number of a list is one of them. -/
theorem exists_max {α : Type} (f : α → Nat) {l : List α} (h : l ≠ []) : ∃ y ∈ l, f y = (l.map f).foldl max 0 := by
  obtain ⟨m, hm⟩ := Option.ne_none_iff_exists'.mp (mt List.max?_eq_none_iff.mp (mt List.map_eq_nil_iff.mp h) : (l.map f).max? ≠ none)
  obtain ⟨y, hy, hym⟩ := List.mem_map.mp (List.max?_mem hm)
  refine ⟨y, hy, ?_⟩
  rw [List.foldl_max, hm, hym]
  exact (Nat.zero_max m).symm

/-- A team that has waited 1 ms keeps a cluster that it may use (R384). -/
theorem placementStarvation_keeps {s : State} {l : Nat} (hb : (s.launch l).block = none) (hw : s.waitsForRoom l = true)
    (hs : (s.launch l).since + 1000000 * wallNs ≤ s.wall) (hl : l < s.launches.length)
    (ho : ∃ cl < 24, s.clusterOpen l cl = true) :
    ∃ t, exec (.placementStarvation l) s = .next t ∧ ∃ cl, (t.launch l).block = some cl ∧ s.clusterOpen l cl = true := by
  obtain ⟨c0, hc0, hopen0⟩ := ho
  have hne : ((List.range 24).filter (s.clusterOpen l)).map (fun cl => (cl, s.nearness (s.launch l).record cl)) ≠ [] := by
    intro h
    exact List.not_mem_nil (List.map_eq_nil_iff.mp h ▸ List.mem_filter.mpr ⟨List.mem_range.mpr hc0, hopen0⟩)
  obtain ⟨y, hy, hmax⟩ := exists_max Prod.snd hne
  rw [exec_placementStarvation]
  unfold execPlacementStarvation
  simp only [hb, hw, hs, Option.isNone_none, decide_true, Bool.and_self, ↓reduceIte]
  generalize hnear : ((List.range 24).filter (s.clusterOpen l)).map (fun cl => (cl, s.nearness (s.launch l).record cl)) = near at hy hmax
  have hcl : ∀ cl ∈ (near.filter fun y => y.2 == (near.map Prod.snd).foldl max 0).map Prod.fst, s.clusterOpen l cl = true := by
    intro cl hcl
    obtain ⟨z, hz, rfl⟩ := List.mem_map.mp hcl
    obtain ⟨c, hc, rfl⟩ := List.mem_map.mp (hnear ▸ (List.mem_filter.mp hz).1)
    exact (List.mem_filter.mp hc).2
  have hmem : y.1 ∈ (near.filter fun y => y.2 == (near.map Prod.snd).foldl max 0).map Prod.fst :=
    List.mem_map_of_mem (List.mem_filter.mpr ⟨hy, by rw [hmax, beq_self_eq_true]⟩)
  generalize (near.filter fun y => y.2 == (near.map Prod.snd).foldl max 0).map Prod.fst = cls at hcl hmem
  split
  · exact nomatch hmem
  · have hlt : s.pick 0 cls.length < cls.length := Nat.mod_lt _ (List.length_pos_of_mem hmem)
    refine ⟨_, rfl, cls[s.pick 0 cls.length], ?_, hcl _ (List.getElem_mem hlt)⟩
    rw [launch_updLaunch_self _ hl]
    exact List.getElem?_eq_getElem hlt

/-! Dead ranges and weight-store loads. -/

/-- The bytes of the words that memory held before, at the addresses of a range. -/
theorem pastBytes_spec {past : List (Nat × Word × Nat)} {inside : Nat × Word × Nat → Nat → Bool} {x : Nat × Byte}
    (h : x ∈ past.flatMap fun y => (List.range 4).filterMap fun i =>
      if inside y i then some (4 * y.1 + i, (valBytes 4 y.2.1.toNat)[i]?.getD 0) else none) :
    ∃ y ∈ past, x.1 / 4 = y.1 ∧ (valBytes 4 y.2.1.toNat)[x.1 % 4]? = some x.2 := by
  obtain ⟨y, hy, hx⟩ := List.mem_flatMap.mp h
  obtain ⟨i, hi, hx⟩ := List.mem_filterMap.mp hx
  have hi : i < 4 := List.mem_range.mp hi
  split at hx
  · obtain rfl := Option.some.inj hx
    have hdiv : (4 * y.1 + i) / 4 = y.1 := by omega
    have hmod : (4 * y.1 + i) % 4 = i := by omega
    have hlen : i < (valBytes 4 y.2.1.toNat).length := by rwa [valBytes_length]
    refine ⟨y, hy, hdiv, ?_⟩
    dsimp only
    rw [hmod, List.getElem?_eq_getElem hlen, Option.getD_some]
  · exact nomatch hx

/-- A choice among a value and others that is not the value is one of the others. -/
theorem chosen_mem {c d : Byte} {vs : List Byte} {k : Nat} (hk : k < vs.length + 1) (h : ((c :: vs)[k]?).getD d ≠ c) :
    ((c :: vs)[k]?).getD d ∈ vs := by
  cases k with
  | zero => exact absurd rfl h
  | succ k =>
    have hk' : k < vs.length := Nat.lt_of_succ_lt_succ hk
    rw [List.getElem?_cons_succ, List.getElem?_eq_getElem hk']
    exact List.getElem_mem hk'

/-- The same, of the values that a list has for an address. -/
theorem chosen_at {olds : List (Nat × Byte)} {a k : Nat} {c d : Byte}
    (hk : k < ((olds.filter fun x => x.1 == a).map Prod.snd).eraseDups.length + 1)
    (h : ((c :: ((olds.filter fun x => x.1 == a).map Prod.snd).eraseDups)[k]?).getD d ≠ c) :
    (a, ((c :: ((olds.filter fun x => x.1 == a).map Prod.snd).eraseDups)[k]?).getD d) ∈ olds := by
  have hv := chosen_mem hk h
  rw [List.mem_eraseDups] at hv
  obtain ⟨x, hx, hxv⟩ := List.mem_map.mp hv
  obtain ⟨hx, hxa⟩ := List.mem_filter.mp hx
  rw [← hxv, ← beq_iff_eq.mp hxa]
  exact hx

/-- A byte of a dead range may read as one that its word held before (R379). -/
theorem deadBytes_past (s : State) (c : Context) (r : Range) : ∀ p ∈ s.deadBytes c r,
    ∃ y ∈ s.sto.past, p.1 / 4 = y.1 ∧ (valBytes 4 y.2.1.toNat)[p.1 % 4]? = some p.2 := by
  intro p hp
  unfold State.deadBytes at hp
  split at hp
  · obtain ⟨a, -, ha⟩ := List.mem_filterMap.mp hp
    dsimp only at ha
    split at ha
    · exact nomatch ha
    · next hne =>
      obtain rfl := Option.some.inj ha
      have hm := chosen_at (Nat.mod_lt _ (Nat.succ_pos _)) hne
      exact pastBytes_spec hm
  · exact nomatch hp

theorem deadRangeDiscard_discards {s : State} {l : Nat} (hf : (s.launch l).finished = true)
    (hd : (s.launch l).record.ranges.any Range.dead = true) (hl : l < s.launches.length) :
    ∃ t, exec (.deadRangeDiscard l) s = .next t ∧ (t.launch l).record.ranges.any Range.dead = false ∧
      t.sto.mem = s.sto.mem ∧ ∀ p ∈ t.sto.dead, p ∈ s.sto.dead ∨
        ∃ y ∈ s.sto.past, p.1 / 4 = y.1 ∧ (valBytes 4 y.2.1.toNat)[p.1 % 4]? = some p.2 := by
  refine ⟨_, (exec_deadRangeDiscard l s).trans (if_pos (by rw [hf, hd]; rfl)), ?_, rfl, fun p hp => ?_⟩
  · refine (congrArg (fun y : Launch => y.record.ranges.any Range.dead)
      (launch_updLaunch_self (s := s.updSto _) (l := l) _ hl)).trans ?_
    simp [List.any_eq_false]
  · obtain hp | hp := List.mem_append.mp hp
    · exact .inl hp
    · obtain ⟨l, hl, hpl⟩ := List.mem_flatten.mp hp
      obtain ⟨r, -, rfl⟩ := List.mem_map.mp hl
      exact .inr (deadBytes_past s _ r p hpl)

/-- Where nothing was written since a load began, it brings its source as it stands. -/
theorem loadRaced_quiet {s : State} {l : Nat} {bs : List Byte} (hb : s.loadBytes l = some bs)
    (hp : ∀ y ∈ s.sto.past, y.2.2 < (s.launch l).began) : s.loadRaced l = some bs := by
  have ho : (s.sto.past.filter fun y => decide ((s.launch l).began ≤ y.2.2)) = [] :=
    List.filter_eq_nil_iff.mpr fun y hy => by simpa using hp y hy
  simp only [State.loadRaced, hb, ho, Option.map_some, ↓reduceIte]

/-- A load lands on each of its dies. -/
theorem loadDies_eq (s : State) (l : Nat) (bs : List Byte) (ds : List Nat) :
    ds.foldl (fun t d => t.loadDie l d (some bs)) s = ds.foldl (fun t d =>
      t.writeWs d ((((s.ctx (s.launch l).ctx).wsreg[d]?).getD (0, 0)).1 + (s.launch l).record.wsDst) bs) s := by
  have h : ∀ (ds : List Nat) (t : State), t.launches = s.launches → t.ctxs = s.ctxs →
      ds.foldl (fun t d => t.loadDie l d (some bs)) t = ds.foldl (fun t d =>
        t.writeWs d ((((s.ctx (s.launch l).ctx).wsreg[d]?).getD (0, 0)).1 + (s.launch l).record.wsDst) bs) t := by
    intro ds
    induction ds with
    | nil => exact fun _ _ _ => rfl
    | cons d r ih =>
      intro t hl hc
      have hd : t.loadDie l d (some bs) =
          t.writeWs d ((((s.ctx (s.launch l).ctx).wsreg[d]?).getD (0, 0)).1 + (s.launch l).record.wsDst) bs := by
        simp only [State.loadDie, State.launch, State.ctx, hl, hc]
      rw [List.foldl_cons, List.foldl_cons, hd]
      exact ih _ hl hc
  exact h ds s rfl rfl

/-- Settles O45: each event by its function, in the branch that its hypotheses name. -/
theorem launchesRunThroughTheDispatcher : Obligations.LaunchesRunThroughTheDispatcher := by
  unfold Obligations.LaunchesRunThroughTheDispatcher
  intro s c q l
  dsimp only
  refine ⟨fun bs he hr hlo hhi => ⟨?_, ?_⟩, ?_, fun z hn hz => ⟨?_, ?_, ?_⟩, ?_, ?_, ?_, ?_, fun hk hf he ho => ⟨?_, ?_, ?_⟩⟩
  · intro hw
    rw [exec_queueTailNotify, execQueueTailNotify, if_pos hw, readTail_takes he hr hlo hhi]
  · intro hw
    rw [exec_queueTailPoll, execQueueTailPoll, hw, readTail_takes he hr hlo hhi]
    rfl
  · intro bs t hn hf hr hw
    obtain ⟨z, hturn, hl, hz⟩ := launchRecordCopy_copies hn hf hr hw
    obtain ⟨hlen, hct, y, hy, hrest⟩ := copied_launches z c q (s.queue c q).head bs
    exact ⟨_, hz, hct.trans hturn, hl ▸ hlen, y, hl ▸ hy, hrest⟩
  · intro hb
    rw [exec_teamPlace]
    simp only [execTeamPlace, hn, hz, hb, ↓reduceIte]
  · intro t hb ht
    rw [exec_teamPlace]
    simp only [execTeamPlace, hn, hz, hb, ht, Bool.false_eq_true, ↓reduceIte, State.beginLaunch]
  · intro hb ht
    rw [exec_teamPlace]
    simp only [execTeamPlace, hn, hz, hb, ht, Bool.false_eq_true, ↓reduceIte]
  · exact fun hb hw hs hl ho => placementStarvation_keeps hb hw hs hl ho
  · intro hall hafter hf hb
    rw [exec_rangePrefetch]
    refine if_pos ?_
    have hplaced : ((s.launches.take l).all fun (y : Launch) => (y.finished || decide (y.record.teams ≤ y.teams.length)) ||
        y.ctx != (s.launch l).ctx || !(s.launch l).after y) = true :=
      List.all_eq_true.mpr fun y hy => by simpa [or_assoc] using hall y hy
    have hnamed : (!(s.launch l).record.afterEn || s.launches.any fun (y : Launch) => y.ctx == (s.launch l).ctx &&
        y.queue == (s.launch l).record.afterQ && y.index == (s.launch l).record.afterIdx &&
        (y.finished || decide (y.record.teams ≤ y.teams.length))) = true := by
      obtain ha | ⟨y, hy, hc, hq, hi, hy'⟩ := hafter
      · rw [ha]
        rfl
      · rw [List.any_eq_true.mpr ⟨y, hy, by simpa [hc, hq, hi] using hy'⟩, Bool.or_true]
    rw [hplaced, hnamed, hf, decide_eq_true hb]
    rfl
  · intro hf hl hr hb
    rw [exec_launchComplete]
    exact if_pos (by simp [hf, hl, hr, hb])
  · exact fun hf hd hl => deadRangeDiscard_discards hf hd hl
  · intro hb
    rw [exec_weightStoreLoad]
    simp only [execWeightStoreLoad, hk, hf, he, ho, hb, beq_self_eq_true, Bool.not_false, Bool.and_self, ↓reduceIte,
      State.beginLaunch]
  · intro bs hb hbs hp
    rw [exec_weightStoreLoad]
    simp only [execWeightStoreLoad, hk, hf, he, ho, hb, beq_self_eq_true, Bool.not_false, Bool.not_true, Bool.and_self,
      Bool.false_eq_true, ↓reduceIte, loadRaced_quiet hbs hp, loadDies_eq, Option.isSome_some]
  · intro hb hbs
    have hn : s.loadRaced l = none := by simp only [State.loadRaced, hbs, Option.map_none]
    rw [exec_weightStoreLoad]
    simp only [execWeightStoreLoad, hk, hf, he, ho, hb, beq_self_eq_true, Bool.not_false, Bool.not_true, Bool.and_self,
      Bool.false_eq_true, ↓reduceIte, hn, Option.isSome_none]

end Sys2Proof.Proofs
end

section
/-! PROOFS. A pre-emption whose trace record spoils the save routine's entry (R403, R444). -/

namespace Sys2Proof.Proofs

open Sys2Proof.Machine Sys2Proof.Safety Sys2Proof.Laws

/-- A debug descriptor whose open trace page is the clause at 0x40000000. -/
def tracingOver : Debug :=
  { ring := 0x40000000, pages := 16, ptrs := 0x60100000, itrace := true, dtrace := false, sample := false, regbrk := false,
    slog2 := 0, scope := 0, vec := 0, irq := false, regids := [], watch := [], open_ := true, units := [0] }

/-- A machine whose only thread has a pre-emption trap to take, into a save routine that its unit's trace is written over. -/
def overwriting : State :=
  let s := (State.reset.fetchState 0x11000000).updThr 0 fun x => { x with preempt := 1 }
  { s with
    agenda := []
    saveEntry := some 0x40000000
    ctxs := s.ctxs.map fun c => { c with debug := some tracingOver }
    launches := s.launches.map fun l => { l with began := 1000 }
    units := [{ core := 0, dp := 0, group := 0, lanes := [(0, 0)], hdr := 0x40000010, idx := 1, issued := 1 }] }

/-- Whether an outcome is a next state with a property of its units. -/
def nextUnits (o : Out) (p : List IssueUnit → Bool) : Bool :=
  match o with
  | .next t => p t.units
  | _ => false

theorem nextUnits_of {o : Out} {p : List IssueUnit → Bool} {t : State} (h : nextUnits o p = true) (ht : o = .next t) :
    p t.units = true := by
  subst ht
  exact h

/-- No unit is left with the thread: its entry was bad once the trace had been written. -/
theorem overwriting_falls : nextUnits (exec (.preemptionTrap 0) overwriting)
    (fun us => !us.any fun u => u.live && u.lanes.contains (0, 0)) = true := by decide +kernel

/-- Refutes O46: the trap first writes its record of the clause that it ends into the context's open trace page. Where that page
lies over the save routine's entry, the entry is one no longer, and the thread has a double fault in place of the save routine. -/
theorem not_preemptionEntersTheSaveRoutine : ¬ Obligations.PreemptionEntersTheSaveRoutine := by
  unfold Obligations.PreemptionEntersTheSaveRoutine
  intro h
  obtain ⟨-, -, htrap, -⟩ := h overwriting 0 0 0 0 0
  obtain ⟨t, ht, -, -, -, u, hu, hlive, hlane, -⟩ := htrap 0 0 (by decide +kernel) (by decide +kernel) (by decide +kernel)
    (by decide +kernel) (by decide +kernel) (by decide +kernel) (by decide +kernel) (by decide +kernel) (by decide +kernel)
    (by decide +kernel) (by decide +kernel)
  have hany : (t.units.any fun u => u.live && u.lanes.contains (0, 0)) = true :=
    List.any_eq_true.mpr ⟨u, hu, by rw [hlive, List.contains_iff_mem.mpr hlane]; rfl⟩
  have hnone := nextUnits_of overwriting_falls ht
  rw [hany] at hnone
  exact nomatch hnone

end Sys2Proof.Proofs
end

section
/-! PROOFS. The fabric (R421 to R429, R432, R478). -/

namespace Sys2Proof.Proofs

open Sys2Proof.Machine Sys2Proof.Safety Sys2Proof.Laws

theorem exec_remoteRequestIngress (q : RemoteReq) (s : State) :
    exec (.remoteRequestIngress q) s = execRemoteRequestIngress q s := rfl

theorem exec_remoteAckArrival (a : RemoteAck) (s : State) : exec (.remoteAckArrival a) s = execRemoteAckArrival a s := rfl

theorem exec_remoteRetransmit (id : Nat) (s : State) : exec (.remoteRetransmit id) s = execRemoteRetransmit id s := rfl

theorem exec_remoteGiveUp (id : Nat) (s : State) : exec (.remoteGiveUp id) s = execRemoteGiveUp id s := rfl

theorem exec_fabricLinkUp (s : State) : exec .fabricLinkUp s = execFabricLinkUp s := rfl

theorem exec_rotorDwell (s : State) : exec .rotorDwell s = execRotorDwell s := rfl

theorem exec_relayStage (f : Flit) (s : State) : exec (.relayStage f) s = execRelayStage f s := rfl

theorem exec_relayDiscard (n : Nat) (s : State) : exec (.relayDiscard n) s = execRelayDiscard n s := rfl

theorem exec_ingressBlockEnd (n : Nat) (s : State) : exec (.ingressBlockEnd n) s = execIngressBlockEnd n s := rfl

theorem exec_flitCrcRetry (n : Nat) (s : State) : exec (.flitCrcRetry n) s = execFlitCrcRetry n s := rfl

theorem exec_wavelengthReplace (n w : Nat) (s : State) :
    exec (.wavelengthReplace n w) s = execWavelengthReplace n w s := rfl

theorem dropsFrom_false {s : State} {dev : Nat} (h : ∀ b ∈ s.fabric.blocked, b.1 ≠ dev) : s.dropsFrom dev = false := by
  simp only [State.dropsFrom, List.any_eq_false, beq_iff_eq]
  exact h

/-! What the target holds of a source (R427, R428). -/

theorem sourceOf_names (s : State) (q : RemoteReq) : (s.sourceOf q).dev = q.dev ∧ (s.sourceOf q).ctx = q.sctx := by
  unfold State.sourceOf
  dsimp only
  split
  · exact ⟨rfl, rfl⟩
  · next x hx =>
    split
    · exact ⟨rfl, rfl⟩
    · simpa using List.find?_some hx

/-- A source that starts afresh changes the record of sources alone. -/
theorem afresh_eq (s : State) (q : RemoteReq) : ∃ ss, s.afresh q = s.updFabric fun f => { f with sources := ss } := by
  unfold State.afresh
  split
  · exact ⟨_, rfl⟩
  · exact ⟨s.fabric.sources, rfl⟩

/-- A number that has been performed is on record. -/
theorem record_has (x : SourceRec) (seq : Nat) (v : Dword) (h : x.high < seq + 4096) :
    seq ≤ (x.record seq v).high ∧ seq ∈ (x.record seq v).done := by
  refine ⟨Nat.le_max_right _ _, List.mem_filter.mpr ⟨List.mem_append_right _ (List.mem_singleton_self seq), ?_⟩⟩
  rw [decide_eq_true_eq]
  exact Nat.max_lt.mpr ⟨h, Nat.lt_add_of_pos_right (by decide)⟩

/-! Requests of other devices (R425, R427, R432). -/

/-- Whether a request is admitted does not depend on what is held of its source. -/
theorem admit_sources (s : State) (ss : List SourceRec) (c token : Nat) (o : RemoteOp) (x : Context) :
    (s.updFabric fun f => { f with sources := ss }).macOk c token = s.macOk c token ∧
      (s.updFabric fun f => { f with sources := ss }).admitBase x token o = s.admitBase x token o := by
  have hb : SameBytes s (s.updFabric fun f => { f with sources := ss }) := ⟨rfl, rfl, rfl, rfl, rfl, rfl, rfl⟩
  have hw : ∀ i, (s.updFabric fun f => { f with sources := ss }).grantWindow x i = s.grantWindow x i := fun i => by
    simp only [State.grantWindow, hb.vread rfl]
  have ht : (s.updFabric fun f => { f with sources := ss }).tms = s.tms := rfl
  refine ⟨?_, by simp only [State.admitBase, hw, ht]⟩
  have hm : ∀ g low, (s.updFabric fun f => { f with sources := ss }).tokenMac c g low = s.tokenMac c g low := fun _ _ => rfl
  have hbar : (s.updFabric fun f => { f with sources := ss }).bar0 = s.bar0 := rfl
  simp only [State.macOk, hm, hbar]

/-- A request that is admitted is performed and answered; one that is sequenced is recorded once it has been performed. -/
theorem serve_admitted {s t : State} {q : RemoteReq} {x : SourceRec} {base : Nat} {k : AckKind} (hc : s.hasCtx q.tctx = true)
    (hm : s.macOk q.tctx q.token.toNat = true) (ha : s.admitBase (s.ctx q.tctx) q.token.toNat q.op = some base)
    (hp : s.performRemote (s.ctx q.tctx) q.dev q.sctx base q.token q.op = (t, k)) :
    s.serve q x = (match k with
      | .done v => if sequenced q.op then t.putSource (x.record q.seq v) else t
      | _ => t).reply q k := by
  unfold State.serve
  simp only [hm, hc, ha, hp, Bool.not_true, Bool.false_eq_true, ↓reduceIte] <;> rfl

/-- A sequenced request of the target's incarnation, of a source that is as recorded, and not a stale one. -/
structure InOrder (s : State) (q : RemoteReq) : Prop where
  on : s.fabricOn = true
  open_ : ∀ b ∈ s.fabric.blocked, b.1 ≠ q.dev
  seq : sequenced q.op = true
  tinc : q.tinc = s.fabric.incarnation
  sinc : (s.sourceOf q).inc = q.sinc
  new : (s.sourceOf q).high < q.seq + 4096

/-- What becomes of it: a repeated one is answered from the record, a new one is served. -/
theorem ingress_inOrder {s : State} {q : RemoteReq} (h : InOrder s q) : exec (.remoteRequestIngress q) s = .next
    (if q.seq ∈ (s.sourceOf q).done then s.reply q (.done ((look (s.sourceOf q).olds q.seq).getD 0))
    else (s.afresh q).serve q (s.sourceOf q)) := by
  have hold : ¬ ((s.sourceOf q).inc ≠ q.sinc ∨ q.seq + 4096 ≤ (s.sourceOf q).high) :=
    not_or.mpr ⟨not_not.mpr h.sinc, Nat.not_le.mpr h.new⟩
  rw [exec_remoteRequestIngress]
  simp only [execRemoteRequestIngress, h.on, dropsFrom_false h.open_, h.seq, h.tinc, hold, Bool.not_true, Bool.or_self,
    Bool.false_eq_true, ↓reduceIte, ne_eq, not_true_eq_false, SourceRec.has, List.contains_iff_mem]
  split <;> rfl

/-- A new request that is admitted is performed, answered, and recorded where it has been performed. -/
theorem ingress_performs {s t : State} {q : RemoteReq} {base : Nat} {k : AckKind} (h : InOrder s q)
    (hd : q.seq ∉ (s.sourceOf q).done) (hc : s.hasCtx q.tctx = true) (hm : s.macOk q.tctx q.token.toNat = true)
    (ha : s.admitBase (s.ctx q.tctx) q.token.toNat q.op = some base)
    (hp : (s.afresh q).performRemote (s.ctx q.tctx) q.dev q.sctx base q.token q.op = (t, k)) :
    exec (.remoteRequestIngress q) s = .next ((match k with
      | .done v => t.putSource ((s.sourceOf q).record q.seq v)
      | _ => t).reply q k) := by
  obtain ⟨ss, hss⟩ := afresh_eq s q
  obtain ⟨hmac, hadm⟩ := admit_sources s ss q.tctx q.token.toNat q.op (s.ctx q.tctx)
  have hserve : (s.afresh q).serve q (s.sourceOf q) = (match k with
      | .done v => if sequenced q.op then t.putSource ((s.sourceOf q).record q.seq v) else t
      | _ => t).reply q k := by
    rw [hss] at hp ⊢
    exact serve_admitted hc (hmac.trans hm) (hadm.trans ha) hp
  rw [ingress_inOrder h, if_neg hd, hserve]
  cases k <;> simp only [h.seq, ↓reduceIte]

/-! This device's requests (R427, R429). -/

/-- A request that is sent again takes another way, where there is one. -/
theorem wayFor_another {s : State} {dev : Nat} {way : Nat × Nat} (h : ∃ z ∈ s.ways dev true, z ≠ way) :
    s.wayFor dev (some way) ≠ way ∧ s.wayFor dev (some way) ∈ s.ways dev true := by
  obtain ⟨z, hz, hne⟩ := h
  have hmem : z ∈ (s.ways dev true).filter fun w => some way != some w :=
    List.mem_filter.mpr ⟨hz, by simpa using Ne.symm hne⟩
  have hlt : s.pick (2 ^ 41) ((s.ways dev true).filter fun w => some way != some w).length <
      ((s.ways dev true).filter fun w => some way != some w).length := Nat.mod_lt _ (List.length_pos_of_mem hmem)
  have hin : s.wayFor dev (some way) ∈ (s.ways dev true).filter fun w => some way != some w := by
    unfold State.wayFor
    dsimp only [Option.isSome_some]
    rw [List.getElem?_eq_getElem hlt]
    exact List.getElem_mem hlt
  obtain ⟨hw, hn⟩ := List.mem_filter.mp hin
  exact ⟨fun he => by simp [he] at hn, hw⟩

/-! Rotors and relays (R422, R423, R478). -/

theorem mem_mapFrom {α β : Type} {f : Nat → α → β} {k : Nat} {l : List α} {y : β} :
    y ∈ mapFrom f k l ↔ ∃ i x, l[i]? = some x ∧ y = f (k + i) x := by
  rw [List.mem_iff_getElem?]
  simp only [getElem?_mapFrom, Option.map_eq_some_iff]
  constructor
  · rintro ⟨i, x, hx, rfl⟩
    exact ⟨i, x, hx, rfl⟩
  · rintro ⟨i, x, hx, rfl⟩
    exact ⟨i, x, hx, rfl⟩

/-- The flits that stay where each of a list may leave. -/
theorem mem_stay {α : Type} {leaves : Nat → α → Bool} {l : List α} {y : α} :
    y ∈ ((mapFrom (fun i x => (x, leaves i x)) 0 l).filter fun x => !x.2).map Prod.fst ↔
      ∃ i, l[i]? = some y ∧ leaves i y = false := by
  simp only [List.mem_map, List.mem_filter, mem_mapFrom, Nat.zero_add]
  constructor
  · rintro ⟨_, ⟨⟨i, x, hx, rfl⟩, hl⟩, rfl⟩
    exact ⟨i, hx, by simpa using hl⟩
  · rintro ⟨i, hi, hl⟩
    exact ⟨(y, leaves i y), ⟨⟨i, y, hi, rfl⟩, by simp [hl]⟩, rfl⟩

/-- A staged flit that another meets, and what both become. -/
theorem relayPair_some {s : State} {f : Flit} {r : Nat × Flit} (h : s.relayPair f = some r) :
    ∃ y q, s.fabric.staged[r.1]? = some y ∧ pairRequests y.2.req f.req = some q ∧ r.2 = { y.2 with req := q } := by
  obtain ⟨i, -, hi⟩ := List.exists_of_findSome?_eq_some h
  obtain ⟨x, hx, hq⟩ := Option.bind_eq_some_iff.mp hi
  obtain ⟨p, hp, rfl⟩ := Option.map_eq_some_iff.mp hq
  exact ⟨x, p, hx, hp, rfl⟩

theorem relayPair_none {s : State} {f : Flit} (h : ∀ y ∈ s.fabric.staged, y.2.dst = f.dst → pairRequests y.2.req f.req = none) :
    s.relayPair f = none := by
  refine List.findSome?_eq_none_iff.mpr fun i hi => ?_
  obtain ⟨j, x, hj, hx, hd⟩ := mem_allPosFrom.mp (List.mem_filter.mp hi).1
  obtain rfl : i = j := by omega
  rw [hx, Option.bind_some, h x (List.mem_of_getElem? hx) (by simpa using hd), Option.map_none]

theorem foldl_dedup_mem (x : Nat) (l acc : List Nat) (h : x ∈ acc ∨ x ∈ l) :
    x ∈ l.foldl (fun acc x => if acc.contains x then acc else acc ++ [x]) acc := by
  induction l generalizing acc with
  | nil => exact h.resolve_right (List.not_mem_nil)
  | cons y r ih =>
    refine ih _ ?_
    dsimp only
    by_cases hy : acc.contains y = true
    · rw [if_pos hy]
      obtain h | h := h
      · exact .inl h
      · obtain rfl | h := List.mem_cons.mp h
        · exact .inl (List.contains_iff_mem.mp hy)
        · exact .inr h
    · rw [if_neg hy]
      obtain h | h := h
      · exact .inl (List.mem_append_left _ h)
      · obtain rfl | h := List.mem_cons.mp h
        · exact .inl (List.mem_append_right _ (List.mem_singleton_self _))
        · exact .inr h

theorem mem_dedup_of_mem {x : Nat} {l : List Nat} (h : x ∈ l) : x ∈ dedup l := foldl_dedup_mem x l [] (.inr h)

/-- A device that shares a row with one end and a column with the other relays between them (R423). -/
theorem firstHops_contains {src dst pod : Nat} (hr : src / 64 ≠ dst / 64) (hc : src % 64 ≠ dst % 64)
    (h : pod = src / 64 * 64 + dst % 64 ∨ pod = dst / 64 * 64 + src % 64) : (firstHops src dst true).contains pod = true := by
  unfold firstHops
  rw [if_neg (not_or.mpr ⟨hr, hc⟩)]
  obtain rfl | rfl := h <;> simp

/-- Settles O50: each event by its function; a request's by the branch of R427 and R432 that it meets. -/
theorem fabricServesRequests : Obligations.FabricServesRequests := by
  unfold Obligations.FabricServesRequests
  intro s q ack f id n
  dsimp only
  refine ⟨fun hon hblk => ⟨?_, ?_, ?_, ?_⟩, ?_, fun o ho hheld => ⟨?_, ?_, ?_⟩, fun hf hpod => ⟨?_, ?_⟩, ?_, ?_, ?_, ?_, ?_, ?_⟩
  · intro hseq hinc
    rw [exec_remoteRequestIngress]
    simp only [execRemoteRequestIngress, hon, dropsFrom_false hblk, hseq, hinc, Bool.not_true, Bool.or_self, Bool.false_eq_true,
      ↓reduceIte, ne_eq, not_false_eq_true]
    rfl
  · intro hseq htinc hsinc hnew hdone
    rw [ingress_inOrder ⟨hon, hblk, hseq, htinc, hsinc, hnew⟩, if_pos hdone]
    rfl
  · intro base t k hseq htinc hsinc hnew hdone hc hm ha hp
    refine ⟨_, ingress_performs ⟨hon, hblk, hseq, htinc, hsinc, hnew⟩ hdone hc hm ha hp, ?_,
      ⟨_, List.mem_append_right _ (List.mem_singleton_self _), rfl, rfl⟩, ?_, ?_⟩
    · cases k <;> rfl
    · rintro v rfl
      obtain ⟨hdev, hctx⟩ := sourceOf_names s q
      obtain ⟨hhigh, hmem⟩ := record_has (s.sourceOf q) q.seq v hnew
      exact ⟨_, List.mem_append_right _ (List.mem_singleton_self _), hdev, hctx, hhigh, hmem⟩
    · intro hk
      cases k with
      | done v => exact absurd rfl (hk v)
      | _ => rfl
  · intro base t k hseq hc hm ha hp
    rw [exec_remoteRequestIngress]
    simp only [execRemoteRequestIngress, hon, dropsFrom_false hblk, hseq, Bool.not_true, Bool.not_false, Bool.or_self,
      Bool.false_eq_true, ↓reduceIte, serve_admitted hc hm ha hp]
    cases k <;> rfl
  · intro o ho hheld hblk
    rw [exec_remoteAckArrival]
    simp only [execRemoteAckArrival, ho, hheld, dropsFrom_false hblk, Bool.or_self, Bool.false_eq_true, ↓reduceIte]
    cases ack.kind <;> rfl
  · intro hw
    rw [exec_remoteRetransmit]
    simp only [execRemoteRetransmit, ho, hheld, hw, Bool.not_false, decide_true, Bool.and_self, ↓reduceIte]
    rfl
  · rintro w - rfl - hz
    exact wayFor_another hz
  · intro hw
    rw [exec_remoteGiveUp]
    simp only [execRemoteGiveUp, ho, hheld, hw, Bool.not_false, decide_true, Bool.and_self, ↓reduceIte]
  · intro hup
    have hp : s.bar0.podnum.isSome = true := Option.isSome_iff_ne_none.mpr hpod
    have hs : (s.updBar0 fun b => { b with fabricUp := true }) = s := by
      rw [State.updBar0, ← hup]
    rw [exec_fabricLinkUp]
    simp only [execFabricLinkUp, hf, hp, hup, hs, Bool.and_self, ↓reduceIte]
  · intro hup
    have hp : s.bar0.podnum.isSome = true := Option.isSome_iff_ne_none.mpr hpod
    rw [exec_fabricLinkUp]
    simp only [execFabricLinkUp, hf, hp, hup, Bool.and_self, ↓reduceIte, Bool.false_eq_true]
    rfl
  · intro hd
    have hd' : (s.fabric.dwell + 1) * dwellLen ≤ s.wall := by rwa [dwellLen, ← Nat.mul_assoc]
    rw [exec_rotorDwell]
    refine ⟨_, if_pos hd', rfl, fun y hy => ?_, fun y hy hstay => ?_⟩
    · obtain ⟨i, hi, -⟩ := mem_stay.mp hy
      exact List.mem_of_getElem? hi
    · obtain ⟨i, hi⟩ := List.mem_iff_getElem?.mp hy
      refine mem_stay.mpr ⟨i, hi, ?_⟩
      obtain h | h := hstay
      · rw [h]
        rfl
      · rw [decide_eq_false (Nat.not_lt.mpr h), Bool.and_false, Bool.false_and]
  · intro hon hdst hsrc hblk hpod hr hc hroom
    have hg : (s.fabricOn && !s.dropsFrom f.src && f.dst != s.pod && f.src != s.pod &&
        (firstHops f.src f.dst true).contains s.pod && decide (s.fabric.staged.length < stageRoom)) = true := by
      rw [hon, dropsFrom_false hblk, firstHops_contains hr hc hpod, decide_eq_true (show _ < stageRoom from hroom)]
      simp [hdst, hsrc]
    rw [exec_relayStage, execRelayStage, if_pos hg]
    constructor
    · intro hno
      rw [relayPair_none hno]
      rfl
    · cases hp : s.relayPair f with
      | none => exact ⟨_, rfl, .inl rfl⟩
      | some r =>
        obtain ⟨y, q, hy, hq, hr⟩ := relayPair_some hp
        exact ⟨_, rfl, .inr ⟨r.1, y, q, hy, hq, hr ▸ rfl⟩⟩
  · intro y hy hw
    rw [exec_relayDiscard]
    simp only [execRelayDiscard, hy, hw, ↓reduceIte]
    rfl
  · refine ⟨_, exec_ingressBlockEnd n s, fun y hy => (List.mem_filter.mp hy).1, fun y hy hn => ?_⟩
    have h := (List.mem_filter.mp hy).2
    simpa [hn] using h
  · intro hon hn
    rw [exec_flitCrcRetry]
    exact ⟨_, if_pos (by rw [hon, decide_eq_true hn]; rfl), rfl, rfl⟩
  · intro w hw hn hnew
    have hg : (decide (n < 128) && decide (w < 68) && !s.health.waves.contains (n, w)) = true := by
      simp [hn, hw, hnew]
    rw [exec_wavelengthReplace, execWavelengthReplace, if_pos hg]
    refine ⟨_, rfl, ?_, fun h48 => ?_, fun h48 => ?_⟩
    · split <;> rfl
    · have hlt : State.wavesOf { s with health := { s.health with waves := s.health.waves ++ [(n, w)] } } n < 48 :=
        Nat.lt_of_le_of_lt (Nat.min_le_right _ _) h48
      rw [if_pos hlt]
      exact mem_dedup_of_mem (List.mem_append_right _ (List.mem_singleton_self _))
    · have hle : ¬ State.wavesOf { s with health := { s.health with waves := s.health.waves ++ [(n, w)] } } n < 48 :=
        Nat.not_lt.mpr (Nat.le_min.mpr ⟨by decide, h48⟩)
      rw [if_neg hle]

end Sys2Proof.Proofs
end

section
/-! PROOFS. What comes about by the clocks (R228, R229, R451, R479, R487, R489). -/

namespace Sys2Proof.Proofs

open Sys2Proof.Machine Sys2Proof.Safety Sys2Proof.Laws

theorem exec_wsRefreshSlot (d : Nat) (s : State) : exec (.wsRefreshSlot d) s = execWsRefreshSlot d s := rfl

theorem exec_wsRefreshBusyEnd (d : Nat) (s : State) : exec (.wsRefreshBusyEnd d) s = execWsRefreshBusyEnd d s := rfl

theorem exec_wsEmergencyRefresh (d : Nat) (s : State) : exec (.wsEmergencyRefresh d) s = execWsEmergencyRefresh d s := rfl

theorem exec_wsFrameKindChange (d : Nat) (s : State) : exec (.wsFrameKindChange d) s = execWsFrameKindChange d s := rfl

theorem exec_clockRestore (s : State) : exec .clockRestore s = execClockRestore s := rfl

theorem exec_energyTick (s : State) : exec .energyTick s = execEnergyTick s := rfl

theorem exec_healthBlockUpdate (s : State) : exec .healthBlockUpdate s = execHealthBlockUpdate s := rfl

theorem exec_powerBlockUpdate (s : State) : exec .powerBlockUpdate s = execPowerBlockUpdate s := rfl

/-- A change of a die shows there. -/
theorem die_updDie {s : State} {d : Nat} (h : d < s.dies.length) (f : Die → Die) : (s.updDie d f).die d = f (s.die d) := by
  simp only [State.die, State.updDie, getElem?_upd, ↓reduceIte, List.getElem?_eq_getElem h, Option.map_some, Option.getD_some]

theorem length_updDie (s : State) (d : Nat) (f : Die → Die) : (s.updDie d f).dies.length = s.dies.length := length_upd ..

/-- No team is placed on a die where none of those there is placed or being saved. -/
theorem teamOnDie_false {s : State} {d : Nat} (h : ∀ t ∈ s.teams, t.cluster / 6 = d → t.life ≠ .placed ∧ t.life ≠ .saving) :
    s.teamOnDie d = false := by
  refine List.any_eq_false.mpr fun t ht hd => ?_
  obtain ⟨hlife, hdie⟩ := Bool.and_eq_true_iff.mp hd
  obtain ⟨hp, hs⟩ := h t ht (beq_iff_eq.mp hdie)
  simp [hp, hs] at hlife

/-! A write of device memory while no dump is taken. -/

/-- No dump is being taken. -/
def NoDump (s : State) : Prop := ∀ c ∈ s.ctxs, c.dump = none

theorem NoDump.ctx {s : State} (h : NoDump s) (k : Nat) : (s.ctx k).dump = none := by
  unfold State.ctx
  cases hf : s.ctxs.find? fun c => c.num == k with
  | none => rfl
  | some c => exact h c (List.mem_of_find?_eq_some hf)

/-- Without a dump there is no granule to copy. -/
theorem NoDump.dumpCopy {s : State} (h : NoDump s) (g : Nat) : s.dumpCopy g = s := by
  have hfuel : ∀ fuel, s.dumpCopies fuel g = s := fun fuel => by
    cases fuel with
    | zero => rfl
    | succ n =>
      unfold State.dumpCopies
      refine List.foldlRecOn (motive := fun t : State => t = s) _ _ rfl fun t ht c _ => ?_
      rw [ht, h.ctx]
  exact hfuel _

/-- The memories once bytes of device memory have been written, and what is kept beside them. -/
def writtenSto (m : Storage) (pa : Nat) (bs : List Byte) : Storage :=
  { m with
    mem := writeCells m.mem pa bs,
    held := m.held.filter (fun x => !(blocksOf 128 pa bs.length).contains x.2),
    badMem := m.badMem.filter (fun k => !(wholeBlocks 32 pa bs.length).contains k),
    lost := m.lost.filter (fun x => !(wholeBlocks 128 pa bs.length).contains x.1),
    dead := m.dead.filter (fun x => decide (x.1 < pa) || decide (pa + bs.length ≤ x.1)),
    past := pastWith m.past m.writes (replaced m.mem pa bs),
    writes := m.writes + 1 }

/-- A write then changes the bytes written and what is kept beside them. -/
theorem NoDump.writePhys {s : State} (h : NoDump s) (pa : Nat) (bs : List Byte) :
    ∃ sto fly slices, s.writePhys pa bs = { s with sto := sto, fly := fly, slices := slices } ∧
      (pa + bs.length ≤ s.capacity → sto = writtenSto s.sto pa bs) := by
  have hnum : ∀ (l : List Nat) (s : State), ∃ fly slices, l.foldl State.number s = { s with fly := fly, slices := slices } := by
    intro l
    induction l with
    | nil => exact fun s => ⟨s.fly, s.slices, rfl⟩
    | cons g r ih =>
      intro s
      obtain ⟨fly, slices, hn⟩ : ∃ fly slices, s.number g = { s with fly := fly, slices := slices } := by
        unfold State.number
        split
        exacts [⟨_, _, rfl⟩, ⟨s.fly, s.slices, rfl⟩]
      obtain ⟨fly', slices', ht⟩ := ih (s.number g)
      exact ⟨fly', slices', by rw [List.foldl_cons, ht, hn]⟩
  have hdump : ∀ l : List Nat, l.foldl State.dumpCopy s = s := fun l =>
    List.foldlRecOn (motive := fun t : State => t = s) _ _ rfl fun t ht g _ => by rw [ht, h.dumpCopy]
  unfold State.writePhys
  split
  next hout => exact ⟨s.sto, s.fly, s.slices, rfl, fun hc => absurd hout (Nat.not_lt.mpr hc)⟩
  · dsimp only
    rw [hdump]
    obtain ⟨fly, slices, ht⟩ := hnum (blocksOf 128 pa bs.length) _
    exact ⟨_, fly, slices, ht, fun _ => rfl⟩

/-- Two writes, one after the other. -/
theorem NoDump.writeTwice {s : State} (h : NoDump s) (pa : Nat) (as : List Byte) (pb : Nat) (bs : List Byte) :
    ∃ sto fly slices, (s.writePhys pa as).writePhys pb bs = { s with sto := sto, fly := fly, slices := slices } ∧
      (pa + as.length ≤ s.capacity → pb + bs.length ≤ s.capacity →
        sto.mem = writeCells (writeCells s.sto.mem pa as) pb bs) := by
  obtain ⟨sto, fly, slices, hw, hm⟩ := h.writePhys pa as
  have h1 : NoDump { s with sto := sto, fly := fly, slices := slices } := h
  obtain ⟨sto', fly', slices', hw', hm'⟩ := h1.writePhys pb bs
  refine ⟨sto', fly', slices', by rw [hw, hw'], fun ha hb => ?_⟩
  rw [hm' hb, hm ha]
  rfl

/-- A block whose count is written last: eight bytes of it in front of the rest. -/
structure BlockWritten (mem mem' : List Host.Cell) (base gen : Nat) (body : List Byte) : Prop where
  count : ∀ i < 8, cellGet mem' (base + i) = ((valBytes 8 gen)[i]?).getD 0
  rest : ∀ i < body.length, cellGet mem' (base + 8 + i) = (body[i]?).getD 0
  frame : ∀ a, a < base ∨ base + 8 + body.length ≤ a → cellGet mem' a = cellGet mem a

theorem blockWritten {mem : List Host.Cell} (h : cellsWf mem = true) (base gen : Nat) (body : List Byte) :
    BlockWritten mem (writeCells (writeCells mem (base + 8) body) base (valBytes 8 gen)) base gen body := by
  have hlen : (valBytes 8 gen).length = 8 := valBytes_length 8 gen
  refine ⟨fun i hi => ?_, fun i hi => ?_, fun a ha => ?_⟩
  · rw [← hlen] at hi
    rw [cellGet_writeCells_same (writeCells_wf h _ _) _ _ hi, List.getElem?_eq_getElem hi, Option.getD_some]
  · rw [cellGet_writeCells_other _ _ _ (by omega), cellGet_writeCells_same h _ _ hi, List.getElem?_eq_getElem hi, Option.getD_some]
  · rw [cellGet_writeCells_other _ _ _ (by omega), cellGet_writeCells_other _ _ _ (by omega)]

theorem powerBytes_length (s : State) : s.powerBytes.length = 4088 := by
  simp only [State.powerBytes, zeros, List.length_append, valBytes_length, List.length_replicate]

/-- The state whose next health block is written. -/
def countHealth (s : State) : State := s.updHealth fun h => { h with gen := h.gen + 1, genAt := s.wall, stale := false }

theorem healthBlockUpdate_eq {s : State} (hb : s.bar0.booted = true) : exec .healthBlockUpdate s =
    .next (((countHealth s).writePhys 8 (s.healthBytes ++ zeros 2788)).writePhys 0 (valBytes 8 (s.health.gen + 1))) := by
  have hgen : (countHealth s).health.gen = s.health.gen + 1 := rfl
  rw [← hgen]
  exact (exec_healthBlockUpdate s).trans (if_pos hb)

/-- HEALTH_BLOCK_UPDATE writes its block, where that is of its size. -/
theorem healthBlockUpdate_written {s : State} (hb : s.bar0.booted = true) (hd : NoDump s) (hc : 8192 ≤ s.capacity)
    (hi : MemoryInv s) :
    ∃ t, exec .healthBlockUpdate s = .next t ∧ t.health.gen = s.health.gen + 1 ∧
      (s.healthBytes.length = 1300 →
        BlockWritten s.sto.mem t.sto.mem 0 (s.health.gen + 1) (s.healthBytes ++ zeros 2788)) := by
  have hd1 : NoDump (countHealth s) := hd
  obtain ⟨sto, fly, slices, hw, hm⟩ := hd1.writeTwice 8 (s.healthBytes ++ zeros 2788) 0 (valBytes 8 (s.health.gen + 1))
  refine ⟨_, healthBlockUpdate_eq hb, ?_, fun hlen => ?_⟩
  · rw [hw]
    rfl
  · have hsize : (s.healthBytes ++ zeros 2788).length = 4088 := by
      rw [List.length_append, hlen, zeros, List.length_replicate]
    have hmem := (congrArg (fun x : State => x.sto.mem) hw).trans
      (hm (by rw [hsize]; exact Nat.le_trans (by decide) hc) (by rw [valBytes_length]; exact Nat.le_trans (by decide) hc))
    have hblock := blockWritten (wf_parts hi).1 0 (s.health.gen + 1) (s.healthBytes ++ zeros 2788)
    rw [Nat.zero_add] at hblock
    rw [hmem]
    exact hblock

/-- POWER_BLOCK_UPDATE writes its block. -/
theorem powerBlockUpdate_written {s : State} (hb : s.bar0.booted = true) (hd : NoDump s) (hc : 8192 ≤ s.capacity)
    (hi : MemoryInv s) :
    ∃ t, exec .powerBlockUpdate s = .next t ∧ t.health.powerGen = s.health.powerGen + 1 ∧
      BlockWritten s.sto.mem t.sto.mem 4096 (s.health.powerGen + 1) s.powerBytes := by
  have hd1 : NoDump (s.updHealth fun h => { h with powerGen := h.powerGen + 1 }) := hd
  obtain ⟨sto, fly, slices, hw, hm⟩ := hd1.writeTwice 4104 s.powerBytes 4096 (valBytes 8 (s.health.powerGen + 1))
  refine ⟨_, (exec_powerBlockUpdate s).trans (if_pos hb), ?_, ?_⟩
  · exact congrArg (fun x : State => x.health.powerGen) hw
  · have hmem := (congrArg (fun x : State => x.sto.mem) hw).trans
      (hm (by rw [powerBytes_length]; exact hc) (by rw [valBytes_length]; exact Nat.le_trans (by decide) hc))
    exact hmem ▸ blockWritten (wf_parts hi).1 4096 _ _

/-- Settles O52: the dice, the clock and the charges as their events' definitions say; the blocks by their two writes. -/
theorem clockedEventsHaveTheirEffect : Obligations.ClockedEventsHaveTheirEffect := by
  unfold Obligations.ClockedEventsHaveTheirEffect
  intro s d reason hd
  refine ⟨fun hdue => ?_, fun hbusy hlen => ?_, ?_, fun hw hk => ?_, fun h hw hteams => ?_, rfl, fun hslow => ?_,
    fun htick => ?_, fun hb hnd hc hi => ⟨?_, ?_⟩⟩
  · refine ⟨_, (exec_wsRefreshSlot d s).trans (if_pos hdue), ?_⟩
    rw [die_updDie hd]
    exact ⟨rfl, rfl, rfl, rfl, rfl⟩
  · exact (exec_wsRefreshBusyEnd d s).trans (if_pos (Bool.and_eq_true_iff.mpr ⟨hbusy, decide_eq_true hlen⟩))
  · refine ⟨_, exec_wsEmergencyRefresh d s, rfl, ?_, fun n hn => ?_⟩
    · rw [die_updDie (by rw [State.countDie, length_updDie]; exact hd), State.countDie, die_updDie hd]
    · rw [die_updDie (by rw [State.countDie, length_updDie]; exact hd), State.countDie, die_updDie hd]
      simp only [getElem?_upd, ↓reduceIte, hn, Option.map_some, satAdd]
  · rw [exec_wsFrameKindChange, execWsFrameKindChange, hw]
    exact if_pos (Bool.or_eq_true_iff.mpr hk)
  · rw [exec_wsFrameKindChange, execWsFrameKindChange, hw]
    dsimp only
    rw [teamOnDie_false hteams]
    rfl
  · exact (exec_clockRestore s).trans (if_pos hslow)
  · exact (exec_energyTick s).trans (if_pos htick)
  · obtain ⟨t, ht, hgen, hblock⟩ := healthBlockUpdate_written hb hnd hc hi
    refine ⟨t, ht, hgen, fun hlen => ?_⟩
    obtain ⟨hcount, hrest, hframe⟩ := hblock hlen
    have hsize : (s.healthBytes ++ zeros 2788).length = 4088 := by
      rw [List.length_append, hlen, zeros, List.length_replicate]
    refine ⟨fun i hi => by simpa using hcount i hi, fun i hi => ?_, fun a ha => hframe a (.inr (hsize ▸ ha))⟩
    have hat := hrest i (by omega)
    rwa [Nat.zero_add, List.getElem?_append_left (by omega)] at hat
  · obtain ⟨t, ht, hgen, hcount, -, hframe⟩ := powerBlockUpdate_written hb hnd hc hi
    exact ⟨t, ht, hgen, hcount, fun a ha => hframe a (by rw [powerBytes_length]; exact ha)⟩

end Sys2Proof.Proofs
end

section
/-! PROOFS. Faults, repair and reset (R6, R428, R467, R469, R471, R472, R474, R477, R481, R488). -/

namespace Sys2Proof.Proofs

open Sys2Proof.Machine Sys2Proof.Safety Sys2Proof.Laws

theorem exec_coreFence (n : Nat) (s : State) : exec (.coreFence n) s = execCoreFence n s := rfl

theorem exec_sliceFence (n : Nat) (s : State) : exec (.sliceFence n) s = execSliceFence n s := rfl

theorem exec_channelRetireMark (n : Nat) (s : State) : exec (.channelRetireMark n) s = execChannelRetireMark n s := rfl

theorem exec_repairPoint (s : State) : exec .repairPoint s = execRepairPoint s := rfl

theorem exec_repairPreempt (s : State) : exec .repairPreempt s = execRepairPreempt s := rfl

theorem exec_deviceReset (s : State) : exec .deviceReset s = .next s.boot := rfl

theorem exec_powerLoss (s : State) : exec .powerLoss s = execPowerLoss s := rfl

theorem exec_thermalTrip (s : State) : exec .thermalTrip s = execThermalTrip s := rfl

/-! A repair point is wanted (R472). -/

/-- Wanting a repair point changes when the last one was asked for, and nothing else. -/
theorem wantRepair_eq (s : State) : ∃ r, r.isSome = true ∧ s.wantRepair = { s with health := { s.health with repair := r } } := by
  unfold State.wantRepair
  split
  next h => exact ⟨s.health.repair, h, rfl⟩
  · exact ⟨some s.wall, rfl, rfl⟩

/-! A fenced core (R467). -/

theorem wantRepair_sto (s : State) : s.wantRepair.sto = s.sto := by
  obtain ⟨r, -, hr⟩ := wantRepair_eq s
  rw [hr]

/-- No visitor line of a fenced core is left. -/
theorem fenceCore_visitors (s : State) (core : Nat) : ∀ v ∈ (s.fenceCore core).sto.visitors, v.core ≠ core := by
  unfold State.fenceCore
  dsimp only
  split
  · exact fun v hv => by simpa using (List.mem_filter.mp hv).2
  · rw [wantRepair_sto]
    exact fun v hv => by simpa using (List.mem_filter.mp hv).2

/-- Without a node there is nothing in a rick to lose. -/
theorem dropRick_none {s : State} (h : s.fly.nodes = []) (core : Nat) : s.dropRick core = s := by
  unfold State.dropRick
  simp only [State.updFly, h, List.filter_nil, List.foldl_nil]
  rw [← h]

/-- The state of a core just fenced, on which no team stood. -/
def coreOut (s : State) (core : Nat) : State :=
  { s with
    health := { s.health with
      fencedCores := s.health.fencedCores ++ [core], badCores := s.health.badCores ++ [s.coreSiteOf core], stale := true }
    sto := { s.sto with visitors := s.sto.visitors.filter fun v => v.core ≠ core } }

theorem fenceCore_idle {s : State} {core : Nat} (hteams : ∀ m ∈ s.teams, m.cores.contains core = false) (hn : s.fly.nodes = []) :
    s.fenceCore core = if (coreOut s core).spareCores (core / 6) = [] then coreOut s core else (coreOut s core).wantRepair := by
  have hnone : (s.teams.filter fun t => t.holds && t.cores.contains core) = [] :=
    List.filter_eq_nil_iff.mpr fun t ht h => by
      rw [hteams t ht, Bool.and_false] at h
      exact absurd h Bool.false_ne_true
  unfold State.fenceCore
  have hdrop := dropRick_none (s := s.updHealth fun h => { h with
    fencedCores := h.fencedCores ++ [core], badCores := h.badCores ++ [s.coreSiteOf core], stale := true }) hn core
  have hdedup : dedup [] = [] := rfl
  simp only [hnone, List.map_nil, hdedup, List.foldl_nil, hdrop]
  rfl

/-! Look-ups in a table that grows at its end. -/

theorem look_append {α : Type} (l l' : List (Nat × α)) (k : Nat) : look (l ++ l') k = (look l k).or (look l' k) := by
  induction l with
  | nil => rfl
  | cons x r ih =>
    rw [List.cons_append, look, look, ih]
    split <;> rfl

theorem look_map {α β : Type} (f : α → β) (l : List (Nat × α)) (k : Nat) :
    look (l.map fun x => (x.1, f x.2)) k = (look l k).map f := by
  induction l with
  | nil => rfl
  | cons x r ih =>
    rw [List.map_cons, look, look, ih]
    split <;> rfl

/-! A fenced slice (R471). -/

/-- The stand-ins once a slice is fenced. -/
theorem standIns_after (l : List (Nat × Nat)) (k st j : Nat) :
    look ((l.map fun x => if x.2 = k then (x.1, st) else x) ++ [(k, st)]) j =
      ((look l j).map fun y => if y = k then st else y).or (if k = j then some st else none) := by
  have hmap : (l.map fun x : Nat × Nat => if x.2 = k then (x.1, st) else x) = l.map fun x => (x.1, if x.2 = k then st else x.2) :=
    List.map_congr_left fun x _ => by split <;> rfl
  rw [hmap, look_append, look_map fun y => if y = k then st else y]
  rfl


/-- A slice's fence where it homes no newer line, holds no node of its own and serves no subscription. -/
structure SliceIdle (s : State) (slice : Nat) : Prop where
  lines : s.linesAt slice = []
  nodes : ∀ x ∈ s.fly.nodes, x.place ≠ .sliceRick slice
  subs : ∀ x ∈ s.fly.subs, s.homeOf x.line ≠ slice

theorem sliceFence_idle {s : State} {slice st : Nat} (hk : slice < 192) (hf : look s.health.fencedSlices slice = none)
    (hst : s.nextSlice slice = some st) (h : SliceIdle s slice) :
    exec (.sliceFence slice) s = .next (s.takeOver slice st).wantRepair := by
  have hnodes : (s.fly.nodes.filter fun x => x.place == .sliceRick slice) = [] :=
    List.filter_eq_nil_iff.mpr fun x hx hp => h.nodes x hx (beq_iff_eq.mp hp)
  have hsubs : (s.fly.subs.filter fun x => decide (x.line < 2 ^ 60) && s.homeOf x.line == slice) = [] :=
    List.filter_eq_nil_iff.mpr fun x hx hp => h.subs x hx (beq_iff_eq.mp (Bool.and_eq_true_iff.mp hp).2)
  have hdrop : (s.dropSub fun _ => false) = s := by
    simp only [State.dropSub, State.updFly, Bool.not_false, List.filter_true]
  rw [exec_sliceFence]
  simp only [execSliceFence, hst, hf, Nat.not_le.mpr hk, decide_false, Option.isSome_none, Bool.or_self, Bool.false_eq_true,
    ↓reduceIte, hnodes, hsubs, h.lines, List.filter_nil, List.foldl_nil, State.sendAll, List.any_nil, hdrop]

/-- The stand-ins once a slice's homes have been taken over. -/
theorem takeOver_standIn (s : State) (k st j : Nat) : (s.takeOver k st).standIn j =
    (((look s.health.fencedSlices j).map fun y => if y = k then st else y).or (if k = j then some st else none)).getD j :=
  congrArg (fun x => x.getD j) (standIns_after s.health.fencedSlices k st j)

/-! The teams that remain at a repair point (R472). -/

/-- A placed team is pre-empted where there is a save routine. -/
theorem preemptTeam_saving {s : State} {m code : Nat} (he : s.saveEntry.isSome = true)
    (hall : allPos (fun (t : Team) => t.life == .placed) s.teams = [m]) :
    ((s.preemptTeam m code).team m).life = .saving ∧ ((s.preemptTeam m code).team m).code = code := by
  obtain ⟨i, t, hi, ht, hl⟩ := mem_allPosFrom.mp (hall ▸ List.mem_singleton_self m : m ∈ allPos _ s.teams)
  obtain rfl : m = i := by omega
  have hteam : s.team m = t := by rw [State.team, ht]; rfl
  have hlife : (s.saveEntry.isSome && (s.team m).life == .placed) = true := by rw [he, hteam]; exact hl
  unfold State.preemptTeam
  rw [if_pos hlife]
  dsimp only
  simp only [State.team, State.updTeam, getElem?_upd, ht, ↓reduceIte, Option.map_some, Option.getD_some, and_self]

/-! Reset (R6, R428, R481). -/

/-- The machine as a reset leaves it: no context, no launch, the counters at 0 and the incarnation one higher. -/
structure Starts (s t : State) : Prop where
  clk : t.clk = 0
  wall : t.wall = 0
  ctxs : t.ctxs = []
  launches : t.launches = []
  teams : t.teams = []
  groups : t.groups = []
  threads : t.threads = []
  units : t.units = []
  folds : t.folds = []
  saveEntry : t.saveEntry = none
  committed : t.bar0.committed = false
  podnum : t.bar0.podnum = none
  incarnation : t.fabric.incarnation = (s.fabric.incarnation + 1) % 2 ^ 16
  rollback : s.fw.rollback ≤ t.fw.rollback

theorem sendMsi_fields (s : State) (vec : Nat) : ∃ m p, s.sendMsi vec = { s with msi := m, msixPending := p } := by
  unfold State.sendMsi
  dsimp only
  split
  exacts [⟨s.msi, _, rfl⟩, ⟨_, s.msixPending, rfl⟩]

/-- A boot starts the machine afresh. -/
theorem boot_starts (s : State) : Starts s s.boot := by
  unfold State.boot
  dsimp only
  cases s.fw.bootSlot with
  | none => exact ⟨rfl, rfl, rfl, rfl, rfl, rfl, rfl, rfl, rfl, rfl, rfl, rfl, rfl, Nat.le_refl _⟩
  | some k =>
    dsimp only
    obtain ⟨m, p, h⟩ := sendMsi_fields (State.updBar0 _ _) 0
    rw [h]
    exact ⟨rfl, rfl, rfl, rfl, rfl, rfl, rfl, rfl, rfl, rfl, rfl, rfl, rfl, Nat.le_max_left _ _⟩

/-- BOOTED shows whether a slot boots. -/
theorem boot_booted (s : State) : s.boot.bar0.booted = true ↔ s.fw.bootSlot ≠ none := by
  unfold State.boot
  dsimp only
  cases s.fw.bootSlot with
  | none => exact ⟨fun h => absurd h Bool.false_ne_true, fun h => absurd rfl h⟩
  | some k =>
    dsimp only
    obtain ⟨m, p, h⟩ := sendMsi_fields (State.updBar0 _ _) 0
    rw [h]
    exact ⟨fun _ => Option.some_ne_none k, fun _ => rfl⟩

/-- A boot writes the map of the next generation. -/
theorem boot_map {s : State} (h : s.fw.bootSlot ≠ none) :
    ∃ m, s.boot.fw.maps.head? = some (m, true) ∧ m.gen = s.fw.mapAt.gen + 1 := by
  obtain ⟨k, hk⟩ := Option.ne_none_iff_exists'.mp h
  refine ⟨s.newMap s.fw.mapAt, ?_, rfl⟩
  unfold State.boot
  rw [hk]
  dsimp only
  obtain ⟨m, p, hm⟩ := sendMsi_fields (State.updBar0 _ _) 0
  rw [hm]
  rfl

/-- The state that a power loss leaves to the boot. -/
theorem powerLoss_eq (s : State) :
    ∃ s1 : State, exec .powerLoss s = .next s1.boot ∧ s1.fabric = s.fabric ∧ s1.fw.rollback = s.fw.rollback :=
  ⟨_, exec_powerLoss s, rfl, rfl⟩

/-- Settles O51: each fault's or reset's event as its definition says. -/
theorem faultsAndResetsHaveTheirEffect : Obligations.FaultsAndResetsHaveTheirEffect := by
  unfold Obligations.FaultsAndResetsHaveTheirEffect
  intro s core slice chan starts
  have hstarts : ∀ {t}, Starts s t → starts t := fun h => ⟨h.clk, h.wall, h.ctxs, h.launches, h.teams, h.groups, h.threads,
    h.units, h.folds, h.saveEntry, h.committed, h.podnum, h.incarnation, h.rollback⟩
  refine ⟨fun hc hf => ?_, fun st hk hf hst hlines hnodes hsubs => ?_, fun hc hm hg => ?_, fun hd hr => ?_, fun hd hteams => ?_,
    fun w m hr hd hw he hall => ?_, ⟨_, exec_deviceReset s, hstarts (boot_starts s), boot_booted s, boot_map⟩, ?_, ?_⟩
  · have hexec : exec (.coreFence core) s = .next (s.fenceCore core) := by
      rw [exec_coreFence, execCoreFence, hf, decide_eq_false (Nat.not_le.mpr hc)]
      rfl
    refine ⟨⟨_, hexec, fenceCore_visitors s core⟩, fun hteams hn => ?_⟩
    rw [hexec, fenceCore_idle hteams hn]
    split
    next hs => exact ⟨_, rfl, rfl, rfl, rfl, rfl, rfl, fun hne => absurd hs hne⟩
    · obtain ⟨r, hr, hw⟩ := wantRepair_eq (coreOut s core)
      rw [hw]
      exact ⟨_, rfl, rfl, rfl, rfl, rfl, rfl, fun _ => hr⟩
  · refine ⟨_, sliceFence_idle hk hf hst ⟨hlines, hnodes, hsubs⟩, ?_⟩
    obtain ⟨r, hr, hw⟩ := wantRepair_eq (s.takeOver slice st)
    have hstand : ∀ j, (s.takeOver slice st).wantRepair.standIn j = (s.takeOver slice st).standIn j := fun j => by rw [hw]; rfl
    refine ⟨?_, by rw [hw]; exact hr, by rw [hw]; rfl, fun k hne hk => ?_⟩
    · rw [hstand, takeOver_standIn, hf, if_pos rfl]
      rfl
    · rw [hstand, takeOver_standIn, if_neg (Ne.symm hne), Option.or_none]
      unfold State.standIn at hk ⊢
      cases hl : look s.health.fencedSlices k with
      | none => rfl
      | some y =>
        rw [hl] at hk
        exact if_neg hk
  · have hgo : (decide (408 ≤ chan) || s.health.marked.contains chan || s.health.goneChannels.contains chan) = false := by
      simp [hc, hm, hg]
    rw [exec_channelRetireMark]
    simp only [execChannelRetireMark, hgo, Bool.false_eq_true, ↓reduceIte]
    refine ⟨_, rfl, ?_⟩
    split
    next h0 => exact ⟨rfl, fun hne => absurd h0 hne, rfl⟩
    · obtain ⟨r, hr, hw⟩ := wantRepair_eq (s.updHealth fun h => { h with marked := h.marked ++ [chan] })
      rw [hw]
      exact ⟨rfl, fun _ => hr, rfl⟩
  · rw [exec_repairPoint, execRepairPoint, hd, hr]
    rfl
  · have hfree : s.teams.any Team.holds = false := List.any_eq_false.mpr fun t ht h => by
      obtain ⟨hp, hs⟩ := hteams t ht
      simp [Team.holds, hp, hs] at h
    rw [exec_repairPoint, execRepairPoint, hd, hfree]
    exact ⟨_, rfl, rfl, rfl⟩
  · have hg : (s.health.draining && decide (w + 10000000 * wallNs ≤ s.wall)) = true := by
      rw [hd, decide_eq_true hw]; rfl
    rw [exec_repairPreempt, execRepairPreempt, hr]
    simp only [hg, he, hall, ↓reduceIte, List.foldl_cons, List.foldl_nil]
    exact ⟨_, rfl, preemptTeam_saving he hall⟩
  · obtain ⟨s1, hs1, hfab, hfw⟩ := powerLoss_eq s
    have hb := boot_starts s1
    exact ⟨_, hs1, hstarts { hb with incarnation := hfab ▸ hb.incarnation, rollback := hfw ▸ hb.rollback }⟩
  · refine ⟨_, exec_thermalTrip s, ?_⟩
    dsimp only
    rw [(sendMsi_fields _ 0).choose_spec.choose_spec]
    exact ⟨rfl, rfl, rfl, rfl⟩

end Sys2Proof.Proofs
end

section
/-! PROOFS. The frame of the words that only compute (R14, R42, R72, R73). -/

namespace Sys2Proof.Proofs

open Sys2Proof.Machine Sys2Proof.Safety Sys2Proof.Laws

/-! A thread that takes a fault leaves its program (R400, R401). -/

/-- A thread has ended, or has left its program. -/
def Away (s : State) (k : Nat) : Prop := (s.thr k).hmode ≠ 0 ∨ (s.thr k).life ≠ .live

/-- As many threads stand there, and those away stay away. -/
structure StayAway (s t : State) : Prop where
  length : t.threads.length = s.threads.length
  away : ∀ k, Away s k → Away t k

theorem StayAway.trans {s t u : State} (h : StayAway s t) (h' : StayAway t u) : StayAway s u :=
  ⟨h'.length.trans h.length, fun k hk => h'.away k (h.away k hk)⟩

theorem StayAway.of_threads {s t : State} (h : t.threads = s.threads) : StayAway s t :=
  ⟨by rw [h], fun k hk => by rwa [Away, State.thr, h]⟩

theorem StayAway.foldl {α : Type} {f : State → α → State} (h : ∀ s x, StayAway s (f s x)) (l : List α) (s : State) :
    StayAway s (l.foldl f s) := by
  induction l generalizing s with
  | nil => exact .of_threads rfl
  | cons x r ih => exact (h s x).trans (ih (f s x))

theorem Calm.stayAway {s t : State} (h : Calm s t) : StayAway s t := by
  refine ⟨h.threads_length, fun k hk => ?_⟩
  have hm : (t.thr k).hmode = (s.thr k).hmode := (congrArg Thread.hmode (h.thr k) :)
  rwa [Away, hm, h.life]

theorem withoutThread_stayAway (s : State) (k : Nat) : StayAway s (withoutThread s k) := by
  refine ⟨length_upd .., fun j hj => ?_⟩
  have hm : ((withoutThread s k).thr j).hmode = (s.thr j).hmode :=
    thr_updThr_part (part := Thread.hmode) (f := fun x => { x with life := .exited }) (fun _ => rfl) (s.leaveUnit k) k j
  rw [Away, hm, withoutThread_life]
  split
  · exact .inr fun h => nomatch h
  · exact hj

theorem endThread_stayAway (s : State) (k : Nat) : StayAway s (s.endThread k) := by
  obtain ⟨l, he⟩ := endThread_calm s k
  have hteam : StayAway (withoutThread s k) (withLife (withoutThread s k) (s.grp (s.thr k).group).team l) := .of_threads rfl
  exact (withoutThread_stayAway s k).trans (hteam.trans he.stayAway)

theorem haltThread_stayAway (s : State) (k : Nat) : StayAway s (s.haltThread k) := by
  unfold State.haltThread
  split
  · exact .of_threads rfl
  · have hc : Calm s (((((s.thr k).held.foldl (fun s h => s.lostError k h) s).updThr k fun x => { x with held := [] }).discardSuspended k)) :=
      discardSuspended_calm (updThr_calm (lostErrors_calm (.refl s) _ k) fun _ => rfl)
    exact hc.stayAway.trans (endThread_stayAway _ k)

theorem doubleFault_stayAway (s : State) (k : Nat) (x : FaultInfo) : StayAway s (s.doubleFault k x) := by
  have hc : ∀ info, Calm s (s.fqWrite (s.ctxOf k) info) := fun _ => fqWrite_calm (.refl s)
  have hb : ∀ t : State, Calm t (t.unbindGroup (s.thr k).group) := fun t => unbindGroup_calm (.refl t)
  exact (hc _).stayAway.trans ((hb _).stayAway.trans (.foldl haltThread_stayAway _ _))

/-- A double fault ends the thread whose it is. -/
theorem doubleFault_away {s : State} {k : Nat} (hk : k < s.threads.length) (x : FaultInfo) : Away (s.doubleFault k x) k := by
  have hc : ∀ info, Calm s (s.fqWrite (s.ctxOf k) info) := fun _ => fqWrite_calm (.refl s)
  refine .inr fun h => ?_
  have hexit := haltGroup_life (s := s.fqWrite (s.ctxOf k) { x with cls := 11, code := x.cls, aux := 0, resume := (s.thr k).resume })
    (g := (s.thr k).group) (k := k) ((hc _).threads_length ▸ hk) (congrArg Thread.group ((hc _).thr k) :)
  exact nomatch hexit.symm.trans h

theorem vector_stayAway (s : State) (p : Nat × Nat) (x : FaultInfo) (target : Dword) (ask : Option Nat) :
    StayAway s (s.vector [(p, x)] 1 target ask) := by
  refine ⟨vector_threads_length .., fun k hk => ?_⟩
  by_cases he : k = p.2
  · subst he
    by_cases hl : p.2 < s.threads.length
    · rw [Away, vector_thr _ _ _ _ _ _ hl]
      exact .inl Nat.one_ne_zero
    · have hgone : ∀ t : State, t.threads.length = s.threads.length → t.thr p.2 = .gone := fun t ht => by
        rw [State.thr, List.getElem?_eq_none (by omega), Option.getD_none]
      rwa [Away, hgone _ (vector_threads_length ..), ← hgone s rfl]
  · rwa [Away, vector_thr_other he]

/-- A thread that takes a fault is away. -/
theorem takeTrap_away {s : State} {p : Nat × Nat} (hp : p.2 < s.threads.length) (f : Trap) : Away (s.takeTrap p f) p.2 := by
  unfold State.takeTrap
  dsimp only
  split
  · split
    · exact doubleFault_away (s := s.updThr p.2 _) (Nat.lt_of_lt_of_eq hp (length_upd ..).symm) _
    · rw [Away, vector_thr _ _ _ _ _ _ hp]
      exact .inl Nat.one_ne_zero
  · exact doubleFault_away hp _

theorem updThr_stayAway {s : State} {k : Nat} {f : Thread → Thread} (h : ∀ x : Thread, (f x).hmode ≠ 0) : StayAway s (s.updThr k f) := by
  refine ⟨length_upd .., fun j hj => ?_⟩
  by_cases he : j = k
  · subst he
    by_cases hl : j < s.threads.length
    · rw [Away, thr_updThr_self hl]
      exact .inl (h _)
    · have hgone : ∀ t : State, t.threads.length = s.threads.length → t.thr j = .gone := fun t ht => by
        rw [State.thr, List.getElem?_eq_none (by omega), Option.getD_none]
      rwa [Away, hgone _ (length_upd ..), ← hgone s rfl]
  · rwa [Away, thr_updThr_other he]

theorem takeTrap_stayAway (s : State) (p : Nat × Nat) (f : Trap) : StayAway s (s.takeTrap p f) := by
  unfold State.takeTrap
  dsimp only
  split
  · split
    · exact (updThr_stayAway fun _ => Nat.one_ne_zero).trans ((doubleFault_stayAway _ p.2 _).trans (.of_threads rfl))
    · exact vector_stayAway ..
  · exact doubleFault_stayAway ..

theorem takeTraps_away {l : List ((Nat × Nat) × Trap)} {s : State} {x : (Nat × Nat) × Trap} (hx : x ∈ l)
    (hp : x.1.2 < s.threads.length) : Away (s.takeTraps l) x.1.2 := by
  induction l generalizing s with
  | nil => exact absurd hx List.not_mem_nil
  | cons y r ih =>
    rw [State.takeTraps, List.foldl_cons]
    obtain rfl | hr := List.mem_cons.mp hx
    · exact (StayAway.foldl (fun s (x : (Nat × Nat) × Trap) => takeTrap_stayAway s x.1 x.2) r _).away _ (takeTrap_away hp x.2)
    · exact ih hr ((takeTrap_stayAway s y.1 y.2).length ▸ hp)

/-- The threads that take a word's faults are away. -/
theorem takeAll_away {l : List ((Nat × Nat) × Trap)} {s : State} {x : (Nat × Nat) × Trap} (hx : x ∈ l)
    (hp : x.1.2 < s.threads.length) : Away (s.takeAll (fun s _ => s) l) x.1.2 := by
  have htell : ∀ (s : State) (y : (Nat × Nat) × Trap), StayAway s (s.tellTrap y.1.2 y.2) := fun s y => by
    unfold State.tellTrap
    split
    exacts [.of_threads rfl, .of_threads rfl]
  have hfold := StayAway.foldl htell l (if s.unit.lanes.all fun p => l.any fun x => x.1 == p then s.clauseTrace 3 s.unit.issued 0 else s)
  have hlen : (if s.unit.lanes.all fun p => l.any fun x => x.1 == p then s.clauseTrace 3 s.unit.issued 0 else s).threads = s.threads := by
    split
    exacts [(clauseTrace_traced ..).threads, rfl]
  exact takeTraps_away hx (by rw [hfold.length, hlen]; exact hp)

/-! A word of whose unit no thread has taken a fault. -/

/-- What the end of a word's issue leaves of a thread: its waiting time and the repeats under way. -/
def timeless (x : Thread) : Thread := { x with since := 0, waits := false, repcount := 0, resuming := false }

/-- Nothing but units, the charge, and the threads' waiting times and repeats. -/
structure Idle (s t : State) : Prop where
  rest : ∃ us ts cs, t = { s with units := us, threads := ts, ctxs := cs }
  length : t.threads.length = s.threads.length
  thr : ∀ k, timeless (t.thr k) = timeless (s.thr k)

theorem Idle.away {s t : State} (h : Idle s t) {k : Nat} (hk : Away s k) : Away t k := by
  have hm : (t.thr k).hmode = (s.thr k).hmode := (congrArg Thread.hmode (h.thr k) :)
  have hl : (t.thr k).life = (s.thr k).life := (congrArg Thread.life (h.thr k) :)
  rwa [Away, hm, hl]

theorem timeless_steady : Steady timeless := fun _ _ _ _ _ => rfl

theorem block_idle (s : State) (held : List Nat) : Idle s (s.block held) where
  rest := ⟨_, _, s.ctxs, rfl⟩
  length := length_mapFrom ..
  thr k := thr_each_part (part := timeless) (f := fun p x =>
    { x with since := if x.waits && !held.contains p.2 then s.clk else x.since, waits := held.contains p.2 }) (fun _ _ => rfl)
    (s.updUnit s.cur _) s.unit.lanes k

theorem pay_eq (s : State) (c k n : Nat) (ok : List (Nat × Nat)) : ∃ cs, s.pay c k n ok = { s with ctxs := cs } := by
  unfold State.pay
  split
  exacts [⟨_, rfl⟩, ⟨_, rfl⟩]

theorem advance_length (s : State) : s.advance.threads.length = s.threads.length := by
  unfold State.advance
  split
  · rw [nextWord_threads]
    rfl
  · split
    · rfl
    · rw [nextWord_threads]
      exact each_threads_length ..

/-- How a word without a fault goes on. -/
theorem passed_idle {s : State} (hu : Untraced s) (c k n : Nat) (ok : List (Nat × Nat)) :
    Idle s (s.pay c k n ok).issued.advance := by
  have hi : Untraced (s.pay c k n ok).issued := untraced_of_group (untraced_pay hu c k n ok)
    (issued_unit_part (part := IssueUnit.group) (fun _ _ => rfl) _) rfl rfl rfl fun _ => rfl
  obtain ⟨us, ts, h⟩ := advance_moved hi
  obtain ⟨cs, hp⟩ := pay_eq s c k n ok
  refine ⟨⟨us, ts, cs, by rw [h, hp]; rfl⟩, ?_, fun j => ?_⟩
  · rw [advance_length]
    exact (each_threads_length ..).trans (congrArg List.length (pay_threads ..))
  · rw [advance_thr_part timeless_steady, thr_issued_part (part := timeless) fun _ _ => rfl, State.thr, pay_threads]
    rfl

/-! Which threads a word's preparation speaks of. -/

theorem statusList_fst (s : State) (w : Work) (eb lead : Bool) (ps : List (Nat × Nat)) :
    (s.statusList w eb lead ps).map Prod.fst = ps := by
  induction ps generalizing lead with
  | nil => rfl
  | cons p r ih => exact congrArg (p :: ·) (ih _)

theorem statuses_fst (s : State) (w : Work) (eb : Bool) (ps : List (Nat × Nat)) : (s.statuses w eb ps).map Prod.fst = ps := by
  unfold State.statuses
  split
  · rw [List.map_map]
    exact List.map_id ps
  · exact statusList_fst ..

theorem mem_sortBy {α : Type} {key : α → Nat} {y : α} {l : List α} : y ∈ sortBy key l ↔ y ∈ l := by
  induction l with
  | nil => rfl
  | cons x r ih => rw [sortBy, mem_insertBy, ih, List.mem_cons]

/-- A status stands for a participant. -/
theorem status_lane {s : State} {w : Work} {x : (Nat × Nat) × List Status} (h : x ∈ s.statuses w s.emptyBit (s.parts w.guard)) :
    x.1 ∈ s.unit.lanes := by
  have hp : x.1 ∈ s.parts w.guard := statuses_fst s w s.emptyBit (s.parts w.guard) ▸ List.mem_map_of_mem h
  exact (List.mem_filter.mp hp).1

/-- The faults of operands are those of participants. -/
theorem operandTrap_lane {s : State} {w : Work} {y : (Nat × Nat) × Trap}
    (h : y ∈ (s.statuses w s.emptyBit (s.parts w.guard)).filterMap fun x => (firstTrap x.2).map fun f => (x.1, f)) :
    y.1 ∈ s.unit.lanes := by
  obtain ⟨x, hx, hy⟩ := List.mem_filterMap.mp h
  obtain ⟨f, -, rfl⟩ := Option.map_eq_some_iff.mp hy
  exact status_lane hx

/-- A word's preparation names threads of the unit: those that it lets go on, and those that take a fault. -/
theorem prep_lanes (s : State) (w : Work) : (∀ held traps, s.prep w = .stall held traps → ∀ x ∈ traps, x.1 ∈ s.unit.lanes) ∧
    ∀ ok traps, s.prep w = .go ok traps → (∀ p ∈ ok, p ∈ s.unit.lanes) ∧ ∀ x ∈ traps, x.1 ∈ s.unit.lanes := by
  unfold State.prep
  dsimp only
  split
  · refine ⟨fun _ _ h => (nomatch h), fun ok traps h => ?_⟩
    injection h with hok htraps
    subst hok htraps
    refine ⟨fun _ h => absurd h List.not_mem_nil, fun x hx => ?_⟩
    obtain ⟨p, hp, rfl⟩ := List.mem_map.mp hx
    exact hp
  · split
    · refine ⟨fun held traps h x hx => ?_, fun _ _ h => (nomatch h)⟩
      injection h with _ htraps
      subst htraps
      exact operandTrap_lane hx
    · refine ⟨fun _ _ h => (nomatch h), fun ok traps h => ?_⟩
      injection h with hok htraps
      subst hok htraps
      have hleft : ∀ {p}, p ∈ ((s.statuses w s.emptyBit (s.parts w.guard)).filter fun x =>
          ((firstTrap x.2).map fun f => (x.1, f)).isNone).map Prod.fst → p ∈ s.unit.lanes := fun hp => by
        obtain ⟨x, hx, rfl⟩ := List.mem_map.mp hp
        exact status_lane (List.mem_filter.mp hx).1
      refine ⟨fun p hp => hleft (List.mem_filter.mp hp).1, fun x hx => ?_⟩
      obtain hop | hown := List.mem_append.mp (mem_sortBy.mp hx)
      · exact operandTrap_lane hop
      · obtain ⟨p, hp, hy⟩ := List.mem_filterMap.mp hown
        obtain ⟨f, -, rfl⟩ := Option.map_eq_some_iff.mp hy
        exact hleft hp

/-- Every thread of the unit at issue goes on in its program, in the next state as in this one. -/
def StaysIn (s t : State) : Prop := ∀ p ∈ s.unit.lanes, (s.thr p.2).hmode = 0 ∧ (s.thr p.2).life = .live ∧ (t.thr p.2).hmode = 0 ∧
  (t.thr p.2).life = .live

theorem StaysIn.not_away {s t : State} (h : StaysIn s t) {p : Nat × Nat} (hp : p ∈ s.unit.lanes) : ¬ Away t p.2 := by
  obtain ⟨-, -, hm, hl⟩ := h p hp
  exact not_or.mpr ⟨not_not.mpr hm, not_not.mpr hl⟩

/-- A word with nothing of its own beside its checks and its effect. -/
structure Simple (w : Work) : Prop where
  note : w.note = fun s _ => s
  fin : w.fin = State.advance
  ends : w.ends = false

theorem issued_stayAway (s : State) : StayAway s s.issued := by
  refine ⟨each_threads_length .., fun k hk => ?_⟩
  have ht : timeless (s.issued.thr k) = timeless (s.thr k) := thr_issued_part (part := timeless) (fun _ _ => rfl) s k
  have hm : (s.issued.thr k).hmode = (s.thr k).hmode := (congrArg Thread.hmode ht :)
  have hl : (s.issued.thr k).life = (s.thr k).life := (congrArg Thread.life ht :)
  rwa [Away, hm, hl]

theorem advance_stayAway (s : State) : StayAway s s.advance := by
  refine ⟨advance_length s, fun k hk => ?_⟩
  have ht := advance_thr_part timeless_steady s k
  have hm : (s.advance.thr k).hmode = (s.thr k).hmode := (congrArg Thread.hmode ht :)
  have hl : (s.advance.thr k).life = (s.thr k).life := (congrArg Thread.life ht :)
  rwa [Away, hm, hl]

/-- A unit that takes no fault is as it was. -/
theorem takeAll_none {s : State} (hu : Untraced s) : s.takeAll (fun s _ => s) [] = s := by
  simp only [State.takeAll, clauseTrace_untraced hu, ite_self, List.foldl_nil, State.takeTraps]

/-- Where no thread of the unit takes a fault, a word waits, or has its effect and goes on. -/
theorem run_simple {s t : State} {w : Work} (hw : Simple w) (hs : UnitOk s) (hu : Untraced s) (hin : StaysIn s t)
    (hact : ∀ ok, (∀ p ∈ ok, p ∈ s.unit.lanes) → (w.act s ok).threads.length = s.threads.length ∧ Untraced (w.act s ok))
    (h : s.run w = .next t) :
    Idle s t ∨ ∃ ok, (∀ p ∈ ok, p ∈ s.unit.lanes) ∧ Idle (w.act s ok) t := by
  obtain ⟨hnote, hfin, hends⟩ := hw
  have hnone : ∀ {s1 : State} {traps : List ((Nat × Nat) × Trap)}, s1.threads.length = s.threads.length →
      (∀ x ∈ traps, x.1 ∈ s.unit.lanes) → StayAway (s1.takeAll (fun s _ => s) traps) t → traps = [] := by
    intro s1 traps hl hlanes ht
    refine List.eq_nil_iff_forall_not_mem.mpr fun x hx => hin.not_away (hlanes x hx) (ht.away _ (takeAll_away hx ?_))
    exact hl ▸ hs.threads _ (hlanes x hx)
  obtain ⟨hstall, hgo⟩ := prep_lanes s w
  unfold State.run at h
  rw [hnote, hfin, hends] at h
  cases hp : s.prep w with
  | stall held traps =>
    rw [hp] at h
    injection h with ht
    subst ht
    have hb : ∀ x : State, StayAway x (x.block held) := fun x => ⟨(block_idle x held).length, fun _ hk => (block_idle x held).away hk⟩
    rw [hnone rfl (hstall held traps hp) (hb _), takeAll_none hu]
    exact .inl (block_idle s held)
  | go ok traps =>
    rw [hp] at h
    simp only [Bool.false_eq_true, ↓reduceIte] at h
    injection h with ht
    subst ht
    obtain ⟨hok, htraps⟩ := hgo ok traps hp
    obtain ⟨hlen, hquiet⟩ := hact ok hok
    have hlength : ∀ c k n, ((w.act s ok).pay c k n ok).threads.length = s.threads.length := fun c k n => by rw [pay_threads, hlen]
    rw [hnone (hlength _ _ _) htraps ((issued_stayAway _).trans (advance_stayAway _)), takeAll_none (untraced_pay hquiet ..)]
    exact .inr ⟨ok, hok, passed_idle hquiet ..⟩

/-! What an effect may change. -/

/-- A register that a result may change, of one of the two files. -/
def Hits (s : State) (r : Result) (reg : Nat → Opnd) (j : Nat) : Prop :=
  ∃ m, (r.d = reg m ∨ s.stepped 4 r.n r.d = reg m) ∧ m ≤ j ∧ j < m + r.n

/-- A thread but for what a result may change. -/
def controlOf (x : Thread) : Thread := { x with v := [], preds := 0, mode := 0 }

/-- A group but for its scalar registers. -/
def scalarless (g : Machine.Group) : Machine.Group := { g with s := [] }

/-- A thread has changed by a result at most. -/
structure Changed (s : State) (r : Result) (x y : Thread) : Prop where
  control : controlOf y = controlOf x
  regs : ∀ j, ¬ Hits s r Opnd.v j → y.reg j = x.reg j
  preds : ∀ j, r.preds.getLsbD j = false → y.preds.getLsbD j = x.preds.getLsbD j
  sticky : y.mode &&& ~~~0x300 = x.mode &&& ~~~0x300
  mode : r.sticky = false → y.mode = x.mode

theorem Changed.refl (s : State) (r : Result) (x : Thread) : Changed s r x x := ⟨rfl, fun _ _ => rfl, fun _ _ => rfl, rfl, fun _ => rfl⟩

theorem Changed.trans {s : State} {r : Result} {x y z : Thread} (h : Changed s r x y) (h' : Changed s r y z) : Changed s r x z where
  control := h'.control.trans h.control
  regs j hj := (h'.regs j hj).trans (h.regs j hj)
  preds j hj := (h'.preds j hj).trans (h.preds j hj)
  sticky := h'.sticky.trans h.sticky
  mode hs := (h'.mode hs).trans (h.mode hs)

/-- A state has changed by a result of the unit at issue at most. -/
structure Wrote (s : State) (r : Result) (t : State) : Prop where
  rest : t = { s with threads := t.threads, groups := t.groups }
  length : t.threads.length = s.threads.length
  groups : t.groups.map scalarless = s.groups.map scalarless
  scalars : ∀ k j, ¬ Hits s r Opnd.s j → (t.grp k).reg j = (s.grp k).reg j
  thr : ∀ k, Changed s r (s.thr k) (t.thr k)
  others : ∀ k, k ∉ s.unit.lanes.map Prod.snd → t.thr k = s.thr k

theorem Wrote.refl (s : State) (r : Result) : Wrote s r s :=
  ⟨rfl, rfl, rfl, fun _ _ _ => rfl, fun _ => .refl .., fun _ _ => rfl⟩

/-- Registers that are not written stay. -/
theorem getElem?_setRegs {rs : List Reg} {n : Nat} {ws : List Word} {j : Nat} (h : ¬ (n ≤ j ∧ j < n + ws.length)) :
    (setRegs rs n ws)[j]? = rs[j]? := by
  rw [setRegs, getElem?_mapFrom, Nat.zero_add]
  cases rs[j]? with
  | none => rfl
  | some x =>
    simp only [Option.map_some]
    split
    · rfl
    · next hn => rw [List.getElem?_eq_none (by omega)]

/-- Another predicate than the one that is set stays. -/
theorem setPred_other {q j : Nat} (h : (predMask q).getLsbD j = false) (ps : BitVec 16) (x : Bool) :
    (setPred ps q x).getLsbD j = ps.getLsbD j := by
  unfold setPred
  split
  · rfl
  · next hq =>
    have hbit : (BitVec.ofNat 16 (2 ^ q)).getLsbD j = false := by
      have hmask : ∀ k : Fin 16, (0xFFFE : BitVec 16).getLsbD k = decide (k.val ≠ 0) := by decide
      by_cases hj : j < 16
      · rw [predMask, BitVec.getLsbD_and, hmask ⟨j, hj⟩, Bool.and_eq_false_iff] at h
        obtain h | h := h
        · exact h
        · obtain rfl : j = 0 := by simpa using h
          rw [BitVec.getLsbD_ofNat, Nat.testBit_two_pow, decide_eq_false hq, Bool.and_false]
      · exact BitVec.getLsbD_of_ge _ _ (Nat.le_of_not_lt hj)
    split
    · rw [BitVec.getLsbD_or, hbit, Bool.or_false]
    · rw [BitVec.getLsbD_and, BitVec.getLsbD_not, hbit]
      by_cases hj : j < 16
      · simp [hj]
      · simp [BitVec.getLsbD_of_ge ps j (Nat.le_of_not_lt hj)]

/-- The threads of a change of participants. -/
theorem thr_each_cases (s : State) (ok : List (Nat × Nat)) (f : Nat × Nat → Thread → Thread) (k : Nat) :
    (∃ p ∈ ok, p.2 = k ∧ (s.each ok f).thr k = f p (s.thr k)) ∨ (s.each ok f).thr k = s.thr k := by
  by_cases hk : k < s.threads.length
  · cases hf : ok.find? fun q => q.2 == k with
    | none => exact .inr (thr_each_other (fun p hp he => by simpa [he] using List.find?_eq_none.mp hf p hp) f)
    | some p => exact .inl ⟨p, List.mem_of_find?_eq_some hf, beq_iff_eq.mp (List.find?_some hf :), thr_each_of_find hk hf f⟩
  · refine .inr ?_
    have hgone : ∀ t : State, t.threads.length = s.threads.length → t.thr k = .gone := fun t ht => by
      rw [State.thr, List.getElem?_eq_none (by omega), Option.getD_none]
    rw [hgone _ (each_threads_length ..), hgone s rfl]

section

variable {s t : State} {r : Result} {ok : List (Nat × Nat)}

/-- A change of participants' threads, each by the result at most. -/
theorem Wrote.each (h : Wrote s r t) (hok : ∀ p ∈ ok, p ∈ s.unit.lanes) {f : Nat × Nat → Thread → Thread}
    (hf : ∀ p x, Changed s r x (f p x)) : Wrote s r (t.each ok f) where
  rest := by
    rw [h.rest]
    rfl
  length := (each_threads_length ..).trans h.length
  groups := h.groups
  scalars := h.scalars
  thr k := by
    obtain ⟨p, -, -, hp⟩ | hs := thr_each_cases t ok f k
    · exact hp ▸ (h.thr k).trans (hf p _)
    · exact hs ▸ h.thr k
  others k hk := by
    refine (thr_each_other (fun p hp he => hk ?_) f).trans (h.others k hk)
    exact he ▸ List.mem_map_of_mem (hok p hp)

/-- A destination is written. -/
theorem Wrote.putDst (h : Wrote s r t) (hok : ∀ p ∈ ok, p ∈ s.unit.lanes) {d : Opnd} {f : Nat × Nat → List Word}
    (hd : r.d = d ∨ s.stepped 4 r.n r.d = d) (hn : ∀ p, (f p).length ≤ r.n) : Wrote s r (t.putDst ok d f) := by
  have hout : ∀ {reg : Nat → Opnd} {m j : Nat} (p : Nat × Nat), d = reg m → ¬ Hits s r reg j → ¬ (m ≤ j ∧ j < m + (f p).length) :=
    fun p hm hj hin => hj ⟨_, hm ▸ hd, hin.1, Nat.lt_of_lt_of_le hin.2 (Nat.add_le_add_left (hn p) _)⟩
  unfold State.putDst
  split
  · exact h.each hok fun p x => ⟨rfl, fun j hj => congrArg (Option.getD · _) (getElem?_setRegs (hout p rfl hj)), fun _ _ => rfl, rfl,
      fun _ => rfl⟩
  · next n =>
    split
    · next p _ =>
      refine ⟨?_, h.length, ?_, fun k j hj => ?_, h.thr, h.others⟩
      · rw [h.rest]
        rfl
      · exact (map_upd (g := scalarless) (f := fun g => { g with s := setRegs g.s n (f p) }) (fun _ => rfl) t.groups _).trans h.groups
      · refine Eq.trans ?_ (h.scalars k j hj)
        simp only [State.grp, State.updGrp, getElem?_upd]
        split
        · cases t.groups[k]? with
          | none => rfl
          | some g => exact congrArg (Option.getD · _) (getElem?_setRegs (hout p rfl hj))
        · rfl
    · exact h
  · exact h

/-- Predicates of a mask are written. -/
theorem Wrote.putPred (h : Wrote s r t) (hok : ∀ p ∈ ok, p ∈ s.unit.lanes) {q : Nat} {f : Nat × Nat → Bool}
    (hq : ∀ j, r.preds.getLsbD j = false → (predMask q).getLsbD j = false) : Wrote s r (t.putPred ok q f) :=
  h.each hok fun _ _ => ⟨rfl, fun _ _ => rfl, fun _ hj => setPred_other (hq _ hj) _ _, rfl, fun _ => rfl⟩

theorem setBits_masked {m f k : Word} (h : f &&& k = 0) : (m ||| f) &&& k = m &&& k := by
  refine BitVec.eq_of_getLsbD_eq fun i hi => ?_
  have hbit : (f.getLsbD i && k.getLsbD i) = false := by rw [← BitVec.getLsbD_and, h, BitVec.ofNat_eq_ofNat, BitVec.getLsbD_zero]
  rw [BitVec.getLsbD_and, BitVec.getLsbD_and, BitVec.getLsbD_or, Bool.and_or_distrib_right, hbit, Bool.or_false]

/-- Sticky bits are set. -/
theorem Wrote.sticky (h : Wrote s r t) (hok : ∀ p ∈ ok, p ∈ s.unit.lanes) {f : Nat × Nat → Word}
    (hf : ∀ p, f p &&& ~~~0x300 = 0) (hz : r.sticky = false → ∀ p, f p = 0) :
    Wrote s r (t.each ok fun p x => { x with mode := x.mode ||| f p }) :=
  h.each hok fun p x => ⟨rfl, fun _ _ => rfl, fun _ _ => rfl, setBits_masked (hf p), fun hs => by
    rw [hz hs p]
    exact BitVec.or_zero⟩

end

/-! The frame of a word that computes. -/

/-- A word's effect changes its result only. -/
def Computes (s : State) (o : Out) (r : Result) : Prop :=
  ∃ w, o = s.run w ∧ Simple w ∧ ∀ ok, (∀ p ∈ ok, p ∈ s.unit.lanes) → Wrote s r (w.act s ok)

section

variable {s t u : State} {r : Result}

theorem Wrote.untraced (h : Wrote s r t) (hu : Untraced s) : Untraced t := by
  have hteam : ∀ g, (t.grp g).team = (s.grp g).team := fun g => by
    have hg := congrArg (fun l => ((l[g]?).getD (scalarless .gone)).team) h.groups
    simp only [List.getElem?_map, Option.getD_map] at hg
    exact hg
  have hrest := h.rest
  have hg : t.unit.group = s.unit.group := by rw [hrest]; rfl
  have hl : t.launches = s.launches := by rw [hrest]
  have hm : t.teams = s.teams := by rw [hrest]
  have hc : t.ctxs = s.ctxs := by rw [hrest]
  have ha : ctxAt t = ctxAt s := by simp only [ctxAt, State.launch, State.team, hg, hteam, hl, hm]
  rw [Untraced, ha, State.ctx, hc]
  exact hu

/-- What is as before once a word that waited, or that had its effect, has been tried. -/
theorem Wrote.onlyResult (h : Wrote s r t) (hi : Idle t u) : OnlyResult s u r := by
  obtain ⟨us, ts, cs, hu⟩ := hi.rest
  have hsto : u.sto = s.sto := by rw [hu, h.rest]
  have hgroups : u.groups.map scalarless = s.groups.map scalarless := by rw [hu]; exact h.groups
  have hbare : u.groups.map (fun g => (g.bars, g.convs)) = s.groups.map (fun g => (g.bars, g.convs)) := by
    have := congrArg (List.map fun g => (g.bars, g.convs)) hgroups
    simpa only [List.map_map, Function.comp_def, scalarless] using this
  refine ⟨sameMemory_of_sto hsto (by rw [hu, h.rest]), ⟨hbare, ?_⟩, hi.length.trans h.length, fun k => ?_⟩
  · rw [hu, h.rest]
    exact ⟨rfl, rfl, rfl, rfl, rfl, rfl, rfl⟩
  · obtain ⟨hcontrol, hregs, hpreds, hsticky, hmode⟩ := h.thr k
    have hv : (u.thr k).v = (t.thr k).v := (congrArg Thread.v (hi.thr k) :)
    have hp : (u.thr k).preds = (t.thr k).preds := (congrArg Thread.preds (hi.thr k) :)
    have hm : (u.thr k).mode = (t.thr k).mode := (congrArg Thread.mode (hi.thr k) :)
    have hc : timeless (controlOf (u.thr k)) = timeless (controlOf (s.thr k)) :=
      (congrArg controlOf (hi.thr k) : timeless (controlOf (u.thr k)) = timeless (controlOf (t.thr k))).trans (congrArg timeless hcontrol)
    refine ⟨fun j hj => ?_, fun j hj => ?_, fun j hj => ?_, by rw [hm, hsticky], fun hs => by rw [hm, hmode hs], ?_, fun hk => ?_⟩
    · rw [Thread.reg, hv]
      exact hregs j hj
    · have hg : u.grp k = t.grp k := by rw [hu]; rfl
      rw [hg]
      exact h.scalars k j hj
    · rw [hp]
      exact hpreds j hj
    · exact ⟨rfl, (congrArg Thread.calls hc :), (congrArg Thread.regions hc :), (congrArg Thread.rdepth hc :), rfl,
        (congrArg Thread.bsync hc :), (congrArg Thread.hmode hc :), (congrArg Thread.resume hc :), (congrArg Thread.hs hc :),
        (congrArg Thread.frec hc :), (congrArg Thread.st hc :), (congrArg Thread.mx hc :), (congrArg Thread.gx hc :),
        (congrArg Thread.ct hc :), (congrArg Thread.held hc :), (congrArg Thread.life hc :)⟩
    · rw [hv, hp, hm, h.others k hk]
      exact ⟨rfl, rfl, rfl⟩

/-- A word whose effect changes its result only leaves nothing else changed. -/
theorem Computes.onlyResult {o : Out} (h : Computes s o r) (ho : o = .next t) (hs : UnitOk s) (hu : Untraced s) (hin : StaysIn s t) :
    OnlyResult s t r := by
  obtain ⟨w, rfl, hw, hact⟩ := h
  obtain hi | ⟨ok, hok, hi⟩ := run_simple hw hs hu hin (fun ok hok => ⟨(hact ok hok).length, (hact ok hok).untraced hu⟩) ho
  · exact (Wrote.refl s r).onlyResult hi
  · exact (hact ok hok).onlyResult hi

end

/-! The words, by the shape of their work. -/

section

variable (s : State) {g : Nat} {d a b : Opnd}

/-- A word that writes a destination of at most three registers. -/
theorem puts_computes {uses : List Use} {cost n : Nat} {d : Opnd} {f : State → List (Nat × Nat) → Nat × Nat → List Word}
    {chk : State → List (Nat × Nat) → Nat × Nat → Option Trap} (hn : ∀ ok p, (f s ok p).length ≤ n) :
    Computes s (s.run { uses := uses, guard := g, cost := cost, chk := chk, act := fun s ok => s.putDst ok d (f s ok) })
      { d := d, n := n } :=
  ⟨_, rfl, ⟨rfl, rfl, rfl⟩, fun _ hok => (Wrote.refl ..).putDst hok (.inl rfl) (hn _)⟩

/-- A word that writes a predicate. -/
theorem decides_computes {uses : List Use} {cost q : Nat} {f : State → List (Nat × Nat) → Nat × Nat → Bool} :
    Computes s (s.run { uses := uses, guard := g, cost := cost, act := fun s ok => s.putPred ok q (f s ok) })
      { preds := predMask q } :=
  ⟨_, rfl, ⟨rfl, rfl, rfl⟩, fun _ hok => (Wrote.refl ..).putPred hok fun _ h => h⟩

theorem wordsOf_length (n : Nat) (x : Dword) (hn : n ≠ 0) : (wordsOf n x).length ≤ n := by
  unfold wordsOf
  split
  next h => exact h ▸ Nat.le_refl 2
  · exact Nat.one_le_iff_ne_zero.mpr hn

/-- The sticky bits of sr.mode, and none else. -/
def StickyOnly (w : Word) : Prop := w = 0 ∨ w = stickySU ∨ w = stickyNV

theorem StickyOnly.masked {w : Word} (h : StickyOnly w) : w &&& ~~~0x300 = 0 := by
  obtain rfl | rfl | rfl := h <;> decide

/-- An arithmetic word that sets sticky bits. -/
theorem sticky_computes {cost dn an bn : Nat} {rd : Bool} {f : Word → Dword → Dword → Dword → Dword × Word} (hn : dn ≠ 0)
    (hf : ∀ m x y z, StickyOnly (f m x y z).2) :
    Computes s (s.run (arith cost g d dn rd a an b bn f)) { d := d, n := dn, sticky := true } :=
  ⟨_, rfl, ⟨rfl, rfl, rfl⟩, fun _ hok => ((Wrote.refl ..).putDst hok (.inr rfl) fun _ => wordsOf_length _ _ hn).sticky hok
    (fun _ => (hf ..).masked) nofun⟩

/-- An arithmetic word that sets none. -/
theorem arith_computes {cost dn an bn : Nat} {rd : Bool} {f : Word → Dword → Dword → Dword → Dword} (hn : dn ≠ 0) :
    Computes s (s.run (arith cost g d dn rd a an b bn fun m x y z => (f m x y z, 0))) { d := d, n := dn } :=
  ⟨_, rfl, ⟨rfl, rfl, rfl⟩, fun _ hok => ((Wrote.refl ..).putDst hok (.inr rfl) fun _ => wordsOf_length _ _ hn).sticky hok
    (fun _ => StickyOnly.masked (.inl rfl)) fun _ _ => rfl⟩

theorem flt_computes {rd : Bool} {f : Word → Nat → Nat → Nat → Nat} : Computes s (s.run (flt g d rd a b f)) { d := d } := by
  unfold flt
  exact arith_computes s Nat.one_ne_zero

theorem flt64_computes {rd : Bool} {f : Word → Nat → Nat → Nat → Nat} :
    Computes s (s.run (flt64 g d rd a b f)) { d := d, n := 2 } := by
  unfold flt64
  exact arith_computes s (Nat.succ_ne_zero 1)

theorem special_computes {f : Bool → Bool → Nat → Nat} : Computes s (s.run (specialWork g d a f)) { d := d } := by
  unfold specialWork
  exact flt_computes s

end

/-! The sticky bits of the conversions. -/

theorem narrowNV_sticky (F : FloatFmt) (v : Val) : StickyOnly (narrowNV F v) := by
  unfold narrowNV
  split
  exacts [.inr (.inr rfl), .inl rfl]

theorem f2iW_sticky (f : FFmt) (n : IntTy) (r : Rnd) (m : Word) (x : Nat) : StickyOnly (f2iW f n r m x).2 := by
  unfold f2iW
  dsimp only
  split
  exacts [.inr (.inr rfl), .inl rfl, .inl rfl]

theorem packW_sticky (df : Fmt) (r : Rnd) (sat : Bool) (m : Word) (x : Nat) : StickyOnly (packW df r sat m x).2 := by
  unfold packW
  split
  exacts [.inl rfl, narrowNV_sticky ..]

theorem qzpRecW_sticky (n : QTy) (m : Word) (x y : Nat) : StickyOnly (qzpRecW n m x y).2 := by
  unfold qzpRecW
  dsimp only
  split
  exacts [.inr (.inr rfl), .inl rfl]

theorem qzpQW_sticky (n : QTy) (m : Word) (x y : Nat) : StickyOnly (qzpQW n m x y).2 := by
  unfold qzpQW
  dsimp only
  split
  · exact .inr (.inr rfl)
  · split
    exacts [.inl rfl, .inl rfl]

theorem scaleExp_sticky (b : Bool) : StickyOnly (if b then stickySU else 0) := by
  split
  exacts [.inr (.inl rfl), .inl rfl]

theorem fmtRegs_ne_zero (f : Fmt) : Fmt.regs f ≠ 0 := by cases f <;> decide

theorem intRegs_ne_zero (n : IntTy) : (if IntTy.width n = 64 then 2 else 1) ≠ 0 := by
  split
  exacts [(Nat.succ_ne_zero 1), Nat.one_ne_zero]

theorem lredRegs_ne_zero (o : LredOp) : lredRegs o ≠ 0 := by
  unfold lredRegs
  split
  exacts [(Nat.succ_ne_zero 1), Nat.one_ne_zero]

theorem srWide_regs (n : Nat) : (if srWide n then 2 else 1) = if n = 0x0E ∨ n = 0x14 ∨ n = 0x15 ∨ n = 0x30 then 2 else 1 := by
  simp only [srWide, Bool.or_eq_true, beq_iff_eq, or_assoc]

theorem v2p_computes (s : State) (a b : Opnd) (g : Nat) : Computes s (exec (.v2p a b g) s) { preds := 0xFFFE } := by
  refine ⟨_, rfl, ⟨rfl, rfl, rfl⟩, fun ok hok => (Wrote.refl ..).each hok fun p x => ⟨rfl, fun _ _ => rfl, fun j hj => ?_, rfl,
    fun _ => rfl⟩⟩
  have hm : ((s.src p b).setWidth 16 &&& 0xFFFE : BitVec 16).getLsbD j = false := by rw [BitVec.getLsbD_and, hj, Bool.and_false]
  dsimp only
  rw [BitVec.getLsbD_or, BitVec.getLsbD_and, BitVec.getLsbD_and, BitVec.getLsbD_not, hm, Bool.and_false, Bool.or_false]
  by_cases h : j < 16
  · simp [h]
  · simp [BitVec.getLsbD_of_ge x.preds j (Nat.le_of_not_lt h)]

theorem elect_computes (s : State) (d : Opnd) (q g : Nat) : Computes s (exec (.elect d q g) s) { d := d, preds := predMask q } := by
  refine ⟨_, rfl, ⟨rfl, rfl, rfl⟩, fun _ hok => Wrote.putPred (Wrote.putDst (.refl ..) hok (.inl rfl) fun _ => ?_) hok fun _ h => h⟩
  exact Nat.le_refl 1

theorem osmx_computes (s : State) (d a b : Opnd) (g : Nat) : Computes s (exec (.osmx d a b g) s) { d := d, n := 2 } := by
  cases b with
  | zero | v n | s n | lane | lit x => exact arith_computes s (Nat.succ_ne_zero 1)

/-- Every word that only computes changes its result only. -/
theorem computes_of_resultOf {i : Instr} {r : Result} (h : resultOf i = some r) (s : State) : Computes s (exec i s) r := by
  cases i with
  | mov d | movi d | add d | sub d | mul d | mulhI32 d | mulhN32 d | mad d | minI32 d | minN32 d | maxI32 d | maxN32 d | abs d
  | neg d | and d | or d | xor d | andn d | not d | shl d | shr d | sar d | rol d | popc d | clz d | ctz d | brev d | bfxI32 d
  | bfxN32 d | bfi d | perm d | addi d | andi d | ori d | xori d | shli d | shri d | sari d
  | fclass d | unpk d | osmn d =>
    obtain rfl := Option.some.inj h
    exact arith_computes s Nat.one_ne_zero
  | fadd d | fsub d | fmul d | ffma d | ffms d | fmin d | fmax d | hadd2F16 d | hadd2Bf16 d | hmul2F16 d | hmul2Bf16 d
  | hfma2F16 d | hfma2Bf16 d | dq d | amax d | scacc d =>
    obtain rfl := Option.some.inj h
    exact flt_computes s
  | frcp d | frsq d | fsqrt d | fexp2 d | flog2 d | fsin d | fcos d | ftanh d =>
    obtain rfl := Option.some.inj h
    exact special_computes s
  | dadd d | dmul d | dfma d =>
    obtain rfl := Option.some.inj h
    exact flt64_computes s
  | madwI32 d | madwN32 d | lea d | add64 d | sub64 d | shl64 d =>
    obtain rfl := Option.some.inj h
    exact arith_computes s (Nat.succ_ne_zero 1)
  | cvtiI2f d a f =>
    obtain rfl := Option.some.inj h
    exact arith_computes s (fmtRegs_ne_zero _)
  | osmx d a b g =>
    obtain rfl := Option.some.inj h
    exact osmx_computes s d a b g
  | cvt d a df =>
    obtain rfl := Option.some.inj h
    exact sticky_computes s (fmtRegs_ne_zero df) fun _ _ _ _ => narrowNV_sticky ..
  | cvtiF2i d a f n =>
    obtain rfl := Option.some.inj h
    exact sticky_computes s (intRegs_ne_zero n) fun _ _ _ _ => f2iW_sticky ..
  | pack d =>
    obtain rfl := Option.some.inj h
    exact sticky_computes s Nat.one_ne_zero fun _ _ _ _ => packW_sticky ..
  | qzpRec d =>
    obtain rfl := Option.some.inj h
    exact sticky_computes s Nat.one_ne_zero fun _ _ _ _ => qzpRecW_sticky ..
  | qzpQ d =>
    obtain rfl := Option.some.inj h
    exact sticky_computes s Nat.one_ne_zero fun _ _ _ _ => qzpQW_sticky ..
  | scalex d =>
    obtain rfl := Option.some.inj h
    exact sticky_computes s Nat.one_ne_zero fun _ _ _ _ => scaleExp_sticky _
  | sel d | p2v d | shfl d =>
    obtain rfl := Option.some.inj h
    exact puts_computes s fun _ _ => Nat.le_refl 1
  | ballot d | lmatch d =>
    obtain rfl := Option.some.inj h
    exact puts_computes s fun _ _ => wordsOf_length _ _ (Nat.succ_ne_zero 1)
  | lred d a b o =>
    obtain rfl := Option.some.inj h
    exact puts_computes s fun _ _ => wordsOf_length _ _ (lredRegs_ne_zero o)
  | split6 d | join6 d =>
    obtain rfl := Option.some.inj h
    exact puts_computes s fun _ _ => Nat.le_refl 3
  | srd d n g =>
    obtain rfl := Option.some.inj h
    rw [← srWide_regs]
    exact puts_computes s fun _ _ => wordsOf_length _ _ (by split; exacts [(Nat.succ_ne_zero 1), Nat.one_ne_zero])
  | icmp q | pand q | por q | pxor q | pnot q | fcmp q | vote q =>
    obtain rfl := Option.some.inj h
    exact decides_computes s
  | v2p a b g =>
    obtain rfl := Option.some.inj h
    exact v2p_computes s a b g
  | elect d q g =>
    obtain rfl := Option.some.inj h
    exact elect_computes s d q g
  | _ => exact nomatch h

/-- Settles O59: a word that computes waits, or has its effect and goes on; neither changes more than its result. -/
theorem computingWordsChangeOnlyTheirResult : Obligations.ComputingWordsChangeOnlyTheirResult := by
  unfold Obligations.ComputingWordsChangeOnlyTheirResult
  intro s t i r hr ht hs hu hin
  exact (computes_of_resultOf hr s).onlyResult ht hs hu hin

end Sys2Proof.Proofs
end

section
/-! PROOFS. Fills and flushes (R219 to R225, R237). -/

namespace Sys2Proof.Proofs

open Sys2Proof.Machine Sys2Proof.Safety Sys2Proof.Laws

theorem exec_fillEntersQueue (n : Nat) (s : State) : exec (.fillEntersQueue n) s = execFillEntersQueue n s := rfl

theorem exec_fillBeatLands (n off : Nat) (s : State) : exec (.fillBeatLands n off) s = execFillBeatLands n off s := rfl

theorem exec_fillStampWrite (n k : Nat) (s : State) : exec (.fillStampWrite n k) s = execFillStampWrite n k s := rfl

theorem exec_flushBegin (n : Nat) (s : State) : exec (.flushBegin n) s = execFlushBegin n s := rfl

theorem exec_flushComplete (n : Nat) (s : State) : exec (.flushComplete n) s = execFlushComplete n s := rfl

/-! Jobs by their numbers. -/

theorem job_some {s : State} {id : Nat} {j : Job} (h : s.job id = some j) : j.id = id ∧ j ∈ s.fly.jobs :=
  ⟨by simpa using List.find?_some h, List.mem_of_find?_eq_some h⟩

/-! A free choice among bytes (R237). -/

theorem someOf_subset {s : State} {l : List Nat} {o : Nat} (h : o ∈ s.someOf l) : o ∈ l := (List.mem_filter.mp h).1

/-- Of some bytes, one always comes. -/
theorem someOf_ne_nil {s : State} {l : List Nat} (h : l ≠ []) : s.someOf l ≠ [] := by
  have hlt : s.pick (2 ^ 40) l.length < l.length := Nat.mod_lt _ (List.length_pos_iff.mpr h)
  refine List.ne_nil_of_mem (a := l[s.pick (2 ^ 40) l.length]) (List.mem_filter.mpr ⟨List.getElem_mem hlt, ?_⟩)
  rw [List.getElem?_eq_getElem hlt, Bool.or_eq_true]
  exact .inl (beq_self_eq_true _)

/-! Scratchpad bytes. -/

theorem spad_writeSpad (s : State) (a : Nat) (bs : List Byte) : (s.writeSpad a bs).sto.spad = writeCells s.sto.spad a bs := rfl

theorem cellGet_writeSpad {s : State} (h : cellsWf s.sto.spad = true) (a : Nat) (bs : List Byte) {i : Nat} (hi : i < bs.length) :
    cellGet (s.writeSpad a bs).sto.spad (a + i) = (bs[i]?).getD 0 := by
  rw [spad_writeSpad, cellGet_writeCells_same h a bs hi, List.getElem?_eq_getElem hi, Option.getD_some]

theorem addr_inj {j : Job} {a b : Nat} : j.addr a = j.addr b ↔ a = b := by
  simp only [Job.addr]
  omega

/-! A fill enters the queue (R218, R220). -/

theorem enterQueue_entry {s : State} {j : Job} (hm : j.team < s.teams.length) (he : j.entry < (s.team j.team).entries.length) :
    (s.enterQueue j).entry j.team j.entry = { s.entry j.team j.entry with
      seq := (s.entry j.team j.entry).seq + 1,
      dests := (s.entry j.team j.entry).dests.map fun _ => { state := .arriving, landed := [], job := j.id } } :=
  entry_updEntry_self hm he _

/-! A beat lands (R219, R221, R237). -/

/-- A fill of a window alone: one destination of the region table, that takes its bytes, and no parked one. -/
structure OneWindow (s : State) (j : Job) (d : Dest) (q : Option Nat × Nat × Nat) : Prop where
  team : j.team < s.teams.length
  entry : j.entry < (s.team j.team).entries.length
  dests : (s.entry j.team j.entry).dests = [d]
  places : (region j.desc).dests = [q]
  takes : d.takes j = true
  shadows : j.shadows = []

/-- The destination once a byte has landed. -/
def landed (d : Dest) (o : Nat) : Dest := { d with landed := addLanded d.landed [o] }

theorem landByte_one {s : State} {j : Job} {d : Dest} {q : Option Nat × Nat × Nat} (h : OneWindow s j d q) (o : Nat) (x : Byte) :
    s.landByte j o x = (s.writeSpad (j.addr (q.2.1 + o)) [x]).updEntry j.team j.entry fun e =>
      { e with dests := e.dests.map fun d => if d.takes j then landed d o else d } := by
  unfold State.landByte
  simp only [h.dests, h.places, h.shadows, List.zip_cons_cons, List.zip_nil_right, List.foldl_cons, List.foldl_nil, h.takes, ↓reduceIte]
  rfl

theorem updEntry_lengths {s : State} {m : Nat} (hm : m < s.teams.length) (e : Nat) (f : Entry → Entry) :
    (s.updEntry m e f).teams.length = s.teams.length ∧
      ((s.updEntry m e f).team m).entries.length = (s.team m).entries.length := by
  refine ⟨length_upd .., ?_⟩
  rw [State.updEntry, team_updTeam_self hm]
  exact length_upd ..

theorem landed_takes {d : Dest} {j : Job} (h : d.takes j = true) (o : Nat) : (landed d o).takes j = true := h

theorem mem_landed {d : Dest} {o x : Nat} : x ∈ (landed d o).landed ↔ x ∈ d.landed ∨ x = o := by
  simp only [landed, addLanded, List.mem_append, List.mem_filter, List.mem_singleton, Bool.not_eq_true', List.contains_eq_mem,
    decide_eq_false_iff_not]
  by_cases hx : x = o
  · subst hx
    tauto
  · tauto

/-- Some bytes of a fill's only window have landed. -/
structure Landed (s t : State) (j : Job) (q : Option Nat × Nat × Nat) (b : Nat → Byte) (os : List Nat) : Prop where
  window : ∃ d, OneWindow t j d q ∧ ∀ o ∈ os, o ∈ d.landed
  bytes : ∀ o ∈ os, cellGet t.sto.spad (j.addr (q.2.1 + o)) = b o
  others : ∀ a, (∀ o ∈ os, a ≠ j.addr (q.2.1 + o)) → cellGet t.sto.spad a = cellGet s.sto.spad a
  spad : cellsWf t.sto.spad = true
  mem : t.sto.mem = s.sto.mem

theorem Landed.snoc {s t : State} {j : Job} {q : Option Nat × Nat × Nat} {b : Nat → Byte} {os : List Nat} (h : Landed s t j q b os)
    (o : Nat) (w : Reader) : Landed s ((t.landByte j o (b o)).dropRead w) j q b (os ++ [o]) := by
  obtain ⟨⟨d, hone, hd⟩, hbytes, hothers, hwf, hmem⟩ := h
  rw [landByte_one hone]
  have hcell : ∀ a, cellGet (t.writeSpad (j.addr (q.2.1 + o)) [b o]).sto.spad a =
      if a = j.addr (q.2.1 + o) then b o else cellGet t.sto.spad a := fun a => by
    split
    next h =>
      have hsame := cellGet_writeCells_same hwf (j.addr (q.2.1 + o)) [b o] (i := 0) Nat.one_pos
      rw [h, spad_writeSpad]
      rwa [Nat.add_zero] at hsame
    · next h =>
      rw [spad_writeSpad, cellGet_writeCells_other]
      simp only [List.length_singleton]
      omega
  obtain ⟨hteams, hentries⟩ := updEntry_lengths (s := t.writeSpad (j.addr (q.2.1 + o)) [b o]) hone.team j.entry fun e =>
    { e with dests := e.dests.map fun d => if d.takes j then landed d o else d }
  refine ⟨⟨landed d o, ⟨hteams ▸ hone.team, hentries ▸ hone.entry, ?_, hone.places, hone.takes, hone.shadows⟩, fun x hx => ?_⟩,
    fun x hx => ?_, fun a ha => ?_, writeCells_wf hwf _ _, hmem⟩
  · have hentry := entry_updEntry_self (s := t.writeSpad (j.addr (q.2.1 + o)) [b o]) hone.team hone.entry fun e =>
      { e with dests := e.dests.map fun d => if d.takes j then landed d o else d }
    have hdests : ((t.writeSpad (j.addr (q.2.1 + o)) [b o]).entry j.team j.entry).dests = [d] := hone.dests
    refine (congrArg Entry.dests hentry).trans ?_
    simp only [hdests, List.map_cons, List.map_nil, hone.takes, ↓reduceIte]
  · obtain hx | hx := List.mem_append.mp hx
    · exact mem_landed.mpr (.inl (hd x hx))
    · exact mem_landed.mpr (.inr (List.mem_singleton.mp hx))
  · refine (hcell _).trans ?_
    split
    next h => rw [Nat.add_left_cancel (addr_inj.mp h)]
    · next h =>
      obtain hx | hx := List.mem_append.mp hx
      · exact hbytes x hx
      · exact absurd (by rw [List.mem_singleton.mp hx]) h
  · refine ((hcell _).trans (if_neg (ha o (List.mem_append_right _ (List.mem_singleton_self o))))).trans ?_
    exact hothers a fun x hx => ha x (List.mem_append_left _ hx)

theorem Landed.later {s t u : State} {j : Job} {q : Option Nat × Nat × Nat} {b : Nat → Byte} {os : List Nat} (h : Landed s t j q b os)
    (ht : u.teams = t.teams) (hs : u.sto.spad = t.sto.spad) (hm : u.sto.mem = t.sto.mem) : Landed s u j q b os := by
  obtain ⟨⟨d, hone, hd⟩, hbytes, hothers, hwf, hmem⟩ := h
  have hteam : u.team j.team = t.team j.team := by rw [State.team, State.team, ht]
  refine ⟨⟨d, ⟨ht ▸ hone.team, hteam ▸ hone.entry, ?_, hone.places, hone.takes, hone.shadows⟩, hd⟩, ?_, ?_, hs ▸ hwf, hm.trans hmem⟩
  · rw [State.entry, hteam]
    exact hone.dests
  · rw [hs]
    exact hbytes
  · rw [hs]
    exact hothers

/-- The bytes of a beat land one after the other. -/
theorem Landed.foldl {s t : State} {j : Job} {q : Option Nat × Nat × Nat} {b : Nat → Byte} (os : List Nat) {as : List Nat}
    (h : Landed s t j q b as) :
    Landed s (os.foldl (fun s o => (s.landByte j o (b o)).dropRead (.beat j.id o)) t) j q b (as ++ os) := by
  induction os generalizing t as with
  | nil => rwa [List.append_nil]
  | cons o r ih =>
    have := ih (h.snoc o (.beat j.id o))
    rwa [List.append_assoc] at this

/-- The bytes of a beat that come now. -/
def beatBytes (s : State) (j : Job) (off : Nat) : List Nat :=
  s.someOf (((List.range 8).map fun i => off / 8 * 8 + i).filter fun o =>
    decide (o < (region j.desc).size) && s.lacks j o && (!(j.first.any fun o => s.lacks j o) || j.first.contains o))

section

variable {s : State} {j : Job} {off : Nat}

/-- They are of the beat, in the window, and not there yet. -/
theorem beatBytes_of {o : Nat} (h : o ∈ beatBytes s j off) : o / 8 = off / 8 ∧ o < (region j.desc).size ∧ s.lacks j o = true := by
  obtain ⟨hm, hp⟩ := List.mem_filter.mp (someOf_subset h)
  obtain ⟨i, hi, rfl⟩ := List.mem_map.mp hm
  have hlt : i < 8 := List.mem_range.mp hi
  simp only [Bool.and_eq_true, decide_eq_true_eq] at hp
  exact ⟨by omega, hp.1.1, hp.1.2⟩

theorem beatBytes_ne_nil (hz : off < (region j.desc).size) (hl : s.lacks j off = true) (hf : ∀ o ∈ j.first, s.lacks j o = false) :
    beatBytes s j off ≠ [] := by
  refine someOf_ne_nil (List.ne_nil_of_mem (a := off) (List.mem_filter.mpr ⟨List.mem_map.mpr ⟨off % 8, ?_, ?_⟩, ?_⟩))
  · exact List.mem_range.mpr (Nat.mod_lt _ (by decide))
  · omega
  · have hearly : (j.first.any fun o => s.lacks j o) = false := List.any_eq_false.mpr fun o ho => by simp [hf o ho]
    simp [hz, hl, hearly]

/-- A beat whose source bytes can all be read: some of them land. -/
theorem beat_lands {d : Dest} {q : Option Nat × Nat × Nat} (h : OneWindow s j d q) (hi : MemoryInv s) {b : Nat → Byte}
    (hb : ∀ o ∈ beatBytes s j off, s.sourceByte j o = .byte (b o)) : Landed s (s.beat j off) j q b (beatBytes s j off) := by
  obtain ⟨hmem, hspad⟩ := wf_parts hi
  have hxs : (beatBytes s j off).map (fun o => (o, s.sourceByte j o)) = (beatBytes s j off).map fun o => (o, Source.byte (b o)) :=
    List.map_congr_left fun o ho => by rw [hb o ho]
  have hland := Landed.foldl (s := s) (beatBytes s j off) (t := s) (q := q) (b := b) (as := [])
    ⟨⟨d, h, fun _ ho => absurd ho List.not_mem_nil⟩, fun _ ho => absurd ho List.not_mem_nil, fun _ _ => rfl, hspad.1, rfl⟩
  rw [List.nil_append] at hland
  unfold State.beat
  dsimp only
  rw [← beatBytes, hxs]
  split
  next f hf =>
    obtain ⟨x, hx, hbad⟩ := List.exists_of_findSome?_eq_some hf
    obtain ⟨o, -, rfl⟩ := List.mem_map.mp hx
    exact nomatch hbad
  · rw [List.foldl_map]
    dsimp only
    obtain ⟨tl, ht⟩ := noteTlbs_eq _ _ _
    rw [ht]
    exact hland.later rfl rfl rfl

end

theorem beat_exec {s : State} {j : Job} {off : Nat} (hjob : s.job j.id = some j) (hf : j.flush = none) (hq : j.queued = true)
    (hz : off < (region j.desc).size) (hl : s.lacks j off = true) (hfirst : ∀ o ∈ j.first, s.lacks j o = false) :
    exec (.fillBeatLands j.id off) s = .next (s.beat j off) := by
  have hearly : (j.first.any fun o => s.lacks j o) = false := List.any_eq_false.mpr fun o ho => by simp [hfirst o ho]
  rw [exec_fillBeatLands, execFillBeatLands, hjob]
  simp only [hf, hq, hz, hl, hearly, Option.isNone_none, decide_true, Bool.not_false, Bool.true_or, Bool.and_self, ↓reduceIte]

/-! A fill fails (R223). -/

/-- What ends a job changes neither the tables of the teams nor the memories. -/
theorem endJob_same (s : State) (j : Job) (e : Option Failure) : (s.endJob j e).teams = s.teams ∧ (s.endJob j e).sto = s.sto := by
  unfold State.endJob
  dsimp only
  split
  · unfold State.chargeLines
    split
    exacts [⟨rfl, rfl⟩, ⟨rfl, rfl⟩]
  · exact ⟨rfl, rfl⟩

/-- No flush waits for a fill that is alone in the copy engine. -/
theorem failFlushes_none {s : State} {m e : Nat} (h : ∀ y ∈ s.fly.jobs, y.flush = none) : s.failFlushes m e = s := by
  unfold State.failFlushes
  refine List.foldlRecOn (motive := fun t : State => t = s) _ _ rfl fun t ht y hy => ?_
  rw [h y (List.mem_filter.mp hy).1]
  exact ht

/-- The stamp of a job at an address. -/
def StampAt (t : State) (a status seq : Nat) : Prop := ∀ i < 8, cellGet t.sto.spad (a + i) = ((stampBytes status seq)[i]?).getD 0

theorem writeSpad_stamp {s : State} (h : cellsWf s.sto.spad = true) (a status seq : Nat) :
    StampAt (s.writeSpad a (stampBytes status seq)) a status seq := fun i hi =>
  cellGet_writeSpad h a _ (by rwa [stampBytes, valBytes_length])

theorem failFill_one {s : State} {j : Job} {d : Dest} {q : Option Nat × Nat × Nat} (h : OneWindow s j d q) (hi : MemoryInv s)
    (hj : ∀ y ∈ s.fly.jobs, y.flush = none) (f : Failure) : StampAt (s.failFill j f) (j.addr q.2.2) 1 j.seq ∧
      ((s.failFill j f).entry j.team j.entry).dests = [{ state := .absent }] ∧ (s.failFill j f).sto.mem = s.sto.mem := by
  have hserves : s.serves j = true := by
    rw [State.serves, h.dests]
    simp [h.takes]
  have heq : ∃ F : Flight → Flight, s.failFill j f =
      ((((s.updFly F).writeSpad (j.addr q.2.2) (stampBytes 1 j.seq)).updEntry j.team j.entry fun e =>
        { e with dests := e.dests.map fun d => if d.takes j then { state := .absent } else d }).endJob j (some f)) := by
    unfold State.failFill
    simp only [h.dests, h.places, h.shadows, List.zip_cons_cons, List.zip_nil_right, List.foldl_cons, List.foldl_nil, h.takes,
      hserves, ↓reduceIte]
    exact ⟨_, congrArg (State.endJob · j (some f)) (failFlushes_none hj)⟩
  obtain ⟨F, heq⟩ := heq
  obtain ⟨hteams, hsto⟩ := endJob_same (((s.updFly F).writeSpad (j.addr q.2.2) (stampBytes 1 j.seq)).updEntry j.team j.entry fun e =>
        { e with dests := e.dests.map fun d => if d.takes j then { state := .absent } else d }) j (some f)
  have hentry := entry_updEntry_self (s := (s.updFly F).writeSpad (j.addr q.2.2) (stampBytes 1 j.seq)) h.team h.entry fun e =>
        { e with dests := e.dests.map fun d => if d.takes j then { state := .absent } else d }
  have hdests : (((s.updFly F).writeSpad (j.addr q.2.2) (stampBytes 1 j.seq)).entry j.team j.entry).dests = [d] := h.dests
  rw [heq]
  refine ⟨?_, ?_, by rw [hsto]; rfl⟩
  · rw [StampAt, hsto]
    exact writeSpad_stamp (s := s.updFly F) (wf_parts hi).2.1 _ _ _
  · rw [State.entry, State.team, hteams]
    refine (congrArg Entry.dests hentry).trans ?_
    simp only [hdests, List.map_cons, List.map_nil, h.takes, ↓reduceIte]

/-- A beat none of whose source bytes can be read ends its fill. -/
theorem beat_fails {s : State} {j : Job} {off : Nat} (hne : beatBytes s j off ≠ [])
    (hb : ∀ o ∈ beatBytes s j off, ∃ f, s.sourceByte j o = .bad f) : ∃ f, s.beat j off = s.failFill j f := by
  unfold State.beat
  dsimp only
  rw [← beatBytes]
  split
  next f _ => exact ⟨f, rfl⟩
  next hnone =>
    obtain ⟨o, ho⟩ := List.exists_mem_of_ne_nil _ hne
    obtain ⟨f, hf⟩ := hb o ho
    have := List.findSome?_eq_none_iff.mp hnone _ (List.mem_map_of_mem ho)
    rw [hf] at this
    exact nomatch this

/-! The stamp of a fill (R222). -/

theorem settleFill_same (s : State) (id : Nat) : (s.settleFill id).teams = s.teams ∧ (s.settleFill id).sto = s.sto := by
  unfold State.settleFill
  split
  · exact ⟨rfl, rfl⟩
  · split
    exacts [⟨rfl, rfl⟩, endJob_same ..]

/-- The stamp of a destination whose bytes have all landed. -/
theorem stampDest_lands {s : State} {j : Job} {k : Nat} {d : Dest} {q : Option Nat × Nat × Nat} (hi : MemoryInv s)
    (hm : j.team < s.teams.length) (he : j.entry < (s.team j.team).entries.length) (hs : j.shadows = [])
    (hd : (s.entry j.team j.entry).dests[k]? = some d) (hq : (region j.desc).dests[k]? = some q) (ht : d.takes j = true)
    (hz : (region j.desc).size ≤ d.landed.length) : StampAt (s.stampDest j k) (j.addr q.2.2) 0 j.seq ∧
      ((((s.stampDest j k).entry j.team j.entry).dests[k]?).getD {}).state = .present := by
  have hk : k < (s.entry j.team j.entry).dests.length := (List.getElem?_eq_some_iff.mp hd).1
  have heq : s.stampDest j k = ((s.writeSpad (j.addr q.2.2) (stampBytes 0 j.seq)).updEntry j.team j.entry fun e =>
      { e with dests := upd e.dests k fun _ => { state := .present } }).settleFill j.id := by
    unfold State.stampDest
    simp only [hs, List.find?_nil, hd, hq, ht, landedAll, hz, decide_true, Bool.and_self, ↓reduceIte]
  obtain ⟨hteams, hsto⟩ := settleFill_same ((s.writeSpad (j.addr q.2.2) (stampBytes 0 j.seq)).updEntry j.team j.entry fun e =>
      { e with dests := upd e.dests k fun _ => { state := .present } }) j.id
  rw [heq]
  refine ⟨?_, ?_⟩
  · rw [StampAt, hsto]
    exact writeSpad_stamp (wf_parts hi).2.1 _ _ _
  · rw [State.entry, State.team, hteams]
    exact congrArg Dest.state (dest_updEntry (s := s.writeSpad (j.addr q.2.2) (stampBytes 0 j.seq)) (d := { state := .present }) hm he hk)

/-! A flush is written piece by piece (R225, R237). -/

/-- The operations and the jobs under way are the same. -/
def SameWork (s t : State) : Prop := t.fly.ops = s.fly.ops ∧ t.fly.jobs = s.fly.jobs

theorem SameWork.trans {s t u : State} (h : SameWork s t) (h' : SameWork t u) : SameWork s u :=
  ⟨h'.1.trans h.1, h'.2.trans h.2⟩

theorem Kept.work {s t : State} (h : Kept s t) : SameWork s t := ⟨h.ops, h.same fun x => x.fly.jobs⟩

theorem writeAt_work (s : State) (p : Place) (bs : List Byte) : SameWork s (s.writeAt p bs) := by
  cases p with
  | mem a =>
    have h : s.writeAt (.mem a) bs = s.writePhys a bs := rfl
    rw [h]
    exact (writePhys_kept s a bs).work
  | spad a | ws n | peer e k => exact ⟨rfl, rfl⟩

theorem writeRuns_work (s : State) (c : Context) (rs : List (Nat × Place × List Byte)) : SameWork s (s.writeRuns c rs).1 := by
  unfold State.writeRuns
  refine List.foldlRecOn (motive := fun x : State × List (Nat × Nat) => SameWork s x.1) _ _ ⟨rfl, rfl⟩ fun x hx r _ => ?_
  split
  · split
    · exact hx
    · exact hx.trans ⟨rfl, rfl⟩
  · exact hx.trans (writeAt_work ..)

theorem flushShadow_work (s : State) (j : Job) : SameWork s (s.flushShadow j) := by
  unfold State.flushShadow
  exact List.foldlRecOn (motive := fun t : State => SameWork s t) _ _ ⟨rfl, rfl⟩ fun t ht _ _ => ht.trans ⟨rfl, rfl⟩

/-- The writes of a flush's bytes, and what they note. -/
theorem flushed_work (s : State) (j : Job) (c : Context) (vas : List Nat) (win : Nat) (os : List Nat) :
    SameWork s ((((if j.wrote = [] then s.flushShadow j else s).noteTlbs c vas).flushBytes j win os).1.1) := by
  have h1 : SameWork s (if j.wrote = [] then s.flushShadow j else s) := by
    split
    exacts [flushShadow_work .., ⟨rfl, rfl⟩]
  obtain ⟨tl, ht⟩ := noteTlbs_eq (if j.wrote = [] then s.flushShadow j else s) c vas
  have h2 : SameWork s ((if j.wrote = [] then s.flushShadow j else s).noteTlbs c vas) := by
    rw [ht]
    exact h1
  exact h2.trans (writeRuns_work ..)

/-- The operation that counts the parts of a flush is there, with its stamp. -/
theorem finishParts_op {s : State} {id k : Nat} {pc : Dword} {c : Ctr} {stamp : Option (Nat × Nat)} {reqs : List (Nat × Nat)}
    {lines : List Nat} {moved : List (Nat × Nat)} {err : Option Failure}
    (h : ∀ o ∈ s.fly.ops, o.id = id → ∃ rs e, o.kind = .parts rs e c stamp) :
    ∃ o ∈ (s.finishParts id k pc c stamp reqs lines moved err).fly.ops, o.id = id ∧ ∃ rs e, o.kind = .parts rs e c stamp := by
  unfold State.finishParts
  dsimp only [State.updFly]
  split
  next hk =>
    obtain ⟨o, ho, hid⟩ := List.any_eq_true.mp hk
    have hid : o.id = id := beq_iff_eq.mp hid
    obtain ⟨rs, e, hkind⟩ := h o ho hid
    refine ⟨_, List.mem_map_of_mem ho, ?_⟩
    rw [hkind]
    simp only [hid, ↓reduceIte, true_and]
    exact ⟨_, _, rfl⟩
  · exact ⟨_, List.mem_append_right _ (List.mem_singleton_self _), rfl, _, _, rfl⟩

theorem finishParts_jobs (s : State) (id k : Nat) (pc : Dword) (c : Ctr) (stamp : Option (Nat × Nat)) (reqs : List (Nat × Nat))
    (lines : List Nat) (moved : List (Nat × Nat)) (err : Option Failure) :
    (s.finishParts id k pc c stamp reqs lines moved err).fly.jobs = s.fly.jobs := rfl

/-- Bytes that have not all been written are left, as many as are wanting. -/
theorem lacking_ne_nil {z : Nat} {l : List Nat} (h : l.length < z) : (List.range z).filter (fun o => !l.contains o) ≠ [] := by
  intro hnil
  have hsub : List.range z ⊆ l := fun o ho => by simpa using List.filter_eq_nil_iff.mp hnil o ho
  have := (List.nodup_range (n := z)).length_le_of_subset hsub
  rw [List.length_range] at this
  omega

/-- A flush that has begun goes on: its operation is there, and it has left, or more of its bytes have been written. -/
theorem doFlush_goes {s : State} {j : Job} {i : Nat} {q : Option Nat × Nat × Nat} (hq : (region j.desc).dests[i]? = some q)
    (hj : j ∈ s.fly.jobs)
    (h : ∀ o ∈ s.fly.ops, o.id = j.id → ∃ rs e, o.kind = .parts rs e .st (some (j.addr q.2.2, j.seq))) :
    (∃ o ∈ (s.doFlush j i).fly.ops, o.id = j.id ∧ ∃ rs e, o.kind = .parts rs e .st (some (j.addr q.2.2, j.seq))) ∧
      ((∀ y ∈ (s.doFlush j i).fly.jobs, y.id ≠ j.id) ∨
        ∃ y ∈ (s.doFlush j i).fly.jobs, y.id = j.id ∧ j.wrote.length < y.wrote.length) := by
  have hleft : ∀ y ∈ s.fly.jobs.filter (fun x => decide (x.id ≠ j.id)), y.id ≠ j.id := fun y hy => by
    simpa using (List.mem_filter.mp hy).2
  unfold State.doFlush
  rw [hq]
  dsimp only
  split
  · exact ⟨finishParts_op h, .inl hleft⟩
  · generalize hos : s.someOf ((List.range (region j.desc).size).filter fun o => !j.wrote.contains o) = os
    obtain ⟨hops, hjobs⟩ := flushed_work s j (s.ctx (s.launch (s.team j.team).launch).ctx)
      (if (region j.desc).kind = 1 then [] else os.map (region j.desc).srcOf) q.2.1 os
    generalize State.flushBytes _ j q.2.1 os = r at hops hjobs ⊢
    split
    · exact ⟨finishParts_op fun o ho => h o (hops ▸ ho), .inl fun y hy => hleft y (hjobs ▸ hy)⟩
    · next hmore =>
      refine ⟨finishParts_op fun o ho => h o (hops ▸ ho), .inr ⟨{ j with wrote := j.wrote ++ os }, ?_, rfl, ?_⟩⟩
      · exact List.mem_map.mpr ⟨j, hjobs ▸ hj, if_pos rfl⟩
      · have hless : (j.wrote ++ os).length < (region j.desc).size := by
          refine Nat.lt_of_not_le fun hle => hmore ?_
          rw [decide_eq_true hle, Bool.or_true]
        have hne : os ≠ [] := hos ▸ someOf_ne_nil (lacking_ne_nil (by rw [List.length_append] at hless; omega))
        rw [List.length_append]
        exact Nat.lt_add_of_pos_right (List.length_pos_iff.mpr hne)

/-- Settles O41: each event as its definition says; the bytes of a beat and of a flush one after the other. -/
theorem fillsAndFlushesLand : Obligations.FillsAndFlushesLand := by
  unfold Obligations.FillsAndFlushesLand
  intro s id off k j hjob hi hm he ds places z beat stamped
  obtain ⟨rfl, hmem⟩ := job_some hjob
  refine ⟨fun hf hq hroom => ?_, fun d q hf hq hz hl hfirst hd hp ht hs => ⟨fun b hb => ?_, fun hb hone => ?_⟩,
    fun d q hf hqd hs hd hp ht hz => ?_, fun i q hf hb hp => ⟨fun hst => ?_, fun hst => ?_⟩, fun i q hf hb hp hid hops => ?_⟩
  · have hexec : exec (.fillEntersQueue j.id) s = .next (s.enterQueue j) := by
      rw [exec_fillEntersQueue, execFillEntersQueue, hjob]
      simp only [hf, hq, hroom, Option.isNone_none, Bool.not_false, Bool.and_self, ↓reduceIte]
    have hentry := enterQueue_entry (s := s) hm he
    exact ⟨_, hexec, by rw [hentry], by rw [hentry], _, List.mem_map.mpr ⟨j, hmem, if_pos rfl⟩, rfl, rfl, rfl⟩
  · have hwin : OneWindow s j d q := ⟨hm, he, hd, hp, ht, hs⟩
    obtain ⟨⟨d', hone, hlanded⟩, hbytes, hothers, -, hkept⟩ :=
      beat_lands (off := off) hwin hi fun o ho => hb o (beatBytes_of ho)
    refine ⟨_, beatBytes s j off, beat_exec hjob hf hq hz hl hfirst, beatBytes_ne_nil hz hl hfirst, fun o ho => beatBytes_of ho,
      fun o ho => ⟨hbytes o ho, d', ?_, List.contains_iff_mem.mpr (hlanded o ho)⟩, hothers, hkept⟩
    rw [hone.dests]
    exact List.mem_singleton_self d'
  · have hwin : OneWindow s j d q := ⟨hm, he, hd, hp, ht, hs⟩
    obtain ⟨f, hfail⟩ := beat_fails (beatBytes_ne_nil hz hl hfirst) fun o ho => hb o (beatBytes_of ho)
    exact ⟨_, beat_exec hjob hf hq hz hl hfirst, hfail ▸ failFill_one hwin hi (fun y hy => hone y hy ▸ hf) f⟩
  · have hexec : exec (.fillStampWrite j.id k) s = .next (s.stampDest j k) := by
      rw [exec_fillStampWrite, execFillStampWrite, hjob]
      simp only [hf, hqd, Option.isNone_none, Bool.and_self, ↓reduceIte]
    exact ⟨_, hexec, stampDest_lands hi hm he hs hd hp ht hz⟩
  · rw [exec_flushBegin, execFlushBegin, hjob]
    dsimp only
    rw [hf]
    dsimp only
    rw [hb, hst]
    rfl
  · rw [exec_flushBegin, execFlushBegin, hjob]
    dsimp only
    rw [hf]
    dsimp only
    rw [hb, hst, hp]
    rfl
  · have hexec : exec (.flushComplete j.id) s = .next (s.doFlush j i) := by
      rw [exec_flushComplete, execFlushComplete, hjob]
      dsimp only
      rw [hf]
      exact if_pos hb
    exact ⟨_, hexec, doFlush_goes hp hmem hops⟩

end Sys2Proof.Proofs
end

section
/-! PROOFS. What operations bring, and when they are performed (R180 to R183, R222, R234, R236, R246). -/

namespace Sys2Proof.Proofs

open Sys2Proof.Machine Sys2Proof.Safety Sys2Proof.Laws

theorem exec_loadValueLands (n : Nat) (s : State) : exec (.loadValueLands n) s = execLoadValueLands n s := rfl

theorem exec_storePerformed (n : Nat) (s : State) : exec (.storePerformed n) s = execStorePerformed n s := rfl

theorem exec_countedOpComplete (n : Nat) (s : State) : exec (.countedOpComplete n) s = execCountedOpComplete n s := rfl

/-! Operations by their numbers. -/

theorem op_some {s : State} {id : Nat} {o : Op} (h : s.op id = some o) : o.id = id ∧ o ∈ s.fly.ops :=
  ⟨by simpa using List.find?_some h, List.mem_of_find?_eq_some h⟩

/-- An operation whose kind has been set. -/
theorem op_setOp (s : State) (id : Nat) (k : OpKind) : (s.setOp id k).op id = (s.op id).map fun o => { o with kind := k } := by
  have hf : (fun o : Op => o.id == id) ∘ (fun o : Op => if o.id = id then { o with kind := k } else o) = fun o => o.id == id := by
    funext o
    simp only [Function.comp_apply]
    split <;> rfl
  simp only [State.op, State.setOp, State.updFly, List.find?_map, hf]
  cases h : s.fly.ops.find? fun o => o.id == id with
  | none => rfl
  | some o => simp only [Option.map_some, show o.id = id by simpa using List.find?_some h, ↓reduceIte]

/-! Registers that wait for an operation (R182). -/

/-- The register that a landing leaves. -/
theorem reg_landRegs {s : State} {k : Nat} (hk : k < s.threads.length) (id n : Nat) (xs : List Reg) (i : Nat)
    (hi : i < (s.thr k).v.length) : ((s.landRegs k id (.v n) xs).thr k).reg i =
      if n ≤ i ∧ i < n + xs.length ∧ (s.thr k).reg i = .empty id then (xs[i - n]?).getD (.full 0) else (s.thr k).reg i := by
  have hthr : (s.landRegs k id (.v n) xs).thr k = { s.thr k with v := landList (s.thr k).v n id xs } := thr_updThr_self hk _
  rw [hthr, Thread.reg, Thread.reg, landList, getElem?_mapFrom, Nat.zero_add, List.getElem?_eq_getElem hi]
  simp only [Option.map_some, Option.getD_some]
  by_cases hn : i < n
  · rw [if_pos hn, if_neg fun h => absurd h.1 (Nat.not_le.mpr hn)]
  · rw [if_neg hn]
    by_cases hx : i - n < xs.length
    · simp only [List.getElem?_eq_getElem hx, Reg.land, Option.getD_some]
      by_cases he : (s.thr k).v[i] = .empty id
      · rw [if_pos he, if_pos ⟨Nat.le_of_not_lt hn, by omega, he⟩]
      · rw [if_neg he, if_neg fun h => he h.2.2]
    · rw [List.getElem?_eq_none (Nat.le_of_not_lt hx), if_neg fun h => hx (by omega)]

theorem landRegs_length (s : State) (k id n : Nat) (xs : List Reg) :
    ((s.landRegs k id (.v n) xs).thr k).v.length = (s.thr k).v.length :=
  thr_updThr_part (part := fun x => x.v.length) (f := fun x => { x with v := landList x.v n id xs })
    (fun _ => length_mapFrom ..) s k k

/-- A thread with registers is one that stands there. -/
theorem thread_of_reg {s : State} {k i : Nat} (h : i < (s.thr k).v.length) : k < s.threads.length := by
  refine Nat.lt_of_not_le fun hle => ?_
  rw [State.thr, List.getElem?_eq_none hle] at h
  exact absurd h (Nat.not_lt_zero i)

/-! Loads that are performed. -/

theorem loadsBefore_nil (s : State) (n : Nat) : s.loadsBefore n [] = [] := by
  cases n with
  | zero => rfl
  | succ n =>
    have hc : (s.fly.ops.filter Op.isLoad).filter (fun o => ([] : List Nat).contains o.id) = [] :=
      List.filter_eq_nil_iff.mpr fun _ _ h => Bool.false_ne_true h
    simp only [State.loadsBefore, hc, List.any_nil, List.filter_false, List.map_nil, List.append_nil,
      List.flatten_nil]
    rfl

/-- The loads asked for are among those performed. -/
theorem mem_loadsBefore {s : State} {x : Nat} (n : Nat) {ids : List Nat} (h : x ∈ ids) : x ∈ s.loadsBefore n ids := by
  induction n generalizing ids with
  | zero => exact h
  | succ n ih =>
    unfold State.loadsBefore
    dsimp only
    split
    · exact h
    · exact ih (mem_dedup_of_mem (List.mem_append_left _ (List.mem_append_left _ h)))

/-- Where no load is asked for, none is performed. -/
theorem sampleLoads_none {s : State} {p : Op → Bool} (h : ∀ y ∈ s.fly.ops, y.isLoad = true → p y = false) : s.sampleLoads p = s := by
  have hnone : (s.fly.ops.filter Op.isLoad).filter p = [] := List.filter_eq_nil_iff.mpr fun y hy hp => by
    rw [h y (List.mem_filter.mp hy).1 (List.mem_filter.mp hy).2] at hp
    exact Bool.false_ne_true hp
  have hc : (s.fly.ops.filter Op.isLoad).filter (fun o => ([] : List Nat).contains o.id) = [] :=
    List.filter_eq_nil_iff.mpr fun _ _ h => Bool.false_ne_true h
  simp only [State.sampleLoads, hnone, List.map_nil, loadsBefore_nil, hc, List.foldl_nil]

/-- A load that is performed twice is performed once. -/
theorem sampleOne_fills {s : State} {o : Op} {dst : Opnd} {words : Nat} {q : Place} {n : Nat} {sext : Bool} {ctr : Option Ctr}
    {sc : Scope} {view : List Nat} {bs : List Byte} (ho : s.op o.id = some o)
    (hk : o.kind = .load dst words q n sext ctr sc none view) (hb : s.seenWith view o.core q n sc = some bs) :
    (s.sampleOne o.id).op o.id = some { o with kind := .fill dst words (.ok (extendBytes sext bs)) ctr } := by
  have hops : (s.sampleOne o.id).fly.ops = (s.setOp o.id (.fill dst words (.ok (extendBytes sext bs)) ctr)).fly.ops := by
    unfold State.sampleOne
    rw [ho]
    dsimp only
    rw [hk]
    dsimp only
    rw [hb]
    dsimp only
    split
    · exact ((noteVisitor_noted ..).trans (noteToken_noted ..)).same fun x => x.fly.ops
    · rfl
  have hop : (s.sampleOne o.id).op o.id = (s.setOp o.id (.fill dst words (.ok (extendBytes sext bs)) ctr)).op o.id := by
    rw [State.op, State.op, hops]
  rw [hop, op_setOp, ho]
  rfl

theorem sampleOne_of_fill {s : State} {o : Op} {id : Nat} {dst : Opnd} {words : Nat} {val : Except Failure Dword} {ctr : Option Ctr}
    (ho : s.op id = some o) (hk : o.kind = .fill dst words val ctr) : s.sampleOne id = s := by
  unfold State.sampleOne
  rw [ho]
  dsimp only
  rw [hk]

/-- Where one load is under way, it alone is performed. -/
theorem sampleLoads_one {s : State} {o : Op} {dst : Opnd} {words : Nat} {q : Place} {n : Nat} {sext : Bool} {ctr : Option Ctr}
    {sc : Scope} {view : List Nat} {bs : List Byte} (ho : s.op o.id = some o)
    (hk : o.kind = .load dst words q n sext ctr sc none view) (hb : s.seenWith view o.core q n sc = some bs)
    (hone : ∀ y ∈ s.fly.ops, y.isLoad = true → y = o) : s.sampleLoads (fun x => x.id == o.id) = s.sampleOne o.id := by
  have hfill := sampleOne_fills ho hk hb
  have hfold : ∀ l : List Op, (∀ y ∈ l, y = o) → l ≠ [] → l.foldl (fun s o => s.sampleOne o.id) s = s.sampleOne o.id := by
    intro l hl hne
    obtain ⟨y, r, rfl⟩ := List.exists_cons_of_ne_nil hne
    rw [List.foldl_cons, hl y List.mem_cons_self]
    refine List.foldlRecOn (motive := fun t : State => t = s.sampleOne o.id) _ _ rfl fun t ht z hz => ?_
    rw [ht, hl z (List.mem_cons_of_mem _ hz)]
    exact sampleOne_of_fill hfill rfl
  have hload : o.isLoad = true := by rw [Op.isLoad, hk]
  have hmem : o ∈ s.fly.ops.filter Op.isLoad := List.mem_filter.mpr ⟨(op_some ho).2, hload⟩
  have hids : o.id ∈ s.loadsBefore (s.fly.ops.filter Op.isLoad).length
      (((s.fly.ops.filter Op.isLoad).filter fun x => x.id == o.id).map Op.id) :=
    mem_loadsBefore _ (List.mem_map_of_mem (List.mem_filter.mpr ⟨hmem, beq_self_eq_true _⟩))
  refine hfold _ (fun y hy => ?_) (List.ne_nil_of_mem (List.mem_filter.mpr ⟨hmem, List.contains_iff_mem.mpr hids⟩))
  obtain ⟨hops, hl⟩ := List.mem_filter.mp (List.mem_filter.mp hy).1
  exact hone y hops hl

/-! What performing loads leaves alone. -/

theorem noteVisitor_ctxs (s : State) (core line : Nat) (sc : Scope) : (s.noteVisitor core line sc).ctxs = s.ctxs := by
  unfold State.noteVisitor
  dsimp only
  split
  · rfl
  · rfl
  · split
    · rfl
    · split <;> rfl

theorem noteToken_ctxs (s : State) (core line : Nat) : (s.noteToken core line).ctxs = s.ctxs := by
  unfold State.noteToken
  split <;> rfl

theorem sampleOne_ctxs (s : State) (id : Nat) : (s.sampleOne id).ctxs = s.ctxs := by
  obtain ⟨seen, hseen⟩ := exists_eq (a' := State.seenWith)
  rw [State.sampleOne, ← hseen]
  split
  · rfl
  · split
    · dsimp only
      split
      · exact (noteToken_ctxs ..).trans (noteVisitor_ctxs ..)
      · rfl
    · rfl

theorem sampleOne_ids (s : State) (id : Nat) : (s.sampleOne id).fly.ops.map Op.id = s.fly.ops.map Op.id := by
  obtain ⟨seen, hseen⟩ := exists_eq (a' := State.seenWith)
  have hset : ∀ k, (s.setOp id k).fly.ops.map Op.id = s.fly.ops.map Op.id := fun k => by
    refine (List.map_map ..).trans (List.map_congr_left fun x _ => ?_)
    dsimp only [Function.comp_apply]
    split <;> rfl
  rw [State.sampleOne, ← hseen]
  split
  · rfl
  · split
    · dsimp only
      split
      · exact (congrArg (List.map Op.id) (((noteVisitor_noted ..).trans (noteToken_noted ..)).same fun x => x.fly.ops :)).trans (hset _)
      · exact hset _
    · rfl

theorem sampleLoads_ctxs (s : State) (p : Op → Bool) : (s.sampleLoads p).ctxs = s.ctxs :=
  List.foldlRecOn (motive := fun t : State => t.ctxs = s.ctxs) _ _ rfl fun _ ht o _ => (sampleOne_ctxs _ o.id).trans ht

theorem sampleLoads_ids (s : State) (p : Op → Bool) : (s.sampleLoads p).fly.ops.map Op.id = s.fly.ops.map Op.id :=
  List.foldlRecOn (motive := fun t : State => t.fly.ops.map Op.id = s.fly.ops.map Op.id) _ _ rfl
    fun _ ht o _ => (sampleOne_ids _ o.id).trans ht

section

variable {s t : State} (h : Sampled s t)
include h

theorem Sampled.same {β : Type} (f : State → β) (hf : ∀ (x : State) ops tl vs hd cs, f { x with
    fly := { x.fly with ops := ops }, sto := { x.sto with tlb := tl, visitors := vs, held := hd }, ctxs := cs } = f x) : f t = f s := by
  have hu := Noted.same (s := { s with fly := { s.fly with ops := t.fly.ops } }) h f
  exact (hf t t.fly.ops _ _ _ _).symm.trans (hu.trans (hf s _ s.sto.tlb s.sto.visitors s.sto.held s.ctxs))

theorem Sampled.persistent : t.sto.persistent = s.sto.persistent := h.same (fun x => x.sto.persistent) fun _ _ _ _ _ _ => rfl

theorem Sampled.threads : t.threads = s.threads := h.same State.threads fun _ _ _ _ _ _ => rfl

end

/-! Operations that end (R182, R450). -/

/-- No context is traced. -/
def NoDebug (s : State) : Prop := ∀ c ∈ s.ctxs, c.debug = none

theorem NoDebug.sampled {s : State} (h : NoDebug s) (batch : Nat) : s.sampled batch = s := by
  unfold State.sampled
  split
  · rfl
  · refine List.foldlRecOn (motive := fun t : State => t = s) _ _ rfl fun t ht c hc => ?_
    rw [h c hc]
    exact ht

theorem NoDebug.ctxOf {s : State} (h : NoDebug s) (k : Nat) : (s.ctxOf k).debug = none := by
  unfold State.ctxOf State.ctx
  cases hf : s.ctxs.find? fun x => x.num == (s.launchOf k).ctx with
  | none => rfl
  | some c => exact h c (List.mem_of_find?_eq_some hf)

theorem chargeLines_eq {s : State} (h : NoDebug s) (c k : Nat) (ls : List (Nat × Nat)) :
    ∃ cs, s.chargeLines c k ls = { s with ctxs := cs } ∧ ∀ x ∈ cs, x.debug = none := by
  unfold State.chargeLines
  split
  · exact ⟨s.ctxs, rfl, h⟩
  · refine ⟨_, rfl, fun x hx => ?_⟩
    obtain ⟨y, hy, rfl⟩ := List.mem_map.mp hx
    split
    exacts [(charge_debug ..).1.trans (h y hy), h y hy]

/-- An operation that ends leaves the list, and its lines are charged. -/
theorem NoDebug.dropOp {s : State} (h : NoDebug s) (o : Op) :
    ∃ cs, s.dropOp o = { s with fly := { s.fly with ops := s.fly.ops.filter fun x => x.id ≠ o.id }, ctxs := cs } := by
  unfold State.dropOp
  dsimp only
  obtain ⟨cs, hc, hd⟩ := chargeLines_eq (s := s.updFly fun f => { f with ops := s.fly.ops.filter fun x => x.id ≠ o.id }) h
    (s.launchOf o.thread).ctx o.core (o.moves.filter fun l => !((s.fly.ops.filter fun x => x.id ≠ o.id).any fun x =>
      x.batch == o.batch && x.moves.contains l))
  have hq : NoDebug { s.updFly (fun f => { f with ops := s.fly.ops.filter fun x => x.id ≠ o.id }) with ctxs := cs } := hd
  exact ⟨cs, (congrArg (fun t : State => t.sampled o.batch) hc).trans (hq.sampled _)⟩

theorem served_eq (s : State) (o : Op) : ∃ ps, s.served o = s.updSto fun m => { m with persistent := ps } := by
  unfold State.served
  split
  exacts [⟨s.sto.persistent, rfl⟩, ⟨_, rfl⟩]

theorem passed_none {s : State} (h : s.sto.persistent = []) (o : Op) : s.passed o = false := by
  unfold State.passed
  split
  · rfl
  · rw [h]
    rfl

/-! Landing (R182). -/

/-- A value or failure on its way lands. -/
theorem fill_lands {s : State} {o : Op} {dst : Opnd} {words : Nat} {val : Except Failure Dword} {ctr : Option Ctr}
    (ho : s.op o.id = some o) (hone : ∀ y ∈ s.fly.ops, y.id = o.id → y = o) (hk : o.kind = .fill dst words val ctr)
    (hp : s.passed o = false) : exec (.loadValueLands o.id) s = .next ((s.served o).landFill o dst words val ctr) := by
  have hload : o.isLoad = false := by rw [Op.isLoad, hk]
  have hheld : o.heldAt s = false := by rw [Op.heldAt, hk]
  have hnone : s.sampleLoads (fun x => x.id == o.id) = s := sampleLoads_none fun y hy hl => by
    refine Bool.eq_false_iff.mpr fun he => ?_
    rw [hone y hy (beq_iff_eq.mp he), hload] at hl
    exact Bool.false_ne_true hl
  rw [exec_loadValueLands, execLoadValueLands, ho]
  dsimp only
  rw [hheld, hload, hnone, ho, Bool.false_and, Bool.or_self, if_neg Bool.false_ne_true]
  dsimp only
  rw [State.landOp, hk]
  dsimp only
  rw [hp, if_neg Bool.false_ne_true]

/-- The registers that bytes fill. -/
theorem fillRegs_ok {words : Nat} (hw : words ≤ 2) (x : Dword) : (fillRegs words (.ok x)).length = words ∧
    ∀ i < words, (fillRegs words (.ok x))[i]? = some (.full (if i = 0 then lo32 x else hi32 x)) := by
  refine ⟨by simp [fillRegs, hw], fun i hi => ?_⟩
  have h2 : i < 2 := Nat.lt_of_lt_of_le hi hw
  simp only [fillRegs, List.getElem?_map, List.getElem?_take, hi, ↓reduceIte]
  match i, h2 with
  | 0, _ => rfl
  | 1, _ => rfl

/-- A load on its way is performed, and lands. -/
theorem load_lands {s : State} {o : Op} {d words : Nat} {q : Place} {n : Nat} {sext : Bool} {sc : Scope} {view : List Nat}
    {bs : List Byte} (ho : s.op o.id = some o) (hk : o.kind = .load (.v d) words q n sext none sc none view)
    (hone : ∀ y ∈ s.fly.ops, y.isLoad = true → y = o) (hp : s.sto.persistent = []) (hh : o.heldAt s = false) (hd : NoDebug s)
    (hb : s.seenWith view o.core q n sc = some bs) :
    ∃ t, exec (.loadValueLands o.id) s = .next t ∧ SameMemory s t ∧ (∀ y ∈ t.fly.ops, y.id ≠ o.id) ∧
      t.thr o.thread = (s.landRegs o.thread o.id (.v d) (fillRegs words (.ok (extendBytes sext bs)))).thr o.thread := by
  have hs : Sampled s (s.sampleOne o.id) := sampleOne_sampled s o.id
  have hfill := sampleOne_fills ho hk hb
  have hpass : (s.sampleOne o.id).passed { o with kind := .fill (.v d) words (.ok (extendBytes sext bs)) none } = false :=
    passed_none (hs.persistent.trans hp) _
  have hexec : exec (.loadValueLands o.id) s = .next (((s.sampleOne o.id).served
      { o with kind := .fill (.v d) words (.ok (extendBytes sext bs)) none }).landFill
      { o with kind := .fill (.v d) words (.ok (extendBytes sext bs)) none } (.v d) words (.ok (extendBytes sext bs)) none) := by
    rw [exec_loadValueLands, execLoadValueLands, ho]
    dsimp only
    rw [hh, passed_none hp, Bool.and_false, Bool.or_self, if_neg Bool.false_ne_true, sampleLoads_one ho hk hb hone, hfill]
    dsimp only
    rw [State.landOp]
    dsimp only
    rw [hpass, if_neg Bool.false_ne_true]
  obtain ⟨ps, hps⟩ := served_eq (s.sampleOne o.id) { o with kind := .fill (.v d) words (.ok (extendBytes sext bs)) none }
  have hdebug : NoDebug (((s.sampleOne o.id).updSto fun m => { m with persistent := ps }).landRegs o.thread o.id (.v d)
      (fillRegs words (.ok (extendBytes sext bs)))) := fun c hc => hd c (sampleOne_ctxs s o.id ▸ hc)
  obtain ⟨cs, hcs⟩ := hdebug.dropOp { o with kind := .fill (.v d) words (.ok (extendBytes sext bs)) none }
  have hthr : (s.sampleOne o.id).threads = s.threads := hs.threads
  refine ⟨_, hexec, ?_, ?_, ?_⟩ <;> rw [hps, State.landFill] <;> dsimp only <;> rw [hcs]
  · exact sameMemory_trans hs.memory (memory_same rfl rfl rfl rfl rfl)
  · exact fun y hy => of_decide_eq_true (List.mem_filter.mp hy).2
  · simp only [State.landRegs, State.thr, State.updThr, State.updSto, hthr]

/-! Stores that are performed (R234, R236, R246). -/

/-- What bytes of memory and threads are read from is as it was, and the same contexts stand. -/
structure Quiet (s t : State) : Prop where
  mem : t.sto.mem = s.sto.mem
  dead : t.sto.dead = s.sto.dead
  spad : t.sto.spad = s.sto.spad
  ws : t.sto.ws = s.sto.ws
  fresh : t.fresh = s.fresh
  threads : t.threads = s.threads
  capacity : t.capacity = s.capacity

theorem Quiet.trans {s t u : State} (h : Quiet s t) (h' : Quiet t u) : Quiet s u :=
  ⟨h'.mem.trans h.mem, h'.dead.trans h.dead, h'.spad.trans h.spad, h'.ws.trans h.ws, h'.fresh.trans h.fresh,
    h'.threads.trans h.threads, h'.capacity.trans h.capacity⟩

theorem Quiet.updFly (s : State) (f : Flight → Flight) : Quiet s (s.updFly f) := ⟨rfl, rfl, rfl, rfl, rfl, rfl, rfl⟩

theorem Quiet.memory {s t : State} (h : Quiet s t) : SameMemory s t := memory_same h.mem h.dead h.spad h.ws h.fresh

theorem Sampled.quiet {s t : State} (h : Sampled s t) : Quiet s t :=
  ⟨h.same (fun x => x.sto.mem) fun _ _ _ _ _ _ => rfl, h.same (fun x => x.sto.dead) fun _ _ _ _ _ _ => rfl,
    h.same (fun x => x.sto.spad) fun _ _ _ _ _ _ => rfl, h.same (fun x => x.sto.ws) fun _ _ _ _ _ _ => rfl,
    h.same State.fresh fun _ _ _ _ _ _ => rfl, h.threads, h.same State.capacity fun _ _ _ _ _ _ => rfl⟩

theorem served_quiet (s : State) (o : Op) : Quiet s (s.served o) := by
  obtain ⟨ps, h⟩ := served_eq s o
  rw [h]
  exact ⟨rfl, rfl, rfl, rfl, rfl, rfl, rfl⟩

/-- An operation once the older stores of a core have been shown. -/
def shownBy (core : Nat) (ids : List Nat) (x : Op) : Op :=
  match x.kind with
  | .store q bs _ c => if x.core = core ∧ ids.contains x.id then { x with kind := .store q bs true c } else x
  | _ => x

theorem showOlder_eq (s : State) (o : Op) :
    s.showOlder o = s.updFly fun f => { f with ops := f.ops.map (shownBy o.core ((s.olderOps o.id).map Op.id)) } := rfl

theorem showOlder_quiet (s : State) (o : Op) : Quiet s (s.showOlder o) := showOlder_eq s o ▸ Quiet.updFly ..

/-- Showing changes nothing that tells which stores are performed together. -/
theorem shownBy_fields (core : Nat) (ids : List Nat) (x : Op) : (shownBy core ids x).id = x.id ∧
    (shownBy core ids x).batch = x.batch ∧ (shownBy core ids x).elem = x.elem ∧ (shownBy core ids x).thread = x.thread ∧
    (shownBy core ids x).va = x.va ∧ (shownBy core ids x).target = x.target := by
  unfold shownBy
  split
  · rename_i hk
    split
    · refine ⟨rfl, rfl, rfl, rfl, rfl, ?_⟩
      rw [Op.target, Op.target, hk]
    · exact ⟨rfl, rfl, rfl, rfl, rfl, rfl⟩
  · exact ⟨rfl, rfl, rfl, rfl, rfl, rfl⟩

/-- Whether an operation is a store. -/
def isStore (x : Op) : Bool := match x.kind with | .store _ _ _ _ => true | _ => false

theorem shownBy_isStore (core : Nat) (ids : List Nat) (x : Op) : isStore (shownBy core ids x) = isStore x := by
  unfold shownBy
  split
  · rename_i hk
    split
    · rw [isStore, isStore, hk]
    · rfl
  · rfl

/-- The stores of an operation's access, and where they go. -/
def batchOf (ops : List Op) (o : Op) : List Op := ops.filter fun x => x.batch == o.batch && !x.elem && isStore x

def accessesOf (l : List Op) : List Acc := l.filterMap fun x =>
  match x.target with
  | some (.mem a, n) => some { p := (0, x.thread), va := x.va, at_ := .mem a, len := n }
  | _ => none

theorem together_eq (s : State) (o : Op) : s.together o =
    if coalesced (accessesOf (batchOf s.fly.ops o)) &&
      decide ((accessesOf (batchOf s.fly.ops o)).length = (batchOf s.fly.ops o).length) &&
      (batchOf s.fly.ops o).any (fun x => x.id == o.id) then batchOf s.fly.ops o else [o] := rfl

theorem batchOf_shown (core : Nat) (ids : List Nat) (ops : List Op) (o : Op) :
    batchOf (ops.map (shownBy core ids)) o = (batchOf ops o).map (shownBy core ids) := by
  rw [batchOf, List.filter_map]
  refine congrArg _ (List.filter_congr fun x _ => ?_)
  obtain ⟨-, hbatch, helem, -⟩ := shownBy_fields core ids x
  rw [Function.comp_apply, hbatch, helem, shownBy_isStore]

theorem accessesOf_shown (core : Nat) (ids : List Nat) (l : List Op) : accessesOf (l.map (shownBy core ids)) = accessesOf l := by
  rw [accessesOf, List.filterMap_map]
  refine List.filterMap_congr fun x _ => ?_
  obtain ⟨-, -, -, hthread, hva, htarget⟩ := shownBy_fields core ids x
  rw [Function.comp_apply, htarget, hthread, hva]

/-- Showing older stores does not change what is performed together. -/
theorem together_shown {s t : State} {o : Op} {core : Nat} {ids : List Nat} (h : s.together o = [o])
    (ho : shownBy core ids o = o) (ht : t.fly.ops = s.fly.ops.map (shownBy core ids)) : t.together o = [o] := by
  have hany : ((batchOf s.fly.ops o).map (shownBy core ids)).any (fun x => x.id == o.id) =
      (batchOf s.fly.ops o).any fun x => x.id == o.id := by
    rw [List.any_map]
    exact congrArg _ (funext fun x => by rw [Function.comp_apply, (shownBy_fields core ids x).1])
  rw [together_eq] at h
  rw [together_eq, ht, batchOf_shown, accessesOf_shown, List.length_map, hany]
  split
  · rename_i hc
    rw [if_pos hc] at h
    rw [h, List.map_singleton, ho]
  · rfl

/-- An operation is not older than itself. -/
theorem not_older_self (s : State) (id : Nat) : ((s.olderOps id).map Op.id).contains id = false := by
  refine Bool.eq_false_iff.mpr fun h => ?_
  obtain ⟨y, hy, he⟩ := List.mem_map.mp (List.contains_iff_mem.mp h)
  have hne := List.mem_takeWhile_imp (show y ∈ s.fly.ops.takeWhile fun o => decide (o.id ≠ id) from hy)
  exact of_decide_eq_true hne he

theorem shownBy_self (s : State) (core : Nat) (o : Op) : shownBy core ((s.olderOps o.id).map Op.id) o = o := by
  unfold shownBy
  split
  · rw [not_older_self, if_neg fun h => Bool.false_ne_true h.2]
  · rfl

/-! Bytes in one line. -/

/-- Where a place starts. -/
def startOf : Place → Nat
  | .mem a => a
  | .spad a => a
  | _ => 0

theorem sortBy_ascending {key : Place × Byte → Nat} {q : Place} (hkey : ∀ i b, key (q.add i, b) = startOf q + i)
    (bs : List Byte) (k : Nat) :
    sortBy key (mapFrom (fun i b => (q.add i, b)) k bs) = mapFrom (fun i b => (q.add i, b)) k bs := by
  induction bs generalizing k with
  | nil => rfl
  | cons b r ih =>
    rw [mapFrom, sortBy, ih]
    cases r with
    | nil => rfl
    | cons c r => rw [mapFrom, insertBy, if_pos (by rw [hkey, hkey]; omega)]

/-- Bytes of one line make one run. -/
theorem runsOf_line {q : Place} {a : Nat} (hq : q = .mem a ∨ q = .spad a) (b : Byte) (bs : List Byte) (k : Nat)
    (h : a % 128 + k + (bs.length + 1) ≤ 128) :
    runsOf (mapFrom (fun i b => (q.add i, b)) k (b :: bs)) = [(q.add k, b :: bs)] := by
  induction bs generalizing b k with
  | nil => rfl
  | cons c r ih =>
    have hlen : a % 128 + (k + 1) + (r.length + 1) ≤ 128 := by
      rw [List.length_cons] at h
      omega
    have hline : ((a + (k + 1)) % 128 != 0) = true := bne_iff_ne.mpr (by omega)
    rw [mapFrom, runsOf, ih c (k + 1) hlen]
    obtain rfl | rfl := hq
    · exact if_pos ⟨rfl, hline⟩
    · exact if_pos ⟨rfl, hline⟩

/-- A store's bytes are written as one run, after the loads that must see what was there before. -/
theorem performStores_one {s : State} {o : Op} {q : Place} {a : Nat} {bs : List Byte} {shown counted : Bool}
    (hk : o.kind = .store q bs shown counted) (hq : q = .mem a ∨ q = .spad a) (hne : bs ≠ []) (hfit : a % 128 + bs.length ≤ 128) :
    s.performStores [o] =
      (((s.readFirst o.core o.id q bs.length).writeAt q bs).storeDone o (s.oldBytes o)).unview o.id := by
  have hkey : ∀ i (b : Byte), (fun (c : Place × Byte) => match c.1 with | .mem a => a | .spad a => a | _ => 0) (q.add i, b) =
      startOf q + i := by
    obtain rfl | rfl := hq
    exacts [fun _ _ => rfl, fun _ _ => rfl]
  have hzero : q.add 0 = q := by
    obtain rfl | rfl := hq
    exacts [rfl, rfl]
  obtain ⟨b, r, rfl⟩ := List.exists_cons_of_ne_nil hne
  have hrun := runsOf_line hq b r 0 (by rw [List.length_cons] at hfit; omega)
  rw [hzero] at hrun
  obtain ⟨old, hold⟩ := exists_eq (a' := State.oldBytes)
  rw [State.performStores, ← hold]
  simp only [List.map_cons, List.map_nil, hk, List.flatten_cons, List.flatten_nil, List.append_nil, List.foldl_cons,
    List.foldl_nil, Op.target]
  rw [sortBy_ascending hkey, hrun]
  rfl

/-- A store that may be performed writes its bytes, in a state with the same memory, threads, contexts and operations. -/
theorem store_performed {s : State} {o : Op} {q : Place} {a : Nat} {bs : List Byte} {shown counted : Bool}
    (ho : s.op o.id = some o) (hk : o.kind = .store q bs shown counted) (hq : q = .mem a ∨ q = .spad a) (hne : bs ≠ [])
    (hfit : a % 128 + bs.length ≤ 128) (hp : s.performable o = true) (ht : s.together o = [o]) :
    ∃ u old, Quiet s u ∧ u.ctxs = s.ctxs ∧ u.fly.ops.map Op.id = s.fly.ops.map Op.id ∧
      exec (.storePerformed o.id) s = .next (((u.writeAt q bs).storeDone o old).unview o.id) := by
  obtain ⟨ps, hps⟩ := served_eq s o
  have hops : ((s.served o).showOlder o).fly.ops = s.fly.ops.map (shownBy o.core ((s.olderOps o.id).map Op.id)) := by
    rw [hps]
    rfl
  have htog : ((s.served o).showOlder o).together o = [o] := together_shown ht (shownBy_self s o.core o) hops
  refine ⟨((s.served o).showOlder o).readFirst o.core o.id q bs.length, ((s.served o).showOlder o).oldBytes o, ?_, ?_, ?_, ?_⟩
  · exact ((served_quiet s o).trans (showOlder_quiet ..)).trans (sampleLoads_sampled ..).quiet
  · rw [State.readFirst, sampleLoads_ctxs, showOlder_eq, hps]
    rfl
  · rw [State.readFirst, sampleLoads_ids, hops, List.map_map]
    exact List.map_congr_left fun x _ => (shownBy_fields _ _ x).1
  · rw [exec_storePerformed, execStorePerformed, ho]
    dsimp only
    rw [hp, Op.target, hk]
    dsimp only
    rw [Option.isSome_some, Bool.and_self, if_pos rfl, State.perform, hk]
    dsimp only
    rw [htog, performStores_one hk hq hne hfit]

theorem NoDebug.watched {s : State} (h : NoDebug s) (k : Nat) (pc : Dword) (va : Nat) (old new : List Byte) :
    s.watched k pc va old new = s := by
  unfold State.watched
  dsimp only
  rw [h.ctxOf]

/-- Noting a write to device memory changes visitor lines, tokens and shadow records only. -/
theorem noteStore_eq {s : State} (hd : NoDebug s) (o : Op) (a : Nat) (bs old : List Byte) : ∃ vs sh hs,
    (((s.patchVisitor o.core a bs).watched o.thread o.pc o.va old bs).shadowWrite (s.teamOf o.thread) o.va a).noteToken
      o.core (a / 128) = s.updSto fun m => { m with visitors := vs, shadow := sh, held := hs } := by
  have hp : NoDebug (s.patchVisitor o.core a bs) := hd
  rw [hp.watched]
  obtain ⟨vs, hv⟩ : ∃ vs, s.patchVisitor o.core a bs = s.updSto fun m => { m with visitors := vs } := ⟨_, rfl⟩
  rw [hv]
  obtain ⟨sh, hs⟩ : ∃ sh, (s.updSto fun m => { m with visitors := vs }).shadowWrite (s.teamOf o.thread) o.va a =
      s.updSto fun m => { m with visitors := vs, shadow := sh } := by
    unfold State.shadowWrite
    dsimp only
    split
    exacts [⟨_, rfl⟩, ⟨s.sto.shadow, rfl⟩]
  rw [hs]
  unfold State.noteToken
  split
  exacts [⟨vs, sh, _, rfl⟩, ⟨vs, sh, s.sto.held, rfl⟩]

/-- A store that has been written leaves the list, or waits for its completion where it is counted. -/
theorem storeDone_quiet {s : State} {o : Op} {q : Place} {bs : List Byte} {shown counted : Bool}
    (hk : o.kind = .store q bs shown counted) (hd : NoDebug s) (old : List Byte) : Quiet s (s.storeDone o old) ∧
      (s.storeDone o old).fly.ops = if counted then (s.setOp o.id (.done .st none)).fly.ops
        else s.fly.ops.filter fun x => x.id ≠ o.id := by
  obtain ⟨vs, sh, hs, h⟩ : ∃ vs sh hs, s.storeDone o old =
      if counted then (s.updSto fun m => { m with visitors := vs, shadow := sh, held := hs }).setOp o.id (.done .st none)
      else (s.updSto fun m => { m with visitors := vs, shadow := sh, held := hs }).dropOp o := by
    unfold State.storeDone
    rw [hk]
    cases q with
    | mem a =>
      obtain ⟨vs, sh, hs, h⟩ := noteStore_eq hd o a bs old
      exact ⟨vs, sh, hs, by rw [← h]⟩
    | _ => exact ⟨s.sto.visitors, s.sto.shadow, s.sto.held, rfl⟩
  rw [h]
  cases counted with
  | true => exact ⟨⟨rfl, rfl, rfl, rfl, rfl, rfl, rfl⟩, rfl⟩
  | false =>
    have hq : NoDebug (s.updSto fun m => { m with visitors := vs, shadow := sh, held := hs }) := hd
    obtain ⟨cs, hcs⟩ := hq.dropOp o
    rw [if_neg Bool.false_ne_true, if_neg Bool.false_ne_true, hcs]
    exact ⟨⟨rfl, rfl, rfl, rfl, rfl, rfl, rfl⟩, rfl⟩

/-- What an operation is once a store is no longer among those that loads see. -/
def unviewBy (id : Nat) (x : Op) : Op :=
  match x.kind with
  | .load d w q n e c sc sp view => { x with kind := .load d w q n e c sc sp (view.filter (· ≠ id)) }
  | .wait d w a n e view => { x with kind := .wait d w a n e (view.filter (· ≠ id)) }
  | _ => x

theorem unview_eq (s : State) (id : Nat) : s.unview id = s.updFly fun f => { f with ops := f.ops.map (unviewBy id) } := rfl

theorem unview_quiet (s : State) (id : Nat) : Quiet s (s.unview id) := unview_eq s id ▸ Quiet.updFly ..

theorem unviewBy_id (id : Nat) (x : Op) : (unviewBy id x).id = x.id := by
  unfold unviewBy
  split <;> rfl

theorem unviewBy_of_done {x : Op} {c : Ctr} {err : Option Failure} (h : x.kind = .done c err) (id : Nat) : unviewBy id x = x := by
  rw [unviewBy, h]

/-- What a store leaves among the operations once it has been written. -/
theorem store_leaves {s : State} {o : Op} {q : Place} {bs : List Byte} {shown counted : Bool}
    (hk : o.kind = .store q bs shown counted) (hd : NoDebug s) (old : List Byte) (hmem : o.id ∈ s.fly.ops.map Op.id) :
    Quiet s ((s.storeDone o old).unview o.id) ∧
    (counted = true → ∃ y ∈ ((s.storeDone o old).unview o.id).fly.ops, y.id = o.id ∧ y.kind = .done .st none) ∧
    (counted = false → ∀ y ∈ ((s.storeDone o old).unview o.id).fly.ops, y.id ≠ o.id) := by
  obtain ⟨hquiet, hops⟩ := storeDone_quiet hk hd old
  have hun : ((s.storeDone o old).unview o.id).fly.ops = (s.storeDone o old).fly.ops.map (unviewBy o.id) := rfl
  refine ⟨hquiet.trans (unview_quiet ..), fun hc => ?_, fun hc y hy => ?_⟩
  · obtain ⟨x, hx, hid⟩ := List.mem_map.mp hmem
    have hin : { x with kind := .done .st none } ∈ (s.storeDone o old).fly.ops := by
      rw [hops, if_pos hc]
      exact List.mem_map.mpr ⟨x, hx, if_pos hid⟩
    exact ⟨{ x with kind := .done .st none }, hun ▸ List.mem_map.mpr ⟨_, hin, unviewBy_of_done rfl o.id⟩, hid, rfl⟩
  · rw [hun, hops, hc, if_neg Bool.false_ne_true] at hy
    obtain ⟨x, hx, rfl⟩ := List.mem_map.mp hy
    rw [unviewBy_id]
    exact of_decide_eq_true (List.mem_filter.mp hx).2

theorem look_filter_none {α : Type} {l : List (Nat × α)} {p : Nat → Bool} {k : Nat} (h : p k = false) :
    look (l.filter fun x => p x.1) k = none := by
  induction l with
  | nil => rfl
  | cons x r ih =>
    rw [List.filter_cons]
    split
    · rename_i hx
      rw [look, if_neg fun he => by rw [he, h] at hx; exact Bool.false_ne_true hx, ih]
    · exact ih

theorem look_filter {α : Type} {l : List (Nat × α)} {p : Nat → Bool} {k : Nat} (h : p k = true) :
    look (l.filter fun x => p x.1) k = look l k := by
  induction l with
  | nil => rfl
  | cons x r ih =>
    rw [List.filter_cons, look]
    split
    · rw [look, ih]
    · rename_i hx
      rw [if_neg fun he => hx (by rw [he, h]), ih]

/-- What is read once bytes have been written: those bytes in their range, and what was there before outside it. -/
theorem memByte_written {s t : State} {pa : Nat} {bs : List Byte} (hi : cellsWf s.sto.mem = true) (hf : t.fresh = s.fresh)
    (hm : t.sto.mem = writeCells s.sto.mem pa bs)
    (hdead : t.sto.dead = s.sto.dead.filter fun x => decide (x.1 < pa) || decide (pa + bs.length ≤ x.1)) :
    (∀ i < bs.length, t.memByte (pa + i) = (bs[i]?).getD 0) ∧
    ∀ a, a < pa ∨ pa + bs.length ≤ a → t.memByte a = s.memByte a := by
  refine ⟨fun i hlt => ?_, fun a ha => ?_⟩
  · have hin : (decide (pa + i < pa) || decide (pa + bs.length ≤ pa + i)) = false := by simp [hlt]
    have hl : look t.sto.dead (pa + i) = none := hdead ▸ look_filter_none (p := fun a => decide (a < pa) || decide (pa + bs.length ≤ a)) hin
    rw [State.memByte, hl, hm, cellGet_writeCells_same hi pa bs hlt, List.getElem?_eq_getElem hlt, Option.getD_some]
  · have hout : (decide (a < pa) || decide (pa + bs.length ≤ a)) = true := by simpa using ha
    have hl : look t.sto.dead a = look s.sto.dead a :=
      hdead ▸ look_filter (p := fun a => decide (a < pa) || decide (pa + bs.length ≤ a)) hout
    rw [State.memByte, State.memByte, hl, hm, cellGet_writeCells_other _ _ _ ha, State.pick, State.pick, hf]

/-- A store to device memory is performed. -/
theorem memStore_performed {s : State} {o : Op} {pa : Nat} {bs : List Byte} {shown counted : Bool} (ho : s.op o.id = some o)
    (hk : o.kind = .store (.mem pa) bs shown counted) (hp : s.performable o = true) (ht : s.together o = [o]) (hne : bs ≠ [])
    (hfit : pa % 128 + bs.length ≤ 128) (hcap : pa + bs.length ≤ s.capacity) (hi : MemoryInv s)
    (hc : ∀ c ∈ s.ctxs, c.dump = none ∧ c.debug = none) :
    ∃ t, exec (.storePerformed o.id) s = .next t ∧
      (∀ i < bs.length, t.memByte (pa + i) = (bs[i]?).getD 0) ∧
      (∀ a, a < pa ∨ pa + bs.length ≤ a → t.memByte a = s.memByte a) ∧ t.sto.spad = s.sto.spad ∧ t.sto.ws = s.sto.ws ∧
      t.threads = s.threads ∧ (counted = true → ∃ y ∈ t.fly.ops, y.id = o.id ∧ y.kind = .done .st none) ∧
      (counted = false → ∀ y ∈ t.fly.ops, y.id ≠ o.id) := by
  obtain ⟨u, old, hu, hctxs, hids, hexec⟩ := store_performed ho hk (.inl rfl) hne hfit hp ht
  have hmem : o.id ∈ (u.writePhys pa bs).fly.ops.map Op.id := by
    rw [(writePhys_kept u pa bs).ops, hids]
    exact List.mem_map_of_mem (op_some ho).2
  have hnd : NoDump u := fun c hc' => (hc c (hctxs ▸ hc')).1
  obtain ⟨sto, fly, slices, hw, hsto⟩ := hnd.writePhys pa bs
  have hst := hsto (by rw [hu.capacity]; exact hcap)
  have hd : NoDebug (u.writePhys pa bs) := by
    rw [hw]
    exact fun c hc' => (hc c (hctxs ▸ hc')).2
  obtain ⟨hq, hcounted, huncounted⟩ := store_leaves hk hd old hmem
  have hwrite : u.writeAt (.mem pa) bs = u.writePhys pa bs := rfl
  rw [hwrite] at hexec
  have hwf : cellsWf u.sto.mem = true := hu.mem ▸ (wf_parts hi).1
  have hwmem : (u.writePhys pa bs).sto.mem = writeCells u.sto.mem pa bs := by
    rw [hw, hst]
    rfl
  have hwdead : (u.writePhys pa bs).sto.dead =
      u.sto.dead.filter fun x => decide (x.1 < pa) || decide (pa + bs.length ≤ x.1) := by
    rw [hw, hst]
    rfl
  have hwrest : (u.writePhys pa bs).fresh = u.fresh ∧ (u.writePhys pa bs).sto.spad = u.sto.spad ∧
      (u.writePhys pa bs).sto.ws = u.sto.ws ∧ (u.writePhys pa bs).threads = u.threads := by
    rw [hw, hst]
    exact ⟨rfl, rfl, rfl, rfl⟩
  obtain ⟨hfresh, hspad, hws, hthreads⟩ := hwrest
  obtain ⟨hin, hout⟩ := memByte_written (t := ((u.writePhys pa bs).storeDone o old).unview o.id) hwf (hq.fresh.trans hfresh)
    (hq.mem.trans hwmem) (hq.dead.trans hwdead)
  exact ⟨_, hexec, hin, fun a ha => (hout a ha).trans (hu.memory a).1, (hq.spad.trans hspad).trans hu.spad,
    (hq.ws.trans hws).trans hu.ws, (hq.threads.trans hthreads).trans hu.threads, hcounted, huncounted⟩

/-- A store to the share is performed. -/
theorem spadStore_performed {s : State} {o : Op} {a : Nat} {bs : List Byte} {shown counted : Bool} (ho : s.op o.id = some o)
    (hk : o.kind = .store (.spad a) bs shown counted) (hp : s.performable o = true) (ht : s.together o = [o]) (hne : bs ≠ [])
    (hfit : a % 128 + bs.length ≤ 128) (hi : MemoryInv s) (hc : NoDebug s) :
    ∃ t, exec (.storePerformed o.id) s = .next t ∧
      (∀ i < bs.length, cellGet t.sto.spad (a + i) = (bs[i]?).getD 0) ∧
      (∀ k, k < a ∨ a + bs.length ≤ k → cellGet t.sto.spad k = cellGet s.sto.spad k) ∧ t.sto.mem = s.sto.mem := by
  obtain ⟨u, old, hu, hctxs, -, hexec⟩ := store_performed ho hk (.inr rfl) hne hfit hp ht
  have hd : NoDebug (u.writeSpad a bs) := fun c hc' => hc c (hctxs ▸ hc')
  have hq := (storeDone_quiet hk hd old).1.trans (unview_quiet _ o.id)
  have hwf : cellsWf u.sto.spad = true := hu.spad ▸ (wf_parts hi).2.1
  refine ⟨_, hexec, fun i hlt => ?_, fun k hk' => ?_, hq.mem.trans hu.mem⟩
  · exact (congrArg (cellGet · (a + i)) hq.spad).trans (cellGet_writeSpad hwf a bs hlt)
  · refine (congrArg (cellGet · k) (hq.spad.trans (spad_writeSpad u a bs))).trans ?_
    rw [cellGet_writeCells_other _ _ _ hk', hu.spad]

/-! Completions (R180, R181, R222). -/

/-- A stamp follows once all writes of an operation have been answered. -/
theorem parts_complete {s : State} {o : Op} {err : Option Failure} {c : Ctr} {a q : Nat} (ho : s.op o.id = some o)
    (hk : o.kind = .parts [] err c (some (a, q))) (hj : ∀ j ∈ s.fly.jobs, j.id ≠ o.id) (hm : ∀ m ∈ s.fly.mops, m.id ≠ o.id)
    (hi : MemoryInv s) :
    ∃ t, exec (.countedOpComplete o.id) s = .next t ∧
      (∀ i < 8, cellGet t.sto.spad (a + i) = ((stampBytes (if err.isSome then 1 else 0) q)[i]?).getD 0) ∧
      (∀ k, k < a ∨ a + 8 ≤ k → cellGet t.sto.spad k = cellGet s.sto.spad k) ∧
      ∃ y ∈ t.fly.ops, y.id = o.id ∧ y.kind = .done c err := by
  have hlen : (stampBytes (if err.isSome then 1 else 0) q).length = 8 := valBytes_length ..
  have hjobs : s.fly.jobs.any (fun j => j.id == o.id) = false := List.any_eq_false.mpr fun j h he => hj j h (beq_iff_eq.mp he)
  have hmops : s.fly.mops.any (fun m => m.id == o.id) = false := List.any_eq_false.mpr fun m h he => hm m h (beq_iff_eq.mp he)
  have hexec : exec (.countedOpComplete o.id) s =
      .next ((s.writeSpad a (stampBytes (if err.isSome then 1 else 0) q)).setOp o.id (.done c err)) := by
    rw [exec_countedOpComplete, execCountedOpComplete, ho]
    dsimp only
    rw [hk]
    dsimp only
    rw [State.partsDone, hk]
    dsimp only
    rw [hjobs, hmops, Bool.or_self, if_neg Bool.false_ne_true]
    rfl
  refine ⟨_, hexec, fun i hlt => ?_, fun k hk' => ?_, ?_⟩
  · exact cellGet_writeSpad (wf_parts hi).2.1 a _ (by rwa [hlen])
  · exact (congrArg (cellGet · k) (spad_writeSpad s a _)).trans (cellGet_writeCells_other _ _ _ (by rwa [hlen]))
  · exact ⟨{ o with kind := .done c err }, List.mem_map.mpr ⟨o, (op_some ho).2, if_pos rfl⟩, rfl, rfl⟩

/-- A counted operation completes: its counter falls, and an error stays with the thread. -/
theorem done_completes {s : State} {o : Op} {c : Ctr} {err : Option Failure} (ho : s.op o.id = some o) (hk : o.kind = .done c err) :
    let t := ((s.updThr o.thread fun x => x.decCtr c o.id).dropOp o).updSto fun m => { m with
      visitors := m.visitors.filter fun v => !(v.core == (s.thr o.thread).core && o.lines.contains v.line) }
    (err = none → exec (.countedOpComplete o.id) s = .next t) ∧
    (∀ f, err = some f → exec (.countedOpComplete o.id) s = .next
      (if (t.thr o.thread).life = .exited then t.lostError o.thread ⟨c, f, o.id⟩
      else t.updThr o.thread fun x => { x with held := x.held ++ [⟨c, f, o.id⟩] })) := by
  intro t
  have hheld : ∀ h : HeldError, t.holdError o.thread h =
      if (t.thr o.thread).life = .exited then t.lostError o.thread h
      else t.updThr o.thread fun x => { x with held := x.held ++ [h] } := fun h => by
    unfold State.holdError
    cases (t.thr o.thread).life <;> rfl
  rw [exec_countedOpComplete, execCountedOpComplete, ho]
  cases err with
  | none =>
    refine ⟨fun _ => ?_, nofun⟩
    dsimp only
    rw [hk]
  | some f =>
    refine ⟨nofun, fun f' h => ?_⟩
    obtain rfl := Option.some.inj h
    rw [← hheld]
    dsimp only
    rw [hk]

/-- Settles O40: what an operation brings lands in the registers that still wait for it; a load is performed before it lands, and a
store writes its bytes before it completes. -/
theorem accessesLandAndComplete : Obligations.AccessesLandAndComplete := by
  unfold Obligations.AccessesLandAndComplete
  intro s id o ho hone
  obtain ⟨rfl, -⟩ := op_some ho
  refine ⟨fun dst words val ctr hk hp => ⟨?_, fun n xs => ⟨landRegs_length .., fun i hi => ?_⟩⟩, ?_, ?_, ?_, ?_, ?_⟩
  · rw [fill_lands ho hone hk hp]
    cases val <;> cases ctr <;> rfl
  · exact reg_landRegs (thread_of_reg hi) o.id n xs i hi
  · intro d words q n sext sc view bs hk hw hload hp hh hd hb
    obtain ⟨t, hexec, hmem, hops, hthr⟩ := load_lands ho hk hload hp hh hd hb
    refine ⟨t, hexec, hmem, hops, fun i hi hlen hreg => ?_⟩
    obtain ⟨hcount, hget⟩ := fillRegs_ok hw (extendBytes sext bs)
    rw [hthr, reg_landRegs (thread_of_reg hlen) o.id d _ (d + i) hlen, if_pos ⟨by omega, by omega, hreg⟩, Nat.add_sub_cancel_left,
      hget i hi, Option.getD_some]
  · exact fun pa bs shown counted hk hp ht hne hfit hcap hi hc => memStore_performed ho hk hp ht hne hfit hcap hi hc
  · exact fun a bs shown counted hk hp ht hne hfit hi hc => spadStore_performed ho hk hp ht hne hfit hi hc
  · exact fun c err hk => done_completes ho hk
  · exact fun err c a q hk hj hm hi => parts_complete ho hk hj hm hi

end Sys2Proof.Proofs
end
